-- ==== Sys2Proof/Word.lean ====
section
/-! DEFINITION. The word types of the package: bytes, 64-bit registers and bit fields of words. -/

namespace Sys2Proof

/-- A byte of memory, of a flit or of a dictionary value. -/
abbrev Byte := BitVec 8

/-- A 64-bit register of the control space (every register table of the manual is 64 bits wide). -/
abbrev Word := BitVec 64

end Sys2Proof
end

