-- ==== Sys2Proof/Syntax.lean ====
section
/-! DEFINITION. The commands of the package: one constructor per row of the table of operations and events, with its operands. -/

namespace Sys2Proof

/-- Who makes an access to the control space (R39), coded as `OWNER` of R259: the control node over the control lane, RC-A, RC-B,
the signal box. -/
inductive Party
  | node | rcA | rcB | signalBox
  deriving DecidableEq, Repr

/-- A flit as it arrives on a Dwente lane: its 64 bytes, byte 0 in the lowest bits (R190), and whether it is the first flit of a
codeword that decoded with corrections (R189). -/
structure FlitIn where
  bits      : BitVec 512
  corrected : Bool
  deriving DecidableEq, Repr

/-- A packet (R307): its two header words, its mask extension, and its payload bytes, in whole units of 16 bytes. -/
structure Pkt where
  w0      : BitVec 64
  w1      : BitVec 64
  ext     : BitVec 128
  payload : List (BitVec 8)
  deriving DecidableEq, Repr

/-- Codewords that a lane of a port receives one after another while it hunts for lock (R279). -/
structure LaneWords where
  lane  : Fin 4
  words : List (BitVec 5440)
  deriving DecidableEq, Repr

/-- A codeword as it arrives on a Dwente lane (R189), or on a lane of a fabric or coupling port (R279). -/
structure LaneWord where
  lane : Sum (Fin 2) (Fin 18 × Fin 4)
  word : BitVec 5440
  deriving DecidableEq, Repr

/-- A link frame as it arrives on a port (R280): its link word, bytes 8-11, whether its CRC is good, whether its codeword decoded with
corrections, and the lane it came on (R279). -/
structure FrameIn where
  word      : BitVec 64
  resv      : BitVec 32
  crcOk     : Bool
  corrected : Bool
  lane      : Fin 4
  deriving DecidableEq, Repr

/-- The fields of an `IDENT` or `IDENT_ACK` message (R286). -/
structure IdentMsg where
  role   : BitVec 8
  dest   : BitVec 16
  port   : BitVec 8
  mask   : BitVec 8
  vmin   : BitVec 16
  vmax   : BitVec 16
  serial : BitVec 64
  chosen : BitVec 16
  deriving DecidableEq, Repr

/-- Why a port goes DOWN (R292), other than a register write: a DOWN message with its cause, or every lane lost. -/
inductive PortLoss
  | message (f : FrameIn) (cause : BitVec 8)
  | lanes
  deriving DecidableEq, Repr

/-- What the governor measures at a tick of 10 µs (R365, R372, R385) and the draw of the present work (R383): input power in W, input
voltage in 10 mV, blade currents in 10 mA; the draw of the fixed rails, and of the present work of each die with its wayside engines at
its ceiling or coasting setpoint, in W; power of each core rail and capacity of its idle tiles for ballast in W. -/
structure GovIn where
  tickW  : BitVec 16
  vin    : BitVec 16
  ia     : BitVec 16
  ib     : BitVec 16
  rails  : BitVec 16
  work   : Vector (BitVec 16) 4
  dieW   : Vector (BitVec 16) 4
  cap    : Vector (BitVec 16) 4
  deriving DecidableEq, Repr

/-- `demand()` of R383 in W. -/
def GovIn.demand (x : GovIn) : Nat := x.rails.toNat + (x.work.toList.map (·.toNat)).foldl (· + ·) 0

/-- What S0 reads from the identity and test fuses (R456, R461, R462): package serial, EUI-48 (R481), minimum key revisions (0x6030:03),
MIPI manufacturer ID (R495), physical tiles and DRAM dies marked bad. -/
structure Fuses where
  serial    : BitVec 64
  mac       : BitVec 48
  minKeyRev : BitVec 32
  vendor    : BitVec 15
  badTiles  : BitVec 192
  badDies   : Vector (BitVec 16) 8
  deriving DecidableEq, Repr

/-- What the work of a bring-up stage finds (R456): S0 the fuse parity, the fuses and the LINE slots that fail their check; S2 the
modules in service of each pair; S3 the base-die checkers and the dies that fail the die test of each device; S4 the tiles that fail
their test and whether the other units pass; S7 the milliseconds since the start of the run. -/
inductive StageIn
  | s0 (parityOk : Bool) (fuses : Fuses) (bad : BitVec 2)
  | s1
  | s2 (modules : Vector (BitVec 4) 6)
  | s3 (checkersOk : Bool) (dieFail : Vector (BitVec 16) 8)
  | s4 (tileFail : BitVec 192) (unitsOk : Bool)
  | s5
  | s6
  | s7 (ms : BitVec 32)
  deriving DecidableEq, Repr

/-- A dictionary message as it arrives (R483): a UDP payload on the field port with its source address, the port it is sent to and whether
its checksum is good (R482), or a flit of an `OD_REQ` on the control lane. -/
inductive OdMsg
  | port (src : BitVec 128) (dport : BitVec 16) (sumOk : Bool) (bytes : List (BitVec 8))
  | lane (f : FlitIn)
  deriving DecidableEq, Repr

/-- What a request meets: the signal box is still at work on an earlier one when it arrives (R485), the flash commit fails when it is served
(R490), and what the check after a software clear in the safe state finds (R429), 0 nothing. -/
structure OdEnv where
  busy       : Bool
  flashFails : Bool
  recheck    : Fin 4
  deriving DecidableEq, Repr

/-- A command: one step of the part (R24 and the rules its row names). -/
inductive Instr
  /-- `DISPATCH_ARRIVE` (R93). A dispatch from the runtime controller reaches a physical tile and is judged against its SEQ. -/
  | dispatchArrive (p : Fin 192) (seq entry : BitVec 32) (a1 a2 a3 : BitVec 64)
  /-- `NOP` (R98). The CTRL operation that does nothing. -/
  | nop (p : Fin 192)
  /-- `HALT` (R98). The tile starts waiting as FENCE before going IDLE. -/
  | halt (p : Fin 192)
  /-- `HALT_DONE` (R98). Every earlier work of the halting tile has completed; the tile goes IDLE and reports completion. -/
  | haltDone (p : Fin 192)
  /-- `JMP` (R98). Unconditional branch by a signed offset. -/
  | jmp (p : Fin 192)
  /-- `BNZ` (R98). Branch if a scalar register is nonzero. -/
  | bnz (p : Fin 192)
  /-- `BZ` (R98). Branch if a scalar register is zero. -/
  | bz (p : Fin 192)
  /-- `GSET` (R98). Sets a scalar register to the immediate. -/
  | gset (p : Fin 192)
  /-- `GADD` (R98). Adds the immediate to a scalar register into another. -/
  | gadd (p : Fin 192)
  /-- `FENCE` (R96). The sequencer starts waiting until every earlier instruction, DMA and collective has completed. -/
  | fence (p : Fin 192)
  /-- `FENCE_WAIT_END` (R96). The awaited work completes, or a halted engine or aborted collective ends the FENCE with a trap. -/
  | fenceWaitEnd (p : Fin 192)
  /-- `BERTH_SUB` (R92). Derives a narrowed sub-berth from a source berth. -/
  | berthSub (p : Fin 192)
  /-- `BERTH_CPY` (R92). Copies one berth register to another. -/
  | berthCpy (p : Fin 192)
  /-- `BERTH_CLR` (R92). Sets a berth register to the null berth. -/
  | berthClr (p : Fin 192)
  /-- `MMA` (R99). Computes or continues one 16 x 16 output block over a K range, writing it when WRITE is set. -/
  | mma (p : Fin 192)
  /-- `MMA_CFG` (R103). Sets anchor mode, fixed anchor, alpha and stream of one accumulator set. -/
  | mmaCfg (p : Fin 192)
  /-- `VADD` (R105). Elementwise binary32 addition. -/
  | vadd (p : Fin 192)
  /-- `VSUB` (R105). Elementwise binary32 subtraction. -/
  | vsub (p : Fin 192)
  /-- `VMUL` (R105). Elementwise binary32 multiplication. -/
  | vmul (p : Fin 192)
  /-- `VFMA` (R105). Elementwise fused multiply-add. -/
  | vfma (p : Fin 192)
  /-- `VMAX` (R105). Elementwise maximum. -/
  | vmax (p : Fin 192)
  /-- `VMIN` (R105). Elementwise minimum. -/
  | vmin (p : Fin 192)
  /-- `VCVT` (R105). Converts elements from the source format to the destination format. -/
  | vcvt (p : Fin 192)
  /-- `VRCP` (R105). Correctly rounded reciprocal. -/
  | vrcp (p : Fin 192)
  /-- `VSQRT` (R105). Correctly rounded square root. -/
  | vsqrt (p : Fin 192)
  /-- `VRSQ` (R105). Correctly rounded reciprocal square root. -/
  | vrsq (p : Fin 192)
  /-- `VEXP2` (R105). Correctly rounded exp2. -/
  | vexp2 (p : Fin 192)
  /-- `VLOG2` (R105). Correctly rounded log2. -/
  | vlog2 (p : Fin 192)
  /-- `VRED` (R105). Reduces a berth by sum, max or min in chunk-and-tree order to one element. -/
  | vred (p : Fin 192)
  /-- `XADD` (R105). Elementwise XP160 addition of two or three operands. -/
  | xadd (p : Fin 192)
  /-- `VSEL` (R105). Selects elements from two berths by a selector berth. -/
  | vsel (p : Fin 192)
  /-- `VMOV` (R105). Copies elements without conversion. -/
  | vmov (p : Fin 192)
  /-- `DMA_COPY` (R106). Queues a byte transfer between two berths on a DMA engine. -/
  | dmaCopy (p : Fin 192)
  /-- `DMA_COPY2` (R106). Queues a row-by-row transfer between two berths on a DMA engine. -/
  | dmaCopy2 (p : Fin 192)
  /-- `DMA_TRANSFER_START` (R107). A DMA engine starts its next queued transfer once the previous one has completed. -/
  | dmaTransferStart (p : Fin 192) (e : Fin 2)
  /-- `DMA_TRANSFER_DONE` (R107). Every byte of a transfer is written and acknowledged; the done counter is incremented. -/
  | dmaTransferDone (p : Fin 192) (e : Fin 2)
  /-- `DMA_HALT` (R172). A transfer ends on an uncorrectable byte or failed remote request; the engine halts, discards its queue and breaks its done counters. -/
  | dmaHalt (p : Fin 192) (e : Fin 2)
  /-- `CTR_ADD` (R108). Adds a value to a trigger counter indivisibly. -/
  | ctrAdd (p : Fin 192)
  /-- `CTR_WAIT` (R108). Holds the sequencer until a trigger counter reaches a value. -/
  | ctrWait (p : Fin 192)
  /-- `CTR_WAIT_RELEASE` (R108). The awaited counter reaches its value, or becomes broken or aborted and the wait traps. -/
  | ctrWaitRelease (p : Fin 192)
  /-- `CTR_SET` (R108). Sets a trigger counter and clears its broken and aborted marks. -/
  | ctrSet (p : Fin 192)
  /-- `COLL_START` (R108). Launches the consist in BC as a collective on the die's marshalling engine. -/
  | collStart (p : Fin 192)
  /-- `MMA_RS` (R112). Fused matrix product followed by the consist's reduce-scatter. -/
  | mmaRs (p : Fin 192)
  /-- `MMA_AG` (R112). Fused all-gather of B followed by the matrix product. -/
  | mmaAg (p : Fin 192)
  /-- `MMA_A2A` (R112). Fused matrix product whose row slices are exchanged all-to-all. -/
  | mmaA2a (p : Fin 192)
  /-- `WE_POST_GO` (R137). A write of GO checks the descriptor in WE_POST and queues or lists it, setting RESULT. -/
  | wePostGo (n : Fin 8) (src : Party)
  /-- `WE_CLEAR` (R151). A write of CLEAR cancels running and queued descriptors and leaves HALTED. -/
  | weClear (n : Fin 8) (src : Party)
  /-- `GATHER` (R133). A wayside engine starts copying indexed table rows into an output berth. -/
  | gather (n : Fin 8)
  /-- `EMBED_BAG` (R133). A wayside engine starts summing or maxing gathered rows per bag. -/
  | embedBag (n : Fin 8)
  /-- `SCATTER_ADD` (R134). A wayside engine starts adding update rows into indexed target rows in order. -/
  | scatterAdd (n : Fin 8)
  /-- `ELEMWISE` (R132). A wayside engine starts an elementwise operation. -/
  | elemwise (n : Fin 8)
  /-- `REDUCE` (R133). A wayside engine starts a per-row reduction. -/
  | reduce (n : Fin 8)
  /-- `ATTN_DECODE` (R135). A wayside engine starts decode attention over a KV cache. -/
  | attnDecode (n : Fin 8)
  /-- `QUANT_MX` (R136). A wayside engine starts MX quantization of 32-element blocks. -/
  | quantMx (n : Fin 8)
  /-- `DEQUANT_MX` (R136). A wayside engine starts MX dequantization. -/
  | dequantMx (n : Fin 8)
  /-- `TOPK` (R133). A wayside engine starts selecting the k best values per row. -/
  | topk (n : Fin 8)
  /-- `COMPACT` (R133). A wayside engine starts keeping masked elements in index order. -/
  | compact (n : Fin 8)
  /-- `WE_DESC_DONE` (R139). A wayside descriptor completes; DONE_COUNT and TRIG_OUT are incremented. -/
  | weDescDone (n : Fin 8)
  /-- `WE_ERROR` (R150). An error stops a running descriptor; the engine captures it, enters HALTED and reports. -/
  | weError (n : Fin 8)
  /-- `EPOCH_APPLY` (R146). A global commit reaches the engine; after the running descriptor completes it starts applying the epoch's commit actions. -/
  | epochApply (n : Fin 8)
  /-- `OPT_SGDM` (R145). A commit action runs the SGD-momentum update over its elements. -/
  | optSgdm (n : Fin 8)
  /-- `OPT_ADAMW` (R145). A commit action runs the AdamW update over its elements. -/
  | optAdamw (n : Fin 8)
  /-- `APPLIED` (R146). The last action of an apply is done; the list clears and applied(e) is reported. -/
  | applied (n : Fin 8)
  /-- `BURST_CRC_FAIL` (R159). A GDDR7 burst fails its CRC and is resent, retiring the channel after eight attempts. -/
  | burstCrcFail (n : Fin 8) (ch : Fin 4) (first : Bool)
  /-- `ECC_BUCKET_DRAIN` (R170). At each whole second of RTIME every correctable-error bucket drains. -/
  | eccBucketDrain
  /-- `SCRUB_GO` (R177). A write of GO starts a scrub of the programmed range or is refused. -/
  | scrubGo (n : Fin 8) (src : Party) (v : BitVec 64)
  /-- `SCRUB_STOP` (R176). A write of STOP stops a running scrub at the next group. -/
  | scrubStop (n : Fin 8) (src : Party)
  /-- `SCRUB_GROUP` (R178). The scrubber reads, decodes and writes back one group indivisibly. -/
  | scrubGroup (n : Fin 8)
  /-- `SCRUB_DONE` (R179). A scrub ends done or stopped and sends a scrub-complete event. -/
  | scrubDone (n : Fin 8)
  /-- `REFRESH` (R182). The refresh timer expires and rows are refreshed at the 32 ms or 16 ms interval. -/
  | refresh (n : Fin 8)
  /-- `DW_LOCK` (R189). A Dwente receiver gains codeword lock after eight good codewords. -/
  | dwLock (l : Fin 2) (cws : List (BitVec 5440))
  /-- `DW_LOCK_LOST` (R189). A Dwente receiver loses lock or light and the lane goes down. -/
  | dwLockLost (l : Fin 2) (dark : Bool)
  /-- `IDLE` (R192). An IDLE flit arrives carrying ACKSEQ and credits. -/
  | idle (l : Fin 2) (f : FlitIn)
  /-- `CSR_RD` (R197). A CSR read arrives on the control lane and is answered with CSR_RSP. -/
  | csrRd (f : FlitIn)
  /-- `CSR_WR` (R199). A CSR write arrives on the control lane, is carried out and answered. -/
  | csrWr (f : FlitIn)
  /-- `MBX` (R197). An MBX flit pushes its words into a mailbox inbound queue. -/
  | mbx (f : FlitIn)
  /-- `DOORBELL` (R197). A DOORBELL flit writes a ring's write index. -/
  | doorbell (f : FlitIn)
  /-- `RW_READ` (R200). A result-window read is answered from one committed state. -/
  | rwRead (f : FlitIn)
  /-- `LINK_INIT` (R208). An INIT flit arrives; the lane resumes or takes a fresh start. -/
  | linkInit (l : Fin 2) (f : FlitIn)
  /-- `LINK_INIT_ACK` (R208). An INIT_ACK arrives and the lane may become UP or HELD. -/
  | linkInitAck (l : Fin 2) (f : FlitIn)
  /-- `INIT_REPEAT` (R208). Every 10 us without INIT_ACK the N8 sends INIT again. -/
  | initRepeat (l : Fin 2)
  /-- `LINK_RETRY` (R193). A RETRY flit arrives and the sender resends from the named FSEQ. -/
  | linkRetry (l : Fin 2) (f : FlitIn)
  /-- `LINK_DOWN` (R209). A DOWN flit arrives and the lane goes down. -/
  | linkDown (l : Fin 2) (f : FlitIn)
  /-- `ACKSEQ_REPORT` (R193). The acknowledge timer of a lane expires and ACKSEQ is reported. -/
  | ackseqReport (l : Fin 2)
  /-- `SL_HDR` (R203). A block header or transfer completion arrives on the stream lane. -/
  | slHdr (f : FlitIn)
  /-- `SL_DATA` (R203). A block data flit arrives on the stream lane. -/
  | slData (f : FlitIn)
  /-- `SL_BLOCK_WRITTEN` (R204). A written block is readable at its target; its credit returns and a last block sends the completion. -/
  | slBlockWritten
  /-- `SL_RDREQ` (R205). A read request arrives and is held or answered BUSY. -/
  | slRdreq (f : FlitIn)
  /-- `SL_READ_BLOCK` (R205). With a node block credit the N8 sends the next block of a read transfer. -/
  | slReadBlock
  /-- `FRESH_CL` (R209). A write of FRESH_CL takes the control lane down for a fresh start. -/
  | freshCl (src : Party)
  /-- `FRESH_SL` (R209). A write of FRESH_SL takes the stream lane down for a fresh start. -/
  | freshSl (src : Party)
  /-- `EN_CL` (R212). A write of EN_CL darkens or lights the control lane. -/
  | enCl (src : Party) (on : Bool)
  /-- `EN_SL` (R212). A write of EN_SL darkens or lights the stream lane. -/
  | enSl (src : Party) (on : Bool)
  /-- `RING_EN` (R213). A write of EN checks the ring configuration and enables, resumes or refuses the ring. -/
  | ringEn (r : Fin 64) (src : Party) (cfg : BitVec 64)
  /-- `RD_IDX` (R243). A write of RD_IDX on a disabled or stopped ring sets the next entry and DONE_IDX. -/
  | rdIdx (r : Fin 64) (src : Party) (v : BitVec 32)
  /-- `WR_IDX` (R214). A write of WR_IDX or the DOORBELL register advances the ring's written index. -/
  | wrIdx (r : Fin 64) (src : Party) (v : BitVec 32)
  /-- `RING_NOP` (R216). The NOP command completes at once. -/
  | ringNop (r : Fin 64)
  /-- `JOB_LAUNCH` (R221). Reads and checks the job descriptor and group table, sets C and binds the job rings. -/
  | jobLaunch (r : Fin 64)
  /-- `JOB_END` (R221). Waits for the job rings to empty, aborts staged work, unloads and unbinds. -/
  | jobEnd (r : Fin 64)
  /-- `LOAD` (R122). Checks a program image and places it in the tiles or refuses it. -/
  | load (r : Fin 64)
  /-- `UNLOAD` (R216). Removes the program once no tile runs. -/
  | unload (r : Fin 64)
  /-- `DISPATCH` (R216). Sends dispatches to a range of logical tiles and waits until each is IDLE or TRAPPED. -/
  | dispatch (r : Fin 64)
  /-- `WE_POST` (R216). The ring command that posts a descriptor from main memory to a wayside engine. -/
  | wePost (r : Fin 64)
  /-- `REGION` (R226). Registers or unregisters a commit region. -/
  | region (r : Fin 64)
  /-- `EPOCH_END` (R230). Waits until the epoch's commands are done and casts this package's vote. -/
  | epochEnd (r : Fin 64)
  /-- `EPOCH_ABORT` (R230). Casts an ABORT vote at once. -/
  | epochAbort (r : Fin 64)
  /-- `EPOCH_RESOLVE` (R237). Applies the driver's decision to a VOTED member. -/
  | epochResolve (r : Fin 64)
  /-- `WINDOW` (R239). Sets or clears a result window. -/
  | window (r : Fin 64)
  /-- `WINDOW_EXPORT` (R239). Sends a whole window over the stream lane from one committed state. -/
  | windowExport (r : Fin 64)
  /-- `SCRUB` (R216). The ring command that runs a scrub and writes its summary. -/
  | scrub (r : Fin 64)
  /-- `POWER_HINT` (R379). Passes a phase hint to the governor and thermal control. -/
  | powerHint (r : Fin 64)
  /-- `WAIT_RING` (R216). Waits until another ring's DONE_IDX reaches an index. -/
  | waitRing (r : Fin 64)
  /-- `COMMAND_COMPLETE` (R215). A command completes: words 6 and 7 are written, DONE_IDX advances and CMD_DONE may be sent. -/
  | commandComplete (r : Fin 64)
  /-- `PERIOD_RELEASE` (R222). A periodic ring's release time arrives and its batch is fetched or queued. -/
  | periodRelease (r : Fin 64)
  /-- `VOTE_DONE` (R232). The coordinator takes a DONE vote and may decide COMMIT. -/
  | voteDone
  /-- `VOTE_ABORT` (R232). The coordinator takes an ABORT vote and decides ABORT. -/
  | voteAbort
  /-- `DECIDE_COMMIT` (R233). A member receives a commit decision, commits and acknowledges. -/
  | decideCommit
  /-- `DECIDE_ABORT` (R233). A member receives an abort decision, starts the abort and acknowledges. -/
  | decideAbort
  /-- `ABORT_DRAIN` (R235). The drain limit passes and tiles or engines still running the epoch are fenced. -/
  | abortDrain
  /-- `ABORT_SWEEP_DONE` (R235). The region sweep ends, the epoch reopens and EPOCH_ABORTED is sent. -/
  | abortSweepDone
  /-- `QUERY` (R232). The coordinator answers a member's query with the decision, or presumes abort. -/
  | query
  /-- `BARRIER_ACK` (R232). The coordinator receives ACK for a decision and stops resending it. -/
  | barrierAck
  /-- `UNKNOWN` (R233). A member receives UNKNOWN, stays VOTED and sends EPOCH_IN_DOUBT. -/
  | unknown
  /-- `EPOCH_TIMEOUT` (R232). The coordinator's vote timer expires and it decides ABORT. -/
  | epochTimeout
  /-- `DECIDE_RESEND` (R232). Every 100 us the coordinator resends an unacknowledged decision. -/
  | decideResend
  /-- `QUERY_REPEAT` (R233). Every 1 ms a VOTED member sends QUERY. -/
  | queryRepeat
  /-- `MQ_PUSH` (R247). Pushes one word into a mailbox queue or drops it. -/
  | mqPush (n : Fin 8) (dir : Fin 2) (src : Party) (w : BitVec 64)
  /-- `SEND` (R247). Sends the queued message, starts the timer and rings the receiver's doorbell. -/
  | send (n : Fin 8) (dir : Fin 2) (src : Party)
  /-- `DISCARD` (R247). Empties unsent words and clears PUSH_ERR. -/
  | discard (n : Fin 8) (dir : Fin 2) (src : Party)
  /-- `MQ_ACK` (R249). The receiver acknowledges the pending message with a code. -/
  | mqAck (n : Fin 8) (dir : Fin 2) (src : Party) (seq code : BitVec 16)
  /-- `ACK_TIMEOUT` (R250). The mailbox timer expires and the message is acknowledged with ACK_TIMEOUT. -/
  | ackTimeout (n : Fin 8) (dir : Fin 2)
  /-- `DB_MASK` (R257). A write of DB_MASK; unmasking a pending doorbell sends its event. -/
  | dbMask (src : Party) (v : BitVec 64)
  /-- `PING` (R252). The controller acknowledges a PING message. -/
  | ping (n : Fin 8)
  /-- `ECHO` (R252). The controller returns the words in an outbound message. -/
  | echo (n : Fin 8)
  /-- `STANDBY_CHECK` (R267). The standby check runs at once on request. -/
  | standbyCheck (n : Fin 8) (differ selfErr : Bool)
  /-- `SWITCHOVER` (R270). Hands the active role to the standby without a fence. -/
  | switchover (n : Fin 8)
  /-- `STANDBY_CHECK_TIMER` (R267). The periodic standby check falls due and compares record digests. -/
  | standbyCheckTimer (differ selfErr : Bool)
  /-- `TOKEN_TAKE` (R260). A read of a token takes it if free and returns the outcome. -/
  | tokenTake (k : Fin 64) (src : Party)
  /-- `TOKEN_REL` (R261). The owner releases a token. -/
  | tokenRel (src : Party) (k : Fin 64)
  /-- `RC_BEAT` (R266). A controller's write advances its shared-word heartbeat. -/
  | rcBeat (src : Party)
  /-- `HB_PATH_SILENT` (R266). A heartbeat path shows no beat for 500 us; one silent path is a fault, both lose the controller. -/
  | hbPathSilent (rc : Fin 2) (path : Fin 2)
  /-- `RC_SELFTEST_DONE` (R271). A controller finishes SELFTEST and becomes active, SYNCING or FAILED. -/
  | rcSelftestDone (rc : Fin 2) (passed : Bool)
  /-- `RC_STANDBY_READY` (R266). A syncing controller finishes copying the record and becomes STANDBY. -/
  | rcStandbyReady (rc : Fin 2)
  /-- `SIGNAL_DETECT` (R283). A port in DETECT sees signal on a lane and enters TRAIN. -/
  | signalDetect (p : Fin 18)
  /-- `TRAINING_MARKER` (R284). A training frame marker arrives and equalizer requests are served. -/
  | trainingMarker (p : Fin 18) (marker : BitVec 64) (ready : Bool)
  /-- `TRAIN_LIMIT` (R283). The 100 ms training limit passes and the port moves to LOCK. -/
  | trainLimit (p : Fin 18)
  /-- `LANE_LOCK` (R279). A fabric lane gains lock; with all marked lanes locked the port enters IDENT. -/
  | laneLock (p : Fin 18) (l : LaneWords)
  /-- `LOCK_LIMIT` (R283). The 10 ms lock limit passes; failing lanes drop and the width is recomputed. -/
  | lockLimit (p : Fin 18)
  /-- `IDENT` (R287). A partner's IDENT arrives and the port is judged UP or MAINT. -/
  | ident (p : Fin 18) (f : FrameIn) (m : IdentMsg)
  /-- `IDENT_ACK` (R286). A partner's IDENT_ACK arrives with the chosen version. -/
  | identAck (p : Fin 18) (f : FrameIn) (m : IdentMsg)
  /-- `IDENT_LIMIT` (R283). IDENT passes 1 ms without completion and the port goes DOWN. -/
  | identLimit (p : Fin 18)
  /-- `DOWN_RETRY` (R283). A port that is DOWN restarts at DETECT every 1 s. -/
  | downRetry (p : Fin 18)
  /-- `DATA_FRAME` (R280). A DATA frame arrives and its packet stream, ACKSEQ and credits are taken. -/
  | dataFrame (p : Fin 18) (f : FrameIn) (pkts : List Pkt)
  /-- `IDLE_FRAME` (R280). An IDLE frame arrives carrying ACKSEQ and credits. -/
  | idleFrame (p : Fin 18) (f : FrameIn)
  /-- `RETRY` (R281). A RETRY control message arrives and frames are resent. -/
  | retry (p : Fin 18) (f : FrameIn) (e : BitVec 12)
  /-- `DOWN` (R292). A DOWN message or other cause takes a port DOWN; frames are discarded and PORT_DOWN is sent. -/
  | down (p : Fin 18) (why : PortLoss)
  /-- `WIDTH` (R290). A WIDTH proposal is answered with a mask and change-over count, or an answer is taken. -/
  | width (p : Fin 18) (f : FrameIn) (answer : Bool) (mask : BitVec 4) (count : BitVec 12)
  /-- `LANE_LOSS` (R290). A lane loses lock or fails 16 codewords in 1 ms and a WIDTH proposal is sent. -/
  | laneLoss (p : Fin 18) (l : Fin 4) (lock : Bool)
  /-- `WIDTH_CHANGE` (R290). The named codeword count arrives and the port changes width. -/
  | widthChange (p : Fin 18)
  /-- `LANE_RETRAIN` (R291). Every 1 s an out-of-service lane is retrained alone and may rejoin. -/
  | laneRetrain (p : Fin 18) (l : Fin 4) (passed : Bool)
  /-- `FRAME_ACK_REPORT` (R281). The frame acknowledge timer expires and ACKSEQ is reported. -/
  | frameAckReport (p : Fin 18)
  /-- `RETRAIN` (R292). A write of RETRAIN sends DOWN, unparks lanes and restarts the port at DETECT. -/
  | retrain (p : Fin 18) (src : Party)
  /-- `PORT_EN` (R303). A write of EN takes the port DOWN into electrical idle or lets it train. -/
  | portEn (p : Fin 18) (src : Party) (on : Bool)
  /-- `D2D_DEGRADED` (R295). A UCIe module that cannot be repaired leaves service. -/
  | d2dDegraded (pair : Fin 6) (m : Fin 4)
  /-- `TSYNC_EDGE` (R296). A TSYNC edge loads an armed value or snaps RTIME to the millisecond. -/
  | tsyncEdge
  /-- `TSYNC_LOSS` (R299). No TSYNC edge for 1.5 ms clears TSYNC_PRESENT and sends RTIME_FAULT. -/
  | tsyncLoss
  /-- `REFCLK_LOSS` (R299). REFCLK is lost; PLLs unlock, ports go DOWN and RTIME runs on the internal oscillator. -/
  | refclkLoss
  /-- `REFCLK_LOCK` (R299). REFCLK returns and the PLLs regain lock. -/
  | refclkLock
  /-- `RTIME_NEXT` (R297). A write arms an RTIME load at the next TSYNC edge. -/
  | rtimeNext (m : OdMsg) (e : OdEnv)
  /-- `WRITE` (R308). A WRITE packet arrives and is served locally or forwarded. -/
  | write (k : Fin 19)
  /-- `WRITE_ACK` (R308). A WRITE_ACK response arrives for a request. -/
  | writeAck (k : Fin 19)
  /-- `READ` (R308). A READ packet arrives and is answered with READ_RSP. -/
  | read (k : Fin 19)
  /-- `READ_RSP` (R308). A READ_RSP arrives and completes a read. -/
  | readRsp (k : Fin 19)
  /-- `MSG` (R308). A MSG packet is handed to the engine its address names. -/
  | msg (k : Fin 19)
  /-- `COLL` (R342). A COLL packet arrives for a marshalling engine. -/
  | coll (k : Fin 19)
  /-- `ROUTE_FAIL` (R319). A switch reports non-delivery; the plane is excluded and an own request resent once. -/
  | routeFail (k : Fin 19)
  /-- `TC3_CSR_RD` (R308). A junction switch reads a router or port register by TC3 CSR_RD. -/
  | tc3CsrRd (k : Fin 19)
  /-- `REQUEST_TIMEOUT` (R311). A request gets no response within the timeout and completes with TIMEOUT. -/
  | requestTimeout (tag : BitVec 16)
  /-- `TC0_BUCKET_RELEASE` (R326). A waiting TC0 packet leaves its token bucket once enough bytes accrue. -/
  | tc0BucketRelease (p : Fin 18)
  /-- `CMAP_PERIOD` (R324). The map period ends and a congestion map is written and made current. -/
  | cmapPeriod
  /-- `CLEAR_EXCLUDE` (R328). A write of CLEAR_EXCLUDE clears every exclusion. -/
  | clearExclude (src : Party)
  /-- `POINTS` (R319). A write of a points entry sets the route and clears its exclusions. -/
  | points (d : BitVec 12) (src : Party) (v : BitVec 64)
  /-- `COLLECTIVE_START` (R340). An engine starts the next launched collective, claiming buffer and multicasting READY. -/
  | collectiveStart (d : Fin 4)
  /-- `READY` (R344). A READY arrives; digests are compared and skew is computed once all are held. -/
  | ready (d : Fin 4)
  /-- `DATA` (R347). A DATA packet arrives; a whole chunk is CRC-checked, consumed and acknowledged, or refused. -/
  | data (d : Fin 4)
  /-- `CHUNK_ACK` (R346). An ACK for a chunk arrives and frees a send slot. -/
  | chunkAck (d : Fin 4)
  /-- `NACK` (R347). A NACK arrives and the chunk is sent again. -/
  | nack (d : Fin 4)
  /-- `ABORT` (R349). An ABORT arrives and aborts or records the collective. -/
  | abort (d : Fin 4)
  /-- `READY_REPEAT` (R344). The READY repeat interval passes without every READY. -/
  | readyRepeat (d : Fin 4)
  /-- `CHUNK_RESEND` (R347). A chunk without ACK is sent again after the interval; the ninth failure aborts. -/
  | chunkResend (d : Fin 4)
  /-- `STALL` (R349). A started collective exchanges no packet for the stall time and aborts. -/
  | stall (d : Fin 4)
  /-- `COAST_WAIT` (R355). A wait passes the coasting time and the governor is asked to coast. -/
  | coastWait (d : Fin 4)
  /-- `COLLECTIVE_DONE` (R341). The last DST byte is written and TRIG_OUT is incremented. -/
  | collectiveDone (d : Fin 4)
  /-- `PWR_ALERT_ASSERT` (R381). PWR_ALERT_N is asserted and the governor enters buffer stop. -/
  | pwrAlertAssert
  /-- `PWR_ALERT_RELEASE` (R382). PWR_ALERT_N is released by every source and BS_HOLD starts. -/
  | pwrAlertRelease
  /-- `BS_HOLD_END` (R382). The BS_HOLD time passes and a start event puts the governor in STAGGER. -/
  | bsHoldEnd
  /-- `STAGGER_END` (R378). The stagger hold ends and the governor enters RUN. -/
  | staggerEnd
  /-- `GOVERNOR_TICK` (R383). Every 10 us the governor computes and allocates its target. -/
  | governorTick (x : GovIn)
  /-- `INPUT_CONDITION` (R366). A power module condition begins or ends and it asserts or releases PWR_ALERT_N. -/
  | inputCondition (row : Fin 5) (on : Bool)
  /-- `POWER_LOSS` (R367). Input stays below 38 V past the hold-up and the rails fall in order. -/
  | powerLoss
  /-- `BLADE_LOSS` (R368). One blade's input falls below 38 V and BLADE_CAP becomes 650 W. -/
  | bladeLoss (b : Fin 2)
  /-- `BLADE_RETURN` (R368). 1 ms after a blade returns the blade cap ends. -/
  | bladeReturn (b : Fin 2)
  /-- `SENSOR_SAMPLE` (R391). Every 100 us the sensors are sampled and faults flagged. -/
  | sensorSample (l : List (Option Int))
  /-- `ESTIMATOR_UPDATE` (R393). Every 100 ms the thermal resistances and flow are updated under steady load. -/
  | estimatorUpdate
  /-- `THERM_CAP_UPDATE` (R394). Every 1 ms the cap components and THERM_CAP are computed. -/
  | thermCapUpdate
  /-- `FLOW_STOP_EVAL` (R398). Every 1 ms the slope excess of each die is evaluated; 20 ms of excess forces buffer stop and sets CUT_REQ. -/
  | flowStopEval
  /-- `FLOW_LOW` (R397). Resistance or flow past its threshold for 10 s sets or clears FLOW_LOW. -/
  | flowLow
  /-- `PLAUSIBILITY_CHECK` (R403). Every 100 ms guards are checked and marked implausible. -/
  | plausibilityCheck
  /-- `HARDWARE_TRIP` (R406). A guard comparator trips at 118 degC; buffer stop, WORKS reset and TRIP. -/
  | hardwareTrip (g : Fin 8) (reading : Int)
  /-- `RAIL_CUTOFF` (R407). A guard at 125 degC makes the power module switch off every rail but VAON. -/
  | railCutoff (g : Fin 8) (reading : Int)
  /-- `FLOW_STOP_CLEAR` (R398). A write of bit 0 of THERM_CLEAR ends the flow-stop force and CUT_REQ. -/
  | flowStopClear (m : OdMsg) (e : OdEnv)
  /-- `TRIP_CLEAR` (R406). A write of bit 1 of THERM_CLEAR lets WORKS leave the trip reset. -/
  | tripClear (m : OdMsg) (e : OdEnv)
  /-- `GUARD_CLEAR` (R404). A write clears guard marks whose guards now pass. -/
  | guardClear (m : OdMsg) (e : OdEnv)
  /-- `FAULT_MESSAGE` (R420). A fault message reaches the collector and is logged, counted, classified and acted on. -/
  | faultMessage (source : BitVec 16)
  /-- `IL_BUCKET_DRAIN` (R419). At each whole second every source bucket below capacity drains. -/
  | ilBucketDrain
  /-- `FAULT_N_PULSE_END` (R424). The 20 us minimum assertion of FAULT_N passes and it follows FAULT_N_HOLD. -/
  | faultNPulseEnd
  /-- `QUIET_TIMER` (R425). The quiet timer expires and the package leaves fault state or sets CLEAR_REQUIRED. -/
  | quietTimer
  /-- `FAULT_ACK` (R424). The tray's acknowledge clears FAULT_N_HOLD. -/
  | faultAck (m : OdMsg) (e : OdEnv)
  /-- `FAULT_CLEAR` (R425). A software clear ends fault state or rebuilds the safe state. -/
  | faultClear (m : OdMsg) (e : OdEnv)
  /-- `RECOVERIES_RESET` (R431). Clears RECOVERIES and the record of exits. -/
  | recoveriesReset (m : OdMsg) (e : OdEnv)
  /-- `IL_INJECT` (R430). A write sends an injected fault message. -/
  | ilInject (src : Party) (v : BitVec 64)
  /-- `IL_SELF_CHECK` (R429). Every 1 ms the interlock checks its copies and parity and may enter the safe state. -/
  | ilSelfCheck (cause : Fin 4)
  /-- `FENCE_REQ` (R437). A fence request starts the cut of a target or is refused. -/
  | fenceReq (src : Party) (target : BitVec 16) (hold : Bool)
  /-- `FENCE_DRAIN_END` (R437). Accesses that passed the cut are answered or the drain limit passes. -/
  | fenceDrainEnd (target : BitVec 16)
  /-- `FENCE_COMPLETE` (R437). The sample is written, tokens are released and the unit reset starts. -/
  | fenceComplete (target : BitVec 16)
  /-- `UNIT_RESET_DONE` (R440). The unit reset passes and the target lifts, or fails at its limit and escalates. -/
  | unitResetDone (target : BitVec 16) (passed : Bool) (chUp : Vector (BitVec 4) 2)
  /-- `LIFT` (R440). A lift request runs the unit reset again and lifts the target if it passes. -/
  | lift (src : Party) (target : BitVec 16)
  /-- `FW_BEAT` (R434). A firmware beat write clears that party's miss count. -/
  | fwBeat (src : Party)
  /-- `FW_BEAT_MISS` (R434). A 1 ms interval without a beat is counted; ten misses report FW_HANG. -/
  | fwBeatMiss (party : Fin 3)
  /-- `WORKS_RESET` (R450). WORKS units are cut, votes and aborts sent, samples written and WORKS enters reset. -/
  | worksReset
  /-- `WORKS_RESET_EXIT` (R450). WORKS is released: channels retrain, records reload, applies resume and controllers test. -/
  | worksResetExit (chUp : Vector (BitVec 4) 8) (bad : BitVec 2)
  /-- `PACKAGE_RESET` (R302). DOWN is sent on every port and LINE and WORKS enter reset. -/
  | packageReset
  /-- `LINE_RESET_EXIT` (R386). LINE leaves reset; RTIME is rearmed and the governor resumes in RUN. -/
  | lineResetExit (bad : BitVec 2)
  /-- `SIGNAL_RESET` (R480). SIGNAL resets; the signal box reboots and restores its service. -/
  | signalReset (bad : BitVec 2)
  /-- `POWER_ON_RESET` (R456). 50 V arrives and a full bring-up run starts. -/
  | powerOnReset (pos : Fin 4) (bad : BitVec 2)
  /-- `POWER_CYCLE` (R449). The package prepares and asks the tray controller to power-cycle the slot. -/
  | powerCycle
  /-- `RESET_EXIT_TIMEOUT` (R447). WORKS or LINE fails to leave reset within 5 s and the action escalates. -/
  | resetExitTimeout (line : Bool)
  /-- `STAGE_DONE` (R456). A bring-up stage passes, stops or holds and its report is written. -/
  | stageDone (us : BitVec 32) (x : StageIn)
  /-- `CLOCK_RETRY` (R457). S2 retries REFCLK lock every 1 s. -/
  | clockRetry
  /-- `ACCEPT_REDUCED` (R465). A write of 1 lets a stopped S4 resume with reduced geometry. -/
  | acceptReduced (m : OdMsg) (e : OdEnv)
  /-- `TOPO_ACCEPT` (R468). A write equal to the digest lets S6 pass. -/
  | topoAccept (m : OdMsg) (e : OdEnv)
  /-- `GEOMETRY_EXPECT` (R469). A write sets the expected tile count, holding or releasing S6. -/
  | geometryExpect (m : OdMsg) (e : OdEnv)
  /-- `TRAY_NO` (R457). A write of the tray number sets OWN_ID and releases a TRAY_UNSET hold. -/
  | trayNo (m : OdMsg) (e : OdEnv)
  /-- `BGTEST_DONE` (R475). The background memory test ends and its report is written. -/
  | bgtestDone (spares : Vector (BitVec 8) 8)
  /-- `BGTEST_EN` (R475). A write of 0 stops the background test at the next group. -/
  | bgtestEn (m : OdMsg) (e : OdEnv)
  /-- `LICENCE` (R472). The owner installs a licence, which is checked and kept or refused. -/
  | licence (m : OdMsg) (e : OdEnv)
  /-- `DIE_MARKS` (R166). The owner writes the marked dies of a device, subject to the two-mark and fuse rules. -/
  | dieMarks (m : OdMsg) (e : OdEnv)
  /-- `OD_READ` (R489). A dictionary READ is served from the entry. -/
  | odRead (m : OdMsg) (e : OdEnv)
  /-- `OD_WRITE` (R499). A dictionary WRITE of an entry without behaviour of its own is checked, committed and applied. -/
  | odWrite (m : OdMsg) (e : OdEnv)
  /-- `OD_INFO` (R498). An INFO request returns the entry descriptor. -/
  | odInfo (m : OdMsg) (e : OdEnv)
  /-- `HELLO` (R491). The tray controller opens a session, reattaching an orphaned package. -/
  | hello (m : OdMsg) (e : OdEnv)
  /-- `HEARTBEAT` (R491). A tray heartbeat with the current session is counted and answered. -/
  | heartbeat (m : OdMsg) (e : OdEnv)
  /-- `NOTICE_ACK` (R494). An acknowledge removes a notice from the queue. -/
  | noticeAck (m : OdMsg) (e : OdEnv)
  /-- `NOTICE_RESEND` (R494). Every 100 ms an unacknowledged notice is sent again. -/
  | noticeResend
  /-- `SEGMENT_TIMEOUT` (R488). A staged value without a segment for 10 s is discarded. -/
  | segmentTimeout (path : Fin 2)
  /-- `ORPHAN_TIMEOUT` (R492). No valid heartbeat within the timeout orphans the package and sets ORPHAN_CAP. -/
  | orphanTimeout
  /-- `ORPHAN_RELEASE` (R493). A write under the new session ends ORPHAN_CAP and attaches the package. -/
  | orphanRelease (m : OdMsg) (e : OdEnv)
  /-- `ICMPV6_ECHO` (R482). An ICMPv6 Echo request is answered. -/
  | icmpv6Echo (src : BitVec 128) (ident seq : BitVec 16) (data : List (BitVec 8))
  /-- `NEIGHBOR_SOLICITATION` (R482). A Neighbor Solicitation for the link-local address is answered. -/
  | neighborSolicitation (src target : BitVec 128)
  /-- `MIRROR_REFRESH` (R495). Every 100 us the I3C mirror is refreshed whole. -/
  | mirrorRefresh
  /-- `IBI_RETRY` (R497). A NACKed IBI is raised again at the next bus-free condition. -/
  | ibiRetry
  /-- `I3C_PRIVATE_WRITE` (R495). A I3C write sets the mirror read pointer. -/
  | i3cPrivateWrite (a : BitVec 7) (l : List (BitVec 8))
  /-- `I3C_PRIVATE_READ` (R495). A I3C read returns mirror bytes from one refresh. -/
  | i3cPrivateRead (a : BitVec 7) (n : Fin 65)
  /-- `SETDASA` (R495). Assigns a dynamic address from the static address. -/
  | setdasa (static dyn : BitVec 7)
  /-- `ENTDAA` (R495). Takes part in dynamic address assignment. -/
  | entdaa (dyn : BitVec 7)
  /-- `RSTDAA` (R495). Resets the dynamic address. -/
  | rstdaa
  /-- `SETNEWDA` (R495). Sets a new dynamic address. -/
  | setnewda (a dyn : BitVec 7)
  /-- `ENEC` (R495). Enables IBIs. -/
  | enec (a : Option (BitVec 7)) (events : BitVec 8)
  /-- `DISEC` (R495). Disables IBIs. -/
  | disec (a : Option (BitVec 7)) (events : BitVec 8)
  /-- `GETPID` (R495). Returns the provisional ID. -/
  | getpid (a : BitVec 7)
  /-- `GETBCR` (R495). Returns the BCR. -/
  | getbcr (a : BitVec 7)
  /-- `GETDCR` (R495). Returns the DCR. -/
  | getdcr (a : BitVec 7)
  /-- `GETSTATUS` (R495). Returns the target status. -/
  | getstatus (a : BitVec 7)
  /-- `GETMWL` (R495). Returns the maximum write length. -/
  | getmwl (a : BitVec 7)
  /-- `GETMRL` (R495). Returns the maximum read length. -/
  | getmrl (a : BitVec 7)
  /-- `FW_HEADER` (R515). An image header is checked and starts or resumes an upload. -/
  | fwHeader (m : OdMsg) (e : OdEnv)
  /-- `FW_CHUNK` (R515). An image chunk is checked, committed and marked in the bitmap. -/
  | fwChunk (m : OdMsg) (e : OdEnv)
  /-- `FW_ABORT` (R516). Empties a staging or verified slot, or disarms a LINE image. -/
  | fwAbort (m : OdMsg) (e : OdEnv)
  /-- `ACTIVATE_SIGNAL` (R519). Activates a signal-box image by a SIGNAL reset into trial. -/
  | activateSignal (m : OdMsg) (e : OdEnv)
  /-- `ACTIVATE_LINE` (R519). Arms a LINE image for the next package reset. -/
  | activateLine (m : OdMsg) (e : OdEnv)
  /-- `ACTIVATE_RUNTIME` (R520). Starts the runtime handover by resetting the standby with the new image. -/
  | activateRuntime (m : OdMsg) (e : OdEnv)
  /-- `HANDOVER_SWITCHOVER` (R520). With the new-image standby ready the conditions are rechecked and the role switches into trial. -/
  | handoverSwitchover
  /-- `TRIAL_CONFIRM` (R522). A confirmation request makes the trial slot GOOD. -/
  | trialConfirm (t : Fin 3)
  /-- `TRIAL_LAPSE` (R523). The trial window lapses unconfirmed and the target falls back. -/
  | trialLapse (t : Fin 3)
  /-- `ATTEST_NONCE` (R509). A nonce write forms and signs an attestation report. -/
  | attestNonce (m : OdMsg) (e : OdEnv)
  /-- `OWNER_KEY` (R511). Enrols or removes the owner key. -/
  | ownerKey (m : OdMsg) (e : OdEnv)
  /-- `GRANT` (R511). Installs a signed grant in a slot or refuses it. -/
  | grant (m : OdMsg) (e : OdEnv)
  /-- `GRANT_MIN_SEQ` (R511). Raises the minimum grant number and removes older grants. -/
  | grantMinSeq (m : OdMsg) (e : OdEnv)
  /-- `LICENCE_KEY_CERT` (R505). Replaces the licence-signing certificate if valid and not older. -/
  | licenceKeyCert (m : OdMsg) (e : OdEnv)
  /-- `CSR_WRITE` (R14). A write of a register without behaviour of its own sets its fields by access code. -/
  | csrWrite (src : Party) (off : BitVec 32) (wide : Bool) (v : BitVec 64) (recheck : Fin 4)
  /-- `ILLEGAL_OP` (R85). The sequencer issues an instruction word with a reserved class or an OP its class does not list, and the tile traps with ILLEGAL_OP. -/
  | illegalOp (p : Fin 192)
  /-- `UNKNOWN_SERVICE` (R253). The active controller takes an inbound message whose SERVICE R252 does not list, and acknowledges it with UNKNOWN_SERVICE or BAD_ARGS. -/
  | unknownService (n : Fin 8)
  /-- `WIRE_HEARTBEAT` (R266). A controller toggles its heartbeat wire to the signal box, which keeps that path alive or brings it back. -/
  | wireHeartbeat (rc : Fin 2)
  /-- `SIGNAL_RESET_EXIT` (R480). The signal-box ROM boot ends: OD_UP is set, defaults are restored, SB_RESTART is queued, waiting CRITICAL entries and notices go out, and the orphan timer restarts. -/
  | signalResetExit
  /-- `UNDECODABLE_CODEWORD` (R189). A Dwente or fabric receiver gets an RS codeword that fails to decode; it delivers no flits or frame and counts the codeword in UNCORR_CW. -/
  | undecodableCodeword (l : LaneWord)
  deriving DecidableEq, Repr

end Sys2Proof
end

