-- ==== Sys2Proof/Config.lean ====
section
/-! DEFINITION. What one package fixes and the manual leaves open: fuses, keys, firmware versions, and free values. A constant
with no body is a free value: nothing can be proved of what it is. -/

namespace Sys2Proof.Config

/-- FREE VALUE. The n-th free value drawn (State.freeCtr counts them). Log entry 1. -/
opaque freeValue : Nat → BitVec 64

/-- FREE VALUE. Is a transmit tap (0-3) at its limit when its setting is to move up or down (R284)? Log entry 7. -/
opaque tapAtLimit : Nat → Int → Bool → Bool

/-- FREE VALUE. The code under which a DMA engine reports the local status TIMEOUT, to which the manual gives no number (R311).
Log entry 8. -/
opaque timeoutStatus : BitVec 16

/-- FREE VALUE. Byte `i` behind the data of a packet whose data do not fill its last 16-byte unit (R307), by its header words. Log
entry 174. -/
opaque padByte : BitVec 64 → BitVec 64 → Nat → Byte

/-- FREE VALUE. What stands behind the last packet of the stream in a DATA frame that leaves with nothing more to send, by the value drawn
for it (R280, R307). Log entry 175. -/
opaque streamFill : BitVec 64 → BitVec 4992

/-- The Mudeton root public key in the boot ROM (R505): the manual does not give it. Log entry 14. -/
opaque rootKey : BitVec 256

/-- The fused secret of R506. Log entry 14. -/
opaque idSeed : BitVec 256

/-- What a STRING or DOMAIN entry holds as shipped (R478), by dictionary key. Log entry 14. -/
opaque shipped : Nat → List Byte

/-- The key revision of the certificate shipped for a role (R505). Log entry 14. -/
opaque certRev : Nat → BitVec 32

/-- The root signature of the certificate shipped for a role (R505). Log entry 14. -/
opaque certSig : Nat → BitVec 512

/-- The public key of the licence-signing certificate shipped (R505). Log entry 14. -/
opaque licenceKey : BitVec 256

/-- The measurement of the image shipped in slot `k` (R508). Log entry 14. -/
opaque shippedMeasure : Nat → List Byte

/-- Bits [32:0] of the provisional ID of the I3C target, of which the manual states nothing (R495; log entry 16). -/
opaque pidLow : BitVec 33

/-- FREE VALUE. What a temperature reads as that is the largest of no sensor at all, every one of them being out (R391, R392): CD0-CD3,
then MD0-MD7, then the outlet, then the peer value of each die guard. Log entry 1. -/
opaque noTemp : Nat → Int

/-- FREE VALUE. By how much the correction of R384 trims the target, in hundredths of a watt, for an integral of target less measured
power: the manual states no gain. Log entry 180. -/
opaque powerTrim : Int → Int

/-- FREE VALUE. A figure of thermal control that R393 to R405 do not state: the quotient by a resistance that is not positive (0-11 of
EST_CAP, 12-23 of RAMP_CAP, by region), the flow at a COOLANT_C of 0 (24), the die or region of an event about a coolant, module or
edge sensor (32 and its index). Log entry 1. -/
opaque thermFree : Nat → Nat

/-- FREE VALUE. The cause (bits 7:0) and ladder level (bits 15:8) in the records of a power cycle, for which R443 has no code. Log entry 1. -/
opaque cycleRecord : Nat

end Sys2Proof.Config
end

