-- ==== Sys2Proof/Machine/Arith.lean ====
section
/-! DEFINITION. Exact arithmetic and rounding (R49-R55, R64, R67-R71): element formats, exact values, the one rounding RND,
stochastic-rounding draws, correctly rounded functions and XP160 values. -/

namespace Sys2Proof.Machine

/-! ## Element formats (R49, R69) -/

/-- A floating-point element format: exponent and mantissa bits, bias, largest finite code, whether it has an infinity,
and its canonical NaN (R69; formats without NaN hold 0 in its place). -/
structure FpFmt where
  eb     : Nat
  mb     : Nat
  bias   : Nat
  maxFin : Nat
  hasInf : Bool
  hasNan : Bool
  nan    : Nat
  deriving DecidableEq, Repr

/-- FP4 E2M1 (R49). -/
def fmtE2M1 : FpFmt := ⟨2, 1, 1, 0x7, false, false, 0⟩
/-- FP6 E2M3 (R49). -/
def fmtE2M3 : FpFmt := ⟨2, 3, 1, 0x1F, false, false, 0⟩
/-- FP6 E3M2 (R49). -/
def fmtE3M2 : FpFmt := ⟨3, 2, 3, 0x1F, false, false, 0⟩
/-- FP8 E4M3 (R49): the largest finite value is 448 = 0x7E, the NaN 0x7F. -/
def fmtE4M3 : FpFmt := ⟨4, 3, 7, 0x7E, false, true, 0x7F⟩
/-- FP8 E5M2 (R49, R69). -/
def fmtE5M2 : FpFmt := ⟨5, 2, 15, 0x7B, true, true, 0x7F⟩
/-- binary16 (R49). -/
def fmtFP16 : FpFmt := ⟨5, 10, 15, 0x7BFF, true, true, 0x7E00⟩
/-- BF16 (R49). -/
def fmtBF16 : FpFmt := ⟨8, 7, 127, 0x7F7F, true, true, 0x7FC0⟩
/-- binary32 (R49). -/
def fmtFP32 : FpFmt := ⟨8, 23, 127, 0x7F7FFFFF, true, true, 0x7FC00000⟩

/-- An element format: floating point, two's-complement integer of a width, or E8M0 (R49). -/
inductive EFmt
  | fp (f : FpFmt)
  | int (bits : Nat)
  | e8m0
  deriving DecidableEq, Repr

/-! ## Exact values -/

/-- An exact finite magnitude: (-1)^neg * (man + eps) * 2^exp, where 0 < eps < 1 if `sticky` and eps = 0 otherwise.
Zero keeps its sign. -/
structure Ex where
  neg    : Bool
  man    : Nat
  exp    : Int
  sticky : Bool
  deriving DecidableEq, Repr

/-- An exact value: NaN, an infinity, or finite. -/
inductive Xv
  | nan
  | inf (neg : Bool)
  | fin (x : Ex)
  deriving DecidableEq, Repr

/-- The zero of a sign. -/
def Ex.zero (neg : Bool) : Ex := ⟨neg, 0, 0, false⟩

/-- Is it an exact zero? -/
def Ex.isZero (x : Ex) : Bool := x.man == 0 && !x.sticky

/-- The integer `n` times 2^e. -/
def Ex.ofInt (n : Int) (e : Int) : Ex := ⟨decide (n < 0), n.natAbs, e, false⟩

/-- The signed mantissa. -/
def Ex.int (x : Ex) : Int := if x.neg then -(x.man : Int) else x.man

/-- The integer value n of x = n * 2^e for an e no greater than x.exp. -/
def Ex.scaled (x : Ex) (e : Int) : Int := x.int * 2 ^ (x.exp - e).toNat

/-- Exact sum of two exact dyadic values; a zero sum is -0 only where both operands are negative (IEEE 754). -/
def Ex.add (a b : Ex) : Ex :=
  let e := min a.exp b.exp
  let s := a.scaled e + b.scaled e
  if s = 0 then Ex.zero (a.neg && b.neg) else Ex.ofInt s e

/-- Exact product. -/
def Ex.mul (a b : Ex) : Ex := ⟨xor a.neg b.neg, a.man * b.man, a.exp + b.exp, false⟩

/-- Negation. -/
def Xv.negate : Xv → Xv
  | .nan => .nan
  | .inf n => .inf (!n)
  | .fin x => .fin { x with neg := !x.neg }

/-- Exact sum with IEEE special values. -/
def Xv.add : Xv → Xv → Xv
  | .nan, _ => .nan
  | _, .nan => .nan
  | .inf a, .inf b => if a = b then .inf a else .nan
  | .inf a, .fin _ => .inf a
  | .fin _, .inf b => .inf b
  | .fin a, .fin b => .fin (a.add b)

/-- Exact product with IEEE special values. -/
def Xv.mul : Xv → Xv → Xv
  | .nan, _ => .nan
  | _, .nan => .nan
  | .inf a, .inf b => .inf (xor a b)
  | .inf a, .fin b => if b.isZero then .nan else .inf (xor a b.neg)
  | .fin a, .inf b => if a.isZero then .nan else .inf (xor a.neg b)
  | .fin a, .fin b => .fin (a.mul b)

/-- Strictly less, on finite values and infinities (false where either is NaN). Zeros of both signs are equal. -/
def Xv.lt : Xv → Xv → Bool
  | .nan, _ => false
  | _, .nan => false
  | .inf a, .inf b => a && !b
  | .inf a, .fin _ => a
  | .fin _, .inf b => !b
  | .fin a, .fin b => decide ((min a.exp b.exp |> a.scaled) < (min a.exp b.exp |> b.scaled))

/-! ## Decoding (R49) -/

/-- The exact value of a floating-point code. -/
def FpFmt.decode (f : FpFmt) (c : Nat) : Xv :=
  let m := c % 2 ^ f.mb
  let e := c / 2 ^ f.mb % 2 ^ f.eb
  let neg := decide (c / 2 ^ (f.mb + f.eb) % 2 = 1)
  if c % 2 ^ (f.mb + f.eb) > f.maxFin then
    if f.hasInf && m == 0 then .inf neg else .nan
  else if e = 0 then .fin ⟨neg, m, 1 - (f.bias : Int) - f.mb, false⟩
  else .fin ⟨neg, 2 ^ f.mb + m, (e : Int) - f.bias - f.mb, false⟩

/-- The integer of a two's-complement code of `bits` bits. -/
def sint (bits c : Nat) : Int :=
  let c := c % 2 ^ bits
  if c < 2 ^ (bits - 1) then c else (c : Int) - 2 ^ bits

/-- The two's-complement code of `n` in `bits` bits. -/
def unsint (bits : Nat) (n : Int) : Nat := (n % (2 ^ bits : Int)).toNat

/-- The exact value of an element code; an E8M0 code e stands for 2^(e - 127), 0xFF for NaN. -/
def EFmt.decode : EFmt → Nat → Xv
  | .fp f, c => f.decode c
  | .int b, c => .fin (Ex.ofInt (sint b c) 0)
  | .e8m0, c => if c % 256 = 0xFF then .nan else .fin ⟨false, 1, (c % 256 : Int) - 127, false⟩

/-! ## Rounding (R64, R68-R70) -/

/-- Flags an output raises in its writer's status register (R68, R69, R81). -/
structure RFlags where
  sat : Bool := false
  inf : Bool := false
  nan : Bool := false
  deriving DecidableEq, Repr

/-- Flags ORed. -/
def RFlags.or (a b : RFlags) : RFlags := ⟨a.sat || b.sat, a.inf || b.inf, a.nan || b.nan⟩

/-- How a result is rounded: mode code of R68, SAT bit, and the draw of R70. -/
structure RMode where
  mode : Nat
  sat  : Bool
  draw : Nat
  deriving DecidableEq, Repr

/-- RNE with SAT = 0. -/
def rmNearest : RMode := ⟨0, false, 0⟩

/-- Is the magnitude `n + rem / 2^d (+ eps)` rounded up to `n + 1` (R68, R70)? -/
def roundUp (rm : RMode) (n rem d : Nat) (sticky : Bool) : Bool :=
  match rm.mode with
  | 0 => decide (2 ^ d < 2 * rem) || (decide (2 * rem = 2 ^ d ∧ 0 < d) && (sticky || n % 2 == 1))
  | 2 => decide (rm.draw < rem * 2 ^ 32 / 2 ^ d)
  | _ => false

/-- The rounded integer count of units 2^q in the magnitude of `x`. -/
def Ex.units (x : Ex) (q : Int) (rm : RMode) : Nat :=
  if x.exp ≥ q then x.man * 2 ^ (x.exp - q).toNat
  else
    let d := (q - x.exp).toNat
    let n := x.man / 2 ^ d
    if roundUp rm n (x.man % 2 ^ d) d x.sticky then n + 1 else n

/-- The code of an overflowing or infinite value of a float format (the SAT rule of R68). -/
def FpFmt.overflow (f : FpFmt) (neg sat : Bool) : Nat × RFlags :=
  let s := if neg then 2 ^ (f.mb + f.eb) else 0
  if sat || (!f.hasInf && !f.hasNan) then (s + f.maxFin, ⟨true, false, false⟩)
  else if f.hasInf then (s + (2 ^ f.eb - 1) * 2 ^ f.mb, ⟨false, true, false⟩)
  else (f.nan, ⟨false, false, true⟩)

/-- RND into a float format (R68, R69). Under RTZ a finite value never takes the SAT rule: one beyond the largest finite magnitude is
rounded toward zero to it (DEDUCED; log entry 183). -/
def FpFmt.round (f : FpFmt) (rm : RMode) : Xv → Nat × RFlags
  | .nan => (f.nan, ⟨false, false, true⟩)
  | .inf neg => f.overflow neg rm.sat
  | .fin x =>
    let s := if x.neg then 2 ^ (f.mb + f.eb) else 0
    if x.man = 0 then (s, {})
    else
      let emin : Int := 1 - (f.bias : Int)
      let E : Int := max (x.exp + Nat.log2 x.man) emin
      let n := x.units (E - f.mb) rm
      let mag := (E - emin).toNat * 2 ^ f.mb + n
      if mag ≤ f.maxFin then (s + mag, {})
      else if rm.mode = 1 then (s + f.maxFin, {}) else f.overflow x.neg rm.sat

/-- RND into an integer format of `b` bits (R68, R69); under RTZ a finite value never takes the SAT rule (DEDUCED; log entry 183). -/
def roundInt (b : Nat) (rm : RMode) : Xv → Nat × RFlags
  | .nan => (0, ⟨false, false, true⟩)
  | .inf neg => (if neg then 2 ^ (b - 1) else 2 ^ (b - 1) - 1, ⟨true, false, false⟩)
  | .fin x =>
    let n := x.units 0 rm
    let sat : RFlags := { sat := rm.mode != 1 }
    if x.neg then
      if n > 2 ^ (b - 1) then (2 ^ (b - 1), sat) else (unsint b (-(n : Int)), {})
    else if n > 2 ^ (b - 1) - 1 then (2 ^ (b - 1) - 1, sat) else (n, {})

/-- RND into an element format. E8M0 is written by its own rules (R136); here a power of two keeps its code. -/
def EFmt.round : EFmt → RMode → Xv → Nat × RFlags
  | .fp f, rm, v => f.round rm v
  | .int b, rm, v => roundInt b rm v
  | .e8m0, _, .fin x => ((x.exp + Nat.log2 x.man + 127).toNat % 256, {})
  | .e8m0, _, _ => (0xFF, ⟨false, false, true⟩)

/-- R64: an exact zero is written +0. -/
def Xv.plusZero : Xv → Xv
  | .fin x => .fin (if x.isZero then Ex.zero false else x)
  | v => v

/-! ## Stochastic rounding (R70) -/

/-- `mix` of R70. -/
def mix64 (z : BitVec 64) : BitVec 64 :=
  let z := (z ^^^ (z >>> 30)) * 0xBF58476D1CE4E5B9#64
  let z := (z ^^^ (z >>> 27)) * 0x94D049BB133111EB#64
  z ^^^ (z >>> 31)

/-- `sr_draw` of R70. -/
def srDraw (seed : BitVec 64) (stream row col : Nat) : Nat :=
  let z := mix64 (seed ^^^ (BitVec.ofNat 64 (stream % 2 ^ 32) <<< 32))
  let z := mix64 (z ^^^ (BitVec.ofNat 64 ((row % 2 ^ 32) * 2 ^ 32 + col % 2 ^ 32)))
  (z >>> 32).toNat

/-! ## binary32 operations under RNE (R65, R67) -/

/-- Decode a binary32 code. -/
def f32 (c : Nat) : Xv := fmtFP32.decode c
/-- Round to binary32 under RNE. -/
def rne32 (v : Xv) : Nat := (fmtFP32.round rmNearest v).1
/-- `add32`. -/
def add32 (a b : Nat) : Nat := rne32 ((f32 a).add (f32 b))
/-- `sub32`. -/
def sub32 (a b : Nat) : Nat := rne32 ((f32 a).add (f32 b).negate)
/-- `mul32`. -/
def mul32 (a b : Nat) : Nat := rne32 ((f32 a).mul (f32 b))
/-- The fused a * b + c, rounded once. -/
def fma32 (a b c : Nat) : Nat := rne32 (((f32 a).mul (f32 b)).add (f32 c))

/-- The integer square root of n below 2^(2 * bits), digit by digit. -/
def isqrtBits : Nat → Nat → Nat → Nat
  | 0, _, r => r
  | k + 1, n, r => let c := r + 2 ^ k; isqrtBits k n (if c * c ≤ n then c else r)

/-- Exact quotient to 192 bits and a sticky rest; the caller has dealt with zeros and special values. -/
def Ex.div (a b : Ex) : Ex :=
  let k := 192 + Nat.log2 b.man
  let q := a.man * 2 ^ k / b.man
  ⟨xor a.neg b.neg, q, a.exp - b.exp - k, a.man * 2 ^ k % b.man != 0⟩

/-- The quotient with IEEE special values. -/
def Xv.div : Xv → Xv → Xv
  | .nan, _ => .nan
  | _, .nan => .nan
  | .inf _, .inf _ => .nan
  | .inf a, .fin b => .inf (xor a b.neg)
  | .fin a, .inf b => .fin (Ex.zero (xor a.neg b))
  | .fin a, .fin b =>
    if b.isZero then (if a.isZero then .nan else .inf (xor a.neg b.neg))
    else if a.isZero then .fin (Ex.zero (xor a.neg b.neg)) else .fin (a.div b)

/-- The square root with IEEE special values. -/
def Xv.sqrt : Xv → Xv
  | .nan => .nan
  | .inf neg => if neg then .nan else .inf false
  | .fin x =>
    if x.isZero then .fin x else if x.neg then .nan
    else
      let k := 384 - Nat.log2 x.man
      let k := if (x.exp - k) % 2 = 0 then k else k + 1
      let n := x.man * 2 ^ k
      let r := isqrtBits 200 n 0
      .fin ⟨false, r, (x.exp - k) / 2, r * r != n⟩

/-- The reciprocal square root with IEEE special values (the root of -0 and +0 gives the infinity of its sign). -/
def Xv.rsqrt : Xv → Xv
  | .nan => .nan
  | .inf neg => if neg then .nan else .fin (Ex.zero false)
  | .fin x =>
    if x.isZero then .inf x.neg else if x.neg then .nan
    else
      let k := 384 + Nat.log2 x.man
      let k := if (x.exp + k) % 2 = 0 then k else k + 1
      let r := isqrtBits 200 (2 ^ k / x.man) 0
      .fin ⟨false, r, -((x.exp + k) / 2), r * r * x.man != 2 ^ k⟩

/-- Fraction bits of the fixed-point numbers from which `exp2` and `log2` are formed. -/
def fxBits : Nat := 320

/-- The product over the set bits of a fraction `f` (of `n` bits, highest first) of the roots 2^(2^-i). -/
def exp2Frac : Nat → Nat → Nat → Nat → Nat
  | 0, _, _, acc => acc
  | n + 1, f, root, acc =>
    let root := isqrtBits (fxBits + 1) (root * 2 ^ fxBits) 0
    exp2Frac n f root (if f / 2 ^ n % 2 = 1 then acc * root / 2 ^ fxBits else acc)

/-- exp2 of a finite value: exact at integers, elsewhere truncated far below any rounding position. -/
def Ex.exp2 (x : Ex) : Ex :=
  if x.isZero then ⟨false, 1, 0, false⟩
  else if x.exp + Nat.log2 x.man ≥ 12 then
    if x.neg then ⟨false, 1, -8192, true⟩ else ⟨false, 1, 8192, false⟩
  else
    let n := (-x.exp).toNat
    let v := x.int * 2 ^ x.exp.toNat
    let i := v / (2 ^ n : Int)
    let f := (v % (2 ^ n : Int)).toNat
    if f = 0 then ⟨false, 1, i, false⟩
    else ⟨false, exp2Frac n f (2 * 2 ^ fxBits) (2 ^ fxBits), i - fxBits, true⟩

/-- exp2 with special values. -/
def Xv.exp2 : Xv → Xv
  | .nan => .nan
  | .inf neg => if neg then .fin (Ex.zero false) else .inf false
  | .fin x => .fin x.exp2

/-- `n` binary digits of log2 of a mantissa m in [1, 2) with `fxBits` fraction bits. -/
def log2Digits : Nat → Nat → Nat → Nat
  | 0, _, acc => acc
  | n + 1, m, acc =>
    let q := m * m / 2 ^ fxBits
    if q ≥ 2 * 2 ^ fxBits then log2Digits n (q / 2) (2 * acc + 1) else log2Digits n q (2 * acc)

/-- log2 of a positive finite value: exact at powers of two, elsewhere truncated far below any rounding position. -/
def Ex.log2 (x : Ex) : Ex :=
  let l := Nat.log2 x.man
  let k : Int := x.exp + l
  if x.man = 2 ^ l then Ex.ofInt k 0
  else
    let F := log2Digits 128 (x.man * 2 ^ fxBits / 2 ^ l) 0
    let v := k * 2 ^ 128 + F
    if v ≥ 0 then ⟨false, v.toNat, -128, true⟩ else ⟨true, (-v - 1).toNat, -128, true⟩

/-- log2 with special values. -/
def Xv.log2 : Xv → Xv
  | .nan => .nan
  | .inf neg => if neg then .nan else .inf false
  | .fin x => if x.isZero then .inf true else if x.neg then .nan else .fin x.log2

/-- `div32`. -/
def div32 (a b : Nat) : Nat := rne32 ((f32 a).div (f32 b))
/-- `sqrt32`. -/
def sqrt32 (a : Nat) : Nat := rne32 (f32 a).sqrt
/-- `exp2_32`. -/
def exp2_32 (a : Nat) : Nat := rne32 (f32 a).exp2

/-- Maximum of R105: NaN if either is NaN; +0 above -0. -/
def Xv.max (a b : Xv) : Xv :=
  match a, b with
  | .nan, _ => .nan
  | _, .nan => .nan
  | .fin x, .fin y => if x.isZero && y.isZero then (if x.neg then b else a) else if a.lt b then b else a
  | _, _ => if a.lt b then b else a

/-- Minimum of R105: NaN if either is NaN; -0 below +0. -/
def Xv.min (a b : Xv) : Xv :=
  match a, b with
  | .nan, _ => .nan
  | _, .nan => .nan
  | .fin x, .fin y => if x.isZero && y.isZero then (if x.neg then a else b) else if b.lt a then b else a
  | _, _ => if b.lt a then b else a

/-- `max32`. -/
def max32 (a b : Nat) : Nat := rne32 ((f32 a).max (f32 b))
/-- `min32`. -/
def min32 (a b : Nat) : Nat := rne32 ((f32 a).min (f32 b))

/-! ## The chunk-and-tree order of R65 -/

/-- One level of the tree: neighbours combined, lower index on the left. -/
def pairUp (op : Nat → Nat → Nat) : List Nat → List Nat
  | a :: b :: t => op a b :: pairUp op t
  | t => t

/-- `n` levels of the tree. -/
def treeLevels (op : Nat → Nat → Nat) : Nat → List Nat → List Nat
  | 0, l => l
  | n + 1, l => treeLevels op n (pairUp op l)

/-- One chunk of 256 terms, the missing ones `ident`, reduced by the eight-level tree. -/
def chunkTree (op : Nat → Nat → Nat) (ident : Nat) (l : List Nat) : Nat :=
  (treeLevels op 8 (l ++ List.replicate (256 - l.length) ident)).headD ident

/-- Chunks of 256 in index order, from a running result; the fuel counts chunks. -/
def chunkReduce (op : Nat → Nat → Nat) (ident : Nat) : Nat → List Nat → Nat → Nat
  | 0, _, acc => acc
  | n + 1, l, acc =>
    if l.isEmpty then acc
    else chunkReduce op ident n (l.drop 256) (op acc (chunkTree op ident (l.take 256)))

/-- The reduction of a list of binary32 codes in the order of R65. -/
def reduce32 (op : Nat → Nat → Nat) (ident : Nat) (l : List Nat) : Nat :=
  chunkReduce op ident (l.length / 256 + 1) l ident

/-! ## XP160 (R53-R55) -/

/-- An XP160 value: 160-bit integer, anchor, flags (R53). -/
structure Xp where
  v      : Int
  a      : Int
  ovf    : Bool
  negInf : Bool
  inf    : Bool
  nan    : Bool
  wide   : Bool
  deriving DecidableEq, Repr

/-- The value 0 at anchor 0. -/
def Xp.zero : Xp := ⟨0, 0, false, false, false, false, false⟩

/-- Saturation to 160 signed bits: the value and whether it saturated (R54, R61). -/
def sat160 (n : Int) : Int × Bool :=
  if n > 2 ^ 159 - 1 then (2 ^ 159 - 1, true) else if n < -(2 ^ 159) then (-(2 ^ 159), true) else (n, false)

/-- n * 2^s rounded toward minus infinity, and whether a 1 bit was shifted out (R54, R60). -/
def shiftFloor (n : Int) (s : Int) : Int × Bool :=
  if s ≥ 0 then (n * 2 ^ s.toNat, false) else (n / 2 ^ (-s).toNat, n % 2 ^ (-s).toNat != 0)

/-- Realignment to a new anchor (R54). -/
def Xp.realign (x : Xp) (a : Int) : Xp :=
  if x.nan || x.inf then x
  else
    let (n, lost) := shiftFloor x.v (x.a - a)
    let (n, o) := sat160 n
    { x with v := n, a := a, ovf := x.ovf || o, wide := x.wide || lost }

/-- The NaN value with a `WIDE_SPAN` flag (R53: the other flags are 0). -/
def Xp.mkNan (wide : Bool) : Xp := ⟨0, 0, false, false, false, true, wide⟩

/-- The infinite value of a sign with its flags. -/
def Xp.mkInf (neg ovf wide : Bool) : Xp := ⟨0, 0, ovf, neg, true, false, wide⟩

/-- The anchor of an operand: a NaN or infinite value carries `A` = 0 (R53). -/
def Xp.anchor (x : Xp) : Int := if x.nan || x.inf then 0 else x.a

/-- The largest anchor among the operands of a sum (R55). -/
def xpTopAnchor (l : List Xp) : Int :=
  match l.map Xp.anchor with
  | [] => 0
  | a :: t => t.foldl max a

/-- The integer that an operand gives to a sum: a NaN or infinite value carries `V` = 0 (R53). -/
def Xp.term (x : Xp) : Int := if x.nan || x.inf then 0 else x.v

/-- The operands of a sum, realigned to its anchor (R54, R55). -/
def xpTerms (l : List Xp) : List Xp := l.map (fun x => x.realign (xpTopAnchor l))

/-- Did an operand saturate when it was realigned, or the sum, or did an operand carry `XP_OVF` (R54, R55, R81)? Also where a special
value decides the result. -/
def xpAddOvf (l : List Xp) : Bool :=
  (xpTerms l).any (·.ovf) || (sat160 (((xpTerms l).map Xp.term).foldl (· + ·) 0)).2

/-- XP160 addition of any number of operands (R55). DESIGN CHOICE (log entry 184): an infinite result carries the flags of its operands
alone, also where the sum of the finite `V`s saturates, which `xpAddOvf` counts. -/
def xpAdd (l : List Xp) : Xp :=
  let r := xpTerms l
  let wide := r.any (·.wide)
  let ovf := r.any (·.ovf)
  let pinf := r.any (fun x => x.inf && !x.negInf)
  let ninf := r.any (fun x => x.inf && x.negInf)
  if r.any (·.nan) || (pinf && ninf) then Xp.mkNan wide
  else if pinf then Xp.mkInf false ovf wide
  else if ninf then Xp.mkInf true ovf wide
  else
    let (n, o) := sat160 ((r.map (·.v)).foldl (· + ·) 0)
    ⟨n, xpTopAnchor l, ovf || o, false, false, false, wide⟩

/-- The exact value an XP160 stands for. -/
def Xp.value (x : Xp) : Xv :=
  if x.nan then .nan else if x.inf then .inf x.negInf else .fin (Ex.ofInt x.v x.a)

/-- Little-endian bytes of a number (R7). -/
def leBytes : Nat → Nat → List Byte
  | 0, _ => []
  | n + 1, v => BitVec.ofNat 8 v :: leBytes n (v / 256)

/-- The number of little-endian bytes (R7). -/
def leNat : List Byte → Nat
  | [] => 0
  | b :: t => b.toNat + 256 * leNat t

/-- The 24-byte slot of an XP160 value (R53). -/
def Xp.bytes (x : Xp) : List Byte :=
  leBytes 20 (unsint 160 x.v) ++ leBytes 2 (unsint 16 x.a)
    ++ [BitVec.ofNat 8 ((if x.ovf then 16 else 0) + (if x.negInf then 8 else 0) + (if x.inf then 4 else 0)
        + (if x.nan then 2 else 0) + (if x.wide then 1 else 0)), 0]

/-- The XP160 value of a slot (R53). -/
def Xp.ofBytes (l : List Byte) : Xp :=
  let f := leNat ((l.drop 22).take 1)
  let bit := fun i => f / 2 ^ i % 2 == 1
  ⟨sint 160 (leNat (l.take 20)), sint 16 (leNat ((l.drop 20).take 2)), bit 4, bit 3, bit 2, bit 1, bit 0⟩

end Sys2Proof.Machine
end

