-- ==== Sys2Proof/Machine/Crypto.lean ====
section
/-! DEFINITION. SHA-512 (FIPS 180-4), Ed25519 (RFC 8032) and the key certificates of R505, by the names R504 gives them. -/

namespace Sys2Proof.Machine

/-! ## SHA-512 -/

/-- Round constants 0 to 19. -/
def shaK0 : List (BitVec 64) :=
  [0x428A2F98D728AE22, 0x7137449123EF65CD, 0xB5C0FBCFEC4D3B2F, 0xE9B5DBA58189DBBC, 0x3956C25BF348B538,
   0x59F111F1B605D019, 0x923F82A4AF194F9B, 0xAB1C5ED5DA6D8118, 0xD807AA98A3030242, 0x12835B0145706FBE,
   0x243185BE4EE4B28C, 0x550C7DC3D5FFB4E2, 0x72BE5D74F27B896F, 0x80DEB1FE3B1696B1, 0x9BDC06A725C71235,
   0xC19BF174CF692694, 0xE49B69C19EF14AD2, 0xEFBE4786384F25E3, 0x0FC19DC68B8CD5B5, 0x240CA1CC77AC9C65]

/-- Round constants 20 to 39. -/
def shaK1 : List (BitVec 64) :=
  [0x2DE92C6F592B0275, 0x4A7484AA6EA6E483, 0x5CB0A9DCBD41FBD4, 0x76F988DA831153B5, 0x983E5152EE66DFAB,
   0xA831C66D2DB43210, 0xB00327C898FB213F, 0xBF597FC7BEEF0EE4, 0xC6E00BF33DA88FC2, 0xD5A79147930AA725,
   0x06CA6351E003826F, 0x142929670A0E6E70, 0x27B70A8546D22FFC, 0x2E1B21385C26C926, 0x4D2C6DFC5AC42AED,
   0x53380D139D95B3DF, 0x650A73548BAF63DE, 0x766A0ABB3C77B2A8, 0x81C2C92E47EDAEE6, 0x92722C851482353B]

/-- Round constants 40 to 59. -/
def shaK2 : List (BitVec 64) :=
  [0xA2BFE8A14CF10364, 0xA81A664BBC423001, 0xC24B8B70D0F89791, 0xC76C51A30654BE30, 0xD192E819D6EF5218,
   0xD69906245565A910, 0xF40E35855771202A, 0x106AA07032BBD1B8, 0x19A4C116B8D2D0C8, 0x1E376C085141AB53,
   0x2748774CDF8EEB99, 0x34B0BCB5E19B48A8, 0x391C0CB3C5C95A63, 0x4ED8AA4AE3418ACB, 0x5B9CCA4F7763E373,
   0x682E6FF3D6B2B8A3, 0x748F82EE5DEFB2FC, 0x78A5636F43172F60, 0x84C87814A1F0AB72, 0x8CC702081A6439EC]

/-- Round constants 60 to 79. -/
def shaK3 : List (BitVec 64) :=
  [0x90BEFFFA23631E28, 0xA4506CEBDE82BDE9, 0xBEF9A3F7B2C67915, 0xC67178F2E372532B, 0xCA273ECEEA26619C,
   0xD186B8C721C0C207, 0xEADA7DD6CDE0EB1E, 0xF57D4F7FEE6ED178, 0x06F067AA72176FBA, 0x0A637DC5A2C898A6,
   0x113F9804BEF90DAE, 0x1B710B35131C471B, 0x28DB77F523047D84, 0x32CAAB7B40C72493, 0x3C9EBE0A15C9BEBC,
   0x431D67C49C100D4C, 0x4CC5D4BECB3E42B6, 0x597F299CFC657E2A, 0x5FCB6FAB3AD6FAEC, 0x6C44198C4A475817]

/-- The initial hash value. -/
def shaInit : List (BitVec 64) :=
  [0x6A09E667F3BCC908, 0xBB67AE8584CAA73B, 0x3C6EF372FE94F82B, 0xA54FF53A5F1D36F1, 0x510E527FADE682D1,
   0x9B05688C2B3E6C1F, 0x1F83D9ABFB41BD6B, 0x5BE0CD19137E2179]

/-- The round constants. -/
def shaK : List (BitVec 64) := shaK0 ++ shaK1 ++ shaK2 ++ shaK3

/-- A 64-bit word of eight bytes, most significant first. -/
def beWord (l : List Byte) : BitVec 64 := l.foldl (fun w b => (w <<< 8) ||| b.setWidth 64) 0

/-- Eight bytes of a word, most significant first. -/
def beBytes (w : BitVec 64) : List Byte := (List.range 8).map fun i => (w >>> (56 - 8 * i)).setWidth 8

/-- The message with its padding. -/
def shaPad (l : List Byte) : List Byte :=
  let n := l.length
  l ++ [0x80] ++ List.replicate ((239 - n % 128) % 128) 0 ++ (List.range 16).map fun i => BitVec.ofNat 8 (8 * n / 2 ^ (120 - 8 * i))

/-- The last sixteen words of the schedule, newest first, advanced by one. -/
def shaNext (w : List (BitVec 64)) : BitVec 64 :=
  let g := fun i => w.getD (i - 1) 0
  let s0 := (g 15).rotateRight 1 ^^^ (g 15).rotateRight 8 ^^^ (g 15 >>> 7)
  let s1 := (g 2).rotateRight 19 ^^^ (g 2).rotateRight 61 ^^^ (g 2 >>> 6)
  s1 + g 7 + s0 + g 16

/-- The working variables. -/
structure ShaVars where
  a : BitVec 64
  b : BitVec 64
  c : BitVec 64
  d : BitVec 64
  e : BitVec 64
  f : BitVec 64
  g : BitVec 64
  h : BitVec 64
  deriving DecidableEq, Repr

/-- One round with its constant and schedule word. -/
def ShaVars.round (v : ShaVars) (k w : BitVec 64) : ShaVars :=
  let s1 := v.e.rotateRight 14 ^^^ v.e.rotateRight 18 ^^^ v.e.rotateRight 41
  let ch := (v.e &&& v.f) ^^^ (~~~v.e &&& v.g)
  let t1 := v.h + s1 + ch + k + w
  let s0 := v.a.rotateRight 28 ^^^ v.a.rotateRight 34 ^^^ v.a.rotateRight 39
  let mj := (v.a &&& v.b) ^^^ (v.a &&& v.c) ^^^ (v.b &&& v.c)
  ⟨t1 + (s0 + mj), v.a, v.b, v.c, v.d + t1, v.e, v.f, v.g⟩

/-- The rounds of one block: `ws` the last sixteen words, newest first, `q` the words of the block still to come. -/
def shaRounds : List (BitVec 64) → List (BitVec 64) → List (BitVec 64) → ShaVars → ShaVars
  | [], _, _, v => v
  | k :: ks, ws, q, v =>
    match q with
    | w :: q => shaRounds ks (w :: ws) q (v.round k w)
    | [] =>
      let w := shaNext ws
      shaRounds ks ((w :: ws).take 16) [] (v.round k w)

/-- The first `n` groups of eight bytes as words. -/
def beWords : Nat → List Byte → List (BitVec 64)
  | 0, _ => []
  | n + 1, l => beWord (l.take 8) :: beWords n (l.drop 8)

/-- The hash value after `n` blocks. -/
def shaBlocks : Nat → List Byte → ShaVars → ShaVars
  | 0, _, v => v
  | n + 1, l, v =>
    let u := shaRounds shaK [] (beWords 16 l) v
    shaBlocks n (l.drop 128) ⟨v.a + u.a, v.b + u.b, v.c + u.c, v.d + u.d, v.e + u.e, v.f + u.f, v.g + u.g, v.h + u.h⟩

/-- SHA-512 (R504). -/
def sha512 (l : List Byte) : List Byte :=
  let p := shaPad l
  let g := fun i => shaInit.getD i 0
  let v := shaBlocks (p.length / 128) p ⟨g 0, g 1, g 2, g 3, g 4, g 5, g 6, g 7⟩
  [v.a, v.b, v.c, v.d, v.e, v.f, v.g, v.h].flatMap beBytes

/-! ## Ed25519 -/

/-- The field prime. -/
def edP : Nat := 2 ^ 255 - 19
/-- The order of the base point. -/
def edL : Nat := 2 ^ 252 + 27742317777372353535851937790883648493

/-- `b ^ e mod m` for an exponent of at most `n` bits. -/
def powMod (m : Nat) : Nat → Nat → Nat → Nat
  | 0, _, _ => 1 % m
  | n + 1, b, e =>
    let r := powMod m n (b * b % m) (e / 2)
    if e % 2 = 1 then b * r % m else r

/-- The inverse in the field. -/
def edInv (x : Nat) : Nat := powMod edP 256 x (edP - 2)
/-- Subtraction in the field. -/
def edSub (x y : Nat) : Nat := (x + edP - y % edP) % edP
/-- The curve constant d. -/
def edD : Nat := edSub 0 (121665 * edInv 121666)

/-- A point in extended coordinates. -/
structure EdPt where
  x : Nat
  y : Nat
  z : Nat
  t : Nat
  deriving DecidableEq, Repr

/-- The neutral element. -/
def EdPt.zero : EdPt := ⟨0, 1, 1, 0⟩

/-- Addition (RFC 8032, 5.1.4). -/
def EdPt.add (p q : EdPt) : EdPt :=
  let a := edSub p.y p.x * edSub q.y q.x % edP
  let b := (p.y + p.x) * (q.y + q.x) % edP
  let c := 2 * p.t * q.t * edD % edP
  let d := 2 * p.z * q.z % edP
  let e := edSub b a
  let f := edSub d c
  let g := (d + c) % edP
  let h := (b + a) % edP
  ⟨e * f % edP, g * h % edP, f * g % edP, e * h % edP⟩

/-- Scalar multiplication by a number of at most `n` bits. -/
def EdPt.mul : Nat → Nat → EdPt → EdPt
  | 0, _, _ => .zero
  | n + 1, k, p =>
    let r := EdPt.mul n (k / 2) (p.add p)
    if k % 2 = 1 then p.add r else r

/-- Equality of points. -/
def EdPt.same (p q : EdPt) : Bool := p.x * q.z % edP == q.x * p.z % edP && p.y * q.z % edP == q.y * p.z % edP

/-- Decoding of a point (RFC 8032, 5.1.3). -/
def edDecode (l : List Byte) : Option EdPt :=
  let v := leNat l
  let sign := v / 2 ^ 255 % 2
  let y := v % 2 ^ 255
  if l.length ≠ 32 ∨ edP ≤ y then none
  else
    let u := edSub (y * y) 1
    let w := (edD * (y * y) + 1) % edP
    let w3 := w * w % edP * w % edP
    let x := u * w3 % edP * powMod edP 256 (u * w3 % edP * (w3 * w % edP) % edP) ((edP - 5) / 8) % edP
    let vxx := w * (x * x % edP) % edP
    let x := if vxx = u then some x
      else if vxx = edSub 0 u then some (x * powMod edP 256 2 ((edP - 1) / 4) % edP)
      else none
    match x with
    | none => none
    | some x =>
      if x = 0 ∧ sign = 1 then none
      else
        let x := if x % 2 = sign then x else edSub 0 x
        some ⟨x, y, 1, x * y % edP⟩

/-- Encoding of a point (RFC 8032, 5.1.2). -/
def EdPt.encode (p : EdPt) : List Byte :=
  let zi := edInv p.z
  let x := p.x * zi % edP
  let y := p.y * zi % edP
  leBytes 32 (y + x % 2 * 2 ^ 255)

/-- The base point: y = 4/5, x even. -/
def edBase : EdPt := (edDecode (leBytes 32 (4 * edInv 5 % edP))).getD .zero

/-- The secret scalar of a seed. -/
def edScalar (seed : List Byte) : Nat :=
  let h := leNat ((sha512 seed).take 32)
  h % 2 ^ 254 / 8 * 8 + 2 ^ 254

/-- The public key of a seed. -/
def edPublic (seed : List Byte) : List Byte := (EdPt.mul 256 (edScalar seed) edBase).encode

/-- A signature (RFC 8032, 5.1.6). -/
def edSign (seed msg : List Byte) : List Byte :=
  let a := edPublic seed
  let r := leNat (sha512 ((sha512 seed).drop 32 ++ msg)) % edL
  let rb := (EdPt.mul 256 r edBase).encode
  let k := leNat (sha512 (rb ++ a ++ msg)) % edL
  rb ++ leBytes 32 ((r + k * edScalar seed) % edL)

/-- Verification with the group equation that has the cofactor (RFC 8032, 5.1.7). -/
def edVerify (key msg sig : List Byte) : Bool :=
  if sig.length ≠ 64 then false
  else
    let rb := sig.take 32
    let n := leNat (sig.drop 32)
    match edDecode key, edDecode rb with
    | some a, some r =>
      if edL ≤ n then false
      else
        let k := leNat (sha512 (rb ++ key ++ msg)) % edL
        (EdPt.mul 4 8 (EdPt.mul 256 n edBase)).same (EdPt.mul 4 8 (r.add (EdPt.mul 256 k a)))
    | _, _ => false

/-! ## Key certificates (R505) -/

/-- Bytes [o, o + n). -/
def bytesAt (l : List Byte) (o n : Nat) : List Byte := (l.drop o).take n
/-- Little-endian number at [o, o + n). -/
def numAt (l : List Byte) (o n : Nat) : Nat := leNat (bytesAt l o n)
/-- Are the bytes [o, o + n) all 0? -/
def zerosAt (l : List Byte) (o n : Nat) : Bool := (bytesAt l o n).all (· == 0)

/-- Is a certificate valid for a role: `minRev` the fused minimum revisions, `serial` the package's (R505)? -/
def certOk (c : List Byte) (role minRev serial : Nat) : Bool :=
  c.length == 128 && edVerify (leBytes 32 Config.rootKey.toNat) (bytesAt c 0 64) (bytesAt c 64 64) && numAt c 0 2 == role && zerosAt c 2 2 && zerosAt c 48 16
    && decide (minRev / 256 ^ (role - 1) % 256 ≤ numAt c 4 4) && (role != 3 || numAt c 40 8 == serial)

/-- The key of a certificate. -/
def certKey (c : List Byte) : List Byte := bytesAt c 8 32

end Sys2Proof.Machine
end

