-- ==== Sys2Proof/Machine/DictMap.lean ====
section
/-! DEFINITION. The object dictionary as the tables of the manual list it (R77, R124, R185, R245, R275, R306, R329, R362, R390,
R413, R433, R455, R478, R501, R528): key = index * 256 + subindex, type, access, level, default, persistence and, where the
Description states a range of values, that range. -/

namespace Sys2Proof.Machine

/-- The types of dictionary entries. -/
inductive OdType
  | bool | u8 | u16 | u32 | u64 | i16 | i32 | f32 | str | domain
  deriving DecidableEq, Repr

/-- The access codes of dictionary entries. -/
inductive OdAcc
  | ro | rw | wo | rwIdle
  deriving DecidableEq, Repr

/-- The levels of R21, widest reach first. -/
inductive Level
  | owner | operator | driver | tray
  deriving DecidableEq, Repr

/-- A range of values: lowest, highest, step from the lowest, and single values besides. -/
structure OdRange where
  lo   : Nat
  hi   : Nat
  step : Nat
  also : List Nat
  deriving DecidableEq, Repr

/-- One row of a dictionary table; `count` rows of consecutive subindices share it. -/
structure OdRow where
  name    : String
  key     : Nat
  count   : Nat
  type    : OdType
  acc     : OdAcc
  level   : Level
  dflt    : Nat
  persist : Bool
  range   : Option OdRange
  deriving DecidableEq, Repr

namespace D

/-- 0x8000:01, R77. -/
def ARITH_VERSION : Nat := 0x800001
/-- 0x8000:02, R77. -/
def ARITH_SILICON : Nat := 0x800002
/-- 0x8000:03, R77. -/
def SR_SEED_DEFAULT : Nat := 0x800003
/-- 0x7100:01, R124. -/
def LOAD_CODE : Nat := 0x710001
/-- 0x7100:02, R124. -/
def LOAD_DETAIL : Nat := 0x710002
/-- 0x7100:03, R124. -/
def LOADED : Nat := 0x710003
/-- 0x4000:01, R185. -/
def ECC_BUCKET_CAP : Nat := 0x400001
/-- 0x4000:02, R185. -/
def ECC_BUCKET_LEAK : Nat := 0x400002
/-- 0x4000:03, R185. -/
def MARK_THRESH : Nat := 0x400003
/-- 0x4000:04, R185. -/
def MARK_WINDOW : Nat := 0x400004
/-- 0x4000:05, R185. -/
def AUTO_MARK : Nat := 0x400005
/-- 0x4000:06, R185. -/
def SCRUB_RATE : Nat := 0x400006
/-- 0x4010:01, R185. -/
def DIE_MARKS : Nat := 0x401001
/-- 0x4020:01, R185. -/
def CHANNELS : Nat := 0x402001
/-- 0x4030:01, R185. -/
def REPAIRED : Nat := 0x403001
/-- 0x7000:01, R245. -/
def JOB_ID : Nat := 0x700001
/-- 0x7000:02, R245. -/
def COMMITTED : Nat := 0x700002
/-- 0x7000:03, R245. -/
def EPOCH_STATE : Nat := 0x700003
/-- 0x7000:04, R245. -/
def EPOCH_TIMEOUT : Nat := 0x700004
/-- 0x7000:05, R245. -/
def CATCHUP_PCT : Nat := 0x700005
/-- 0x7000:06, R245. -/
def ABORT_DRAIN : Nat := 0x700006
/-- 0x7000:07, R245. -/
def MAX_LAG : Nat := 0x700007
/-- 0x7200:01, R275. -/
def MBX_TIMEOUT : Nat := 0x720001
/-- 0x7200:02, R275. -/
def RC_PREFERRED : Nat := 0x720002
/-- 0x7200:03, R275. -/
def RC_ACTIVE : Nat := 0x720003
/-- 0x7200:04, R275. -/
def STANDBY_OK : Nat := 0x720004
/-- 0x7200:05, R275. -/
def STANDBY_CHECK : Nat := 0x720005
/-- 0x7200:06, R275. -/
def FAILOVERS : Nat := 0x720006
/-- 0x3000:01, R306. -/
def OWN_ID : Nat := 0x300001
/-- 0x3000:02, R306. -/
def TRAY_NO : Nat := 0x300002
/-- 0x3000:03, R306. -/
def LINK_VERSION : Nat := 0x300003
/-- 0x3000:04, R306. -/
def FABRIC_STATE : Nat := 0x300004
/-- 0x3000:05, R306. -/
def AUTO_WIDEN : Nat := 0x300005
/-- 0x3000:06, R306. -/
def LANE_PARK_LIMIT : Nat := 0x300006
/-- 0x3010:01, R306. -/
def MAP_FP : Nat := 0x301001
/-- 0x3011:01, R306. -/
def MAP_CP : Nat := 0x301101
/-- 0x3012:01, R306. -/
def MAP_SN : Nat := 0x301201
/-- 0x3020:01, R306. -/
def RTIME_NEXT : Nat := 0x302001
/-- 0x3020:02, R306. -/
def RTIME_STATE : Nat := 0x302002
/-- 0x3000:07, R329. -/
def E2E_TIMEOUT : Nat := 0x300007
/-- 0x3000:08, R329. -/
def PKT_LIFETIME : Nat := 0x300008
/-- 0x3000:09, R329. -/
def CMAP_PERIOD : Nat := 0x300009
/-- 0x3100:01, R362. -/
def COLL_RESEND_US : Nat := 0x310001
/-- 0x3100:02, R362. -/
def COLL_STALL_MS : Nat := 0x310002
/-- 0x3100:03, R362. -/
def COAST_US : Nat := 0x310003
/-- 0x3100:04, R362. -/
def SKEW_REPORT_US : Nat := 0x310004
/-- 0x2000:01, R390. -/
def PEAK_LIMIT_W : Nat := 0x200001
/-- 0x2000:02, R390. -/
def PEAK_WINDOW_US : Nat := 0x200002
/-- 0x2000:03, R390. -/
def AVG_LIMIT_W : Nat := 0x200003
/-- 0x2000:04, R390. -/
def AVG_WINDOW_MS : Nat := 0x200004
/-- 0x2000:05, R390. -/
def LIMIT_MODE : Nat := 0x200005
/-- 0x2000:06, R390. -/
def SLEW_W_PER_MS : Nat := 0x200006
/-- 0x2000:07, R390. -/
def FLOOR_W : Nat := 0x200007
/-- 0x2000:08, R390. -/
def FLOOR_MODE : Nat := 0x200008
/-- 0x2000:09, R390. -/
def STAGGER_STEP_US : Nat := 0x200009
/-- 0x2000:0A, R390. -/
def START_INDEX : Nat := 0x20000A
/-- 0x2000:0B, R390. -/
def OPER_CAP_W : Nat := 0x20000B
/-- 0x2000:0C, R390. -/
def BS_HOLD_MS : Nat := 0x20000C
/-- 0x2000:0D, R390. -/
def HINT_EXPIRY_MS : Nat := 0x20000D
/-- 0x2000:0E, R390. -/
def HINT_FLOOR_MAX_W : Nat := 0x20000E
/-- 0x2000:10, R390. -/
def PWR_NOW_W : Nat := 0x200010
/-- 0x2000:11, R390. -/
def ENERGY_J : Nat := 0x200011
/-- 0x2000:12, R390. -/
def PWR_STATE : Nat := 0x200012
/-- 0x2000:13, R390. -/
def PWR_BIND : Nat := 0x200013
/-- 0x2800:01, R413. -/
def TJ_MARGIN_K : Nat := 0x280001
/-- 0x2800:03, R413. -/
def RAMP_RATE : Nat := 0x280003
/-- 0x2800:04, R413. -/
def RAMP_BAND_C : Nat := 0x280004
/-- 0x2800:05, R413. -/
def TAU_MS : Nat := 0x280005
/-- 0x2800:06, R413. -/
def RTH_WARN : Nat := 0x280006
/-- 0x2800:07, R413. -/
def RTH_INIT : Nat := 0x280007
/-- 0x2800:08, R413. -/
def TRAY_INLET : Nat := 0x280008
/-- 0x2800:09, R413. -/
def FLOW_WARN : Nat := 0x280009
/-- 0x2800:0A, R413. -/
def GUARD_CLEAR : Nat := 0x28000A
/-- 0x2800:0B, R413. -/
def THERM_CLEAR : Nat := 0x28000B
/-- 0x2800:0C, R413. -/
def COOLANT_C : Nat := 0x28000C
/-- 0x2800:10, R413. -/
def TJ_HOT : Nat := 0x280010
/-- 0x2800:11, R413. -/
def INLET_C : Nat := 0x280011
/-- 0x2800:12, R413. -/
def OUTLET_C : Nat := 0x280012
/-- 0x2800:13, R413. -/
def RTH_EST : Nat := 0x280013
/-- 0x2800:14, R413. -/
def FLOW_EST : Nat := 0x280014
/-- 0x2800:15, R413. -/
def THERM_CAP_W : Nat := 0x280015
/-- 0x2800:16, R413. -/
def GUARD_BAD : Nat := 0x280016
/-- 0x2800:17, R413. -/
def CUT_REQ : Nat := 0x280017
/-- 0x5000:01, R433. -/
def BUCKET_CAP : Nat := 0x500001
/-- 0x5000:02, R433. -/
def BUCKET_LEAK : Nat := 0x500002
/-- 0x5000:03, R433. -/
def QUIET_S : Nat := 0x500003
/-- 0x5000:04, R433. -/
def RECOVERY_LIMIT : Nat := 0x500004
/-- 0x5000:05, R433. -/
def FAULT_STATE : Nat := 0x500005
/-- 0x5000:06, R433. -/
def RECOVERIES : Nat := 0x500006
/-- 0x5000:07, R433. -/
def FAULT_CLEAR : Nat := 0x500007
/-- 0x5000:08, R433. -/
def FAULT_ACK : Nat := 0x500008
/-- 0x5000:09, R433. -/
def LAST_CRITICAL : Nat := 0x500009
/-- 0x5000:0A, R433. -/
def RECOVERIES_RESET : Nat := 0x50000A
/-- 0x5000:0B, R433. -/
def INJECT_EN : Nat := 0x50000B
/-- 0x5800:01, R455. -/
def FENCE_DRAIN_US : Nat := 0x580001
/-- 0x5800:02, R455. -/
def ESC_WINDOW_S : Nat := 0x580002
/-- 0x5800:03, R455. -/
def ESC_REPEAT : Nat := 0x580003
/-- 0x5800:04, R455. -/
def ESC_AUTO_LIMIT : Nat := 0x580004
/-- 0x5800:05, R455. -/
def AUTO_LIFT : Nat := 0x580005
/-- 0x5800:06, R455. -/
def RESET_GEN : Nat := 0x580006
/-- 0x5800:07, R455. -/
def LAST_RESET : Nat := 0x580007
/-- 0x5800:08, R455. -/
def RESET_REQUEST : Nat := 0x580008
/-- 0x5800:09, R455. -/
def ESC_STATE : Nat := 0x580009
/-- 0x1100:01, R478. -/
def STAGE_REPORT : Nat := 0x110001
/-- 0x1100:09, R478. -/
def BGTEST_REPORT : Nat := 0x110009
/-- 0x1100:0A, R478. -/
def BRINGUP_STATE : Nat := 0x11000A
/-- 0x1100:0B, R478. -/
def DRIFT_MAP : Nat := 0x11000B
/-- 0x1100:0C, R478. -/
def BRINGUP_MS : Nat := 0x11000C
/-- 0x1200:01, R478. -/
def ACCEPT_REDUCED : Nat := 0x120001
/-- 0x1200:02, R478. -/
def TOPO_DIGEST : Nat := 0x120002
/-- 0x1200:03, R478. -/
def TOPO_ACCEPT : Nat := 0x120003
/-- 0x1200:04, R478. -/
def GEOMETRY_EXPECT : Nat := 0x120004
/-- 0x1200:05, R478. -/
def BGTEST_EN : Nat := 0x120005
/-- 0x6100:01, R478. -/
def LICENCE : Nat := 0x610001
/-- 0x6100:02, R478. -/
def LIC_STATE : Nat := 0x610002
/-- 0x6100:03, R478. -/
def LIC_SEQ : Nat := 0x610003
/-- 0x6100:04, R478. -/
def LIC_PRODUCT : Nat := 0x610004
/-- 0x6100:05, R478. -/
def LIC_REFUSE : Nat := 0x610005
/-- 0x1000:01, R501. -/
def VENDOR : Nat := 0x100001
/-- 0x1000:02, R501. -/
def PRODUCT_NAME : Nat := 0x100002
/-- 0x1000:03, R501. -/
def SERIAL : Nat := 0x100003
/-- 0x1000:04, R501. -/
def STEPPING : Nat := 0x100004
/-- 0x1000:05, R501. -/
def ORDERING : Nat := 0x100005
/-- 0x1000:06, R501. -/
def OD_VERSION : Nat := 0x100006
/-- 0x1000:07, R501. -/
def POSITION : Nat := 0x100007
/-- 0x1000:08, R501. -/
def SB_UPTIME_S : Nat := 0x100008
/-- 0x1010:01, R501. -/
def MAC : Nat := 0x101001
/-- 0x1010:02, R501. -/
def PLCA_NODE : Nat := 0x101002
/-- 0x1010:03, R501. -/
def PLCA_TO : Nat := 0x101003
/-- 0x1010:04, R501. -/
def OD_PORT : Nat := 0x101004
/-- 0x1020:01, R501. -/
def TRAY_TIMEOUT_S : Nat := 0x102001
/-- 0x1020:02, R501. -/
def ORPHAN_CAP_W : Nat := 0x102002
/-- 0x1020:03, R501. -/
def ORPHAN_STATE : Nat := 0x102003
/-- 0x1020:04, R501. -/
def ORPHAN_RELEASE : Nat := 0x102004
/-- 0x1020:05, R501. -/
def TRAY_SESSION : Nat := 0x102005
/-- 0x6000:01, R528. -/
def FW_HEADER : Nat := 0x600001
/-- 0x6000:02, R528. -/
def FW_ABORT : Nat := 0x600002
/-- 0x6000:03, R528. -/
def FW_ACTIVATE : Nat := 0x600003
/-- 0x6000:04, R528. -/
def OWNER_LOCK : Nat := 0x600004
/-- 0x6000:05, R528. -/
def FW_RESULT : Nat := 0x600005
/-- 0x6000:06, R528. -/
def FW_TRIAL_S : Nat := 0x600006
/-- 0x6001:01, R528. -/
def FW_STATUS : Nat := 0x600101
/-- 0x6010:01, R528. -/
def OWNER_KEY : Nat := 0x601001
/-- 0x6010:02, R528. -/
def GRANT_MIN_SEQ : Nat := 0x601002
/-- 0x6010:03, R528. -/
def GRANT_SLOTS : Nat := 0x601003
/-- 0x6011:01, R528. -/
def GRANT : Nat := 0x601101
/-- 0x6020:01, R528. -/
def ATTEST_NONCE : Nat := 0x602001
/-- 0x6020:02, R528. -/
def ATTEST_REPORT : Nat := 0x602002
/-- 0x6030:01, R528. -/
def IDENTITY_CERT : Nat := 0x603001
/-- 0x6030:02, R528. -/
def LICENCE_KEY_CERT : Nat := 0x603002
/-- 0x6030:03, R528. -/
def MIN_KEY_REV : Nat := 0x603003
/-- 0x6030:04, R528. -/
def IDENTITY_KEY : Nat := 0x603004

end D

/-- Part 0 of the dictionary, in rising order of key. -/
def dictMap0 : List OdRow := [
  ⟨"VENDOR", 0x100001, 1, .str, .ro, .tray, 0, false, none⟩,
  ⟨"PRODUCT_NAME", 0x100002, 1, .str, .ro, .tray, 0, false, none⟩,
  ⟨"SERIAL", 0x100003, 1, .u64, .ro, .tray, 0, false, none⟩,
  ⟨"STEPPING", 0x100004, 1, .u16, .ro, .tray, 0, false, none⟩,
  ⟨"ORDERING", 0x100005, 1, .str, .ro, .tray, 0, false, none⟩,
  ⟨"OD_VERSION", 0x100006, 1, .u16, .ro, .tray, 1, false, none⟩,
  ⟨"POSITION", 0x100007, 1, .u8, .ro, .tray, 0, false, none⟩,
  ⟨"SB_UPTIME_S", 0x100008, 1, .u32, .ro, .tray, 0, false, none⟩,
  ⟨"MAC", 0x101001, 1, .u64, .ro, .tray, 0, false, none⟩,
  ⟨"PLCA_NODE", 0x101002, 1, .u8, .ro, .tray, 0, false, none⟩,
  ⟨"PLCA_TO", 0x101003, 1, .u8, .rw, .operator, 32, true, some ⟨16, 255, 1, []⟩⟩,
  ⟨"OD_PORT", 0x101004, 1, .u16, .ro, .tray, 30176, false, none⟩,
  ⟨"TRAY_TIMEOUT_S", 0x102001, 1, .u16, .rw, .operator, 10, true, some ⟨2, 600, 1, []⟩⟩,
  ⟨"ORPHAN_CAP_W", 0x102002, 1, .u16, .rw, .operator, 0, true, some ⟨300, 1400, 1, [0]⟩⟩,
  ⟨"ORPHAN_STATE", 0x102003, 1, .u8, .ro, .tray, 0, false, none⟩,
  ⟨"ORPHAN_RELEASE", 0x102004, 1, .bool, .wo, .tray, 0, false, none⟩,
  ⟨"TRAY_SESSION", 0x102005, 1, .u32, .ro, .tray, 0, false, none⟩,
  ⟨"STAGE_REPORT", 0x110001, 8, .domain, .ro, .tray, 0, false, none⟩,
  ⟨"BGTEST_REPORT", 0x110009, 1, .domain, .ro, .tray, 0, false, none⟩,
  ⟨"BRINGUP_STATE", 0x11000A, 1, .u32, .ro, .tray, 0, false, none⟩,
  ⟨"DRIFT_MAP", 0x11000B, 1, .domain, .ro, .tray, 0, false, none⟩,
  ⟨"BRINGUP_MS", 0x11000C, 1, .u32, .ro, .tray, 0, false, none⟩,
  ⟨"ACCEPT_REDUCED", 0x120001, 1, .bool, .rw, .driver, 0, true, none⟩,
  ⟨"TOPO_DIGEST", 0x120002, 1, .u64, .ro, .tray, 0, false, none⟩,
  ⟨"TOPO_ACCEPT", 0x120003, 1, .u64, .wo, .operator, 0, false, none⟩,
  ⟨"GEOMETRY_EXPECT", 0x120004, 1, .u16, .rw, .operator, 0, true, none⟩,
  ⟨"BGTEST_EN", 0x120005, 1, .bool, .rw, .driver, 1, true, none⟩,
  ⟨"PEAK_LIMIT_W", 0x200001, 1, .u16, .rw, .operator, 1300, true, none⟩,
  ⟨"PEAK_WINDOW_US", 0x200002, 1, .u32, .rwIdle, .operator, 1000, true, some ⟨500, 10000, 10, []⟩⟩,
  ⟨"AVG_LIMIT_W", 0x200003, 1, .u16, .rw, .operator, 1100, true, some ⟨300, 1100, 1, []⟩⟩]

/-- Part 1 of the dictionary, in rising order of key. -/
def dictMap1 : List OdRow := [
  ⟨"AVG_WINDOW_MS", 0x200004, 1, .u32, .rwIdle, .operator, 2000, true, some ⟨500, 30000, 10, []⟩⟩,
  ⟨"LIMIT_MODE", 0x200005, 1, .u8, .rwIdle, .operator, 3, true, some ⟨1, 3, 1, []⟩⟩,
  ⟨"SLEW_W_PER_MS", 0x200006, 1, .u16, .rw, .operator, 25, true, some ⟨2, 400, 1, []⟩⟩,
  ⟨"FLOOR_W", 0x200007, 1, .u16, .rw, .operator, 0, true, some ⟨0, 900, 1, []⟩⟩,
  ⟨"FLOOR_MODE", 0x200008, 1, .u8, .rw, .operator, 2, true, some ⟨0, 2, 1, []⟩⟩,
  ⟨"STAGGER_STEP_US", 0x200009, 1, .u32, .rw, .operator, 2000, true, some ⟨0, 20000, 100, []⟩⟩,
  ⟨"START_INDEX", 0x20000A, 1, .u8, .rw, .operator, 255, true, some ⟨0, 95, 1, [255]⟩⟩,
  ⟨"OPER_CAP_W", 0x20000B, 1, .u16, .rw, .operator, 1400, true, some ⟨300, 1400, 1, []⟩⟩,
  ⟨"BS_HOLD_MS", 0x20000C, 1, .u16, .rw, .operator, 10, true, some ⟨1, 1000, 1, []⟩⟩,
  ⟨"HINT_EXPIRY_MS", 0x20000D, 1, .u32, .rw, .driver, 1000, true, some ⟨10, 60000, 1, []⟩⟩,
  ⟨"HINT_FLOOR_MAX_W", 0x20000E, 1, .u16, .rw, .operator, 900, true, some ⟨0, 900, 1, []⟩⟩,
  ⟨"PWR_NOW_W", 0x200010, 1, .u16, .ro, .tray, 0, false, none⟩,
  ⟨"ENERGY_J", 0x200011, 1, .u64, .ro, .tray, 0, false, none⟩,
  ⟨"PWR_STATE", 0x200012, 1, .u8, .ro, .tray, 0, false, none⟩,
  ⟨"PWR_BIND", 0x200013, 1, .u8, .ro, .tray, 0, false, none⟩,
  ⟨"TJ_MARGIN_K", 0x280001, 1, .u8, .rw, .operator, 3, true, some ⟨1, 10, 1, []⟩⟩,
  ⟨"RAMP_RATE", 0x280003, 1, .u16, .rw, .operator, 30, true, some ⟨5, 200, 1, []⟩⟩,
  ⟨"RAMP_BAND_C", 0x280004, 1, .u8, .rw, .operator, 80, true, some ⟨60, 105, 1, []⟩⟩,
  ⟨"TAU_MS", 0x280005, 1, .u16, .rwIdle, .operator, 250, true, some ⟨50, 2000, 1, []⟩⟩,
  ⟨"RTH_WARN", 0x280006, 1, .u16, .rw, .operator, 4500, true, none⟩,
  ⟨"RTH_INIT", 0x280007, 1, .u16, .rwIdle, .operator, 4000, true, none⟩,
  ⟨"TRAY_INLET", 0x280008, 1, .i16, .rw, .tray, 32767, false, none⟩,
  ⟨"FLOW_WARN", 0x280009, 1, .u16, .rw, .operator, 100, true, none⟩,
  ⟨"GUARD_CLEAR", 0x28000A, 1, .u16, .wo, .operator, 0, false, none⟩,
  ⟨"THERM_CLEAR", 0x28000B, 1, .u8, .wo, .operator, 0, false, none⟩,
  ⟨"COOLANT_C", 0x28000C, 1, .u16, .rwIdle, .operator, 662, true, none⟩,
  ⟨"TJ_HOT", 0x280010, 1, .i16, .ro, .tray, 0, false, none⟩,
  ⟨"INLET_C", 0x280011, 1, .i16, .ro, .tray, 0, false, none⟩,
  ⟨"OUTLET_C", 0x280012, 1, .i16, .ro, .tray, 0, false, none⟩,
  ⟨"RTH_EST", 0x280013, 1, .u16, .ro, .tray, 0, false, none⟩]

/-- Part 2 of the dictionary, in rising order of key. -/
def dictMap2 : List OdRow := [
  ⟨"FLOW_EST", 0x280014, 1, .u16, .ro, .tray, 0, false, none⟩,
  ⟨"THERM_CAP_W", 0x280015, 1, .u16, .ro, .tray, 1400, false, none⟩,
  ⟨"GUARD_BAD", 0x280016, 1, .u16, .ro, .tray, 0, false, none⟩,
  ⟨"CUT_REQ", 0x280017, 1, .bool, .ro, .tray, 0, false, none⟩,
  ⟨"OWN_ID", 0x300001, 1, .u16, .ro, .tray, 65535, false, none⟩,
  ⟨"TRAY_NO", 0x300002, 1, .u8, .rwIdle, .tray, 255, true, some ⟨0, 23, 1, [255]⟩⟩,
  ⟨"LINK_VERSION", 0x300003, 1, .u16, .ro, .tray, 0, false, none⟩,
  ⟨"FABRIC_STATE", 0x300004, 1, .u32, .ro, .tray, 0, false, none⟩,
  ⟨"AUTO_WIDEN", 0x300005, 1, .bool, .rw, .driver, 1, true, none⟩,
  ⟨"LANE_PARK_LIMIT", 0x300006, 1, .u8, .rw, .operator, 3, true, some ⟨1, 255, 1, []⟩⟩,
  ⟨"E2E_TIMEOUT", 0x300007, 1, .u32, .rwIdle, .operator, 200, true, some ⟨20, 100000, 1, []⟩⟩,
  ⟨"PKT_LIFETIME", 0x300008, 1, .u32, .rwIdle, .operator, 80, true, some ⟨8, 1000, 1, []⟩⟩,
  ⟨"CMAP_PERIOD", 0x300009, 1, .u32, .rw, .driver, 1000, true, some ⟨100, 100000, 1, []⟩⟩,
  ⟨"MAP_FP", 0x301001, 16, .u32, .rw, .operator, 0, true, none⟩,
  ⟨"MAP_CP", 0x301101, 2, .u32, .rw, .operator, 0, true, none⟩,
  ⟨"MAP_SN", 0x301201, 18, .u64, .rw, .operator, 0, true, none⟩,
  ⟨"RTIME_NEXT", 0x302001, 1, .u64, .wo, .tray, 0, false, none⟩,
  ⟨"RTIME_STATE", 0x302002, 1, .u8, .ro, .tray, 0, false, none⟩,
  ⟨"COLL_RESEND_US", 0x310001, 1, .u32, .rw, .driver, 100, true, some ⟨10, 10000, 1, []⟩⟩,
  ⟨"COLL_STALL_MS", 0x310002, 1, .u32, .rw, .driver, 5000, true, some ⟨10, 600000, 1, []⟩⟩,
  ⟨"COAST_US", 0x310003, 1, .u32, .rw, .driver, 50, true, some ⟨0, 100000, 1, []⟩⟩,
  ⟨"SKEW_REPORT_US", 0x310004, 1, .u32, .rw, .driver, 1000, true, some ⟨1, 10000000, 1, []⟩⟩,
  ⟨"ECC_BUCKET_CAP", 0x400001, 1, .u32, .rw, .driver, 64, true, none⟩,
  ⟨"ECC_BUCKET_LEAK", 0x400002, 1, .u32, .rw, .driver, 1, true, none⟩,
  ⟨"MARK_THRESH", 0x400003, 1, .u32, .rwIdle, .operator, 1024, true, none⟩,
  ⟨"MARK_WINDOW", 0x400004, 1, .u32, .rwIdle, .operator, 10, true, some ⟨1, 1000, 1, []⟩⟩,
  ⟨"AUTO_MARK", 0x400005, 1, .bool, .rwIdle, .operator, 1, true, none⟩,
  ⟨"SCRUB_RATE", 0x400006, 1, .u8, .rw, .driver, 20, true, none⟩,
  ⟨"DIE_MARKS", 0x401001, 8, .u16, .rwIdle, .owner, 0, true, none⟩,
  ⟨"CHANNELS", 0x402001, 8, .u8, .ro, .tray, 15, false, none⟩]

/-- Part 3 of the dictionary, in rising order of key. -/
def dictMap3 : List OdRow := [
  ⟨"REPAIRED", 0x403001, 8, .u32, .ro, .tray, 0, true, none⟩,
  ⟨"BUCKET_CAP", 0x500001, 1, .u32, .rw, .operator, 64, true, some ⟨1, 65535, 1, []⟩⟩,
  ⟨"BUCKET_LEAK", 0x500002, 1, .u32, .rw, .operator, 1, true, some ⟨0, 1000, 1, []⟩⟩,
  ⟨"QUIET_S", 0x500003, 1, .u32, .rw, .operator, 30, true, some ⟨1, 3600, 1, []⟩⟩,
  ⟨"RECOVERY_LIMIT", 0x500004, 1, .u8, .rw, .operator, 4, true, some ⟨0, 16, 1, []⟩⟩,
  ⟨"FAULT_STATE", 0x500005, 1, .u8, .ro, .tray, 0, false, none⟩,
  ⟨"RECOVERIES", 0x500006, 1, .u16, .ro, .tray, 0, true, none⟩,
  ⟨"FAULT_CLEAR", 0x500007, 1, .u8, .wo, .operator, 0, false, none⟩,
  ⟨"FAULT_ACK", 0x500008, 1, .bool, .wo, .tray, 0, false, none⟩,
  ⟨"LAST_CRITICAL", 0x500009, 1, .domain, .ro, .tray, 0, true, none⟩,
  ⟨"RECOVERIES_RESET", 0x50000A, 1, .bool, .wo, .owner, 0, false, none⟩,
  ⟨"INJECT_EN", 0x50000B, 1, .bool, .rwIdle, .owner, 0, false, none⟩,
  ⟨"FENCE_DRAIN_US", 0x580001, 1, .u32, .rw, .operator, 200, true, some ⟨50, 300, 1, []⟩⟩,
  ⟨"ESC_WINDOW_S", 0x580002, 1, .u32, .rw, .operator, 60, true, some ⟨1, 3600, 1, []⟩⟩,
  ⟨"ESC_REPEAT", 0x580003, 1, .u8, .rw, .operator, 3, true, some ⟨2, 16, 1, []⟩⟩,
  ⟨"ESC_AUTO_LIMIT", 0x580004, 1, .u8, .rw, .operator, 4, true, some ⟨0, 16, 1, []⟩⟩,
  ⟨"AUTO_LIFT", 0x580005, 1, .bool, .rw, .driver, 1, true, none⟩,
  ⟨"RESET_GEN", 0x580006, 1, .u32, .ro, .tray, 0, true, none⟩,
  ⟨"LAST_RESET", 0x580007, 1, .u16, .ro, .tray, 0, true, none⟩,
  ⟨"RESET_REQUEST", 0x580008, 1, .u8, .wo, .tray, 0, false, none⟩,
  ⟨"ESC_STATE", 0x580009, 1, .u8, .ro, .tray, 0, false, none⟩,
  ⟨"FW_HEADER", 0x600001, 1, .domain, .wo, .operator, 0, false, none⟩,
  ⟨"FW_ABORT", 0x600002, 1, .u8, .wo, .operator, 0, false, none⟩,
  ⟨"FW_ACTIVATE", 0x600003, 1, .u8, .wo, .operator, 0, false, none⟩,
  ⟨"OWNER_LOCK", 0x600004, 1, .bool, .rw, .owner, 0, true, none⟩,
  ⟨"FW_RESULT", 0x600005, 1, .u16, .ro, .operator, 0, false, none⟩,
  ⟨"FW_TRIAL_S", 0x600006, 1, .u16, .rw, .owner, 120, true, some ⟨30, 600, 1, []⟩⟩,
  ⟨"FW_STATUS", 0x600101, 3, .domain, .ro, .tray, 0, true, none⟩,
  ⟨"OWNER_KEY", 0x601001, 1, .domain, .rw, .owner, 0, true, none⟩,
  ⟨"GRANT_MIN_SEQ", 0x601002, 1, .u32, .rw, .owner, 0, true, none⟩]

/-- Part 4 of the dictionary, in rising order of key. -/
def dictMap4 : List OdRow := [
  ⟨"GRANT_SLOTS", 0x601003, 1, .u16, .ro, .tray, 0, false, none⟩,
  ⟨"GRANT", 0x601101, 15, .domain, .wo, .tray, 0, false, none⟩,
  ⟨"ATTEST_NONCE", 0x602001, 1, .domain, .wo, .tray, 0, false, none⟩,
  ⟨"ATTEST_REPORT", 0x602002, 1, .domain, .ro, .tray, 0, false, none⟩,
  ⟨"IDENTITY_CERT", 0x603001, 1, .domain, .ro, .tray, 0, true, none⟩,
  ⟨"LICENCE_KEY_CERT", 0x603002, 1, .domain, .rw, .operator, 0, true, none⟩,
  ⟨"MIN_KEY_REV", 0x603003, 1, .u32, .ro, .tray, 0, false, none⟩,
  ⟨"IDENTITY_KEY", 0x603004, 1, .domain, .ro, .tray, 0, false, none⟩,
  ⟨"LICENCE", 0x610001, 1, .domain, .rw, .owner, 0, true, none⟩,
  ⟨"LIC_STATE", 0x610002, 1, .u8, .ro, .tray, 0, false, none⟩,
  ⟨"LIC_SEQ", 0x610003, 1, .u32, .ro, .tray, 0, false, none⟩,
  ⟨"LIC_PRODUCT", 0x610004, 1, .u16, .ro, .tray, 0, false, none⟩,
  ⟨"LIC_REFUSE", 0x610005, 1, .u16, .ro, .owner, 0, false, none⟩,
  ⟨"JOB_ID", 0x700001, 1, .u32, .ro, .driver, 0, false, none⟩,
  ⟨"COMMITTED", 0x700002, 1, .u32, .ro, .tray, 0, false, none⟩,
  ⟨"EPOCH_STATE", 0x700003, 1, .u8, .ro, .tray, 0, false, none⟩,
  ⟨"EPOCH_TIMEOUT", 0x700004, 1, .u32, .rw, .driver, 10000, true, some ⟨1, 600000, 1, []⟩⟩,
  ⟨"CATCHUP_PCT", 0x700005, 1, .u8, .rw, .driver, 20, true, some ⟨0, 50, 1, []⟩⟩,
  ⟨"ABORT_DRAIN", 0x700006, 1, .u32, .rw, .driver, 10000, true, some ⟨100, 1000000, 1, []⟩⟩,
  ⟨"MAX_LAG", 0x700007, 1, .u32, .ro, .tray, 0, false, none⟩,
  ⟨"LOAD_CODE", 0x710001, 1, .u16, .ro, .driver, 0, false, none⟩,
  ⟨"LOAD_DETAIL", 0x710002, 1, .u32, .ro, .driver, 0, false, none⟩,
  ⟨"LOADED", 0x710003, 1, .bool, .ro, .driver, 0, false, none⟩,
  ⟨"MBX_TIMEOUT", 0x720001, 1, .u32, .rw, .driver, 5000, true, some ⟨100, 1000000, 1, []⟩⟩,
  ⟨"RC_PREFERRED", 0x720002, 1, .u8, .rwIdle, .operator, 0, true, some ⟨0, 1, 1, []⟩⟩,
  ⟨"RC_ACTIVE", 0x720003, 1, .u8, .ro, .tray, 0, false, none⟩,
  ⟨"STANDBY_OK", 0x720004, 1, .bool, .ro, .tray, 0, false, none⟩,
  ⟨"STANDBY_CHECK", 0x720005, 1, .u16, .rw, .operator, 10, true, some ⟨1, 3600, 1, []⟩⟩,
  ⟨"FAILOVERS", 0x720006, 1, .u32, .ro, .tray, 0, false, none⟩,
  ⟨"ARITH_VERSION", 0x800001, 1, .u32, .ro, .tray, 0, false, none⟩]

/-- Part 5 of the dictionary, in rising order of key. -/
def dictMap5 : List OdRow := [
  ⟨"ARITH_SILICON", 0x800002, 1, .u16, .ro, .tray, 0, false, none⟩,
  ⟨"SR_SEED_DEFAULT", 0x800003, 1, .u64, .rwIdle, .driver, 0, false, none⟩]

/-- The whole dictionary. -/
def dictMap : List OdRow := dictMap0 ++ dictMap1 ++ dictMap2 ++ dictMap3 ++ dictMap4 ++ dictMap5

end Sys2Proof.Machine
end

