-- ==== Sys2Proof/Machine/Ecc.lean ====
section
/-! DEFINITION. The per-byte SEC-DED code (R160-R162): encoder, decoder with erasures, and where each bit lies (R161, R168). -/

namespace Sys2Proof.Machine

/-- The bit of a number at place `k`, as 0 or 1. -/
def nbit (n k : Nat) : Nat := n / 2 ^ k % 2

/-- The codeword of a data byte (R160): data bits at positions 3, 5, 6, 7, 9, 10, 11, 12, check bits at 1, 2, 4, 8, parity at 0. -/
def eccEncode (b : Byte) : BitVec 13 :=
  let d := fun i => nbit b.toNat i
  let c1 := (d 0 + d 1 + d 3 + d 4 + d 6) % 2
  let c2 := (d 0 + d 2 + d 3 + d 5 + d 6) % 2
  let c4 := (d 1 + d 2 + d 3 + d 7) % 2
  let c8 := (d 4 + d 5 + d 6 + d 7) % 2
  let c0 := (c1 + c2 + d 0 + c4 + d 1 + d 2 + d 3 + c8 + d 4 + d 5 + d 6 + d 7) % 2
  BitVec.ofNat 13 (c0 + 2 * c1 + 4 * c2 + 8 * d 0 + 16 * c4 + 32 * d 1 + 64 * d 2 + 128 * d 3 + 256 * c8
    + 512 * d 4 + 1024 * d 5 + 2048 * d 6 + 4096 * d 7)

/-- The data byte of a codeword (R160). -/
def eccData (w : BitVec 13) : Byte :=
  let c := fun i => nbit w.toNat i
  BitVec.ofNat 8 (c 3 + 2 * c 5 + 4 * c 6 + 8 * c 7 + 16 * c 9 + 32 * c 10 + 64 * c 11 + 128 * c 12)

/-- The syndrome s of R160: exclusive-or of the positions whose bit reads 1. -/
def eccSyndrome (w : BitVec 13) : Nat :=
  (List.range 13).foldl (fun s k => if nbit w.toNat k = 1 then s ^^^ k else s) 0

/-- The parity q of R160. -/
def eccParity (w : BitVec 13) : Nat :=
  (List.range 13).foldl (fun q k => (q + nbit w.toNat k) % 2) 0

/-- The positions a mask holds, lowest first. -/
def maskPositions (m : BitVec 13) : List Nat := (List.range 13).filter (fun k => nbit m.toNat k == 1)

/-- A word with the single bit `k`. -/
def bit13 (k : Nat) : BitVec 13 := BitVec.ofNat 13 (2 ^ k)

/-- `flips` of R162 on the word with its marked bits taken as 0: the bits to flip, or none where the procedure returns BAD. -/
def eccFlips (w m : BitVec 13) : Option (BitVec 13) :=
  let w := w &&& ~~~m
  let s := eccSyndrome w
  let q := eccParity w
  match maskPositions m with
  | [] =>
    if q = 0 then (if s = 0 then some 0 else none) else if s ≤ 12 then some (bit13 s) else none
  | [e] =>
    if q = 1 then (if s = e then some (bit13 e) else if s ≤ 12 then some (bit13 s) else none)
    else if s = 0 then some 0
    else if s ^^^ e ≤ 12 then some (bit13 e ||| bit13 (s ^^^ e)) else none
  | e1 :: t =>
    let e2 := t.getLastD 0
    if q = 0 then (if s = 0 then some 0 else if s = e1 ^^^ e2 then some m else none)
    else if s = e1 then some (bit13 e1) else if s = e2 then some (bit13 e2) else none

/-- The outcome of a read of one byte (R162). -/
inductive EccOutcome
  | clean (b : Byte)
  | corrected (b : Byte) (pos : Nat)   -- `pos`: the flipped position outside the erasure mask
  | uncorrectable
  deriving DecidableEq, Repr

/-- Decode a word under an erasure mask (R162). -/
def eccDecode (w m : BitVec 13) : EccOutcome :=
  match eccFlips w m with
  | none => .uncorrectable
  | some f =>
    let b := eccData ((w &&& ~~~m) ^^^ f)
    match maskPositions (f &&& ~~~m) with
    | [] => .clean b
    | k :: _ => .corrected b k

/-! ## Checker self-test (R181) -/

/-- The encoder against the codewords of R160, for all data values: the word carries its data, with syndrome and parity 0. -/
def encoderOk : Bool :=
  (List.range 256).all fun v =>
    let w := eccEncode (BitVec.ofNat 8 v)
    eccData w == BitVec.ofNat 8 v && eccSyndrome w == 0 && eccParity w == 0

/-- Pairs of code positions. -/
def pairs13 : List (Nat × Nat) := (List.range 13).flatMap fun j => (List.range j).map fun i => (i, j)

/-- Sets A, B and C: every data value clean, each single flip of 0x00 and 0xFF, each double flip of 0xA5, with no die marked. -/
def setsAbcOk : Bool :=
  ((List.range 256).all fun v => eccDecode (eccEncode (BitVec.ofNat 8 v)) 0 == .clean (BitVec.ofNat 8 v))
    && ([0x00, 0xFF].all fun b => (List.range 13).all fun k => eccDecode (eccEncode b ^^^ bit13 k) 0 == .corrected b k)
    && (pairs13.all fun (i, j) => eccDecode (eccEncode 0xA5 ^^^ bit13 i ^^^ bit13 j) 0 == .uncorrectable)

/-- Sets D and E: each marked position of 0x5A and each marked pair of 0x3C, clean and with each other position flipped. -/
def setsDeOk : Bool :=
  ((List.range 13).all fun e =>
      eccDecode (eccEncode 0x5A) (bit13 e) == .clean 0x5A
        && (List.range 13).all fun k => k == e || eccDecode (eccEncode 0x5A ^^^ bit13 k) (bit13 e) == .corrected 0x5A k)
    && (pairs13.all fun (i, j) =>
      eccDecode (eccEncode 0x3C) (bit13 i ||| bit13 j) == .clean 0x3C
        && (List.range 13).all fun k =>
          k == i || k == j || eccDecode (eccEncode 0x3C ^^^ bit13 k) (bit13 i ||| bit13 j) == .uncorrectable)

/-- What a checker built as R160 to R162 say finds on the known vectors. -/
def checkerVectorsOk : Bool := encoderOk && setsAbcOk && setsDeOk

/-- The erasure mask of a byte at device offset `a` under the marked dies (R161, R162). -/
def eraseMask (marks a : Nat) : BitVec 13 :=
  (List.range 13).foldl (fun m k => if nbit marks ((a % 16 + k) % 16) = 1 then m ||| bit13 k else m) 0

/-- The die or subarray that holds bit `k` of the byte at offset `a` (R161, R168). -/
def bitDie (a k : Nat) : Nat := (a % 16 + k) % 16

end Sys2Proof.Machine
end

