-- ==== Sys2Proof/Machine/RegMap.lean ====
section
/-! DEFINITION. The register map of the package control space, transcribed row by row from the register tables
of the manual (R40, R81, R117, R153, R173, R174, R176, R179, R212, R243, R244, R254, R257, R263, R273, R303, R304, R328, R359,
R360, R387, R411, R432, R453, R476, R502): each register with its offset, its copies, its fields, their access codes (R14) and
their Reset column (R15), and the named fields the meanings read and write. -/

namespace Sys2Proof.Machine

/-- The access codes of R14. -/
inductive Acc
  | ro | rw | wo | w1c | rc | rt
  deriving DecidableEq, Repr

/-- The Reset column of R15: a number, a dictionary entry's value, Hold, Hold with a value before it is first set, Fuse or Unit. -/
inductive Rst
  | num (n : Nat) | dict (key : Nat) | hold | holdAt (n : Nat) | fuse | unit
  deriving DecidableEq, Repr

/-- One field of a register table. -/
structure FieldRow where
  name : String
  hi   : Nat
  lo   : Nat
  acc  : Acc
  rst  : Rst
  deriving DecidableEq, Repr

/-- One register of the map: offset of its first copy, the (stride, count) of its copies, its fields. -/
structure RegRow where
  name   : String
  base   : Nat
  dims   : List (Nat × Nat)
  fields : List FieldRow
  deriving DecidableEq, Repr

/-- A named field: the register's offset in the control space, the lowest bit and the width. -/
structure Fld where
  off : Nat
  lo  : Nat
  w   : Nat
  deriving DecidableEq, Repr

/-- The same field of another copy of the register, `d` bytes further on. -/
def Fld.at (f : Fld) (d : Nat) : Fld := ⟨f.off + d, f.lo, f.w⟩

namespace R

/-- `CSR_REFUSE`, R40. -/
def CSR_REFUSE : Nat := 0x100
def CSR_REFUSE_SOURCE : Fld := ⟨0x100, 60, 4⟩
def CSR_REFUSE_VALID : Fld := ⟨0x100, 32, 1⟩
def CSR_REFUSE_OFFSET : Fld := ⟨0x100, 0, 32⟩
/-- `CSR_REFUSE_EVENTS`, R40. -/
def CSR_REFUSE_EVENTS : Nat := 0x108
def CSR_REFUSE_EVENTS_REFUSED : Fld := ⟨0x108, 32, 32⟩
def CSR_REFUSE_EVENTS_REFUSED_OVF : Fld := ⟨0x108, 0, 1⟩
/-- `BOOT_STATUS`, R476. -/
def BOOT_STATUS : Nat := 0x10000
def BOOT_STATUS_CAUSE : Fld := ⟨0x10000, 48, 16⟩
def BOOT_STATUS_BG_RUN : Fld := ⟨0x10000, 23, 1⟩
def BOOT_STATUS_REDUCED : Fld := ⟨0x10000, 22, 1⟩
def BOOT_STATUS_DRIFT : Fld := ⟨0x10000, 21, 1⟩
def BOOT_STATUS_SHUNTING : Fld := ⟨0x10000, 20, 1⟩
def BOOT_STATUS_FULL : Fld := ⟨0x10000, 19, 1⟩
def BOOT_STATUS_RUN_KIND : Fld := ⟨0x10000, 8, 2⟩
def BOOT_STATUS_OUTCOME : Fld := ⟨0x10000, 6, 2⟩
def BOOT_STATUS_STAGE : Fld := ⟨0x10000, 0, 3⟩
/-- `BOOT_GEOM`, R476. -/
def BOOT_GEOM : Nat := 0x10008
def BOOT_GEOM_LICENSED : Fld := ⟨0x10008, 48, 16⟩
def BOOT_GEOM_IN_SERVICE : Fld := ⟨0x10008, 32, 16⟩
def BOOT_GEOM_N_CD3 : Fld := ⟨0x10008, 24, 8⟩
def BOOT_GEOM_N_CD2 : Fld := ⟨0x10008, 16, 8⟩
def BOOT_GEOM_N_CD1 : Fld := ⟨0x10008, 8, 8⟩
def BOOT_GEOM_N_CD0 : Fld := ⟨0x10008, 0, 8⟩
/-- `BOOT_TILES`, R476. -/
def BOOT_TILES : Nat := 0x10010
def BOOT_TILES_MASK : Fld := ⟨0x10010, 0, 64⟩
/-- `BOOT_DRIFT`, R476. -/
def BOOT_DRIFT : Nat := 0x10028
def BOOT_DRIFT_MASK : Fld := ⟨0x10028, 0, 64⟩
/-- `BOOT_FUSEBAD`, R476. -/
def BOOT_FUSEBAD : Nat := 0x10040
def BOOT_FUSEBAD_MASK : Fld := ⟨0x10040, 0, 64⟩
/-- `BOOT_BG`, R476. -/
def BOOT_BG : Nat := 0x10058
def BOOT_BG_BG_STATE : Fld := ⟨0x10058, 8, 8⟩
def BOOT_BG_BG_PCT : Fld := ⟨0x10058, 0, 8⟩
/-- `LMAP`, R476. -/
def LMAP : Nat := 0x11000
def LMAP_VALID : Fld := ⟨0x11000, 63, 1⟩
def LMAP_PHYS : Fld := ⟨0x11000, 0, 8⟩
/-- `SB_STATUS`, R502. -/
def SB_STATUS : Nat := 0x20000
def SB_STATUS_SESSION : Fld := ⟨0x20000, 32, 32⟩
def SB_STATUS_NOTICES : Fld := ⟨0x20000, 16, 5⟩
def SB_STATUS_ORPHAN : Fld := ⟨0x20000, 10, 2⟩
def SB_STATUS_HELLO_SEEN : Fld := ⟨0x20000, 9, 1⟩
def SB_STATUS_OD_UP : Fld := ⟨0x20000, 8, 1⟩
/-- `SB_EVENTS`, R502. -/
def SB_EVENTS : Nat := 0x20008
def SB_EVENTS_ORPHANS : Fld := ⟨0x20008, 32, 32⟩
def SB_EVENTS_STALE_WRITES : Fld := ⟨0x20008, 0, 32⟩
/-- `SB_EVENTS2`, R502. -/
def SB_EVENTS2 : Nat := 0x20010
def SB_EVENTS2_SB_RESTARTS : Fld := ⟨0x20010, 32, 32⟩
def SB_EVENTS2_OD_BUSY : Fld := ⟨0x20010, 0, 32⟩
/-- `SB_FLAGS`, R502. -/
def SB_FLAGS : Nat := 0x20018
def SB_FLAGS_BUSY_OVF : Fld := ⟨0x20018, 3, 1⟩
def SB_FLAGS_RESTARTS_OVF : Fld := ⟨0x20018, 2, 1⟩
def SB_FLAGS_STALE_OVF : Fld := ⟨0x20018, 1, 1⟩
def SB_FLAGS_ORPHANS_OVF : Fld := ⟨0x20018, 0, 1⟩
/-- `IL_STATUS`, R432. -/
def IL_STATUS : Nat := 0x1000000
def IL_STATUS_COND : Fld := ⟨0x1000000, 48, 8⟩
def IL_STATUS_COND_OVF : Fld := ⟨0x1000000, 9, 1⟩
def IL_STATUS_INJECT_EN : Fld := ⟨0x1000000, 8, 1⟩
def IL_STATUS_SAFE : Fld := ⟨0x1000000, 7, 1⟩
def IL_STATUS_CLEAR_REQUIRED : Fld := ⟨0x1000000, 6, 1⟩
def IL_STATUS_FAULT_N_HOLD : Fld := ⟨0x1000000, 5, 1⟩
def IL_STATUS_FAULT_N : Fld := ⟨0x1000000, 4, 1⟩
def IL_STATUS_QUIET_RUN : Fld := ⟨0x1000000, 3, 1⟩
def IL_STATUS_FAULT_STATE : Fld := ⟨0x1000000, 0, 1⟩
/-- `IL_CTL`, R432. -/
def IL_CTL : Nat := 0x1000008
def IL_CTL_ACK : Fld := ⟨0x1000008, 1, 1⟩
def IL_CTL_CLEAR : Fld := ⟨0x1000008, 0, 1⟩
/-- `IL_RECOVERY`, R432. -/
def IL_RECOVERY : Nat := 0x1000010
def IL_RECOVERY_RECOVERIES : Fld := ⟨0x1000010, 48, 16⟩
def IL_RECOVERY_HOUR_EXITS : Fld := ⟨0x1000010, 40, 8⟩
def IL_RECOVERY_QUIET_MS : Fld := ⟨0x1000010, 0, 32⟩
/-- `IL_EVENTS`, R432. -/
def IL_EVENTS : Nat := 0x1000018
def IL_EVENTS_MSGS : Fld := ⟨0x1000018, 32, 32⟩
def IL_EVENTS_LOG_LOST : Fld := ⟨0x1000018, 0, 32⟩
/-- `IL_EVENTS2`, R432. -/
def IL_EVENTS2 : Nat := 0x1000020
def IL_EVENTS2_PROMOTED : Fld := ⟨0x1000020, 32, 32⟩
def IL_EVENTS2_MERGED : Fld := ⟨0x1000020, 0, 32⟩
/-- `IL_FLAGS`, R432. -/
def IL_FLAGS : Nat := 0x1000028
def IL_FLAGS_SELF_CAUSE : Fld := ⟨0x1000028, 4, 4⟩
def IL_FLAGS_MERGED_OVF : Fld := ⟨0x1000028, 3, 1⟩
def IL_FLAGS_PROMOTED_OVF : Fld := ⟨0x1000028, 2, 1⟩
def IL_FLAGS_LOST_OVF : Fld := ⟨0x1000028, 1, 1⟩
def IL_FLAGS_MSGS_OVF : Fld := ⟨0x1000028, 0, 1⟩
/-- `IL_FIRST`, R432. -/
def IL_FIRST : Nat := 0x1000100
def IL_FIRST_WORD : Fld := ⟨0x1000100, 0, 64⟩
/-- `IL_FIRST_CRIT`, R432. -/
def IL_FIRST_CRIT : Nat := 0x1000120
def IL_FIRST_CRIT_WORD : Fld := ⟨0x1000120, 0, 64⟩
/-- `IL_LOG_STAT`, R432. -/
def IL_LOG_STAT : Nat := 0x1000200
def IL_LOG_STAT_NEXT_LSEQ : Fld := ⟨0x1000200, 32, 32⟩
def IL_LOG_STAT_READ : Fld := ⟨0x1000200, 0, 32⟩
/-- `IL_INJECT`, R432. -/
def IL_INJECT : Nat := 0x1000300
def IL_INJECT_WORD : Fld := ⟨0x1000300, 0, 64⟩
/-- `IL_LOG`, R432. -/
def IL_LOG : Nat := 0x1002000
def IL_LOG_WORD : Fld := ⟨0x1002000, 0, 64⟩
/-- `IL_BUCKET`, R432. -/
def IL_BUCKET : Nat := 0x1004000
def IL_BUCKET_FULL : Fld := ⟨0x1004000, 32, 1⟩
def IL_BUCKET_LEVEL : Fld := ⟨0x1004000, 0, 32⟩
/-- `FENCE_REQ`, R453. -/
def FENCE_REQ : Nat := 0x1100000
def FENCE_REQ_HOLD : Fld := ⟨0x1100000, 17, 1⟩
def FENCE_REQ_LIFT : Fld := ⟨0x1100000, 16, 1⟩
def FENCE_REQ_TARGET : Fld := ⟨0x1100000, 0, 16⟩
/-- `FENCE_RESULT`, R453. -/
def FENCE_RESULT : Nat := 0x1100008
def FENCE_RESULT_RESULT : Fld := ⟨0x1100008, 48, 16⟩
def FENCE_RESULT_TARGET : Fld := ⟨0x1100008, 0, 16⟩
/-- `FENCE_TILES`, R453. -/
def FENCE_TILES : Nat := 0x1100010
def FENCE_TILES_MASK : Fld := ⟨0x1100010, 0, 64⟩
/-- `FENCE_UNITS`, R453. -/
def FENCE_UNITS : Nat := 0x1100028
def FENCE_UNITS_DIES : Fld := ⟨0x1100028, 32, 4⟩
def FENCE_UNITS_RC : Fld := ⟨0x1100028, 24, 2⟩
def FENCE_UNITS_WE : Fld := ⟨0x1100028, 16, 8⟩
def FENCE_UNITS_MD : Fld := ⟨0x1100028, 8, 8⟩
def FENCE_UNITS_ME : Fld := ⟨0x1100028, 0, 4⟩
/-- `FENCE_LAST`, R453. -/
def FENCE_LAST : Nat := 0x1100030
def FENCE_LAST_TARGET : Fld := ⟨0x1100030, 48, 16⟩
def FENCE_LAST_CAUSE : Fld := ⟨0x1100030, 40, 8⟩
def FENCE_LAST_LEVEL : Fld := ⟨0x1100030, 36, 4⟩
def FENCE_LAST_UR_FAIL : Fld := ⟨0x1100030, 35, 1⟩
def FENCE_LAST_DRAIN_TO : Fld := ⟨0x1100030, 34, 1⟩
def FENCE_LAST_LIFTED : Fld := ⟨0x1100030, 33, 1⟩
def FENCE_LAST_LSEQ : Fld := ⟨0x1100030, 0, 32⟩
/-- `RESET_REQ`, R453. -/
def RESET_REQ : Nat := 0x1100100
def RESET_REQ_KIND : Fld := ⟨0x1100100, 0, 4⟩
/-- `RESET_STATUS`, R453. -/
def RESET_STATUS : Nat := 0x1100108
def RESET_STATUS_RESET_GEN : Fld := ⟨0x1100108, 32, 32⟩
def RESET_STATUS_LAST_CAUSE : Fld := ⟨0x1100108, 16, 8⟩
def RESET_STATUS_LAST_KIND : Fld := ⟨0x1100108, 12, 4⟩
def RESET_STATUS_SB_HELD : Fld := ⟨0x1100108, 4, 1⟩
def RESET_STATUS_CYCLE_REQ : Fld := ⟨0x1100108, 3, 1⟩
def RESET_STATUS_ESC_HELD : Fld := ⟨0x1100108, 2, 1⟩
/-- `FW_BEAT`, R453. -/
def FW_BEAT : Nat := 0x1100110
def FW_BEAT_BEAT : Fld := ⟨0x1100110, 0, 64⟩
/-- `HANG_STATUS`, R453. -/
def HANG_STATUS : Nat := 0x1100118
def HANG_STATUS_MISS_SB : Fld := ⟨0x1100118, 16, 8⟩
def HANG_STATUS_MISS_B : Fld := ⟨0x1100118, 8, 8⟩
def HANG_STATUS_MISS_A : Fld := ⟨0x1100118, 0, 8⟩
/-- `ESC_EVENTS`, R453. -/
def ESC_EVENTS : Nat := 0x1100120
def ESC_EVENTS_FENCES : Fld := ⟨0x1100120, 32, 32⟩
def ESC_EVENTS_DRAIN_TIMEOUTS : Fld := ⟨0x1100120, 0, 32⟩
/-- `ESC_EVENTS2`, R453. -/
def ESC_EVENTS2 : Nat := 0x1100128
def ESC_EVENTS2_ESCALATIONS : Fld := ⟨0x1100128, 32, 32⟩
def ESC_EVENTS2_ESC_OVF : Fld := ⟨0x1100128, 3, 1⟩
def ESC_EVENTS2_DRAIN_OVF : Fld := ⟨0x1100128, 2, 1⟩
def ESC_EVENTS2_FENCES_OVF : Fld := ⟨0x1100128, 1, 1⟩
/-- `EV_SEL`, R453. -/
def EV_SEL : Nat := 0x1100200
def EV_SEL_PAGE : Fld := ⟨0x1100200, 16, 12⟩
def EV_SEL_DEVICE : Fld := ⟨0x1100200, 0, 3⟩
/-- `EV_DATA`, R453. -/
def EV_DATA : Nat := 0x1101000
def EV_DATA_WORD : Fld := ⟨0x1101000, 0, 64⟩
/-- `PWR_STATUS`, R387. -/
def PWR_STATUS : Nat := 0x2000000
def PWR_STATUS_BIND : Fld := ⟨0x2000000, 48, 8⟩
def PWR_STATUS_BS_CAUSE : Fld := ⟨0x2000000, 12, 4⟩
def PWR_STATUS_ALERT_EXT : Fld := ⟨0x2000000, 11, 1⟩
def PWR_STATUS_ALERT_OWN : Fld := ⟨0x2000000, 10, 1⟩
def PWR_STATUS_ALERT : Fld := ⟨0x2000000, 9, 1⟩
def PWR_STATUS_FLOOR_ON : Fld := ⟨0x2000000, 8, 1⟩
def PWR_STATUS_BLADE_B : Fld := ⟨0x2000000, 7, 1⟩
def PWR_STATUS_BLADE_A : Fld := ⟨0x2000000, 6, 1⟩
def PWR_STATUS_HINT_ON : Fld := ⟨0x2000000, 5, 1⟩
def PWR_STATUS_VCEIL : Fld := ⟨0x2000000, 4, 1⟩
def PWR_STATUS_STATE : Fld := ⟨0x2000000, 0, 4⟩
/-- `PWR_NOW`, R387. -/
def PWR_NOW : Nat := 0x2000008
def PWR_NOW_BALLAST_W : Fld := ⟨0x2000008, 48, 16⟩
def PWR_NOW_TARGET_W : Fld := ⟨0x2000008, 32, 16⟩
def PWR_NOW_MEAN_1MS_W : Fld := ⟨0x2000008, 16, 16⟩
def PWR_NOW_TICK_W : Fld := ⟨0x2000008, 0, 16⟩
/-- `PWR_INPUT`, R387. -/
def PWR_INPUT : Nat := 0x2000010
def PWR_INPUT_IB : Fld := ⟨0x2000010, 48, 16⟩
def PWR_INPUT_IA : Fld := ⟨0x2000010, 32, 16⟩
def PWR_INPUT_VIN : Fld := ⟨0x2000010, 0, 16⟩
/-- `PWR_ENERGY`, R387. -/
def PWR_ENERGY : Nat := 0x2000018
def PWR_ENERGY_ENERGY_MJ : Fld := ⟨0x2000018, 0, 64⟩
/-- `PWR_LIMITS`, R387. -/
def PWR_LIMITS : Nat := 0x2000020
def PWR_LIMITS_AVG_W : Fld := ⟨0x2000020, 48, 16⟩
def PWR_LIMITS_AVG_WIN : Fld := ⟨0x2000020, 32, 16⟩
def PWR_LIMITS_PEAK_W : Fld := ⟨0x2000020, 16, 16⟩
def PWR_LIMITS_PEAK_WIN : Fld := ⟨0x2000020, 2, 14⟩
def PWR_LIMITS_AVG_EN : Fld := ⟨0x2000020, 1, 1⟩
def PWR_LIMITS_PEAK_EN : Fld := ⟨0x2000020, 0, 1⟩
/-- `PWR_SMOOTH`, R387. -/
def PWR_SMOOTH : Nat := 0x2000028
def PWR_SMOOTH_FLOOR_W : Fld := ⟨0x2000028, 48, 16⟩
def PWR_SMOOTH_FLOOR_MODE : Fld := ⟨0x2000028, 46, 2⟩
def PWR_SMOOTH_SLEW : Fld := ⟨0x2000028, 16, 16⟩
def PWR_SMOOTH_START_INDEX : Fld := ⟨0x2000028, 8, 8⟩
def PWR_SMOOTH_STAGGER_STEP : Fld := ⟨0x2000028, 0, 8⟩
/-- `PWR_CAPS`, R387. -/
def PWR_CAPS : Nat := 0x2000030
def PWR_CAPS_THERM_CAP : Fld := ⟨0x2000030, 48, 16⟩
def PWR_CAPS_OPER_CAP : Fld := ⟨0x2000030, 32, 16⟩
def PWR_CAPS_ORPHAN_CAP : Fld := ⟨0x2000030, 16, 16⟩
def PWR_CAPS_BLADE_CAP : Fld := ⟨0x2000030, 0, 16⟩
/-- `PWR_HINT`, R387. -/
def PWR_HINT : Nat := 0x2000038
def PWR_HINT_KIND : Fld := ⟨0x2000038, 56, 8⟩
def PWR_HINT_HELD : Fld := ⟨0x2000038, 32, 3⟩
def PWR_HINT_HINT_FLOOR_W : Fld := ⟨0x2000038, 16, 16⟩
def PWR_HINT_RAMP_W : Fld := ⟨0x2000038, 0, 16⟩
/-- `PWR_EVENTS`, R387. -/
def PWR_EVENTS : Nat := 0x2000040
def PWR_EVENTS_ALERTS : Fld := ⟨0x2000040, 32, 32⟩
def PWR_EVENTS_LIMIT_BINDS : Fld := ⟨0x2000040, 0, 32⟩
/-- `PWR_EVENTS2`, R387. -/
def PWR_EVENTS2 : Nat := 0x2000048
def PWR_EVENTS2_SLEW_MISS : Fld := ⟨0x2000048, 32, 32⟩
def PWR_EVENTS2_FLOOR_MISS : Fld := ⟨0x2000048, 0, 32⟩
/-- `PWR_FLAGS`, R387. -/
def PWR_FLAGS : Nat := 0x2000050
def PWR_FLAGS_FLOOR_OVF : Fld := ⟨0x2000050, 3, 1⟩
def PWR_FLAGS_SLEW_OVF : Fld := ⟨0x2000050, 2, 1⟩
def PWR_FLAGS_BINDS_OVF : Fld := ⟨0x2000050, 1, 1⟩
def PWR_FLAGS_ALERTS_OVF : Fld := ⟨0x2000050, 0, 1⟩
/-- `DIE_PWR`, R387. -/
def DIE_PWR : Nat := 0x2001000
def DIE_PWR_DIE_W : Fld := ⟨0x2001000, 48, 16⟩
def DIE_PWR_RATE : Fld := ⟨0x2001000, 32, 16⟩
def DIE_PWR_COAST_TARGET : Fld := ⟨0x2001000, 16, 16⟩
def DIE_PWR_VSET : Fld := ⟨0x2001000, 0, 16⟩
/-- `DIE_PWR2`, R387. -/
def DIE_PWR2 : Nat := 0x2001008
def DIE_PWR2_BALLAST_W : Fld := ⟨0x2001008, 48, 16⟩
def DIE_PWR2_BALLAST_CAP_W : Fld := ⟨0x2001008, 32, 16⟩
def DIE_PWR2_PERMIT : Fld := ⟨0x2001008, 0, 9⟩
/-- `THERM_STATUS`, R411. -/
def THERM_STATUS : Nat := 0x2008000
def THERM_STATUS_GUARD_BAD : Fld := ⟨0x2008000, 16, 10⟩
def THERM_STATUS_BIND_CAP : Fld := ⟨0x2008000, 9, 3⟩
def THERM_STATUS_FLOW_LOW : Fld := ⟨0x2008000, 8, 1⟩
def THERM_STATUS_RAMP_ON : Fld := ⟨0x2008000, 7, 1⟩
def THERM_STATUS_CUT_REQ : Fld := ⟨0x2008000, 6, 1⟩
def THERM_STATUS_TRIP : Fld := ⟨0x2008000, 5, 1⟩
def THERM_STATUS_FORCE : Fld := ⟨0x2008000, 4, 1⟩
def THERM_STATUS_FORCE_CAUSE : Fld := ⟨0x2008000, 0, 3⟩
/-- `THERM_TEMPS`, R411. -/
def THERM_TEMPS : Nat := 0x2008008
def THERM_TEMPS_TJ_HOT : Fld := ⟨0x2008008, 48, 16⟩
def THERM_TEMPS_MEM_HOT : Fld := ⟨0x2008008, 32, 16⟩
def THERM_TEMPS_INLET : Fld := ⟨0x2008008, 16, 16⟩
def THERM_TEMPS_OUTLET : Fld := ⟨0x2008008, 0, 16⟩
/-- `THERM_RTH`, R411. -/
def THERM_RTH : Nat := 0x2008010
def THERM_RTH_RTH_DIE : Fld := ⟨0x2008010, 48, 16⟩
def THERM_RTH_RTH_MEM : Fld := ⟨0x2008010, 32, 16⟩
def THERM_RTH_FLOW_EST : Fld := ⟨0x2008010, 16, 16⟩
def THERM_RTH_EST_REGION : Fld := ⟨0x2008010, 0, 4⟩
/-- `THERM_CAPS`, R411. -/
def THERM_CAPS : Nat := 0x2008018
def THERM_CAPS_EST_CAP : Fld := ⟨0x2008018, 48, 16⟩
def THERM_CAPS_TJ_CAP : Fld := ⟨0x2008018, 32, 16⟩
def THERM_CAPS_RAMP_CAP : Fld := ⟨0x2008018, 16, 16⟩
def THERM_CAPS_PLAUS_CAP : Fld := ⟨0x2008018, 0, 16⟩
/-- `THERM_SLOPE`, R411. -/
def THERM_SLOPE : Nat := 0x2008020
def THERM_SLOPE_EXCESS : Fld := ⟨0x2008020, 16, 16⟩
def THERM_SLOPE_DIE : Fld := ⟨0x2008020, 8, 4⟩
def THERM_SLOPE_RUN_MS : Fld := ⟨0x2008020, 0, 8⟩
/-- `THERM_EVENTS`, R411. -/
def THERM_EVENTS : Nat := 0x2008028
def THERM_EVENTS_OVER_LIMIT : Fld := ⟨0x2008028, 32, 32⟩
def THERM_EVENTS_FORECASTS : Fld := ⟨0x2008028, 0, 32⟩
/-- `THERM_FLAGS`, R411. -/
def THERM_FLAGS : Nat := 0x2008030
def THERM_FLAGS_FORECAST_OVF : Fld := ⟨0x2008030, 1, 1⟩
def THERM_FLAGS_OVER_OVF : Fld := ⟨0x2008030, 0, 1⟩
/-- `TSENSE`, R411. -/
def TSENSE : Nat := 0x2008100
def TSENSE_FAULT : Fld := ⟨0x2008100, 19, 1⟩
def TSENSE_GUARD : Fld := ⟨0x2008100, 18, 1⟩
def TSENSE_IMPLAUS : Fld := ⟨0x2008100, 17, 1⟩
def TSENSE_VALID : Fld := ⟨0x2008100, 16, 1⟩
def TSENSE_TEMP : Fld := ⟨0x2008100, 0, 16⟩
/-- `POINTS`, R328. -/
def POINTS : Nat := 0x3000000
def POINTS_WORD : Fld := ⟨0x3000000, 0, 64⟩
/-- `EXCLUDE`, R328. -/
def EXCLUDE : Nat := 0x3010000
def EXCLUDE_PLANES : Fld := ⟨0x3010000, 0, 16⟩
/-- `REACH`, R328. -/
def REACH : Nat := 0x3020000
def REACH_MASK : Fld := ⟨0x3020000, 0, 64⟩
/-- `MCG`, R328. -/
def MCG : Nat := 0x3030000
def MCG_MASK : Fld := ⟨0x3030000, 0, 64⟩
/-- `ROUTE_CTL`, R328. -/
def ROUTE_CTL : Nat := 0x3040000
def ROUTE_CTL_CLEAR_EXCLUDE : Fld := ⟨0x3040000, 1, 1⟩
def ROUTE_CTL_CMAP_EN : Fld := ⟨0x3040000, 0, 1⟩
/-- `ROUTE_EVENTS`, R328. -/
def ROUTE_EVENTS : Nat := 0x3040008
def ROUTE_EVENTS_UNREACHABLE : Fld := ⟨0x3040008, 32, 32⟩
def ROUTE_EVENTS_RULE_DROP : Fld := ⟨0x3040008, 0, 32⟩
/-- `ROUTE_EVENTS2`, R328. -/
def ROUTE_EVENTS2 : Nat := 0x3040010
def ROUTE_EVENTS2_HOP_EXPIRED : Fld := ⟨0x3040010, 32, 32⟩
def ROUTE_EVENTS2_AGED : Fld := ⟨0x3040010, 0, 32⟩
/-- `ROUTE_EVENTS3`, R328. -/
def ROUTE_EVENTS3 : Nat := 0x3040018
def ROUTE_EVENTS3_STALE_RSP : Fld := ⟨0x3040018, 32, 32⟩
def ROUTE_EVENTS3_FAIL_RX : Fld := ⟨0x3040018, 0, 32⟩
/-- `ROUTE_EVENTS4`, R328. -/
def ROUTE_EVENTS4 : Nat := 0x3040020
def ROUTE_EVENTS4_TC0_HELD : Fld := ⟨0x3040020, 32, 32⟩
def ROUTE_EVENTS4_E2E_TIMEOUTS : Fld := ⟨0x3040020, 0, 32⟩
/-- `ROUTE_FLAGS`, R328. -/
def ROUTE_FLAGS : Nat := 0x3040028
def ROUTE_FLAGS_TIMEOUT_OVF : Fld := ⟨0x3040028, 7, 1⟩
def ROUTE_FLAGS_HELD_OVF : Fld := ⟨0x3040028, 6, 1⟩
def ROUTE_FLAGS_FAIL_OVF : Fld := ⟨0x3040028, 5, 1⟩
def ROUTE_FLAGS_STALE_OVF : Fld := ⟨0x3040028, 4, 1⟩
def ROUTE_FLAGS_AGED_OVF : Fld := ⟨0x3040028, 3, 1⟩
def ROUTE_FLAGS_HOP_OVF : Fld := ⟨0x3040028, 2, 1⟩
def ROUTE_FLAGS_RULE_OVF : Fld := ⟨0x3040028, 1, 1⟩
def ROUTE_FLAGS_UNREACH_OVF : Fld := ⟨0x3040028, 0, 1⟩
/-- `CMAP_CUR`, R328. -/
def CMAP_CUR : Nat := 0x3040100
def CMAP_CUR_SEQ : Fld := ⟨0x3040100, 1, 63⟩
def CMAP_CUR_BUF : Fld := ⟨0x3040100, 0, 1⟩
/-- `CMAP_BUF`, R328. -/
def CMAP_BUF : Nat := 0x3050000
def CMAP_BUF_WORD : Fld := ⟨0x3050000, 0, 64⟩
/-- `PORT_STATUS`, R303. -/
def PORT_STATUS : Nat := 0x4000000
def PORT_STATUS_DOWNS : Fld := ⟨0x4000000, 32, 32⟩
def PORT_STATUS_LOCK_MASK : Fld := ⟨0x4000000, 24, 4⟩
def PORT_STATUS_LANE_MASK : Fld := ⟨0x4000000, 20, 4⟩
def PORT_STATUS_WIDTH : Fld := ⟨0x4000000, 17, 3⟩
def PORT_STATUS_MAINT_CAUSE : Fld := ⟨0x4000000, 14, 3⟩
def PORT_STATUS_STATE : Fld := ⟨0x4000000, 0, 4⟩
/-- `PORT_PARTNER`, R303. -/
def PORT_PARTNER : Nat := 0x4000008
def PORT_PARTNER_VERSION : Fld := ⟨0x4000008, 48, 16⟩
def PORT_PARTNER_PORT : Fld := ⟨0x4000008, 40, 8⟩
def PORT_PARTNER_ROLE : Fld := ⟨0x4000008, 32, 8⟩
def PORT_PARTNER_DEST : Fld := ⟨0x4000008, 0, 12⟩
/-- `PORT_PARTNER_SN`, R303. -/
def PORT_PARTNER_SN : Nat := 0x4000010
def PORT_PARTNER_SN_SERIAL : Fld := ⟨0x4000010, 0, 64⟩
/-- `PORT_EVENTS`, R303. -/
def PORT_EVENTS : Nat := 0x4000018
def PORT_EVENTS_UNCORR_CW : Fld := ⟨0x4000018, 32, 32⟩
def PORT_EVENTS_CRC_ERR : Fld := ⟨0x4000018, 0, 32⟩
/-- `PORT_EVENTS2`, R303. -/
def PORT_EVENTS2 : Nat := 0x4000020
def PORT_EVENTS2_REPLAY : Fld := ⟨0x4000020, 32, 32⟩
def PORT_EVENTS2_WIDTH_STEPS : Fld := ⟨0x4000020, 0, 32⟩
/-- `PORT_EVENTS3`, R303. -/
def PORT_EVENTS3 : Nat := 0x4000028
def PORT_EVENTS3_DROPPED_FRAMES : Fld := ⟨0x4000028, 32, 32⟩
def PORT_EVENTS3_MAINT_DROP : Fld := ⟨0x4000028, 0, 32⟩
/-- `PORT_FEC`, R303. -/
def PORT_FEC : Nat := 0x4000030
def PORT_FEC_CORR_CW : Fld := ⟨0x4000030, 0, 64⟩
/-- `PORT_FLAGS`, R303. -/
def PORT_FLAGS : Nat := 0x4000038
def PORT_FLAGS_PARKED : Fld := ⟨0x4000038, 8, 4⟩
def PORT_FLAGS_MAINT_OVF : Fld := ⟨0x4000038, 6, 1⟩
def PORT_FLAGS_DROPPED_OVF : Fld := ⟨0x4000038, 5, 1⟩
def PORT_FLAGS_STEPS_OVF : Fld := ⟨0x4000038, 4, 1⟩
def PORT_FLAGS_REPLAY_OVF : Fld := ⟨0x4000038, 3, 1⟩
def PORT_FLAGS_CRC_OVF : Fld := ⟨0x4000038, 2, 1⟩
def PORT_FLAGS_UNCORR_OVF : Fld := ⟨0x4000038, 1, 1⟩
def PORT_FLAGS_DOWNS_OVF : Fld := ⟨0x4000038, 0, 1⟩
/-- `PORT_CTL`, R303. -/
def PORT_CTL : Nat := 0x4000040
def PORT_CTL_LANE_DISABLE : Fld := ⟨0x4000040, 8, 4⟩
def PORT_CTL_RETRAIN : Fld := ⟨0x4000040, 1, 1⟩
def PORT_CTL_EN : Fld := ⟨0x4000040, 0, 1⟩
/-- `LN_STATUS`, R303. -/
def LN_STATUS : Nat := 0x4000100
def LN_STATUS_DROPS : Fld := ⟨0x4000100, 32, 32⟩
def LN_STATUS_SNR : Fld := ⟨0x4000100, 8, 8⟩
def LN_STATUS_DROPS_OVF : Fld := ⟨0x4000100, 3, 1⟩
def LN_STATUS_PARKED : Fld := ⟨0x4000100, 2, 1⟩
def LN_STATUS_IN_SERVICE : Fld := ⟨0x4000100, 1, 1⟩
def LN_STATUS_LOCKED : Fld := ⟨0x4000100, 0, 1⟩
/-- `DW_LANE_STATUS`, R212. -/
def DW_LANE_STATUS : Nat := 0x6000000
def DW_LANE_STATUS_LANE_DOWNS : Fld := ⟨0x6000000, 32, 32⟩
def DW_LANE_STATUS_HELD_CAUSE : Fld := ⟨0x6000000, 6, 3⟩
def DW_LANE_STATUS_RESUMED : Fld := ⟨0x6000000, 5, 1⟩
def DW_LANE_STATUS_LOS : Fld := ⟨0x6000000, 4, 1⟩
def DW_LANE_STATUS_STATE : Fld := ⟨0x6000000, 0, 4⟩
/-- `DW_LANE_EVENTS`, R212. -/
def DW_LANE_EVENTS : Nat := 0x6000008
def DW_LANE_EVENTS_UNCORR_CW : Fld := ⟨0x6000008, 32, 32⟩
def DW_LANE_EVENTS_CRC_ERR : Fld := ⟨0x6000008, 0, 32⟩
/-- `DW_LANE_EVENTS2`, R212. -/
def DW_LANE_EVENTS2 : Nat := 0x6000010
def DW_LANE_EVENTS2_REPLAY : Fld := ⟨0x6000010, 32, 32⟩
def DW_LANE_EVENTS2_PROTO_ERR : Fld := ⟨0x6000010, 0, 32⟩
/-- `DW_LANE_FEC`, R212. -/
def DW_LANE_FEC : Nat := 0x6000018
def DW_LANE_FEC_CORR_CW : Fld := ⟨0x6000018, 0, 64⟩
/-- `DW_LANE_FLAGS`, R212. -/
def DW_LANE_FLAGS : Nat := 0x6000020
def DW_LANE_FLAGS_DOWNS_OVF : Fld := ⟨0x6000020, 4, 1⟩
def DW_LANE_FLAGS_PROTO_OVF : Fld := ⟨0x6000020, 3, 1⟩
def DW_LANE_FLAGS_REPLAY_OVF : Fld := ⟨0x6000020, 2, 1⟩
def DW_LANE_FLAGS_UNCORR_OVF : Fld := ⟨0x6000020, 1, 1⟩
def DW_LANE_FLAGS_CRC_OVF : Fld := ⟨0x6000020, 0, 1⟩
/-- `DW_LANE_CREDIT`, R212. -/
def DW_LANE_CREDIT : Nat := 0x6000028
def DW_LANE_CREDIT_TX3 : Fld := ⟨0x6000028, 48, 16⟩
def DW_LANE_CREDIT_TX2 : Fld := ⟨0x6000028, 32, 16⟩
def DW_LANE_CREDIT_TX1 : Fld := ⟨0x6000028, 16, 16⟩
def DW_LANE_CREDIT_TX0 : Fld := ⟨0x6000028, 0, 16⟩
/-- `DW_CTL`, R212. -/
def DW_CTL : Nat := 0x6002000
def DW_CTL_RESUME_MS : Fld := ⟨0x6002000, 4, 12⟩
def DW_CTL_FRESH_SL : Fld := ⟨0x6002000, 3, 1⟩
def DW_CTL_FRESH_CL : Fld := ⟨0x6002000, 2, 1⟩
def DW_CTL_EN_SL : Fld := ⟨0x6002000, 1, 1⟩
def DW_CTL_EN_CL : Fld := ⟨0x6002000, 0, 1⟩
/-- `DW_PARTNER`, R212. -/
def DW_PARTNER : Nat := 0x6002008
def DW_PARTNER_NODE_ID : Fld := ⟨0x6002008, 0, 64⟩
/-- `DW_EVQ`, R212. -/
def DW_EVQ : Nat := 0x6002010
def DW_EVQ_EVT_LOST : Fld := ⟨0x6002010, 32, 32⟩
def DW_EVQ_EVT_LOST_OVF : Fld := ⟨0x6002010, 9, 1⟩
def DW_EVQ_DEPTH : Fld := ⟨0x6002010, 0, 9⟩
/-- `RTIME`, R304. -/
def RTIME : Nat := 0x7000000
def RTIME_NS : Fld := ⟨0x7000000, 0, 64⟩
/-- `RTIME_STATUS`, R304. -/
def RTIME_STATUS : Nat := 0x7000008
def RTIME_STATUS_TSYNC_SLIP : Fld := ⟨0x7000008, 32, 32⟩
def RTIME_STATUS_ARMED : Fld := ⟨0x7000008, 4, 1⟩
def RTIME_STATUS_SLIP_OVF : Fld := ⟨0x7000008, 3, 1⟩
def RTIME_STATUS_REFCLK_LOCK : Fld := ⟨0x7000008, 2, 1⟩
def RTIME_STATUS_TSYNC_PRESENT : Fld := ⟨0x7000008, 1, 1⟩
def RTIME_STATUS_RTIME_VALID : Fld := ⟨0x7000008, 0, 1⟩
/-- `UCIE_STATUS`, R304. -/
def UCIE_STATUS : Nat := 0x7001000
def UCIE_STATUS_RETRIES : Fld := ⟨0x7001000, 32, 32⟩
def UCIE_STATUS_RETRY_OVF : Fld := ⟨0x7001000, 4, 1⟩
def UCIE_STATUS_MODULES : Fld := ⟨0x7001000, 0, 4⟩
/-- `MQ_PUSH`, R254. -/
def MQ_PUSH : Nat := 0x8000000
def MQ_PUSH_WORD : Fld := ⟨0x8000000, 0, 64⟩
/-- `MQ_CTL`, R254. -/
def MQ_CTL : Nat := 0x8000008
def MQ_CTL_DISCARD : Fld := ⟨0x8000008, 1, 1⟩
def MQ_CTL_SEND : Fld := ⟨0x8000008, 0, 1⟩
/-- `MQ_ACK`, R254. -/
def MQ_ACK : Nat := 0x8000010
def MQ_ACK_SEQ : Fld := ⟨0x8000010, 16, 16⟩
def MQ_ACK_CODE : Fld := ⟨0x8000010, 0, 16⟩
/-- `MQ_STATUS`, R254. -/
def MQ_STATUS : Nat := 0x8000018
def MQ_STATUS_LAST_CODE : Fld := ⟨0x8000018, 48, 16⟩
def MQ_STATUS_LAST_SEQ : Fld := ⟨0x8000018, 32, 16⟩
def MQ_STATUS_MSG_SEQ : Fld := ⟨0x8000018, 16, 16⟩
def MQ_STATUS_SENT_OVF : Fld := ⟨0x8000018, 15, 1⟩
def MQ_STATUS_DROP_OVF : Fld := ⟨0x8000018, 14, 1⟩
def MQ_STATUS_STALE_OVF : Fld := ⟨0x8000018, 13, 1⟩
def MQ_STATUS_TIMEOUTS_OVF : Fld := ⟨0x8000018, 12, 1⟩
def MQ_STATUS_SEND_ERR : Fld := ⟨0x8000018, 11, 1⟩
def MQ_STATUS_PUSH_ERR : Fld := ⟨0x8000018, 10, 1⟩
def MQ_STATUS_TIMEOUT : Fld := ⟨0x8000018, 9, 1⟩
def MQ_STATUS_ACKED : Fld := ⟨0x8000018, 8, 1⟩
def MQ_STATUS_PENDING : Fld := ⟨0x8000018, 5, 1⟩
def MQ_STATUS_WORDS : Fld := ⟨0x8000018, 0, 5⟩
/-- `MQ_EVENTS`, R254. -/
def MQ_EVENTS : Nat := 0x8000020
def MQ_EVENTS_SENT : Fld := ⟨0x8000020, 32, 32⟩
def MQ_EVENTS_TIMEOUTS : Fld := ⟨0x8000020, 0, 32⟩
/-- `MQ_EVENTS2`, R254. -/
def MQ_EVENTS2 : Nat := 0x8000028
def MQ_EVENTS2_PUSH_DROP : Fld := ⟨0x8000028, 32, 32⟩
def MQ_EVENTS2_STALE_ACK : Fld := ⟨0x8000028, 0, 32⟩
/-- `MQ_WORD`, R254. -/
def MQ_WORD : Nat := 0x8000100
def MQ_WORD_WORD : Fld := ⟨0x8000100, 0, 64⟩
/-- `DB_PEND`, R258. -/
def DB_PEND : Nat := 0x8008000
def DB_PEND_PEND : Fld := ⟨0x8008000, 0, 32⟩
/-- `DB_MASK`, R258. -/
def DB_MASK : Nat := 0x8008008
def DB_MASK_MASK : Fld := ⟨0x8008008, 0, 32⟩
/-- `TOKEN`, R263. -/
def TOKEN : Nat := 0x8009000
def TOKEN_WON : Fld := ⟨0x8009000, 7, 1⟩
def TOKEN_BROKEN : Fld := ⟨0x8009000, 6, 1⟩
def TOKEN_HELD : Fld := ⟨0x8009000, 5, 1⟩
def TOKEN_OWNER : Fld := ⟨0x8009000, 0, 4⟩
/-- `TOKEN_REL`, R263. -/
def TOKEN_REL : Nat := 0x8009200
def TOKEN_REL_INDEX : Fld := ⟨0x8009200, 0, 6⟩
/-- `TOKEN_EVENTS`, R263. -/
def TOKEN_EVENTS : Nat := 0x8009208
def TOKEN_EVENTS_FORCED : Fld := ⟨0x8009208, 32, 32⟩
def TOKEN_EVENTS_FORCED_OVF : Fld := ⟨0x8009208, 0, 1⟩
/-- `RC_STATUS`, R273. -/
def RC_STATUS : Nat := 0x800A000
def RC_STATUS_HB_A : Fld := ⟨0x800A000, 48, 16⟩
def RC_STATUS_HB_B : Fld := ⟨0x800A000, 32, 16⟩
def RC_STATUS_FAILOVERS_OVF : Fld := ⟨0x800A000, 17, 1⟩
def RC_STATUS_SBF_OVF : Fld := ⟨0x800A000, 16, 1⟩
def RC_STATUS_PATHS : Fld := ⟨0x800A000, 12, 4⟩
def RC_STATUS_STATE_B : Fld := ⟨0x800A000, 8, 4⟩
def RC_STATUS_STATE_A : Fld := ⟨0x800A000, 4, 4⟩
def RC_STATUS_STANDBY_OK : Fld := ⟨0x800A000, 1, 1⟩
def RC_STATUS_ACTIVE : Fld := ⟨0x800A000, 0, 1⟩
/-- `RC_EVENTS`, R273. -/
def RC_EVENTS : Nat := 0x800A008
def RC_EVENTS_FAILOVERS : Fld := ⟨0x800A008, 32, 32⟩
def RC_EVENTS_STANDBY_FAULTS : Fld := ⟨0x800A008, 0, 32⟩
/-- `RC_BEAT`, R273. -/
def RC_BEAT : Nat := 0x800A010
def RC_BEAT_BEAT : Fld := ⟨0x800A010, 0, 64⟩
/-- `RING_BASE`, R243. -/
def RING_BASE : Nat := 0x9000000
def RING_BASE_BASE : Fld := ⟨0x9000000, 0, 52⟩
/-- `RING_CFG`, R243. -/
def RING_CFG : Nat := 0x9000008
def RING_CFG_SIZE_LOG2 : Fld := ⟨0x9000008, 20, 5⟩
def RING_CFG_CLASS : Fld := ⟨0x9000008, 18, 2⟩
def RING_CFG_NO_EPOCH : Fld := ⟨0x9000008, 17, 1⟩
def RING_CFG_JOB : Fld := ⟨0x9000008, 16, 1⟩
def RING_CFG_PERIODIC : Fld := ⟨0x9000008, 1, 1⟩
def RING_CFG_EN : Fld := ⟨0x9000008, 0, 1⟩
/-- `RING_IDX`, R243. -/
def RING_IDX : Nat := 0x9000010
def RING_IDX_RD_IDX : Fld := ⟨0x9000010, 32, 32⟩
def RING_IDX_DONE_IDX : Fld := ⟨0x9000010, 0, 32⟩
/-- `RING_WR`, R243. -/
def RING_WR : Nat := 0x9000018
def RING_WR_WR_IDX : Fld := ⟨0x9000018, 0, 32⟩
/-- `RING_STATUS`, R243. -/
def RING_STATUS : Nat := 0x9000020
def RING_STATUS_STOP_IDX : Fld := ⟨0x9000020, 32, 32⟩
def RING_STATUS_CFG_ERR : Fld := ⟨0x9000020, 8, 1⟩
def RING_STATUS_STOP_CAUSE : Fld := ⟨0x9000020, 4, 4⟩
def RING_STATUS_STATE : Fld := ⟨0x9000020, 0, 4⟩
/-- `RING_PERIOD`, R243. -/
def RING_PERIOD : Nat := 0x9000028
def RING_PERIOD_PERIOD : Fld := ⟨0x9000028, 32, 32⟩
/-- `RING_PHASE`, R243. -/
def RING_PHASE : Nat := 0x9000030
def RING_PHASE_PHASE : Fld := ⟨0x9000030, 0, 64⟩
/-- `RING_LAG`, R243. -/
def RING_LAG : Nat := 0x9000038
def RING_LAG_MAX_LAG_US : Fld := ⟨0x9000038, 32, 32⟩
def RING_LAG_LAG_US : Fld := ⟨0x9000038, 0, 32⟩
/-- `RING_EVENTS`, R243. -/
def RING_EVENTS : Nat := 0x9000040
def RING_EVENTS_LATE_COUNT : Fld := ⟨0x9000040, 32, 32⟩
def RING_EVENTS_EMPTY_COUNT : Fld := ⟨0x9000040, 0, 32⟩
/-- `RING_FLAGS`, R243. -/
def RING_FLAGS : Nat := 0x9000048
def RING_FLAGS_EMPTY_OVF : Fld := ⟨0x9000048, 1, 1⟩
def RING_FLAGS_LATE_OVF : Fld := ⟨0x9000048, 0, 1⟩
/-- `DOORBELL`, R243. -/
def DOORBELL : Nat := 0x9008000
def DOORBELL_WR_IDX : Fld := ⟨0x9008000, 0, 32⟩
/-- `EPOCH_STATUS`, R244. -/
def EPOCH_STATUS : Nat := 0x900A000
def EPOCH_STATUS_COMMITTED : Fld := ⟨0x900A000, 32, 32⟩
def EPOCH_STATUS_ATTEMPT : Fld := ⟨0x900A000, 16, 16⟩
def EPOCH_STATUS_COORD : Fld := ⟨0x900A000, 4, 1⟩
def EPOCH_STATUS_ESTATE : Fld := ⟨0x900A000, 0, 4⟩
/-- `EPOCH_CAUSE`, R244. -/
def EPOCH_CAUSE : Nat := 0x900A008
def EPOCH_CAUSE_EPOCH : Fld := ⟨0x900A008, 32, 32⟩
def EPOCH_CAUSE_RANK : Fld := ⟨0x900A008, 16, 16⟩
def EPOCH_CAUSE_CAUSE : Fld := ⟨0x900A008, 0, 16⟩
/-- `EPOCH_EVENTS`, R244. -/
def EPOCH_EVENTS : Nat := 0x900A010
def EPOCH_EVENTS_COMMITS : Fld := ⟨0x900A010, 32, 32⟩
def EPOCH_EVENTS_ABORTS : Fld := ⟨0x900A010, 0, 32⟩
/-- `EPOCH_STRAY`, R244. -/
def EPOCH_STRAY : Nat := 0x900A018
def EPOCH_STRAY_STRAY_OVF : Fld := ⟨0x900A018, 34, 1⟩
def EPOCH_STRAY_ABORTS_OVF : Fld := ⟨0x900A018, 33, 1⟩
def EPOCH_STRAY_COMMITS_OVF : Fld := ⟨0x900A018, 32, 1⟩
def EPOCH_STRAY_STRAY : Fld := ⟨0x900A018, 0, 32⟩
/-- `TILE_STATE`, R117. -/
def TILE_STATE : Nat := 0x11000000
def TILE_STATE_LOGICAL : Fld := ⟨0x11000000, 48, 16⟩
def TILE_STATE_STATE : Fld := ⟨0x11000000, 0, 4⟩
/-- `TILE_TRAP`, R117. -/
def TILE_TRAP : Nat := 0x11000010
def TILE_TRAP_CODE : Fld := ⟨0x11000010, 48, 16⟩
def TILE_TRAP_BERTH : Fld := ⟨0x11000010, 42, 6⟩
def TILE_TRAP_VALID : Fld := ⟨0x11000010, 32, 1⟩
def TILE_TRAP_INSN_INDEX : Fld := ⟨0x11000010, 0, 32⟩
/-- `TILE_TRAP_ADDR`, R117. -/
def TILE_TRAP_ADDR : Nat := 0x11000018
def TILE_TRAP_ADDR_ADDR : Fld := ⟨0x11000018, 0, 64⟩
/-- `TILE_SEQ`, R117. -/
def TILE_SEQ : Nat := 0x11000020
def TILE_SEQ_DUP_COUNT : Fld := ⟨0x11000020, 32, 32⟩
def TILE_SEQ_SEQ : Fld := ⟨0x11000020, 0, 32⟩
/-- `TILE_DMA`, R117. -/
def TILE_DMA : Nat := 0x11000028
def TILE_DMA_DEPTH1 : Fld := ⟨0x11000028, 16, 5⟩
def TILE_DMA_DEPTH0 : Fld := ⟨0x11000028, 8, 5⟩
def TILE_DMA_HALT1 : Fld := ⟨0x11000028, 1, 1⟩
def TILE_DMA_HALT0 : Fld := ⟨0x11000028, 0, 1⟩
/-- `ARITH_STATUS`, R81. -/
def ARITH_STATUS : Nat := 0x11000100
def ARITH_STATUS_WS_CNT_OVF : Fld := ⟨0x11000100, 9, 1⟩
def ARITH_STATUS_NAN_CNT_OVF : Fld := ⟨0x11000100, 8, 1⟩
def ARITH_STATUS_XP_OVF : Fld := ⟨0x11000100, 4, 1⟩
def ARITH_STATUS_SAT : Fld := ⟨0x11000100, 3, 1⟩
def ARITH_STATUS_INF_OUT : Fld := ⟨0x11000100, 2, 1⟩
def ARITH_STATUS_NAN_OUT : Fld := ⟨0x11000100, 1, 1⟩
def ARITH_STATUS_WIDE_SPAN : Fld := ⟨0x11000100, 0, 1⟩
/-- `ARITH_EVENTS`, R81. -/
def ARITH_EVENTS : Nat := 0x11000108
def ARITH_EVENTS_WIDE_SPAN_COUNT : Fld := ⟨0x11000108, 32, 32⟩
def ARITH_EVENTS_NAN_COUNT : Fld := ⟨0x11000108, 0, 32⟩
/-- `ARITH_FIRST`, R81. -/
def ARITH_FIRST : Nat := 0x11000110
def ARITH_FIRST_SPAN : Fld := ⟨0x11000110, 48, 16⟩
def ARITH_FIRST_INSN_INDEX : Fld := ⟨0x11000110, 0, 32⟩
/-- `SP_ECC`, R174. -/
def SP_ECC : Nat := 0x11000200
def SP_ECC_S : Fld := ⟨0x11000200, 60, 4⟩
def SP_ECC_Q : Fld := ⟨0x11000200, 59, 1⟩
def SP_ECC_UNC : Fld := ⟨0x11000200, 58, 1⟩
def SP_ECC_REQ : Fld := ⟨0x11000200, 52, 4⟩
def SP_ECC_DIE : Fld := ⟨0x11000200, 48, 4⟩
def SP_ECC_WORD : Fld := ⟨0x11000200, 32, 13⟩
def SP_ECC_VALID : Fld := ⟨0x11000200, 16, 1⟩
def SP_ECC_MARKS : Fld := ⟨0x11000200, 0, 16⟩
/-- `SP_ECC_ADDR`, R174. -/
def SP_ECC_ADDR : Nat := 0x11000208
def SP_ECC_ADDR_ADDR : Fld := ⟨0x11000208, 0, 64⟩
/-- `SP_EVENTS`, R174. -/
def SP_EVENTS : Nat := 0x14000000
def SP_EVENTS_CE_COUNT : Fld := ⟨0x14000000, 32, 32⟩
def SP_EVENTS_UE_COUNT : Fld := ⟨0x14000000, 0, 32⟩
/-- `SP_BUCKET`, R174. -/
def SP_BUCKET : Nat := 0x14000008
def SP_BUCKET_LEVEL : Fld := ⟨0x14000008, 0, 32⟩
/-- `SP_FLAGS`, R174. -/
def SP_FLAGS : Nat := 0x14000010
def SP_FLAGS_UE_OVF : Fld := ⟨0x14000010, 1, 1⟩
def SP_FLAGS_CE_OVF : Fld := ⟨0x14000010, 0, 1⟩
/-- `ME_STATUS`, R359. -/
def ME_STATUS : Nat := 0x15000000
def ME_STATUS_QUEUED : Fld := ⟨0x15000000, 32, 8⟩
def ME_STATUS_STARTED : Fld := ⟨0x15000000, 28, 4⟩
def ME_STATUS_BUF_USED : Fld := ⟨0x15000000, 8, 9⟩
def ME_STATUS_STATE : Fld := ⟨0x15000000, 0, 4⟩
/-- `ME_EVENTS`, R359. -/
def ME_EVENTS : Nat := 0x15000008
def ME_EVENTS_DONE : Fld := ⟨0x15000008, 32, 32⟩
def ME_EVENTS_ABORTS : Fld := ⟨0x15000008, 0, 32⟩
/-- `ME_DROPS`, R359. -/
def ME_DROPS : Nat := 0x15000010
def ME_DROPS_CRC_DROP : Fld := ⟨0x15000010, 32, 32⟩
def ME_DROPS_OVERFLOW_DROP : Fld := ⟨0x15000010, 0, 32⟩
/-- `ME_DROPS2`, R359. -/
def ME_DROPS2 : Nat := 0x15000018
def ME_DROPS2_DUP_DROP : Fld := ⟨0x15000018, 32, 32⟩
def ME_DROPS2_STRAY : Fld := ⟨0x15000018, 0, 32⟩
/-- `ME_EVENTS2`, R359. -/
def ME_EVENTS2 : Nat := 0x15000020
def ME_EVENTS2_RESENDS : Fld := ⟨0x15000020, 32, 32⟩
def ME_EVENTS2_LATE_ABORT : Fld := ⟨0x15000020, 0, 32⟩
/-- `ME_EVENTS3`, R359. -/
def ME_EVENTS3 : Nat := 0x15000028
def ME_EVENTS3_SKEW_OVER : Fld := ⟨0x15000028, 32, 32⟩
def ME_EVENTS3_COASTS : Fld := ⟨0x15000028, 0, 32⟩
/-- `ME_TX_BYTES`, R359. -/
def ME_TX_BYTES : Nat := 0x15000030
def ME_TX_BYTES_BYTES : Fld := ⟨0x15000030, 0, 64⟩
/-- `ME_RX_BYTES`, R359. -/
def ME_RX_BYTES : Nat := 0x15000038
def ME_RX_BYTES_BYTES : Fld := ⟨0x15000038, 0, 64⟩
/-- `ME_FLAGS`, R359. -/
def ME_FLAGS : Nat := 0x15000040
def ME_FLAGS_OVF : Fld := ⟨0x15000040, 8, 10⟩
def ME_FLAGS_XP_OVF : Fld := ⟨0x15000040, 3, 1⟩
def ME_FLAGS_INF_OUT : Fld := ⟨0x15000040, 2, 1⟩
def ME_FLAGS_NAN_OUT : Fld := ⟨0x15000040, 1, 1⟩
def ME_FLAGS_WIDE_SPAN : Fld := ⟨0x15000040, 0, 1⟩
/-- `ME_ABORT`, R359. -/
def ME_ABORT : Nat := 0x15000048
def ME_ABORT_CAUSE : Fld := ⟨0x15000048, 48, 16⟩
def ME_ABORT_GROUP : Fld := ⟨0x15000048, 40, 8⟩
def ME_ABORT_VALID : Fld := ⟨0x15000048, 32, 1⟩
def ME_ABORT_COLL_SEQ : Fld := ⟨0x15000048, 0, 32⟩
/-- `ME_ABORT2`, R359. -/
def ME_ABORT2 : Nat := 0x15000050
def ME_ABORT2_RANK : Fld := ⟨0x15000050, 48, 16⟩
def ME_ABORT2_EPOCH : Fld := ⟨0x15000050, 0, 32⟩
/-- `ME_SKEW`, R359. -/
def ME_SKEW : Nat := 0x15000058
def ME_SKEW_SLOW_RANK : Fld := ⟨0x15000058, 48, 16⟩
def ME_SKEW_SKEW_NS : Fld := ⟨0x15000058, 0, 32⟩
/-- `ME_SKEW_MAX`, R359. -/
def ME_SKEW_MAX : Nat := 0x15000060
def ME_SKEW_MAX_SKEW_MAX : Fld := ⟨0x15000060, 0, 32⟩
/-- `ME_LAST`, R359. -/
def ME_LAST : Nat := 0x15000068
def ME_LAST_COLL_SEQ : Fld := ⟨0x15000068, 32, 32⟩
def ME_LAST_FILL : Fld := ⟨0x15000068, 0, 32⟩
/-- `ME_PACE`, R359. -/
def ME_PACE : Nat := 0x15000070
def ME_PACE_TARGET : Fld := ⟨0x15000070, 48, 16⟩
def ME_PACE_OWN : Fld := ⟨0x15000070, 32, 16⟩
/-- `CTR`, R360. -/
def CTR : Nat := 0x15010000
def CTR_ABORTED : Fld := ⟨0x15010000, 34, 1⟩
def CTR_CTR_OVF : Fld := ⟨0x15010000, 33, 1⟩
def CTR_BROKEN : Fld := ⟨0x15010000, 32, 1⟩
def CTR_VALUE : Fld := ⟨0x15010000, 0, 32⟩
/-- `MD_STATUS`, R173. -/
def MD_STATUS : Nat := 0x80000000
def MD_STATUS_CH_UP : Fld := ⟨0x80000000, 8, 4⟩
def MD_STATUS_REFRESH_2X : Fld := ⟨0x80000000, 4, 1⟩
/-- `DIE_MARK`, R173. -/
def DIE_MARK : Nat := 0x80000008
def DIE_MARK_AUTO : Fld := ⟨0x80000008, 16, 16⟩
def DIE_MARK_MARKED : Fld := ⟨0x80000008, 0, 16⟩
/-- `ECC_EVENTS`, R173. -/
def ECC_EVENTS : Nat := 0x80000010
def ECC_EVENTS_CE_COUNT : Fld := ⟨0x80000010, 32, 32⟩
def ECC_EVENTS_UE_COUNT : Fld := ⟨0x80000010, 0, 32⟩
/-- `ECC_FLAGS`, R173. -/
def ECC_FLAGS : Nat := 0x80000018
def ECC_FLAGS_DIE_OVF : Fld := ⟨0x80000018, 16, 16⟩
def ECC_FLAGS_CH_RETIRED : Fld := ⟨0x80000018, 3, 1⟩
def ECC_FLAGS_MARK_LIMIT : Fld := ⟨0x80000018, 2, 1⟩
def ECC_FLAGS_UE_OVF : Fld := ⟨0x80000018, 1, 1⟩
def ECC_FLAGS_CE_OVF : Fld := ⟨0x80000018, 0, 1⟩
/-- `ECC_BUCKET`, R173. -/
def ECC_BUCKET : Nat := 0x80000020
def ECC_BUCKET_LEVEL : Fld := ⟨0x80000020, 0, 32⟩
/-- `ECC_UE`, R173. -/
def ECC_UE : Nat := 0x80000028
def ECC_UE_S : Fld := ⟨0x80000028, 60, 4⟩
def ECC_UE_Q : Fld := ⟨0x80000028, 59, 1⟩
def ECC_UE_REQ : Fld := ⟨0x80000028, 52, 4⟩
def ECC_UE_DIE : Fld := ⟨0x80000028, 48, 4⟩
def ECC_UE_WORD : Fld := ⟨0x80000028, 32, 13⟩
def ECC_UE_VALID : Fld := ⟨0x80000028, 16, 1⟩
def ECC_UE_MARKS : Fld := ⟨0x80000028, 0, 16⟩
/-- `ECC_UE_ADDR`, R173. -/
def ECC_UE_ADDR : Nat := 0x80000030
def ECC_UE_ADDR_ADDR : Fld := ⟨0x80000030, 0, 64⟩
/-- `ECC_CE`, R173. -/
def ECC_CE : Nat := 0x80000038
def ECC_CE_S : Fld := ⟨0x80000038, 60, 4⟩
def ECC_CE_Q : Fld := ⟨0x80000038, 59, 1⟩
def ECC_CE_REQ : Fld := ⟨0x80000038, 52, 4⟩
def ECC_CE_DIE : Fld := ⟨0x80000038, 48, 4⟩
def ECC_CE_WORD : Fld := ⟨0x80000038, 32, 13⟩
def ECC_CE_VALID : Fld := ⟨0x80000038, 16, 1⟩
def ECC_CE_MARKS : Fld := ⟨0x80000038, 0, 16⟩
/-- `ECC_CE_ADDR`, R173. -/
def ECC_CE_ADDR : Nat := 0x80000040
def ECC_CE_ADDR_ADDR : Fld := ⟨0x80000040, 0, 64⟩
/-- `DIE_CE`, R173. -/
def DIE_CE : Nat := 0x80000100
def DIE_CE_ODD : Fld := ⟨0x80000100, 32, 32⟩
def DIE_CE_EVEN : Fld := ⟨0x80000100, 0, 32⟩
/-- `SCRUB_BASE`, R176. -/
def SCRUB_BASE : Nat := 0x80001000
def SCRUB_BASE_TARGET : Fld := ⟨0x80001000, 63, 1⟩
def SCRUB_BASE_OFFSET : Fld := ⟨0x80001000, 0, 37⟩
/-- `SCRUB_LEN`, R176. -/
def SCRUB_LEN : Nat := 0x80001008
def SCRUB_LEN_LEN : Fld := ⟨0x80001008, 0, 37⟩
/-- `SCRUB_CTL`, R176. -/
def SCRUB_CTL : Nat := 0x80001010
def SCRUB_CTL_RESULT : Fld := ⟨0x80001010, 48, 16⟩
def SCRUB_CTL_RATE : Fld := ⟨0x80001010, 32, 8⟩
def SCRUB_CTL_MODE : Fld := ⟨0x80001010, 3, 1⟩
def SCRUB_CTL_STOP : Fld := ⟨0x80001010, 1, 1⟩
def SCRUB_CTL_GO : Fld := ⟨0x80001010, 0, 1⟩
/-- `SCRUB_SUM`, R179. -/
def SCRUB_SUM : Nat := 0x80001020
def SCRUB_SUM_WORD : Fld := ⟨0x80001020, 0, 64⟩
/-- `WE_POST`, R153. -/
def WE_POST : Nat := 0x80400000
def WE_POST_WORD : Fld := ⟨0x80400000, 0, 64⟩
/-- `WE_POST_CTL`, R153. -/
def WE_POST_CTL : Nat := 0x80400100
def WE_POST_CTL_RESULT : Fld := ⟨0x80400100, 48, 16⟩
def WE_POST_CTL_CLEAR : Fld := ⟨0x80400100, 1, 1⟩
def WE_POST_CTL_GO : Fld := ⟨0x80400100, 0, 1⟩
/-- `WE_QSTAT`, R153. -/
def WE_QSTAT : Nat := 0x80400108
def WE_QSTAT_SEQ : Fld := ⟨0x80400108, 32, 32⟩
def WE_QSTAT_DEPTH : Fld := ⟨0x80400108, 16, 8⟩
def WE_QSTAT_ACTIONS : Fld := ⟨0x80400108, 8, 8⟩
def WE_QSTAT_STATE : Fld := ⟨0x80400108, 0, 4⟩
/-- `WE_ERR`, R153. -/
def WE_ERR : Nat := 0x80400110
def WE_ERR_CODE : Fld := ⟨0x80400110, 48, 16⟩
def WE_ERR_VALID : Fld := ⟨0x80400110, 32, 1⟩
def WE_ERR_DESC_SEQ : Fld := ⟨0x80400110, 0, 32⟩
/-- `WE_ERR_ADDR`, R153. -/
def WE_ERR_ADDR : Nat := 0x80400118
def WE_ERR_ADDR_ADDR : Fld := ⟨0x80400118, 0, 64⟩
/-- `WE_EVENTS`, R153. -/
def WE_EVENTS : Nat := 0x80400120
def WE_EVENTS_DONE_COUNT : Fld := ⟨0x80400120, 32, 32⟩
def WE_EVENTS_IDX_DROP : Fld := ⟨0x80400120, 0, 32⟩
/-- `WE_EVENTS2`, R153. -/
def WE_EVENTS2 : Nat := 0x80400128
def WE_EVENTS2_DUP_COUNT : Fld := ⟨0x80400128, 32, 32⟩
def WE_EVENTS2_ABORT_DISCARD : Fld := ⟨0x80400128, 0, 32⟩
/-- `WE_BYTES`, R153. -/
def WE_BYTES : Nat := 0x80400130
def WE_BYTES_BYTES : Fld := ⟨0x80400130, 0, 64⟩
/-- `WE_FLAGS`, R153. -/
def WE_FLAGS : Nat := 0x80400138
def WE_FLAGS_DISCARD_OVF : Fld := ⟨0x80400138, 11, 1⟩
def WE_FLAGS_DUP_OVF : Fld := ⟨0x80400138, 10, 1⟩
def WE_FLAGS_IDX_OVF : Fld := ⟨0x80400138, 9, 1⟩
def WE_FLAGS_DONE_OVF : Fld := ⟨0x80400138, 8, 1⟩
def WE_FLAGS_XP_OVF : Fld := ⟨0x80400138, 4, 1⟩
def WE_FLAGS_SAT : Fld := ⟨0x80400138, 3, 1⟩
def WE_FLAGS_INF_OUT : Fld := ⟨0x80400138, 2, 1⟩
def WE_FLAGS_NAN_OUT : Fld := ⟨0x80400138, 1, 1⟩
def WE_FLAGS_WIDE_SPAN : Fld := ⟨0x80400138, 0, 1⟩
/-- `WE_APPLY`, R153. -/
def WE_APPLY : Nat := 0x80400140
def WE_APPLY_EPOCH : Fld := ⟨0x80400140, 32, 32⟩
def WE_APPLY_LEFT : Fld := ⟨0x80400140, 8, 8⟩
def WE_APPLY_APPLYING : Fld := ⟨0x80400140, 0, 1⟩

end R

/-- Part 0 of the register map, in rising order of offset. -/
def regMap0 : List RegRow := [
  ⟨"CSR_REFUSE", 0x100, [],
    [⟨"SOURCE", 63, 60, .ro, .num 0⟩, ⟨"VALID", 32, 32, .w1c, .num 0⟩, ⟨"OFFSET", 31, 0, .ro, .num 0⟩]⟩,
  ⟨"CSR_REFUSE_EVENTS", 0x108, [],
    [⟨"REFUSED", 63, 32, .rc, .num 0⟩, ⟨"REFUSED_OVF", 0, 0, .w1c, .num 0⟩]⟩,
  ⟨"BOOT_STATUS", 0x10000, [],
    [⟨"CAUSE", 63, 48, .ro, .num 0⟩, ⟨"BG_RUN", 23, 23, .ro, .num 0⟩, ⟨"REDUCED", 22, 22, .ro, .hold⟩, ⟨"DRIFT", 21, 21, .ro, .hold⟩, ⟨"SHUNTING", 20, 20, .ro, .num 0⟩, ⟨"FULL", 19, 19, .ro, .num 0⟩, ⟨"RUN_KIND", 9, 8, .ro, .num 0⟩, ⟨"OUTCOME", 7, 6, .ro, .num 0⟩, ⟨"STAGE", 2, 0, .ro, .num 0⟩]⟩,
  ⟨"BOOT_GEOM", 0x10008, [],
    [⟨"LICENSED", 63, 48, .ro, .hold⟩, ⟨"IN_SERVICE", 47, 32, .ro, .hold⟩, ⟨"N_CD3", 31, 24, .ro, .hold⟩, ⟨"N_CD2", 23, 16, .ro, .hold⟩, ⟨"N_CD1", 15, 8, .ro, .hold⟩, ⟨"N_CD0", 7, 0, .ro, .hold⟩]⟩,
  ⟨"BOOT_TILES", 0x10010, [(0x8, 3)],
    [⟨"MASK", 63, 0, .ro, .hold⟩]⟩,
  ⟨"BOOT_DRIFT", 0x10028, [(0x8, 3)],
    [⟨"MASK", 63, 0, .ro, .hold⟩]⟩,
  ⟨"BOOT_FUSEBAD", 0x10040, [(0x8, 3)],
    [⟨"MASK", 63, 0, .ro, .fuse⟩]⟩,
  ⟨"BOOT_BG", 0x10058, [],
    [⟨"BG_STATE", 15, 8, .ro, .num 0⟩, ⟨"BG_PCT", 7, 0, .ro, .num 0⟩]⟩,
  ⟨"LMAP", 0x11000, [(0x8, 176)],
    [⟨"VALID", 63, 63, .ro, .hold⟩, ⟨"PHYS", 7, 0, .ro, .hold⟩]⟩,
  ⟨"SB_STATUS", 0x20000, [],
    [⟨"SESSION", 63, 32, .ro, .num 0⟩, ⟨"NOTICES", 20, 16, .ro, .num 0⟩, ⟨"ORPHAN", 11, 10, .ro, .hold⟩, ⟨"HELLO_SEEN", 9, 9, .ro, .num 0⟩, ⟨"OD_UP", 8, 8, .ro, .num 0⟩]⟩,
  ⟨"SB_EVENTS", 0x20008, [],
    [⟨"ORPHANS", 63, 32, .rc, .num 0⟩, ⟨"STALE_WRITES", 31, 0, .rc, .num 0⟩]⟩,
  ⟨"SB_EVENTS2", 0x20010, [],
    [⟨"SB_RESTARTS", 63, 32, .rc, .num 0⟩, ⟨"OD_BUSY", 31, 0, .rc, .num 0⟩]⟩,
  ⟨"SB_FLAGS", 0x20018, [],
    [⟨"BUSY_OVF", 3, 3, .w1c, .num 0⟩, ⟨"RESTARTS_OVF", 2, 2, .w1c, .num 0⟩, ⟨"STALE_OVF", 1, 1, .w1c, .num 0⟩, ⟨"ORPHANS_OVF", 0, 0, .w1c, .num 0⟩]⟩,
  ⟨"IL_STATUS", 0x1000000, [],
    [⟨"COND", 55, 48, .ro, .num 0⟩, ⟨"COND_OVF", 9, 9, .ro, .num 0⟩, ⟨"INJECT_EN", 8, 8, .ro, .num 0⟩, ⟨"SAFE", 7, 7, .ro, .num 0⟩, ⟨"CLEAR_REQUIRED", 6, 6, .ro, .hold⟩, ⟨"FAULT_N_HOLD", 5, 5, .ro, .hold⟩, ⟨"FAULT_N", 4, 4, .ro, .hold⟩, ⟨"QUIET_RUN", 3, 3, .ro, .num 0⟩, ⟨"FAULT_STATE", 0, 0, .ro, .hold⟩]⟩,
  ⟨"IL_CTL", 0x1000008, [],
    [⟨"ACK", 1, 1, .wo, .num 0⟩, ⟨"CLEAR", 0, 0, .wo, .num 0⟩]⟩,
  ⟨"IL_RECOVERY", 0x1000010, [],
    [⟨"RECOVERIES", 63, 48, .ro, .hold⟩, ⟨"HOUR_EXITS", 47, 40, .ro, .hold⟩, ⟨"QUIET_MS", 31, 0, .ro, .num 0⟩]⟩,
  ⟨"IL_EVENTS", 0x1000018, [],
    [⟨"MSGS", 63, 32, .rc, .num 0⟩, ⟨"LOG_LOST", 31, 0, .rc, .num 0⟩]⟩,
  ⟨"IL_EVENTS2", 0x1000020, [],
    [⟨"PROMOTED", 63, 32, .rc, .num 0⟩, ⟨"MERGED", 31, 0, .rc, .num 0⟩]⟩,
  ⟨"IL_FLAGS", 0x1000028, [],
    [⟨"SELF_CAUSE", 7, 4, .ro, .num 0⟩, ⟨"MERGED_OVF", 3, 3, .w1c, .num 0⟩, ⟨"PROMOTED_OVF", 2, 2, .w1c, .num 0⟩, ⟨"LOST_OVF", 1, 1, .w1c, .num 0⟩, ⟨"MSGS_OVF", 0, 0, .w1c, .num 0⟩]⟩,
  ⟨"IL_FIRST", 0x1000100, [(0x8, 4)],
    [⟨"WORD", 63, 0, .ro, .num 0⟩]⟩,
  ⟨"IL_FIRST_CRIT", 0x1000120, [(0x8, 4)],
    [⟨"WORD", 63, 0, .ro, .num 0⟩]⟩,
  ⟨"IL_LOG_STAT", 0x1000200, [],
    [⟨"NEXT_LSEQ", 63, 32, .ro, .num 0⟩, ⟨"READ", 31, 0, .rw, .num 0⟩]⟩,
  ⟨"IL_INJECT", 0x1000300, [],
    [⟨"WORD", 63, 0, .wo, .num 0⟩]⟩,
  ⟨"IL_LOG", 0x1002000, [(0x8, 1024)],
    [⟨"WORD", 63, 0, .ro, .num 0⟩]⟩]

/-- Part 1 of the register map, in rising order of offset. -/
def regMap1 : List RegRow := [
  ⟨"IL_BUCKET", 0x1004000, [(0x8, 4096)],
    [⟨"FULL", 32, 32, .ro, .num 0⟩, ⟨"LEVEL", 31, 0, .rc, .num 0⟩]⟩,
  ⟨"FENCE_REQ", 0x1100000, [],
    [⟨"HOLD", 17, 17, .wo, .num 0⟩, ⟨"LIFT", 16, 16, .wo, .num 0⟩, ⟨"TARGET", 15, 0, .wo, .num 0⟩]⟩,
  ⟨"FENCE_RESULT", 0x1100008, [],
    [⟨"RESULT", 63, 48, .ro, .num 0⟩, ⟨"TARGET", 15, 0, .ro, .num 0⟩]⟩,
  ⟨"FENCE_TILES", 0x1100010, [(0x8, 3)],
    [⟨"MASK", 63, 0, .ro, .num 0⟩]⟩,
  ⟨"FENCE_UNITS", 0x1100028, [],
    [⟨"DIES", 35, 32, .ro, .num 0⟩, ⟨"RC", 25, 24, .ro, .num 0⟩, ⟨"WE", 23, 16, .ro, .num 0⟩, ⟨"MD", 15, 8, .ro, .num 0⟩, ⟨"ME", 3, 0, .ro, .num 0⟩]⟩,
  ⟨"FENCE_LAST", 0x1100030, [],
    [⟨"TARGET", 63, 48, .ro, .num 0⟩, ⟨"CAUSE", 47, 40, .ro, .num 0⟩, ⟨"LEVEL", 39, 36, .ro, .num 0⟩, ⟨"UR_FAIL", 35, 35, .ro, .num 0⟩, ⟨"DRAIN_TO", 34, 34, .ro, .num 0⟩, ⟨"LIFTED", 33, 33, .ro, .num 0⟩, ⟨"LSEQ", 31, 0, .ro, .num 0⟩]⟩,
  ⟨"RESET_REQ", 0x1100100, [],
    [⟨"KIND", 3, 0, .wo, .num 0⟩]⟩,
  ⟨"RESET_STATUS", 0x1100108, [],
    [⟨"RESET_GEN", 63, 32, .ro, .hold⟩, ⟨"LAST_CAUSE", 23, 16, .ro, .hold⟩, ⟨"LAST_KIND", 15, 12, .ro, .hold⟩, ⟨"SB_HELD", 4, 4, .ro, .hold⟩, ⟨"CYCLE_REQ", 3, 3, .ro, .hold⟩, ⟨"ESC_HELD", 2, 2, .ro, .hold⟩]⟩,
  ⟨"FW_BEAT", 0x1100110, [],
    [⟨"BEAT", 63, 0, .wo, .num 0⟩]⟩,
  ⟨"HANG_STATUS", 0x1100118, [],
    [⟨"MISS_SB", 23, 16, .ro, .num 0⟩, ⟨"MISS_B", 15, 8, .ro, .num 0⟩, ⟨"MISS_A", 7, 0, .ro, .num 0⟩]⟩,
  ⟨"ESC_EVENTS", 0x1100120, [],
    [⟨"FENCES", 63, 32, .rc, .num 0⟩, ⟨"DRAIN_TIMEOUTS", 31, 0, .rc, .num 0⟩]⟩,
  ⟨"ESC_EVENTS2", 0x1100128, [],
    [⟨"ESCALATIONS", 63, 32, .rc, .num 0⟩, ⟨"ESC_OVF", 3, 3, .w1c, .num 0⟩, ⟨"DRAIN_OVF", 2, 2, .w1c, .num 0⟩, ⟨"FENCES_OVF", 1, 1, .w1c, .num 0⟩]⟩,
  ⟨"EV_SEL", 0x1100200, [],
    [⟨"PAGE", 27, 16, .rw, .num 0⟩, ⟨"DEVICE", 2, 0, .rw, .num 0⟩]⟩,
  ⟨"EV_DATA", 0x1101000, [(0x8, 512)],
    [⟨"WORD", 63, 0, .ro, .num 0⟩]⟩,
  ⟨"PWR_STATUS", 0x2000000, [],
    [⟨"BIND", 55, 48, .ro, .num 0⟩, ⟨"BS_CAUSE", 15, 12, .ro, .num 0⟩, ⟨"ALERT_EXT", 11, 11, .ro, .num 0⟩, ⟨"ALERT_OWN", 10, 10, .ro, .num 0⟩, ⟨"ALERT", 9, 9, .ro, .num 0⟩, ⟨"FLOOR_ON", 8, 8, .ro, .num 0⟩, ⟨"BLADE_B", 7, 7, .ro, .num 0⟩, ⟨"BLADE_A", 6, 6, .ro, .num 0⟩, ⟨"HINT_ON", 5, 5, .ro, .num 0⟩, ⟨"VCEIL", 4, 4, .ro, .num 0⟩, ⟨"STATE", 3, 0, .ro, .num 0⟩]⟩,
  ⟨"PWR_NOW", 0x2000008, [],
    [⟨"BALLAST_W", 63, 48, .ro, .num 0⟩, ⟨"TARGET_W", 47, 32, .ro, .num 0⟩, ⟨"MEAN_1MS_W", 31, 16, .ro, .num 0⟩, ⟨"TICK_W", 15, 0, .ro, .num 0⟩]⟩,
  ⟨"PWR_INPUT", 0x2000010, [],
    [⟨"IB", 63, 48, .ro, .num 0⟩, ⟨"IA", 47, 32, .ro, .num 0⟩, ⟨"VIN", 15, 0, .ro, .num 0⟩]⟩,
  ⟨"PWR_ENERGY", 0x2000018, [],
    [⟨"ENERGY_MJ", 63, 0, .ro, .num 0⟩]⟩,
  ⟨"PWR_LIMITS", 0x2000020, [],
    [⟨"AVG_W", 63, 48, .ro, .hold⟩, ⟨"AVG_WIN", 47, 32, .ro, .hold⟩, ⟨"PEAK_W", 31, 16, .ro, .hold⟩, ⟨"PEAK_WIN", 15, 2, .ro, .hold⟩, ⟨"AVG_EN", 1, 1, .ro, .hold⟩, ⟨"PEAK_EN", 0, 0, .ro, .hold⟩]⟩,
  ⟨"PWR_SMOOTH", 0x2000028, [],
    [⟨"FLOOR_W", 63, 48, .ro, .hold⟩, ⟨"FLOOR_MODE", 47, 46, .ro, .hold⟩, ⟨"SLEW", 31, 16, .ro, .hold⟩, ⟨"START_INDEX", 15, 8, .ro, .hold⟩, ⟨"STAGGER_STEP", 7, 0, .ro, .hold⟩]⟩,
  ⟨"PWR_CAPS", 0x2000030, [],
    [⟨"THERM_CAP", 63, 48, .ro, .hold⟩, ⟨"OPER_CAP", 47, 32, .ro, .hold⟩, ⟨"ORPHAN_CAP", 31, 16, .ro, .hold⟩, ⟨"BLADE_CAP", 15, 0, .ro, .hold⟩]⟩,
  ⟨"PWR_HINT", 0x2000038, [],
    [⟨"KIND", 63, 56, .ro, .num 0⟩, ⟨"HELD", 34, 32, .ro, .num 0⟩, ⟨"HINT_FLOOR_W", 31, 16, .ro, .num 0⟩, ⟨"RAMP_W", 15, 0, .ro, .num 0⟩]⟩,
  ⟨"PWR_EVENTS", 0x2000040, [],
    [⟨"ALERTS", 63, 32, .rc, .num 0⟩, ⟨"LIMIT_BINDS", 31, 0, .rc, .num 0⟩]⟩,
  ⟨"PWR_EVENTS2", 0x2000048, [],
    [⟨"SLEW_MISS", 63, 32, .rc, .num 0⟩, ⟨"FLOOR_MISS", 31, 0, .rc, .num 0⟩]⟩]

/-- Part 2 of the register map, in rising order of offset. -/
def regMap2 : List RegRow := [
  ⟨"PWR_FLAGS", 0x2000050, [],
    [⟨"FLOOR_OVF", 3, 3, .w1c, .num 0⟩, ⟨"SLEW_OVF", 2, 2, .w1c, .num 0⟩, ⟨"BINDS_OVF", 1, 1, .w1c, .num 0⟩, ⟨"ALERTS_OVF", 0, 0, .w1c, .num 0⟩]⟩,
  ⟨"DIE_PWR", 0x2001000, [(0x100, 4)],
    [⟨"DIE_W", 63, 48, .ro, .num 0⟩, ⟨"RATE", 47, 32, .ro, .num 0⟩, ⟨"COAST_TARGET", 31, 16, .ro, .num 0⟩, ⟨"VSET", 15, 0, .ro, .num 0⟩]⟩,
  ⟨"DIE_PWR2", 0x2001008, [(0x100, 4)],
    [⟨"BALLAST_W", 63, 48, .ro, .num 0⟩, ⟨"BALLAST_CAP_W", 47, 32, .ro, .num 0⟩, ⟨"PERMIT", 8, 0, .ro, .num 256⟩]⟩,
  ⟨"THERM_STATUS", 0x2008000, [],
    [⟨"GUARD_BAD", 25, 16, .ro, .hold⟩, ⟨"BIND_CAP", 11, 9, .ro, .num 0⟩, ⟨"FLOW_LOW", 8, 8, .ro, .num 0⟩, ⟨"RAMP_ON", 7, 7, .ro, .num 0⟩, ⟨"CUT_REQ", 6, 6, .ro, .hold⟩, ⟨"TRIP", 5, 5, .ro, .hold⟩, ⟨"FORCE", 4, 4, .ro, .hold⟩, ⟨"FORCE_CAUSE", 2, 0, .ro, .hold⟩]⟩,
  ⟨"THERM_TEMPS", 0x2008008, [],
    [⟨"TJ_HOT", 63, 48, .ro, .num 0⟩, ⟨"MEM_HOT", 47, 32, .ro, .num 0⟩, ⟨"INLET", 31, 16, .ro, .num 0⟩, ⟨"OUTLET", 15, 0, .ro, .num 0⟩]⟩,
  ⟨"THERM_RTH", 0x2008010, [],
    [⟨"RTH_DIE", 63, 48, .ro, .hold⟩, ⟨"RTH_MEM", 47, 32, .ro, .hold⟩, ⟨"FLOW_EST", 31, 16, .ro, .num 0⟩, ⟨"EST_REGION", 3, 0, .ro, .num 0⟩]⟩,
  ⟨"THERM_CAPS", 0x2008018, [],
    [⟨"EST_CAP", 63, 48, .ro, .num 1400⟩, ⟨"TJ_CAP", 47, 32, .ro, .num 65535⟩, ⟨"RAMP_CAP", 31, 16, .ro, .num 65535⟩, ⟨"PLAUS_CAP", 15, 0, .ro, .hold⟩]⟩,
  ⟨"THERM_SLOPE", 0x2008020, [],
    [⟨"EXCESS", 31, 16, .ro, .num 0⟩, ⟨"DIE", 11, 8, .ro, .num 0⟩, ⟨"RUN_MS", 7, 0, .ro, .num 0⟩]⟩,
  ⟨"THERM_EVENTS", 0x2008028, [],
    [⟨"OVER_LIMIT", 63, 32, .rc, .num 0⟩, ⟨"FORECASTS", 31, 0, .rc, .num 0⟩]⟩,
  ⟨"THERM_FLAGS", 0x2008030, [],
    [⟨"FORECAST_OVF", 1, 1, .w1c, .num 0⟩, ⟨"OVER_OVF", 0, 0, .w1c, .num 0⟩]⟩,
  ⟨"TSENSE", 0x2008100, [(0x8, 197)],
    [⟨"FAULT", 19, 19, .ro, .num 0⟩, ⟨"GUARD", 18, 18, .ro, .fuse⟩, ⟨"IMPLAUS", 17, 17, .ro, .hold⟩, ⟨"VALID", 16, 16, .ro, .num 0⟩, ⟨"TEMP", 15, 0, .ro, .num 0⟩]⟩,
  ⟨"POINTS", 0x3000000, [(0x8, 4096)],
    [⟨"WORD", 63, 0, .rw, .num 0⟩]⟩,
  ⟨"EXCLUDE", 0x3010000, [(0x8, 4096)],
    [⟨"PLANES", 15, 0, .ro, .num 0⟩]⟩,
  ⟨"REACH", 0x3020000, [(0x8, 32)],
    [⟨"MASK", 63, 0, .rw, .num 0⟩]⟩,
  ⟨"MCG", 0x3030000, [(0x8, 512)],
    [⟨"MASK", 63, 0, .rw, .num 0⟩]⟩,
  ⟨"ROUTE_CTL", 0x3040000, [],
    [⟨"CLEAR_EXCLUDE", 1, 1, .wo, .num 0⟩, ⟨"CMAP_EN", 0, 0, .rw, .num 1⟩]⟩,
  ⟨"ROUTE_EVENTS", 0x3040008, [],
    [⟨"UNREACHABLE", 63, 32, .rc, .num 0⟩, ⟨"RULE_DROP", 31, 0, .rc, .num 0⟩]⟩,
  ⟨"ROUTE_EVENTS2", 0x3040010, [],
    [⟨"HOP_EXPIRED", 63, 32, .rc, .num 0⟩, ⟨"AGED", 31, 0, .rc, .num 0⟩]⟩,
  ⟨"ROUTE_EVENTS3", 0x3040018, [],
    [⟨"STALE_RSP", 63, 32, .rc, .num 0⟩, ⟨"FAIL_RX", 31, 0, .rc, .num 0⟩]⟩,
  ⟨"ROUTE_EVENTS4", 0x3040020, [],
    [⟨"TC0_HELD", 63, 32, .rc, .num 0⟩, ⟨"E2E_TIMEOUTS", 31, 0, .rc, .num 0⟩]⟩,
  ⟨"ROUTE_FLAGS", 0x3040028, [],
    [⟨"TIMEOUT_OVF", 7, 7, .w1c, .num 0⟩, ⟨"HELD_OVF", 6, 6, .w1c, .num 0⟩, ⟨"FAIL_OVF", 5, 5, .w1c, .num 0⟩, ⟨"STALE_OVF", 4, 4, .w1c, .num 0⟩, ⟨"AGED_OVF", 3, 3, .w1c, .num 0⟩, ⟨"HOP_OVF", 2, 2, .w1c, .num 0⟩, ⟨"RULE_OVF", 1, 1, .w1c, .num 0⟩, ⟨"UNREACH_OVF", 0, 0, .w1c, .num 0⟩]⟩,
  ⟨"CMAP_CUR", 0x3040100, [],
    [⟨"SEQ", 63, 1, .ro, .num 0⟩, ⟨"BUF", 0, 0, .ro, .num 0⟩]⟩,
  ⟨"CMAP_BUF", 0x3050000, [(0x1000, 2), (0x8, 152)],
    [⟨"WORD", 63, 0, .ro, .num 0⟩]⟩,
  ⟨"PORT_STATUS", 0x4000000, [(0x100000, 18)],
    [⟨"DOWNS", 63, 32, .rc, .num 0⟩, ⟨"LOCK_MASK", 27, 24, .ro, .num 0⟩, ⟨"LANE_MASK", 23, 20, .ro, .num 0⟩, ⟨"WIDTH", 19, 17, .ro, .num 0⟩, ⟨"MAINT_CAUSE", 16, 14, .ro, .num 0⟩, ⟨"STATE", 3, 0, .ro, .num 0⟩]⟩]

/-- Part 3 of the register map, in rising order of offset. -/
def regMap3 : List RegRow := [
  ⟨"PORT_PARTNER", 0x4000008, [(0x100000, 18)],
    [⟨"VERSION", 63, 48, .ro, .num 0⟩, ⟨"PORT", 47, 40, .ro, .num 0⟩, ⟨"ROLE", 39, 32, .ro, .num 0⟩, ⟨"DEST", 11, 0, .ro, .num 0⟩]⟩,
  ⟨"PORT_PARTNER_SN", 0x4000010, [(0x100000, 18)],
    [⟨"SERIAL", 63, 0, .ro, .num 0⟩]⟩,
  ⟨"PORT_EVENTS", 0x4000018, [(0x100000, 18)],
    [⟨"UNCORR_CW", 63, 32, .rc, .num 0⟩, ⟨"CRC_ERR", 31, 0, .rc, .num 0⟩]⟩,
  ⟨"PORT_EVENTS2", 0x4000020, [(0x100000, 18)],
    [⟨"REPLAY", 63, 32, .rc, .num 0⟩, ⟨"WIDTH_STEPS", 31, 0, .rc, .num 0⟩]⟩,
  ⟨"PORT_EVENTS3", 0x4000028, [(0x100000, 18)],
    [⟨"DROPPED_FRAMES", 63, 32, .rc, .num 0⟩, ⟨"MAINT_DROP", 31, 0, .rc, .num 0⟩]⟩,
  ⟨"PORT_FEC", 0x4000030, [(0x100000, 18)],
    [⟨"CORR_CW", 63, 0, .ro, .num 0⟩]⟩,
  ⟨"PORT_FLAGS", 0x4000038, [(0x100000, 18)],
    [⟨"PARKED", 11, 8, .ro, .num 0⟩, ⟨"MAINT_OVF", 6, 6, .w1c, .num 0⟩, ⟨"DROPPED_OVF", 5, 5, .w1c, .num 0⟩, ⟨"STEPS_OVF", 4, 4, .w1c, .num 0⟩, ⟨"REPLAY_OVF", 3, 3, .w1c, .num 0⟩, ⟨"CRC_OVF", 2, 2, .w1c, .num 0⟩, ⟨"UNCORR_OVF", 1, 1, .w1c, .num 0⟩, ⟨"DOWNS_OVF", 0, 0, .w1c, .num 0⟩]⟩,
  ⟨"PORT_CTL", 0x4000040, [(0x100000, 18)],
    [⟨"LANE_DISABLE", 11, 8, .rw, .num 0⟩, ⟨"RETRAIN", 1, 1, .wo, .num 0⟩, ⟨"EN", 0, 0, .rw, .num 1⟩]⟩,
  ⟨"LN_STATUS", 0x4000100, [(0x100000, 18), (0x8, 4)],
    [⟨"DROPS", 63, 32, .rc, .num 0⟩, ⟨"SNR", 15, 8, .ro, .num 0⟩, ⟨"DROPS_OVF", 3, 3, .w1c, .num 0⟩, ⟨"PARKED", 2, 2, .ro, .num 0⟩, ⟨"IN_SERVICE", 1, 1, .ro, .num 0⟩, ⟨"LOCKED", 0, 0, .ro, .num 0⟩]⟩,
  ⟨"DW_LANE_STATUS", 0x6000000, [(0x1000, 2)],
    [⟨"LANE_DOWNS", 63, 32, .rc, .num 0⟩, ⟨"HELD_CAUSE", 8, 6, .ro, .num 0⟩, ⟨"RESUMED", 5, 5, .ro, .num 0⟩, ⟨"LOS", 4, 4, .ro, .num 1⟩, ⟨"STATE", 3, 0, .ro, .num 0⟩]⟩,
  ⟨"DW_LANE_EVENTS", 0x6000008, [(0x1000, 2)],
    [⟨"UNCORR_CW", 63, 32, .rc, .num 0⟩, ⟨"CRC_ERR", 31, 0, .rc, .num 0⟩]⟩,
  ⟨"DW_LANE_EVENTS2", 0x6000010, [(0x1000, 2)],
    [⟨"REPLAY", 63, 32, .rc, .num 0⟩, ⟨"PROTO_ERR", 31, 0, .rc, .num 0⟩]⟩,
  ⟨"DW_LANE_FEC", 0x6000018, [(0x1000, 2)],
    [⟨"CORR_CW", 63, 0, .ro, .num 0⟩]⟩,
  ⟨"DW_LANE_FLAGS", 0x6000020, [(0x1000, 2)],
    [⟨"DOWNS_OVF", 4, 4, .w1c, .num 0⟩, ⟨"PROTO_OVF", 3, 3, .w1c, .num 0⟩, ⟨"REPLAY_OVF", 2, 2, .w1c, .num 0⟩, ⟨"UNCORR_OVF", 1, 1, .w1c, .num 0⟩, ⟨"CRC_OVF", 0, 0, .w1c, .num 0⟩]⟩,
  ⟨"DW_LANE_CREDIT", 0x6000028, [(0x1000, 2)],
    [⟨"TX3", 63, 48, .ro, .num 0⟩, ⟨"TX2", 47, 32, .ro, .num 0⟩, ⟨"TX1", 31, 16, .ro, .num 0⟩, ⟨"TX0", 15, 0, .ro, .num 0⟩]⟩,
  ⟨"DW_CTL", 0x6002000, [],
    [⟨"RESUME_MS", 15, 4, .rw, .num 100⟩, ⟨"FRESH_SL", 3, 3, .wo, .num 0⟩, ⟨"FRESH_CL", 2, 2, .wo, .num 0⟩, ⟨"EN_SL", 1, 1, .rw, .num 1⟩, ⟨"EN_CL", 0, 0, .rw, .num 1⟩]⟩,
  ⟨"DW_PARTNER", 0x6002008, [],
    [⟨"NODE_ID", 63, 0, .ro, .num 0⟩]⟩,
  ⟨"DW_EVQ", 0x6002010, [],
    [⟨"EVT_LOST", 63, 32, .rc, .num 0⟩, ⟨"EVT_LOST_OVF", 9, 9, .w1c, .num 0⟩, ⟨"DEPTH", 8, 0, .ro, .num 0⟩]⟩,
  ⟨"RTIME", 0x7000000, [],
    [⟨"NS", 63, 0, .ro, .num 0⟩]⟩,
  ⟨"RTIME_STATUS", 0x7000008, [],
    [⟨"TSYNC_SLIP", 63, 32, .rc, .num 0⟩, ⟨"ARMED", 4, 4, .ro, .num 0⟩, ⟨"SLIP_OVF", 3, 3, .w1c, .num 0⟩, ⟨"REFCLK_LOCK", 2, 2, .ro, .num 0⟩, ⟨"TSYNC_PRESENT", 1, 1, .ro, .num 0⟩, ⟨"RTIME_VALID", 0, 0, .ro, .num 0⟩]⟩,
  ⟨"UCIE_STATUS", 0x7001000, [(0x8, 6)],
    [⟨"RETRIES", 63, 32, .rc, .num 0⟩, ⟨"RETRY_OVF", 4, 4, .w1c, .num 0⟩, ⟨"MODULES", 3, 0, .ro, .num 0⟩]⟩,
  ⟨"MQ_PUSH", 0x8000000, [(0x1000, 8), (0x800, 2)],
    [⟨"WORD", 63, 0, .wo, .num 0⟩]⟩,
  ⟨"MQ_CTL", 0x8000008, [(0x1000, 8), (0x800, 2)],
    [⟨"DISCARD", 1, 1, .wo, .num 0⟩, ⟨"SEND", 0, 0, .wo, .num 0⟩]⟩,
  ⟨"MQ_ACK", 0x8000010, [(0x1000, 8), (0x800, 2)],
    [⟨"SEQ", 31, 16, .wo, .num 0⟩, ⟨"CODE", 15, 0, .wo, .num 0⟩]⟩]

/-- Part 4 of the register map, in rising order of offset. -/
def regMap4 : List RegRow := [
  ⟨"MQ_STATUS", 0x8000018, [(0x1000, 8), (0x800, 2)],
    [⟨"LAST_CODE", 63, 48, .ro, .num 0⟩, ⟨"LAST_SEQ", 47, 32, .ro, .num 0⟩, ⟨"MSG_SEQ", 31, 16, .ro, .num 0⟩, ⟨"SENT_OVF", 15, 15, .w1c, .num 0⟩, ⟨"DROP_OVF", 14, 14, .w1c, .num 0⟩, ⟨"STALE_OVF", 13, 13, .w1c, .num 0⟩, ⟨"TIMEOUTS_OVF", 12, 12, .w1c, .num 0⟩, ⟨"SEND_ERR", 11, 11, .w1c, .num 0⟩, ⟨"PUSH_ERR", 10, 10, .ro, .num 0⟩, ⟨"TIMEOUT", 9, 9, .w1c, .num 0⟩, ⟨"ACKED", 8, 8, .w1c, .num 0⟩, ⟨"PENDING", 5, 5, .ro, .num 0⟩, ⟨"WORDS", 4, 0, .ro, .num 0⟩]⟩,
  ⟨"MQ_EVENTS", 0x8000020, [(0x1000, 8), (0x800, 2)],
    [⟨"SENT", 63, 32, .rc, .num 0⟩, ⟨"TIMEOUTS", 31, 0, .rc, .num 0⟩]⟩,
  ⟨"MQ_EVENTS2", 0x8000028, [(0x1000, 8), (0x800, 2)],
    [⟨"PUSH_DROP", 63, 32, .rc, .num 0⟩, ⟨"STALE_ACK", 31, 0, .rc, .num 0⟩]⟩,
  ⟨"MQ_WORD", 0x8000100, [(0x1000, 8), (0x800, 2), (0x8, 16)],
    [⟨"WORD", 63, 0, .ro, .num 0⟩]⟩,
  ⟨"DB_PEND", 0x8008000, [],
    [⟨"PEND", 31, 0, .w1c, .num 0⟩]⟩,
  ⟨"DB_MASK", 0x8008008, [],
    [⟨"MASK", 31, 0, .rw, .num 0⟩]⟩,
  ⟨"TOKEN", 0x8009000, [(0x8, 64)],
    [⟨"WON", 7, 7, .rt, .num 0⟩, ⟨"BROKEN", 6, 6, .rt, .num 0⟩, ⟨"HELD", 5, 5, .rt, .num 0⟩, ⟨"OWNER", 3, 0, .rt, .num 0⟩]⟩,
  ⟨"TOKEN_REL", 0x8009200, [],
    [⟨"INDEX", 5, 0, .wo, .num 0⟩]⟩,
  ⟨"TOKEN_EVENTS", 0x8009208, [],
    [⟨"FORCED", 63, 32, .rc, .num 0⟩, ⟨"FORCED_OVF", 0, 0, .w1c, .num 0⟩]⟩,
  ⟨"RC_STATUS", 0x800A000, [],
    [⟨"HB_A", 63, 48, .ro, .num 0⟩, ⟨"HB_B", 47, 32, .ro, .num 0⟩, ⟨"FAILOVERS_OVF", 17, 17, .w1c, .num 0⟩, ⟨"SBF_OVF", 16, 16, .w1c, .num 0⟩, ⟨"PATHS", 15, 12, .ro, .num 0⟩, ⟨"STATE_B", 11, 8, .ro, .num 0⟩, ⟨"STATE_A", 7, 4, .ro, .num 0⟩, ⟨"STANDBY_OK", 1, 1, .ro, .num 0⟩, ⟨"ACTIVE", 0, 0, .ro, .dict 0x720002⟩]⟩,
  ⟨"RC_EVENTS", 0x800A008, [],
    [⟨"FAILOVERS", 63, 32, .rc, .num 0⟩, ⟨"STANDBY_FAULTS", 31, 0, .rc, .num 0⟩]⟩,
  ⟨"RC_BEAT", 0x800A010, [],
    [⟨"BEAT", 63, 0, .wo, .num 0⟩]⟩,
  ⟨"RING_BASE", 0x9000000, [(0x100, 64)],
    [⟨"BASE", 51, 0, .rw, .num 0⟩]⟩,
  ⟨"RING_CFG", 0x9000008, [(0x100, 64)],
    [⟨"SIZE_LOG2", 24, 20, .rw, .num 4⟩, ⟨"CLASS", 19, 18, .rw, .num 2⟩, ⟨"NO_EPOCH", 17, 17, .rw, .num 0⟩, ⟨"JOB", 16, 16, .rw, .num 0⟩, ⟨"PERIODIC", 1, 1, .rw, .num 0⟩, ⟨"EN", 0, 0, .rw, .num 0⟩]⟩,
  ⟨"RING_IDX", 0x9000010, [(0x100, 64)],
    [⟨"RD_IDX", 63, 32, .rw, .num 0⟩, ⟨"DONE_IDX", 31, 0, .ro, .num 0⟩]⟩,
  ⟨"RING_WR", 0x9000018, [(0x100, 64)],
    [⟨"WR_IDX", 31, 0, .rw, .num 0⟩]⟩,
  ⟨"RING_STATUS", 0x9000020, [(0x100, 64)],
    [⟨"STOP_IDX", 63, 32, .ro, .num 0⟩, ⟨"CFG_ERR", 8, 8, .w1c, .num 0⟩, ⟨"STOP_CAUSE", 7, 4, .ro, .num 0⟩, ⟨"STATE", 3, 0, .ro, .num 0⟩]⟩,
  ⟨"RING_PERIOD", 0x9000028, [(0x100, 64)],
    [⟨"PERIOD", 63, 32, .rw, .num 1000⟩]⟩,
  ⟨"RING_PHASE", 0x9000030, [(0x100, 64)],
    [⟨"PHASE", 63, 0, .rw, .num 0⟩]⟩,
  ⟨"RING_LAG", 0x9000038, [(0x100, 64)],
    [⟨"MAX_LAG_US", 63, 32, .rc, .num 0⟩, ⟨"LAG_US", 31, 0, .ro, .num 0⟩]⟩,
  ⟨"RING_EVENTS", 0x9000040, [(0x100, 64)],
    [⟨"LATE_COUNT", 63, 32, .rc, .num 0⟩, ⟨"EMPTY_COUNT", 31, 0, .rc, .num 0⟩]⟩,
  ⟨"RING_FLAGS", 0x9000048, [(0x100, 64)],
    [⟨"EMPTY_OVF", 1, 1, .w1c, .num 0⟩, ⟨"LATE_OVF", 0, 0, .w1c, .num 0⟩]⟩,
  ⟨"DOORBELL", 0x9008000, [(0x8, 64)],
    [⟨"WR_IDX", 31, 0, .wo, .num 0⟩]⟩,
  ⟨"EPOCH_STATUS", 0x900A000, [],
    [⟨"COMMITTED", 63, 32, .ro, .hold⟩, ⟨"ATTEMPT", 31, 16, .ro, .hold⟩, ⟨"COORD", 4, 4, .ro, .hold⟩, ⟨"ESTATE", 3, 0, .ro, .hold⟩]⟩]

/-- Part 5 of the register map, in rising order of offset. -/
def regMap5 : List RegRow := [
  ⟨"EPOCH_CAUSE", 0x900A008, [],
    [⟨"EPOCH", 63, 32, .ro, .hold⟩, ⟨"RANK", 31, 16, .ro, .hold⟩, ⟨"CAUSE", 15, 0, .ro, .hold⟩]⟩,
  ⟨"EPOCH_EVENTS", 0x900A010, [],
    [⟨"COMMITS", 63, 32, .rc, .num 0⟩, ⟨"ABORTS", 31, 0, .rc, .num 0⟩]⟩,
  ⟨"EPOCH_STRAY", 0x900A018, [],
    [⟨"STRAY_OVF", 34, 34, .w1c, .num 0⟩, ⟨"ABORTS_OVF", 33, 33, .w1c, .num 0⟩, ⟨"COMMITS_OVF", 32, 32, .w1c, .num 0⟩, ⟨"STRAY", 31, 0, .rc, .num 0⟩]⟩,
  ⟨"TILE_STATE", 0x11000000, [(0x10000000, 4), (0x10000, 48)],
    [⟨"LOGICAL", 63, 48, .ro, .holdAt 65535⟩, ⟨"STATE", 3, 0, .ro, .unit⟩]⟩,
  ⟨"TILE_TRAP", 0x11000010, [(0x10000000, 4), (0x10000, 48)],
    [⟨"CODE", 63, 48, .ro, .num 0⟩, ⟨"BERTH", 47, 42, .ro, .num 0⟩, ⟨"VALID", 32, 32, .w1c, .num 0⟩, ⟨"INSN_INDEX", 31, 0, .ro, .num 0⟩]⟩,
  ⟨"TILE_TRAP_ADDR", 0x11000018, [(0x10000000, 4), (0x10000, 48)],
    [⟨"ADDR", 63, 0, .ro, .num 0⟩]⟩,
  ⟨"TILE_SEQ", 0x11000020, [(0x10000000, 4), (0x10000, 48)],
    [⟨"DUP_COUNT", 63, 32, .rc, .num 0⟩, ⟨"SEQ", 31, 0, .ro, .num 0⟩]⟩,
  ⟨"TILE_DMA", 0x11000028, [(0x10000000, 4), (0x10000, 48)],
    [⟨"DEPTH1", 20, 16, .ro, .num 0⟩, ⟨"DEPTH0", 12, 8, .ro, .num 0⟩, ⟨"HALT1", 1, 1, .ro, .num 0⟩, ⟨"HALT0", 0, 0, .ro, .num 0⟩]⟩,
  ⟨"ARITH_STATUS", 0x11000100, [(0x10000000, 4), (0x10000, 48)],
    [⟨"WS_CNT_OVF", 9, 9, .w1c, .num 0⟩, ⟨"NAN_CNT_OVF", 8, 8, .w1c, .num 0⟩, ⟨"XP_OVF", 4, 4, .w1c, .num 0⟩, ⟨"SAT", 3, 3, .w1c, .num 0⟩, ⟨"INF_OUT", 2, 2, .w1c, .num 0⟩, ⟨"NAN_OUT", 1, 1, .w1c, .num 0⟩, ⟨"WIDE_SPAN", 0, 0, .w1c, .num 0⟩]⟩,
  ⟨"ARITH_EVENTS", 0x11000108, [(0x10000000, 4), (0x10000, 48)],
    [⟨"WIDE_SPAN_COUNT", 63, 32, .rc, .num 0⟩, ⟨"NAN_COUNT", 31, 0, .rc, .num 0⟩]⟩,
  ⟨"ARITH_FIRST", 0x11000110, [(0x10000000, 4), (0x10000, 48)],
    [⟨"SPAN", 63, 48, .ro, .num 0⟩, ⟨"INSN_INDEX", 31, 0, .ro, .num 0⟩]⟩,
  ⟨"SP_ECC", 0x11000200, [(0x10000000, 4), (0x10000, 48)],
    [⟨"S", 63, 60, .ro, .num 0⟩, ⟨"Q", 59, 59, .ro, .num 0⟩, ⟨"UNC", 58, 58, .ro, .num 0⟩, ⟨"REQ", 55, 52, .ro, .num 0⟩, ⟨"DIE", 51, 48, .ro, .num 0⟩, ⟨"WORD", 44, 32, .ro, .num 0⟩, ⟨"VALID", 16, 16, .w1c, .num 0⟩, ⟨"MARKS", 15, 0, .ro, .num 0⟩]⟩,
  ⟨"SP_ECC_ADDR", 0x11000208, [(0x10000000, 4), (0x10000, 48)],
    [⟨"ADDR", 63, 0, .ro, .num 0⟩]⟩,
  ⟨"SP_EVENTS", 0x14000000, [(0x10000000, 4)],
    [⟨"CE_COUNT", 63, 32, .rc, .num 0⟩, ⟨"UE_COUNT", 31, 0, .rc, .num 0⟩]⟩,
  ⟨"SP_BUCKET", 0x14000008, [(0x10000000, 4)],
    [⟨"LEVEL", 31, 0, .rc, .num 0⟩]⟩,
  ⟨"SP_FLAGS", 0x14000010, [(0x10000000, 4)],
    [⟨"UE_OVF", 1, 1, .w1c, .num 0⟩, ⟨"CE_OVF", 0, 0, .w1c, .num 0⟩]⟩,
  ⟨"ME_STATUS", 0x15000000, [(0x10000000, 4)],
    [⟨"QUEUED", 39, 32, .ro, .num 0⟩, ⟨"STARTED", 31, 28, .ro, .num 0⟩, ⟨"BUF_USED", 16, 8, .ro, .num 0⟩, ⟨"STATE", 3, 0, .ro, .num 0⟩]⟩,
  ⟨"ME_EVENTS", 0x15000008, [(0x10000000, 4)],
    [⟨"DONE", 63, 32, .rc, .num 0⟩, ⟨"ABORTS", 31, 0, .rc, .num 0⟩]⟩,
  ⟨"ME_DROPS", 0x15000010, [(0x10000000, 4)],
    [⟨"CRC_DROP", 63, 32, .rc, .num 0⟩, ⟨"OVERFLOW_DROP", 31, 0, .rc, .num 0⟩]⟩,
  ⟨"ME_DROPS2", 0x15000018, [(0x10000000, 4)],
    [⟨"DUP_DROP", 63, 32, .rc, .num 0⟩, ⟨"STRAY", 31, 0, .rc, .num 0⟩]⟩,
  ⟨"ME_EVENTS2", 0x15000020, [(0x10000000, 4)],
    [⟨"RESENDS", 63, 32, .rc, .num 0⟩, ⟨"LATE_ABORT", 31, 0, .rc, .num 0⟩]⟩,
  ⟨"ME_EVENTS3", 0x15000028, [(0x10000000, 4)],
    [⟨"SKEW_OVER", 63, 32, .rc, .num 0⟩, ⟨"COASTS", 31, 0, .rc, .num 0⟩]⟩,
  ⟨"ME_TX_BYTES", 0x15000030, [(0x10000000, 4)],
    [⟨"BYTES", 63, 0, .ro, .num 0⟩]⟩,
  ⟨"ME_RX_BYTES", 0x15000038, [(0x10000000, 4)],
    [⟨"BYTES", 63, 0, .ro, .num 0⟩]⟩]

/-- Part 6 of the register map, in rising order of offset. -/
def regMap6 : List RegRow := [
  ⟨"ME_FLAGS", 0x15000040, [(0x10000000, 4)],
    [⟨"OVF", 17, 8, .w1c, .num 0⟩, ⟨"XP_OVF", 3, 3, .w1c, .num 0⟩, ⟨"INF_OUT", 2, 2, .w1c, .num 0⟩, ⟨"NAN_OUT", 1, 1, .w1c, .num 0⟩, ⟨"WIDE_SPAN", 0, 0, .w1c, .num 0⟩]⟩,
  ⟨"ME_ABORT", 0x15000048, [(0x10000000, 4)],
    [⟨"CAUSE", 63, 48, .ro, .num 0⟩, ⟨"GROUP", 47, 40, .ro, .num 0⟩, ⟨"VALID", 32, 32, .w1c, .num 0⟩, ⟨"COLL_SEQ", 31, 0, .ro, .num 0⟩]⟩,
  ⟨"ME_ABORT2", 0x15000050, [(0x10000000, 4)],
    [⟨"RANK", 63, 48, .ro, .num 0⟩, ⟨"EPOCH", 31, 0, .ro, .num 0⟩]⟩,
  ⟨"ME_SKEW", 0x15000058, [(0x10000000, 4)],
    [⟨"SLOW_RANK", 63, 48, .ro, .num 0⟩, ⟨"SKEW_NS", 31, 0, .ro, .num 0⟩]⟩,
  ⟨"ME_SKEW_MAX", 0x15000060, [(0x10000000, 4)],
    [⟨"SKEW_MAX", 31, 0, .rc, .num 0⟩]⟩,
  ⟨"ME_LAST", 0x15000068, [(0x10000000, 4)],
    [⟨"COLL_SEQ", 63, 32, .ro, .num 0⟩, ⟨"FILL", 31, 0, .ro, .num 0⟩]⟩,
  ⟨"ME_PACE", 0x15000070, [(0x10000000, 4)],
    [⟨"TARGET", 63, 48, .ro, .num 0⟩, ⟨"OWN", 47, 32, .ro, .num 0⟩]⟩,
  ⟨"CTR", 0x15010000, [(0x10000000, 4), (0x8, 1024)],
    [⟨"ABORTED", 34, 34, .ro, .num 0⟩, ⟨"CTR_OVF", 33, 33, .w1c, .num 0⟩, ⟨"BROKEN", 32, 32, .ro, .num 0⟩, ⟨"VALUE", 31, 0, .rw, .num 0⟩]⟩,
  ⟨"MD_STATUS", 0x80000000, [(0x1000000, 8)],
    [⟨"CH_UP", 11, 8, .ro, .num 15⟩, ⟨"REFRESH_2X", 4, 4, .ro, .num 0⟩]⟩,
  ⟨"DIE_MARK", 0x80000008, [(0x1000000, 8)],
    [⟨"AUTO", 31, 16, .ro, .hold⟩, ⟨"MARKED", 15, 0, .ro, .hold⟩]⟩,
  ⟨"ECC_EVENTS", 0x80000010, [(0x1000000, 8)],
    [⟨"CE_COUNT", 63, 32, .rc, .num 0⟩, ⟨"UE_COUNT", 31, 0, .rc, .num 0⟩]⟩,
  ⟨"ECC_FLAGS", 0x80000018, [(0x1000000, 8)],
    [⟨"DIE_OVF", 31, 16, .w1c, .num 0⟩, ⟨"CH_RETIRED", 3, 3, .w1c, .num 0⟩, ⟨"MARK_LIMIT", 2, 2, .w1c, .num 0⟩, ⟨"UE_OVF", 1, 1, .w1c, .num 0⟩, ⟨"CE_OVF", 0, 0, .w1c, .num 0⟩]⟩,
  ⟨"ECC_BUCKET", 0x80000020, [(0x1000000, 8)],
    [⟨"LEVEL", 31, 0, .rc, .num 0⟩]⟩,
  ⟨"ECC_UE", 0x80000028, [(0x1000000, 8)],
    [⟨"S", 63, 60, .ro, .num 0⟩, ⟨"Q", 59, 59, .ro, .num 0⟩, ⟨"REQ", 55, 52, .ro, .num 0⟩, ⟨"DIE", 51, 48, .ro, .num 0⟩, ⟨"WORD", 44, 32, .ro, .num 0⟩, ⟨"VALID", 16, 16, .w1c, .num 0⟩, ⟨"MARKS", 15, 0, .ro, .num 0⟩]⟩,
  ⟨"ECC_UE_ADDR", 0x80000030, [(0x1000000, 8)],
    [⟨"ADDR", 63, 0, .ro, .num 0⟩]⟩,
  ⟨"ECC_CE", 0x80000038, [(0x1000000, 8)],
    [⟨"S", 63, 60, .ro, .num 0⟩, ⟨"Q", 59, 59, .ro, .num 0⟩, ⟨"REQ", 55, 52, .ro, .num 0⟩, ⟨"DIE", 51, 48, .ro, .num 0⟩, ⟨"WORD", 44, 32, .ro, .num 0⟩, ⟨"VALID", 16, 16, .w1c, .num 0⟩, ⟨"MARKS", 15, 0, .ro, .num 0⟩]⟩,
  ⟨"ECC_CE_ADDR", 0x80000040, [(0x1000000, 8)],
    [⟨"ADDR", 63, 0, .ro, .num 0⟩]⟩,
  ⟨"DIE_CE", 0x80000100, [(0x1000000, 8), (0x8, 8)],
    [⟨"ODD", 63, 32, .rc, .num 0⟩, ⟨"EVEN", 31, 0, .rc, .num 0⟩]⟩,
  ⟨"SCRUB_BASE", 0x80001000, [(0x1000000, 8)],
    [⟨"TARGET", 63, 63, .rw, .num 0⟩, ⟨"OFFSET", 36, 0, .rw, .num 0⟩]⟩,
  ⟨"SCRUB_LEN", 0x80001008, [(0x1000000, 8)],
    [⟨"LEN", 36, 0, .rw, .num 0⟩]⟩,
  ⟨"SCRUB_CTL", 0x80001010, [(0x1000000, 8)],
    [⟨"RESULT", 63, 48, .ro, .num 0⟩, ⟨"RATE", 39, 32, .rw, .dict 0x400006⟩, ⟨"MODE", 3, 3, .rw, .num 0⟩, ⟨"STOP", 1, 1, .wo, .num 0⟩, ⟨"GO", 0, 0, .wo, .num 0⟩]⟩,
  ⟨"SCRUB_SUM", 0x80001020, [(0x1000000, 8), (0x8, 8)],
    [⟨"WORD", 63, 0, .ro, .num 0⟩]⟩,
  ⟨"WE_POST", 0x80400000, [(0x1000000, 8), (0x8, 32)],
    [⟨"WORD", 63, 0, .wo, .num 0⟩]⟩,
  ⟨"WE_POST_CTL", 0x80400100, [(0x1000000, 8)],
    [⟨"RESULT", 63, 48, .ro, .num 0⟩, ⟨"CLEAR", 1, 1, .wo, .num 0⟩, ⟨"GO", 0, 0, .wo, .num 0⟩]⟩]

/-- Part 7 of the register map, in rising order of offset. -/
def regMap7 : List RegRow := [
  ⟨"WE_QSTAT", 0x80400108, [(0x1000000, 8)],
    [⟨"SEQ", 63, 32, .ro, .num 0⟩, ⟨"DEPTH", 23, 16, .ro, .num 0⟩, ⟨"ACTIONS", 15, 8, .ro, .hold⟩, ⟨"STATE", 3, 0, .ro, .num 0⟩]⟩,
  ⟨"WE_ERR", 0x80400110, [(0x1000000, 8)],
    [⟨"CODE", 63, 48, .ro, .num 0⟩, ⟨"VALID", 32, 32, .w1c, .num 0⟩, ⟨"DESC_SEQ", 31, 0, .ro, .num 0⟩]⟩,
  ⟨"WE_ERR_ADDR", 0x80400118, [(0x1000000, 8)],
    [⟨"ADDR", 63, 0, .ro, .num 0⟩]⟩,
  ⟨"WE_EVENTS", 0x80400120, [(0x1000000, 8)],
    [⟨"DONE_COUNT", 63, 32, .rc, .num 0⟩, ⟨"IDX_DROP", 31, 0, .rc, .num 0⟩]⟩,
  ⟨"WE_EVENTS2", 0x80400128, [(0x1000000, 8)],
    [⟨"DUP_COUNT", 63, 32, .rc, .num 0⟩, ⟨"ABORT_DISCARD", 31, 0, .rc, .num 0⟩]⟩,
  ⟨"WE_BYTES", 0x80400130, [(0x1000000, 8)],
    [⟨"BYTES", 63, 0, .ro, .num 0⟩]⟩,
  ⟨"WE_FLAGS", 0x80400138, [(0x1000000, 8)],
    [⟨"DISCARD_OVF", 11, 11, .w1c, .num 0⟩, ⟨"DUP_OVF", 10, 10, .w1c, .num 0⟩, ⟨"IDX_OVF", 9, 9, .w1c, .num 0⟩, ⟨"DONE_OVF", 8, 8, .w1c, .num 0⟩, ⟨"XP_OVF", 4, 4, .w1c, .num 0⟩, ⟨"SAT", 3, 3, .w1c, .num 0⟩, ⟨"INF_OUT", 2, 2, .w1c, .num 0⟩, ⟨"NAN_OUT", 1, 1, .w1c, .num 0⟩, ⟨"WIDE_SPAN", 0, 0, .w1c, .num 0⟩]⟩,
  ⟨"WE_APPLY", 0x80400140, [(0x1000000, 8)],
    [⟨"EPOCH", 63, 32, .ro, .hold⟩, ⟨"LEFT", 15, 8, .ro, .hold⟩, ⟨"APPLYING", 0, 0, .ro, .hold⟩]⟩]

/-- The whole register map. -/
def regMap : List RegRow := regMap0 ++ regMap1 ++ regMap2 ++ regMap3 ++ regMap4 ++ regMap5 ++ regMap6 ++ regMap7

end Sys2Proof.Machine
end

