-- ==== Sys2Proof/Machine/State.lean ====
section
/-! DEFINITION. The state of the package as plain data: every register (the sparse table `csr` over the register map), every
dictionary entry (the table `dict`), memory, and the buffers, queues and engines of every subsystem, with what each holds after
reset. -/

namespace Sys2Proof.Machine

/-! ## Fault and refusal reasons -/

/-- Why a step stops with a fault. No command of this model stops so: every exception the manual describes is an effect on the
state (a trap, a report to the interlock, an error answer), which the meanings take. -/
inductive Fault
  /-- Raised by no command; kept so that a later stop has a name. Safe: a stop allows no behaviour. -/
  | stopped
  deriving DecidableEq, Repr

/-- Why a command is refused. -/
inductive Refusal
  /-- Raised by exec for a command that has no meaning yet. Safe: a refusal allows no behaviour. -/
  | notModelled (mnemonic : String)
  deriving DecidableEq, Repr

/-! ## Domains and the clock -/

/-- The reset domains of R30: which are in reset, and the requests R34 merges while a reset is in progress. -/
structure Dom where
  powered   : Bool          -- 50 V present, always-on partition running (R43)
  lineRst   : Bool          -- LINE in reset
  worksRst  : Bool          -- WORKS in reset
  signalRst : Bool          -- SIGNAL in reset
  reqKind   : Nat           -- reset requested and not yet entered: RESET_REQ KIND of R453, 0 none
  reqCause  : Nat           -- its cause, coded as LAST_CAUSE of R453
  reqLevel  : Nat           -- level of the ladder action that asked for it, 0 none (R447)
  reqTarget : Nat           -- target of that action (R446)
  reqLseq   : Nat           -- interlock entry behind it (R443)
  sigReq    : Nat           -- SIGNAL reset requested: cause of R503, 0 none
  again     : Bool          -- a second request was absorbed while a reset is in progress (R34)
  exitTimer : Bool          -- the 5 s exit limit of R447 runs
  cutoff    : Bool          -- every rail but VAON is off until a power-on reset (R407)
  deriving DecidableEq, Repr

/-! ## Fault messages at their sources (R414, R416) -/

/-- A fault message a source holds until the collector takes it. -/
structure FaultMsg where
  source   : Nat
  kind     : Nat
  rep      : Nat
  clear    : Bool
  lost     : Bool
  injected : Bool
  addr     : Nat
  detail   : Nat
  time     : Nat
  high     : Bool      -- sent while the state holds that raises its kind's class (R418)
  deriving DecidableEq, Repr

/-! ## Tiles (chapters "Tiles and their arithmetic" and "Tile programs, berths and fused instructions") -/

/-- A berth register (R86). -/
structure Berth where
  valid      : Bool
  x          : Bool
  w          : Bool
  r          : Bool
  kind       : Nat
  base       : Nat
  dest       : Nat
  scaleEn    : Bool
  scaleBerth : Nat
  fmt        : Nat
  length     : Nat
  pitch      : Nat
  rowElems   : Nat
  originRow  : Nat
  originCol  : Nat
  deriving DecidableEq, Repr

/-- The null berth (R91). -/
def Berth.null : Berth := ⟨false, false, false, false, 0, 0, 0, false, 0, 0, 0, 0, 0, 0, 0⟩

/-- One entry of an accumulator set: the exact sum of its terms (window and guard bits of R61), the partial of the block not yet
complete (R60), the anchor, flags, the float C operand, and the binary32 running result of R65. -/
structure AccEnt where
  sum    : Int
  part   : Int
  anchor : Int
  span   : Nat
  wide   : Bool
  ovf    : Bool
  nan    : Bool
  pinf   : Bool
  ninf   : Bool
  c      : Xv
  acc32  : Nat
  deriving DecidableEq, Repr

/-- An accumulator set: its configuration (R103), the configuration its open accumulation started with, and the open
accumulation (R102): format pair, destination berth, K index where the last instruction ended, K covered so far, entries. -/
structure AccSet where
  cfgFixed  : Bool
  cfgAnchor : Int
  cfgAlpha  : Nat
  cfgStream : Nat
  isOpen    : Bool
  fixed     : Bool
  fixAnchor : Int
  alpha     : Nat
  stream    : Nat
  fmtA      : Nat
  mxA       : Bool
  fmtB      : Nat
  mxB       : Bool
  cKind     : Nat              -- C operand of the accumulation: 0 none, 1 XP160, 2 float
  bd        : Nat
  kEnd      : Nat
  kSum      : Nat
  ents      : List AccEnt
  deriving DecidableEq, Repr

/-- The empty accumulator set of R103: AUTO, alpha = 1.0, stream 0. -/
def AccSet.empty : AccSet :=
  ⟨false, 0, 0x3F800000, 0, false, false, 0, 0x3F800000, 0, 0, false, 0, false, 0, 0, 0, 0, []⟩

/-- A dispatch (R93). -/
structure Dispatch where
  seq   : Nat
  entry : Nat
  a1    : BitVec 64
  a2    : BitVec 64
  a3    : BitVec 64
  deriving DecidableEq, Repr

/-- What a tile in WAIT waits for (R96, R98, R108). -/
inductive TileWait
  | none
  | fence
  | halt
  | ctr (index value : Nat)
  deriving DecidableEq, Repr

/-- A DMA transfer (R106): source and destination rows, byte counts, class, channel, done counter. -/
structure DmaXfer where
  src    : Berth
  dst    : Berth
  copy2  : Bool
  n      : Nat
  tc     : Nat
  vc     : Nat
  done   : Option Nat
  deriving DecidableEq, Repr

/-- The transfer a DMA engine runs: the bytes read so far, remote requests still unanswered, and why it must stop. -/
structure DmaRun where
  xfer  : DmaXfer
  data  : List (Option Byte)   -- bytes read from the source, `none` where a remote read has not answered yet
  sent  : Nat                  -- pieces for which a remote request has gone out (R309)
  tags  : List Nat             -- tags of its remote requests without a response (R309)
  fail  : Option Nat           -- status code of R198/R311 that stops it, with the address below
  failAddr : Nat
  deriving DecidableEq, Repr

/-- One DMA engine of a tile (R106, R107, R171). -/
structure DmaEng where
  queue  : List DmaXfer
  run    : Option DmaRun
  halted : Bool
  deriving DecidableEq, Repr

/-- The idle DMA engine. -/
def DmaEng.idle : DmaEng := ⟨[], none, false⟩

/-- A physical tile (R48); STATE, LOGICAL, SEQ and the trap registers lie in its register window. -/
structure Tile where
  pc      : Nat
  g       : Vector (BitVec 64) 16
  b       : Vector Berth 64
  acc     : Vector AccSet 4
  held    : Option Dispatch
  wait    : TileWait
  collAbt : Bool               -- a collective the tile waits for aborted (R114)
  dma     : Vector DmaEng 2
  deriving DecidableEq, Repr

/-- A tile after reset: nothing dispatched. -/
def Tile.reset : Tile :=
  ⟨0, .replicate 16 0, .replicate 64 .null, .replicate 4 .empty, none, .none, false, .replicate 2 .idle⟩

/-- A root berth of the image (R121): its tile (0xFFFF for all) and index. -/
structure RootBerth where
  tile  : Nat
  index : Nat
  berth : Berth
  deriving DecidableEq, Repr

/-- The loaded program (R119, R120). -/
structure Prog where
  loaded    : Bool
  tiles     : Nat
  flags     : Nat
  trigCtrs  : Nat
  groups    : Nat
  rings     : Nat
  periodic  : Nat
  vcMask    : Nat
  roots     : List RootBerth
  consists  : Nat
  consistB  : List Byte
  code      : List Byte
  deriving DecidableEq, Repr

/-- No program. -/
def Prog.empty : Prog := ⟨false, 0, 0, 0, 0, 0, 0, 0, [], 0, [], []⟩

/-! ## Memory devices (chapter "Memory devices and stored-data protection") -/

/-- A running scrub (R175-R179); its summary lies in `SCRUB_SUM`. -/
structure Scrub where
  running : Bool
  stop    : Bool
  sram    : Bool
  base    : Nat
  len     : Nat
  next    : Nat
  mode    : Nat
  byCmd   : Bool               -- started by a ring command, not by GO
  ring    : Nat
  bgTest  : Bool               -- the background test of R184
  started : Nat                -- RTIME at the start
  deriving DecidableEq, Repr

/-- No scrub. -/
def Scrub.idle : Scrub := ⟨false, false, false, 0, 0, 0, 0, false, 0, false, 0⟩

/-- A memory device: its scrubber, the burst retries of each channel, the die-mark record and error log of its reserved area
(R156, R166), repaired units (R180), and the times of recent corrections of each die (R164). -/
structure Md where
  scrub    : Scrub
  burst    : Vector Nat 4
  recMark  : Nat               -- die-mark record: marked dies
  recAuto  : Nat               -- die-mark record: marks applied automatically
  log      : List (Nat × Nat)  -- error log: (unit, die) of attributed corrections
  repair   : List Nat          -- repair map: remapped units, in the order of the spares
  cetimes  : List (Nat × Nat)  -- (die, RTIME) of attributed corrections inside MARK_WINDOW
  spareBad : Nat               -- spare units that have failed the pattern test (R475)
  deriving DecidableEq, Repr

/-- A device after power-on. -/
def Md.reset : Md := ⟨.idle, .replicate 4 0, 0, 0, [], [], [], 0⟩

/-! ## The Dwente port (chapter "The Dwente port") -/

/-- An event for the control node (R201). -/
structure DwEvent where
  seq    : Nat
  source : Nat
  code   : Nat
  rtime  : Nat
  detail : List Byte
  deriving DecidableEq, Repr

/-- A flit the N8 sends, before its sequence number, acknowledgement and credits are filled in (R190). -/
structure OutFlit where
  type : Nat
  cls  : Nat
  last : Bool
  tag  : Nat
  len  : Nat
  body : List Byte
  ev   : Option DwEvent
  deriving DecidableEq, Repr

/-- One lane of the port: codeword runs (R189), transmit and receive sides of the retry (R193), credits (R194, R204),
bring-up (R208, R209). STATE, LOS, counters and transmit credits lie in its registers. -/
structure DwLane where
  badRun    : Nat
  txSeq     : Nat
  replay    : List (Nat × OutFlit)
  txq       : Vector (List OutFlit) 4
  rr        : Nat
  lastLink  : BitVec 512
  lastFlit  : BitVec 512
  rxExp     : Nat
  rxAny     : Bool
  awaitSeq  : Bool
  rxCred    : Vector Nat 4
  retCred   : Vector Nat 4
  resent    : List (Nat × Nat)       -- flits sent again and not acknowledged: FSEQ and how often (R193)
  downAt    : Nat
  ownInc    : Nat
  inits     : Option (Nat × Nat)
  partnerInc : Nat
  initRx    : Bool
  ackRx     : Bool
  askFresh  : Bool
  downCause : Nat
  reported  : Bool
  resendQ   : List (Nat × OutFlit)   -- flits due to go out again, with their FSEQ (R193)
  cwCount   : Nat                    -- count of the codeword being filled (R188)
  cwFlits   : List (BitVec 512)      -- its flits so far
  lastCw    : BitVec 5440            -- the last codeword sent
  deriving DecidableEq, Repr

/-- A lane after LINE reset. -/
def DwLane.reset : DwLane :=
  ⟨0, 0, [], .replicate 4 [], 1, 0, 0, 0, false, false, .replicate 4 0, .replicate 4 0, [], 0, 0, none, 0, false, false,
   true, 6, false, [], 0, [], 0⟩

/-- A control-lane message being received in one class (R192): its type, tag and body so far, how many flits it has, whether one of them
was discarded, and the type and tag of another message whose first flits were discarded meanwhile. -/
structure RxMsg where
  type  : Nat
  tag   : Nat
  body  : List Byte
  flits : Nat
  bad   : Bool
  broken : Option (Nat × Nat)
  deriving DecidableEq, Repr

/-- A write transfer on the stream lane (R203-R206). -/
structure SlWrite where
  xfer   : Nat
  next   : Nat                 -- index of the next block
  failed : Option (Nat × Nat)  -- first failing block and its status
  deriving DecidableEq, Repr

/-- A block of the stream lane that is being received or is waiting to be written. -/
structure SlBlock where
  addr  : Nat
  blen  : Nat
  last  : Bool
  xfer  : Nat
  block : Nat
  data  : List Byte
  deriving DecidableEq, Repr

/-- A read transfer on the stream lane (R205), or a window export (R239). -/
structure SlRead where
  addr   : Nat
  node   : Nat
  len    : Nat
  xfer   : Nat
  done   : Nat
  window : Option (Nat × Nat)  -- window and ring of a WINDOW_EXPORT
  snap   : List (Option Byte)  -- its bytes, all from one committed state; none where its memory was fenced (R439)
  deriving DecidableEq, Repr

/-- The Dwente port. -/
structure Dw where
  lanes   : Vector DwLane 2
  evq     : List DwEvent
  evSent  : List DwEvent       -- sent, not yet acknowledged
  evSeq   : Nat
  evDrop  : Nat                -- events dropped since the last event sent
  freshEv : List DwEvent       -- LINK_FRESH events that go out first
  writes  : List SlWrite
  rxBlock : Option SlBlock
  blocks  : List SlBlock
  reads   : List SlRead
  rxMsg   : Vector (Option RxMsg) 4   -- the message being received in each class (R192)
  deriving DecidableEq, Repr

/-- The port after LINE reset. -/
def Dw.reset : Dw := ⟨.replicate 2 .reset, [], [], 0, 0, [], [], none, [], [], .replicate 4 none⟩

/-- Commit metadata of a 4 KiB unit (R227). -/
structure UnitMeta where
  reg    : Bool
  region : Nat
  sel    : Bool
  tag    : Nat
  deriving DecidableEq, Repr

/-- The metadata of a unit outside every registered region. -/
def UnitMeta.none : UnitMeta := ⟨false, 0, false, 0⟩

/-- Domains after power-on. -/
def Dom.reset : Dom := ⟨true, true, true, false, 0, 0, 0, 0, 0xFFFFFFFF, 0, false, false, false⟩

/-- A registered commit region (R226): package physical addresses of its base and shadow, and its length. -/
structure Region where
  base   : Nat
  shadow : Nat
  len    : Nat
  deriving DecidableEq, Repr

/-! ## Wayside engines (chapter "Wayside engines: compute beside the memory") -/

/-- A running descriptor: its 32 words, and the code and address of the error that stops it, if one did (R150). -/
structure WeRun where
  desc : List Nat
  err  : Option (Nat × Nat)
  deriving DecidableEq, Repr

/-- A listed commit action (R144, R146). -/
structure WeAct where
  desc : List Nat
  done : Bool
  deriving DecidableEq, Repr

/-- A wayside engine: queued descriptors, the running one, the commit action list, the committed epoch whose apply is owed or in
progress, whether that apply was stopped by an error (R149), and whether an error halted the engine (R150). SEQ, STATE and counts lie in its registers. -/
structure We where
  queue : List (List Nat)
  run   : Option WeRun
  acts  : List WeAct
  owed  : Option Nat
  stuck : Bool
  halted : Bool
  deriving DecidableEq, Repr

/-- An engine after power-on. -/
def We.reset : We := ⟨[], none, [], none, false, false⟩


/-! ## Command rings, jobs and epochs (chapter "Command rings, the timetable and epochs") -/

/-- What a running command still waits for (R216). -/
inductive CmdWait
  | done (status detail event : Nat)        -- nothing: it completes with this status, DETAIL, and DETAIL of its event
  | tiles (l : List (Nat × Nat))            -- every named tile IDLE or TRAPPED: physical tile and dispatch number
  | engine (n descSeq : Nat) (desc : List Nat)   -- a wayside descriptor
  | jobEmpty                                -- JOB_END: every job ring empty
  | jobAbort                                -- JOB_END: the abort of the open epoch
  | epochEnd                                -- EPOCH_END: the epoch's commands
  | noTile                                  -- UNLOAD: no tile runs
  | scrub (n : Nat)                         -- SCRUB
  | windowOut (xfer c : Nat)                -- WINDOW_EXPORT: its transfer, and C of the state it shows
  | ring (r index : Nat)                    -- WAIT_RING
  deriving DecidableEq, Repr

/-- The command a ring runs: its entry index, its eight words, the epoch it belongs to. -/
structure RingRun where
  idx     : Nat
  words   : List Nat
  wait    : CmdWait
  epoch   : Nat                    -- the epoch it belongs to under R217, 0 none
  closed  : Bool                   -- that attempt has ended in an abort since
  deriving DecidableEq, Repr

/-- A batch a periodic ring fetched at a release (R222): the period's number, entries not yet started, and when its work began. -/
structure Batch where
  k       : Nat
  entries : List (Nat × List Nat)
  began   : Nat
  deriving DecidableEq, Repr

/-- A command ring; indices, configuration and state lie in its registers. -/
structure Ring where
  run     : Option RingRun
  cur     : Option Batch
  queued  : List Batch
  nextK   : Nat
  lag     : Nat                    -- L of R223 in nanoseconds
  deriving DecidableEq, Repr

/-- A ring after reset. -/
def Ring.reset : Ring := ⟨none, none, [], 0, 0⟩

/-- The runtime controllers beyond their registers: heartbeat paths found silent and paths reported as HB_PATH (bit 2x for the word
of controller x, bit 2x + 1 for its wire), controllers found lost, and a STANDBY_FAULT condition that is raised (R266, R267); the copy
of the controller record each keeps (R265), with the command of each ring as it was started; and a failover whose fence is not complete
yet: its cause, and how many commands it sent again and messages it acknowledged (R268, R272). -/
structure Rc where
  silent  : Nat
  raised  : Nat
  lost    : Nat
  sbFault : Option (Nat × Nat)
  recs    : Vector (Vector (Option RingRun) 64) 2
  taking  : Option (Nat × Nat × Nat)
  deriving DecidableEq, Repr

/-- Controllers after WORKS reset. -/
def Rc.reset : Rc := ⟨0, 0, 0, none, .replicate 2 (.replicate 64 none), none⟩

/-- The job of the job record (R220, R221). -/
structure Job where
  active   : Bool
  id       : Nat
  members  : Nat
  rank     : Nat
  seed     : BitVec 64
  mainR    : List (Nat × Nat)
  wsR      : List (Nat × Nat)
  nRegions : Nat
  nWindows : Nat
  dest     : List Nat
  groups   : List (Nat × Nat)          -- SLOTS and DIES of every multicast group (R330)
  digest   : BitVec 64
  deriving DecidableEq, Repr

/-- No job. -/
def Job.none : Job := ⟨false, 0, 0, 0, 0, [], [], 0, 0, [], [], 0⟩

/-- A result window (R238). -/
structure Window where
  region : Nat
  off    : Nat
  len    : Nat
  target : Nat
  deriving DecidableEq, Repr

/-- A decision of the coordinator (R232). -/
structure Decision where
  epoch   : Nat
  attempt : Nat
  commit  : Bool
  cause   : Nat
  rank    : Nat
  deriving DecidableEq, Repr

/-- A barrier message (R231); `src` is the destination ID of the package that sent it. -/
structure BarMsg where
  type    : Nat
  rank    : Nat
  jobId   : Nat
  epoch   : Nat
  attempt : Nat
  cause   : Nat
  digest  : BitVec 64
  src     : Nat
  deriving DecidableEq, Repr

/-- The interlock's mirror of participation (R234). -/
structure Mirror where
  active  : Bool
  jobId   : Nat
  digest  : BitVec 64
  epoch   : Nat
  attempt : Nat
  coord   : Nat
  voted   : Bool
  deriving DecidableEq, Repr

/-- Nothing mirrored. -/
def Mirror.none : Mirror := ⟨false, 0, 0, 0, 0, 0, false⟩

/-- The epoch state beyond its registers. -/
structure Epoch where
  firstFail : Nat               -- first failing status of the open epoch's commands, 0 if none (R230)
  cause     : Nat               -- cause and rank of the abort in progress (R235)
  causeRank : Nat
  jobEnd    : Bool              -- the abort in progress is JOB_END's
  decided   : List Decision     -- decision record: the coordinator's decisions, newest first (R232)
  applied   : List Decision     -- decisions this member has applied, newest first (R233)
  doneMask  : List Nat          -- ranks whose DONE vote the coordinator holds
  anyVote   : Bool              -- a vote of the open attempt arrived; the vote timer runs
  unacked   : List (Nat × Decision × Nat)   -- ranks whose ACK is outstanding, and when the resending ends
  drained   : Bool              -- ABORT_DRAIN passed in the abort in progress
  votesLost : Bool              -- coordinator: the votes held were lost in a reset (R236)
  deriving DecidableEq, Repr

/-- No epoch. -/
def Epoch.none : Epoch := ⟨0, 0, 0, false, [], [], [], false, [], false, false⟩

/-! ## Ports and the router (chapters "Fabric and coupling links" and "Routing, flow control and the express bound") -/

/-- A frame the N8 sends: IDLE, 624 bytes of the packet stream, or a control message by subtype and bytes 17 upward (R280, R286). -/
inductive OutFrame
  | idle
  | data (l : List Byte)
  | ctrl (sub : Nat) (body : List Byte)
  deriving DecidableEq, Repr

/-- A packet in an output queue, as it was before it was queued (R318), whether the N8 forwards it for another package, and whether it
arrived on a fabric port (R313). -/
structure QPkt where
  pkt : Pkt
  fwd : Bool
  fab : Bool
  deriving DecidableEq, Repr

/-- What a port has counted for the current congestion map (R324), per class. -/
structure PortPeriod where
  sent   : Vector Nat 4
  recvd  : Vector Nat 4
  waited : Vector Nat 4            -- nanoseconds the head packet waited for credits
  since  : Vector (Option Nat) 4   -- when the present wait began
  most   : Vector Nat 4            -- largest bytes queued
  resent : Nat
  deriving DecidableEq, Repr

/-- Nothing counted. -/
def PortPeriod.zero : PortPeriod :=
  ⟨.replicate 4 0, .replicate 4 0, .replicate 4 0, .replicate 4 none, .replicate 4 0, 0⟩

/-- One port, FP0-FP15 then CP0-CP1; its state, width, partner and counters lie in its registers. -/
structure Port where
  mine     : Nat                    -- lanes whose receiver is ready (R284)
  theirs   : Nat                    -- lanes the partner marks ready
  taps     : Vector Int 16          -- transmit taps, four to a lane: c(-2), c(-1), c(0), c(+1)
  rsp      : Vector Nat 4           -- RSP of the next marker sent on each lane
  txSeq    : Nat
  replay   : List (Nat × OutFrame)
  rxExp    : Nat
  rxAny    : Bool
  awaitSeq : Bool
  resent   : List (Nat × Nat)       -- frames sent again and not acknowledged: FSEQ and how often (R281)
  judged   : Option Nat             -- the judgement of R287 in IDENT: 0 UP, else the MAINT cause
  ackRx    : Bool
  change   : Option (Nat × Nat)     -- lane mask and codeword count of a width step (R290)
  losses   : List (Nat × Nat)       -- (lane, RTIME) of the lane losses of the past hour (R291)
  cred     : Vector Nat 8           -- send credits of virtual channel 2t + v (R316)
  ret      : Vector Nat 8           -- credits to return
  outq     : Vector (List QPkt) 8
  held     : List Pkt               -- TC0 packets at the token bucket (R326)
  bucket   : Nat                    -- sixteenths of a byte in the bucket
  filledAt : Nat
  deficit  : Vector Nat 3           -- deficits of TC1-TC3 (R318)
  turn     : Nat                    -- class whose turn it is
  vcTurn   : Vector Nat 4
  rxq      : List Pkt               -- packets received and not yet taken
  reported : Option Nat             -- cause with which PORT_DOWN is raised at the interlock
  period   : PortPeriod
  stream   : List Byte              -- bytes of the packet stream that wait for a frame (R307)
  resendQ  : List (Nat × OutFrame)  -- frames due to go out again (R281)
  cwCount  : Nat                    -- codeword count of the next codeword sent (R279)
  spread   : Nat                    -- lane mask over which the codewords are spread: the one in service before a width step ends (R279, R290)
  barred   : Nat                    -- LANE_DISABLE as the last TRAIN took it (R303)
  lastCw   : BitVec 5440            -- the last codeword sent, and its lane
  lastLane : Nat
  badRun   : Vector Nat 4           -- bad codewords in a row on each lane (R279)
  badAt    : List (Nat × Nat)       -- (lane, RTIME) of codewords that failed to decode within the past millisecond (R290)
  dropped  : Nat                    -- lanes that left service and have not passed a retrain since (R291)
  markers  : Vector (BitVec 64) 4   -- the last training marker sent on each lane (R284)
  answers  : Vector Nat 4           -- RSP of the partner's last marker of each lane
  deriving DecidableEq, Repr

/-- A port after LINE reset. -/
def Port.reset : Port :=
  { mine := 0, theirs := 0, taps := .replicate 16 0, rsp := .replicate 4 0, txSeq := 0, replay := [], rxExp := 0,
    rxAny := false, awaitSeq := false, resent := [], judged := none, ackRx := false, change := none, losses := [],
    cred := .replicate 8 0, ret := .replicate 8 0, outq := .replicate 8 [], held := [], bucket := 0, filledAt := 0,
    deficit := .replicate 3 0, turn := 0, vcTurn := .replicate 4 0, rxq := [], reported := none, period := .zero,
    stream := [], resendQ := [], cwCount := 0, spread := 0, barred := 0, lastCw := 0, lastLane := 0, badRun := .replicate 4 0, badAt := [], dropped := 0,
    markers := .replicate 4 0, answers := .replicate 4 0 }

/-- A request of this package without a response yet (R309, R311): its packet, the DMA engine that waits, the place of its bytes in
the transfer, and whether it was sent again under R319. -/
structure Req where
  tag   : Nat
  pkt   : Pkt
  tile  : Nat
  eng   : Nat
  off   : Nat
  len   : Nat
  again : Bool
  deriving DecidableEq, Repr

/-- The router. -/
structure Router where
  reqs    : List Req
  nextTag : Nat
  looped  : List Pkt                -- packets of this package for itself (R42)
  unreach : Nat                     -- of the current map period
  failRx  : Nat
  mcgOld  : List (Nat × Nat × Nat)  -- group masks being rewritten: group, half written, mask still in force (R323)
  deriving DecidableEq, Repr

/-- The router after LINE reset. -/
def Router.reset : Router := ⟨[], 0, [], 0, 0, []⟩

/-- The rack clock (R296-R299): the load armed by a write and when it was written, whether a load from the signal box's copy is
armed, that copy and whether it is valid, whether REFCLK is there, and the nanoseconds that REFCLK has counted since power-on, which
no load and no reset of LINE or SIGNAL moves: intervals are measured by them (the model's own, log 194). -/
structure Clock where
  armed     : Option (Nat × Nat)
  fromCopy  : Bool
  copy      : Nat
  copyValid : Bool
  present   : Bool
  run       : Nat
  deriving DecidableEq, Repr

/-- The clock after power-on. -/
def Clock.reset : Clock := ⟨none, false, 0, false, true, 0⟩

/-! ## Collectives (chapter "Collectives and marshalling") -/

/-- A consist after its checks (R109). -/
structure Consist where
  digest  : BitVec 64
  coll    : Nat
  redop   : Nat
  wire    : Nat
  elem    : Nat
  count   : Nat
  group   : Nat
  gsize   : Nat
  kib     : Nat
  arith   : Nat
  seq     : Nat
  rank    : Nat
  trigIn  : Nat
  trigOut : Nat
  srcB    : Nat
  dstB    : Nat
  trigEn  : Bool
  deriving DecidableEq, Repr

/-- Where a launched collective stands. -/
inductive CollState
  | queued | started | done | dead
  deriving DecidableEq, Repr

/-- A chunk a member has formed or forwards, until its receiver acknowledges it (R346, R347). -/
structure OutChunk where
  dest   : Nat
  chunk  : Nat
  data   : List Byte
  crc    : BitVec 32
  sent   : Bool
  sentAt : Nat
  fails  : Nat
  busy   : Bool
  deriving DecidableEq, Repr

/-- A chunk that is arriving, or has arrived whole and waits to be consumed (R344, R346). -/
structure InChunk where
  src   : Nat
  chunk : Nat
  crc   : BitVec 32
  parts : List (Nat × List Byte)
  whole : Bool
  deriving DecidableEq, Repr

/-- A launched collective at this member (R339-R358); the interlock's mirror of R357 is read from it. `refused` holds the sends of
chunks that found no room: sender, chunk, and the packets of that send seen so far (R346). -/
structure Coll where
  cst     : Consist
  tile    : Nat
  fused   : Nat                       -- 0 COLL.START, 1 MMA.RS, 2 MMA.AG, 3 MMA.A2A
  snap    : Option (Tile × Nat)       -- MMA.AG: the tile and the word at issue
  rowW    : Nat                       -- row width of the source sequence
  src     : Berth
  dst     : Berth
  mem     : List (Nat × Nat × Nat)    -- members by rank: package index, destination ID, die
  epoch   : Nat
  attempt : Nat
  state   : CollState
  startAt : Nat
  readyAt : Nat                       -- when READY was last multicast (R344)
  ready   : List (Nat × Nat)          -- rank and start time of every READY held
  slowest : Nat
  skewed  : Bool                      -- skew computed (R354)
  x       : List Nat                  -- own source sequence, in the wire format
  inb     : Tab (List (Option Byte))  -- bytes consumed of each sequence
  outb    : Tab (List (Option Byte))  -- bytes formed of each sequence
  formed  : List Nat                  -- chunk numbers formed or forwarded
  out     : List OutChunk
  arr     : List InChunk
  refused : List (Nat × Nat × List Nat)
  taken   : List (Nat × Nat × Nat)    -- chunks consumed: sender, chunk, when its ACK went out last
  left    : Nat                       -- elements of DST still to write
  fill    : Nat                       -- elements DST receives
  lastAt  : Nat                       -- last packet sent or received
  waitAt  : Nat                       -- when the present wait began
  coast   : Bool
  lost    : Bool                      -- complete here, with a chunk lost on its way to another member (R347, R351)
  deriving DecidableEq, Repr

/-- An ABORT recorded for a collective not yet launched (R349). -/
structure AbortRec where
  group   : Nat
  seq     : Nat
  epoch   : Nat
  attempt : Nat
  cause   : Nat
  rank    : Nat
  deriving DecidableEq, Repr

/-- A marshalling engine: its collectives in launch order, the last COLL_SEQ launched in the open attempt, recorded ABORTs, and
messages delivered to it and not yet taken. -/
structure Me where
  colls   : List Coll
  lastSeq : Option Nat
  aborts  : List AbortRec
  inbox   : List Pkt
  deriving DecidableEq, Repr

/-- An engine after reset. -/
def Me.reset : Me := ⟨[], none, [], []⟩

/-! ## The governor and thermal control (chapters "Power input, the governor and load smoothing" and "Thermal control and the
cooling interface") -/

/-- A held power hint (R379): its kind, RTIME of its start, its end and its pre-ramp, and Ph in hundredths of a watt (`none` until
`START`, where the hint gave no power). -/
structure Hint where
  kind   : Nat
  start  : Nat
  ends   : Nat
  ramp   : Nat
  ph     : Option Nat
  deriving DecidableEq, Repr

/-- The governor beyond its registers. Powers are in hundredths of a watt: `SLEW` is then the change allowed in one tick of 10 µs. -/
structure Gov where
  t        : Nat                  -- T of R383
  held     : Bool
  fresh    : Bool                 -- the present buffer stop began in this tick (R408)
  started  : Bool                 -- the start event after power-on has passed (R378)
  stagger  : Nat                  -- RTIME at which the stagger hold ends
  bsAt     : Nat                  -- t0 of R381, in ns since power-on; 0 none
  cause    : Nat                  -- cause of the last entry to buffer stop, in the always-on partition
  ePeak    : Nat                  -- effective values that fall at SLEW (R374, R375, R377)
  eAvg     : Nat
  eOper    : Nat
  eOrphan  : Nat
  eFloor   : Nat
  orphan   : Nat                  -- value of the orphan cap in W, 0xFFFF not in force (R492)
  hardWas  : Nat                  -- hard cap of the last tick
  ticks    : List Nat             -- means of the last ticks in W, newest first, for PEAK_WIN
  means    : List Nat             -- 1 ms means in hundredths of a watt, newest first, for AVG_WIN
  msPrev   : Option (Nat × Nat)   -- the last full 1 ms interval and its M (R376)
  msIdx    : Nat                  -- the present 1 ms interval, its sum, its ticks, and what happened in it (R376, R377)
  msSum    : Nat
  msN      : Nat
  msBs     : Bool
  msHard   : Bool
  msBlade  : Bool
  msShort  : Bool
  msFloor  : Bool                 -- the floor applied, was reached and stood under every cap throughout
  hints    : List Hint
  alerts   : List Nat             -- rows of R366 for which the power module pulls PWR_ALERT_N
  alertExt : Bool                 -- the tray pulls PWR_ALERT_N
  lost     : Nat                  -- blades lost: bit 0 A, bit 1 B
  energy   : Nat                  -- 10 µJ units under ENERGY_MJ
  energyJ  : Nat                  -- 10 µJ units since SIGNAL reset
  bindAt   : List (Nat × Nat)     -- RTIME of the last PWR_BIND of each code, of PWR_SLEW_MISS (code 0x10) and PWR_FLOOR_MISS (0x11)
  modJob   : Bool                 -- a job was active when LINE entered reset (R386)
  modBal   : Nat                  -- module ballast load meanwhile
  offSet   : Nat                  -- core setpoint in mV that the power module holds meanwhile, 0 otherwise
  integ    : Int                  -- integral of target less measured power, tick by tick (R384)
  share    : Vector Nat 4         -- share of each throttled die (R384)
  deriving DecidableEq, Repr

/-- The governor at power-on: the limits are the entries' defaults (R386, R390). -/
def Gov.reset : Gov :=
  { t := 0, held := false, fresh := false, started := false, stagger := 0, bsAt := 0, cause := 0, ePeak := 130000, eAvg := 110000,
    eOper := 140000, eOrphan := 6553500, eFloor := 0, orphan := 0xFFFF, hardWas := 140000, ticks := [], means := [], msPrev := none, msIdx := 0,
    msSum := 0, msN := 0, msBs := false, msHard := false, msBlade := false, msShort := false, msFloor := true,
    hints := [], alerts := [], alertExt := false, lost := 0, energy := 0, energyJ := 0, bindAt := [], modJob := false,
    modBal := 0, offSet := 0, integ := 0, share := .replicate 4 0 }

/-- Thermal control beyond its registers. Temperatures are in 1/64 K above 0 °C (R391). -/
structure Therm where
  temp     : Vector Int 197       -- last reading of each sensor
  fault    : Vector Bool 197      -- open or shorted
  sampled  : Bool                 -- a sample has been taken since LINE reset
  rth      : Vector Rat 12        -- R_x in K/W (R393)
  flow     : Rat                  -- F in L/min (R396)
  inletAt  : Option Nat           -- when TRAY_INLET was last written, by `Clock.run`
  hot      : Nat                  -- regions above their limit of R394
  causes   : Nat                  -- active causes of thermal force: bit c for cause c (R408)
  capOk    : Nat                  -- updates in which THERM_CAP has been at least 350 W (R395)
  coolFor  : Nat                  -- samples for which every sensor has been below the release of R405
  soft     : Nat                  -- sensor that began the soft trip
  lowFor   : Nat                  -- updates for which R has been past its threshold (R397)
  flowFor  : Nat                  -- updates for which F has been past its threshold (R397)
  wellFor  : Nat                  -- updates for which both have been 10 % inside
  meds     : List (List Int)      -- medians of the last ten evaluations, newest first (R398)
  runs     : Vector Nat 4         -- consecutive evaluations above 5 K/s
  calmFor  : Nat                  -- evaluations for which no die exceeds 5 K/s
  stopDie  : Nat                  -- die that began the flow stop
  ruleFor  : Vector (List (Nat × Nat)) 10   -- of each guard: checks for which a rule row of R403 has held
  crossFor : Nat                  -- checks for which CT_OUT has read more than 1 K below CT_IN (row 5 of R403)
  past     : List (Nat × List Int)          -- P and the guards' readings at the checks of the last 2 s, newest first
  trips    : List (Nat × Int)     -- guards whose comparator tripped, with the reading
  deriving DecidableEq, Repr

/-- Thermal control at power-on: every R_x is RTH_INIT, 0.04 K/W (R393). -/
def Therm.reset : Therm :=
  { temp := .replicate 197 0, fault := .replicate 197 false, sampled := false, rth := .replicate 12 (4000 / 100000), flow := 0,
    inletAt := none, hot := 0, causes := 0, capOk := 0, coolFor := 0, soft := 0, lowFor := 0, flowFor := 0, wellFor := 0, meds := [],
    runs := .replicate 4 0, calmFor := 0, stopDie := 0, ruleFor := .replicate 10 [], crossFor := 0, past := [], trips := [] }


/-! ## The interlock and the manager (chapters "Fault collection: the interlock" and "Hangs, fencing, reset and recovery") -/

/-- An active condition in the table of R426: source, kind, and the class that its `CLEAR` will carry. -/
structure Cond where
  source : Nat
  kind   : Nat
  cls    : Nat
  deriving DecidableEq, Repr

/-- The interlock beyond its registers. -/
structure Il where
  conds   : List Cond
  sent    : List (Nat × Nat × Nat)   -- source, kind and time (`Clock.run`) of the last IL_FAULT of each
  exits   : List Nat                 -- RTIME of the automatic exits of the last hour
  pulse   : Bool                     -- the 20 µs after an assertion of FAULT_N are not over
  quietAt : Nat                      -- when the quiet timer started, by `Clock.run`
  expired : Bool                     -- the quiet timer has reached its period
  flash   : List (List Byte)         -- CRITICAL entries kept in signal-box flash, oldest first (R427)
  waiting : List (List Byte)         -- CRITICAL entries that wait while SIGNAL is in reset
  readAt  : Option (Nat × Nat × Bool × Nat)   -- the bucket read last: source, level and FULL before, and when, by `Clock.run` (R421)
  deriving DecidableEq, Repr

/-- The interlock at power-on. -/
def Il.reset : Il := ⟨[], [], [], false, 0, false, [], [], none⟩

/-- A tile sample taken at a cut and not yet written (R442, R443): the tile, and bytes 4 to 2311 of its record with `UE_BYTES` 0. -/
structure Sample where
  tile  : Nat
  bytes : List Byte
  deriving DecidableEq, Repr

/-- Where a fence stands (R437, R440): draining, drained, in its unit reset, ended without a lift, in the unit reset of a lift. -/
inductive FencePhase
  | drain | drained | unitReset | stays | lifting
  deriving DecidableEq, Repr

/-- A fence (R436-R441). -/
structure Fence where
  target  : Nat
  level   : Nat
  cause   : Nat
  lseq    : Nat
  hold    : Bool
  phase   : FencePhase
  drainTo : Bool
  urFail  : Bool
  recSeq  : Nat
  samples : List Sample
  deriving DecidableEq, Repr

/-- The reset and hang manager beyond its registers. -/
structure Mgr where
  fences  : List Fence
  acts    : List (Nat × Nat × Nat)   -- actions taken: target (0xFFFF the package), level, RTIME (R447)
  auto    : List Nat                 -- RTIME of the actions at level 3 and above that the manager took by itself (R448)
  hangs   : List Nat                 -- RTIME of the SIGNAL resets for a hang (R435)
  held    : List Nat                 -- tiles held FENCED under R463
  cycTarget : Nat                    -- target of the power-cycle request (R449, R494)
  deriving DecidableEq, Repr

/-- The manager at power-on. -/
def Mgr.reset : Mgr := ⟨[], [], [], [], [], 0⟩

/-! ## Bring-up (chapter "Bring-up, yield repair and licences") -/

/-- The run of R456-R458. `outcome`: 0 running, 1 passed, 2 stopped, 3 held. -/
structure Boot where
  stage   : Nat
  outcome : Nat
  cause   : Nat
  kind    : Nat                      -- RUN_KIND of R459
  gen     : Nat                      -- RESET_GEN when the run started
  s6      : Bool                     -- S6 had passed when the run began: S5 leads to S7 (R458)
  notice  : Nat                      -- KIND of the reset whose exit is not yet over, 0 none (R450)
  picked  : Bool                     -- the active controller of this run is chosen (R271)
  good    : List Nat                 -- tiles that the full test found good (R462)
  drift   : Nat                      -- tiles with FUSE_DRIFT among them
  fuseDie : Vector Nat 8             -- DRAM dies that the fuses mark, by device (R461)
  vendor  : Nat                      -- MIPI manufacturer ID of the fuses (R495)
  trained : Bool                     -- the UCIe links have trained since LINE left reset (R294)
  tested  : Bool                     -- S4 of this run holds its test results: it resumes at the geometry step (R457)
  unitsOk : Bool                     -- marshalling engines, memory controllers and wayside engines passed their self-tests
  topoOn  : Bool                     -- TOPO_DIGEST has been computed (R468)
  accepted : Option Nat              -- digest that the fabric manager has accepted (R468)
  licNext : Option (List Byte)       -- licence accepted and not yet in force (R472)
  bgAt    : Nat                      -- start of the background test (R475), by `Clock.run`
  bgStop  : Bool                     -- the background test is to stop
  fatal   : Nat                      -- cause of a stop that only a power-on reset ends, or nothing does, 0 none (R457)
  mapped  : Bool                     -- the tile test of this full run has filled BOOT_DRIFT (R462, R478)
  deriving DecidableEq, Repr

/-- A full run at its start. -/
def Boot.reset : Boot :=
  ⟨0, 0, 0, 0, 0, false, 0, false, [], 0, .replicate 8 0, 0, false, false, true, false, none, none, 0, false, 0, false⟩

/-! ## The signal box (chapter "The signal box, field port and object dictionary") -/

/-- A notice for the tray controller (R494): REQ_ID, kind, RTIME, bytes 12 upward of its value, and whether it is acknowledged and only
holds its entry. -/
structure Notice where
  reqId  : Nat
  kind   : Nat
  rtime  : Nat
  detail : List Byte
  acked  : Bool
  deriving DecidableEq, Repr


/-- An installed grant (R487, R511). -/
structure Grant where
  owner  : Bool
  path   : Nat                      -- 0 field port, 1 control lane
  expiry : Nat
  seq    : Nat
  deriving DecidableEq, Repr

/-- What the signal box sends on the field port: a UDP payload to an address (R483), an ICMPv6 Echo Reply, a Neighbor Advertisement of its
own address, or the Neighbor Solicitation of duplicate address detection for it (R482). -/
inductive FieldOut
  | udp (dst : Nat) (payload : List Byte)
  | echoReply (dst ident seq : Nat) (data : List Byte)
  | advertisement (dst target : Nat)
  | solicit (target : Nat)
  deriving DecidableEq, Repr

/-- A request that waits in the queue of its path (R485): the message, the bytes of the whole request, what it meets, and whether a fresh
start of the lane leaves it without an answer (R209). -/
structure OdWait where
  msg  : OdMsg
  body : List Byte
  env  : OdEnv
  mute : Bool
  deriving DecidableEq, Repr

/-- The signal box beyond its registers: kept responses, staged values and waiting requests by path (0 field port, 1 control lane), grants
of slots 1 to 15, the session, and what it has sent on the field port. -/
structure Sb where
  kept    : Vector (List (Nat × List Byte)) 2
  waiting : Vector (List OdWait) 2  -- oldest first (R485)
  turn    : Nat                     -- path served next where both wait (R485)
  seen    : Tab (Option (List Byte)) -- last value served of a STRING or DOMAIN entry, by key * 2 + path (R489)
  dad     : Option Nat              -- when the solicitation for the own address went out, by `Clock.run` (R482)
  dup     : Bool                    -- the own address is another's too (R482)
  staged  : Vector (Option (Nat × List Byte)) 2
  grants  : Vector (Option Grant) 15
  session : Nat
  orphan  : Nat                     -- 0 attached, 1 orphaned, 2 reattached (R492, R493)
  hello   : Bool
  up      : Bool                    -- OD_UP
  upAt    : Nat                     -- when SIGNAL left reset, by `Clock.run`
  cause   : Nat                     -- cause of the SIGNAL reset in progress (R503)
  before  : Nat                     -- SB_UPTIME_S before it
  noImage : Bool                    -- no SIGNAL slot passed its check: SIGNAL stays in reset (R507)
  tray    : Nat                     -- the tray controller's IPv6 address (R491)
  out     : List FieldOut           -- what it has sent on the field port, oldest first (an output)
  deriving DecidableEq, Repr

/-- The signal box at power-on. -/
def Sb.reset : Sb :=
  { kept := .replicate 2 [], waiting := .replicate 2 [], turn := 0, seen := [], dad := none, dup := false, staged := .replicate 2 none,
    grants := .replicate 15 none, session := 0, orphan := 0, hello := false, up := false, upAt := 0, cause := 2, before := 0,
    noImage := false, tray := 0, out := [] }

/-- The I3C target (R495-R497). -/
structure I3c where
  dyn     : Option Nat              -- dynamic address
  ibiEn   : Bool
  ibi     : Option Nat              -- data byte of the last IBI raised
  raised  : Nat                     -- IBIs raised since power-on (an output)
  ptr     : Nat
  mirror  : List Byte
  refresh : Nat
  wasFlags : Nat                    -- FLAGS at the last check for an IBI
  out     : List Byte               -- bytes of the last read or CCC answer (an output)
  deriving DecidableEq, Repr

/-- The target when VAON is up. -/
def I3c.reset : I3c := ⟨none, false, none, 0, 0, List.replicate 64 0, 0, 0, []⟩

/-! ## Firmware (chapter "Identity, attestation and firmware update") -/

/-- An image slot (R512): its state, the header's 4,096 bytes (none for the image shipped in it), the fields of R514 that the rules
use, and the chunks committed to flash. -/
structure FwSlot where
  state  : Nat
  header : List Byte
  version : Nat
  svn    : Nat
  arith  : Nat
  link   : Nat
  recV   : Nat
  recMin : Nat
  chunks : Nat
  raise  : Bool
  data   : Tab (List Byte)
  deriving DecidableEq, Repr

/-- A slot with no image. -/
def FwSlot.empty : FwSlot := ⟨0, [], 0, 0, 0, 0, 0, 0, 0, false, []⟩

/-- A slot as shipped, GOOD: versions DESIGN CHOICE (log entry 156). -/
def FwSlot.shipped : FwSlot := ⟨5, [], 1, 0, 1, 1, 1, 1, 0, false, []⟩

/-- A handover of R520 before its cut-over: the controller with the new image, and where it stands: 0 self-test, 1 syncing. -/
structure Handover where
  rc    : Nat
  phase : Nat
  deriving DecidableEq, Repr

/-- Firmware slots and trials. Targets: 0 SIGNAL, 1 RUNTIME, 2 LINE; slot index 2 * target + (0 A, 1 B). -/
structure Fw where
  slots  : Vector FwSlot 6
  run    : Vector Nat 3             -- slot in force of each target
  rcImg  : Vector Nat 2             -- slot whose image each controller runs
  minSvn : Vector Nat 3
  tried  : Bool                     -- boot-attempt flag of the SIGNAL trial (R525)
  hand   : Option Handover
  cut    : Vector Nat 3             -- when each trial's cut-over was, by `Clock.run`
  spoilt : Nat                      -- bit t: an event of R521 since the cut-over forbids confirmation of target t
  flashed : Bool                    -- a persistent commit has completed since the SIGNAL cut-over
  lineStage : Nat                   -- stage passed last before the reset of a LINE trial, 7 with S7
  lineAgain : Bool                  -- a package reset has stopped LINE: its image is chosen anew at LINE reset exit (R507, R519)
  recV   : Nat                      -- format in which the controller record is written (R514, R520)
  meas   : Vector (List Byte) 3     -- measurement of the image that each target runs, none before it starts (R508)
  reports : Vector (List Byte) 2    -- attestation report of each path (R509)
  reportSeq : Nat
  deriving DecidableEq, Repr

/-- Firmware at power-on of a package as shipped: both slots of a target GOOD, A in force. -/
def Fw.reset : Fw :=
  { slots := .replicate 6 .shipped, run := .replicate 3 0, rcImg := .replicate 2 0, minSvn := .replicate 3 0, tried := false,
    hand := none, cut := .replicate 3 0, spoilt := 0, flashed := false, lineStage := 0, lineAgain := false, recV := 1,
    meas := .replicate 3 [],
    reports := .replicate 2 [], reportSeq := 0 }

/-! ## The state -/

/-- The state of the package. -/
structure State where
  /-- commands that are waiting, first in, first out (the model's queue) -/
  pending : List Instr
  /-- number of free values drawn so far (the model's own field; see Config) -/
  freeCtr : Nat
  /-- tenths of a nanosecond held under RTIME (R296) -/
  rfrac : Nat
  /-- the registers of the control space that differ from their reset values (R37, see RegMap) -/
  csr : Tab Word
  /-- numeric dictionary entries that differ from their defaults (R501 and the tables of every chapter, see DictMap) -/
  dict : Tab Nat
  /-- generation of each dictionary entry, GEN of R489 -/
  gens : Tab Nat
  /-- bytes of main memory, scratchpads and wayside SRAM (R35), and of the spare units of the reserved areas (R156), that differ from what
  an unlisted one reads -/
  mem : List Host.Cell
  /-- stored codewords that differ from the codeword of their byte, as an exclusive-or (R160) -/
  flips : Tab (BitVec 13)
  /-- full latch of each error bucket: MD0-MD7, then CD0-CD3 (R170, R431) -/
  ceFull : Vector Bool 12
  /-- commit metadata of the 4 KiB units (R227), by package physical address / 4096 -/
  umeta : Tab UnitMeta
  /-- reset domains (R30-R34) -/
  dom : Dom
  /-- fault messages held at each source (R416), oldest first -/
  msgs : Tab (List FaultMsg)
  /-- physical tiles P0-P191 (R48) -/
  tiles : Vector Tile 192
  /-- the loaded program (R119) -/
  prog : Prog
  /-- wayside engines WE0-WE7 (R125-R154) -/
  we : Vector We 8
  /-- memory devices MD0-MD7 (R155) -/
  md : Vector Md 8
  /-- the Dwente port (R186-R212) -/
  dw : Dw
  /-- registered commit regions (R226) -/
  regions : Vector (Option Region) 64
  /-- command rings (R213) -/
  rings : Vector Ring 64
  /-- next ring of the round robin of each class (R219) -/
  rrNext : Vector Nat 4
  /-- the job of the job record (R221) -/
  job : Job
  /-- result windows (R238) -/
  windows : Tab (Option Window)
  /-- epoch state and decision record (R229-R236) -/
  epoch : Epoch
  /-- the interlock's mirror of participation (R234) -/
  mirror : Mirror
  /-- barrier messages delivered and not yet taken (R231) -/
  barInbox : List BarMsg
  /-- fabric ports FP0-FP15 and coupling ports CP0-CP1 (R276) -/
  ports : Vector Port 18
  /-- the router (R307-R326) -/
  router : Router
  /-- rack time (R296-R299) -/
  clock : Clock
  /-- marshalling engines of CD0-CD3 (R339-R358) -/
  me : Vector Me 4
  /-- runtime controllers RC-A and RC-B (R264-R273) -/
  rc : Rc
  /-- replies of the firmware that wait for their outbound mailbox (R252) -/
  replies : Vector (List (List Word)) 8
  /-- the governor (R363-R390) -/
  gov : Gov
  /-- thermal control (R391-R413) -/
  therm : Therm
  /-- notices queued for the tray controller (R494) -/
  notices : List Notice
  /-- REQ_ID of the next notice -/
  noticeSeq : Nat
  /-- the interlock (R414-R433) -/
  il : Il
  /-- the reset and hang manager (R434-R455) -/
  mgr : Mgr
  /-- bytes of the evidence buffers in the reserved areas, by device * 2^24 + offset (R156, R442) -/
  evid : Tab Byte
  /-- the bring-up run (R456-R478) -/
  boot : Boot
  /-- the signal box (R479-R503) -/
  sb : Sb
  /-- STRING and DOMAIN entries that have been written; an unlisted one holds its default (R478, R528) -/
  blob : Tab (Option (List Byte))
  /-- the I3C target (R495-R497) -/
  i3c : I3c
  /-- firmware slots, trials and attestation (R504-R528) -/
  fw : Fw
  /-- what the last token read returned to the control node, RC-A, RC-B and the signal box (R260; the model's own, an output) -/
  rdata : Vector Word 4
  deriving DecidableEq, Repr

/-- The machine right after power-on reset: 50 V is present, the always-on partition runs, LINE and WORKS are in reset, SIGNAL
runs its ROM and stage S0 of a full run (R43, R456). -/
def State.reset : State where
  pending := []
  freeCtr := 0
  rfrac := 0
  csr := [(0x02000020, 0x044C00C805140193), (0x02000028, 0x0000800000195F14), (0x02000030, 0x05780578FFFFFFFF), (0x02008010, 0x0FA00FA000000000), (0x02008018, 0x0578FFFFFFFFFFFF)]
  dict := [(D.PLCA_NODE, 1)]
  gens := []
  mem := []
  flips := []
  ceFull := .replicate 12 false
  umeta := []
  dom := .reset
  msgs := []
  tiles := .replicate 192 .reset
  prog := .empty
  we := .replicate 8 .reset
  md := .replicate 8 .reset
  dw := .reset
  regions := .replicate 64 none
  rings := .replicate 64 .reset
  rrNext := .replicate 4 0
  job := .none
  windows := []
  epoch := .none
  mirror := .none
  barInbox := []
  ports := .replicate 18 .reset
  router := .reset
  clock := .reset
  me := .replicate 4 .reset
  rc := .reset
  replies := .replicate 8 []
  gov := .reset
  therm := .reset
  notices := []
  noticeSeq := 0
  il := .reset
  mgr := .reset
  evid := []
  boot := .reset
  sb := .reset
  blob := []
  i3c := .reset
  fw := .reset
  rdata := .replicate 4 0

end Sys2Proof.Machine
end

