-- ==== Sys2Proof/Machine/Ops.lean ====
section
/-! DEFINITION. The named operations over the state that every meaning is written in: registers and their fields, counters,
dictionary entries, free values, events for the control node, fault messages at their sources, the address map, and memory with
its per-byte code and its commit views. -/

namespace Sys2Proof.Machine

/-- A completed command. -/
abbrev Res := Host.Outcome State Fault Refusal

/-! ## Registers (R14-R18, R37) -/

/-- The copy of a register that lies `d` bytes past its first copy, if there is one. -/
def copyAt : List (Nat × Nat) → Nat → Bool
  | [], d => d == 0
  | (s, c) :: t, d => decide (d / s < c) && copyAt t (d % s)

/-- The register of the map at a control-space offset. -/
def findReg (off : Nat) : Option RegRow :=
  regMap.find? (fun r => decide (r.base ≤ off) && copyAt r.dims (off - r.base))

/-- The default of a dictionary key (R501 and its like). -/
def dictDflt (key : Nat) : Nat :=
  match dictMap.find? (fun r => decide (r.key ≤ key ∧ key < r.key + r.count)) with
  | some r => r.dflt
  | none => 0

/-- The word that a register's Reset column gives (R15); a Hold field reads its value before it is first
set, Fuse and Unit fields read 0. -/
def resetWord (r : RegRow) : Word :=
  r.fields.foldl (fun w f =>
    match f.rst with
    | .num n => w ||| (BitVec.ofNat 64 n <<< f.lo)
    | .dict k => w ||| (BitVec.ofNat 64 (dictDflt k) <<< f.lo)
    | .holdAt n => w ||| (BitVec.ofNat 64 n <<< f.lo)
    | _ => w) 0

/-- What an unlisted register reads as: its reset value. -/
def csrDflt (off : Nat) : Word :=
  match findReg off with
  | some r => resetWord r
  | none => 0

/-- The word a register holds. -/
def State.csrGet (s : State) (off : Nat) : Word := tget csrDflt s.csr off

/-- The state with a register holding `v`. -/
def State.csrPut (s : State) (off : Nat) (v : Word) : State := { s with csr := tset csrDflt s.csr off v }

/-- Bits [lo + w - 1 : lo] of a word. -/
def getBits (x : Word) (lo w : Nat) : Nat := x.toNat / 2 ^ lo % 2 ^ w

/-- The word with bits [lo + w - 1 : lo] set to `v`. -/
def setBits (x : Word) (lo w v : Nat) : Word :=
  (x &&& ~~~(BitVec.ofNat 64 (2 ^ w - 1) <<< lo)) ||| (BitVec.ofNat 64 (v % 2 ^ w) <<< lo)

/-- The value of a field. -/
def State.fget (s : State) (f : Fld) : Nat := getBits (s.csrGet f.off) f.lo f.w

/-- The state with a field set; its other fields keep their values. -/
def State.fset (s : State) (f : Fld) (v : Nat) : State := s.csrPut f.off (setBits (s.csrGet f.off) f.lo f.w v)

/-- A flag field. -/
def State.flag (s : State) (f : Fld) : Bool := s.fget f == 1

/-- The state with a flag field set to a truth value. -/
def State.setFlag (s : State) (f : Fld) (b : Bool) : State := s.fset f (if b then 1 else 0)

/-- An increment of an event counter with its sticky overflow bit (R431). -/
def State.bump (s : State) (f ovf : Fld) (n : Nat := 1) : State :=
  let v := s.fget f + n
  if v > 0xFFFFFFFF then (s.fset f 0xFFFFFFFF).fset ovf 1 else s.fset f v

/-- An increment of a traffic counter of 64 bits, which wraps (R431). -/
def State.traffic (s : State) (f : Fld) (n : Nat) : State := s.fset f (s.fget f + n)

/-- A field that wraps (R431). -/
def State.wrap (s : State) (f : Fld) (n : Nat := 1) : State := s.fset f (s.fget f + n)

/-! ## Dictionary values (R489) -/

/-- The value of a numeric dictionary entry. -/
def State.od (s : State) (key : Nat) : Nat := tget dictDflt s.dict key

/-- The state with a numeric dictionary entry set. -/
def State.odPut (s : State) (key v : Nat) : State := { s with dict := tset dictDflt s.dict key v }

/-- A dictionary entry described as an event counter (R431): it stays at its largest value. -/
def State.odBump (s : State) (key : Nat) : State := s.odPut key (min (s.od key + 1) 0xFFFFFFFF)

/-! ## Free values -/

/-- The next free value, and the state that has drawn it. -/
def State.draw (s : State) : BitVec 64 × State :=
  (Config.freeValue s.freeCtr, { s with freeCtr := s.freeCtr + 1 })

/-! ## Time (R296) -/

/-- RTIME. -/
def State.rtime (s : State) : Nat := s.fget R.RTIME_NS

/-- One rising edge of REFCLK (R296, R298): RTIME and the signal box's copy advance by 6.4 ns and read whole nanoseconds, each unless
its domain is in reset; a copy from which a load is armed goes on to the load. -/
def State.tick (s : State) : State :=
  let n := (s.rfrac + 64) / 10
  let s := { s with rfrac := (s.rfrac + 64) % 10, clock := { s.clock with run := s.clock.run + n } }
  let s := if s.dom.signalRst && !s.clock.fromCopy then s else { s with clock := { s.clock with copy := (s.clock.copy + n) % 2 ^ 64 } }
  if s.dom.lineRst then s else s.fset R.RTIME_NS (s.rtime + n)

/-! ## Events for the control node (R201) -/

/-- Capacity of the event queue (R201). -/
def evCap : Nat := 256

/-- An event joins the queue, or is dropped and counted where the queue is full; its sequence number advances either way. -/
def State.event (s : State) (source code : Nat) (detail : List Byte) : State :=
  let seq := s.dw.evSeq
  let dw := { s.dw with evSeq := (seq + 1) % 2 ^ 32 }
  if s.dw.evq.length + s.dw.evSent.length ≥ evCap then
    { s with dw := { dw with evDrop := dw.evDrop + 1 } }.bump R.DW_EVQ_EVT_LOST R.DW_EVQ_EVT_LOST_OVF
  else { s with dw := { dw with evq := dw.evq ++ [⟨seq, source, code, s.rtime, detail⟩] } }

/-! ## Fault kinds and messages at their sources (R414-R418) -/

/-- Kind codes of R418. -/
inductive Kind
  | tileTrap | dispatchGap | address | dmaHalt | collAbort | weError | applyLost | eccUe | ceStorm | rsvEcc | markLimit
  | chRetired | laneDown | portDown | d2dDegraded | clockLost | mbxTimeout | hbPath | rcLost | standbyFault | fwHang
  | pwrInput | pwrRail | bladeLost | bufferStop | thermStop | thermGuard | thermTrip | thermSoft | ilSelf | ilUnknown
  deriving DecidableEq, Repr

/-- The code of a kind (R418). -/
def Kind.code : Kind → Nat
  | .tileTrap => 0x0E01 | .dispatchGap => 0x0E02 | .address => 0x0E03 | .dmaHalt => 0x0E04 | .collAbort => 0x0E05
  | .weError => 0x0E06 | .applyLost => 0x0E07 | .eccUe => 0x0E10 | .ceStorm => 0x0E11 | .rsvEcc => 0x0E12
  | .markLimit => 0x0E13 | .chRetired => 0x0E14 | .laneDown => 0x0E20 | .portDown => 0x0E21 | .d2dDegraded => 0x0E22
  | .clockLost => 0x0E23 | .mbxTimeout => 0x0E30 | .hbPath => 0x0E31 | .rcLost => 0x0E32 | .standbyFault => 0x0E33
  | .fwHang => 0x0E34 | .pwrInput => 0x0E40 | .pwrRail => 0x0E41 | .bladeLost => 0x0E42 | .bufferStop => 0x0E43
  | .thermStop => 0x0E50 | .thermGuard => 0x0E51 | .thermTrip => 0x0E52 | .thermSoft => 0x0E53 | .ilSelf => 0x0E60
  | .ilUnknown => 0x0E61

/-- The default class of a kind code: 0 NOTE, 1 WARN, 2 ERROR, 3 CRITICAL (R418); a reserved kind is CRITICAL. -/
def kindClass (code : Nat) : Nat :=
  match code with
  | 0x0E05 | 0x0E43 => 0
  | 0x0E01 | 0x0E03 | 0x0E04 | 0x0E06 | 0x0E10 | 0x0E11 | 0x0E14 | 0x0E20 | 0x0E21 | 0x0E22 | 0x0E30 | 0x0E31 | 0x0E33
  | 0x0E40 | 0x0E42 | 0x0E51 => 1
  | 0x0E02 | 0x0E13 | 0x0E32 | 0x0E34 | 0x0E53 => 2
  | _ => 3

/-- Is the kind code a condition (R418)? -/
def kindCond (code : Nat) : Bool :=
  [0x0E20, 0x0E21, 0x0E23, 0x0E31, 0x0E33, 0x0E40, 0x0E41, 0x0E42, 0x0E43, 0x0E50, 0x0E51, 0x0E52, 0x0E53, 0x0E60].contains code

/-- Is the kind code listed in R418? -/
def kindListed (code : Nat) : Bool :=
  (0x0E01 ≤ code && code ≤ 0x0E07) || (0x0E10 ≤ code && code ≤ 0x0E14) || (0x0E20 ≤ code && code ≤ 0x0E23)
    || (0x0E30 ≤ code && code ≤ 0x0E34) || (0x0E40 ≤ code && code ≤ 0x0E43) || (0x0E50 ≤ code && code ≤ 0x0E53)
    || code == 0x0E60 || code == 0x0E61

/-- Merge a new message into the held message of the same kind and CLEAR value (R416). -/
def mergeMsg (m : FaultMsg) : List FaultMsg → Option (List FaultMsg)
  | [] => none
  | h :: t =>
    if h.kind = m.kind ∧ h.clear = m.clear then some ({ h with rep := min (h.rep + 1) 255, high := h.high || m.high } :: t)
    else (mergeMsg m t).map (h :: ·)

/-- The place of the first held message of lowest default class (R416). -/
def lowestMsg (l : List FaultMsg) : Nat :=
  let c := (l.map (fun h => kindClass h.kind)).foldl min 3
  l.findIdx (fun h => kindClass h.kind == c)

/-- The messages a source holds after a new one: merged, held beside the others, or in the place of the least of four (R416);
and whether a merge or a drop took place. -/
def holdMsg (l : List FaultMsg) (m : FaultMsg) : List FaultMsg × Bool :=
  match mergeMsg m l with
  | some l' => (l', true)
  | none =>
    if l.length < 4 then (l ++ [m], false)
    else (l.eraseIdx (lowestMsg l) ++ [{ m with lost := true }], true)

/-- A source detects a fault: its message is held for the collector (R414, R416). -/
def State.reportMsg (s : State) (m : FaultMsg) : State :=
  let (l, merged) := holdMsg (tget (fun _ => []) s.msgs m.source) m
  let s := { s with msgs := tset (fun _ => []) s.msgs m.source l }
  if merged && !s.dom.lineRst then s.bump R.IL_EVENTS2_MERGED R.IL_FLAGS_MERGED_OVF else s

/-- Bits set in a 16-bit mask. -/
def popcount16 (m : Nat) : Nat := ((List.range 16).map (nbit m)).foldl (· + ·) 0

/-- Does the state hold that gives a message of this kind, sent now, the higher class of R418: no channel of the device in service,
or two guards marked, counting the guard of the message? -/
def State.highClass (s : State) (source kind detail : Nat) : Bool :=
  (kind == 0x0E14 && decide (0x200 ≤ source ∧ source ≤ 0x207) && s.fget (R.MD_STATUS_CH_UP.at (0x01000000 * (source - 0x200))) == 0)
    || (kind == 0x0E51 && decide (2 ≤ popcount16 (s.fget R.THERM_STATUS_GUARD_BAD ||| 2 ^ (detail % 16))))

/-- A source reports a kind with its detail and address. -/
def State.report (s : State) (source : Nat) (k : Kind) (detail addr : Nat) (clear : Bool := false) : State :=
  s.reportMsg ⟨source, k.code, 0, clear, false, false, addr, detail, s.rtime, s.highClass source k.code detail⟩

/-! ## Copies of registers -/

/-- Offset of the register window of physical tile P (R81). -/
def tileOff (p : Nat) : Nat := 0x10000000 * (p / 48) + 0x10000 * (p % 48)
/-- Offset of the block of a compute die (R37). -/
def dieOff (d : Nat) : Nat := 0x10000000 * d
/-- Offset of the block of a base die (R37). -/
def mdOff (n : Nat) : Nat := 0x01000000 * n
/-- Offset of the block of a port: FP0-FP15, then CP0-CP1 (R37). -/
def portOff (p : Nat) : Nat := 0x100000 * p
/-- Offset of the registers of a ring (R243). -/
def ringOff (r : Nat) : Nat := 0x100 * r
/-- Offset of the registers of a Dwente lane (R212). -/
def laneOff (l : Nat) : Nat := 0x1000 * l

/-- STATE of a tile (R117): 0 OFF, 1 IDLE, 2 RUN, 3 WAIT, 4 TRAPPED, 5 FENCED. -/
def State.tileState (s : State) (p : Nat) : Nat := s.fget (R.TILE_STATE_STATE.at (tileOff p))
/-- Set STATE of a tile. -/
def State.setTileState (s : State) (p v : Nat) : State := s.fset (R.TILE_STATE_STATE.at (tileOff p)) v
/-- The physical tile that serves logical tile L (R464, R476), if L is in service. -/
def State.physOf (s : State) (l : Nat) : Option Nat :=
  if l < 176 ∧ s.flag (R.LMAP_VALID.at (8 * l)) then some (s.fget (R.LMAP_PHYS.at (8 * l))) else none
/-- The logical number of a physical tile; 0xFFFF for a spare (R117). -/
def State.logicalOf (s : State) (p : Nat) : Nat := s.fget (R.TILE_STATE_LOGICAL.at (tileOff p))

/-! ## Addresses (R35, R36, R41, R42) -/

/-- Bytes of user-visible memory of a device (R35). -/
def mdSize : Nat := 0x1800000000
/-- Base of the scratchpads. -/
def spBase : Nat := 0x10000000000
/-- Bytes of a scratchpad. -/
def spSize : Nat := 0x800000
/-- Base of the wayside SRAMs. -/
def wsBase : Nat := 0x11000000000
/-- Bytes of a wayside SRAM. -/
def wsSize : Nat := 0x2000000
/-- Base of the control space. -/
def csrBase : Nat := 0x18000000000

/-- Bytes of coded storage of a device (R155): the user-visible area and the reserved area. -/
def mdCoded : Nat := 0x189D800000
/-- Device offset of the evidence buffer (R156). -/
def evOffset : Nat := 0x1800200000
/-- Device offset of spare unit 0 (R156). -/
def spareOffset : Nat := 0x1811A00000
/-- Spare units of a device (R156). -/
def spareUnits : Nat := 1145856
/-- Where the model keeps the reserved areas, which have no place in the map of R35: beyond every package physical address. -/
def rsvBase : Nat := 2 ^ 52
/-- The place of a device offset of the reserved area: the devices take turns, so that no two offsets share a place. -/
def rsvAddr (n off : Nat) : Nat := rsvBase + 8 * off + n

/-- Where an address lies: a package physical address (R35), or a byte of a reserved area (R155, R156). -/
inductive Loc
  | md (n off : Nat)
  | rsv (n off : Nat)
  | sp (l off : Nat)
  | ws (n off : Nat)
  | csr (off : Nat)
  | hole
  deriving DecidableEq, Repr

/-- The address map of R35. -/
def locOf (a : Nat) : Loc :=
  if a < 8 * mdSize then .md (a / mdSize) (a % mdSize)
  else if spBase ≤ a ∧ a < spBase + 176 * spSize then .sp ((a - spBase) / spSize) ((a - spBase) % spSize)
  else if wsBase ≤ a ∧ a < wsBase + 8 * wsSize then .ws ((a - wsBase) / wsSize) ((a - wsBase) % wsSize)
  else if csrBase ≤ a ∧ a < csrBase + 2 ^ 32 then .csr (a - csrBase)
  else if rsvBase ≤ a ∧ mdSize ≤ (a - rsvBase) / 8 ∧ (a - rsvBase) / 8 < mdCoded then .rsv ((a - rsvBase) % 8) ((a - rsvBase) / 8)
  else .hole

/-- Bytes from an address to the end of the region in which it lies (R36); none in a reserved area, which only the base die and
firmware reach (R156). -/
def roomFrom (a : Nat) : Nat :=
  match locOf a with
  | .md _ o => mdSize - o
  | .sp _ o => spSize - o
  | .ws _ o => wsSize - o
  | _ => 0

/-- Does a range touch the shadow of a registered region (R226)? -/
def State.touchesShadow (s : State) (a n : Nat) : Bool :=
  s.regions.toList.any fun r =>
    match r with
    | some g => decide (a < g.shadow + g.len ∧ g.shadow < a + n)
    | none => false

/-- May memory bytes [a, a + n) be accessed at all (R36, R226)? The control space is judged elsewhere. -/
def State.addrOk (s : State) (a n : Nat) : Bool :=
  decide (n ≤ roomFrom a) && !s.touchesShadow a n &&
    match locOf a with
    | .md _ _ => true
    | .sp l _ => (s.physOf l).isSome
    | .ws _ _ => true
    | _ => false

/-- The package's own destination ID (R42): 0x010 + 4 * tray + position, 0xFFFF while the tray number is unset. -/
def State.ownId (s : State) : Nat :=
  if s.od D.TRAY_NO = 0xFF then 0xFFFF else 0x010 + 4 * s.od D.TRAY_NO + s.od D.POSITION

/-- The fabric-global address of one of the package's own bytes (R41, R42); an address beyond 52 bits is none of them and stays as it
is. -/
def State.globalAddr (s : State) (a : Nat) : Nat := if a < 2 ^ 52 ∧ s.ownId ≠ 0xFFFF then 2 ^ 52 * s.ownId + a else a

/-! ## Commit views (R227, R228) -/

/-- The committed epoch C. -/
def State.epochC (s : State) : Nat := s.fget R.EPOCH_STATUS_COMMITTED

/-- What an unlisted unit holds. -/
def metaDflt : Nat → UnitMeta := fun _ => .none

/-- The registered region that holds a package address, if there is one (R226). -/
def State.regionOf (s : State) (a : Nat) : Option Nat :=
  s.regions.toList.findIdx? fun r =>
    match r with
    | some g => decide (g.base ≤ a ∧ a < g.base + g.len)
    | none => false

/-- An unlisted codeword is the codeword of its byte. -/
def flipDflt : Nat → BitVec 13 := fun _ => 0

/-- The erasure mask of a location: that of the marked dies for device memory, none elsewhere (R162, R168). -/
def State.maskAt (s : State) (a : Nat) : BitVec 13 :=
  match locOf a with
  | .md n o | .rsv n o => eraseMask (s.fget (R.DIE_MARK_MARKED.at (mdOff n))) o
  | _ => 0

/-- The word of a metadata entry (R227). -/
def UnitMeta.word (m : UnitMeta) : Nat :=
  (if m.reg then 2 ^ 63 else 0) + m.region % 64 * 2 ^ 57 + (if m.sel then 2 ^ 56 else 0) + m.tag % 2 ^ 32
/-- The entry that a word spells (R227). -/
def UnitMeta.ofWord (w : Nat) : UnitMeta := ⟨nbit w 63 == 1, w / 2 ^ 57 % 64, nbit w 56 == 1, w % 2 ^ 32⟩

/-- Device offset of the metadata (R156, R227). -/
def metaOffset : Nat := 0x1801200000
/-- The place of byte `k` of the metadata entry of the unit that holds a package address: 8 bytes for each unit of a device (R227). -/
def metaAddr (a k : Nat) : Nat := rsvAddr (a / mdSize) (metaOffset + 8 * (a % mdSize / 4096) + k)
/-- The number (package address / 4096) of the unit whose metadata entry a place belongs to. -/
def metaUnit (k : Nat) : Nat := (k - rsvBase) % 8 * (mdSize / 4096) + ((k - rsvBase) / 8 - metaOffset) / 8
/-- Is a place one of the metadata entries of the device's units? -/
def inMeta (k : Nat) : Bool :=
  decide (rsvBase ≤ k ∧ metaOffset ≤ (k - rsvBase) / 8 ∧ (k - rsvBase) / 8 < metaOffset + 8 * (mdSize / 4096))

/-- What was last written to the metadata entry of the unit that holds a package address: as listed; a unit of a registered region that
nothing has written since its registration is not listed and holds SEL 0, TAG 0 (R226, R227). -/
def State.metaHeld (s : State) (a : Nat) : UnitMeta :=
  let m := tget metaDflt s.umeta (a / 4096)
  if m.reg then m
  else
    match s.regionOf a with
    | some i => ⟨true, i, false, 0⟩
    | none => .none

/-- The codeword stored for byte `k` of the metadata entry of the unit that holds a package address (R155, R227). -/
def State.metaWord13 (s : State) (a k : Nat) : BitVec 13 :=
  eccEncode (BitVec.ofNat 8 ((s.metaHeld a).word / 2 ^ (8 * k))) ^^^ tget flipDflt s.flips (metaAddr a k)

/-- Does an error stand in the entry of a unit of a registered region? -/
def State.metaFlipped (s : State) (a : Nat) : Bool :=
  (s.metaHeld a).reg && (List.range 8).any fun k => tget flipDflt s.flips (metaAddr a k) != 0

/-- The metadata of the unit that holds a package address as its codewords decode (R162, R227); what was last written where they do not
(an access then does not go on: `State.metaRead`). -/
def State.unitMeta (s : State) (a : Nat) : UnitMeta :=
  if s.metaFlipped a then
    let l := (List.range 8).map fun k =>
      match eccDecode (s.metaWord13 a k) (s.maskAt (metaAddr a k)) with
      | .clean b | .corrected b _ => some b
      | .uncorrectable => none
    if l.all Option.isSome then UnitMeta.ofWord (leNat (l.map (·.getD 0))) else s.metaHeld a
  else s.metaHeld a

/-- The address of a byte in the base copy (sel = false) or the shadow copy (sel = true) of its region. -/
def State.copyAddr (s : State) (m : UnitMeta) (sel : Bool) (a : Nat) : Nat :=
  match vget none s.regions m.region with
  | some g => if sel then g.shadow + (a - g.base) else a
  | none => a

/-- Where the working view of a byte is stored (R227). -/
def State.workAddr (s : State) (a : Nat) : Nat :=
  let m := s.unitMeta a
  if m.reg then s.copyAddr m m.sel a else a

/-- The copy that holds the committed view (R227). -/
def State.commitSel (s : State) (m : UnitMeta) : Bool := if m.tag ≤ s.epochC then m.sel else !m.sel

/-- Where the committed view of a byte is stored (R227). -/
def State.commitAddr (s : State) (a : Nat) : Nat :=
  let m := s.unitMeta a
  if m.reg then s.copyAddr m (s.commitSel m) a else a

/-! ## Stored bytes (R160-R171) -/

/-- Does the die test of R461 write a byte: the first and the last 256 MiB of the user-visible area of a device? -/
def inDieTest (a : Nat) : Bool := decide (a < 8 * mdSize) && decide (a % mdSize < 2 ^ 28 ∨ mdSize - 2 ^ 28 ≤ a % mdSize)

/-- What an unlisted byte of memory reads: the last byte of the die test of R461 where that test has written, 0 elsewhere (DESIGN CHOICE;
log entry 2). -/
def memDflt : Nat → Byte := fun a => if inDieTest a then 0xAA else 0

/-- Memory is in its canonical form: addresses strictly rising, and no entry that reads as an unlisted address does. -/
def Memory.wf (m : List Host.Cell) : Bool := twf memDflt m

/-- The spare that serves unit `u` of device `n` (R180), if the repair map names one. -/
def State.spareOf (s : State) (n u : Nat) : Option Nat := (vget .reset s.md n).repair.findIdx? (· == u)

/-- Where the codeword of an address is stored: a byte of a remapped unit lies in its spare unit (R180). -/
def State.slot (s : State) (a : Nat) : Nat :=
  match locOf a with
  | .md n o =>
    match s.spareOf n (o / 2048) with
    | some i => rsvAddr n (spareOffset + 2048 * i + o % 2048)
    | none => a
  | _ => a

/-- The byte stored for an address. -/
def State.cell (s : State) (a : Nat) : Byte := tget memDflt s.mem (s.slot a)

/-- The flipped bits of the codeword stored for an address. -/
def State.flip (s : State) (a : Nat) : BitVec 13 := tget flipDflt s.flips (s.slot a)

/-- The codeword stored for an address. -/
def State.word13 (s : State) (a : Nat) : BitVec 13 := eccEncode (s.cell a) ^^^ s.flip a

/-- Put a byte and the flipped bits of its codeword in place. -/
def State.putCell (s : State) (a : Nat) (b : Byte) (f : BitVec 13) : State :=
  { s with mem := tset memDflt s.mem (s.slot a) b, flips := tset flipDflt s.flips (s.slot a) f }

/-- Store a byte with its codeword (R167). -/
def State.store (s : State) (a : Nat) (b : Byte) : State := s.putCell a b 0

/-- Copy one stored codeword, errors and all (the base die's copy of R228). -/
def State.copyCell (s : State) (src dst : Nat) : State := s.putCell dst (s.cell src) (s.flip src)

/-- Copy `n` stored codewords. -/
def State.copyCells (s : State) (src dst : Nat) : Nat → State
  | 0 => s
  | n + 1 => (s.copyCells src dst n).copyCell (src + n) (dst + n)

/-- Who reads: `REQ` of R173 for device memory, `REQ` of R174 for scratchpads, and the fault source (R417). -/
structure Rq where
  md  : Nat
  sp  : Nat
  src : Nat
  deriving DecidableEq, Repr

/-- Firmware reads device `n` (R171, R173). -/
def rqFw (n : Nat) : Rq := ⟨4, 3, 0x0200 + n⟩

/-- The event counter of corrections of die `i` of device `n` (`DIE_CE`, R173). -/
def dieCe (n i : Nat) : Fld :=
  (if i % 2 = 0 then R.DIE_CE_EVEN else R.DIE_CE_ODD).at (mdOff n + 8 * (i / 2))

/-- The place of the full latch of the bucket of a source: MD0-MD7 (0x0200 + n), then CD0-CD3 (0x0800 + d). -/
def ceSlot (source : Nat) : Nat := if source < 0x800 then source % 8 else 8 + source % 4

/-- A bucket is full, at its capacity: it raises CE_STORM, and neither drains nor counts until it is read (R170, R431). -/
def State.ceFill (s : State) (f : Fld) (source : Nat) : State :=
  let cap := s.od D.ECC_BUCKET_CAP
  { s.fset f cap with ceFull := vput s.ceFull (ceSlot source) true }.report source .ceStorm cap 0

/-- A correction joins a leaky bucket (R170, R431): a full bucket counts no further; one that fills raises CE_STORM. -/
def State.ceBucket (s : State) (f : Fld) (source : Nat) : State :=
  if vget false s.ceFull (ceSlot source) then s
  else if s.od D.ECC_BUCKET_CAP ≤ s.fget f + 1 then s.ceFill f source
  else s.fset f (s.fget f + 1)

/-- The drain of a correctable-error bucket at a whole second (R170, R431): a bucket at or above a lowered capacity is full from here. -/
def State.ceDrain (s : State) (f : Fld) (source : Nat) : State :=
  if vget false s.ceFull (ceSlot source) then s
  else if s.fget f < s.od D.ECC_BUCKET_CAP then s.fset f (s.fget f - s.od D.ECC_BUCKET_LEAK)
  else s.ceFill f source

/-- A capture register pair loads if its VALID is 0 (R118). -/
def State.capture (s : State) (valid : Fld) (reg : Nat) (w : Word) (areg : Nat) (a : Nat) : State :=
  if s.flag valid then s else (s.csrPut reg w).csrPut areg (BitVec.ofNat 64 a)

/-- The capture word of R173/R174 for a byte read as `w` under mask `m`. -/
def eccCapture (w m : BitVec 13) (req die marks : Nat) (unc : Bool) : Word :=
  let z := w &&& ~~~m
  BitVec.ofNat 64 (eccSyndrome z * 2 ^ 60 + eccParity z * 2 ^ 59 + (if unc then 2 ^ 58 else 0) + req * 2 ^ 52 + die * 2 ^ 48
    + w.toNat * 2 ^ 32 + 2 ^ 16 + marks)

/-- A mark that arises automatically or from the die test (R164, R165): applied and recorded, or refused at the third. -/
def State.markDie (s : State) (n i : Nat) (auto : Bool) : State :=
  let f := R.DIE_MARK_MARKED.at (mdOff n)
  let m := s.fget f
  if nbit m i = 1 then s
  else if popcount16 m ≥ 2 then
    (s.fset (R.ECC_FLAGS_MARK_LIMIT.at (mdOff n)) 1).report (0x0200 + n) .markLimit i 0
  else
    let s := s.fset f (m + 2 ^ i)
    let s := if auto then
      let g := R.DIE_MARK_AUTO.at (mdOff n)
      s.fset g (s.fget g + 2 ^ i) else s
    let s := s.odPut (D.DIE_MARKS + n) (s.od (D.DIE_MARKS + n) ||| 2 ^ i)
    { s with md := vmod s.md n fun d =>
        { d with recMark := d.recMark ||| 2 ^ i, recAuto := if auto then d.recAuto ||| 2 ^ i else d.recAuto } }

/-- Corrections of die `i` that still lie in a window of `ms` milliseconds ending now (R164). -/
def recentCe (l : List (Nat × Nat)) (i now ms : Nat) : Nat :=
  (l.filter (fun e => e.1 == i && decide (now < e.2 + ms * 1000000))).length

/-- A correction attributed to an unmarked die counts toward automatic marking (R164). -/
def State.autoMark (s : State) (n i : Nat) : State :=
  let ms := s.od D.MARK_WINDOW
  let s := { s with md := vmod s.md n fun d =>
    { d with cetimes := (i, s.rtime) :: d.cetimes.filter (fun e => decide (s.rtime < e.2 + ms * 1000000)) } }
  if s.od D.AUTO_MARK = 1 ∧ nbit (s.fget (R.DIE_MARK_MARKED.at (mdOff n))) i = 0
      ∧ recentCe (vget Md.reset s.md n).cetimes i s.rtime ms ≥ s.od D.MARK_THRESH then s.markDie n i true
  else s

/-- A correction in the DRAM or the wayside SRAM of device `n`, at die or subarray `i`: the capture with address `ga`, `CE_COUNT` and the
bucket (R163, R170, R173). -/
def State.noteMdCe (s : State) (rq : Rq) (n ga i : Nat) (w m : BitVec 13) : State :=
  let s := s.capture (R.ECC_CE_VALID.at (mdOff n)) (R.ECC_CE + mdOff n)
    (eccCapture w m rq.md i (s.fget (R.DIE_MARK_MARKED.at (mdOff n))) false) (R.ECC_CE_ADDR + mdOff n) ga
  let s := s.bump (R.ECC_EVENTS_CE_COUNT.at (mdOff n)) (R.ECC_FLAGS_CE_OVF.at (mdOff n))
  s.ceBucket (R.ECC_BUCKET_LEVEL.at (mdOff n)) (0x0200 + n)

/-- A correction attributed to die `i` counts in its counter, and toward automatic marking (R163, R164). -/
def State.noteDie (s : State) (n i : Nat) : State := (s.bump (dieCe n i) ⟨R.ECC_FLAGS + mdOff n, 16 + i, 1⟩).autoMark n i

/-- The `ADDR` of a byte of a reserved area (R173). -/
def rsvGlobal (off : Nat) : Nat := 0xFFF * 2 ^ 52 + off

/-- What a CORRECTED outcome counts and captures (R163, R164, R169, R170, R173, R174). The error log takes the units of the
user-visible area (R180). -/
def State.noteCorrected (s : State) (rq : Rq) (a : Nat) (w m : BitVec 13) (b : Byte) (pos : Nat) : State :=
  match locOf a with
  | .md n o =>
    let s := s.noteMdCe rq n (s.globalAddr a) (bitDie o pos) w m
    ({ s with md := vmod s.md n fun d => { d with log := d.log ++ [(o / 2048, bitDie o pos)] } }).noteDie n (bitDie o pos)
  | .rsv n o => (s.noteMdCe rq n (rsvGlobal o) (bitDie o pos) w m).noteDie n (bitDie o pos)
  | .ws n o => s.noteMdCe rq n (s.globalAddr a) (bitDie o pos) w m
  | .sp l _ =>
    let p := (s.physOf l).getD 0
    let d := p / 48
    let s := s.capture (R.SP_ECC_VALID.at (tileOff p)) (R.SP_ECC + tileOff p) (eccCapture w m rq.sp 0 0 false)
      (R.SP_ECC_ADDR + tileOff p) (s.globalAddr a)
    let s := s.bump (R.SP_EVENTS_CE_COUNT.at (dieOff d)) (R.SP_FLAGS_CE_OVF.at (dieOff d))
    let s := s.ceBucket (R.SP_BUCKET_LEVEL.at (dieOff d)) (0x0800 + d)
    s.store a b
  | _ => s

/-- An UNCORRECTABLE byte of device `n`: the capture with address `ga`, and `UE_COUNT` (R171, R173). -/
def State.noteMdUe (s : State) (rq : Rq) (n ga : Nat) (w m : BitVec 13) : State :=
  (s.capture (R.ECC_UE_VALID.at (mdOff n)) (R.ECC_UE + mdOff n)
    (eccCapture w m rq.md 0 (s.fget (R.DIE_MARK_MARKED.at (mdOff n))) false) (R.ECC_UE_ADDR + mdOff n) ga).bump
      (R.ECC_EVENTS_UE_COUNT.at (mdOff n)) (R.ECC_FLAGS_UE_OVF.at (mdOff n))

/-- What an UNCORRECTABLE outcome counts, captures and reports (R171, R173, R174); in a reserved area the report is RSV_ECC. -/
def State.noteUncorrectable (s : State) (rq : Rq) (a : Nat) (w m : BitVec 13) : State :=
  match locOf a with
  | .md n _ | .ws n _ => (s.noteMdUe rq n (s.globalAddr a) w m).report rq.src .eccUe rq.md (s.globalAddr a)
  | .rsv n o => (s.noteMdUe rq n (rsvGlobal o) w m).report rq.src .rsvEcc (o % 2 ^ 32) (rsvGlobal o)
  | .sp l _ =>
    let p := (s.physOf l).getD 0
    let d := p / 48
    let s := s.capture (R.SP_ECC_VALID.at (tileOff p)) (R.SP_ECC + tileOff p) (eccCapture w m rq.sp 0 0 true)
      (R.SP_ECC_ADDR + tileOff p) (s.globalAddr a)
    let s := s.bump (R.SP_EVENTS_UE_COUNT.at (dieOff d)) (R.SP_FLAGS_UE_OVF.at (dieOff d))
    s.report rq.src .eccUe rq.sp (s.globalAddr a)
  | _ => s

/-- The channel on which CDd reaches the byte at an offset of device `n`: that of bits 9:8 with every channel in service, else the next
one in service in ascending order, wrapping; none with all four retired (R158, R159). An access is split at each 256-byte boundary: every
byte takes its own. -/
def State.channelFor (s : State) (n off : Nat) : Option Nat :=
  ((List.range 4).map fun k => (off / 256 + k) % 4).find? fun c => nbit (s.fget (R.MD_STATUS_CH_UP.at (mdOff n))) c == 1

/-- Does no channel lead to the device of an address (R159)? CDd then reaches neither the stack nor the wayside SRAM. -/
def State.chDead (s : State) (a : Nat) : Bool :=
  match locOf a with
  | .md n o | .ws n o => (s.channelFor n o).isNone
  | _ => false

/-- Decode a codeword read at a location for a requester: its data, or none where it is UNCORRECTABLE; the outcome is noted (R162). -/
def State.decodeAt (s : State) (rq : Rq) (a : Nat) (w : BitVec 13) : Option Byte × State :=
  let m := s.maskAt a
  match eccDecode w m with
  | .clean b => (some b, s)
  | .corrected b k => (some b, s.noteCorrected rq a w m b k)
  | .uncorrectable => (none, s.noteUncorrectable rq a w m)

/-- The base die reads the metadata entry of a unit of a registered region (R162, R171, R227): its errors are noted as firmware's, and
the access goes on only where all 8 bytes decode (log entry 195). -/
def State.metaRead (s : State) (a : Nat) : Bool × State :=
  if s.metaFlipped a then
    (List.range 8).foldl (fun (x : Bool × State) k =>
      let r := x.2.decodeAt (rqFw (a / mdSize)) (metaAddr a k) (s.metaWord13 a k)
      (x.1 && r.1.isSome, r.2)) (true, s)
  else (true, s)

/-- Is a place among the `len` bytes from offset `lo` of the reserved area of device `n`? -/
def inRsv (n lo len a : Nat) : Bool := decide (rsvAddr n lo ≤ a ∧ a < rsvAddr n (lo + len)) && (a - rsvBase) % 8 == n

/-- Firmware reads a record of the reserved area of device `n`, `len` bytes from `lo`, whose layout the manual does not state (R156): the
outcome of each codeword in error is noted, RSV_ECC among them (R162, R171). Its data, of which the outcome is no function, is a free
value; what the record holds stands in fields of its own (log entry 170). -/
def State.rsvRead (s : State) (n lo len : Nat) : State :=
  (s.flips.filter fun e => inRsv n lo len e.1).foldl (fun s e =>
    let (v, s) := s.draw
    (s.decodeAt (rqFw n) e.1 (eccEncode (v.setWidth 8) ^^^ e.2)).2) s

/-- The records of R156: the error log and die-mark record, the commit action lists and the repair map of a device, and the job record
(R221), which MD0 holds. -/
def State.logRead (s : State) (n : Nat) : State := s.rsvRead n 0x1800000000 0x100000
/-- The commit action lists. -/
def State.listRead (s : State) (n : Nat) : State := s.rsvRead n 0x1800100000 0x100000
/-- The repair map. -/
def State.mapRead (s : State) (n : Nat) : State := s.rsvRead n 0x1811200000 0x800000
/-- The job record. -/
def State.jobRead (s : State) : State := s.rsvRead 0 0x180D200000 0x4000000

/-- Read and decode the byte stored at a location: its data, or none where it is UNCORRECTABLE (R162) or out of reach (R159). -/
def State.readCell (s : State) (rq : Rq) (a : Nat) : Option Byte × State :=
  if rq.md == 0 && s.chDead a then (none, s) else s.decodeAt rq a (s.word13 a)

/-- Read `n` stored bytes from location `a` upward. -/
def State.readCells (s : State) (rq : Rq) (a : Nat) : Nat → List (Option Byte) × State
  | 0 => ([], s)
  | n + 1 =>
    let (b, s) := s.readCell rq a
    let (t, s) := s.readCells rq (a + 1) n
    (b :: t, s)

/-- Read one byte of the working view (R227). -/
def State.readWork (s : State) (rq : Rq) (a : Nat) : Option Byte × State :=
  let r := s.metaRead a
  if r.1 then r.2.readCell rq (r.2.workAddr a) else (none, r.2)

/-- Read one byte of the committed view (R227, R238). -/
def State.readCommit (s : State) (rq : Rq) (a : Nat) : Option Byte × State :=
  let r := s.metaRead a
  if r.1 then r.2.readCell rq (r.2.commitAddr a) else (none, r.2)

/-- Read `n` bytes of the working view from `a` upward (R227). -/
def State.readView (s : State) (rq : Rq) (a : Nat) : Nat → List (Option Byte) × State
  | 0 => ([], s)
  | n + 1 =>
    let (b, s) := s.readWork rq a
    let (t, s) := s.readView rq (a + 1) n
    (b :: t, s)

/-- Read `n` bytes of the committed view from `a` upward (R227, R238). -/
def State.readCommitted (s : State) (rq : Rq) (a : Nat) : Nat → List (Option Byte) × State
  | 0 => ([], s)
  | n + 1 =>
    let (b, s) := s.readCommit rq a
    let (t, s) := s.readCommitted rq (a + 1) n
    (b :: t, s)

/-- The bytes of a read, unless one of them is UNCORRECTABLE (R171). -/
def allSome {α : Type} : List (Option α) → Option (List α)
  | [] => some []
  | none :: _ => none
  | some b :: t => (allSome t).map (b :: ·)

/-- Read a whole access: its bytes, or none (R171). -/
def State.readBytes (s : State) (rq : Rq) (a n : Nat) : Option (List Byte) × State :=
  let (l, s) := s.readView rq a n
  (allSome l, s)

/-- Errors in the metadata entries of the units that `p` names go: the entries are written anew. -/
def State.metaClean (s : State) (p : Nat → Bool) : State :=
  { s with flips := s.flips.filter fun e => !(inMeta e.1 && p (metaUnit e.1)) }

/-- The first write of an epoch to a unit of a registered region (R228): the committed copy is copied into the other copy,
SEL is inverted and TAG set to the open epoch. -/
def State.firstWrite (s : State) (a : Nat) : State :=
  let m := s.unitMeta a
  if m.reg ∧ m.tag ≤ s.epochC then
    let u := a / 4096 * 4096
    let s' := s.copyCells (s.copyAddr m m.sel u) (s.copyAddr m (!m.sel) u) 4096
    { s' with umeta := tset metaDflt s'.umeta (a / 4096) { m with sel := !m.sel, tag := s.epochC + 1 } }.metaClean (· == a / 4096)
  else s

/-- Write one whole byte at an address of the working view (R167, R228); it does not land where the unit's metadata reads UNCORRECTABLE. -/
def State.writeByte (s : State) (a : Nat) (b : Byte) : State :=
  let r := s.metaRead a
  if r.1 then
    let s := r.2.firstWrite a
    s.store (s.workAddr a) b
  else r.2

/-- Write bytes from `a` upward. -/
def State.writeBytes (s : State) (a : Nat) : List Byte → State
  | [] => s
  | b :: t => (s.writeByte a b).writeBytes (a + 1) t

/-- The data of the byte stored at a location, as R162 decodes it; the outcome is not counted here. -/
def State.decoded (s : State) (a : Nat) : Option Byte :=
  match eccDecode (s.word13 a) (s.maskAt a) with
  | .clean b | .corrected b _ => some b
  | .uncorrectable => none

/-- Write part of a byte (R167): its bits under `mask` become those of `v` in the decoded data; the write does not land where the byte
reads UNCORRECTABLE. The writer counts the outcome of the read before it writes. -/
def State.writeBits (s : State) (a : Nat) (mask v : Byte) : State :=
  let r := s.metaRead a
  let s := if r.1 then r.2.firstWrite a else r.2
  match s.decoded (s.workAddr a) with
  | none => s
  | some b => if r.1 = false then s else s.store (s.workAddr a) ((b &&& ~~~mask) ||| (v &&& mask))

/-- Little-endian number read at an address of main memory without side effects on a refused or uncorrectable byte. -/
def State.readNat (s : State) (rq : Rq) (a n : Nat) : Option Nat × State :=
  let (l, s) := s.readBytes rq a n
  (l.map leNat, s)

/-- How often a flit or frame without an acknowledgement has been sent again (R193, R281). -/
def timesResent (l : List (Nat × Nat)) (seq : Nat) : Nat :=
  match l.find? (·.1 == seq) with
  | some e => e.2
  | none => 0

/-- The counts once it is sent again. -/
def resentOnce (l : List (Nat × Nat)) (seq : Nat) : List (Nat × Nat) := (seq, timesResent l seq + 1) :: l.filter (·.1 != seq)

/-- An access refused under R36 is reported as an address fault of its requester (R36, R417). -/
def State.addrFault (s : State) (source a code : Nat) : State := s.report source .address code a

/-- Little-endian 64-bit words of a byte list (R7). -/
def words64 : Nat → List Byte → List Nat
  | 0, _ => []
  | n + 1, l => leNat (l.take 8) :: words64 n (l.drop 8)

/-- Bits [hi : lo] of a number. -/
def nbits (x hi lo : Nat) : Nat := x / 2 ^ lo % 2 ^ (hi + 1 - lo)

/-! ## CRC-32C (R191, R120) -/

/-- One step of the reflected CRC-32C. -/
def crcBit (c : BitVec 32) : BitVec 32 := if c.getLsbD 0 then (c >>> 1) ^^^ 0x82F63B78#32 else c >>> 1

/-- CRC-32C of a byte list. -/
def crc32c (l : List Byte) : BitVec 32 :=
  ~~~(l.foldl (fun c b => Nat.repeat crcBit 8 (c ^^^ b.setWidth 32)) 0xFFFFFFFF#32)

end Sys2Proof.Machine
end

