-- ==== Sys2Proof/Machine/Fec.lean ====
section
/-! DEFINITION. The RS(544,514) codewords of the Dwente lanes and of the fabric lanes (R188, R279): symbols of GF(2^10), the encoder,
a decoder that corrects up to 15 symbols, and the tags. The generator polynomial, the field and the symbol order are those of IEEE 802.3
Clause 91, which the spec names and does not print (PRESUMED; log entry 171). -/

namespace Sys2Proof.Machine

/-! ## GF(2^10), x^10 + x^3 + 1 -/

/-- A symbol times α. -/
def gfX (a : Nat) : Nat := if a < 512 then 2 * a else (2 * a) ^^^ 0x409
/-- A product of symbols; the fuel counts the bits of `b`. -/
def gfMulGo : Nat → Nat → Nat → Nat
  | 0, _, _ => 0
  | n + 1, a, b => (if b % 2 = 1 then a else 0) ^^^ gfMulGo n (gfX a) (b / 2)
/-- A product of symbols. -/
def gfMul (a b : Nat) : Nat := gfMulGo 10 a b
/-- α to a power. -/
def gfAlpha : Nat → Nat
  | 0 => 1
  | n + 1 => gfX (gfAlpha n)
/-- The symbol `a` squared `n` times and multiplied up: a^(2^n - 1). -/
def gfOnes (a : Nat) : Nat → Nat
  | 0 => 1
  | n + 1 => let r := gfOnes a n; gfMul a (gfMul r r)
/-- The inverse of a symbol other than 0: a^1022, the square of a^511. -/
def gfInv (a : Nat) : Nat := let r := gfOnes a 9; gfMul r r
/-- Value of a polynomial, lowest coefficient first. -/
def gfEval (l : List Nat) (x : Nat) : Nat := l.foldr (fun c v => c ^^^ gfMul v x) 0
/-- Sum of two polynomials. -/
def gfAdd : List Nat → List Nat → List Nat
  | [], l => l
  | l, [] => l
  | a :: s, b :: t => (a ^^^ b) :: gfAdd s t

/-! ## The encoder -/

/-- The generator polynomial without its leading coefficient, coefficient of x^j at bits 10j+9:10j, times α^0 to α^9: it is the product of
x - α^j for j from 0 to 29. -/
def rsGen : List Nat :=
  [0x8fe282ece68a0011b235468f99448417ad07bd81eb9f7dcd69c5262305881fcb927880d0a0b,
   0x1dc595d9cc16402360638d1f22ad082f1a9f7b02d57eebbed2884cd60b103f9724f100a341f,
   0x3b8b2bb3982c8046c0c6187e455a105e352ed60da8fd575dad12d9ac12297f2e49e20044c3e,
   0x771647473959008d818c30bc1ab029bc2add8c1353fa3ebb5a25b348045bfe1c13e4098987c,
   0xee2c8e8a7bb2010b27186138b544527a553b3c26a7b4fd56bd4b26102cb6fe7827c812114f8,
   0xde599d34ff6642066e39c231fa88a4f4aa665c4c4d697a8d73960cb0596cfef0df9024229f0,
   0xbef32a4dfecc840cd87b8663753548eb545cb8989a92753ee62e5960b2d8ffe13f0448453e0,
   0x7fe6d4bffc9b480994f60ec67a6a90d4e8a955303764ea79c55cb2c161b9fdc2fe2c908a3c9,
   0xff8d397bf134d0030dec1d8ce4f529abd1d28e606e8954d78ab92512c372f9c5ec7d201679b,
   0xfd5a62d7eb69a0061bd83b19c9ea5255e3a518c9dd12a9ab1d704ab582edf1cbc8de402cb3f]
/-- A symbol times the generator polynomial. -/
def rsTimes : List Nat → Nat → Nat
  | [], _ => 0
  | g :: l, f => (if f % 2 = 1 then g else 0) ^^^ rsTimes l (f / 2)
/-- The remainder of division by the generator polynomial, coefficient of x^j at bits 10j+9:10j, over `n` symbols from the first sent. -/
def rsRem : Nat → Nat → Nat → Nat
  | 0, _, r => r
  | n + 1, m, r => rsRem n (m / 1024) (r * 1024 % 2 ^ 300 ^^^ rsTimes rsGen (r / 2 ^ 290 ^^^ m % 1024))
/-- Ten-bit symbols in the other order. -/
def symRev : Nat → Nat → Nat → Nat
  | 0, _, r => r
  | n + 1, m, r => symRev n (m / 1024) (r * 1024 + m % 1024)
/-- The codeword of a message of 514 symbols; symbol `i` sent is at bits 10i+9:10i. -/
def rsEncode (m : Nat) : BitVec 5440 :=
  BitVec.ofNat 5440 (m % 2 ^ 5140 + symRev 30 (rsRem 514 m 0) 0 * 2 ^ 5140)

/-! ## The decoder -/

/-- The working state of Berlekamp and Massey: locator, its predecessor, length, distance and last discrepancy. -/
structure RsLoc where
  c : List Nat
  b : List Nat
  l : Nat
  m : Nat
  d : Nat

/-- One syndrome of Berlekamp and Massey; `syn` holds the syndromes so far, the newest first, and `n` how many went before it. -/
def RsLoc.step (x : RsLoc) (syn : List Nat) (n : Nat) : RsLoc :=
  let d := (List.zipWith gfMul x.c syn).foldl (· ^^^ ·) 0
  if d = 0 then { x with m := x.m + 1 }
  else
    let k := gfMul d (gfInv x.d)
    let c := gfAdd x.c (List.replicate x.m 0 ++ x.b.map (gfMul k))
    if 2 * x.l ≤ n then ⟨c, x.c, n + 1 - x.l, 1, d⟩ else { x with c := c, m := x.m + 1 }

/-- The error locator of a list of syndromes. -/
def rsLocator : List Nat → List Nat → Nat → RsLoc → RsLoc
  | [], _, _, x => x
  | s :: t, seen, n, x => rsLocator t (s :: seen) (n + 1) (x.step (s :: seen) n)

/-- Product of two polynomials, the first `n` coefficients. -/
def gfProd (n : Nat) : List Nat → List Nat → List Nat
  | [], _ => []
  | a :: s, t => (gfAdd (t.map (gfMul a)) (0 :: gfProd n s t)).take n

/-- The formal derivative of a polynomial. -/
def gfDeriv : List Nat → List Nat
  | [] => []
  | [_] => []
  | _ :: b :: t => b :: 0 :: gfDeriv t

/-- The errors among the last `n` places (place `i` holds the coefficient of x^i), each at its bits of a codeword; `x` is α^i and `y` its
inverse. -/
def rsErrors (loc omega deriv : List Nat) : Nat → Nat → Nat → Nat → Nat
  | 0, _, _, _ => 0
  | n + 1, i, x, y =>
    let e := if gfEval loc y = 0 then gfMul x (gfMul (gfEval omega y) (gfInv (gfEval deriv y))) else 0
    (e * 2 ^ (10 * (543 - i))) ^^^ rsErrors loc omega deriv n (i + 1) (gfX x) (gfMul y 516)

/-- The symbols that differ from 0. -/
def symCount : Nat → Nat → Nat
  | 0, _ => 0
  | n + 1, m => (if m % 1024 = 0 then 0 else 1) + symCount n (m / 1024)

/-- Is a word of 544 symbols a codeword? -/
def rsOk (w : Nat) : Bool := rsRem 514 w 0 == symRev 30 (w / 2 ^ 5140) 0

/-- The message of a received codeword and whether symbols were corrected; none where no codeword lies within 15 symbols. -/
def rsDecode (w : BitVec 5440) : Option (Nat × Bool) :=
  let n := w.toNat
  if rsOk n then some (n % 2 ^ 5140, false)
  else
    let r := rsRem 514 n 0 ^^^ symRev 30 (n / 2 ^ 5140) 0
    let coef := (List.range 30).map fun j => r / 2 ^ (10 * j) % 1024
    let syn := (List.range 30).map fun j => gfEval coef (gfAlpha j)
    let x := rsLocator syn [] 0 ⟨[1], [1], 0, 1, 1⟩
    if 15 < x.l then none
    else
      let fix := n ^^^ rsErrors x.c (gfProd 30 syn x.c) (gfDeriv x.c) 544 0 1 1
      if rsOk fix ∧ symCount 544 (n ^^^ fix) ≤ 15 then some (fix % 2 ^ 5140, true) else none

/-! ## Tags -/

/-- The codeword of a 20-bit tag, sent first, and the bits behind it. -/
def cwOf (tag rest : Nat) : BitVec 5440 := rsEncode (tag % 2 ^ 20 + rest * 2 ^ 20)
/-- Does a received codeword decode and carry the sync pattern? Its tag and whether it was corrected. -/
def cwTag (sync : Nat) (w : BitVec 5440) : Option (Nat × Bool) :=
  match rsDecode w with
  | some (m, c) => if nbits m 19 12 = sync then some (m % 2 ^ 20, c) else none
  | none => none

end Sys2Proof.Machine
end

