-- ==== Sys2Proof/Machine/Access.lean ====
section
/-! DEFINITION. Access to the control space by a party that reaches it (R33, R36-R40): what is refused, and the capture of refused
writes. -/

namespace Sys2Proof.Machine

/-- The source code of a party, as `OWNER` of R259. -/
def partyCode : Party → Nat
  | .node => 1
  | .rcA => 2
  | .rcB => 3
  | .signalBox => 4

/-- The fault source of a party (R417). -/
def partySource : Party → Nat
  | .node => 0x0400
  | .rcA => 0x0510
  | .rcB => 0x0511
  | .signalBox => 0x0700

/-- Does an offset lie in a block of the WORKS domain (R37)? -/
def inWorks (off : Nat) : Bool :=
  decide (0x08000000 ≤ off ∧ off < 0x0A000000) || decide (0x10000000 ≤ off ∧ off < 0x50000000)
    || decide (0x80000000 ≤ off ∧ off < 0x88000000)

/-- The active controller: 0 RC-A, 1 RC-B (R264). -/
def State.rcActive (s : State) : Nat := s.fget R.RC_STATUS_ACTIVE

/-- The fault and event source of the active controller (R264, R417). -/
def State.rcSource (s : State) : Nat := 0x0510 + s.rcActive

/-- Status of an access to an offset of the control space before its register is reached (R33, R36): 0 OK, 1 ADDRESS_ERROR,
2 TARGET_IN_RESET. While LINE is in reset nothing is reached. -/
def State.accessStatus (s : State) (off : Nat) : Nat :=
  if (findReg (off - off % 8)).isNone then 1 else if s.dom.lineRst ∨ (inWorks off ∧ s.dom.worksRst = true) then 2 else 0

/-- A write refused under R17 by a register without an error status of its own (R40). -/
def State.csrRefuse (s : State) (src : Party) (off : Nat) : State :=
  let s := s.bump R.CSR_REFUSE_EVENTS_REFUSED R.CSR_REFUSE_EVENTS_REFUSED_OVF
  if s.flag R.CSR_REFUSE_VALID then s
  else s.csrPut R.CSR_REFUSE (BitVec.ofNat 64 (partyCode src * 2 ^ 60 + 2 ^ 32 + off))

/-- A write to a register by a party: refused while its block is in reset, else as the register describes (R33, R39). -/
def State.regCmd (s : State) (off : Nat) (body : State → State) : State :=
  if s.accessStatus off = 0 then body s else s

/-- The field that holds the state of controller `x` (R273). -/
def rcStateFld (x : Nat) : Fld := if x = 0 then R.RC_STATUS_STATE_A else R.RC_STATUS_STATE_B
/-- The state of controller `x` (R264): 0 OFF, 1 SELFTEST, 2 SYNCING, 3 STANDBY, 4 ACTIVE, 5 FENCED, 6 FAILED. -/
def State.rcState (s : State) (x : Nat) : Nat := s.fget (rcStateFld x)

/-- Is a bit of a FENCE_UNITS field set (R453)? -/
def State.unitFenced (s : State) (f : Fld) (i : Nat) : Bool := nbit (s.fget f) i == 1

/-- Is a controller cut off: FENCED, or in the unit reset of its fence, or FAILED on a fenced die (R437, R440)? -/
def State.rcCut (s : State) (x : Nat) : Bool := s.rcState x == 5 || s.unitFenced R.FENCE_UNITS_RC x

/-- May a party send accesses now: a controller that is off or fenced (R262, R437), and the signal box in reset, send none. -/
def State.partyUp (s : State) (src : Party) : Bool :=
  match src with
  | .node => true
  | .rcA => !s.dom.worksRst && s.rcState 0 != 0 && !s.rcCut 0
  | .rcB => !s.dom.worksRst && s.rcState 1 != 0 && !s.rcCut 1
  | .signalBox => !s.dom.signalRst

/-- An access of a party: cut where it may send none. -/
def State.byParty (s : State) (src : Party) (f : State → State) : State := if s.partyUp src then f s else s

/-! ## Work resources (R33, R36, R439) -/

/-- Does an address lie in a fenced target's memory (R439)? -/
def State.fencedAddr (s : State) (a : Nat) : Bool :=
  match locOf a with
  | .md n _ | .ws n _ => s.unitFenced R.FENCE_UNITS_MD n
  | .sp l _ =>
    match s.physOf l with
    | some p => s.tileState p == 5
    | none => false
  | _ => false

/-- Status of an access to memory bytes [a, a + n) before they are read or written: 0 OK, 1 ADDRESS_ERROR, 2 TARGET_IN_RESET,
9 TARGET_FENCED (R310). The control space is no memory (R39). -/
def State.memStatus (s : State) (a n : Nat) : Nat :=
  if roomFrom a < n ∨ roomFrom a = 0 then 1
  else if s.dom.worksRst then 2
  else if s.fencedAddr a then 9
  else if !s.addrOk a n then 1
  else 0

/-- Read bytes until one cannot be delivered: all of them, or the address of the first that reads UNCORRECTABLE (R171). -/
def State.readUntil (s : State) (rq : Rq) (a : Nat) : Nat → Except Nat (List Byte) × State
  | 0 => (.ok [], s)
  | n + 1 =>
    match s.readWork rq a with
    | (none, s) => (.error a, s)
    | (some b, s) =>
      match s.readUntil rq (a + 1) n with
      | (.ok t, s) => (.ok (b :: t), s)
      | (.error e, s) => (.error e, s)

/-- Read memory for a requester: its bytes, or a status and the address that failed; a refused access is reported (R36, R310). -/
def State.memRead (s : State) (rq : Rq) (a n : Nat) : Except (Nat × Nat) (List Byte) × State :=
  match s.memStatus a n with
  | 0 =>
    match s.readUntil rq a n with
    | (.ok l, s) => (.ok l, s)
    | (.error e, s) => (.error (3, e), s)
  | 1 => (.error (1, a), s.addrFault rq.src (s.globalAddr a) 1)
  | c => (.error (c, a), s)

/-- Write memory for a requester: a status, with the address refused. -/
def State.memWrite (s : State) (src a : Nat) (l : List Byte) : Nat × State :=
  match s.memStatus a l.length with
  | 0 => if s.chDead a then (3, s) else (0, s.writeBytes a l)
  | 1 => (1, s.addrFault src (s.globalAddr a) 1)
  | c => (c, s)

end Sys2Proof.Machine
end

