-- ==== Sys2Proof/Machine/Mailbox.lean ====
section
/-! DEFINITION. Mailboxes, doorbells and tokens (R246-R263), and the services of the active controller (R252, R253) but those that
move the active role. -/

namespace Sys2Proof.Machine

/-! ## The runtime controllers' states (R264) -/

/-- The active controller serves: it runs, WORKS is out of reset, and S5 is reached (R456). -/
def State.rcServes (s : State) : Bool := s.rcState s.rcActive == 4 && !s.dom.worksRst && decide (5 ≤ s.boot.stage)
/-- Is a party the active controller? -/
def State.isActive (s : State) (src : Party) : Bool := src == (if s.rcActive = 0 then Party.rcA else Party.rcB)

/-- A register access with a status of R198, refused before the register by R33 and R36. -/
def State.regCmdSt (s : State) (off : Nat) (body : State → Nat × State) : Nat × State :=
  match s.accessStatus off with
  | 0 => body s
  | c => (c, s)

/-! ## Registers (R254) -/

/-- Offset of the registers of direction `dir` of mailbox `n`. -/
def mqOff (n dir : Nat) : Nat := 0x1000 * n + 0x800 * dir
/-- May a party send (R246)? -/
def State.mqSends (s : State) (dir : Nat) (src : Party) : Bool :=
  if dir = 0 then src == .node || src == .signalBox else s.isActive src
/-- May a party receive (R246)? -/
def State.mqReceives (s : State) (dir : Nat) (src : Party) : Bool :=
  if dir = 0 then s.isActive src else src == .node || src == .signalBox
/-- PENDING. -/
def State.mqPending (s : State) (n dir : Nat) : Bool := s.flag (R.MQ_STATUS_PENDING.at (mqOff n dir))
/-- WORDS. -/
def State.mqWords (s : State) (n dir : Nat) : Nat := s.fget (R.MQ_STATUS_WORDS.at (mqOff n dir))
/-- Offset of `MQ_WORD`i. -/
def mqWord (n dir i : Nat) : Nat := R.MQ_WORD + mqOff n dir + 8 * i
/-- The words in a queue. -/
def State.mqList (s : State) (n dir : Nat) : List Word := (List.range (s.mqWords n dir)).map fun i => s.csrGet (mqWord n dir i)

/-- The queue is emptied: `MQ_WORD`i reads 0 (R251). -/
def State.mqEmpty (s : State) (n dir : Nat) : State :=
  ((List.range 16).foldl (fun s i => s.csrPut (mqWord n dir i) 0) s).fset (R.MQ_STATUS_WORDS.at (mqOff n dir)) 0

/-! ## Doorbells (R256, R257) -/

/-- The event of doorbell `i` (16 to 31), from the present state of its mailbox (R274). -/
def State.dbEvent (s : State) (i : Nat) : State :=
  let n := i % 8
  if i < 24 then
    let w := (s.mqList n 1).take 4
    s.event (0x0500 + n) 0x0880 (leBytes 1 n ++ leBytes 1 (s.mqWords n 1) ++ leBytes 2 (s.fget (R.MQ_STATUS_MSG_SEQ.at (mqOff n 1)))
      ++ (List.range 4).flatMap fun k => leBytes 8 (w.getD k 0).toNat)
  else
    s.event (0x0500 + n) 0x0881 (leBytes 1 n ++ [0] ++ leBytes 2 (s.fget (R.MQ_STATUS_LAST_SEQ.at (mqOff n 0)))
      ++ leBytes 2 (s.fget (R.MQ_STATUS_LAST_CODE.at (mqOff n 0))))

/-- A doorbell is set (R257). -/
def State.ringDb (s : State) (i : Nat) : State :=
  let s := s.fset R.DB_PEND_PEND (s.fget R.DB_PEND_PEND ||| 2 ^ i)
  if 16 ≤ i ∧ nbit (s.fget R.DB_MASK_MASK) i = 0 then s.dbEvent i else s

/-- The doorbell interrupt of the active controller: asserted while any of DB0 to DB15 is pending and unmasked (R255, R257). -/
def State.dbInterrupt (s : State) : Bool :=
  (List.range 16).any fun i => nbit (s.fget R.DB_PEND_PEND) i == 1 && nbit (s.fget R.DB_MASK_MASK) i == 0

/-- A write of `DB_MASK`: each doorbell 16 to 31 that is pending and loses its mask sends an event (R257). -/
def State.writeDbMask (s : State) (v : Nat) : State :=
  let old := s.fget R.DB_MASK_MASK
  let s := s.fset R.DB_MASK_MASK v
  ((List.range 32).filter fun i =>
    decide (16 ≤ i) && nbit old i == 1 && nbit v i == 0 && nbit (s.fget R.DB_PEND_PEND) i == 1).foldl (fun s i => s.dbEvent i) s

/-- `DB_MASK`. -/
def execDbMask (src : Party) (v : BitVec 64) (s : State) : Res := .next (s.byParty src fun s => s.regCmd R.DB_MASK (·.writeDbMask (v.toNat % 2 ^ 32)))

/-! ## Messages (R247-R250) -/

/-- A word is pushed, or dropped. -/
def State.mqPushWord (s : State) (n dir : Nat) (w : Word) : State :=
  let o := mqOff n dir
  if s.mqPending n dir ∨ s.mqWords n dir ≥ 16 then
    (s.fset (R.MQ_STATUS_PUSH_ERR.at o) 1).bump (R.MQ_EVENTS2_PUSH_DROP.at o) (R.MQ_STATUS_DROP_OVF.at o)
  else
    let k := s.mqWords n dir
    (s.csrPut (mqWord n dir k) w).fset (R.MQ_STATUS_WORDS.at o) (k + 1)

/-- A write of `MQ_PUSH`. -/
def State.mqPush (s : State) (n dir : Nat) (src : Party) (w : Word) : Nat × State :=
  if s.mqSends dir src then (0, s.mqPushWord n dir w) else (7, s)

/-- The message in the queue is sent: MSG_SEQ, PENDING, SENT, the receiver's doorbell. -/
def State.mqSendOk (s : State) (n dir : Nat) : State :=
  let o := mqOff n dir
  let s := (s.wrap (R.MQ_STATUS_MSG_SEQ.at o)).fset (R.MQ_STATUS_PENDING.at o) 1
  let s := s.bump (R.MQ_EVENTS_SENT.at o) (R.MQ_STATUS_SENT_OVF.at o)
  s.ringDb (if dir = 0 then n else 16 + n)

/-- A write of SEND. -/
def State.mqSend (s : State) (n dir : Nat) (src : Party) : Nat × State :=
  let o := mqOff n dir
  if !s.mqSends dir src then (7, s)
  else if s.mqWords n dir = 0 ∨ s.mqPending n dir ∨ s.flag (R.MQ_STATUS_PUSH_ERR.at o) then (0, s.fset (R.MQ_STATUS_SEND_ERR.at o) 1)
  else (0, s.mqSendOk n dir)

/-- Unsent words go, and PUSH_ERR clears. -/
def State.mqDrop (s : State) (n dir : Nat) : State :=
  (if s.mqPending n dir then s else s.mqEmpty n dir).fset (R.MQ_STATUS_PUSH_ERR.at (mqOff n dir)) 0

/-- A write of DISCARD. -/
def State.mqDiscard (s : State) (n dir : Nat) (src : Party) : Nat × State :=
  if s.mqSends dir src then (0, s.mqDrop n dir) else (7, s)

/-- The firmware sends the next reply that waits, once its outbound mailbox is free (R252). -/
def State.mqReply (s : State) (n : Nat) : State :=
  match vget [] s.replies n with
  | w :: t =>
    if s.mqPending n 1 ∨ !s.rcServes then s
    else
      let s := { s with replies := vput s.replies n t }
      (w.foldl (fun s x => s.mqPushWord n 1 x) (s.mqDrop n 1)).mqSendOk n 1
  | [] => s

/-- The effects of an accepted acknowledge (R249). -/
def State.mqAcked (s : State) (n dir code : Nat) : State :=
  let o := mqOff n dir
  let s := (s.mqEmpty n dir).fset (R.MQ_STATUS_PENDING.at o) 0
  let s := s.fset (R.MQ_STATUS_LAST_SEQ.at o) (s.fget (R.MQ_STATUS_MSG_SEQ.at o))
  let s := (s.fset (R.MQ_STATUS_LAST_CODE.at o) code).fset (R.MQ_STATUS_ACKED.at o) 1
  let s := s.ringDb (if dir = 0 then 24 + n else 8 + n)
  if dir = 1 then s.mqReply n else s

/-- A write of `MQ_ACK` (R249). -/
def State.mqAck (s : State) (n dir : Nat) (src : Party) (seq code : Nat) : Nat × State :=
  let o := mqOff n dir
  if !s.mqReceives dir src then (7, s)
  else if s.mqPending n dir ∧ seq = s.fget (R.MQ_STATUS_MSG_SEQ.at o) ∧ code < 0xFF00 then (0, s.mqAcked n dir code)
  else (0, s.bump (R.MQ_EVENTS2_STALE_ACK.at o) (R.MQ_STATUS_STALE_OVF.at o))

/-- `MQ_PUSH`. -/
def execMqPush (n : Fin 8) (dir : Fin 2) (src : Party) (w : BitVec 64) (s : State) : Res :=
  .next (s.byParty src fun s => (s.regCmdSt (R.MQ_PUSH + mqOff n.val dir.val) (·.mqPush n.val dir.val src w)).2)

/-- `SEND`. -/
def execSend (n : Fin 8) (dir : Fin 2) (src : Party) (s : State) : Res :=
  .next (s.byParty src fun s => (s.regCmdSt (R.MQ_CTL + mqOff n.val dir.val) (·.mqSend n.val dir.val src)).2)

/-- `DISCARD`. -/
def execDiscard (n : Fin 8) (dir : Fin 2) (src : Party) (s : State) : Res :=
  .next (s.byParty src fun s => (s.regCmdSt (R.MQ_CTL + mqOff n.val dir.val) (·.mqDiscard n.val dir.val src)).2)

/-- `MQ_ACK`. -/
def execMqAck (n : Fin 8) (dir : Fin 2) (src : Party) (seq code : BitVec 16) (s : State) : Res :=
  .next (s.byParty src fun s => (s.regCmdSt (R.MQ_ACK + mqOff n.val dir.val) (·.mqAck n.val dir.val src seq.toNat code.toNat)).2)

/-- `ACK_TIMEOUT`: the timer of a pending message expires (R250). -/
def execAckTimeout (n : Fin 8) (dir : Fin 2) (s : State) : Res :=
  .next (
    if s.mqPending n.val dir.val ∧ s.dom.worksRst = false then
      let o := mqOff n.val dir.val
      let s := (s.fset (R.MQ_STATUS_TIMEOUT.at o) 1).bump (R.MQ_EVENTS_TIMEOUTS.at o) (R.MQ_STATUS_TIMEOUTS_OVF.at o)
      let s := s.report (0x0500 + n.val) .mbxTimeout (65536 * dir.val + s.fget (R.MQ_STATUS_MSG_SEQ.at o)) 0
      s.mqAcked n.val dir.val 0xFFFF
    else s)

/-! ## Services (R252, R253) -/

/-- SERVICE of an inbound message. -/
def State.mqService (s : State) (n : Nat) : Nat := nbits (s.csrGet (mqWord n 0 0)).toNat 63 48

/-- Is a listed message outside R252: a reserved bit, or words the service does not take? -/
def State.mqBadArgs (s : State) (n : Nat) : Bool :=
  nbits (s.csrGet (mqWord n 0 0)).toNat 47 32 != 0 || (s.mqService n != 2 && s.mqWords n 0 != 1)

/-- The active controller takes the inbound message of a mailbox if its service is one of this row. -/
def State.serve (s : State) (n : Nat) (mine : Nat → Bool) (body : State → State) : State :=
  if s.rcServes ∧ s.mqPending n 0 ∧ mine (s.mqService n) then body s else s

/-- A listed service: BAD_ARGS, or its effect. -/
def State.serveListed (s : State) (n svc : Nat) (body : State → State) : State :=
  s.serve n (· == svc) fun s => if s.mqBadArgs n then s.mqAcked n 0 0x0802 else body s

/-- `PING`. -/
def execPing (n : Fin 8) (s : State) : Res := .next (s.serveListed n.val 1 fun s => s.mqAcked n.val 0 0)

/-- `ECHO`: the words come back in an outbound message. -/
def execEcho (n : Fin 8) (s : State) : Res :=
  .next (s.serveListed n.val 2 fun s =>
    let w := s.mqList n.val 0
    let s := s.mqAcked n.val 0 0
    ({ s with replies := vmod s.replies n.val (· ++ [w]) }).mqReply n.val)

/-- `UNKNOWN_SERVICE`: a service that R252 does not list. Where a reserved bit is set too, the manual does not say which of the two
codes comes first: a free value chooses (log entry 12). -/
def execUnknownService (n : Fin 8) (s : State) : Res :=
  .next (s.serve n.val (fun v => v == 0 || decide (4 < v)) fun s =>
    if nbits (s.csrGet (mqWord n.val 0 0)).toNat 47 32 = 0 then s.mqAcked n.val 0 0x0801
    else
      let (v, s) := s.draw
      s.mqAcked n.val 0 (if v.getLsbD 0 then 0x0801 else 0x0802))

/-! ## Tokens (R259-R263) -/

/-- A read of token `k` by a party: the word returned, and the state after it (R260). -/
def State.tokenTake (s : State) (src : Party) (k : Nat) : Word × State :=
  let at_ := fun (f : Fld) => f.at (8 * k)
  if s.flag (at_ R.TOKEN_HELD) then (BitVec.ofNat 64 (32 + s.fget (at_ R.TOKEN_OWNER)), s)
  else
    (BitVec.ofNat 64 (128 + 64 * s.fget (at_ R.TOKEN_BROKEN) + 32 + partyCode src),
      s.csrPut (R.TOKEN + 8 * k) (BitVec.ofNat 64 (32 + partyCode src)))

/-- `TOKEN_TAKE`. -/
def execTokenTake (k : Fin 64) (src : Party) (s : State) : Res :=
  .next (s.byParty src fun s => s.regCmd (R.TOKEN + 8 * k.val) fun s =>
    let (w, s) := s.tokenTake src k.val
    { s with rdata := vput s.rdata (partyCode src - 1) w })

/-- A write of `TOKEN_REL` (R261). -/
def State.tokenRel (s : State) (src : Party) (k : Nat) : Nat × State :=
  let at_ := fun (f : Fld) => f.at (8 * k)
  if s.flag (at_ R.TOKEN_HELD) ∧ s.fget (at_ R.TOKEN_OWNER) = partyCode src then (0, s.csrPut (R.TOKEN + 8 * k) 0) else (7, s)

/-- `TOKEN_REL`. -/
def execTokenRel (src : Party) (k : Fin 64) (s : State) : Res := .next (s.byParty src fun s => (s.regCmdSt R.TOKEN_REL (·.tokenRel src k.val)).2)

/-- The tokens of an owner are released without it (R262). -/
def State.tokensForced (s : State) (owner : Nat) : State :=
  (List.range 64).foldl (fun s k =>
    let at_ := fun (f : Fld) => f.at (8 * k)
    if s.flag (at_ R.TOKEN_HELD) ∧ s.fget (at_ R.TOKEN_OWNER) = owner then
      (s.csrPut (R.TOKEN + 8 * k) 64).bump R.TOKEN_EVENTS_FORCED R.TOKEN_EVENTS_FORCED_OVF
    else s) s

end Sys2Proof.Machine
end

