-- ==== Sys2Proof/Machine/Dwente.lean ====
section
/-! DEFINITION. The Dwente port (R186-R212): codewords, flits and their checks, link-level retry, credits, bring-up, resume and fresh start,
events, and the stream lane. -/

namespace Sys2Proof.Machine

/-! ## Lanes -/

/-- A lane: 0 CL, 1 SL. -/
def State.lane (s : State) (l : Nat) : DwLane := vget .reset s.dw.lanes l
/-- The state with a lane replaced. -/
def State.setLane (s : State) (l : Nat) (x : DwLane) : State := { s with dw := { s.dw with lanes := vput s.dw.lanes l x } }
/-- STATE of a lane: 0 OFF, 1 ACQUIRE, 2 LOCKED, 3 INIT, 4 UP, 5 HELD (R212). -/
def State.laneState (s : State) (l : Nat) : Nat := s.fget (R.DW_LANE_STATUS_STATE.at (laneOff l))
/-- Set STATE. -/
def State.setLaneState (s : State) (l v : Nat) : State := s.fset (R.DW_LANE_STATUS_STATE.at (laneOff l)) v
/-- Is a lane enabled (R212)? -/
def State.laneEn (s : State) (l : Nat) : Bool := s.flag (if l = 0 then R.DW_CTL_EN_CL else R.DW_CTL_EN_SL)
/-- Does a lane's receiver hold codeword lock? -/
def State.laneLocked (s : State) (l : Nat) : Bool := decide (2 ≤ s.laneState l) && s.laneEn l && !s.dom.lineRst
/-- Transmit credits of a class (R212). -/
def txCredit (l c : Nat) : Fld :=
  (match c with
    | 0 => R.DW_LANE_CREDIT_TX0
    | 1 => R.DW_LANE_CREDIT_TX1
    | 2 => R.DW_LANE_CREDIT_TX2
    | _ => R.DW_LANE_CREDIT_TX3).at (laneOff l)
/-- Receive credits the N8 advertises (R194, R204). -/
def rxAdvert (l c : Nat) : Nat :=
  if l = 0 then (match c with | 0 => 16 | 1 => 64 | 2 => 64 | _ => 16) else if c = 0 then 64 else 0

/-! ## Flits (R190, R191) -/

/-- The bytes of a flit, byte 0 first. -/
def flitBytes (f : FlitIn) : List Byte := leBytes 64 f.bits.toNat
/-- The header word. -/
def flitHdr (f : FlitIn) : Nat := f.bits.toNat % 2 ^ 64
/-- Body byte `k` upward, `n` of them, as a little-endian number. -/
def bodyNat (f : FlitIn) (k n : Nat) : Nat := f.bits.toNat / 2 ^ (64 + 8 * k) % 2 ^ (8 * n)
/-- TYPE. -/
def fType (f : FlitIn) : Nat := nbits (flitHdr f) 63 60
/-- CLASS. -/
def fClass (f : FlitIn) : Nat := nbits (flitHdr f) 59 58
/-- LAST. -/
def fLast (f : FlitIn) : Bool := nbit (flitHdr f) 57 == 1
/-- FSEQ. -/
def fSeq (f : FlitIn) : Nat := nbits (flitHdr f) 55 44
/-- ACKSEQ. -/
def fAck (f : FlitIn) : Nat := nbits (flitHdr f) 43 32
/-- TAG. -/
def fTag (f : FlitIn) : Nat := nbits (flitHdr f) 23 16
/-- LEN. -/
def fLen (f : FlitIn) : Nat := nbits (flitHdr f) 15 10
/-- Is the CRC of a flit good? -/
def crcGood (f : FlitIn) : Bool := crc32c ((flitBytes f).take 60) == BitVec.ofNat 32 (f.bits.toNat / 2 ^ 480)
/-- A reserved type, a LEN above 52, a reserved bit, or a type or class that its lane does not carry (R191, R192). -/
def flitBad (l : Nat) (f : FlitIn) : Bool :=
  let t := fType f
  t == 0xF || decide (fLen f > 52) || nbit (flitHdr f) 56 != 0 || nbits (flitHdr f) 9 0 != 0
    || (if l = 0 then decide (12 ≤ t) || t == 3 || t == 7 || t == 9 || t == 10
        else fClass f != 0 || !(t == 0 || t == 0xB || t == 0xC || t == 0xD || t == 0xE))
/-- Non-posted requests (R192). -/
def nonPosted (t : Nat) : Bool := t == 1 || t == 2 || t == 6 || t == 8
/-- A type of message that R196 does not allow the node in TC0. -/
def tc0Bad (f : FlitIn) : Bool := !(fType f == 2 || fType f == 4 || fType f == 5)

/-- A flit as the N8 sends it. -/
def flitBits (o : OutFlit) (seq ack crClass crCount : Nat) : BitVec 512 :=
  let hdr := o.type * 2 ^ 60 + o.cls * 2 ^ 58 + (if o.last then 2 ^ 57 else 0) + seq * 2 ^ 44 + ack * 2 ^ 32 + crClass * 2 ^ 30
    + crCount * 2 ^ 24 + o.tag * 2 ^ 16 + o.len * 2 ^ 10
  let body := leBytes 8 hdr ++ leBytes 52 (leNat (o.body.take 52))
  BitVec.ofNat 512 (leNat body + (crc32c body).toNat * 2 ^ 480)

/-! ## Sending -/

/-- The `ACKSEQ` the N8 reports: the last FSEQ delivered in order, 0xFFF if none (R190). -/
def DwLane.ackSeq (x : DwLane) : Nat := if x.rxAny then (x.rxExp + 0xFFF) % 0x1000 else 0xFFF

/-- Take the credits to return in a header: class and count, at most 63 (R190, R194). -/
def DwLane.takeCredits (x : DwLane) : Nat × Nat × DwLane :=
  match (List.range 4).find? (fun c => vget 0 x.retCred c != 0) with
  | some c =>
    let n := min 63 (vget 0 x.retCred c)
    (c, n, { x with retCred := vmod x.retCred c (· - n), rxCred := vmod x.rxCred c (· + n) })
  | none => (0, 0, x)

/-- Ten flits as one number, the first in the lowest bits. -/
def joinFlits : List (BitVec 512) → Nat
  | [] => 0
  | f :: t => f.toNat + joinFlits t * 2 ^ 512

/-- A flit joins the codeword being filled. The tenth sends it, under the tag of R188: sync pattern, lane and the wrapping count. -/
def DwLane.intoWord (x : DwLane) (l : Nat) (bits : BitVec 512) : DwLane :=
  if x.cwFlits.length < 9 then { x with cwFlits := x.cwFlits ++ [bits] }
  else { x with cwFlits := [], cwCount := (x.cwCount + 1) % 2048
                lastCw := cwOf (0xB4 * 2 ^ 12 + l * 2 ^ 11 + x.cwCount) (joinFlits (x.cwFlits ++ [bits])) }

/-- A flit leaves a lane under a sequence number, with ACKSEQ and the credits it returns. -/
def State.putFlit (s : State) (l : Nat) (o : OutFlit) (seq : Nat) : State :=
  let (cc, cn, x) := (s.lane l).takeCredits
  let bits := flitBits o seq x.ackSeq cc cn
  let x := x.intoWord l bits
  s.setLane l (if o.type = 0xB ∨ o.type = 0 then { x with lastLink := bits } else { x with lastFlit := bits })

/-- A new flit leaves a lane. Every flit but IDLE takes the next FSEQ and stays in the replay buffer; LINK flits leave also where the
buffer is full (R193), and are kept beyond its 1,024 flits, so that every FSEQ can be sent again (DESIGN CHOICE: log entry 196). -/
def State.sendFlit (s : State) (l : Nat) (o : OutFlit) : State :=
  let x := s.lane l
  if o.type = 0 then s.putFlit l o 0
  else
    (s.setLane l { x with txSeq := (x.txSeq + 1) % 0x1000
                          replay := x.replay ++ [(x.txSeq, o)] }).putFlit l o x.txSeq

/-- A LINK flit of a subtype and body (R208). -/
def linkFlit (sub : Nat) (rest : List Byte) : OutFlit := ⟨0xB, 0, true, 0, 1 + rest.length, BitVec.ofNat 8 sub :: rest, none⟩

/-- The body of an event flit (R197). -/
def DwEvent.body (e : DwEvent) : List Byte :=
  leBytes 4 e.seq ++ leBytes 2 e.source ++ leBytes 2 e.code ++ leBytes 8 e.rtime ++ (e.detail ++ List.replicate 36 0).take 36

/-- The next event to send, as it is sent: after a loss it carries `EVT_GAP` (R201, R202). -/
def State.nextEvent (s : State) : Option (DwEvent × State) :=
  let sent := fun (e : DwEvent) (dw : Dw) =>
    let e' := if dw.evDrop = 0 then e else
      { e with source := 0x0400, code := 0x0680, detail := leBytes 4 (dw.evDrop + 1) ++ leBytes 2 e.code ++ leBytes 2 e.source }
    (e', { s with dw := { dw with evDrop := 0, evSent := dw.evSent ++ [e'] } })
  match s.dw.freshEv, s.dw.evq with
  | e :: t, _ => some (sent e { s.dw with freshEv := t })
  | [], e :: t => some (sent e { s.dw with evq := t })
  | [], [] => none

/-- Send one flit of a class from its queue, or an event of class TC1 (R195; log entry 5); none where nothing can go. -/
def State.sendClass (s : State) (l c : Nat) : Option State :=
  let x := s.lane l
  let spend := fun (s : State) => if l = 0 then s.fset (txCredit 0 c) (s.fget (txCredit 0 c) - 1) else s
  if (l = 0 ∧ s.fget (txCredit 0 c) = 0) ∨ x.replay.length ≥ 1024 then none
  else
    match vget [] x.txq c with
    | o :: t =>
      let rr := if c ≠ 0 ∧ o.last then c % 3 + 1 else x.rr
      some (spend ((s.setLane l { x with txq := vput x.txq c t, rr := rr }).sendFlit l o))
    | [] =>
      if l = 0 ∧ c = 1 then
        match s.nextEvent with
        | some (e, s) => some (spend ((s.setLane 0 { s.lane 0 with rr := 2 }).sendFlit 0 ⟨0xA, 1, true, 0, 52, e.body, some e⟩))
        | none => none
      else none

/-- The first class of a list that can send. -/
def State.sendFirst (s : State) (l : Nat) : List Nat → Option State
  | [] => none
  | c :: t =>
    match s.sendClass l c with
    | some s => some s
    | none => s.sendFirst l t

/-- The next flit due to go out again, under its old FSEQ; counted in REPLAY (R193). -/
def State.resendOne (s : State) (l : Nat) : Option State :=
  let x := s.lane l
  match x.resendQ with
  | [] => none
  | (seq, o) :: t =>
    some (((s.setLane l { x with resendQ := t, resent := resentOnce x.resent seq }).putFlit l o seq).bump (R.DW_LANE_EVENTS2_REPLAY.at (laneOff l))
      (R.DW_LANE_FLAGS_REPLAY_OVF.at (laneOff l)))

/-- Send waiting flits in the priority of R195 while a lane is UP, those being resent first; the fuel bounds the flits of one pass. -/
def State.pumpLane (s : State) (l : Nat) : Nat → State
  | 0 => s
  | n + 1 =>
    if s.laneState l ≠ 4 then s
    else
      let r := (s.lane l).rr
      match s.resendOne l with
      | some s => s.pumpLane l n
      | none =>
        match s.sendFirst l [0, r, r % 3 + 1, (r + 1) % 3 + 1] with
        | some s => s.pumpLane l n
        | none => s

/-- Both lanes send what they can. -/
def State.pump (s : State) : State := (s.pumpLane 0 2048).pumpLane 1 2048

/-- Bodies of at most 52 bytes. -/
def chunk52 : Nat → List Byte → List (List Byte)
  | 0, _ => []
  | n + 1, l => if l.length ≤ 52 then [l] else l.take 52 :: chunk52 n (l.drop 52)

/-- A message joins the queue of its class: one flit per body. -/
def State.enqueue (s : State) (l type cls tag : Nat) (bodies : List (List Byte)) : State :=
  let x := s.lane l
  let k := bodies.length
  let fl := bodies.zipIdx.map fun (b, i) => (⟨type, cls, decide (i + 1 = k), tag, b.length, b, none⟩ : OutFlit)
  s.setLane l { x with txq := vmod x.txq cls (· ++ fl) }

/-- A response to a request on CL, whose class and tag it carries (R192). -/
def State.respond (s : State) (f : FlitIn) (type : Nat) (bodies : List (List Byte)) : State :=
  s.enqueue 0 type (fClass f) (fTag f) bodies

/-- `CSR_RSP` (R197). -/
def csrRsp (status : Nat) (data : Word) : List Byte :=
  leBytes 1 status ++ List.replicate 7 0 ++ leBytes 8 (if status = 0 then data.toNat else 0)

/-- The answer MALFORMED to a non-posted request (R191, R196). -/
def State.malformed (s : State) (f : FlitIn) : State :=
  match fType f with
  | 1 | 2 => s.respond f 3 [csrRsp 4 0]
  | 6 => s.respond f 7 [leBytes 24 (0x80 + 4 * 2 ^ 48)]
  | 8 => s.respond f 9 [[4]]
  | _ => s

/-! ## Lane down (R209, R210) -/

/-- A lane goes down with a cause of R202, and the down is reported (R210); `locked` tells whether codeword lock remains. A held lane
stays held until the next lock (R208), and a lane without lock is down already: they only note that FRESH was asked for. -/
def State.laneDown (s : State) (l cause : Nat) (locked : Bool) : State :=
  if s.laneState l < 2 ∨ (s.laneState l = 5 ∧ locked = true) then
    s.setLane l { s.lane l with askFresh := (s.lane l).askFresh || cause == 4 }
  else
    let s := s.bump (R.DW_LANE_STATUS_LANE_DOWNS.at (laneOff l)) (R.DW_LANE_FLAGS_DOWNS_OVF.at (laneOff l))
    let s := s.setLaneState l (if locked then 2 else 1)
    let x := s.lane l
    let s := s.setLane l { x with downAt := s.rtime, downCause := cause, initRx := false, ackRx := false, awaitSeq := false,
                                  badRun := 0, askFresh := x.askFresh || cause == 4, reported := true, resendQ := [] }
    s.report (0x0400 + l) .laneDown l 0

/-- A lane is UP: both sides know by then of a fresh start that this one asked for. -/
def State.laneUp (s : State) (l : Nat) : State :=
  let s := (s.setLaneState l 4).fset (R.DW_LANE_STATUS_HELD_CAUSE.at (laneOff l)) 0
  let x := s.lane l
  let s := s.setLane l { x with reported := false, askFresh := false }
  if x.reported then s.report (0x0400 + l) .laneDown l 0 true else s

/-- Give up unless both sides' INIT and INIT_ACK arrived (R208). -/
def State.tryUp (s : State) (l : Nat) : State :=
  let x := s.lane l
  if x.initRx ∧ x.ackRx ∧ s.laneState l ≠ 5 ∧ s.laneState l ≠ 4 then s.laneUp l else s

/-- The tags of codewords that all decode and carry a sync pattern, and whether each was corrected. -/
def cwTags (sync : Nat) : List (BitVec 5440) → Option (List (Nat × Bool))
  | [] => some []
  | w :: t =>
    match cwTag sync w, cwTags sync t with
    | some x, some l => some (x :: l)
    | _, _ => none

/-- Do tags carry consecutive 11-bit counts? -/
def countsRun : List (Nat × Bool) → Bool
  | a :: b :: t => (b.1 % 2048 == (a.1 + 1) % 2048) && countsRun (b :: t)
  | _ => true

/-- `DW_LOCK`: lock after eight codewords that decode and carry the sync pattern and consecutive counts; those that were corrected count
(R189). -/
def execDwLock (l : Fin 2) (cws : List (BitVec 5440)) (s : State) : Res :=
  .next (
    if s.dom.lineRst ∨ !s.laneEn l.val ∨ s.laneState l.val ≥ 2 then s
    else
      match cwTags 0xB4 cws with
      | none => s
      | some ts =>
        if countsRun ts then
          let s := s.fset (R.DW_LANE_STATUS_LOS.at (laneOff l.val)) 0
          let s := s.traffic (R.DW_LANE_FEC_CORR_CW.at (laneOff l.val)) (ts.countP (·.2))
          (s.setLane l.val { s.lane l.val with badRun := 0 }).setLaneState l.val 2
        else s)

/-- `DW_LOCK_LOST`: ten bad codewords, or no light (R189). -/
def execDwLockLost (l : Fin 2) (dark : Bool) (s : State) : Res :=
  .next (
    if s.dom.lineRst then s
    else
      let s := if dark then s.fset (R.DW_LANE_STATUS_LOS.at (laneOff l.val)) 1 else s
      s.laneDown l.val 1 false)

/-- A codeword that fails to decode, or to carry the sync pattern, arrives on a lane: none of its flits is delivered, the former counts,
as does one that decodes with corrections, and the tenth of them in a row loses lock (R189). A flit of it that was being waited for is asked for again at the next gap. The flits
of a good codeword come as commands of their own. -/
def State.dwBadWord (s : State) (l : Nat) (cw : BitVec 5440) : State :=
  if !s.laneLocked l ∨ (cwTag 0xB4 cw).isSome then s
  else
    let s := if (rsDecode cw).isNone then s.bump (R.DW_LANE_EVENTS_UNCORR_CW.at (laneOff l)) (R.DW_LANE_FLAGS_UNCORR_OVF.at (laneOff l))
      else if (rsDecode cw).any (·.2) then s.traffic (R.DW_LANE_FEC_CORR_CW.at (laneOff l)) 1 else s
    let x := s.lane l
    if x.badRun + 1 ≥ 10 then s.laneDown l 1 false else s.setLane l { x with badRun := x.badRun + 1, awaitSeq := false }

/-! ## Receiving -/

/-- A flit is lost: RETRY names the next expected FSEQ, once the lane's INIT has arrived (R191, R193). -/
def State.sendRetry (s : State) (l : Nat) : State :=
  let x := s.lane l
  if s.laneState l ≠ 4 ∧ !x.initRx then s
  else (s.setLane l { x with awaitSeq := true }).sendFlit l (linkFlit 3 ([0, 0, 0] ++ leBytes 2 x.rxExp))

/-- A gap: RETRY goes out once, and the receiver discards flits until the FSEQ it named arrives (R193). -/
def State.askRetry (s : State) (l : Nat) : State := if (s.lane l).awaitSeq then s else s.sendRetry l

/-- Is FSEQ `a` at or before FSEQ `b` in a window of 2,048? -/
def seqLe (a b : Nat) : Bool := decide ((0x1000 + b - a) % 0x1000 < 0x800)

/-- The partner has every flit up to `a`: they leave the replay buffer, and their events are done (R193, R201). -/
def State.acked (s : State) (l a : Nat) : State :=
  let x := s.lane l
  let gone := x.replay.filter (fun e => seqLe e.1 a)
  if gone.isEmpty then s
  else
    let seqs := gone.filterMap (fun e => e.2.ev.map (·.seq))
    let s := s.setLane l { x with replay := x.replay.filter (fun e => !seqLe e.1 a)
                                  resendQ := x.resendQ.filter (fun e => !seqLe e.1 a)
                                  resent := x.resent.filter (fun e => !seqLe e.1 a) }
    { s with dw := { s.dw with evSent := s.dw.evSent.filter (fun e => !seqs.contains e.seq) } }

/-- What every flit with a good CRC carries in its header: acknowledgement and credits (R190), once the lane's INIT has arrived. -/
def State.takeHeader (s : State) (l : Nat) (f : FlitIn) : State :=
  if s.laneState l ≠ 4 ∧ !(s.lane l).initRx then s
  else
    let s := if fAck f = 0xFFF then s else s.acked l (fAck f)
    let c := if l = 0 then nbits (flitHdr f) 31 30 else 0
    let n := nbits (flitHdr f) 29 24
    if n = 0 then s else s.fset (txCredit l c) (min 0xFFFF (s.fget (txCredit l c) + n))

/-- PROTO_ERR. -/
def State.protoErr (s : State) (l : Nat) : State :=
  s.bump (R.DW_LANE_EVENTS2_PROTO_ERR.at (laneOff l)) (R.DW_LANE_FLAGS_PROTO_OVF.at (laneOff l))

/-- The corrected-codeword count that comes with a flit. -/
def State.fecNote (s : State) (l : Nat) (f : FlitIn) : State :=
  let s := s.setLane l { s.lane l with badRun := 0 }
  if f.corrected then s.traffic (R.DW_LANE_FEC_CORR_CW.at (laneOff l)) 1 else s

/-- Is a flit of the type and tag of the message being received in its class? -/
def RxMsg.isOf (m : RxMsg) (f : FlitIn) : Bool := m.type == fType f && m.tag == fTag f

/-- Was a flit of the same message discarded before? -/
def RxMsg.spoilt (m : RxMsg) (f : FlitIn) : Bool := (m.isOf f && m.bad) || m.broken == some (fType f, fTag f)

/-- The answer MALFORMED to a non-posted request of the control lane, once for a message (R191). -/
def State.refuseFlit (s : State) (l : Nat) (f : FlitIn) : State :=
  if l = 0 ∧ (vget none s.dw.rxMsg (fClass f)).all (fun m => !m.spoilt f) then s.malformed f else s

/-- A flit that was discarded breaks the message it belongs to: the rest of that message is dropped with it (R192; log entry 172). A
message of another type or tag that is being received goes on; a LINK flit belongs to no class. -/
def State.msgBroken (s : State) (l : Nat) (f : FlitIn) : State :=
  if l ≠ 0 ∨ fType f = 0xB then s
  else
    let m := match vget none s.dw.rxMsg (fClass f) with
      | some m =>
        if m.isOf f then (if fLast f then none else some { m with bad := true })
        else some { m with broken := if fLast f then none else some (fType f, fTag f) }
      | none => if fLast f then none else some (RxMsg.mk (fType f) (fTag f) [] 1 true none)
    { s with dw := { s.dw with rxMsg := vput s.dw.rxMsg (fClass f) m } }

/-- The FSEQ of a flit is taken (R193). -/
def State.takeSeq (s : State) (l : Nat) : State :=
  let x := s.lane l
  s.setLane l { x with rxExp := (x.rxExp + 1) % 0x1000, rxAny := true, awaitSeq := false }

/-- The credit a control-lane flit spends, and its return (R194): IDLE and LINK flits cost none, nor does a flit of the stream lane,
where a block does. False where the sender held none. -/
def State.takeCredit (s : State) (l : Nat) (f : FlitIn) : Bool × State :=
  let x := s.lane l
  let c := fClass f
  if l ≠ 0 ∨ fType f = 0xB then (true, s)
  else if vget 0 x.rxCred c = 0 then (false, s)
  else (true, s.setLane 0 { x with rxCred := vmod x.rxCred c (· - 1), retCred := vmod x.retCred c (· + 1) })

/-- Receive a flit on a lane. `mine` tells the types of this row; the result is true where the flit is delivered, in order, with a
credit and well formed (R191-R196). A flit of another type waits for its own row, and one seen before is dropped. Before the lane is UP only LINK and IDLE flits are
taken (R208); a flit with a bad header is counted and refused in every state. -/
def State.rxFlit (s : State) (l : Nat) (f : FlitIn) (mine : Nat → Bool) : Bool × State :=
  if !s.laneLocked l then (false, s)
  else if !crcGood f then
    let s := (s.fecNote l f).bump (R.DW_LANE_EVENTS_CRC_ERR.at (laneOff l)) (R.DW_LANE_FLAGS_CRC_OVF.at (laneOff l))
    (false, s.sendRetry l)
  else if !mine (fType f) ∧ !flitBad l f then (false, s)
  else
    let s := (s.fecNote l f).takeHeader l f
    if fType f = 0 then (if flitBad l f then (false, s.protoErr l) else (true, s))
    else if fSeq f ≠ (s.lane l).rxExp then (false, if seqLe (fSeq f) (s.lane l).rxExp then s else s.askRetry l)
    else if flitBad l f then (false, ((((s.takeSeq l).takeCredit l f).2.protoErr l).refuseFlit l f).msgBroken l f)
    else if s.laneState l ≠ 4 ∧ fType f ≠ 0xB then (false, s)
    else
      match (s.takeSeq l).takeCredit l f with
      | (true, s) => (true, s)
      | (false, s) => (false, (s.protoErr l).msgBroken l f)

/-- A delivered control-lane flit joins the message of its class; with LAST the whole message comes out, its body joined. A flit of
another type or tag begins a message of its own, and what stood before it is dropped. None while the message goes on, or where one of
its flits was discarded. A TC0 message that R196 does not allow is discarded and counted once, and refused where it is non-posted. -/
def State.gather (s : State) (f : FlitIn) : Option RxMsg × State :=
  let c := fClass f
  let m := match vget none s.dw.rxMsg c with
    | some m => if m.isOf f then m else ⟨fType f, fTag f, [], 0, m.spoilt f, none⟩
    | none => ⟨fType f, fTag f, [], 0, false, none⟩
  let m := { m with body := m.body ++ ((flitBytes f).drop 8).take (fLen f), flits := m.flits + 1 }
  let put := fun (x : Option RxMsg) => { s with dw := { s.dw with rxMsg := vput s.dw.rxMsg c x } }
  if !fLast f then (none, put (some m))
  else if m.bad then (none, put none)
  else if c = 0 ∧ (m.flits ≠ 1 ∨ tc0Bad f) then (none, ((put none).protoErr 0).malformed f)
  else (some m, put none)

/-- A control-lane message of type `t` arrives, flit by flit: `body` carries out the whole message and answers with what is then sent. -/
def State.clRow (s : State) (f : FlitIn) (t : Nat) (body : State → RxMsg → State) : State :=
  match s.rxFlit 0 f (· == t) with
  | (false, s) => s.pump
  | (true, s) =>
    match s.gather f with
    | (some m, s) => (body s m).pump
    | (none, s) => s.pump

/-- `IDLE`. -/
def execIdle (l : Fin 2) (f : FlitIn) (s : State) : Res := .next ((s.rxFlit l.val f (· == 0)).2).pump

/-! ## LINK flits (R193, R208, R209) -/

/-- INIT or INIT_ACK of the N8 (R208). -/
def State.initFlit (s : State) (l sub : Nat) : OutFlit :=
  let x := s.lane l
  linkFlit sub (leBytes 1 l ++ leBytes 2 1 ++ leBytes 4 x.ownInc ++ leBytes 8 (s.od D.SERIAL)
    ++ leBytes 2 (if x.rxAny then (x.rxExp + 0xFFF) % 0x1000 else 0xFFFF) ++ leBytes 1 (if x.askFresh then 1 else 0) ++ [0]
    ++ (if l = 0 then (List.range 4).flatMap fun c => leBytes 2 (rxAdvert 0 c) else leBytes 2 (rxAdvert 1 0)))

/-- INIT or INIT_ACK leaves a lane; one that the partner has not acknowledged yet goes out again under its FSEQ, with what it now says
(DESIGN CHOICE: log entry 196). -/
def State.sendInit (s : State) (l sub : Nat) : State :=
  let x := s.lane l
  let o := s.initFlit l sub
  match x.replay.find? fun e => e.2.type == 0xB && e.2.body.head? == some (BitVec.ofNat 8 sub) with
  | some (q, _) => (s.setLane l { x with replay := x.replay.map fun e => if e.1 = q then (q, o) else e }).putFlit l o q
  | none => s.sendFlit l o

/-- `INIT_REPEAT`: the N8 sends INIT until an INIT_ACK arrives (R208), also while the control node is absent (R210). -/
def execInitRepeat (l : Fin 2) (s : State) : Res :=
  .next (
    let st := s.laneState l.val
    if (st = 1 ∨ st = 2 ∨ st = 3) ∧ s.laneEn l.val ∧ s.dom.lineRst = false ∧ (s.lane l.val).ackRx = false then
      let s := s.sendInit l.val 1
      if st = 1 then s else s.setLaneState l.val 3
    else s)

/-- The detail bytes of LINK_FRESH (R202). -/
def freshDetail (l cause inc id : Nat) : List Byte :=
  leBytes 1 l ++ leBytes 1 cause ++ leBytes 2 0 ++ leBytes 4 inc ++ leBytes 8 id

/-- LINK_FRESH goes ahead of the queue with the next sequence number. -/
def State.linkFresh (s : State) (l cause inc id : Nat) : State :=
  let dw := s.dw
  { s with dw := { dw with
      evSeq := (dw.evSeq + 1) % 2 ^ 32
      freshEv := dw.freshEv ++ [⟨dw.evSeq, 0x0400 + l, 0x0681, s.rtime, freshDetail l cause inc id⟩] } }

/-- Set the transmit credits that the partner advertises in its INIT (R194, R204, R208). -/
def State.creditsFrom (s : State) (l : Nat) (f : FlitIn) : State :=
  if l = 0 then
    (((s.fset (txCredit 0 0) (bodyNat f 20 2)).fset (txCredit 0 1) (bodyNat f 22 2)).fset (txCredit 0 2) (bodyNat f 24 2)).fset
      (txCredit 0 3) (bodyNat f 26 2)
  else s.fset (txCredit 1 0) (bodyNat f 20 2)

/-- A finished export tells its ring command (R239). The manual gives the command no status for a transfer that failed: a free
value (log entry 11). -/
def State.exportDone (s : State) (r : SlRead) (failed : Bool) : State :=
  match r.window with
  | none => s
  | some (_, ring) =>
    let (v, s) := if failed then s.draw else (0, s)
    let status := v.toNat % 65536
    { s with rings := vmod s.rings ring fun g =>
        match g.run with
        | some u =>
          match u.wait with
          | .windowOut x c => if x = r.xfer then { g with run := some { u with wait := .done status 0 c } } else g
          | _ => g
        | none => g }

/-- Requests of the control lane that wait are served, but get no answer behind a fresh start (R209). -/
def Sb.mute (b : Sb) : Sb := { b with waiting := vmod b.waiting 1 fun l => l.map fun w => { w with mute := true } }

/-- A fresh start (R209). The exports it abandons end for their ring commands (R239). -/
def State.freshStart (s : State) (l cause : Nat) (f : FlitIn) : State :=
  let x := s.lane l
  let s := s.setLane l { x with
    txSeq := 0, replay := [], txq := .replicate 4 [], rr := 1, rxExp := 0, rxAny := false, awaitSeq := false
    rxCred := .ofFn fun c => rxAdvert l c.val
    retCred := .replicate 4 0, resent := [], resendQ := [] }
  let s := s.creditsFrom l f
  let s := if l = 0 then { s with dw := { s.dw with evq := s.dw.evSent ++ s.dw.evq, evSent := [], rxMsg := .replicate 4 none }
                                  sb := s.sb.mute }
    else
      let rs := s.dw.reads
      rs.foldl (fun s r => s.exportDone r true) { s with dw := { s.dw with writes := [], rxBlock := none, blocks := [], reads := [] } }
  let s := s.fset (R.DW_LANE_STATUS_RESUMED.at (laneOff l)) 0
  let s := if l = 0 then s.tokensForced 1 else s
  s.linkFresh l cause x.ownInc (bodyNat f 8 8)

/-- Resends from the FSEQ after the one the partner has: acknowledged flits leave, the rest are to go out again, in order (R193,
R209). -/
def State.resendFrom (s : State) (l a : Nat) : State :=
  let s := if a = 0xFFFF then s else s.acked l (a % 0x1000)
  s.setLane l { s.lane l with resendQ := (s.lane l).replay }

/-- Does a lane resume on this INIT (R209)? -/
def State.resumes (s : State) (l : Nat) (f : FlitIn) : Bool :=
  let x := s.lane l
  x.inits == some (x.ownInc, bodyNat f 4 4) && !x.askFresh && nbit (bodyNat f 18 1) 0 == 0
    && decide (s.rtime ≤ x.downAt + 1000000 * s.fget R.DW_CTL_RESUME_MS)

/-- Is a LINK INIT or INIT_ACK held, and why (R208)? 0 if not. -/
def holdCause (l : Nat) (f : FlitIn) : Nat := if bodyNat f 2 2 ≠ 1 then 1 else if bodyNat f 1 1 ≠ l then 2 else 0

/-- The lane is held until the next lock. -/
def State.hold (s : State) (l cause : Nat) : State :=
  (s.setLaneState l 5).fset (R.DW_LANE_STATUS_HELD_CAUSE.at (laneOff l)) cause

/-- May a LINK flit of a subtype be taken: lock, a good CRC and header? -/
def State.linkOk (s : State) (l : Nat) (f : FlitIn) (sub : Nat) : Bool :=
  s.laneLocked l && crcGood f && !flitBad l f && fType f == 0xB && bodyNat f 0 1 == sub

/-- A LINK flit that is not the one of its row: a bad CRC or header is counted, and a subtype that R208 does not give is delivered
without an effect. -/
def State.linkBad (s : State) (l : Nat) (f : FlitIn) : State :=
  if !crcGood f ∨ flitBad l f = true ∨ 4 < bodyNat f 0 1 ∨ bodyNat f 0 1 = 0 then (s.rxFlit l f (· == 0xB)).2 else s

/-- INIT and INIT_ACK are acted on whatever their FSEQ; they take it where it is the one expected (R193; log entry 173). -/
def State.initSeq (s : State) (l : Nat) (f : FlitIn) : State :=
  let s := s.fecNote l f
  if fSeq f = (s.lane l).rxExp then s.takeSeq l else s

/-- `LINK_INIT`: an INIT arrives (R208, R209). -/
def execLinkInit (l : Fin 2) (f : FlitIn) (s : State) : Res :=
  .next (
    let k := l.val
    if !s.linkOk k f 1 then s.linkBad k f
    else if s.laneState k = 5 then s.fecNote k f
    else if holdCause k f ≠ 0 then (s.fecNote k f).hold k (holdCause k f)
    else
      let s := s.initSeq k f
      let x := s.lane k
      let inc := bodyNat f 4 4
      let same := x.inits == some (x.ownInc, inc) && nbit (bodyNat f 18 1) 0 == 0
      let s := if k = 0 then s.fset R.DW_PARTNER_NODE_ID (bodyNat f 8 8) else s
      if s.laneState k = 4 ∧ same then s.sendInit k 2
      else
        let s :=
          if s.laneState k = 4 then
            ((s.setLane k { x with ackRx := false, initRx := false }).setLaneState k 3).freshStart k 5 f
          else if x.initRx then (if x.partnerInc = inc then s else s.freshStart k 5 f)
          else if s.resumes k f then (s.resendFrom k (bodyNat f 16 2)).fset (R.DW_LANE_STATUS_RESUMED.at (laneOff k)) 1
          else
            let cause := match x.inits with
              | some (_, p) => if p = inc then x.downCause else 5
              | none => x.downCause
            s.freshStart k cause f
        let s := s.setLane k { s.lane k with inits := some (x.ownInc, inc), partnerInc := inc, initRx := true }
        ((s.sendInit k 2).tryUp k).pump)

/-- `LINK_INIT_ACK` (R208). -/
def execLinkInitAck (l : Fin 2) (f : FlitIn) (s : State) : Res :=
  .next (
    let k := l.val
    if !s.linkOk k f 2 then s.linkBad k f
    else if s.laneState k = 5 then s.fecNote k f
    else if holdCause k f ≠ 0 then (s.fecNote k f).hold k (holdCause k f)
    else
      let s := s.initSeq k f
      ((s.setLane k { s.lane k with ackRx := true }).tryUp k).pump)

/-- `LINK_RETRY`: the flits from the named FSEQ are sent again; where one of them has been sent again eight times without acknowledgement
the lane goes down instead (R193). -/
def execLinkRetry (l : Fin 2) (f : FlitIn) (s : State) : Res :=
  .next (
    let k := l.val
    if !(s.linkOk k f 3) then s.linkBad k f
    else
      match s.rxFlit k f (· == 0xB) with
      | (false, s) => s
      | (true, s) =>
        if s.laneState k ≠ 4 then s
        else
          let e := bodyNat f 4 2 % 0x1000
          let s := s.resendFrom k ((e + 0xFFF) % 0x1000)
          if (s.lane k).resendQ.any fun u => decide (8 ≤ timesResent (s.lane k).resent u.1) then s.laneDown k 2 true
          else s.pump)

/-- `LINK_DOWN` (R209). -/
def execLinkDown (l : Fin 2) (f : FlitIn) (s : State) : Res :=
  .next (
    let k := l.val
    if !(s.linkOk k f 4) then s.linkBad k f
    else
      match s.rxFlit k f (· == 0xB) with
      | (false, s) => s
      | (true, s) => s.laneDown k 3 true)

/-- `ACKSEQ_REPORT`: an IDLE flit reports ACKSEQ and returns credits (R193). -/
def execAckseqReport (l : Fin 2) (s : State) : Res :=
  .next (if s.laneState l.val = 4 then (s.sendFlit l.val ⟨0, 0, true, 0, 0, [], none⟩).pump else s)

/-- A write of a FRESH bit (R209, R212). -/
def State.fresh (s : State) (l : Nat) : State := s.regCmd R.DW_CTL fun s => s.laneDown l 4 true

/-- `FRESH_CL`. -/
def execFreshCl (src : Party) (s : State) : Res := .next (s.byParty src fun s => s.fresh 0)
/-- `FRESH_SL`. -/
def execFreshSl (src : Party) (s : State) : Res := .next (s.byParty src fun s => s.fresh 1)

/-- A write of an EN bit (R212): 0 darkens the lane, 1 lets it acquire. -/
def State.laneEnable (s : State) (l : Nat) (on : Bool) : State :=
  s.regCmd R.DW_CTL fun s =>
    let f := if l = 0 then R.DW_CTL_EN_CL else R.DW_CTL_EN_SL
    if on then
      let s := s.fset f 1
      if s.laneState l = 0 then s.setLaneState l 1 else s
    else ((s.laneDown l 1 false).fset f 0).setLaneState l 0

/-- `EN_CL`. -/
def execEnCl (src : Party) (on : Bool) (s : State) : Res := .next (s.byParty src fun s => s.laneEnable 0 on)
/-- `EN_SL`. -/
def execEnSl (src : Party) (on : Bool) (s : State) : Res := .next (s.byParty src fun s => s.laneEnable 1 on)

/-! ## The stream lane (R203-R206) -/

/-- An `SL_HDR` of the N8: node address, block length, status, flags, transfer and block. -/
def slHdr (addr blen status flags xfer block : Nat) : List Byte :=
  leBytes 8 addr ++ leBytes 2 blen ++ leBytes 1 status ++ leBytes 1 flags ++ leBytes 4 xfer ++ leBytes 4 block

/-- A block or completion joins the stream lane's queue. -/
def State.slSend (s : State) (hdr : List Byte) (data : List Byte) : State :=
  let s := s.enqueue 1 0xC 0 0 [hdr]
  if data.isEmpty then s else s.enqueue 1 0xD 0 0 (chunk52 80 data)

/-- A transfer completion. -/
def State.slComplete (s : State) (xfer status block : Nat) : State := s.slSend (slHdr 0 0 status 2 xfer block) []

/-- Does the stream lane reach a range, and if not, with which status (R33, R36, R206)? 0 OK. -/
def State.slStatus (s : State) (a n : Nat) : Nat :=
  if roomFrom a < n ∨ roomFrom a = 0 then 1
  else if s.dom.worksRst ∨ s.fencedAddr a then 2
  else if !s.addrOk a n then 1
  else if s.chDead a then 3
  else 0

/-- A refused range is reported where R36 asks for it. -/
def State.slRefused (s : State) (a status : Nat) : State := if status = 1 then s.addrFault 0x0401 (s.globalAddr a) 1 else s

/-- A block header takes a block credit; without one it is discarded (R194, R204). -/
def State.slCredit (s : State) : Option State :=
  let x := s.lane 1
  if vget 0 x.rxCred 0 = 0 then none else some (s.setLane 1 { x with rxCred := vmod x.rxCred 0 (· - 1) })

/-- A block credit goes back to the node. -/
def State.slReturn (s : State) : State :=
  let x := s.lane 1
  s.setLane 1 { x with retCred := vmod x.retCred 0 (· + 1) }

/-- `SL_HDR`: the header of a block for the package, or a completion of the node (R203). -/
def execSlHdr (f : FlitIn) (s : State) : Res :=
  .next (match s.rxFlit 1 f (· == 0xC) with
    | (false, s) => s
    | (true, s) =>
      let flags := bodyNat f 11 1
      let blen := bodyNat f 8 2
      if nbit flags 1 = 1 then s
      else if blen = 0 ∨ blen > 4096 ∨ s.dw.rxBlock.isSome then s.protoErr 1
      else
        match s.slCredit with
        | none => s.protoErr 1
        | some s =>
          let b : SlBlock := ⟨bodyNat f 0 8, blen, nbit flags 0 == 1, bodyNat f 12 4, bodyNat f 16 4, []⟩
          let w := if s.dw.writes.any (fun t => t.xfer == b.xfer) then s.dw.writes else s.dw.writes ++ [⟨b.xfer, 0, none⟩]
          { s with dw := { s.dw with rxBlock := some b, writes := w } })

/-- `SL_DATA`: data of the block being received (R203). -/
def execSlData (f : FlitIn) (s : State) : Res :=
  .next (match s.rxFlit 1 f (· == 0xD) with
    | (false, s) => s
    | (true, s) =>
      match s.dw.rxBlock with
      | none => s.protoErr 1
      | some b =>
        let b := { b with data := (b.data ++ ((flitBytes f).drop 8).take (fLen f)).take b.blen }
        if b.data.length < b.blen then { s with dw := { s.dw with rxBlock := some b } }
        else { s with dw := { s.dw with rxBlock := none, blocks := s.dw.blocks ++ [b] } })

/-- `SL_BLOCK_WRITTEN`: the next block of the oldest transfer is written whole or refused; its credit returns, and a last block
sends the completion (R203, R204, R206). -/
def execSlBlockWritten (s : State) : Res :=
  .next (match s.dw.writes with
    | [] => s
    | t :: rest =>
      match s.dw.blocks.find? (fun b => b.xfer == t.xfer && b.block == t.next) with
      | none => s
      | some b =>
        let s := { s with dw := { s.dw with blocks := s.dw.blocks.filter (fun c => !(c.xfer == t.xfer && c.block == t.next)) } }
        let st := if t.failed.isSome then 0 else s.slStatus b.addr b.blen
        let s := if t.failed.isSome then s else if st = 0 then s.writeBytes b.addr b.data else s.slRefused b.addr st
        let t := { t with next := t.next + 1, failed := if t.failed.isNone ∧ st ≠ 0 then some (b.block, st) else t.failed }
        let s := s.slReturn
        let s := if b.last then
            let (blk, code) := t.failed.getD (0, 0)
            ({ s with dw := { s.dw with writes := rest } }).slComplete t.xfer code blk
          else { s with dw := { s.dw with writes := t :: rest } }
        s.pump)

/-- `SL_RDREQ` (R205). -/
def execSlRdreq (f : FlitIn) (s : State) : Res :=
  .next (match s.rxFlit 1 f (· == 0xE) with
    | (false, s) => s
    | (true, s) =>
      let len := bodyNat f 16 4
      let xfer := bodyNat f 20 4
      if len = 0 ∨ len > 2 ^ 30 then (s.slComplete xfer 4 0).pump
      else if s.dw.reads.countP (·.window.isNone) ≥ 16 then (s.slComplete xfer 6 0).pump
      else { s with dw := { s.dw with reads := s.dw.reads ++ [⟨bodyNat f 0 8, bodyNat f 8 8, len, xfer, 0, none, []⟩] } })

/-- The bytes of the next block of a read transfer, or the status that stops it (R206, R239): an export of a region that was fenced when
it began holds no bytes (R439). -/
def State.slBlock (s : State) (r : SlRead) (n : Nat) : Except Nat (List Byte) × State :=
  match r.window with
  | some _ =>
    if r.snap.isEmpty then (.error 2, s)
    else
    match allSome ((r.snap.drop r.done).take n) with
    | some l => (.ok l, s)
    | none => (.error 3, s)
  | none =>
    let a := r.addr + r.done
    let st := s.slStatus a n
    if st ≠ 0 then (.error st, s.slRefused a st)
    else
      match s.readBytes ⟨0, 3, 0x0401⟩ a n with
      | (some l, s) => (.ok l, s)
      | (none, s) => (.error 3, s)

/-- `SL_READ_BLOCK`: with a block credit of the node, the next block of the oldest read transfer goes out; after the last one the
completion (R205, R206). -/
def execSlReadBlock (s : State) : Res :=
  .next (match s.dw.reads with
    | [] => s
    | r :: rest =>
      if s.laneState 1 ≠ 4 ∨ s.fget (txCredit 1 0) = 0 then s
      else
        let n := min 4096 (r.len - r.done)
        match s.slBlock r n with
        | (.error st, s) =>
          let fin := r.done + n ≥ r.len
          let s := s.slSend (slHdr (r.node + r.done) n st (if fin then 1 else 0) r.xfer (r.done / 4096)) []
          let s := ({ s with dw := { s.dw with reads := rest } }).slComplete r.xfer st (r.done / 4096)
          (s.exportDone r true).pump
        | (.ok l, s) =>
          let s := s.fset (txCredit 1 0) (s.fget (txCredit 1 0) - 1)
          let fin := r.done + n ≥ r.len
          let s := s.slSend (slHdr (r.node + r.done) n 0 (if fin then 1 else 0) r.xfer (r.done / 4096)) l
          let s := { s with dw := { s.dw with reads := if fin then rest else { r with done := r.done + n } :: rest } }
          if fin then ((s.slComplete r.xfer 0 0).exportDone r false).pump else s.pump)

end Sys2Proof.Machine
end

