-- ==== Sys2Proof/Machine/Memory.lean ====
section
/-! DEFINITION. Memory devices (R157-R159, R170, R175-R184): channel retries, bucket drains, the scrubber and refresh. -/

namespace Sys2Proof.Machine

/-- A memory device. -/
def State.mdev (s : State) (n : Nat) : Md := vget .reset s.md n
/-- The state with a memory device replaced. -/
def State.setMdev (s : State) (n : Nat) (d : Md) : State := { s with md := vput s.md n d }

/-- The marks in force reload from the die-mark record (R166, R173). -/
def State.reloadMark (s : State) (n : Nat) : State :=
  (s.fset (R.DIE_MARK_MARKED.at (mdOff n)) (s.mdev n).recMark).fset (R.DIE_MARK_AUTO.at (mdOff n)) (s.mdev n).recAuto

/-- Retire a channel (R159): `CH_UP`, `CH_RETIRED` and the report, of class ERROR where it was the last (R418). -/
def State.retire (s : State) (n ch : Nat) : State :=
  let up := R.MD_STATUS_CH_UP.at (mdOff n)
  if nbit (s.fget up) ch = 0 then s
  else
    let s := s.fset up (s.fget up - 2 ^ ch)
    (s.fset (R.ECC_FLAGS_CH_RETIRED.at (mdOff n)) 1).report (0x0200 + n) .chRetired ch 0

/-- `BURST_CRC_FAIL`: an attempt of a burst fails its CRC; the eighth in a row retires the channel (R159). `first` tells a new
burst's first attempt. -/
def execBurstCrcFail (n : Fin 8) (ch : Fin 4) (first : Bool) (s : State) : Res :=
  .next (
    if s.dom.worksRst ∨ nbit (s.fget (R.MD_STATUS_CH_UP.at (mdOff n.val))) ch.val = 0 then s
    else
      let d := s.mdev n.val
      let k := (if first then 0 else vget 0 d.burst ch.val) + 1
      if k ≥ 8 then (s.setMdev n.val { d with burst := vput d.burst ch.val 0 }).retire n.val ch.val
      else s.setMdev n.val { d with burst := vput d.burst ch.val k })

/-- Drain the buckets of a list of compute dies. -/
def State.drainDies (s : State) : List Nat → State
  | [] => s
  | d :: l => (s.ceDrain (R.SP_BUCKET_LEVEL.at (dieOff d)) (0x0800 + d)).drainDies l

/-- Drain the buckets of a list of memory devices. -/
def State.drainMds (s : State) : List Nat → State
  | [] => s
  | n :: l => (s.ceDrain (R.ECC_BUCKET_LEVEL.at (mdOff n)) (0x0200 + n)).drainMds l

/-- `ECC_BUCKET_DRAIN` (R170). -/
def execEccBucketDrain (s : State) : Res :=
  .next (if s.dom.worksRst then s else (s.drainMds (List.range 8)).drainDies (List.range 4))

/-! ## The scrubber (R175-R179) -/

/-- Offset of word `k` of a scrub summary. -/
def scrubSum (n k : Nat) : Nat := R.SCRUB_SUM + mdOff n + 8 * k

/-- STATUS of a summary: 0 idle, 1 running, 2 stopped, 3 done. -/
def scrubStatus (n : Nat) : Fld := ⟨scrubSum n 0, 56, 8⟩
/-- SCRUB_SEQ. -/
def scrubSeq (n : Nat) : Fld := ⟨scrubSum n 0, 0, 32⟩

/-- Bytes of the target of a scrub. -/
def scrubRoom (sram : Bool) : Nat := if sram then wsSize else mdSize
/-- Package address of a scrub offset. -/
def scrubAddr (n : Nat) (sram : Bool) (off : Nat) : Nat := if sram then wsBase + n * wsSize + off else n * mdSize + off

/-- The summary of a scrub that starts (R177, R179). -/
def State.scrubClear (s : State) (n : Nat) (sram : Bool) (base : Nat) : State :=
  let seq := (s.fget (scrubSeq n) + 1) % 2 ^ 32
  let s := s.csrPut (scrubSum n 0) (BitVec.ofNat 64 (1 * 2 ^ 56 + (if sram then 2 ^ 32 else 0) + seq))
  let s := s.csrPut (scrubSum n 1) (BitVec.ofNat 64 base)
  let s := s.csrPut (scrubSum n 2) 0
  let s := s.csrPut (scrubSum n 3) 0
  let s := s.csrPut (scrubSum n 4) (BitVec.ofNat 64 (2 ^ 64 - 1))
  let s := s.csrPut (scrubSum n 5) (BitVec.ofNat 64 (2 ^ 64 - 1))
  let s := s.csrPut (scrubSum n 6) (BitVec.ofNat 64 (s.fget (R.DIE_MARK_MARKED.at (mdOff n)) * 2 ^ 32))
  s.csrPut (scrubSum n 7) 0

/-- A start of a scrub: its RESULT (R177) and the state after it. The background test, to the end of its pattern test of the spare units,
refuses every other scrub (R184). -/
def State.scrubStart (s : State) (n : Nat) (sram : Bool) (base len mode : Nat) (ring : Option Nat) (bg : Bool) : Nat × State :=
  let result := fun (s : State) (c : Nat) => (c, s.fset (R.SCRUB_CTL_RESULT.at (mdOff n)) c)
  let d := s.mdev n
  if d.scrub.running ∨ (bg = false ∧ s.flag R.BOOT_STATUS_BG_RUN = true) then result s 0x0701
  else if base % 16 ≠ 0 ∨ len % 16 ≠ 0 ∨ len = 0 ∨ base + len > scrubRoom sram then result s 0x0702
  else
    let s := s.scrubClear n sram base
    result (s.setMdev n { d with scrub := ⟨true, false, sram, base, len, base, mode, ring.isSome, ring.getD 0, bg, s.rtime⟩ }) 0

/-- The scrub of a device stops at the next group. -/
def State.scrubStop (s : State) (n : Nat) : State :=
  let d := s.mdev n
  if d.scrub.running then s.setMdev n { d with scrub := { d.scrub with stop := true } } else s

/-- A scrub ends as done (3) or stopped (2), and tells the ring command that started it (R179, R216). -/
def State.scrubEnd (s : State) (n status : Nat) : State :=
  let d := s.mdev n
  let s := s.fset (scrubStatus n) status
  let s := s.setMdev n { d with scrub := { d.scrub with running := false, stop := false } }
  if !d.scrub.byCmd then s
  else
    match (vget .reset s.rings d.scrub.ring).run with
    | some u =>
      if u.wait = .scrub n then
        let body := (List.range 8).flatMap fun k => leBytes 8 (s.csrGet (scrubSum n k)).toNat
        let s := (s.memWrite s.rcSource (u.words.getD 4 0) body).2
        { s with rings := vmod s.rings d.scrub.ring fun r => { r with run := some { u with wait := .done 0 0 0 } } }
      else s
    | none => s

/-- A write of `SCRUB_CTL` with the bits of `m`: a RATE above 200 is reserved (R17), STOP comes before GO (R176, R177). True where a
field was refused. -/
def State.writeScrubCtl (s : State) (src : Party) (n : Nat) (v m : Word) : Bool × State :=
  let at_ := fun (f : Fld) => f.at (mdOff n)
  let bad := m.getLsbD 32 && decide (200 < nbits v.toNat 39 32)
  let s := if bad then s.csrRefuse src (R.SCRUB_CTL + mdOff n) else s
  let s := if m.getLsbD 32 ∧ !bad then s.fset (at_ R.SCRUB_CTL_RATE) (nbits v.toNat 39 32) else s
  if !m.getLsbD 0 then (bad, s)
  else
    let s := s.fset (at_ R.SCRUB_CTL_MODE) (nbit v.toNat 3)
    let stop := nbit v.toNat 1 = 1
    if nbit v.toNat 0 = 1 then
      let s := if stop ∧ (s.mdev n).scrub.running then s.scrubEnd n 2 else s
      (bad, (s.scrubStart n (s.flag (at_ R.SCRUB_BASE_TARGET)) (s.fget (at_ R.SCRUB_BASE_OFFSET)) (s.fget (at_ R.SCRUB_LEN_LEN))
        (s.fget (at_ R.SCRUB_CTL_MODE)) none false).2)
    else (bad, if stop then s.scrubStop n else s)

/-- `SCRUB_GO`: a write of `SCRUB_CTL` with GO set. -/
def execScrubGo (n : Fin 8) (src : Party) (v : BitVec 64) (s : State) : Res :=
  .next (s.byParty src fun s => s.regCmd (R.SCRUB_CTL + mdOff n.val) fun s => (s.writeScrubCtl src n.val (v ||| 1) (BitVec.ofNat 64 (2 ^ 64 - 1))).2)

/-- `SCRUB_STOP`. -/
def execScrubStop (n : Fin 8) (src : Party) (s : State) : Res :=
  .next (s.byParty src fun s => s.regCmd (R.SCRUB_CTL + mdOff n.val) fun s => s.scrubStop n.val)

/-- What one byte of a group gives: its data, whether it was corrected, and the die of the correction. -/
structure ScrubByte where
  data : Option Byte
  ce   : Bool
  die  : Nat
  deriving DecidableEq, Repr

/-- Read and decode the bytes of a group (R162, R178). -/
def State.scrubRead (s : State) (n : Nat) (sram : Bool) (a : Nat) : Nat → List ScrubByte × State
  | 0 => ([], s)
  | k + 1 =>
    let r : ScrubByte := match eccDecode (s.word13 a) (s.maskAt a) with
      | .clean b => ⟨some b, false, 0⟩
      | .corrected b p => ⟨some b, true, if sram then 16 else bitDie (a % mdSize) p⟩
      | .uncorrectable => ⟨none, false, 0⟩
    let (_, s) := s.readCell ⟨2, 3, 0x0200 + n⟩ a
    let (l, s) := s.scrubRead n sram (a + 1) k
    (r :: l, s)

/-- Store the data of a group. -/
def State.scrubStore (s : State) (a : Nat) : List ScrubByte → State
  | [] => s
  | b :: l => (match b.data with | some v => s.store a v | none => s).scrubStore (a + 1) l

/-- Dies seen in a group, as a mask. -/
def scrubDies (l : List ScrubByte) : Nat := l.foldl (fun m b => if b.ce && decide (b.die < 16) then m ||| 2 ^ b.die else m) 0

/-- A 32-bit summary counter that stays at its largest value. -/
def State.sumAdd (s : State) (f : Fld) (k : Nat) : State := s.fset f (min (s.fget f + k) 0xFFFFFFFF)

/-- `SCRUB_GROUP`: the next group of 16 bytes (R175, R178, R179). -/
def execScrubGroup (n : Fin 8) (s : State) : Res :=
  .next (
    let u := (s.mdev n.val).scrub
    if !u.running ∨ u.stop ∨ u.next ≥ u.base + u.len ∨ s.dom.worksRst then s
    else
      let a := scrubAddr n.val u.sram u.next
      let (l, s) := s.scrubRead n.val u.sram a 16
      let ce := (l.filter (·.ce)).length
      let bad := (l.zipIdx.filter (fun e => e.1.data.isNone)).map (·.2)
      let write := u.mode = 0 ∧ ce > 0 ∧ bad = []
      let s := if write then s.scrubStore a l else s
      let s := s.traffic ⟨scrubSum n.val 2, 0, 64⟩ 16
      let s := s.sumAdd ⟨scrubSum n.val 3, 32, 32⟩ ce
      let s := s.sumAdd ⟨scrubSum n.val 3, 0, 32⟩ bad.length
      let s := match bad with
        | [] => s
        | i :: _ =>
          let s := if s.csrGet (scrubSum n.val 4) = BitVec.ofNat 64 (2 ^ 64 - 1) then
            s.csrPut (scrubSum n.val 4) (BitVec.ofNat 64 (u.next + i)) else s
          s.csrPut (scrubSum n.val 5) (BitVec.ofNat 64 (u.next + bad.getLastD 0))
      let s := s.fset ⟨scrubSum n.val 6, 48, 16⟩ (s.fget ⟨scrubSum n.val 6, 48, 16⟩ ||| scrubDies l)
      let s := if write then s.sumAdd ⟨scrubSum n.val 6, 0, 32⟩ 1 else s
      let s := s.csrPut (scrubSum n.val 7) (BitVec.ofNat 64 (s.rtime - u.started))
      s.setMdev n.val { s.mdev n.val with scrub := { u with next := u.next + 16 } })

/-- `SCRUB_DONE` (R179). -/
def execScrubDone (n : Fin 8) (s : State) : Res :=
  .next (
    let u := (s.mdev n.val).scrub
    if !u.running ∨ s.dom.worksRst then s
    else if u.next ≥ u.base + u.len then s.scrubEnd n.val 3
    else if u.stop then s.scrubEnd n.val 2
    else s)

/-! ## Refresh (R182, R391, R392) -/

/-- A sensor reading in units of 0.1 degC, where the sensor takes part in the rules. -/
def State.sensor (s : State) (i : Nat) : Option Int :=
  let at_ := fun (f : Fld) => f.at (8 * i)
  if s.flag (at_ R.TSENSE_VALID) && !s.flag (at_ R.TSENSE_FAULT) && !s.flag (at_ R.TSENSE_IMPLAUS) then
    some (sint 16 (s.fget (at_ R.TSENSE_TEMP)))
  else none

/-- The largest reading of a list of sensors. -/
def State.hottest (s : State) (l : List Nat) : Option Int :=
  l.foldl (fun m i =>
    match m, s.sensor i with
    | some a, some b => some (max a b)
    | none, x => x
    | x, none => x) none

/-- `REFRESH`: every row is refreshed, at the interval the hottest DRAM die of the stack asks for (R182). -/
def execRefresh (n : Fin 8) (s : State) : Res :=
  .next (
    if s.dom.worksRst then s
    else
      let hot := match s.hottest ((List.range 16).map fun k => 56 + 17 * n.val + k) with
        | some t => decide (t ≥ 850)
        | none => false
      s.setFlag (R.MD_STATUS_REFRESH_2X.at (mdOff n.val)) hot)

end Sys2Proof.Machine
end

