-- ==== Sys2Proof/Machine/Flags.lean ====
section
/-! DEFINITION. The arithmetic status of a tile (R81, R82) and of the engines that write the same flags (R153, R359). -/

namespace Sys2Proof.Machine

/-- What the outputs of one instruction raised: WIDE_SPAN, XP_OVF and the flags of rounding, and the largest span of an output
formed under AUTO with WIDE_SPAN (R81). -/
structure OutFlags where
  wide : Bool := false
  ovf  : Bool := false
  rf   : RFlags := {}
  span : Nat := 0
  deriving DecidableEq, Repr

/-- Flags of several outputs. -/
def OutFlags.or (a b : OutFlags) : OutFlags := ⟨a.wide || b.wide, a.ovf || b.ovf, a.rf.or b.rf, max a.span b.span⟩

/-- Flags of a list of outputs. -/
def orFlags (l : List OutFlags) : OutFlags := l.foldl OutFlags.or {}

/-- Flags of a rounded output. -/
def OutFlags.ofRnd (f : RFlags) : OutFlags := { rf := f }

/-- Flags of an XP160 output (R53, R81). -/
def OutFlags.ofXp (x : Xp) : OutFlags := { wide := x.wide, ovf := x.ovf, rf := { inf := x.inf, nan := x.nan } }

/-- Set a sticky flag where `b` holds. -/
def State.raise (s : State) (f : Fld) (b : Bool) : State := if b then s.fset f 1 else s

/-- The status registers of tile P after an instruction with index `pc` (R81, R82). DESIGN CHOICE (log entry 159): NAN_COUNT also counts
an instruction whose only NaN was written as 0 in a format without NaN. -/
def State.arithStatus (s : State) (p pc : Nat) (o : OutFlags) : State :=
  let at_ := fun (f : Fld) => f.at (tileOff p)
  let s := if o.wide && !s.flag (at_ R.ARITH_STATUS_WIDE_SPAN) then
      (s.fset (at_ R.ARITH_FIRST_SPAN) (min o.span 0xFFFF)).fset (at_ R.ARITH_FIRST_INSN_INDEX) pc else s
  let s := s.raise (at_ R.ARITH_STATUS_WIDE_SPAN) o.wide
  let s := s.raise (at_ R.ARITH_STATUS_NAN_OUT) o.rf.nan
  let s := s.raise (at_ R.ARITH_STATUS_INF_OUT) o.rf.inf
  let s := s.raise (at_ R.ARITH_STATUS_SAT) o.rf.sat
  let s := s.raise (at_ R.ARITH_STATUS_XP_OVF) o.ovf
  let s := if o.wide then s.bump (at_ R.ARITH_EVENTS_WIDE_SPAN_COUNT) (at_ R.ARITH_STATUS_WS_CNT_OVF) else s
  if o.rf.nan then s.bump (at_ R.ARITH_EVENTS_NAN_COUNT) (at_ R.ARITH_STATUS_NAN_CNT_OVF) else s

/-- The flags of a wayside engine (R153). -/
def State.weStatus (s : State) (n : Nat) (o : OutFlags) : State :=
  let at_ := fun (f : Fld) => f.at (mdOff n)
  let s := s.raise (at_ R.WE_FLAGS_WIDE_SPAN) o.wide
  let s := s.raise (at_ R.WE_FLAGS_NAN_OUT) o.rf.nan
  let s := s.raise (at_ R.WE_FLAGS_INF_OUT) o.rf.inf
  let s := s.raise (at_ R.WE_FLAGS_SAT) o.rf.sat
  s.raise (at_ R.WE_FLAGS_XP_OVF) o.ovf

/-- The flags of a marshalling engine (R359). -/
def State.meStatus (s : State) (d : Nat) (o : OutFlags) : State :=
  let at_ := fun (f : Fld) => f.at (dieOff d)
  let s := s.raise (at_ R.ME_FLAGS_WIDE_SPAN) o.wide
  let s := s.raise (at_ R.ME_FLAGS_NAN_OUT) o.rf.nan
  let s := s.raise (at_ R.ME_FLAGS_INF_OUT) o.rf.inf
  s.raise (at_ R.ME_FLAGS_XP_OVF) o.ovf

end Sys2Proof.Machine
end

