-- ==== Sys2Proof/Machine/Operands.lean ====
section
/-! DEFINITION. Berths as operands (R50, R86-R92, R551, R552): validity, rights, extents, and reading and writing their elements. -/

namespace Sys2Proof.Machine

/-- Bits per element of a format code (R88); 0 for a reserved code. -/
def fmtBits (fmt : Nat) : Nat :=
  match fmt with
  | 0x00 | 0x04 | 0x05 | 0x09 | 0x0C => 8
  | 0x01 | 0x0A | 0x0E => 4
  | 0x02 | 0x03 => 6
  | 0x06 | 0x07 => 16
  | 0x08 | 0x0B => 32
  | 0x0D => 192
  | _ => 0

/-- The element format of a code, where it is a number format other than XP160. -/
def fmtElem (fmt : Nat) : Option EFmt :=
  match fmt with
  | 0x01 => some (.fp fmtE2M1) | 0x02 => some (.fp fmtE2M3) | 0x03 => some (.fp fmtE3M2) | 0x04 => some (.fp fmtE4M3)
  | 0x05 => some (.fp fmtE5M2) | 0x06 => some (.fp fmtFP16) | 0x07 => some (.fp fmtBF16) | 0x08 => some (.fp fmtFP32)
  | 0x09 => some (.int 8) | 0x0A => some (.int 4) | 0x0B => some (.int 32) | 0x0C => some .e8m0
  | _ => none

/-- Elements per group of the group rule (R50). -/
def groupElems (fmt : Nat) : Nat := if fmtBits fmt = 4 then 2 else if fmtBits fmt = 6 then 4 else 1

/-- Bytes per group. -/
def groupBytes (fmt : Nat) : Nat := if fmtBits fmt = 6 then 3 else 1

/-- Bytes of `n` elements of a format, rounded up to whole bytes. -/
def elemBytes (fmt n : Nat) : Nat := (fmtBits fmt * n + 7) / 8

/-- The group rule of R50. DESIGN CHOICE (log entry 160): a LENGTH of a two-dimensional berth that ends inside the padding of a row
ends at the row's last group. -/
def Berth.groupOk (b : Berth) : Bool :=
  b.rowElems % groupElems b.fmt == 0 &&
    let rem := if b.pitch = 0 then b.length else (b.length - 1) % b.pitch + 1
    (if b.pitch = 0 then rem else min rem (elemBytes b.fmt b.rowElems)) % groupBytes b.fmt == 0

/-- Does the berth lie inside one region of its kind (R87)? A REMOTE berth is checked against the layout at 176 tiles. DESIGN CHOICE (log entry
190): a berth of another kind with a `DEST` other than 0x000 (R86) is invalid. -/
def Berth.regionOk (b : Berth) : Bool :=
  decide (b.length ≠ 0) && decide (b.length ≤ roomFrom b.base) &&
    match b.kind, locOf b.base with
    | 1, .md _ _ => b.dest == 0
    | 2, .sp _ _ => b.dest == 0
    | 3, .ws _ _ => b.dest == 0
    | 4, _ => decide (0x010 ≤ b.dest ∧ b.dest ≤ 0x06F)
    | _, _ => false

/-- Is the berth's form valid for every reason of R89 but the group rule? -/
def Berth.formOk (b : Berth) : Bool :=
  b.regionOk && decide (b.fmt ≤ 0x0E)
    && (b.pitch == 0 || decide (elemBytes b.fmt b.rowElems ≤ b.pitch))
    && (!b.scaleEn || (decide (1 ≤ b.fmt ∧ b.fmt ≤ 5) || b.fmt == 9))

/-- May the berth be used (R89)? -/
def Berth.usable (b : Berth) : Bool := b.valid && b.formOk && b.groupOk

/-- The four words of a berth (R86). -/
def Berth.ofWords (w0 w1 w2 w3 : Nat) : Berth :=
  { valid := nbit w0 63 == 1, x := nbit w0 58 == 1, w := nbit w0 57 == 1, r := nbit w0 56 == 1, kind := nbits w0 55 52,
    base := nbits w0 51 0, dest := nbits w1 63 52, scaleEn := nbit w1 51 == 1, scaleBerth := nbits w1 50 45,
    fmt := nbits w1 44 40, length := nbits w1 39 0, pitch := nbits w2 63 32, rowElems := nbits w2 31 0,
    originRow := nbits w3 63 32, originCol := nbits w3 31 0 }

/-- A berth from its 32 bytes. -/
def Berth.ofBytes (l : List Byte) : Berth :=
  match words64 4 l with
  | [a, b, c, d] => .ofWords a b c d
  | _ => .null

/-- A berth as its 32 bytes. -/
def Berth.bytes (b : Berth) : List Byte :=
  let bit := fun (x : Bool) (k : Nat) => if x then 2 ^ k else 0
  leBytes 8 (bit b.valid 63 + bit b.x 58 + bit b.w 57 + bit b.r 56 + b.kind * 2 ^ 52 + b.base)
    ++ leBytes 8 (b.dest * 2 ^ 52 + bit b.scaleEn 51 + b.scaleBerth * 2 ^ 45 + b.fmt * 2 ^ 40 + b.length)
    ++ leBytes 8 (b.pitch * 2 ^ 32 + b.rowElems) ++ leBytes 8 (b.originRow * 2 ^ 32 + b.originCol)

/-- A berth register of a tile; B0 is the null berth (R91). -/
def Tile.berth (t : Tile) (i : Nat) : Berth := if i = 0 then .null else vget .null t.b i

/-- A scalar register of a tile; G0 reads 0 (R94). -/
def Tile.scalar (t : Tile) (i : Nat) : BitVec 64 := if i = 0 then 0 else vget 0 t.g i

/-- A tile with a scalar register written; G0 ignores writes. -/
def Tile.setScalar (t : Tile) (i : Nat) (v : BitVec 64) : Tile := if i = 0 then t else { t with g := vput t.g i v }

/-- A tile with a berth register written; B0 ignores writes. -/
def Tile.setBerth (t : Tile) (i : Nat) (v : Berth) : Tile := if i = 0 then t else { t with b := vput t.b i v }

/-! ## Traps at issue (R90, R551, R552) -/

/-- A trap: code, berth named, package-global address (0 where there is none). -/
structure TrapInfo where
  code  : Nat
  berth : Nat
  addr  : Nat
  deriving DecidableEq, Repr

/-- The first trap of a list of checks. -/
def firstTrap : List (Option TrapInfo) → Option TrapInfo
  | [] => none
  | some t :: _ => some t
  | none :: l => firstTrap l

/-- A check without berth or address. -/
def trapIf (bad : Bool) (code : Nat) : Option TrapInfo := if bad then some ⟨code, 0, 0⟩ else none

/-- Checks 1 to 4 of R90 on one berth. -/
def chkBerth (t : Tile) (i : Nat) (write : Bool) (kindOk fmtOk : Berth → Bool) : Option TrapInfo :=
  let b := t.berth i
  if !b.usable then some ⟨0x0010, i, 0⟩
  else if !(if write then b.w else b.r) then some ⟨0x0011, i, 0⟩
  else if !kindOk b then some ⟨0x0012, i, 0⟩
  else if !fmtOk b then some ⟨0x0013, i, 0⟩
  else none

/-- The fabric-global address of byte `o` of a berth (R41, R42). -/
def State.berthAddr (s : State) (b : Berth) (o : Nat) : Nat :=
  if b.kind = 4 then b.dest * 2 ^ 52 + (b.base + o) % 2 ^ 52 else s.globalAddr (b.base + o)

/-- The first column at or past which an element of row `r` is out of bounds (R89). -/
def Berth.colLimit (b : Berth) (r : Nat) : Nat :=
  if b.pitch = 0 ∧ r > 0 then 0
  else min b.rowElems ((b.length - r * b.pitch) * 8 / fmtBits b.fmt)

/-- The address that R552 names for a failing element (r, c). -/
def State.failAddr (s : State) (b : Berth) (r c : Nat) : Nat :=
  let st := r * b.pitch + fmtBits b.fmt * c / 8
  let en := r * b.pitch + (fmtBits b.fmt * (c + 1) + 7) / 8
  if b.pitch = 0 ∧ r > 0 then s.berthAddr b b.length
  else if en > b.length then s.berthAddr b (max st b.length)
  else s.berthAddr b st

/-- The first element, row by row, of rows r, r+1, ... (`n` of them), columns [c, c + k) of each, that is out of bounds (R89, R552). -/
def Berth.failRows (b : Berth) (c k : Nat) : Nat → Nat → Option (Nat × Nat)
  | _, 0 => none
  | r, n + 1 =>
    let f := max c (b.colLimit r)
    if k ≠ 0 ∧ f < c + k then some (r, f) else b.failRows c k (r + 1) n

/-- The earlier of two failing elements, row by row and then by column (R552). -/
def firstElem : Option (Nat × Nat) → Option (Nat × Nat) → Option (Nat × Nat)
  | none, b => b
  | a, none => a
  | some (r, c), some (q, d) => if r < q ∨ (r = q ∧ c ≤ d) then some (r, c) else some (q, d)

/-- The first element out of bounds of the first `n` elements of a berth, in rows of `w`. -/
def Berth.failElems (b : Berth) (w n : Nat) : Option (Nat × Nat) :=
  if n = 0 then none
  else if w = 0 then some (0, 0)
  else firstElem (b.failRows 0 w 0 (n / w)) (b.failRows 0 (n % w) (n / w) 1)

/-- What an instruction accesses of one berth at one of its places: the berth's index and the first element out of bounds. -/
abbrev Extent := Nat × Option (Nat × Nat)

/-- The first element out of bounds of everything an instruction accesses of berth `i` (R552). -/
def failOf (all : List Extent) (i : Nat) : Option (Nat × Nat) :=
  (all.filter fun e => e.1 == i).foldl (fun a e => firstElem a e.2) none

/-- Check 5 of R90 over the places of an instruction in order; a berth named at several places is checked once, at its first place,
over all that the instruction accesses of it (R551, R552). -/
def State.chkBounds (s : State) (t : Tile) (all : List Extent) : List Extent → Option TrapInfo
  | [] => none
  | e :: l =>
    match failOf all e.1 with
    | some (r, c) => some ⟨0x0014, e.1, s.failAddr (t.berth e.1) r c⟩
    | none => s.chkBounds t all l

/-- Check 5 of R90 on rows r, r+1, ... (`n` of them), columns [c, c + k) of each. -/
def State.chkRows (s : State) (b : Berth) (i c k r n : Nat) : Option TrapInfo :=
  (b.failRows c k r n).map fun (q, f) => ⟨0x0014, i, s.failAddr b q f⟩

/-! ## Elements -/

/-- Byte offset and bit offset of element (r, c) in its berth (R50, R89). -/
def Berth.elemAt (b : Berth) (r c : Nat) : Nat × Nat :=
  (r * b.pitch + fmtBits b.fmt * c / 8, fmtBits b.fmt * c % 8)

/-- The first failing byte of a list read from address `a`. -/
def firstBad (a : Nat) : List (Option Byte) → Nat
  | [] => a
  | none :: _ => a
  | some _ :: t => firstBad (a + 1) t

/-- Read element (r, c): its code, or the address of a byte that reads UNCORRECTABLE. DESIGN CHOICE (log entry 191): a byte that holds
several elements is read once for each. -/
def State.readElem (s : State) (rq : Rq) (b : Berth) (r c : Nat) : Except Nat Nat × State :=
  let (o, sh) := b.elemAt r c
  let n := (sh + fmtBits b.fmt + 7) / 8
  let (l, s) := s.readView rq (b.base + o) n
  match allSome l with
  | some l => (.ok (leNat l / 2 ^ sh % 2 ^ fmtBits b.fmt), s)
  | none => (.error (firstBad (b.base + o) l), s)

/-- Read the elements at a list of coordinates, stopping at the first that reads UNCORRECTABLE. -/
def State.readElems (s : State) (rq : Rq) (b : Berth) : List (Nat × Nat) → Except Nat (List Nat) × State
  | [] => (.ok [], s)
  | (r, c) :: t =>
    match s.readElem rq b r c with
    | (.error a, s) => (.error a, s)
    | (.ok v, s) =>
      match s.readElems rq b t with
      | (.error a, s) => (.error a, s)
      | (.ok vs, s) => (.ok (v :: vs), s)

/-- Coordinates of the first `n` elements of a berth, row by row. -/
def Berth.coords (b : Berth) (n : Nat) : List (Nat × Nat) :=
  (List.range n).map (fun i => (i / b.rowElems, i % b.rowElems))

/-- Coordinates of columns [c, c + k) of row `r`. -/
def rowCoords (r c k : Nat) : List (Nat × Nat) := (List.range k).map (fun i => (r, c + i))

/-- The elements of a run packed into one number, the first lowest. -/
def packElems (bits : Nat) : List Nat → Nat
  | [] => 0
  | v :: t => v % 2 ^ bits + 2 ^ bits * packElems bits t

/-- The bytes a run of bits touches: (offset, mask, value), where the run starts `sh` bits into the first byte. -/
def runBytes (sh total v : Nat) : List (Nat × Byte × Byte) :=
  (List.range ((sh + total + 7) / 8)).map fun i =>
    let m := (2 ^ total - 1) * 2 ^ sh / 2 ^ (8 * i) % 256
    (i, BitVec.ofNat 8 m, BitVec.ofNat 8 (v * 2 ^ sh / 2 ^ (8 * i)))

/-- The first partly written byte of a run that reads UNCORRECTABLE, if any (R167). -/
def State.runPre (s : State) (rq : Rq) (a : Nat) : List (Nat × Byte × Byte) → Option Nat × State
  | [] => (none, s)
  | (i, m, _) :: t =>
    if m = 0xFF then s.runPre rq a t
    else
      match s.readWork rq (a + i) with
      | (none, s) => (some (a + i), s)
      | (some _, s) => s.runPre rq a t

/-- Write the bytes of a run whose partly written bytes `runPre` has read. -/
def State.runWrite (s : State) (a : Nat) : List (Nat × Byte × Byte) → State
  | [] => s
  | (i, m, v) :: t => (if m = 0xFF then s.writeByte (a + i) v else s.writeBits (a + i) m v).runWrite a t

/-- Write a run whole, or name the partly written byte that reads UNCORRECTABLE; nothing is then written (R167). -/
def State.runWhole (s : State) (rq : Rq) (a : Nat) (l : List (Nat × Byte × Byte)) : Option Nat × State :=
  match s.runPre rq a l with
  | (some e, s) => (some e, s)
  | (none, s) => (none, s.runWrite a l)

/-- A run of elements to write: row, first column, codes. -/
structure ElemRun where
  row  : Nat
  col  : Nat
  vals : List Nat
  deriving DecidableEq, Repr

/-- The bytes of a run of elements in a berth, with the address of the first. -/
def ElemRun.place (u : ElemRun) (b : Berth) : Nat × List (Nat × Byte × Byte) :=
  let (o, sh) := b.elemAt u.row u.col
  (b.base + o, runBytes sh (fmtBits b.fmt * u.vals.length) (packElems (fmtBits b.fmt) u.vals))

/-- Does some run meet a partly written byte that reads UNCORRECTABLE? -/
def State.runsPre (s : State) (rq : Rq) (b : Berth) : List ElemRun → Option Nat × State
  | [] => (none, s)
  | u :: t =>
    match s.runPre rq (u.place b).1 (u.place b).2 with
    | (some a, s) => (some a, s)
    | (none, s) => s.runsPre rq b t

/-- Write every run. -/
def State.runsWrite (s : State) (b : Berth) : List ElemRun → State
  | [] => s
  | u :: t => (s.runWrite (u.place b).1 (u.place b).2).runsWrite b t

/-- The runs of the first elements of a berth, row by row; the fuel counts rows. -/
def runsFrom (w : Nat) : Nat → Nat → List Nat → List ElemRun
  | 0, _, _ => []
  | n + 1, r, l => if l.isEmpty then [] else ⟨r, 0, l.take w⟩ :: runsFrom w n (r + 1) (l.drop w)

/-- Codes at element indices of a berth in rows of `w`, as runs: neighbours in a row share one, so that a byte two of them fill is
written whole (R167). -/
def indexRuns (w : Nat) : List (Nat × Nat) → List ElemRun
  | [] => []
  | (i, v) :: t =>
    match indexRuns w t with
    | [] => [⟨i / w, i % w, [v]⟩]
    | u :: l => if u.row = i / w ∧ u.col = i % w + 1 then ⟨u.row, i % w, v :: u.vals⟩ :: l else ⟨i / w, i % w, [v]⟩ :: u :: l

/-- The runs that hold `l` as the first elements of a berth. -/
def Berth.runs (b : Berth) (l : List Nat) : List ElemRun := runsFrom b.rowElems (l.length / b.rowElems + 1) 0 l

end Sys2Proof.Machine
end

