-- ==== Sys2Proof/Machine/Tile.lean ====
section
/-! DEFINITION. The tile's sequencer (R83-R98, R108, R115-R118): fetch, issue, dispatch, branches, berth narrowing, trigger
counters, waits and traps. -/

namespace Sys2Proof.Machine

/-- A tile. -/
def State.tile (s : State) (p : Nat) : Tile := vget .reset s.tiles p

/-- The state with a tile replaced. -/
def State.setTile (s : State) (p : Nat) (t : Tile) : State := { s with tiles := vput s.tiles p t }

/-- The job seed of R71. -/
def State.srSeed (s : State) : BitVec 64 :=
  if s.job.active ∧ s.job.seed ≠ 0 then s.job.seed else BitVec.ofNat 64 (s.od D.SR_SEED_DEFAULT)

/-- Does the licence enable 2:4 sparsity (R1)? The product code in force names the part. -/
def State.sparseLicensed (s : State) : Bool := s.od D.LIC_PRODUCT == 0x0176

/-- Is the package in shunting service (R467)? -/
def State.shunting (s : State) : Bool := s.flag R.BOOT_STATUS_SHUNTING

/-- Index of a trigger counter of a die (R360). -/
def ctrOff (d k : Nat) : Nat := dieOff d + 8 * k

/-- Addition to a trigger counter, a 32-bit event counter (R108, R431). -/
def State.ctrAdd (s : State) (d k n : Nat) : State := s.bump (R.CTR_VALUE.at (ctrOff d k)) (R.CTR_CTR_OVF.at (ctrOff d k)) n

/-! ## Dispatch (R93, R94) -/

/-- The root berths of logical tile `l`: the entry for the tile itself before one for every tile, later before earlier (R121). -/
def Prog.root (g : Prog) (l i : Nat) : Berth :=
  match g.roots.reverse.find? (fun e => e.tile == l && e.index == i) with
  | some e => e.berth
  | none =>
    match g.roots.reverse.find? (fun e => e.tile == 0xFFFF && e.index == i) with
    | some e => e.berth
    | none => .null

/-- An accepted dispatch (R94, R118). -/
def State.acceptDispatch (s : State) (p : Nat) (d : Dispatch) : State :=
  let t := s.tile p
  let l := s.logicalOf p
  let b := Vector.ofFn (fun i : Fin 64 => if i.val < 3 then t.berth i.val else s.prog.root l i.val)
  let t := { t with
    pc := d.entry
    g := vput (vput (vput (.replicate 16 0) 1 d.a1) 2 d.a2) 3 d.a3
    b := b
    acc := .replicate 4 .empty
    wait := .none
    collAbt := false
    dma := t.dma.map (fun e => { e with halted := false }) }
  let s := s.setTile p t
  let s := s.fset (R.TILE_SEQ_SEQ.at (tileOff p)) d.seq
  s.setTileState p 2

/-- A duplicate dispatch is dropped and counted (R93). -/
def State.dupDispatch (s : State) (p : Nat) : State := s.wrap (R.TILE_SEQ_DUP_COUNT.at (tileOff p))
  |> fun s' => if s.fget (R.TILE_SEQ_DUP_COUNT.at (tileOff p)) = 0xFFFFFFFF then s else s'

/-- A dispatch that leaves a gap is dropped and reported (R93). -/
def State.gapDispatch (s : State) (p : Nat) (d : Dispatch) : State := s.report p .dispatchGap d.seq 0

/-- A dispatch judged against SEQ by a tile in IDLE or TRAPPED (R93). -/
def State.evalDispatch (s : State) (p : Nat) (d : Dispatch) : State :=
  let delta := (2 ^ 32 + d.seq - s.fget (R.TILE_SEQ_SEQ.at (tileOff p))) % 2 ^ 32
  if delta = 1 then s.acceptDispatch p d
  else if delta = 0 ∨ 2 ^ 31 ≤ delta then s.dupDispatch p
  else s.gapDispatch p d

/-- What a ring command notes of a dispatch that has ended: a number that no dispatch has, for HALT or for a trap. -/
def endMark (trapped : Bool) : Nat := 2 ^ 32 + if trapped then 2 else 1

/-- A command that waits for the dispatch of tile `p` with number `seq` learns that it has ended (R98). -/
def CmdWait.tileEnded (p seq : Nat) (trapped : Bool) : CmdWait → CmdWait
  | .tiles l => .tiles (l.map fun e => if e = (p, seq) then (p, endMark trapped) else e)
  | w => w

/-- A tile in IDLE or TRAPPED reports to the controller how its dispatch ended (R98). -/
def State.tileReport (s : State) (p : Nat) : State :=
  let seq := s.fget (R.TILE_SEQ_SEQ.at (tileOff p))
  let trapped := s.tileState p == 4
  { s with rings := s.rings.map fun r =>
      match r.run with
      | some u => { r with run := some { u with wait := u.wait.tileEnded p seq trapped } }
      | none => r }

/-- The dispatch a tile holds is evaluated when it reaches IDLE or TRAPPED, after the report of the one before (R93, R98). -/
def State.evalHeld (s : State) (p : Nat) : State :=
  match (s.tile p).held with
  | none => s
  | some d => (((s.tileReport p).setTile p { s.tile p with held := none })).evalDispatch p d

/-- A dispatch reaches physical tile P (R93). -/
def State.arrive (s : State) (p : Nat) (d : Dispatch) : State :=
  match s.tileState p with
  | 1 | 4 => s.evalDispatch p d
  | 2 | 3 =>
    match (s.tile p).held with
    | none => s.setTile p { s.tile p with held := some d }
    | some h => if h.seq = d.seq then s.dupDispatch p else s.gapDispatch p d
  | _ => s

/-- `DISPATCH_ARRIVE`. -/
def execDispatchArrive (p : Fin 192) (seq entry : BitVec 32) (a1 a2 a3 : BitVec 64) (s : State) : Res :=
  .next (s.arrive p.val ⟨seq.toNat, entry.toNat, a1, a2, a3⟩)

/-! ## Traps (R115-R118) -/

/-- A trap of the instruction with index `pc`: the trap registers load, the tile enters TRAPPED and reports; a held dispatch is then
evaluated. -/
def State.trapAt (s : State) (p pc : Nat) (ti : TrapInfo) : State :=
  let s := s.capture (R.TILE_TRAP_VALID.at (tileOff p)) (R.TILE_TRAP + tileOff p)
    (BitVec.ofNat 64 (ti.code * 2 ^ 48 + ti.berth * 2 ^ 42 + 2 ^ 32 + pc % 2 ^ 32)) (R.TILE_TRAP_ADDR + tileOff p) ti.addr
  let s := s.setTile p { s.tile p with wait := .none, collAbt := false }
  let s := s.setTileState p 4
  let s := s.report p .tileTrap ti.code ti.addr
  s.evalHeld p

/-- A trap of the instruction at issue. -/
def State.trap (s : State) (p : Nat) (ti : TrapInfo) : State := s.trapAt p (s.tile p).pc ti

/-! ## Fetch and issue (R83, R90, R551) -/

/-- Who reads, for a tile: instruction fetch, operands, DMA (R173, R174, R417). -/
def rqFetch (p : Nat) : Rq := ⟨0, 0, p⟩
/-- Operand reads. -/
def rqOperand (p : Nat) : Rq := ⟨0, 1, p⟩
/-- DMA reads. -/
def rqDma (p : Nat) : Rq := ⟨0, 2, p⟩

/-- The next instruction word: a trap, or the 128-bit word (R83, R116, R171). -/
def State.fetch (s : State) (p : Nat) : Except TrapInfo Nat × State :=
  let t := s.tile p
  let b := t.berth 1
  if !(b.usable && b.x) || decide (b.length < 16 * t.pc + 16) then
    (.error ⟨0x0030, 1, s.berthAddr b (max (16 * t.pc) b.length)⟩, s)
  else
    match s.readView (rqFetch p) (b.base + 16 * t.pc) 16 with
    | (l, s) =>
      match allSome l with
      | some l => (.ok (leNat l), s)
      | none => (.error ⟨0x0031, 0, s.globalAddr (firstBad (b.base + 16 * t.pc) l)⟩, s)

/-- CLASS of an instruction word. -/
def iCls (w : Nat) : Nat := nbits w 127 124
/-- OP. -/
def iOp (w : Nat) : Nat := nbits w 123 116
/-- BD. -/
def iBd (w : Nat) : Nat := nbits w 115 110
/-- BA. -/
def iBa (w : Nat) : Nat := nbits w 109 104
/-- BB. -/
def iBb (w : Nat) : Nat := nbits w 103 98
/-- BC. -/
def iBc (w : Nat) : Nat := nbits w 97 92
/-- IMM. -/
def iImm (w : Nat) : Nat := nbits w 63 0

/-- The operations each class lists (R84, R92, R98, R99, R103, R105, R106, R108, R112). -/
def opListed (cls op : Nat) : Bool :=
  match cls with
  | 0 => decide (op ≤ 7)
  | 1 => decide (op ≤ 2)
  | 2 => decide (op ≤ 1)
  | 3 => decide (op ≤ 0x0F)
  | 4 => decide (op ≤ 1)
  | 5 => decide (op ≤ 3)
  | 6 => decide (1 ≤ op ∧ op ≤ 3)
  | _ => false

/-- The tile goes on with the next instruction. -/
def State.advance (s : State) (p : Nat) : State := s.setTile p { s.tile p with pc := ((s.tile p).pc + 1) % 2 ^ 32 }

/-- Issue of the next instruction of tile P, for the row of one operation: a tile not in RUN does nothing, a failing fetch traps,
and a word of another operation waits for its own row. -/
def State.issue (s : State) (p : Nat) (mine : Nat → Bool) (body : State → Nat → State) : State :=
  if s.tileState p ≠ 2 then s
  else
    match s.fetch p with
    | (.error ti, s') => s'.trap p ti
    | (.ok w, s') => if mine w then body s' w else s

/-- The words of one class and operation. -/
def isOp (cls op : Nat) (w : Nat) : Bool := iCls w == cls && iOp w == op

/-! ## CTRL operations (R98) -/

/-- Signed 32-bit branch offset added to PC. -/
def branchTo (pc imm : Nat) : Nat := (pc + imm % 2 ^ 32) % 2 ^ 32

/-- The tile with PC moved by the branch offset of the word. -/
def State.branch (s : State) (p w : Nat) : State :=
  s.setTile p { s.tile p with pc := branchTo (s.tile p).pc (iImm w) }

/-- `NOP`. -/
def execNop (p : Fin 192) (s : State) : Res := .next (s.issue p.val (isOp 0 0) fun s _ => s.advance p.val)

/-- The tile starts waiting (R96). -/
def State.startWait (s : State) (p : Nat) (w : TileWait) : State :=
  (s.setTile p { s.tile p with wait := w, collAbt := false }).setTileState p 3

/-- `HALT` starts waiting as FENCE. -/
def execHalt (p : Fin 192) (s : State) : Res := .next (s.issue p.val (isOp 0 1) fun s _ => s.startWait p.val .halt)

/-- `JMP`. -/
def execJmp (p : Fin 192) (s : State) : Res := .next (s.issue p.val (isOp 0 2) fun s w => s.branch p.val w)

/-- `BNZ`. -/
def execBnz (p : Fin 192) (s : State) : Res :=
  .next (s.issue p.val (isOp 0 3) fun s w =>
    if (s.tile p.val).scalar (nbits w 91 88) ≠ 0 then s.branch p.val w else s.advance p.val)

/-- `BZ`. -/
def execBz (p : Fin 192) (s : State) : Res :=
  .next (s.issue p.val (isOp 0 4) fun s w =>
    if (s.tile p.val).scalar (nbits w 91 88) = 0 then s.branch p.val w else s.advance p.val)

/-- `GSET`. -/
def execGset (p : Fin 192) (s : State) : Res :=
  .next (s.issue p.val (isOp 0 5) fun s w =>
    (s.setTile p.val ((s.tile p.val).setScalar (nbits w 91 88) (BitVec.ofNat 64 (iImm w)))).advance p.val)

/-- `GADD`. -/
def execGadd (p : Fin 192) (s : State) : Res :=
  .next (s.issue p.val (isOp 0 6) fun s w =>
    let t := s.tile p.val
    (s.setTile p.val (t.setScalar (nbits w 91 88) (t.scalar (nbits w 87 84) + BitVec.ofNat 64 (iImm w)))).advance p.val)

/-- `FENCE` starts waiting. -/
def execFence (p : Fin 192) (s : State) : Res := .next (s.issue p.val (isOp 0 7) fun s _ => s.startWait p.val .fence)

/-- `ILLEGAL_OP`: a reserved class, or an operation its class does not list, traps (R85). -/
def execIllegalOp (p : Fin 192) (s : State) : Res :=
  .next (s.issue p.val (fun w => !opListed (iCls w) (iOp w)) fun s _ => s.trap p.val ⟨0x0001, 0, 0⟩)

/-! ## BERTH operations (R91, R92) -/

/-- The sub-berth of R92, before its checks. -/
def Berth.sub (b : Berth) (r c rows cols rights : Nat) : Berth :=
  let o := r * b.pitch + fmtBits b.fmt * c / 8
  { b with
    base := b.base + o
    originRow := (b.originRow + r) % 2 ^ 32
    originCol := (b.originCol + c) % 2 ^ 32
    rowElems := cols
    length := (rows - 1) * b.pitch + elemBytes b.fmt cols
    r := b.r && nbit rights 0 == 1
    w := b.w && nbit rights 1 == 1
    x := b.x && nbit rights 2 == 1 }

/-- The group rule for a sub-berth (R50): column offset and columns in whole groups. -/
def Berth.subGroups (b : Berth) (c cols : Nat) : Bool := c % groupElems b.fmt == 0 && cols % groupElems b.fmt == 0

/-- `BERTH.SUB`. DESIGN CHOICE (log entry 164): the sums of the immediates and the scalar registers do not wrap at 64 bits.
DESIGN CHOICE (log entry 201): the traps of the bounds, of no rows or columns and of the group rule name `BA` in TILE_TRAP.BERTH. -/
def State.berthSub (s : State) (p w : Nat) : State :=
  let t := s.tile p
  let b := t.berth (iBa w)
  let r := nbits w 63 44 + (t.scalar (nbits w 91 88)).toNat
  let c := nbits w 43 24 + (t.scalar (nbits w 87 84)).toNat
  let rows := nbits w 83 72
  let cols := nbits w 23 0
  let bad := firstTrap
    [ if b.usable then none else some ⟨0x0010, iBa w, 0⟩,
      if iBd w = 1 ∨ iBd w = 2 then some ⟨0x0011, iBd w, 0⟩ else none,
      if rows = 0 ∨ cols = 0 then some ⟨0x0014, iBa w, 0⟩ else none,
      s.chkRows b (iBa w) c cols r rows,
      if b.subGroups c cols then none else some ⟨0x0015, iBa w, 0⟩ ]
  match bad with
  | some ti => s.trap p ti
  | none => (s.setTile p (t.setBerth (iBd w) (b.sub r c rows cols (nbits w 66 64)))).advance p

/-- `BERTH_SUB`. -/
def execBerthSub (p : Fin 192) (s : State) : Res := .next (s.issue p.val (isOp 1 0) fun s w => s.berthSub p.val w)

/-- Write a berth register, unless it is B1 or B2 (R91). -/
def State.berthTo (s : State) (p w : Nat) (b : Berth) : State :=
  if iBd w = 1 ∨ iBd w = 2 then s.trap p ⟨0x0011, iBd w, 0⟩
  else (s.setTile p ((s.tile p).setBerth (iBd w) b)).advance p

/-- `BERTH_CPY`. DESIGN CHOICE (log entry 164): an invalid source is copied without a trap. -/
def execBerthCpy (p : Fin 192) (s : State) : Res :=
  .next (s.issue p.val (isOp 1 1) fun s w => s.berthTo p.val w ((s.tile p.val).berth (iBa w)))

/-- `BERTH_CLR`. -/
def execBerthClr (p : Fin 192) (s : State) : Res := .next (s.issue p.val (isOp 1 2) fun s w => s.berthTo p.val w .null)

/-! ## Trigger counters (R108) -/

/-- The counter an instruction names: its index is below the manifest's TRIG_CTRS, or the instruction traps. -/
def State.withCtr (s : State) (p w : Nat) (body : State → State) : State :=
  if s.prog.trigCtrs ≤ nbits w 9 0 then s.trap p ⟨0x0040, 0, 0⟩ else body s

/-- `CTR_ADD`. -/
def execCtrAdd (p : Fin 192) (s : State) : Res :=
  .next (s.issue p.val (isOp 5 0) fun s w =>
    s.withCtr p.val w fun s => (s.ctrAdd (p.val / 48) (nbits w 9 0) (nbits w 63 32)).advance p.val)

/-- `CTR_SET` sets the counter and clears its marks (R108, R360). -/
def execCtrSet (p : Fin 192) (s : State) : Res :=
  .next (s.issue p.val (isOp 5 2) fun s w =>
    s.withCtr p.val w fun s =>
      let o := ctrOff (p.val / 48) (nbits w 9 0)
      (((s.fset (R.CTR_VALUE.at o) (nbits w 63 32)).fset (R.CTR_BROKEN.at o) 0).fset (R.CTR_ABORTED.at o) 0).advance p.val)

/-- `CTR_WAIT` holds the sequencer. -/
def execCtrWait (p : Fin 192) (s : State) : Res :=
  .next (s.issue p.val (isOp 5 1) fun s w =>
    s.withCtr p.val w fun s => s.startWait p.val (.ctr (nbits w 9 0) (nbits w 63 32)))

/-- The tile leaves WAIT and goes on after the waiting instruction. -/
def State.resume (s : State) (p : Nat) : State :=
  ((s.setTile p { s.tile p with wait := .none }).setTileState p 2).advance p

/-- `CTR_WAIT_RELEASE`: a broken counter traps, an aborted one traps, and a counter at its value releases the wait (R108, R114). -/
def execCtrWaitRelease (p : Fin 192) (s : State) : Res :=
  .next (match (s.tile p.val).wait with
    | .ctr k v =>
      let o := ctrOff (p.val / 48) k
      if s.tileState p.val ≠ 3 then s
      else if s.flag (R.CTR_BROKEN.at o) then s.trap p.val ⟨0x0041, 0, 0⟩
      else if s.flag (R.CTR_ABORTED.at o) then s.trap p.val ⟨0x0043, 0, 0⟩
      else if v ≤ s.fget (R.CTR_VALUE.at o) then s.resume p.val
      else s
    | _ => s)

end Sys2Proof.Machine
end

