-- ==== Sys2Proof/Machine/Vec.lean ====
section
/-! DEFINITION. The vector unit (R67, R105): checks, elementwise arithmetic, conversions, reductions and XP160 addition. -/

namespace Sys2Proof.Machine

/-- Does a berth lie in the tile's own scratchpad (R104, R105)? -/
def State.ownScratch (s : State) (p : Nat) (b : Berth) : Bool :=
  b.kind == 2 && (b.base - spBase) / spSize == s.logicalOf p

/-- One place at which an instruction names a berth: what that place asks of it. -/
structure Place where
  idx    : Nat
  write  : Bool
  kindOk : Berth → Bool
  fmtOk  : Berth → Bool

/-- Checks 1 to 4 of R90 over the places of an instruction in order; a berth named at several places is checked once, at its
first place, against all that its places ask (R551). -/
def chkPlaces (t : Tile) (all : List Place) : List Place → List Nat → Option TrapInfo
  | [], _ => none
  | u :: l, seen =>
    if seen.contains u.idx then chkPlaces t all l seen
    else
      let mine := all.filter (fun v => v.idx == u.idx)
      let b := t.berth u.idx
      if !b.usable then some ⟨0x0010, u.idx, 0⟩
      else if mine.any (fun v => !(if v.write then b.w else b.r)) then some ⟨0x0011, u.idx, 0⟩
      else if mine.any (fun v => !v.kindOk b) then some ⟨0x0012, u.idx, 0⟩
      else if mine.any (fun v => !v.fmtOk b) then some ⟨0x0013, u.idx, 0⟩
      else chkPlaces t all l (u.idx :: seen)

/-- FP32, BF16 or FP16 without scales. -/
def isF3 (b : Berth) : Bool := (b.fmt == 6 || b.fmt == 7 || b.fmt == 8) && !b.scaleEn

/-- Source formats of a vector operation (R105); `bd` is the destination berth. -/
def vecSrcOk (op : Nat) (bd b : Berth) : Bool :=
  match op with
  | 0x06 => decide (1 ≤ b.fmt ∧ b.fmt ≤ 0x0D)
  | 0x0D => b.fmt == 0x0D && !b.scaleEn
  | 0x0E | 0x0F => b.fmt == bd.fmt && b.scaleEn == bd.scaleEn
  | _ => isF3 b

/-- Format of the selector of VSEL (R105). -/
def vecSelOk (b : Berth) : Bool := decide (1 ≤ b.fmt ∧ b.fmt ≤ 0x0D)

/-- Destination formats of a vector operation (R105). -/
def vecDstOk (op : Nat) (b : Berth) : Bool :=
  match op with
  | 0x06 => decide (1 ≤ b.fmt ∧ b.fmt ≤ 0x0B) && !b.scaleEn
  | 0x0D => b.fmt == 0x0D && !b.scaleEn
  | 0x0E | 0x0F => decide (1 ≤ b.fmt ∧ b.fmt ≤ 0x0D)
  | _ => isF3 b

/-- The source berths an operation reads (R105). -/
def vecSrcs (w : Nat) : List Nat :=
  match iOp w with
  | 0x00 | 0x01 | 0x02 | 0x04 | 0x05 => [iBa w, iBb w]
  | 0x03 | 0x0E => [iBa w, iBb w, iBc w]
  | 0x0D => if iBc w = 0 then [iBa w, iBb w] else [iBa w, iBb w, iBc w]
  | _ => [iBa w]

/-- Does the conversion read scales? -/
def vecScaled (t : Tile) (w : Nat) : Bool := iOp w == 0x06 && (t.berth (iBa w)).scaleEn

/-- The places of a vector instruction, in the order of R551. -/
def State.vecPlaces (s : State) (p w : Nat) : List Place :=
  let t := s.tile p
  let own := s.ownScratch p
  let bd := t.berth (iBd w)
  let src := fun i => (⟨i, false, own, vecSrcOk (iOp w) bd⟩ : Place)
  let srcs := vecSrcs w
  let scale := if vecScaled t w then [(⟨(t.berth (iBa w)).scaleBerth, false, own, fun b => b.fmt == 0x0C⟩ : Place)] else []
  let rest := (srcs.drop 1).zipIdx.map fun (i, k) =>
    if iOp w = 0x0E ∧ k = 1 then (⟨i, false, own, vecSelOk⟩ : Place) else src i
  (srcs.take 1).map src ++ scale ++ rest ++ [⟨iBd w, true, own, vecDstOk (iOp w)⟩]

/-- Reserved encodings of a vector word (R85, R105). -/
def vecEncBad (w : Nat) : Bool := nbits w 91 90 == 3 || (iOp w == 0x0C && nbits w 87 86 == 3)

/-- Column of the scale of element (r, c) (R101). -/
def scaleCol (b : Berth) (c : Nat) : Nat := (b.originCol + c) / 32

/-- What the first `n` elements of berth `i` access. -/
def Tile.elemExtent (t : Tile) (i n : Nat) : Extent := (i, (t.berth i).failElems (t.berth i).rowElems n)

/-- What the first `n` elements of a scaled source access of its scale berth. -/
def Tile.scaleExtent (t : Tile) (i n : Nat) : Extent :=
  let b := t.berth i
  let row := fun r k => (t.berth b.scaleBerth).failRows (scaleCol b 0) (scaleCol b (k - 1) + 1 - scaleCol b 0) r
  (b.scaleBerth,
    if n = 0 ∨ b.rowElems = 0 then none
    else firstElem (row 0 b.rowElems (n / b.rowElems))
      (if n % b.rowElems = 0 then none else row (n / b.rowElems) (n % b.rowElems) 1))

/-- Every check of a vector instruction (R551). -/
def State.vecCheck (s : State) (p w : Nat) : Option TrapInfo :=
  let t := s.tile p
  let n := nbits w 31 0
  let pl := s.vecPlaces p w
  let ext := ((vecSrcs w).take 1).map (fun i => t.elemExtent i n) ++ (if vecScaled t w then [t.scaleExtent (iBa w) n] else [])
    ++ ((vecSrcs w).drop 1).map (fun i => t.elemExtent i n) ++ [t.elemExtent (iBd w) (if iOp w = 0x0C then 1 else n)]
  firstTrap [trapIf (vecEncBad w) 0x0001, chkPlaces t pl pl [], s.chkBounds t ext ext]

/-- Rounding of element `i` of the destination (R68-R71). -/
def State.vecMode (s : State) (w : Nat) (bd : Berth) (i : Nat) : RMode :=
  ⟨nbits w 91 90, nbit w 89 == 1,
    srDraw s.srSeed (nbits w 63 32) (bd.originRow + i / bd.rowElems) (bd.originCol + i % bd.rowElems)⟩

/-- Round the results of an elementwise operation into the destination format. -/
def State.vecRound (s : State) (w : Nat) (bd : Berth) (vs : List Xv) : List (Nat × RFlags) :=
  match fmtElem bd.fmt with
  | some f => vs.zipIdx.map fun (v, i) => f.round (s.vecMode w bd i) v
  | none => []

/-- The exact value of an element code (XP160 included). -/
def elemValue (fmt c : Nat) : Xv :=
  if fmt = 0x0D then (Xp.ofBytes (leBytes 24 c)).value
  else match fmtElem fmt with
    | some f => f.decode c
    | none => .nan

/-- Flags of a result element written by its code: NaN, infinite, or an XP160 with its own flags (R153, R338). -/
def elemFlags (fmt v : Nat) : OutFlags :=
  if fmt = 0x0D then .ofXp (Xp.ofBytes (leBytes 24 v))
  else match elemValue fmt v with
    | .nan => { rf := { nan := true } }
    | .inf _ => { rf := { inf := true } }
    | _ => {}

/-- An MXINT8 element carries a factor of 2^-6 (R49). -/
def mxValue (fmt c scale : Nat) : Xv :=
  let v := elemValue fmt c
  let v := if fmt = 9 then v.mul (.fin ⟨false, 1, -6, false⟩) else v
  v.mul (EFmt.e8m0.decode scale)

/-- Elementwise result of an arithmetic operation. -/
def vecArith (op : Nat) (a b c : Xv) : Xv :=
  match op with
  | 0x00 => a.add b
  | 0x01 => a.add b.negate
  | 0x02 => a.mul b
  | 0x03 => (a.mul b).add c
  | 0x04 => a.max b
  | 0x05 => a.min b
  | 0x07 => Xv.div (.fin ⟨false, 1, 0, false⟩) a
  | 0x08 => a.sqrt
  | 0x09 => a.rsqrt
  | 0x0A => a.exp2
  | 0x0B => a.log2
  | _ => a

/-- The reduction of VRED (R67, R105). -/
def vecReduce (kind : Nat) (l : List Nat) : Nat :=
  match kind with
  | 1 => reduce32 max32 0xFF800000 l
  | 2 => reduce32 min32 0x7F800000 l
  | _ => reduce32 add32 0 l

/-- What an elementwise operation writes: codes and flags. DESIGN CHOICE (log entry 159): VSEL and VMOV, which copy element bits, raise no
flag for a NaN, infinite or flagged element that they copy. DESIGN CHOICE (log entry 184): WIDE_SPAN and XP_OVF that an XP160 source
carries count for XADD, whose result carries them on, and not for VCVT, whose result does not. -/
def State.vecCompute (s : State) (w : Nat) (ba bb bc bd : Berth) (as bs cs scs : List Nat) : List Nat × OutFlags :=
  let rounded := fun (vs : List Xv) =>
    let r := s.vecRound w bd vs
    (r.map (·.1), orFlags (r.map fun e => .ofRnd e.2))
  match iOp w with
  | 0x06 =>
    rounded ((as.zip (if ba.scaleEn then scs else as)).map fun (a, sc) =>
      if ba.scaleEn then mxValue ba.fmt a sc else elemValue ba.fmt a)
  | 0x0C => rounded [f32 (vecReduce (nbits w 87 86) (as.map fun a => rne32 (elemValue ba.fmt a)))]
  | 0x0D =>
    let xs := as.zipIdx.map fun (a, i) =>
      let l := [Xp.ofBytes (leBytes 24 a), Xp.ofBytes (leBytes 24 (bs.getD i 0))]
        ++ if iBc w = 0 then [] else [Xp.ofBytes (leBytes 24 (cs.getD i 0))]
      (xpAddOvf l, xpAdd l)
    (xs.map (fun x => leNat x.2.bytes), orFlags (xs.map fun x => { OutFlags.ofXp x.2 with ovf := x.1 }))
  | 0x0E => (as.zipIdx.map fun (a, i) => if cs.getD i 0 ≠ 0 then a else bs.getD i 0, {})
  | 0x0F => (as, {})
  | op =>
    rounded (as.zipIdx.map fun (a, i) =>
      vecArith op (elemValue ba.fmt a) (elemValue bb.fmt (bs.getD i 0)) (elemValue bc.fmt (cs.getD i 0)))

/-- Read the first `n` elements of an operand, if the operation has it. -/
def State.vecRead (s : State) (p : Nat) (b : Berth) (use : Bool) (n : Nat) : Except Nat (List Nat) × State :=
  if use then s.readElems (rqOperand p) b (b.coords n) else (.ok [], s)

/-- Run a vector instruction that passed its checks: read every operand, compute, write (R105, R167, R171). -/
def State.vecRun (s : State) (p w : Nat) : State :=
  let t := s.tile p
  let n := nbits w 31 0
  let pc := t.pc
  let ba := t.berth (iBa w)
  let bb := t.berth (iBb w)
  let bc := t.berth (iBc w)
  let bd := t.berth (iBd w)
  let k := (vecSrcs w).length
  let ecc := fun (s : State) a => s.trap p ⟨0x0032, 0, s.globalAddr a⟩
  match s.vecRead p ba true n with
  | (.error a, s) => ecc s a
  | (.ok as, s) =>
    let sb := t.berth ba.scaleBerth
    match (if vecScaled t w then
        s.readElems (rqOperand p) sb ((ba.coords n).map fun (r, c) => (r, scaleCol ba c)) else (.ok [], s)) with
    | (.error a, s) => ecc s a
    | (.ok scs, s) =>
      match s.vecRead p bb (k ≥ 2) n with
      | (.error a, s) => ecc s a
      | (.ok bs, s) =>
        match s.vecRead p bc (k ≥ 3) n with
        | (.error a, s) => ecc s a
        | (.ok cs, s) =>
          let (out, fl) := s.vecCompute w ba bb bc bd as bs cs scs
          match s.runsPre (rqOperand p) bd (bd.runs out) with
          | (some a, s) => ecc s a
          | (none, s) => ((s.runsWrite bd (bd.runs out)).arithStatus p pc fl).advance p

/-- A vector instruction (R105). -/
def State.vec (s : State) (p op : Nat) : State :=
  s.issue p (isOp 3 op) fun s w =>
    match s.vecCheck p w with
    | some ti => s.trap p ti
    | none => s.vecRun p w

/-- `VADD`. -/
def execVadd (p : Fin 192) (s : State) : Res := .next (s.vec p.val 0x00)
/-- `VSUB`. -/
def execVsub (p : Fin 192) (s : State) : Res := .next (s.vec p.val 0x01)
/-- `VMUL`. -/
def execVmul (p : Fin 192) (s : State) : Res := .next (s.vec p.val 0x02)
/-- `VFMA`. -/
def execVfma (p : Fin 192) (s : State) : Res := .next (s.vec p.val 0x03)
/-- `VMAX`. -/
def execVmax (p : Fin 192) (s : State) : Res := .next (s.vec p.val 0x04)
/-- `VMIN`. -/
def execVmin (p : Fin 192) (s : State) : Res := .next (s.vec p.val 0x05)
/-- `VCVT`. -/
def execVcvt (p : Fin 192) (s : State) : Res := .next (s.vec p.val 0x06)
/-- `VRCP`. -/
def execVrcp (p : Fin 192) (s : State) : Res := .next (s.vec p.val 0x07)
/-- `VSQRT`. -/
def execVsqrt (p : Fin 192) (s : State) : Res := .next (s.vec p.val 0x08)
/-- `VRSQ`. -/
def execVrsq (p : Fin 192) (s : State) : Res := .next (s.vec p.val 0x09)
/-- `VEXP2`. -/
def execVexp2 (p : Fin 192) (s : State) : Res := .next (s.vec p.val 0x0A)
/-- `VLOG2`. -/
def execVlog2 (p : Fin 192) (s : State) : Res := .next (s.vec p.val 0x0B)
/-- `VRED`. -/
def execVred (p : Fin 192) (s : State) : Res := .next (s.vec p.val 0x0C)
/-- `XADD`. -/
def execXadd (p : Fin 192) (s : State) : Res := .next (s.vec p.val 0x0D)
/-- `VSEL`. -/
def execVsel (p : Fin 192) (s : State) : Res := .next (s.vec p.val 0x0E)
/-- `VMOV`. -/
def execVmov (p : Fin 192) (s : State) : Res := .next (s.vec p.val 0x0F)

end Sys2Proof.Machine
end

