-- ==== Sys2Proof/Machine/Mma.lean ====
section
/-! DEFINITION. The matrix engine (R56-R66, R72-R74, R99-R104): checks at issue, exact accumulation of low formats, the fixed
order of BF16 and FP16, and output. -/

namespace Sys2Proof.Machine

/-- The arguments of an `MMA` after its scalar registers are added (R99). `mb` and `nb` count block rows and columns: 1 each for
`MMA`, those of R111 for a fused instruction. -/
structure MmaArgs where
  acc    : Nat
  init   : Bool
  write  : Bool
  sparse : Bool
  metaB  : Nat
  rnd    : Nat
  sat    : Bool
  kbeg   : Nat
  klen   : Nat
  mblk   : Nat
  nblk   : Nat
  mb     : Nat
  nb     : Nat
  ba     : Nat
  bb     : Nat
  bc     : Nat
  bd     : Nat
  deriving DecidableEq, Repr

/-- The arguments of an `MMA` word (R99). -/
def mmaArgs (t : Tile) (w : Nat) : MmaArgs :=
  let g := fun i => (t.scalar i).toNat
  { acc := nbits w 91 90, init := nbit w 89 == 1, write := nbit w 88 == 1, sparse := nbit w 87 == 1, metaB := nbits w 86 81,
    rnd := nbits w 80 79, sat := nbit w 78 == 1,
    kbeg := (nbits w 63 43 + g (nbits w 71 68)) % 2 ^ 64, klen := nbits w 42 22,
    mblk := (nbits w 21 11 + g (nbits w 67 64)) % 2 ^ 64, nblk := (nbits w 10 0 + g (nbits w 75 72)) % 2 ^ 64,
    mb := 1, nb := 1, ba := iBa w, bb := iBb w, bc := iBc w, bd := iBd w }

/-! ## Formats (R56, R57) -/

/-- Low float formats. -/
def isLowFp (f : Nat) : Bool := decide (1 ≤ f ∧ f ≤ 5)
/-- Integer formats of the matrix engine. -/
def isLowInt (f : Nat) : Bool := f == 0x09 || f == 0x0A
/-- BF16 and FP16. -/
def isWide (f : Nat) : Bool := f == 0x06 || f == 0x07

/-- The pairs of R56. DESIGN CHOICE (log entry 185): INT8 × INT4 stands for either order of the two. -/
def pairOk (fa : Nat) (mxA : Bool) (fb : Nat) (mxB : Bool) : Bool :=
  (isLowFp fa && isLowFp fb) || (isWide fa && isWide fb) || (isLowInt fa && isLowInt fb && mxA == mxB)

/-- Unit exponent and integer width (R57). -/
def unitWidth (f : Nat) (mx : Bool) : Int × Nat :=
  match f with
  | 0x01 => (-1, 4) | 0x02 => (-3, 6) | 0x03 => (-4, 9) | 0x04 => (-9, 18) | 0x05 => (-16, 32)
  | 0x0A => (0, 4) | 0x09 => (if mx then -6 else 0, 8)
  | _ => (0, 0)

/-- An element of a low format: NaN, an infinity, or an integer of units 2^u (R57). -/
inductive LowVal
  | nan
  | inf (neg : Bool)
  | int (n : Int)
  deriving DecidableEq, Repr

/-- The low value of a code. -/
def lowVal (f c : Nat) : LowVal :=
  match f with
  | 0x09 => .int (sint 8 c)
  | 0x0A => .int (sint 4 c)
  | _ =>
    match elemValue f c with
    | .nan => .nan
    | .inf n => .inf n
    | .fin x => .int (x.scaled (unitWidth f false).1)

/-- What the products of one block raise: the exact partial and the special values (R58, R63). -/
structure BlockSum where
  p    : Int  := 0
  nan  : Bool := false
  pinf : Bool := false
  ninf : Bool := false
  deriving DecidableEq, Repr

/-- One product added to a block (R58, R63). -/
def BlockSum.addProd (b : BlockSum) (x y : LowVal) : BlockSum :=
  let inf := fun (neg : Bool) => if neg then { b with ninf := true } else { b with pinf := true }
  match x, y with
  | .nan, _ => { b with nan := true }
  | _, .nan => { b with nan := true }
  | .inf m, .inf n => inf (xor m n)
  | .inf m, .int n => if n = 0 then { b with nan := true } else inf (xor m (decide (n < 0)))
  | .int m, .inf n => if m = 0 then { b with nan := true } else inf (xor n (decide (m < 0)))
  | .int m, .int n => { b with p := b.p + m * n }

/-- The products of two runs of elements. -/
def blockSum (a b : List LowVal) : BlockSum := (a.zip b).foldl (fun s (x, y) => s.addProd x y) {}

/-! ## Anchors (R59) -/

/-- The largest and smallest of a list of scale sums; (0, 0) where there is none. -/
def spanOf : List Int → Int × Int
  | [] => (0, 0)
  | x :: t => t.foldl (fun (hi, lo) y => (max hi y, min lo y)) (x, x)

/-- The scale sums of the blocks whose scales are not 0xFF, over a row of A's scales and a row of B's (R59). -/
def scaleSums (a b : List Nat) : List Int :=
  (a.zip b).filterMap fun (x, y) => if x = 0xFF ∨ y = 0xFF then none else some ((x : Int) + y - 254)

/-- Anchor, spread of the scale sums under AUTO, and the limit D, for one output element (R57, R59). -/
def anchorOf (fixed : Bool) (fixA : Int) (fa : Nat) (mxA : Bool) (fb : Nat) (mxB : Bool) (sa sb : List Nat) : Int × Nat × Nat :=
  let (ua, wa) := unitWidth fa mxA
  let (ub, wb) := unitWidth fb mxB
  let (hi, lo) := spanOf (scaleSums sa sb)
  if fixed then (fixA, 0, 139 - wa - wb) else (ua + ub + hi + ((wa + wb + 5 : Nat) : Int) - 144, (hi - lo).toNat, 139 - wa - wb)

/-- A fresh accumulation of one output element: its anchor, and an XP160 C operand as its first term (R60-R62). DESIGN CHOICE (log
entry 161): WIDE_SPAN and XP_OVF that the operand already carries pass on to the output and count as events of this instruction. -/
def AccEnt.start (anchor : Int) (span : Nat) (wide : Bool) (xpC : Option Xp) (c : Xv) : AccEnt :=
  let e : AccEnt := ⟨0, 0, anchor, span, wide, false, false, false, false, c, rne32 c⟩
  match xpC with
  | none => e
  | some x =>
    let y := x.realign anchor
    if y.nan then { e with nan := true, wide := wide || y.wide }
    else if y.inf then { e with pinf := !y.negInf, ninf := y.negInf, ovf := y.ovf, wide := wide || y.wide }
    else { e with sum := y.v, ovf := y.ovf, wide := wide || y.wide }

/-- A block partial enters the window (R60, R61). -/
def AccEnt.enter (e : AccEnt) (fixed : Bool) (p shift : Int) : AccEnt :=
  let (n, lost) := shiftFloor p shift
  let (n, o) := sat160 n
  { e with sum := e.sum + n, ovf := e.ovf || o, wide := e.wide || (fixed && lost), part := 0 }

/-- One block of the instruction's K range: absolute block number, elements of A and B in it, scales, and whether it is complete. -/
structure KBlock where
  j    : Nat
  lo   : Nat   -- first element, counted from the instruction's first K element
  n    : Nat
  full : Bool
  deriving DecidableEq, Repr

/-- The blocks of K indices [k0, k0 + klen); the fuel counts blocks. -/
def kBlocks (k0 klen : Nat) : Nat → Nat → List KBlock
  | 0, _ => []
  | f + 1, o =>
    if o ≥ klen then []
    else
      let j := (k0 + o) / 32
      let e := min (32 * j + 32 - k0) klen
      ⟨j, o, e - o, decide (k0 + e = 32 * j + 32)⟩ :: kBlocks k0 klen f e

/-- One block accumulated into an output element. -/
def AccEnt.block (e : AccEnt) (fixed write : Bool) (lp : Int) (k : KBlock) (a b : List LowVal) (x y : Nat) : AccEnt :=
  let r := blockSum ((a.drop k.lo).take k.n) ((b.drop k.lo).take k.n)
  let e := { e with nan := e.nan || r.nan || x == 0xFF || y == 0xFF, pinf := e.pinf || r.pinf, ninf := e.ninf || r.ninf }
  if x = 0xFF ∨ y = 0xFF then { e with part := 0 }
  else if k.full || write then e.enter fixed (e.part + r.p) (lp + ((x : Int) + y - 254) - e.anchor)
  else { e with part := e.part + r.p }

/-- The exact window value of an output element after the final saturation (R61, R63). -/
def AccEnt.window (e : AccEnt) : Xp :=
  let (n, o) := sat160 e.sum
  let ovf := e.ovf || o
  if e.nan || (e.pinf && e.ninf) then Xp.mkNan e.wide
  else if e.pinf then Xp.mkInf false ovf e.wide
  else if e.ninf then Xp.mkInf true ovf e.wide
  else ⟨n, e.anchor, ovf, false, false, false, e.wide⟩

/-- The output of a low-format element (R62-R64): its code and flags. -/
def AccEnt.out (e : AccEnt) (s : AccSet) (fmt : Nat) (rm : RMode) : Nat × OutFlags :=
  let w := e.window
  let ovf := e.ovf || (sat160 e.sum).2
  let span := if s.fixed then 0 else e.span
  if fmt = 0x0D then (leNat w.bytes, { OutFlags.ofXp w with ovf := ovf, span := span })
  else
    match fmtElem fmt with
    | some f =>
      let (c, fl) := f.round rm (((f32 s.alpha).mul w.value).add e.c).plusZero
      (c, ⟨e.wide, ovf, fl, span⟩)
    | none => (0, {})

/-- The output of a BF16 or FP16 element (R65): with α = 1.0 and FP32 output, `acc` itself. -/
def AccEnt.outWide (e : AccEnt) (s : AccSet) (fmt : Nat) (rm : RMode) : Nat × OutFlags :=
  if fmt = 0x08 ∧ s.alpha = 0x3F800000 then (e.acc32, elemFlags 0x08 e.acc32)
  else match fmtElem fmt with
  | some f =>
    let (c, fl) := f.round rm ((f32 s.alpha).mul (f32 e.acc32))
    (c, .ofRnd fl)
  | none => (0, {})

/-- A share of a BF16 or FP16 dot product from a running result (R65, R66). -/
def dotWide (fa fb acc : Nat) (a b : List Nat) : Nat :=
  let t := (a.zip b).map fun (x, y) => rne32 ((elemValue fa x).mul (elemValue fb y))
  chunkReduce add32 0 (t.length / 256 + 1) t acc

/-! ## Checks at issue (R104, R551) -/

/-- The scale place of an operand berth. -/
def State.scalePlace (s : State) (p : Nat) (t : Tile) (i : Nat) : List Place :=
  if (t.berth i).scaleEn then [⟨(t.berth i).scaleBerth, false, s.ownScratch p, fun b => b.fmt == 0x0C⟩] else []

/-- FMT 0x00 is for DMA only (R88). -/
def notRaw (b : Berth) : Bool := b.fmt != 0

/-- Step 2 of R551; `bc` is what the instruction asks of `BC`, `bbW` whether it also writes `BB`, and `bdR` whether it also reads `BD`
(R112). -/
def State.mmaPlaces (s : State) (p : Nat) (a : MmaArgs) (bc : List Place) (bbW bdR : Bool) : List Place :=
  let t := s.tile p
  let own := s.ownScratch p
  [(⟨a.ba, false, own, fun b => notRaw b && (!a.sparse || b.fmt == 4 || b.fmt == 5 || b.fmt == 1)⟩ : Place)] ++ s.scalePlace p t a.ba
    ++ [(⟨a.bb, false, own, notRaw⟩ : Place)] ++ (if bbW then [⟨a.bb, true, own, notRaw⟩] else [])
    ++ s.scalePlace p t a.bb ++ bc
    ++ (if a.sparse then [⟨a.metaB, false, own, fun b => b.fmt == 0x0E⟩] else [])
    ++ (if a.write then [⟨a.bd, true, own, notRaw⟩] else []) ++ (if bdR then [⟨a.bd, false, own, notRaw⟩] else [])

/-- The K index of the instruction's first element (R100). -/
def mmaK0 (t : Tile) (a : MmaArgs) : Nat := (t.berth a.ba).originCol + a.kbeg

/-- Blocks of the anchor span of an MX pair: the `ROW_ELEMS` of A's scale berth, or of B's (R101). -/
def spanBlocks (t : Tile) (a : MmaArgs) : Nat :=
  if (t.berth a.ba).scaleEn then (t.berth (t.berth a.ba).scaleBerth).rowElems
  else if (t.berth a.bb).scaleEn then (t.berth (t.berth a.bb).scaleBerth).rowElems
  else 0

/-- Is the accumulation of a set the one an instruction with `INIT` = 0 continues (R102)? Its anchors are compared when the scales
are read. -/
def AccSet.samePair (u : AccSet) (t : Tile) (a : MmaArgs) : Bool :=
  let x := t.berth a.ba
  let y := t.berth a.bb
  u.fmtA == x.fmt && u.mxA == x.scaleEn && u.fmtB == y.fmt && u.mxB == y.scaleEn && u.bd == a.bd

/-- Output formats of R62. -/
def outFmtOk (b : Berth) : Bool := b.fmt == 0x0D || ((b.fmt == 4 || b.fmt == 5 || b.fmt == 6 || b.fmt == 7 || b.fmt == 8) && !b.scaleEn)

/-- Kind of the C operand of the accumulation an instruction takes part in: 0 none, 1 XP160, 2 float. -/
def mmaCKind (t : Tile) (u : AccSet) (a : MmaArgs) : Nat :=
  if !a.init then u.cKind else if a.bc = 0 then 0 else if (t.berth a.bc).fmt = 0x0D then 1 else 2

/-- Is a C or an output outside R62 (R104)? DESIGN CHOICE (log entry 162): an XP160 C with a float output is refused at the instruction
that writes, not at the one that starts the accumulation. -/
def mmaCBad (t : Tile) (u : AccSet) (a : MmaArgs) : Bool :=
  let wide := isWide (t.berth a.ba).fmt
  let c := t.berth a.bc
  let d := t.berth a.bd
  let k := mmaCKind t u a
  let alpha := if a.init then u.cfgAlpha else u.alpha
  (a.init && a.bc != 0 && !(c.fmt == 6 || c.fmt == 7 || c.fmt == 8 || (c.fmt == 0x0D && !wide)))
  || (a.write && (!outFmtOk d || (d.fmt == 0x0D && (wide || k == 2 || alpha != 0x3F800000)) || (d.fmt != 0x0D && k == 1)))

/-- Step 3 of R551 in the order of R104. DESIGN CHOICE (log entry 186): ACC_STATE of R102, which R104 does not list, comes for an empty
set before the K index, and for another pair, anchor or `BD` after it. -/
def mmaCond (t : Tile) (a : MmaArgs) : List (Option TrapInfo) :=
  let x := t.berth a.ba
  let y := t.berth a.bb
  let u := vget .empty t.acc a.acc
  let mx := x.scaleEn || y.scaleEn
  let wide := isWide x.fmt
  let k0 := mmaK0 t a
  let unitK := if wide then 256 else if mx then 32 else 1
  let span := if wide then 0 else if mx then 32 * spanBlocks t a else a.klen + if a.init then 0 else u.kSum
  [ trapIf (!pairOk x.fmt x.scaleEn y.fmt y.scaleEn) 0x0020,
    trapIf (decide (span > 2 ^ 20)) 0x0021,
    trapIf (!a.init && !u.isOpen) 0x0025,
    trapIf (decide (k0 % unitK ≠ 0) || (a.sparse && (decide (k0 % 4 ≠ 0) || decide ((k0 + a.klen) % 4 ≠ 0)))
      || (!a.init && (decide (k0 ≠ u.kEnd) || decide (u.kEnd % unitK ≠ 0)))) 0x0022,
    trapIf (!a.init && !u.samePair t a) 0x0025,
    trapIf (decide (x.originCol ≠ y.originCol) || (x.scaleEn && y.scaleEn
      && decide ((t.berth x.scaleBerth).rowElems ≠ (t.berth y.scaleBerth).rowElems))) 0x0022,
    trapIf (mmaCBad t u a) 0x0024 ]

/-- Blocks of the instruction's own K range: the first, and how many. -/
def mmaBlocks (t : Tile) (a : MmaArgs) : Nat × Nat :=
  let k0 := mmaK0 t a
  (k0 / 32, (k0 + a.klen - 1) / 32 + 1 - k0 / 32)

/-- Does the instruction read the scales of the whole anchor span? -/
def mmaAuto (t : Tile) (a : MmaArgs) : Bool :=
  let u := vget .empty t.acc a.acc
  !(if a.init then u.cfgFixed else u.fixed)

/-- What is accessed of a scale berth: rows of its element berth, all columns of the span under AUTO, and the blocks used (R90, R101). -/
def scaleExtents (t : Tile) (a : MmaArgs) (i r0 n : Nat) : List Extent :=
  let k := (t.berth i).scaleBerth
  let b := t.berth k
  let (j0, nj) := mmaBlocks t a
  if (t.berth i).scaleEn then
    [(k, firstElem (if mmaAuto t a then b.failRows 0 b.rowElems r0 n else none) (b.failRows j0 nj r0 n))]
  else []

/-- What an instruction accesses, in the order of step 2 of R551; `bc` is the part of `BC`. -/
def mmaExtents (t : Tile) (a : MmaArgs) (bc : List Extent) : List Extent :=
  let h := if a.sparse then 2 else 1
  [(a.ba, (t.berth a.ba).failRows (a.kbeg / h) (a.klen / h) (16 * a.mblk) (16 * a.mb))]
    ++ scaleExtents t a a.ba (16 * a.mblk) (16 * a.mb)
    ++ [(a.bb, (t.berth a.bb).failRows a.kbeg a.klen (16 * a.nblk) (16 * a.nb))]
    ++ scaleExtents t a a.bb (16 * a.nblk) (16 * a.nb)
    ++ bc
    ++ (if a.sparse then [(a.metaB, (t.berth a.metaB).failRows (a.kbeg / 4) (a.klen / 4) (16 * a.mblk) (16 * a.mb))] else [])
    ++ (if a.write then [(a.bd, (t.berth a.bd).failRows (16 * a.nblk) (16 * a.nb) (16 * a.mblk) (16 * a.mb))] else [])

/-- Reserved encodings of an `MMA` word, and the guard of R104 on `SPARSE` (R85, R99). -/
def State.mmaEncBad (s : State) (w : Nat) : Bool :=
  nbits w 77 76 != 0 || nbits w 80 79 == 3 || nbits w 42 22 == 0
    || (nbit w 87 == 1 && (!s.sparseLicensed || s.shunting))

/-- Every check of an `MMA`. -/
def State.mmaCheck (s : State) (p w : Nat) : Option TrapInfo :=
  let t := s.tile p
  let a := mmaArgs t w
  let useC := a.init && a.bc != 0
  let pl := s.mmaPlaces p a (if useC then [⟨a.bc, false, s.ownScratch p, notRaw⟩] else []) false false
  let ext := mmaExtents t a (if useC then [(a.bc, (t.berth a.bc).failRows (16 * a.nblk) 16 (16 * a.mblk) 16)] else [])
  firstTrap ([trapIf (s.mmaEncBad w) 0x0001, chkPlaces t pl pl []] ++ mmaCond t a ++ [s.chkBounds t ext ext])

/-! ## Execution -/

/-- Coordinates of `n` rows from `r`, columns [c, c + k) of each. -/
def gridCoords (r n c k : Nat) : List (Nat × Nat) := (List.range n).flatMap fun i => rowCoords (r + i) c k

/-- A list cut into rows of `k`; the fuel counts rows. -/
def cutRows (k : Nat) : Nat → List Nat → List (List Nat)
  | 0, _ => []
  | n + 1, l => l.take k :: cutRows k n (l.drop k)

/-- Read 16 rows of an operand. -/
def State.readRows (s : State) (p : Nat) (b : Berth) (use : Bool) (r c k : Nat) : Except TrapInfo (List (List Nat)) × State :=
  if use then
    match s.readElems (rqOperand p) b (gridCoords r 16 c k) with
    | (.ok l, s) => (.ok (cutRows k 16 l), s)
    | (.error x, s) => (.error ⟨0x0032, 0, s.globalAddr x⟩, s)
  else (.ok [], s)

/-- A compressed row of A expanded by its metadata (R72, R73); none for a faulty nibble (R74). -/
def sparseExpand (z : Nat) : List Nat → List Nat → Option (List Nat)
  | x :: y :: t, n :: ns =>
    let i := n % 4
    let j := n / 4 % 4
    if i < j then
      (sparseExpand z t ns).map fun r =>
        ((List.range 4).map fun k => if k = i then x else if k = j then y else z) ++ r
    else none
  | _, _ => some []

/-- The operands of one block of output. -/
structure MmaOps where
  a  : List (List Nat)
  sa : List (List Nat)
  b  : List (List Nat)
  sb : List (List Nat)
  c  : List (List Nat)
  deriving DecidableEq, Repr

/-- The scale columns an instruction reads: from column 0 to the end of the span under AUTO, else to its last block. -/
def scaleCols (t : Tile) (a : MmaArgs) : Nat × Nat :=
  let (j0, nj) := mmaBlocks t a
  if mmaAuto t a then (0, max (spanBlocks t a) (j0 + nj)) else (j0, nj)

/-- Expand A's rows under `SPARSE`. -/
def expandRows (a : MmaArgs) (rows nibs : List (List Nat)) : Except TrapInfo (List (List Nat)) :=
  if a.sparse then
    match allSome ((rows.zip nibs).map fun (r, n) => sparseExpand 0 r n) with
    | some l => .ok l
    | none => .error ⟨0x0023, 0, 0⟩
  else .ok rows

/-- Read the operands of block (mblk, nblk) in the order of R551. DESIGN CHOICE (log entry 163): under SPARSE the kept elements of A
stand from berth column KBEG / 2, and the metadata nibbles from column KBEG / 4 of the same row of the META berth, whatever its
ORIGIN_COL. -/
def State.mmaRead (s : State) (p : Nat) (a : MmaArgs) : Except TrapInfo MmaOps × State :=
  let t := s.tile p
  let x := t.berth a.ba
  let y := t.berth a.bb
  let h := if a.sparse then 2 else 1
  let (sc, sn) := scaleCols t a
  match s.readRows p x true (16 * a.mblk) (a.kbeg / h) (a.klen / h) with
  | (.error e, s) => (.error e, s)
  | (.ok va, s) =>
  match s.readRows p (t.berth x.scaleBerth) x.scaleEn (16 * a.mblk) sc sn with
  | (.error e, s) => (.error e, s)
  | (.ok vsa, s) =>
  match s.readRows p y true (16 * a.nblk) a.kbeg a.klen with
  | (.error e, s) => (.error e, s)
  | (.ok vb, s) =>
  match s.readRows p (t.berth y.scaleBerth) y.scaleEn (16 * a.nblk) sc sn with
  | (.error e, s) => (.error e, s)
  | (.ok vsb, s) =>
  match s.readRows p (t.berth a.bc) (a.init && a.bc != 0) (16 * a.mblk) (16 * a.nblk) 16 with
  | (.error e, s) => (.error e, s)
  | (.ok vc, s) =>
  match s.readRows p (t.berth a.metaB) a.sparse (16 * a.mblk) (a.kbeg / 4) (a.klen / 4) with
  | (.error e, s) => (.error e, s)
  | (.ok vm, s) =>
  match expandRows a va vm with
  | .error e => (.error e, s)
  | .ok va => (.ok ⟨va, vsa, vb, vsb, vc⟩, s)

/-- The configuration and pair with which an accumulation starts (R103), or the open one. -/
def AccSet.begin (u : AccSet) (t : Tile) (a : MmaArgs) : AccSet :=
  if a.init then
    { u with isOpen := true, fixed := u.cfgFixed, fixAnchor := u.cfgAnchor, alpha := u.cfgAlpha, stream := u.cfgStream,
             fmtA := (t.berth a.ba).fmt, mxA := (t.berth a.ba).scaleEn, fmtB := (t.berth a.bb).fmt, mxB := (t.berth a.bb).scaleEn,
             cKind := mmaCKind t u a, bd := a.bd, kEnd := mmaK0 t a, kSum := 0, ents := [] }
  else u

/-- Row `i` of a read operand, or the plain scales 0x7F (R51). -/
def rowOr (l : List (List Nat)) (use : Bool) (n i : Nat) : List Nat := if use then l.getD i [] else List.replicate n 0x7F

/-- The accumulation of one output element (m, n) by this instruction. -/
def mmaEnt (t : Tile) (a : MmaArgs) (u : AccSet) (o : MmaOps) (i : Nat) : AccEnt :=
  let m := i / 16
  let n := i % 16
  let (sc, sn) := scaleCols t a
  let sa := rowOr o.sa u.mxA sn m
  let sb := rowOr o.sb u.mxB sn n
  let cFmt := (t.berth a.bc).fmt
  let cCode := (o.c.getD m []).getD n 0
  let nspan := spanBlocks t a
  let (anchor, spread, lim) := anchorOf u.fixed u.fixAnchor u.fmtA u.mxA u.fmtB u.mxB (sa.take nspan) (sb.take nspan)
  let e := if a.init then
      AccEnt.start anchor spread (!u.fixed && decide (spread > lim))
        (if u.cKind = 1 then some (Xp.ofBytes (leBytes 24 cCode)) else none)
        (if u.cKind = 2 then elemValue cFmt cCode else .fin (Ex.zero false))
    else u.ents.getD i (AccEnt.start anchor spread false none (.fin (Ex.zero false)))
  if isWide u.fmtA then { e with acc32 := dotWide u.fmtA u.fmtB e.acc32 (o.a.getD m []) (o.b.getD n []) }
  else
    let av := (o.a.getD m []).map (lowVal u.fmtA)
    let bv := (o.b.getD n []).map (lowVal u.fmtB)
    let lp := (unitWidth u.fmtA u.mxA).1 + (unitWidth u.fmtB u.mxB).1
    (kBlocks (mmaK0 t a) a.klen (a.klen / 32 + 2) 0).foldl
      (fun e k => e.block u.fixed a.write lp k av bv (sa.getD (k.j - sc) 0x7F) (sb.getD (k.j - sc) 0x7F)) e

/-- Has an open accumulation another anchor than the scales now give (R102)? -/
def mmaAnchorBad (t : Tile) (a : MmaArgs) (u : AccSet) (o : MmaOps) : Bool :=
  !a.init && !u.fixed && (u.mxA || u.mxB) &&
    (List.range 256).any fun i =>
      let sn := (scaleCols t a).2
      let nspan := spanBlocks t a
      let x := (rowOr o.sa u.mxA sn (i / 16)).take nspan
      let y := (rowOr o.sb u.mxB sn (i % 16)).take nspan
      (anchorOf u.fixed u.fixAnchor u.fmtA u.mxA u.fmtB u.mxB x y).1 != (u.ents.getD i (.start 0 0 false none .nan)).anchor

/-- Code and flags of output element `i` of the block (R62-R65, R71). -/
def State.mmaOut (s : State) (t : Tile) (a : MmaArgs) (u : AccSet) (e : AccEnt) (i : Nat) : Nat × OutFlags :=
  let bd := t.berth a.bd
  let rm : RMode := ⟨a.rnd, a.sat, srDraw s.srSeed u.stream (bd.originRow + 16 * a.mblk + i / 16)
    (bd.originCol + 16 * a.nblk + i % 16)⟩
  if isWide u.fmtA then e.outWide u bd.fmt rm else e.out u bd.fmt rm

/-- The runs of elements that a block writes to `BD`. -/
def blockRuns (a : MmaArgs) (codes : List Nat) : List ElemRun :=
  (cutRows 16 16 codes).zipIdx.map fun (l, m) => ⟨16 * a.mblk + m, 16 * a.nblk, l⟩

/-- Has a term of an accumulation saturated that had not before (R61)? -/
def newOvf (old new : List AccEnt) : Bool := new.zipIdx.any fun (e, i) => e.ovf && !(old[i]?.any (·.ovf))

/-- Run one block that passed its checks: a trap, or what its outputs raised, and the state after it (the tile has not advanced, and
its status registers stand as they were). -/
def State.mmaBlock (s : State) (p : Nat) (a : MmaArgs) : Except TrapInfo OutFlags × State :=
  let t := s.tile p
  let u := (vget .empty t.acc a.acc).begin t a
  match s.mmaRead p a with
  | (.error e, s) => (.error e, s)
  | (.ok o, s) =>
    if mmaAnchorBad t a u o then (.error ⟨0x0025, 0, 0⟩, s)
    else
      let ents := (List.range 256).map (mmaEnt t a u o)
      if a.write then
        let r := ents.zipIdx.map fun (e, i) => s.mmaOut t a u e i
        let rows := blockRuns a (r.map (·.1))
        let bd := t.berth a.bd
        match s.runsPre (rqOperand p) bd rows with
        | (some x, s) => (.error ⟨0x0032, 0, s.globalAddr x⟩, s)
        | (none, s) =>
          let s := s.runsWrite bd rows
          let u := { AccSet.empty with cfgFixed := u.cfgFixed, cfgAnchor := u.cfgAnchor, cfgAlpha := u.cfgAlpha, cfgStream := u.cfgStream }
          (.ok (orFlags (r.map (·.2))), s.setTile p { s.tile p with acc := vput (s.tile p).acc a.acc u })
      else
        let f : OutFlags := { ovf := newOvf u.ents ents }
        let u := { u with kEnd := mmaK0 t a + a.klen, kSum := u.kSum + a.klen, ents := ents }
        (.ok f, s.setTile p { s.tile p with acc := vput (s.tile p).acc a.acc u })

/-- `MMA`. -/
def execMma (p : Fin 192) (s : State) : Res :=
  .next (s.issue p.val (isOp 2 0) fun s w =>
    match s.mmaCheck p.val w with
    | some ti => s.trap p.val ti
    | none =>
      match s.mmaBlock p.val (mmaArgs (s.tile p.val) w) with
      | (.error ti, u) => u.trap p.val ti
      | (.ok f, u) => (u.arithStatus p.val (s.tile p.val).pc f).advance p.val)

/-- `MMA_CFG` sets the configuration of a set; its reserved fields must be 0 (R103). -/
def execMmaCfg (p : Fin 192) (s : State) : Res :=
  .next (s.issue p.val (isOp 2 1) fun s w =>
    if nbits w 115 92 ≠ 0 ∨ nbits w 72 64 ≠ 0 then s.trap p.val ⟨0x0001, 0, 0⟩
    else
      let t := s.tile p.val
      let u := { vget .empty t.acc (nbits w 91 90) with
        cfgFixed := nbit w 89 == 1, cfgAnchor := sint 16 (nbits w 88 73), cfgAlpha := nbits w 63 32, cfgStream := nbits w 31 0 }
      (s.setTile p.val { t with acc := vput t.acc (nbits w 91 90) u }).advance p.val)

end Sys2Proof.Machine
end

