-- ==== Sys2Proof/Machine/Router.lean ====
section
/-! DEFINITION. The router (R307-R326): packet fields, the points and the choice of an output port, output queues with their credits
and arbitration, the TC0 token bucket, requests of this package and their answers, multicast. -/

namespace Sys2Proof.Machine

/-! ## Packet fields (R307, R308) -/

/-- PTYPE. -/
def pkType (p : Pkt) : Nat := nbits p.w0.toNat 63 60
/-- TC. -/
def pkTc (p : Pkt) : Nat := nbits p.w0.toNat 59 58
/-- VC. -/
def pkVc (p : Pkt) : Nat := nbit p.w0.toNat 57
/-- SVC. -/
def pkSvc (p : Pkt) : Nat := nbit p.w0.toNat 56
/-- DEST. -/
def pkDest (p : Pkt) : Nat := nbits p.w0.toNat 55 44
/-- SRC. -/
def pkSrc (p : Pkt) : Nat := nbits p.w0.toNat 43 32
/-- LEN, in 16-byte units. -/
def pkLen (p : Pkt) : Nat := nbits p.w0.toNat 31 26
/-- MC. -/
def pkMc (p : Pkt) : Bool := nbit p.w0.toNat 25 == 1
/-- FAB. -/
def pkFab (p : Pkt) : Bool := nbit p.w0.toNat 24 == 1
/-- DL. -/
def pkDl (p : Pkt) : Bool := nbit p.w0.toNat 23 == 1
/-- HOPLEFT. -/
def pkHop (p : Pkt) : Nat := nbits p.w0.toNat 22 20
/-- STATUS. -/
def pkStatus (p : Pkt) : Nat := nbits p.w0.toNat 19 16
/-- TAG. -/
def pkTag (p : Pkt) : Nat := nbits p.w0.toNat 15 0
/-- STAMP. -/
def pkStamp (p : Pkt) : Nat := nbits p.w1.toNat 63 52
/-- ADDR. -/
def pkAddr (p : Pkt) : Nat := nbits p.w1.toNat 51 0
/-- Bytes of a packet on the stream: header, extension and payload. -/
def pkBytes (p : Pkt) : Nat := 16 + (if pkMc p then 16 else 0) + 16 * pkLen p
/-- Credits a packet takes (R316). -/
def pkCredits (p : Pkt) : Nat := pkBytes p / 16
/-- Requests: WRITE, READ, CSR_RD. -/
def pkRequest (p : Pkt) : Bool := pkType p == 0 || pkType p == 2 || pkType p == 7
/-- Responses: WRITE_ACK, READ_RSP, ROUTE_FAIL, CSR_RSP. -/
def pkResponse (p : Pkt) : Bool := pkType p == 1 || pkType p == 3 || pkType p == 6 || pkType p == 8

/-- What a packet needs to be made. -/
structure PktSpec where
  type    : Nat
  tc      : Nat
  svc     : Nat
  dest    : Nat
  status  : Nat := 0
  tag     : Nat := 0
  addr    : Nat := 0
  mc      : Bool := false
  ext     : BitVec 128 := 0
  payload : List Byte := []

/-- A bit as a number. -/
def bitOf (b : Bool) : Nat := if b then 1 else 0

/-- A payload in whole units of 16 bytes (R307). What fills the last unit of a WRITE or READ_RSP is free (log entry 174), that of other
types is unlisted and 0. -/
def padUnits (type : Nat) (w0 w1 : BitVec 64) (l : List Byte) : List Byte :=
  l ++ (List.range ((16 - l.length % 16) % 16)).map fun i => if type = 0 ∨ type = 3 then Config.padByte w0 w1 i else 0

/-- A packet of this package with HOPLEFT 4, its SRC and STAMP (R307, R312). -/
def State.mkPkt (s : State) (q : PktSpec) : Pkt :=
  let t := s.rtime / 1024 % 4096
  let stamp := if s.flag R.RTIME_STATUS_RTIME_VALID then (if t = 0 then 1 else t) else 0
  let w0 := BitVec.ofNat 64 (q.type * 2 ^ 60 + q.tc * 2 ^ 58 + q.svc * 2 ^ 57 + q.svc * 2 ^ 56 + q.dest % 4096 * 2 ^ 44
      + s.ownId % 4096 * 2 ^ 32 + (q.payload.length + 15) / 16 * 2 ^ 26 + bitOf q.mc * 2 ^ 25 + 4 * 2 ^ 20 + q.status * 2 ^ 16
      + q.tag)
  let w1 := BitVec.ofNat 64 (stamp * 2 ^ 52 + q.addr % 2 ^ 52)
  { w0 := w0, w1 := w1, ext := q.ext, payload := padUnits q.type w0 w1 q.payload }

/-- The bytes of a packet on the stream (R307): header, mask extension, payload. -/
def pktBytes (p : Pkt) : List Byte :=
  leBytes 8 p.w0.toNat ++ leBytes 8 p.w1.toNat ++ (if pkMc p then leBytes 16 p.ext.toNat else []) ++ p.payload

/-! ## Ports -/

/-- A port. -/
def State.port (s : State) (p : Nat) : Port := vget .reset s.ports p
/-- The state with a port replaced. -/
def State.setPort (s : State) (p : Nat) (x : Port) : State := { s with ports := vput s.ports p x }
/-- STATE of a port (R303): 0 OFF, 1 DETECT, 2 TRAIN, 3 LOCK, 4 IDENT, 5 UP, 6 MAINT, 7 DOWN. -/
def State.portState (s : State) (p : Nat) : Nat := s.fget (R.PORT_STATUS_STATE.at (portOff p))
/-- Set STATE of a port. -/
def State.setPortState (s : State) (p v : Nat) : State := s.fset (R.PORT_STATUS_STATE.at (portOff p)) v
/-- WIDTH of a port. -/
def State.portWidth (s : State) (p : Nat) : Nat := s.fget (R.PORT_STATUS_WIDTH.at (portOff p))
/-- Is a port in service under the licence (R1, R2)? -/
def State.portLicensed (s : State) (p : Nat) : Bool := decide (p < 8) || decide (16 ≤ p) || s.od D.LIC_PRODUCT == 0x0176
/-- The port number of events and messages (R305). -/
def portNum (p : Nat) : Nat := if p < 16 then p else 0x40 + (p - 16)
/-- The fault source of a port (R417). -/
def portSource (p : Nat) : Nat := 0x0300 + portNum p
/-- The package's tray position (R41). -/
def State.position (s : State) : Nat := s.od D.POSITION

/-! ## Choosing a port (R313-R315) -/

/-- The points entry of a destination. -/
def State.points (s : State) (d : Nat) : Nat := (s.csrGet (R.POINTS + 8 * d)).toNat
/-- EXCLUDE of a destination. -/
def exclude (d : Nat) : Fld := R.EXCLUDE_PLANES.at (8 * d)

/-- Does a packet leaving on a coupling port cross the dateline (R315)? -/
def State.crosses (s : State) (p : Nat) : Bool := (s.position == 3 && p == 17) || (s.position == 0 && p == 16)

/-- Bytes of a queue. -/
def queueBytes (l : List QPkt) : Nat := (l.map (fun q => pkBytes q.pkt)).foldl (· + ·) 0
/-- Bytes queued for a port in one class. -/
def Port.classBytes (x : Port) (t : Nat) : Nat := queueBytes (vget [] x.outq (2 * t)) + queueBytes (vget [] x.outq (2 * t + 1))
/-- Bytes waiting for a port in every class. -/
def Port.queued (x : Port) : Nat := x.classBytes 0 + x.classBytes 1 + x.classBytes 2 + x.classBytes 3

/-- The least loaded plane of a list: queued bytes over width, the lowest on a tie (R313). -/
def State.leastLoaded (s : State) : List Nat → Option Nat
  | [] => none
  | p :: t =>
    match s.leastLoaded t with
    | none => some p
    | some q => if (s.port q).queued * s.portWidth p < (s.port p).queued * s.portWidth q then some q else some p

/-- Fabric ports that may carry a packet to D; none for one that arrived on a fabric port (`fab`). -/
def State.planesFor (s : State) (k : Pkt) (d : Nat) (fab : Bool := false) : List Nat :=
  if pkFab k || pkDl k || fab then []
  else (List.range 16).filter fun p =>
    nbit (s.points d) p == 1 && s.portState p == 5 && s.portLicensed p && nbit (s.fget (exclude d)) p == 0

/-- Coupling ports that may carry a packet to D, CP0 before CP1. -/
def State.couplingsFor (s : State) (k : Pkt) (d : Nat) : List Nat :=
  [16, 17].filter fun c =>
    nbit (s.points d) c == 1 && s.portState c == 5 && !(s.crosses c && (pkFab k || pkDl k))

/-- The output port of a packet for destination D (R313); none where it is UNREACHABLE. -/
def State.select (s : State) (k : Pkt) (d : Nat) (fab : Bool := false) : Option Nat :=
  if nbit (s.points d) 63 = 0 then none
  else
    let c := s.couplingsFor k d
    if nbit (s.points d) 18 = 1 ∧ c ≠ [] then c.head?
    else
      match s.leastLoaded (s.planesFor k d fab) with
      | some p => some p
      | none => c.head?

/-- A port in MAINT whose partner has this destination ID carries the package's TC3 packets for it; nothing is forwarded through it
(R289). -/
def State.maintPort (s : State) (q : QPkt) : Option Nat :=
  if pkTc q.pkt = 3 ∧ q.fwd = false then
    (List.range 18).find? fun p => s.portState p == 6 && s.fget (R.PORT_PARTNER_DEST.at (portOff p)) == pkDest q.pkt
  else none

/-- The packet as it leaves on port `p` (R314, R315): HOPLEFT of a forwarded packet falls by 1, FAB and DL are set, and VC follows. -/
def State.outPkt (s : State) (p : Nat) (q : QPkt) : Pkt :=
  let k := q.pkt
  let fab := pkFab k || decide (p < 16)
  let dl := pkDl k || (decide (16 ≤ p) && s.crosses p)
  let vc := if p < 16 then pkSvc k else bitOf (fab || dl)
  let w := setBits (setBits (setBits k.w0 24 1 (bitOf fab)) 23 1 (bitOf dl)) 57 1 vc
  { k with w0 := if q.fwd then setBits w 20 3 (pkHop k - 1) else w }

/-! ## Frames of a port -/

/-- Credits a frame returns: virtual channel and count, of the first channel that owes some (R280, R316). -/
def Port.takeRet (x : Port) : Nat × Nat × Port :=
  match (List.range 8).find? (fun i => vget 0 x.ret i != 0) with
  | some i =>
    let n := min 4095 (vget 0 x.ret i)
    (i, n, { x with ret := vmod x.ret i (· - n) })
  | none => (0, 0, x)

/-- ACKSEQ of a port: the last FSEQ received in order, 0xFFF if none since UP (R280). -/
def Port.ackSeq (x : Port) : Nat := if x.rxAny then (x.rxExp + 0xFFF) % 0x1000 else 0xFFF

/-- FTYPE of a frame. -/
def OutFrame.type : OutFrame → Nat
  | .idle => 0
  | .data _ => 1
  | .ctrl _ _ => 2

/-- Bytes 16 to 639 of a frame. -/
def OutFrame.bytes : OutFrame → List Byte
  | .idle => leBytes 624 0
  | .data l => leBytes 624 (leNat l)
  | .ctrl sub body => leBytes 624 (leNat (BitVec.ofNat 8 sub :: body))

/-- The 640 bytes of a frame (R280): link word, reserved bytes, CRC, and the rest. -/
def frameBytes (f : OutFrame) (seq ack vc count : Nat) : List Byte :=
  let word := leBytes 8 (f.type * 2 ^ 60 + seq * 2 ^ 48 + ack * 2 ^ 36 + vc * 2 ^ 33 + count * 2 ^ 21) ++ leBytes 4 0
  word ++ leBytes 4 (crc32c (word ++ f.bytes)).toNat ++ f.bytes

/-- Lanes of a mask, in ascending number. -/
def lanesOf (m : Nat) : List Nat := (List.range 4).filter fun l => nbit m l == 1
/-- Lanes 0-3 of a mask. -/
def laneCount (m : Nat) : Nat := ((List.range 4).map (nbit m)).foldl (· + ·) 0
/-- The width of a lane mask (R285): 0 where there is none. -/
def widthOf (m : Nat) : Nat := if laneCount m = 4 then 4 else if 2 ≤ laneCount m then 2 else laneCount m
/-- The mask over which the next codeword is spread: a width step ends at its count (R290). -/
def Port.spreadNow (x : Port) : Nat :=
  match x.change with
  | some (m, c) => if c = x.cwCount then m else x.spread
  | none => x.spread
/-- The lanes that carry codewords (R279, R285): the lowest-numbered of the mask, as many as its width. -/
def State.txLanes (s : State) (p : Nat) : List Nat := (lanesOf (s.port p).spreadNow).take (widthOf (s.port p).spreadNow)

/-- A frame leaves a port under a sequence number, with ACKSEQ and the credits it returns, in the codeword of the present count, on lane
(count mod width) of those in service (R279, R280). -/
def State.putFrame (s : State) (p : Nat) (f : OutFrame) (seq : Nat) : State :=
  let (vc, n, x) := (s.port p).takeRet
  let ls := s.txLanes p
  s.setPort p { x with
    lastCw := cwOf (0x96 * 2 ^ 12 + x.cwCount) (leNat (frameBytes f seq x.ackSeq vc n))
    lastLane := ls.getD (x.cwCount % max 1 ls.length) 0
    spread := x.spreadNow
    cwCount := (x.cwCount + 1) % 4096 }

/-- A DATA or CTRL frame takes the next FSEQ and stays in the replay buffer; an IDLE frame takes none (R280, R281). CTRL frames leave
also where the buffer is full, as R193 has it of LINK flits, and are kept beyond its 512 frames (DESIGN CHOICE: log entry 196). -/
def State.sendFrame (s : State) (p : Nat) (f : OutFrame) : State :=
  let x := s.port p
  match f with
  | .idle => s.putFrame p f 0
  | _ => (s.setPort p { x with txSeq := (x.txSeq + 1) % 0x1000, replay := x.replay ++ [(x.txSeq, f)] }).putFrame p f x.txSeq

/-- Packet bytes join the stream of a port; 624 of them make a DATA frame (R280, R307). -/
def State.intoStream (s : State) (p : Nat) (l : List Byte) : State :=
  let x := s.port p
  let b := x.stream ++ l
  if b.length < 624 then s.setPort p { x with stream := b }
  else (s.setPort p { x with stream := b.drop 624 }).sendFrame p (.data (b.take 624))

/-- With nothing more to send, the frame begun leaves; what fills it up is a free value (log entry 175). -/
def State.flushStream (s : State) (p : Nat) : State :=
  let x := s.port p
  if x.stream = [] ∨ x.replay.length ≥ 512 ∨ (s.portState p ≠ 5 ∧ s.portState p ≠ 6) then s
  else
    let (v, s) := s.draw
    let l := x.stream ++ leBytes (624 - x.stream.length) (Config.streamFill v).toNat
    (s.setPort p { x with stream := [] }).sendFrame p (.data l)

/-! ## Output queues (R316-R318) -/

/-- Has virtual channel `i` the credits for a packet (R317)? -/
def Port.canSpend (x : Port) (i : Nat) (k : Pkt) : Bool :=
  decide (pkCredits k + (if pkRequest k then 64 else 0) ≤ vget 0 x.cred i)

/-- The virtual channel of class `t` that may send next: VC0 and VC1 alternate. -/
def Port.readyVc (x : Port) (t : Nat) : Option (Nat × QPkt × List QPkt) :=
  let a := vget 0 x.vcTurn t
  let try_ := fun v =>
    match vget [] x.outq (2 * t + v) with
    | q :: l => if x.canSpend (2 * t + v) q.pkt then some (v, q, l) else none
    | [] => none
  match try_ a with
  | some r => some r
  | none => try_ (1 - a)

/-- Send the packet `q` of channel 2t + v. -/
def State.sendQueued (s : State) (p t v : Nat) (q : QPkt) (rest : List QPkt) : State :=
  let x := s.port p
  let k := s.outPkt p q
  let x := { x with
    outq := vput x.outq (2 * t + v) rest
    cred := vmod x.cred (2 * t + v) (· - pkCredits k)
    vcTurn := vput x.vcTurn t (1 - v)
    deficit := if t = 0 then x.deficit else vmod x.deficit (t - 1) (· - pkBytes k)
    period := { x.period with sent := vmod x.period.sent t (· + pkBytes k) } }
  (s.setPort p x).intoStream p (pktBytes k)

/-- Quantum of a class, in the ratio 8 : 4 : 1 (R318): 544 bytes, the largest packet, to a unit (DESIGN CHOICE; log entry 6). -/
def quantum (t : Nat) : Nat := 544 * (match t with | 1 => 8 | 2 => 4 | _ => 1)

/-- Deficit round robin of TC1-TC3 (R318), from the class whose turn it is; the fuel bounds the classes visited. -/
def State.drr (s : State) (p : Nat) : Nat → Option State
  | 0 => none
  | n + 1 =>
    let x := s.port p
    let t := x.turn % 3 + 1
    match x.readyVc t with
    | some (v, q, rest) =>
      if pkBytes q.pkt ≤ vget 0 x.deficit (t - 1) then some (s.sendQueued p t v q rest)
      else
        let u := (x.turn + 1) % 3
        (s.setPort p { x with turn := u, deficit := vmod x.deficit u (· + quantum (u + 1)) }).drr p n
    | none =>
      let u := (x.turn + 1) % 3
      let d := if x.classBytes t = 0 then vput x.deficit (t - 1) 0 else x.deficit
      (s.setPort p { x with turn := u, deficit := vmod d u (· + quantum (u + 1)) }).drr p n

/-- Send one frame that is due to go out again, or one packet of a port, TC0 first (R281, R318). -/
def State.sendOne (s : State) (p : Nat) : Option State :=
  let x := s.port p
  if s.portState p ≠ 4 ∧ s.portState p ≠ 5 ∧ s.portState p ≠ 6 then none
  else
    match x.resendQ with
    | (seq, f) :: t =>
      let o := portOff p
      let s := s.setPort p { x with resendQ := t, resent := resentOnce x.resent seq, period := { x.period with resent := x.period.resent + 1 } }
      some ((s.putFrame p f seq).bump (R.PORT_EVENTS2_REPLAY.at o) (R.PORT_FLAGS_REPLAY_OVF.at o))
    | [] =>
      if s.portState p = 4 ∨ x.replay.length ≥ 512 then none
      else
        match x.readyVc 0 with
        | some (v, q, rest) => some (s.sendQueued p 0 v q rest)
        | none => s.drr p 8

/-- The wait of the class heads for credits begins or ends (R324). -/
def State.noteWaits (s : State) (p : Nat) : State :=
  let x := s.port p
  let blocked := fun t => decide (x.classBytes t ≠ 0) && (x.readyVc t).isNone
  let f := fun (m : PortPeriod) (t : Nat) =>
    match vget none m.since t, blocked t with
    | none, true => { m with since := vput m.since t (some s.rtime) }
    | some a, false => { m with since := vput m.since t none, waited := vmod m.waited t (· + (s.rtime - a)) }
    | _, _ => m
  s.setPort p { x with period := [0, 1, 2, 3].foldl f x.period }

/-- Send what a port can send; the fuel bounds the packets and frames of one pass. -/
def State.pumpPort (s : State) (p : Nat) : Nat → State
  | 0 => (s.flushStream p).noteWaits p
  | n + 1 =>
    match s.sendOne p with
    | some s => s.pumpPort p n
    | none => (s.flushStream p).noteWaits p

/-- A packet joins the output queue of a port. -/
def State.pushOut (s : State) (p : Nat) (q : QPkt) : State :=
  let k := s.outPkt p q
  let t := pkTc k
  let x := s.port p
  let x := { x with outq := vmod x.outq (2 * t + pkVc k) (· ++ [q]) }
  let x := { x with period := { x.period with most := vmod x.period.most t (max (x.classBytes t)) } }
  (s.setPort p x).pumpPort p 512

/-! ## The token bucket of TC0 (R326) -/

/-- Sixteenths of a byte a bucket gains in a nanosecond: 6.25 bytes at x4. -/
def bucketRate (width : Nat) : Nat := 25 * width
/-- Capacity in sixteenths of a byte. -/
def bucketCap : Nat := 1056 * 16

/-- The bucket filled up to now. -/
def State.fillBucket (s : State) (p : Nat) : State :=
  let x := s.port p
  s.setPort p { x with bucket := min bucketCap (x.bucket + (s.rtime - x.filledAt) * bucketRate (s.portWidth p)), filledAt := s.rtime }

/-- A TC0 packet of this package passes the bucket of its port, or waits there. -/
def State.throughBucket (s : State) (p : Nat) (k : Pkt) : State :=
  let s := s.fillBucket p
  let x := s.port p
  if x.held = [] ∧ pkBytes k * 16 ≤ x.bucket then (s.setPort p { x with bucket := x.bucket - pkBytes k * 16 }).pushOut p ⟨k, false, false⟩
  else (s.setPort p { x with held := x.held ++ [k] }).bump R.ROUTE_EVENTS4_TC0_HELD R.ROUTE_FLAGS_HELD_OVF

/-! ## Answers to requests of this package (R309, R311) -/

/-- The state with a DMA engine's run changed. -/
def State.dmaMod (s : State) (p e : Nat) (f : DmaRun → DmaRun) : State :=
  let t := s.tile p
  s.setTile p { t with dma := vmod t.dma e fun d => { d with run := d.run.map f } }

/-- Bytes `l` placed from place `o` of a list. -/
def placeBytes (d : List (Option Byte)) (o : Nat) (l : List Byte) : List (Option Byte) :=
  d.take o ++ l.map some ++ d.drop (o + l.length)

/-- A request ends with a status: its engine takes the data, or must stop at the first failure. -/
def State.endReq (s : State) (r : Req) (status : Nat) (data : List Byte) : State :=
  let s := { s with router := { s.router with reqs := s.router.reqs.filter (fun q => q.tag != r.tag) } }
  s.dmaMod r.tile r.eng fun d =>
    if d.tags.contains r.tag then
      let d := { d with tags := d.tags.filter (· != r.tag) }
      if status ≠ 0 then
        (if d.fail.isNone then { d with fail := some status, failAddr := pkDest r.pkt * 2 ^ 52 + pkAddr r.pkt } else d)
      else if pkType r.pkt = 2 then { d with data := placeBytes d.data r.off data } else d
    else d

/-- The open request with a tag. -/
def State.reqOf (s : State) (tag : Nat) : Option Req := s.router.reqs.find? (fun r => r.tag == tag)

/-! ## Sending a packet on its way -/

/-- A packet found UNREACHABLE counts, and in the present congestion map (R313, R324). -/
def State.countUnreachable (s : State) : State :=
  let s := s.bump R.ROUTE_EVENTS_UNREACHABLE R.ROUTE_FLAGS_UNREACH_OVF
  { s with router := { s.router with unreach := s.router.unreach + 1 } }

/-- A packet found UNREACHABLE (R313): counted, and answered where it is a request. `send` sends the answer. -/
def State.noRoute (s : State) (q : QPkt) (send : State → Pkt → State) : State :=
  let s := s.countUnreachable
  if !pkRequest q.pkt then s
  else if q.fwd then
    send s (s.mkPkt { type := if pkType q.pkt = 0 then 1 else if pkType q.pkt = 2 then 3 else 8, tc := pkTc q.pkt,
                      svc := pkSvc q.pkt, dest := pkSrc q.pkt, status := 8, tag := pkTag q.pkt })
  else
    match s.reqOf (pkTag q.pkt) with
    | some r => s.endReq r 8 []
    | none => s

/-- Queue a packet by R313, R289 and R326; the fuel allows one answer to be sent in turn. -/
def State.dispatchPkt (s : State) (q : QPkt) : Nat → State
  | 0 => s
  | n + 1 =>
    if pkDest q.pkt = s.ownId % 4096 then { s with router := { s.router with looped := s.router.looped ++ [q.pkt] } }
    else
      match s.maintPort q with
      | some p => s.pushOut p q
      | none =>
        match s.select q.pkt (pkDest q.pkt) q.fab with
        | some p => if pkTc q.pkt = 0 ∧ !q.fwd then s.throughBucket p q.pkt else s.pushOut p q
        | none => s.noRoute q fun s k => s.dispatchPkt (QPkt.mk k false false) n

/-- A packet of this package is sent. -/
def State.sendPkt (s : State) (k : Pkt) : State := s.dispatchPkt ⟨k, false, false⟩ 2

/-- A packet of another package is forwarded (R314): an expired one is discarded. `fab` tells that it arrived on a fabric port (R313). -/
def State.forward (s : State) (k : Pkt) (fab : Bool := false) : State :=
  if pkHop k = 0 then s.bump R.ROUTE_EVENTS2_HOP_EXPIRED R.ROUTE_FLAGS_HOP_OVF else s.dispatchPkt ⟨k, true, fab⟩ 2

/-- A discarded packet of R308, R317 and R319. -/
def State.ruleDrop (s : State) : State := s.bump R.ROUTE_EVENTS_RULE_DROP R.ROUTE_FLAGS_RULE_OVF

/-- Is a packet too old (R312)? -/
def State.aged (s : State) (k : Pkt) : Bool :=
  s.flag R.RTIME_STATUS_RTIME_VALID && pkStamp k != 0
    && decide (1000 * s.od D.PKT_LIFETIME < (4096 + s.rtime / 1024 - pkStamp k) % 4096 * 1024)

/-- A free tag from `t` upward. -/
def freeTag (l : List Req) (t : Nat) : Nat → Nat
  | 0 => t
  | n + 1 => if l.any (fun r => r.tag == t) then freeTag l ((t + 1) % 2 ^ 16) n else t

/-- Send a request of a DMA engine (R309). -/
def State.sendReq (s : State) (tile eng off len : Nat) (q : PktSpec) : State :=
  let tag := freeTag s.router.reqs s.router.nextTag s.router.reqs.length
  let k := s.mkPkt { q with tag := tag }
  let s := { s with router := { s.router with reqs := s.router.reqs ++ [Req.mk tag k tile eng off len false],
                                              nextTag := (tag + 1) % 2 ^ 16 } }
  (s.dmaMod tile eng fun d => { d with tags := d.tags ++ [tag] }).sendPkt k

/-! ## Multicast (R322) -/

/-- Own slot. -/
def State.ownSlot (s : State) : Nat := s.ownId - 0x010
/-- REACH of a plane. -/
def State.reach (s : State) (p : Nat) : Nat :=
  (s.csrGet (R.REACH + 16 * p)).toNat + (s.csrGet (R.REACH + 16 * p + 8)).toNat * 2 ^ 64
/-- The registers of a multicast group's mask. -/
def State.mcgRegs (s : State) (g : Nat) : Nat :=
  (s.csrGet (R.MCG + 16 * g)).toNat + (s.csrGet (R.MCG + 16 * g + 8)).toNat * 2 ^ 64
/-- Mask of a multicast group: while it is being rewritten, the old mask whole (R323). -/
def State.mcgMask (s : State) (g : Nat) : Nat :=
  match s.router.mcgOld.lookup g with
  | some (_, m) => m
  | none => s.mcgRegs g
/-- Half `h` of a group's mask is written. The rewriting ends with the write of its other half, and until then the old mask is in force:
an access writes 64 bits (DESIGN CHOICE; log entry 176). -/
def State.mcgWrite (s : State) (g h : Nat) : State :=
  let l := s.router.mcgOld
  let l' := match l.lookup g with
    | some (k, _) => if k = h then l else l.filter (fun e => e.1 != g)
    | none => (g, h, s.mcgRegs g) :: l
  { s with router := { s.router with mcgOld := l' } }

/-- Copies for each plane of the tree, from plane (G + i) mod 16 on; what is left afterwards. -/
def State.mcPlanes (s : State) (k : Pkt) (g : Nat) : Nat → Nat → Nat → State × Nat
  | 0, _, left => (s, left)
  | n + 1, i, left =>
    let p := (g + i) % 16
    let part := left &&& s.reach p
    if s.portState p = 5 ∧ s.portLicensed p = true ∧ part ≠ 0 then
      let c := { k with ext := BitVec.ofNat 128 part }
      let s := if pkTc c = 0 then s.throughBucket p c else s.pushOut p ⟨c, false, false⟩
      s.mcPlanes k g n (i + 1) (left ^^^ part)
    else s.mcPlanes k g n (i + 1) left

/-- The unicast copy of a multicast packet for a destination (R322). -/
def uniCopy (k : Pkt) (dest : Nat) : Pkt := { k with w0 := setBits (setBits k.w0 25 1 0) 44 12 (dest % 4096), ext := 0 }

/-- The tree of R322 for the members of a mask other than this package: copies by plane, and a unicast copy for each member left. -/
def State.mcSpread (s : State) (k : Pkt) (g m : Nat) : State :=
  let (s, left) := s.mcPlanes k g 16 0 m
  (List.range 96).foldl (fun s i => if nbit left i = 1 then s.sendPkt (uniCopy k (0x010 + i)) else s) s

/-- Send a multicast packet under group `g` with mask `m`; the own copy is delivered locally. -/
def State.multicast (s : State) (q : PktSpec) (g m : Nat) : State :=
  let k := s.mkPkt { q with mc := true }
  let own := nbit m s.ownSlot
  let s := if own = 1 then { s with router := { s.router with looped := s.router.looped ++ [uniCopy k s.ownId] } } else s
  s.mcSpread k g (m &&& (2 ^ 128 - 1 - own * 2 ^ s.ownSlot))

/-! ## Requeueing (R318) -/

/-- A waiting packet is sent on another way: a multicast copy by the tree of R322 over its own members, under the group its message
names, any other packet by R313. -/
def State.reroute (s : State) (q : QPkt) : State :=
  if pkMc q.pkt then s.mcSpread q.pkt (leNat ((q.pkt.payload.drop 1).take 1)) q.pkt.ext.toNat else s.dispatchPkt q 2

/-- Every packet still waiting for a port that went DOWN is run through R313 again; its queues stand empty (R318, R324). -/
def State.requeue (s : State) (p : Nat) : State :=
  let x := s.port p
  let qs := x.outq.toList.flatten ++ x.held.map fun k => QPkt.mk k false false
  let s := (s.setPort p { x with outq := .replicate 8 [], held := [], cred := .replicate 8 0, stream := [] }).noteWaits p
  qs.foldl (fun s q => s.reroute q) s

end Sys2Proof.Machine
end

