-- ==== Sys2Proof/Machine/Dma.lean ====
section
/-! DEFINITION. The DMA engines of a tile (R106, R107, R171, R309): issue, start and completion of transfers. Their halt stands in
Coll.lean, since the counters it breaks end collectives. -/

namespace Sys2Proof.Machine

/-! ## Issue (R106) -/

/-- Bytes a DMA word moves. -/
def dmaBytes (b : Berth) (copy2 : Bool) (n : Nat) : Nat := if copy2 then n * elemBytes b.fmt b.rowElems else n

/-- Every check of a DMA word (R106, R551). DESIGN CHOICE (log entry 188): the bytes of DMA.COPY are held against LENGTH alone, not
against ROW_ELEMS of R89. -/
def State.dmaCheck (s : State) (p w : Nat) : Option TrapInfo :=
  let t := s.tile p
  let copy2 := iOp w == 1
  let a := t.berth (iBa w)
  let d := t.berth (iBd w)
  let n := nbits w 31 0
  let tc := nbits w 90 89
  let pl : List Place :=
    [⟨iBa w, false, fun _ => true, fun _ => true⟩,
     ⟨iBd w, true, fun b => !(a.kind == 4 && b.kind == 4), fun b => !copy2 || b.fmt == a.fmt⟩]
  let span := fun (i : Nat) (b : Berth) =>
    if copy2 then s.chkRows b i 0 a.rowElems 0 n
    else if b.length < n then some ⟨0x0014, i, s.berthAddr b b.length⟩ else none
  firstTrap
    [ trapIf (nbits w 76 64 != 0) 0x0001,
      chkPlaces t pl pl [],
      trapIf (tc == 0 && decide (512 < dmaBytes a copy2 n)) 0x0050,
      trapIf (tc == 3 || nbit s.prog.vcMask (2 * tc + nbit w 88) == 0) 0x0051,
      trapIf (nbit w 87 == 1 && decide (s.prog.trigCtrs ≤ nbits w 86 77)) 0x0040,
      trapIf (vget .idle t.dma (nbit w 91)).halted 0x0033,
      span (iBa w) a,
      span (iBd w) d ]

/-- Queue a transfer; with 16 queued behind the one that runs, issue holds until a slot frees (log entry 187). -/
def State.dmaIssue (s : State) (p w : Nat) : State :=
  match s.dmaCheck p w with
  | some ti => s.trap p ti
  | none =>
    let t := s.tile p
    let e := nbit w 91
    if (vget .idle t.dma e).queue.length ≥ 16 then s
    else
      let x : DmaXfer := ⟨t.berth (iBa w), t.berth (iBd w), iOp w == 1, nbits w 31 0, nbits w 90 89, nbit w 88,
        if nbit w 87 = 1 then some (nbits w 86 77) else none⟩
      (s.setTile p { t with dma := vmod t.dma e fun d => { d with queue := d.queue ++ [x] } }).advance p

/-- `DMA_COPY`. -/
def execDmaCopy (p : Fin 192) (s : State) : Res := .next (s.issue p.val (isOp 4 0) fun s w => s.dmaIssue p.val w)
/-- `DMA_COPY2`. -/
def execDmaCopy2 (p : Fin 192) (s : State) : Res := .next (s.issue p.val (isOp 4 1) fun s w => s.dmaIssue p.val w)

/-! ## Running a transfer (R107, R309) -/

/-- One run of contiguous bytes of a transfer: source and destination addresses, place in the transfer, length. -/
structure DmaSeg where
  src : Nat
  dst : Nat
  off : Nat
  len : Nat
  deriving DecidableEq, Repr

/-- The runs of a transfer. -/
def DmaXfer.segs (x : DmaXfer) : List DmaSeg :=
  if x.copy2 then
    let k := elemBytes x.src.fmt x.src.rowElems
    (List.range x.n).map fun r => ⟨x.src.base + r * x.src.pitch, x.dst.base + r * x.dst.pitch, r * k, k⟩
  else [⟨x.src.base, x.dst.base, 0, x.n⟩]

/-- Bytes of a transfer. -/
def DmaXfer.bytes (x : DmaXfer) : Nat := dmaBytes x.src x.copy2 x.n

/-- A run cut so that no piece crosses a 512-byte boundary of the remote address (R309); the fuel bounds the pieces. -/
def cutSeg (remote : DmaSeg → Nat) : Nat → DmaSeg → List DmaSeg
  | 0, _ => []
  | n + 1, g =>
    let room := 512 - remote g % 512
    if g.len = 0 then []
    else if g.len ≤ room then [g]
    else { g with len := room } :: cutSeg remote n ⟨g.src + room, g.dst + room, g.off + room, g.len - room⟩

/-- The pieces of a transfer with a remote side. -/
def DmaXfer.pieces (x : DmaXfer) : List DmaSeg :=
  x.segs.flatMap fun g => cutSeg (if x.src.kind = 4 then (·.src) else (·.dst)) (g.len / 512 + 2) g

/-- Read the local source of a transfer: its bytes, or the status and address that stop it. -/
def State.dmaRead (s : State) (p : Nat) : List DmaSeg → Except (Nat × Nat) (List Byte) × State
  | [] => (.ok [], s)
  | g :: t =>
    match s.memRead (rqDma p) g.src g.len with
    | (.error e, s) => (.error e, s)
    | (.ok l, s) =>
      match s.dmaRead p t with
      | (.error e, s) => (.error e, s)
      | (.ok m, s) => (.ok (l ++ m), s)

/-- A DMA engine of a tile. -/
def State.dmaEng (s : State) (p e : Nat) : DmaEng := vget .idle (s.tile p).dma e

/-- The state with a DMA engine replaced. -/
def State.setDma (s : State) (p e : Nat) (d : DmaEng) : State :=
  let t := s.tile p
  s.setTile p { t with dma := vput t.dma e d }

/-- A request of a transfer for one piece. -/
def State.dmaAsk (s : State) (p e : Nat) (x : DmaXfer) (data : List Byte) (g : DmaSeg) : State :=
  if x.src.kind = 4 then
    s.sendReq p e g.off g.len { type := 2, tc := x.tc, svc := x.vc, dest := x.src.dest, addr := g.src, payload := leBytes 16 g.len }
  else
    s.sendReq p e g.off g.len { type := 0, tc := x.tc, svc := x.vc, dest := x.dst.dest, addr := g.dst,
                                payload := (data.drop g.off).take g.len }

/-- Send the requests for a list of pieces, as long as a tag is free: of the 65,536 tags none names two open requests (R309). -/
def State.dmaSend (s : State) (p e : Nat) (x : DmaXfer) (data : List Byte) : List DmaSeg → State
  | [] => s
  | g :: t =>
    if 65536 ≤ s.router.reqs.length then s
    else ((s.dmaAsk p e x data g).dmaMod p e fun r => { r with sent := r.sent + 1 }).dmaSend p e x data t

/-- Has a transfer sent every piece of its remote side? -/
def DmaRun.allSent (r : DmaRun) : Bool := decide (r.xfer.src.kind ≠ 4 ∧ r.xfer.dst.kind ≠ 4) || decide (r.xfer.pieces.length ≤ r.sent)

/-- A transfer that waits for tags goes on, but in a fenced tile or a WORKS reset. -/
def State.dmaMore (s : State) (p e : Nat) : State :=
  match (s.dmaEng p e).run with
  | some r =>
    if r.fail.isSome ∨ r.allSent ∨ s.dom.worksRst ∨ s.tileState p = 5 then s else s.dmaSend p e r.xfer (r.data.map (·.getD 0)) (r.xfer.pieces.drop r.sent)
  | none => s

/-- Tags are free again: every engine that waits for one goes on. -/
def State.dmaAll (s : State) : State := (List.range 192).foldl (fun s q => (s.dmaMore q 0).dmaMore q 1) s

/-- A request has ended: the engine it was for goes on, and then every other engine that waits for a tag. -/
def State.dmaGoOn (s : State) (p e : Nat) : State := (s.dmaMore p e).dmaAll

/-- Start the next queued transfer: a local source is read, and requests go out for a remote side. -/
def State.dmaStart (s : State) (p e : Nat) (x : DmaXfer) (rest : List DmaXfer) : State :=
  let s := s.setDma p e { s.dmaEng p e with queue := rest, run := some ⟨x, List.replicate x.bytes none, 0, [], none, 0⟩ }
  if x.src.kind = 4 then s.dmaSend p e x [] x.pieces
  else
    match s.dmaRead p x.segs with
    | (.error (c, a), s) => s.dmaMod p e fun r => { r with fail := some c, failAddr := s.globalAddr a }
    | (.ok l, s) =>
      let s := s.dmaMod p e fun r => { r with data := l.map some }
      if x.dst.kind = 4 then s.dmaSend p e x l x.pieces else s

/-- `DMA_TRANSFER_START`. -/
def execDmaTransferStart (p : Fin 192) (e : Fin 2) (s : State) : Res :=
  .next (
    let d := s.dmaEng p.val e.val
    if s.dom.worksRst ∨ d.halted ∨ d.run.isSome ∨ s.tileState p.val = 5 then s
    else
      match d.queue with
      | [] => s
      | x :: rest => s.dmaStart p.val e.val x rest)

/-- Write the bytes of a transfer to a local destination: a status and the address refused. -/
def State.dmaWrite (s : State) (p : Nat) (data : List Byte) : List DmaSeg → Option (Nat × Nat) × State
  | [] => (none, s)
  | g :: t =>
    match s.memWrite p g.dst ((data.drop g.off).take g.len) with
    | (0, s) => s.dmaWrite p data t
    | (c, s) => (some (c, g.dst), s)

/-- `DMA_TRANSFER_DONE`: every byte is here and acknowledged; a local destination is written, and the done counter rises. -/
def execDmaTransferDone (p : Fin 192) (e : Fin 2) (s : State) : Res :=
  .next (
    let d := s.dmaEng p.val e.val
    match d.run with
    | none => s
    | some r =>
      if r.tags ≠ [] ∨ r.allSent = false ∨ r.fail.isSome ∨ s.dom.worksRst ∨ s.tileState p.val = 5 then s
      else
        match allSome r.data with
        | none => s
        | some l =>
          let (bad, s) := if r.xfer.dst.kind = 4 then (none, s) else s.dmaWrite p.val l r.xfer.segs
          match bad with
          | some (c, a) => s.dmaMod p.val e.val fun r => { r with fail := some c, failAddr := s.globalAddr a }
          | none =>
            let s := s.setDma p.val e.val { s.dmaEng p.val e.val with run := none }
            match r.xfer.done with
            | some k => s.ctrAdd (p.val / 48) k 1
            | none => s)

end Sys2Proof.Machine
end

