-- ==== Sys2Proof/Machine/Links.lean ====
section
/-! DEFINITION. Ports and their links (R276-R306): frames and their checks, link-level retry, training, the judgement of a partner,
width steps, loss of a port, die-to-die modules, REFCLK, TSYNC and rack time. -/

namespace Sys2Proof.Machine

/-! ## Frames (R280, R281) -/

/-- FTYPE. -/
def frType (f : FrameIn) : Nat := nbits f.word.toNat 63 60
/-- FSEQ. -/
def frSeq (f : FrameIn) : Nat := nbits f.word.toNat 59 48
/-- ACKSEQ. -/
def frAck (f : FrameIn) : Nat := nbits f.word.toNat 47 36
/-- CR_VC. -/
def frVc (f : FrameIn) : Nat := nbits f.word.toNat 35 33
/-- CR_COUNT. -/
def frCount (f : FrameIn) : Nat := nbits f.word.toNat 32 21
/-- Is a frame discarded: a bad CRC, a reserved FTYPE, a nonzero reserved bit? -/
def frBad (f : FrameIn) : Bool := !f.crcOk || decide (2 < frType f) || nbits f.word.toNat 20 0 != 0 || f.resv != 0

/-- A CTRL frame leaves a port. -/
def State.sendCtrl (s : State) (p sub : Nat) (body : List Byte) : State := s.sendFrame p (.ctrl sub body)

/-- A frame is lost: RETRY names the frame expected (R193, R281). -/
def State.wantFrame (s : State) (p : Nat) : State :=
  let x := s.port p
  (s.setPort p { x with awaitSeq := true }).sendCtrl p 3 (BitVec.ofNat 8 0 :: leBytes 2 x.rxExp)

/-- A gap: RETRY goes out once, until the frame it named arrives (R193, R281). -/
def State.askFrame (s : State) (p : Nat) : State := if (s.port p).awaitSeq then s else s.wantFrame p

/-- Is frame number `a` at or before `b` in a window of 2,048? -/
def frLe (a b : Nat) : Bool := decide ((0x1000 + b - a) % 0x1000 < 0x800)

/-- The partner has every frame up to `a`: they leave the replay buffer. -/
def State.frameAcked (s : State) (p a : Nat) : State :=
  let x := s.port p
  let rest := x.replay.filter (fun e => !frLe e.1 a)
  if rest.length = x.replay.length then s
  else s.setPort p { x with replay := rest, resendQ := x.resendQ.filter (fun e => !frLe e.1 a),
                            resent := x.resent.filter (fun e => !frLe e.1 a) }

/-- Acknowledgement and credits of a good frame (R280, R316). -/
def State.frameHeader (s : State) (p : Nat) (f : FrameIn) : State :=
  let s := if frAck f = 0xFFF then s else s.frameAcked p (frAck f)
  let x := s.port p
  s.setPort p { x with cred := vmod x.cred (frVc f) (· + frCount f) }

/-- Does a port run the link layer: IDENT, UP or MAINT? -/
def State.portLinked (s : State) (p : Nat) : Bool := s.portState p == 4 || s.portState p == 5 || s.portState p == 6

/-- The codeword of a frame decoded: its lane's run of bad ones ends, and a corrected one counts (R279, R303). -/
def State.goodWord (s : State) (p : Nat) (f : FrameIn) : State :=
  let x := s.port p
  let s := s.setPort p { x with badRun := vput x.badRun f.lane.val 0 }
  if f.corrected then s.traffic (R.PORT_FEC_CORR_CW.at (portOff p)) 1 else s

/-- Receive a frame of type `t` on a port: true where it is delivered, in order (R280, R281). A frame of another type waits for its
own row; a frame seen before is dropped, and a gap draws a RETRY. In LOCK the codewords carry IDLE frames only. -/
def State.rxFrame (s : State) (p : Nat) (f : FrameIn) (t : Nat) : Bool × State :=
  if s.dom.lineRst ∨ !(s.portLinked p || s.portState p == 3) then (false, s)
  else if frBad f then
    let s := (s.goodWord p f).bump (R.PORT_EVENTS_CRC_ERR.at (portOff p)) (R.PORT_FLAGS_CRC_OVF.at (portOff p))
    (false, if s.portLinked p then s.wantFrame p else s)
  else if frType f ≠ t then (false, s)
  else
    let s := s.goodWord p f
    if !s.portLinked p then (false, s)
    else
      let s := s.frameHeader p f
      if t = 0 then (true, s)
      else
        let x := s.port p
        if frSeq f = x.rxExp then
          (true, s.setPort p { x with rxExp := (x.rxExp + 1) % 0x1000, rxAny := true, awaitSeq := false })
        else if frLe (frSeq f) x.rxExp then (false, s)
        else (false, s.askFrame p)

/-! ## Lanes and width (R285, R290) -/

/-- A mask without the bits of another. -/
def maskMinus (a b : Nat) : Nat := a &&& (15 - b % 16)
/-- Offset of LN_STATUS of a lane. -/
def lnOff (p l : Nat) : Nat := portOff p + 8 * l
/-- PARKED of a port. -/
def State.parked (s : State) (p : Nat) : Nat := s.fget (R.PORT_FLAGS_PARKED.at (portOff p))
/-- LANE_MASK of a port. -/
def State.laneMask (s : State) (p : Nat) : Nat := s.fget (R.PORT_STATUS_LANE_MASK.at (portOff p))
/-- LOCK_MASK of a port. -/
def State.lockMask (s : State) (p : Nat) : Nat := s.fget (R.PORT_STATUS_LOCK_MASK.at (portOff p))

/-- The lane mask of a port, with IN_SERVICE of each lane. -/
def State.setLaneMask (s : State) (p m : Nat) : State :=
  [0, 1, 2, 3].foldl (fun s l => s.fset (R.LN_STATUS_IN_SERVICE.at (lnOff p l)) (nbit m l))
    (s.fset (R.PORT_STATUS_LANE_MASK.at (portOff p)) m)

/-- The lock mask of a port, with LOCKED of each lane. -/
def State.setLockMask (s : State) (p m : Nat) : State :=
  [0, 1, 2, 3].foldl (fun s l => s.fset (R.LN_STATUS_LOCKED.at (lnOff p l)) (nbit m l))
    (s.fset (R.PORT_STATUS_LOCK_MASK.at (portOff p)) m)

/-- The parked lanes of a port. -/
def State.setParked (s : State) (p m : Nat) : State :=
  [0, 1, 2, 3].foldl (fun s l => s.fset (R.LN_STATUS_PARKED.at (lnOff p l)) (nbit m l))
    (s.fset (R.PORT_FLAGS_PARKED.at (portOff p)) m)

/-! ## A port goes DOWN (R283, R292) -/

/-- The port carries nothing any more. -/
def State.portDark (s : State) (p : Nat) : State :=
  let s := ((s.setLaneMask p 0).setLockMask p 0).fset (R.PORT_STATUS_WIDTH.at (portOff p)) 0
  let s := s.fset (R.PORT_STATUS_MAINT_CAUSE.at (portOff p)) 0
  let x := s.port p
  s.setPort p { x with mine := 0, theirs := 0, txSeq := 0, replay := [], resendQ := [], rxExp := 0, rxAny := false, awaitSeq := false,
                       resent := [], judged := none, ackRx := false, change := none, spread := 0, ret := .replicate 8 0,
                       badRun := .replicate 4 0, badAt := [], dropped := 0 }

/-- Training ends DOWN within its limits (R283, R285); that is none of the losses of R292. -/
def State.trainFail (s : State) (p : Nat) : State :=
  ((s.portDark p).setPortState p 7).bump (R.PORT_STATUS_DOWNS.at (portOff p)) (R.PORT_FLAGS_DOWNS_OVF.at (portOff p))

/-- A port goes DOWN under R292 with a cause of R305: unacknowledged frames are discarded, the interlock and the node hear of it,
and packets still queued take other ports (R292, R318). -/
def State.portLost (s : State) (p cause theirs : Nat) : State :=
  let n := (s.port p).replay.length
  let o := portOff p
  let s := s.bump (R.PORT_EVENTS3_DROPPED_FRAMES.at o) (R.PORT_FLAGS_DROPPED_OVF.at o) n
  let s := ((s.portDark p).setPortState p 7).bump (R.PORT_STATUS_DOWNS.at o) (R.PORT_FLAGS_DOWNS_OVF.at o)
  let x := s.port p
  let s := (s.setPort p { x with reported := some cause }).report (portSource p) .portDown cause 0
  let s := s.event (portSource p) 0x0A81
    (leBytes 1 (portNum p) ++ leBytes 1 cause ++ leBytes 1 theirs ++ [0] ++ leBytes 4 n)
  s.requeue p

/-- A port goes DOWN from whatever it was doing (R292): nothing happens to one that is OFF or DOWN. -/
def State.portDown (s : State) (p cause theirs : Nat) : State :=
  if s.portState p = 0 ∨ s.portState p = 7 then s else s.portLost p cause theirs

/-- A DOWN message leaves a port that runs the link layer, before it goes DOWN (R292, R301). -/
def State.sayDown (s : State) (p cause : Nat) : State :=
  if s.portLinked p then s.sendCtrl p 4 [BitVec.ofNat 8 cause] else s

/-! ## Training (R283-R285) -/

/-- May a port train? -/
def State.portMay (s : State) (p : Nat) : Bool :=
  !s.dom.lineRst && s.portLicensed p && s.flag (R.PORT_CTL_EN.at (portOff p))

/-- The N8's training marker on a lane (R284): LANE, RX_READY, its answer to the partner's requests, and its own requests PRESET and REQ,
which follow from an adaptation that the manual does not give: free values (log entry 177). REQ is never the unlisted 11. -/
def State.sendMarker (s : State) (p l : Nat) : State :=
  let (v, s) := s.draw
  let x := s.port p
  let n := v.toNat
  let req := [0, 1, 2, 3].foldl (fun a k => a * 4 + n / 4 ^ k % 4 % 3) 0
  let m := 0x7E5A * 2 ^ 48 + l * 2 ^ 46 + nbit x.mine l * 2 ^ 45 + n / 256 % 2 * 2 ^ 44 + req * 2 ^ 36 + vget 0 x.rsp l * 2 ^ 28
  s.setPort p { x with markers := vput x.markers l (BitVec.ofNat 64 m) }

/-- `SIGNAL_DETECT`: signal on a lane of a port in DETECT. -/
def execSignalDetect (p : Fin 18) (s : State) : Res :=
  .next (
    if s.portState p.val = 1 ∧ s.portMay p.val ∧ s.clock.present then
      let s := s.setPort p.val { s.port p.val with mine := 0, theirs := 0, taps := .replicate 16 0, rsp := .replicate 4 0
                                                   answers := .replicate 4 0
                                                   barred := s.fget (R.PORT_CTL_LANE_DISABLE.at (portOff p.val)) }
      [0, 1, 2, 3].foldl (fun s l => s.sendMarker p.val l) (s.setPortState p.val 2)
    else s)

/-- Lanes a port may use: not disabled when its TRAIN began, not parked. -/
def State.eligible (s : State) (p : Nat) : Nat := maskMinus (15 - (s.port p).barred % 16) (s.parked p)

/-- The lanes of a mask are in service, and codewords are spread over them at its width (R279, R285). -/
def State.serveLanes (s : State) (p m : Nat) : State :=
  let s := (s.setLaneMask p m).fset (R.PORT_STATUS_WIDTH.at (portOff p)) (widthOf m)
  s.setPort p { s.port p with spread := m }

/-- TRAIN ends: LOCK at the width of the lanes both sides marked ready, or DOWN where there is none (R283, R285). -/
def State.toLock (s : State) (p : Nat) : State :=
  let x := s.port p
  let m := x.mine &&& x.theirs &&& s.eligible p
  if m = 0 then s.trainFail p
  else ((s.serveLanes p m).setLockMask p 0).setPortState p 3

/-- The taps of a lane and the answers to the requests of a marker (R284). -/
def serveTap (x : Port) (l k req : Nat) : Port × Nat :=
  let i := 4 * l + k
  let v := vget 0 x.taps i
  if req = 1 then (if Config.tapAtLimit k v true then (x, 2) else ({ x with taps := vput x.taps i (v + 1) }, 1))
  else if req = 2 then (if Config.tapAtLimit k v false then (x, 2) else ({ x with taps := vput x.taps i (v - 1) }, 1))
  else (x, 0)

/-- Serve PRESET and REQ of a marker; RSP goes out in the next marker of that lane. -/
def serveMarker (x : Port) (m : Nat) : Port :=
  let l := nbits m 47 46
  let x := if nbit m 44 = 1 then { x with taps := (List.range 4).foldl (fun t k => vput t (4 * l + k) 0) x.taps } else x
  let (x, r) := [0, 1, 2, 3].foldl (fun (acc : Port × Nat) k =>
    let (y, a) := serveTap acc.1 l k (nbits m (43 - 2 * k) (42 - 2 * k))
    (y, acc.2 * 4 + a)) (x, 0)
  { x with rsp := vput x.rsp l r }

/-- A bit of a mask set or cleared. -/
def withBit (m l : Nat) (b : Bool) : Nat := if b then m ||| 2 ^ l else maskMinus m (2 ^ l)

/-- `TRAINING_MARKER`: a marker of a lane; `ready` tells that the N8's receiver on that lane meets R277. Its requests are served, its
answers kept, and the next marker of the N8 on that lane goes out. -/
def execTrainingMarker (p : Fin 18) (marker : BitVec 64) (ready : Bool) (s : State) : Res :=
  .next (
    let m := marker.toNat
    if s.dom.lineRst ∨ nbits m 63 48 ≠ 0x7E5A ∨ nbits m 27 0 ≠ 0 ∨ s.portState p.val ∉ [2, 5, 6] then s
    else
      let x := serveMarker (s.port p.val) m
      let l := nbits m 47 46
      let x := { x with mine := withBit x.mine l ready, theirs := withBit x.theirs l (nbit m 45 == 1)
                        answers := vput x.answers l (nbits m 35 28) }
      let s := (s.setPort p.val x).sendMarker p.val l
      if s.portState p.val = 2 ∧ s.eligible p.val ≠ 0 ∧ x.mine &&& x.theirs &&& s.eligible p.val = s.eligible p.val then s.toLock p.val
      else s)

/-- `TRAIN_LIMIT`: 100 ms of TRAIN. -/
def execTrainLimit (p : Fin 18) (s : State) : Res := .next (if s.portState p.val = 2 then s.toLock p.val else s)

/-! ## IDENT (R286-R289) -/

/-- Is the tray number set (R286)? -/
def State.traySet (s : State) : Bool := s.od D.TRAY_NO != 0xFF

/-- IDENT or IDENT_ACK of the N8 (R286, R288). -/
def State.sendIdent (s : State) (p sub chosen : Nat) : State :=
  let n := s.od D.LINK_VERSION
  s.sendCtrl p sub ([0] ++ leBytes 2 s.ownId ++ leBytes 1 (portNum p) ++ leBytes 1 (s.laneMask p) ++ leBytes 2 (n - 1) ++ leBytes 2 n
    ++ leBytes 8 (s.od D.SERIAL) ++ leBytes 2 chosen)

/-- A port enters IDENT: numbering starts, and IDENT goes out once the tray number is set. -/
def State.toIdent (s : State) (p : Nat) : State :=
  let x := s.port p
  let s := s.setPort p { x with txSeq := 0, replay := [], resendQ := [], rxExp := 0, rxAny := false, awaitSeq := false, resent := [],
                                judged := none, ackRx := false, change := none }
  let s := s.setPortState p 4
  if s.traySet then s.sendIdent p 1 0 else s

/-- `LANE_LOCK`: a lane gains lock after eight codewords that decode and carry the sync pattern, and those that were corrected count;
with every lane of the mask locked, a port in LOCK enters IDENT (R279, R283). -/
def execLaneLock (p : Fin 18) (l : LaneWords) (s : State) : Res :=
  .next (
    if s.portState p.val < 3 ∨ 6 < s.portState p.val ∨ s.dom.lineRst ∨ (cwTags 0x96 l.words).isNone then s
    else
      let s := s.traffic (R.PORT_FEC_CORR_CW.at (portOff p.val)) (((cwTags 0x96 l.words).getD []).countP (·.2))
      let s := s.setPort p.val { s.port p.val with badRun := vput (s.port p.val).badRun l.lane.val 0 }
      let s := s.setLockMask p.val (s.lockMask p.val ||| 2 ^ l.lane.val)
      if s.portState p.val = 3 ∧ s.laneMask p.val &&& s.lockMask p.val = s.laneMask p.val then s.toIdent p.val else s)

/-- `LOCK_LIMIT`: 10 ms of LOCK; a lane without lock is dropped and the width recomputed (R283). -/
def execLockLimit (p : Fin 18) (s : State) : Res :=
  .next (
    if s.portState p.val ≠ 3 then s
    else
      let m := s.laneMask p.val &&& s.lockMask p.val
      if m = 0 then s.trainFail p.val
      else (s.serveLanes p.val m).toIdent p.val)

/-- The version two sides share, 0 if none (R288). -/
def State.sharedVersion (s : State) (vmin vmax : Nat) : Nat :=
  let n := s.od D.LINK_VERSION
  let v := min n vmax
  if n - 1 ≤ v ∧ vmin ≤ v then v else 0

/-- Expected partner of a port (R287). -/
def State.mapOf (s : State) (p : Nat) : Nat := if p < 16 then s.od (D.MAP_FP + p) else s.od (D.MAP_CP + (p - 16))

/-- The judgement of R287 on a partner: 0 UP, else the MAINT cause: 1 MISWIRED, 2 VERSION, 3 UNMAPPED. -/
def State.judge (s : State) (p dest port serial version : Nat) : Nat :=
  let m := s.mapOf p
  let sn := s.od (D.MAP_SN + p)
  if m = 0 then 3
  else if dest ≠ nbits m 27 16 ∨ port ≠ nbits m 7 0 ∨ (sn ≠ 0 ∧ sn ≠ serial) then 1
  else if version = 0 then 2
  else 0

/-- The detail of PORT_MAINT (R305). -/
def State.maintDetail (s : State) (p cause : Nat) : List Byte :=
  let o := portOff p
  leBytes 1 (portNum p) ++ leBytes 1 cause ++ leBytes 2 (s.fget (R.PORT_PARTNER_DEST.at o)) ++ leBytes 1 (s.fget (R.PORT_PARTNER_PORT.at o))
    ++ [0, 0, 0] ++ leBytes 8 (s.fget (R.PORT_PARTNER_SN_SERIAL.at o))

/-- Whole receive buffers of a port, in credits of 16 bytes (R316). -/
def wholeBuffers : Vector Nat 8 := #v[256, 256, 4096, 4096, 2048, 2048, 256, 256]

/-- The port's loss is over: its condition ends at the interlock. -/
def State.portBack (s : State) (p : Nat) : State :=
  let x := s.port p
  let s := s.setPort p { x with reported := none }
  match x.reported with
  | some cause => s.report (portSource p) .portDown cause 0 true
  | none => s

/-- A port is UP (R287). -/
def State.toUp (s : State) (p : Nat) : State :=
  let o := portOff p
  let s := (s.setPortState p 5).fset (R.PORT_STATUS_MAINT_CAUSE.at o) 0
  let s := s.setPort p { s.port p with bucket := bucketCap, filledAt := s.rtime }
  (s.portBack p).event (portSource p) 0x0A80
    (leBytes 1 (portNum p) ++ leBytes 1 (s.portWidth p) ++ leBytes 2 (s.fget (R.PORT_PARTNER_VERSION.at o)))

/-- A port is in MAINT with a cause (R287, R289). -/
def State.toMaint (s : State) (p cause : Nat) : State :=
  let s := (s.setPortState p 6).fset (R.PORT_STATUS_MAINT_CAUSE.at (portOff p)) cause
  (s.portBack p).event (portSource p) 0x0A83 (s.maintDetail p cause)

/-- A port that reaches UP, or MAINT from IDENT, starts with no credits and returns its whole receive buffers (R316), less what packets
not yet taken hold. -/
def State.creditsStart (s : State) (p : Nat) : State :=
  let x := s.port p
  let ret := x.rxq.foldl (fun (r : Vector Nat 8) k => vmod r (2 * pkTc k + pkVc k) (· - pkCredits k)) wholeBuffers
  s.setPort p { x with cred := .replicate 8 0, ret := ret, deficit := .replicate 3 0 }

/-- IDENT is complete once the partner is judged, its IDENT_ACK is here and the tray number is set. -/
def State.finishIdent (s : State) (p : Nat) : State :=
  let x := s.port p
  match x.judged with
  | some v =>
    if s.portState p = 4 ∧ x.ackRx ∧ s.traySet then
      let s := s.creditsStart p
      if v = 0 then s.toUp p else s.toMaint p v
    else s
  | none => s

/-- `IDENT`: the partner's IDENT is recorded, judged and acknowledged. -/
def execIdent (p : Fin 18) (f : FrameIn) (m : IdentMsg) (s : State) : Res :=
  .next (
    let (ok, s) := s.rxFrame p.val f 2
    if !ok ∨ s.portState p.val ≠ 4 then s
    else
      let o := portOff p.val
      let v := s.sharedVersion m.vmin.toNat m.vmax.toNat
      let s := ((s.fset (R.PORT_PARTNER_VERSION.at o) v).fset (R.PORT_PARTNER_PORT.at o) m.port.toNat).fset
        (R.PORT_PARTNER_ROLE.at o) m.role.toNat
      let s := (s.fset (R.PORT_PARTNER_DEST.at o) m.dest.toNat).fset (R.PORT_PARTNER_SN_SERIAL.at o) m.serial.toNat
      let s := s.setPort p.val { s.port p.val with judged := some (s.judge p.val m.dest.toNat m.port.toNat m.serial.toNat v) }
      (s.sendIdent p.val 2 v).finishIdent p.val)

/-- `IDENT_ACK`. -/
def execIdentAck (p : Fin 18) (f : FrameIn) (_m : IdentMsg) (s : State) : Res :=
  .next (
    let (ok, s) := s.rxFrame p.val f 2
    if !ok ∨ s.portState p.val ≠ 4 then s
    else (s.setPort p.val { s.port p.val with ackRx := true }).finishIdent p.val)

/-- `IDENT_LIMIT`: 1 ms of IDENT without completion; a port whose tray number is unset stays (R283, R286). -/
def execIdentLimit (p : Fin 18) (s : State) : Res :=
  .next (if s.portState p.val = 4 ∧ s.traySet then s.trainFail p.val else s)

/-- A write of the map entry of a port in MAINT for its map repeats the check (R287). -/
def State.remap (s : State) (p : Nat) : State :=
  let o := portOff p
  let c := s.fget (R.PORT_STATUS_MAINT_CAUSE.at o)
  if s.portState p = 6 ∧ (c = 1 ∨ c = 3) then
    let v := s.judge p (s.fget (R.PORT_PARTNER_DEST.at o)) (s.fget (R.PORT_PARTNER_PORT.at o))
      (s.fget (R.PORT_PARTNER_SN_SERIAL.at o)) (s.fget (R.PORT_PARTNER_VERSION.at o))
    if v = 0 then (s.creditsStart p).toUp p else if v = c then s else s.toMaint p v
  else s

/-- `DOWN_RETRY`: a port that is DOWN starts again at DETECT (R283). -/
def execDownRetry (p : Fin 18) (s : State) : Res :=
  .next (if s.portState p.val = 7 ∧ s.portMay p.val then s.setPortState p.val 1 else s)

/-! ## Traffic frames -/

/-- Is a reserved bit of a payload set: of a ROUTE_FAIL (R319), of a barrier message (R231), of a READY (R343)? -/
def pkResv (k : Pkt) : Bool :=
  let b := fun (i n : Nat) => leNat ((k.payload.drop i).take n) != 0
  (pkType k == 6 && b 6 10) || (pkType k == 4 && pkAddr k % 256 == 1 && (b 1 1 || b 24 8))
    || (pkType k == 4 && decide (0x10 ≤ pkAddr k % 256) && leNat (k.payload.take 1) == 2 && b 40 8)

/-- Is a received packet discarded under R308? -/
def pkBad (k : Pkt) : Bool :=
  pkResv k || decide (9 ≤ pkType k) || decide (32 < pkLen k) || (pkMc k && (pkType k != 0 && pkType k != 5 || k.ext.toNat / 2 ^ 96 != 0))

/-- Does an arriving packet belong on a port in MAINT (R289): TC3, from the partner to this package? -/
def State.maintOk (s : State) (p : Nat) (k : Pkt) : Bool :=
  let d := s.fget (R.PORT_PARTNER_DEST.at (portOff p))
  pkTc k == 3 && pkSrc k == d && pkDest k == s.ownId % 4096

/-- A packet of the stream arrives: dropped, or kept in its receive buffer until its row takes it (R289, R308). A CSR_RSP, for which
the table has no row, goes on at once: this package never asked for it (R311). -/
def State.takePacket (s : State) (p : Nat) (k : Pkt) : State :=
  let x := s.port p
  let t := pkTc k
  let x := { x with period := { x.period with recvd := vmod x.period.recvd t (· + pkBytes k) } }
  let free := fun (x : Port) => { x with ret := vmod x.ret (2 * t + pkVc k) (· + pkCredits k) }
  if pkBad k then (s.setPort p (free x)).ruleDrop
  else if s.portState p = 6 ∧ !s.maintOk p k then
    (s.setPort p (free x)).bump (R.PORT_EVENTS3_MAINT_DROP.at (portOff p)) (R.PORT_FLAGS_MAINT_OVF.at (portOff p))
  else if pkType k = 8 then
    let s := s.setPort p (free x)
    if s.aged k then s.bump R.ROUTE_EVENTS2_AGED R.ROUTE_FLAGS_AGED_OVF
    else if pkDest k = s.ownId % 4096 then s.bump R.ROUTE_EVENTS3_STALE_RSP R.ROUTE_FLAGS_STALE_OVF
    else s.forward k (decide (p < 16))
  else s.setPort p { x with rxq := x.rxq ++ [k] }

/-- `DATA_FRAME`: `pkts` are the packets whose last byte this frame carries. -/
def execDataFrame (p : Fin 18) (f : FrameIn) (pkts : List Pkt) (s : State) : Res :=
  .next (
    let (ok, s) := s.rxFrame p.val f 1
    let s := if ok ∧ s.portState p.val ≠ 4 then pkts.foldl (fun s k => s.takePacket p.val k) s else s
    s.pumpPort p.val 512)

/-- `IDLE_FRAME`. -/
def execIdleFrame (p : Fin 18) (f : FrameIn) (s : State) : Res := .next (((s.rxFrame p.val f 0).2).pumpPort p.val 512)

/-- `RETRY`: the frames from FSEQ `e` are sent again; where one of them has been sent again eight times without acknowledgement the port
goes DOWN instead (R281). -/
def execRetry (p : Fin 18) (f : FrameIn) (e : BitVec 12) (s : State) : Res :=
  .next (
    let (ok, s) := s.rxFrame p.val f 2
    if !ok then s
    else
      let s := s.frameAcked p.val ((e.toNat + 0xFFF) % 0x1000)
      let x := s.port p.val
      if x.replay.any fun u => decide (8 ≤ timesResent x.resent u.1) then s.portDown p.val 2 0
      else (s.setPort p.val { x with resendQ := x.replay }).pumpPort p.val 1024)

/-- A lane leaves service: counted, and parked where it has done so too often within an hour (R291). It stays out until it passes a
retrain; a width step under way that would keep it is over, since the loss starts a new one (R290). -/
def State.laneDrops (s : State) (p l : Nat) : State :=
  let s := s.bump (R.LN_STATUS_DROPS.at (lnOff p l)) (R.LN_STATUS_DROPS_OVF.at (lnOff p l))
  let x := s.port p
  let ls := (l, s.rtime) :: x.losses.filter (fun e => decide (s.rtime < e.2 + 3600000000000))
  let s := s.setPort p { x with losses := ls, dropped := x.dropped ||| 2 ^ l
                                change := x.change.filter fun c => nbit c.1 l == 0 }
  let s := s.setLaneMask p (maskMinus (s.laneMask p) (2 ^ l))
  if (ls.filter (fun e => e.1 == l)).length ≥ s.od D.LANE_PARK_LIMIT then s.setParked p (s.parked p ||| 2 ^ l) else s

/-- Every lane in service of a port that runs the link layer leaves it (R290, R291). -/
def State.lanesLost (s : State) (p : Nat) : State :=
  if s.portLinked p then (lanesOf (s.laneMask p)).foldl (fun s l => s.laneDrops p l) s else s

/-- `DOWN`: a DOWN message, or every lane lost (R292). -/
def execDown (p : Fin 18) (why : PortLoss) (s : State) : Res :=
  .next (
    match why with
    | .message f cause =>
      let (ok, s) := s.rxFrame p.val f 2
      if ok then s.portDown p.val 3 cause.toNat else s
    | .lanes => if s.dom.lineRst ∨ s.portState p.val < 3 then s else (s.lanesLost p.val).portDown p.val 1 0)

/-- `FRAME_ACK_REPORT`: an IDLE frame reports ACKSEQ and returns credits (R281). -/
def execFrameAckReport (p : Fin 18) (s : State) : Res :=
  .next (if s.portLinked p.val then s.sendFrame p.val .idle else s)

/-! ## Width steps (R290, R291) -/

/-- A WIDTH proposal. -/
def State.propose (s : State) (p m : Nat) : State := s.sendCtrl p 5 (BitVec.ofNat 8 0 :: leBytes 1 m)

/-- This side's own mask: the lanes in service, and those that have passed a retrain since they left it. -/
def State.ableLanes (s : State) (p : Nat) : Nat := maskMinus (maskMinus (s.lockMask p) (s.parked p)) (s.port p).dropped

/-- `WIDTH`: a proposal is answered with the AND of both masks and a codeword count 64 to 1,023 ahead of the one being sent, how far
ahead being free; an answer is taken (R290; log entry 178). An answer whose mask holds a lane that has left service since belongs to a
step that the next one has replaced: a later loss starts a new step from the latest mask. -/
def execWidth (p : Fin 18) (f : FrameIn) (answer : Bool) (mask : BitVec 4) (count : BitVec 12) (s : State) : Res :=
  .next (
    let (ok, s) := s.rxFrame p.val f 2
    if !ok then s
    else if answer then
      if mask.toNat &&& s.ableLanes p.val = mask.toNat then s.setPort p.val { s.port p.val with change := some (mask.toNat, count.toNat) } else s
    else
      let m := mask.toNat &&& s.ableLanes p.val
      let (v, s) := s.draw
      let c := ((s.port p.val).cwCount + 64 + v.toNat % 960) % 4096
      let s := s.setPort p.val { s.port p.val with change := some (m, c) }
      s.sendCtrl p.val 5 ([1] ++ leBytes 1 m ++ [0] ++ leBytes 2 c))

/-- `WIDTH_CHANGE`: the named count arrives (codewords of IDLE frames fill the stream up to it); lanes that the step takes out leave service, and the port runs at the new width or goes DOWN
(R290, R291). -/
def execWidthChange (p : Fin 18) (s : State) : Res :=
  .next (
    match (s.port p.val).change with
    | none => s
    | some (m, c) =>
      let o := portOff p.val
      let x := s.port p.val
      let s := s.setPort p.val { x with change := none, cwCount := if (4096 + x.cwCount - c) % 4096 < 2048 then x.cwCount else c }
      let s := s.bump (R.PORT_EVENTS2_WIDTH_STEPS.at o) (R.PORT_FLAGS_STEPS_OVF.at o)
      if widthOf m = 0 then s.portDown p.val 1 0
      else
        let old := s.portWidth p.val
        let s := s.fillBucket p.val
        let s := (lanesOf (maskMinus (s.laneMask p.val) m)).foldl (fun s l => s.laneDrops p.val l) s
        let s := s.serveLanes p.val m
        (s.event (portSource p.val) 0x0A82
          (leBytes 1 (portNum p.val) ++ leBytes 1 old ++ leBytes 1 (widthOf m) ++ leBytes 1 m)).pumpPort p.val 512)

/-- A lane of a port in service leaves it: the port proposes the mask without it, or goes DOWN where it was the last (R290, R292). -/
def State.laneOut (s : State) (p l : Nat) : State :=
  if nbit (s.laneMask p) l = 0 ∨ !s.portLinked p then s
  else
    let s := s.laneDrops p l
    if s.laneMask p = 0 then s.portDown p 1 0 else s.propose p (s.laneMask p)

/-- `LANE_LOSS`: a lane loses lock, or 16 of its codewords fail within 1 ms (`lock` false) (R290). -/
def execLaneLoss (p : Fin 18) (l : Fin 4) (lock : Bool) (s : State) : Res :=
  .next (
    if s.dom.lineRst then s
    else (if lock then s.setLockMask p.val (maskMinus (s.lockMask p.val) (2 ^ l.val)) else s).laneOut p.val l.val)

/-- `LANE_RETRAIN`: a lane out of service is retrained alone; one that passes rejoins by a WIDTH step (R291). -/
def execLaneRetrain (p : Fin 18) (l : Fin 4) (passed : Bool) (s : State) : Res :=
  .next (
    if s.od D.AUTO_WIDEN = 1 ∧ (s.portState p.val = 5 ∨ s.portState p.val = 6) ∧ nbit (s.laneMask p.val) l.val = 0
        ∧ nbit (s.parked p.val) l.val = 0 ∧ nbit (s.port p.val).barred l.val = 0 ∧ passed = true then
      let s := s.setLockMask p.val (s.lockMask p.val ||| 2 ^ l.val)
      let x := s.port p.val
      (s.setPort p.val { x with dropped := maskMinus x.dropped (2 ^ l.val), badRun := vput x.badRun l.val 0
                                badAt := x.badAt.filter (fun e => e.1 != l.val) }).propose p.val (s.laneMask p.val ||| 2 ^ l.val)
    else s)

/-! ## Register writes (R292, R303) -/

/-- A write of RETRAIN. -/
def State.retrain (s : State) (p : Nat) : State :=
  let s := (s.sayDown p 3).setParked p 0
  let s := s.portDown p 4 0
  let s := s.setPort p { s.port p with losses := [] }
  if s.portMay p then s.setPortState p 1 else s

/-- `RETRAIN`. -/
def execRetrain (p : Fin 18) (src : Party) (s : State) : Res := .next (s.byParty src fun s => s.regCmd (R.PORT_CTL + portOff p.val) (·.retrain p.val))

/-- A write of EN: 0 sends DOWN and leaves the port in electrical idle, 1 lets it train; fabric ports outside the licence ignore
it. -/
def State.portEn (s : State) (p : Nat) (on : Bool) : State :=
  if !s.portLicensed p then s
  else if on then
    let s := s.fset (R.PORT_CTL_EN.at (portOff p)) 1
    if s.portState p = 7 ∨ s.portState p = 0 then s.setPortState p 1 else s
  else
    let s := (s.sayDown p 2).portDown p 4 0
    (s.fset (R.PORT_CTL_EN.at (portOff p)) 0).setPortState p 7

/-- `PORT_EN`. -/
def execPortEn (p : Fin 18) (src : Party) (on : Bool) (s : State) : Res :=
  .next (s.byParty src fun s => s.regCmd (R.PORT_CTL + portOff p.val) (·.portEn p.val on))

/-- A codeword that fails to decode, or to carry the sync pattern, arrives on a lane (R279, R290): it brings no frame, and a
frame that was being waited for is asked for again at the next gap; the former counts. The tenth in a row loses the lane's lock, and the sixteenth that fails to decode within 1 ms takes
it out of service. The frame of a good codeword comes as a command of its own. -/
def State.portBadWord (s : State) (p l : Nat) (cw : BitVec 5440) : State :=
  if s.dom.lineRst ∨ s.portState p < 3 ∨ s.portState p = 7 ∨ (cwTag 0x96 cw).isSome then s
  else
    let bad := (rsDecode cw).isNone
    let s := if bad then s.bump (R.PORT_EVENTS_UNCORR_CW.at (portOff p)) (R.PORT_FLAGS_UNCORR_OVF.at (portOff p))
      else if (rsDecode cw).any (·.2) then s.traffic (R.PORT_FEC_CORR_CW.at (portOff p)) 1 else s
    let x := s.port p
    let at_ := (if bad then [(l, s.rtime)] else []) ++ x.badAt.filter (fun e => decide (s.rtime < e.2 + 1000000))
    let s := s.setPort p { x with badRun := vmod x.badRun l (· + 1), badAt := at_, awaitSeq := false }
    if 10 ≤ vget 0 x.badRun l + 1 then (s.setLockMask p (maskMinus (s.lockMask p) (2 ^ l))).laneOut p l
    else if 16 ≤ at_.countP (fun e => e.1 == l) then s.laneOut p l
    else s

/-! ## FABRIC_STATE (R293, R306) -/

/-- Fabric ports under the licence that are not UP (R293). -/
def State.portsMissing (s : State) : Nat :=
  ((List.range 16).filter fun p => s.portLicensed p && s.portState p != 5).length

/-- FABRIC_STATE: the ports that are UP, and FABRIC_DEGRADED once full service is declared. -/
def State.fabricState (s : State) : Nat :=
  let up := ((List.range 18).map fun p => if s.portState p = 5 then 2 ^ p else 0).foldl (· + ·) 0
  let narrow := (List.range 18).any fun p => (s.portState p == 5 || s.portState p == 6) && s.portWidth p != 4
  up + (if s.flag R.BOOT_STATUS_FULL ∧ (s.portsMissing ≠ 0 ∨ narrow = true) then 2 ^ 31 else 0)

/-! ## Die-to-die links (R295) -/

/-- `D2D_DEGRADED`: module `m` of pair `i` cannot be repaired. -/
def execD2dDegraded (i : Fin 6) (m : Fin 4) (s : State) : Res :=
  .next (
    let f := R.UCIE_STATUS_MODULES.at (8 * i.val)
    if s.dom.lineRst ∨ nbit (s.fget f) m.val = 0 then s
    else
      let v := maskMinus (s.fget f) (2 ^ m.val)
      ((s.fset f v).report (0x0350 + i.val) .d2dDegraded v 0).event (0x0350 + i.val) 0x0A85 (leBytes 1 i.val ++ leBytes 1 v))

/-! ## Rack time (R296-R299) -/

/-- RTIME_FAULT with its bits and a correction in nanoseconds (R305). -/
def State.rtimeFault (s : State) (bits : Nat) (corr : Int) : State :=
  s.event 0x0370 0x0A84 (leBytes 1 bits ++ [0, 0, 0] ++ leBytes 4 (corr % 2 ^ 32).toNat)

/-- The nearest multiple of a millisecond; half a millisecond rounds up. -/
def nearestMs (t : Nat) : Nat := (t + 500000) / 1000000 * 1000000

/-- Snap RTIME to the millisecond; a correction above 100 ns is a slip. -/
def State.snapRtime (s : State) : State :=
  let t := s.rtime
  let n := nearestMs t
  let d : Int := (n : Int) - t
  let s := s.fset R.RTIME_NS n
  if d.natAbs > 100 then (s.bump R.RTIME_STATUS_TSYNC_SLIP R.RTIME_STATUS_SLIP_OVF).rtimeFault 4 d else s

/-- RTIME takes an armed value. -/
def State.loadRtime (s : State) (v : Nat) : State :=
  let s := (s.fset R.RTIME_NS v).fset R.RTIME_STATUS_ARMED 0
  let s := if s.flag R.RTIME_STATUS_REFCLK_LOCK then s.fset R.RTIME_STATUS_RTIME_VALID 1 else s
  { s with clock := { s.clock with armed := none, fromCopy := false } }

/-- `TSYNC_EDGE`. -/
def execTsyncEdge (s : State) : Res :=
  .next (
    let c := { s.clock with copy := if s.dom.signalRst && !s.clock.fromCopy then s.clock.copy else nearestMs s.clock.copy }
    let s := { s with clock := c, rfrac := 0 }
    if s.dom.lineRst then s
    else
      let s := s.fset R.RTIME_STATUS_TSYNC_PRESENT 1
      let due := match c.armed with
        | some (v, t) => if t + 10000 ≤ s.rtime then some v else none
        | none => if c.fromCopy then some c.copy else none
      match due with
      | some v =>
        let s := s.loadRtime v
        if s.dom.signalRst then s
        else { s with clock := { s.clock with copy := v, copyValid := s.flag R.RTIME_STATUS_RTIME_VALID } }
      | none => s.snapRtime)

/-- `TSYNC_LOSS`: no edge for 1.5 ms. -/
def execTsyncLoss (s : State) : Res :=
  .next (
    if s.dom.lineRst ∨ !s.flag R.RTIME_STATUS_TSYNC_PRESENT then s
    else (s.fset R.RTIME_STATUS_TSYNC_PRESENT 0).rtimeFault 1 0)

/-- `REFCLK_LOSS`: PLLs, die-to-die links and clocked edges, the optical lanes among them (R11), lose lock, every port goes DOWN, RTIME
runs on the internal oscillator. The modules train again at the next LINE reset (R294, R295). -/
def execRefclkLoss (s : State) : Res :=
  .next (
    if !s.clock.present then s
    else
      let s := { s with clock := { s.clock with present := false, copyValid := false, armed := none, fromCopy := false } }
      if s.dom.lineRst then s
      else
        let s := ((s.fset R.RTIME_STATUS_REFCLK_LOCK 0).fset R.RTIME_STATUS_RTIME_VALID 0).fset R.RTIME_STATUS_ARMED 0
        let s := (List.range 18).foldl (fun s p => (s.lanesLost p).portDown p 1 0) s
        let s := (List.range 6).foldl (fun s i => s.fset (R.UCIE_STATUS_MODULES.at (8 * i)) 0) s
        let s := [0, 1].foldl (fun s l => s.laneDown l 1 false) s
        -- a trial of the LINE image can then no longer be confirmed (R521)
        let s := { s with fw := { s.fw with spoilt := s.fw.spoilt ||| 4 } }
        (s.rtimeFault 2 0).report 0x0370 .clockLost 0 0)

/-- `REFCLK_LOCK`: REFCLK returns. -/
def execRefclkLock (s : State) : Res :=
  .next (
    let was := s.clock.present
    let s := { s with clock := { s.clock with present := true } }
    if s.dom.lineRst ∨ s.flag R.RTIME_STATUS_REFCLK_LOCK then s
    else
      let s := s.fset R.RTIME_STATUS_REFCLK_LOCK 1
      if was then s else s.report 0x0370 .clockLost 0 0 true)

/-- A load of RTIME is armed (R297): refused unless a multiple of a millisecond. -/
def State.armRtime (s : State) (v : Nat) : Bool × State :=
  if v % 1000000 ≠ 0 then (false, s)
  else (true, { s.fset R.RTIME_STATUS_ARMED 1 with clock := { s.clock with armed := some (v, s.rtime) } })

end Sys2Proof.Machine
end

