-- ==== Sys2Proof/Machine/Packets.lean ====
section
/-! DEFINITION. Packets that arrive (R307-R326): local service, forwarding, answers to requests, ROUTE_FAIL, the TC0 bucket's release,
request timeouts, the points and the congestion map. -/

namespace Sys2Proof.Machine

/-! ## Taking a packet from a receive buffer -/

/-- The first packet of a type in a queue, and the rest. -/
def takeType (t : Nat) : List Pkt → Option (Pkt × List Pkt)
  | [] => none
  | k :: l => if pkType k = t then some (k, l) else (takeType t l).map fun (j, r) => (j, k :: r)

/-- Take the first packet of a type from receive buffer `k`: a port, or 18 for packets of this package for itself. Its credits
return (R316). -/
def State.takeRx (s : State) (k t : Nat) : Option (Pkt × State) :=
  if k < 18 then
    let x := s.port k
    (takeType t x.rxq).map fun (p, l) =>
      (p, s.setPort k { x with rxq := l, ret := vmod x.ret (2 * pkTc p + pkVc p) (· + pkCredits p) })
  else (takeType t s.router.looped).map fun (p, l) => (p, { s with router := { s.router with looped := l } })

/-- A packet of a type arrives: too old, served here, or forwarded (R312-R314, R322). -/
def State.packetRow (s : State) (k t : Nat) (serve : State → Pkt → State) : State :=
  match s.takeRx k t with
  | none => s
  | some (p, s) =>
    if k < 18 ∧ s.aged p then s.bump R.ROUTE_EVENTS2_AGED R.ROUTE_FLAGS_AGED_OVF
    else if pkMc p ∨ k = 18 ∨ pkDest p = s.ownId % 4096 then serve s p
    else s.forward p (decide (k < 16))

/-- The fault source of a request that arrived (R417): the port, or the tile for a request of this package. -/
def State.pkSource (s : State) (k : Nat) (p : Pkt) : Nat :=
  if k < 18 then portSource k else match s.reqOf (pkTag p) with | some r => r.tile | none => 0x0360

/-- Answer a request. -/
def State.answer (s : State) (p : Pkt) (type status : Nat) (data : List Byte) : State :=
  s.sendPkt (s.mkPkt { type := type, tc := pkTc p, svc := pkSvc p, dest := pkSrc p, status := status, tag := pkTag p, payload := data })

/-! ## Memory requests (R308, R310, R317) -/

/-- `WRITE`. -/
def execWrite (k : Fin 19) (s : State) : Res :=
  .next (s.packetRow k.val 0 fun s p =>
    let (c, s) := s.memWrite (s.pkSource k.val p) (pkAddr p) p.payload
    s.answer p 1 c [])

/-- `READ`: a length outside 1 to 512 is answered ADDRESS_ERROR. -/
def execRead (k : Fin 19) (s : State) : Res :=
  .next (s.packetRow k.val 2 fun s p =>
    let n := leNat (p.payload.take 4)
    if n = 0 ∨ 512 < n then s.answer p 3 1 []
    else
      match s.memRead ⟨0, 3, s.pkSource k.val p⟩ (pkAddr p) n with
      | (.ok l, s) => s.answer p 3 0 l
      | (.error (c, _), s) => s.answer p 3 c [])

/-- A response: the open request with its tag ends, or the response is stale (R311). UNREACHABLE comes from whatever package found no
route on the way (R313). -/
def State.response (s : State) (p : Pkt) (req : Nat) : State :=
  match s.reqOf (pkTag p) with
  | some r =>
    if pkType r.pkt = req ∧ (pkDest r.pkt = pkSrc p ∨ pkStatus p = 8) then
      (s.endReq r (pkStatus p) (p.payload.take r.len)).dmaGoOn r.tile r.eng
    else s.bump R.ROUTE_EVENTS3_STALE_RSP R.ROUTE_FLAGS_STALE_OVF
  | none => s.bump R.ROUTE_EVENTS3_STALE_RSP R.ROUTE_FLAGS_STALE_OVF

/-- `WRITE_ACK`. -/
def execWriteAck (k : Fin 19) (s : State) : Res := .next (s.packetRow k.val 1 fun s p => s.response p 0)
/-- `READ_RSP`. -/
def execReadRsp (k : Fin 19) (s : State) : Res := .next (s.packetRow k.val 3 fun s p => s.response p 2)

/-- `REQUEST_TIMEOUT`: no response within E2E_TIMEOUT; the code of TIMEOUT is a free value (R311). -/
def execRequestTimeout (tag : BitVec 16) (s : State) : Res :=
  .next (
    match s.reqOf tag.toNat with
    | some r =>
      ((s.bump R.ROUTE_EVENTS4_E2E_TIMEOUTS R.ROUTE_FLAGS_TIMEOUT_OVF).endReq r (2 ^ 16 + Config.timeoutStatus.toNat) []).dmaGoOn
        r.tile r.eng
    | none => s)

/-! ## Messages and collective packets (R308, R317, R342) -/

/-- A barrier message (R231) from its 32 bytes and the package that sent it. -/
def barOf (l : List Byte) (src : Nat) : BarMsg :=
  let f := fun k n => leNat ((l.drop k).take n)
  ⟨f 0 1, f 2 2, f 4 4, f 8 4, f 12 2, f 14 2, BitVec.ofNat 64 (f 16 8), src⟩

/-- A marshalling engine. -/
def State.meng (s : State) (d : Nat) : Me := vget .reset s.me d
/-- The state with a marshalling engine replaced. -/
def State.setMe (s : State) (d : Nat) (e : Me) : State := { s with me := vput s.me d e }
/-- Offset of a marshalling engine's registers: those of its die (R359). -/
def meOff (d : Nat) : Nat := dieOff d

/-- STRAY (R348). -/
def State.stray (s : State) (d : Nat) : State :=
  s.bump (R.ME_DROPS2_STRAY.at (meOff d)) ⟨R.ME_FLAGS + meOff d, 13, 1⟩

/-- KIND of a collective message (R343). -/
def cmKind (p : Pkt) : Nat := leNat (p.payload.take 1)
/-- GROUP of a collective message. -/
def cmGroup (p : Pkt) : Nat := leNat ((p.payload.drop 1).take 1)

/-- A collective message reaches the engine of die `d`: a fenced engine takes none (R317), a reserved KIND or address is stray. -/
def State.toEngine (s : State) (p : Pkt) (d : Nat) : State :=
  if s.unitFenced R.FENCE_UNITS_ME d then s.ruleDrop
  else if cmKind p = 0 ∨ 5 < cmKind p ∨ pkAddr p / 2 ^ 20 ≠ 0 then s.stray d
  else
    let e := s.meng d
    s.setMe d { e with inbox := e.inbox ++ [p] }

/-- Dies of this package that belong to a group (R342). -/
def State.groupDies (s : State) (g : Nat) : List Nat :=
  let (slots, dies) := s.job.groups.getD g (0, 0)
  if s.ownId ≠ 0xFFFF ∧ nbit slots s.ownSlot = 0 then [] else (List.range 4).filter fun d => nbit dies d == 1

/-- A collective message is handed to the engines its address names (R342). DESIGN CHOICE (log entry 165): one with a reserved address
0x14-0x1E, which names no engine, counts in STRAY of the engine of die ADDR[1:0] (R348). -/
def State.toEngines (s : State) (p : Pkt) : State :=
  let a := pkAddr p % 256
  if s.dom.worksRst then s.ruleDrop
  else if 0x10 ≤ a ∧ a ≤ 0x13 then s.toEngine p (a - 0x10)
  else if a = 0x1F then (s.groupDies (cmGroup p)).foldl (fun s d => s.toEngine p d) s
  else if 0x14 ≤ a ∧ a ≤ 0x1E then s.stray (a % 4)
  else s.ruleDrop

/-- `MSG`: to the epoch barrier or the marshalling engines. A decision that arrives while WORKS is in reset is held (R149). -/
def execMsg (k : Fin 19) (s : State) : Res :=
  .next (s.packetRow k.val 4 fun s p =>
    if pkAddr p % 256 = 1 then
      (let m := barOf p.payload (pkSrc p)
       if s.dom.worksRst ∧ m.type ≠ 3 ∧ m.type ≠ 4 then s.ruleDrop
       else
         if m.type = 0 ∨ 7 < m.type then s.bump R.EPOCH_STRAY_STRAY R.EPOCH_STRAY_STRAY_OVF
         else { s with barInbox := s.barInbox ++ [m] })
    else s.toEngines p)

/-- `COLL`. -/
def execColl (k : Fin 19) (s : State) : Res := .next (s.packetRow k.val 5 fun s p => s.toEngines p)

/-! ## Rerouting (R319) -/

/-- A request of this package is sent again with the exclusion in force. -/
def State.resendReq (s : State) (r : Req) : State :=
  let t := s.mkPkt { type := pkType r.pkt, tc := pkTc r.pkt, svc := pkSvc r.pkt, dest := pkDest r.pkt, tag := r.tag,
                     addr := pkAddr r.pkt, payload := r.pkt.payload }
  let f := fun (q : Req) => if q.tag = r.tag then { q with again := true } else q
  ({ s with router := { s.router with reqs := s.router.reqs.map f } }).sendPkt t

/-- `ROUTE_FAIL`: from a junction switch, the plane is excluded for the destination and an own request is sent again, once; one that was
sent again already ends with UNREACHABLE (R319, R320), which counts where the exclusion leaves no route. -/
def execRouteFail (k : Fin 19) (s : State) : Res :=
  .next (s.packetRow k.val 6 fun s p =>
    let src := pkSrc p
    if src < 0xF00 ∨ 0xF0F < src then s.ruleDrop
    else
      let plane := src - 0xF00
      let d := leNat (p.payload.take 2) % 4096
      let type := leNat ((p.payload.drop 3).take 1)
      let tag := leNat ((p.payload.drop 4).take 2)
      let s := s.bump R.ROUTE_EVENTS3_FAIL_RX R.ROUTE_FLAGS_FAIL_OVF
      let s := { s with router := { s.router with failRx := s.router.failRx + 1 } }
      let s := s.fset (exclude d) (s.fget (exclude d) ||| 2 ^ plane)
      let s :=
        if 0x010 ≤ d ∧ d ≤ 0x06F then
          let f := R.REACH_MASK.at (16 * plane + 8 * ((d - 0x010) / 64))
          let b := (d - 0x010) % 64
          s.fset f (s.fget f - nbit (s.fget f) b * 2 ^ b)
        else s
      match s.reqOf tag with
      | some r =>
        if pkDest r.pkt ≠ d ∨ pkType r.pkt ≠ type then s
        else if !r.again then s.resendReq r
        else
          let s := if (s.select r.pkt d).isNone ∧ (s.maintPort ⟨r.pkt, false, false⟩).isNone then s.countUnreachable else s
          (s.endReq r 8 []).dmaGoOn r.tile r.eng
      | none => s)

/-- A write of a points entry (R17, R319, R328): refused with a nonzero reserved bit, else stored, and the exclusions of that
destination end. -/
def State.writePoints (s : State) (src : Party) (d : Nat) (v : Word) : State :=
  if nbits v.toNat 62 19 ≠ 0 then s.csrRefuse src (R.POINTS + 8 * d)
  else (s.csrPut (R.POINTS + 8 * d) v).fset (exclude d) 0

/-- `POINTS`. -/
def execPoints (d : BitVec 12) (src : Party) (v : BitVec 64) (s : State) : Res :=
  .next (s.byParty src fun s => s.regCmd (R.POINTS + 8 * d.toNat) (·.writePoints src d.toNat v))

/-- Every exclusion ends (R328). -/
def State.clearExclude (s : State) : State :=
  { s with csr := s.csr.filter fun e => !(decide (R.EXCLUDE ≤ e.1) && decide (e.1 < R.EXCLUDE + 8 * 4096)) }

/-- `CLEAR_EXCLUDE`. -/
def execClearExclude (src : Party) (s : State) : Res := .next (s.byParty src fun s => s.regCmd R.ROUTE_CTL (·.clearExclude))

/-- `TC0_BUCKET_RELEASE`: the packet waiting longest leaves the bucket of its port once its bytes are there (R326). -/
def execTc0BucketRelease (p : Fin 18) (s : State) : Res :=
  .next (
    let s' := s.fillBucket p.val
    let x := s'.port p.val
    match x.held with
    | [] => s
    | k :: t =>
      if pkBytes k * 16 ≤ x.bucket then (s'.setPort p.val { x with held := t, bucket := x.bucket - pkBytes k * 16 }).pushOut p.val ⟨k, false, false⟩
      else s')

/-! ## Congestion maps (R324) -/

/-- A count in its field, saturating. -/
def satField (n bytes : Nat) : List Byte := leBytes bytes (min n (2 ^ (8 * bytes) - 1))

/-- The record of a port for a period of `ns` nanoseconds. -/
def State.cmapRecord (s : State) (p ns : Nat) : List Byte :=
  let m := (s.port p).period
  let cls := fun t =>
    satField (vget 0 m.sent t / 64) 4 ++ satField (vget 0 m.recvd t / 64) 4
      ++ satField (vget 0 m.waited t * 65536 / max ns 1) 2 ++ satField (vget 0 m.most t / 1024) 2
  leBytes 1 (s.portState p) ++ leBytes 1 (s.portWidth p) ++ List.replicate 6 0 ++ cls 0 ++ cls 1 ++ cls 2 ++ cls 3
    ++ satField m.resent 4 ++ List.replicate 4 0

/-- The waits still going on are cut at the end of the period. -/
def PortPeriod.cut (m : PortPeriod) (now : Nat) : PortPeriod :=
  [0, 1, 2, 3].foldl (fun m t =>
    match vget none m.since t with
    | some a => { m with waited := vmod m.waited t (· + (now - a)), since := vput m.since t (some now) }
    | none => m) m

/-- The period counters after a map: the waits in progress go on, and bytes still queued are the first of the new maximum. -/
def Port.newPeriod (x : Port) : Port :=
  { x with period := { PortPeriod.zero with since := x.period.since, most := .ofFn fun t => x.classBytes t.val } }

/-- Write 64-bit words into a register range. -/
def State.putWords (s : State) (off : Nat) : List Nat → State
  | [] => s
  | w :: t => (s.csrPut off (BitVec.ofNat 64 w)).putWords (off + 8) t

/-- `CMAP_PERIOD`: a map is written into the buffer that is not current, and becomes current. The buffers alternate, so that the low
bit of SEQ is BUF and `CMAP_CUR` reads as SEQ (DEDUCED; log entry 9). With CMAP_EN = 0 no map is written, and a period ends
uncounted: the first map after it covers its own period only. -/
def execCmapPeriod (s : State) : Res :=
  .next (
    if s.dom.lineRst then s
    else if !s.flag R.ROUTE_CTL_CMAP_EN then
      let s := (List.range 18).foldl (fun s p => s.setPort p { s.port p with period := (s.port p).period.cut s.rtime }) s
      let s := (List.range 18).foldl (fun s p => s.setPort p (s.port p).newPeriod) s
      { s with router := { s.router with unreach := 0, failRx := 0 } }
    else
      let us := s.od D.CMAP_PERIOD
      let s := (List.range 18).foldl (fun s p => s.setPort p { s.port p with period := (s.port p).period.cut s.rtime }) s
      let full := ((s.csrGet R.CMAP_CUR).toNat + 1) % 2 ^ 64
      let buf := full % 2
      let hdr := leBytes 8 full ++ leBytes 8 s.rtime ++ leBytes 4 us ++ leBytes 2 s.ownId ++ leBytes 2 18
        ++ satField s.router.unreach 4 ++ satField s.router.failRx 4 ++ List.replicate 32 0
      let body := hdr ++ (List.range 18).flatMap fun p => s.cmapRecord p (1000 * us)
      let s := s.putWords (R.CMAP_BUF + 0x1000 * buf) (words64 152 body)
      let s := s.csrPut R.CMAP_CUR (BitVec.ofNat 64 full)
      let s := (List.range 18).foldl (fun s p => s.setPort p (s.port p).newPeriod) s
      { s with router := { s.router with unreach := 0, failRx := 0 } })

end Sys2Proof.Machine
end

