-- ==== Sys2Proof/Machine/Coll.lean ====
section
/-! DEFINITION. Collectives (R109-R114, R330-R362): consists and their checks, launch, the wire, reductions in rank order, chunk
retry, completion, aborts, skew and coasting. -/

namespace Sys2Proof.Machine

/-! ## Groups and ranks (R330, R331) -/

/-- Members of a group by rank: package index, destination ID, die. -/
def State.members (s : State) (g : Nat) : List (Nat × Nat × Nat) :=
  let (slots, dies) := s.job.groups.getD g (0, 0)
  (s.job.dest.zipIdx.filter fun (d, _) => decide (0x010 ≤ d) && nbit slots (d - 0x010) == 1).flatMap fun (d, i) =>
    ((List.range 4).filter fun k => nbit dies k == 1).map fun k => (i, (if i = s.job.rank then s.ownId else d), k)

/-- The open attempt: epoch and attempt number. -/
def State.openAttempt (s : State) : Nat × Nat := (s.epochC + 1, s.fget R.EPOCH_STATUS_ATTEMPT)

/-! ## Consists (R109, R110) -/

/-- DIGEST of words 1 to 3 (R110). -/
def consistDigest (w1 w2 w3 : Nat) : BitVec 64 :=
  let z := mix64 (BitVec.ofNat 64 w1)
  let z := mix64 (z ^^^ BitVec.ofNat 64 w2)
  mix64 (z ^^^ BitVec.ofNat 64 w3)

/-- A consist from its eight words. -/
def Consist.ofWords (w : Nat → Nat) : Consist :=
  { digest := BitVec.ofNat 64 (w 0), coll := nbits (w 1) 63 56, redop := nbits (w 1) 55 48, wire := nbits (w 1) 47 43,
    elem := nbits (w 1) 42 38, count := nbits (w 1) 31 0, group := nbits (w 2) 63 56, gsize := nbits (w 2) 47 32,
    kib := nbits (w 2) 31 16, arith := nbits (w 3) 63 32, seq := nbits (w 3) 31 0, rank := nbits (w 4) 63 48,
    trigIn := nbits (w 4) 47 38, trigOut := nbits (w 4) 37 28, srcB := nbits (w 4) 27 22, dstB := nbits (w 4) 21 16,
    trigEn := nbit (w 4) 0 == 1 }

/-- Powers of two from 4 to 1,024. -/
def kibOk (k : Nat) : Bool := [4, 8, 16, 32, 64, 128, 256, 512, 1024].contains k

/-- The field rules of R109 and the digest of R110 on the words of a consist. DESIGN CHOICE (log entry 190): in an image, a nonzero reserved
field of a consist fails this check, CONSIST_BAD, and not MF_FORMAT of R122. -/
def consistOk (arith : Nat) (w : Nat → Nat) : Bool :=
  let c := Consist.ofWords w
  c.digest == consistDigest (w 1) (w 2) (w 3)
    && decide (1 ≤ c.coll ∧ c.coll ≤ 5) && decide (c.redop ≤ 3) && decide (c.wire ≤ 0x0E ∧ c.elem ≤ 0x0E)
    && ((c.coll == 1 || c.coll == 4) == (c.redop != 0))
    && nbits (w 1) 37 32 == 0 && nbits (w 2) 55 48 == 0 && nbits (w 2) 15 0 == 0
    && decide (2 ≤ c.gsize ∧ c.gsize ≤ 384) && kibOk c.kib && c.arith == arith && decide (c.rank < c.gsize)
    && nbits (w 4) 15 1 == 0 && w 5 == 0 && w 6 == 0 && w 7 == 0

/-- Formats R334 permits. -/
def Consist.fmtsOk (c : Consist) : Bool :=
  let flt := fun f => f == 8 || f == 7 || f == 6
  let flt8 := fun f => flt f || f == 4 || f == 5
  match c.redop with
  | 0 => c.wire == c.elem && decide (c.elem ≤ 0x0E)
  | 1 => (flt c.wire && flt8 c.elem) || (c.wire == 0x0D && c.elem == 0x0D)
  | _ => (flt c.wire && flt8 c.elem) || (c.wire == 0x0B && c.elem == 0x0B)

/-! ## Sequences and chunks (R332, R333, R345) -/

/-- G. -/
def Coll.g (c : Coll) : Nat := c.mem.length
/-- Q, the share capacity. -/
def Coll.q (c : Coll) : Nat := (c.cst.count + c.g - 1) / max c.g 1
/-- Fill count of a share. -/
def Coll.fillOf (c : Coll) (r : Nat) : Nat := min c.q (c.cst.count - r * c.q)
/-- Does the collective reduce? -/
def Coll.reduces (c : Coll) : Bool := c.cst.coll == 1 || c.cst.coll == 4
/-- Is a sequence number one of the second part of an all-reduce? -/
def Coll.second (c : Coll) (q : Nat) : Bool := c.cst.coll == 4 && decide (c.g ≤ q)
/-- Format of a sequence on the wire. -/
def Coll.seqFmt (c : Coll) (q : Nat) : Nat := if c.second q then c.cst.elem else c.cst.wire
/-- Elements of a sequence. -/
def Coll.seqLen (c : Coll) : Nat :=
  match c.cst.coll with
  | 1 | 4 => c.q
  | 3 => c.cst.count / max c.g 1
  | _ => c.cst.count
/-- Wire bytes of a sequence. -/
def Coll.seqBytes (c : Coll) (q : Nat) : Nat := elemBytes (c.seqFmt q) c.seqLen
/-- B. -/
def Coll.b (c : Coll) : Nat := c.cst.kib * 1024
/-- W (R340). -/
def Coll.w (c : Coll) : Nat := if c.cst.kib = 512 then 2 else if c.cst.kib = 1024 then 1 else 4
/-- Chunks of a sequence. -/
def Coll.chunks (c : Coll) (q : Nat) : Nat := (c.seqBytes q + c.b - 1) / max c.b 1
/-- CHUNK of chunk k of a sequence. -/
def Coll.chunkNo (c : Coll) (q k : Nat) : Nat :=
  if c.cst.coll = 3 then k
  else if c.second q then c.g * c.chunks 0 + (q - c.g) * c.chunks c.g + k
  else q * c.chunks 0 + k
/-- Sequence and place of a CHUNK that came from rank `src`. -/
def Coll.unChunk (c : Coll) (src n : Nat) : Nat × Nat :=
  if c.cst.coll = 3 then (src, n)
  else
    let first := c.g * c.chunks 0
    if c.cst.coll = 4 ∧ first ≤ n then (c.g + (n - first) / max 1 (c.chunks c.g), (n - first) % max 1 (c.chunks c.g))
    else (n / max 1 (c.chunks 0), n % max 1 (c.chunks 0))
/-- Bytes of chunk k of a sequence. -/
def Coll.chunkLen (c : Coll) (q k : Nat) : Nat := min c.b (c.seqBytes q - k * c.b)
/-- The next rank. -/
def Coll.next (c : Coll) : Nat := (c.cst.rank + 1) % max c.g 1
/-- The rank before. -/
def Coll.prev (c : Coll) : Nat := (c.cst.rank + c.g - 1) % max c.g 1

/-- Does this member receive a sequence (R345)? For an all-to-all the sequence names the sender. -/
def Coll.receives (c : Coll) (q : Nat) : Bool :=
  let r := c.cst.rank
  match c.cst.coll with
  | 1 => decide (q < c.g) && r != (q + 1) % c.g
  | 4 => if q < c.g then r != (q + 1) % c.g else decide (q < 2 * c.g) && r != q - c.g
  | 2 => decide (q < c.g) && r != q
  | 3 => decide (q < c.g) && r != q
  | _ => q == 0 && r != 0

/-- Does this member pass a received sequence on (R345)? -/
def Coll.passes (c : Coll) (q : Nat) : Bool :=
  let r := c.cst.rank
  match c.cst.coll with
  | 1 => r != q
  | 4 => if q < c.g then r != q else (r + 1) % c.g != q - c.g
  | 2 => (r + 1) % c.g != q
  | 3 => false
  | _ => decide (r + 1 < c.g)

/-! ## Values (R333-R337) -/

/-- An element code converted between float formats under RNE with SAT = 0 (R334). -/
def convElem (src dst v : Nat) : Nat :=
  if src = dst then v
  else match fmtElem dst with
    | some f => (f.round ⟨0, false, 0⟩ (elemValue src v)).1
    | none => v

/-- The identity of REDOP in the wire format (R333). -/
def padCode (redop wire : Nat) : Nat :=
  match redop, wire with
  | 1, 0x0D => leNat Xp.zero.bytes
  | 1, _ => 0
  | 2, 0x0B => 0x80000000
  | 3, 0x0B => 0x7FFFFFFF
  | 2, 6 => 0xFC00 | 2, 7 => 0xFF80 | 2, _ => 0xFF800000
  | _, 6 => 0x7C00 | _, 7 => 0x7F80 | _, _ => 0x7F800000

/-- INT32 as a signed number. -/
def sgn32 (v : Nat) : Int := (BitVec.ofNat 32 v).toInt

/-- `op` of R335 to R337 on wire codes. -/
def wireOp (redop wire a b : Nat) : Nat :=
  if wire = 0x0D then leNat (xpAdd [Xp.ofBytes (leBytes 24 a), Xp.ofBytes (leBytes 24 b)]).bytes
  else if wire = 0x0B then
    (if redop = 2 then (if sgn32 a < sgn32 b then b else a) else if sgn32 b < sgn32 a then b else a)
  else
    match fmtElem wire with
    | some f =>
      let x := f.decode a
      let y := f.decode b
      (f.round ⟨0, false, 0⟩ (match redop with | 1 => x.add y | 2 => x.max y | _ => x.min y)).1
    | none => a

/-- Element `i` of a packed byte sequence, where all of its bytes are there. -/
def seqElem (bits : Nat) (l : List (Option Byte)) (i : Nat) : Option Nat :=
  let a := i * bits / 8
  let e := ((i + 1) * bits + 7) / 8
  (allSome ((l.drop a).take (e - a))).map fun bs => leNat bs / 2 ^ (i * bits % 8) % 2 ^ bits

/-- A sequence packed into its bytes. -/
def packSeq (fmt : Nat) (l : List Nat) : List Byte := leBytes (elemBytes fmt l.length) (packElems (fmtBits fmt) l)

/-! ## State of an engine -/

/-- Fault and event source of an engine (R417). -/
def meSource (d : Nat) : Nat := 0x0100 + d

/-- An ME event counter with its overflow bit `k` of OVF (R359). -/
def State.meBump (s : State) (d : Nat) (f : Fld) (k : Nat) : State := s.bump (f.at (meOff d)) ⟨R.ME_FLAGS + meOff d, 8 + k, 1⟩

/-- Is a collective launched and not finished? -/
def Coll.live (c : Coll) : Bool := c.state == .queued || c.state == .started

/-- Has the member written every byte of DST? From then on the collective completes there and can no longer abort (R341, R351). -/
def Coll.written (c : Coll) : Bool := c.state == .started && c.skewed && c.left == 0

/-- May the collective still abort at this member (R351)? -/
def Coll.abortable (c : Coll) : Bool := c.live && !c.written

/-- Has a complete member nothing left to send? -/
def Coll.quiet (c : Coll) : Bool :=
  c.lost || c.out.isEmpty &&
    (match c.cst.coll with
      | 1 => (List.range c.g).all fun q => q == c.cst.rank || (List.range (c.chunks q)).all fun k => c.formed.contains (c.chunkNo q k)
      | 4 => (List.range (2 * c.g)).all fun q => (decide (q < c.g) && q == c.cst.rank) || (decide (c.g ≤ q) && !c.passes q)
          || (List.range (c.chunks q)).all fun k => c.formed.contains (c.chunkNo q k)
      | 2 => (List.range c.g).all fun q => !c.passes q || (List.range (c.chunks q)).all fun k => c.formed.contains (c.chunkNo q k)
      | 3 => true
      | _ => !c.passes 0 || (List.range (c.chunks 0)).all fun k => c.formed.contains (c.chunkNo 0 k))

/-- Does a collective hold a place among those not finished: live, or complete with chunks still to send? -/
def Coll.held (c : Coll) : Bool := c.live || (c.state == .done && !c.quiet)

/-- Is a collective started and holding its claim? -/
def Coll.claims (c : Coll) : Bool := c.state == .started || (c.state == .done && !c.quiet)

/-- Bytes claimed of the chunk buffer (R340). -/
def Me.claimed (e : Me) : Nat := ((e.colls.filter (·.claims)).map fun c => 2 * c.w * c.b).foldl (· + ·) 0

/-- The coasting target: the lowest SLOWEST of the collectives that coast, 0 for none (R355). -/
def Me.target (e : Me) : Nat :=
  match (e.colls.filter fun c => c.coast && c.state == .started).map (·.slowest) with
  | [] => 0
  | x :: t => t.foldl min x

/-- The registers that follow the engine's collectives: QUEUED, STARTED, BUF_USED, STATE, TARGET (R359). -/
def State.meRegs (s : State) (d : Nat) : State :=
  let e := s.meng d
  let q := (e.colls.filter fun c => c.state == .queued).length
  let n := (e.colls.filter (·.claims)).length
  let st := if s.unitFenced R.FENCE_UNITS_ME d then 3 else if e.target ≠ 0 then 2 else if n = 0 then 0 else 1
  let o := meOff d
  let s := ((s.fset (R.ME_STATUS_QUEUED.at o) q).fset (R.ME_STATUS_STARTED.at o) n).fset (R.ME_STATUS_BUF_USED.at o) (e.claimed / 65536)
  (s.fset (R.ME_STATUS_STATE.at o) st).fset (R.ME_PACE_TARGET.at o) e.target

/-- Change the collective with a COLL_SEQ and group on an engine. -/
def State.collMod (s : State) (d group seq : Nat) (f : Coll → Coll) : State :=
  let e := s.meng d
  s.setMe d { e with colls := e.colls.map fun c => if c.cst.group = group ∧ c.cst.seq = seq then f c else c }

/-- The collective of the open attempt with a group and COLL_SEQ. -/
def State.collOf (s : State) (d group seq : Nat) : Option Coll :=
  (s.meng d).colls.find? fun c => c.cst.group == group && c.cst.seq == seq

/-- Put a collective back. -/
def State.collPut (s : State) (d : Nat) (c : Coll) : State := s.collMod d c.cst.group c.cst.seq fun _ => c

/-! ## Sending (R342, R343) -/

/-- The header of a collective message. -/
def State.cmHeader (s : State) (d : Nat) (c : Coll) (kind chunk aux : Nat) : List Byte :=
  leBytes 1 kind ++ leBytes 1 c.cst.group ++ leBytes 2 c.cst.rank ++ leBytes 4 c.cst.seq ++ leBytes 8 c.cst.digest.toNat
    ++ leBytes 4 chunk ++ leBytes 4 aux ++ leBytes 2 (s.fget (R.ME_PACE_OWN.at (meOff d))) ++ leBytes 2 c.attempt ++ leBytes 4 c.epoch

/-- Destination ID and die of a rank. -/
def Coll.addrOf (c : Coll) (r : Nat) : Nat × Nat := (c.mem.getD r (0, 0, 0)).2

/-- Send a unicast message to a rank. -/
def State.cmSend (s : State) (c : Coll) (r type tc svc pktNo : Nat) (body : List Byte) : State :=
  let (dest, die) := c.addrOf r
  s.sendPkt (s.mkPkt { type := type, tc := tc, svc := svc, dest := dest, addr := 0x10 + die + pktNo * 256, payload := body })

/-- Multicast a READY or ABORT to the group (R322, R342). -/
def State.cmCast (s : State) (c : Coll) (body : List Byte) : State :=
  s.multicast { type := 5, tc := 0, svc := 0, dest := 0, addr := 0x1F, payload := body } c.cst.group (s.mcgMask c.cst.group)

/-- READY of a collective (R343). -/
def State.readyBody (s : State) (d : Nat) (c : Coll) : List Byte :=
  s.cmHeader d c 2 0 0 ++ leBytes 8 c.startAt ++ List.replicate 8 0

/-- Send every packet of a chunk. -/
def State.sendChunk (s : State) (d : Nat) (c : Coll) (u : OutChunk) : State :=
  let hdr := s.cmHeader d c 1 u.chunk u.crc.toNat
  let n := (u.data.length + 479) / 480
  let s := (List.range n).foldl (fun s k =>
    s.cmSend c u.dest 5 1 (u.chunk % 2) k (hdr ++ (u.data.drop (480 * k)).take 480)) s
  s.traffic (R.ME_TX_BYTES_BYTES.at (meOff d)) u.data.length

/-- Chunks sent to a rank and not acknowledged. -/
def Coll.inFlight (c : Coll) (r : Nat) : Nat := (c.out.filter fun u => u.sent && u.dest == r).length

/-- Send formed chunks, in order, to ranks whose READY is held, at most W unacknowledged to each (R344, R346). -/
def State.pumpChunks (s : State) (d : Nat) (c : Coll) : List OutChunk → State × Coll
  | [] => (s, c)
  | u :: t =>
    if !u.sent ∧ c.ready.any (fun e => e.1 == u.dest) ∧ c.inFlight u.dest < c.w then
      let s := s.sendChunk d c u
      let v := { u with sent := true, sentAt := s.rtime }
      let c := { c with out := c.out.map (fun x => if x.dest = u.dest ∧ x.chunk = u.chunk then v else x), lastAt := s.rtime }
      s.pumpChunks d c t
    else s.pumpChunks d c t

/-! ## Aborts (R349, R350) -/

/-- An ABORT for a cause of this member's own (R349, R357). -/
def State.castAbort (s : State) (d : Nat) (c : Coll) (cause rank : Nat) : State := s.cmCast c (s.cmHeader d c 5 0 (cause + rank * 2 ^ 16))

/-- The tile that launched a collective which will not complete: a wait for all of its work then traps (R114). -/
def State.tellTile (s : State) (p : Nat) : State :=
  let t := s.tile p
  match t.wait with
  | .fence | .halt => s.setTile p { t with collAbt := true }
  | _ => s

/-- A failure of the open epoch that this package found keeps its first cause (R230, R350). -/
def State.noteFail (s : State) (cause : Nat) : State :=
  { s with epoch := { s.epoch with firstFail := if s.epoch.firstFail = 0 then cause else s.epoch.firstFail } }

/-- The effects of an abort at this member; `tell` multicasts ABORT. DESIGN CHOICE (log entry 189): nothing more is written to DST; chunks
written before the abort stay (R350), beside R114's "nothing is written to DST". -/
def State.collAbort (s : State) (d : Nat) (c : Coll) (cause rank : Nat) (tell : Bool) : State :=
  let s := if tell then s.castAbort d c cause rank else s
  let s := s.collPut d { c with state := .dead, out := [], arr := [], inb := [], outb := [], coast := false }
  let s := s.fset (R.CTR_ABORTED.at (ctrOff d c.cst.trigOut)) 1
  let s := s.meBump d R.ME_EVENTS_ABORTS 1
  let o := meOff d
  let s :=
    if s.flag (R.ME_ABORT_VALID.at o) then s
    else (s.csrPut (R.ME_ABORT + o) (BitVec.ofNat 64 (cause * 2 ^ 48 + c.cst.group * 2 ^ 40 + 2 ^ 32 + c.cst.seq))).csrPut
      (R.ME_ABORT2 + o) (BitVec.ofNat 64 (rank * 2 ^ 48 + c.epoch))
  let s := ((s.report (meSource d) .collAbort cause 0).noteFail cause).tellTile c.tile
  let s := s.event (meSource d) 0x0B80 (leBytes 1 d ++ leBytes 1 c.cst.group ++ leBytes 2 cause ++ leBytes 4 c.cst.seq
    ++ leBytes 2 rank ++ [0, 0] ++ leBytes 4 c.epoch)
  s.meRegs d

/-- A collective that may still abort does so for a cause of its own; a started one tells the group. -/
def State.collFail (s : State) (d : Nat) (c : Coll) (cause rank : Nat) : State :=
  if c.abortable then s.collAbort d c cause rank (c.state == .started) else s

/-- Set the broken mark of a trigger counter (R108): a collective that waits for it as its `TRIG_IN` aborts (R341). -/
def State.breakCtr (s : State) (d k : Nat) : State :=
  let s := s.fset (R.CTR_BROKEN.at (ctrOff d k)) 1
  (s.meng d).colls.foldl (fun s c =>
    if c.state = .queued ∧ c.cst.trigEn = true ∧ c.cst.trigIn = k then s.collAbort d c 0x0B08 c.cst.rank false else s) s

/-! ## The halt of a DMA engine (R171, R172) -/

/-- The engine halts: its queue is discarded, the done counters it owes are broken, and the interlock hears of it (R171, R172). -/
def State.dmaHalt (s : State) (p e status addr : Nat) : State :=
  let d := s.dmaEng p e
  let owed := (d.run.map (·.xfer)).toList ++ d.queue
  let s := s.setDma p e ⟨[], none, true⟩
  let s := owed.foldl (fun s x => match x.done with | some k => s.breakCtr (p / 48) k | none => s) s
  s.report p .dmaHalt (e * 2 ^ 16 + status) addr

/-- `DMA_HALT`. -/
def execDmaHalt (p : Fin 192) (e : Fin 2) (s : State) : Res :=
  .next (
    match (s.dmaEng p.val e.val).run with
    | some r =>
      match r.fail with
      | some c => if s.tileState p.val = 5 then s else s.dmaHalt p.val e.val c r.failAddr
      | none => s
    | none => s)

/-! ## Writing DST and forming chunks (R335, R344, R345) -/

/-- Write a run of elements of DST, with their flags (R338); false where the write is refused or meets a byte that reads
UNCORRECTABLE. -/
def State.writeDst (s : State) (d : Nat) (c : Coll) (u : ElemRun) : Bool × State :=
  let b := c.dst
  let rq : Rq := ⟨0, 3, meSource d⟩
  let (a, bytes) := u.place b
  match s.memStatus a bytes.length with
  | 0 =>
    if s.chDead a then (false, s)
    else
      match s.runWhole rq a bytes with
      | (some _, s) => (false, s)
      | (none, s) => (true, s.meStatus d (orFlags (u.vals.map (elemFlags c.cst.elem))))
  | 1 => (false, s.addrFault (meSource d) (s.globalAddr a) 1)
  | _ => (false, s)

/-- Write runs of elements of DST in turn, up to the first that cannot be written. -/
def State.writeDsts (s : State) (d : Nat) (c : Coll) : List ElemRun → Bool × State
  | [] => (true, s)
  | u :: t =>
    match s.writeDst d c u with
    | (true, s) => s.writeDsts d c t
    | (false, s) => (false, s)

/-- What the elements that a chunk completes do: DST elements to write, and elements of the formed sequences. -/
def Coll.elemEffect (c : Coll) (q i v : Nat) : List (Nat × Nat) × List (Nat × Nat × Nat) :=
  let r := c.cst.rank
  match c.cst.coll with
  | 1 | 4 =>
    if q < c.g then
      let p := wireOp c.cst.redop c.cst.wire v (c.x.getD (q * c.q + i) 0)
      if r = q then
        let e := convElem c.cst.wire c.cst.elem p
        let at_ := if c.cst.coll = 1 then i else q * c.q + i
        (if i < c.fillOf q then [(at_, e)] else [], if c.cst.coll = 4 then [(c.g + q, i, e)] else [])
      else ([], [(q, i, p)])
    else (if i < c.fillOf (q - c.g) then [((q - c.g) * c.q + i, v)] else [], [])
  | 2 => ([(q * c.cst.count + i, v)], [])
  | 3 => ([(q * c.seqLen + i, v)], [])
  | _ => ([(i, v)], [])

/-- A byte sequence not yet filled. -/
def Coll.blank (c : Coll) (q : Nat) : List (Option Byte) := List.replicate (c.seqBytes q) none

/-- Put a whole-byte element into a formed sequence. -/
def Coll.form (c : Coll) (e : Nat × Nat × Nat) : Coll :=
  let (q, i, v) := e
  let n := fmtBits (c.seqFmt q) / 8
  let l := tget (fun _ => c.blank q) c.outb q
  { c with outb := tinsert c.outb q (placeBytes l (i * n) (leBytes n v)) }

/-- Who receives the chunks this member forms of a sequence: the next rank, or the rank the sequence names in an all-to-all. -/
def Coll.receiver (c : Coll) (q : Nat) : Nat := if c.cst.coll = 3 then q else c.next

/-- Queue a chunk for its receiver. -/
def Coll.queueChunk (c : Coll) (q k : Nat) (data : List Byte) (crc : BitVec 32) : Coll :=
  { c with formed := c.chunkNo q k :: c.formed,
           out := c.out ++ [⟨c.receiver q, c.chunkNo q k, data, crc, false, 0, 0, false⟩] }

/-- Queue every chunk of formed sequence `q` whose bytes are all there. -/
def Coll.formChunks (c : Coll) (q : Nat) : Coll :=
  (List.range (c.chunks q)).foldl (fun c k =>
    if c.formed.contains (c.chunkNo q k) then c
    else
      match allSome (((tget (fun _ => c.blank q) c.outb q).drop (k * c.b)).take (c.chunkLen q k)) with
      | some l => c.queueChunk q k l (crc32c l)
      | none => c) c

/-- Take in a whole chunk: its bytes placed, the elements it completes used, what the member forms or passes on queued; and the
elements of DST to write. -/
def Coll.absorb (c : Coll) (u : InChunk) (data : List Byte) : Coll × List (Nat × Nat) :=
  let (q, k) := c.unChunk u.src u.chunk
  let bits := fmtBits (c.seqFmt q)
  let old := tget (fun _ => c.blank q) c.inb q
  let new := placeBytes old (k * c.b) data
  let c := { c with inb := tinsert c.inb q new }
  let fresh := (List.range c.seqLen).filterMap fun i =>
    match seqElem bits old i, seqElem bits new i with
    | none, some v => some (i, v)
    | _, _ => none
  let eff := fresh.map fun (i, v) => c.elemEffect q i v
  let writes := eff.flatMap (·.1)
  let c := (eff.flatMap (·.2)).foldl Coll.form c
  let c :=
    if c.reduces ∧ q < c.g then (if c.cst.rank = q then (if c.cst.coll = 4 then c.formChunks (c.g + q) else c) else c.formChunks q)
    else if c.passes q then c.queueChunk q k data u.crc else c
  (c, writes)

/-- The bytes of an arriving chunk, where every packet is there. -/
def Coll.chunkData (c : Coll) (u : InChunk) : Option (List Byte) :=
  let (q, k) := c.unChunk u.src u.chunk
  let n := c.chunkLen q k
  let parts := (List.range ((n + 479) / 480)).map fun i => (u.parts.find? fun p => p.1 == i).map (·.2)
  (allSome parts).map fun l => l.flatten.take n

/-- Acknowledge a chunk. -/
def State.ackChunk (s : State) (d : Nat) (c : Coll) (r chunk : Nat) : State := s.cmSend c r 4 1 0 0 (s.cmHeader d c 3 chunk 0)

/-- Does the member hold every READY? -/
def Coll.allReady (c : Coll) : Bool := decide (c.g ≤ c.ready.length)

/-- How many sequences the collective's chunks belong to. -/
def Coll.seqs (c : Coll) : Nat :=
  match c.cst.coll with
  | 1 | 2 | 3 => c.g
  | 4 => 2 * c.g
  | _ => 1

/-- Does the collective still wait for a READY or a chunk (R355)? -/
def Coll.awaits (c : Coll) : Bool :=
  !c.allReady || (List.range c.seqs).any fun q =>
    c.receives q && (List.range (c.chunks q)).any fun k =>
      !c.taken.any fun e => e.1 == (if c.cst.coll = 3 then q else c.prev) && e.2.1 == c.chunkNo q k

/-- A chunk consumed leaves the claim; the wait for it is over (R355). -/
def Coll.took (c : Coll) (u : InChunk) (wrote now : Nat) : Coll :=
  { c with arr := c.arr.filter (fun x => !(x.src == u.src && x.chunk == u.chunk)), taken := (u.src, u.chunk, now) :: c.taken,
           left := c.left - wrote, lastAt := now, waitAt := now, coast := false }

/-- Consume every whole chunk that may be consumed: one that writes DST waits for the READY of every member (R344, R346). False where
DST cannot be written. -/
def State.consumeAll (s : State) (d : Nat) (c : Coll) : List InChunk → Bool × State × Coll
  | [] => (true, s, c)
  | u :: t =>
    match (if u.whole then c.chunkData u else none) with
    | none => s.consumeAll d c t
    | some l =>
      let (n, writes) := c.absorb u l
      if !c.allReady && !writes.isEmpty then s.consumeAll d c t
      else
        match s.writeDsts d c (indexRuns c.dst.rowElems writes) with
        | (false, s) => (false, s, c)
        | (true, s) => (s.ackChunk d n u.src u.chunk).consumeAll d (n.took u writes.length s.rtime) t

/-- Own parts of the result, copied locally (R345). -/
def Coll.ownPart (c : Coll) : List (Nat × Nat) :=
  let r := c.cst.rank
  match c.cst.coll with
  | 2 => c.x.zipIdx.map fun (v, i) => (r * c.cst.count + i, v)
  | 3 => ((c.x.drop (r * c.seqLen)).take c.seqLen).zipIdx.map fun (v, i) => (r * c.seqLen + i, v)
  | 5 => if r = 0 then c.x.zipIdx.map fun (v, i) => (i, v) else []
  | _ => []

/-- Skew of a collective (R354). -/
def State.noteSkew (s : State) (d : Nat) (c : Coll) : State :=
  let ts := c.ready.map (·.2)
  let hi := ts.foldl max 0
  let lo := ts.foldl min (ts.headD 0)
  let slow := ((c.ready.filter fun e => e.2 == hi).map (·.1)).foldl min c.g
  let skew := min (hi - lo) 0xFFFFFFFF
  let o := meOff d
  let s := (s.fset (R.ME_SKEW_SLOW_RANK.at o) slow).fset (R.ME_SKEW_SKEW_NS.at o) skew
  let s := s.fset (R.ME_SKEW_MAX_SKEW_MAX.at o) (max skew (s.fget (R.ME_SKEW_MAX_SKEW_MAX.at o)))
  if 1000 * s.od D.SKEW_REPORT_US < hi - lo then
    (s.meBump d R.ME_EVENTS3_SKEW_OVER 8).event (meSource d) 0x0B81
      (leBytes 1 d ++ leBytes 1 c.cst.group ++ leBytes 2 slow ++ leBytes 4 c.cst.seq ++ leBytes 4 skew)
  else s

/-- With the last READY: the skew, the end of the wait for it, and the member's own part of the result. False where DST cannot be
written. -/
def State.collOwn (s : State) (d : Nat) (c : Coll) : Bool × State × Coll :=
  if c.allReady && !c.skewed then
    match (s.noteSkew d c).writeDsts d c (indexRuns c.dst.rowElems c.ownPart) with
    | (false, s) => (false, s, c)
    | (true, s) => (true, s, { c with skewed := true, left := c.left - c.ownPart.length, waitAt := s.rtime, coast := false })
  else (true, s, c)

/-- Carry a started collective as far as it goes: skew and own part at the last READY, chunks consumed, chunks sent. -/
def State.collGo (s : State) (d : Nat) (c : Coll) : State :=
  if c.state ≠ .started ∧ c.state ≠ .done then s
  else
    match s.collOwn d c with
    | (false, s, c) => s.collFail d c 0x0B06 c.cst.rank
    | (true, s, c) =>
      match s.consumeAll d c c.arr with
      | (false, s, c) => s.collFail d c 0x0B06 c.cst.rank
      | (true, s, c) =>
        let (s, c) := s.pumpChunks d c c.out
        (s.collPut d c).meRegs d

/-! ## Checks at issue (R110, R111, R339) -/

/-- A berth a collective reads or writes; a REMOTE berth does not suit. -/
def collPlace (i : Nat) (write : Bool) : Place := ⟨i, write, fun b => b.kind != 4, fun _ => true⟩

/-- R90 on the berths a collective reads and writes: each with the elements it accesses there and whether it writes (R339). -/
def State.chkColl (s : State) (t : Tile) (l : List (Nat × Nat × Bool)) : Option TrapInfo :=
  let pl := l.map fun (i, _, write) => collPlace i write
  let ext := l.map fun (i, n, _) => t.elemExtent i n
  firstTrap [chkPlaces t pl pl [], s.chkBounds t ext ext]

/-- The failures of R339 that trap with CONSIST_BAD. -/
def State.collBad (s : State) (p : Nat) (c : Consist) : Bool :=
  let d := p / 48
  let (_, dies) := s.job.groups.getD c.group (0, 0)
  let m := s.members c.group
  !s.job.active || dies == 0 || c.gsize != m.length || nbit dies d == 0
    || m.findIdx (fun e => e.1 == s.job.rank && e.2.2 == d) != c.rank || !c.fmtsOk || c.count == 0
    || (c.coll == 3 && c.count % max 1 m.length != 0)
    || (match (s.meng d).lastSeq with | some q => decide (c.seq ≤ q) | none => false)

/-- Elements of SRC and of DST at this rank (R332). -/
def Consist.extents (c : Consist) : Nat × Nat :=
  let q := (c.count + c.gsize - 1) / max 1 c.gsize
  let src := if c.coll = 5 ∧ c.rank ≠ 0 then 0 else c.count
  let dst := match c.coll with
    | 1 => min q (c.count - c.rank * q)
    | 2 => c.gsize * c.count
    | _ => c.count
  (src, dst)

/-- The words of the consist that `BC` names, none where the berth is too short for one; or a trap (R171). -/
def State.readConsist (s : State) (p i : Nat) : Except TrapInfo (Option (List Nat)) × State :=
  let b := (s.tile p).berth i
  if b.length < 64 then (.ok none, s)
  else
    match s.readUntil (rqOperand p) b.base 64 with
    | (.error a, s) => (.error ⟨0x0032, 0, s.globalAddr a⟩, s)
    | (.ok l, s) => (.ok (some (words64 8 l)), s)

/-- What the consist takes of its berth: the first 64 bytes (R111). -/
def Tile.consistExtent (t : Tile) (i : Nat) : Extent :=
  let b := t.berth i
  (i, if b.length < 64 then some (0, b.length * 8 / fmtBits b.fmt) else none)

/-- The consist of eight words. -/
def Consist.ofList (ws : List Nat) : Consist := .ofWords fun i => ws.getD i 0

/-- Counters a consist names lie below the manifest's TRIG_CTRS (R108). -/
def State.trigBad (s : State) (c : Consist) : Bool :=
  decide (s.prog.trigCtrs ≤ c.trigOut) || (c.trigEn && decide (s.prog.trigCtrs ≤ c.trigIn))

/-- What R108 and R110 ask of the consist that `BC` names, in that order. -/
def State.consistTraps (s : State) (t : Tile) (i : Nat) (ws : List Nat) : List (Option TrapInfo) :=
  [ trapIf (s.trigBad (.ofList ws)) 0x0040,
    trapIf ((t.berth i).base % 64 != 0 || !consistOk (s.od D.ARITH_VERSION) fun k => ws.getD k 0) 0x0042 ]

/-! ## Launch (R340, R341, R349) -/

/-- Launch a collective: queued in launch order, or aborted at once where a recorded ABORT names it. -/
def State.launch (s : State) (p : Nat) (cst : Consist) (fused rowW : Nat) (snap : Option (Tile × Nat)) (src dst : Berth) : State :=
  let d := p / 48
  let (ep, att) := s.openAttempt
  let (_, n) := cst.extents
  let c : Coll := { cst := cst, tile := p, fused := fused, snap := snap, rowW := rowW, src := src, dst := dst,
                    mem := s.members cst.group, epoch := ep, attempt := att, state := .queued, startAt := 0, readyAt := 0, ready := [],
                    slowest := 0xFFFF, skewed := false, x := [], inb := [], outb := [], formed := [], out := [], arr := [],
                    refused := [], taken := [], left := n, fill := n, lastAt := s.rtime, waitAt := s.rtime, coast := false, lost := false }
  let e := s.meng d
  let s := s.setMe d { e with colls := e.colls ++ [c], lastSeq := some cst.seq }
  match e.aborts.find? fun a => a.group == cst.group && a.seq == cst.seq && a.epoch == ep && a.attempt == att with
  | some a => s.collAbort d c a.cause a.rank false
  | none => s.meRegs d

/-- Has an engine room for a launch (R340)? -/
def State.launchRoom (s : State) (p : Nat) : Bool := decide (((s.meng (p / 48)).colls.filter (·.held)).length < 64)

/-- Issue of `COLL.START`. -/
def State.collStart (s : State) (p w : Nat) : State :=
  let t := s.tile p
  match chkBerth t (iBc w) false (fun b => b.kind != 4) (fun _ => true) with
  | some ti => s.trap p ti
  | none =>
    match s.readConsist p (iBc w) with
    | (.error ti, s) => s.trap p ti
    | (.ok none, s) => s.trap p ⟨0x0014, iBc w, s.berthAddr (t.berth (iBc w)) (t.berth (iBc w)).length⟩
    | (.ok (some ws), s) =>
      let c := Consist.ofList ws
      let (n, m) := c.extents
      let src := t.berth c.srcB
      let dst := t.berth c.dstB
      match firstTrap (s.consistTraps t (iBc w) ws ++
        [ s.chkColl t ((if n = 0 then [] else [(c.srcB, n, false)]) ++ if m = 0 ∧ c.dstB = 0 then [] else [(c.dstB, m, true)]),
          trapIf (s.collBad p c || (n != 0 && src.fmt != c.elem) || (c.dstB != 0 && dst.fmt != c.elem)) 0x0042 ]) with
      | some ti => s.trap p ti
      | none => if s.launchRoom p then (s.launch p c 0 src.rowElems none src dst).advance p else s

/-- `COLL_START`. -/
def execCollStart (p : Fin 192) (s : State) : Res := .next (s.issue p.val (isOp 5 3) fun s w => s.collStart p.val w)

/-- The arguments of a fused instruction's matrix part (R111, R113). -/
def fusedArgs (t : Tile) (w : Nat) : MmaArgs :=
  { mmaArgs t w with init := true, write := true, bc := 0, mblk := 0, nblk := 0, mb := nbits w 21 11, nb := nbits w 10 0 }

/-- Run the matrix part block by block in row-major order (R113): a trap, or what all of its outputs raised. -/
def State.fusedBlocks (s : State) (p : Nat) (a : MmaArgs) (f : OutFlags) : List (Nat × Nat) → Except TrapInfo OutFlags × State
  | [] => (.ok f, s)
  | (i, j) :: t =>
    match s.mmaBlock p { a with mblk := i, nblk := j, mb := 1, nb := 1 } with
    | (.error e, s) => (.error e, s)
    | (.ok g, s) => s.fusedBlocks p a (f.or g) t

/-- Blocks of a fused instruction in row-major order. -/
def blockList (a : MmaArgs) : List (Nat × Nat) := (List.range a.mb).flatMap fun i => (List.range a.nb).map fun j => (i, j)

/-- Addresses of the bytes of `BD` that a fused instruction writes. -/
def fusedBytes (bd : Berth) (a : MmaArgs) : List Nat :=
  (blockList a).flatMap fun (i, j) =>
    (blockRuns { a with mblk := i, nblk := j } (List.replicate 256 0)).flatMap fun u =>
      (u.place bd).2.map fun e => (u.place bd).1 + e.1

/-- The bytes of the working view at some addresses as an earlier state held them. -/
def State.putBack (s t : State) (l : List Nat) : State :=
  l.foldl (fun s a => s.putCell (s.workAddr a) (t.cell (t.workAddr a)) (t.flip (t.workAddr a))) s

/-- The whole matrix part: its status registers are written once for the instruction (R81), and an instruction that traps has written
nothing of `BD` (R115). -/
def State.fusedRun (s : State) (p : Nat) (a : MmaArgs) : Except TrapInfo Unit × State :=
  match s.fusedBlocks p a {} (blockList a) with
  | (.ok f, t) => (.ok (), t.arithStatus p (s.tile p).pc f)
  | (.error e, t) => (.error e, t.putBack s (fusedBytes ((s.tile p).berth a.bd) a))

/-- The consist's collective that each fused instruction needs (R112). -/
def fusedColl (op : Nat) : Nat := op

/-- What R111 and R112 ask: no open accumulation, then the consist's `TRIG_IN_EN`, `COLL` and whole slices. -/
def fusedTraps (t : Tile) (op : Nat) (a : MmaArgs) (ws : Option (List Nat)) : List (Option TrapInfo) :=
  [trapIf (t.acc.toList.any (·.isOpen)) 0x0025] ++
    match ws with
    | none => []
    | some ws =>
      let c := Consist.ofList ws
      [ trapIf (c.trigEn || c.coll != fusedColl op) 0x0042,
        trapIf (op == 3 && (a.mb % max 1 c.gsize != 0 || c.count != 256 * a.mb * a.nb)) 0x0042 ]

/-- What a fused instruction accesses: its matrix part, the consist, and the buffer it shares with the collective: `BD` as its source,
in rows of 16 × NB, or `BB` as the destination of the gather (R112, R332). -/
def fusedExtents (t : Tile) (op bc : Nat) (a : MmaArgs) (ws : Option (List Nat)) : List Extent :=
  mmaExtents t a [t.consistExtent bc] ++
    match ws with
    | none => []
    | some ws =>
      let (n, m) := (Consist.ofList ws).extents
      if op = 2 then [t.elemExtent a.bb m] else [(a.bd, (t.berth a.bd).failElems (16 * a.nb) n)]

/-- R339 for a fused instruction: R90 on the buffer that the consist alone names, then the failures that trap with CONSIST_BAD. -/
def State.fusedCollTraps (s : State) (p op : Nat) (a : MmaArgs) (c : Consist) : List (Option TrapInfo) :=
  let t := s.tile p
  let (n, m) := c.extents
  let dstB := if op = 2 then a.bb else c.dstB
  [ s.chkColl t (if op = 2 then [(c.srcB, n, false)] else if m = 0 ∧ dstB = 0 then [] else [(dstB, m, true)]),
    trapIf (s.collBad p c || (t.berth (if op = 2 then c.srcB else a.bd)).fmt != c.elem
      || (dstB != 0 && (t.berth dstB).fmt != c.elem)) 0x0042 ]

/-- Steps 3 (from R108 on) and 4 of R551, and R339, for a fused instruction; steps 1 and 2 and the conditions of R104 have passed. A
consist that does not fit its berth is judged by the bounds alone. -/
def State.fusedCheck (s : State) (p op w : Nat) (ws : Option (List Nat)) : Option TrapInfo :=
  let t := s.tile p
  let a := fusedArgs t w
  let ext := fusedExtents t op (iBc w) a ws
  firstTrap ((ws.map fun l => s.consistTraps t (iBc w) l).getD [] ++ fusedTraps t op a ws ++ [s.chkBounds t ext ext]
    ++ (ws.map fun l => s.fusedCollTraps p op a (.ofList l)).getD [])

/-- Issue of a fused instruction. `MMA.RS` and `MMA.A2A` run the matrix part and launch; `MMA.AG` launches, and its matrix part runs
when the gather is complete. -/
def State.fused (s : State) (p op w : Nat) : State :=
  let t := s.tile p
  let a := fusedArgs t w
  let pl := s.mmaPlaces p a [⟨iBc w, false, s.ownScratch p, fun _ => true⟩] (op == 2) (op != 2)
  match firstTrap ([trapIf (s.mmaEncBad w) 0x0001, chkPlaces t pl pl []] ++ mmaCond t a) with
  | some ti => s.trap p ti
  | none =>
    match s.readConsist p (iBc w) with
    | (.error ti, s) => s.trap p ti
    | (.ok ws, s) =>
      match s.fusedCheck p op w ws with
      | some ti => s.trap p ti
      | none =>
        let c := Consist.ofList (ws.getD [])
        if !s.launchRoom p then s
        else if op = 2 then
          (s.launch p c 2 (t.berth c.srcB).rowElems (some (t, w)) (t.berth c.srcB) (t.berth a.bb)).advance p
        else
          match s.fusedRun p a with
          | (.error ti, s) => s.trap p ti
          | (.ok _, s) => (s.launch p c op (16 * a.nb) none (t.berth a.bd) (t.berth c.dstB)).advance p

/-- `MMA_RS`. -/
def execMmaRs (p : Fin 192) (s : State) : Res := .next (s.issue p.val (isOp 6 1) fun s w => s.fused p.val 1 w)
/-- `MMA_AG`. -/
def execMmaAg (p : Fin 192) (s : State) : Res := .next (s.issue p.val (isOp 6 2) fun s w => s.fused p.val 2 w)
/-- `MMA_A2A`. -/
def execMmaA2a (p : Fin 192) (s : State) : Res := .next (s.issue p.val (isOp 6 3) fun s w => s.fused p.val 3 w)

/-! ## Start (R340, R341, R344) -/

/-- The own source sequence in the wire format, pads included: none where a byte reads UNCORRECTABLE. -/
def State.readSource (s : State) (d : Nat) (c : Coll) : Option (List Nat) × State :=
  let (n, _) := c.cst.extents
  let coords := (List.range n).map fun i => (i / max 1 c.rowW, i % max 1 c.rowW)
  match s.readElems ⟨0, 3, meSource d⟩ c.src coords with
  | (.error _, s) => (none, s)
  | (.ok l, s) =>
    if c.reduces then
      (some (l.map (convElem c.cst.elem c.cst.wire) ++ List.replicate (c.g * c.q - n) (padCode c.cst.redop c.cst.wire)), s)
    else (some l, s)

/-- Chunks of a whole sequence of element codes. -/
def Coll.queueSeq (c : Coll) (q : Nat) (l : List Nat) : Coll :=
  ({ c with outb := tinsert c.outb q ((packSeq (c.seqFmt q) l).map some) }).formChunks q

/-- The chunks a member forms of its own source at the start (R345). -/
def Coll.firstChunks (c : Coll) : Coll :=
  let r := c.cst.rank
  match c.cst.coll with
  | 1 | 4 =>
    let s := (r + c.g - 1) % max 1 c.g
    c.queueSeq s ((c.x.drop (s * c.q)).take c.q)
  | 2 => c.queueSeq r c.x
  | 3 => (List.range c.g).foldl (fun c j =>
      if j = r then c
      else
        let l := packSeq c.cst.wire ((c.x.drop (j * c.seqLen)).take c.seqLen)
        (List.range (c.chunks j)).foldl (fun c k =>
          let b := (l.drop (k * c.b)).take c.b
          c.queueChunk j k b (crc32c b)) c) c
  | _ => if r = 0 then c.queueSeq 0 c.x else c

/-- A collective starts: claim, source, READY, first chunks. -/
def State.startColl (s : State) (d : Nat) (c : Coll) : State :=
  let s := if c.cst.trigEn then
      s.fset (R.CTR_VALUE.at (ctrOff d c.cst.trigIn)) (s.fget (R.CTR_VALUE.at (ctrOff d c.cst.trigIn)) - 1) else s
  let now := s.rtime
  let c := { c with state := .started, startAt := now, readyAt := now, ready := (c.cst.rank, now) :: c.ready.filter (fun e => e.1 != c.cst.rank),
                    slowest := min c.slowest (s.fget (R.ME_PACE_OWN.at (meOff d))), lastAt := now, waitAt := now }
  match s.readSource d c with
  | (none, s) => (s.collPut d c).collFail d c 0x0B06 c.cst.rank
  | (some x, s) =>
    let c := ({ c with x := x }).firstChunks
    let s := s.collPut d c
    (s.cmCast c (s.readyBody d c)).collGo d c

/-- `COLLECTIVE_START`: the next queued collective, in launch order. -/
def execCollectiveStart (d : Fin 4) (s : State) : Res :=
  .next (
    let e := s.meng d.val
    match e.colls.find? (fun c => c.state == .queued) with
    | none => s
    | some c =>
      let o := ctrOff d.val c.cst.trigIn
      if s.dom.worksRst ∨ s.unitFenced R.FENCE_UNITS_ME d.val = true then s
      else if c.cst.trigEn ∧ s.flag (R.CTR_BROKEN.at o) = true then s.collAbort d.val c 0x0B08 c.cst.rank false
      else if (e.colls.filter (·.claims)).length ≥ 8 ∨ 2 ^ 24 < e.claimed + 2 * c.w * c.b
          ∨ (c.cst.trigEn ∧ s.fget (R.CTR_VALUE.at o) = 0) then s
      else s.startColl d.val c)

/-! ## Receiving (R343-R349) -/

/-- Fields of a collective message. -/
def cmNat (p : Pkt) (k n : Nat) : Nat := leNat ((p.payload.drop k).take n)

/-- Take the first message of a KIND from an engine's inbox. -/
def State.takeCm (s : State) (d kind : Nat) : Option (Pkt × State) :=
  let e := s.meng d
  match e.inbox.find? (fun p => cmKind p == kind) with
  | some p => some (p, s.setMe d { e with inbox := e.inbox.erase p })
  | none => none

/-- Does a message fail R348 whatever it names: another attempt, a rank outside the group, another package than its rank's? -/
def State.cmStray (s : State) (p : Pkt) : Bool :=
  let (ep, att) := s.openAttempt
  let m := s.members (cmGroup p)
  cmNat p 28 4 != ep || cmNat p 26 2 != att
    || (match m[cmNat p 2 2]? with | some (_, dest, _) => dest % 4096 != pkSrc p | none => true)

/-- A message for a collective of this engine: strays are dropped, the sender's pace is noted, and the wait for the message ends. -/
def State.cmRow (s : State) (d kind : Nat) (body : State → Pkt → Coll → State) : State :=
  match s.takeCm d kind with
  | none => s
  | some (p, s) =>
    if s.cmStray p then s.stray d
    else
      match s.collOf d (cmGroup p) (cmNat p 4 4) with
      | none => s.stray d
      | some c =>
        if c.state = .dead ∨ c.lost = true then s.stray d
        else
          let c := { c with slowest := min c.slowest (cmNat p 24 2), lastAt := s.rtime }
          body ((s.collPut d c).meRegs d) p c

/-- DIGEST of a message. -/
def cmDigest (p : Pkt) : BitVec 64 := BitVec.ofNat 64 (cmNat p 8 8)

/-- `READY`. -/
def execReady (d : Fin 4) (s : State) : Res :=
  .next (s.cmRow d.val 2 fun s p c =>
    let r := cmNat p 2 2
    if cmDigest p ≠ c.cst.digest then s.collFail d.val c 0x0B01 r
    else if r = c.cst.rank then s
    else if c.ready.any (fun e => e.1 == r) then
      (if c.state = .queued then s else s.cmSend c r 5 0 0 0 (s.readyBody d.val c))
    else
      let c := { c with ready := c.ready ++ [(r, cmNat p 32 8)] }
      (s.collPut d.val c).collGo d.val c)

/-- NACK of a chunk with a cause (R343). -/
def State.nackChunk (s : State) (d : Nat) (c : Coll) (r chunk cause : Nat) : State :=
  s.cmSend c r 4 1 0 0 (s.cmHeader d c 4 chunk cause)

/-- A packet of a chunk already consumed: counted, and its ACK sent again at most once per resend interval (R347). -/
def State.dupChunk (s : State) (d : Nat) (c : Coll) (r chunk at_ : Nat) : State :=
  let s := s.meBump d R.ME_DROPS2_DUP_DROP 4
  if s.rtime < at_ + 1000 * s.od D.COLL_RESEND_US then s
  else
    let s := s.ackChunk d c r chunk
    s.collPut d { c with taken := c.taken.map fun e => if e.1 = r ∧ e.2.1 = chunk then (r, chunk, s.rtime) else e }

/-- The packet index of a DATA packet within its chunk (R342). -/
def cmIndex (p : Pkt) : Nat := pkAddr p / 256 % 4096

/-- Wire bytes of its chunk that a DATA packet carries (R343). -/
def Coll.partLen (c : Coll) (r chunk : Nat) (p : Pkt) : Nat :=
  let (q, k) := c.unChunk r chunk
  min 480 (c.chunkLen q k - 480 * cmIndex p)

/-- A packet that finds the receive half of the claim full. Its chunk is dropped: the first packet of each send of it counts the chunk
and answers BUSY, the rest of that send is dropped with it (R346). -/
def State.refuseChunk (s : State) (d : Nat) (c : Coll) (r chunk : Nat) (p : Pkt) : State :=
  let rest := c.refused.filter fun x => !(x.1 == r && x.2.1 == chunk)
  let put := fun (l : List Nat) => s.collPut d { c with refused := (r, chunk, l) :: rest }
  match c.refused.find? fun x => x.1 == r && x.2.1 == chunk with
  | some (_, _, l) =>
    if l.contains (cmIndex p) then ((put [cmIndex p]).meBump d R.ME_DROPS_OVERFLOW_DROP 3).nackChunk d c r chunk 2
    else put (cmIndex p :: l)
  | none => ((put [cmIndex p]).meBump d R.ME_DROPS_OVERFLOW_DROP 3).nackChunk d c r chunk 2

/-- A packet of a chunk not yet consumed joins it; a whole chunk is checked (R346, R347). -/
def State.takePart (s : State) (d : Nat) (c : Coll) (r chunk : Nat) (p : Pkt) : State :=
  let data := p.payload.drop 32
  let crc := BitVec.ofNat 32 (cmNat p 20 4)
  let old := c.arr.find? fun x => x.src == r && x.chunk == chunk
  if old.isNone ∧ c.w ≤ c.arr.length then s.refuseChunk d c r chunk p
  else
    let c := { c with refused := c.refused.filter fun x => !(x.1 == r && x.2.1 == chunk) }
    let u := old.getD ⟨r, chunk, crc, [], false⟩
    let idx := cmIndex p
    let u := { u with crc := crc, parts := (idx, data) :: u.parts.filter (fun e => e.1 != idx) }
    let rest := c.arr.filter fun x => !(x.src == r && x.chunk == chunk)
    match c.chunkData u with
    | none => s.collPut d { c with arr := rest ++ [u] }
    | some l =>
      if crc32c l ≠ crc then
        ((s.collPut d { c with arr := rest }).meBump d R.ME_DROPS_CRC_DROP 2).nackChunk d c r chunk 1
      else
        let c := { c with arr := rest ++ [{ u with whole := true }] }
        (s.collPut d c).collGo d c

/-- Is a CHUNK one that this member receives from a rank? -/
def Coll.expects (c : Coll) (r chunk : Nat) : Bool :=
  let (q, k) := c.unChunk r chunk
  c.receives q && decide (k < c.chunks q) && (c.cst.coll == 3 || r == c.prev)

/-- `DATA`. -/
def execData (d : Fin 4) (s : State) : Res :=
  .next (s.cmRow d.val 1 fun s p c =>
    let r := cmNat p 2 2
    let chunk := cmNat p 16 4
    if cmDigest p ≠ c.cst.digest then s.collFail d.val c 0x0B01 r
    else if c.state = .queued ∨ !c.expects r chunk then s.stray d.val
    else
      let s := s.traffic (R.ME_RX_BYTES_BYTES.at (meOff d.val)) (c.partLen r chunk p)
      match c.taken.find? (fun e => e.1 == r && e.2.1 == chunk) with
      | some (_, _, t) => s.dupChunk d.val c r chunk t
      | none => s.takePart d.val c r chunk p)

/-- Send a chunk again: after a failure, counted (R347), or after BUSY (R346). -/
def State.resendChunk (s : State) (d : Nat) (c : Coll) (u : OutChunk) (fail : Bool) : State × Coll :=
  let s := s.sendChunk d c u
  let s := if fail then s.meBump d R.ME_EVENTS2_RESENDS 6 else s
  let v := { u with sentAt := s.rtime, busy := false, fails := if fail then u.fails + 1 else u.fails }
  (s, { c with out := c.out.map (fun x => if x.dest = u.dest ∧ x.chunk = u.chunk then v else x), lastAt := s.rtime })

/-- `CHUNK_ACK`: the chunk leaves; a chunk refused BUSY by that receiver is sent again (R346). -/
def execChunkAck (d : Fin 4) (s : State) : Res :=
  .next (s.cmRow d.val 3 fun s p c =>
    let r := cmNat p 2 2
    let chunk := cmNat p 16 4
    let c := { c with out := c.out.filter fun x => !(x.dest == r && x.chunk == chunk && x.sent) }
    match c.out.find? (fun x => x.dest == r && x.busy) with
    | some u =>
      let (s, c) := s.resendChunk d.val c u false
      (s.collPut d.val c).collGo d.val c
    | none => (s.collPut d.val c).collGo d.val c)

/-! ## Completion (R341, R113) -/

/-- The matrix part of `MMA.AG`, with the berths and configuration the tile had at issue (R112, R113). -/
def State.gatherMma (s : State) (p : Nat) (t : Tile) (w : Nat) : Except TrapInfo Unit × State :=
  let now := s.tile p
  let s := s.setTile p { now with b := t.b, acc := t.acc, g := t.g, pc := t.pc }
  let (r, s) := s.fusedRun p (fusedArgs t w)
  (r, s.setTile p now)

/-- A collective is complete at this member; `trig` is what its `TRIG_OUT` receives. -/
def State.collDone (s : State) (d : Nat) (c : Coll) (trig : Nat) : State :=
  let c := { c with state := .done, coast := false }
  let s := s.collPut d c
  let s := s.ctrAdd d c.cst.trigOut trig
  let s := s.meBump d R.ME_EVENTS_DONE 0
  let o := meOff d
  ((s.fset (R.ME_LAST_COLL_SEQ.at o) c.cst.seq).fset (R.ME_LAST_FILL.at o) c.fill).meRegs d

/-- A trap of an instruction issued earlier (R104, R115): taken where the tile runs or waits. -/
def State.lateTrap (s : State) (p pc : Nat) (ti : TrapInfo) : State :=
  if s.tileState p = 2 ∨ s.tileState p = 3 then s.trapAt p pc ti else s

/-- Every byte of DST is written: the collective completes; the matrix part of `MMA.AG` then runs, and one that traps completes no
`BD`, so that `TRIG_OUT` receives nothing (R113, R341; log entry 90). -/
def State.collComplete (s : State) (d : Nat) (c : Coll) : State :=
  match c.snap with
  | none => s.collDone d c 1
  | some (t, w) =>
    match s.gatherMma c.tile t w with
    | (.ok _, s) => s.collDone d c 1
    | (.error ti, s) => (s.collDone d c 0).lateTrap c.tile t.pc ti

/-! ## Chunks that fail (R346, R347, R351) -/

/-- A chunk is lost with every byte of DST written here, where the collective can no longer abort (R351): it completes, the group and the
interlock are told, the open epoch fails, and the member sends no more of it. DESIGN CHOICE (log entry 165). -/
def State.collLost (s : State) (d : Nat) (c : Coll) (rank : Nat) : State :=
  let s := if c.written then s.collComplete d c else s
  let s := s.castAbort d c 0x0B04 rank
  let s := s.collPut d { c with state := .done, lost := true, out := [], arr := [], inb := [], outb := [], coast := false }
  ((s.report (meSource d) .collAbort 0x0B04 0).noteFail 0x0B04).meRegs d

/-- A chunk fails once more: the ninth failure aborts, another sends it again (R347). -/
def State.chunkFail (s : State) (d : Nat) (c : Coll) (u : OutChunk) : State :=
  if u.fails ≥ 8 then (if c.abortable then s.collFail d c 0x0B04 u.dest else s.collLost d c u.dest)
  else
    let (s, c) := s.resendChunk d c u true
    s.collPut d c

/-- `NACK`: CRC sends the chunk again, BUSY holds it until the receiver's next ACK or the resend interval (R346, R347). -/
def execNack (d : Fin 4) (s : State) : Res :=
  .next (s.cmRow d.val 4 fun s p c =>
    let r := cmNat p 2 2
    let chunk := cmNat p 16 4
    match c.out.find? (fun x => x.dest == r && x.chunk == chunk && x.sent) with
    | none => s
    | some u =>
      if cmNat p 20 1 = 2 then
        s.collPut d.val { c with out := c.out.map fun x => if x.dest = r ∧ x.chunk = chunk then { x with busy := true } else x }
      else s.chunkFail d.val c u)

/-- `CHUNK_RESEND`: a chunk without ACK for the resend interval; one refused BUSY does not count toward the limit (R346, R347). -/
def execChunkResend (d : Fin 4) (s : State) : Res :=
  .next (
    let due := fun (u : OutChunk) => u.sent && decide (u.sentAt + 1000 * s.od D.COLL_RESEND_US ≤ s.rtime)
    match (s.meng d.val).colls.find? (fun c => c.claims && c.out.any due) with
    | none => s
    | some c =>
      match c.out.find? due with
      | none => s
      | some u =>
        if u.busy then
          let (s, c) := s.resendChunk d.val c u false
          s.collPut d.val c
        else s.chunkFail d.val c u)

/-- Record an ABORT of a collective not yet launched: 64 entries, the oldest dropped; the first cause stands (R349). -/
def State.recordAbort (s : State) (d : Nat) (a : AbortRec) : State :=
  let e := s.meng d
  if e.aborts.any fun x => x.group == a.group && x.seq == a.seq && x.epoch == a.epoch && x.attempt == a.attempt then s
  else
    let l := e.aborts ++ [a]
    s.setMe d { e with aborts := l.drop (l.length - 64) }

/-- `ABORT`: a launched collective aborts with the cause received, one not launched is recorded, a complete one is unchanged (R349,
R351). -/
def execAbort (d : Fin 4) (s : State) : Res :=
  .next (
    match s.takeCm d.val 5 with
    | none => s
    | some (p, s) =>
      if s.cmStray p then s.stray d.val
      else
        let cause := cmNat p 20 2
        let rank := cmNat p 22 2
        match s.collOf d.val (cmGroup p) (cmNat p 4 4) with
        | some c =>
          if c.abortable then s.collAbort d.val c cause rank false
          else if c.state = .dead then s
          else s.meBump d.val R.ME_EVENTS2_LATE_ABORT 7
        | none => s.recordAbort d.val ⟨cmGroup p, cmNat p 4 4, cmNat p 28 4, cmNat p 26 2, cause, rank⟩)

/-- `READY_REPEAT`: READY goes out again for every started collective that lacks one, once the repeat interval has passed since it last
went out (R344). -/
def execReadyRepeat (d : Fin 4) (s : State) : Res :=
  .next ((s.meng d.val).colls.foldl (fun s c =>
    if c.state = .started ∧ !c.allReady ∧ c.readyAt + 1000 * s.od D.COLL_RESEND_US ≤ s.rtime then
      (s.collPut d.val { c with readyAt := s.rtime, lastAt := s.rtime }).cmCast c (s.readyBody d.val c)
    else s) s)

/-- `STALL`: a started collective exchanged no packet for the stall time (R349). The manual does not say which rank is at fault: a
free one of the group (log entry 10). -/
def execStall (d : Fin 4) (s : State) : Res :=
  .next (
    match (s.meng d.val).colls.find? (fun c =>
      c.state == .started && c.abortable && decide (c.lastAt + 1000000 * s.od D.COLL_STALL_MS ≤ s.rtime)) with
    | some c =>
      let (v, s) := s.draw
      s.collFail d.val c 0x0B05 (v.toNat % c.g)
    | none => s)

/-- `COAST_WAIT`: a wait passes the coasting time (R355). -/
def execCoastWait (d : Fin 4) (s : State) : Res :=
  .next (
    let us := s.od D.COAST_US
    match (s.meng d.val).colls.find? (fun c =>
      c.state == .started && !c.coast && c.awaits && us != 0 && decide (c.waitAt + 1000 * us < s.rtime)) with
    | some c => ((s.collPut d.val { c with coast := true }).meBump d.val R.ME_EVENTS3_COASTS 9).meRegs d.val
    | none => s)

/-- `COLLECTIVE_DONE`: the first collective whose DST is written. -/
def execCollectiveDone (d : Fin 4) (s : State) : Res :=
  .next (
    match (s.meng d.val).colls.find? (·.written) with
    | none => s
    | some c => s.collComplete d.val c)

/-! ## Ends of attempts, fences and resets (R356, R357) -/

/-- The open attempt ended in an abort: every collective that is not complete aborts with EPOCH_ABORT and tells nobody; the attempt's
records go. -/
def State.collsEnd (s : State) : State :=
  (List.range 4).foldl (fun s d =>
    let s := (s.meng d).colls.foldl (fun s c =>
      if c.written then s.collComplete d c else if c.live then s.collAbort d c 0x0B07 c.cst.rank false else s) s
    let e := s.meng d
    (s.setMe d { e with colls := e.colls.filter (·.live), lastSeq := none }).meRegs d) s

/-- The open attempt was committed, or a job begins or ends: finished collectives are forgotten, and COLL_SEQ starts anew. -/
def State.collsCommit (s : State) : State :=
  (List.range 4).foldl (fun s d =>
    let e := s.meng d
    (s.setMe d { e with colls := e.colls.filter (·.live), lastSeq := none }).meRegs d) s

/-- The interlock ends the collectives that `hit` names on engine `d`, and those complete ones that still send (R357): their claims
are freed; ABORT for each that had started; the broken mark of TRIG_OUT, and the word to the tile that waits for it, for each that has
not added to TRIG_OUT (R114). -/
def State.collsCut (s : State) (d cause : Nat) (hit : Coll → Bool) : State :=
  let gone := (s.meng d).colls.filter fun c => c.held && hit c
  let e := s.meng d
  let s := s.setMe d { e with colls := e.colls.filter fun c => !(c.held && hit c) }
  let s := gone.foldl (fun s c =>
    let s := if c.state = .queued then s else s.castAbort d c cause c.cst.rank
    if c.live then (s.breakCtr d c.cst.trigOut).tellTile c.tile else s) s
  s.meRegs d

/-- 0 in 0x3100:03 withdraws every coasting request (R355). -/
def State.coastOff (s : State) : State :=
  (List.range 4).foldl (fun s d =>
    let e := s.meng d
    if e.colls.any (·.coast) then (s.setMe d { e with colls := e.colls.map fun c => { c with coast := false } }).meRegs d else s) s

/-! ## Waits of tiles that end with this work (R96, R98, R114, R172) -/

/-- Does work that a tile issued still run: transfers, or collectives? -/
def State.tileBusy (s : State) (p : Nat) : Bool :=
  (s.tile p).dma.toList.any (fun e => e.run.isSome || !e.queue.isEmpty)
    || (s.meng (p / 48)).colls.any fun c => c.tile == p && c.live

/-- The end of a wait for all work: a halted engine or an aborted collective traps, else `go` once no work is left. -/
def State.endFence (s : State) (p : Nat) (go : State → State) : State :=
  let t := s.tile p
  if t.dma.toList.any (·.halted) then s.trap p ⟨0x0033, 0, 0⟩
  else if t.collAbt then s.trap p ⟨0x0043, 0, 0⟩
  else if s.tileBusy p then s
  else go s

/-- `FENCE_WAIT_END`. -/
def execFenceWaitEnd (p : Fin 192) (s : State) : Res :=
  .next (if (s.tile p.val).wait = .fence ∧ s.tileState p.val = 3 then s.endFence p.val (·.resume p.val) else s)

/-- `HALT_DONE`: the tile goes IDLE, its completion is there for the runtime controller to see, and a held dispatch is judged. -/
def execHaltDone (p : Fin 192) (s : State) : Res :=
  .next (
    if (s.tile p.val).wait = .halt ∧ s.tileState p.val = 3 then
      s.endFence p.val fun s =>
        ((s.setTile p.val { s.tile p.val with wait := .none }).setTileState p.val 1).evalHeld p.val
    else s)

end Sys2Proof.Machine
end

