-- ==== Sys2Proof/Machine/Load.lean ====
section
/-! DEFINITION. Program images (R119-R124): layout, the load checks in their order, placement, unloading. -/

namespace Sys2Proof.Machine

/-- Little-endian number of `n` bytes at offset `k`. -/
def leAt (l : List Byte) (k n : Nat) : Nat := leNat ((l.drop k).take n)

/-- A CRC-32C of a byte list in which the four bytes at `k` count as 0 (R120, R220). -/
def crcWithout (l : List Byte) (k : Nat) : Nat := (crc32c (l.take k ++ [0, 0, 0, 0] ++ l.drop (k + 4))).toNat

/-- An entry of the berth table (R121). -/
structure ImgBerth where
  tile  : Nat
  index : Nat
  resv  : Bool
  berth : Berth
  deriving DecidableEq, Repr

/-- An entry from its 40 bytes. -/
def ImgBerth.ofBytes (l : List Byte) : ImgBerth :=
  ⟨leAt l 0 2, leAt l 2 1, leAt l 3 1 != 0 || leAt l 36 4 != 0 || nbits (leAt l 4 8) 62 59 != 0, .ofBytes ((l.drop 4).take 32)⟩

/-- An image taken apart (R119, R120). -/
structure Img where
  raw     : List Byte
  tiles   : Nat
  flags   : Nat
  codeB   : Nat
  kib     : Nat
  berths  : List ImgBerth
  consB   : List Byte
  conss   : Nat
  code    : List Byte
  deriving DecidableEq, Repr

/-- Slices of `k` bytes. -/
def slices (k : Nat) : Nat → List Byte → List (List Byte)
  | 0, _ => []
  | n + 1, l => l.take k :: slices k n (l.drop k)

/-- The parts of an image, whatever its length. -/
def Img.of (l : List Byte) : Img :=
  let nb := leAt l 0x14 2
  let nc := leAt l 0x1E 2
  let cb := leAt l 0x0C 4
  let t := l.drop (64 + 40 * nb)
  { raw := l, tiles := leAt l 0x08 2, flags := leAt l 0x0A 2, codeB := cb, kib := leAt l 0x10 4
    berths := (slices 40 nb (l.drop 64)).map ImgBerth.ofBytes
    consB := t.take (64 * nc), conss := nc, code := (t.drop (64 * nc)).take cb }

/-- Check MF_FORMAT: the item at fault, if the check fails. Every unlisted bit is reserved. -/
def Img.formatBad (m : Img) : Option Nat :=
  let l := m.raw
  if l.length < 64 ∨ leAt l 0 4 ≠ 1 ∨ m.tiles = 0 ∨ m.codeB = 0 ∨ m.codeB % 16 ≠ 0 ∨ m.codeB > 0x100000 ∨ m.flags / 4 ≠ 0
      ∨ leAt l 0x1D 1 ≠ 0 ∨ leAt l 0x2E 2 ≠ 0 ∨ leAt l 0x30 8 ≠ 0 ∨ leAt l 0x38 4 ≠ 0
      ∨ 64 + 40 * m.berths.length + 64 * m.conss + m.codeB > l.length then some 0
  else m.berths.findIdx? (·.resv)

/-- Does the code hold an instruction with SPARSE = 1 (R122)? -/
def Img.sparse (m : Img) : Bool :=
  (slices 16 (m.codeB / 16) m.code).any fun b =>
    let w := leNat b
    ((iCls w == 2 && iOp w == 0) || iCls w == 6) && nbit w 87 == 1

/-- Offset of the consist table in a scratchpad (R119). -/
def Img.consOff (m : Img) : Nat := (m.codeB + 63) / 64 * 64

/-- The first address from `a` upward that lies in no range of an allotment; the fuel counts ranges passed. -/
def coverEnd (l : List (Nat × Nat)) : Nat → Nat → Nat
  | 0, a => a
  | n + 1, a =>
    match l.find? (fun (b, k) => decide (b ≤ a ∧ a < b + k)) with
    | some (b, k) => coverEnd l n (b + k)
    | none => a

/-- Is a range inside an allotment? It may run through ranges that abut or overlap. -/
def insideAll (l : List (Nat × Nat)) (a n : Nat) : Bool := decide (a + n ≤ coverEnd l (l.length + 1) a)

/-- Ranges in the order of their bases. -/
def insertRange (e : Nat × Nat) : List (Nat × Nat) → List (Nat × Nat)
  | [] => [e]
  | x :: t => if e.1 ≤ x.1 then e :: x :: t else x :: insertRange e t

/-- Bytes of ranges in the order of their bases that lie at or past `a`. -/
def unionFrom : Nat → List (Nat × Nat) → Nat
  | _, [] => 0
  | a, (b, k) :: t => (b + k - max a b) + unionFrom (max a (b + k)) t

/-- Bytes of an allotment, each counted once. -/
def allotted (l : List (Nat × Nat)) : Nat := unionFrom 0 (l.foldr insertRange [])

/-- Logical tile whose scratchpad a berth lies in. -/
def Berth.spTile (b : Berth) : Nat := (b.base - spBase) / spSize

/-- A berth that BERTH_RANGE refuses: invalid for a reason other than the group rule, in a scratchpad at or above TILES, or a table
entry outside R121. An entry with VALID = 0 holds no berth to check. -/
def Img.rangeBad (m : Img) (e : ImgBerth) : Bool :=
  (e.tile != 0xFFFF && decide (m.tiles ≤ e.tile)) || decide (e.index < 3 ∨ 63 < e.index)
    || (e.berth.valid && (!e.berth.formOk || (e.berth.kind == 2 && decide (m.tiles ≤ e.berth.spTile))))

/-- A berth that BERTH_RIGHTS refuses. -/
def Img.rightsBad (m : Img) (e : ImgBerth) : Bool :=
  let b := e.berth
  let o := (b.base - spBase) % spSize
  b.valid && (b.x || (b.w && b.kind == 2 && decide (b.spTile < m.tiles)
    && (decide (o < m.codeB) || (decide (0 < m.conss) && decide (o < m.consOff + 64 * m.conss ∧ m.consOff < o + b.length)))))

/-- Rings that other users hold: enabled with JOB = 0 (R123); all, or the periodic ones. -/
def State.heldRings (s : State) (periodic : Bool) : Nat :=
  ((List.range 64).filter fun r =>
    s.flag (R.RING_CFG_EN.at (ringOff r)) && !s.flag (R.RING_CFG_JOB.at (ringOff r))
      && (!periodic || s.flag (R.RING_CFG_PERIODIC.at (ringOff r)))).length

/-- First berth entry that satisfies `p`. -/
def Img.bad (m : Img) (p : ImgBerth → Bool) : Option Nat := m.berths.findIdx? p

/-- First consist that satisfies `p`. -/
def Img.badCons (m : Img) (p : List Byte → Bool) : Option Nat := (slices 64 m.conss m.consB).findIdx? p

/-- A failing check: its code and the item at fault. -/
def failIf (c : Bool) (code item : Nat) : Option (Nat × Nat) := if c then some (code, item) else none

/-- A failing check on items. -/
def failAt (o : Option Nat) (code : Nat) : Option (Nat × Nat) := o.map fun i => (code, i)

/-- The first failing check. -/
def firstFail : List (Option (Nat × Nat)) → Option (Nat × Nat)
  | [] => none
  | some f :: _ => some f
  | none :: l => firstFail l

/-- The checks of R122 in table order. The logical tile at fault under TILES_LICENCE and TILES_GEOMETRY is the first one the limit
leaves out. -/
def State.loadChecks (s : State) (m : Img) : Option (Nat × Nat) :=
  let l := m.raw
  let arith := s.od D.ARITH_VERSION
  let lic := s.fget R.BOOT_GEOM_LICENSED
  let serv := s.fget R.BOOT_GEOM_IN_SERVICE
  let main := if s.job.active then s.job.mainR else []
  let ws := if s.job.active then s.job.wsR else []
  let kindOut := fun k a (e : ImgBerth) => e.berth.valid && e.berth.kind == k && !insideAll a e.berth.base e.berth.length
  firstFail
    [ failAt m.formatBad 0x0101,
      failIf (crcWithout l 0x3C != leAt l 0x3C 4) 0x0102 0,
      failIf (decide (s.fget R.BOOT_STATUS_STAGE < 5) || s.flag R.IL_STATUS_FAULT_STATE) 0x0103 0,
      failIf s.prog.loaded 0x0104 0,
      failIf (leAt l 4 4 != arith) 0x0105 0,
      failIf (decide (lic < m.tiles)) 0x0201 lic,
      failIf (!s.sparseLicensed && (nbit m.flags 0 == 1 || m.sparse)) 0x0202 0,
      failIf (decide (serv < m.tiles)) 0x0203 serv,
      failIf (s.shunting && (m.flags % 4 != 0 || m.sparse)) 0x0204 0,
      failIf (decide (8192 < m.kib ∨ m.kib * 1024 < m.consOff + 64 * m.conss)) 0x0301 0,
      failAt (m.bad (kindOut 1 main)) 0x0302,
      failIf (decide (allotted main < leAt l 0x20 8)) 0x0302 0,
      failAt (m.bad (kindOut 3 ws)) 0x0303,
      failIf (decide (allotted ws < 1024 * leAt l 0x28 4)) 0x0303 0,
      failAt (m.bad m.rangeBad) 0x0304,
      failAt (m.bad fun e => e.berth.valid && !e.berth.groupOk) 0x0305,
      failAt (m.bad m.rightsBad) 0x0306,
      failIf (decide (1024 < leAt l 0x16 2)) 0x0401 0,
      failIf (decide (256 < leAt l 0x18 2)) 0x0402 0,
      failAt (m.badCons fun c => decide (leAt l 0x18 2 ≤ nbits (leAt c 16 8) 63 56)) 0x0402,
      failIf (decide (64 - s.heldRings false < leAt l 0x1A 1 ∨ 16 - s.heldRings true < leAt l 0x1B 1)) 0x0403 0,
      failIf (nbits (leAt l 0x1C 1) 7 6 != 0) 0x0404 0,
      failIf (decide (4096 < m.conss)) 0x0405 0,
      failAt (m.badCons fun c => !consistOk arith fun k => leAt c (8 * k) 8) 0x0406,
      failIf (decide ((if s.job.active then s.job.nRegions else 0) < leAt l 0x2C 2)) 0x0407 0 ]

/-- The berths B1 and B2 of a logical tile of the program (R119). -/
def Img.b1 (m : Img) (t : Nat) : Berth :=
  { Berth.null with valid := true, x := true, r := true, kind := 2, base := spBase + t * spSize, length := m.codeB, rowElems := m.codeB }

/-- B2: over the consist table, null if there are no consists. -/
def Img.b2 (m : Img) (t : Nat) : Berth :=
  if m.conss = 0 then .null
  else { Berth.null with valid := true, r := true, kind := 2, base := spBase + t * spSize + m.consOff, length := 64 * m.conss,
                         rowElems := 64 * m.conss }

/-- Place the code and the consist table in the scratchpads of logical tiles `t` downward from `n`, with B1 and B2. -/
def State.placeTiles (s : State) (m : Img) : Nat → State
  | 0 => s
  | t + 1 =>
    let s := s.placeTiles m t
    let a := spBase + t * spSize
    let s := (s.writeBytes a m.code).writeBytes (a + m.consOff) m.consB
    match s.physOf t with
    | some p =>
      let x := s.tile p
      s.setTile p { x with b := vput (vput x.b 1 (m.b1 t)) 2 (m.b2 t) }
    | none => s

/-- An accepted image is placed (R119). -/
def State.place (s : State) (m : Img) : State :=
  let l := m.raw
  let s := s.placeTiles m m.tiles
  { s with prog :=
      { loaded := true, tiles := m.tiles, flags := m.flags, trigCtrs := leAt l 0x16 2, groups := leAt l 0x18 2
        rings := leAt l 0x1A 1, periodic := leAt l 0x1B 1, vcMask := leAt l 0x1C 1
        roots := m.berths.map fun e => ⟨e.tile, e.index, e.berth⟩
        consists := m.conss, consistB := m.consB, code := m.code } }

/-- A load of an image: its code, and the state after it with the report of R124. -/
def State.loadImage (s : State) (l : List Byte) : Nat × State :=
  let m := Img.of l
  let (code, item) := (s.loadChecks m).getD (0, 0)
  let s := if code = 0 then s.place m else s
  (code, (s.odPut D.LOAD_CODE code).odPut D.LOAD_DETAIL item)

/-- The program is removed: tiles keep their scratchpads, and B1 and B2 read as the null berth (R119, R216). -/
def State.unload (s : State) : State :=
  { s with prog := .empty, tiles := s.tiles.map fun t => { t with b := vput (vput t.b 1 .null) 2 .null } }

end Sys2Proof.Machine
end

