-- ==== Sys2Proof/Machine/Wayside.lean ====
section
/-! DEFINITION. Wayside engines (R125-R154): posting and its checks, the operations in their fixed orders, completion, errors and
cancellation, and commit actions. -/

namespace Sys2Proof.Machine

/-- Sequencing of an operation that may stop with an error. -/
def bindR {ε α β : Type} (r : Except ε α × State) (f : α → State → Except ε β × State) : Except ε β × State :=
  match r with
  | (.error e, s) => (.error e, s)
  | (.ok a, s) => f a s

/-! ## Descriptors (R128) -/

/-- Header word `k` of a descriptor. -/
def dWord (d : List Nat) (k : Nat) : Nat := d.getD k 0
/-- OP. -/
def dOp (d : List Nat) : Nat := nbits (dWord d 0) 63 56
/-- SUB. -/
def dSub (d : List Nat) : Nat := nbits (dWord d 0) 55 48
/-- COMMIT. -/
def dCommit (d : List Nat) : Bool := nbit (dWord d 0) 44 == 1
/-- DESC_SEQ. -/
def dSeq (d : List Nat) : Nat := nbits (dWord d 0) 31 0
/-- EPOCH. -/
def dEpoch (d : List Nat) : Nat := nbits (dWord d 2) 31 0
/-- STREAM. -/
def dStream (d : List Nat) : Nat := nbits (dWord d 2) 63 32
/-- TRIG_IN_EN. -/
def dTrigIn (d : List Nat) : Bool := nbit (dWord d 1) 43 == 1
/-- TRIG_OUT_EN. -/
def dTrigOut (d : List Nat) : Bool := nbit (dWord d 1) 42 == 1
/-- Parameter Pk. -/
def dPar (d : List Nat) (k : Nat) : Nat := nbits (dWord d (3 + k / 2) / 2 ^ (32 * (k % 2))) 31 0
/-- Operand berth OPk. -/
def dOpnd (d : List Nat) (k : Nat) : Berth := .ofWords (dWord d (8 + 4 * k)) (dWord d (9 + 4 * k)) (dWord d (10 + 4 * k)) (dWord d (11 + 4 * k))

/-! ## Engine state -/

/-- An engine. -/
def State.weng (s : State) (n : Nat) : We := vget .reset s.we n
/-- The state with an engine replaced. -/
def State.setWeng (s : State) (n : Nat) (w : We) : State := { s with we := vput s.we n w }
/-- STATE of an engine: 0 IDLE, 1 RUN, 2 WAIT, 3 APPLY, 4 HALTED, 5 FENCED (R153). -/
def State.weState (s : State) (n : Nat) : Nat := s.fget (R.WE_QSTAT_STATE.at (mdOff n))
/-- Set STATE. -/
def State.setWeState (s : State) (n v : Nat) : State := s.fset (R.WE_QSTAT_STATE.at (mdOff n)) v

/-- Ordinary descriptors queued or running (R153). -/
def We.depth (w : We) : Nat := w.queue.length + if w.run.isSome then 1 else 0
/-- Actions of the apply in progress not yet done (R153). -/
def We.left (w : We) : Nat :=
  match w.owed with
  | some e => (w.acts.filter (fun a => dEpoch a.desc == e && !a.done)).length
  | none => 0

/-- The counts and flags of `WE_QSTAT` and `WE_APPLY` follow the engine (R153). -/
def State.weSync (s : State) (n : Nat) : State :=
  let w := s.weng n
  let s := s.fset (R.WE_QSTAT_DEPTH.at (mdOff n)) w.depth
  let s := s.fset (R.WE_QSTAT_ACTIONS.at (mdOff n)) w.acts.length
  let s := s.fset (R.WE_APPLY_LEFT.at (mdOff n)) w.left
  s.setFlag (R.WE_APPLY_APPLYING.at (mdOff n)) w.owed.isSome

/-- An engine with no running descriptor is HALTED until `CLEAR`, in WAIT while the next one waits on `TRIG_IN`, else IDLE
(R139, R150, R153). -/
def State.weRest (s : State) (n : Nat) : State :=
  match (s.weng n).halted, (s.weng n).queue with
  | true, _ => s.setWeState n 4
  | false, d :: _ => s.setWeState n (if dTrigIn d then 2 else 0)
  | false, [] => s.setWeState n 0

/-- An engine enters HALTED, which it leaves at `CLEAR`; an apply it still runs does not end it (R150, R151). -/
def State.weHalt (s : State) (n : Nat) : State := (s.setWeng n { s.weng n with halted := true }).setWeState n 4

/-- The state with an engine replaced, its registers following. -/
def State.putWeng (s : State) (n : Nat) (w : We) : State := (s.setWeng n w).weSync n

/-- A ring command that waits for a descriptor learns how it ended (R216). -/
def State.weTell (s : State) (n seq code : Nat) : State :=
  { s with rings := s.rings.map fun r =>
      match r.run with
      | some u =>
        match u.wait with
        | .engine m q _ => if m = n ∧ q = seq then { r with run := some { u with wait := .done code 0 0 } } else r
        | _ => r
      | none => r }

/-- The requester of an engine's own accesses: wayside engine, or commit apply (R173, R417). -/
def rqWe (n : Nat) (apply : Bool) : Rq := ⟨if apply then 3 else 1, 3, 0x0210 + n⟩

/-! ## Posting (R137, R138, R143) -/

/-- What an operation asks of one operand (R130, R131). -/
structure WeOpnd where
  pos    : Nat
  opt    : Bool
  read   : Bool
  write  : Bool
  fmtOk  : Berth → Bool
  within : Berth → Bool

/-- Kind and region of an operand of WEn (R125, R129, R226). -/
def State.weKindOk (s : State) (n : Nat) (b : Berth) : Bool :=
  b.dest == 0 && b.regionOk && !s.touchesShadow b.base b.length &&
    match b.kind, locOf b.base with
    | 1, .md m _ => m == n
    | 3, .ws m _ => m == n
    | _, _ => false

/-- One operand of check 6 of R137: its code, 0 where it passes. A berth that breaks R87 or R89 fails the conditions of R129 and has
their code, WE_KIND; a `SCALE_BERTH` that names no operand position has WE_FORMAT. -/
def State.weOpndCode (s : State) (n : Nat) (d : List Nat) (o : WeOpnd) : Nat :=
  let b := dOpnd d o.pos
  if o.pos ≥ 6 then 0x0607
  else if !b.valid then (if o.opt then 0 else 0x0605)
  else if !s.weKindOk n b || !b.usable then 0x0605
  else if (o.read && !b.r) || (o.write && !b.w) then 0x0606
  else if !o.fmtOk b then 0x0607
  else if !o.within b then 0x0608
  else 0

/-- The first nonzero code. -/
def firstCode : List Nat → Nat
  | [] => 0
  | 0 :: l => firstCode l
  | c :: _ => c

/-- Are the first `n` elements of a berth in bounds? -/
def State.elemsIn (s : State) (n : Nat) (b : Berth) : Bool :=
  n == 0 || (b.rowElems != 0 && (s.chkRows b 0 0 b.rowElems 0 (n / b.rowElems)).isNone
    && (s.chkRows b 0 0 (n % b.rowElems) (n / b.rowElems) 1).isNone)

/-- Are `rows` rows of `k` elements in bounds? -/
def State.rowsIn (s : State) (rows k : Nat) (b : Berth) : Bool := (s.chkRows b 0 0 k 0 rows).isNone

/-- A table of whole rows (R129). -/
def Berth.tableOk (b : Berth) : Bool := decide (b.pitch > 0) && b.length % b.pitch == 0

/-- Row count of a table. -/
def Berth.tableRows (b : Berth) : Nat := b.length / b.pitch

/-- Plain BF16, FP16 or FP32. -/
def plainF (b : Berth) : Bool := isF3 b
/-- Inputs of ELEMWISE and REDUCE (R131). -/
def weIn (b : Berth) : Bool := decide (1 ≤ b.fmt ∧ b.fmt ≤ 9) && !b.scaleEn
/-- Outputs of ELEMWISE and REDUCE (R131). -/
def weOut (b : Berth) : Bool := decide (4 ≤ b.fmt ∧ b.fmt ≤ 8) && !b.scaleEn
/-- INT32 indices. -/
def isI32 (b : Berth) : Bool := b.fmt == 0x0B && !b.scaleEn
/-- FP32. -/
def isF32 (b : Berth) : Bool := b.fmt == 0x08 && !b.scaleEn
/-- The MX side of QUANT_MX and DEQUANT_MX. -/
def isMxSide (b : Berth) : Bool := (decide (1 ≤ b.fmt ∧ b.fmt ≤ 5) || b.fmt == 9) && b.scaleEn
/-- The plain side of QUANT_MX and DEQUANT_MX. -/
def isPlainSide (b : Berth) : Bool := (b.fmt == 7 || b.fmt == 8) && !b.scaleEn
/-- Row and column of the scale of the block that begins at element `i` (R101). DESIGN CHOICE (log entry 192): a block that straddles two
rows has its scale at the place of its first element. -/
def scaleAt (b : Berth) (i : Nat) : Nat × Nat := (i / b.rowElems, scaleCol b (i % b.rowElems))

/-- The scale operand of an MX operand at position `k` holding `n` elements. -/
def scaleOpnd (d : List Nat) (k n : Nat) (write : Bool) : WeOpnd :=
  let b := dOpnd d k
  ⟨b.scaleBerth, false, !write, write, fun sb => sb.fmt == 0x0C && !sb.scaleEn, fun sb =>
    (List.range (n / 32)).all fun j => let (r, c) := scaleAt b (32 * j); decide (c < sb.colLimit r)⟩

/-- A format into which a wayside result is rounded: a plain float or integer format. -/
def roundable (b : Berth) : Bool := decide (1 ≤ b.fmt ∧ b.fmt ≤ 0x0B) && !b.scaleEn

/-- The operands of an operation in order (R130, R131). DESIGN CHOICE (log entry 193): the offsets of EMBED_BAG are INT32, and the values
of TOPK may have any format into which R132 rounds. -/
def State.weOpnds (s : State) (d : List Nat) : List WeOpnd :=
  let o := dOpnd d
  let p := dPar d
  match dOp d with
  | 0x01 =>
    [ ⟨0, false, true, false, fun _ => true, Berth.tableOk⟩, ⟨1, false, true, false, isI32, s.elemsIn (p 0)⟩,
      ⟨2, false, false, true, fun b => b.fmt == (o 0).fmt && b.rowElems == (o 0).rowElems, s.rowsIn (p 0) (o 0).rowElems⟩ ]
  | 0x02 =>
    [ ⟨0, false, true, false, plainF, Berth.tableOk⟩, ⟨1, false, true, false, isI32, s.elemsIn (p 0)⟩,
      ⟨2, false, true, false, isI32, s.elemsIn (p 1 + 1)⟩, ⟨3, false, false, true, plainF, s.rowsIn (p 1) (o 0).rowElems⟩,
      ⟨4, true, true, false, isF32, s.elemsIn (p 0)⟩ ]
  | 0x03 =>
    [ ⟨0, false, true, true, fun b => plainF b || b.fmt == 0x0D, Berth.tableOk⟩, ⟨1, false, true, false, isI32, s.elemsIn (p 0)⟩,
      ⟨2, false, true, false, fun b => plainF b && b.rowElems == (o 0).rowElems, s.rowsIn (p 0) (o 0).rowElems⟩ ]
  | 0x04 =>
    (match dSub d with
      | 3 => [0, 1, 2]
      | 6 => [0]
      | _ => [0, 1]).map (fun k => (⟨k, false, true, false, weIn, s.elemsIn (p 0)⟩ : WeOpnd))
      ++ [⟨3, false, false, true, weOut, s.elemsIn (p 0)⟩]
  | 0x05 =>
    [ ⟨0, false, true, false, weIn, fun b => s.rowsIn (p 0) b.rowElems b⟩, ⟨1, false, false, true, weOut, s.elemsIn (p 0)⟩ ]
  | 0x06 =>
    [ ⟨0, false, true, false, fun b => b.fmt == 7 && !b.scaleEn, s.rowsIn (p 1) (p 2)⟩,
      ⟨1, false, true, false, fun b => (b.fmt == 7 || b.fmt == 4 || b.fmt == 5) && !b.scaleEn, s.rowsIn (p 0) (p 2)⟩,
      ⟨2, false, true, false, fun b => b.fmt == (o 1).fmt && !b.scaleEn, s.rowsIn (p 0) (p 2)⟩,
      ⟨3, false, false, true, isPlainSide, s.rowsIn (p 1) (p 2)⟩,
      ⟨4, false, true, true, isF32, s.elemsIn (p 0 * p 1)⟩ ]
  | 0x07 =>
    [ ⟨0, false, true, false, isPlainSide, s.elemsIn (p 0)⟩, ⟨1, false, false, true, isMxSide, s.elemsIn (p 0)⟩,
      scaleOpnd d 1 (p 0) true ]
  | 0x08 =>
    [ ⟨0, false, true, false, isMxSide, s.elemsIn (p 0)⟩, scaleOpnd d 0 (p 0) false,
      ⟨1, false, false, true, isPlainSide, s.elemsIn (p 0)⟩ ]
  | 0x09 =>
    [ ⟨0, false, true, false, plainF, fun b => s.rowsIn (p 0) b.rowElems b⟩, ⟨1, false, false, true, roundable, s.rowsIn (p 0) (p 1)⟩,
      ⟨2, false, false, true, isI32, s.rowsIn (p 0) (p 1)⟩ ]
  | 0x0A =>
    [ ⟨0, false, true, false, fun b => decide (1 ≤ b.fmt), s.elemsIn (p 0)⟩,
      ⟨1, false, true, false, fun b => b.fmt == 9 && !b.scaleEn, s.elemsIn (p 0)⟩,
      ⟨2, false, false, true, fun b => b.fmt == (o 0).fmt, s.elemsIn (p 0)⟩, ⟨3, false, false, true, isI32, s.elemsIn 1⟩ ]
  | op =>
    let g := if op = 0x10 then 2 else 3
    let e := (o 0).length / 8
    let slot := fun b => isF32 b && b.pitch == 0 && b.length == 8 * e && decide ((o 0).length % 8 = 0)
    (List.range g).map (fun k => (⟨k, false, true, true, slot, fun b => decide (e ≤ b.rowElems)⟩ : WeOpnd))
      ++ [⟨g, false, true, false, fun b => (b.fmt == 8 || b.fmt == 7 || b.fmt == 0x0D) && !b.scaleEn, s.elemsIn e⟩,
          ⟨4, true, false, true, fun b => (b.fmt == 7 && !b.scaleEn) || b.fmt == 4 || b.fmt == 5, s.elemsIn e⟩]
      ++ (if (o 4).valid && (o 4).scaleEn then [scaleOpnd d 4 ((e + 31) / 32 * 32) true] else [])
      ++ [⟨5, true, true, false, isF32, s.elemsIn 1⟩]

/-- Number of SUB codes of an operation; 0 for an unknown one (R130). -/
def weSubs (op : Nat) : Nat :=
  match op with
  | 0x01 | 0x03 | 0x06 | 0x07 | 0x08 | 0x0A | 0x11 => 1
  | 0x02 | 0x09 | 0x10 => 2
  | 0x04 => 8
  | 0x05 => 4
  | _ => 0

/-- Is a reserved bit of a present operand berth set (R86, R128)? The fields of an absent operand are not judged. -/
def weOpndRes (d : List Nat) : Bool :=
  (List.range 6).any fun k => nbit (dWord d (8 + 4 * k)) 63 == 1 && nbits (dWord d (8 + 4 * k)) 62 59 != 0

/-- Check 4 of R137: operation, variant, reserved fields and parameter limits. -/
def weOpBad (d : List Nat) : Bool :=
  let p := dPar d
  decide (dSub d ≥ weSubs (dOp d)) || nbits (dWord d 0) 43 32 != 0 || nbits (dWord d 1) 41 32 != 0 || nbits (dWord d 0) 47 46 == 3
  || weOpndRes d
  || (!dCommit d && dEpoch d != 0)
  || match dOp d with
     | 0x01 | 0x03 => decide (p 0 > 2 ^ 26)
     | 0x02 => decide (p 0 > 2 ^ 26) || decide (p 1 > 2 ^ 24)
     | 0x06 => !(decide (1 ≤ p 0 ∧ p 0 ≤ 2 ^ 20 ∧ 1 ≤ p 1 ∧ p 1 ≤ 64 ∧ 16 ≤ p 2 ∧ p 2 ≤ 256 ∧ p 2 % 16 = 0))
     | 0x07 | 0x08 => p 0 % 32 != 0
     | 0x09 => !(decide (1 ≤ p 1 ∧ p 1 ≤ 1024 ∧ p 1 ≤ (dOpnd d 0).rowElems))
     | _ => false

/-- The open epoch of the job, if a job is open (R229). -/
def State.openEpoch (s : State) : Option Nat := if s.job.active then some (s.epochC + 1) else none

/-- Check 5 of R137 (R143); `own`: a job owns the posting ring. -/
def State.weCommitCode (s : State) (own : Bool) (d : List Nat) : Nat :=
  if dCommit d != decide (dOp d = 0x10 ∨ dOp d = 0x11) || (dCommit d && dTrigIn d) then 0x0609
  else if dCommit d && (!own || s.openEpoch != some (dEpoch d)) then 0x060A
  else 0

/-- Checks 3 to 6 of R137. -/
def State.weLateCode (s : State) (n : Nat) (own : Bool) (d : List Nat) : Nat :=
  let w := s.weng n
  let full := if dCommit d then decide ((w.acts.filter (fun a => dEpoch a.desc == dEpoch d)).length ≥ 64) else decide (w.depth ≥ 64)
  if full then 0x0601
  else if weOpBad d then 0x0604
  else if s.weCommitCode own d ≠ 0 then s.weCommitCode own d
  else firstCode ((s.weOpnds d).map (s.weOpndCode n d))

/-- A post of a descriptor to WEn: its RESULT and the state after it (R137, R138). `own`: a job owns the posting ring (R143). -/
def State.wePost (s : State) (n : Nat) (own : Bool) (d : List Nat) : Nat × State :=
  let w := s.weng n
  let at_ := fun (f : Fld) => f.at (mdOff n)
  let result := fun (s : State) (c : Nat) => (c, s.fset (at_ R.WE_POST_CTL_RESULT) c)
  let delta := (2 ^ 32 + dSeq d - s.fget (at_ R.WE_QSTAT_SEQ)) % 2 ^ 32
  if w.halted = true ∨ s.weState n = 4 ∨ s.weState n = 5 ∨ s.dom.worksRst = true then result s 0x060B
  else if delta = 0 ∨ 2 ^ 31 ≤ delta then result (s.bump (at_ R.WE_EVENTS2_DUP_COUNT) (at_ R.WE_FLAGS_DUP_OVF)) 0x0602
  else if delta ≠ 1 then result (s.report (0x0210 + n) .weError 0x0603 0) 0x0603
  else
    let c := s.weLateCode n own d
    if c ≠ 0 then result s c
    else
      let s := s.fset (at_ R.WE_QSTAT_SEQ) (dSeq d)
      let s := if dCommit d then s.putWeng n { w with acts := w.acts ++ [⟨d, false⟩] }
        else
          let s := s.putWeng n { w with queue := w.queue ++ [d] }
          if s.weState n = 0 then s.weRest n else s
      result s 0

/-- A descriptor is written to `WE_POST` (R137). -/
def State.wePostWrite (s : State) (n : Nat) (d : List Nat) : State :=
  (List.range 32).foldl (fun s k => s.csrPut (R.WE_POST + mdOff n + 8 * k) (BitVec.ofNat 64 (dWord d k))) s

/-- The descriptor that the `WE_POST` registers of an engine hold. -/
def State.wePostRegs (s : State) (n : Nat) : List Nat :=
  (List.range 32).map fun k => (s.csrGet (R.WE_POST + mdOff n + 8 * k)).toNat

/-! ## Cancellation and errors (R150, R151) -/

/-- `WE_ERR` and `WE_ERR_ADDR` load under the rule of R118. -/
def State.weCapture (s : State) (n code seq addr : Nat) : State :=
  s.capture (R.WE_ERR_VALID.at (mdOff n)) (R.WE_ERR + mdOff n) (BitVec.ofNat 64 (code * 2 ^ 48 + 2 ^ 32 + seq))
    (R.WE_ERR_ADDR + mdOff n) addr

/-- Cancel a list of descriptors, each as an error without a report. -/
def State.weCancelAll (s : State) (n : Nat) : List (List Nat) → State
  | [] => s
  | d :: l => ((s.weCapture n 0x0612 (dSeq d) 0).weTell n (dSeq d) 0x0612).weCancelAll n l

/-- The descriptors of an engine, running first. -/
def We.all (w : We) : List (List Nat) := (match w.run with | some u => [u.desc] | none => []) ++ w.queue

/-- `CLEAR` (R151): cancels the running and every queued descriptor and leaves HALTED. -/
def State.weClear (s : State) (n : Nat) : State :=
  let w := s.weng n
  let s := (s.weCancelAll n w.all).putWeng n { w with queue := [], run := none, halted := false }
  if s.weState n = 3 ∨ s.weState n = 5 then s else s.setWeState n 0

/-- `WE_POST_GO`: a write of GO posts the descriptor in `WE_POST` (R137). No ring posts it: a commit action is judged by the open epoch of
the active job (log entry 169). -/
def execWePostGo (n : Fin 8) (src : Party) (s : State) : Res :=
  .next (s.byParty src fun s => s.regCmd (R.WE_POST_CTL + mdOff n.val) fun s => (s.wePost n.val true (s.wePostRegs n.val)).2)

/-- `WE_CLEAR` (R151). -/
def execWeClear (n : Fin 8) (src : Party) (s : State) : Res :=
  .next (s.byParty src fun s => s.regCmd (R.WE_POST_CTL + mdOff n.val) fun s => s.weClear n.val)

/-- An error stops a descriptor: capture, HALTED, report (R150). -/
def State.weFail (s : State) (n : Nat) (d : List Nat) (code addr : Nat) : State :=
  let s := (s.weCapture n code (dSeq d) addr).weHalt n
  (s.report (0x0210 + n) .weError code addr).weTell n (dSeq d) code

/-- `WE_ERROR`: the error of the running descriptor, or a broken `TRIG_IN` under the waiting one (R150). -/
def execWeError (n : Fin 8) (s : State) : Res :=
  .next (
    let w := s.weng n.val
    match w.run with
    | some ⟨d, some (code, addr)⟩ => (s.putWeng n.val { w with run := none }).weFail n.val d code addr
    | some ⟨_, none⟩ => s
    | none =>
      match w.queue with
      | d :: q =>
        if s.weState n.val = 2 ∧ dTrigIn d ∧ s.flag (R.CTR_BROKEN.at (ctrOff (n.val / 2) (nbits (dWord d 1) 63 54))) then
          (s.putWeng n.val { w with queue := q }).weFail n.val d 0x0611 0
        else s
      | [] => s)

/-! ## Reading and writing of operands -/

/-- Traffic in the stack (R153). -/
def State.weBytes (s : State) (n : Nat) (b : Berth) (k : Nat) : State :=
  if b.kind = 1 then s.traffic (R.WE_BYTES_BYTES.at (mdOff n)) (elemBytes b.fmt k) else s

/-- Read elements of an operand. -/
def State.weRead (s : State) (n : Nat) (b : Berth) (l : List (Nat × Nat)) (apply : Bool := false) :
    Except Nat (List Nat) × State :=
  bindR (s.readElems (rqWe n apply) b l) fun v s => (.ok v, s.weBytes n b l.length)

/-- Write runs of elements of an operand. -/
def State.weWrite (s : State) (n : Nat) (b : Berth) (l : List ElemRun) (apply : Bool := false) : Except Nat Unit × State :=
  match s.runsPre (rqWe n apply) b l with
  | (some a, s) => (.error a, s)
  | (none, s) => (.ok (), (s.runsWrite b l).weBytes n b ((l.map (fun u => u.vals.length)).foldl (· + ·) 0))

/-- An output element rounded under `RND` and `SAT` (R132): `row` and `col` are those of the draw. -/
def State.weRound (s : State) (d : List Nat) (b : Berth) (row col : Nat) (v : Xv) : Nat × OutFlags :=
  match fmtElem b.fmt with
  | some f =>
    let (c, fl) := f.round ⟨nbits (dWord d 0) 47 46, nbit (dWord d 0) 45 == 1, srDraw s.srSeed (dStream d) row col⟩ v
    (c, .ofRnd fl)
  | none => (0, {})

/-- Output element `i` of a berth. -/
def State.weRoundAt (s : State) (d : List Nat) (b : Berth) (i : Nat) (v : Xv) : Nat × OutFlags :=
  s.weRound d b (b.originRow + i / b.rowElems) (b.originCol + i % b.rowElems) v

/-- Round and write a list of results as the first elements of a berth, or as row `r` of it. -/
def State.weEmit (s : State) (n : Nat) (d : List Nat) (b : Berth) (row : Option Nat) (vs : List Xv) (apply : Bool := false) :
    Except Nat Unit × State :=
  let r := vs.zipIdx.map fun (v, i) =>
    match row with
    | some r => s.weRound d b (b.originRow + r) (b.originCol + i) v
    | none => s.weRoundAt d b i v
  let codes := r.map (·.1)
  bindR (s.weWrite n b (match row with | some r => [⟨r, 0, codes⟩] | none => b.runs codes) apply) fun _ s =>
    (.ok (), s.weStatus n (orFlags (r.map (·.2))))

/-- A signed index: its table row, if it has one (R133). -/
def rowOf (rows ix : Nat) : Option Nat := if ix < 2 ^ 31 ∧ ix < rows then some ix else none

/-- An index out of range is counted (R133). -/
def State.weDrop (s : State) (n : Nat) : State := s.bump (R.WE_EVENTS_IDX_DROP.at (mdOff n)) (R.WE_FLAGS_IDX_OVF.at (mdOff n))

/-! ## Operations -/

/-- Outputs copied without conversion: NaN and infinite ones are seen (R153). -/
def State.weCopied (s : State) (n fmt : Nat) (v : List Nat) : State :=
  s.weStatus n { rf := (orFlags (v.map (elemFlags fmt))).rf }

/-- GATHER: positions in order (R133). -/
def State.weGather (s : State) (n : Nat) (t o : Berth) : List (Nat × Nat) → Except Nat Unit × State
  | [] => (.ok (), s)
  | (ix, p) :: l =>
    match rowOf t.tableRows ix with
    | some r =>
      bindR (s.weRead n t (rowCoords r 0 t.rowElems)) fun v s =>
        bindR (s.weWrite n o [⟨p, 0, v⟩]) fun _ s => (s.weCopied n o.fmt v).weGather n t o l
    | none => bindR ((s.weDrop n).weWrite n o [⟨p, 0, List.replicate t.rowElems 0⟩]) fun _ s => s.weGather n t o l

/-- One element of SCATTER_ADD (R134). -/
def State.weScatterElem (s : State) (d : List Nat) (t u : Berth) (p c tc uc : Nat) : Nat × OutFlags :=
  let uv := elemValue u.fmt uc
  match t.fmt with
  | 0x0D =>
    let x := Xp.ofBytes (leBytes 24 tc)
    let y : Xp := match uv with
      | .nan => Xp.mkNan false
      | .inf neg => Xp.mkInf neg false false
      | .fin e => (⟨e.int, e.exp, false, false, false, false, false⟩ : Xp).realign x.a
    let z := xpAdd [x, y]
    let ovf := !z.nan && !z.inf && (y.ovf || (sat160 (x.term + y.term)).2)
    (leNat z.bytes, { wide := y.wide, ovf := ovf, rf := { inf := z.inf, nan := z.nan } })
  | 0x08 =>
    let (c, fl) := fmtFP32.round rmNearest ((f32 tc).add uv)
    (c, .ofRnd fl)
  | _ => s.weRound d t p (t.originCol + c) ((elemValue t.fmt tc).add uv)

/-- SCATTER_ADD: positions in order (R133). -/
def State.weScatter (s : State) (n : Nat) (d : List Nat) (t u : Berth) : List (Nat × Nat) → Except Nat Unit × State
  | [] => (.ok (), s)
  | (ix, p) :: l =>
    match rowOf t.tableRows ix with
    | some r =>
      bindR (s.weRead n u (rowCoords p 0 t.rowElems)) fun us s =>
        bindR (s.weRead n t (rowCoords r 0 t.rowElems)) fun ts s =>
          let out := (ts.zip us).zipIdx.map fun ((a, b), c) => s.weScatterElem d t u p c a b
          bindR (s.weWrite n t [⟨r, 0, out.map (·.1)⟩]) fun _ s =>
            (s.weStatus n (orFlags (out.map (·.2)))).weScatter n d t u l
    | none => (s.weDrop n).weScatter n d t u l

/-- The gathered rows of a bag, each element as binary32 (+0 for an index out of range), weighted (R133). -/
def State.weBagRows (s : State) (n : Nat) (t : Berth) (ixs : List (Nat × Option Nat)) : Except Nat (List (List Nat)) × State :=
  match ixs with
  | [] => (.ok [], s)
  | (ix, w) :: l =>
    match rowOf t.tableRows ix with
    | some r =>
      bindR (s.weRead n t (rowCoords r 0 t.rowElems)) fun v s =>
        bindR (s.weBagRows n t l) fun rest s =>
          let v := v.map fun c => rne32 (elemValue t.fmt c)
          (.ok ((match w with | some w => v.map (mul32 · w) | none => v) :: rest), s)
    | none => bindR ((s.weDrop n).weBagRows n t l) fun rest s => (.ok (List.replicate t.rowElems 0 :: rest), s)

/-- Free codes for a row whose bag the manual gives no meaning (offsets outside the index list; log entry 1). -/
def State.drawRow (s : State) (bits : Nat) : Nat → List Nat × State
  | 0 => ([], s)
  | k + 1 =>
    let (v, s) := s.draw
    let (l, s) := s.drawRow bits k
    (v.toNat % 2 ^ bits :: l, s)

/-- EMBED_BAG: bags in order (R133). `offs` holds pairs of offsets. -/
def State.weBags (s : State) (n : Nat) (d : List Nat) (t o : Berth) (ixs : List (Nat × Option Nat)) :
    List ((Nat × Nat) × Nat) → Except Nat Unit × State
  | [] => (.ok (), s)
  | ((a, z), b) :: l =>
    let lo := sint 32 a
    let hi := sint 32 z
    if lo < hi ∧ (lo < 0 ∨ hi > ixs.length) then
      let (codes, s) := s.drawRow (fmtBits o.fmt) t.rowElems
      bindR (s.weWrite n o [⟨b, 0, codes⟩]) fun _ s => s.weBags n d t o ixs l
    else
      let mine := if lo < hi then (ixs.drop a).take (z - a) else []
      bindR (s.weBagRows n t (if dSub d = 0 then mine else mine.map fun e => (e.1, none))) fun rows s =>
        let red := fun (col : List Nat) => if dSub d = 0 then reduce32 add32 0 col else reduce32 max32 0xFF800000 col
        bindR (s.weEmit n d o (some b) ((List.range t.rowElems).map fun c => f32 (red (rows.map fun r => r.getD c 0))))
          fun _ s => s.weBags n d t o ixs l

/-- Elementwise result (R130, R132): exact on the decoded operands. -/
def weElem (d : List Nat) (x y z : Xv) : Xv :=
  match dSub d with
  | 0 => x.add y
  | 1 => x.add y.negate
  | 2 => x.mul y
  | 3 => (x.mul y).add z
  | 4 => x.max y
  | 5 => x.min y
  | 6 => x
  | _ => ((f32 (dPar d 1)).mul x).add ((f32 (dPar d 2)).mul y)

/-- Read the first `k` elements of operand `i`, if it is used. -/
def State.weList (s : State) (n : Nat) (d : List Nat) (i k : Nat) (use : Bool := true) : Except Nat (List Nat) × State :=
  if use then s.weRead n (dOpnd d i) ((dOpnd d i).coords k) else (.ok [], s)

/-- ELEMWISE. -/
def State.weElemwise (s : State) (n : Nat) (d : List Nat) : Except Nat Unit × State :=
  let k := dPar d 0
  let v := fun i c => elemValue (dOpnd d i).fmt c
  bindR (s.weList n d 0 k) fun xs s =>
    bindR (s.weList n d 1 k (dSub d != 6)) fun ys s =>
      bindR (s.weList n d 2 k (dSub d == 3)) fun zs s =>
        s.weEmit n d (dOpnd d 3) none (xs.zipIdx.map fun (x, i) => weElem d (v 0 x) (v 1 (ys.getD i 0)) (v 2 (zs.getD i 0)))

/-- REDUCE: rows in order, one result each (R133). -/
def State.weReduce (s : State) (n : Nat) (d : List Nat) : List Nat → List Xv → Except Nat Unit × State
  | [], acc => s.weEmit n d (dOpnd d 1) none acc
  | r :: l, acc =>
    let b := dOpnd d 0
    bindR (s.weRead n b (rowCoords r 0 b.rowElems)) fun v s =>
      let v := v.map fun c => rne32 (elemValue b.fmt c)
      let x := match dSub d with
        | 1 => reduce32 max32 0xFF800000 v
        | 2 => reduce32 min32 0x7F800000 v
        | 3 => reduce32 add32 0 (v.map fun a => mul32 a a)
        | _ => reduce32 add32 0 v
      s.weReduce n d l (acc ++ [f32 x])

/-- Read rows 0 to `k` - 1 of `c` columns of an operand. -/
def State.weGrid (s : State) (n : Nat) (b : Berth) (k c : Nat) : Except Nat (List (List Nat)) × State :=
  bindR (s.weRead n b (gridOf k c)) fun v s => (.ok ((List.range k).map fun r => (v.drop (r * c)).take c), s)
where
  /-- Coordinates of rows 0 to `k` - 1, columns 0 to `c` - 1. -/
  gridOf (k c : Nat) : List (Nat × Nat) := (List.range k).flatMap fun r => rowCoords r 0 c

/-- One head of ATTN_DECODE: the weights p and the output row, before rounding (R135). -/
def attnHead (d : List Nat) (fk : Nat) (q : List Nat) (ks vs : List (List Nat)) : List Nat × List Xv :=
  let prod := fun a b => rne32 ((elemValue 7 a).mul (elemValue fk b))
  let s := ks.map fun k => mul32 (mul32 (reduce32 add32 0 ((q.zip k).map fun (a, b) => prod a b)) (dPar d 4)) (dPar d 3)
  let m := match s with
    | [] => 0
    | x :: t => t.foldl max32 x
  let p := s.map fun x => exp2_32 (sub32 x m)
  let z := reduce32 add32 0 p
  let o := fun c => reduce32 add32 0 ((p.zip vs).map fun (pj, v) => rne32 ((f32 pj).mul (elemValue fk (v.getD c 0))))
  (p, (List.range (dPar d 2)).map fun c => (f32 (mul32 (o c) (dPar d 5))).div (f32 z))

/-- ATTN_DECODE: heads in order (R135). -/
def State.weAttn (s : State) (n : Nat) (d : List Nat) (ks vs : List (List Nat)) : List (List Nat × Nat) → Except Nat Unit × State
  | [] => (.ok (), s)
  | (q, h) :: l =>
    let (p, o) := attnHead d (dOpnd d 1).fmt q ks vs
    let work := dOpnd d 4
    let places := indexRuns work.rowElems (p.zipIdx.map fun (c, j) => (h * dPar d 0 + j, c))
    bindR (s.weWrite n work places) fun _ s =>
      bindR (s.weEmit n d (dOpnd d 3) (some h) (o.map fun v => f32 (rne32 v))) fun _ s => s.weAttn n d ks vs l

/-- emax of an MX element format (R136). -/
def emaxOf (fmt : Nat) : Int :=
  match fmt with
  | 1 | 2 => 2 | 3 => 4 | 4 => 8 | 5 => 15 | _ => 0

/-- floor(log2) of the largest magnitude among the finite elements; none where it is 0. -/
def amaxLog (vs : List Xv) : Option Int :=
  vs.foldl (fun m v =>
    match v with
    | .fin x => if x.man = 0 then m else
        let e := x.exp + Nat.log2 x.man
        match m with
        | some k => some (max k e)
        | none => some e
    | _ => m) none

/-- Is the value finite? -/
def Xv.isFin : Xv → Bool
  | .fin _ => true
  | _ => false

/-- A value times 2^k. -/
def Xv.scale (v : Xv) (k : Int) : Xv := v.mul (.fin ⟨false, 1, k, false⟩)

/-- One MX block: its scale code and its element codes (R136); `rnd i v` rounds element `i`. -/
def quantBlock (fmt : Nat) (rnd : Nat → Xv → Nat × OutFlags) (vs : List Xv) : Nat × List (Nat × OutFlags) :=
  if vs.any (fun v => !v.isFin) then (0xFF, vs.map fun _ => (0, { rf := { nan := true } }))
  else
    match amaxLog vs with
    | none => (0x7F, vs.map fun _ => (0, {}))
    | some e =>
      let x := max (-127) (min 127 (e - emaxOf fmt))
      ((x + 127).toNat, vs.zipIdx.map fun (v, i) =>
        if fmt = 9 then
          let (c, fl) := rnd i (v.scale (6 - x))
          if c = 0x80 then (0x81, { fl with rf := { fl.rf with sat := true } }) else (c, fl)
        else rnd i (v.scale (-x)))

/-- QUANT_MX of a list of values into an MX berth and its scale berth, block by block from element `i` (R136). -/
def State.weQuant (s : State) (n : Nat) (d : List Nat) (o so : Berth) (apply : Bool) :
    Nat → Nat → List Xv → Except Nat Unit × State
  | 0, _, _ => (.ok (), s)
  | f + 1, i, vs =>
    if vs.isEmpty then (.ok (), s)
    else
      let (sc, els) := quantBlock o.fmt (fun k v => s.weRoundAt d o (i + k) v) (vs.take 32)
      let (r, c) := scaleAt o i
      let places := indexRuns o.rowElems (els.zipIdx.map fun ((e, _), k) => (i + k, e))
      bindR (s.weWrite n so [⟨r, c, [sc]⟩] apply) fun _ s =>
        bindR (s.weWrite n o places apply) fun _ s =>
          (s.weStatus n (orFlags (els.map (·.2)))).weQuant n d o so apply f (i + 32) (vs.drop 32)

/-- DEQUANT_MX (R136). -/
def State.weDequant (s : State) (n : Nat) (d : List Nat) : Except Nat Unit × State :=
  let k := dPar d 0
  let b := dOpnd d 0
  bindR (s.weList n d 0 k) fun xs s =>
    bindR (s.weRead n (dOpnd d b.scaleBerth) ((List.range (k / 32)).map fun j => scaleAt b (32 * j))) fun scs s =>
      s.weEmit n d (dOpnd d 1) none (xs.zipIdx.map fun (x, i) => mxValue b.fmt x (scs.getD (i / 32) 0x7F))

/-- Does value `a` at a lower index rank before or level with `b` (R133)? -/
def topBefore (smallest : Bool) (a b : Xv) : Bool :=
  match a, b with
  | .nan, _ => true
  | _, .nan => false
  | _, _ => if smallest then !(b.lt a) else !(a.lt b)

/-- Insert an element of higher index into a ranking. -/
def topInsert (smallest : Bool) (e : Xv × Nat) : List (Xv × Nat) → List (Xv × Nat)
  | [] => [e]
  | x :: t => if topBefore smallest x.1 e.1 then x :: topInsert smallest e t else e :: x :: t

/-- TOPK: rows in order (R133). -/
def State.weTopk (s : State) (n : Nat) (d : List Nat) : List Nat → Except Nat Unit × State
  | [] => (.ok (), s)
  | r :: l =>
    let b := dOpnd d 0
    bindR (s.weRead n b (rowCoords r 0 b.rowElems)) fun v s =>
      let rank := (v.zipIdx.foldl (fun acc (c, i) => topInsert (dSub d == 1) (elemValue b.fmt c, i) acc) []).take (dPar d 1)
      bindR (s.weEmit n d (dOpnd d 1) (some r) (rank.map (·.1))) fun _ s =>
        bindR (s.weWrite n (dOpnd d 2) [⟨r, 0, rank.map (·.2)⟩]) fun _ s => s.weTopk n d l

/-- COMPACT (R133). -/
def State.weCompact (s : State) (n : Nat) (d : List Nat) : Except Nat Unit × State :=
  let k := dPar d 0
  bindR (s.weList n d 0 k) fun xs s =>
    bindR (s.weList n d 1 k) fun ms s =>
      let kept := ((xs.zip ms).filter fun e => e.2 != 0).map (·.1)
      bindR (s.weWrite n (dOpnd d 2) ((dOpnd d 2).runs kept)) fun _ s =>
        (s.weCopied n (dOpnd d 2).fmt kept).weWrite n (dOpnd d 3) [⟨0, 0, [kept.length % 2 ^ 32]⟩]

/-- The work of an ordinary descriptor (R130). -/
def State.weWork (s : State) (n : Nat) (d : List Nat) : Except Nat Unit × State :=
  let o := dOpnd d
  let p := dPar d
  match dOp d with
  | 0x01 => bindR (s.weList n d 1 (p 0)) fun ixs s => s.weGather n (o 0) (o 2) ixs.zipIdx
  | 0x02 =>
    bindR (s.weList n d 1 (p 0)) fun ixs s =>
      bindR (s.weList n d 2 (p 1 + 1)) fun offs s =>
        bindR (s.weList n d 4 (p 0) (o 4).valid) fun ws s =>
          s.weBags n d (o 0) (o 3) (ixs.zipIdx.map fun (ix, i) => (ix, if (o 4).valid then some (ws.getD i 0) else none))
            (offs.zip (offs.drop 1)).zipIdx
  | 0x03 => bindR (s.weList n d 1 (p 0)) fun ixs s => s.weScatter n d (o 0) (o 2) ixs.zipIdx
  | 0x04 => s.weElemwise n d
  | 0x05 => s.weReduce n d (List.range (p 0)) []
  | 0x06 =>
    bindR (s.weGrid n (o 0) (p 1) (p 2)) fun qs s =>
      bindR (s.weGrid n (o 1) (p 0) (p 2)) fun ks s =>
        bindR (s.weGrid n (o 2) (p 0) (p 2)) fun vs s => s.weAttn n d ks vs qs.zipIdx
  | 0x07 =>
    bindR (s.weList n d 0 (p 0)) fun xs s =>
      s.weQuant n d (o 1) (o (o 1).scaleBerth) false (p 0 / 32) 0 (xs.map (elemValue (o 0).fmt))
  | 0x08 => s.weDequant n d
  | 0x09 => s.weTopk n d (List.range (p 0))
  | _ => s.weCompact n d

/-- May the next descriptor start (R139, R146, R150)? -/
def State.weReady (s : State) (n : Nat) (d : List Nat) : Bool :=
  let o := ctrOff (n / 2) (nbits (dWord d 1) 63 54)
  (s.weng n).run.isNone && (s.weng n).owed.isNone && (s.weState n == 0 || s.weState n == 2) && !s.dom.worksRst
    && (!dTrigIn d || (!s.flag (R.CTR_BROKEN.at o) && decide (nbits (dWord d 1) 31 0 ≤ s.fget (R.CTR_VALUE.at o))))

/-- A descriptor of operation `op` starts and does its work; an error is kept for `WE_ERROR` (R139, R150, R171). -/
def State.weStart (s : State) (n op : Nat) : State :=
  match (s.weng n).queue with
  | d :: q =>
    if dOp d = op ∧ s.weReady n d then
      let s := (s.putWeng n { s.weng n with queue := q, run := some ⟨d, none⟩ }).setWeState n 1
      match s.weWork n d with
      | (.ok _, s) => s
      | (.error a, s) => s.setWeng n { s.weng n with run := some ⟨d, some (0x0610, s.globalAddr a)⟩ }
    else s
  | [] => s

/-- `GATHER`. -/
def execGather (n : Fin 8) (s : State) : Res := .next (s.weStart n.val 0x01)
/-- `EMBED_BAG`. -/
def execEmbedBag (n : Fin 8) (s : State) : Res := .next (s.weStart n.val 0x02)
/-- `SCATTER_ADD`. -/
def execScatterAdd (n : Fin 8) (s : State) : Res := .next (s.weStart n.val 0x03)
/-- `ELEMWISE`. -/
def execElemwise (n : Fin 8) (s : State) : Res := .next (s.weStart n.val 0x04)
/-- `REDUCE`. -/
def execReduce (n : Fin 8) (s : State) : Res := .next (s.weStart n.val 0x05)
/-- `ATTN_DECODE`. -/
def execAttnDecode (n : Fin 8) (s : State) : Res := .next (s.weStart n.val 0x06)
/-- `QUANT_MX`. -/
def execQuantMx (n : Fin 8) (s : State) : Res := .next (s.weStart n.val 0x07)
/-- `DEQUANT_MX`. -/
def execDequantMx (n : Fin 8) (s : State) : Res := .next (s.weStart n.val 0x08)
/-- `TOPK`. -/
def execTopk (n : Fin 8) (s : State) : Res := .next (s.weStart n.val 0x09)
/-- `COMPACT`. -/
def execCompact (n : Fin 8) (s : State) : Res := .next (s.weStart n.val 0x0A)

/-- `WE_DESC_DONE` (R139). -/
def execWeDescDone (n : Fin 8) (s : State) : Res :=
  .next (match (s.weng n.val).run with
    | some ⟨d, none⟩ =>
      let s := (s.putWeng n.val { s.weng n.val with run := none }).weRest n.val
      let s := s.bump (R.WE_EVENTS_DONE_COUNT.at (mdOff n.val)) (R.WE_FLAGS_DONE_OVF.at (mdOff n.val))
      let s := if dTrigOut d then s.ctrAdd (n.val / 2) (nbits (dWord d 1) 53 44) 1 else s
      s.weTell n.val (dSeq d) 0
    | _ => s)

/-! ## Commit actions (R143-R149) -/

/-- The commit of epoch `e` reached an engine: its apply is owed (R146, R149). -/
def State.weCommitted (s : State) (n e : Nat) : State := s.putWeng n { s.weng n with owed := some e, stuck := false }

/-- The abort of epoch `e` discards its actions (R146). -/
def State.weAborted (s : State) (n e : Nat) : State :=
  let w := s.weng n
  let gone := (w.acts.filter (fun a => dEpoch a.desc == e)).length
  let s := s.putWeng n { w with acts := w.acts.filter (fun a => dEpoch a.desc != e) }
  if gone = 0 then s else s.bump (R.WE_EVENTS2_ABORT_DISCARD.at (mdOff n)) (R.WE_FLAGS_DISCARD_OVF.at (mdOff n)) gone

/-- `EPOCH_APPLY`: after the running descriptor, the apply starts, and the list is read (R146, R156). -/
def execEpochApply (n : Fin 8) (s : State) : Res :=
  .next (let w := s.weng n.val
    if w.owed.isSome ∧ !w.stuck ∧ w.run.isNone ∧ s.weState n.val ≠ 5 ∧ s.weState n.val ≠ 3 ∧ s.dom.worksRst = false then
      (s.listRead n.val).setWeState n.val 3
    else s)

/-- The next action of an apply: its place in the list. -/
def We.nextAct (w : We) (e : Nat) : Option (Nat × List Nat) :=
  match w.acts.findIdx? (fun a => dEpoch a.desc == e && !a.done) with
  | some i => some (i, (w.acts.getD i ⟨[], true⟩).desc)
  | none => none

/-- Slot `k` of a W, M or V operand of E elements (R145). -/
def Berth.slot (b : Berth) (e k : Nat) : Berth := { b with base := b.base + 4 * e * k, length := 4 * e, rowElems := e }

/-- One element of a commit action: w, m and v (R145); `g0` is the gradient in binary32. -/
def optElem (d : List Nat) (r g0 wo mo vo : Nat) : Nat × Nat × Nat :=
  let p := dPar d
  if dOp d = 0x10 then
    let g := mul32 (mul32 g0 (p 3)) r
    let m := add32 (mul32 (p 1) mo) g
    let u := if dSub d = 1 then add32 g (mul32 (p 1) m) else m
    (sub32 wo (mul32 (p 0) (add32 u (mul32 (p 2) wo))), m, 0)
  else
    let g := mul32 (mul32 g0 (p 9)) r
    let m := add32 (mul32 (p 1) mo) (mul32 (p 2) g)
    let v := add32 (mul32 (p 3) vo) (mul32 (p 4) (mul32 g g))
    let den := add32 (sqrt32 (mul32 v (p 8))) (p 5)
    (sub32 wo (mul32 (p 0) (add32 (div32 (mul32 m (p 7)) den) (mul32 (p 6) wo))), m, v)

/-- Flags of a binary32 result that is NaN or infinite. -/
def flags32 (c : Nat) : OutFlags :=
  match f32 c with
  | .nan => { rf := { nan := true } }
  | .inf _ => { rf := { inf := true } }
  | .fin _ => {}

/-- The work of a commit action of epoch `e` (R145). -/
def State.weOpt (s : State) (n : Nat) (d : List Nat) (e : Nat) : Except Nat Unit × State :=
  let o := dOpnd d
  let E := (o 0).length / 8
  let gi := if dOp d = 0x10 then 2 else 3
  let so := (e + 1) % 2
  let sn := e % 2
  let row := fun (b : Berth) => b.coords E
  let rd := fun (s : State) (b : Berth) => s.weRead n b (row b) true
  bindR (rd s ((o 0).slot E so)) fun wo s =>
  bindR (rd s ((o 1).slot E so)) fun mo s =>
  bindR (if gi = 3 then rd s ((o 2).slot E so) else (.ok [], s)) fun vo s =>
  bindR (rd s (o gi)) fun gs s =>
  bindR (if (o 5).valid then s.weRead n (o 5) [(0, 0)] true else (.ok [0x3F800000], s)) fun rs s =>
    let out := gs.zipIdx.map fun (g, i) =>
      optElem d (rs.getD 0 0x3F800000) (rne32 (elemValue (o gi).fmt g)) (wo.getD i 0) (mo.getD i 0) (vo.getD i 0)
    let ws := out.map (·.1)
    bindR (s.weWrite n ((o 0).slot E sn) [⟨0, 0, ws⟩] true) fun _ s =>
    bindR (s.weWrite n ((o 1).slot E sn) [⟨0, 0, out.map (·.2.1)⟩] true) fun _ s =>
    bindR (if gi = 3 then s.weWrite n ((o 2).slot E sn) [⟨0, 0, out.map (·.2.2)⟩] true else (.ok (), s)) fun _ s =>
      let s := s.weStatus n (orFlags (out.map fun (w, m, v) => (flags32 w).or ((flags32 m).or (flags32 v))))
      if !(o 4).valid then (.ok (), s)
      else if (o 4).scaleEn then s.weQuant n d (o 4) (o (o 4).scaleBerth) true (E / 32 + 1) 0 (ws.map f32)
      else s.weEmit n d (o 4) none (ws.map f32) true

/-- The next action of the apply runs from element 0 (R146, R149); its completion counts in `TRIG_OUT` (R128). -/
def State.weAction (s : State) (n op : Nat) : State :=
  let w := s.weng n
  match w.owed with
  | none => s
  | some e =>
    match w.nextAct e with
    | none => s
    | some (i, d) =>
      if s.weState n ≠ 3 ∨ dOp d ≠ op then s
      else
        match s.weOpt n d e with
        | (.ok _, s) =>
          let w := s.weng n
          let s := s.putWeng n { w with acts := w.acts.modify i fun a => { a with done := true } }
          if dTrigOut d then s.ctrAdd (n / 2) (nbits (dWord d 1) 53 44) 1 else s
        | (.error a, s) =>
          let s := (s.weCapture n 0x0613 (dSeq d) (s.globalAddr a)).weHalt n
          (s.setWeng n { s.weng n with stuck := true }).report (0x0210 + n) .applyLost e (s.globalAddr a)

/-- `OPT_SGDM`. -/
def execOptSgdm (n : Fin 8) (s : State) : Res := .next (s.weAction n.val 0x10)
/-- `OPT_ADAMW`. -/
def execOptAdamw (n : Fin 8) (s : State) : Res := .next (s.weAction n.val 0x11)

/-- `APPLIED`: the last action is done (R146); the runtime controller then sees no apply owed (R147). -/
def execApplied (n : Fin 8) (s : State) : Res :=
  .next (let w := s.weng n.val
    match w.owed with
    | some e =>
      if s.weState n.val = 3 ∧ (w.nextAct e).isNone then
        let s := s.putWeng n.val { w with owed := none, acts := w.acts.filter (fun a => dEpoch a.desc != e) }
        (s.fset (R.WE_APPLY_EPOCH.at (mdOff n.val)) e).weRest n.val
      else s
    | none => s)

end Sys2Proof.Machine
end

