-- ==== Sys2Proof/Machine/Epochs.lean ====
section
/-! DEFINITION. Epochs across a job (R229-R237): votes, the coordinator's decisions, commit and abort at a member, queries. -/

namespace Sys2Proof.Machine

/-! ## Rings as epochs see them (R218, R243) -/

/-- A field of a ring. -/
def State.rf (s : State) (r : Nat) (f : Fld) : Nat := s.fget (f.at (ringOff r))
/-- Is a flag of a ring set? -/
def State.rflag (s : State) (r : Nat) (f : Fld) : Bool := s.flag (f.at (ringOff r))
/-- A ring. -/
def State.ring (s : State) (r : Nat) : Ring := vget .reset s.rings r
/-- The state with a ring replaced. -/
def State.setRing (s : State) (r : Nat) (x : Ring) : State := { s with rings := vput s.rings r x }
/-- Is a ring STOPPED: enabled, with a stop cause (R243)? -/
def State.ringStopped (s : State) (r : Nat) : Bool := s.rflag r R.RING_CFG_EN && s.rf r R.RING_STATUS_STOP_CAUSE != 0

/-- An enabled ring stops with a cause: its batches are dropped, and `RING_STOPPED` is sent (R218, R242, R243). -/
def State.stopRing (s : State) (r cause idx : Nat) : State :=
  if !s.rflag r R.RING_CFG_EN ∨ s.ringStopped r then s
  else
    let s := (s.fset (R.RING_STATUS_STOP_CAUSE.at (ringOff r)) cause).fset (R.RING_STATUS_STOP_IDX.at (ringOff r)) idx
    let s := s.setRing r { s.ring r with cur := none, queued := [] }
    s.event s.rcSource 0x0986 (leBytes 1 r ++ leBytes 1 cause ++ [0, 0] ++ leBytes 4 idx)

/-! ## The open attempt (R229, R244) -/

/-- ESTATE: 0 NO_JOB, 1 OPEN, 2 VOTED, 3 COMMITTING, 4 ABORTING. -/
def State.estate (s : State) : Nat := s.fget R.EPOCH_STATUS_ESTATE
/-- Attempt of the open epoch. -/
def State.attempt (s : State) : Nat := s.fget R.EPOCH_STATUS_ATTEMPT
/-- The open epoch, C + 1. -/
def State.openE (s : State) : Nat := s.epochC + 1

/-- The job digest of R220. -/
def jobDigest (id members : Nat) (dest : List Nat) : BitVec 64 :=
  (dest.take members).foldl (fun z d => mix64 (z ^^^ BitVec.ofNat 64 d)) (mix64 (BitVec.ofNat 64 (id + members * 2 ^ 32)))

/-- The interlock's mirror follows the open attempt (R234). -/
def State.syncMirror (s : State) : State :=
  { s with mirror := if s.job.active then
      ⟨true, s.job.id, s.job.digest, s.openE, s.attempt, s.job.dest.getD 0 0, s.estate != 1⟩ else .none }

/-- Change what the model keeps of an epoch beyond its registers. -/
def State.epMod (s : State) (f : Epoch → Epoch) : State := { s with epoch := f s.epoch }

/-- Set ESTATE; the mirror follows. -/
def State.setEstate (s : State) (v : Nat) : State := (s.fset R.EPOCH_STATUS_ESTATE v).syncMirror

/-! ## Barrier messages (R231) -/

/-- The 32 bytes of a barrier message of this package. -/
def State.barBody (s : State) (type e a cause : Nat) : List Byte :=
  leBytes 1 type ++ [0] ++ leBytes 2 s.job.rank ++ leBytes 4 s.job.id ++ leBytes 4 e ++ leBytes 2 a ++ leBytes 2 cause
    ++ leBytes 8 s.job.digest.toNat ++ List.replicate 8 0

/-- A barrier message travels as a TC0 message to a package. -/
def State.barSend (s : State) (dest : Nat) (body : List Byte) : State :=
  s.sendPkt (s.mkPkt { type := 4, tc := 0, svc := 0, dest := dest, addr := 1, payload := body })

/-- Send to a rank. -/
def State.barTo (s : State) (rank type e a cause : Nat) : State :=
  s.barSend (s.job.dest.getD rank 0) (s.barBody type e a cause)

/-- The record of a decision. -/
def Epoch.record (x : Epoch) (e a : Nat) : Option Decision := x.decided.find? fun d => d.epoch == e && d.attempt == a

/-- Is (e, a) an earlier decided attempt? -/
def State.earlier (s : State) (e a : Nat) : Bool :=
  decide (e ≤ s.epochC) || (e == s.openE && decide (a < s.attempt)) || (s.epoch.record e a).isSome

/-- A message that names another job or attempt (R231): QUERY and decisions, with the acknowledge of one, may name an earlier attempt. -/
def State.barStray (s : State) (m : BarMsg) : Bool :=
  !s.job.active || m.jobId != s.job.id || m.digest != s.job.digest || decide (s.job.members ≤ m.rank)
    || !((m.epoch == s.openE && m.attempt == s.attempt) || (decide (3 ≤ m.type ∧ m.type ≤ 6) && s.earlier m.epoch m.attempt))

/-- A barrier message is dropped and counted in STRAY. -/
def State.countStray (s : State) : State := s.bump R.EPOCH_STRAY_STRAY R.EPOCH_STRAY_STRAY_OVF

/-! ## Commit and abort at a member (R233, R235) -/

/-- `member_commit` (R233): every base die sets C, the engines owe their applies, `EPOCH_COMMITTED` goes out. -/
def State.memberCommit (s : State) (e a : Nat) : State :=
  let s := (s.fset R.EPOCH_STATUS_COMMITTED e).fset R.EPOCH_STATUS_ATTEMPT 0
  let s := (List.range 8).foldl (fun s n => s.weCommitted n e) s
  let s := s.epMod fun x => { x with firstFail := 0, doneMask := [], anyVote := false, votesLost := false, drained := false,
                                      applied := ⟨e, a, true, 0, 0⟩ :: x.applied }
  let s := s.bump R.EPOCH_EVENTS_COMMITS R.EPOCH_STRAY_COMMITS_OVF
  let s := s.collsCommit
  (s.event s.rcSource 0x0981 (leBytes 4 e ++ leBytes 2 a)).setEstate 1

/-- A running command of an epoch whose attempt ends in an abort is closed: it will complete with EPOCH_ABORTED (R235). -/
def Ring.closeEpoch (x : Ring) (e : Nat) : Ring :=
  { x with run := x.run.map fun u => if u.epoch = e ∧ e ≠ 0 then { u with closed := true } else u }

/-- Steps 1 to 3 of R235: the attempt's collectives end, every job ring without NO_EPOCH stops, the drain starts. -/
def State.memberAbort (s : State) (cause rank : Nat) : State :=
  let s := ((s.fset R.EPOCH_CAUSE_EPOCH s.openE).fset R.EPOCH_CAUSE_RANK rank).fset R.EPOCH_CAUSE_CAUSE cause
  let s := s.epMod fun x => { x with cause := cause, causeRank := rank, drained := false }
  let s := (s.setEstate 4).collsEnd
  let s := { s with rings := s.rings.map (·.closeEpoch s.openE) }
  ((List.range 64).filter fun r => s.rflag r R.RING_CFG_JOB && !s.rflag r R.RING_CFG_NO_EPOCH).foldl
    (fun s r => s.stopRing r 2 (s.rf r R.RING_IDX_RD_IDX)) s

/-- The sweep of R235 over the units of the job's regions. -/
def sweepUnits (e : Nat) (t : Tab UnitMeta) : Tab UnitMeta :=
  t.map fun (k, m) => if m.reg && m.tag == e then (k, { m with sel := !m.sel, tag := 0 }) else (k, m)

/-- Steps 6 to 8 of R235: sweep, discard of the commit actions, the epoch reopens as the next attempt, `EPOCH_ABORTED`. -/
def State.reopen (s : State) : State :=
  let e := s.openE
  let a := s.attempt
  let old := s.umeta
  let s := { s with umeta := sweepUnits e old }.metaClean fun u => old.any fun x => x.1 == u && x.2.reg && x.2.tag == e
  let s := (List.range 8).foldl (fun s n => s.weAborted n e) s
  let s := s.collsEnd
  let s := s.fset R.EPOCH_STATUS_ATTEMPT (a + 1)
  let x := s.epoch
  let s := s.epMod fun x => { x with firstFail := 0, doneMask := [], anyVote := false, votesLost := false, drained := false,
                                      jobEnd := false, applied := ⟨e, a, false, x.cause, x.causeRank⟩ :: x.applied }
  let s := s.bump R.EPOCH_EVENTS_ABORTS R.EPOCH_STRAY_ABORTS_OVF
  (s.event s.rcSource 0x0982 (leBytes 4 e ++ leBytes 2 a ++ leBytes 2 x.cause ++ leBytes 2 x.causeRank)).setEstate 1

/-! ## The coordinator (R232) -/

/-- Send a decision to a rank. -/
def State.tell (s : State) (r : Nat) (d : Decision) : State := s.barTo r (if d.commit then 3 else 4) d.epoch d.attempt d.cause

/-- Send a decision to every other rank, to be sent again until it is acknowledged or EPOCH_TIMEOUT passes. -/
def State.tellAll (s : State) (d : Decision) : State :=
  let until_ := s.rtime + 1000000 * s.od D.EPOCH_TIMEOUT
  let rs := (List.range s.job.members).drop 1
  let s := s.epMod fun x => { x with unacked := x.unacked ++ rs.map fun r => (r, d, until_) }
  rs.foldl (fun s r => s.tell r d) s

/-- `decide`: the record is written, the decision is applied here, and sent to every other rank. -/
def State.decide_ (s : State) (commit : Bool) (cause rank : Nat) : State :=
  let d : Decision := ⟨s.openE, s.attempt, commit, cause, rank⟩
  let s := s.epMod fun x => { x with decided := d :: x.decided }
  let s := if commit then s.memberCommit d.epoch d.attempt else s.memberAbort cause rank
  s.tellAll d

/-- `on_vote` for the open attempt. Votes that come after the ones held were lost get the presumed abort (R236). -/
def State.onVote (s : State) (abort : Bool) (rank cause : Nat) : State :=
  match s.epoch.record s.openE s.attempt with
  | some d => if rank = s.job.rank then s else s.tell rank d
  | none =>
    if abort then s.decide_ false cause rank
    else if s.epoch.votesLost then s.decide_ false 0x0910 rank
    else
      let s := s.epMod fun x => { x with doneMask := if x.doneMask.contains rank then x.doneMask else x.doneMask ++ [rank], anyVote := true }
      if s.job.members ≤ s.epoch.doneMask.length then s.decide_ true 0 0 else s

/-- `on_query`. -/
def State.onQuery (s : State) (e a rank : Nat) : State :=
  let reply := fun (s : State) (d : Decision) => if rank = s.job.rank then s else s.tell rank d
  if e ≤ s.epochC then reply s ⟨e, a, true, 0, 0⟩
  else
    match s.epoch.record e a with
    | some d => reply s d
    | none => if s.epoch.doneMask.isEmpty then s.decide_ false 0x0910 rank else s

/-! ## The package's vote (R230, R234) -/

/-- Cast this package's vote on the open attempt. -/
def State.cast (s : State) (abort : Bool) (cause : Nat) : State :=
  let s := s.setEstate 2
  if s.job.rank = 0 then s.onVote abort 0 cause
  else s.barTo 0 (if abort then 2 else 1) s.openE s.attempt (if abort then cause else 0)

/-- The interlock votes ABORT for a package that has not voted (R234). -/
def State.ilVote (s : State) (cause : Nat) : State :=
  if s.mirror.active ∧ !s.mirror.voted then s.cast true cause else s

/-- A reset of the member before its vote (R234, R236): the interlock sends VOTE_ABORT, and the abort of R235 completes at WORKS exit.
The coordinator's own vote decides. -/
def State.resetVote (s : State) : State :=
  if s.mirror.active ∧ !s.mirror.voted then
    if s.job.rank = 0 then s.decide_ false 0x0910 0
    else (s.barTo 0 2 s.openE s.attempt 0x0910).memberAbort 0x0910 s.job.rank
  else s

/-! ## Rows of the barrier -/

/-- The first message of a type in the inbox, and the rest. -/
def takeBar (t : Nat) : List BarMsg → Option (BarMsg × List BarMsg)
  | [] => none
  | m :: l => if m.type = t then some (m, l) else (takeBar t l).map fun (k, r) => (k, m :: r)

/-- The active controller takes a barrier message of a type; `coord` tells whether it is one for the coordinator. A message for the
other role, for another job or for another attempt is dropped and counted. -/
def State.barRow (s : State) (t : Nat) (coord : Bool) (body : State → BarMsg → State) : State :=
  if !s.rcServes then s
  else
    match takeBar t s.barInbox with
    | none => s
    | some (m, l) =>
      let s := { s with barInbox := l }
      if s.barStray m ∨ coord ≠ (s.job.rank == 0) then s.countStray else body s m

/-- `VOTE_DONE`. -/
def execVoteDone (s : State) : Res := .next (s.barRow 1 true fun s m => s.onVote false m.rank 0)
/-- `VOTE_ABORT`. -/
def execVoteAbort (s : State) : Res := .next (s.barRow 2 true fun s m => s.onVote true m.rank m.cause)

/-- Has this member applied a decision on (e, a), or started to? -/
def State.settled (s : State) (e a : Nat) : Bool :=
  decide (e ≤ s.epochC) || (e == s.openE && decide (a < s.attempt)) || (e == s.openE && a == s.attempt && s.estate == 4)

/-- Decisions that arrived while WORKS was in reset take effect at its exit (R149); their messages wait for the controller, which
acknowledges them. -/
def State.heldDecisions (s : State) : State :=
  s.barInbox.foldl (fun s m =>
    if s.barStray m ∨ s.job.rank = 0 ∨ s.settled m.epoch m.attempt then s
    else if m.type = 3 then s.memberCommit m.epoch m.attempt
    else if m.type = 4 then
      let (v, s) := s.draw
      s.memberAbort m.cause (v.toNat % 65536)
    else s) s

/-- `DECIDE_COMMIT`. -/
def execDecideCommit (s : State) : Res :=
  .next (s.barRow 3 false fun s m =>
    (if s.settled m.epoch m.attempt then s else s.memberCommit m.epoch m.attempt).barTo 0 6 m.epoch m.attempt 0)

/-- `DECIDE_ABORT`. The decision does not carry the rank that caused it, which the member's event and register show: a free value
(log entry 13). -/
def execDecideAbort (s : State) : Res :=
  .next (s.barRow 4 false fun s m =>
    let s := if s.settled m.epoch m.attempt then s
      else
        let (v, s) := s.draw
        s.memberAbort m.cause (v.toNat % 65536)
    s.barTo 0 6 m.epoch m.attempt 0)

/-- `QUERY`. A package with no job has lost the record that the query asks about, and answers UNKNOWN (R236). -/
def execQuery (s : State) : Res :=
  .next (
    if s.job.active then s.barRow 5 true fun s m => s.onQuery m.epoch m.attempt m.rank
    else if !s.rcServes then s
    else
      match takeBar 5 s.barInbox with
      | none => s
      | some (m, l) =>
        ({ s with barInbox := l }).barSend m.src (leBytes 1 7 ++ [0, 0, 0] ++ leBytes 4 m.jobId ++ leBytes 4 m.epoch
          ++ leBytes 2 m.attempt ++ [0, 0] ++ leBytes 8 m.digest.toNat ++ List.replicate 8 0))

/-- `BARRIER_ACK`. -/
def execBarrierAck (s : State) : Res :=
  .next (s.barRow 6 true fun s m =>
    s.epMod fun x => { x with unacked := x.unacked.filter fun (r, d, _) => !(r == m.rank && d.epoch == m.epoch && d.attempt == m.attempt) })

/-- `UNKNOWN`: the member stays VOTED, and `EPOCH_IN_DOUBT` goes out. -/
def execUnknown (s : State) : Res := .next (s.barRow 7 false fun s m => s.event s.rcSource 0x0983 (leBytes 4 m.epoch))

/-- `EPOCH_TIMEOUT`: the vote timer of the open attempt expires at the coordinator. -/
def execEpochTimeout (s : State) : Res :=
  .next (
    if s.rcServes ∧ s.job.active ∧ s.job.rank = 0 ∧ s.epoch.anyVote ∧ (s.epoch.record s.openE s.attempt).isNone then
      s.decide_ false 0x090E (((List.range s.job.members).find? fun r => !s.epoch.doneMask.contains r).getD 0)
    else s)

/-- `DECIDE_RESEND`: decisions not acknowledged go out again, until EPOCH_TIMEOUT after they were taken. -/
def execDecideResend (s : State) : Res :=
  .next (
    if !s.rcServes then s
    else
      let s := s.epMod fun x => { x with unacked := x.unacked.filter fun (_, _, t) => decide (s.rtime < t) }
      s.epoch.unacked.foldl (fun s (r, d, _) => s.tell r d) s)

/-- `QUERY_REPEAT`: a VOTED member asks; a coordinator asks itself (R233, R236). -/
def execQueryRepeat (s : State) : Res :=
  .next (
    if s.rcServes ∧ s.job.active ∧ s.estate = 2 then
      (if s.job.rank = 0 then s.onQuery s.openE s.attempt 0 else s.barTo 0 5 s.openE s.attempt 0)
    else s)

end Sys2Proof.Machine
end

