-- ==== Sys2Proof/Machine/Power.lean ====
section
/-! DEFINITION. The governor (R363-R390): its target, limits, caps, smoothing, hints and buffer stop. Powers are computed in
hundredths of a watt, so that SLEW in W/ms is the change allowed in one tick of 10 µs. -/

namespace Sys2Proof.Machine

/-! ## Registers and dictionary (R374, R387, R389) -/

/-- Offset of the registers of a die in the power block. -/
def diePwr (d : Nat) : Nat := 0x100 * d
/-- The governor's fault and event source (R417). -/
def govSource : Nat := 0x0600
/-- Change the governor. -/
def State.govMod (s : State) (f : Gov → Gov) : State := { s with gov := f s.gov }
/-- Is PWR_ALERT_N asserted? -/
def State.alert (s : State) : Bool := !s.gov.alerts.isEmpty || s.gov.alertExt
/-- Is a thermal force active (R408)? -/
def State.thermForce (s : State) : Bool := s.flag R.THERM_STATUS_FORCE
/-- STATE of the governor: 0 OFF, 1 RUN, 2 STAGGER, 3 BUFFER_STOP, 4 BS_HOLD. -/
def State.govState (s : State) : Nat := s.fget R.PWR_STATUS_STATE
/-- Is the package in buffer stop or its hold? It may be while LINE is in reset too (R381). -/
def State.inBs (s : State) : Bool := s.gov.held
/-- PMAX in W (R375). -/
def pMax : Nat := 1400
/-- Setpoint ceiling in mV (R371). -/
def State.ceiling (s : State) : Nat := if s.flag R.BOOT_STATUS_SHUNTING then 550 else 790

/-- The pins, which read in PWR_STATUS unless LINE is in reset (R366, R387): PWR_ALERT_N and who pulls it, and a blade at 44 V or more
by the input voltage measured last, unless it is lost or row 1 or 2 of R366 has begun since. -/
def State.pinFlags (s : State) : State :=
  if s.dom.lineRst then s
  else
    let s := (s.setFlag R.PWR_STATUS_ALERT s.alert).setFlag R.PWR_STATUS_ALERT_OWN (!s.gov.alerts.isEmpty)
    let s := s.setFlag R.PWR_STATUS_ALERT_EXT s.gov.alertExt
    let low := s.gov.alerts.contains 1 || s.gov.alerts.contains 2 || decide (s.fget R.PWR_INPUT_VIN < 4400)
    let s := s.setFlag R.PWR_STATUS_BLADE_A (!low && nbit s.gov.lost 0 == 0)
    s.setFlag R.PWR_STATUS_BLADE_B (!low && nbit s.gov.lost 1 == 0)

/-- An effective value follows its entry: up at once, down at SLEW (R374). -/
def ease (now target slew : Nat) : Nat := if now ≤ target then target else max target (now - slew)

/-- Hundredths of a watt as whole watts, not below the value. -/
def wattsUp (cw : Nat) : Nat := (cw + 99) / 100

/-- START_INDEX in force: the entry, or the slot, or 95 while the tray number is unset (R378). -/
def State.startIndex (s : State) : Nat :=
  let v := s.od D.START_INDEX
  if v ≠ 0xFF then v else if s.od D.TRAY_NO = 0xFF then 95 else s.ownId - 0x010

/-- Does the floor apply under `FLOOR_MODE` (R377)? -/
def State.floorOn (s : State) : Bool :=
  let m := s.fget R.PWR_SMOOTH_FLOOR_MODE
  m == 1 || (m == 2 && s.job.active)

/-- The flags FLOOR_ON and VCEIL follow what they show, in buffer stop too, unless LINE is in reset (R371, R387). -/
def State.liveFlags (s : State) : State :=
  if s.dom.lineRst then s
  else (s.setFlag R.PWR_STATUS_FLOOR_ON s.floorOn).setFlag R.PWR_STATUS_VCEIL (s.flag R.BOOT_STATUS_SHUNTING)

/-- The registers of the effective values. -/
def State.effRegs (s : State) : State :=
  let g := s.gov
  let s := (s.fset R.PWR_LIMITS_PEAK_W (wattsUp g.ePeak)).fset R.PWR_LIMITS_AVG_W (wattsUp g.eAvg)
  (s.fset R.PWR_CAPS_OPER_CAP (wattsUp g.eOper)).fset R.PWR_CAPS_ORPHAN_CAP (wattsUp g.eOrphan)

/-- The entries load into the latched registers, and a limit or cap that rises takes effect at once (R374, R389), whatever LINE's state. A
package in buffer stop loads nothing. The latched registers serve on while SIGNAL is in reset. -/
def State.govEntries (s : State) : State :=
  if s.inBs || s.dom.signalRst then s
  else
    let s := s.fset R.PWR_LIMITS_PEAK_WIN (s.od D.PEAK_WINDOW_US / 10)
    let s := s.fset R.PWR_LIMITS_AVG_WIN (s.od D.AVG_WINDOW_MS / 10)
    let s := (s.fset R.PWR_LIMITS_PEAK_EN (s.od D.LIMIT_MODE)).fset R.PWR_LIMITS_AVG_EN (s.od D.LIMIT_MODE / 2)
    let s := (s.fset R.PWR_SMOOTH_SLEW (s.od D.SLEW_W_PER_MS)).fset R.PWR_SMOOTH_FLOOR_W (s.od D.FLOOR_W)
    let s := (s.fset R.PWR_SMOOTH_FLOOR_MODE (s.od D.FLOOR_MODE)).fset R.PWR_SMOOTH_STAGGER_STEP (s.od D.STAGGER_STEP_US / 100)
    let s := s.fset R.PWR_SMOOTH_START_INDEX s.startIndex
    let s := s.govMod fun g => { g with ePeak := max g.ePeak (100 * s.od D.PEAK_LIMIT_W), eAvg := max g.eAvg (100 * s.od D.AVG_LIMIT_W),
                                        eOper := max g.eOper (100 * s.od D.OPER_CAP_W) }
    s.effRegs.liveFlags

/-- The effective values fall at SLEW in a tick (R374, R375, R377). -/
def State.govEase (s : State) : State :=
  if s.inBs then s
  else
    let slew := s.fget R.PWR_SMOOTH_SLEW
    let live := !s.dom.signalRst
    let s := s.govMod fun g => { g with
      ePeak := if live then ease g.ePeak (100 * s.od D.PEAK_LIMIT_W) slew else g.ePeak,
      eAvg := if live then ease g.eAvg (100 * s.od D.AVG_LIMIT_W) slew else g.eAvg,
      eOper := if live then ease g.eOper (100 * s.od D.OPER_CAP_W) slew else g.eOper,
      eOrphan := ease g.eOrphan (100 * g.orphan) slew,
      eFloor := ease g.eFloor (if s.floorOn then 100 * s.fget R.PWR_SMOOTH_FLOOR_W else 0) slew }
    s.effRegs

/-- What a tick does with the entries and the effective values. -/
def State.govLoad (s : State) : State := s.govEntries.govEase.liveFlags

/-- The entries that load into the governor's registers, and the tray number behind START_INDEX (R378, R390). -/
def govKeys : List Nat :=
  [D.PEAK_LIMIT_W, D.PEAK_WINDOW_US, D.AVG_LIMIT_W, D.AVG_WINDOW_MS, D.LIMIT_MODE, D.SLEW_W_PER_MS, D.FLOOR_W, D.FLOOR_MODE,
   D.STAGGER_STEP_US, D.START_INDEX, D.OPER_CAP_W, D.TRAY_NO]

/-- The least of the five caps in W (R375). -/
def State.capsW (s : State) : Nat :=
  min (min (min pMax (s.fget R.PWR_CAPS_THERM_CAP)) (s.fget R.PWR_CAPS_BLADE_CAP))
    (min (s.fget R.PWR_CAPS_OPER_CAP) (s.fget R.PWR_CAPS_ORPHAN_CAP))

/-- May an event limited to one a second go out again? -/
def State.oncePerS (s : State) (code : Nat) (body : State → State) : State :=
  if s.gov.bindAt.any fun e => e.1 == code && decide (s.rtime < e.2 + 1000000000) then s
  else body (s.govMod fun g => { g with bindAt := (code, s.rtime) :: g.bindAt.filter (·.1 != code) })

/-! ## Start events (R378) -/

/-- A start event: STAGGER, with the target at its present value. -/
def State.startEvent (s : State) : State :=
  let hold := s.fget R.PWR_SMOOTH_START_INDEX * 100000 * s.fget R.PWR_SMOOTH_STAGGER_STEP
  (s.fset R.PWR_STATUS_STATE 2).govMod fun g => { g with stagger := s.rtime + hold, started := true }

/-- Completion of `JOB_LAUNCH` is a start event, except in buffer stop and while the governor is OFF. -/
def State.launchStart (s : State) : State := if s.govState = 1 ∨ s.govState = 2 then s.startEvent else s

/-- `STAGGER_END`: the hold ends, and the governor enters RUN. -/
def execStaggerEnd (s : State) : Res :=
  .next (
    if s.govState = 2 ∧ s.gov.stagger ≤ s.rtime then
      let s := s.fset R.PWR_STATUS_STATE 1
      -- phase 3 of PWR_BUFFER_STOP ends the stagger that followed a buffer stop
      if s.gov.bsAt = 0 then s
      else
        (s.event govSource 0x0C80 (leBytes 1 s.gov.cause ++ [3, 0, 0] ++ leBytes 2 (s.fget R.PWR_INPUT_VIN)
          ++ leBytes 2 (s.fget R.PWR_NOW_TICK_W))).govMod fun g => { g with bsAt := 0 }
    else s)

/-! ## Hints (R379) -/

/-- The fields of PWR_HINT and HINT_ON that follow the held hints; buffer stop suspends their floors and ramps (R381). -/
def State.hintRegs (s : State) : State :=
  let now := s.rtime
  let off := s.od D.HINT_FLOOR_MAX_W == 0 || s.inBs
  let bit := fun k => if s.gov.hints.any (·.kind == k) then 2 ^ (k - 1) else 0
  let floor := (s.gov.hints.filter fun h => h.kind != 2 && decide (h.start ≤ now ∧ now < h.ends) && !off).map fun h => h.ph.getD 0
  let ramp := (s.gov.hints.filter fun h => h.kind == 1 && decide (h.ramp ≤ now ∧ now < h.start) && !off).map fun h => h.ph.getD 0
  let s := s.fset R.PWR_HINT_HELD (bit 1 + bit 2 + bit 3)
  let s := (s.fset R.PWR_HINT_HINT_FLOOR_W (floor.foldl max 0 / 100)).fset R.PWR_HINT_RAMP_W (ramp.foldl max 0 / 100)
  s.setFlag R.PWR_STATUS_HINT_ON (!s.gov.hints.isEmpty)

/-- A hint arrives at the governor. -/
def State.govHint (s : State) (kind start durUs powerW : Nat) : State :=
  if s.dom.lineRst then s
  else
    let s := s.fset R.PWR_HINT_KIND kind
    if kind = 4 then (s.govMod fun g => { g with hints := [] }).hintRegs
    else
      let st := max start s.rtime
      let en := st + (if durUs = 0 then 1000000 * s.od D.HINT_EXPIRY_MS else durUs * 1000)
      let ph := if powerW = 0 then none else some (100 * min (min powerW (s.od D.HINT_FLOOR_MAX_W)) s.capsW)
      let ramp := match ph with
        | some p => st - (p - s.gov.t) * 10000 / max 1 (s.fget R.PWR_SMOOTH_SLEW)
        | none => st
      (s.govMod fun g => { g with hints := g.hints.filter (·.kind != kind) ++ [⟨kind, st, en, ramp, ph⟩] }).hintRegs

/-- `JOB_END` clears every hint. -/
def State.clearHints (s : State) : State :=
  if s.dom.lineRst then s else (s.govMod fun g => { g with hints := [] }).hintRegs

/-- What becomes of the held hints at a tick: a light phase that has started ends the hint floors in force at its START and is spent, an
open Ph takes the target at START, and hints past their end go. -/
def hintStep (now t : Nat) (l : List Hint) : List Hint :=
  let light := l.find? fun h => h.kind == 2 && decide (h.start ≤ now)
  let spent := fun (h : Hint) => match light with
    | some x => decide (h.start ≤ x.start)
    | none => false
  let l := l.filter fun h => !spent h && decide (now < h.ends)
  l.map fun h => if h.ph.isNone ∧ h.start ≤ now then { h with ph := some t } else h

/-- The hint floor in hundredths of a watt. -/
def State.hintFloor (s : State) : Nat :=
  if s.od D.HINT_FLOOR_MAX_W = 0 then 0
  else ((s.gov.hints.filter fun h => h.kind != 2 && decide (h.start ≤ s.rtime)).map fun h => h.ph.getD 0).foldl max 0

/-- Ph during the pre-ramp of a heavy hint, else 0. -/
def State.hintRamp (s : State) : Nat :=
  if s.od D.HINT_FLOOR_MAX_W = 0 then 0
  else ((s.gov.hints.filter fun h => h.kind == 1 && decide (h.ramp ≤ s.rtime ∧ s.rtime < h.start)).map fun h => h.ph.getD 0).foldl max 0

/-! ## Rates and setpoints (R79, R380) -/

/-- The table of R79 in M issues/s: rows 0.45 V to 0.80 V in steps of 50 mV, columns 25, 50, 70, 90 and 105 °C. -/
def rateTable : List (List Nat) :=
  [[520, 560, 600, 630, 650], [800, 840, 870, 890, 900], [1220, 1270, 1300, 1310, 1310], [1600, 1620, 1620, 1610, 1600],
   [1950, 1930, 1920, 1890, 1860], [2300, 2250, 2200, 2140, 2090], [2520, 2460, 2400, 2330, 2270], [2710, 2640, 2570, 2490, 2430]]

/-- The columns that surround a temperature in 1/64 K: one at an entry, two between entries, none outside the table. -/
def rateCols (t : Int) : List Nat :=
  let cs : List Int := [25, 50, 70, 90, 105]
  (List.range 5).filter fun i =>
    let c := 64 * cs.getD i 0
    decide (64 * 25 ≤ t ∧ t ≤ 64 * 105) &&
      (decide (c = t) || (decide (c < t) && decide (t < 64 * cs.getD (i + 1) 0)) || (decide (t < c) && decide (64 * cs.getD (i - 1) 0 < t)))

/-- The rows that surround a setpoint in mV. -/
def rateRows (v : Nat) : List Nat :=
  if v < 450 then [] else if (v - 450) % 50 = 0 then [(v - 450) / 50] else [(v - 450) / 50, (v - 450) / 50 + 1]

/-- The rate that R79 promises at a setpoint and temperature: the lowest of the surrounding entries; none outside the table. -/
def rateAt (v : Nat) (t : Int) : Option Nat :=
  match (rateRows v).flatMap fun r => (rateCols t).map fun c => (rateTable.getD r []).getD c 0 with
  | [] => none
  | x :: l => some (l.foldl min x)

/-- The coasting setpoint for a target in M issues/s: the lowest 5 mV step whose rate is at least 1.02 X; none where R79 promises
no rate at this temperature. -/
def coastSet (x : Nat) (t : Int) : Option Nat :=
  ((List.range 69).map fun i => 450 + 5 * i).find? fun v =>
    match rateAt v t with
    | some r => decide (102 * x ≤ 100 * r)
    | none => false

/-- Tj_d of R392: the largest reading among the die's tile and guard sensors that take part. -/
def State.tj (s : State) (d : Nat) : Int :=
  let l := ((List.range 14).filter fun j =>
    let i := 14 * d + j
    !(vget false s.therm.fault i) && !(decide (12 ≤ j) && nbit (s.fget R.THERM_STATUS_GUARD_BAD) (2 * d + j - 12) == 1)).map
      fun j => vget 0 s.therm.temp (14 * d + j)
  match l with
  | [] => Config.noTemp d
  | x :: t => t.foldl max x

/-- The setpoint at which a die runs unthrottled: its ceiling, or its coasting setpoint if lower (R371, R380). Where R79 promises no
rate at the die's temperature, the manual gives no coasting setpoint: a free value within the range. -/
def State.freeSet (s : State) (d : Nat) : Nat × State :=
  let x := (vget .reset s.me d).target
  if x = 0 then (s.ceiling, s)
  else
    match coastSet x (s.tj d) with
    | some v => (min v s.ceiling, s)
    | none =>
      if (rateCols (s.tj d)).isEmpty then
        let (v, s) := s.draw
        (450 + 5 * (v.toNat % ((s.ceiling - 450) / 5 + 1)), s)
      else (s.ceiling, s)

/-- The own rate enters the SLOWEST of every started collective of the die (R353). -/
def State.ownPace (s : State) (d r : Nat) : State :=
  if s.dom.worksRst then s
  else
    let s := s.fset (R.ME_PACE_OWN.at (meOff d)) r
    let e := s.meng d
    if e.colls.isEmpty then s
    else (s.setMe d { e with colls := e.colls.map fun c => if c.state = .started then { c with slowest := min c.slowest r } else c }).meRegs d

/-- `RATE` and the marshalling engine's `PACE` (R353, R380): the rate of R79 after permits; outside the table a free value. -/
def State.setRate (s : State) (d : Nat) : State :=
  let o := diePwr d
  let (r, s) := match rateAt (s.fget (R.DIE_PWR_VSET.at o)) (s.tj d) with
    | some r => (r * s.fget (R.DIE_PWR2_PERMIT.at o) / 256, s)
    | none =>
      let (v, s) := s.draw
      (v.toNat % 65536, s)
  (s.fset (R.DIE_PWR_RATE.at o) r).ownPace d r

/-! ## Buffer stop (R381, R382) -/

/-- Every die held at the buffer-stop fraction and 0.45 V, with no ballast. -/
def State.bsActuators (s : State) (permit : Nat → Nat) : State :=
  let s := (List.range 4).foldl (fun s d =>
    let o := diePwr d
    let s := (s.fset (R.DIE_PWR2_PERMIT.at o) (permit d)).fset (R.DIE_PWR_VSET.at o) 450
    ((s.fset (R.DIE_PWR2_BALLAST_W.at o) 0).fset (R.DIE_PWR_COAST_TARGET.at o) 0).setRate d) s
  (((s.fset R.PWR_NOW_BALLAST_W 0).fset R.PWR_STATUS_BIND 0x0C).govMod fun g => { g with share := .replicate 4 0 }).hintRegs

/-- Step 6 of R381: permits as far as 300 W allow, free values from the buffer-stop fraction up. -/
def State.bsPermits (s : State) : State :=
  let (v, s) := s.draw
  s.bsActuators fun d => 16 + v.toNat / 65536 ^ d % 65536 % 241

/-- What every tick in buffer stop and its hold does: step 6 of R381 once it is due, and until then the issue rates that follow Tj. -/
def State.bsTick (s : State) : State :=
  if s.clock.run < s.gov.bsAt + 100000 then (List.range 4).foldl (fun s d => s.setRate d) s.hintRegs else s.bsPermits

/-- The detail of PWR_BUFFER_STOP. -/
def State.bsEvent (s : State) (phase : Nat) : State :=
  s.event govSource 0x0C80 (leBytes 1 s.gov.cause ++ leBytes 1 phase ++ [0, 0]
    ++ leBytes 2 (s.fget R.PWR_INPUT_VIN) ++ leBytes 2 (s.fget R.PWR_NOW_TICK_W))

/-- The cause of buffer stop, in the always-on partition and, unless LINE is in reset, in BS_CAUSE. -/
def State.bsCause (s : State) (cause : Nat) : State :=
  let s := s.govMod fun g => { g with cause := cause }
  if s.dom.lineRst then s else s.fset R.PWR_STATUS_BS_CAUSE cause

/-- Entry to buffer stop by PWR_ALERT_N (cause 1 own module, 2 tray) or a thermal force (3), whatever the state of LINE. A cause that
begins in buffer stop changes nothing, but one of the same tick lowers BS_CAUSE to its code (R408). -/
def State.enterBs (s : State) (cause : Nat) : State :=
  if s.gov.held ∧ s.govState ≠ 4 then
    if s.gov.fresh ∧ cause < s.gov.cause then s.bsCause cause else s
  else
    let s := (s.govMod fun g => { g with held := true, fresh := true, bsAt := max 1 s.clock.run, msBs := true }).bsCause cause
    let s := if s.dom.lineRst then s.govMod fun g => { g with offSet := 450, modBal := 0 }
      else ((s.fset R.PWR_STATUS_STATE 3).bsActuators fun _ => 16).bump R.PWR_EVENTS_ALERTS R.PWR_FLAGS_ALERTS_OVF
    let s := s.report govSource .bufferStop cause 0
    s.bsEvent 1

/-- PWR_ALERT_N is released by every source and no forced entry remains: BS_HOLD (R382). -/
def State.releaseBs (s : State) : State :=
  if s.govState = 3 ∧ s.alert = false ∧ s.thermForce = false then s.fset R.PWR_STATUS_STATE 4 else s

/-- `PWR_ALERT_ASSERT`: the tray pulls PWR_ALERT_N low. The line stands low before power arrives too (R381, R538). -/
def execPwrAlertAssert (s : State) : Res :=
  .next (
    let s := s.govMod fun g => { g with alertExt := true }
    if !s.dom.powered then s else (s.enterBs 2).pinFlags)

/-- `PWR_ALERT_RELEASE`: the tray releases PWR_ALERT_N. -/
def execPwrAlertRelease (s : State) : Res :=
  .next ((s.govMod fun g => { g with alertExt := false }).releaseBs.pinFlags)

/-- `INPUT_CONDITION`: a condition of R366 begins or ends at the power module, which reports it. -/
def execInputCondition (row : Fin 5) (on : Bool) (s : State) : Res :=
  .next (
    let r := row.val + 1
    let k : Kind := if r ≤ 3 then .pwrInput else .pwrRail
    if !s.dom.powered ∨ s.gov.alerts.contains r = on then s
    else if on then
      let s := (s.govMod fun g => { g with alerts := g.alerts ++ [r] }).report 0x0601 k r 0
      (s.enterBs 1).pinFlags
    else
      let s := (s.govMod fun g => { g with alerts := g.alerts.filter (· != r) }).report 0x0601 k r 0 true
      s.releaseBs.pinFlags)

/-- `BS_HOLD_END`: a start event from the measured draw. -/
def execBsHoldEnd (s : State) : Res :=
  .next (
    if s.govState = 4 ∧ s.alert = false ∧ s.thermForce = false then
      let tick := s.fget R.PWR_NOW_TICK_W
      let s := (s.govMod fun g => { g with held := false, fresh := false, t := 100 * tick }).fset R.PWR_STATUS_STATE 1
      let s := s.govLoad.startEvent
      (s.fset R.PWR_NOW_TARGET_W tick).bsEvent 2 |>.report govSource .bufferStop s.gov.cause 0 true
    else s)

/-! ## Blades (R368) -/

/-- PWR_BLADE, and BLADE_CAP with it. -/
def State.bladeCap (s : State) (v : Nat) : State :=
  let s := (s.fset R.PWR_CAPS_BLADE_CAP v).pinFlags
  s.event govSource 0x0C84 (leBytes 1 (3 - s.gov.lost % 4) ++ [0] ++ leBytes 2 v)

/-- `BLADE_LOSS`. -/
def execBladeLoss (b : Fin 2) (s : State) : Res :=
  .next (
    if !s.dom.powered ∨ s.gov.lost ≠ 0 then s
    else
      let s := s.govMod fun g => { g with lost := 2 ^ b.val, msBlade := true }
      (s.report 0x0601 .bladeLost (2 ^ b.val) 0).bladeCap 650)

/-- `BLADE_RETURN`. -/
def execBladeReturn (b : Fin 2) (s : State) : Res :=
  .next (
    if s.gov.lost ≠ 2 ^ b.val then s
    else
      let s := s.govMod fun g => { g with lost := 0 }
      (s.report 0x0601 .bladeLost (2 ^ b.val) 0 true).bladeCap 0xFFFF)

/-! ## The tick (R373, R376, R377, R383, R384) -/

/-- The 1 ms interval that ends: a full one gives M in hundredths of a watt, which is judged against the slew and the floor. -/
def State.closeMs (s : State) : State :=
  let g := s.gov
  let m := 100 * g.msSum / max 1 g.msN
  let full := 100 ≤ g.msN
  let s := if full then s.fset R.PWR_NOW_MEAN_1MS_W (m / 100) else s
  let slew := s.fget R.PWR_SMOOTH_SLEW
  let s := match g.msPrev with
    | none => s
    | some (idx, p) =>
      let step : Int := (m : Int) - p
      if !full ∨ idx + 1 ≠ g.msIdx ∨ step.natAbs ≤ 100 * (slew + 10) then s
      else
        let s := s.bump R.PWR_EVENTS2_SLEW_MISS R.PWR_FLAGS_SLEW_OVF
        s.oncePerS 0x10 fun s =>
          let (c, s) :=
            if g.msBs then (1, s) else if g.msBlade then (3, s) else if g.msHard then (2, s) else if g.msShort then (4, s)
            else
              let (v, s) := s.draw
              (v.toNat % 256, s)
          s.event govSource 0x0C83 (leBytes 1 c ++ [0] ++ leBytes 2 (unsint 16 (step.tdiv 100)))
  let floor := s.fget R.PWR_SMOOTH_FLOOR_W
  let s :=
    if full ∧ s.floorOn ∧ g.msFloor ∧ g.msShort ∧ !g.msBs ∧ m + 1000 < 100 * floor then
      let s := s.bump R.PWR_EVENTS2_FLOOR_MISS R.PWR_FLAGS_FLOOR_OVF
      s.oncePerS 0x11 fun s => s.event govSource 0x0C82 ([0, 0] ++ leBytes 2 floor ++ leBytes 2 (m / 100))
    else s
  s.govMod fun g => { g with means := (m :: g.means).take 30000, msPrev := if full then some (g.msIdx, m) else none, msSum := 0, msN := 0,
                             msBs := s.inBs, msHard := false, msBlade := false, msShort := false, msFloor := true }

/-- Tile ballast runs on tiles in IDLE or WAIT only (R372). -/
def State.ballastTile (s : State) (d : Nat) : Bool :=
  !s.dom.worksRst && (List.range 48).any fun k => s.tileState (48 * d + k) == 1 || s.tileState (48 * d + k) == 3

/-- What a tick measures: input, energy, the mean of the tick, and the 1 ms interval it belongs to, which ends with its last tick. -/
def State.measure (s : State) (x : GovIn) : State :=
  let w := x.tickW.toNat
  let idx := (s.rtime - 1) / 1000000
  let s := if idx = s.gov.msIdx ∨ s.gov.msN = 0 then s else s.closeMs
  let s := s.govMod fun g => { g with msIdx := idx, msSum := g.msSum + w, msN := g.msN + 1, ticks := (w :: g.ticks).take 1000,
                                      energy := g.energy + w, energyJ := g.energyJ + w }
  let s := s.traffic R.PWR_ENERGY_ENERGY_MJ (s.gov.energy / 100)
  let s := s.govMod fun g => { g with energy := g.energy % 100 }
  let s := if s.rtime / 1000000 = idx then s else s.closeMs
  let s := (s.fset R.PWR_NOW_TICK_W w).fset R.PWR_INPUT_VIN x.vin.toNat
  let s := (s.fset R.PWR_INPUT_IA x.ia.toNat).fset R.PWR_INPUT_IB x.ib.toNat
  (List.range 4).foldl (fun s d =>
    (s.fset (R.DIE_PWR_DIE_W.at (diePwr d)) (vget 0 x.dieW d).toNat).fset (R.DIE_PWR2_BALLAST_CAP_W.at (diePwr d))
      (if s.ballastTile d then (vget 0 x.cap d).toNat else 0)) s

/-- The sum of a list. -/
def natSum (l : List Nat) : Nat := l.foldl (· + ·) 0

/-- `peak_budget()` in hundredths of a watt. -/
def State.peakBudget (s : State) : Nat :=
  let n := s.fget R.PWR_LIMITS_PEAK_WIN
  s.gov.ePeak * n - 100 * natSum (s.gov.ticks.take (n - 1))

/-- `avg_budget()` in hundredths of a watt: what the rest of the present 1 ms may draw. -/
def State.avgBudget (s : State) : Nat :=
  let n := 10 * s.fget R.PWR_LIMITS_AVG_WIN
  let ms := s.gov.eAvg * n - natSum (s.gov.means.take (n - 1))
  let k := min s.gov.msN 99
  (100 * ms - 100 * s.gov.msSum) / (100 - k)

/-- Bounds and candidates of a tick: limits and caps with their BIND codes, in the order of priority. -/
def State.bounds (s : State) : List (Nat × Nat) :=
  [(100 * s.fget R.PWR_CAPS_THERM_CAP, 3), (100 * s.fget R.PWR_CAPS_BLADE_CAP, 6)]
    ++ (if s.flag R.PWR_LIMITS_PEAK_EN then [(s.peakBudget, 1)] else [])
    ++ (if s.flag R.PWR_LIMITS_AVG_EN then [(s.avgBudget, 2)] else [])
    ++ [(s.gov.eOper, 4), (s.gov.eOrphan, 5)]

/-- Free permits and setpoints of a throttled die, within R370 and R371: the manual leaves them to the loop. -/
def State.throttle (s : State) (d : Nat) : State :=
  let (top, s) := s.freeSet d
  let (p, s) := s.draw
  let (v, s) := s.draw
  let o := diePwr d
  (s.fset (R.DIE_PWR2_PERMIT.at o) (p.toNat % 257)).fset (R.DIE_PWR_VSET.at o) (450 + 5 * (v.toNat % ((top - 450) / 5 + 1)))

/-- Tile ballast: `left` watts shared over the dies within their capacities; the manual does not say how, so each share is a free
value that leaves the others enough capacity. -/
def State.tileBallast (s : State) (left : Nat) : List Nat → State
  | [] => s
  | d :: ds =>
    let cap := fun (s : State) (d : Nat) => s.fget (R.DIE_PWR2_BALLAST_CAP_W.at (diePwr d))
    let rest := natSum (ds.map (cap s))
    let (v, s) := s.draw
    let lo := left - rest
    let hi := min left (cap s d)
    let w := min hi (lo + v.toNat % (hi - lo + 1))
    (s.fset (R.DIE_PWR2_BALLAST_W.at (diePwr d)) w).tileBallast (left - w) ds

/-- The share of each die in a target below the demand: what the fixed rails leave, in proportion to the work (R384). -/
def shares (t : Nat) (x : GovIn) : Vector Nat 4 :=
  let all := natSum (x.work.toList.map (·.toNat))
  x.work.map fun w => (t - 100 * x.rails.toNat) * w.toNat / max 1 all

/-- Full permits, but where the correction holds the draw below the demand: there they are trimmed, by a free amount (R384). -/
def State.trimmed (s : State) (d : Nat) (lower : Bool) : State :=
  if lower then
    let (p, s) := s.draw
    s.fset (R.DIE_PWR2_PERMIT.at (diePwr d)) (p.toNat % 257)
  else s.fset (R.DIE_PWR2_PERMIT.at (diePwr d)) 256

/-- `allocate()` (R384): throttle to the shares, or run free with ballast; the module takes the first 800 W of it (R372). The correction
on measured power trims ballast and permits (log entry 180). -/
def State.allocate (s : State) (t : Nat) (x : GovIn) : State :=
  let demand := 100 * x.demand
  let s := (List.range 4).foldl (fun s d =>
    s.fset (R.DIE_PWR_COAST_TARGET.at (diePwr d)) (vget .reset s.me d).target) s
  let s := s.govMod fun g => { g with integ := g.integ + ((g.t : Int) - 100 * s.fget R.PWR_NOW_TICK_W),
                                      share := if t < demand then shares t x else .replicate 4 0 }
  let s :=
    if t < demand then
      (List.range 4).foldl (fun s d => (s.throttle d).fset (R.DIE_PWR2_BALLAST_W.at (diePwr d)) 0) (s.fset R.PWR_NOW_BALLAST_W 0)
    else
      let aim := (t : Int) + Config.powerTrim s.gov.integ
      let s := (List.range 4).foldl (fun s d =>
        let (v, s) := s.freeSet d
        (s.trimmed d (decide (aim < demand))).fset (R.DIE_PWR_VSET.at (diePwr d)) v) s
      let b := (aim - demand).toNat / 100
      let caps := natSum ((List.range 4).map fun d => s.fget (R.DIE_PWR2_BALLAST_CAP_W.at (diePwr d)))
      let tile := if s.dom.worksRst then 0 else min (b - 800) caps
      let s := s.tileBallast tile [0, 1, 2, 3]
      let s := s.fset R.PWR_NOW_BALLAST_W (min b 800 + tile)
      if b > min b 800 + tile then s.govMod fun g => { g with msShort := true } else s
  (List.range 4).foldl (fun s d => s.setRate d) s

/-- BIND and what it counts and sends. -/
def State.setBind (s : State) (b : Nat) : State :=
  let old := s.fget R.PWR_STATUS_BIND
  let s := s.fset R.PWR_STATUS_BIND b
  if b ≠ old ∧ 1 ≤ b ∧ b ≤ 6 then
    (s.bump R.PWR_EVENTS_LIMIT_BINDS R.PWR_FLAGS_BINDS_OVF).oncePerS b fun s =>
      s.event govSource 0x0C81 (leBytes 1 b ++ [0] ++ leBytes 2 (s.gov.t / 100))
  else s

/-- The control law of R383 outside buffer stop. -/
def State.control (s : State) (x : GovIn) : State :=
  let demand := 100 * x.demand
  let slew := s.fget R.PWR_SMOOTH_SLEW
  let t := s.gov.t
  let hard := 100 * min pMax (min (s.fget R.PWR_CAPS_THERM_CAP) (s.fget R.PWR_CAPS_BLADE_CAP))
  let hi := (s.bounds.map (·.1)).foldl min (100 * pMax)
  let s := s.govMod fun g => { g with hints := hintStep s.rtime t g.hints }
  let s := s.hintRegs
  let floors := max s.gov.eFloor s.hintFloor
  let lo := min hi floors
  let want := max demand s.hintRamp
  let goal := min (max want lo) hi
  let stag := s.govState == 2
  let up := if stag then t else t + slew
  let dn := t - slew
  let t1 := min (max goal dn) up
  let t2 := min t1 hi
  let bind :=
    if t2 < t1 ∨ (goal = hi ∧ hi < max want floors ∧ t2 = hi) then ((s.bounds.find? fun b => b.1 == hi).map (·.2)).getD 0
    else if stag ∧ t1 < goal then 8
    else if t1 ≠ goal then 7
    else if want < lo then (if s.hintFloor > s.gov.eFloor then 0x0A else 9)
    else if demand < s.hintRamp then 0x0A
    else if s.flag R.PWR_STATUS_VCEIL then 0x0B else 0
  let floor := 100 * s.fget R.PWR_SMOOTH_FLOOR_W
  let s := s.govMod fun g => { g with t := t2, hardWas := hard, msHard := g.msHard || decide (hard + slew < g.hardWas),
                                      msFloor := g.msFloor && s.floorOn && decide (floor ≤ t2) && decide (floor ≤ hi) }
  ((s.fset R.PWR_NOW_TARGET_W (t2 / 100)).setBind bind).allocate t2 x

/-- The first tick after the governor was OFF: a start event after power-on, else RUN with T at the measured draw (R378, R386). -/
def State.govFirst (s : State) (w : Nat) : State :=
  let s := (s.govMod fun g => { g with t := 100 * w }).fset R.PWR_STATUS_STATE 1
  if s.gov.started then s else s.startEvent

/-- The floor in W that the power module holds while the governor is OFF: the latched one, under the latched FLOOR_MODE (R386). -/
def State.offFloor (s : State) : Nat :=
  let m := s.fget R.PWR_SMOOTH_FLOOR_MODE
  if m = 1 ∨ (m = 2 ∧ s.gov.modJob = true) then s.fget R.PWR_SMOOTH_FLOOR_W else 0

/-- A tick while LINE is in reset (R386): the input energy counts on (R390), the effective values move, and the power module's ballast load
follows the floor that it holds, at no more than SLEW; in buffer stop it is off. -/
def State.offTick (s : State) (x : GovIn) : State :=
  let s := (s.govMod fun g => { g with energyJ := g.energyJ + x.tickW.toNat }).govEntries.govEase
  let slew := s.fget R.PWR_SMOOTH_SLEW
  s.govMod fun g =>
    let off := g.held || s.dom.cutoff
    let need := if off then 0 else min 80000 (100 * s.offFloor - (100 * x.tickW.toNat - g.modBal))
    { g with fresh := false, modBal := if off then 0 else max (g.modBal - slew) (min need (g.modBal + slew)) }

/-- Tile ballast stops with WORKS in reset, and the module takes over what it can (R386). -/
def State.tilesDark (s : State) : State :=
  if s.dom.lineRst then s
  else
    let s := (List.range 4).foldl (fun s d =>
      (s.fset (R.DIE_PWR2_BALLAST_W.at (diePwr d)) 0).fset (R.DIE_PWR2_BALLAST_CAP_W.at (diePwr d)) 0) s
    s.fset R.PWR_NOW_BALLAST_W (min 800 (s.fget R.PWR_NOW_BALLAST_W))

/-- `GOVERNOR_TICK`. -/
def execGovernorTick (x : GovIn) (s : State) : Res :=
  .next (
    if !s.dom.powered then s
    else if s.dom.lineRst then s.offTick x
    else
      let s := s.measure x
      let s := s.govMod fun g => { g with fresh := false, modBal := 0, offSet := 0, hints := if g.held then hintStep s.rtime g.t g.hints else g.hints }
      let s := s.liveFlags.pinFlags
      if s.alert ∨ s.thermForce then
        if s.govState ≠ 3 then
          let cause := if s.gov.held then s.gov.cause else if !s.gov.alerts.isEmpty then 1 else if s.gov.alertExt then 2 else 3
          let s := if s.gov.held then s else s.enterBs cause
          ((s.fset R.PWR_STATUS_STATE 3).bsCause cause).bsActuators fun _ => 16
        else s.bsTick
      else if s.gov.held then
        (if s.govState = 4 then s else ((s.fset R.PWR_STATUS_STATE 4).bsCause s.gov.cause).bsActuators fun _ => 16).bsTick
      else
        let s := s.govEntries
        let s := if s.govState = 0 then s.govFirst x.tickW.toNat else s
        s.govLoad.control x)

end Sys2Proof.Machine
end

