-- ==== Sys2Proof/Machine/Thermal.lean ====
section
/-! DEFINITION. Thermal control (R391-R413): sensors, the estimator, the caps, loss of flow, guards, forces and the forecast; and the
notices that it and others form for the tray controller (R494). -/

namespace Sys2Proof.Machine

/-! ## Notices (R494) -/

/-- The queue with room for one more: the oldest STAGE notice, then the oldest RESET_NOTICE, makes room among sixteen; then, for a notice
that is never dropped, the oldest FAULT_STATE (log entry 147). -/
def noticeRoom (kept : Bool) (l : List Notice) : List Notice :=
  if l.length < 16 then l
  else
    match l.findIdx? (·.kind == 5) with
    | some i => l.eraseIdx i
    | none =>
      match l.findIdx? (·.kind == 3) with
      | some i => l.eraseIdx i
      | none =>
        match l.findIdx? (·.kind == 4) with
        | some i => if kept then l.eraseIdx i else l
        | none => l

/-- The header of a dictionary message (R483). -/
def odHeader (op key status reqId session offset length gen : Nat) : List Byte :=
  leBytes 1 op ++ [0] ++ leBytes 2 (key / 256) ++ leBytes 1 key ++ [0] ++ leBytes 2 status ++ leBytes 4 reqId ++ leBytes 4 session
    ++ leBytes 4 offset ++ leBytes 2 length ++ leBytes 2 gen

/-- Something leaves on the field port, unless the address it leaves from is another's too (R482). -/
def State.fieldSend (s : State) (x : FieldOut) : State :=
  if s.sb.dup then s else { s with sb := { s.sb with out := s.sb.out ++ [x] } }

/-- The link-local address of the MAC: fe80::/64 with the modified EUI-64 interface ID. -/
def State.linkLocal (s : State) : Nat :=
  let m := s.od D.MAC
  0xFE80 * 2 ^ 112 + ((m / 2 ^ 24 * 2 ^ 40 + 0xFFFE * 2 ^ 24 + m % 2 ^ 24) ^^^ 2 ^ 57)

/-- The address is taken, and duplicate address detection asks for it (R482). -/
def State.addressUp (s : State) : State :=
  ({ s with sb := { s.sb with dad := some s.clock.run, dup := false } }).fieldSend (.solicit s.linkLocal)

/-- Is the answer to the solicitation still awaited: 1 s, the RetransTimer of RFC 4861? PRESUMED (log entry 199). -/
def State.tentative (s : State) : Bool :=
  match s.sb.dad with
  | some t => decide (s.clock.run < t + 1000000000)
  | none => false

/-- A notice is sent, unless no session is open, the package is orphaned, or the signal box does not run. -/
def State.noticeSend (s : State) (n : Notice) : State :=
  if s.dom.signalRst ∨ s.sb.up = false ∨ s.sb.session = 0 ∨ s.sb.orphan = 1 then s
  else
    s.fieldSend (.udp s.sb.tray (odHeader 0x20 0 0 n.reqId s.sb.session 0 44 0 ++ leBytes 1 n.kind ++ [0, 0, 0] ++ leBytes 8 n.rtime
      ++ (n.detail ++ List.replicate 32 0).take 32))

/-- A notice is formed and sent, unless SIGNAL is in reset; CUT_REQUEST and POWER_CYCLE hold one entry each. A queue with nothing that may
make room keeps the notice out. -/
def State.notice (s : State) (kind : Nat) (detail : List Byte) : State :=
  if s.dom.signalRst ∨ ((kind = 1 ∨ kind = 2) ∧ s.notices.any fun n => n.kind == kind) then s
  else
    let l := noticeRoom (kind == 1 || kind == 2) s.notices
    if l.length ≥ 16 then s
    else
      let n : Notice := ⟨s.noticeSeq, kind, s.rtime, detail, false⟩
      { s with notices := l ++ [n], noticeSeq := (s.noticeSeq + 1) % 2 ^ 32 }.noticeSend n

/-! ## Sensors (R391, R392) -/

/-- Thermal control's fault and event source. -/
def thermSource : Nat := 0x0602
/-- Change thermal control. -/
def State.thMod (s : State) (f : Therm → Therm) : State := { s with therm := f s.therm }
/-- Degrees as 1/64 K. -/
def deg (c : Int) : Int := 64 * c
/-- A temperature in units of 0.1 °C, I16. -/
def tenths (t : Int) : Nat := unsint 16 (t * 10 / 64)
/-- Units of 0.1 °C as 1/64 K. -/
def ofTenths (v : Nat) : Int := sint 16 v * 64 / 10
/-- The sensor of a guard. -/
def guardSensor (g : Nat) : Nat := if g < 8 then 14 * (g / 2) + 12 + g % 2 else 187 + g
/-- Is a guard marked? -/
def State.guardBad (s : State) (g : Nat) : Bool := nbit (s.fget R.THERM_STATUS_GUARD_BAD) g == 1
/-- A sensor's reading. -/
def State.temp (s : State) (i : Nat) : Int := vget 0 s.therm.temp i
/-- Is a sensor open or shorted? -/
def State.tFault (s : State) (i : Nat) : Bool := vget false s.therm.fault i
/-- The guard that a sensor is, if it is one. -/
def sensorGuard (i : Nat) : Option Nat := (List.range 10).find? fun g => guardSensor g == i
/-- Does a sensor take part: neither FAULT nor marked? -/
def State.takesPart (s : State) (i : Nat) : Bool :=
  !s.tFault i && match sensorGuard i with
    | some g => !s.guardBad g
    | none => true
/-- The largest of a list of temperatures, 0 for none. -/
def maxTemp (l : List Int) : Int :=
  match l with
  | [] => 0
  | x :: t => t.foldl max x
/-- The median of a list: the mean of the middle two where their number is even. -/
def median (l : List Int) : Option Int :=
  let m := l.insertionSort (· ≤ ·)
  if m.isEmpty then none else some ((m.getD ((m.length - 1) / 2) 0 + m.getD (m.length / 2) 0) / 2)
/-- Tm_n of R392. -/
def State.tm (s : State) (n : Nat) : Int :=
  let l := ((List.range 17).filter fun k => s.takesPart (56 + 17 * n + k)).map fun k => s.temp (56 + 17 * n + k)
  if l.isEmpty then Config.noTemp (4 + n) else maxTemp l
/-- Temperature of a region: CD0-CD3, then MD0-MD7. -/
def State.tx (s : State) (x : Nat) : Int := if x < 4 then s.tj x else s.tm (x - 4)
/-- Tj_hot. -/
def State.tjHot (s : State) : Int := maxTemp ((List.range 4).map s.tj)
/-- CT_OUT, as a register shows it. -/
def State.outlet (s : State) : Int := if s.tFault 196 then Config.noTemp 12 else s.temp 196
/-- Die or region of a sensor: 0-3 CDd, 4-11 MD(x - 4); the manual gives none for the sensors of the module, the edge and the coolant. -/
def sensorPlace (i : Nat) : Nat := if i < 56 then i / 14 else if i < 192 then 4 + (i - 56) / 17 else Config.thermFree (32 + i)
/-- Has the tray written the inlet entry within 10 s? -/
def State.inletFresh (s : State) : Bool :=
  match s.therm.inletAt with
  | some t => s.od D.TRAY_INLET != 0x7FFF && decide (s.clock.run < t + 10000000000)
  | none => false
/-- T_in. -/
def State.tIn (s : State) : Int :=
  if s.takesPart 195 then s.temp 195 else if s.inletFresh then ofTenths (s.od D.TRAY_INLET) else deg 45
/-- P in W. -/
def State.powerW (s : State) : Nat := s.fget R.PWR_NOW_TICK_W
/-- R_x. -/
def State.rth (s : State) (x : Nat) : Rat := vget 0 s.therm.rth x
/-- A temperature in K. -/
def kelvin (t : Int) : Rat := (t : Rat) / 64
/-- The steady temperature of a region at a power, in 1/64 K (R402, R403). -/
def State.steady (s : State) (x : Nat) (w : Nat) : Int := s.tIn + ((w : Rat) * s.rth x * 64).floor
/-- The whole part of a number of watts, from 0 to a largest. -/
def capW (r : Rat) (top : Nat) : Nat := min r.floor.toNat top
/-- L_x of R393. -/
def State.limitX (s : State) (x : Nat) : Int := deg ((if x < 4 then 105 else 95) - (s.od D.TJ_MARGIN_K : Int))

/-! ## Forces (R408) -/

/-- THERM_FORCE. -/
def State.forceEvent (s : State) (cause at_ : Nat) : State :=
  s.event thermSource 0x0D80 (leBytes 1 cause ++ leBytes 1 at_ ++ leBytes 2 (tenths s.tjHot) ++ leBytes 2 (tenths s.tIn)
    ++ leBytes 2 (s.fget R.THERM_SLOPE_EXCESS))

/-- A cause of force begins: 1 soft trip, 2 flow stop, 3 guards, 4 cap below 300 W, 5 the hardware trip, to which FORCE_CAUSE gives no
code (a free value shows there). -/
def State.forceOn (s : State) (cause at_ : Nat) : State :=
  if nbit s.therm.causes cause = 1 then s
  else
    let s := s.thMod fun t => { t with causes := t.causes + 2 ^ cause }
    let s :=
      if s.flag R.THERM_STATUS_FORCE then s
      else
        let (c, s) := if cause ≤ 4 then (cause, s) else
          let (v, s) := s.draw
          (v.toNat % 8, s)
        (s.fset R.THERM_STATUS_FORCE_CAUSE c).setFlag R.THERM_STATUS_FORCE true
    let s := s.enterBs 3
    if cause ≤ 4 then s.forceEvent cause at_ else s

/-- A cause of force ends; with the last one the force does. -/
def State.forceOff (s : State) (cause : Nat) : State :=
  if nbit s.therm.causes cause = 0 then s
  else
    let s := s.thMod fun t => { t with causes := t.causes - 2 ^ cause }
    if s.therm.causes ≠ 0 then s
    else ((s.fset R.THERM_STATUS_FORCE_CAUSE 0).setFlag R.THERM_STATUS_FORCE false).releaseBs

/-! ## Sampling (R182, R391, R405) -/

/-- A sensor past its soft trip, the first by index. -/
def State.softTripped (s : State) : Option Nat :=
  (List.range 197).find? fun i =>
    !s.tFault i && decide (
      (if 56 ≤ i ∧ i < 192 then deg 100 ≤ s.temp i
       else if i < 56 ∨ 195 ≤ i then deg 110 ≤ s.temp i else False))

/-- Is every sensor below the release of the soft trip? -/
def State.softCool (s : State) : Bool :=
  (List.range 192).all fun i =>
    s.tFault i || decide (if i < 56 then (i % 14 < 12 → s.temp i ≤ deg 100) else s.temp i ≤ deg 90)

/-- The registers of one sensor. -/
def State.sensorReg (s : State) (i : Nat) : State :=
  let f := fun (x : Fld) => x.at (8 * i)
  let s := (s.setFlag (f R.TSENSE_FAULT) (s.tFault i)).setFlag (f R.TSENSE_VALID) true
  let s := s.setFlag (f R.TSENSE_GUARD) (sensorGuard i).isSome
  let s := s.setFlag (f R.TSENSE_IMPLAUS) (match sensorGuard i with
    | some g => s.guardBad g
    | none => false)
  s.fset (f R.TSENSE_TEMP) (if s.tFault i then 0x8000 else tenths (s.temp i))

/-- The refresh interval of a stack follows its hottest DRAM die (R182). -/
def State.refresh2x (s : State) (n : Nat) : State :=
  let l := ((List.range 16).filter fun k => !s.tFault (56 + 17 * n + k)).map fun k => s.temp (56 + 17 * n + k)
  s.setFlag (R.MD_STATUS_REFRESH_2X.at (mdOff n)) (!l.isEmpty && decide (deg 85 ≤ maxTemp l))

/-! ## Estimator and flow (R393, R396, R397) -/

/-- Conditions of R393 on the power of the last second, whose 1 ms means are in hundredths of a watt; its mean in W. -/
def steadyMean (l : List Nat) : Option Rat :=
  let m := l.take 1000
  let p : Rat := (natSum m : Rat) / 1000
  if m.length = 1000 ∧ m.all fun x => decide (30000 ≤ x) && decide (100 * ((x : Rat) - p) ≤ 5 * p ∧ 100 * (p - x) ≤ 5 * p) then some (p / 100)
  else none

/-- An estimate moves by a 64th of the way to a new value. -/
def towards (now new : Rat) : Rat := now + (new - now) / 64

/-- The registers of the estimates. -/
def State.rthRegs (s : State) : State :=
  let top := fun (l : List Nat) => min ((l.map s.rth).foldl max 0 * 100000).floor.toNat 65535
  let s := (s.fset R.THERM_RTH_RTH_DIE (top [0, 1, 2, 3])).fset R.THERM_RTH_RTH_MEM (top [4, 5, 6, 7, 8, 9, 10, 11])
  s.fset R.THERM_RTH_FLOW_EST (min (s.therm.flow * 100).floor.toNat 65535)

/-- The largest R_x of the compute dies. -/
def State.rthDie (s : State) : Rat := ([0, 1, 2, 3].map s.rth).foldl max 0

/-- `ESTIMATOR_UPDATE`. -/
def execEstimatorUpdate (s : State) : Res :=
  .next (
    if s.dom.lineRst ∨ !s.dom.powered then s
    else
      let s := match steadyMean s.gov.means with
        | none => s
        | some p =>
          if !s.takesPart 195 then s
          else
            let s := s.thMod fun t => { t with rth := Vector.ofFn fun x => towards (vget 0 t.rth x.val) (kelvin (s.tx x.val - s.tIn) / p) }
            let dt := s.temp 196 - s.temp 195
            if s.takesPart 196 ∧ deg 2 ≤ dt then
              s.thMod fun t => { t with flow := if s.od D.COOLANT_C = 0 then (Config.thermFree 24 : Rat)
                                           else p / (((s.od D.COOLANT_C : Nat) : Rat) / 10 * kelvin dt) }
            else s
      let rw : Rat := (s.od D.RTH_WARN : Rat) / 100000
      let fw : Rat := (s.od D.FLOW_WARN : Rat) / 100
      let well := decide (10 * s.rthDie ≤ 9 * rw) && decide (11 * fw ≤ 10 * s.therm.flow)
      let s := s.thMod fun t => { t with lowFor := if rw ≤ s.rthDie then t.lowFor + 1 else 0, flowFor := if s.therm.flow < fw then t.flowFor + 1 else 0,
                                         wellFor := if well then t.wellFor + 1 else 0 }
      s.rthRegs)

/-- `FLOW_LOW`: the time of R397 has passed: 10 s is a hundred intervals between updates. -/
def execFlowLow (s : State) : Res :=
  .next (
    let tell := fun (s : State) (v : Nat) =>
      s.event thermSource 0x0D81 (leBytes 1 v ++ [0] ++ leBytes 2 (s.fget R.THERM_RTH_RTH_DIE) ++ leBytes 2 (s.fget R.THERM_RTH_FLOW_EST))
    if s.dom.lineRst then s
    else if s.flag R.THERM_STATUS_FLOW_LOW then
      if 100 < s.therm.wellFor then tell (s.setFlag R.THERM_STATUS_FLOW_LOW false) 0 else s
    else if 100 < s.therm.lowFor ∨ 100 < s.therm.flowFor then tell (s.setFlag R.THERM_STATUS_FLOW_LOW true) 1
    else s)

/-! ## The caps (R394, R395, R401) -/

/-- The power in W that a region's limit allows (R394). -/
def State.estOf (s : State) (x : Nat) : Rat := if s.rth x ≤ 0 then (Config.thermFree x : Rat) else kelvin (s.limitX x - s.tIn) / s.rth x

/-- EST_CAP and the region that sets it. -/
def State.estCap (s : State) : Nat × Nat :=
  let best := (List.range 12).foldl (fun (b : Rat × Nat) x => if s.estOf x < b.1 then (s.estOf x, x) else b) ((pMax : Rat), 0)
  (capW best.1 pMax, best.2)

/-- RAMP_CAP, 0xFFFF while not in force. -/
def State.rampCap (s : State) : Nat :=
  let band := deg (s.od D.RAMP_BAND_C)
  if s.tjHot < band then 0xFFFF
  else
    (List.range 12).foldl (fun best x =>
      if s.tx x < band then best
      else if s.rth x ≤ 0 then min best (Config.thermFree (12 + x))
      else
        let rise : Rat := (s.od D.TAU_MS : Rat) / 1000 * ((s.od D.RAMP_RATE : Rat) / 10)
        min best (capW ((kelvin (s.tx x - s.tIn) + rise) / s.rth x) 0xFFFE)) 0xFFFE

/-- `THERM_CAP_UPDATE`. -/
def execThermCapUpdate (s : State) : Res :=
  .next (
    if s.dom.lineRst ∨ !s.dom.powered then s
    else
      let (est, reg) := s.estCap
      let lim := fun x => deg (if x < 4 then 105 else 95)
      let hot := (List.range 12).filter fun x => decide (lim x < s.tx x)
      let back := (List.range 12).all fun x => decide (s.tx x ≤ lim x - deg 1)
      let s := (hot.filter fun x => nbit s.therm.hot x == 0).foldl
        (fun s _ => s.bump R.THERM_EVENTS_OVER_LIMIT R.THERM_FLAGS_OVER_OVF) s
      let s := s.thMod fun t => { t with hot := natSum (hot.map (2 ^ ·)) }
      let old := s.fget R.THERM_CAPS_TJ_CAP
      let tjc :=
        if old = 0xFFFF then (if hot.isEmpty then old else min s.powerW 0xFFFE)
        else if back then (if pMax < old + 10 then 0xFFFF else old + 10)
        else old - 10
      let ramp := s.rampCap
      let plaus := s.fget R.THERM_CAPS_PLAUS_CAP
      let s := (s.fset R.THERM_CAPS_EST_CAP est).fset R.THERM_RTH_EST_REGION reg
      let s := (s.fset R.THERM_CAPS_TJ_CAP tjc).fset R.THERM_CAPS_RAMP_CAP ramp
      let s := s.setFlag R.THERM_STATUS_RAMP_ON (ramp != 0xFFFF)
      let cap := min (min est tjc) (min (min ramp plaus) pMax)
      let bind := if cap = pMax then 0 else if cap = est then 1 else if cap = tjc then 2 else if cap = ramp then 3 else 4
      let s := (s.fset R.THERM_STATUS_BIND_CAP bind).fset R.PWR_CAPS_THERM_CAP cap
      let s := s.thMod fun t => { t with capOk := if 350 ≤ cap then t.capOk + 1 else 0 }
      if cap < 300 then s.forceOn 4 reg
      else if nbit s.therm.causes 4 = 1 ∧ 1000 < s.therm.capOk then s.forceOff 4
      else s)

/-! ## Sudden stop of flow (R398) -/

/-- The median of a die's plausible sensors, those of the guards among them; `but` is left out. -/
def State.dieMedian (s : State) (d : Nat) (but : Option Nat) : Option Int :=
  median (((List.range 14).filter fun j => s.takesPart (14 * d + j) && but != some (14 * d + j)).map fun j => s.temp (14 * d + j))

/-- The excess of a die in K/s, where ten earlier evaluations are there. -/
def State.excess (s : State) (d : Nat) : Option Rat :=
  match s.dieMedian d none, s.therm.meds[9]? with
  | some t, some l =>
    let slope : Rat := kelvin (t - l.getD d 0) * 100
    let pred : Rat := (kelvin (s.tIn - t) + (s.powerW : Rat) * s.rth d) / ((s.od D.TAU_MS : Rat) / 1000)
    some (slope - pred)
  | _, _ => none

/-- `FLOW_STOP_EVAL`. A die's excess that holds for 20 ms after the evaluation that first showed it is a stop. -/
def execFlowStopEval (s : State) : Res :=
  .next (
    if s.dom.lineRst ∨ !s.dom.powered then s
    else
      let ex := (List.range 4).map fun d => s.excess d
      let s := s.thMod fun t =>
        { t with meds := ((List.range 4).map fun d => (s.dieMedian d none).getD (s.tj d)) :: t.meds.take 9,
                 runs := Vector.ofFn fun d => match ex.getD d.val none with
                   | some e => if 5 < e then vget 0 t.runs d.val + 1 else 0
                   | none => 0,
                 calmFor := if ex.all fun e => decide (e.getD 0 ≤ 5) then t.calmFor + 1 else 0 }
      let worst := (List.range 4).foldl (fun b d => if (ex.getD b none).getD 0 < (ex.getD d none).getD 0 then d else b) 0
      let e := ((ex.getD worst none).getD 0 * 100).floor
      let s := (s.fset R.THERM_SLOPE_EXCESS (unsint 16 (max (-32768) (min 32767 e)))).fset R.THERM_SLOPE_DIE worst
      let s := s.fset R.THERM_SLOPE_RUN_MS (min (vget 0 s.therm.runs worst - 1) 255)
      match (List.range 4).find? fun d => decide (20 < vget 0 s.therm.runs d) with
      | some d =>
        if nbit s.therm.causes 2 = 1 then s
        else
          let s := s.thMod fun t => { t with stopDie := d }
          let s := (s.setFlag R.THERM_STATUS_CUT_REQ true).report thermSource .thermStop d 0
          (s.forceOn 2 d).notice 1 (leBytes 1 d ++ [0] ++ leBytes 2 (s.fget R.THERM_SLOPE_EXCESS))
      | none => s)

/-- The write of bit 0 of THERM_CLEAR: accepted when every die's excess has stayed at or below 5 K/s for 1 s. -/
def State.flowStopClear (s : State) : Bool × State :=
  if s.therm.calmFor ≤ 1000 then (false, s)
  else if nbit s.therm.causes 2 = 0 then (true, s)
  else
    let s := (s.setFlag R.THERM_STATUS_CUT_REQ false).report thermSource .thermStop s.therm.stopDie 0 true
    let s := { s with notices := s.notices.filter (·.kind != 1) }
    (true, s.forceOff 2)

/-! ## Forecast (R402) -/

/-- A hint reaches thermal control. -/
def State.thermHint (s : State) (kind powerW : Nat) : State :=
  if s.dom.lineRst ∨ kind ≠ 1 ∨ powerW = 0 then s
  else
    let tp := fun x => s.steady x powerW
    let x := (List.range 12).foldl (fun b x => if tp b - s.limitX b < tp x - s.limitX x then x else b) 0
    if s.limitX x < tp x ∨ s.fget R.PWR_CAPS_THERM_CAP < powerW then
      let band := deg (s.od D.RAMP_BAND_C)
      let t : Rat := if band < tp x then kelvin (tp x - max band (s.tx x)) / ((s.od D.RAMP_RATE : Rat) / 10) else 0
      let s := s.bump R.THERM_EVENTS_FORECASTS R.THERM_FLAGS_FORECAST_OVF
      s.event thermSource 0x0D83 (leBytes 1 x ++ [0] ++ leBytes 2 (tenths (tp x)) ++ leBytes 2 (s.fget R.THERM_CAPS_EST_CAP) ++ [0, 0]
        ++ leBytes 4 t.ceil.toNat)
    else s

/-- A POWER_HINT reaches the governor and thermal control (R379). -/
def State.powerHint (s : State) (kind start durUs powerW : Nat) : State :=
  (s.govHint kind start durUs powerW).thermHint kind powerW

/-! ## Guards (R403, R404) -/

/-- A guard's model value, and its peer value (R403). -/
def State.guardModel (s : State) (g : Nat) : Int := s.steady (g / 2) s.powerW
/-- The median of the die's other thirteen sensors. -/
def State.guardPeer (s : State) (g : Nat) : Int := (s.dieMedian (g / 2) (some (guardSensor g))).getD (Config.noTemp (13 + g))

/-- Largest less smallest of a list. -/
def spread (l : List Int) : Int := maxTemp l + maxTemp (l.map (- ·))

/-- Does the outlet read more than 1 K below the inlet (row 5 of R403)? -/
def State.coolantCrossed (s : State) : Bool := !s.tFault 195 && !s.tFault 196 && decide (s.temp 196 < s.temp 195 - deg 1)

/-- The sensor that row 5 of R403 marks: the one further from its peer. -/
def State.coolantWorse (s : State) : Nat :=
  let peerOut := (median ((List.range 8).map s.tm)).getD 0 - deg 10
  let dOut := (s.temp 196 - peerOut).natAbs
  if s.inletFresh then
    let dIn := (s.temp 195 - ofTenths (s.od D.TRAY_INLET)).natAbs
    if dOut ≤ dIn then 8 else 9
  else 9

/-- Does a rule row of R403 hold for a guard at this check? -/
def State.guardRule (s : State) (g row : Nat) : Bool :=
  let t := s.temp (guardSensor g)
  let past := s.therm.past.take 21
  match row with
  | 1 => decide (g < 8) && decide (t < min (s.guardModel g) (s.guardPeer g) - deg 8)
  | 2 => decide (g < 8) && decide (max (s.guardModel g) (s.guardPeer g) + deg 8 < t)
  | 3 => decide (g < 8) && past.length == 21 && decide (100 ≤ spread (past.map fun e => (e.1 : Int)))
           && decide (spread (past.map fun e => e.2.getD g 0) < 16)
  | 4 => g == 8 && s.inletFresh && decide (deg 3 < (t - ofTenths (s.od D.TRAY_INLET)).natAbs)
  | 5 => decide (8 ≤ g) && s.coolantCrossed && s.coolantWorse == g
  | 6 => g == 8 && decide (t < deg 5)
  | 7 => g == 9 && decide (s.tjHot < t)
  | _ => false

/-- Checks for which a row must hold: one more than the 100 ms intervals of its time; the window of row 3 is in the rule. -/
def guardTime (row : Nat) : Nat :=
  match row with
  | 1 | 2 | 6 | 7 => 11
  | 3 => 1
  | _ => 101

/-- PLAUS_CAP and the guard force follow the marks. -/
def State.plaus (s : State) (g : Nat) : State :=
  let n := popcount16 (s.fget R.THERM_STATUS_GUARD_BAD)
  let s := s.fset R.THERM_CAPS_PLAUS_CAP (if n = 0 then 0xFFFF else 660)
  let s := (List.range 10).foldl (fun s g => s.setFlag (R.TSENSE_IMPLAUS.at (8 * guardSensor g)) (s.guardBad g)) s
  if 2 ≤ n then s.forceOn 3 (sensorPlace (guardSensor g)) else s.forceOff 3

/-- A new mark. The manual gives a coolant guard no model and no peer value: the event carries free values there. -/
def State.markGuard (s : State) (g row : Nat) : State :=
  let s := s.fset R.THERM_STATUS_GUARD_BAD (s.fget R.THERM_STATUS_GUARD_BAD + 2 ^ g)
  let (m, p, s) :=
    if g < 8 then (tenths (s.guardModel g), tenths (s.guardPeer g), s)
    else
      let (v, s) := s.draw
      (v.toNat % 65536, v.toNat / 65536 % 65536, s)
  let s := s.event thermSource 0x0D82 (leBytes 1 g ++ leBytes 1 row ++ leBytes 2 (tenths (s.temp (guardSensor g))) ++ leBytes 2 m ++ leBytes 2 p)
  (s.report thermSource .thermGuard g 0).plaus g

/-- One guard at a check: the rows that hold count on, and the guard is marked when one has held long enough, or at once on FAULT. Row 5
counts on for the pair of coolant sensors, whichever is further from its peer meanwhile. -/
def State.checkGuard (s : State) (g : Nat) : State :=
  let fault := s.tFault (guardSensor g)
  let old := vget [] s.therm.ruleFor g
  let new := ([1, 2, 3, 4, 5, 6, 7].filter fun r => !fault && s.guardRule g r).map fun r =>
    (r, if r = 5 then s.therm.crossFor else ((old.find? (·.1 == r)).map (·.2)).getD 0 + 1)
  let s := s.thMod fun t => { t with ruleFor := vput t.ruleFor g new }
  if s.guardBad g then s
  else if fault then s.markGuard g 0
  else
    match new.find? fun e => decide (guardTime e.1 ≤ e.2) with
    | some e => s.markGuard g e.1
    | none => s

/-- `PLAUSIBILITY_CHECK`. -/
def execPlausibilityCheck (s : State) : Res :=
  .next (
    if s.dom.lineRst ∨ !s.dom.powered ∨ !s.therm.sampled then s
    else
      let s := s.thMod fun t => { t with past := (s.powerW, (List.range 10).map fun g => s.temp (guardSensor g)) :: t.past.take 20,
                                         crossFor := if s.coolantCrossed then t.crossFor + 1 else 0 }
      (List.range 10).foldl (fun s g => s.checkGuard g) s)

/-- A write of GUARD_CLEAR: refused while a guard it names still breaks a rule (R404). -/
def State.guardClear (s : State) (mask : Nat) : Bool × State :=
  let gs := (List.range 10).filter fun g => nbit mask g == 1 && s.guardBad g
  if gs.any fun g => s.tFault (guardSensor g) || [1, 2, 3, 4, 5, 6, 7].any (s.guardRule g) then (false, s)
  else
    (true, gs.foldl (fun s g =>
      let s := s.fset R.THERM_STATUS_GUARD_BAD (s.fget R.THERM_STATUS_GUARD_BAD - 2 ^ g)
      (s.report thermSource .thermGuard g 0 true).plaus g) s)

/-! ## The sample of every sensor (R391) -/

/-- A guard that reads FAULT is marked at once (R403). -/
def State.markFaults (s : State) : State :=
  (List.range 10).foldl (fun s g => if s.tFault (guardSensor g) ∧ s.guardBad g = false then s.markGuard g 0 else s) s

/-- The soft trip by the sample just taken: it begins with a sensor, and ends when every sensor has been below its release for 10 s (R405). -/
def State.softStep (s : State) : State :=
  match s.softTripped with
  | some i =>
    let s := s.thMod fun t => { t with coolFor := 0 }
    if nbit s.therm.causes 1 = 1 then s
    else
      let s := s.thMod fun t => { t with soft := i }
      (s.forceOn 1 (sensorPlace i)).report thermSource .thermSoft i 0
  | none =>
    let s := s.thMod fun t => { t with coolFor := if s.softCool then t.coolFor + 1 else 0 }
    if nbit s.therm.causes 1 = 1 ∧ 10000 < s.therm.coolFor then
      (s.forceOff 1).report thermSource .thermSoft s.therm.soft 0 true
    else s

/-- `SENSOR_SAMPLE`: a reading of every sensor in 1/64 K, none for one that is open or shorted. -/
def execSensorSample (l : List (Option Int)) (s : State) : Res :=
  .next (
    if s.dom.lineRst ∨ !s.dom.powered then s
    else
      let rd := fun i => (l.getD i none)
      let s := s.thMod fun t => { t with sampled := true, temp := Vector.ofFn fun i => (rd i.val).getD (vget 0 t.temp i.val),
                                         fault := Vector.ofFn fun i => (rd i.val).isNone }
      let s := ((List.range 197).foldl (fun s i => s.sensorReg i) s).markFaults
      let s := (s.fset R.THERM_TEMPS_TJ_HOT (tenths s.tjHot)).fset R.THERM_TEMPS_MEM_HOT (tenths (maxTemp ((List.range 8).map s.tm)))
      let s := (s.fset R.THERM_TEMPS_INLET (tenths s.tIn)).fset R.THERM_TEMPS_OUTLET (tenths s.outlet)
      let s := if s.dom.worksRst then s else (List.range 8).foldl (fun s n => s.refresh2x n) s
      s.softStep)

end Sys2Proof.Machine
end

