-- ==== Sys2Proof/Machine/RingCore.lean ====
section
/-! DEFINITION. Command rings (R213-R219, R222-R224, R229): entries, the gate before a command, the choice of the next command by
class and resources, claims, and completions. -/

namespace Sys2Proof.Machine

/-! ## Entries (R214, R215) -/

/-- Who reads for the active controller. -/
def State.rqRc (s : State) : Rq := ⟨0, 3, s.rcSource⟩

/-- Slots of a ring. -/
def State.ringSize (s : State) (r : Nat) : Nat := 2 ^ s.rf r R.RING_CFG_SIZE_LOG2

/-- Address of the slot of an entry. -/
def State.entryAddr (s : State) (r idx : Nat) : Nat := s.rf r R.RING_BASE_BASE + 64 * (idx % s.ringSize r)

/-- The eight words of an entry, if they can be read. -/
def State.readEntry (s : State) (r idx : Nat) : Option (List Nat) × State :=
  match s.memRead s.rqRc (s.entryAddr r idx) 64 with
  | (.ok l, s) => (some (words64 8 l), s)
  | (.error _, s) => (none, s)

/-- Word `k` of an entry. -/
def ew (w : List Nat) (k : Nat) : Nat := w.getD k 0
/-- OPCODE. -/
def eOp (w : List Nat) : Nat := nbits (ew w 0) 63 56
/-- EPOCH. -/
def eEpoch (w : List Nat) : Nat := nbits (ew w 0) 31 0
/-- Entries a ring has not started, as a difference of free-running indices. -/
def State.ringLeft (s : State) (r : Nat) : Nat := (2 ^ 32 + s.rf r R.RING_WR_WR_IDX - s.rf r R.RING_IDX_RD_IDX) % 2 ^ 32
/-- Is a ring periodic? -/
def State.periodic (s : State) (r : Nat) : Bool := s.rflag r R.RING_CFG_PERIODIC

/-- The head of a ring: the next entry's index and its words; of a periodic ring, the next entry of the batch it runs (R222). -/
def State.ringHead (s : State) (r : Nat) : Option (Nat × Option (List Nat)) :=
  if s.periodic r then
    match (s.ring r).cur with
    | some b => b.entries.head?.map fun e => (e.1, some e.2)
    | none => none
  else if s.ringLeft r = 0 ∨ 2 ^ 31 ≤ s.ringLeft r then none
  else some (s.rf r R.RING_IDX_RD_IDX, (s.readEntry r (s.rf r R.RING_IDX_RD_IDX)).1)

/-! ## The gate (R215, R216, R218, R229) -/

/-- The operand words each opcode lists, with the bits they may use; none for a reserved opcode (R216, R225). -/
def opMasks (op : Nat) : Option (List (Nat × Nat)) :=
  let all := 2 ^ 64 - 1
  match op with
  | 0x00 | 0x02 | 0x04 | 0x21 => some []
  | 0x01 => some [(1, all)]
  | 0x03 => some [(1, all), (2, all)]
  | 0x10 => some [(1, all), (2, all), (3, all), (4, all)]
  | 0x11 => some [(1, all), (2, 7)]
  | 0x20 => some [(1, 0x13F), (2, all), (3, all), (4, all)]
  | 0x22 => some [(1, 0xFFFF)]
  | 0x23 => some [(1, 1)]
  | 0x28 => some [(1, 0x103FF), (2, all), (3, all), (4, 0xFFFFFFFF)]
  | 0x29 => some [(1, 0x3FF), (2, all), (3, 0xFFFFFFFF)]
  | 0x30 => some [(1, 0x307), (2, all), (3, all), (4, all)]
  | 0x38 => some [(1, 0xFF00000000000000), (2, all), (3, 0xFFFFFFFFFFFF0000)]
  | 0x3F => some [(1, 0x3F), (2, 0xFFFFFFFF)]
  | _ => none

/-- Do bytes [a, a + n) lie in main memory, in one device? -/
def inMain (a n : Nat) : Bool :=
  match locOf a with
  | .md _ _ => decide (n ≤ roomFrom a)
  | _ => false

/-- Is an entry outside R215 and R216: a reserved opcode or bit, or an operand outside its range? -/
def entryBad (w : List Nat) : Bool :=
  nbits (ew w 0) 55 50 != 0 || nbits (ew w 0) 47 32 != 0 ||
  match opMasks (eOp w) with
  | none => true
  | some ms =>
    ([1, 2, 3, 4, 5].any fun k => ew w k &&& (2 ^ 64 - 1 - ((ms.find? (·.1 == k)).map (·.2)).getD 0) != 0) ||
    match eOp w with
    | 0x03 => !inMain (ew w 1) (max 1 (ew w 2))
    | 0x10 => decide (nbits (ew w 1) 31 16 < nbits (ew w 1) 15 0)
    | 0x11 => !inMain (ew w 1) 256
    | 0x30 => !inMain (ew w 4) 64
    | 0x38 => eEpoch w != 0 || decide (nbits (ew w 1) 63 56 = 0 ∨ 4 < nbits (ew w 1) 63 56)
    | _ => false

/-- What the gate says of a head command. -/
inductive Verdict
  | run
  | held
  | fail (status : Nat)
  deriving DecidableEq, Repr

/-- Is an apply of the committed epoch still owed (R147)? -/
def State.applyOwed (s : State) : Bool := s.we.toList.any (·.owed.isSome)

/-- The logical tiles a DISPATCH names. -/
def dispatchTiles (w : List Nat) : List Nat :=
  let a := nbits (ew w 1) 15 0
  (List.range (nbits (ew w 1) 31 16 + 1 - a)).map (· + a)

/-- May every tile of a DISPATCH be dispatched to (R218)? -/
def State.tilesThere (s : State) (w : List Nat) : Bool :=
  s.prog.loaded && decide (nbits (ew w 1) 31 16 < s.prog.tiles) &&
    (dispatchTiles w).all fun l =>
      match s.physOf l with
      | some p => s.tileState p != 0 && s.tileState p != 5
      | none => false

/-- Commands that need a job (R218). -/
def jobOp (op : Nat) : Bool := [0x02, 0x20, 0x21, 0x22, 0x23, 0x28, 0x29].contains op

/-- The gate of a job-ring entry with a nonzero EPOCH (R218, R229). -/
def State.epochGate (s : State) (r e : Nat) : Verdict :=
  if !s.rflag r R.RING_CFG_JOB then .fail 0x0902
  else if s.rflag r R.RING_CFG_NO_EPOCH then .fail 0x0901
  else if !s.job.active then .fail 0x0902
  else if s.epochC = 0xFFFFFFFF ∨ e ≤ s.epochC then .fail 0x0908
  else if e ≠ s.openE then .held
  else if s.estate = 2 then .fail 0x0908
  else if s.estate ≠ 1 ∨ s.applyOwed then .held
  else .run

/-- A vote without an EPOCH is one on the open epoch, and waits like every command of it while an apply is owed (R147). -/
def State.voteHeld (s : State) (w : List Nat) : Bool := (eOp w == 0x21 || eOp w == 0x22) && s.job.active && s.applyOwed

/-- The gate of a head command. -/
def State.gate (s : State) (r : Nat) (words : Option (List Nat)) : Verdict :=
  match words with
  | none => .fail 0x0901
  | some w =>
    if entryBad w then .fail 0x0901
    else
      match if eEpoch w = 0 then (if s.voteHeld w then .held else .run) else s.epochGate r (eEpoch w) with
      | .held => .held
      | .fail c => .fail c
      | .run =>
        if jobOp (eOp w) ∧ !s.job.active then .fail 0x0902
        else if eOp w = 0x01 ∧ s.rflag r R.RING_CFG_JOB then .fail 0x0901
        else if eOp w = 0x10 ∧ !s.tilesThere w then .fail 0x0906
        else .run

/-! ## Start opportunities (R219, R224) -/

/-- A resource a command names. -/
inductive Need
  | tile (p : Nat)
  | engine (n : Nat)
  | scrubber (n : Nat)
  deriving DecidableEq, Repr

/-- The resources of a command. -/
def State.needs (s : State) (w : List Nat) : List Need :=
  match eOp w with
  | 0x10 => (dispatchTiles w).filterMap fun l => (s.physOf l).map .tile
  | 0x11 => [.engine (ew w 2)]
  | 0x30 => [.scrubber (ew w 1 % 8)]
  | _ => []

/-- Does a running command name a tile? -/
def State.tileClaimed (s : State) (p : Nat) : Bool :=
  s.rings.toList.any fun r =>
    match r.run with
    | some u =>
      match u.wait with
      | .tiles l => l.any (·.1 == p)
      | _ => false
    | none => false

/-- Is a resource free? -/
def State.isFree (s : State) : Need → Bool
  | .tile p => (s.tileState p == 1 || s.tileState p == 4) && !s.tileClaimed p
  | .engine n => decide ((s.weng n).depth < 64)
  | .scrubber n => !(vget Md.reset s.md n).scrub.running

/-- May a ring start a command at all: enabled, not stopped, none running? -/
def State.ringReady (s : State) (r : Nat) : Bool :=
  s.rflag r R.RING_CFG_EN && !s.ringStopped r && (s.ring r).run.isNone

/-- Is a ring in catch-up with its allowance not used up (R224)? -/
def State.catchUp (s : State) (r : Nat) : Bool :=
  let x := s.ring r
  s.rflag r R.RING_CFG_EN && s.periodic r && decide (0 < x.lag) &&
    match x.cur with
    | some b => decide (s.rtime < b.began + s.od D.CATCHUP_PCT * s.rf r R.RING_PERIOD_PERIOD * 10)
    | none => false

/-- Classes above this one start nothing: the highest class of a ring in catch-up, 3 if none. -/
def State.classLimit (s : State) : Nat :=
  (((List.range 64).filter s.catchUp).map fun r => s.rf r R.RING_CFG_CLASS).foldl min 3

/-- The rings of a class in round-robin order. -/
def State.classRings (s : State) (c : Nat) : List Nat :=
  let k := vget 0 s.rrNext c
  ((List.range 64).map fun i => (k + i) % 64).filter fun r => s.ringReady r && s.rf r R.RING_CFG_CLASS == c

/-- The first ring of a class whose head may start, or the resources that its blocked heads reserve. -/
def State.pickIn (s : State) (taken : List Need) : List Nat → Except (List Need) Nat
  | [] => .error []
  | r :: l =>
    match s.ringHead r with
    | none => s.pickIn taken l
    | some (_, words) =>
      match s.gate r words with
      | .held => s.pickIn taken l
      | .fail _ => .ok r
      | .run =>
        let n := s.needs (words.getD [])
        if n.all fun x => s.isFree x && !taken.contains x then .ok r
        else
          match s.pickIn taken l with
          | .ok r => .ok r
          | .error m => .error (n ++ m)

/-- The ring that starts next: classes ascending, each keeping what higher classes reserve. -/
def State.pickFrom (s : State) (taken : List Need) : List Nat → Option Nat
  | [] => none
  | c :: l =>
    match s.pickIn taken (s.classRings c) with
    | .ok r => some r
    | .error m => s.pickFrom (taken ++ m) l

/-- The ring that starts next, if the active controller serves, has ended its failover (R268, R272), and any may start. -/
def State.pick (s : State) : Option Nat :=
  if s.rcServes ∧ s.rc.taking = none then s.pickFrom [] (List.range (s.classLimit + 1)) else none

/-! ## Claims (R217, R265) -/

/-- The epoch a command belongs to; an EPOCH_END or EPOCH_ABORT without one acts on the open epoch. -/
def State.epochOf (s : State) (w : List Nat) : Nat :=
  if eEpoch w = 0 ∧ (eOp w = 0x21 ∨ eOp w = 0x22) then s.openE else eEpoch w

/-- The controller record of ring `r` is written (R265): the active's copy, and at once the other's while that controller is STANDBY, or
SYNCING with the write applied to the copy under way (R266). -/
def State.recPut (s : State) (r : Nat) (u : Option RingRun) : State :=
  let a := s.rcActive % 2
  let both := s.rcState (1 - a) == 2 || s.rcState (1 - a) == 3
  let recs := vmod s.rc.recs a fun v => vput v r u
  { s with rc := { s.rc with recs := if both then vmod recs (1 - a) fun v => vput v r u else recs } }

/-- Set what the running command of a ring waits for. -/
def State.setWait (s : State) (r : Nat) (x : CmdWait) : State :=
  s.setRing r { s.ring r with run := (s.ring r).run.map fun u => { u with wait := x } }

/-- The running command of a ring waits for something, with the sequence numbers it uses: they join the record (R265). -/
def State.noteWait (s : State) (r : Nat) (x : CmdWait) : State :=
  let s := s.setWait r x
  s.recPut r (s.ring r).run

/-- The head of a ring is claimed: RD_IDX moves on, or the batch does; the command is noted as running. -/
def State.claim (s : State) (r idx : Nat) (w : List Nat) : State :=
  let x := s.ring r
  let u : RingRun := ⟨idx, w, .done 0 0 0, s.epochOf w, false⟩
  let s :=
    if s.periodic r then
      s.setRing r { x with run := some u, cur := x.cur.map fun b => { b with entries := b.entries.drop 1 } }
    else (s.setRing r { x with run := some u }).fset (R.RING_IDX_RD_IDX.at (ringOff r)) (idx + 1)
  { s with rrNext := vput s.rrNext (s.rf r R.RING_CFG_CLASS) ((r + 1) % 64) }

/-- A row that starts the head command of ring `r` where that ring is the one to start and its command is one of this row. The body
runs with the claim made and answers what the command waits for. -/
def State.startRow (s : State) (r : Nat) (mine : Nat → Bool) (body : State → List Nat → CmdWait × State) : State :=
  if s.pick ≠ some r then s
  else
    match s.ringHead r with
    | none => s
    | some (idx, words) =>
      let w := words.getD []
      if !mine (if words.isSome then eOp w else 0xFF) then s
      else
        let s' := if s.periodic r then s else (s.readEntry r idx).2
        let s' := s'.claim r idx w
        match s.gate r words with
        | .fail c => s'.noteWait r (.done c 0 0)
        | _ =>
          let (x, s') := body s' w
          s'.noteWait r x

/-! ## Completion (R215-R218, R223, R230, R235) -/

/-- DONE_IDX of ring `r` has reached an index, as a signed 32-bit difference. -/
def State.doneAt (s : State) (r idx : Nat) : Bool :=
  decide ((2 ^ 32 + s.rf r R.RING_IDX_DONE_IDX - idx) % 2 ^ 32 < 2 ^ 31)

/-- Has a dispatched tile settled: IDLE or TRAPPED with its dispatch done, reported so, or fenced (R93, R98)? -/
def State.tileSettled (s : State) (e : Nat × Nat) : Bool :=
  decide (2 ^ 32 ≤ e.2) || s.tileState e.1 == 0 || s.tileState e.1 == 5 ||
    ((s.tileState e.1 == 1 || s.tileState e.1 == 4) && s.fget (R.TILE_SEQ_SEQ.at (tileOff e.1)) == e.2
      && (s.tile e.1).held.isNone)

/-- Are all commands of an epoch done but the one of ring `own`: none runs, and no job ring has an entry of it at its head (R230)? -/
def State.epochQuiet (s : State) (own e : Nat) : Bool :=
  (List.range 64).all fun r =>
    (r == own || match (s.ring r).run with
      | some u => u.epoch != e
      | none => true) &&
    (!s.rflag r R.RING_CFG_JOB || s.ringStopped r ||
      match s.ringHead r with
      | some (_, some w) => eEpoch w != e
      | _ => true)

/-- Is every job ring empty but `own`, enabled or not (R221)? A periodic ring, whose entries run again in every period, is empty between
its batches. -/
def State.jobRingsEmpty (s : State) (own : Nat) : Bool :=
  (List.range 64).all fun r =>
    r == own || !s.rflag r R.RING_CFG_JOB ||
      ((s.ring r).run.isNone && (s.ring r).cur.isNone && (s.ringLeft r == 0 || s.periodic r))

/-- Does the open epoch hold staged writes or listed commit actions? -/
def State.staged (s : State) : Bool :=
  (s.umeta.any fun e => e.2.reg && decide (s.epochC < e.2.tag)) || s.we.toList.any fun w => w.acts.any fun a => dEpoch a.desc == s.openE

/-- Is what a command waits for over? -/
def State.waitOver (s : State) (r : Nat) (u : RingRun) : Bool :=
  match u.wait with
  | .done _ _ _ => true
  | .tiles l => l.all s.tileSettled
  | .engine _ _ d => dCommit d
  | .jobEmpty => s.jobRingsEmpty r
  | .jobAbort => s.estate != 4
  | .epochEnd => u.closed || s.estate != 1 || s.epochQuiet r u.epoch
  | .noTile => (List.range 192).all fun p => s.tileState p != 2 && s.tileState p != 3
  | .scrub _ => false
  | .windowOut _ _ => false
  | .ring q idx => s.doneAt q idx

/-- Status and DETAIL of a dispatch whose tiles have settled. -/
def State.tilesStatus (s : State) (l : List (Nat × Nat)) : Nat × Nat :=
  if l.any fun e => e.2 == 2 ^ 32 || (decide (e.2 < 2 ^ 32) && (s.tileState e.1 == 0 || s.tileState e.1 == 5)) then (0x0906, 0)
  else
    match (l.filter fun e => if 2 ^ 32 < e.2 then e.2 == endMark true else s.tileState e.1 == 4).map fun e => s.logicalOf e.1 with
    | [] => (0, 0)
    | x :: t => (0x0907, t.foldl min x)

/-- A period's work is done: the lag, its counter and events (R223). The next queued batch begins. -/
def State.periodDone (s : State) (r : Nat) (b : Batch) : State :=
  let due := s.csrGet (R.RING_PHASE + ringOff r) |>.toNat
  let next := due + (b.k + 1) * 1000 * s.rf r R.RING_PERIOD_PERIOD
  let lag := s.rtime - next
  let x := s.ring r
  let us := min (lag / 1000) 0xFFFFFFFF
  let s := s.setRing r { x with lag := lag, cur := x.queued.head?.map fun q => { q with began := s.rtime }, queued := x.queued.drop 1 }
  let s := s.fset (R.RING_LAG_LAG_US.at (ringOff r)) us
  let s := s.fset (R.RING_LAG_MAX_LAG_US.at (ringOff r)) (max us (s.rf r R.RING_LAG_MAX_LAG_US))
  let s := s.odPut D.MAX_LAG (max us (s.od D.MAX_LAG))
  if 0 < lag then
    let s := s.bump (R.RING_EVENTS_LATE_COUNT.at (ringOff r)) (R.RING_FLAGS_LATE_OVF.at (ringOff r))
    if x.lag = 0 then s.event s.rcSource 0x0984 (leBytes 1 r ++ [0, 0, 0] ++ leBytes 4 us) else s
  else if 0 < x.lag then
    s.event s.rcSource 0x0985 (leBytes 1 r ++ [0, 0, 0] ++ leBytes 4 (s.rf r R.RING_LAG_MAX_LAG_US))
  else s

/-- A command completes: words 6 and 7, DONE_IDX, CMD_DONE, and the stop on BAD_ENTRY. -/
def State.finish (s : State) (r : Nat) (u : RingRun) (status detail event : Nat) : State :=
  let status := if u.closed then 0x0909 else status
  let a := s.entryAddr r u.idx
  let s := (s.memWrite s.rcSource (a + 48) (leBytes 4 detail ++ [0, 0] ++ leBytes 2 status ++ leBytes 8 s.rtime)).2
  let s := (s.setRing r { s.ring r with run := none }).recPut r none
  let s := if s.periodic r then s else s.fset (R.RING_IDX_DONE_IDX.at (ringOff r)) (u.idx + 1)
  let s :=
    if u.epoch ≠ 0 ∧ u.epoch = s.openE ∧ status ≠ 0 ∧ status ≠ 0x0908 ∧ status ≠ 0x0909 ∧ s.epoch.firstFail = 0 then
      s.epMod fun x => { x with firstFail := status }
    else s
  let s :=
    if nbit (ew u.words 0) 48 = 1 then
      s.event s.rcSource 0x0980 (leBytes 1 r ++ [0, 0, 0] ++ leBytes 4 u.idx ++ leBytes 2 status ++ [0, 0] ++ leBytes 4 event)
    else s
  if status = 0x0901 then s.stopRing r 1 u.idx
  else
    match (s.ring r).cur with
    | some b => if b.entries.isEmpty then s.periodDone r b else s
    | none => s

end Sys2Proof.Machine
end

