-- ==== Sys2Proof/Machine/Rings.lean ====
section
/-! DEFINITION. The ring commands (R213-R226, R230, R237-R239), their completion, the releases of periodic rings, and the ring
registers. -/

namespace Sys2Proof.Machine

/-! ## Jobs (R220, R221, R330) -/

/-- Pairs of 64-bit words at an offset: bases and lengths. -/
def pairsAt (l : List Byte) (k n : Nat) : List (Nat × Nat) := (List.range n).map fun i => (leAt l (k + 16 * i) 8, leAt l (k + 16 * i + 8) 8)

/-- A job from the bytes of its descriptor. -/
def Job.ofBytes (l : List Byte) : Job :=
  let dest := (List.range (leAt l 4 2)).map fun r => leAt l (0x1C0 + 2 * r) 2
  { active := true, id := leAt l 0 4, members := leAt l 4 2, rank := leAt l 6 2, seed := BitVec.ofNat 64 (leAt l 8 8)
    mainR := pairsAt l 0x40 (leAt l 0x14 2), wsR := pairsAt l 0x140 (leAt l 0x16 2)
    nRegions := leAt l 0x18 2, nWindows := leAt l 0x1A 2, dest := dest, groups := []
    digest := jobDigest (leAt l 0 4) (leAt l 4 2) dest }

/-- Is a group entry outside R330? -/
def groupBad (dest : List Nat) (b : List Byte) : Bool :=
  let slots := leAt b 0 16
  let dies := leAt b 16 1
  (crc32c (b.take 28)).toNat != leAt b 28 4 || decide (2 ^ 96 ≤ slots) || decide (16 ≤ dies) || leAt b 17 8 != 0 || leAt b 25 3 != 0 ||
    (if dies = 0 then slots != 0
     else slots == 0 || (List.range 96).any fun i => nbit slots i == 1 && !dest.contains (0x010 + i))

/-- Is a descriptor with its group table outside R220 and R330? -/
def State.descBad (s : State) (l : List Byte) : Bool :=
  let j := Job.ofBytes l
  crcWithout (l.take 0x280) 0x1C != leAt l 0x1C 4 || j.id == 0 || decide (j.members = 0 ∨ 96 < j.members ∨ j.members ≤ j.rank)
    || leAt l 0x10 4 == 0 || decide (leAt l 0x14 2 = 0 ∨ 16 < leAt l 0x14 2 ∨ 8 < leAt l 0x16 2 ∨ 64 < j.nRegions ∨ 1024 < j.nWindows)
    || ((l.drop 0x20).take 0x20).any (· != 0)
    || j.mainR.any (fun e => e.2 == 0 || decide (8 * mdSize < e.1 + e.2))
    || j.wsR.any (fun e => e.2 == 0 || decide (e.1 < wsBase ∨ wsBase + 8 * wsSize < e.1 + e.2))
    || j.dest.any (fun d => decide (d < 0x010 ∨ 0x06F < d)) || !j.dest.Nodup || j.dest.getD j.rank 0 != s.ownId
    || (slices 32 256 (l.drop 0x280)).any (groupBad j.dest)

/-- A job is set up: the job record, C, the open attempt, the multicast groups. -/
def State.launchJob (s : State) (l : List Byte) : State :=
  let j := { Job.ofBytes l with groups := (slices 32 256 (l.drop 0x280)).map fun b => (leAt b 0 16, leAt b 16 1) }
  let s := (s.collsCommit).metaClean fun u => (s.metaHeld (4096 * u)).reg
  let s := { s with job := j, regions := .replicate 64 none, umeta := [], windows := [], epoch := .none, barInbox := []
                    router := { s.router with mcgOld := [] } }
  let s := (List.range 256).foldl (fun s g =>
    let slots := (j.groups.getD g (0, 0)).1
    (s.csrPut (R.MCG + 16 * g) (BitVec.ofNat 64 slots)).csrPut (R.MCG + 16 * g + 8) (BitVec.ofNat 64 (slots / 2 ^ 64))) s
  let s := (s.fset R.EPOCH_STATUS_COMMITTED (leAt l 0x10 4 - 1)).fset R.EPOCH_STATUS_ATTEMPT 0
  (s.setFlag R.EPOCH_STATUS_COORD (j.rank == 0)).setEstate 1

/-- A status at once. -/
def now_ (c : Nat) (s : State) : CmdWait × State := (.done c 0 0, s)

/-- `JOB_LAUNCH`. A descriptor that cannot be read is outside R220. -/
def execJobLaunch (r : Fin 64) (s : State) : Res :=
  .next (s.startRow r.val (· == 0x01) fun s w =>
    if s.job.active then now_ 0x0903 s
    else if ew w 1 % 64 ≠ 0 ∨ !inMain (ew w 1) 0x2280 then now_ 0x0904 s
    else
      match s.memRead s.rqRc (ew w 1) 0x2280 with
      | (.error _, s) => now_ 0x0904 s
      | (.ok l, s) =>
        if s.descBad l then now_ 0x0904 s
        else if 1 < leAt l 4 2 ∧ s.shunting then now_ 0x0905 s
        else now_ 0 (s.launchJob l))

/-- `JOB_END`: it waits for the job rings. -/
def execJobEnd (r : Fin 64) (s : State) : Res := .next (s.startRow r.val (· == 0x02) fun s _ => (.jobEmpty, s))

/-! ## Programs and work (R93, R138, R216) -/

/-- `RING_NOP`. A head that has no readable or listed opcode is taken here and completes with BAD_ENTRY. -/
def execRingNop (r : Fin 64) (s : State) : Res :=
  .next (s.startRow r.val (fun op => op == 0 || (opMasks op).isNone) fun s _ => now_ 0 s)

/-- `LOAD`. Bytes that cannot be read are bytes whose CRC fails (R122). -/
def execLoad (r : Fin 64) (s : State) : Res :=
  .next (s.startRow r.val (· == 0x03) fun s w =>
    match s.memRead s.rqRc (ew w 1) (ew w 2) with
    | (.ok l, s) =>
      let (c, s) := s.loadImage l
      now_ c s
    | (.error _, s) => now_ 0x0102 ((s.odPut D.LOAD_CODE 0x0102).odPut D.LOAD_DETAIL 0))

/-- `UNLOAD`: it waits until no tile runs. -/
def execUnload (r : Fin 64) (s : State) : Res := .next (s.startRow r.val (· == 0x04) fun s _ => (.noTile, s))

/-- One dispatch of the controller: the next sequence number of the tile, noted in the controller record. -/
def State.sendDispatch (s : State) (p : Nat) (w : List Nat) : (Nat × Nat) × State :=
  let seq := (s.fget (R.TILE_SEQ_SEQ.at (tileOff p)) + 1) % 2 ^ 32
  ((p, seq), s.arrive p ⟨seq, nbits (ew w 1) 63 32, BitVec.ofNat 64 (ew w 2), BitVec.ofNat 64 (ew w 3), BitVec.ofNat 64 (ew w 4)⟩)

/-- The dispatches of a list of tiles. -/
def State.sendDispatches (s : State) (w : List Nat) : List Nat → List (Nat × Nat) × State
  | [] => ([], s)
  | p :: l =>
    let (e, s) := s.sendDispatch p w
    let (t, s) := s.sendDispatches w l
    (e :: t, s)

/-- `DISPATCH`. -/
def execDispatch (r : Fin 64) (s : State) : Res :=
  .next (s.startRow r.val (· == 0x10) fun s w =>
    let (l, s) := s.sendDispatches w ((dispatchTiles w).filterMap s.physOf)
    (.tiles l, s))

/-- `WE_POST`: the controller gives the descriptor the engine's next sequence number, writes it to the `WE_POST` registers and posts it
(R137). A commit action that is accepted is complete, and its number stands in the record until the completion is claimed (R265). A descriptor with an uncorrectable byte
completes with WE_ECC, one in memory that is fenced or in reset with WE_NOT_READY. -/
def execWePost (r : Fin 64) (s : State) : Res :=
  .next (s.startRow r.val (· == 0x11) fun s w =>
    match s.memRead s.rqRc (ew w 1) 256 with
    | (.error (c, _), s) => now_ (if c = 3 then 0x0610 else 0x060B) s
    | (.ok l, s) =>
      let n := ew w 2
      let d := words64 32 l
      let seq := (s.fget (R.WE_QSTAT_SEQ.at (mdOff n)) + 1) % 2 ^ 32
      let d := (ew d 0 / 2 ^ 32 * 2 ^ 32 + seq) :: d.drop 1
      let (c, s) := (s.wePostWrite n d).wePost n (s.rflag r.val R.RING_CFG_JOB) d
      if c ≠ 0 then now_ c s else (.engine n seq d, s))

/-- `SCRUB`. -/
def execScrub (r : Fin 64) (s : State) : Res :=
  .next (s.startRow r.val (· == 0x30) fun s w =>
    let n := ew w 1 % 8
    let (c, s) := s.scrubStart n (nbit (ew w 1) 8 == 1) (ew w 2) (ew w 3) (nbit (ew w 1) 9) (some r.val) false
    if c ≠ 0 then now_ c s else (.scrub n, s))

/-- `POWER_HINT`. -/
def execPowerHint (r : Fin 64) (s : State) : Res :=
  .next (s.startRow r.val (· == 0x38) fun s w =>
    now_ 0 (s.powerHint (nbits (ew w 1) 63 56) (ew w 2) (nbits (ew w 3) 63 32) (nbits (ew w 3) 31 16)))

/-- `WAIT_RING`. -/
def execWaitRing (r : Fin 64) (s : State) : Res :=
  .next (s.startRow r.val (· == 0x3F) fun s w => (.ring (ew w 1) (ew w 2), s))

/-! ## Regions (R226) -/

/-- Do two ranges overlap? -/
def overlap (a n b m : Nat) : Bool := decide (a < b + m ∧ b < a + n)

/-- Does a range overlap a registered region, a shadow or an enabled ring? -/
def State.rangeTaken (s : State) (a n : Nat) : Bool :=
  (s.regions.toList.any fun g =>
    match g with
    | some g => overlap a n g.base g.len || overlap a n g.shadow g.len
    | none => false) ||
  (List.range 64).any fun r => s.rflag r R.RING_CFG_EN && overlap a n (s.rf r R.RING_BASE_BASE) (64 * s.ringSize r)

/-- Does a registration break R226? -/
def State.regionBad (s : State) (i a b n : Nat) : Bool :=
  decide (s.job.nRegions ≤ i) || (vget none s.regions i).isSome || (s.umeta.any fun e => e.2.reg && decide (s.epochC < e.2.tag))
    || n == 0 || decide (48 * 2 ^ 30 < n) || a % 65536 != 0 || b % 65536 != 0 || n % 65536 != 0
    || !inMain a n || !inMain b n || a / mdSize != b / mdSize || !insideAll s.job.mainR a n || !insideAll s.job.mainR b n
    || overlap a n b n || s.rangeTaken a n || s.rangeTaken b n

/-- Unregister a region: its staged writes go, every unit whose committed data lies in the shadow is copied into the base, and the
region's windows are cleared (R226, R239). -/
def State.unregister (s : State) (i : Nat) : State :=
  match vget none s.regions i with
  | none => s
  | some g =>
    let c := s.epochC
    let mine := s.umeta.filter fun e => e.2.reg && e.2.region == i
    let s := mine.foldl (fun s e =>
      let sel := if c < e.2.tag then !e.2.sel else e.2.sel
      if sel then s.copyCells (g.shadow + (4096 * e.1 - g.base)) (4096 * e.1) 4096 else s) s
    let s := s.metaClean fun u => (s.metaHeld (4096 * u)).region == i && (s.metaHeld (4096 * u)).reg
    { s with regions := vput s.regions i none
             umeta := s.umeta.filter fun e => !(e.2.reg && e.2.region == i)
             windows := s.windows.filter fun w => match w.2 with
               | some w => w.region != i
               | none => true }

/-- `REGION`. -/
def execRegion (r : Fin 64) (s : State) : Res :=
  .next (s.startRow r.val (· == 0x20) fun s w =>
    let i := ew w 1 % 64
    if nbit (ew w 1) 8 = 1 then
      if (vget none s.regions i).isSome then now_ 0 (s.unregister i) else now_ 0x090A s
    else if s.regionBad i (ew w 2) (ew w 3) (ew w 4) then now_ 0x090A s
    else
      let t := { s with regions := vput s.regions i (some ⟨ew w 2, ew w 3, ew w 4⟩) }
      now_ 0 (t.metaClean fun u => (t.metaHeld (4096 * u)).region == i && (t.metaHeld (4096 * u)).reg))

/-! ## Votes and resolution (R230, R237) -/

/-- `EPOCH_END`: it waits for the epoch's commands. -/
def execEpochEnd (r : Fin 64) (s : State) : Res :=
  .next (s.startRow r.val (· == 0x21) fun s _ => if s.estate ≠ 1 then now_ 0x0908 s else (.epochEnd, s))

/-- The running command of a ring precedes the abort that it casts. -/
def State.reopenRun (s : State) (r : Nat) : State :=
  s.setRing r { s.ring r with run := (s.ring r).run.map fun u => { u with closed := false } }

/-- `EPOCH_ABORT`. -/
def execEpochAbort (r : Fin 64) (s : State) : Res :=
  .next (s.startRow r.val (· == 0x22) fun s w =>
    if s.estate ≠ 1 then now_ 0x0908 s
    else now_ 0 ((s.cast true (if ew w 1 = 0 then 0x0912 else ew w 1)).reopenRun r.val))

/-- `EPOCH_RESOLVE`: the driver's decision at a VOTED member. A resolved abort carries the cause DRIVER_ABORT; at the coordinator the
resolution is its decision. -/
def execEpochResolve (r : Fin 64) (s : State) : Res :=
  .next (s.startRow r.val (· == 0x23) fun s w =>
    let commit := nbit (ew w 1) 0 == 1
    if s.estate ≠ 2 then now_ 0x090C s
    else if s.job.rank = 0 then now_ 0 (s.decide_ commit (if commit then 0 else 0x0912) 0)
    else if commit then now_ 0 (s.memberCommit s.openE s.attempt)
    else now_ 0 (s.memberAbort 0x0912 s.job.rank))

/-! ## Windows (R238, R239) -/

/-- What an unlisted window holds. -/
def winDflt : Nat → Option Window := fun _ => none

/-- `WINDOW`. -/
def execWindow (r : Fin 64) (s : State) : Res :=
  .next (s.startRow r.val (· == 0x28) fun s w =>
    let i := ew w 1 % 1024
    let off := nbits (ew w 3) 31 0
    let len := nbits (ew w 3) 63 32
    if s.job.nWindows ≤ i then now_ 0x090B s
    else if nbit (ew w 1) 16 = 1 then now_ 0 { s with windows := tset winDflt s.windows i none }
    else
      match vget none s.regions (ew w 2) with
      | none => now_ 0x090B s
      | some g =>
        if len = 0 ∨ 2 ^ 30 < len ∨ g.len < off + len then now_ 0x090B s
        else now_ 0 { s with windows := tset winDflt s.windows i (some ⟨ew w 2, off, len, ew w 4⟩) })

/-- `WINDOW_EXPORT`: the transfer takes its bytes from one committed state. A window not set is refused. -/
def execWindowExport (r : Fin 64) (s : State) : Res :=
  .next (s.startRow r.val (· == 0x29) fun s w =>
    let i := ew w 1 % 1024
    match tget winDflt s.windows i with
    | none => now_ 0x090B s
    | some v =>
      match vget none s.regions v.region with
      | none => now_ 0x090B s
      | some g =>
        let (l, s) := if s.fencedAddr (s.commitAddr (g.base + v.off)) then ([], s)
          else s.readCommitted ⟨0, 3, 0x0401⟩ (g.base + v.off) v.len
        let x : SlRead := ⟨g.base + v.off, ew w 2, v.len, ew w 3, 0, some (i, r.val), l⟩
        (.windowOut (ew w 3) s.epochC, { s with dw := { s.dw with reads := s.dw.reads ++ [x] } }))

/-! ## Completion -/

/-- The end of a job (R221): the program, regions and windows go, the job rings stop, the mirror empties. -/
def State.endJob (s : State) : State :=
  let s := (List.range 64).foldl (fun s i => s.unregister i) s.unload
  let s := ((List.range 64).filter fun r => s.rflag r R.RING_CFG_JOB).foldl
    (fun s r => s.stopRing r 4 (s.rf r R.RING_IDX_RD_IDX)) s
  let s := { s with windows := [], job := .none, epoch := .none, barInbox := [] }
  let s := ((s.fset R.EPOCH_STATUS_ATTEMPT 0).setFlag R.EPOCH_STATUS_COORD false).setEstate 0
  s.collsCommit.clearHints

/-- The abort of the open epoch by JOB_END, without a vote. The manual gives it no cause: a free value. -/
def State.jobEndAbort (s : State) : State :=
  let (v, s) := s.draw
  (s.memberAbort (v.toNat % 65536) s.job.rank).epMod fun x => { x with jobEnd := true }

/-- The running command of ring `r`, whose wait is over, completes or goes on to its next wait. -/
def State.complete (s : State) (r : Nat) (u : RingRun) : State :=
  match u.wait with
  | .done c d e =>
    let s := s.finish r u c d e
    if eOp u.words = 0x01 ∧ c = 0 then s.launchStart else s
  | .tiles l => s.finish r u (s.tilesStatus l).1 (s.tilesStatus l).2 (s.tilesStatus l).2
  | .engine _ _ d => if dCommit d then s.finish r u 0 0 0 else s
  | .jobEmpty =>
    if s.estate = 4 then s.setWait r .jobAbort
    else if s.staged then (s.jobEndAbort.reopenRun r).setWait r .jobAbort
    else s.endJob.finish r u 0 0 0
  | .jobAbort => s.endJob.finish r { u with closed := false } 0 0 0
  | .epochEnd =>
    if u.closed then s.finish r u 0x0909 0 0
    else if s.estate ≠ 1 then s.finish r u 0x0908 0 0
    else (s.cast (s.epoch.firstFail != 0) s.epoch.firstFail).finish r u 0 0 0
  | .noTile => s.unload.finish r u 0 0 0
  | .ring _ _ => s.finish r u 0 0 0
  | _ => s

/-- `COMMAND_COMPLETE`: the active controller claims the completion of ring `r`'s command. -/
def execCommandComplete (r : Fin 64) (s : State) : Res :=
  .next (
    match (s.ring r.val).run with
    | some u => if s.rcServes ∧ s.waitOver r.val u then s.complete r.val u else s
    | none => s)

/-- `ABORT_SWEEP_DONE`: no command of the aborted attempt runs on, or ABORT_DRAIN has passed, and the sweep ends (R235). -/
def execAbortSweepDone (s : State) : Res :=
  .next (
    if s.rcServes ∧ s.estate = 4 ∧ (s.epoch.drained = true ∨ (List.range 64).all fun r =>
        match (s.ring r).run with
        | some u => !u.closed || s.waitOver r u
        | none => true) then s.reopen
    else s)

/-! ## The timetable (R222, R223) -/

/-- The batch of a periodic ring: entries from RD_IDX up to the first with PERIOD_END, up to 256 of those written. -/
def State.fetchBatch (s : State) (r idx : Nat) : Nat → Option (List (Nat × List Nat)) × State
  | 0 => (none, s)
  | n + 1 =>
    match s.readEntry r idx with
    | (none, s) => (some [(idx, [0xFF * 2 ^ 56])], s)
    | (some w, s) =>
      if nbit (ew w 0) 49 = 1 then (some [(idx, w)], s)
      else
        match s.fetchBatch r ((idx + 1) % 2 ^ 32) n with
        | (some l, s) => (some ((idx, w) :: l), s)
        | (none, s) => (none, s)

/-- Period `k` of a ring is released at `PHASE` + k × `PERIOD` (R222). -/
def State.releaseAt (s : State) (q k : Nat) : Nat :=
  (s.csrGet (R.RING_PHASE + ringOff q)).toNat + k * 1000 * s.rf q R.RING_PERIOD_PERIOD

/-- What a release fetched joins the ring, or counts as empty. -/
def State.batchIn (s : State) (q k : Nat) (l : Option (List (Nat × List Nat))) : State :=
  match l with
  | none => s.bump (R.RING_EVENTS_EMPTY_COUNT.at (ringOff q)) (R.RING_FLAGS_EMPTY_OVF.at (ringOff q))
  | some l =>
    let x := s.ring q
    let b : Batch := ⟨k, l, s.rtime⟩
    s.setRing q (if x.cur.isNone then { x with cur := some b } else { x with queued := x.queued ++ [b] })

/-- The release of period `k` of a ring. -/
def State.release (s : State) (q k : Nat) : State :=
  let s := s.setRing q { s.ring q with nextK := k + 1 }
  let e := s.fetchBatch q (s.rf q R.RING_IDX_RD_IDX) (min 256 (s.ringLeft q))
  e.2.batchIn q k e.1

/-- `PERIOD_RELEASE`: a release whose time has come. An entry that cannot be read ends the batch and will be a BAD_ENTRY. -/
def execPeriodRelease (r : Fin 64) (s : State) : Res :=
  .next (
    let q := r.val
    if !s.rcServes ∨ !s.rflag q R.RING_CFG_EN ∨ !s.periodic q ∨ s.ringStopped q ∨ s.rtime < s.releaseAt q (s.ring q).nextK then s
    else s.release q (s.ring q).nextK)

/-! ## Registers (R213, R214, R243) -/

/-- CFG_ERR. -/
def State.cfgErr (s : State) (r : Nat) : State := s.fset (R.RING_STATUS_CFG_ERR.at (ringOff r)) 1

/-- A ring holds more entries than it has slots (R214). -/
def State.overrun (s : State) (r : Nat) : State :=
  if s.ringSize r < (2 ^ 32 + s.rf r R.RING_WR_WR_IDX - s.rf r R.RING_IDX_DONE_IDX) % 2 ^ 32 then
    s.stopRing r 3 (s.rf r R.RING_IDX_RD_IDX)
  else s

/-- May a ring be enabled with the configuration its registers hold (R213, R222)? -/
def State.ringOk (s : State) (r : Nat) : Bool :=
  let a := s.rf r R.RING_BASE_BASE
  let n := 64 * s.ringSize r
  a % 64 == 0 && inMain a n &&
    (s.regions.toList.all fun g =>
      match g with
      | some g => !overlap a n g.base g.len && !overlap a n g.shadow g.len
      | none => true) &&
    (!s.periodic r || (decide (s.rf r R.RING_CFG_CLASS ≤ 1) &&
      decide (((List.range 64).filter fun q => q != r && s.rflag q R.RING_CFG_EN && s.periodic q).length < 16)))

/-- The first release at or after now. -/
def State.firstK (s : State) (r : Nat) : Nat :=
  let p := max 1 (1000 * s.rf r R.RING_PERIOD_PERIOD)
  let ph := (s.csrGet (R.RING_PHASE + ringOff r)).toNat
  if s.rtime ≤ ph then 0 else (s.rtime - ph + p - 1) / p

/-- A ring is enabled or resumed: no stop cause, releases from now on. -/
def State.ringStart (s : State) (r : Nat) : State :=
  let s := s.fset (R.RING_STATUS_STOP_CAUSE.at (ringOff r)) 0
  (s.setRing r { s.ring r with nextK := s.firstK r }).overrun r

/-- A write of the whole of RING_CFG. A reserved SIZE_LOG2 leaves that field unchanged and sets CFG_ERR (R17, R243). -/
def State.writeRingCfg (s : State) (r : Nat) (v : Nat) : State :=
  let keep := 0x1FF0002
  let reg := (s.csrGet (R.RING_CFG + ringOff r)).toNat
  let en := s.rflag r R.RING_CFG_EN
  let bad : Bool := decide (nbits v 24 20 < 4 ∨ 16 < nbits v 24 20)
  let v := if bad then v - nbits v 24 20 * 2 ^ 20 + nbits reg 24 20 * 2 ^ 20 else v
  let s := if bad then s.cfgErr r else s
  if en ∧ v &&& keep ≠ reg &&& keep then s.cfgErr r
  else
    let s := s.csrPut (R.RING_CFG + ringOff r) (BitVec.ofNat 64 ((v &&& keep) + reg % 2))
    if nbit v 0 = 0 then
      (s.fset (R.RING_CFG_EN.at (ringOff r)) 0).setRing r { s.ring r with cur := none, queued := [] }
    else if en then (if s.ringStopped r then s.ringStart r else s)
    else if s.ringOk r then (s.fset (R.RING_CFG_EN.at (ringOff r)) 1).ringStart r
    else s.cfgErr r

/-- A write of RD_IDX: DONE_IDX follows. At other times it is ignored. -/
def State.writeRdIdx (s : State) (r v : Nat) : State :=
  if s.rflag r R.RING_CFG_EN ∧ !s.ringStopped r then s
  else (s.fset (R.RING_IDX_RD_IDX.at (ringOff r)) v).fset (R.RING_IDX_DONE_IDX.at (ringOff r)) v

/-- A write of WR_IDX. -/
def State.writeWrIdx (s : State) (r v : Nat) : State :=
  let s := s.fset (R.RING_WR_WR_IDX.at (ringOff r)) v
  s.overrun r

/-- `RING_EN`. -/
def execRingEn (r : Fin 64) (src : Party) (cfg : BitVec 64) (s : State) : Res :=
  .next (s.byParty src fun s => s.regCmd (R.RING_CFG + ringOff r.val) (·.writeRingCfg r.val cfg.toNat))

/-- `RD_IDX`. -/
def execRdIdx (r : Fin 64) (src : Party) (v : BitVec 32) (s : State) : Res :=
  .next (s.byParty src fun s => s.regCmd (R.RING_IDX + ringOff r.val) (·.writeRdIdx r.val v.toNat))

/-- `WR_IDX`. -/
def execWrIdx (r : Fin 64) (src : Party) (v : BitVec 32) (s : State) : Res :=
  .next (s.byParty src fun s => s.regCmd (R.RING_WR + ringOff r.val) (·.writeWrIdx r.val v.toNat))

end Sys2Proof.Machine
end

