-- ==== Sys2Proof/Machine/Images.lean ====
section
/-! DEFINITION. Firmware images: the checks of R514, what a boot verifies and measures (R507, R508, R512), the conditions of an activation
(R518), and what STRING and DOMAIN entries hold as shipped (R478, R506, R528). -/

namespace Sys2Proof.Machine

/-! ## Firmware slots (R512, R513) -/

/-- Source of the signal box (R417). -/
def sbSource : Nat := 0x0700
/-- Image slot `k`. -/
def State.fwSlot (s : State) (k : Nat) : FwSlot := vget .empty s.fw.slots k
/-- Change the firmware state. -/
def State.fwMod (s : State) (f : Fw → Fw) : State := { s with fw := f s.fw }
/-- Set the state of a slot. -/
def State.slotSt (s : State) (k v : Nat) : State := s.fwMod fun x => { x with slots := vmod x.slots k fun y => { y with state := v } }
/-- The slot in force of a target: 0 SIGNAL, 1 RUNTIME, 2 LINE. -/
def State.inForce (s : State) (t : Nat) : Nat := 2 * t + vget 0 s.fw.run t
/-- The other slot of a target. -/
def State.idle (s : State) (t : Nat) : Nat := 2 * t + (1 - vget 0 s.fw.run t)
/-- Is a target in trial (R512)? -/
def State.trial (s : State) (t : Nat) : Bool := (s.fwSlot (s.inForce t)).state == 4
/-- Code of a target (R513). -/
def fwCode (t : Nat) : Nat := if t = 0 then 1 else if t = 1 then 2 else 3
/-- 0x8000:01 follows the runtime image in force (R520). -/
def State.syncArith (s : State) : State := s.odPut D.ARITH_VERSION (s.fwSlot (s.inForce 1)).arith

/-! ## STRING and DOMAIN entries -/

/-- The identity public key (R506). -/
def idKey : List Byte := edPublic (leBytes 32 Config.idSeed.toNat)

/-- A certificate of R505 as shipped, of a role: its revision and its signature are the package's own. -/
def shippedCert (role serial : Nat) (key : List Byte) : List Byte :=
  leBytes 2 role ++ [0, 0] ++ leBytes 4 (Config.certRev role).toNat ++ key ++ leBytes 8 serial ++ List.replicate 16 0
    ++ leBytes 64 (Config.certSig role).toNat

/-- A STRING or DOMAIN entry: what was written, else what it was shipped with where its default says so (R478, R505, R506, R528), else
nothing. -/
def State.blobOf (s : State) (k : Nat) : List Byte :=
  match tget (fun _ => none) s.blob k with
  | some l => l
  | none =>
    if k = D.IDENTITY_CERT then shippedCert 3 (s.od D.SERIAL) idKey
    else if k = D.LICENCE_KEY_CERT then shippedCert 2 0 (leBytes 32 Config.licenceKey.toNat)
    else if k = D.LICENCE then Config.shipped k
    else []
/-- Set a STRING or DOMAIN entry. -/
def State.blobPut (s : State) (k : Nat) (l : List Byte) : State := { s with blob := tset (fun _ => none) s.blob k (some l) }

/-! ## The checks of R514 -/

/-- The target of a code of R513. -/
def fwTarget (code : Nat) : Option Nat := if 1 ≤ code ∧ code ≤ 3 then some (code - 1) else none

/-- Are the fields of a header consistent (first check of R514)? -/
def fwFormatOk (h : List Byte) : Bool :=
  let chunks := numAt h 0x12 2
  let body := numAt h 0x14 4
  h.length == 4096 && numAt h 0 4 == 0x38465742 && numAt h 4 2 == 1 && decide (numAt h 7 1 < 2) && zerosAt h 0x1E 2 && zerosAt h 0x24 12
    && zerosAt h 0x4F0 2768 && decide (1 ≤ chunks ∧ chunks ≤ 256) && decide (65536 * (chunks - 1) < body ∧ body ≤ 65536 * chunks)

/-- Does the image of a header fit the running one (last check of R514)? -/
def State.fwCompat (s : State) (t : Nat) (h : List Byte) : Bool :=
  let link := numAt h 0x1C 2
  let run := (s.fwSlot (s.inForce 2)).link
  (t != 1 || decide (numAt h 0x22 2 ≤ s.fw.recV ∧ s.fw.recV ≤ numAt h 0x20 2)) && (t != 2 || link == run || link == run + 1)

/-- The checks of R514 in order, but for the last: the code of the first that fails, else 0 and the target. -/
def State.fwHeadCode (s : State) (h : List Byte) : Nat × Nat :=
  let cert := bytesAt h 0x70 128
  if !fwFormatOk h then (0x1301, 0)
  else
    match fwTarget (numAt h 6 1) with
    | none => (0x1302, 0)
    | some t =>
      if numAt h 0x10 2 ≠ 0x00B0 then (0x1302, t)
      else if !certOk cert 1 (s.od D.MIN_KEY_REV) (s.od D.SERIAL) then (0x1303, t)
      else if !edVerify (certKey cert) (bytesAt h 0 0xFC0) (bytesAt h 0xFC0 64) then (0x1304, t)
      else if numAt h 0x0C 4 < vget 0 s.fw.minSvn t then (0x1305, t)
      else (0, t)

/-- All the checks of R514, as an upload makes them. -/
def State.fwHeaderCode (s : State) (h : List Byte) : Nat × Nat :=
  let (c, t) := s.fwHeadCode h
  if c = 0 ∧ s.fwCompat t h = false then (0x1306, t) else (c, t)

/-! ## What a boot verifies and measures (R507, R508) -/

/-- Number of chunks of a slot's image. -/
def FwSlot.count (x : FwSlot) : Nat := numAt x.header 0x12 2
/-- Bytes of chunk `c`. -/
def FwSlot.chunkLen (x : FwSlot) (c : Nat) : Nat := if c + 1 = x.count then numAt x.header 0x14 4 - 65536 * (x.count - 1) else 65536
/-- The body, from the chunks in flash. -/
def FwSlot.body (x : FwSlot) : List Byte := (List.range x.count).flatMap fun c => tget (fun _ => []) x.data c

/-- Does the image of slot `k` fail its verification at a boot? An image shipped in its slot, whose bytes the manual does not give, fails as
the command tells, `bad`; an uploaded one is judged by its own bytes too. The last check of R514 compares with the running image; at a boot
none runs, and of it only the order of the record formats is left. DEDUCED (log entry 157). -/
def State.imageBad (s : State) (k : Nat) (bad : Bool) : Bool :=
  let x := s.fwSlot k
  bad || (!x.header.isEmpty && (s.fwHeadCode x.header != (0, k / 2) || (k / 2 == 1 && decide (x.recV < x.recMin))
    || sha512 x.body != bytesAt x.header 0x30 64))

/-- May slot `k` not be booted: BAD (R512), or failing its verification? -/
def State.bootFails (s : State) (k : Nat) (bad : Bool) : Bool := (s.fwSlot k).state == 6 || s.imageBad k bad

/-- The measurement of the image in slot `k`. -/
def State.imageHash (s : State) (k : Nat) : List Byte :=
  let x := s.fwSlot k
  if x.header.isEmpty then Config.shippedMeasure k else sha512 (x.header ++ x.body)

/-- The image in force of a target starts: its measurement is recorded (R508). -/
def State.imageMeasured (s : State) (t : Nat) : State :=
  let l := s.imageHash (s.inForce t)
  s.fwMod fun x => { x with meas := vput x.meas t l }

/-- The image of a target stops running: its measurement goes (R508). -/
def State.imageGone (s : State) (t : Nat) : State := s.fwMod fun x => { x with meas := vput x.meas t [] }

/-- The format in which the controllers write their record (R520): that of the runtime image in force, in its trial that of the image it
replaced. -/
def State.recordFormat (s : State) : State :=
  let v := (s.fwSlot (if s.trial 1 then s.idle 1 else s.inForce 1)).recV
  s.fwMod fun x => { x with recV := v }

/-- The image of a target starts in a run: measured, and for the runtime the record's format follows. -/
def State.imageStart (s : State) (t : Nat) : State := if t = 1 then (s.imageMeasured t).recordFormat else s.imageMeasured t

/-! ## Fallback and abandonment (R518, R520, R523, R526) -/

/-- `FW_ACTIVATED` of a target whose slot in force is `k`. -/
def State.fwActivated (s : State) (t k : Nat) : State :=
  s.event sbSource 0x1381 (leBytes 1 (fwCode t) ++ [0] ++ leBytes 1 (k % 2) ++ [0] ++ leBytes 4 (s.fwSlot k).version
    ++ leBytes 4 (s.od D.ARITH_VERSION))

/-- `FW_ACTIVATE_FAIL` of a target (R518, R526). -/
def State.activateFail (s : State) (t code : Nat) : State := s.event sbSource 0x1384 (leBytes 1 (fwCode t) ++ [0] ++ leBytes 2 code)

/-- The trial of a target falls back: its slot is BAD, the other slot is in force, `FW_FALLBACK` goes out (R523). The old runtime image runs
on in the other controller. -/
def State.fallBack (s : State) (t cause : Nat) : State :=
  if !s.trial t then s
  else
    let s := s.slotSt (s.inForce t) 6
    let s := s.fwMod fun x => { x with run := vmod x.run t fun b => 1 - b }
    let s := if t = 1 then ((s.syncArith).fwMod fun x => { x with rcImg := .replicate 2 (vget 0 x.run 1) }).imageStart 1 else s
    s.event sbSource 0x1383 (leBytes 1 (fwCode t) ++ leBytes 1 cause ++ leBytes 1 (s.inForce t % 2) ++ [0]
      ++ leBytes 4 (s.fwSlot (s.inForce t)).version)

/-- A handover is abandoned (R520, R518): its slot is BAD after a failed self-test and VERIFIED otherwise. -/
def State.abandon (s : State) (bad : Bool) (code : Nat) : State :=
  match s.fw.hand with
  | none => s
  | some h =>
    let s := s.slotSt (s.idle 1) (if bad then 6 else 2)
    (s.fwMod fun x => { x with hand := none, rcImg := vput x.rcImg h.rc (vget 0 x.run 1) }).activateFail 1 code

end Sys2Proof.Machine
end

