-- ==== Sys2Proof/Machine/Failover.lean ====
section
/-! DEFINITION. The runtime controller pair (R264-R273): the standby's check, failover and switchover. -/

namespace Sys2Proof.Machine

/-! ## States and paths of a controller (R264, R266) -/

/-- Source of a controller (R417). -/
def rcSrc (x : Nat) : Nat := 0x0510 + x
/-- Change what the model keeps of the controllers. -/
def State.rcMod (s : State) (f : Rc → Rc) : State := { s with rc := f s.rc }
/-- Set the state of a controller. -/
def State.setRc (s : State) (x st : Nat) : State := s.fset (rcStateFld x) st
/-- STANDBY_OK. -/
def State.standbyOk (s : State) : Bool := s.flag R.RC_STATUS_STANDBY_OK
/-- Set STANDBY_OK. -/
def State.setStandbyOk (s : State) (b : Bool) : State := s.setFlag R.RC_STATUS_STANDBY_OK b
/-- Bits of a mask without bit `i`. -/
def clearBit (m i : Nat) : Nat := if nbit m i = 1 then m - 2 ^ i else m
/-- Bits of a mask with bit `i`. -/
def setBit (m i : Nat) : Nat := m ||| 2 ^ i

/-- A path of a controller counts as silent no longer: its HB_PATH condition ends (R266, R418). Path 0 is the shared word, 1 the wire. -/
def State.pathClear (s : State) (x path : Nat) : State :=
  let i := 2 * x + path
  let up := nbit s.rc.raised i == 1
  let s := s.rcMod fun c => { c with silent := clearBit c.silent i, raised := clearBit c.raised i, lost := clearBit c.lost x }
  if up then s.report (rcSrc x) .hbPath (path + 1) 0 true else s

/-- A beat on a path of a controller: the path is alive (R266, R273). -/
def State.pathBack (s : State) (x path : Nat) : State :=
  (s.fset R.RC_STATUS_PATHS (setBit (s.fget R.RC_STATUS_PATHS) (2 * x + path))).pathClear x path

/-- The 500 µs of both paths of a controller that is reset begin again; PATHS shows a path alive once it has shown a beat (DEDUCED; log
entry 15). -/
def State.pathsFresh (s : State) (x : Nat) : State := (s.pathClear x 0).pathClear x 1

/-- A controller is reset into SELFTEST (R266, R267). -/
def State.selfTest (s : State) (x : Nat) : State := (s.setRc x 1).pathsFresh x

/-! ## The standby's check (R267) -/

/-- The standby fails its check with a cause: 1 lost, 2 digests, 3 self-test error. -/
def State.standbyFail (s : State) (x cause : Nat) : State :=
  let s := (s.setStandbyOk false).bump R.RC_EVENTS_STANDBY_FAULTS R.RC_STATUS_SBF_OVF
  let s := s.event (rcSrc x) 0x0883 (leBytes 1 x ++ leBytes 1 cause)
  let s := if s.rc.sbFault.isSome then s
    else (s.rcMod fun c => { c with sbFault := some (x, cause) }).report (rcSrc x) .standbyFault cause 0
  let s := match s.fw.hand with
    | some h => if h.rc = x then s.abandon false 0x1313 else s
    | none => s
  if cause = 3 then s.setRc x 6 else s.selfTest x

/-- The standby passes its check. -/
def State.standbyPass (s : State) : State :=
  let s := s.setStandbyOk true
  match s.rc.sbFault with
  | some (x, cause) => (s.rcMod fun c => { c with sbFault := none }).report (rcSrc x) .standbyFault cause 0 true
  | none => s

/-- One check of the standby: `differ` is what the comparison of the digests finds, `selfErr` what the standby reports of itself
(R267). The code that acknowledges it. -/
def State.standbyCheck (s : State) (differ selfErr : Bool) : Nat × State :=
  let x := 1 - s.rcActive
  if s.rcState x ≠ 3 then (0x0803, s)
  else if selfErr then (0x0804, s.standbyFail x 3)
  else if differ then (0x0804, s.standbyFail x 2)
  else (0, s.standbyPass)

/-- `STANDBY_CHECK`. -/
def execStandbyCheck (n : Fin 8) (differ selfErr : Bool) (s : State) : Res :=
  .next (s.serveListed n.val 3 fun s =>
    let (c, s) := s.standbyCheck differ selfErr
    s.mqAcked n.val 0 c)

/-- `STANDBY_CHECK_TIMER`: the check of every 0x7200:05 seconds. -/
def execStandbyCheckTimer (differ selfErr : Bool) (s : State) : Res :=
  .next (if s.rcServes then (s.standbyCheck differ selfErr).2 else s)

/-! ## Failover (R268, R269) -/

/-- Step 1 of R268 for one ring: the dispatches and the post of a command that was started and not completed go out again with the
numbers that the new active's copy of the record holds. -/
def State.resendRing (s : State) (r : Nat) : Nat × State :=
  match vget none (vget (.replicate 64 none) s.rc.recs s.rcActive) r with
  | none => (0, s)
  | some u =>
    match u.wait with
    | .tiles l =>
      (1, l.foldl (fun s (p, seq) =>
        if 2 ^ 32 ≤ seq then s
        else s.arrive p ⟨seq, nbits (ew u.words 1) 63 32, BitVec.ofNat 64 (ew u.words 2), BitVec.ofNat 64 (ew u.words 3),
          BitVec.ofNat 64 (ew u.words 4)⟩) s)
    | .engine n _ d => (1, (s.wePost n (s.rflag r R.RING_CFG_JOB) d).2)
    | _ => (0, s)

/-- Step 1 of R268 for every ring, with the number of commands sent again. -/
def State.resendAll (s : State) : Nat × State :=
  (List.range 64).foldl (fun (k, s) r =>
    let (j, s) := s.resendRing r
    (k + j, s)) (0, s)

/-- The test of R268 on a post with number `q`, by WE_QSTAT. -/
def State.postDone (s : State) (n q : Nat) : Bool :=
  let g := fun f => s.fget (Fld.at f (mdOff n))
  decide ((2 ^ 33 + g R.WE_QSTAT_SEQ - g R.WE_QSTAT_DEPTH - q) % 2 ^ 32 < 2 ^ 31)

/-- Step 2 of R268: commands that are finished are claimed and completed. The status of a post that only WE_QSTAT shows complete is not
stated: a free value (log entry 179). -/
def State.claimFinished (s : State) : State :=
  (List.range 64).foldl (fun s r =>
    match (s.ring r).run with
    | some u =>
      if s.waitOver r u then s.complete r u
      else
        match u.wait with
        | .engine n q _ =>
          if s.postDone n q then
            let (v, s) := s.draw
            s.finish r u (v.toNat % 65536) 0 0
          else s
        | _ => s
    | none => s) s

/-- Step 3 of R268: pending inbound messages are acknowledged with ACK_FAILOVER, but mailbox `keep`'s; unsent outbound words and
replies go. -/
def State.mqFailover (s : State) (keep : Option Nat) : Nat × State :=
  (List.range 8).foldl (fun (k, s) n =>
    let s := { s with replies := vput s.replies n [] }
    let s := s.mqDrop n 1
    if s.mqPending n 0 ∧ keep ≠ some n then (k + 1, s.mqAcked n 0 0xFFFE) else (k, s)) (0, s)

/-- A failover ends: `RC_FAILOVER` is queued, and the new active starts commands (R268, R272). -/
def State.failoverEnd (s : State) : State :=
  match s.rc.taking with
  | none => s
  | some (cause, resent, acked) =>
    let x := s.rcActive
    (s.rcMod fun c => { c with taking := none }).event (rcSrc x) 0x0882
      (leBytes 1 x ++ leBytes 1 cause ++ [0, 0] ++ leBytes 4 resent ++ leBytes 4 acked)

/-- `ACTIVE` goes to the standby, which runs steps 1 to 3 of R268; step 4 comes with `failoverEnd`, once the fence of the former active is
complete (R272). Cause: 1 heartbeat, 2 fence, 3 switchover (R274), which has no fence to wait for. A trial of the runtime image whose new
active is lost or fenced falls back (R523); a handover that a failover comes before is abandoned (R524; log entry 151). -/
def State.failover (s : State) (cause : Nat) (keep : Option Nat) : State :=
  let x := 1 - s.rcActive
  let s := ((s.fset R.RC_STATUS_ACTIVE x).setStandbyOk false).setRc x 4
  let s := s.bump R.RC_EVENTS_FAILOVERS R.RC_STATUS_FAILOVERS_OVF
  let s := s.odBump D.FAILOVERS
  let s := if cause = 3 then s else (s.abandon false 0x1313).fallBack 1 2
  let (resent, s) := s.jobRead.resendAll
  let s := s.claimFinished
  let (acked, s) := s.mqFailover keep
  let s := s.rcMod fun c => { c with taking := some (cause, resent, acked) }
  if cause = 3 then s.failoverEnd else s

/-- The active role is handed over without a fence (R270): the former active's tokens are released, and it enters SYNCING. -/
def State.switchTo (s : State) (keep : Option Nat) : State :=
  let old := s.rcActive
  ((s.tokensForced (2 + old)).failover 3 keep).setRc old 2

/-- `SWITCHOVER`. -/
def execSwitchover (n : Fin 8) (s : State) : Res :=
  .next (s.serveListed n.val 4 fun s =>
    if s.standbyOk then (s.switchTo (some n.val)).mqAcked n.val 0 0 else s.mqAcked n.val 0 0x0803)

end Sys2Proof.Machine
end

