-- ==== Sys2Proof/Machine/Fence.lean ====
section
/-! DEFINITION. Fencing and the escalation ladder (R436-R449, R453, R454): cut, drain, completion, unit reset, lift, evidence samples,
and the requests for resets. -/

namespace Sys2Proof.Machine

/-! ## Targets (R436) -/

/-- A fence target. -/
inductive Tgt
  | tile (p : Nat) | me (d : Nat) | md (n : Nat) | we (n : Nat) | rc (x : Nat) | die (d : Nat)
  deriving DecidableEq, Repr

/-- The target of a code. -/
def tgtOf (c : Nat) : Option Tgt :=
  if c < 192 then some (.tile c)
  else if 0x0100 ≤ c ∧ c < 0x0104 then some (.me (c - 0x0100))
  else if 0x0200 ≤ c ∧ c < 0x0208 then some (.md (c - 0x0200))
  else if 0x0210 ≤ c ∧ c < 0x0218 then some (.we (c - 0x0210))
  else if c = 0x0510 ∨ c = 0x0511 then some (.rc (c - 0x0510))
  else if 0x0800 ≤ c ∧ c < 0x0804 then some (.die (c - 0x0800))
  else none

/-- The die of a target (R447). -/
def Tgt.dieOf : Tgt → Nat
  | .tile p => p / 48
  | .me d => d
  | .md n => n / 2
  | .we n => n / 2
  | .rc x => if x = 0 then 0 else 3
  | .die d => d

/-- The level of a fence (R436). -/
def Tgt.level : Tgt → Nat
  | .die _ => 2
  | _ => 1

/-- The controller on a die (R436). -/
def rcOnDie (d : Nat) : Option Nat := if d = 0 then some 0 else if d = 3 then some 1 else none

/-- Physical tiles of a target. -/
def Tgt.tiles : Tgt → List Nat
  | .tile p => [p]
  | .die d => (List.range 48).map (48 * d + ·)
  | _ => []
/-- Marshalling engines of a target. -/
def Tgt.mes : Tgt → List Nat
  | .me d => [d]
  | .die d => [d]
  | _ => []
/-- Base dies of a target. -/
def Tgt.mds : Tgt → List Nat
  | .md n => [n]
  | .die d => [2 * d, 2 * d + 1]
  | _ => []
/-- Wayside engines of a target. -/
def Tgt.wes : Tgt → List Nat
  | .we n => [n]
  | t => t.mds
/-- Controllers of a target. -/
def Tgt.rcs : Tgt → List Nat
  | .rc x => [x]
  | .die d => (rcOnDie d).toList
  | _ => []

/-- Is the unit in service (R453)? -/
def State.inService (s : State) : Tgt → Bool
  | .tile p => s.tileState p != 0 && s.logicalOf p != 0xFFFF
  | .rc x => s.rcState x != 0 && s.rcState x != 6
  | _ => true

/-- Change what the manager keeps. -/
def State.mgrMod (s : State) (f : Mgr → Mgr) : State := { s with mgr := f s.mgr }
/-- The fence of a target in progress or in force. -/
def State.fenceOf (s : State) (c : Nat) : Option Fence := s.mgr.fences.find? (·.target == c)
/-- Change the fence of a target. -/
def State.fenceMod (s : State) (c : Nat) (f : Fence → Fence) : State :=
  s.mgrMod fun m => { m with fences := m.fences.map fun x => if x.target = c then f x else x }
/-- Is a target fenced already, by itself or inside its die (R441)? -/
def State.isFenced (s : State) (c : Nat) (t : Tgt) : Bool :=
  (s.fenceOf c).isSome || s.unitFenced R.FENCE_UNITS_DIES t.dieOf ||
    match t with
    | .tile p => s.tileState p == 5
    | .we n => s.unitFenced R.FENCE_UNITS_WE n
    | _ => false

/-- Mark a unit in FENCE_UNITS. -/
def State.markUnit (s : State) (f : Fld) (on : Bool) (i : Nat) : State :=
  s.fset f (if on then setBit (s.fget f) i else clearBit (s.fget f) i)

/-! ## Samples (R442-R444) -/

/-- `TILE_DMA` of a tile (R117): the transfers queued behind the one that runs, the count at which issue holds (DEDUCED; log entry 187). -/
def State.tileDma (s : State) (p : Nat) : Nat :=
  let e := fun k => vget DmaEng.idle (s.tile p).dma k
  let n := fun k => (e k).queue.length
  let h := fun k => if (e k).halted then 1 else 0
  n 1 * 65536 + n 0 * 256 + h 1 * 2 + h 0

/-- The 16 bytes of an accumulator set in a record (R443): its configuration, FIXED and open bits. -/
def AccSet.sampleBytes (a : AccSet) : List Byte :=
  leBytes 4 a.cfgAlpha ++ leBytes 4 a.cfgStream ++ leBytes 2 (a.cfgAnchor % 65536).toNat
    ++ leBytes 1 ((if a.cfgFixed then 1 else 0) + (if a.isOpen then 2 else 0)) ++ List.replicate 5 0

/-- Bytes 4 to 2311 of a record at the cut; `UE_BYTES` is filled in when the scratchpad is read. -/
def State.sampleOf (s : State) (p cause level lseq : Nat) : Sample :=
  let t := s.tile p
  let o := tileOff p
  let reg := fun r => leBytes 8 (s.csrGet (r + o)).toNat
  ⟨p, leBytes 2 p ++ leBytes 2 (s.logicalOf p) ++ leBytes 8 s.rtime ++ leBytes 1 cause ++ leBytes 1 level
    ++ leBytes 2 (s.tileState p) ++ leBytes 4 lseq ++ leBytes 4 0 ++ leBytes 4 t.pc
    ++ reg R.TILE_STATE ++ reg R.TILE_TRAP ++ reg R.TILE_TRAP_ADDR ++ reg R.TILE_SEQ ++ leBytes 8 (s.tileDma p)
    ++ t.g.toList.flatMap (fun g => leBytes 8 g.toNat) ++ t.acc.toList.flatMap AccSet.sampleBytes
    ++ t.b.toList.flatMap Berth.bytes⟩

/-- The place of a byte of the evidence buffer in the reserved area (R156). -/
def evAddr (n off : Nat) : Nat := rsvAddr n (evOffset + off)

/-- Write bytes to the evidence buffer of a device, each with its codeword (R155, R442). -/
def State.evPut (s : State) (n off : Nat) : List Byte → State
  | [] => s
  | b :: l =>
    ({ s with evid := tset (fun _ => 0) s.evid (n * 2 ^ 24 + off) b, flips := tset flipDflt s.flips (evAddr n off) 0 }).evPut n (off + 1) l

/-- The byte stored in the evidence buffer of a device. -/
def State.evGet (s : State) (n off : Nat) : Byte := tget (fun _ => 0) s.evid (n * 2 ^ 24 + off)

/-- The codeword stored for a byte of the evidence buffer. -/
def State.evWord (s : State) (n off : Nat) : BitVec 13 := eccEncode (s.evGet n off) ^^^ tget flipDflt s.flips (evAddr n off)

/-- Firmware reads a byte of the evidence buffer of a device, decoded (R162, R171). -/
def State.evByte (s : State) (n off : Nat) : Option Byte × State := s.decodeAt (rqFw n) (evAddr n off) (s.evWord n off)

/-- Firmware reads bytes of the evidence buffer of a device. -/
def State.evRead (s : State) (n off : Nat) : Nat → List (Option Byte) × State
  | 0 => ([], s)
  | k + 1 =>
    let r := s.evByte n off
    let t := r.2.evRead n (off + 1) k
    (r.1 :: t.1, t.2)

/-- A record number as it was read; a free value where its bytes could not be (log entry 170). -/
def State.evNumber (s : State) : Option (List Byte) → Nat × State
  | some l => (leNat l, s)
  | none => (s.draw.1.toNat % 2 ^ 32, s.draw.2)

/-- The number of the next record of a device. -/
def State.evNext (s : State) (n : Nat) : Nat × State :=
  let r := s.evRead n 0 4
  r.2.evNumber (allSome r.1)

/-- Scratchpad bytes into a record: what reads UNCORRECTABLE is written as 0 and counted. -/
def State.evScratch (s : State) (p a n off ue : Nat) : Nat → Nat × State
  | 0 => (ue, s)
  | k + 1 =>
    let (b, s) := s.readWork ⟨0, 4, p⟩ a
    (s.evPut n off [b.getD 0]).evScratch p (a + 1) n (off + 1) (if b.isNone then ue + 1 else ue) k

/-- Write a sample as the next record of its device; the record's number. -/
def State.writeSample (s : State) (x : Sample) : Nat × State :=
  let n := 2 * (x.tile / 48) + (if x.tile % 48 < 24 then 0 else 1)
  let r := s.evNext n
  let q := r.1
  let s := r.2
  let base := 0x10000 + q % 240 * 0x11000
  let s := s.evPut n base (leBytes 4 q ++ x.bytes ++ List.replicate (4096 - 4 - x.bytes.length) 0)
  let e := s.evScratch x.tile (spBase + s.logicalOf x.tile * spSize) n (base + 4096) 0 65536
  (q, (e.2.evPut n (base + 24) (leBytes 4 e.1)).evPut n 0 (leBytes 4 (q + 1)))

/-- Write a list of samples; the number of the first record. -/
def State.writeSamples (s : State) : List Sample → Nat × State
  | [] => (0xFFFFFFFF, s)
  | x :: l =>
    let r := s.writeSample x
    (r.1, (r.2.writeSamples l).2)

/-! ## The cut (R437 step 1, R438) -/

/-- Running DISPATCH commands that name a tile see it cut. -/
def State.ringsCut (s : State) (p : Nat) : State :=
  { s with rings := s.rings.map fun r =>
      match r.run with
      | some u =>
        match u.wait with
        | .tiles l => { r with run := some { u with wait := .tiles (l.map fun e => if e.1 = p then (p, 2 ^ 32) else e) } }
        | _ => r
      | none => r }

/-- A DMA engine at the cut: nothing is queued; a transfer stays only for the answers it still waits for. -/
def DmaEng.cut (e : DmaEng) : DmaEng :=
  { e with queue := [], run := match e.run with
      | some r => if r.tags = [] then none else some r
      | none => none }

/-- Cut a tile: owed increments are broken, its collectives end, its held dispatch goes, STATE reads FENCED. -/
def State.cutTile (s : State) (p : Nat) : State :=
  let t := s.tile p
  let owed := t.dma.toList.flatMap fun e => (e.run.map (·.xfer)).toList ++ e.queue
  let s := owed.foldl (fun s x => match x.done with | some k => s.breakCtr (p / 48) k | none => s) s
  let s := s.setTile p { t with held := none, wait := .none, collAbt := false, dma := t.dma.map (·.cut) }
  let s := s.collsCut (p / 48) 0x0B02 (fun c => c.tile == p)
  (s.ringsCut p).setTileState p 5

/-- Cut a marshalling engine. -/
def State.cutMe (s : State) (d : Nat) : State :=
  let s := s.markUnit R.FENCE_UNITS_ME true d
  let s := s.collsCut d 0x0B02 (fun _ => true)
  (s.setMe d { s.meng d with inbox := [] }).meRegs d

/-- Cut a wayside engine: the `TRIG_OUT` increments its descriptors owe are broken (R438), the descriptors are cancelled, the commit
actions stay. -/
def State.cutWe (s : State) (n : Nat) : State :=
  let s := s.markUnit R.FENCE_UNITS_WE true n
  let w := s.weng n
  let s := w.all.foldl (fun s d => if dTrigOut d then s.breakCtr (n / 2) (nbits (dWord d 1) 53 44) else s) s
  ((s.weCancelAll n w.all).putWeng n { w with queue := [], run := none, halted := false }).setWeState n 5

/-- Cut a base die: the scrub stops with STATUS 2 (R178). -/
def State.cutMd (s : State) (n : Nat) : State :=
  let s := s.markUnit R.FENCE_UNITS_MD true n
  if (s.mdev n).scrub.running then s.scrubEnd n 2 else s

/-- Cut a controller; one that FAILED stays so (R264). -/
def State.cutRc (s : State) (x : Nat) : State :=
  let s := if x = s.rcActive then s else s.setStandbyOk false
  let s := match s.fw.hand with
    | some h => if h.rc = x then s.abandon false 0x1313 else s
    | none => s
  (s.markUnit R.FENCE_UNITS_RC true x).setRc x (if s.rcState x = 6 then 6 else 5)

/-- Cut a target; tiles that are OFF stay OFF. -/
def State.cut (s : State) (t : Tgt) : State :=
  let s := (t.tiles.filter fun p => s.tileState p != 0 && s.tileState p != 5).foldl (fun s p => s.cutTile p) s
  let s := t.mes.foldl (fun s d => s.cutMe d) s
  let s := t.wes.foldl (fun s n => s.cutWe n) s
  let s := t.mds.foldl (fun s n => s.cutMd n) s
  let s := t.rcs.foldl (fun s x => s.cutRc x) s
  match t with
  | .die d => s.markUnit R.FENCE_UNITS_DIES true d
  | _ => s

/-- Does a target hold participation in the open attempt (R438, R149): it runs, or holds, work of a command of it (a dispatch, a
descriptor, a scrub, a collective), or is the active controller? -/
def State.participates (s : State) (t : Tgt) : Bool :=
  s.job.active &&
    ((List.range 64).any (fun r =>
      match (s.ring r).run with
      | some u => u.epoch == s.openE &&
          match u.wait with
          | .tiles l => l.any fun e => t.tiles.contains e.1 && !s.tileSettled e
          | .engine n _ d => !dCommit d && t.wes.contains n
          | .scrub n => t.mds.contains n
          | _ => false
      | none => false)
    || t.wes.any (fun n => (s.weng n).acts.any fun a => dEpoch a.desc == s.openE)
    || t.mes.any (fun d => (s.meng d).colls.any fun c => c.epoch == s.openE && c.attempt == s.attempt && c.live)
    || t.rcs.contains s.rcActive)

/-! ## A fence begins (R437, R441, R453) -/

/-- Does a die fence or a fence of a base die take in another fence (R440, R441)? -/
def Tgt.covers (t : Tgt) (c : Nat) : Bool :=
  match t, tgtOf c with
  | .die d, some u => u.dieOf == d
  | .md n, some (.we m) => n == m
  | _, _ => false

/-- Tiles to sample (R442). -/
def State.toSample (s : State) (t : Tgt) : List Nat :=
  match t with
  | .tile p => [p]
  | .die _ => t.tiles.filter fun p => s.tileState p == 2 || s.tileState p == 3 || s.tileState p == 4
  | _ => []

/-- Does a fence of the target take the active controller (R441)? -/
def State.hitsActive (s : State) (t : Tgt) : Bool := t.rcs.contains s.rcActive

/-- The fence of a target that nothing forbids: failover first where it takes the active controller, samples, vote, cut. Samples that a
fence of a unit inside it has still to write stay to be written (R442). -/
def State.fence (s : State) (c : Nat) (t : Tgt) (level cause lseq : Nat) (hold : Bool) : State :=
  let s := if s.hitsActive t then s.failover 2 none else s
  let x : Fence := ⟨c, level, cause, lseq, hold, .drain, false, false, 0xFFFFFFFF,
    ((s.mgr.fences.filter fun y => t.covers y.target).flatMap (·.samples)) ++ (s.toSample t).map fun p => s.sampleOf p cause level lseq⟩
  let s := s.mgrMod fun m => { m with fences := (m.fences.filter fun y => !t.covers y.target) ++ [x],
                                      acts := m.acts ++ [(c, level, s.rtime)] }
  let s := s.bump R.ESC_EVENTS_FENCES R.ESC_EVENTS2_FENCES_OVF
  let s := s.csrPut R.FENCE_LAST (BitVec.ofNat 64 (c * 2 ^ 48 + cause * 2 ^ 40 + level * 2 ^ 36 + lseq))
  let vote := s.participates t
  let s := s.cut t
  if vote then s.ilVote 0x0911 else s

/-! ## Drain and completion (R437 steps 3 and 4) -/

/-- Requests of a target that are not answered yet. -/
def State.drainLeft (s : State) (t : Tgt) : List Req := s.router.reqs.filter fun q => t.tiles.contains q.tile

/-- `FENCE_DRAIN_END`: every access that passed the cut is answered, or the limit passes and the rest are abandoned. -/
def execFenceDrainEnd (target : BitVec 16) (s : State) : Res :=
  .next (
    match s.fenceOf target.toNat, tgtOf target.toNat with
    | some x, some t =>
      if x.phase ≠ .drain then s
      else
        let late := !(s.drainLeft t).isEmpty
        let s := { s with router := { s.router with reqs := s.router.reqs.filter fun q => !t.tiles.contains q.tile } }
        let s := t.tiles.foldl (fun s p =>
          if s.tileState p = 5 then s.setTile p { s.tile p with dma := (s.tile p).dma.map fun e => { e with run := none } } else s) s
        let s := s.fenceMod x.target fun y => { y with phase := .drained, drainTo := late }
        let s := if late ∧ s.fget R.FENCE_LAST_TARGET = x.target then s.fset R.FENCE_LAST_DRAIN_TO 1 else s
        if late then (s.bump R.ESC_EVENTS_DRAIN_TIMEOUTS R.ESC_EVENTS2_DRAIN_OVF).dmaAll else s
    | _, _ => s)

/-- The unit reset of a target starts: its controllers go into SELFTEST, but one that FAILED (R264, R440). -/
def State.rcSelfTests (s : State) (t : Tgt) : State :=
  t.rcs.foldl (fun s x => if s.rcState x = 6 then s else s.selfTest x) s

/-- `FENCE_COMPLETE`: samples, tokens of a controller and with them the end of a failover that took its role (R272), start of the unit
reset. -/
def execFenceComplete (target : BitVec 16) (s : State) : Res :=
  .next (
    match s.fenceOf target.toNat, tgtOf target.toNat with
    | some x, some t =>
      if x.phase ≠ .drained then s
      else
        let (q, s) := s.writeSamples x.samples
        let s := t.rcs.foldl (fun s r => s.tokensForced (2 + r)) s
        let s := if t.rcs.any (· != s.rcActive) then s.failoverEnd else s
        (s.rcSelfTests t).fenceMod x.target fun y => { y with phase := .unitReset, recSeq := q, samples := [] }
    | _, _ => s)

/-! ## Unit reset and lift (R440) -/

/-- Bytes of code and consist table in a scratchpad (R119). -/
def Prog.spBytes (g : Prog) : Nat := (g.code.length + 63) / 64 * 64 + 64 * g.consists

/-- Is a tile inside the target, or fenced? -/
def State.spFenced (s : State) (t : Tgt) (p : Nat) : Bool := t.tiles.contains p || s.tileState p == 5

/-- The tile whose code a unit reset copies: the lowest-numbered logical tile of the program that is not fenced. -/
def State.codeSource (s : State) (t : Tgt) : Option Nat :=
  (List.range s.prog.tiles).find? fun l =>
    match s.physOf l with
    | some p => !s.spFenced t p
    | none => false

/-- B1 and B2 of a tile of the program (R119); every other berth register is cleared. -/
def State.codeBerths (s : State) (p : Nat) : State :=
  let g := s.prog
  let l := s.logicalOf p
  let off := (g.code.length + 63) / 64 * 64
  let span := fun (x : Bool) (o n : Nat) =>
    { Berth.null with valid := true, x := x, r := true, kind := 2, base := spBase + l * spSize + o, length := n, rowElems := n }
  let b := if g.loaded = true ∧ l < g.tiles then
      vput (vput (.replicate 64 .null) 1 (span true 0 g.code.length)) 2 (if g.consists = 0 then .null else span false off (64 * g.consists))
    else .replicate 64 .null
  s.setTile p { s.tile p with b := b }

/-- The unit reset of a tile: whether the copy of its code is done, and the state after it. -/
def State.tileUnitReset (s : State) (t : Tgt) (p : Nat) : Bool × State :=
  let x := s.tile p
  let s := s.setTile p { x with g := vput (.replicate 16 0) 0 (vget 0 x.g 0), acc := .replicate 4 .empty, dma := .replicate 2 .idle,
                                held := none, wait := .none }
  let s := s.codeBerths p
  let l := s.logicalOf p
  if s.prog.loaded = false ∨ s.prog.tiles ≤ l then (true, s)
  else
    let src := (s.codeSource t).getD l
    match s.readUntil ⟨0, 3, s.rcSource⟩ (spBase + src * spSize) s.prog.spBytes with
    | (.ok data, s) => (true, if src = l then s else s.writeBytes (spBase + l * spSize) data)
    | (.error _, s) => (false, s)

/-- Units reset one after the other. -/
def State.tilesUnitReset (s : State) (t : Tgt) : List Nat → Bool × State
  | [] => (true, s)
  | p :: l =>
    let (a, s) := s.tileUnitReset t p
    let (b, s) := s.tilesUnitReset t l
    (a && b, s)

/-- Tiles of a target that its unit reset and lift concern: fenced, and not held under R463. -/
def State.liftTiles (s : State) (t : Tgt) : List Nat := t.tiles.filter fun p => s.tileState p == 5 && !s.mgr.held.contains p

/-- The unit reset of a target: its verdict, and the state after it. `chUp` holds the channels that training brings up. -/
def State.unitReset (s : State) (t : Tgt) (passed : Bool) (chUp : Vector (BitVec 4) 2) : Bool × State :=
  let (ok, s) := s.tilesUnitReset t (s.liftTiles t)
  let s := t.mes.foldl (fun s d => s.setMe d { s.meng d with colls := [], inbox := [] } |>.meRegs d) s
  let s := t.mds.foldl (fun s n => s.fset (R.MD_STATUS_CH_UP.at (mdOff n)) (chUp[n % 2]!).toNat) s
  (ok && passed, s)

/-- A target that is not lifted stays FENCED (R440). -/
def State.rcFenced (s : State) (t : Tgt) : State := t.rcs.foldl (fun s x => if s.rcState x = 1 then s.setRc x 5 else s) s

/-- A target lifts. -/
def State.lift (s : State) (t : Tgt) : State :=
  let s := (s.liftTiles t).foldl (fun s p => s.setTileState p 1) s
  let s := t.mes.foldl (fun s d => (s.markUnit R.FENCE_UNITS_ME false d).meRegs d) s
  let s := t.mds.foldl (fun s n => s.markUnit R.FENCE_UNITS_MD false n) s
  let s := t.wes.foldl (fun s n => (s.markUnit R.FENCE_UNITS_WE false n).weRest n) s
  let s := t.rcs.foldl (fun s x => (s.markUnit R.FENCE_UNITS_RC false x).setRc x (if s.rcState x = 6 then 6 else 2)) s
  match t with
  | .die d => s.markUnit R.FENCE_UNITS_DIES false d
  | _ => s

/-- `FENCE_DONE`. -/
def State.fenceDone (s : State) (x : Fence) (lifted failed : Bool) : State :=
  let s := if s.fget R.FENCE_LAST_TARGET = x.target then
      (s.setFlag R.FENCE_LAST_LIFTED lifted).setFlag R.FENCE_LAST_UR_FAIL failed
    else s
  let bit := fun (b : Bool) (k : Nat) => if b then k else 0
  s.event 0x0F00 0x0F80 (leBytes 2 x.target ++ leBytes 1 x.cause ++ leBytes 1 x.level
    ++ leBytes 1 (bit lifted 1 + bit failed 2 + bit x.drainTo 4) ++ [0, 0, 0] ++ leBytes 4 x.recSeq)

/-! ## Repeated actions move up (R447) -/

/-- `ESCALATION`. -/
def State.escalation (s : State) (target old new : Nat) (held : Bool) : State :=
  let s := if held then s else s.bump R.ESC_EVENTS2_ESCALATIONS R.ESC_EVENTS2_ESC_OVF
  s.event 0x0F00 0x0F81 (leBytes 2 target ++ leBytes 1 old ++ leBytes 1 new ++ leBytes 1 (if held then 1 else 0))

/-- Actions of a target at a level within the repeat window. -/
def State.recentActs (s : State) (target level : Nat) : Nat :=
  (s.mgr.acts.filter fun (t, l, at_) => t == target && l == level
    && decide (s.rtime < at_ + 1000000000 * s.od D.ESC_WINDOW_S)).length

/-- Whom an action at a level concerns in the record: the package from level 3 on. -/
def actKey (target level : Nat) : Nat := if level < 3 then target else 0xFFFF

/-- The level and target at which an action is taken: one level up for each repeat (R447). -/
def State.climb (s : State) (target level : Nat) : Nat → Nat × Nat × State
  | 0 => (target, level, s)
  | k + 1 =>
    if level < 5 ∧ s.od D.ESC_REPEAT ≤ s.recentActs (actKey target level) level + 1 then
      let t' := if level = 1 then
          match tgtOf target with
          | some t => 0x0800 + t.dieOf
          | none => target
        else target
      (s.escalation target level (level + 1) false).climb t' (level + 1) k
    else (target, level, s)

/-! ## Requests for resets (R34, R447-R449, R453) -/

/-- Width of a reset kind as R34 compares them: WORKS, package, power cycle. -/
def resetWidth (kind : Nat) : Nat := if kind = 1 then 1 else if kind = 2 then 2 else if kind = 4 then 3 else 0

/-- The kind of reset at a level of the ladder (R445). -/
def levelKind (level : Nat) : Nat := if level = 3 then 1 else if level = 4 then 2 else 4

/-- A reset is requested: merged with one in progress or waiting (R34), else noted, with LAST_KIND and LAST_CAUSE. Cause 1 ladder, 2
request, 3 thermal trip. Every reset that is not absorbed counts as an action on the package, and one that is repeated too often moves up
(R447). -/
def State.askReset (s : State) (kind cause level target lseq : Nat) : State :=
  let d := s.dom
  let inProgress := if d.lineRst then 2 else if d.worksRst then 1 else 0
  let w := resetWidth kind
  if w ≤ max inProgress (resetWidth d.reqKind) then { s with dom := { d with again := true } }
  else
    let (_, level, s) := s.climb target level 5
    let kind := levelKind level
    let s := { s with dom := { d with reqKind := kind, reqCause := cause, reqLevel := level, reqTarget := target, reqLseq := lseq },
                      mgr := { s.mgr with acts := s.mgr.acts ++ [(0xFFFF, level, s.rtime)] } }
    (s.fset R.RESET_STATUS_LAST_KIND kind).fset R.RESET_STATUS_LAST_CAUSE cause

/-- A SIGNAL reset is requested, with its cause of R503; while SIGNAL is in reset it is absorbed. -/
def State.askSignal (s : State) (cause : Nat) : State :=
  if s.dom.signalRst ∨ s.dom.sigReq ≠ 0 then s else { s with dom := { s.dom with sigReq := cause } }

/-- A write of RESET_REQ or 0x5800:08 (R448, R453): KIND, which is none of the reserved values. -/
def State.requestReset (s : State) (kind : Nat) : State :=
  let s := s.fset R.RESET_STATUS_ESC_HELD 0
  if kind = 3 then
    ((s.askSignal 2).fset R.RESET_STATUS_LAST_KIND 3).fset R.RESET_STATUS_LAST_CAUSE 2
  else s.askReset kind 2 (if kind = 1 then 3 else if kind = 2 then 4 else 5) 0xFFFF 0xFFFFFFFF

/-! ## The ladder (R445-R448) -/

/-- The cause of R453 of a reset that replaces an action with a cause of R443: a request stays one (R447). -/
def resetCause (cause : Nat) : Nat := if cause = 2 then 2 else 1

/-- An action at level 3 and above that the manager takes by itself (R448). -/
def State.autoReset (s : State) (target level cause lseq : Nat) : State :=
  let recent := s.mgr.auto.filter fun a => decide (s.rtime < a + 3600000000000)
  if s.od D.ESC_AUTO_LIMIT ≤ recent.length then
    (s.fset R.RESET_STATUS_ESC_HELD 1).escalation target level level true
  else
    let s := s.mgrMod fun m => { m with auto := recent ++ [s.rtime] }
    s.askReset (levelKind level) cause level target lseq

/-- The ladder takes an action (R441, R446, R447), unless the interlock is in its safe state or the target is fenced already. -/
def State.act (s : State) (target level cause lseq : Nat) : State :=
  if s.flag R.IL_STATUS_SAFE then s
  else
    let (c, level, s) := s.climb target level 5
    if 3 ≤ level then s.autoReset c level (resetCause cause) lseq
    else
      match tgtOf c with
      | none => s
      | some t =>
        if s.dom.worksRst ∨ s.isFenced c t = true then s
        else if s.hitsActive t ∧ s.standbyOk = false then s.autoReset c 3 (resetCause cause) lseq
        else s.fence c t level cause lseq false

/-- An action on a unit that is fenced already is absorbed before it counts (R441). -/
def State.actUnit (s : State) (target level cause lseq : Nat) : State :=
  match tgtOf target with
  | none => s
  | some t => if s.dom.worksRst ∨ s.isFenced target t = true then s else s.act target level cause lseq

/-- A request for a fence: its RESULT (R453) and the state after it. A repeated action moves up (R447). -/
def State.fenceRequest (s : State) (c : Nat) (hold : Bool) : Nat × State :=
  match tgtOf c with
  | none => (0x0F01, s)
  | some t =>
    if s.dom.worksRst then (0x0F02, s)
    else if !s.inService t then (0x0F01, s)
    else if s.isFenced c t then (0, s)
    else if s.hitsActive t ∧ s.standbyOk = false then (0x0F03, s)
    else
      let (c', level, s') := s.climb c t.level 5
      if 3 ≤ level then (0, s'.askReset (levelKind level) 2 level c' 0xFFFFFFFF)
      else
        match tgtOf c' with
        | none => (0, s')
        | some t' =>
          if s'.isFenced c' t' then (0, s')
          else if s'.hitsActive t' ∧ s'.standbyOk = false then (0x0F03, s)
          else (0, s'.fence c' t' level 2 0xFFFFFFFF hold)

/-- The answer to a request lands in FENCE_RESULT. -/
def fenceAnswer (c : Nat) (r : Nat × State) : State :=
  (r.2.fset R.FENCE_RESULT_RESULT r.1).fset R.FENCE_RESULT_TARGET c

/-- `FENCE_REQ`. -/
def execFenceReq (src : Party) (target : BitVec 16) (hold : Bool) (s : State) : Res :=
  .next (s.byParty src fun s => s.regCmd R.FENCE_REQ fun s => fenceAnswer target.toNat (s.fenceRequest target.toNat hold))

/-- A failed unit reset moves the action up (R447). -/
def State.unitFailed (s : State) (x : Fence) (t : Tgt) : State :=
  if s.flag R.IL_STATUS_SAFE then s
  else if x.level = 1 then
    (s.escalation x.target 1 2 false).act (0x0800 + t.dieOf) 2 x.cause x.lseq
  else (s.escalation x.target 2 3 false).act x.target 3 x.cause x.lseq

/-- `UNIT_RESET_DONE`: the unit reset of a fence, or of a lift request, has passed or failed; `FENCE_DONE`. -/
def execUnitResetDone (target : BitVec 16) (passed : Bool) (chUp : Vector (BitVec 4) 2) (s : State) : Res :=
  .next (
    match s.fenceOf target.toNat, tgtOf target.toNat with
    | some x, some t =>
      if x.phase ≠ .unitReset ∧ x.phase ≠ .lifting then s
      else
        let (ok, s) := s.unitReset t passed chUp
        let up := ok && (x.phase == .lifting || (!x.hold && s.od D.AUTO_LIFT == 1))
        let s := if up then (s.lift t).mgrMod fun m => { m with fences := m.fences.filter (·.target != x.target) }
          else (s.rcFenced t).fenceMod x.target fun y => { y with phase := .stays, urFail := !ok }
        let s := s.fenceDone x up (!ok)
        if ok ∨ x.phase = .lifting then s else s.unitFailed x t
    | _, _ => s)

/-- A lift request: its RESULT and the state after it. -/
def State.liftRequest (s : State) (c : Nat) : Nat × State :=
  match tgtOf c with
  | none => (0x0F01, s)
  | some t =>
    if s.dom.worksRst then (0x0F02, s)
    else if t.tiles = [c] ∧ s.mgr.held.contains c = true then (0x0F01, s)
    else if !s.inService t ∧ s.isFenced c t = false then (0x0F01, s)
    else
      match s.fenceOf c with
      | some x => (0, if x.phase = .stays then (s.rcSelfTests t).fenceMod c fun y => { y with phase := .lifting } else s)
      | none => (0, s)

/-- `LIFT`. -/
def execLift (src : Party) (target : BitVec 16) (s : State) : Res :=
  .next (s.byParty src fun s => s.regCmd R.FENCE_REQ fun s => fenceAnswer target.toNat (s.liftRequest target.toNat))

/-! ## The drain of an abort (R235) -/

/-- Targets that still run a command of the attempt that aborts. -/
def State.stillRunning (s : State) : List Nat :=
  (List.range 64).flatMap fun r =>
    match (s.ring r).run with
    | some u =>
      if u.closed then
        match u.wait with
        | .tiles l => (l.filter fun e => !s.tileSettled e).map (·.1)
        | .engine n _ d => if dCommit d then [] else [0x0210 + n]
        | _ => []
      else []
    | none => []

/-- `ABORT_DRAIN`. -/
def execAbortDrain (s : State) : Res :=
  .next (
    if s.estate = 4 ∧ !s.epoch.drained ∧ s.dom.worksRst = false then
      let l := s.stillRunning
      l.foldl (fun s c => s.actUnit c 1 3 0xFFFFFFFF) (s.epMod fun x => { x with drained := true })
    else s)

end Sys2Proof.Machine
end

