-- ==== Sys2Proof/Machine/Beats.lean ====
section
/-! DEFINITION. Heartbeats of the controllers and their firmware (R266, R434, R435), and the controllers' way from SELFTEST to
service (R266, R271). -/

namespace Sys2Proof.Machine

/-! ## Paths and loss (R266-R268) -/

/-- A trial of a target can no longer be confirmed (R521). -/
def State.spoil (s : State) (t : Nat) : State := s.fwMod fun x => { x with spoilt := setBit x.spoilt t }

/-- Failover from a lost active, and the fence of a target that holds it: one already fenced ends the failover at once. -/
def State.failFence (s : State) (c : Nat) (t : Tgt) (level : Nat) : State :=
  let s := s.failover 1 none
  if s.isFenced c t then s.failoverEnd else s.fence c t level 1 0xFFFFFFFF false

/-- A controller is lost (R266): a standby fails its check; an active fails over to a STANDBY_OK standby and is fenced, at the level that its
earlier actions leave (R447). Without one a trial of the runtime image falls back (R523), and the report is handed to the ladder. In the safe state the loss is only
reported (R448). -/
def State.lose (s : State) (x : Nat) : State :=
  if nbit s.rc.lost x = 1 then s
  else
    let act := x == s.rcActive
    let s := (s.rcMod fun c => { c with lost := setBit c.lost x }).report (rcSrc x) .rcLost (if act then 0 else 1) 0
    if s.flag R.IL_STATUS_SAFE then (if act then s.spoil 1 else s)
    else if !act then s.standbyFail x 1
    else if !s.standbyOk then (s.spoil 1).fallBack 1 2
    else if s.isFenced (rcSrc x) (.rc x) then (s.failover 1 none).failoverEnd
    else
      let (c, level, s) := s.climb (rcSrc x) 1 5
      match tgtOf c with
      | some t => if 3 ≤ level then s.autoReset c level 1 0xFFFFFFFF else s.failFence c t level
      | none => s

/-- The interlock judges the paths of a controller that runs, from its self-test on (R266): with SIGNAL in reset the wire is disregarded. -/
def State.judgePaths (s : State) (x : Nat) : State :=
  if s.rcState x < 1 ∨ 4 < s.rcState x ∨ s.rcCut x = true then s
  else
    let word := nbit s.rc.silent (2 * x) == 1
    let wire := nbit s.rc.silent (2 * x + 1) == 1 && !s.dom.signalRst
    if word && (wire || s.dom.signalRst) then s.lose x
    else if !word && !wire then s
    else
      let path := if word then 0 else 1
      if nbit s.rc.raised (2 * x + path) = 1 then s
      else
        let s := (s.rcMod fun c => { c with raised := setBit c.raised (2 * x + path) }).report (rcSrc x) .hbPath (path + 1) 0
        s.event (rcSrc x) 0x0885 (leBytes 1 x ++ leBytes 1 (path + 1))

/-- A controller's write of `RC_BEAT` (R266, R273); a fenced one reaches nothing (R437). -/
def State.beat (s : State) (x : Nat) : State :=
  if s.rcState x = 0 ∨ s.rcCut x = true then s
  else ((s.wrap (if x = 0 then R.RC_STATUS_HB_A else R.RC_STATUS_HB_B)).pathBack x 0).judgePaths x

/-- A write of `RC_BEAT` by a party. -/
def State.rcBeat (s : State) (src : Party) : Nat × State :=
  match src with
  | .rcA => (0, s.beat 0)
  | .rcB => (0, s.beat 1)
  | _ => (7, s)

/-- `RC_BEAT`. -/
def execRcBeat (src : Party) (s : State) : Res := .next (s.byParty src fun s => (s.regCmdSt R.RC_BEAT (·.rcBeat src)).2)

/-- `WIRE_HEARTBEAT`: the signal box mirrors the wire while it runs. -/
def execWireHeartbeat (rc : Fin 2) (s : State) : Res :=
  .next (
    if s.dom.worksRst ∨ s.dom.signalRst ∨ s.rcState rc.val = 0 ∨ s.rcCut rc.val = true then s
    else (s.pathBack rc.val 1).judgePaths rc.val)

/-- `HB_PATH_SILENT`: a path has shown no beat for 500 µs; path 0 is the shared word, 1 the wire. -/
def execHbPathSilent (rc : Fin 2) (path : Fin 2) (s : State) : Res :=
  .next (
    if s.dom.worksRst ∨ s.rcState rc.val = 0 then s
    else
      let i := 2 * rc.val + path.val
      let s := s.fset R.RC_STATUS_PATHS (clearBit (s.fget R.RC_STATUS_PATHS) i)
      (s.rcMod fun c => { c with silent := setBit c.silent i }).judgePaths rc.val)

/-! ## From SELFTEST to service (R266, R271) -/

/-- The active controller of the run is chosen: the preferred one once it passes, the other where the preferred one has failed. -/
def State.pickActive (s : State) : State :=
  let p := s.od D.RC_PREFERRED % 2
  let become := fun (s : State) (x : Nat) =>
    { (s.setRc x 4).fset R.RC_STATUS_ACTIVE x with boot := { s.boot with picked := true } }
  if s.boot.picked then s
  else if s.rcState p = 2 then become s p
  else if s.rcState p = 6 ∧ s.rcState (1 - p) = 2 then become s (1 - p)
  else s

/-- `RC_SELFTEST_DONE`. A failed self-test in a handover abandons it: the controller starts again with the old image, and the slot
is BAD (R520). -/
def execRcSelftestDone (rc : Fin 2) (passed : Bool) (s : State) : Res :=
  .next (
    if s.dom.worksRst ∨ s.rcState rc.val ≠ 1 ∨ s.rcCut rc.val = true then s
    else
      let inHand := match s.fw.hand with
        | some h => h.rc == rc.val
        | none => false
      if passed then
        let s := if inHand then s.fwMod fun x => { x with hand := some ⟨rc.val, 1⟩ } else s
        ((s.setRc rc.val 2).pickActive).judgePaths rc.val
      else if inHand then (s.abandon true 0x1313).selfTest rc.val
      else (s.setRc rc.val 6).pickActive)

/-- `RC_STANDBY_READY`: the copy of the record ends. A controller in STANDBY is "synchronized and checked" (R264), so the check of R267
is read as run on the copy that has just ended, and passed; in a handover that check is R520's step 3. DEDUCED: log 18. -/
def execRcStandbyReady (rc : Fin 2) (s : State) : Res :=
  .next (
    if s.dom.worksRst ∨ s.rcState rc.val ≠ 2 ∨ rc.val = s.rcActive ∨ s.rcState s.rcActive ≠ 4 then s
    else
      let s := s.rcMod fun c => { c with recs := vput c.recs rc.val (vget (.replicate 64 none) c.recs s.rcActive) }
      let s := (s.setRc rc.val 3).event (rcSrc rc.val) 0x0884 (leBytes 1 rc.val)
      s.standbyPass.judgePaths rc.val)

/-! ## Firmware beats (R434, R435) -/

/-- The miss count of a party: 0 RC-A, 1 RC-B, 2 the signal box. -/
def missFld (i : Nat) : Fld := if i = 0 then R.HANG_STATUS_MISS_A else if i = 1 then R.HANG_STATUS_MISS_B else R.HANG_STATUS_MISS_SB

/-- A write of `FW_BEAT` by a party (R453). -/
def State.fwBeat (s : State) (src : Party) : Nat × State :=
  match src with
  | .rcA => (0, s.fset R.HANG_STATUS_MISS_A 0)
  | .rcB => (0, s.fset R.HANG_STATUS_MISS_B 0)
  | .signalBox => (0, s.fset R.HANG_STATUS_MISS_SB 0)
  | .node => (7, s)

/-- `FW_BEAT`. -/
def execFwBeat (src : Party) (s : State) : Res := .next (s.byParty src fun s => (s.regCmdSt R.FW_BEAT (·.fwBeat src)).2)

/-- A hang of the signal box resets SIGNAL (R435, R446), but in the safe state (R448). -/
def State.sbHang (s : State) : State :=
  if s.dom.signalRst ∨ s.dom.sigReq ≠ 0 ∨ s.flag R.IL_STATUS_SAFE = true then s
  else
    let s := s.mgrMod fun m => { m with
      hangs := m.hangs.filter (fun a => decide (s.rtime < a + 1000000000 * s.od D.ESC_WINDOW_S)) ++ [s.rtime] }
    ((s.askSignal 1).fset R.RESET_STATUS_LAST_KIND 3).fset R.RESET_STATUS_LAST_CAUSE 1

/-- Is the party watched: SIGNAL runs, and a controller is in STANDBY or ACTIVE? -/
def State.watched (s : State) (i : Nat) : Bool :=
  !s.dom.signalRst && !s.dom.lineRst && (i == 2 || (!s.dom.worksRst && (s.rcState i == 3 || s.rcState i == 4)))

/-- `FW_BEAT_MISS`: 1 ms without a beat of party 0 RC-A, 1 RC-B, 2 signal box; the tenth in a row is `FW_HANG`. -/
def execFwBeatMiss (i : Fin 3) (s : State) : Res :=
  .next (
    if !s.watched i.val then s
    else
      let n := s.fget (missFld i.val) + 1
      if n < 10 then s.fset (missFld i.val) n
      else
        let s := (s.fset (missFld i.val) 0).report (if i.val = 2 then sbSource else rcSrc i.val) .fwHang 10 0
        if i.val = 2 then (s.spoil 0).sbHang
        else if i.val = s.rcActive then s.spoil 1 else s)

end Sys2Proof.Machine
end

