-- ==== Sys2Proof/Machine/Resets.lean ====
section
/-! DEFINITION. Resets of the domains (R30-R34, R302, R449-R452, R480), the hardware trip (R406, R407), loss and return of power
(R367, R456), and what the signal box shows of the bring-up run (R476). -/

namespace Sys2Proof.Machine

/-! ## Registers at a reset (R15) -/

/-- Is a field left as it is by the reset of its domain? -/
def FieldRow.kept (f : FieldRow) : Bool :=
  match f.rst with
  | .hold | .holdAt _ | .fuse => true
  | _ => false

/-- The bits of a register that its reset keeps. -/
def keepMask (r : RegRow) : Word :=
  r.fields.foldl (fun w f => if f.kept then w ||| (BitVec.ofNat 64 (2 ^ (f.hi + 1 - f.lo) - 1) <<< f.lo) else w) 0

/-- A register's word after the reset of its domain: kept fields, and the Reset column of the others. -/
def State.resetReg (s : State) (off : Nat) (w : Word) : Word :=
  match findReg off with
  | none => 0
  | some r =>
    r.fields.foldl (fun v f =>
      match f.rst with
      | .num n => v ||| (BitVec.ofNat 64 n <<< f.lo)
      | .dict k => v ||| (BitVec.ofNat 64 (s.od k) <<< f.lo)
      | _ => v) (w &&& keepMask r)

/-- The registers of the offsets that `p` names take their reset values. -/
def State.resetBlocks (s : State) (p : Nat → Bool) : State :=
  let l := s.csr.filterMap fun e =>
    if p e.1 then
      let v := s.resetReg e.1 e.2
      if v = csrDflt e.1 then none else some (e.1, v)
    else some e
  { s with csr := l }

/-! ## The bring-up run in the registers (R458, R459, R476) -/

/-- Change the bring-up run. -/
def State.bootMod (s : State) (f : Boot → Boot) : State := { s with boot := f s.boot }
/-- Is the package in shunting service: from S5 until S7 is reached (R467)? -/
def Boot.shunting (b : Boot) : Bool := b.stage == 5 || b.stage == 6 || (b.stage == 7 && b.outcome == 0)
/-- Is S7 reached? -/
def Boot.full (b : Boot) : Bool := b.stage == 7 && b.outcome == 1

/-- The signal box writes BOOT_STATUS from the run while LINE is out of reset. -/
def State.bootRegs (s : State) : State :=
  if s.dom.lineRst then s
  else
    let b := s.boot
    let s := ((s.fset R.BOOT_STATUS_STAGE b.stage).fset R.BOOT_STATUS_OUTCOME b.outcome).fset R.BOOT_STATUS_RUN_KIND b.kind
    let s := s.fset R.BOOT_STATUS_CAUSE (if b.outcome = 2 ∨ b.outcome = 3 then b.cause else 0)
    ((s.setFlag R.BOOT_STATUS_SHUNTING b.shunting).setFlag R.BOOT_STATUS_FULL b.full).liveFlags

/-- `BG_PCT`: percent of the user-visible area scrubbed, lowest over the devices. -/
def State.bgPct (s : State) : Nat :=
  if s.fget R.BOOT_BG_BG_STATE = 0 then 0
  else ((List.range 8).map fun n => (s.csrGet (scrubSum n 2)).toNat * 100 / mdSize).foldl min 100

/-- The background test ends: its report, `BGTEST_DONE` (R475, R477). State 2 done, 3 stopped; `spares` the spare units that failed
the pattern test, per device. -/
def State.bgEnd (s : State) (state : Nat) (spares : List Nat) : State :=
  let secs := (s.clock.run - s.boot.bgAt) / 1000000000
  let ue := (List.range 8).flatMap fun n => leBytes 4 (s.fget ⟨scrubSum n 3, 0, 32⟩)
  let s := s.blobPut D.BGTEST_REPORT (leBytes 1 state ++ leBytes 1 (s.od D.SCRUB_RATE) ++ [0, 0] ++ leBytes 4 secs ++ ue
    ++ (List.range 8).flatMap (fun n => leBytes 1 (spares.getD n 0)) ++ List.replicate 16 0)
  let s := ((s.fset R.BOOT_STATUS_BG_RUN 0).fset R.BOOT_BG_BG_STATE state).fset R.BOOT_BG_BG_PCT s.bgPct
  s.event sbSource 0x1082 (leBytes 1 state ++ [0, 0, 0] ++ ue)

/-- A reset restarts the run (R458): at S2 for a package reset, at S3 for a WORKS reset; a run not yet over keeps the wider kind and
starts again at the first stage that the reset touches. -/
def State.restartRun (s : State) (kind : Nat) : State :=
  let first := if kind = 1 then 2 else 3
  let b := s.boot
  let stage := min b.stage first
  let b := { b with
    kind := if b.full then kind else min b.kind kind
    s6 := kind == 2 && (b.s6 || b.stage == 7)
    gen := s.fget R.RESET_STATUS_RESET_GEN
    stage := stage
    outcome := if stage < b.stage ∨ b.stage = first then 0 else b.outcome
    cause := if stage < b.stage ∨ b.stage = first then 0 else b.cause
    notice := if kind = 1 then 2 else max 1 b.notice
    picked := false
    tested := false
    trained := b.trained && kind == 2
    topoOn := b.topoOn && kind == 2
    accepted := if kind = 1 then none else b.accepted }
  let s := { s with boot := b }
  let s := ((List.range 8).filter fun k => first ≤ k && !(k == 6 && b.kind == 2 && b.s6)).foldl (fun s k => s.blobPut (D.STAGE_REPORT + k) []) s
  s.bootRegs

/-! ## Stage reports (R459, R460, R477, R494) -/

/-- A stage writes its report and sends `BOOT_STAGE`: outcome 1 passed, 2 stopped, 3 held. -/
def State.stageReport (s : State) (stage outcome cause us : Nat) (count detail : List Byte) : State :=
  let b := s.boot
  let t := if s.flag R.RTIME_STATUS_RTIME_VALID then s.rtime else 0
  let l := leBytes 1 stage ++ leBytes 1 outcome ++ leBytes 2 cause ++ leBytes 4 b.gen ++ leBytes 1 b.kind ++ List.replicate 7 0
    ++ leBytes 4 us ++ (count ++ List.replicate 4 0).take 4 ++ (detail ++ List.replicate 24 0).take 24 ++ leBytes 8 t
    ++ List.replicate 8 0
  let s := s.blobPut (D.STAGE_REPORT + stage) l
  let s := s.event sbSource 0x1080 (leBytes 1 stage ++ leBytes 1 outcome ++ leBytes 2 cause ++ leBytes 4 us)
  s.notice 5 (l.take 32)

/-- The run stops during the trial of a LINE image: it falls back, and a package reset boots the other slot (R523). -/
def State.lineStopped (s : State) : State :=
  if s.boot.outcome = 2 ∧ s.trial 2 = true then (s.fallBack 2 2).askReset 2 2 4 0xFFFF 0xFFFFFFFF else s

/-- Causes of a stop that the package does not leave before a power-on reset (R457). -/
def fatalStop (cause : Nat) : Bool := [0x1002, 0x1005, 0x1006, 0x1009].contains cause

/-- A stop that only a power-on reset ends is kept, but in the trial of a LINE image, which falls back (R523). -/
def State.keepFatal (s : State) (cause : Nat) : State :=
  if fatalStop cause ∧ s.trial 2 = false then s.bootMod fun b => { b with fatal := cause } else s

/-- A stage stops (2) or is held (3) with a cause. -/
def State.stageStop (s : State) (stage outcome cause us : Nat) (count detail : List Byte) : State :=
  let s := s.keepFatal cause
  (((s.bootMod fun b => { b with outcome := outcome, cause := cause }).stageReport stage outcome cause us count detail)).bootRegs.lineStopped

/-- A stage passes, and the next one starts. -/
def State.stagePass (s : State) (stage us : Nat) (count detail : List Byte) (next : Nat) : State :=
  let s := s.stageReport stage 1 0 us count detail
  (s.bootMod fun b => { b with stage := next, outcome := if stage = 7 then 1 else 0, cause := 0 }).bootRegs

/-- The stage in force goes on after a stop or hold with this cause (R457). -/
def State.stageResume (s : State) (stage cause : Nat) : State :=
  if s.boot.stage = stage ∧ s.boot.outcome ≥ 2 ∧ s.boot.cause = cause then
    (s.bootMod fun b => { b with outcome := 0, cause := 0 }).bootRegs
  else s

/-! ## The conditions of an activation (R518) -/

/-- The least margin of a region to its limit is below 10 K (R518, R393). -/
def State.fwHot (s : State) : Bool := (List.range 12).any fun x => decide (s.limitX x - s.tx x < deg 10)

/-- The first condition of R518 that holds, 0 where none does; `own` is the target whose cut-over is being checked. -/
def State.fwBlock (s : State) (own : Option Nat) : Nat :=
  if s.od D.OWNER_LOCK = 1 then 0x1308
  else if s.flag R.IL_STATUS_FAULT_STATE then 0x1309
  else if s.inBs ∨ s.govState = 4 ∨ s.alert = true then 0x130A
  else if s.fwHot then 0x130B
  else if s.estate = 2 ∨ s.estate = 3 ∨ s.estate = 4 ∨ (List.range 8).any (fun n => s.flag (R.WE_APPLY_APPLYING.at (mdOff n))) = true then
    0x130C
  else if !s.standbyOk then 0x130D
  else if (List.range 6).any (fun k => (s.fwSlot k).state == 4 && own != some (k / 2)) ∨ (own != some 1 && s.fw.hand.isSome) = true then 0x130E
  else 0

/-- A trial starts at its cut-over. -/
def State.trialStart (s : State) (t : Nat) : State :=
  s.fwMod fun x => { x with cut := vput x.cut t s.clock.run, spoilt := clearBit x.spoilt t, flashed := if t = 0 then false else x.flashed }

/-! ## WORKS (R31-R33, R450, R451) -/

/-- `RESET_NOTICE`, to the control node and to the tray controller (R452, R454). -/
def State.resetNotice (s : State) (kind phase : Nat) : State :=
  let d := leBytes 1 kind ++ leBytes 1 phase ++ leBytes 1 (s.fget R.RESET_STATUS_LAST_CAUSE) ++ [0]
    ++ leBytes 4 (s.fget R.RESET_STATUS_RESET_GEN)
  (s.event 0x0F00 0x0F82 d).notice 3 d

/-- Is an address in a scratchpad? -/
def inSp (a : Nat) : Bool := decide (spBase ≤ a ∧ a < wsBase)

/-- WORKS enters reset: what it holds goes, but for what R451 keeps. -/
def State.worksWipe (s : State) : State :=
  let s := ((s.resetBlocks inWorks).tilesDark).imageGone 1
  let s := s.fset R.FENCE_UNITS_DIES 0
  let s := (((s.fset R.FENCE_UNITS_RC 0).fset R.FENCE_UNITS_WE 0).fset R.FENCE_UNITS_MD 0).fset R.FENCE_UNITS_ME 0
  { s with
    dom := { s.dom with worksRst := true }
    tiles := .replicate 192 .reset
    ceFull := .replicate 12 false
    mem := s.mem.filter fun c => !inSp c.1
    flips := s.flips.filter fun c => !inSp c.1
    prog := .empty
    we := s.we.map fun w => { w with queue := [], run := none, stuck := false, halted := false }
    md := s.md.map fun d => { d with scrub := .idle, burst := .replicate 4 0, cetimes := [] }
    rings := .replicate 64 .reset
    rrNext := .replicate 4 0
    replies := .replicate 8 []
    me := .replicate 4 .reset
    rc := .reset
    barInbox := []
    epoch := { s.epoch with votesLost := s.epoch.votesLost || !s.epoch.doneMask.isEmpty, doneMask := [], anyVote := false, firstFail := 0 }
    router := { s.router with reqs := [] }
    dw := { s.dw with reads := s.dw.reads.filter (·.window.isNone) }
    mgr := { s.mgr with fences := [], held := [] } }

/-- The interlock ends every collective of the package with MEMBER_RESET (R357). -/
def State.collsReset (s : State) : State := (List.range 4).foldl (fun s d => s.collsCut d 0x0B03 fun _ => true) s

/-- A handover under way is abandoned with a code; its controller leaves service, if it had reached it, and is reset into SELFTEST with the
old image (R520). -/
def State.dropHand (s : State) (code : Nat) : State :=
  match s.fw.hand with
  | some h => ((s.abandon false code).setStandbyOk false).selfTest h.rc
  | none => s

/-- A handover under way is abandoned by a reset. -/
def State.dropHandover (s : State) : State := s.dropHand 0x1313

/-- Steps 1 to 4 of R450: cut and samples, votes and aborts, the samples written, those that fences still owe before them (R442), WORKS in
reset. A thermal trip (cause 3) writes no samples. -/
def State.worksEnter (s : State) (kind cause : Nat) : State :=
  let level := if kind = 1 then 3 else if kind = 2 then 4 else Config.cycleRecord / 256
  let hit := (List.range 192).filter fun p => s.tileState p == 2 || s.tileState p == 3 || s.tileState p == 4
  let l := if cause = 3 then []
    else s.mgr.fences.flatMap (·.samples) ++ hit.map fun p => s.sampleOf p (if kind = 1 then 5 else if kind = 2 then 6 else Config.cycleRecord) level s.dom.reqLseq
  let s := (s.collsReset).resetVote
  let s := (s.writeSamples l).2
  let bg := s.flag R.BOOT_STATUS_BG_RUN
  let s := if bg then s.bgEnd 3 [] else s
  s.dropHandover.worksWipe

/-- The request being carried out is over; the 5 s exit limit starts. -/
def State.reqDone (s : State) : State :=
  { s with dom := { s.dom with reqKind := 0, again := false, exitTimer := true } }

/-- `WORKS_RESET`: the requested WORKS reset is entered. -/
def execWorksReset (s : State) : Res :=
  .next (
    if s.dom.reqKind ≠ 1 ∨ s.dom.worksRst then s
    else
      let s := (s.worksEnter 1 s.dom.reqCause).resetNotice 1 1
      s.reqDone.restartRun 2)

/-- A tile when WORKS leaves reset: IDLE with its logical number where it serves, else OFF (R117). -/
def State.tileExit (s : State) (p : Nat) : State :=
  match (List.range 176).find? fun l => s.physOf l == some p with
  | some l => (s.fset (R.TILE_STATE_LOGICAL.at (tileOff p)) l).setTileState p 1
  | none => (s.fset (R.TILE_STATE_LOGICAL.at (tileOff p)) 0xFFFF).setTileState p 0

/-- The image of a target that a run starts (R507, R512): the slot in force unless it is BAD or fails its check, then the other where that is
GOOD. `bad` has a bit for each slot whose shipped image fails. False where neither passes. -/
def State.bootSlot (s : State) (t : Nat) (bad : BitVec 2) : Bool × State :=
  let k := s.inForce t
  let j := s.idle t
  if !s.bootFails k (bad.getLsbD (k % 2)) then (true, s.imageStart t)
  else
    let s' := s.slotSt k 6
    if (s.fwSlot j).state = 5 ∧ !s.imageBad j (bad.getLsbD (j % 2)) then
      let s' := (s'.fwMod fun x => { x with run := vput x.run t (j % 2) }).imageStart t
      (true, s'.event sbSource 0x1383 (leBytes 1 (fwCode t) ++ [3] ++ leBytes 1 (j % 2) ++ [0] ++ leBytes 4 (s.fwSlot j).version))
    else (false, s')

/-- `WORKS_RESET_EXIT`: channels trained to `chUp`, Hold fields and the job record reloaded, controllers in SELFTEST, or FAILED where
no runtime image passes (`bad` names the slots that fail). WORKS stays in reset while `TRIP` is set or a power cycle is due. -/
def execWorksResetExit (chUp : Vector (BitVec 4) 8) (bad : BitVec 2) (s : State) : Res :=
  .next (
    if !s.dom.worksRst ∨ s.dom.lineRst ∨ s.dom.cutoff ∨ s.flag R.THERM_STATUS_TRIP ∨ s.flag R.RESET_STATUS_CYCLE_REQ
        ∨ s.boot.stage ≠ 3 ∨ s.boot.outcome ≠ 0 then s
    else
      let s := { s with dom := { s.dom with worksRst := false, exitTimer := false, again := false } }
      let s := (List.range 8).foldl (fun s n =>
        (((s.logRead n).fset (R.MD_STATUS_CH_UP.at (mdOff n)) (chUp[n]!).toNat).fset (R.SCRUB_CTL_RATE.at (mdOff n)) (s.od D.SCRUB_RATE)).reloadMark n) s
      let s := (List.range 192).foldl (fun s p => s.tileExit p) s
      let s := (List.range 8).foldl (fun s n => s.weSync n) s
      let s := if s.job.active then s.jobRead.syncMirror else s
      let (ok, s) := s.bootSlot 1 bad
      let s := (s.syncArith).fwMod fun x => { x with rcImg := .replicate 2 (vget 0 x.run 1) }
      let s := s.fset R.RC_STATUS_ACTIVE (s.od D.RC_PREFERRED)
      let s := (List.range 4).foldl (fun s d => s.ownPace d (s.fget (R.DIE_PWR_RATE.at (diePwr d)))) s.heldDecisions
      if ok then (s.selfTest 0).selfTest 1 else (s.setRc 0 6).setRc 1 6)

/-! ## LINE (R31, R298, R302, R386, R428) -/

/-- The governor's running state resets to OFF; the power module holds the core setpoints at 0.55 V, 0.45 V in buffer stop, and takes the
ballast that stands (R381, R386). -/
def State.govWipe (s : State) : State :=
  let bal := if s.gov.held then 0 else 100 * min 800 (s.fget R.PWR_NOW_BALLAST_W)
  s.govMod fun g => { g with fresh := false, bsAt := if g.held then g.bsAt else 0, ticks := [], means := [], msPrev := none, msIdx := 0, msSum := 0, msN := 0, msBs := false, msHard := false,
                             msBlade := false, msShort := false, msFloor := true, hints := [], bindAt := [],
                             modJob := s.job.active, modBal := bal, offSet := if g.held then 450 else 550, integ := 0, share := .replicate 4 0 }

/-- Thermal control keeps its estimates, marks, force, trip and cut request (R451). -/
def State.thermWipe (s : State) : State :=
  s.thMod fun t => { t with sampled := false, flow := 0, hot := 0, capOk := 0, coolFor := 0, lowFor := 0, flowFor := 0, wellFor := 0, meds := [],
                            runs := .replicate 4 0, calmFor := 0, ruleFor := .replicate 10 [], crossFor := 0, past := [] }

/-- The Dwente port starts at LINE reset exit: its lanes acquire, under an incarnation that is drawn at random and is not 0 (R208, R210). -/
def State.dwStart (s : State) : State :=
  let (v, s) := s.draw
  let s := { s with dw := { s.dw with lanes := s.dw.lanes.map fun x => { x with ownInc := v.toNat % (2 ^ 32 - 1) + 1 } } }
  [0, 1].foldl (fun s l => if s.laneEn l then s.setLaneState l 1 else s) s

/-- A package reset sends `DOWN` with cause 1 on every port in UP or MAINT (R301, R302). -/
def State.sayReset (s : State) : State :=
  (List.range 18).foldl (fun s p => if s.portState p = 5 ∨ s.portState p = 6 then s.sayDown p 1 else s) s

/-- LINE enters reset. What stood last on a port's lanes before they fell silent stays on record. -/
def State.lineWipe (s : State) : State :=
  let s := (((s.govWipe).thermWipe).resetBlocks fun off => !inWorks off).imageGone 2
  { s with
    dom := { s.dom with lineRst := true }
    rfrac := 0
    msgs := []
    dw := .reset
    mirror := .none
    ports := s.ports.map fun x => { Port.reset with lastCw := x.lastCw, lastLane := x.lastLane }
    router := .reset
    clock := { s.clock with armed := none, fromCopy := false }
    il := { s.il with conds := [], sent := [], expired := false, readAt := none }
    sb := s.sb.mute }

/-- RESET_NOTICE events that the control node has not acknowledged stay for the lane's fresh start, numbered anew (R452). DEDUCED (log entry
197). -/
def State.keepNotices (s : State) (l : List DwEvent) : State :=
  { s with dw := { s.dw with evq := l.mapIdx fun i e => { e with seq := i }, evSeq := l.length } }

/-- `PACKAGE_RESET`: the requested package reset is entered; an ARMED image will boot with it (R519). -/
def execPackageReset (s : State) : Res :=
  .next (
    if s.dom.reqKind ≠ 2 ∨ s.dom.lineRst then s
    else
      let s := if s.dom.worksRst then s else s.worksEnter 2 s.dom.reqCause
      let s := s.resetNotice 2 1
      let passed := if s.boot.stage = 7 ∧ s.boot.full = false then 6 else s.boot.stage
      let armed := (s.fwSlot (s.idle 2)).state == 3
      let s := s.fwMod fun x => { x with lineAgain := true, lineStage := if armed then passed else x.lineStage }
      let notes := (s.dw.evSent ++ s.dw.evq).filter (·.code == 0x0F82)
      (((s.sayReset).lineWipe).keepNotices notes).reqDone.restartRun 1)

/-- Conditions that still hold are raised again by their sources (R428, R429). -/
def State.raiseAgain (s : State) : State :=
  let on := fun (b : Bool) (s : State) (src : Nat) (k : Kind) (d : Nat) => if b then s.report src k d 0 else s
  let s := on (!s.clock.present) s 0x0370 .clockLost 0
  let s := (List.range 4).foldl (fun s i => on (nbit s.rc.raised i == 1) s (rcSrc (i / 2)) .hbPath (i % 2 + 1)) s
  let s := match s.rc.sbFault with
    | some (x, cause) => s.report (rcSrc x) .standbyFault cause 0
    | none => s
  let s := s.gov.alerts.foldl (fun s r => s.report 0x0601 (if r ≤ 3 then .pwrInput else .pwrRail) r 0) s
  let s := on (s.gov.lost != 0) s 0x0601 .bladeLost s.gov.lost
  let s := on s.gov.held s govSource .bufferStop s.gov.cause
  let s := on (nbit s.therm.causes 2 == 1) s thermSource .thermStop s.therm.stopDie
  let s := (List.range 10).foldl (fun s g => on (s.guardBad g) s thermSource .thermGuard g) s
  let s := s.therm.trips.foldl (fun s (g, _) => s.report thermSource .thermTrip (guardSensor g) 0) s
  let s := on (nbit s.therm.causes 1 == 1) s thermSource .thermSoft s.therm.soft
  let s := (List.range 2).foldl (fun s l => on (s.lane l).reported s (0x0400 + l) .laneDown l) s
  (List.range 18).foldl (fun s p => match (s.port p).reported with
    | some cause => s.report (portSource p) .portDown cause 0
    | none => s) s

/-- Messages of conditions that sources still hold from LINE's reset go: what holds is raised again. -/
def State.condsDrop (s : State) : State :=
  { s with msgs := (s.msgs.map fun e => (e.1, e.2.filter fun m => !kindCond m.kind)).filter fun e => !e.2.isEmpty }

/-- An ARMED LINE image starts its trial at a package reset (R519). -/
def State.lineTrial (s : State) : State :=
  let k := s.idle 2
  if (s.fwSlot k).state = 3 then
    (((s.slotSt k 4).fwMod fun x => { x with run := vput x.run 2 (k % 2) }).trialStart 2).fwActivated 2 k
  else s

/-- The run stops at a stage with a cause (R457). -/
def State.stopRun (s : State) (stage cause : Nat) : State :=
  (s.bootMod fun b => { b with stage := stage, outcome := 2, cause := cause }).bootRegs

/-- DETAIL of the S0 report (R460). -/
def State.s0Detail (s : State) : List Byte := leBytes 8 (s.od D.SERIAL) ++ leBytes 2 0x00B0 ++ leBytes 1 (vget 0 s.fw.run 0)

/-- No LINE image passes: the run stops at S0, and the signal box reports it while it runs. No duration is known to the model: a free value
(log entry 198). -/
def State.noImage (s : State) : State :=
  if s.dom.signalRst then s.stopRun 0 0x1001
  else
    let (v, s) := s.draw
    (s.bootMod fun b => { b with stage := 0 }).stageStop 0 2 0x1001 (v.toNat % 2 ^ 32) [] s.s0Detail

/-- The image with which LINE leaves reset: behind a package reset an ARMED one starts its trial, and the slot in force is verified again;
S0 has verified the one of a power-on (R507, R519). -/
def State.lineImage (s : State) (bad : BitVec 2) : Bool × State :=
  if s.fw.lineAgain then
    let (ok, s) := s.lineTrial.bootSlot 2 bad
    (ok, s.fwMod fun x => { x with lineAgain := false })
  else (true, s)

/-- `LINE_RESET_EXIT`: LINE starts with the image that its check leaves (`bad` names the LINE slots that fail); RTIME takes the
signal box's copy at the next TSYNC edge, ports train, the governor resumes at its next tick. -/
def execLineResetExit (bad : BitVec 2) (s : State) : Res :=
  .next (
    if !s.dom.lineRst ∨ !s.dom.powered ∨ s.dom.cutoff ∨ s.boot.stage ≠ 2 ∨ s.boot.outcome ≠ 0 then s
    else
      let (ok, s) := s.lineImage bad
      if !ok then s.noImage
      else
        let s := { s with dom := { s.dom with lineRst := false, exitTimer := true, again := false },
                          clock := { s.clock with fromCopy := s.clock.copyValid } }
        let s := s.odPut D.LINK_VERSION (s.fwSlot (s.inForce 2)).link
        let s := if s.clock.present then s.fset R.RTIME_STATUS_REFCLK_LOCK 1 else s
        let s := (List.range 18).foldl (fun s p => if s.portMay p then s.setPortState p 1 else s) s
        let s := s.dwStart
        let s := (s.pinFlags).fset R.IL_STATUS_INJECT_EN (s.od D.INJECT_EN)
        let s := if s.flag R.IL_STATUS_FAULT_STATE then
            { s.fset R.IL_STATUS_QUIET_RUN 1 with il := { s.il with quietAt := s.clock.run } }
          else s
        (s.condsDrop.raiseAgain).bootRegs)

/-! ## Power cycle, exit limit, thermal trip (R406, R407, R447, R449) -/

/-- `POWER_CYCLE`: steps 1 to 4 of R450, then the request to the tray controller. -/
def execPowerCycle (s : State) : Res :=
  .next (
    if s.dom.reqKind ≠ 4 then s
    else
      let d := s.dom
      let s := if s.dom.worksRst then s else (s.worksEnter 4 d.reqCause).resetNotice 4 1
      let s := s.fset R.RESET_STATUS_CYCLE_REQ 1
      let s := { s with dom := { s.dom with reqKind := 0, again := false }, mgr := { s.mgr with cycTarget := d.reqTarget } }
      s.notice 2 (leBytes 2 d.reqTarget ++ leBytes 1 5))

/-- `RESET_EXIT_TIMEOUT`: LINE, or WORKS, has not left reset 5 s after its release (R447). -/
def execResetExitTimeout (line : Bool) (s : State) : Res :=
  .next (
    if !s.dom.exitTimer ∨ (if line then !s.dom.lineRst else s.dom.lineRst || !s.dom.worksRst) ∨ s.flag R.THERM_STATUS_TRIP then s
    else
      let s := { s with dom := { s.dom with exitTimer := false } }
      if s.flag R.IL_STATUS_SAFE then s
      else
        let l := if line then 4 else 3
        (s.escalation s.dom.reqTarget l (l + 1) false).autoReset s.dom.reqTarget (l + 1) s.dom.reqCause s.dom.reqLseq)

/-- `HARDWARE_TRIP`: the comparator of die guard `g`, which is not marked, trips at 118 °C or above (R406). The reading is in 1/64 K. -/
def execHardwareTrip (g : Fin 8) (reading : Int) (s : State) : Res :=
  .next (
    if !s.dom.powered ∨ !s.takesPart (guardSensor g.val) ∨ reading < deg 118 ∨ s.therm.trips.any (·.1 == g.val) then s
    else
      let s := (s.forceOn 5 g.val).thMod fun t => { t with trips := t.trips ++ [(g.val, reading)] }
      let s := s.report thermSource .thermTrip (guardSensor g.val) 0
      let s := s.event thermSource 0x0D84 (leBytes 1 (guardSensor g.val) ++ [0] ++ leBytes 2 (tenths reading))
      if s.flag R.THERM_STATUS_TRIP then s
      else
        let s := s.fset R.THERM_STATUS_TRIP 1
        if s.dom.worksRst then s
        else
          let s := (s.fset R.RESET_STATUS_LAST_KIND 1).fset R.RESET_STATUS_LAST_CAUSE 3
          let s := { s with dom := { s.dom with reqKind := if s.dom.reqKind = 1 then 0 else s.dom.reqKind,
                                                 reqCause := if s.dom.reqKind ≤ 1 then 3 else s.dom.reqCause } }
          ((s.worksEnter 1 3).resetNotice 1 1).restartRun 2)

/-- Rails of LINE and WORKS are off: no vote and no ABORT (R367). -/
def State.dark (s : State) : State :=
  (((s.worksWipe).lineWipe).fset R.FENCE_UNITS_DIES 0).govMod fun g => { g with modBal := 0, offSet := 0 }

/-- `RAIL_CUTOFF`: a plausible die guard at 125 °C or above: every rail but VAON is switched off until a power-on reset (R407). -/
def execRailCutoff (g : Fin 8) (reading : Int) (s : State) : Res :=
  .next (
    if !s.dom.powered ∨ !s.takesPart (guardSensor g.val) ∨ reading < deg 125 then s
    else
      let s := s.dark
      { s with dom := { s.dom with cutoff := true, reqKind := 0, exitTimer := false } })

/-- A write of bit 1 of THERM_CLEAR: refused while a plausible die guard reads more than 90 °C (R406). -/
def State.tripClear (s : State) : Bool × State :=
  if (List.range 8).any fun g => s.takesPart (guardSensor g) && decide (deg 90 < s.temp (guardSensor g)) then (false, s)
  else if !s.flag R.THERM_STATUS_TRIP then (true, s)
  else
    let s := s.therm.trips.foldl (fun s (g, _) => s.report thermSource .thermTrip (guardSensor g) 0 true) s
    let s := (s.setFlag R.THERM_STATUS_TRIP false).thMod fun t => { t with trips := [] }
    (true, { s.forceOff 5 with dom := { s.dom with exitTimer := s.dom.worksRst } })

/-! ## Requests and responses of the dictionary (R483) -/

/-- A parsed request: its path, its source address on the field port, its header, its value, and the bytes of the whole message. -/
structure OdReq where
  lane    : Bool
  src     : Nat
  op      : Nat
  flags   : Nat
  key     : Nat
  grant   : Nat
  reqId   : Nat
  session : Nat
  offset  : Nat
  length  : Nat
  value   : List Byte
  size    : Nat
  deriving DecidableEq, Repr

/-- The request that a message holds; a header cut short reads 0 past its end. -/
def odParse (lane : Bool) (src : Nat) (l : List Byte) : OdReq :=
  ⟨lane, src, numAt l 0 1, numAt l 1 1, numAt l 2 2 * 256 + numAt l 4 1, numAt l 5 1, numAt l 8 4, numAt l 12 4, numAt l 16 4,
    numAt l 20 2, l.drop 24, l.length⟩

/-- A response: the request's fields, a status, GEN and a value. -/
def OdReq.response (q : OdReq) (status gen : Nat) (value : List Byte) : List Byte :=
  odHeader (q.op ||| 0x80) q.key status q.reqId q.session q.offset value.length gen ++ value

/-- A message leaves on the path of its request. -/
def State.odSend (s : State) (m : OdMsg) (l : List Byte) : State :=
  match m with
  | .port src _ _ _ => s.fieldSend (.udp src.toNat l)
  | .lane f => (s.respond f 7 (chunk52 80 l)).pump

/-! ## SIGNAL (R435, R480, R525) -/

/-- The slot that the ROM boots (R525), `bad` naming the slots that fail R507: a TRIAL slot once; found again, it is BAD and the GOOD
slot is booted; else the GOOD slot of the higher VERSION that passes. False where none passes. -/
def State.romSelect (s : State) (bad : BitVec 2) : Bool × State :=
  let fails := fun (s : State) (k : Nat) => s.imageBad k (bad.getLsbD k)
  let good := fun (s : State) (k : Nat) => (s.fwSlot k).state == 5 && !fails s k
  let best := fun (s : State) =>
    if good s 0 && (!good s 1 || decide ((s.fwSlot 1).version ≤ (s.fwSlot 0).version)) then some 0
    else if good s 1 then some 1 else none
  let fell := fun (s : State) (k cause : Nat) =>
    s.event sbSource 0x1383 (leBytes 1 1 ++ leBytes 1 cause ++ leBytes 1 k ++ [0] ++ leBytes 4 (s.fwSlot k).version)
  let pick_ := fun (s : State) (cause : Nat) =>
    match best s with
    | some k =>
      let failed := fails s (s.inForce 0)
      let fall := cause != 0 || failed
      let s := if cause = 0 ∧ failed = true ∧ (s.fwSlot (s.inForce 0)).state = 5 then s.slotSt (s.inForce 0) 6 else s
      let s := s.fwMod fun x => { x with run := vput x.run 0 k, tried := false }
      (true, if fall then fell s k (if cause = 0 then 3 else cause) else s)
    | none => (false, s)
  match (List.range 2).find? fun k => (s.fwSlot k).state == 4 with
  | none => pick_ s 0
  | some k =>
    if s.fw.tried then pick_ (s.slotSt k 6) 2
    else if fails s k then pick_ (s.slotSt k 6) 3
    else (true, s.fwMod fun x => { x with run := vput x.run 0 k, tried := true })

/-- Seconds since SIGNAL left reset. -/
def State.uptime (s : State) : Nat :=
  if s.dom.signalRst then 0 else min ((s.clock.run - s.sb.upAt) / 1000000000) 0xFFFFFFFF

/-- Change the signal box. -/
def State.sbMod (s : State) (f : Sb → Sb) : State := { s with sb := f s.sb }

/-- What the signal box loses in its reset: requests that wait, responses kept, staged transfers, grants in force and the tray session
(R480). -/
def Sb.wipe (b : Sb) (cause up : Nat) (noImage : Bool) : Sb :=
  { b with kept := .replicate 2 [], waiting := .replicate 2 [], turn := 0, staged := .replicate 2 none, grants := .replicate 15 none, session := 0,
           hello := false, up := false, cause := cause, before := up, noImage := noImage }

/-- Change the reset domains. -/
def State.domMod (s : State) (f : Dom → Dom) : State := { s with dom := f s.dom }

/-- The ROM chooses its slot, and the signal box loses what its reset discards. -/
def State.romBoot (s : State) (bad : BitVec 2) (cause up : Nat) : State :=
  let (ok, s) := s.romSelect bad
  let s := s.sbMod fun b => b.wipe cause up (!ok)
  (s.fwMod fun x => { x with reports := .replicate 2 [] }).imageGone 0

/-- Both controllers' path verdicts are made anew. -/
def State.pathsJudged (s : State) : State := (s.judgePaths 0).judgePaths 1

/-- SIGNAL is in reset: its copy of RTIME is no longer valid (R298). -/
def State.signalDown (s : State) : State :=
  { s with clock := { s.clock with copyValid := false }, dom := { s.dom with signalRst := true, sigReq := 0 } }

/-- The SIGNAL slot whose activation waits for its cut-over, the SIGNAL reset (R519). -/
def State.sigPending (s : State) : Option Nat :=
  if s.fw.tried then none else (List.range 2).find? fun k => (s.fwSlot k).state == 4

/-- The cut-over of an activation of SIGNAL (R518): the trial starts, or a condition that has arisen abandons it with its code. -/
def State.sigCutOver (s : State) : Nat × State :=
  match s.sigPending with
  | none => (0, s)
  | some k =>
    let c := s.fwBlock (some 0)
    if c = 0 then (0, (s.trialStart 0).fwActivated 0 k)
    else (c, ((s.slotSt k 2).odPut D.FW_RESULT c).activateFail 0 c)

/-- Requests of the control lane that wait find SIGNAL in reset (R211, R480). -/
def State.odTurnAway (s : State) : State :=
  (vget [] s.sb.waiting 1).foldl (fun s w => if w.mute then s else s.odSend w.msg ((odParse true 0 w.body).response 5 0 [])) s

/-- SIGNAL enters reset with a cause. The third hang within the window holds it there (R435), but a hang of an image in trial, which falls
back (R525). -/
def State.signalEnter (s : State) (bad : BitVec 2) (cause : Nat) : State :=
  let up := s.uptime
  let held := cause = 1 ∧ 3 ≤ s.mgr.hangs.length ∧ s.trial 0 = false
  let s := ((s.tokensForced 4).dropHandover).odTurnAway
  let s := if s.dom.lineRst then s else s.bump R.SB_EVENTS2_SB_RESTARTS R.SB_FLAGS_RESTARTS_OVF
  let s := s.signalDown
  let s := if held then s.fset R.RESET_STATUS_SB_HELD 1 else s
  (s.romBoot bad cause up).pathsJudged

/-- `SIGNAL_RESET`: the requested SIGNAL reset is entered; the ROM chooses its slot (`bad` names the slots whose shipped image fails its
check). A reset asked for by an activation alone is not taken where a condition of R518 has abandoned that. -/
def execSignalReset (bad : BitVec 2) (s : State) : Res :=
  .next (
    if s.dom.sigReq = 0 ∨ s.dom.signalRst then s
    else
      let cause := s.dom.sigReq
      let (code, s) := s.sigCutOver
      if code ≠ 0 ∧ cause = 3 then s.domMod fun d => { d with sigReq := 0 } else s.signalEnter bad cause)

/-! ## Power (R43, R367, R456) -/

/-- `POWER_LOSS`: the input stays below 38 V past the hold-up; the package is unpowered. -/
def execPowerLoss (s : State) : Res :=
  .next (
    if !s.dom.powered then s
    else
      let s := s.dark
      { s with dom := { s.dom with powered := false, signalRst := true, reqKind := 0, sigReq := 0, exitTimer := false } })

/-- Dictionary entries that a power cycle keeps (R22), and the fused minimum revisions, by which the ROM judges (R505, R507). -/
def odKept (key : Nat) : Bool :=
  key == D.MIN_KEY_REV || dictMap.any fun r => r.persist && decide (r.key ≤ key ∧ key < r.key + r.count)

/-- What POWER_ON_RESET starts from: the reset state with what flash keeps (R451). -/
def State.fromFlash (s : State) : State :=
  { State.reset with
    pending := s.pending
    freeCtr := s.freeCtr
    dict := s.dict.filter fun e => odKept e.1
    gens := s.gens
    blob := s.blob.filter fun e => odKept e.1
    il := { Il.reset with flash := s.il.flash }
    fw := { s.fw with tried := false, flashed := s.fw.flashed && s.fw.tried, hand := none, spoilt := 0, cut := .replicate 3 0, reports := .replicate 2 [], reportSeq := 0,
                      lineAgain := false, meas := .replicate 3 [],
                      slots := if s.fw.hand.isSome then vmod s.fw.slots (s.idle 1) (fun y => { y with state := 2 }) else s.fw.slots }
    boot := { Boot.reset with licNext := s.boot.licNext, fatal := if s.boot.fatal = 0x1002 then 0x1002 else 0 }
    clock := { Clock.reset with present := s.clock.present } }

/-- `POWER_ON_RESET`: 50 V arrives at a slot whose lands give position `pos`; a full run starts at S0 with the SIGNAL slot that the
ROM chooses. Persistent entries, firmware slots, the CRITICAL entries in flash and die marks come from flash (R451). An apply that the
loss of power broke off is reported (R149). -/
def execPowerOnReset (pos : Fin 4) (bad : BitVec 2) (s : State) : Res :=
  .next (
    let z := s.fromFlash
    let z := (List.range 8).foldl (fun z n =>
      match (s.weng n).owed with
      | some e => z.report (0x0210 + n) .applyLost e 0
      | none => z) z
    let z := (z.odPut D.POSITION pos.val).odPut D.PLCA_NODE (pos.val + 1)
    let z := (z.fset R.IL_RECOVERY_RECOVERIES (z.od D.RECOVERIES)).fset R.RESET_STATUS_RESET_GEN (z.od D.RESET_GEN)
    let z := (z.fset R.RESET_STATUS_LAST_KIND (s.fget R.RESET_STATUS_LAST_KIND)).fset R.RESET_STATUS_LAST_CAUSE
      (s.fget R.RESET_STATUS_LAST_CAUSE)
    let z := (z.syncArith).fwMod fun x => { x with rcImg := .replicate 2 (vget 0 x.run 1) }
    let z := z.govMod fun g => { g with ePeak := 100 * z.od D.PEAK_LIMIT_W, eAvg := 100 * z.od D.AVG_LIMIT_W, eOper := 100 * z.od D.OPER_CAP_W }
    let z := (z.govMod fun g => { g with alertExt := s.gov.alertExt }).govLoad
    let z := (z.thMod fun t => { t with rth := .replicate 12 ((z.od D.RTH_INIT : Rat) / 100000) }).rthRegs
    let (ok, z) := z.romSelect bad
    if ok then z.bootMod fun b => { b with gen := z.od D.RESET_GEN }
    else { (z.stopRun 0 0x1001) with dom := { z.dom with signalRst := true }, sb := { z.sb with noImage := true } })

end Sys2Proof.Machine
end

