-- ==== Sys2Proof/Machine/Interlock.lean ====
section
/-! DEFINITION. The interlock (R414-R433): the collector, classification by counting, the condition table, log and captures, fault
state and FAULT_N, its exits, the safe state, injection, and the hand-over of ERROR messages to the ladder (R446). -/

namespace Sys2Proof.Machine

/-- Source of the interlock (R417). -/
def ilSource : Nat := 0x0F00
/-- Change what the model keeps of the interlock. -/
def State.ilMod (s : State) (f : Il → Il) : State := { s with il := f s.il }

/-- Is a source code listed in R417? -/
def sourceListed (c : Nat) : Bool :=
  decide (c ≤ 0xBF) || (0x100 ≤ c && c ≤ 0x103) || (0x200 ≤ c && c ≤ 0x207) || (0x210 ≤ c && c ≤ 0x217) || (0x300 ≤ c && c ≤ 0x30F)
    || c == 0x340 || c == 0x341 || (0x350 ≤ c && c ≤ 0x355) || c == 0x360 || c == 0x370 || c == 0x400 || c == 0x401
    || (0x500 ≤ c && c ≤ 0x507) || c == 0x510 || c == 0x511 || (0x600 ≤ c && c ≤ 0x602) || c == 0x700 || (0x800 ≤ c && c ≤ 0x803)
    || c == 0xF00

/-- A message with a reserved kind or source is logged with KIND `IL_UNKNOWN` (R418). -/
def FaultMsg.known (m : FaultMsg) : FaultMsg :=
  if kindListed m.kind && sourceListed m.source then m
  else { m with kind := 0x0E61, detail := m.source % 65536 * 65536 + m.kind % 65536 }

/-- The class of R418, with the two classes that the state at the sending raises. -/
def FaultMsg.baseClass (m : FaultMsg) : Nat :=
  if m.high then (if m.kind = 0x0E14 then 2 else 3) else kindClass m.kind

/-- The active condition of a source and kind (R426). -/
def State.condOf (s : State) (source kind : Nat) : Option Cond :=
  s.il.conds.find? fun c => c.source == source && c.kind == kind

/-- The bucket of a source takes a message of `n` (R419, R420, R431): whether the message is promoted, and whether it fills the bucket. -/
def State.ilFill (s : State) (source n : Nat) : Bool × Bool × State :=
  let level := R.IL_BUCKET_LEVEL.at (8 * source)
  let full := R.IL_BUCKET_FULL.at (8 * source)
  let cap := s.od D.BUCKET_CAP
  if s.flag full then (true, false, s)
  else if cap ≤ s.fget level + n then (true, true, (s.fset level cap).fset full 1)
  else (false, false, s.fset level (s.fget level + n))

/-- The bucket takes a message in the access that reads it (R421): the message is judged by the level `l` and FULL `f` before the read, and
the bucket, which the read has cleared, is left at `n`. -/
def State.ilRead (s : State) (source l : Nat) (f : Bool) (n : Nat) : Bool × Bool × State :=
  let cap := s.od D.BUCKET_CAP
  (f || decide (cap ≤ l + n), (!f && decide (cap ≤ l + n)) || decide (cap ≤ n), (s.ilFill source n).2.2)

/-- The bucket of a source takes a message of `n`. Whether a message taken at the instant at which the bucket was read falls in the same access
is free (log entry 203). -/
def State.ilBucket (s : State) (source n : Nat) : Bool × Bool × State :=
  match s.il.readAt with
  | some (c, l, f, t) =>
    if c = source ∧ t = s.clock.run then
      let (v, s) := (s.ilMod fun x => { x with readAt := none }).draw
      if v.getLsbD 0 then s.ilRead source l f n else s.ilFill source n
    else s.ilFill source n
  | none => s.ilFill source n

/-- What the bucket's judgement makes of a message: its class, `PROMOTED`, and the state with what is told (R420). -/
def FaultMsg.judged (m : FaultMsg) (r : Bool × Bool × State) : Nat × Bool × State :=
  let s := if r.2.1 then r.2.2.event ilSource 0x0E82 (leBytes 2 m.source ++ leBytes 2 m.kind) else r.2.2
  if r.1 then (m.baseClass + 1, true, s.bump R.IL_EVENTS2_PROMOTED R.IL_FLAGS_PROMOTED_OVF) else (m.baseClass, false, s)

/-- Class, `PROMOTED`, and the state after the count (R420). -/
def State.classify (s : State) (m : FaultMsg) : Nat × Bool × State :=
  let safe := s.flag R.IL_STATUS_SAFE
  let c := m.baseClass
  if m.clear then
    (if safe then 3 else match s.condOf m.source m.kind with
      | some x => x.cls
      | none => c, false, s)
  else if safe then (3, false, s)
  else if c = 3 then (3, false, s)
  else m.judged (s.ilBucket m.source (1 + m.rep))

/-- The four words of a log entry (R414). -/
def FaultMsg.words (m : FaultMsg) (cls lseq : Nat) (promoted : Bool) : List Nat :=
  let bit := fun (b : Bool) (k : Nat) => if b then 2 ^ k else 0
  [m.source % 65536 * 2 ^ 48 + m.kind % 65536 * 2 ^ 32 + m.rep % 256 * 2 ^ 24 + bit m.clear 23 + bit m.lost 22 + cls % 4 * 2 ^ 20
     + bit promoted 19 + bit m.injected 18,
   m.addr, m.detail % 2 ^ 32 * 2 ^ 32 + lseq, m.time]

/-- Write four words to registers. -/
def State.csrWords (s : State) (off : Nat) (l : List Nat) : State :=
  (List.range 4).foldl (fun s i => s.csrPut (off + 8 * i) (BitVec.ofNat 64 (l.getD i 0))) s

/-- A capture of R427 loads when its VALID is 0. -/
def State.ilCapture (s : State) (off : Nat) (l : List Nat) : State :=
  if (s.csrGet off).getLsbD 0 then s else (s.csrWords off l).csrPut off (BitVec.ofNat 64 (l.getD 0 0 + 1))

/-- Has the reader passed log entry `e` (R427)? -/
def logPassed (read e : Nat) : Bool :=
  let d := (2 ^ 32 + read - e % 2 ^ 32) % 2 ^ 32
  decide (0 < d ∧ d < 2 ^ 31)

/-- A CRITICAL entry goes to signal-box flash, or waits while SIGNAL is in reset (R427). -/
def State.keepCritical (s : State) (e : List Byte) : State :=
  if s.dom.signalRst then
    let s' := s.ilMod fun x => { x with waiting := (x.waiting ++ [e]).drop ((x.waiting ++ [e]).length - 64) }
    if 64 ≤ s.il.waiting.length then s'.bump R.IL_EVENTS_LOG_LOST R.IL_FLAGS_LOST_OVF else s'
  else s.ilMod fun x => { x with flash := (x.flash ++ [e]).drop ((x.flash ++ [e]).length - 64) }

/-- The entry is logged and captured (R427). -/
def State.logEntry (s : State) (m : FaultMsg) (cls lseq : Nat) (promoted : Bool) : State :=
  let l := m.words cls lseq promoted
  let off := R.IL_LOG + 32 * (lseq % 256)
  let lost := s.csrGet off != 0 && !logPassed (s.fget R.IL_LOG_STAT_READ) (2 ^ 32 + lseq - 256)
  let s := if lost then s.bump R.IL_EVENTS_LOG_LOST R.IL_FLAGS_LOST_OVF else s
  let s := (s.csrWords off l).bump R.IL_EVENTS_MSGS R.IL_FLAGS_MSGS_OVF
  let s := if 1 ≤ cls then s.ilCapture R.IL_FIRST l else s
  let s := if cls = 3 then s.ilCapture R.IL_FIRST_CRIT l else s
  if cls = 3 then s.keepCritical (l.flatMap (leBytes 8)) else s

/-- `IL_FAULT`, at most once per source and kind in any 10 ms (R422). -/
def State.ilFault (s : State) (m : FaultMsg) (cls lseq : Nat) (promoted : Bool) : State :=
  let recent := s.il.sent.any fun (a, k, t) => a == m.source && k == m.kind && decide (s.clock.run < t + 10000000)
  if cls = 0 ∨ recent = true then s
  else
    let s := s.ilMod fun x => { x with sent := (m.source, m.kind, s.clock.run) :: x.sent.filter fun (a, k, _) => !(a == m.source && k == m.kind) }
    s.event ilSource 0x0E80 ((m.words cls lseq promoted).flatMap (leBytes 8))

/-- The condition table takes a raise or a `CLEAR` (R426). -/
def State.condMsg (s : State) (m : FaultMsg) (cls : Nat) : State :=
  if !kindCond m.kind then s
  else
    let hit := fun (c : Cond) => c.source == m.source && c.kind == m.kind
    let s := if m.clear then s.ilMod fun x => { x with conds := x.conds.filter fun c => !hit c }
      else if s.il.conds.any hit then
        s.ilMod fun x => { x with conds := x.conds.map fun c => if hit c then { c with cls := max c.cls cls } else c }
      else if s.il.conds.length < 64 then s.ilMod fun x => { x with conds := x.conds ++ [Cond.mk m.source m.kind cls] }
      else s.fset R.IL_STATUS_COND_OVF 1
    s.fset R.IL_STATUS_COND s.il.conds.length

/-! ## Fault state and FAULT_N (R423-R425) -/

/-- `IL_STATE`, with the entry that caused it; a free value where no entry did. -/
def State.ilState (s : State) (code : Nat) (lseq : Option Nat) : State :=
  let (q, s) := match lseq with
    | some q => (q, s)
    | none =>
      let (v, s) := s.draw
      (v.toNat % 2 ^ 32, s)
  s.event ilSource 0x0E81 (leBytes 1 code ++ [0] ++ leBytes 2 (s.fget R.IL_RECOVERY_RECOVERIES) ++ leBytes 4 q)

/-- The notice of an entry to or exit from fault state (R494). -/
def State.faultNotice (s : State) (code : Nat) : State :=
  s.notice 4 (leBytes 1 code ++ [0] ++ leBytes 2 (s.fget R.IL_RECOVERY_RECOVERIES))

/-- The quiet timer starts from 0. -/
def State.quietStart (s : State) : State :=
  (s.fset R.IL_STATUS_QUIET_RUN 1).ilMod fun x => { x with quietAt := s.clock.run, expired := false }

/-- A CRITICAL message: fault state, FAULT_N, `FAULT_N_HOLD`, quiet timer (R423, R424). -/
def State.faultEnter (s : State) (lseq : Nat) : State :=
  let fresh := !s.flag R.IL_STATUS_FAULT_STATE
  let s := ((s.fset R.IL_STATUS_FAULT_STATE 1).fset R.IL_STATUS_FAULT_N 1).fset R.IL_STATUS_FAULT_N_HOLD 1
  let s := (s.ilMod fun x => { x with pulse := true }).quietStart
  if fresh then (s.ilState 1 (some lseq)).faultNotice 1 else s

/-- FAULT_N follows `FAULT_N_HOLD` once its 20 µs are over (R424). -/
def State.faultPin (s : State) : State :=
  if s.flag R.IL_STATUS_FAULT_N ∧ !s.il.pulse ∧ s.flag R.IL_STATUS_FAULT_N_HOLD = false then s.fset R.IL_STATUS_FAULT_N 0 else s

/-- Fault state ends: the quiet timer stops and `FAULT_N_HOLD` clears. -/
def State.faultEnd (s : State) : State :=
  let s := ((s.fset R.IL_STATUS_FAULT_STATE 0).fset R.IL_STATUS_FAULT_N_HOLD 0).fset R.IL_STATUS_QUIET_RUN 0
  (s.ilMod fun x => { x with expired := false }).faultPin

/-- Automatic exits of the last 3,600 s. -/
def State.hourExits (s : State) : Nat := (s.il.exits.filter fun t => decide (s.rtime < t + 3600000000000)).length

/-- The automatic exit, once the timer has reached its period and the other conditions hold (R425). -/
def State.tryExit (s : State) : State :=
  if !s.flag R.IL_STATUS_FAULT_STATE ∨ !s.il.expired ∨ s.flag R.IL_STATUS_CLEAR_REQUIRED = true then s
  else if s.il.conds.any (fun c => decide (2 ≤ c.cls)) ∨ s.flag R.IL_STATUS_COND_OVF = true ∨ s.flag R.IL_STATUS_SAFE = true then s
  else if s.od D.RECOVERY_LIMIT ≤ s.hourExits then (s.fset R.IL_STATUS_CLEAR_REQUIRED 1).ilState 4 none
  else
    let n := min (s.fget R.IL_RECOVERY_RECOVERIES + 1) 0xFFFF
    let s := (s.faultEnd.fset R.IL_RECOVERY_RECOVERIES n).odPut D.RECOVERIES n
    let s := s.ilMod fun x => { x with exits := x.exits.filter (fun t => decide (s.rtime < t + 3600000000000)) ++ [s.rtime] }
    (s.ilState 2 none).faultNotice 2

/-! ## The hand-over of ERROR messages (R446) -/

/-- The action of a message of class ERROR, by its source. -/
def State.handOver (s : State) (m : FaultMsg) (promoted : Bool) (lseq : Nat) : State :=
  let c := m.source
  if c ≤ 0xBF then if m.kind = 0x0E02 ∨ promoted = true then s.actUnit c 1 1 lseq else s
  else if (0x210 ≤ c ∧ c ≤ 0x217) ∨ (0x100 ≤ c ∧ c ≤ 0x103) then if promoted then s.actUnit c 1 1 lseq else s
  else if c = 0x510 ∨ c = 0x511 then
    if m.kind = 0x0E32 ∨ m.kind = 0x0E34 ∨ promoted = true then
      let x := c - 0x510
      if s.dom.worksRst then s
      else if x = s.rcActive then s.actUnit c 1 1 lseq
      else if s.rcState x = 3 then s.standbyFail x 1
      else s
    else s
  else if c = 0x700 ∧ m.kind = 0x0E34 ∧ m.injected = true then s.sbHang
  else s

/-- The collector takes a message (R418-R427). -/
def State.collect (s : State) (m : FaultMsg) : State :=
  let m := m.known
  let lseq := s.fget R.IL_LOG_STAT_NEXT_LSEQ
  let s := s.wrap R.IL_LOG_STAT_NEXT_LSEQ
  let (cls, promoted, s) := s.classify m
  let s := (s.logEntry m cls lseq promoted).ilFault m cls lseq promoted
  let s := s.condMsg m cls
  if m.clear then s.tryExit
  else if cls = 3 then s.faultEnter lseq
  else if cls = 2 then
    let s := if s.flag R.IL_STATUS_FAULT_STATE then s.quietStart else s
    s.handOver m promoted lseq
  else s

/-- `FAULT_MESSAGE`: the collector takes the oldest message that a source holds (R415, R416). -/
def execFaultMessage (source : BitVec 16) (s : State) : Res :=
  .next (
    if s.dom.lineRst then s
    else
      match tget (fun _ => []) s.msgs source.toNat with
      | [] => s
      | m :: l => ({ s with msgs := tset (fun _ => []) s.msgs source.toNat l }).collect m)

/-- `IL_BUCKET_DRAIN`: every bucket at a whole second (R419); one above a lowered capacity is full from here (R431). -/
def execIlBucketDrain (s : State) : Res :=
  let cap := s.od D.BUCKET_CAP
  .next (
    if s.dom.lineRst then s
    else (List.range 0x1000).foldl (fun s c =>
      let level := R.IL_BUCKET_LEVEL.at (8 * c)
      let l := s.fget level
      if l = 0 ∨ s.flag (R.IL_BUCKET_FULL.at (8 * c)) = true then s
      else if l < cap then s.fset level (l - s.od D.BUCKET_LEAK)
      else (s.fset level cap).fset (R.IL_BUCKET_FULL.at (8 * c)) 1) s)

/-- `FAULT_N_PULSE_END`. -/
def execFaultNPulseEnd (s : State) : Res := .next ((s.ilMod fun x => { x with pulse := false }).faultPin)

/-- `QUIET_TIMER`: the timer has run its period (R424, R425). -/
def execQuietTimer (s : State) : Res :=
  .next (
    if s.dom.lineRst ∨ s.flag R.IL_STATUS_QUIET_RUN = false ∨ s.clock.run < s.il.quietAt + 1000000000 * s.od D.QUIET_S then s
    else (s.ilMod fun x => { x with expired := true }).tryExit)

/-- The acknowledge of R424: false where it is refused. -/
def State.faultAck (s : State) : Bool × State :=
  if s.flag R.IL_STATUS_SAFE then (false, s) else (true, (s.fset R.IL_STATUS_FAULT_N_HOLD 0).faultPin)

/-- The clear of R425. -/
def State.clearFault (s : State) : Bool × State :=
  if s.il.conds.any (fun c => c.cls == 3) then (false, s)
  else
    let was := s.flag R.IL_STATUS_FAULT_STATE
    let s := ((s.fset R.IL_STATUS_CLEAR_REQUIRED 0).fset R.IL_STATUS_COND_OVF 0).faultEnd
    (true, if was then (s.ilState 3 none).faultNotice 3 else s)

/-- Buckets, condition table and log are rebuilt as a LINE reset clears them (R429, R428). -/
def State.ilRebuild (s : State) : State :=
  let inLog := fun off => decide (R.IL_LOG ≤ off ∧ off < R.IL_BUCKET + 0x8000)
  let s := s.resetBlocks inLog
  let s := ((s.csrPut R.IL_LOG_STAT 0).fset R.IL_STATUS_COND 0).fset R.IL_STATUS_COND_OVF 0
  s.ilMod fun x => { x with conds := [] }

/-- A software clear; in the safe state `recheck` is what the check finds after the reload: 0 no discrepancy, else its cause (R429). -/
def State.softwareClear (s : State) (recheck : Nat) : Bool × State :=
  if !s.flag R.IL_STATUS_SAFE then s.clearFault
  else
    let s := s.ilRebuild.raiseAgain
    if recheck ≠ 0 then (false, (s.fset R.IL_FLAGS_SELF_CAUSE recheck).report ilSource .ilSelf recheck 0)
    else
      let s := (s.fset R.IL_STATUS_SAFE 0).fset R.IL_FLAGS_SELF_CAUSE 0
      (s.report ilSource .ilSelf 0 0 true).clearFault

/-- RECOVERIES and the record of exits are cleared (R431, R433). -/
def State.recoveriesReset (s : State) : State :=
  ((s.fset R.IL_RECOVERY_RECOVERIES 0).odPut D.RECOVERIES 0).ilMod fun x => { x with exits := [] }

/-- A write of `IL_INJECT` (R430): answer 7 while injection is not enabled. -/
def State.ilInject (s : State) (v : Word) : Nat × State :=
  if s.od D.INJECT_EN = 0 then (7, s)
  else
    let w := v.toNat
    (0, s.reportMsg ⟨nbits w 63 48, nbits w 47 32, nbits w 31 24, v.getLsbD 23, v.getLsbD 22, true, 0, 0, s.rtime,
      s.highClass (nbits w 63 48) (nbits w 47 32) 0⟩)

/-- `IL_INJECT`. -/
def execIlInject (src : Party) (v : BitVec 64) (s : State) : Res := .next (s.byParty src fun s => if s.dom.lineRst then s else (s.ilInject v).2)

/-- Is IL_SELF in the condition table, or its raise on the way there? -/
def State.selfRaised (s : State) : Bool :=
  (s.condOf ilSource Kind.ilSelf.code).isSome
    || (tget (fun _ => []) s.msgs ilSource).any fun m => m.kind == Kind.ilSelf.code && !m.clear

/-- `IL_SELF_CHECK`: what the comparison of the copies and the parity check find: 0 nothing, else the cause of `SELF_CAUSE` (R429). -/
def execIlSelfCheck (cause : Fin 4) (s : State) : Res :=
  .next (
    if s.dom.lineRst ∨ cause.val = 0 then s
    else
      let fresh := !s.flag R.IL_STATUS_SAFE
      let s := (s.fset R.IL_FLAGS_SELF_CAUSE cause.val).fset R.IL_STATUS_SAFE 1
      if fresh then (s.ilState 5 none).report ilSource .ilSelf cause.val 0
      else if s.selfRaised then s
      else s.report ilSource .ilSelf cause.val 0)

end Sys2Proof.Machine
end

