-- ==== Sys2Proof/Machine/Bringup.lean ====
section
/-! DEFINITION. Bring-up (R456-R469), licences (R470-R473) and the background memory test (R475). -/

namespace Sys2Proof.Machine

/-! ## S0: fuses (R456) -/

/-- What the fuses set. -/
def State.loadFuses (s : State) (f : Fuses) : State :=
  let s := (s.odPut D.SERIAL f.serial.toNat).odPut D.MAC f.mac.toNat
  let s := ((s.odPut D.STEPPING 0x00B0).odPut D.ARITH_SILICON 1).odPut D.MIN_KEY_REV f.minKeyRev.toNat
  let s := (List.range 3).foldl (fun s k => s.csrPut (R.BOOT_FUSEBAD + 8 * k) (f.badTiles >>> (64 * k)).toNat) s
  s.bootMod fun b => { b with fuseDie := f.badDies.map (·.toNat), vendor := f.vendor.toNat }

/-- Stage S0. -/
def State.stage0 (s : State) (us : Nat) (parityOk : Bool) (f : Fuses) (bad : BitVec 2) : State :=
  if s.dom.signalRst then s
  else
    let s := s.sbMod fun b => { b with up := true }
    if !parityOk ∨ s.boot.fatal = 0x1002 then s.stageStop 0 2 0x1002 us [] []
    else
      let s := (s.loadFuses f).addressUp.imageMeasured 0
      let (ok, s) := s.bootSlot 2 bad
      if ok then s.stagePass 0 us [] s.s0Detail 1 else s.stageStop 0 2 0x1001 us [] s.s0Detail

/-! ## Licences (R470-R473) -/

/-- SHA-512 of the identity public key (R470, R506). -/
def idHash : List Byte := sha512 idKey

/-- Do the fields form a row of R471, with SEQ nonzero and reserved bytes 0? -/
def licRow (l : List Byte) : Bool :=
  let f := fun o => numAt l o 2
  numAt l 4 4 != 0 && zerosAt l 0x5A 38
    && ((f 0x50 == 0x0176 && f 0x52 == 176 && f 0x54 == 0xFFFF && f 0x56 == 0x001F)
      || (f 0x50 == 0x0128 && f 0x52 == 128 && f 0x54 == 0x00FF && f 0x56 == 0x001D))

/-- The refusal code of a licence, 0 where it is valid (R471, R473); `inForce` the licence in force for the SEQ rule of R472. -/
def State.licCode (s : State) (l : List Byte) (inForce : Option (List Byte)) : Nat :=
  let cert := s.blobOf D.LICENCE_KEY_CERT
  if l.length ≠ 192 ∨ numAt l 0 4 ≠ 1 then 0x1101
  else if !(certOk cert 2 (s.od D.MIN_KEY_REV) (s.od D.SERIAL) && edVerify (certKey cert) (bytesAt l 0 128) (bytesAt l 128 64)) then 0x1102
  else if numAt l 8 8 ≠ s.od D.SERIAL ∨ bytesAt l 0x10 64 ≠ idHash then 0x1103
  else if !licRow l then 0x1104
  else if (match inForce with
    | some o => decide (numAt l 4 4 < numAt o 4 4 ∨ (numAt l 4 4 = numAt o 4 4 ∧ l ≠ o))
    | none => false) then 0x1105
  else if numAt l 0x58 2 ≠ s.od D.STEPPING then 0x1106
  else 0

/-- The licence in force, if there is one. -/
def State.licInForce (s : State) : Option (List Byte) :=
  if s.od D.LIC_STATE = 0 ∨ s.od D.LIC_SEQ = 0 then none else some (s.blobOf D.LICENCE)

/-- Stage S1: the licence installed last, or the one in force, is verified, and the grant is fixed. -/
def State.stage1 (s : State) (us : Nat) : State :=
  let l := s.boot.licNext.getD (s.blobOf D.LICENCE)
  let s := if s.boot.licNext.isSome then (s.blobPut D.LICENCE l).bootMod fun b => { b with licNext := none } else s
  let c := s.licCode l none
  if c ≠ 0 then
    let s := ((s.odPut D.LIC_STATE 0).odPut D.LIC_SEQ 0).odPut D.LIC_PRODUCT 0
    s.stageStop 1 2 0x1003 us (leBytes 4 c) []
  else
    let s := ((s.odPut D.LIC_STATE 1).odPut D.LIC_SEQ (numAt l 4 4)).odPut D.LIC_PRODUCT (numAt l 0x50 2)
    s.stagePass 1 us [] (bytesAt l 4 4 ++ bytesAt l 0x50 8) 2

/-- The owner installs a licence (R472): true where it is accepted. -/
def State.licInstall (s : State) (l : List Byte) : Bool × State :=
  let c := s.licCode l s.licInForce
  let s := s.odPut D.LIC_REFUSE c
  if c ≠ 0 then (false, s)
  else
    let s := s.bootMod fun b => { b with licNext := some l }
    if s.boot.stage = 1 ∧ s.boot.outcome = 2 then (true, s.stageResume 1 0x1003) else (true, s.odPut D.LIC_STATE 2)

/-- A SIGNAL reset verifies the licence in force again (R472). -/
def State.licAgain (s : State) : State :=
  match s.licInForce with
  | none => s
  | some l =>
    if s.licCode l none ≠ 0 then s.odPut D.LIC_STATE 3 else if s.od D.LIC_STATE = 3 then s.odPut D.LIC_STATE 1 else s

/-! ## S2: LINE (R294, R456) -/

/-- The dies of a pair, numbered as in R304: 0-1, 0-2, 0-3, 1-2, 1-3, 2-3. -/
def pairDies (i : Nat) : List Nat :=
  match i with
  | 0 => [0, 1]
  | 1 => [0, 2]
  | 2 => [0, 3]
  | 3 => [1, 2]
  | 4 => [1, 3]
  | _ => [2, 3]

/-- Modules in service of a pair. -/
def State.modules (s : State) (i : Nat) : Nat := s.fget (R.UCIE_STATUS_MODULES.at (8 * i))

/-- A module leaves service: reported and sent (R295). -/
def State.moduleLost (s : State) (i m : Nat) : State :=
  let f := R.UCIE_STATUS_MODULES.at (8 * i)
  let v := clearBit (s.fget f) m
  ((s.fset f v).report (0x0350 + i) .d2dDegraded v 0).event (0x0350 + i) 0x0A85 (leBytes 1 i ++ leBytes 1 v)

/-- The links train (R294): a module that does not train is out of service. -/
def State.d2dTrain (s : State) (up : Vector (BitVec 4) 6) : State :=
  (List.range 6).foldl (fun s i =>
    let s := s.fset (R.UCIE_STATUS_MODULES.at (8 * i)) 15
    (List.range 4).foldl (fun s m => if (vget 0 up i).getLsbD m then s else s.moduleLost i m) s) s

/-- Stage S2. -/
def State.stage2 (s : State) (us : Nat) (up : Vector (BitVec 4) 6) : State :=
  if s.dom.lineRst then s
  else
    let s := if s.boot.trained then s else (s.d2dTrain up).bootMod fun b => { b with trained := true }
    let mods := (List.range 6).map s.modules
    let lock := s.clock.present
    let bit := fun (b : Bool) (k : Nat) => if b then k else 0
    let packed := (List.range 6).foldl (fun v i => v + s.modules i * 16 ^ i) 0
    let detail := leBytes 3 packed ++ leBytes 1 (bit lock 1 + bit (s.laneState 0 == 4) 2 + bit (s.laneState 1 == 4) 4)
    let count := leBytes 4 ((mods.map popcount16).foldl (· + ·) 0)
    if !lock then s.stageStop 2 2 0x1004 us count detail
    else if s.boot.fatal = 0x1005 ∨ (List.range 4).any (fun d =>
        ((List.range 6).filter fun i => (pairDies i).contains d).all fun i => s.modules i == 0) = true then
      s.stageStop 2 2 0x1005 us count detail
    else s.stagePass 2 us count detail 3

/-- `CLOCK_RETRY`: S2 goes on once REFCLK locks. -/
def execClockRetry (s : State) : Res := .next (if s.clock.present then s.stageResume 2 0x1004 else s)

/-! ## S3: memory (R166, R180, R461) -/

/-- Marks of device `n` load from the fuses (in a full run) and from 0x4010, at most two of them (R165, R166, R461). -/
def State.loadMarks (s : State) (n : Nat) (full : Bool) : State :=
  let key := D.DIE_MARKS + n
  let fuse := if full then vget 0 s.boot.fuseDie n else 0
  let s := s.odPut key (s.od key ||| fuse)
  let order := (List.range 16).filter (nbit fuse · == 1) ++ (List.range 16).filter fun i => nbit (s.od key) i == 1 && nbit fuse i == 0
  let m := (order.take 2).foldl (fun v i => v + 2 ^ i) 0
  let auto := s.fget (R.DIE_MARK_AUTO.at (mdOff n)) &&& m
  (s.setMdev n { s.mdev n with recMark := m, recAuto := auto }).reloadMark n

/-- The die test leaves the last byte it wrote over the ranges it tests (R461). -/
def State.testPattern (s : State) : State :=
  { s with mem := s.mem.filter fun c => !inDieTest c.1, flips := s.flips.filter fun c => !inDieTest c.1 }

/-- The die test of device `n` marks the unmarked dies that fail (R461). -/
def State.dieTest (s : State) (n fail : Nat) : State :=
  let marked := s.fget (R.DIE_MARK_MARKED.at (mdOff n))
  ((List.range 16).filter fun i => nbit fail i == 1 && nbit marked i == 0).foldl (fun s i =>
    (s.markDie n i false).event sbSource 0x1081 ([1, 0] ++ leBytes 2 (n * 16 + i))) s

/-- Bytes that were read, as a whole: none where one of them could not be. -/
def wholeRead (r : List (Option Byte) × State) : Option (List Byte) × State := (allSome r.1, r.2)

/-- Firmware reads a 2 KiB unit of device `n` (R163, R171, R180): its bytes, none where one is UNCORRECTABLE. -/
def State.decodeUnit (s : State) (n a : Nat) : Option (List Byte) × State := wholeRead (s.readCells (rqFw n) a 2048)

/-- The corrected bytes of unit `u` are copied to the next spare, which serves the unit from then on; the spare that served it before
leaves the pool (R180). -/
def State.toSpare (s : State) (n u : Nat) (l : List Byte) : State :=
  let d := s.mdev n
  let s := l.zipIdx.foldl (fun s (b, i) => s.store (rsvAddr n (spareOffset + 2048 * d.repair.length + i)) b) s
  let s := s.setMdev n { s.mdev n with repair := d.repair.map (fun x => if x = u then mdSize / 2048 else x) ++ [u],
                                       log := (s.mdev n).log.filter (·.1 != u) }
  s.odBump (D.REPAIRED + n)

/-- A unit whose bytes were read moves to a spare; one that could not be read stays. -/
def State.spareWith (s : State) (n u : Nat) : Option (List Byte) → State
  | none => s
  | some l => s.toSpare n u l

/-- Units of device `n` whose logged corrections point to two or more unmarked dies move to spares (R180). -/
def State.repairUnits (s : State) (n : Nat) : State :=
  let d := s.mdev n
  let marked := s.fget (R.DIE_MARK_MARKED.at (mdOff n))
  let live := d.log.filter fun (_, i) => nbit marked i == 0
  let units := (live.map (·.1)).eraseDups
  let due := units.filter fun u => 2 ≤ ((live.filter (·.1 == u)).map (·.2)).eraseDups.length
  due.foldl (fun s u =>
    if spareUnits ≤ (s.mdev n).repair.length + d.spareBad then s
    else
      let r := s.decodeUnit n (n * mdSize + u * 2048)
      r.2.spareWith n u r.1) s

/-- Dies of device `n` that the test, run on every unmarked die, finds failing: those of `fail` (R461). -/
def State.diesFound (s : State) (n fail : Nat) : Nat := fail &&& (0xFFFF - (s.od (D.DIE_MARKS + n) ||| vget 0 s.boot.fuseDie n) % 65536)

/-- Dies of device `n` that the fuses and the test together call to mark (R461). -/
def State.marksCalled (s : State) (n fail : Nat) : Nat := popcount16 (vget 0 s.boot.fuseDie n ||| s.diesFound n fail)

/-- Stage S3. The checkers of the base dies pass where the hardware behind the code is sound, `checkersOk`, and the code meets the vectors of
R181. -/
def State.stage3 (s : State) (us : Nat) (checkersOk : Bool) (fail : Vector (BitVec 16) 8) : State :=
  if s.dom.worksRst then s
  else
    let full := s.boot.kind == 0
    let fails := fun n => if full then (vget 0 fail n).toNat else 0
    let over3 := (List.range 8).any fun n => decide (3 ≤ s.marksCalled n (fails n))
    let found := full && (List.range 8).any fun n => s.diesFound n (fails n) != 0
    let s := (List.range 8).foldl (fun s n => (((s.logRead n).mapRead n).loadMarks n full).dieTest n (fails n)) s
    let s := if full then s.testPattern else s
    let s := if full then ((List.range 8).foldl (fun s n => s.repairUnits n) s).setFlag R.BOOT_STATUS_DRIFT
      (s.flag R.BOOT_STATUS_DRIFT || found) else s
    let marks := (List.range 8).map fun n => s.fget (R.DIE_MARK_MARKED.at (mdOff n))
    let ups := (List.range 8).map fun n => s.fget (R.MD_STATUS_CH_UP.at (mdOff n))
    let detail := marks.flatMap (leBytes 2) ++ ups.flatMap (leBytes 1)
    let count := leBytes 4 ((marks.map popcount16).foldl (· + ·) 0)
    if s.boot.fatal = 0x1006 ∨ ups.any (· == 0) ∨ !checkersOk ∨ !checkerVectorsOk ∨ (full && over3) = true then s.stageStop 3 2 0x1006 us count detail
    else s.stagePass 3 us count detail 4

/-! ## S4: compute (R462-R466) -/

/-- Three registers hold a bitmap of physical tiles. -/
def State.putTileMap (s : State) (off : Nat) (l : List Nat) : State :=
  (List.range 3).foldl (fun s k =>
    s.csrPut (off + 8 * k) (BitVec.ofNat 64 (((l.eraseDups.filter fun p => p / 64 == k).map fun p => 2 ^ (p % 64)).foldl (· + ·) 0))) s

/-- The bitmap that three registers hold. -/
def State.tileMap (s : State) (off : Nat) : List Nat :=
  (List.range 192).filter fun p => (s.csrGet (off + 8 * (p / 64))).getLsbD (p % 64)

/-- Tiles that the licence grants (R464, R470). -/
def State.licTiles (s : State) : Nat := if s.od D.LIC_PRODUCT = 0x0176 then 176 else if s.od D.LIC_PRODUCT = 0x0128 then 128 else 0

/-- The full tile test's results (R462). -/
def State.tilesTested (s : State) (fail : BitVec 192) (unitsOk : Bool) : State :=
  let bad := s.tileMap R.BOOT_FUSEBAD
  let drift := (List.range 192).filter fun p => !bad.contains p && fail.getLsbD p
  let good := (List.range 192).filter fun p => !bad.contains p && !fail.getLsbD p
  let s := s.putTileMap R.BOOT_DRIFT drift
  let s := s.setFlag R.BOOT_STATUS_DRIFT (s.flag R.BOOT_STATUS_DRIFT || !drift.isEmpty)
  let s := drift.foldl (fun s p => s.event sbSource 0x1081 ([0, 0] ++ leBytes 2 p)) s
  s.bootMod fun b => { b with tested := true, mapped := true, unitsOk := unitsOk, good := good, drift := drift.length }

/-- Good tiles that each die takes as logical tiles, in physical order (R464). -/
def State.geomOf (s : State) (d : Nat) : List Nat := (s.boot.good.filter fun p => p / 48 == d).take (s.licTiles / 4)

/-- The geometry is fixed: `LMAP`, `BOOT_GEOM`, `BOOT_TILES`, `REDUCED`, and the tiles take their places (R464, R465). -/
def State.geomFix (s : State) : State :=
  let dies := (List.range 4).map s.geomOf
  let l := dies.flatten
  let s := (List.range 176).foldl (fun s i =>
    match l[i]? with
    | some p => (s.fset (R.LMAP_VALID.at (8 * i)) 1).fset (R.LMAP_PHYS.at (8 * i)) p
    | none => s.csrPut (R.LMAP + 8 * i) 0) s
  let s := s.csrPut R.BOOT_GEOM (BitVec.ofNat 64 (s.licTiles * 2 ^ 48 + l.length * 2 ^ 32
    + (dies.zipIdx.map fun (x, d) => x.length * 256 ^ d).foldl (· + ·) 0))
  let s := (s.putTileMap R.BOOT_TILES l).setFlag R.BOOT_STATUS_REDUCED (dies.any fun x => x.length != s.licTiles / 4)
  (List.range 192).foldl (fun s p => s.tileExit p) s

/-- A tile in service that fails the quick test is held FENCED; one that an earlier quick run held, which `BOOT_DRIFT` shows, stays so until
a full run (R463, R476). -/
def State.quickFail (s : State) (fail : BitVec 192) : State :=
  let was := s.tileMap R.BOOT_DRIFT
  let l := (List.range 192).filter fun p => (fail.getLsbD p || was.contains p) && (s.tileMap R.BOOT_TILES).contains p
  let s := l.foldl (fun s p =>
    let s := s.setTileState p 5
    if was.contains p then s else s.event sbSource 0x1081 ([0, 0] ++ leBytes 2 p)) s
  (s.putTileMap R.BOOT_DRIFT (s.tileMap R.BOOT_DRIFT ++ l)).mgrMod fun m => { m with held := m.held ++ l }

/-- Stage S4. A tile whose scratchpad checkers miss a vector of R181 fails its test (R463). -/
def State.stage4 (s : State) (us : Nat) (fail : BitVec 192) (unitsOk : Bool) : State :=
  if s.dom.worksRst ∨ s.rcState 0 = 1 ∨ s.rcState 1 = 1 then s
  else
    let full := s.boot.kind == 0
    let fail := if checkerVectorsOk then fail else BitVec.allOnes 192
    let s := if s.boot.tested then s
      else if full then s.tilesTested fail unitsOk
      else (s.quickFail fail).bootMod fun b => { b with tested := true, unitsOk := unitsOk }
    let reduced := full && (List.range 4).any fun d => (s.geomOf d).length != s.licTiles / 4
    let report := fun (s : State) =>
      (leBytes 2 (s.fget R.BOOT_GEOM_IN_SERVICE) ++ leBytes 2 (s.tileMap R.BOOT_DRIFT).length,
       (List.range 3).flatMap fun k => leBytes 8 (s.csrGet (R.BOOT_TILES + 8 * k)).toNat)
    if reduced ∧ s.od D.ACCEPT_REDUCED ≠ 1 then
      let n := ((List.range 4).map fun d => (s.geomOf d).length).foldl (· + ·) 0
      s.stageStop 4 2 0x1007 us (leBytes 2 n ++ leBytes 2 s.boot.drift) (report s).2
    else
      let s := if full then s.geomFix else s
      let (count, detail) := report s
      if s.rcState 0 = 6 ∧ s.rcState 1 = 6 then s.stageStop 4 2 0x1008 us count detail
      else if !s.boot.unitsOk ∨ s.boot.fatal = 0x1009 then s.stageStop 4 2 0x1009 us count detail
      else s.stagePass 4 us count detail 5

/-- A write of 0x1200:01 (R457, R465). -/
def State.acceptReduced (s : State) (v : Nat) : State :=
  let s := s.odPut D.ACCEPT_REDUCED v
  if v = 1 then s.stageResume 4 0x1007 else s

/-! ## S5 and S6 (R456, R468, R469) -/

/-- Stage S5; the exit of the reset behind a quick run is complete with it: RESET_GEN advances (R450, R452). -/
def State.stage5 (s : State) (us : Nat) : State :=
  if s.dom.worksRst ∨ s.rcState s.rcActive ≠ 4 then s
  else
    let detail := leBytes 1 s.rcActive ++ leBytes 1 (s.rcState 0) ++ leBytes 1 (s.rcState 1)
    let s := s.stagePass 5 us [] detail (if s.boot.kind = 2 ∧ s.boot.s6 = true then 7 else 6)
    if s.boot.notice = 0 then s
    else
      let s := s.wrap R.RESET_STATUS_RESET_GEN
      let s := s.odPut D.RESET_GEN (s.fget R.RESET_STATUS_RESET_GEN)
      (s.resetNotice s.boot.notice 2).bootMod fun b => { b with notice := 0 }

/-- FP_MASK of the licence in force. -/
def State.fpMask (s : State) : Nat := if s.od D.LIC_PRODUCT = 0x0176 then 0xFFFF else 0x00FF

/-- `topo_digest` of R468. -/
def State.topoCompute (s : State) : Nat :=
  let z := mix64 (BitVec.ofNat 64 (s.ownId + s.fpMask * 2 ^ 16 + s.fget R.BOOT_GEOM_IN_SERVICE * 2 ^ 32))
  ((List.range 18).foldl (fun z i =>
    let st := s.portState i
    let on := st = 5 ∨ st = 6
    let dest := if on then s.fget (R.PORT_PARTNER_DEST.at (portOff i)) else 0
    let port := if on then s.fget (R.PORT_PARTNER_PORT.at (portOff i)) else 0
    mix64 (z ^^^ BitVec.ofNat 64 (i * 2 ^ 56 + st * 2 ^ 48 + s.portWidth i * 2 ^ 40 + dest * 2 ^ 16 + port))) z).toNat

/-- 0x1200:02: the digest once it has been computed. -/
def State.topoDigest (s : State) : Nat := if s.boot.topoOn then s.topoCompute else 0

/-- Has every port under the licence left TRAIN and LOCK? -/
def State.portsSettled (s : State) : Bool :=
  (List.range 18).all fun p => !s.portLicensed p || (s.portState p != 2 && s.portState p != 3)

/-- Why S6 holds, 0 where it passes (R457, R468, R469). -/
def State.s6Cause (s : State) : Nat :=
  let want := s.od D.GEOMETRY_EXPECT
  if !s.traySet then 0x100A
  else if want ≠ 0 ∧ want ≠ s.fget R.BOOT_GEOM_IN_SERVICE then 0x100C
  else if 2 < s.portsMissing ∧ s.boot.accepted ≠ some s.topoDigest then 0x100B
  else 0

/-- Stage S6: evaluated once the ports have settled, and again while it is held. -/
def State.stage6 (s : State) (us : Nat) : State :=
  if s.traySet ∧ !s.portsSettled then s
  else
    let s := s.bootMod fun b => { b with topoOn := b.topoOn || s.traySet }
    let c := s.s6Cause
    let count := leBytes 4 s.portsMissing
    let detail := leBytes 4 s.fabricState ++ leBytes 2 s.ownId ++ [0, 0] ++ leBytes 8 s.topoDigest
    if c = 0 then s.stagePass 6 us count detail 7
    else if s.boot.outcome = 3 ∧ s.boot.cause = c then s
    else s.stageStop 6 3 c us count detail

/-- A write of 0x1200:03: refused unless it equals the digest (R468). -/
def State.topoAccept (s : State) (v : Nat) : Bool × State :=
  if s.boot.topoOn ∧ v = s.topoDigest then (true, (s.bootMod fun b => { b with accepted := some v }).stageResume 6 0x100B)
  else (false, s)

/-- A write of 0x1200:04 (R457, R469). -/
def State.geometryExpect (s : State) (v : Nat) : State :=
  let s := s.odPut D.GEOMETRY_EXPECT v
  if v = 0 ∨ v = s.fget R.BOOT_GEOM_IN_SERVICE then s.stageResume 6 0x100C else s

/-- A write of the tray number (R42, R286, R457): ports that wait in IDENT send theirs. -/
def State.trayNo (s : State) (v : Nat) : State :=
  let was := s.traySet
  let s := s.odPut D.TRAY_NO v
  if !was ∧ s.traySet = true then
    ((List.range 18).foldl (fun s p => if s.portState p = 4 then s.sendIdent p 1 0 else s) s).stageResume 6 0x100A
  else s

/-! ## S7 and the background test (R475) -/

/-- The background test starts on every device, in write-back mode (R184). -/
def State.bgStart (s : State) : State :=
  let s := (s.fset R.BOOT_STATUS_BG_RUN 1).csrPut R.BOOT_BG 0x100
  let s := s.bootMod fun b => { b with bgAt := s.clock.run, bgStop := false }
  (List.range 8).foldl (fun s n =>
    ((s.fset (R.SCRUB_CTL_RATE.at (mdOff n)) (s.od D.SCRUB_RATE)).scrubStart n false 0 mdSize 0 none true).2) s

/-- Stage S7: full service. -/
def State.stage7 (s : State) (us ms : Nat) : State :=
  let s := (s.stagePass 7 us (leBytes 4 ms) [] 7).odPut D.BRINGUP_MS ms
  if s.od D.BGTEST_EN = 1 then s.bgStart else s

/-- Is a device's part of the background test still to end? -/
def State.bgBusy (s : State) (n : Nat) : Bool := (s.mdev n).scrub.running && (s.mdev n).scrub.bgTest

/-- `BGTEST_DONE`: every device has ended its scrub; `spares` the spare units that fail the pattern test. -/
def execBgtestDone (spares : Vector (BitVec 8) 8) (s : State) : Res :=
  .next (
    if !s.flag R.BOOT_STATUS_BG_RUN ∨ (List.range 8).any s.bgBusy then s
    else if s.boot.bgStop then s.bgEnd 3 []
    else
      let s := (List.range 8).foldl (fun s n =>
        s.setMdev n { s.mdev n with spareBad := (s.mdev n).spareBad + (vget 0 spares n).toNat }) s
      s.bgEnd 2 ((List.range 8).map fun n => (vget 0 spares n).toNat))

/-- A write of 0x1200:05: 0 stops the test at the next group. -/
def State.bgEnable (s : State) (v : Nat) : State :=
  let s := s.odPut D.BGTEST_EN v
  if v = 0 ∧ s.flag R.BOOT_STATUS_BG_RUN = true then
    ((List.range 8).foldl (fun s n => if s.bgBusy n then s.scrubStop n else s) s).bootMod fun b => { b with bgStop := true }
  else s

/-! ## Die marks (R165, R166, R461) -/

/-- A write of 0x4010: false where it would set a third bit or clear a fuse-marked one. -/
def State.dieMarks (s : State) (n v : Nat) : Bool × State :=
  let fuse := vget 0 s.boot.fuseDie n
  if 2 < popcount16 v ∨ v ||| fuse ≠ v then (false, s)
  else
    let s := (s.odPut (D.DIE_MARKS + n) v).fset (R.DIE_MARK_MARKED.at (mdOff n)) v
    let auto := s.fget (R.DIE_MARK_AUTO.at (mdOff n)) &&& v
    let s := s.fset (R.DIE_MARK_AUTO.at (mdOff n)) auto
    (true, s.setMdev n { s.mdev n with recMark := v, recAuto := auto })

/-! ## STAGE_DONE -/

/-- `STAGE_DONE`: the stage in force ends its work after `us` microseconds. -/
def execStageDone (us : BitVec 32) (x : StageIn) (s : State) : Res :=
  let t := us.toNat
  let run := fun (k : Nat) => s.dom.powered && !s.dom.cutoff && !s.dom.signalRst && s.boot.stage == k
    && (s.boot.outcome == 0 || (k == 6 && s.boot.outcome == 3))
  .next (
    match x with
    | .s0 ok f bad => if run 0 then s.stage0 t ok f bad else s
    | .s1 => if run 1 then s.stage1 t else s
    | .s2 up => if run 2 then s.stage2 t up else s
    | .s3 ok fail => if run 3 then s.stage3 t ok fail else s
    | .s4 fail ok => if run 4 then s.stage4 t fail ok else s
    | .s5 => if run 5 then s.stage5 t else s
    | .s6 => if run 6 then s.stage6 t else s
    | .s7 ms => if run 7 then s.stage7 t ms.toNat else s)

end Sys2Proof.Machine
end

