-- ==== Sys2Proof/Machine/Firmware.lean ====
section
/-! DEFINITION. Identity, attestation and firmware update (R504-R528): uploads, activation, handover, trials, owner key, grants and
reports. The operations that a dictionary write starts answer a status code of R490 or 0. -/

namespace Sys2Proof.Machine

/-! ## Time and refusals -/

/-- RTIME as the signal box judges it: none while it is not valid (R298, R511). -/
def State.sbTime (s : State) : Option Nat :=
  if s.dom.lineRst then (if s.clock.copyValid then some s.clock.copy else none)
  else if s.flag R.RTIME_STATUS_RTIME_VALID then some s.rtime else none

/-- A firmware write is refused with a code of R527. -/
def State.fwRefuse (s : State) (code : Nat) : Nat × State := (0x120B, s.odPut D.FW_RESULT code)
/-- A firmware write is accepted. -/
def State.fwAccept (s : State) : Nat × State := (0, s.odPut D.FW_RESULT 0)

/-! ## Headers and chunks (R514-R516) -/

/-- The slot that is STAGING. -/
def State.staging (s : State) : Option Nat := (List.range 6).find? fun k => (s.fwSlot k).state == 1

/-- `FW_UPLOAD` of a slot. -/
def State.fwUpload (s : State) (k phase : Nat) : State :=
  s.event sbSource 0x1380 (leBytes 1 (fwCode (k / 2)) ++ leBytes 1 phase ++ leBytes 1 (k % 2) ++ [0] ++ leBytes 4 (s.fwSlot k).version)

/-- Put a slot. -/
def State.putSlot (s : State) (k : Nat) (x : FwSlot) : State := s.fwMod fun f => { f with slots := vput f.slots k x }

/-- A header whose last segment is applied (R515, R518). -/
def State.fwHeader (s : State) (h : List Byte) : Nat × State :=
  let (c, t) := s.fwHeaderCode h
  let b := s.fwBlock none
  if c ≠ 0 then s.fwRefuse c
  else if b ≠ 0 then s.fwRefuse b
  else
    match s.staging with
    | some k => if (s.fwSlot k).header = h then s.fwAccept else s.fwRefuse 0x130F
    | none =>
      let k := s.idle t
      if (s.fwSlot k).state = 3 ∨ (s.fwSlot k).state = 4 then s.fwRefuse 0x130E
      else
        let x : FwSlot := ⟨1, h, numAt h 8 4, numAt h 0x0C 4, numAt h 0x18 4, numAt h 0x1C 2, numAt h 0x20 2, numAt h 0x22 2, 0,
          numAt h 7 1 == 1, []⟩
        ((s.putSlot k x).fwUpload k 1).fwAccept

/-- A chunk whose last segment is applied (R515, R516). -/
def State.fwChunk (s : State) (c : Nat) (l : List Byte) : Nat × State :=
  match s.staging with
  | none => s.fwRefuse 0x1311
  | some k =>
    let x := s.fwSlot k
    if x.count ≤ c ∨ l.length ≠ x.chunkLen c then s.fwRefuse 0x1311
    else if (crc32c l).toNat ≠ numAt x.header (0xF0 + 4 * c) 4 then s.fwRefuse 0x1310
    else if nbit x.chunks c = 1 then s.fwAccept
    else
      let x := { x with chunks := setBit x.chunks c, data := tset (fun _ => []) x.data c l }
      let s := (s.fwAccept.2).putSlot k x
      if x.chunks + 1 ≠ 2 ^ x.count then (0, s)
      else if sha512 x.body = bytesAt x.header 0x30 64 then (0, (s.slotSt k 2).fwUpload k 2)
      else (0, ((s.slotSt k 6).odPut D.FW_RESULT 0x1312).fwUpload k 3)

/-- A write of 0x6000:02: a STAGING or VERIFIED slot becomes EMPTY, an ARMED one VERIFIED; a handover with the slot ends (R516, R519). -/
def State.fwAbort (s : State) (code : Nat) : Nat × State :=
  match fwTarget code with
  | none => (0x1205, s)
  | some t =>
    let s := if t = 1 then s.dropHandover else s
    let k := s.idle t
    let st := (s.fwSlot k).state
    (0, if st = 1 ∨ st = 2 then s.putSlot k .empty else if st = 3 then s.slotSt k 2 else s)

/-! ## Activation and handover (R518-R520) -/

/-- Would the RUNTIME slot `k` change the arithmetic version under a loaded program (R520)? -/
def State.arithBusy (s : State) (k : Nat) : Bool := s.prog.loaded && (s.fwSlot k).arith != s.od D.ARITH_VERSION

/-- An activation passes its common checks, or is refused with a code: behind another one, a handover under way, with FW_TRIAL (R524). -/
def State.activateCode (s : State) (t : Nat) : Nat :=
  let b := s.fwBlock none
  let k := s.idle t
  if b = 0x130D ∧ s.fw.hand.isSome = true then 0x130E
  else if b ≠ 0 then b
  else if (s.fwSlot k).state = 3 then 0x130E
  else if (s.fwSlot k).state ≠ 2 then 0x1313
  else if t = 1 ∧ s.arithBusy k = true then 0x1307
  else 0

/-- SIGNAL: the slot becomes TRIAL, and SIGNAL is reset, which is the cut-over (R518, R519). -/
def State.activateSignal (s : State) : Nat × State :=
  let c := s.activateCode 0
  if c ≠ 0 then s.fwRefuse c
  else
    let k := s.idle 0
    (((s.slotSt k 4).fwMod fun x => { x with tried := false }).askSignal 3).fwAccept

/-- LINE: the slot becomes ARMED (R519). -/
def State.activateLine (s : State) : Nat × State :=
  let c := s.activateCode 2
  if c ≠ 0 then s.fwRefuse c else (s.slotSt (s.idle 2) 3).fwAccept

/-- RUNTIME: the standby is reset into SELFTEST with the new image (R520, step 1). -/
def State.activateRuntime (s : State) : Nat × State :=
  let c := s.activateCode 1
  if c ≠ 0 then s.fwRefuse c
  else
    let x := 1 - s.rcActive
    let s := s.fwMod fun f => { f with hand := some ⟨x, 0⟩, rcImg := vput f.rcImg x (1 - vget 0 f.run 1) }
    ((s.setStandbyOk false).selfTest x).fwAccept

/-- A write of 0x6000:03. -/
def State.fwActivate (s : State) (code : Nat) : Nat × State :=
  if code = 1 then s.activateSignal else if code = 2 then s.activateRuntime else if code = 3 then s.activateLine else (0x1205, s)

/-- `HANDOVER_SWITCHOVER`: step 4 of R520. The record goes on in the format of the image that ran before. -/
def execHandoverSwitchover (s : State) : Res :=
  .next (
    match s.fw.hand with
    | none => s
    | some h =>
      if s.rcState h.rc ≠ 3 ∨ s.standbyOk = false ∨ s.dom.worksRst ∨ s.dom.signalRst then s
      else
        let k := s.idle 1
        let c := s.fwBlock (some 1)
        if c ≠ 0 then (s.odPut D.FW_RESULT c).dropHand c
        else if s.arithBusy k then s.dropHandover
        else
          let s := s.switchTo none
          let s := (s.slotSt k 4).fwMod fun x => { x with hand := none, run := vput x.run 1 (k % 2) }
          (((s.syncArith).imageMeasured 1).trialStart 1).fwActivated 1 k)

/-! ## Trials (R521-R523) -/

/-- Nanoseconds since the cut-over of a target's trial, by the timer of the always-on partition (R30). -/
def State.trialAge (s : State) (t : Nat) : Nat := s.clock.run - vget 0 s.fw.cut t

/-- May the trial of a target be confirmed, its window open (R521, R524)? -/
def State.mayConfirm (s : State) (t : Nat) : Bool :=
  s.trial t && nbit s.fw.spoilt t == 0 && decide (s.trialAge t < 1000000000 * s.od D.FW_TRIAL_S) &&
    (if t = 0 then s.sb.up && s.fw.flashed
     else if t = 1 then decide (10000000000 ≤ s.trialAge 1) && s.standbyOk
     else s.boot.full || decide (s.fw.lineStage < 7 ∧ s.fw.lineStage ≤ s.boot.stage))

/-- `TRIAL_CONFIRM`: the image of target `t` (0 SIGNAL, 1 RUNTIME, 2 LINE) asks for confirmation (R521, R522). -/
def execTrialConfirm (t : Fin 3) (s : State) : Res :=
  .next (
    if s.dom.signalRst ∨ s.mayConfirm t.val = false then s
    else
      let k := s.inForce t.val
      let o := s.idle t.val
      let x := s.fwSlot k
      let s := s.slotSt k 5
      let s := if x.raise then
          let s := s.fwMod fun f => { f with minSvn := vput f.minSvn t.val (max (vget 0 f.minSvn t.val) x.svn) }
          if (s.fwSlot o).svn < x.svn then s.slotSt o 6 else s
        else s
      let s := if t.val = 1 then
          let y := 1 - s.rcActive
          (((s.fwMod fun f => { f with rcImg := vput f.rcImg y (k % 2) }).recordFormat).setStandbyOk false).selfTest y
        else s
      s.event sbSource 0x1382 (leBytes 1 (fwCode t.val) ++ [0] ++ leBytes 1 (k % 2) ++ [0] ++ leBytes 4 x.version
        ++ leBytes 4 (vget 0 s.fw.minSvn t.val)))

/-- `TRIAL_LAPSE`: the window of a trial passes unconfirmed (R523). -/
def execTrialLapse (t : Fin 3) (s : State) : Res :=
  .next (
    if !s.trial t.val then s
    else
      let s := s.fallBack t.val 1
      if t.val = 0 then s.askSignal 3
      else if t.val = 2 then s.askReset 2 2 4 0xFFFF 0xFFFFFFFF
      else if s.standbyOk then
        let old := s.rcActive
        (s.switchTo none).selfTest old
      else s.askReset 1 2 3 0xFFFF 0xFFFFFFFF)

/-! ## Owner key and grants (R511) -/

/-- A write of 0x6010:01 by a request that acts at owner level or not. -/
def State.ownerKey (s : State) (owner : Bool) (l : List Byte) : Nat × State :=
  if (s.blobOf D.OWNER_KEY).isEmpty = false ∧ !owner then (0x1203, s)
  else if l.isEmpty then
    (0, if owner then ((s.blobPut D.OWNER_KEY []).odPut D.OWNER_LOCK 0).sbMod fun b => { b with grants := .replicate 15 none }
        else s.blobPut D.OWNER_KEY [])
  else if l.length ≠ 32 then (0x1205, s)
  else (0, s.blobPut D.OWNER_KEY l)

/-- Has a grant's RTIME expiry passed? -/
def State.expired (s : State) (expiry : Nat) : Bool :=
  match s.sbTime with
  | some t => decide (expiry ≤ t)
  | none => true

/-- A write of a grant to slot `k` (1 to 15) on a path. -/
def State.grantPut (s : State) (k path : Nat) (l : List Byte) : Nat × State :=
  let key := s.blobOf D.OWNER_KEY
  if key.isEmpty ∨ l.length ≠ 128 ∨ numAt l 0 4 ≠ 1 ∨ 1 < numAt l 4 1 ∨ zerosAt l 6 2 = false ∨ zerosAt l 28 36 = false
      ∨ numAt l 8 8 ≠ s.od D.SERIAL ∨ numAt l 24 4 < s.od D.GRANT_MIN_SEQ ∨ numAt l 5 1 ≠ path ∨ s.expired (numAt l 16 8) = true
      ∨ edVerify key (bytesAt l 0 64) (bytesAt l 64 64) = false then (0x120B, s)
  else (0, s.sbMod fun b => { b with grants := vput b.grants (k - 1) (some (Grant.mk (numAt l 4 1 == 0) path (numAt l 16 8) (numAt l 24 4))) })

/-- A write of 0x6010:02 removes the grants below it. -/
def State.grantMin (s : State) (v : Nat) : State :=
  (s.odPut D.GRANT_MIN_SEQ v).sbMod fun b => { b with grants := b.grants.map fun g =>
    match g with
    | some x => if x.seq < v then none else some x
    | none => none }

/-- A write of 0x6030:02 (R505). -/
def State.licCert (s : State) (c : List Byte) : Nat × State :=
  if certOk c 2 (s.od D.MIN_KEY_REV) (s.od D.SERIAL) ∧ numAt (s.blobOf D.LICENCE_KEY_CERT) 4 4 ≤ numAt c 4 4 then
    (0, s.blobPut D.LICENCE_KEY_CERT c)
  else (0x120B, s)

/-! ## Attestation (R508-R510) -/

/-- The measurement record of a target. -/
def State.measureRec (s : State) (t : Nat) : List Byte :=
  let k := s.inForce t
  let x := s.fwSlot k
  leBytes 2 (fwCode t) ++ leBytes 1 (k % 2) ++ leBytes 1 x.state ++ leBytes 4 x.version ++ leBytes 4 x.svn ++ List.replicate 4 0
    ++ (vget [] s.fw.meas t ++ List.replicate 64 0).take 64

/-- `FLAGS` of a report. -/
def State.attestFlags (s : State) : Nat :=
  let bit := fun (b : Bool) (k : Nat) => if b then 2 ^ k else 0
  bit s.boot.full 0 + bit s.boot.shunting 1 + bit (s.flag R.BOOT_STATUS_REDUCED) 2 + bit (s.flag R.IL_STATUS_FAULT_STATE) 3
    + bit (s.od D.OWNER_LOCK == 1) 4 + bit ((List.range 6).any fun k => (s.fwSlot k).state == 4) 5 + bit (s.od D.INJECT_EN == 1) 6
    + bit s.sbTime.isSome 7 + bit ((List.range 6).any fun k => (s.fwSlot k).state == 6) 8

/-- The bytes of a report that its signature covers. -/
def State.attestBody (s : State) (seq : Nat) (nonce : List Byte) : List Byte :=
  let key := s.blobOf D.OWNER_KEY
  leBytes 4 1 ++ leBytes 4 seq ++ leBytes 8 (s.od D.SERIAL) ++ leBytes 2 0x00B0 ++ leBytes 2 s.attestFlags
    ++ leBytes 4 (s.od D.ARITH_VERSION) ++ leBytes 8 (s.sbTime.getD 0) ++ nonce
    ++ (List.range 3).flatMap (fun i => s.measureRec (if i = 0 then 0 else if i = 1 then 2 else 1))
    ++ leBytes 4 (s.od D.LIC_SEQ) ++ leBytes 2 (s.od D.LIC_PRODUCT) ++ leBytes 2 (s.fget R.BOOT_GEOM_IN_SERVICE)
    ++ leBytes 4 (s.fget R.RESET_STATUS_RESET_GEN) ++ List.replicate 4 0
    ++ (if key.isEmpty then List.replicate 64 0 else sha512 key)

/-- A write of a nonce on a path forms and signs its report. -/
def State.attest (s : State) (path : Nat) (nonce : List Byte) : Nat × State :=
  if nonce.length ≠ 32 then (0x1205, s)
  else
    let seq := (s.fw.reportSeq + 1) % 2 ^ 32
    let body := s.attestBody seq nonce
    (0, s.fwMod fun x => { x with reportSeq := seq,
                                  reports := vput x.reports path (body ++ edSign (leBytes 32 Config.idSeed.toNat) body) })

/-- `FW_STATUS` of a target (R528). -/
def State.fwStatus (s : State) (t : Nat) : List Byte :=
  let a := s.fwSlot (2 * t)
  let b := s.fwSlot (2 * t + 1)
  let up := s.fwSlot (s.idle t)
  let left := if s.trial t then s.od D.FW_TRIAL_S - s.trialAge t / 1000000000 else 0
  leBytes 1 (fwCode t) ++ leBytes 1 (vget 0 s.fw.run t) ++ leBytes 1 a.state ++ leBytes 1 b.state ++ leBytes 4 a.version
    ++ leBytes 4 b.version ++ leBytes 4 a.svn ++ leBytes 4 b.svn ++ leBytes 4 (vget 0 s.fw.minSvn t)
    ++ leBytes 2 ((List.range 256).filter fun c => nbit up.chunks c == 1).length ++ leBytes 2 up.count ++ leBytes 4 left
    ++ leBytes 32 up.chunks

end Sys2Proof.Machine
end

