-- ==== Sys2Proof/Machine/Dictionary.lean ====
section
/-! DEFINITION. The object dictionary (R483-R503): its messages on the field port and the control lane, what entries read as, what a
write applies, the tray session and the orphan cap, notices, the field port's other answers, and the end of a SIGNAL reset. -/

namespace Sys2Proof.Machine

/-! ## The snapshot (R496) -/

/-- FLAGS. -/
def State.mirrorFlags (s : State) : Nat :=
  let b := fun (x : Bool) (k : Nat) => if x then 2 ^ k else 0
  b (s.flag R.IL_STATUS_FAULT_STATE) 0 + b (s.flag R.IL_STATUS_FAULT_N) 1 + b (s.flag R.THERM_STATUS_CUT_REQ) 2
    + b (s.flag R.THERM_STATUS_TRIP) 3 + b (s.flag R.RESET_STATUS_CYCLE_REQ) 4 + b (s.flag R.RESET_STATUS_SB_HELD) 5
    + b (s.flag R.THERM_STATUS_FORCE) 6 + b (s.flag R.PWR_STATUS_ALERT) 7 + b s.inBs 8 + s.sb.orphan % 4 * 2 ^ 9
    + b (s.sb.up && !s.dom.signalRst) 11 + b (!s.dom.lineRst) 12 + b (!s.dom.worksRst) 13

/-- The 64 bytes of the mirror, from the state as it stands. -/
def State.snapshot (s : State) : List Byte :=
  let f := fun (x : Fld) => s.fget x
  (leBytes 1 1 ++ leBytes 1 0xB0 ++ leBytes 1 s.position ++ leBytes 1 (f R.BOOT_STATUS_STAGE + 16 * f R.BOOT_STATUS_OUTCOME)
    ++ leBytes 2 s.mirrorFlags ++ [0, 0] ++ leBytes 2 (f R.THERM_TEMPS_TJ_HOT) ++ leBytes 2 (f R.THERM_TEMPS_INLET)
    ++ leBytes 2 (f R.THERM_TEMPS_OUTLET) ++ leBytes 2 (f R.THERM_TEMPS_MEM_HOT) ++ leBytes 2 (f R.PWR_NOW_MEAN_1MS_W)
    ++ leBytes 2 (f R.PWR_INPUT_VIN) ++ leBytes 2 (if s.dom.lineRst then 0 else f R.PWR_CAPS_THERM_CAP) ++ leBytes 1 s.govState ++ leBytes 1 (f R.PWR_STATUS_BIND)
    ++ leBytes 4 s.fabricState ++ leBytes 1 (s.laneState 0 + 16 * s.laneState 1) ++ [0, 0, 0]
    ++ leBytes 4 (f R.RESET_STATUS_RESET_GEN) ++ leBytes 2 (f R.THERM_STATUS_GUARD_BAD) ++ [0, 0] ++ leBytes 4 s.i3c.refresh
    ++ List.replicate 64 0).take 64

/-! ## Requests (R483, R484, R487) -/

/-- The path of a request: 0 field port, 1 control lane. -/
def OdReq.path (q : OdReq) : Nat := if q.lane then 1 else 0

/-- Does a request draw MALFORMED (R484, R197)? -/
def OdReq.malformed (q : OdReq) : Bool :=
  decide (q.size < 24) || !([1, 2, 3, 0x10, 0x11, 0x21].contains q.op) || decide (q.flags / 2 ≠ 0)
    || (if q.op = 2 then q.length != q.value.length else !q.value.isEmpty || (q.op != 1 && q.length != 0))
    || (q.lane && (decide (0x10 ≤ q.op) || decide (4096 < q.size)))

/-- The level codes of R498. -/
def Level.code : Level → Nat
  | .owner => 0
  | .operator => 1
  | .driver => 2
  | .tray => 3

/-- The level of a request, none where its grant does not hold (R487). -/
def State.odLevel (s : State) (q : OdReq) : Option Nat :=
  if q.grant = 0 then some (if q.lane then 2 else 3)
  else
    match vget none s.sb.grants (q.grant - 1) with
    | some g => if g.path = q.path ∧ s.expired g.expiry = false then some (if g.owner then 0 else 1) else none
    | none => none

/-! ## Entries (R498-R500, R515) -/

/-- Bytes of a scalar; 0 for STRING and DOMAIN. -/
def OdType.size : OdType → Nat
  | .bool | .u8 => 1
  | .u16 | .i16 => 2
  | .u32 | .i32 | .f32 => 4
  | .u64 => 8
  | .str | .domain => 0
/-- The type codes of R498. -/
def OdType.code : OdType → Nat
  | .bool => 1 | .u8 => 2 | .u16 => 3 | .u32 => 4 | .u64 => 5 | .i16 => 6 | .i32 => 7 | .f32 => 8 | .str => 9 | .domain => 10
/-- Largest bytes of a value of a type. -/
def OdType.largest (t : OdType) : Nat := match t with | .str => 256 | .domain => 65536 | _ => t.size
/-- Largest bytes of the DOMAIN entries whose own rule states a size (R427, R459, R475, R478, R505, R509, R510, R511, R514, R528, R470), by
the key of their row. -/
def odSizes : List (Nat × Nat) :=
  [(D.STAGE_REPORT, 64), (D.BGTEST_REPORT, 64), (D.DRIFT_MAP, 24), (D.LAST_CRITICAL, 2048), (D.FW_HEADER, 4096), (D.FW_STATUS, 64),
   (D.OWNER_KEY, 32), (D.GRANT, 128), (D.ATTEST_NONCE, 32), (D.ATTEST_REPORT, 448), (D.IDENTITY_CERT, 128), (D.LICENCE_KEY_CERT, 128),
   (D.IDENTITY_KEY, 32), (D.LICENCE, 192)]
/-- Largest bytes of an entry. -/
def OdRow.largest (r : OdRow) : Nat := (odSizes.lookup r.key).getD r.type.largest
/-- The access codes of R498. -/
def OdAcc.code : OdAcc → Nat
  | .ro => 0
  | .rw => 1
  | .wo => 2
  | .rwIdle => 3

/-- Key of the first image chunk (R515). -/
def chunkKey : Nat := 0x604000
/-- The chunk that a key names. -/
def chunkOf (key : Nat) : Option Nat :=
  let i := key / 256
  let k := key % 256
  if 0x6040 ≤ i ∧ i ≤ 0x6043 ∧ 1 ≤ k ∧ k ≤ 64 then some ((i - 0x6040) * 64 + (k - 1)) else none

/-- Highest subindex of an index, if it has entries. -/
def odTop (index : Nat) : Option Nat :=
  if 0x6040 ≤ index ∧ index ≤ 0x6043 then some 64
  else
    match (dictMap.filter fun r => r.key / 256 == index).map fun r => r.key % 256 + (r.count - 1) with
    | [] => none
    | l => some (l.foldl max 0)

/-- The entry of a key: subindex 0 tells the highest subindex. -/
def odFind (key : Nat) : Option OdRow :=
  if key % 256 = 0 then (odTop (key / 256)).map fun t => ⟨"", key, 1, .u8, .ro, .tray, t, false, none⟩
  else if (chunkOf key).isSome then some ⟨"FW_CHUNK", key, 1, .domain, .wo, .operator, 0, false, none⟩
  else dictMap.find? fun r => decide (r.key ≤ key ∧ key < r.key + r.count)

/-- Characters as bytes. -/
def asciiBytes (t : String) : List Byte := t.toList.map fun c => BitVec.ofNat 8 c.toNat

/-- Bits 23:0 of BOOT_STATUS; from the run itself while LINE is in reset. -/
def State.bringupState (s : State) : Nat :=
  if s.dom.lineRst then
    s.boot.stage + s.boot.outcome * 64 + s.boot.kind * 256 + (if s.boot.full then 2 ^ 19 else 0) + (if s.boot.shunting then 2 ^ 20 else 0)
      + s.fget R.BOOT_STATUS_DRIFT * 2 ^ 21 + s.fget R.BOOT_STATUS_REDUCED * 2 ^ 22
  else (s.csrGet R.BOOT_STATUS).toNat % 2 ^ 24

/-- Slots that hold a grant, bit s for slot s. -/
def State.grantSlots (s : State) : Nat :=
  ((List.range 15).map fun i => if (vget none s.sb.grants i).isSome then 2 ^ (i + 1) else 0).foldl (· + ·) 0

/-- Entries that show state held elsewhere (R22). -/
def odShown : List (Nat × (State → Nat)) := [
  (D.SB_UPTIME_S, State.uptime), (D.ORPHAN_STATE, (·.sb.orphan)), (D.TRAY_SESSION, (·.sb.session)),
  (D.BRINGUP_STATE, State.bringupState), (D.TOPO_DIGEST, State.topoDigest), (D.PWR_NOW_W, (·.fget R.PWR_NOW_MEAN_1MS_W)),
  (D.ENERGY_J, (·.gov.energyJ / 100000)), (D.PWR_STATE, State.govState), (D.PWR_BIND, (·.fget R.PWR_STATUS_BIND)),
  (D.TJ_HOT, (·.fget R.THERM_TEMPS_TJ_HOT)), (D.INLET_C, (·.fget R.THERM_TEMPS_INLET)), (D.OUTLET_C, (·.fget R.THERM_TEMPS_OUTLET)),
  (D.RTH_EST, (·.fget R.THERM_RTH_RTH_DIE)), (D.FLOW_EST, (·.fget R.THERM_RTH_FLOW_EST)), (D.THERM_CAP_W, (·.fget R.PWR_CAPS_THERM_CAP)),
  (D.GUARD_BAD, (·.fget R.THERM_STATUS_GUARD_BAD)), (D.CUT_REQ, (·.fget R.THERM_STATUS_CUT_REQ)), (D.OWN_ID, State.ownId),
  (D.FABRIC_STATE, State.fabricState), (D.RTIME_STATE, fun s => (s.csrGet R.RTIME_STATUS).toNat % 32),
  (D.FAULT_STATE, fun s => s.fget R.IL_STATUS_FAULT_STATE + 2 * s.fget R.IL_STATUS_CLEAR_REQUIRED + 4 * s.fget R.IL_STATUS_SAFE
    + 8 * s.fget R.IL_STATUS_FAULT_N),
  (D.RESET_GEN, (·.fget R.RESET_STATUS_RESET_GEN)),
  (D.LAST_RESET, fun s => 4096 * s.fget R.RESET_STATUS_LAST_KIND + s.fget R.RESET_STATUS_LAST_CAUSE),
  (D.ESC_STATE, fun s => (s.csrGet R.RESET_STATUS).toNat / 4 % 8), (D.GRANT_SLOTS, State.grantSlots),
  (D.JOB_ID, fun s => if s.job.active then s.job.id else 0), (D.COMMITTED, State.epochC), (D.EPOCH_STATE, State.estate),
  (D.LOADED, fun s => if s.prog.loaded then 1 else 0), (D.RC_ACTIVE, State.rcActive), (D.STANDBY_OK, (·.fget R.RC_STATUS_STANDBY_OK))]

/-- The value of a scalar entry. -/
def State.odRead (s : State) (r : OdRow) (key : Nat) : Nat :=
  if key % 256 = 0 then r.dflt
  else if r.key = D.CHANNELS then s.fget (R.MD_STATUS_CH_UP.at (mdOff (key - r.key)))
  else
    match odShown.lookup key with
    | some f => f s
    | none => s.od key

/-- The bytes of a STRING or DOMAIN entry as a path reads it. -/
def State.odBlob (s : State) (r : OdRow) (path key : Nat) : List Byte :=
  if key = D.VENDOR then asciiBytes "Mudeton Systems"
  else if key = D.PRODUCT_NAME then asciiBytes "Belonyth N8"
  else if key = D.ORDERING then
    (if s.od D.LIC_PRODUCT = 0x0176 then asciiBytes "BN8-M176-L" else if s.od D.LIC_PRODUCT = 0x0128 then asciiBytes "BN8-B128-L" else [])
  else if key = D.DRIFT_MAP then
    (if !s.boot.mapped then []
     else (List.range 3).flatMap fun k => leBytes 8 (s.csrGet (R.BOOT_DRIFT + 8 * k)).toNat)
  else if key = D.LAST_CRITICAL then s.il.flash.flatten
  else if r.key = D.FW_STATUS then s.fwStatus (key - r.key)
  else if key = D.ATTEST_REPORT then vget [] s.fw.reports path
  else if key = D.IDENTITY_KEY then idKey
  else if key = D.LICENCE then s.licInForce.getD []
  else s.blobOf key

/-- The bytes that an entry reads as. -/
def State.odBytes (s : State) (r : OdRow) (path key : Nat) : List Byte :=
  if r.type.size = 0 then s.odBlob r path key else leBytes r.type.size (s.odRead r key)

/-- The descriptor of R498; the current size of a WO entry of variable size is 0. -/
def State.odInfo (s : State) (r : OdRow) (path key : Nat) : List Byte :=
  let now := if r.type.size ≠ 0 then r.type.size else if r.acc = .wo then 0 else (s.odBlob r path key).length
  leBytes 1 r.type.code ++ leBytes 1 r.acc.code ++ leBytes 1 r.level.code ++ leBytes 1 (if r.persist then 1 else 0) ++ leBytes 4 now
    ++ leBytes 4 r.largest ++ leBytes 8 (if r.type.size = 0 then 0 else r.dflt) ++ leBytes 4 0

/-- Does a value lie in the range that its table states? -/
def OdRange.holds (g : OdRange) (v : Nat) : Bool :=
  g.also.contains v || (decide (g.lo ≤ v ∧ v ≤ g.hi) && (v - g.lo) % g.step == 0)

/-- Is the package idle under R20? DESIGN CHOICE (log entry 166): a command ring is active while its EN is 1, stopped or not. -/
def State.odIdle (s : State) : Bool := !s.prog.loaded && !(List.range 64).any fun r => s.flag (R.RING_CFG_EN.at (ringOff r))

/-! ## What a write applies (R499) -/

/-- A register of LINE counts, unless LINE is in reset. -/
def State.sbBump (s : State) (f ovf : Fld) : State := if s.dom.lineRst then s else s.bump f ovf

/-- `SB_ORPHAN` (R503). -/
def State.orphanEvent (s : State) (phase session : Nat) : State :=
  s.event sbSource 0x1180 (leBytes 1 phase ++ [0] ++ leBytes 2 (s.fget R.PWR_CAPS_ORPHAN_CAP) ++ leBytes 4 session)

/-- The release of R493: attached, and the orphan cap is gone. -/
def State.orphanRelease (s : State) : State :=
  let s := s.govMod fun g => { g with orphan := 0xFFFF, eOrphan := 6553500 }
  ((s.sbMod fun b => { b with orphan := 0 }).fset R.PWR_CAPS_ORPHAN_CAP 0xFFFF).orphanEvent 3 s.sb.session

/-- The answer to an operation that a rule may refuse. -/
def odRefusable (x : Bool × State) : Nat × State := (if x.1 then 0 else 0x120B, x.2)

/-- A write of THERM_CLEAR: bit 0 ends the flow-stop force, bit 1 the trip; nothing changes where either is refused. -/
def State.thermClear (s : State) (v : Nat) : Nat × State :=
  let (a, s1) := if v % 2 = 1 then s.flowStopClear else (true, s)
  let (b, s2) := if v / 2 % 2 = 1 then s1.tripClear else (true, s1)
  if a ∧ b then (0, s2) else (0x120B, s)

/-- A write of 0x1020:04: an effect only while reattached, and only from the tray controller (R493). -/
def State.odRelease (s : State) (q : OdReq) (v : Nat) : Nat × State :=
  if v = 0 ∨ s.sb.orphan = 0 then (0, s) else if q.lane ∨ s.sb.orphan ≠ 2 then (0x120B, s) else (0, s.orphanRelease)

/-- Entries whose write acts on a unit of LINE (R33). -/
def odOnLine : List Nat := [D.FAULT_ACK, D.FAULT_CLEAR, D.GUARD_CLEAR, D.THERM_CLEAR, D.RTIME_NEXT]

/-- The port whose map entries a key belongs to. -/
def mapPort (r : OdRow) (key : Nat) : Option Nat :=
  if r.key = D.MAP_FP ∨ r.key = D.MAP_SN then some (key - r.key) else if r.key = D.MAP_CP then some (16 + (key - r.key)) else none

/-- A checked value is applied to a scalar entry: its status and the state. -/
def State.odApply (s : State) (q : OdReq) (e : OdEnv) (r : OdRow) (key v : Nat) : Nat × State :=
  let put := (0, s.odPut key v)
  if odOnLine.contains key ∧ s.dom.lineRst = true then (2, s)
  else if key = D.ORPHAN_RELEASE then s.odRelease q v
  else if key = D.PEAK_LIMIT_W then (if v ≤ 1400 ∧ s.od D.AVG_LIMIT_W ≤ v then put else (0x1205, s))
  else if key = D.AVG_LIMIT_W then (if v ≤ s.od D.PEAK_LIMIT_W then put else (0x1205, s))
  else if key = D.E2E_TIMEOUT then (if 2 * s.od D.PKT_LIFETIME < v then put else (0x1205, s))
  else if key = D.PKT_LIFETIME then (if 2 * v < s.od D.E2E_TIMEOUT then put else (0x1205, s))
  else if key = D.ACCEPT_REDUCED then (0, s.acceptReduced v)
  else if key = D.TOPO_ACCEPT then odRefusable (s.topoAccept v)
  else if key = D.GEOMETRY_EXPECT then (0, s.geometryExpect v)
  else if key = D.BGTEST_EN then (0, s.bgEnable v)
  else if key = D.TRAY_INLET then (0, (s.odPut key v).thMod fun t => { t with inletAt := some s.clock.run })
  else if key = D.GUARD_CLEAR then odRefusable (s.guardClear v)
  else if key = D.THERM_CLEAR then s.thermClear v
  else if key = D.TRAY_NO then (0, s.trayNo v)
  else if key = D.RTIME_NEXT then (match s.armRtime v with | (true, s) => (0, s) | (false, s) => (0x1205, s))
  else if r.key = D.DIE_MARKS then odRefusable (s.dieMarks (key - r.key) v)
  else if key = D.FAULT_CLEAR then (if v % 2 = 1 then odRefusable (s.softwareClear e.recheck.val) else (0, s))
  else if key = D.FAULT_ACK then (if v = 1 then odRefusable s.faultAck else (0, s))
  else if key = D.RECOVERIES_RESET then (0, if v = 1 then s.recoveriesReset else s)
  else if key = D.INJECT_EN then (0, if s.dom.lineRst then s.odPut key v else (s.odPut key v).fset R.IL_STATUS_INJECT_EN v)
  else if key = D.QUIET_S then (0, (s.odPut key v).ilMod fun x => { x with expired := false })
  else if key = D.RESET_REQUEST then (if 1 ≤ v ∧ v ≤ 4 then (0, s.requestReset v) else (0x1205, s))
  else if key = D.FW_ABORT then s.fwAbort v
  else if key = D.FW_ACTIVATE then s.fwActivate v
  else if key = D.GRANT_MIN_SEQ then (0, s.grantMin v)
  else if key = D.COAST_US then (0, if v = 0 then (s.odPut key v).coastOff else s.odPut key v)
  else
    match mapPort r key with
    | some p => (0, (s.odPut key v).remap p)
    | none => put

/-- A whole value is applied to a STRING or DOMAIN entry by a request of a level. -/
def State.odApplyBlob (s : State) (q : OdReq) (level : Nat) (r : OdRow) (key : Nat) (l : List Byte) : Nat × State :=
  if key = D.FW_HEADER then s.fwHeader l
  else if key = D.OWNER_KEY then s.ownerKey (level == 0) l
  else if r.key = D.GRANT then s.grantPut (key - r.key + 1) q.path l
  else if key = D.ATTEST_NONCE then s.attest q.path l
  else if key = D.LICENCE_KEY_CERT then s.licCert l
  else if key = D.LICENCE then odRefusable (s.licInstall l)
  else
    match chunkOf key with
    | some c => s.fwChunk c l
    | none => (0, s.blobPut key l)

/-- The staged value of a path. -/
def State.stage (s : State) (path : Nat) (x : Option (Nat × List Byte)) : State :=
  s.sbMod fun b => { b with staged := vput b.staged path x }

/-- A segment joins the value staged on its path (R488): a status, or the value so far. -/
def State.odSegment (s : State) (q : OdReq) (largest : Nat) : Except Nat (List Byte) :=
  let l := if q.offset = 0 then some q.value
    else match vget none s.sb.staged q.path with
      | some (k, b) => if k = q.key ∧ b.length = q.offset then some (b ++ q.value) else none
      | none => none
  match l with
  | none => .error 0x1207
  | some l => if largest < l.length then .error 0x1205 else .ok l

/-- GEN of an entry advances (R483). -/
def State.genBump (s : State) (key : Nat) : State :=
  { s with gens := tset (fun _ => 0) s.gens key ((tget (fun _ => 0) s.gens key + 1) % 65536) }

/-- The value of a STRING or DOMAIN entry that a path was served last. -/
def State.seen (s : State) (path key : Nat) : Option (List Byte) := tget (fun _ => none) s.sb.seen (key * 2 + path)
/-- Record it. -/
def State.seenPut (s : State) (path key : Nat) (x : Option (List Byte)) : State :=
  s.sbMod fun b => { b with seen := tset (fun _ => none) b.seen (key * 2 + path) x }

/-- A path is served a STRING or DOMAIN entry that stands at `l`: GEN advances where the signal box itself has changed the entry since the
path was served it before, so that an unchanged GEN tells one whole value (R489). DEDUCED (log entry 200). -/
def State.genFollow (s : State) (path key : Nat) (l : List Byte) : State :=
  match s.seen path key with
  | none => s.seenPut path key (some l)
  | some o => if o = l then s else (s.genBump key).seenPut path key (some l)

/-- An applied write advances GEN, and a persistent one is committed first: a commit that fails leaves everything (R483, R490, R499). -/
def State.odCommit (s : State) (e : OdEnv) (r : OdRow) (key : Nat) (x : Nat × State) : Nat × State :=
  if x.1 ≠ 0 then x
  else if r.persist ∧ e.flashFails = true then (0x120C, s)
  else
    let t := ((x.2.genBump key).seenPut 0 key none).seenPut 1 key none
    (0, if r.persist then t.fwMod fun f => { f with flashed := true } else t)

/-- A power entry takes effect in the governor's registers (R389). -/
def odGoverns (key : Nat) (x : Nat × State) : Nat × State :=
  if x.1 = 0 ∧ govKeys.contains key = true then (0, x.2.govEntries) else x

/-- A write that its session, grant, access, level and idleness allow. -/
def State.odWrite (s : State) (q : OdReq) (e : OdEnv) (level : Nat) (r : OdRow) : Nat × State :=
  if r.type.size ≠ 0 then
    let v := leNat q.value
    if q.value.length ≠ r.type.size ∨ q.offset ≠ 0 ∨ (r.type = .bool ∧ 1 < v) then (0x1206, s)
    else if (match r.range with | some g => !g.holds v | none => false) then (0x1205, s)
    else s.odCommit e r q.key (odGoverns q.key (s.odApply q e r q.key v))
  else
    match s.odSegment q r.largest with
    | .error c => (c, s.stage q.path none)
    | .ok l =>
      if q.flags % 2 = 0 then (0, s.stage q.path (some (q.key, l)))
      else
        let s := s.stage q.path none
        s.odCommit e r q.key (s.odApplyBlob q level r q.key l)

/-! ## Serving (R485-R491) -/

/-- May a level write an entry it does not reach: the owner key while none is enrolled (R511)? -/
def State.odOpen (s : State) (key : Nat) : Bool := key == D.OWNER_KEY && (s.blobOf D.OWNER_KEY).isEmpty

/-- Does a field-port write carry the current session of an attached or reattached package (R491, R492)? -/
def State.sessionOk (s : State) (q : OdReq) : Bool := q.session == s.sb.session && s.sb.session != 0 && s.sb.orphan != 1

/-- READ, WRITE or INFO: status, value of the response, and the state. -/
def State.odServe (s : State) (q : OdReq) (e : OdEnv) : Nat × List Byte × State :=
  let write := q.op = 2
  if write ∧ !q.lane ∧ s.sessionOk q = false then (0x1208, [], s.sbBump R.SB_EVENTS_STALE_WRITES R.SB_FLAGS_STALE_OVF)
  else
    match s.odLevel q with
    | none => (0x120A, [], s)
    | some lv =>
      match odFind q.key with
      | none => (0x1201, [], s)
      | some r =>
        if (write ∧ r.acc = .ro) ∨ (q.op = 1 ∧ r.acc = .wo) then (0x1202, [], s)
        else if r.level.code < lv ∧ !(write && s.odOpen q.key) then (0x1203, [], s)
        else if write then
          (if r.acc = .rwIdle ∧ s.odIdle = false then (0x1204, [], s)
           else
             let (c, s) := s.odWrite q e lv r
             (c, [], s))
        else if q.op = 3 then (0, s.odInfo r q.path q.key, s)
        else
          let l := s.odBytes r q.path q.key
          let n := min q.length (if q.lane then 4072 else 1024)
          if r.type.size ≠ 0 ∧ q.offset ≠ 0 then (0x1206, [], s)
          else (0, (l.drop q.offset).take n, if r.type.size = 0 then s.genFollow q.path q.key l else s)

/-- HELLO (R491, R493). -/
def State.hello (s : State) (q : OdReq) : Nat × List Byte × State :=
  if q.session = 0 ∨ q.session = s.sb.session then (0x1205, [], s)
  else
    let back := s.sb.orphan = 1
    let s := s.sbMod fun b => { b with session := q.session, tray := q.src, hello := true, kept := vput b.kept 0 [],
                                       orphan := if b.orphan = 1 then 2 else b.orphan }
    let s := if back then s.orphanEvent 2 q.session else s
    (0, s.snapshot, s)

/-- HEARTBEAT (R491). -/
def State.heartbeat (s : State) (q : OdReq) : Nat × List Byte × State :=
  if q.session ≠ 0 ∧ q.session = s.sb.session then (0, s.snapshot, s) else (0x1208, [], s)

/-- A response is kept under its REQ_ID, the last 32 of its path (R486). -/
def State.odKeep (s : State) (q : OdReq) (l : List Byte) : State :=
  s.sbMod fun b => { b with kept := vmod b.kept q.path fun k => (k ++ [(q.reqId, l)]).drop ((k ++ [(q.reqId, l)]).length - 32) }

/-- Every queued notice that is not acknowledged is sent. -/
def State.noticesSend (s : State) : State := s.notices.foldl (fun s n => if n.acked then s else s.noticeSend n) s

/-- Does a notice hold its entry: CUT_REQUEST or POWER_CYCLE, its condition set (R494)? -/
def State.noticeHeld (s : State) (n : Notice) : Bool :=
  (n.kind == 1 && s.flag R.THERM_STATUS_CUT_REQ) || (n.kind == 2 && s.flag R.RESET_STATUS_CYCLE_REQ)

/-- NOTICE_ACK: the notice is not sent again, and leaves the queue unless it holds its entry (R494). -/
def State.noticeAck (s : State) (reqId : Nat) : State :=
  { s with notices := (s.notices.filter fun n => n.reqId != reqId || s.noticeHeld n).map fun n =>
      if n.reqId = reqId then { n with acked := true } else n }

/-- A request is served whole and answered, but where a fresh start has muted it: a REQ_ID that is kept, again (R485, R486). -/
def State.odTake (s : State) (w : OdWait) (q : OdReq) : State :=
  let send := fun (s : State) (l : List Byte) => if w.mute then s else s.odSend w.msg l
  match (vget [] s.sb.kept q.path).lookup q.reqId with
  | some l => send s l
  | none =>
    let (c, v, s) := if q.op = 0x10 then s.hello q else if q.op = 0x11 then s.heartbeat q else s.odServe q w.env
    let l := q.response c (if q.op < 0x10 then tget (fun _ => 0) s.gens q.key else 0) v
    let s := send (s.odKeep q l) l
    if q.op = 0x10 ∧ c = 0 then s.noticesSend else s

/-- The request of a message that waits on a path. -/
def OdWait.req (w : OdWait) (path : Nat) : OdReq :=
  match w.msg with
  | .port src _ _ _ => odParse (path == 1) src.toNat w.body
  | .lane _ => odParse (path == 1) 0 w.body

/-- The path that is served next: where both hold requests, in turn (R485). -/
def Sb.nextPath (b : Sb) : Option Nat :=
  match vget [] b.waiting 0, vget [] b.waiting 1 with
  | [], [] => none
  | [], _ => some 1
  | _, [] => some 0
  | _, _ => some b.turn

/-- The request that is served next leaves its queue and is served. -/
def State.odNext (s : State) : State :=
  match s.sb.nextPath with
  | none => s
  | some p =>
    match vget [] s.sb.waiting p with
    | [] => s
    | w :: l => (s.sbMod fun b => { b with waiting := vput b.waiting p l, turn := 1 - p }).odTake w (w.req p)

/-- The signal box serves `n` of the requests that wait, one at a time. -/
def State.odServeN : Nat → State → State
  | 0, s => s
  | n + 1, s => odServeN n s.odNext

/-- Requests that wait on a path. -/
def State.odWaits (s : State) (path : Nat) : Nat := (vget [] s.sb.waiting path).length

/-- The signal box, while it runs, serves every request that waits. -/
def State.odDrain (s : State) : State :=
  if s.sb.up && !s.dom.signalRst then State.odServeN (s.odWaits 0 + s.odWaits 1) s else s

/-- A request arrives: a malformed one, an acknowledge and one whose response is kept are dealt with at once; another joins the queue of its
path, or finds eight there; it waits while the signal box is at work, else all that wait are served (R484-R486; log entry 141). -/
def State.odHandle (s : State) (m : OdMsg) (body : List Byte) (q : OdReq) (e : OdEnv) : State :=
  if q.malformed then s.odSend m (q.response 4 0 [])
  else if q.op = 0x21 then s.noticeAck q.reqId
  else
    match (vget [] s.sb.kept q.path).lookup q.reqId with
    | some l => s.odSend m l
    | none =>
      if 8 ≤ s.odWaits q.path then (s.sbBump R.SB_EVENTS2_OD_BUSY R.SB_FLAGS_BUSY_OVF).odSend m (q.response 0x1209 0 [])
      else
        let s := s.sbMod fun b => { b with waiting := vmod b.waiting q.path fun l => l ++ [⟨m, body, e, false⟩] }
        if e.busy then s else s.odDrain

/-- A dictionary message arrives; `mine` names the requests of this row, the others wait for their own. The field port hears nothing
while SIGNAL is in reset or the address is not its own, and discards a payload above 1,048 bytes, to another port or with a bad checksum
(R480, R482); the control lane brings a message in flits. -/
def State.odRow (s : State) (m : OdMsg) (e : OdEnv) (mine : OdReq → Bool) : State :=
  match m with
  | .port src dport sumOk l =>
    let q := odParse false src.toNat l
    if s.dom.signalRst ∨ s.sb.up = false ∨ s.sb.dup = true ∨ dport.toNat ≠ s.od D.OD_PORT ∨ sumOk = false ∨ 1048 < l.length
        ∨ mine q = false then s
    else s.odHandle m l q e
  | .lane f =>
    match s.rxFlit 0 f (· == 6) with
    | (false, t) => t.pump
    | (true, t) =>
      match t.gather f with
      | (none, t) => t.pump
      | (some x, t) =>
        let q := odParse true 0 x.body
        if mine q = false then s
        else if t.dom.signalRst ∨ t.sb.up = false then t.odSend m (q.response 5 0 [])
        else t.odHandle m x.body q e

/-! ## The rows of the dictionary -/

/-- A WRITE of `n` subindices from `key`. -/
def odWrites (key : Nat) (n : Nat := 1) (q : OdReq) : Bool := q.op == 2 && decide (key ≤ q.key ∧ q.key < key + n)
/-- A WRITE of `key` whose value satisfies `p`. -/
def odWritesVal (key : Nat) (p : Nat → Bool) (q : OdReq) : Bool := odWrites key 1 q && p (leNat q.value)

/-- `OD_READ`: a READ, and every message that draws MALFORMED for its OP. -/
def execOdRead (m : OdMsg) (e : OdEnv) (s : State) : Res := .next (s.odRow m e fun q => !([2, 3, 0x10, 0x11, 0x21].contains q.op))
/-- `OD_WRITE`. -/
def execOdWrite (m : OdMsg) (e : OdEnv) (s : State) : Res := .next (s.odRow m e fun q => q.op == 2)
/-- `OD_INFO`. -/
def execOdInfo (m : OdMsg) (e : OdEnv) (s : State) : Res := .next (s.odRow m e fun q => q.op == 3)
/-- `HELLO`. -/
def execHello (m : OdMsg) (e : OdEnv) (s : State) : Res := .next (s.odRow m e fun q => q.op == 0x10)
/-- `HEARTBEAT`. -/
def execHeartbeat (m : OdMsg) (e : OdEnv) (s : State) : Res := .next (s.odRow m e fun q => q.op == 0x11)
/-- `NOTICE_ACK`. -/
def execNoticeAck (m : OdMsg) (e : OdEnv) (s : State) : Res := .next (s.odRow m e fun q => q.op == 0x21)
/-- `RTIME_NEXT`. -/
def execRtimeNext (m : OdMsg) (e : OdEnv) (s : State) : Res := .next (s.odRow m e (odWrites D.RTIME_NEXT))
/-- `FLOW_STOP_CLEAR`. -/
def execFlowStopClear (m : OdMsg) (e : OdEnv) (s : State) : Res := .next (s.odRow m e (odWritesVal D.THERM_CLEAR fun v => v % 2 == 1))
/-- `TRIP_CLEAR`. -/
def execTripClear (m : OdMsg) (e : OdEnv) (s : State) : Res := .next (s.odRow m e (odWritesVal D.THERM_CLEAR fun v => v / 2 % 2 == 1))
/-- `GUARD_CLEAR`. -/
def execGuardClear (m : OdMsg) (e : OdEnv) (s : State) : Res := .next (s.odRow m e (odWrites D.GUARD_CLEAR))
/-- `FAULT_ACK`. -/
def execFaultAck (m : OdMsg) (e : OdEnv) (s : State) : Res := .next (s.odRow m e (odWrites D.FAULT_ACK))
/-- `FAULT_CLEAR`. -/
def execFaultClear (m : OdMsg) (e : OdEnv) (s : State) : Res := .next (s.odRow m e (odWrites D.FAULT_CLEAR))
/-- `RECOVERIES_RESET`. -/
def execRecoveriesReset (m : OdMsg) (e : OdEnv) (s : State) : Res := .next (s.odRow m e (odWrites D.RECOVERIES_RESET))
/-- `ACCEPT_REDUCED`. -/
def execAcceptReduced (m : OdMsg) (e : OdEnv) (s : State) : Res := .next (s.odRow m e (odWrites D.ACCEPT_REDUCED))
/-- `TOPO_ACCEPT`. -/
def execTopoAccept (m : OdMsg) (e : OdEnv) (s : State) : Res := .next (s.odRow m e (odWrites D.TOPO_ACCEPT))
/-- `GEOMETRY_EXPECT`. -/
def execGeometryExpect (m : OdMsg) (e : OdEnv) (s : State) : Res := .next (s.odRow m e (odWrites D.GEOMETRY_EXPECT))
/-- `TRAY_NO`. -/
def execTrayNo (m : OdMsg) (e : OdEnv) (s : State) : Res := .next (s.odRow m e (odWrites D.TRAY_NO))
/-- `BGTEST_EN`. -/
def execBgtestEn (m : OdMsg) (e : OdEnv) (s : State) : Res := .next (s.odRow m e (odWrites D.BGTEST_EN))
/-- `LICENCE`. -/
def execLicence (m : OdMsg) (e : OdEnv) (s : State) : Res := .next (s.odRow m e (odWrites D.LICENCE))
/-- `DIE_MARKS`. -/
def execDieMarks (m : OdMsg) (e : OdEnv) (s : State) : Res := .next (s.odRow m e (odWrites D.DIE_MARKS 8))
/-- `FW_HEADER`. -/
def execFwHeader (m : OdMsg) (e : OdEnv) (s : State) : Res := .next (s.odRow m e (odWrites D.FW_HEADER))
/-- `FW_CHUNK`. -/
def execFwChunk (m : OdMsg) (e : OdEnv) (s : State) : Res := .next (s.odRow m e fun q => q.op == 2 && (chunkOf q.key).isSome)
/-- `FW_ABORT`. -/
def execFwAbort (m : OdMsg) (e : OdEnv) (s : State) : Res := .next (s.odRow m e (odWrites D.FW_ABORT))
/-- `ACTIVATE_SIGNAL`. -/
def execActivateSignal (m : OdMsg) (e : OdEnv) (s : State) : Res := .next (s.odRow m e (odWritesVal D.FW_ACTIVATE (· == 1)))
/-- `ACTIVATE_LINE`. -/
def execActivateLine (m : OdMsg) (e : OdEnv) (s : State) : Res := .next (s.odRow m e (odWritesVal D.FW_ACTIVATE (· == 3)))
/-- `ACTIVATE_RUNTIME`. -/
def execActivateRuntime (m : OdMsg) (e : OdEnv) (s : State) : Res := .next (s.odRow m e (odWritesVal D.FW_ACTIVATE (· == 2)))
/-- `ATTEST_NONCE`. -/
def execAttestNonce (m : OdMsg) (e : OdEnv) (s : State) : Res := .next (s.odRow m e (odWrites D.ATTEST_NONCE))
/-- `OWNER_KEY`. -/
def execOwnerKey (m : OdMsg) (e : OdEnv) (s : State) : Res := .next (s.odRow m e (odWrites D.OWNER_KEY))
/-- `GRANT`. -/
def execGrant (m : OdMsg) (e : OdEnv) (s : State) : Res := .next (s.odRow m e (odWrites D.GRANT 15))
/-- `GRANT_MIN_SEQ`. -/
def execGrantMinSeq (m : OdMsg) (e : OdEnv) (s : State) : Res := .next (s.odRow m e (odWrites D.GRANT_MIN_SEQ))
/-- `LICENCE_KEY_CERT`. -/
def execLicenceKeyCert (m : OdMsg) (e : OdEnv) (s : State) : Res := .next (s.odRow m e (odWrites D.LICENCE_KEY_CERT))
/-- `ORPHAN_RELEASE`. -/
def execOrphanRelease (m : OdMsg) (e : OdEnv) (s : State) : Res := .next (s.odRow m e (odWrites D.ORPHAN_RELEASE))

/-! ## Timers and the field port's other answers (R482, R488, R492, R494) -/

/-- Does the signal box run? -/
def State.sbRuns (s : State) : Bool := s.sb.up && !s.dom.signalRst
/-- Does its field port answer at its address? -/
def State.portAnswers (s : State) : Bool := s.sbRuns && !s.sb.dup

/-- `NOTICE_RESEND`: 100 ms have passed, and the notices not acknowledged are sent again. -/
def execNoticeResend (s : State) : Res := .next s.noticesSend

/-- `SEGMENT_TIMEOUT`: no segment for 10 s on path `path` (0 field port, 1 control lane). -/
def execSegmentTimeout (path : Fin 2) (s : State) : Res := .next (if s.sbRuns then s.stage path.val none else s)

/-- `ORPHAN_TIMEOUT`: no valid heartbeat or HELLO for 0x1020:01 seconds. -/
def execOrphanTimeout (s : State) : Res :=
  .next (
    if !s.sbRuns ∨ s.sb.orphan = 1 then s
    else
      let was := s.sb.session
      let cap := s.od D.ORPHAN_CAP_W
      let now := min (s.fget R.PWR_CAPS_OPER_CAP) (min (if s.flag R.PWR_LIMITS_PEAK_EN then s.fget R.PWR_LIMITS_PEAK_W else 0xFFFF)
        (if s.flag R.PWR_LIMITS_AVG_EN then s.fget R.PWR_LIMITS_AVG_W else 0xFFFF))
      let s := if cap = 0 then s.govMod fun g => { g with orphan := now, eOrphan := 100 * now }
        else s.govMod fun g => { g with orphan := cap, eOrphan := min g.eOrphan (100 * pMax) }
      let s := s.fset R.PWR_CAPS_ORPHAN_CAP (wattsUp s.gov.eOrphan)
      let s := s.sbMod fun b => { b with session := 0, kept := vput b.kept 0 [], orphan := 1 }
      (s.sbBump R.SB_EVENTS_ORPHANS R.SB_FLAGS_ORPHANS_OVF).orphanEvent 1 was)

/-- `ICMPV6_ECHO`: an Echo Request to the package's address. -/
def execIcmpv6Echo (src : BitVec 128) (ident seq : BitVec 16) (data : List (BitVec 8)) (s : State) : Res :=
  .next (if s.portAnswers then s.fieldSend (.echoReply src.toNat ident.toNat seq.toNat data) else s)

/-- All nodes of the link, ff02::1. -/
def allNodes : Nat := 0xFF02 * 2 ^ 112 + 1

/-- `NEIGHBOR_SOLICITATION`. One from the unspecified address is another node's duplicate address detection: while the own solicitation
awaits its answer the address is a duplicate and is given up, later the address is defended to all nodes (R482, RFC 4862; log entry 199). -/
def execNeighborSolicitation (src target : BitVec 128) (s : State) : Res :=
  .next (
    if !s.portAnswers ∨ target.toNat ≠ s.linkLocal then s
    else if src.toNat ≠ 0 then s.fieldSend (.advertisement src.toNat s.linkLocal)
    else if s.tentative then s.sbMod fun b => { b with dup := true }
    else s.fieldSend (.advertisement allNodes s.linkLocal))

/-! ## The end of a SIGNAL reset (R22, R298, R427, R434, R480) -/

/-- Entries that return to their default at a SIGNAL reset (R22). DESIGN CHOICE (log entry 167): an RO entry with Persist = no whose default
is what hardware, a fuse or a licence holds keeps its value; one that counts or records since SIGNAL reset returns. -/
def odReturns (key : Nat) : Bool :=
  (dictMap.any fun r => !r.persist && r.acc != .ro && decide (r.key ≤ key ∧ key < r.key + r.count))
    || [D.FAILOVERS, D.MAX_LAG, D.FW_RESULT, D.LIC_REFUSE].contains key

/-- The dictionary after a SIGNAL reset, and the hardware that its entries set. -/
def State.odDefaults (s : State) : State :=
  let s := { s with dict := s.dict.filter fun x => !odReturns x.1 }
  let s := (s.thMod fun t => { t with inletAt := none }).govMod fun g => { g with energyJ := 0 }
  if s.dom.lineRst then s else s.fset R.IL_STATUS_INJECT_EN 0

/-- The notices that each hold one entry while their condition is set are formed where they waited for SIGNAL (R449, R494). -/
def State.noticesDue (s : State) : State :=
  let s := if s.flag R.THERM_STATUS_CUT_REQ then s.notice 1 (leBytes 1 s.therm.stopDie ++ [0] ++ leBytes 2 (s.fget R.THERM_SLOPE_EXCESS))
    else s
  if s.flag R.RESET_STATUS_CYCLE_REQ then s.notice 2 (leBytes 2 s.mgr.cycTarget ++ leBytes 1 5) else s

/-- `SIGNAL_RESET_EXIT`. -/
def execSignalResetExit (s : State) : Res :=
  .next (
    if !s.dom.signalRst ∨ s.dom.powered = false ∨ s.flag R.RESET_STATUS_SB_HELD = true ∨ s.sb.noImage = true then s
    else
      let s := (s.domMod fun d => { d with signalRst := false }).imageMeasured 0
      let s := if s.dom.lineRst then { s with clock := { s.clock with copyValid := false } }
        else { s with clock := { s.clock with copy := s.rtime, copyValid := s.flag R.RTIME_STATUS_RTIME_VALID } }
      let s := ((s.licAgain.odDefaults).sbMod fun b => { b with up := true, upAt := s.clock.run }).noticesDue
      let s := if s.dom.lineRst then s else s.csrPut R.HANG_STATUS 0
      let s := s.event sbSource 0x1181 (leBytes 1 s.sb.cause ++ [0] ++ leBytes 1 s.notices.length ++ [0] ++ leBytes 4 s.sb.before)
      let s := s.ilMod fun x => { x with flash := (x.flash ++ x.waiting).drop ((x.flash ++ x.waiting).length - 64), waiting := [] }
      s.pathsJudged)

end Sys2Proof.Machine
end

