-- ==== Sys2Proof/Machine/I3c.lean ====
section
/-! DEFINITION. The I3C sideband (R495-R497): addresses, CCCs, private transfers, the mirror and its in-band interrupts. It lies in the
always-on partition and answers whenever the package is powered. -/

namespace Sys2Proof.Machine

/-- Change the target while VAON is up. -/
def State.i3cMod (s : State) (f : I3c → I3c) : State := if s.dom.powered then { s with i3c := f s.i3c } else s

/-- The static address: 0x30 + position. -/
def State.staticAddr (s : State) : Nat := 0x30 + s.position

/-- Does an address reach the target: its dynamic address, else its static one as an I2C target? -/
def State.i3cHit (s : State) (a : BitVec 7) : Bool := a.toNat == s.i3c.dyn.getD s.staticAddr

/-- Does a direct CCC to an address, or a broadcast one, reach the target? -/
def State.cccHit (s : State) (a : Option (BitVec 7)) : Bool :=
  match a with
  | none => true
  | some a => s.i3c.dyn == some a.toNat

/-- The answer to a direct CCC. -/
def State.cccAnswer (s : State) (a : BitVec 7) (l : List Byte) : State :=
  if s.cccHit (some a) then s.i3cMod fun x => { x with out := l } else s

/-- The provisional ID, most significant byte first: bits [47:33] from the fuses; the manual states nothing of the others (log entry 16). -/
def State.pid (s : State) : List Byte := (leBytes 6 (s.boot.vendor * 2 ^ 33 + Config.pidLow.toNat)).reverse

/-- The FLAGS bits whose rise raises an IBI. -/
def ibiMask : Nat := 0b111101

/-- `MIRROR_REFRESH`: the mirror is formed whole, and a watched flag that has risen raises an IBI. -/
def execMirrorRefresh (s : State) : Res :=
  .next (
    let s := s.i3cMod fun x => { x with refresh := (x.refresh + 1) % 2 ^ 32 }
    let l := s.snapshot
    let now := s.mirrorFlags
    let rose := (now &&& ibiMask) ||| s.i3c.wasFlags ≠ s.i3c.wasFlags
    s.i3cMod fun x =>
      let x := { x with mirror := l, wasFlags := now &&& ibiMask }
      if x.ibiEn ∧ rose then { x with ibi := some (now % 256), raised := x.raised + 1 } else x)

/-- `IBI_RETRY`: the last IBI was not acknowledged, and the bus is free. -/
def execIbiRetry (s : State) : Res :=
  .next (if s.i3c.ibiEn ∧ s.i3c.ibi.isSome then s.i3cMod fun x => { x with raised := x.raised + 1 } else s)

/-- `I3C_PRIVATE_WRITE`. -/
def execI3cPrivateWrite (a : BitVec 7) (l : List (BitVec 8)) (s : State) : Res :=
  .next (
    match l with
    | b :: _ => if s.i3cHit a then s.i3cMod fun x => { x with ptr := b.toNat % 64 } else s
    | [] => s)

/-- `I3C_PRIVATE_READ` of `n` bytes. -/
def execI3cPrivateRead (a : BitVec 7) (n : Fin 65) (s : State) : Res :=
  .next (
    if s.i3cHit a then
      s.i3cMod fun x => { x with out := (List.range n.val).map fun i => x.mirror.getD ((x.ptr + i) % 64) 0 }
    else s)

/-- `SETDASA`: the target at a static address takes a dynamic one. -/
def execSetdasa (static dyn : BitVec 7) (s : State) : Res :=
  .next (if static.toNat = s.staticAddr ∧ s.i3c.dyn = none then s.i3cMod fun x => { x with dyn := some dyn.toNat } else s)

/-- `ENTDAA`: the target sends its PID, BCR and DCR and takes the address assigned. -/
def execEntdaa (dyn : BitVec 7) (s : State) : Res :=
  .next (if s.i3c.dyn = none then s.i3cMod fun x => { x with dyn := some dyn.toNat, out := s.pid ++ [0x06, 0x00] } else s)

/-- `RSTDAA`. -/
def execRstdaa (s : State) : Res := .next (s.i3cMod fun x => { x with dyn := none })

/-- `SETNEWDA`. -/
def execSetnewda (a dyn : BitVec 7) (s : State) : Res :=
  .next (if s.cccHit (some a) then s.i3cMod fun x => { x with dyn := some dyn.toNat } else s)

/-- `ENEC`: bit 0 of the event byte enables IBIs. -/
def execEnec (a : Option (BitVec 7)) (events : BitVec 8) (s : State) : Res :=
  .next (if s.cccHit a ∧ events.getLsbD 0 = true then s.i3cMod fun x => { x with ibiEn := true } else s)

/-- `DISEC`. -/
def execDisec (a : Option (BitVec 7)) (events : BitVec 8) (s : State) : Res :=
  .next (if s.cccHit a ∧ events.getLsbD 0 = true then s.i3cMod fun x => { x with ibiEn := false } else s)

/-- `GETPID`. -/
def execGetpid (a : BitVec 7) (s : State) : Res := .next (s.cccAnswer a s.pid)
/-- `GETBCR`. -/
def execGetbcr (a : BitVec 7) (s : State) : Res := .next (s.cccAnswer a [0x06])
/-- `GETDCR`. -/
def execGetdcr (a : BitVec 7) (s : State) : Res := .next (s.cccAnswer a [0x00])
/-- `GETMWL`, most significant byte first. -/
def execGetmwl (a : BitVec 7) (s : State) : Res := .next (s.cccAnswer a [0, 1])
/-- `GETMRL`. -/
def execGetmrl (a : BitVec 7) (s : State) : Res := .next (s.cccAnswer a [0, 64])
/-- `GETSTATUS`: the manual states no contents of its two bytes: a free value (log entry 16). -/
def execGetstatus (a : BitVec 7) (s : State) : Res :=
  .next (
    if s.cccHit (some a) then
      let (v, s) := s.draw
      s.cccAnswer a (leBytes 2 v.toNat)
    else s)

end Sys2Proof.Machine
end

