-- ==== Sys2Proof/Machine/Csr.lean ====
section
/-! DEFINITION. Reads and writes of the control space (R14-R18, R33, R36-R40) as its register tables describe them, the control-lane
requests that carry them, mailbox words, doorbells and result-window reads on the control lane (R197-R202, R211), and the register
reads of a junction switch (R39, R308). -/

namespace Sys2Proof.Machine

/-! ## Accesses (R38) -/

/-- The bits of a register that an access of 4 or 8 bytes covers. -/
def laneBits (off size : Nat) : Word :=
  if size = 8 then BitVec.ofNat 64 (2 ^ 64 - 1) else if off % 8 = 0 then BitVec.ofNat 64 (2 ^ 32 - 1)
  else BitVec.ofNat 64 ((2 ^ 32 - 1) * 2 ^ 32)

/-- Data of an access, at the bits it covers. -/
def placed (off size : Nat) (v : Word) : Word :=
  if size = 8 then v else if off % 8 = 0 then BitVec.ofNat 64 (v.toNat % 2 ^ 32) else BitVec.ofNat 64 (v.toNat % 2 ^ 32 * 2 ^ 32)

/-- The bits of a field. -/
def fieldBits (f : FieldRow) : Word := BitVec.ofNat 64 ((2 ^ (f.hi - f.lo + 1) - 1) * 2 ^ f.lo)

/-- The bits of fields of some access codes. -/
def accBits (r : RegRow) (p : Acc → Bool) : Word :=
  r.fields.foldl (fun w f => if p f.acc then w ||| fieldBits f else w) 0

/-- What a write of `v` under the mask `m` leaves in a register without behaviour of its own (R14, R16): RW and WO fields are set,
W1C bits clear, every other bit stays. -/
def plainWrite (r : RegRow) (old v m : Word) : Word :=
  let k := accBits r (fun a => a == .rw || a == .wo) &&& m
  let c := accBits r (· == .w1c) &&& m &&& v
  ((old &&& ~~~k) ||| (v &&& k)) &&& ~~~c

/-- The register an access reaches, or the status that refuses it: a hole, an odd size or place (R36, R38), reset (R33). -/
def State.regAt (s : State) (off size : Nat) : Except Nat RegRow :=
  if (size ≠ 4 ∧ size ≠ 8) ∨ off % size ≠ 0 ∨ 2 ^ 32 ≤ off then .error 1
  else
    match findReg (off - off % 8) with
    | none => .error 1
    | some r => if s.dom.lineRst ∨ (inWorks off ∧ s.dom.worksRst = true) then .error 2 else .ok r

/-- A refused access of a source; ADDRESS_ERROR is reported as an address fault (R36). -/
def State.csrFault (s : State) (source off c : Nat) : State :=
  if c = 1 then s.addrFault source (s.globalAddr (0x18000000000 + off)) 1 else s

/-! ## Reads -/

/-- STATE of a ring (R213, R243): 0 OFF, 1 IDLE, 2 RUN, 3 HELD, 4 STOPPED. -/
def State.ringState (s : State) (r : Nat) : Nat :=
  if !s.rflag r R.RING_CFG_EN then 0
  else if s.ringStopped r then 4
  else if (s.ring r).run.isSome then 2
  else
    match s.ringHead r with
    | some (_, w) => if s.gate r w = .held then 3 else 1
    | none => 1

/-- The fenced tiles of `FENCE_TILES`k (R453). -/
def State.fencedTiles (s : State) (k : Nat) : Nat :=
  ((List.range 64).map fun i => if s.tileState (64 * k + i) = 5 then 2 ^ i else 0).foldl (· + ·) 0

/-- Milliseconds the quiet timer has run (R432); 0 while it does not run. -/
def State.quietMs (s : State) : Nat :=
  if s.flag R.IL_STATUS_QUIET_RUN then min ((s.clock.run - s.il.quietAt) / 1000000) 0xFFFFFFFF else 0

/-- `SB_STATUS` (R502). -/
def State.sbStatus (s : State) : Nat :=
  (if s.dom.signalRst then 0 else s.sb.session * 2 ^ 32) + s.notices.length * 2 ^ 16 + s.sb.orphan % 4 * 2 ^ 10
    + (if s.sb.hello ∧ s.dom.signalRst = false then 2 ^ 9 else 0) + (if s.sb.up then 2 ^ 8 else 0)

/-- The word of a register whose fields in part show state held elsewhere; every other register's word as it is held. -/
def State.shown (s : State) (r : RegRow) (off : Nat) : Word :=
  let w := s.csrGet off
  let d := off - r.base
  let put := fun (f : Fld) (v : Nat) => setBits w f.lo f.w v
  let b := r.base
  if b = R.SB_STATUS then BitVec.ofNat 64 s.sbStatus
  else if b = R.BOOT_BG then (if s.flag R.BOOT_STATUS_BG_RUN then put R.BOOT_BG_BG_PCT s.bgPct else w)
  else if b = R.IL_RECOVERY then
    setBits (put R.IL_RECOVERY_HOUR_EXITS (min s.hourExits 255)) R.IL_RECOVERY_QUIET_MS.lo R.IL_RECOVERY_QUIET_MS.w s.quietMs
  else if b = R.FENCE_TILES then BitVec.ofNat 64 (s.fencedTiles (d / 8))
  else if b = R.TSENSE then put R.TSENSE_GUARD (if (sensorGuard (d / 8)).isSome then 1 else 0)
  else if b = R.PORT_CTL then (if s.portLicensed (d / 0x100000) then w else put R.PORT_CTL_EN 0)
  else if b = R.DW_EVQ then put R.DW_EVQ_DEPTH (min (s.dw.evq.length + s.dw.evSent.length) 256)
  else if b = R.RING_STATUS then put R.RING_STATUS_STATE (s.ringState (d / 0x100))
  else if b = R.TILE_DMA then BitVec.ofNat 64 (s.tileDma (d / 0x10000000 * 48 + d % 0x10000000 / 0x10000))
  else w

/-- Values that nothing in the manual determines are free: the estimate SNR of a lane that holds lock, and how many adapter retries of a
pair of dies came since its register was last read: they join the event counter RETRIES, which the read then clears (log entry 17). -/
def State.measured (s : State) (r : RegRow) (off : Nat) (w : Word) : Word × State :=
  if r.base = R.LN_STATUS ∧ getBits w R.LN_STATUS_LOCKED.lo 1 = 1 then
    let (v, s) := s.draw
    (setBits w R.LN_STATUS_SNR.lo R.LN_STATUS_SNR.w v.toNat, s)
  else if r.base = R.UCIE_STATUS then
    let (v, s) := s.draw
    let d := off - R.UCIE_STATUS
    let s := s.bump (R.UCIE_STATUS_RETRIES.at d) (R.UCIE_STATUS_RETRY_OVF.at d) (v.toNat % 2 ^ 32)
    (s.csrGet off, s)
  else (w, s)

/-- The read of a source's bucket is noted, with what it held. -/
def State.noteRead (s : State) (c : Nat) : State :=
  let x := (c, s.fget (R.IL_BUCKET_LEVEL.at (8 * c)), s.flag (R.IL_BUCKET_FULL.at (8 * c)), s.clock.run)
  { s with il := { s.il with readAt := some x } }

/-- What reading the bits of `m` leaves in a register: RC fields at 0 (R14); a bucket that is read is full no longer (R431), and a
source's bucket notes the read, with which its next message may fall together (R421). -/
def State.afterRead (s : State) (r : RegRow) (off : Nat) (m : Word) : State :=
  let k := accBits r (· == .rc) &&& m
  if k = 0 then s
  else
    let k := if r.base = R.IL_BUCKET then k ||| BitVec.ofNat 64 (2 ^ 32) else k
    let s := if r.base = R.ECC_BUCKET then { s with ceFull := vput s.ceFull ((off - r.base) / 0x1000000) false }
      else if r.base = R.SP_BUCKET then { s with ceFull := vput s.ceFull (8 + (off - r.base) / 0x10000000) false }
      else if r.base = R.IL_BUCKET then s.noteRead ((off - r.base) / 8) else s
    s.csrPut off (s.csrGet off &&& ~~~k)

/-- Is a read answered TARGET_IN_RESET by the unit behind it: the evidence buffer of a device in a WORKS reset or fenced (R453)? -/
def State.evShut (s : State) (r : RegRow) : Bool :=
  r.base == R.EV_DATA && (s.dom.worksRst || s.unitFenced R.FENCE_UNITS_MD (s.fget R.EV_SEL_DEVICE))

/-- A read of a register: the word with its WO and reserved bits 0, and the state after it. -/
def State.readReg (s : State) (r : RegRow) (off : Nat) (m : Word) : Word × State :=
  let (w, s) := s.measured r off (s.shown r off)
  (w &&& accBits r (· != .wo), s.afterRead r off m)

/-- A read of `EV_DATA`: bytes of the selected page of the evidence buffer; DATA_ERROR where one reads UNCORRECTABLE (R171, R453). -/
def State.evData (s : State) (off size : Nat) : Nat × Word × State :=
  let (l, s) := s.evRead (s.fget R.EV_SEL_DEVICE) (4096 * s.fget R.EV_SEL_PAGE + (off - R.EV_DATA)) size
  match allSome l with
  | some l => (0, BitVec.ofNat 64 (leNat l), s)
  | none => (3, 0, s)

/-- A read of the control space by a source of faults; a party takes a token by reading it (R14, R260). -/
def State.csrRead (s : State) (source : Nat) (src : Option Party) (off size : Nat) : Nat × Word × State :=
  match s.regAt off size with
  | .error c => (c, 0, s.csrFault source off c)
  | .ok r =>
    let a := off - off % 8
    let m := laneBits off size
    let give := fun (x : Word × State) =>
      (0, (if off % 8 = 0 then x.1 &&& m else BitVec.ofNat 64 (x.1.toNat / 2 ^ 32)), x.2)
    if s.evShut r then (2, 0, s)
    else if r.base = R.EV_DATA then s.evData off size
    else
      match src with
      | some p => if r.base = R.TOKEN ∧ m.getLsbD 0 then give (s.tokenTake p ((a - R.TOKEN) / 8)) else give (s.readReg r a m)
      | none => give (s.readReg r a m)

/-! ## Writes -/

/-- A write to a register: who writes, its row, its offset, the data and the bits that the access covers; `recheck` is what a check
of the interlock after a software clear finds (R429). -/
structure RegWrite where
  src     : Party
  row     : RegRow
  off     : Nat
  v       : Word
  m       : Word
  recheck : Nat

/-- Does the access cover the low half? -/
def RegWrite.lo (w : RegWrite) : Bool := w.m.getLsbD 0
/-- Does the access cover the high half? -/
def RegWrite.hi (w : RegWrite) : Bool := w.m.getLsbD 32
/-- The data as a number. -/
def RegWrite.n (w : RegWrite) : Nat := w.v.toNat
/-- The copy's place past the first copy. -/
def RegWrite.d (w : RegWrite) : Nat := w.off - w.row.base
/-- A written bit. -/
def RegWrite.bit (w : RegWrite) (i : Nat) : Bool := w.m.getLsbD i && w.v.getLsbD i

/-- The register as R14 leaves it. -/
def State.plain (s : State) (w : RegWrite) : State := s.csrPut w.off (plainWrite w.row (s.csrGet w.off) w.v w.m)

/-- A write refused under R17 by a register with no error status of its own (R17, R40). -/
def State.deny (s : State) (w : RegWrite) : Nat × State := (7, s.csrRefuse w.src w.off)

/-- The worse of two statuses. -/
def worse (a b : Nat) : Nat := if a = 0 then b else a

/-- `IL_CTL` (R424, R425, R432). -/
def State.writeIlCtl (s : State) (w : RegWrite) : Nat × State :=
  if w.src ≠ .signalBox then (7, s)
  else
    let (a, s) := if w.bit 1 then s.faultAck else (true, s)
    let (c, s) := if w.bit 0 then s.softwareClear w.recheck else (true, s)
    (if a ∧ c then 0 else 7, s)

/-- `FENCE_REQ` (R453). -/
def State.writeFenceReq (s : State) (w : RegWrite) : State :=
  let c := nbits w.n 15 0
  fenceAnswer c (if w.bit 16 then s.liftRequest c else s.fenceRequest c (w.bit 17))

/-- Registers of the interlock and of the manager that act. -/
def State.writeFault (s : State) (w : RegWrite) : Option (Nat × State) :=
  let b := w.row.base
  if b = R.IL_CTL then some (s.writeIlCtl w)
  else if b = R.IL_INJECT then some (s.ilInject w.v)
  else if b = R.IL_FIRST ∨ b = R.IL_FIRST_CRIT then
    some (0, if w.d = 0 ∧ w.bit 0 then s.csrPut w.off (s.csrGet w.off &&& ~~~1) else s)
  else if b = R.FENCE_REQ then some (0, if w.lo then s.writeFenceReq w else s)
  else if b = R.RESET_REQ then
    let k := nbits w.n 3 0
    some (if !w.lo then (0, s) else if 1 ≤ k ∧ k ≤ 4 then (0, s.requestReset k) else s.deny w)
  else if b = R.FW_BEAT then some (s.fwBeat w.src)
  else none

/-- `PORT_CTL` (R303). -/
def State.writePortCtl (s : State) (w : RegWrite) : State :=
  if !w.lo then s
  else
    let p := w.d / 0x100000
    let s := s.fset (R.PORT_CTL_LANE_DISABLE.at w.d) (nbits w.n 11 8)
    let s := if w.bit 1 then s.retrain p else s
    if w.bit 0 == s.flag (R.PORT_CTL_EN.at w.d) then s else s.portEn p (w.bit 0)

/-- `DW_CTL` (R212): RESUME_MS outside 10 to 1,000 is reserved. DESIGN CHOICE (log entry 168): the other fields of a write whose
RESUME_MS is refused take effect, though the write is answered DENIED (R17). -/
def State.writeDwCtl (s : State) (w : RegWrite) : Nat × State :=
  if !w.lo then (0, s)
  else
    let ms := nbits w.n 15 4
    let (c, s) := if 10 ≤ ms ∧ ms ≤ 1000 then (0, s.fset R.DW_CTL_RESUME_MS ms) else s.deny w
    let s := if w.bit 2 then s.fresh 0 else s
    let s := if w.bit 3 then s.fresh 1 else s
    let s := if w.bit 0 == s.laneEn 0 then s else s.laneEnable 0 (w.bit 0)
    (c, if w.bit 1 == s.laneEn 1 then s else s.laneEnable 1 (w.bit 1))

/-- Bits 127:96 of a mask of `REACH` and of `MCG` are reserved (R322, R328); a mask of `MCG` changes whole (R323). -/
def State.writeMask (s : State) (w : RegWrite) : State :=
  let s := if w.row.base = R.MCG then s.mcgWrite (w.d / 16) (w.d / 8 % 2) else s
  let s := s.plain w
  if w.d / 8 % 2 = 1 then s.csrPut w.off (BitVec.ofNat 64 ((s.csrGet w.off).toNat % 2 ^ 32)) else s

/-- Registers of the router, the ports and the Dwente port that act. -/
def State.writeFabric (s : State) (w : RegWrite) : Option (Nat × State) :=
  let b := w.row.base
  if b = R.POINTS then
    let v := (s.csrGet w.off &&& ~~~w.m) ||| (w.v &&& w.m)
    some (if nbits v.toNat 62 19 ≠ 0 then 7 else 0, s.writePoints w.src (w.d / 8) v)
  else if b = R.REACH ∨ b = R.MCG then some (0, s.writeMask w)
  else if b = R.ROUTE_CTL then some (0, if w.bit 1 then (s.plain w).clearExclude else s.plain w)
  else if b = R.PORT_CTL then some (0, s.writePortCtl w)
  else if b = R.DW_CTL then some (s.writeDwCtl w)
  else none

/-- `MQ_CTL` (R247). -/
def State.writeMqCtl (s : State) (w : RegWrite) : Nat × State :=
  let n := w.d / 0x1000
  let dir := w.d % 0x1000 / 0x800
  let (a, s) := if w.bit 1 then s.mqDiscard n dir w.src else (0, s)
  let (c, s) := if w.bit 0 then s.mqSend n dir w.src else (0, s)
  (worse a c, s)

/-- Registers of the mailbox block that act. -/
def State.writeMail (s : State) (w : RegWrite) : Option (Nat × State) :=
  let b := w.row.base
  let n := w.d / 0x1000
  let dir := w.d % 0x1000 / 0x800
  if b = R.MQ_PUSH then some (s.mqPush n dir w.src w.v)
  else if b = R.MQ_CTL then some (s.writeMqCtl w)
  else if b = R.MQ_STATUS ∧ !s.mqSends dir w.src ∧ !s.mqReceives dir w.src then some (7, s)
  else if b = R.MQ_ACK then some (if w.lo then s.mqAck n dir w.src (nbits w.n 31 16) (nbits w.n 15 0) else (0, s))
  else if b = R.DB_MASK then some (0, if w.lo then s.writeDbMask (nbits w.n 31 0) else s)
  else if b = R.TOKEN_REL then some (if w.lo then s.tokenRel w.src (nbits w.n 5 0) else (0, s))
  else if b = R.RC_BEAT then some (s.rcBeat w.src)
  else none

/-- `RING_BASE` and `RING_PERIOD`: fixed while the ring is enabled; a PERIOD outside 10 to 10,000,000 is reserved (R243). -/
def State.writeRingFixed (s : State) (w : RegWrite) (r : Nat) : State :=
  let t := s.plain w
  if t.csrGet w.off = s.csrGet w.off then s
  else if s.rflag r R.RING_CFG_EN then s.cfgErr r
  else if w.row.base = R.RING_PERIOD ∧ (t.rf r R.RING_PERIOD_PERIOD < 10 ∨ 10000000 < t.rf r R.RING_PERIOD_PERIOD) then s.cfgErr r
  else t

/-- Registers of the ring block that act. -/
def State.writeRing (s : State) (w : RegWrite) : Option (Nat × State) :=
  let b := w.row.base
  let r := w.d / 0x100
  if b = R.RING_BASE ∨ b = R.RING_PERIOD then some (0, s.writeRingFixed w r)
  else if b = R.RING_CFG then some (0, if w.lo then s.writeRingCfg r (nbits w.n 31 0) else s)
  else if b = R.RING_IDX then some (0, if w.hi then s.writeRdIdx r (nbits w.n 63 32) else s)
  else if b = R.RING_WR then some (0, if w.lo then s.writeWrIdx r (nbits w.n 31 0) else s)
  else if b = R.DOORBELL then some (0, if w.lo then s.writeWrIdx (w.d / 8) (nbits w.n 31 0) else s)
  else none

/-- A write of a trigger counter: its VALUE, and ABORTED and BROKEN clear (R360). -/
def State.writeCtr (s : State) (w : RegWrite) : State :=
  let s := s.plain w
  if w.lo then (s.fset (R.CTR_ABORTED.at w.d) 0).fset (R.CTR_BROKEN.at w.d) 0 else s

/-- `WE_POST_CTL` (R137, R151). -/
def State.writeWePostCtl (s : State) (w : RegWrite) : State :=
  let n := w.d / 0x1000000
  let s := if w.bit 1 then s.weClear n else s
  if w.bit 0 then (s.wePost n true (s.wePostRegs n)).2 else s

/-- Registers of the dies and the base dies that act. -/
def State.writeDie (s : State) (w : RegWrite) : Option (Nat × State) :=
  let b := w.row.base
  if b = R.CTR then some (0, s.writeCtr w)
  else if b = R.SCRUB_CTL then
    let (bad, s) := s.writeScrubCtl w.src (w.d / 0x1000000) w.v w.m
    some (if bad then 7 else 0, s)
  else if b = R.WE_POST_CTL then some (0, s.writeWePostCtl w)
  else none

/-- A write of a register: its own behaviour, or its fields by access code. -/
def State.writeReg (s : State) (w : RegWrite) : Nat × State :=
  match s.writeFault w with
  | some r => r
  | none =>
    match s.writeFabric w with
    | some r => r
    | none =>
      match s.writeMail w with
      | some r => r
      | none =>
        match s.writeRing w with
        | some r => r
        | none =>
          match s.writeDie w with
          | some r => r
          | none => (0, s.plain w)

/-- A write of the control space by a party: its status of R198 and the state after it. -/
def State.csrWrite (s : State) (src : Party) (off size : Nat) (v : Word) (recheck : Nat) : Nat × State :=
  match s.regAt off size with
  | .error c => (c, s.csrFault (partySource src) off c)
  | .ok r => s.writeReg ⟨src, r, off - off % 8, placed off size v, laneBits off size, recheck⟩

/-- `CSR_WRITE`: a party's write of `v` at an offset of the control space, of 8 bytes or of 4. -/
def execCsrWrite (src : Party) (off : BitVec 32) (wide : Bool) (v : BitVec 64) (recheck : Fin 4) (s : State) : Res :=
  .next (if s.partyUp src then (s.csrWrite src off.toNat (if wide then 8 else 4) v recheck.val).2 else s)

/-! ## Requests on the control lane (R197-R199, R211) -/

/-- The offset in the control space that a request names, or a place outside it. -/
def csrPlace (f : FlitIn) : Nat :=
  let a := bodyNat f 0 8
  if 0x18000000000 ≤ a ∧ a < 0x18100000000 then a - 0x18000000000 else 2 ^ 64
/-- The size that a request names. -/
def csrSize (f : FlitIn) : Nat := bodyNat f 8 1

/-- A control-lane access that names no register of the control space. -/
def State.laneHole (s : State) (f : FlitIn) : State := s.addrFault 0x0400 (s.globalAddr (bodyNat f 0 8)) 1

/-- `CSR_RD`. A size other than 4 or 8 is a body outside R197 (DEDUCED, log entry 53). -/
def execCsrRd (f : FlitIn) (s : State) : Res :=
  .next (s.clRow f 1 fun s m =>
    if m.flits ≠ 1 ∨ fLen f ≠ 9 ∨ (csrSize f ≠ 4 ∧ csrSize f ≠ 8) then s.malformed f
    else if csrPlace f = 2 ^ 64 then (s.laneHole f).respond f 3 [csrRsp 1 0]
    else
      let (c, w, s) := s.csrRead 0x0400 (some .node) (csrPlace f) (csrSize f)
      s.respond f 3 [csrRsp c w])

/-- A write of the control lane takes the lane down: its answer goes out first (R212). -/
def darkens (off : Nat) (v : Word) : Bool := off == R.DW_CTL && !v.getLsbD 0

/-- `CSR_WR`. -/
def execCsrWr (f : FlitIn) (s : State) : Res :=
  .next (s.clRow f 2 fun s m =>
    let v := BitVec.ofNat 64 (bodyNat f 16 8)
    if m.flits ≠ 1 ∨ fLen f ≠ 24 ∨ (csrSize f ≠ 4 ∧ csrSize f ≠ 8) then s.malformed f
    else if csrPlace f = 2 ^ 64 then (s.laneHole f).respond f 3 [csrRsp 1 0]
    else
      let r := s.csrWrite .node (csrPlace f) (csrSize f) v 0
      if darkens (csrPlace f) v then ((s.respond f 3 [csrRsp r.1 0]).pump.csrWrite .node (csrPlace f) (csrSize f) v 0).2
      else r.2.respond f 3 [csrRsp r.1 0])

/-- `POSTED_IN_RESET` (R202, R211). -/
def State.postedInReset (s : State) (type n index : Nat) : State :=
  s.event 0x0400 0x0682 (leBytes 1 type ++ leBytes 1 n ++ [0, 0] ++ leBytes 4 index)

/-- `MBX`: the words join the inbound queue; a body outside R197 is discarded. -/
def execMbx (f : FlitIn) (s : State) : Res :=
  .next (s.clRow f 4 fun s m =>
    let n := bodyNat f 0 1
    let k := bodyNat f 1 1
    if m.flits ≠ 1 ∨ 7 < n ∨ k = 0 ∨ 5 < k ∨ fLen f < 8 + 8 * k then s
    else if s.dom.worksRst then s.postedInReset 4 n 0
    else (List.range k).foldl (fun s i => s.mqPushWord n 0 (BitVec.ofNat 64 (bodyNat f (8 + 8 * i) 8))) s)

/-- `DOORBELL`: the index is written to the ring's doorbell; a body outside R197 is discarded. -/
def execDoorbell (f : FlitIn) (s : State) : Res :=
  .next (s.clRow f 5 fun s m =>
    let r := bodyNat f 0 1
    if m.flits ≠ 1 ∨ 63 < r ∨ fLen f < 8 then s
    else if s.dom.worksRst then s.postedInReset 5 r (bodyNat f 4 4)
    else s.writeWrIdx r (bodyNat f 4 4))

/-- The bodies of an `RW_RSP`. -/
def rwBodies (status ready epoch : Nat) (data : List Byte) : List (List Byte) :=
  chunk52 80 (leBytes 1 status ++ leBytes 1 ready ++ [0, 0] ++ leBytes 4 epoch ++ data)

/-- A read of a result window: status, READY, EPOCH, the bytes (R197, R200, R238, R239). -/
def State.windowRead (s : State) (i off n : Nat) : (Nat × Nat × Nat × List Byte) × State :=
  if s.dom.worksRst then ((2, 0, 0, []), s)
  else
    match tget winDflt s.windows i with
    | none => ((1, 0, 0, []), s)
    | some v =>
      match vget none s.regions v.region with
      | none => ((1, 0, 0, []), s)
      | some g =>
        let a := g.base + v.off + off
        if v.len < off + n then ((1, 0, 0, []), s)
        else if s.fencedAddr (s.commitAddr a) then ((2, 0, 0, []), s)
        else
          let (l, s) := s.readCommitted ⟨0, 3, 0x0400⟩ a n
          match allSome l with
          | some l => ((0, (if v.target ≤ s.epochC then 1 else 0), s.epochC, l), s)
          | none => ((3, 0, 0, []), s)

/-- `RW_READ`. -/
def execRwRead (f : FlitIn) (s : State) : Res :=
  .next (s.clRow f 8 fun s m =>
    let n := bodyNat f 8 2
    if m.flits ≠ 1 ∨ fLen f ≠ 10 ∨ n = 0 ∨ 4096 < n then s.malformed f
    else
      let ((c, y, e, l), s) := s.windowRead (bodyNat f 0 2) (bodyNat f 4 4) n
      s.respond f 9 (rwBodies c y e l))

/-! ## Register reads of a junction switch (R39, R308) -/

/-- Blocks that a junction switch reads: the router, the fabric ports and the coupling ports (R37, R39). -/
def switchMayRead (off : Nat) : Bool :=
  decide (0x03000000 ≤ off ∧ off < 0x04000000) || (decide (0x04000000 ≤ off ∧ off < 0x06000000))

/-- `CSR_RD` in TC3, from a junction switch. -/
def execTc3CsrRd (k : Fin 19) (s : State) : Res :=
  .next (s.packetRow k.val 7 fun s p =>
    let a := pkAddr p
    let n := leNat (p.payload.take 4)
    let source := s.pkSource k.val p
    if pkTc p = 3 ∧ 0xF00 ≤ pkSrc p ∧ pkSrc p ≤ 0xF0F ∧ 0x18000000000 ≤ a ∧ switchMayRead (a - 0x18000000000) then
      let (c, w, s) := s.csrRead source none (a - 0x18000000000) n
      s.answer p 8 c (leBytes 8 w.toNat)
    else (s.addrFault source (s.globalAddr a) 1).answer p 8 1 (leBytes 8 0))

/-! ## Codewords (R189, R279) -/

/-- `UNDECODABLE_CODEWORD`: on a lane of the Dwente port, or on a lane of a fabric or coupling port. -/
def execUndecodableCodeword (l : LaneWord) (s : State) : Res :=
  .next (
    match l.lane with
    | .inl k => (s.dwBadWord k.val l.word).pump
    | .inr (p, k) => s.portBadWord p.val k.val l.word)

end Sys2Proof.Machine
end

