-- ==== Sys2Proof/Machine/Dispatch.lean ====
section
/-! DEFINITION. The meaning of every command: one direct call per constructor. -/

namespace Sys2Proof.Machine

/-- The effect of a command on everything but the queue. -/
def exec (i : Instr) (s : State) : Host.Outcome State Fault Refusal :=
  match i with
  | .dispatchArrive p seq entry a1 a2 a3 => Sys2Proof.Machine.execDispatchArrive p seq entry a1 a2 a3 s
  | .nop p => Sys2Proof.Machine.execNop p s
  | .halt p => Sys2Proof.Machine.execHalt p s
  | .haltDone p => Sys2Proof.Machine.execHaltDone p s
  | .jmp p => Sys2Proof.Machine.execJmp p s
  | .bnz p => Sys2Proof.Machine.execBnz p s
  | .bz p => Sys2Proof.Machine.execBz p s
  | .gset p => Sys2Proof.Machine.execGset p s
  | .gadd p => Sys2Proof.Machine.execGadd p s
  | .fence p => Sys2Proof.Machine.execFence p s
  | .fenceWaitEnd p => Sys2Proof.Machine.execFenceWaitEnd p s
  | .berthSub p => Sys2Proof.Machine.execBerthSub p s
  | .berthCpy p => Sys2Proof.Machine.execBerthCpy p s
  | .berthClr p => Sys2Proof.Machine.execBerthClr p s
  | .mma p => Sys2Proof.Machine.execMma p s
  | .mmaCfg p => Sys2Proof.Machine.execMmaCfg p s
  | .vadd p => Sys2Proof.Machine.execVadd p s
  | .vsub p => Sys2Proof.Machine.execVsub p s
  | .vmul p => Sys2Proof.Machine.execVmul p s
  | .vfma p => Sys2Proof.Machine.execVfma p s
  | .vmax p => Sys2Proof.Machine.execVmax p s
  | .vmin p => Sys2Proof.Machine.execVmin p s
  | .vcvt p => Sys2Proof.Machine.execVcvt p s
  | .vrcp p => Sys2Proof.Machine.execVrcp p s
  | .vsqrt p => Sys2Proof.Machine.execVsqrt p s
  | .vrsq p => Sys2Proof.Machine.execVrsq p s
  | .vexp2 p => Sys2Proof.Machine.execVexp2 p s
  | .vlog2 p => Sys2Proof.Machine.execVlog2 p s
  | .vred p => Sys2Proof.Machine.execVred p s
  | .xadd p => Sys2Proof.Machine.execXadd p s
  | .vsel p => Sys2Proof.Machine.execVsel p s
  | .vmov p => Sys2Proof.Machine.execVmov p s
  | .dmaCopy p => Sys2Proof.Machine.execDmaCopy p s
  | .dmaCopy2 p => Sys2Proof.Machine.execDmaCopy2 p s
  | .dmaTransferStart p e => Sys2Proof.Machine.execDmaTransferStart p e s
  | .dmaTransferDone p e => Sys2Proof.Machine.execDmaTransferDone p e s
  | .dmaHalt p e => Sys2Proof.Machine.execDmaHalt p e s
  | .ctrAdd p => Sys2Proof.Machine.execCtrAdd p s
  | .ctrWait p => Sys2Proof.Machine.execCtrWait p s
  | .ctrWaitRelease p => Sys2Proof.Machine.execCtrWaitRelease p s
  | .ctrSet p => Sys2Proof.Machine.execCtrSet p s
  | .collStart p => Sys2Proof.Machine.execCollStart p s
  | .mmaRs p => Sys2Proof.Machine.execMmaRs p s
  | .mmaAg p => Sys2Proof.Machine.execMmaAg p s
  | .mmaA2a p => Sys2Proof.Machine.execMmaA2a p s
  | .wePostGo n src => Sys2Proof.Machine.execWePostGo n src s
  | .weClear n src => Sys2Proof.Machine.execWeClear n src s
  | .gather n => Sys2Proof.Machine.execGather n s
  | .embedBag n => Sys2Proof.Machine.execEmbedBag n s
  | .scatterAdd n => Sys2Proof.Machine.execScatterAdd n s
  | .elemwise n => Sys2Proof.Machine.execElemwise n s
  | .reduce n => Sys2Proof.Machine.execReduce n s
  | .attnDecode n => Sys2Proof.Machine.execAttnDecode n s
  | .quantMx n => Sys2Proof.Machine.execQuantMx n s
  | .dequantMx n => Sys2Proof.Machine.execDequantMx n s
  | .topk n => Sys2Proof.Machine.execTopk n s
  | .compact n => Sys2Proof.Machine.execCompact n s
  | .weDescDone n => Sys2Proof.Machine.execWeDescDone n s
  | .weError n => Sys2Proof.Machine.execWeError n s
  | .epochApply n => Sys2Proof.Machine.execEpochApply n s
  | .optSgdm n => Sys2Proof.Machine.execOptSgdm n s
  | .optAdamw n => Sys2Proof.Machine.execOptAdamw n s
  | .applied n => Sys2Proof.Machine.execApplied n s
  | .burstCrcFail n ch first => Sys2Proof.Machine.execBurstCrcFail n ch first s
  | .eccBucketDrain => Sys2Proof.Machine.execEccBucketDrain s
  | .scrubGo n src v => Sys2Proof.Machine.execScrubGo n src v s
  | .scrubStop n src => Sys2Proof.Machine.execScrubStop n src s
  | .scrubGroup n => Sys2Proof.Machine.execScrubGroup n s
  | .scrubDone n => Sys2Proof.Machine.execScrubDone n s
  | .refresh n => Sys2Proof.Machine.execRefresh n s
  | .dwLock l cws => Sys2Proof.Machine.execDwLock l cws s
  | .dwLockLost l dark => Sys2Proof.Machine.execDwLockLost l dark s
  | .idle l f => Sys2Proof.Machine.execIdle l f s
  | .csrRd f => Sys2Proof.Machine.execCsrRd f s
  | .csrWr f => Sys2Proof.Machine.execCsrWr f s
  | .mbx f => Sys2Proof.Machine.execMbx f s
  | .doorbell f => Sys2Proof.Machine.execDoorbell f s
  | .rwRead f => Sys2Proof.Machine.execRwRead f s
  | .linkInit l f => Sys2Proof.Machine.execLinkInit l f s
  | .linkInitAck l f => Sys2Proof.Machine.execLinkInitAck l f s
  | .initRepeat l => Sys2Proof.Machine.execInitRepeat l s
  | .linkRetry l f => Sys2Proof.Machine.execLinkRetry l f s
  | .linkDown l f => Sys2Proof.Machine.execLinkDown l f s
  | .ackseqReport l => Sys2Proof.Machine.execAckseqReport l s
  | .slHdr f => Sys2Proof.Machine.execSlHdr f s
  | .slData f => Sys2Proof.Machine.execSlData f s
  | .slBlockWritten => Sys2Proof.Machine.execSlBlockWritten s
  | .slRdreq f => Sys2Proof.Machine.execSlRdreq f s
  | .slReadBlock => Sys2Proof.Machine.execSlReadBlock s
  | .freshCl src => Sys2Proof.Machine.execFreshCl src s
  | .freshSl src => Sys2Proof.Machine.execFreshSl src s
  | .enCl src on => Sys2Proof.Machine.execEnCl src on s
  | .enSl src on => Sys2Proof.Machine.execEnSl src on s
  | .ringEn r src cfg => Sys2Proof.Machine.execRingEn r src cfg s
  | .rdIdx r src v => Sys2Proof.Machine.execRdIdx r src v s
  | .wrIdx r src v => Sys2Proof.Machine.execWrIdx r src v s
  | .ringNop r => Sys2Proof.Machine.execRingNop r s
  | .jobLaunch r => Sys2Proof.Machine.execJobLaunch r s
  | .jobEnd r => Sys2Proof.Machine.execJobEnd r s
  | .load r => Sys2Proof.Machine.execLoad r s
  | .unload r => Sys2Proof.Machine.execUnload r s
  | .dispatch r => Sys2Proof.Machine.execDispatch r s
  | .wePost r => Sys2Proof.Machine.execWePost r s
  | .region r => Sys2Proof.Machine.execRegion r s
  | .epochEnd r => Sys2Proof.Machine.execEpochEnd r s
  | .epochAbort r => Sys2Proof.Machine.execEpochAbort r s
  | .epochResolve r => Sys2Proof.Machine.execEpochResolve r s
  | .window r => Sys2Proof.Machine.execWindow r s
  | .windowExport r => Sys2Proof.Machine.execWindowExport r s
  | .scrub r => Sys2Proof.Machine.execScrub r s
  | .powerHint r => Sys2Proof.Machine.execPowerHint r s
  | .waitRing r => Sys2Proof.Machine.execWaitRing r s
  | .commandComplete r => Sys2Proof.Machine.execCommandComplete r s
  | .periodRelease r => Sys2Proof.Machine.execPeriodRelease r s
  | .voteDone => Sys2Proof.Machine.execVoteDone s
  | .voteAbort => Sys2Proof.Machine.execVoteAbort s
  | .decideCommit => Sys2Proof.Machine.execDecideCommit s
  | .decideAbort => Sys2Proof.Machine.execDecideAbort s
  | .abortDrain => Sys2Proof.Machine.execAbortDrain s
  | .abortSweepDone => Sys2Proof.Machine.execAbortSweepDone s
  | .query => Sys2Proof.Machine.execQuery s
  | .barrierAck => Sys2Proof.Machine.execBarrierAck s
  | .unknown => Sys2Proof.Machine.execUnknown s
  | .epochTimeout => Sys2Proof.Machine.execEpochTimeout s
  | .decideResend => Sys2Proof.Machine.execDecideResend s
  | .queryRepeat => Sys2Proof.Machine.execQueryRepeat s
  | .mqPush n dir src w => Sys2Proof.Machine.execMqPush n dir src w s
  | .send n dir src => Sys2Proof.Machine.execSend n dir src s
  | .discard n dir src => Sys2Proof.Machine.execDiscard n dir src s
  | .mqAck n dir src seq code => Sys2Proof.Machine.execMqAck n dir src seq code s
  | .ackTimeout n dir => Sys2Proof.Machine.execAckTimeout n dir s
  | .dbMask src v => Sys2Proof.Machine.execDbMask src v s
  | .ping n => Sys2Proof.Machine.execPing n s
  | .echo n => Sys2Proof.Machine.execEcho n s
  | .standbyCheck n differ selfErr => Sys2Proof.Machine.execStandbyCheck n differ selfErr s
  | .switchover n => Sys2Proof.Machine.execSwitchover n s
  | .standbyCheckTimer differ selfErr => Sys2Proof.Machine.execStandbyCheckTimer differ selfErr s
  | .tokenTake k src => Sys2Proof.Machine.execTokenTake k src s
  | .tokenRel src k => Sys2Proof.Machine.execTokenRel src k s
  | .rcBeat src => Sys2Proof.Machine.execRcBeat src s
  | .hbPathSilent rc path => Sys2Proof.Machine.execHbPathSilent rc path s
  | .rcSelftestDone rc passed => Sys2Proof.Machine.execRcSelftestDone rc passed s
  | .rcStandbyReady rc => Sys2Proof.Machine.execRcStandbyReady rc s
  | .signalDetect p => Sys2Proof.Machine.execSignalDetect p s
  | .trainingMarker p marker ready => Sys2Proof.Machine.execTrainingMarker p marker ready s
  | .trainLimit p => Sys2Proof.Machine.execTrainLimit p s
  | .laneLock p l => Sys2Proof.Machine.execLaneLock p l s
  | .lockLimit p => Sys2Proof.Machine.execLockLimit p s
  | .ident p f m => Sys2Proof.Machine.execIdent p f m s
  | .identAck p f m => Sys2Proof.Machine.execIdentAck p f m s
  | .identLimit p => Sys2Proof.Machine.execIdentLimit p s
  | .downRetry p => Sys2Proof.Machine.execDownRetry p s
  | .dataFrame p f pkts => Sys2Proof.Machine.execDataFrame p f pkts s
  | .idleFrame p f => Sys2Proof.Machine.execIdleFrame p f s
  | .retry p f e => Sys2Proof.Machine.execRetry p f e s
  | .down p why => Sys2Proof.Machine.execDown p why s
  | .width p f answer mask count => Sys2Proof.Machine.execWidth p f answer mask count s
  | .laneLoss p l lock => Sys2Proof.Machine.execLaneLoss p l lock s
  | .widthChange p => Sys2Proof.Machine.execWidthChange p s
  | .laneRetrain p l passed => Sys2Proof.Machine.execLaneRetrain p l passed s
  | .frameAckReport p => Sys2Proof.Machine.execFrameAckReport p s
  | .retrain p src => Sys2Proof.Machine.execRetrain p src s
  | .portEn p src on => Sys2Proof.Machine.execPortEn p src on s
  | .d2dDegraded pair m => Sys2Proof.Machine.execD2dDegraded pair m s
  | .tsyncEdge => Sys2Proof.Machine.execTsyncEdge s
  | .tsyncLoss => Sys2Proof.Machine.execTsyncLoss s
  | .refclkLoss => Sys2Proof.Machine.execRefclkLoss s
  | .refclkLock => Sys2Proof.Machine.execRefclkLock s
  | .rtimeNext m e => Sys2Proof.Machine.execRtimeNext m e s
  | .write k => Sys2Proof.Machine.execWrite k s
  | .writeAck k => Sys2Proof.Machine.execWriteAck k s
  | .read k => Sys2Proof.Machine.execRead k s
  | .readRsp k => Sys2Proof.Machine.execReadRsp k s
  | .msg k => Sys2Proof.Machine.execMsg k s
  | .coll k => Sys2Proof.Machine.execColl k s
  | .routeFail k => Sys2Proof.Machine.execRouteFail k s
  | .tc3CsrRd k => Sys2Proof.Machine.execTc3CsrRd k s
  | .requestTimeout tag => Sys2Proof.Machine.execRequestTimeout tag s
  | .tc0BucketRelease p => Sys2Proof.Machine.execTc0BucketRelease p s
  | .cmapPeriod => Sys2Proof.Machine.execCmapPeriod s
  | .clearExclude src => Sys2Proof.Machine.execClearExclude src s
  | .points d src v => Sys2Proof.Machine.execPoints d src v s
  | .collectiveStart d => Sys2Proof.Machine.execCollectiveStart d s
  | .ready d => Sys2Proof.Machine.execReady d s
  | .data d => Sys2Proof.Machine.execData d s
  | .chunkAck d => Sys2Proof.Machine.execChunkAck d s
  | .nack d => Sys2Proof.Machine.execNack d s
  | .abort d => Sys2Proof.Machine.execAbort d s
  | .readyRepeat d => Sys2Proof.Machine.execReadyRepeat d s
  | .chunkResend d => Sys2Proof.Machine.execChunkResend d s
  | .stall d => Sys2Proof.Machine.execStall d s
  | .coastWait d => Sys2Proof.Machine.execCoastWait d s
  | .collectiveDone d => Sys2Proof.Machine.execCollectiveDone d s
  | .pwrAlertAssert => Sys2Proof.Machine.execPwrAlertAssert s
  | .pwrAlertRelease => Sys2Proof.Machine.execPwrAlertRelease s
  | .bsHoldEnd => Sys2Proof.Machine.execBsHoldEnd s
  | .staggerEnd => Sys2Proof.Machine.execStaggerEnd s
  | .governorTick x => Sys2Proof.Machine.execGovernorTick x s
  | .inputCondition row on => Sys2Proof.Machine.execInputCondition row on s
  | .powerLoss => Sys2Proof.Machine.execPowerLoss s
  | .bladeLoss b => Sys2Proof.Machine.execBladeLoss b s
  | .bladeReturn b => Sys2Proof.Machine.execBladeReturn b s
  | .sensorSample l => Sys2Proof.Machine.execSensorSample l s
  | .estimatorUpdate => Sys2Proof.Machine.execEstimatorUpdate s
  | .thermCapUpdate => Sys2Proof.Machine.execThermCapUpdate s
  | .flowStopEval => Sys2Proof.Machine.execFlowStopEval s
  | .flowLow => Sys2Proof.Machine.execFlowLow s
  | .plausibilityCheck => Sys2Proof.Machine.execPlausibilityCheck s
  | .hardwareTrip g reading => Sys2Proof.Machine.execHardwareTrip g reading s
  | .railCutoff g reading => Sys2Proof.Machine.execRailCutoff g reading s
  | .flowStopClear m e => Sys2Proof.Machine.execFlowStopClear m e s
  | .tripClear m e => Sys2Proof.Machine.execTripClear m e s
  | .guardClear m e => Sys2Proof.Machine.execGuardClear m e s
  | .faultMessage source => Sys2Proof.Machine.execFaultMessage source s
  | .ilBucketDrain => Sys2Proof.Machine.execIlBucketDrain s
  | .faultNPulseEnd => Sys2Proof.Machine.execFaultNPulseEnd s
  | .quietTimer => Sys2Proof.Machine.execQuietTimer s
  | .faultAck m e => Sys2Proof.Machine.execFaultAck m e s
  | .faultClear m e => Sys2Proof.Machine.execFaultClear m e s
  | .recoveriesReset m e => Sys2Proof.Machine.execRecoveriesReset m e s
  | .ilInject src v => Sys2Proof.Machine.execIlInject src v s
  | .ilSelfCheck cause => Sys2Proof.Machine.execIlSelfCheck cause s
  | .fenceReq src target hold => Sys2Proof.Machine.execFenceReq src target hold s
  | .fenceDrainEnd target => Sys2Proof.Machine.execFenceDrainEnd target s
  | .fenceComplete target => Sys2Proof.Machine.execFenceComplete target s
  | .unitResetDone target passed chUp => Sys2Proof.Machine.execUnitResetDone target passed chUp s
  | .lift src target => Sys2Proof.Machine.execLift src target s
  | .fwBeat src => Sys2Proof.Machine.execFwBeat src s
  | .fwBeatMiss party => Sys2Proof.Machine.execFwBeatMiss party s
  | .worksReset => Sys2Proof.Machine.execWorksReset s
  | .worksResetExit chUp bad => Sys2Proof.Machine.execWorksResetExit chUp bad s
  | .packageReset => Sys2Proof.Machine.execPackageReset s
  | .lineResetExit bad => Sys2Proof.Machine.execLineResetExit bad s
  | .signalReset bad => Sys2Proof.Machine.execSignalReset bad s
  | .powerOnReset pos bad => Sys2Proof.Machine.execPowerOnReset pos bad s
  | .powerCycle => Sys2Proof.Machine.execPowerCycle s
  | .resetExitTimeout line => Sys2Proof.Machine.execResetExitTimeout line s
  | .stageDone us x => Sys2Proof.Machine.execStageDone us x s
  | .clockRetry => Sys2Proof.Machine.execClockRetry s
  | .acceptReduced m e => Sys2Proof.Machine.execAcceptReduced m e s
  | .topoAccept m e => Sys2Proof.Machine.execTopoAccept m e s
  | .geometryExpect m e => Sys2Proof.Machine.execGeometryExpect m e s
  | .trayNo m e => Sys2Proof.Machine.execTrayNo m e s
  | .bgtestDone spares => Sys2Proof.Machine.execBgtestDone spares s
  | .bgtestEn m e => Sys2Proof.Machine.execBgtestEn m e s
  | .licence m e => Sys2Proof.Machine.execLicence m e s
  | .dieMarks m e => Sys2Proof.Machine.execDieMarks m e s
  | .odRead m e => Sys2Proof.Machine.execOdRead m e s
  | .odWrite m e => Sys2Proof.Machine.execOdWrite m e s
  | .odInfo m e => Sys2Proof.Machine.execOdInfo m e s
  | .hello m e => Sys2Proof.Machine.execHello m e s
  | .heartbeat m e => Sys2Proof.Machine.execHeartbeat m e s
  | .noticeAck m e => Sys2Proof.Machine.execNoticeAck m e s
  | .noticeResend => Sys2Proof.Machine.execNoticeResend s
  | .segmentTimeout path => Sys2Proof.Machine.execSegmentTimeout path s
  | .orphanTimeout => Sys2Proof.Machine.execOrphanTimeout s
  | .orphanRelease m e => Sys2Proof.Machine.execOrphanRelease m e s
  | .icmpv6Echo src ident seq data => Sys2Proof.Machine.execIcmpv6Echo src ident seq data s
  | .neighborSolicitation src target => Sys2Proof.Machine.execNeighborSolicitation src target s
  | .mirrorRefresh => Sys2Proof.Machine.execMirrorRefresh s
  | .ibiRetry => Sys2Proof.Machine.execIbiRetry s
  | .i3cPrivateWrite a l => Sys2Proof.Machine.execI3cPrivateWrite a l s
  | .i3cPrivateRead a n => Sys2Proof.Machine.execI3cPrivateRead a n s
  | .setdasa static dyn => Sys2Proof.Machine.execSetdasa static dyn s
  | .entdaa dyn => Sys2Proof.Machine.execEntdaa dyn s
  | .rstdaa => Sys2Proof.Machine.execRstdaa s
  | .setnewda a dyn => Sys2Proof.Machine.execSetnewda a dyn s
  | .enec a events => Sys2Proof.Machine.execEnec a events s
  | .disec a events => Sys2Proof.Machine.execDisec a events s
  | .getpid a => Sys2Proof.Machine.execGetpid a s
  | .getbcr a => Sys2Proof.Machine.execGetbcr a s
  | .getdcr a => Sys2Proof.Machine.execGetdcr a s
  | .getstatus a => Sys2Proof.Machine.execGetstatus a s
  | .getmwl a => Sys2Proof.Machine.execGetmwl a s
  | .getmrl a => Sys2Proof.Machine.execGetmrl a s
  | .fwHeader m e => Sys2Proof.Machine.execFwHeader m e s
  | .fwChunk m e => Sys2Proof.Machine.execFwChunk m e s
  | .fwAbort m e => Sys2Proof.Machine.execFwAbort m e s
  | .activateSignal m e => Sys2Proof.Machine.execActivateSignal m e s
  | .activateLine m e => Sys2Proof.Machine.execActivateLine m e s
  | .activateRuntime m e => Sys2Proof.Machine.execActivateRuntime m e s
  | .handoverSwitchover => Sys2Proof.Machine.execHandoverSwitchover s
  | .trialConfirm t => Sys2Proof.Machine.execTrialConfirm t s
  | .trialLapse t => Sys2Proof.Machine.execTrialLapse t s
  | .attestNonce m e => Sys2Proof.Machine.execAttestNonce m e s
  | .ownerKey m e => Sys2Proof.Machine.execOwnerKey m e s
  | .grant m e => Sys2Proof.Machine.execGrant m e s
  | .grantMinSeq m e => Sys2Proof.Machine.execGrantMinSeq m e s
  | .licenceKeyCert m e => Sys2Proof.Machine.execLicenceKeyCert m e s
  | .csrWrite src off wide v recheck => Sys2Proof.Machine.execCsrWrite src off wide v recheck s
  | .illegalOp p => Sys2Proof.Machine.execIllegalOp p s
  | .unknownService n => Sys2Proof.Machine.execUnknownService n s
  | .wireHeartbeat rc => Sys2Proof.Machine.execWireHeartbeat rc s
  | .signalResetExit => Sys2Proof.Machine.execSignalResetExit s
  | .undecodableCodeword l => Sys2Proof.Machine.execUndecodableCodeword l s

end Sys2Proof.Machine
end

