-- ==== Sys2Proof/Machine/Step.lean ====
section
/-! DEFINITION. One step of the package: the command at the front of the queue, or one edge of the clock. -/

namespace Sys2Proof.Machine

/-- What a step does with the commands that are waiting: the first is carried out with the rest as the queue; an empty queue lets
one edge of REFCLK pass (log entry 4), and the signal box serves the requests that wait (log entry 141). -/
def stepQueue (q : List Instr) (s : State) : Host.Outcome State Fault Refusal :=
  match q with
  | [] => .next s.tick.odDrain
  | c :: rest => exec c { s with pending := rest }

/-- One step. -/
def step (s : State) : Host.Outcome State Fault Refusal := stepQueue s.pending s

/-- The state with the command a word spells in front of its queue; unchanged where it spells none. -/
def State.withFetchWord (s : State) (nbits w : Nat) : State :=
  match Sys2Proof.decodeTableWord nbits w with
  | some c => { s with pending := c :: s.pending }
  | none => s

end Sys2Proof.Machine
end

