-- ==== Sys2Proof/Safety.lean ====
section
/-! DEFINITION. What counts as a safe step, and the form that every state keeps: its sparse tables canonical, and no source of faults
holding more messages than R416 lets it. -/

namespace Sys2Proof.Machine

/-- The next state of an outcome, if there is one. -/
def nextOf (r : Res) : Option State :=
  match r with
  | .next s => some s
  | _ => none

/-- A step that answers a next state. -/
def SafeStep (s : State) : Prop := ∃ t, step s = .next t

/-- Every sparse table of the state is in its canonical form: keys strictly rising, no entry equal to what an unlisted key reads as. -/
structure State.Canon (s : State) : Prop where
  csr : twf csrDflt s.csr = true
  dict : twf dictDflt s.dict = true
  gens : twf (fun _ => 0) s.gens = true
  mem : Memory.wf s.mem = true
  flips : twf flipDflt s.flips = true
  umeta : twf metaDflt s.umeta = true
  msgs : twf (fun _ => []) s.msgs = true
  evid : twf (fun _ => 0) s.evid = true
  blob : twf (fun _ => none) s.blob = true
  windows : twf winDflt s.windows = true

/-- A party's access reaches the register at an offset: the party may send accesses, and the block of the register is out of reset (R33,
R262, R437). -/
def State.Reaches (s : State) (src : Party) (off : Nat) : Prop := s.partyUp src = true ∧ s.accessStatus off = 0

/-- The fault messages that a source holds (R416). -/
def State.heldAt (s : State) (source : Nat) : List FaultMsg := tget (fun _ => []) s.msgs source

/-- No source holds more than four fault messages (R416). -/
def State.FourHeld (s : State) : Prop := ∀ source, (s.heldAt source).length ≤ 4

/-- Tile `p` runs, and its next word is `w`, of a class and an operation; `t` is the state that reading the word leaves (R83). -/
structure Issues (s t : State) (p : Fin 192) (cls op w : Nat) : Prop where
  run : s.tileState p.val = 2
  word : s.fetch p.val = (.ok w, t)
  cls_eq : iCls w = cls
  op_eq : iOp w = op

/-- Tile `p` with its PC at `pc`, nothing else changed. -/
def State.atPc (s : State) (p pc : Nat) : State := s.setTile p { s.tile p with pc := pc }

/-- The index after an instruction's own. -/
def State.nextPc (s : State) (p : Nat) : Nat := ((s.tile p).pc + 1) % 2 ^ 32

/-- Ring `r` is the one to start, its head is the entry `w` of operation `op`, the gate lets it run, and `t` is the state once the
head is claimed (R217 to R219). -/
structure StartsHead (s t : State) (r : Fin 64) (op : Nat) (w : List Nat) : Prop where
  pick : s.pick = some r.val
  head : ∃ idx, s.ringHead r.val = some (idx, some w) ∧ t = (if s.periodic r.val then s else (s.readEntry r.val idx).2).claim r.val idx w
  op_eq : eOp w = op
  gate : s.gate r.val (some w) = .run

/-- A barrier message of a type for the package's role, the first of that type, taken from the inbox (R231). -/
structure TakesBarrier (s t : State) (type : Nat) (coord : Bool) (m : BarMsg) : Prop where
  serves : s.rcServes = true
  first : ∃ l, takeBar type s.barInbox = some (m, l) ∧ t = { s with barInbox := l }
  mine : t.barStray m = false
  role : coord = (t.job.rank == 0)

/-- A collective message of a KIND, the first of that KIND in an engine's inbox, that names a live collective of the open attempt:
`c` is that collective with the sender's pace and the time noted, `t` the state that holds it (R343, R348). -/
structure TakesColl (s t : State) (d : Fin 4) (kind : Nat) (p : Pkt) (c : Coll) : Prop where
  first : ∃ u o, s.takeCm d.val kind = some (p, u) ∧ u.cmStray p = false ∧ u.collOf d.val (cmGroup p) (cmNat p 4 4) = some o ∧
    o.state ≠ .dead ∧ o.lost = false ∧ c = { o with slowest := min o.slowest (cmNat p 24 2), lastAt := u.rtime } ∧
    t = (u.collPut d.val c).meRegs d.val

end Sys2Proof.Machine
end

