-- ==== Sys2Proof/Certificates/Slice0/Obligations.lean ====
section
/-! DEFINITION. The statements about the model: the block and its queue, the tiles, the engines, memory, the Dwente and fabric
links, the router, collectives, the command rings and epochs, the mailboxes, power and thermal control, the interlock, fences, resets,
bring-up, firmware and the object dictionary. -/

open Sys2Proof Sys2Proof.Machine

/-- A step carries out the command at the front of the queue, the rest of which waits on. -/
def Obligations.StepRunsFront : Prop :=
  ∀ (s : State) (c : Instr) (q : List Instr), step { s with pending := c :: q } = exec c { s with pending := q }

/-- With no command waiting, a step is one edge of REFCLK, behind which the signal box serves the dictionary requests that wait (the model's
choice: log entries 4, 141); with none waiting it is the edge alone. -/
def Obligations.IdleStepTicks : Prop :=
  ∀ s : State, s.pending = [] → step s = .next s.tick.odDrain ∧
    (vget [] s.sb.waiting 0 = [] → vget [] s.sb.waiting 1 = [] → step s = .next s.tick)

/-- Every step answers a next state: no command of the table ends in a fault or a refusal. A command leaves the queue of the commands that wait behind it as it is.
Model's readings and choices it rests on: log entry 4. -/
def Obligations.StepsCompleteAndKeepTheQueue : Prop :=
  (∀ s : State, SafeStep s) ∧
  (∀ (c : Instr) (s t : State), exec c s = .next t → t.pending = s.pending)

/-- Every step keeps every sparse table of the state canonical: registers, dictionary, memory and its stored codewords, commit
metadata, held messages, evidence, windows.
Model's readings and choices it rests on: log entry 2. -/
def Obligations.StepKeepsCanonical : Prop := ∀ s t : State, s.Canon → step s = .next t → t.Canon

/-- Every step keeps the bound of R416: a source holds at most 4 messages that the collector has not taken. -/
def Obligations.StepKeepsFourHeld : Prop := ∀ s t : State, s.Canon → s.FourHeld → step s = .next t → t.FourHeld

/-- What a new fault message does at its source (R416), in every state: merged into the held message of its kind and CLEAR value,
whose REPEAT rises and saturates; else held beside the others while fewer than four are held; else in the place of the held message
of lowest default class, the oldest among equals, with LOST. Merges and drops count in MERGED unless LINE, whose register that is, is
in reset, and nothing else changes. -/
def Obligations.HoldMessage : Prop :=
  ∀ (s : State) (m : FaultMsg), s.Canon → (s.heldAt m.source).length ≤ 4 →
    let l := s.heldAt m.source
    let t := s.reportMsg m
    let counted := if s.dom.lineRst then s else s.bump R.IL_EVENTS2_MERGED R.IL_FLAGS_MERGED_OVF
    let same := fun (h : FaultMsg) => h.kind = m.kind ∧ h.clear = m.clear
    (∀ i h, l[i]? = some h → same h → (∀ j x, j < i → l[j]? = some x → ¬ same x) →
      (∃ high, t.heldAt m.source = l.set i { h with rep := min (h.rep + 1) 255, high := high }) ∧
      { t with msgs := s.msgs } = counted) ∧
    ((∀ h ∈ l, ¬ same h) → l.length < 4 → t.heldAt m.source = l ++ [m] ∧ { t with msgs := s.msgs } = s) ∧
    ((∀ h ∈ l, ¬ same h) → l.length = 4 → ∃ i x, l[i]? = some x ∧ (∀ h ∈ l, kindClass x.kind ≤ kindClass h.kind) ∧
      (∀ j y, j < i → l[j]? = some y → kindClass x.kind < kindClass y.kind) ∧
      t.heldAt m.source = l.eraseIdx i ++ [{ m with lost := true }] ∧
      { t with msgs := s.msgs } = counted) ∧
    (t.heldAt m.source).length ≤ 4 ∧ (∀ source, source ≠ m.source → t.heldAt source = s.heldAt source)

/-- RTIME outside LINE reset: five rising edges of REFCLK advance it by exactly 32 ns, the held fraction returns, and no other
register changes (R296).
Model's readings and choices it rests on: log entry 4. -/
def Obligations.RtimeRate : Prop :=
  ∀ s : State, s.Canon → s.dom.lineRst = false → s.rfrac < 10 →
    let t := s.tick.tick.tick.tick.tick
    t.rtime = (s.rtime + 32) % 2 ^ 64 ∧ t.rfrac = s.rfrac ∧ ∀ off, off ≠ R.RTIME → t.csrGet off = s.csrGet off

/-- A write of a field of a register: it reads what was written, cut to its width; fields of the same register that do not overlap it
and all other registers read as before; nothing else of the state changes. -/
def Obligations.FieldWrite : Prop :=
  ∀ (s : State) (f : Fld) (v : Nat), s.Canon → f.lo + f.w ≤ 64 →
    (s.fset f v).fget f = v % 2 ^ f.w ∧
    (∀ g : Fld, g.off ≠ f.off ∨ (g.lo + g.w ≤ 64 ∧ (g.lo + g.w ≤ f.lo ∨ f.lo + f.w ≤ g.lo)) → (s.fset f v).fget g = s.fget g) ∧
    (∀ off, off ≠ f.off → (s.fset f v).csrGet off = s.csrGet off) ∧
    { s.fset f v with csr := s.csr } = s

/-- The named operations touch only what they name: an event for the control node only the event queue and its drop counter, a fault
message only the messages of its source and the counter of merges, a fault report and an event never memory. -/
def Obligations.ReportFrames : Prop :=
  ∀ (s : State) (source code detail addr : Nat) (k : Kind) (l : List Byte) (clear : Bool),
    (∀ off, off ≠ R.DW_EVQ → (s.event source code l).csrGet off = s.csrGet off) ∧
    { s.event source code l with csr := s.csr, dw := s.dw } = s ∧
    (s.event source code l).dw.evSeq = (s.dw.evSeq + 1) % 2 ^ 32 ∧
    (∀ off, off ≠ R.IL_EVENTS2 → off ≠ R.IL_FLAGS → (s.report source k detail addr clear).csrGet off = s.csrGet off) ∧
    (∀ x, x ≠ source → (s.report source k detail addr clear).heldAt x = s.heldAt x) ∧
    { s.report source k detail addr clear with csr := s.csr, msgs := s.msgs } = s

/-- An event counter of 32 bits stays at 0xFFFF_FFFF, and the increment that would pass it sets the sticky overflow bit (R431). -/
def Obligations.EventCounterSaturates : Prop :=
  ∀ (s : State) (f ovf : Fld) (n : Nat), s.Canon → f.w = 32 → f.lo + f.w ≤ 64 → ovf.w = 1 → ovf.lo + ovf.w ≤ 64 →
    ovf.off ≠ f.off ∨ ovf.lo + 1 ≤ f.lo ∨ f.lo + 32 ≤ ovf.lo →
    (s.bump f ovf n).fget f = min (s.fget f + n) 0xFFFFFFFF ∧
    (s.bump f ovf n).flag ovf = (s.flag ovf || decide (0xFFFFFFFF < s.fget f + n)) ∧
    { s.bump f ovf n with csr := s.csr } = s

/-- Dispatches (R93): a tile in IDLE or TRAPPED accepts the next number, drops and counts a duplicate, and reports a gap; a tile in RUN
or WAIT holds one and judges a further one against it; in OFF and FENCED nothing changes. -/
def Obligations.DispatchArrives : Prop :=
  ∀ (p : Fin 192) (seq entry : BitVec 32) (a1 a2 a3 : BitVec 64) (s : State),
    let d : Dispatch := ⟨seq.toNat, entry.toNat, a1, a2, a3⟩
    let c := Instr.dispatchArrive p seq entry a1 a2 a3
    let delta := (2 ^ 32 + seq.toNat - s.fget (R.TILE_SEQ_SEQ.at (tileOff p.val))) % 2 ^ 32
    ((s.tileState p.val = 1 ∨ s.tileState p.val = 4) →
      (delta = 1 → exec c s = .next (s.acceptDispatch p.val d)) ∧
      (delta = 0 ∨ 2 ^ 31 ≤ delta → exec c s = .next (s.dupDispatch p.val)) ∧
      (2 ≤ delta → delta < 2 ^ 31 → exec c s = .next (s.report p.val .dispatchGap seq.toNat 0))) ∧
    ((s.tileState p.val = 2 ∨ s.tileState p.val = 3) →
      ((s.tile p.val).held = none → exec c s = .next (s.setTile p.val { s.tile p.val with held := some d })) ∧
      (∀ h, (s.tile p.val).held = some h →
        exec c s = .next (if h.seq = d.seq then s.dupDispatch p.val else s.report p.val .dispatchGap seq.toNat 0))) ∧
    ((s.tileState p.val = 0 ∨ 5 ≤ s.tileState p.val) → exec c s = .next s)

/-- What an accepted dispatch sets (R94): PC, the scalar registers, B3 to B63 from the image's root berths, empty accumulator sets; the
tile runs, SEQ is the dispatch's number, and no halt mark is left (R118). G0 reads 0 and B0 reads as the null berth. Other tiles and
memory are as before. A write of G0 only advances PC, and a scalar register wraps at 64 bits. -/
def Obligations.DispatchSets : Prop :=
  ∀ (p : Fin 192) (d : Dispatch) (s : State), s.Canon → d.seq < 2 ^ 32 →
    let t := s.acceptDispatch p.val d
    let x := t.tile p.val
    x.pc = d.entry ∧ x.scalar 0 = 0 ∧ x.scalar 1 = d.a1 ∧ x.scalar 2 = d.a2 ∧ x.scalar 3 = d.a3 ∧
    (∀ i, 4 ≤ i → x.scalar i = 0) ∧ x.berth 0 = .null ∧
    (∀ i, i < 3 → x.berth i = (s.tile p.val).berth i) ∧
    (∀ i, 3 ≤ i → i < 64 → x.berth i = s.prog.root (s.logicalOf p.val) i) ∧
    (∀ i : Fin 4, x.acc[i] = .empty) ∧ (∀ e : Fin 2, x.dma[e].halted = false) ∧
    t.tileState p.val = 2 ∧ t.fget (R.TILE_SEQ_SEQ.at (tileOff p.val)) = d.seq ∧
    (∀ q, q ≠ p.val → t.tile q = s.tile q) ∧ (∀ a, t.cell a = s.cell a) ∧ { t with csr := s.csr, tiles := s.tiles } = s ∧
    (∀ (u v : State) (w : Nat),
      (nbits w 91 88 = 0 →
        (Issues u v p 0 0x05 w → exec (.gset p) u = .next (v.atPc p.val (v.nextPc p.val))) ∧
        (Issues u v p 0 0x06 w → exec (.gadd p) u = .next (v.atPc p.val (v.nextPc p.val)))) ∧
      (nbits w 91 88 ≠ 0 → Issues u v p 0 0x06 w → ∃ y, exec (.gadd p) u = .next y ∧
        ((y.tile p.val).scalar (nbits w 91 88)).toNat =
          (((v.tile p.val).scalar (nbits w 87 84)).toNat + nbits w 63 0) % 2 ^ 64))

/-- The CTRL operations (R98): what each does to PC and the scalar registers, and the waits that HALT and FENCE begin. Each next
state is given whole: nothing else changes. G0 ignores writes.
Model's readings and choices it rests on: log entry 23. -/
def Obligations.ControlOperations : Prop :=
  ∀ (p : Fin 192) (s t : State) (w : Nat),
    let x := t.tile p.val
    let off := nbits w 31 0
    let g := nbits w 91 88
    let jump := t.atPc p.val ((x.pc + off) % 2 ^ 32)
    let onward := t.atPc p.val (t.nextPc p.val)
    let waits := fun (k : TileWait) =>
      (t.setTile p.val { x with wait := k, collAbt := false }).fset (R.TILE_STATE_STATE.at (tileOff p.val)) 3
    (Issues s t p 0 0x00 w → exec (.nop p) s = .next onward) ∧
    (Issues s t p 0 0x01 w → exec (.halt p) s = .next (waits .halt)) ∧
    (Issues s t p 0 0x02 w → exec (.jmp p) s = .next jump) ∧
    (Issues s t p 0 0x03 w → exec (.bnz p) s = .next (if x.scalar g ≠ 0 then jump else onward)) ∧
    (Issues s t p 0 0x04 w → exec (.bz p) s = .next (if x.scalar g = 0 then jump else onward)) ∧
    (Issues s t p 0 0x05 w → exec (.gset p) s = .next (t.setTile p.val
      { x with pc := t.nextPc p.val, g := if g = 0 then x.g else vput x.g g (BitVec.ofNat 64 (nbits w 63 0)) })) ∧
    (Issues s t p 0 0x06 w → exec (.gadd p) s = .next (t.setTile p.val
      { x with pc := t.nextPc p.val,
               g := if g = 0 then x.g else vput x.g g (x.scalar (nbits w 87 84) + BitVec.ofNat 64 (nbits w 63 0)) })) ∧
    (Issues s t p 0 0x07 w → exec (.fence p) s = .next (waits .fence))

/-- The ends of the waits (R96, R98, R108, R114, R172): with work of the tile still running nothing happens; a halted engine, an aborted
collective, a broken or aborted counter traps; else HALT ends in IDLE, where a held dispatch is judged, and FENCE and CTR.WAIT go on.
Model's readings and choices it rests on: log entries 4, 31. -/
def Obligations.WaitsEnd : Prop :=
  ∀ (p : Fin 192) (s : State), s.tileState p.val = 3 →
    let x := s.tile p.val
    let free := s.setTile p.val { x with wait := .none }
    let state := R.TILE_STATE_STATE.at (tileOff p.val)
    let halted := x.dma.toList.any (·.halted)
    let ended := fun (go : State) =>
      if halted then s.trap p.val ⟨0x0033, 0, 0⟩ else if x.collAbt then s.trap p.val ⟨0x0043, 0, 0⟩
      else if s.tileBusy p.val then s else go
    (x.wait = .halt → exec (.haltDone p) s = .next (ended ((free.fset state 1).evalHeld p.val))) ∧
    (x.wait = .fence → exec (.fenceWaitEnd p) s = .next (ended ((free.fset state 2).advance p.val))) ∧
    (∀ k v, x.wait = .ctr k v →
      let o := ctrOff (p.val / 48) k
      exec (.ctrWaitRelease p) s = .next (
        if s.flag (R.CTR_BROKEN.at o) then s.trap p.val ⟨0x0041, 0, 0⟩
        else if s.flag (R.CTR_ABORTED.at o) then s.trap p.val ⟨0x0043, 0, 0⟩
        else if v ≤ s.fget (R.CTR_VALUE.at o) then (free.fset state 2).advance p.val else s))

/-- A trap (R115 to R118): the tile is TRAPPED with its PC at the trapping instruction, the trap registers load only where VALID was 0,
the interlock hears of it with the tile as source, and memory is as before. The statement is about a tile that holds no dispatch. A word with a reserved class, or an OP its class does not list, traps with ILLEGAL_OP (R85); a word that cannot be fetched traps,
whichever of nine rows of every class the step was for (R116).
Model's readings and choices it rests on: log entries 23, 24. -/
def Obligations.TrapsAndIllegalWords : Prop :=
  (
    ∀ (p : Fin 192) (s : State) (ti : TrapInfo), s.Canon → (s.tile p.val).held = none → ti.code < 2 ^ 16 → ti.berth < 64 →
      let t := s.trap p.val ti
      t.tileState p.val = 4 ∧ (t.tile p.val).pc = (s.tile p.val).pc ∧
      (s.flag (R.TILE_TRAP_VALID.at (tileOff p.val)) = true →
        t.csrGet (R.TILE_TRAP + tileOff p.val) = s.csrGet (R.TILE_TRAP + tileOff p.val) ∧
        t.csrGet (R.TILE_TRAP_ADDR + tileOff p.val) = s.csrGet (R.TILE_TRAP_ADDR + tileOff p.val)) ∧
      (s.flag (R.TILE_TRAP_VALID.at (tileOff p.val)) = false →
        t.fget (R.TILE_TRAP_CODE.at (tileOff p.val)) = ti.code ∧ t.fget (R.TILE_TRAP_BERTH.at (tileOff p.val)) = ti.berth ∧
        t.flag (R.TILE_TRAP_VALID.at (tileOff p.val)) = true ∧
        t.fget (R.TILE_TRAP_INSN_INDEX.at (tileOff p.val)) = (s.tile p.val).pc % 2 ^ 32 ∧
        t.csrGet (R.TILE_TRAP_ADDR + tileOff p.val) = BitVec.ofNat 64 ti.addr) ∧
      (∃ m ∈ t.heldAt p.val, m.kind = Kind.code .tileTrap ∧ m.clear = false) ∧ (∀ a, t.cell a = s.cell a) ∧
      (∀ q, q ≠ p.val → t.tile q = s.tile q)) ∧
  (
    ∀ (p : Fin 192) (s t : State), s.tileState p.val = 2 →
      (∀ w, s.fetch p.val = (.ok w, t) → opListed (iCls w) (iOp w) = false → exec (.illegalOp p) s = .next (t.trap p.val ⟨0x0001, 0, 0⟩)) ∧
      (∀ ti, s.fetch p.val = (.error ti, t) → ∀ c ∈ [Instr.nop p, .jmp p, .vadd p, .mma p, .dmaCopy p, .ctrAdd p, .berthSub p, .mmaRs p, .illegalOp p],
        exec c s = .next (t.trap p.val ti)))

/-- The BERTH operations (R91, R92): a copy, the null berth, or a narrowed berth whose fields are derived from the source's; B0 ignores
writes. A sub-berth within bounds that breaks the group rule traps with BERTH_ALIGN; a copy or clear that names B1 or B2 as destination traps with
BERTH_RIGHTS. The SYNC operations on counters (R108): the counter is IMM[9:0] of the tile's own die, the value IMM[63:32]; an index at or above
TRIG_CTRS traps with CTR_RANGE. CTR.SET clears the marks.
Model's readings and choices it rests on: log entries 23, 26, 201. -/
def Obligations.BerthAndCounterOperations : Prop :=
  (
    ∀ (p : Fin 192) (s t : State) (w : Nat),
      let x := t.tile p.val
      let b := x.berth (iBa w)
      let r := nbits w 63 44 + (x.scalar (nbits w 91 88)).toNat
      let c := nbits w 43 24 + (x.scalar (nbits w 87 84)).toNat
      let rows := nbits w 83 72
      let cols := nbits w 23 0
      let o := r * b.pitch + fmtBits b.fmt * c / 8
      let set := fun (v : Berth) => t.setTile p.val
        { x with pc := t.nextPc p.val, b := if iBd w = 0 then x.b else vput x.b (iBd w) v }
      (iBd w ≠ 1 → iBd w ≠ 2 →
        (Issues s t p 1 0x01 w → exec (.berthCpy p) s = .next (set b)) ∧
        (Issues s t p 1 0x02 w → exec (.berthClr p) s = .next (set .null)) ∧
        (Issues s t p 1 0x00 w → b.usable = true → rows ≠ 0 → cols ≠ 0 → t.chkRows b (iBa w) c cols r rows = none →
          (c % groupElems b.fmt = 0 ∧ cols % groupElems b.fmt = 0 →
            exec (.berthSub p) s = .next (set { b with
              base := b.base + o, originRow := (b.originRow + r) % 2 ^ 32, originCol := (b.originCol + c) % 2 ^ 32, rowElems := cols
              length := (rows - 1) * b.pitch + elemBytes b.fmt cols
              r := b.r && nbit (nbits w 66 64) 0 == 1, w := b.w && nbit (nbits w 66 64) 1 == 1
              x := b.x && nbit (nbits w 66 64) 2 == 1 })) ∧
          (c % groupElems b.fmt ≠ 0 ∨ cols % groupElems b.fmt ≠ 0 →
            exec (.berthSub p) s = .next (t.trap p.val ⟨0x0015, iBa w, 0⟩)))) ∧
      (iBd w = 1 ∨ iBd w = 2 →
        (Issues s t p 1 0x01 w → exec (.berthCpy p) s = .next (t.trap p.val ⟨0x0011, iBd w, 0⟩)) ∧
        (Issues s t p 1 0x02 w → exec (.berthClr p) s = .next (t.trap p.val ⟨0x0011, iBd w, 0⟩)))) ∧
  (
    ∀ (p : Fin 192) (s t : State) (w : Nat),
      let k := nbits w 9 0
      let o := ctrOff (p.val / 48) k
      let v := nbits w 63 32
      (k < t.prog.trigCtrs →
        (Issues s t p 5 0x00 w →
          exec (.ctrAdd p) s = .next ((t.bump (R.CTR_VALUE.at o) (R.CTR_CTR_OVF.at o) v).advance p.val)) ∧
        (Issues s t p 5 0x01 w → exec (.ctrWait p) s = .next
          ((t.setTile p.val { t.tile p.val with wait := .ctr k v, collAbt := false }).fset (R.TILE_STATE_STATE.at (tileOff p.val)) 3)) ∧
        (Issues s t p 5 0x02 w → exec (.ctrSet p) s = .next
          ((((t.fset (R.CTR_VALUE.at o) v).fset (R.CTR_BROKEN.at o) 0).fset (R.CTR_ABORTED.at o) 0).advance p.val))) ∧
      (t.prog.trigCtrs ≤ k → ∀ op c, (op, c) ∈ [(0x00, Instr.ctrAdd p), (0x01, .ctrWait p), (0x02, .ctrSet p)] →
        Issues s t p 5 op w → exec c s = .next (t.trap p.val ⟨0x0040, 0, 0⟩)))

/-- The elementwise operations (R67, R105): each element is the exact result of its operation on the decoded operands, rounded once
into the destination format under the word's mode, SAT bit and draw; the flags of the results join the arithmetic status, and nothing
else changes but what the reads of the operands note.
Model's readings and choices it rests on: log entries 23, 27, 31. -/
def Obligations.VectorArithmetic : Prop :=
  ∀ (p : Fin 192) (s t t1 t2 t3 t4 : State) (w : Nat) (as bs cs : List Nat) (f : EFmt),
    let x := t.tile p
    let a := x.berth (iBa w)
    let b := x.berth (iBb w)
    let c := x.berth (iBc w)
    let d := x.berth (iBd w)
    let rq := rqOperand p
    let n := nbits w 31 0
    let mode := fun (i : Nat) => (⟨nbits w 91 90, nbit w 89 == 1,
      srDraw t3.srSeed (nbits w 63 32) (d.originRow + i / d.rowElems) (d.originCol + i % d.rowElems)⟩ : RMode)
    t.vecCheck p w = none → fmtElem d.fmt = some f → t.readElems rq a (a.coords n) = (.ok as, t1) →
    ∀ op i k (g : Xv → Xv → Xv → Xv), (op, i, k, g) ∈
      [(0x00, Instr.vadd p, 2, fun a b _ => a.add b), (0x01, .vsub p, 2, fun a b _ => a.add b.negate),
       (0x02, .vmul p, 2, fun a b _ => a.mul b), (0x03, .vfma p, 3, fun a b c => (a.mul b).add c),
       (0x04, .vmax p, 2, fun a b _ => a.max b), (0x05, .vmin p, 2, fun a b _ => a.min b),
       (0x07, .vrcp p, 1, fun a _ _ => Xv.div (.fin ⟨false, 1, 0, false⟩) a), (0x08, .vsqrt p, 1, fun a _ _ => a.sqrt),
       (0x09, .vrsq p, 1, fun a _ _ => a.rsqrt), (0x0A, .vexp2 p, 1, fun a _ _ => a.exp2), (0x0B, .vlog2 p, 1, fun a _ _ => a.log2)] →
    Issues s t p 3 op w →
    (if 2 ≤ k then t1.readElems rq b (b.coords n) else (.ok [], t1)) = (.ok bs, t2) →
    (if 3 ≤ k then t2.readElems rq c (c.coords n) else (.ok [], t2)) = (.ok cs, t3) →
    let exact := as.zipIdx.map fun (v, j) => g (elemValue a.fmt v) (elemValue b.fmt (bs.getD j 0)) (elemValue c.fmt (cs.getD j 0))
    let r := exact.zipIdx.map fun (v, j) => f.round (mode j) v
    t3.runsPre rq d (d.runs (r.map (·.1))) = (none, t4) →
    exec i s = .next (((t4.runsWrite d (d.runs (r.map (·.1)))).arithStatus p x.pc (orFlags (r.map fun e => .ofRnd e.2))).advance p)

/-- The other vector operations (R67, R105): VMOV writes the source's codes, VSEL chooses by the selector's codes, XADD adds XP160
values and notes each saturation of an operand or the sum, VCVT converts with the element's scale, VRED reduces to one element in the order of R65. A word that fails a check
traps with the first failing check, whatever the operation.
Model's readings and choices it rests on: log entries 23, 25, 29, 31, 184. -/
def Obligations.VectorMovesAndReductions : Prop :=
  ∀ (p : Fin 192) (s t t1 t2 t3 t4 : State) (w : Nat) (as bs cs out : List Nat),
    let x := t.tile p
    let a := x.berth (iBa w)
    let b := x.berth (iBb w)
    let c := x.berth (iBc w)
    let d := x.berth (iBd w)
    let rq := rqOperand p
    let n := nbits w 31 0
    let xp := fun (v : Nat) => Xp.ofBytes (leBytes 24 v)
    let done := fun (u : State) (fl : OutFlags) => Host.Outcome.next (((u.runsWrite d (d.runs out)).arithStatus p x.pc fl).advance p)
    let mode := fun (u : State) (i : Nat) => (⟨nbits w 91 90, nbit w 89 == 1,
      srDraw u.srSeed (nbits w 63 32) (d.originRow + i / d.rowElems) (d.originCol + i % d.rowElems)⟩ : RMode)
    (t.vecCheck p w = none → t.readElems rq a (a.coords n) = (.ok as, t1) →
      (Issues s t p 3 0x0F w → out = as → t1.runsPre rq d (d.runs out) = (none, t4) → exec (.vmov p) s = done t4 {}) ∧
      (∀ f v, Issues s t p 3 0x0C w → fmtElem d.fmt = some f →
        let l := as.map fun e => rne32 (elemValue a.fmt e)
        v = (match nbits w 87 86 with
          | 1 => reduce32 max32 0xFF800000 l
          | 2 => reduce32 min32 0x7F800000 l
          | _ => reduce32 add32 0 l) →
        out = [(f.round (mode t1 0) (f32 v)).1] → t1.runsPre rq d (d.runs out) = (none, t4) →
        exec (.vred p) s = done t4 (.ofRnd (f.round (mode t1 0) (f32 v)).2)) ∧
      (∀ f, Issues s t p 3 0x06 w → fmtElem d.fmt = some f → a.scaleEn = false →
        let r := (as.map (elemValue a.fmt)).zipIdx.map fun (v, i) => f.round (mode t1 i) v
        out = r.map (·.1) → t1.runsPre rq d (d.runs out) = (none, t4) → exec (.vcvt p) s = done t4 (orFlags (r.map fun e => .ofRnd e.2))) ∧
      (∀ f, Issues s t p 3 0x06 w → fmtElem d.fmt = some f → a.scaleEn = true →
        let sb := x.berth a.scaleBerth
        t1.readElems rq sb ((a.coords n).map fun (r, k) => (r, (a.originCol + k) / 32)) = (.ok bs, t2) →
        let r := ((as.zip bs).map fun (v, k) => mxValue a.fmt v k).zipIdx.map fun (v, i) => f.round (mode t2 i) v
        out = r.map (·.1) → t2.runsPre rq d (d.runs out) = (none, t4) → exec (.vcvt p) s = done t4 (orFlags (r.map fun e => .ofRnd e.2))) ∧
      (t1.readElems rq b (b.coords n) = (.ok bs, t2) →
        (iBc w ≠ 0 ∨ iOp w ≠ 0x0D → t2.readElems rq c (c.coords n) = (.ok cs, t3)) →
        (Issues s t p 3 0x0E w → out = as.zipIdx.map (fun (v, i) => if cs.getD i 0 ≠ 0 then v else bs.getD i 0) →
          t3.runsPre rq d (d.runs out) = (none, t4) → exec (.vsel p) s = done t4 {}) ∧
        (Issues s t p 3 0x0D w →
          let r := as.zipIdx.map fun (v, i) => [xp v, xp (bs.getD i 0)] ++ if iBc w = 0 then [] else [xp (cs.getD i 0)]
          out = r.map (fun l => leNat (xpAdd l).bytes) → (iBc w = 0 → t3 = t2) →
          t3.runsPre rq d (d.runs out) = (none, t4) →
          exec (.xadd p) s = done t4 (orFlags (r.map fun l => { OutFlags.ofXp (xpAdd l) with ovf := xpAddOvf l }))))) ∧
    (∀ ti op, t.vecCheck p w = some ti → Issues s t p 3 op w →
      ∀ i, (op, i) ∈ [(0x00, Instr.vadd p), (0x01, .vsub p), (0x02, .vmul p), (0x03, .vfma p), (0x04, .vmax p), (0x05, .vmin p),
        (0x06, .vcvt p), (0x07, .vrcp p), (0x08, .vsqrt p), (0x09, .vrsq p), (0x0A, .vexp2 p), (0x0B, .vlog2 p), (0x0C, .vred p),
        (0x0D, .xadd p), (0x0E, .vsel p), (0x0F, .vmov p)] → exec i s = .next (t.trap p ti))

/-- MMA and MMA.CFG (R62 to R65, R101 to R104). MMA.CFG sets the configuration of the named set and nothing else. MMA enters every
product of the block into its element's accumulation; without WRITE the set stays open with the new values and a term that saturates
sets XP_OVF, with WRITE the outputs are rounded and written, the set closes and its configuration stays. A word that fails a check traps.
Model's readings and choices it rests on: log entries 23, 25, 28, 31, 161, 185, 186. -/
def Obligations.MatrixOperations : Prop :=
  ∀ (p : Fin 192) (s t : State) (w : Nat),
    let x := t.tile p
    let m := mmaArgs x w
    let rq := rqOperand p
    (Issues s t p 2 1 w → nbits w 115 92 = 0 → nbits w 72 64 = 0 →
      exec (.mmaCfg p) s = .next (t.setTile p { x with pc := t.nextPc p, acc := vput x.acc (nbits w 91 90) {
          vget .empty x.acc (nbits w 91 90) with
          cfgFixed := nbit w 89 == 1, cfgAnchor := sint 16 (nbits w 88 73), cfgAlpha := nbits w 63 32, cfgStream := nbits w 31 0 } })) ∧
    (Issues s t p 2 1 w → nbits w 115 92 ≠ 0 ∨ nbits w 72 64 ≠ 0 → exec (.mmaCfg p) s = .next (t.trap p ⟨0x0001, 0, 0⟩)) ∧
    (∀ ti, Issues s t p 2 0 w → t.mmaCheck p w = some ti → exec (.mma p) s = .next (t.trap p ti)) ∧
    (∀ u o, Issues s t p 2 0 w → t.mmaCheck p w = none → t.mmaRead p m = (.ok o, u) →
      let acc := (vget .empty x.acc m.acc).begin x m
      let ents := (List.range 256).map (mmaEnt x m acc o)
      mmaAnchorBad x m acc o = false →
      (m.write = false → exec (.mma p) s = .next (((u.setTile p { u.tile p with
        acc := vput (u.tile p).acc m.acc { acc with kEnd := mmaK0 x m + m.klen, kSum := acc.kSum + m.klen, ents := ents } }).arithStatus
          p x.pc { ovf := newOvf acc.ents ents }).advance p)) ∧
      (∀ v, m.write = true →
        let r := ents.zipIdx.map fun (e, i) => u.mmaOut x m acc e i
        let rows := (cutRows 16 16 (r.map (·.1))).zipIdx.map fun (l, k) => (⟨16 * m.mblk + k, 16 * m.nblk, l⟩ : ElemRun)
        let d := x.berth m.bd
        u.runsPre rq d rows = (none, v) →
        let y := v.runsWrite d rows
        exec (.mma p) s = .next (((y.setTile p { y.tile p with acc := vput (y.tile p).acc m.acc {
          AccSet.empty with cfgFixed := acc.cfgFixed, cfgAnchor := acc.cfgAnchor, cfgAlpha := acc.cfgAlpha,
                              cfgStream := acc.cfgStream } }).arithStatus p x.pc (orFlags (r.map (·.2)))).advance p)))

/-- DMA words (R106): one that passes its checks queues its transfer with the berths as they read now, while the engine holds fewer
than 16; with 16 queued, issue holds, and one that fails a check traps. What a DMA engine does (R107, R171, R172, R309): a start reads a local source and sends requests for a remote side, piece by
piece while a tag is free; a transfer all of whose pieces are sent and whose bytes are all here and acknowledged writes a local destination and raises its done counter by one; a failed one halts the engine,
which discards its queue, breaks the counters it owes, with the collectives that wait on one, and reports.
Model's readings and choices it rests on: log entries 23, 30, 187, 188. -/
def Obligations.DmaOperations : Prop :=
  (
    ∀ (p : Fin 192) (s t : State) (w : Nat),
      let x := t.tile p
      let e := nbit w 91
      let eng := vget .idle x.dma e
      let xfer : DmaXfer := { src := x.berth (iBa w), dst := x.berth (iBd w), copy2 := iOp w == 1, n := nbits w 31 0, tc := nbits w 90 89,
                              vc := nbit w 88, done := if nbit w 87 = 1 then some (nbits w 86 77) else none }
      ∀ op c, (op, c) ∈ [(0, Instr.dmaCopy p), (1, .dmaCopy2 p)] → Issues s t p 4 op w →
        (∀ ti, t.dmaCheck p w = some ti → exec c s = .next (t.trap p ti)) ∧
        (t.dmaCheck p w = none → eng.queue.length < 16 →
          exec c s = .next (t.setTile p { x with pc := t.nextPc p, dma := vput x.dma e { eng with queue := eng.queue ++ [xfer] } })) ∧
        (t.dmaCheck p w = none → 16 ≤ eng.queue.length → exec c s = .next t)) ∧
  (
    ∀ (p : Fin 192) (e : Fin 2) (s : State),
      let d := s.dmaEng p e
      (∀ x rest, s.dom.worksRst = false → d.halted = false → d.run = none → s.tileState p ≠ 5 → d.queue = x :: rest →
        let t := s.setDma p e { d with queue := rest, run := some ⟨x, List.replicate x.bytes none, 0, [], none, 0⟩ }
        (x.src.kind = 4 → exec (.dmaTransferStart p e) s = .next (t.dmaSend p e x [] x.pieces)) ∧
        (∀ l u, x.src.kind ≠ 4 → t.dmaRead p x.segs = (.ok l, u) →
          let v := u.dmaMod p e fun r => { r with data := l.map some }
          exec (.dmaTransferStart p e) s = .next (if x.dst.kind = 4 then v.dmaSend p e x l x.pieces else v)) ∧
        (∀ code a u, x.src.kind ≠ 4 → t.dmaRead p x.segs = (.error (code, a), u) →
          exec (.dmaTransferStart p e) s = .next (u.dmaMod p e fun r => { r with fail := some code, failAddr := u.globalAddr a }))) ∧
      (∀ x l, s.dmaSend p e x l [] = s ∧ ∀ g rest, s.dmaSend p e x l (g :: rest) =
        if 65536 ≤ s.router.reqs.length then s
        else ((s.dmaAsk p e x l g).dmaMod p e fun r => { r with sent := r.sent + 1 }).dmaSend p e x l rest) ∧
      (∀ r l, d.run = some r → r.tags = [] → r.allSent = true → r.fail = none → s.dom.worksRst = false → s.tileState p ≠ 5 → allSome r.data = some l →
        let ended := fun (u : State) =>
          let v := u.setDma p e { u.dmaEng p e with run := none }
          match r.xfer.done with
          | some k => v.bump (R.CTR_VALUE.at (ctrOff (p.val / 48) k)) (R.CTR_CTR_OVF.at (ctrOff (p.val / 48) k)) 1
          | none => v
        (r.xfer.dst.kind = 4 → exec (.dmaTransferDone p e) s = .next (ended s)) ∧
        (∀ u, r.xfer.dst.kind ≠ 4 → s.dmaWrite p l r.xfer.segs = (none, u) → exec (.dmaTransferDone p e) s = .next (ended u)) ∧
        (∀ c a u, r.xfer.dst.kind ≠ 4 → s.dmaWrite p l r.xfer.segs = (some (c, a), u) → exec (.dmaTransferDone p e) s =
          .next (u.dmaMod p e fun r => { r with fail := some c, failAddr := u.globalAddr a }))) ∧
      (∀ r code, d.run = some r → r.fail = some code → s.tileState p ≠ 5 →
        let owed := r.xfer :: d.queue
        let t := s.setDma p e ⟨[], none, true⟩
        exec (.dmaHalt p e) s = .next ((owed.foldl (fun s x => match x.done with
          | some k => s.breakCtr (p.val / 48) k
          | none => s) t).report p .dmaHalt (e.val * 2 ^ 16 + code) r.failAddr)) ∧
      (∀ die k, s.breakCtr die k =
        ((s.fset (R.CTR_BROKEN.at (ctrOff die k)) 1).meng die).colls.foldl (fun u c =>
          if c.state = .queued ∧ c.cst.trigEn = true ∧ c.cst.trigIn = k then u.collAbort die c 0x0B08 c.cst.rank false else u)
          (s.fset (R.CTR_BROKEN.at (ctrOff die k)) 1)))

/-- Collective words (R109 to R113, R339, R340): the berth of the consist, then what the consist, the operands and the matrix part must
pass, in order; one that passes with room at the engine is launched with its consist and berths; MMA.RS and MMA.A2A first run their
blocks, MMA.AG keeps its tile as it stands; with 64 held, issue holds. What a launch keeps (R340): the collective is the last of its
die's engine, with its consist and berths, and its sequence number is the last used; PC, tiles and memory are as before.
Model's readings and choices it rests on: log entries 23, 89, 90. -/
def Obligations.CollectiveIssueAndLaunch : Prop :=
  (
    ∀ (p : Fin 192) (s t u : State) (w : Nat) (ws : List Nat),
      let x := t.tile p
      let a := fusedArgs x w
      let c := Consist.ofList ws
      let src := x.berth c.srcB
      let dst := x.berth c.dstB
      let n := c.extents.1
      let m := c.extents.2
      let named := fun (op : Nat) =>
        let places := t.mmaPlaces p a [⟨iBc w, false, t.ownScratch p, fun _ => true⟩] (op == 2) (op != 2)
        firstTrap ([trapIf (t.mmaEncBad w) 0x0001, chkPlaces x places places []] ++ mmaCond x a)
      let holds := fun (b : Berth) => b.kind != 4
      (∀ ti, Issues s t p 5 3 w → chkBerth x (iBc w) false holds (fun _ => true) = some ti →
        exec (.collStart p) s = .next (t.trap p ti)) ∧
      (∀ op i ti, (op, i) ∈ [(1, Instr.mmaRs p), (2, .mmaAg p), (3, .mmaA2a p)] → Issues s t p 6 op w → named op = some ti →
        exec i s = .next (t.trap p ti)) ∧
      (t.readConsist p (iBc w) = (.ok (some ws), u) →
        (Issues s t p 5 3 w → chkBerth x (iBc w) false holds (fun _ => true) = none →
          let checks := firstTrap (u.consistTraps x (iBc w) ws ++
            [u.chkColl x ((if n = 0 then [] else [(c.srcB, n, false)]) ++ if m = 0 ∧ c.dstB = 0 then [] else [(c.dstB, m, true)]),
             trapIf (u.collBad p c || (n != 0 && src.fmt != c.elem) || (c.dstB != 0 && dst.fmt != c.elem)) 0x0042])
          (∀ ti, checks = some ti → exec (.collStart p) s = .next (u.trap p ti)) ∧
          (checks = none →
            exec (.collStart p) s = .next (if u.launchRoom p then (u.launch p c 0 src.rowElems none src dst).advance p else u))) ∧
        (∀ op i, (op, i) ∈ [(1, Instr.mmaRs p), (2, .mmaAg p), (3, .mmaA2a p)] → Issues s t p 6 op w → named op = none →
          (∀ ti, u.fusedCheck p op w (some ws) = some ti → exec i s = .next (u.trap p ti)) ∧
          (u.fusedCheck p op w (some ws) = none →
            (u.launchRoom p = false → exec i s = .next u) ∧
            (u.launchRoom p = true →
              (op = 2 → exec i s = .next ((u.launch p c 2 src.rowElems (some (x, w)) src (x.berth a.bb)).advance p)) ∧
              (∀ v, op ≠ 2 → u.fusedRun p a = (.ok (), v) →
                exec i s = .next ((v.launch p c op (16 * a.nb) none (x.berth a.bd) dst).advance p)) ∧
              (∀ ti v, op ≠ 2 → u.fusedRun p a = (.error ti, v) → exec i s = .next (v.trap p ti))))))) ∧
  (
    ∀ (p : Fin 192) (s : State) (c : Consist) (fused rowW : Nat) (snap : Option (Tile × Nat)) (src dst : Berth),
      (s.meng (p.val / 48)).aborts = [] →
      let t := s.launch p c fused rowW snap src dst
      (t.meng (p.val / 48)).lastSeq = some c.seq ∧
      (∃ x, (t.meng (p.val / 48)).colls = (s.meng (p.val / 48)).colls ++ [x] ∧ x.cst = c ∧ x.src = src ∧ x.dst = dst ∧ x.tile = p.val ∧
        x.state = .queued) ∧
      (∀ q, t.tile q = s.tile q) ∧ (∀ a, t.cell a = s.cell a) ∧ t.msgs = s.msgs)

/-- Ordinary descriptors (R130, R133, R139, R171): the oldest descriptor starts when the engine is free of a run and of an apply owed,
and a `TRIG_IN` counter is at its value; it reads its operands and does its rows, bags, heads or positions in order; an operand that
reads UNCORRECTABLE stops it with WE_ECC and the address. The control of an engine (R137 to R139, R150, R151): a post of the registers of `WE_POST` takes a number that follows SEQ, when no
check fails; CLEAR cancels every descriptor and leaves HALTED; a descriptor that is done counts, adds to its `TRIG_OUT` counter and
lets the engine rest; an error halts the engine, loads `WE_ERR` and reports; so does a broken `TRIG_IN`.
Model's readings and choices it rests on: log entries 1, 36, 37, 38, 169. -/
def Obligations.WaysideEngines : Prop :=
  (
    ∀ (n : Fin 8) (s : State) (d : List Nat) (q : List (List Nat)),
      let o := dOpnd d
      let p := dPar d
      let e := n.val
      (s.weng n).queue = d :: q → s.weReady n d = true →
      ∀ op i (work : State → Except Nat Unit × State), (op, i, work) ∈
        [(0x01, Instr.gather n, fun s => bindR (s.weList e d 1 (p 0)) fun v s => s.weGather e (o 0) (o 2) v.zipIdx),
         (0x02, .embedBag n, fun s => bindR (s.weList e d 1 (p 0)) fun v s => bindR (s.weList e d 2 (p 1 + 1)) fun f s =>
           bindR (s.weList e d 4 (p 0) (o 4).valid) fun w s => s.weBags e d (o 0) (o 3)
             (v.zipIdx.map fun (x, i) => (x, if (o 4).valid then some (w.getD i 0) else none)) (f.zip (f.drop 1)).zipIdx),
         (0x03, .scatterAdd n, fun s => bindR (s.weList e d 1 (p 0)) fun v s => s.weScatter e d (o 0) (o 2) v.zipIdx),
         (0x04, .elemwise n, fun s => s.weElemwise e d),
         (0x05, .reduce n, fun s => s.weReduce e d (List.range (p 0)) []),
         (0x06, .attnDecode n, fun s => bindR (s.weGrid e (o 0) (p 1) (p 2)) fun u s => bindR (s.weGrid e (o 1) (p 0) (p 2)) fun k s =>
           bindR (s.weGrid e (o 2) (p 0) (p 2)) fun v s => s.weAttn e d k v u.zipIdx),
         (0x07, .quantMx n, fun s => bindR (s.weList e d 0 (p 0)) fun x s =>
           s.weQuant e d (o 1) (o (o 1).scaleBerth) false (p 0 / 32) 0 (x.map (elemValue (o 0).fmt))),
         (0x08, .dequantMx n, fun s => s.weDequant e d),
         (0x09, .topk n, fun s => s.weTopk e d (List.range (p 0))),
         (0x0A, .compact n, fun s => bindR (s.weList e d 0 (p 0)) fun x s => bindR (s.weList e d 1 (p 0)) fun m s =>
           let kept := ((x.zip m).filter fun y => y.2 != 0).map (·.1)
           bindR (s.weWrite e (o 2) ((o 2).runs kept)) fun _ s =>
             (s.weCopied e (o 2).fmt kept).weWrite e (o 3) [⟨0, 0, [kept.length % 2 ^ 32]⟩])] →
      dOp d = op →
      let t := (s.putWeng e { s.weng e with queue := q, run := some ⟨d, none⟩ }).setWeState e 1
      (∀ u, work t = (.ok (), u) → exec i s = .next u) ∧
      (∀ a u, work t = (.error a, u) →
        exec i s = .next (u.setWeng e { u.weng e with run := some ⟨d, some (0x0610, u.globalAddr a)⟩ }))) ∧
  (
    ∀ (n : Fin 8) (src : Party) (s : State),
      let w := s.weng n
      let at_ := fun (f : Fld) => f.at (mdOff n)
      let result := fun (t : State) (code : Nat) => t.fset (at_ R.WE_POST_CTL_RESULT) code
      let d := (List.range 32).map fun k => (s.csrGet (R.WE_POST + mdOff n + 8 * k)).toNat
      let delta := (2 ^ 32 + dSeq d - s.fget (at_ R.WE_QSTAT_SEQ)) % 2 ^ 32
      let alive := w.halted = false ∧ s.weState n ≠ 4 ∧ s.weState n ≠ 5 ∧ s.dom.worksRst = false
      (s.Reaches src (R.WE_POST_CTL + mdOff n) →
        (¬ alive → exec (.wePostGo n src) s = .next (result s 0x060B)) ∧
        (alive → delta = 0 ∨ 2 ^ 31 ≤ delta →
          exec (.wePostGo n src) s = .next (result (s.bump (at_ R.WE_EVENTS2_DUP_COUNT) (at_ R.WE_FLAGS_DUP_OVF)) 0x0602)) ∧
        (alive → 2 ≤ delta → delta < 2 ^ 31 →
          exec (.wePostGo n src) s = .next (result (s.report (0x0210 + n) .weError 0x0603 0) 0x0603)) ∧
        (alive → delta = 1 → s.weLateCode n true d ≠ 0 → exec (.wePostGo n src) s = .next (result s (s.weLateCode n true d))) ∧
        (alive → delta = 1 → s.weLateCode n true d = 0 →
          let t := s.fset (at_ R.WE_QSTAT_SEQ) (dSeq d)
          (dCommit d = true → exec (.wePostGo n src) s = .next (result (t.putWeng n { w with acts := w.acts ++ [⟨d, false⟩] }) 0)) ∧
          (dCommit d = false →
            let u := t.putWeng n { w with queue := w.queue ++ [d] }
            exec (.wePostGo n src) s = .next (result (if u.weState n = 0 then u.weRest n else u) 0))) ∧
        exec (.weClear n src) s = .next (
          let t := (s.weCancelAll n w.all).putWeng n { w with queue := [], run := none, halted := false }
          if t.weState n = 3 ∨ t.weState n = 5 then t else t.setWeState n 0)) ∧
      (∀ d, w.run = some ⟨d, none⟩ →
        let t := ((s.putWeng n { w with run := none }).weRest n).bump (at_ R.WE_EVENTS_DONE_COUNT) (at_ R.WE_FLAGS_DONE_OVF) 1
        exec (.weDescDone n) s = .next ((if dTrigOut d then t.ctrAdd (n.val / 2) (nbits (dWord d 1) 53 44) 1 else t).weTell n (dSeq d) 0)) ∧
      (∀ d code a, w.run = some ⟨d, some (code, a)⟩ →
        let t := s.putWeng n { w with run := none }
        exec (.weError n) s = .next ((((t.weCapture n code (dSeq d) a).weHalt n).report (0x0210 + n) .weError code a).weTell
          n (dSeq d) code)) ∧
      (∀ d q, w.run = none → w.queue = d :: q → s.weState n = 2 → dTrigIn d = true →
        s.flag (R.CTR_BROKEN.at (ctrOff (n.val / 2) (nbits (dWord d 1) 63 54))) = true →
        let t := s.putWeng n { w with queue := q }
        exec (.weError n) s = .next ((((t.weCapture n 0x0611 (dSeq d) 0).weHalt n).report (0x0210 + n) .weError 0x0611 0).weTell
          n (dSeq d) 0x0611)))

/-- Commit actions (R128, R145, R146, R149): an apply owed starts after the running descriptor; its actions run in order, each marked done
and counted in its `TRIG_OUT` counter;
one whose operand reads UNCORRECTABLE halts the engine, loads `WE_ERR` and reports APPLY_LOST; when none is left, `WE_APPLY` names the
epoch, the actions of the epoch are gone and the engine rests.
Model's readings and choices it rests on: log entries 37, 39, 41. -/
def Obligations.CommitActions : Prop :=
  ∀ (n : Fin 8) (s : State) (e : Nat),
    let w := s.weng n
    w.owed = some e →
    (w.stuck = false → w.run = none → s.weState n ≠ 5 → s.weState n ≠ 3 → s.dom.worksRst = false →
      exec (.epochApply n) s = .next ((s.listRead n).setWeState n 3)) ∧
    (s.weState n = 3 → w.nextAct e = none →
      exec (.applied n) s = .next (((s.putWeng n { w with owed := none, acts := w.acts.filter (fun a => dEpoch a.desc != e) }).fset
        (R.WE_APPLY_EPOCH.at (mdOff n)) e).weRest n)) ∧
    (∀ i d op c, (op, c) ∈ [(0x10, Instr.optSgdm n), (0x11, .optAdamw n)] → s.weState n = 3 → w.nextAct e = some (i, d) → dOp d = op →
      (∀ u, s.weOpt n d e = (.ok (), u) →
        let t := u.putWeng n { u.weng n with acts := (u.weng n).acts.modify i fun a => { a with done := true } }
        exec c s = .next (if dTrigOut d then t.ctrAdd (n.val / 2) (nbits (dWord d 1) 53 44) 1 else t)) ∧
      (∀ a u, s.weOpt n d e = (.error a, u) →
        let t := (u.weCapture n 0x0613 (dSeq d) (u.globalAddr a)).weHalt n
        exec c s = .next ((t.setWeng n { t.weng n with stuck := true }).report (0x0210 + n) .applyLost e (t.globalAddr a)))) ∧
    (∀ d r g w m v, dOp d = 0x10 → dSub d = 0 →
      let g' := mul32 (mul32 g (dPar d 3)) r
      let m' := add32 (mul32 (dPar d 1) m) g'
      optElem d r g w m v = (sub32 w (mul32 (dPar d 0) (add32 m' (mul32 (dPar d 2) w))), m', 0))

/-- The code of a byte (R160, R162): with no bit marked a single error is corrected and a double error detected; with one bit marked,
whatever it reads, the byte is delivered, also with one further error; with two marked both are resolved and a further error is
detected. -/
def Obligations.EccGuarantees : Prop :=
  ∀ (b : Byte) (j k l : Nat), j < 13 → k < 13 → l < 13 → j ≠ k → j ≠ l → k ≠ l →
    let w := eccEncode b
    eccDecode w 0 = .clean b ∧ eccDecode (w ^^^ bit13 k) 0 = .corrected b k ∧
    eccDecode (w ^^^ bit13 j ^^^ bit13 k) 0 = .uncorrectable ∧
    (∀ x : BitVec 13, eccDecode (w ^^^ (x &&& bit13 j)) (bit13 j) = .clean b ∧
      eccDecode (w ^^^ (x &&& bit13 j) ^^^ bit13 k) (bit13 j) = .corrected b k) ∧
    (∀ x : BitVec 13, let m := bit13 j ||| bit13 k
      eccDecode (w ^^^ (x &&& m)) m = .clean b ∧ eccDecode (w ^^^ (x &&& m) ^^^ bit13 l) m = .uncorrectable)

/-- Where the bits of a byte lie, and which of them a mark erases (R161, R162): bit k of the byte at offset a is on die
((a mod 16) + k) mod 16, and the erasure mask holds k exactly where that die is marked. Every die holds 13 of the 208 bits of a group
of 16 bytes. -/
def Obligations.ErasureMask : Prop :=
  ∀ marks a k : Nat, k < 13 →
    bitDie a k = (a % 16 + k) % 16 ∧ ((eraseMask marks a).getLsbD k = true ↔ marks.testBit ((a % 16 + k) % 16) = true) ∧
    (∀ die, die < 16 → ((List.range 16).map fun j => ((List.range 13).filter fun c => bitDie j c == die).length).sum = 13)

/-- A whole-byte write outside registered regions (R167): the byte reads what was written, CLEAN, with no effect of the read (where at
most two of its bits are marked and a channel of its device is up); no
other byte of the map of R35 lies in its place, and every byte in another place keeps its codeword; registers and tiles are as before.
A read of a byte that decodes CLEAN has no effect.
Model's readings and choices it rests on: log entries 43, 44, 170, 195. -/
def Obligations.MemoryReadAfterWrite : Prop :=
  ∀ (s : State) (rq : Rq) (a : Nat) (b : Byte), s.Canon → a < rsvBase → (s.metaHeld a).reg = false →
    let t := s.writeByte a b
    (s.chDead a = false → (maskPositions (s.maskAt a)).length ≤ 2 → t.readCell rq a = (some b, t)) ∧
    t.cell a = b ∧ (∀ x, x < rsvBase → x ≠ a → s.slot x ≠ s.slot a) ∧
    (∀ x, s.slot x ≠ s.slot a → t.cell x = s.cell x ∧ t.word13 x = s.word13 x) ∧
    { t with mem := s.mem, flips := s.flips } = s ∧
    (∀ x v, s.chDead x = false → eccDecode (s.word13 x) (s.maskAt x) = .clean v → s.readCell rq x = (some v, s))

/-- The two views of a registered region (R227, R228): a write in an open epoch changes the written byte of the working view and no
other byte of its unit; the committed view of the unit is unchanged; the unit is tagged with the open epoch. The statement is about a unit
whose metadata entry holds no error.
Model's readings and choices it rests on: log entry 195. -/
def Obligations.CommitViews : Prop :=
  ∀ (s : State) (g : Region) (m : UnitMeta) (a : Nat) (b : Byte), s.Canon → m.reg = true → vget none s.regions m.region = some g →
    g.base % 4096 = 0 → g.shadow % 4096 = 0 → g.len % 4096 = 0 → g.base ≤ a → a < g.base + g.len →
    g.base + g.len ≤ g.shadow ∨ g.shadow + g.len ≤ g.base → g.base + g.len ≤ rsvBase → g.shadow + g.len ≤ rsvBase →
    m.tag ≤ s.epochC + 1 →
    (∀ x, x / 4096 = a / 4096 → s.unitMeta x = m ∧ s.metaFlipped x = false) →
    let t := s.writeByte a b
    t.cell (t.workAddr a) = b ∧ (t.unitMeta a).tag = s.epochC + 1 ∧
    ∀ x, x / 4096 = a / 4096 →
      (x ≠ a → t.cell (t.workAddr x) = s.cell (s.workAddr x)) ∧ t.cell (t.commitAddr x) = s.cell (s.commitAddr x)

/-- Memory devices (R159, R170, R182): a failed burst counts, and the eighth in a row retires its channel and reports; a drain of the
correctable-error buckets takes the leak from each bucket below its capacity; a bucket that fills reports CE_STORM and then neither drains
nor counts until it is read; a refresh sets the doubled rate by the hottest die of the
stack.
Model's readings and choices it rests on: log entries 45, 48, 116. -/
def Obligations.MemoryDevices : Prop :=
  ∀ (n : Fin 8) (s : State), s.dom.worksRst = false →
    (∀ (ch : Fin 4) (first : Bool), nbit (s.fget (R.MD_STATUS_CH_UP.at (mdOff n))) ch = 1 →
      let d := s.mdev n
      let k := (if first then 0 else vget 0 d.burst ch) + 1
      let up := R.MD_STATUS_CH_UP.at (mdOff n)
      (k < 8 → exec (.burstCrcFail n ch first) s = .next (s.setMdev n { d with burst := vput d.burst ch k })) ∧
      (8 ≤ k → exec (.burstCrcFail n ch first) s = .next (
        let t := (s.setMdev n { d with burst := vput d.burst ch 0 }).fset up (s.fget up - 2 ^ ch.val)
        (t.fset (R.ECC_FLAGS_CH_RETIRED.at (mdOff n)) 1).report (0x0200 + n) .chRetired ch 0))) ∧
    exec .eccBucketDrain s = .next ((List.range 4).foldl
      (fun s d => s.ceDrain (R.SP_BUCKET_LEVEL.at (dieOff d)) (0x0800 + d))
      ((List.range 8).foldl (fun s n => s.ceDrain (R.ECC_BUCKET_LEVEL.at (mdOff n)) (0x0200 + n)) s)) ∧
    (∀ f source,
      let full := vget false s.ceFull (ceSlot source)
      let cap := s.od D.ECC_BUCKET_CAP
      let fills := ({ s.fset f cap with ceFull := vput s.ceFull (ceSlot source) true } : State).report source .ceStorm cap 0
      (full = true → s.ceDrain f source = s ∧ s.ceBucket f source = s) ∧
      (full = false →
        (s.fget f < cap → s.ceDrain f source = s.fset f (s.fget f - s.od D.ECC_BUCKET_LEAK)) ∧
        (cap ≤ s.fget f → s.ceDrain f source = fills) ∧
        (s.fget f + 1 < cap → s.ceBucket f source = s.fset f (s.fget f + 1)) ∧
        (cap ≤ s.fget f + 1 → s.ceBucket f source = fills))) ∧
    (∀ t, s.hottest ((List.range 16).map fun k => 56 + 17 * n.val + k) = some t →
      exec (.refresh n) s = .next (s.setFlag (R.MD_STATUS_REFRESH_2X.at (mdOff n)) (decide (850 ≤ t))))

/-- The scrubber (R175 to R179, R184): GO starts a pass over the range of `SCRUB_BASE` and `SCRUB_LEN`, unless one or the background
test runs, or the range is bad; STOP ends it at the next group; a group that reads CLEAN adds 16 bytes and leaves memory as it is; a pass that has reached its end
is done, one that was stopped is stopped.
Model's readings and choices it rests on: log entries 46, 47. -/
def Obligations.Scrubbing : Prop :=
  ∀ (n : Fin 8) (src : Party) (s : State),
    let d := s.mdev n
    let u := d.scrub
    let at_ := fun (f : Fld) => f.at (mdOff n)
    let a := scrubAddr n u.sram u.next
    (s.Reaches src (R.SCRUB_CTL + mdOff n) →
      exec (.scrubStop n src) s = .next (if u.running then s.setMdev n { d with scrub := { u with stop := true } } else s) ∧
      (∀ (v : BitVec 64), nbits v.toNat 39 32 ≤ 200 → nbits v.toNat 3 0 = 1 →
        let t := (s.fset (at_ R.SCRUB_CTL_RATE) (nbits v.toNat 39 32)).fset (at_ R.SCRUB_CTL_MODE) 0
        let base := t.fget (at_ R.SCRUB_BASE_OFFSET)
        let len := t.fget (at_ R.SCRUB_LEN_LEN)
        let sram := t.flag (at_ R.SCRUB_BASE_TARGET)
        let bad := base % 16 ≠ 0 ∨ len % 16 ≠ 0 ∨ len = 0 ∨ scrubRoom sram < base + len
        exec (.scrubGo n src v) s = .next (
          if u.running = true ∨ t.flag R.BOOT_STATUS_BG_RUN = true then t.fset (at_ R.SCRUB_CTL_RESULT) 0x0701
          else if bad then t.fset (at_ R.SCRUB_CTL_RESULT) 0x0702
          else ((t.scrubClear n sram base).setMdev n { t.mdev n with
            scrub := { running := true, stop := false, sram := sram, base := base, len := len, next := base,
                       mode := t.fget (at_ R.SCRUB_CTL_MODE), byCmd := false, ring := 0, bgTest := false,
                       started := (t.scrubClear n sram base).rtime } }).fset (at_ R.SCRUB_CTL_RESULT) 0))) ∧
    (u.running = true → s.dom.worksRst = false →
      (u.stop = false → u.next < u.base + u.len → s.Canon →
        ∃ t, exec (.scrubGroup n) s = .next t ∧ (t.mdev n).scrub = { u with next := u.next + 16 } ∧
          ((∀ i, i < 16 → ∃ b, eccDecode (s.word13 (a + i)) (s.maskAt (a + i)) = .clean b) →
            t.mem = s.mem ∧ t.flips = s.flips ∧ t.msgs = s.msgs ∧
            t.fget ⟨scrubSum n 2, 0, 64⟩ = (s.fget ⟨scrubSum n 2, 0, 64⟩ + 16) % 2 ^ 64)) ∧
      (∀ status, status = 3 ∧ u.base + u.len ≤ u.next ∨ status = 2 ∧ u.stop = true ∧ u.next < u.base + u.len → u.byCmd = false →
        exec (.scrubDone n) s =
          .next ((s.fset (scrubStatus n) status).setMdev n { d with scrub := { u with running := false, stop := false } })))

/-- Dwente lanes (R188, R189, R208 to R210, R212): lock from codewords whose tags count on, its loss, a codeword that does not decode or
carries no sync pattern, the EN and FRESH bits, and INIT repeated until an INIT_ACK has arrived, from ACQUIRE on, under the FSEQ of the one
before it while that is not acknowledged. A lane that goes down counts, reports, and keeps its credits and replay buffer for a resume; a
held lane stays held under FRESH, which a lane without lock notes for its next INIT.
Model's readings and choices it rests on: log entries 57, 171, 173, 196. -/
def Obligations.DwenteLanes : Prop :=
  ∀ (l : Fin 2) (src : Party) (s : State),
    let x := s.lane l
    let st := R.DW_LANE_STATUS_STATE.at (laneOff l)
    let down := fun (t : State) (cause state : Nat) =>
      let v := (t.bump (R.DW_LANE_STATUS_LANE_DOWNS.at (laneOff l)) (R.DW_LANE_FLAGS_DOWNS_OVF.at (laneOff l)) 1).fset st state
      (v.setLane l { v.lane l with
        downAt := v.rtime, downCause := cause, initRx := false, ackRx := false, awaitSeq := false, badRun := 0,
        askFresh := (v.lane l).askFresh || cause == 4, reported := true, resendQ := [] }).report (0x0400 + l) .laneDown l 0
    (∀ cws, s.dom.lineRst = false → s.laneEn l = true → s.laneState l < 2 →
      (∀ ts, cwTags 0xB4 cws = some ts → countsRun ts = true →
        exec (.dwLock l cws) s = .next ((((s.fset (R.DW_LANE_STATUS_LOS.at (laneOff l)) 0).traffic
          (R.DW_LANE_FEC_CORR_CW.at (laneOff l)) (ts.countP (·.2))).setLane l { x with badRun := 0 }).fset st 2)) ∧
      (∀ ts, cwTags 0xB4 cws = some ts → countsRun ts = false → exec (.dwLock l cws) s = .next s) ∧
      (cwTags 0xB4 cws = none → exec (.dwLock l cws) s = .next s)) ∧
    (s.dom.lineRst = false → 2 ≤ s.laneState l →
      exec (.dwLockLost l false) s = .next (down s 1 1) ∧
      exec (.dwLockLost l true) s = .next (down (s.fset (R.DW_LANE_STATUS_LOS.at (laneOff l)) 1) 1 1) ∧
      (s.Reaches src R.DW_CTL → s.laneState l ≠ 5 →
        exec (if l = 0 then Instr.freshCl src else .freshSl src) s = .next (down s 4 2)) ∧
      (s.Reaches src R.DW_CTL → s.laneState l = 5 →
        exec (if l = 0 then Instr.freshCl src else .freshSl src) s = .next (s.setLane l { x with askFresh := true })) ∧
      (s.Reaches src R.DW_CTL → exec (if l = 0 then Instr.enCl src false else .enSl src false) s =
        .next (((down s 1 1).fset (if l = 0 then R.DW_CTL_EN_CL else R.DW_CTL_EN_SL) 0).fset st 0))) ∧
    (s.Reaches src R.DW_CTL → s.laneState l < 2 →
      exec (if l = 0 then Instr.freshCl src else .freshSl src) s = .next (s.setLane l { x with askFresh := true })) ∧
    (s.Reaches src R.DW_CTL →
      let t := s.fset (if l = 0 then R.DW_CTL_EN_CL else R.DW_CTL_EN_SL) 1
      exec (if l = 0 then Instr.enCl src true else .enSl src true) s = .next (if t.laneState l = 0 then t.fset st 1 else t)) ∧
    (∀ cw t, s.laneLocked l = true →
      (rsDecode cw = none ∧
          t = s.bump (R.DW_LANE_EVENTS_UNCORR_CW.at (laneOff l)) (R.DW_LANE_FLAGS_UNCORR_OVF.at (laneOff l)) 1 ∨
        (∃ m c, rsDecode cw = some (m, c) ∧ nbits m 19 12 ≠ 0xB4 ∧
          t = if c then s.traffic (R.DW_LANE_FEC_CORR_CW.at (laneOff l)) 1 else s)) →
      (x.badRun < 9 → exec (.undecodableCodeword ⟨.inl l, cw⟩) s =
        .next (t.setLane l { x with badRun := x.badRun + 1, awaitSeq := false }).pump) ∧
      (9 ≤ x.badRun → t.laneState l = s.laneState l → exec (.undecodableCodeword ⟨.inl l, cw⟩) s = .next (down t 1 1).pump)) ∧
    (s.laneEn l = true → s.dom.lineRst = false → x.ackRx = false →
      (s.laneState l = 1 → exec (.initRepeat l) s = .next (s.sendInit l 1)) ∧
      (s.laneState l = 2 ∨ s.laneState l = 3 → exec (.initRepeat l) s = .next ((s.sendInit l 1).fset st 3))) ∧
    (∀ sub : Nat,
      let mine := fun (e : Nat × OutFlit) => e.2.type == 0xB && e.2.body.head? == some (BitVec.ofNat 8 sub)
      let o := s.initFlit l sub
      (x.replay.find? mine = none → s.sendInit l sub = s.sendFlit l o) ∧
      (∀ q old, x.replay.find? mine = some (q, old) → s.sendInit l sub =
        (s.setLane l { x with replay := x.replay.map fun e => if e.1 = q then (q, o) else e }).putFlit l o q))

/-- LINK and IDLE flits (R190, R193, R208, R209): an INIT before the lane is UP resumes where it follows the last one in time, else starts
afresh, and is answered with INIT_ACK; one of the same incarnation on a lane that is UP is only answered; an INIT_ACK is noted; a lane is UP once both have arrived; RETRY sends again from the
named FSEQ, and takes the lane down where one of them would go out again a ninth time; DOWN takes it down; an IDLE flit only carries its header; ACKSEQ_REPORT sends one.
Model's readings and choices it rests on: log entries 49, 50, 80, 173, 196. -/
def Obligations.DwenteLinkFlits : Prop :=
  ∀ (l : Fin 2) (f : FlitIn) (s : State),
    let x := s.lane l
    let inc := bodyNat f 4 4
    let h := s.initSeq l f
    (s.linkOk l f 1 = true → s.laneState l ≠ 5 → holdCause l f = 0 → h.laneState l = s.laneState l →
      let t := if l = 0 then h.fset R.DW_PARTNER_NODE_ID (bodyNat f 8 8) else h
      let ends := fun (u : State) =>
        let v := u.setLane l { u.lane l with inits := some (x.ownInc, inc), partnerInc := inc, initRx := true }
        ((v.sendInit l 2).tryUp l).pump
      t.laneState l = s.laneState l →
      (s.laneState l ≠ 4 → x.initRx = false → t.resumes l f = true →
        exec (.linkInit l f) s = .next (ends ((t.resendFrom l (bodyNat f 16 2)).fset (R.DW_LANE_STATUS_RESUMED.at (laneOff l)) 1))) ∧
      (s.laneState l ≠ 4 → x.initRx = false → t.resumes l f = false → x.inits = none →
        exec (.linkInit l f) s = .next (ends (t.freshStart l x.downCause f))) ∧
      (s.laneState l ≠ 4 → x.initRx = true → x.partnerInc = inc → exec (.linkInit l f) s = .next (ends t)) ∧
      (s.laneState l ≠ 4 → x.initRx = true → x.partnerInc ≠ inc → exec (.linkInit l f) s = .next (ends (t.freshStart l 5 f))) ∧
      (s.laneState l = 4 → x.inits = some (x.ownInc, inc) → nbit (bodyNat f 18 1) 0 = 0 →
        exec (.linkInit l f) s = .next (t.sendInit l 2))) ∧
    (s.linkOk l f 2 = true → s.laneState l ≠ 5 → holdCause l f = 0 →
      exec (.linkInitAck l f) s = .next ((h.setLane l { h.lane l with ackRx := true }).tryUp l).pump) ∧
    (∀ sub c, (sub, c) ∈ [(1, Instr.linkInit l f), (2, .linkInitAck l f)] → s.linkOk l f sub = true → s.laneState l ≠ 5 →
      holdCause l f ≠ 0 → exec c s = .next (((s.fecNote l f).fset (R.DW_LANE_STATUS_STATE.at (laneOff l)) 5).fset
        (R.DW_LANE_STATUS_HELD_CAUSE.at (laneOff l)) (holdCause l f))) ∧
    (∀ t, s.linkOk l f 3 = true → s.rxFlit l f (· == 0xB) = (true, t) → t.laneState l = 4 →
      let e := bodyNat f 4 2 % 0x1000
      let u := t.resendFrom l ((e + 0xFFF) % 0x1000)
      let y := u.lane l
      y.resendQ = ((t.acked l ((e + 0xFFF) % 0x1000)).lane l).replay ∧
      ((∃ q ∈ y.resendQ, 8 ≤ timesResent y.resent q.1) → exec (.linkRetry l f) s = .next (u.laneDown l 2 true)) ∧
      ((∀ q ∈ y.resendQ, timesResent y.resent q.1 < 8) → exec (.linkRetry l f) s = .next u.pump)) ∧
    (∀ q o rest, x.resendQ = (q, o) :: rest →
      s.resendOne l = some (((s.setLane l { x with resendQ := rest, resent := resentOnce x.resent q }).putFlit l o q).bump
        (R.DW_LANE_EVENTS2_REPLAY.at (laneOff l)) (R.DW_LANE_FLAGS_REPLAY_OVF.at (laneOff l)))) ∧
    (∀ sub c, (sub, c) ∈ [(1, Instr.linkInit l f), (2, .linkInitAck l f)] → s.linkOk l f sub = true → s.laneState l = 5 →
      exec c s = .next (s.fecNote l f)) ∧
    (∀ t, s.linkOk l f 4 = true → s.rxFlit l f (· == 0xB) = (true, t) → exec (.linkDown l f) s = .next (t.laneDown l 3 true)) ∧
    (s.laneLocked l = true → crcGood f = true → fType f = 0 → flitBad l f = false →
      exec (.idle l f) s = .next ((s.fecNote l f).takeHeader l f).pump) ∧
    (s.laneState l = 4 → exec (.ackseqReport l) s = .next (s.sendFlit l ⟨0, 0, true, 0, 0, [], none⟩).pump)

/-- The stream lane (R203 to R206): a block header takes a block credit and opens the block; its data fill it; the next block of the
oldest transfer is written whole, its credit returns and the last one sends the completion; a read request queues, and its blocks go
out one by one, each for a credit of the node.
Model's readings and choices it rests on: log entries 11, 50, 55, 56. -/
def Obligations.StreamLane : Prop :=
  ∀ (f : FlitIn) (s t : State),
    (s.rxFlit 1 f (· == 0xC) = (true, t) → nbit (bodyNat f 11 1) 1 = 0 → 1 ≤ bodyNat f 8 2 → bodyNat f 8 2 ≤ 4096 →
      t.dw.rxBlock = none → vget 0 (t.lane 1).rxCred 0 ≠ 0 →
      let u := t.setLane 1 { t.lane 1 with rxCred := vmod (t.lane 1).rxCred 0 (· - 1) }
      let b : SlBlock := ⟨bodyNat f 0 8, bodyNat f 8 2, nbit (bodyNat f 11 1) 0 == 1, bodyNat f 12 4, bodyNat f 16 4, []⟩
      exec (.slHdr f) s = .next { u with dw := { u.dw with
        rxBlock := some b
        writes := if u.dw.writes.any (fun w => w.xfer == b.xfer) then u.dw.writes else u.dw.writes ++ [⟨b.xfer, 0, none⟩] } }) ∧
    (∀ b, s.rxFlit 1 f (· == 0xD) = (true, t) → t.dw.rxBlock = some b →
      let data := (b.data ++ ((flitBytes f).drop 8).take (fLen f)).take b.blen
      exec (.slData f) s = .next (
        if data.length < b.blen then { t with dw := { t.dw with rxBlock := some { b with data := data } } }
        else { t with dw := { t.dw with rxBlock := none, blocks := t.dw.blocks ++ [{ b with data := data }] } })) ∧
    (∀ w rest b, s.dw.writes = w :: rest → s.dw.blocks.find? (fun b => b.xfer == w.xfer && b.block == w.next) = some b →
      let u := { s with dw := { s.dw with blocks := s.dw.blocks.filter (fun c => !(c.xfer == w.xfer && c.block == w.next)) } }
      w.failed = none → u.slStatus b.addr b.blen = 0 →
      let v := (u.writeBytes b.addr b.data).slReturn
      exec .slBlockWritten s = .next (
        if b.last then ({ v with dw := { v.dw with writes := rest } }.slComplete w.xfer 0 0).pump
        else { v with dw := { v.dw with writes := { w with next := w.next + 1 } :: rest } }.pump)) ∧
    (s.rxFlit 1 f (· == 0xE) = (true, t) →
      let len := bodyNat f 16 4
      let xfer := bodyNat f 20 4
      (len = 0 ∨ 2 ^ 30 < len → exec (.slRdreq f) s = .next (t.slComplete xfer 4 0).pump) ∧
      (1 ≤ len → len ≤ 2 ^ 30 → 16 ≤ t.dw.reads.countP (·.window.isNone) → exec (.slRdreq f) s = .next (t.slComplete xfer 6 0).pump) ∧
      (1 ≤ len → len ≤ 2 ^ 30 → t.dw.reads.countP (·.window.isNone) < 16 → exec (.slRdreq f) s =
        .next { t with dw := { t.dw with reads := t.dw.reads ++ [⟨bodyNat f 0 8, bodyNat f 8 8, len, xfer, 0, none, []⟩] } })) ∧
    (∀ r rest l u, s.dw.reads = r :: rest → s.laneState 1 = 4 → s.fget (txCredit 1 0) ≠ 0 →
      let n := min 4096 (r.len - r.done)
      s.slBlock r n = (.ok l, u) →
      let last := r.len ≤ r.done + n
      let v := (u.fset (txCredit 1 0) (u.fget (txCredit 1 0) - 1)).slSend
        (slHdr (r.node + r.done) n 0 (if last then 1 else 0) r.xfer (r.done / 4096)) l
      exec .slReadBlock s = .next (
        if last then (({ v with dw := { v.dw with reads := rest } }.slComplete r.xfer 0 0).exportDone r false).pump
        else { v with dw := { v.dw with reads := { r with done := r.done + n } :: rest } }.pump)) ∧
    (∀ r rest status u, s.dw.reads = r :: rest → s.laneState 1 = 4 → s.fget (txCredit 1 0) ≠ 0 →
      s.slBlock r (min 4096 (r.len - r.done)) = (.error status, u) →
      let n := min 4096 (r.len - r.done)
      let v := u.slSend (slHdr (r.node + r.done) n status (if r.len ≤ r.done + n then 1 else 0) r.xfer (r.done / 4096)) []
      exec .slReadBlock s =
        .next ((({ v with dw := { v.dw with reads := rest } }.slComplete r.xfer status (r.done / 4096)).exportDone r true).pump))

/-- A write of a register without behaviour of its own (R14, R16, R38), by any party, of 8 bytes or of an aligned half: the covered
bits of RW and WO fields take the written bits, covered W1C bits written 1 clear, and every other bit of the register and of the state
stays. An access that names no register, or a block in reset, writes nothing; a hole is an address fault of the writer. A mailbox's
status is closed to parties that neither send nor receive there (R246), and a party that may send no accesses changes nothing by any
register command (R262, R437).
Model's readings and choices it rests on: log entries 33, 54. -/
def Obligations.RegisterWrites : Prop :=
  ∀ (s : State) (src : Party) (off : BitVec 32) (wide : Bool) (v : BitVec 64) (recheck : Fin 4),
    let c := Instr.csrWrite src off wide v recheck
    let o := off.toNat
    let size := if wide then 8 else 4
    let dir := (o - o % 8 - R.MQ_STATUS) % 0x1000 / 0x800
    (s.partyUp src = false → ∀ (n : Fin 8) (j : Fin 2) (r k : Fin 64) (p : Fin 18) (d : BitVec 12) (w : BitVec 64) (x : BitVec 32)
      (a b : BitVec 16) (on : Bool), ∀ i ∈ [c, .wePostGo n src, .weClear n src, .scrubGo n src w, .scrubStop n src, .freshCl src,
        .freshSl src, .enCl src on, .enSl src on, .ringEn r src w, .rdIdx r src x, .wrIdx r src x, .mqPush n j src w, .send n j src,
        .discard n j src, .mqAck n j src a b, .dbMask src w, .tokenTake k src, .tokenRel src k, .rcBeat src, .retrain p src,
        .portEn p src on, .clearExclude src, .points d src w, .ilInject src w, .fenceReq src a on, .lift src a, .fwBeat src],
      exec i s = .next s) ∧
    (s.partyUp src = true →
    (∀ r, s.regAt o size = .ok r → (r.base = R.MQ_STATUS → s.mqSends dir src = true ∨ s.mqReceives dir src = true) →
      r.base ∉ [R.IL_CTL, R.IL_INJECT, R.IL_FIRST, R.IL_FIRST_CRIT, R.FENCE_REQ, R.RESET_REQ, R.FW_BEAT, R.POINTS, R.REACH, R.MCG,
        R.ROUTE_CTL, R.PORT_CTL, R.DW_CTL, R.MQ_PUSH, R.MQ_CTL, R.MQ_ACK, R.DB_MASK, R.TOKEN_REL, R.RC_BEAT, R.RING_BASE,
        R.RING_PERIOD, R.RING_CFG, R.RING_IDX, R.RING_WR, R.DOORBELL, R.CTR, R.SCRUB_CTL, R.WE_POST_CTL] →
      ∃ x : Word, exec c s = .next (s.csrPut (o - o % 8) x) ∧ ∀ i, i < 64 →
        let covered := wide || i / 32 == o % 8 / 4
        let bit := v.getLsbD (if wide then i else i % 32)
        let inField := fun (p : Acc → Bool) => r.fields.any fun f => p f.acc && decide (f.lo ≤ i ∧ i ≤ f.hi)
        x.getLsbD i =
          ((if covered && inField (fun a => a == .rw || a == .wo) then bit else (s.csrGet (o - o % 8)).getLsbD i)
            && !(covered && inField (· == .w1c) && bit))) ∧
    (s.regAt o size = .error 1 →
      exec c s = .next (s.report (partySource src) .address 1 (s.globalAddr (0x18000000000 + o)))) ∧
    (∀ r, s.regAt o size = .ok r → r.base = R.MQ_STATUS → s.mqSends dir src = false → s.mqReceives dir src = false →
      exec c s = .next s) ∧
    (s.regAt o size = .error 2 → exec c s = .next s))

/-- What a register read gives (R14, R38): the covered bits of a register that shows its own word, without its WO bits; RC fields
read are 0 afterwards, and nothing else changes. A bucket of corrected errors that is read starts anew at 0 and is full no longer (R431), as does
the bucket of a source, of which the model notes the read (R421; log entry 203).
Model's readings and choices it rests on: log entry 203. -/
def Obligations.RegisterReads : Prop :=
  ∀ (s : State) (source off : Nat) (src : Option Party) (r : RegRow), s.regAt off 8 = .ok r →
    (r.base ∉ [R.SB_STATUS, R.BOOT_BG, R.IL_RECOVERY, R.FENCE_TILES, R.EV_DATA, R.TSENSE, R.PORT_CTL, R.DW_EVQ, R.RING_STATUS, R.TILE_DMA,
      R.LN_STATUS, R.UCIE_STATUS, R.TOKEN, R.IL_BUCKET, R.ECC_BUCKET, R.SP_BUCKET] →
    let held := s.csrGet off
    let rc := accBits r (· == .rc)
    (s.csrRead source src off 8).1 = 0 ∧ (s.csrRead source src off 8).2.1 = held &&& accBits r (· != .wo) ∧
    (rc = 0 → (s.csrRead source src off 8).2.2 = s) ∧ (rc ≠ 0 → (s.csrRead source src off 8).2.2 = s.csrPut off (held &&& ~~~rc))) ∧
    (r.base = R.ECC_BUCKET ∨ r.base = R.SP_BUCKET →
      let slot := if r.base = R.ECC_BUCKET then (off - r.base) / 0x1000000 else 8 + (off - r.base) / 0x10000000
      (s.csrRead source src off 8).1 = 0 ∧ (s.csrRead source src off 8).2.1 = s.csrGet off &&& accBits r (· != .wo) ∧
      (s.csrRead source src off 8).2.2 =
        ({ s with ceFull := vput s.ceFull slot false } : State).csrPut off (s.csrGet off &&& ~~~accBits r (· == .rc))) ∧
    (r.base = R.IL_BUCKET →
      (s.csrRead source src off 8).1 = 0 ∧ (s.csrRead source src off 8).2.1 = s.csrGet off &&& accBits r (· != .wo) ∧
      (s.csrRead source src off 8).2.2 =
        (s.noteRead ((off - r.base) / 8)).csrPut off (s.csrGet off &&& ~~~(accBits r (· == .rc) ||| BitVec.ofNat 64 (2 ^ 32))))

/-- Requests on the control lane (R191, R192, R196 to R200, R211, R212): the flits of a message are gathered, and its last one carries it
out: a CSR_RD and a CSR_WR are answered with the status and the word of the access, one that darkens the lane after its answer has left,
an RW_READ with the window's status and bytes, MBX words join the inbound queue, a DOORBELL writes the ring's index; a malformed
non-posted request is answered MALFORMED; posted ones to a WORKS domain in reset are reported.
Model's readings and choices it rests on: log entries 50, 53, 172. -/
def Obligations.DwenteRequests : Prop :=
  ∀ (f : FlitIn) (s r t : State) (m : RxMsg),
    let answer := fun (c : Nat) (w : Word) => leBytes 1 c ++ List.replicate 7 0 ++ leBytes 8 (if c = 0 then w.toNat else 0)
    let v := BitVec.ofNat 64 (bodyNat f 16 8)
    (∀ k c, (k, c) ∈ [(1, Instr.csrRd f), (2, .csrWr f), (4, .mbx f), (5, .doorbell f), (8, .rwRead f)] →
      s.rxFlit 0 f (· == k) = (true, r) → r.gather f = (none, t) → exec c s = .next t.pump) ∧
    (r.gather f = (some m, t) →
      (s.rxFlit 0 f (· == 1) = (true, r) →
        (m.flits = 1 → fLen f = 9 → csrSize f = 4 ∨ csrSize f = 8 → csrPlace f ≠ 2 ^ 64 → ∀ c w u,
          t.csrRead 0x0400 (some .node) (csrPlace f) (csrSize f) = (c, w, u) →
          exec (.csrRd f) s = .next (u.respond f 3 [answer c w]).pump) ∧
        (m.flits ≠ 1 ∨ fLen f ≠ 9 ∨ (csrSize f ≠ 4 ∧ csrSize f ≠ 8) → exec (.csrRd f) s = .next (t.malformed f).pump)) ∧
      (s.rxFlit 0 f (· == 2) = (true, r) →
        (m.flits = 1 → fLen f = 24 → csrSize f = 4 ∨ csrSize f = 8 → csrPlace f ≠ 2 ^ 64 → ∀ c u,
          t.csrWrite .node (csrPlace f) (csrSize f) v 0 = (c, u) →
          (csrPlace f ≠ R.DW_CTL ∨ v.getLsbD 0 = true → exec (.csrWr f) s = .next (u.respond f 3 [answer c 0]).pump) ∧
          (csrPlace f = R.DW_CTL → v.getLsbD 0 = false → exec (.csrWr f) s =
            .next ((t.respond f 3 [answer c 0]).pump.csrWrite .node (csrPlace f) (csrSize f) v 0).2.pump)) ∧
        (m.flits ≠ 1 ∨ fLen f ≠ 24 ∨ (csrSize f ≠ 4 ∧ csrSize f ≠ 8) → exec (.csrWr f) s = .next (t.malformed f).pump)) ∧
      (s.rxFlit 0 f (· == 4) = (true, r) →
        let n := bodyNat f 0 1
        let k := bodyNat f 1 1
        m.flits = 1 → n ≤ 7 → 1 ≤ k → k ≤ 5 → 8 + 8 * k ≤ fLen f →
        (t.dom.worksRst = false → exec (.mbx f) s =
          .next ((List.range k).foldl (fun u i => u.mqPushWord n 0 (BitVec.ofNat 64 (bodyNat f (8 + 8 * i) 8))) t).pump) ∧
        (t.dom.worksRst = true →
          exec (.mbx f) s = .next (t.event 0x0400 0x0682 (leBytes 1 4 ++ leBytes 1 n ++ [0, 0] ++ leBytes 4 0)).pump)) ∧
      (s.rxFlit 0 f (· == 5) = (true, r) → m.flits = 1 → bodyNat f 0 1 ≤ 63 → 8 ≤ fLen f →
        exec (.doorbell f) s = .next (if t.dom.worksRst then
            (t.event 0x0400 0x0682 (leBytes 1 5 ++ leBytes 1 (bodyNat f 0 1) ++ [0, 0] ++ leBytes 4 (bodyNat f 4 4))).pump
          else (t.writeWrIdx (bodyNat f 0 1) (bodyNat f 4 4)).pump)) ∧
      (s.rxFlit 0 f (· == 8) = (true, r) →
        (m.flits = 1 → fLen f = 10 → 1 ≤ bodyNat f 8 2 → bodyNat f 8 2 ≤ 4096 → ∀ c y e l u,
          t.windowRead (bodyNat f 0 2) (bodyNat f 4 4) (bodyNat f 8 2) = ((c, y, e, l), u) →
          exec (.rwRead f) s = .next (u.respond f 9 (rwBodies c y e l)).pump) ∧
        (m.flits ≠ 1 ∨ fLen f ≠ 10 ∨ bodyNat f 8 2 = 0 ∨ 4096 < bodyNat f 8 2 → exec (.rwRead f) s = .next (t.malformed f).pump)))

/-- The ring commands that start work (R216, R220 to R222, R225): with the head claimed, what each does and what its ring then waits
for, or the status it completes with.
Model's readings and choices it rests on: log entries 58, 59, 66. -/
def Obligations.RingCommands : Prop :=
  ∀ (r : Fin 64) (s t : State) (w : List Nat),
    let ends := fun (u : State) (code : Nat) => Host.Outcome.next (u.noteWait r (.done code 0 0))
    (StartsHead s t r 0x00 w → exec (.ringNop r) s = ends t 0) ∧
    (∀ l u, StartsHead s t r 0x01 w → t.job.active = false → ew w 1 % 64 = 0 → inMain (ew w 1) 0x2280 = true →
      t.memRead t.rqRc (ew w 1) 0x2280 = (.ok l, u) →
      (u.descBad l = true → exec (.jobLaunch r) s = ends u 0x0904) ∧
      (u.descBad l = false → u.shunting = true → 1 < leAt l 4 2 → exec (.jobLaunch r) s = ends u 0x0905) ∧
      (u.descBad l = false → u.shunting = false ∨ leAt l 4 2 ≤ 1 →
        exec (.jobLaunch r) s = ends (u.launchJob l) 0 ∧ (u.launchJob l).job.active = true ∧ (u.launchJob l).job.id = leAt l 0 4 ∧
        (u.launchJob l).job.members = leAt l 4 2 ∧ (u.launchJob l).job.rank = leAt l 6 2 ∧
        (u.launchJob l).job.seed = BitVec.ofNat 64 (leAt l 8 8))) ∧
    (StartsHead s t r 0x01 w → t.job.active = true → exec (.jobLaunch r) s = ends t 0x0903) ∧
    (StartsHead s t r 0x02 w → exec (.jobEnd r) s = .next (t.noteWait r .jobEmpty)) ∧
    (∀ l u code v, StartsHead s t r 0x03 w → t.memRead t.rqRc (ew w 1) (ew w 2) = (.ok l, u) → u.loadImage l = (code, v) →
      exec (.load r) s = ends v code) ∧
    (StartsHead s t r 0x04 w → exec (.unload r) s = .next (t.noteWait r .noTile)) ∧
    (∀ l u, StartsHead s t r 0x10 w → t.sendDispatches w ((dispatchTiles w).filterMap t.physOf) = (l, u) →
      exec (.dispatch r) s = .next (u.noteWait r (.tiles l))) ∧
    (∀ l u code v, StartsHead s t r 0x11 w → t.memRead t.rqRc (ew w 1) 256 = (.ok l, u) →
      let n := ew w 2
      let seq := (u.fget (R.WE_QSTAT_SEQ.at (mdOff n)) + 1) % 2 ^ 32
      let d := (ew (words64 32 l) 0 / 2 ^ 32 * 2 ^ 32 + seq) :: (words64 32 l).drop 1
      (u.wePostWrite n d).wePost n (u.rflag r R.RING_CFG_JOB) d = (code, v) →
      (∀ k, k < 32 → u.Canon → (u.wePostWrite n d).csrGet (R.WE_POST + mdOff n + 8 * k) = BitVec.ofNat 64 (dWord d k)) ∧
      (code ≠ 0 → exec (.wePost r) s = ends v code) ∧
      (code = 0 → exec (.wePost r) s = .next (v.noteWait r (.engine n seq d)))) ∧
    (∀ code v, StartsHead s t r 0x30 w → t.scrubStart (ew w 1 % 8) (nbit (ew w 1) 8 == 1) (ew w 2) (ew w 3) (nbit (ew w 1) 9)
        (some r.val) false = (code, v) →
      (code ≠ 0 → exec (.scrub r) s = ends v code) ∧ (code = 0 → exec (.scrub r) s = .next (v.noteWait r (.scrub (ew w 1 % 8))))) ∧
    (StartsHead s t r 0x38 w → exec (.powerHint r) s =
      ends (t.powerHint (nbits (ew w 1) 63 56) (ew w 2) (nbits (ew w 3) 63 32) (nbits (ew w 3) 31 16)) 0) ∧
    (StartsHead s t r 0x3F w → exec (.waitRing r) s = .next (t.noteWait r (.ring (ew w 1) (ew w 2))))

/-- The ring commands on regions, epochs and windows (R226, R230, R237 to R239); an export of a fenced region holds no bytes (R439).
Model's readings and choices it rests on: log entries 58, 60. -/
def Obligations.RegionEpochWindowCommands : Prop :=
  ∀ (r : Fin 64) (s t : State) (w : List Nat),
    let ends := fun (u : State) (code : Nat) => Host.Outcome.next (u.noteWait r (.done code 0 0))
    let i := ew w 1 % 64
    let k := ew w 1 % 1024
    (StartsHead s t r 0x20 w →
      (nbit (ew w 1) 8 = 0 → t.regionBad i (ew w 2) (ew w 3) (ew w 4) = false →
        let u : State := { t with regions := vput t.regions i (some ⟨ew w 2, ew w 3, ew w 4⟩) }
        exec (.region r) s = ends (u.metaClean fun k => (u.metaHeld (4096 * k)).region == i && (u.metaHeld (4096 * k)).reg) 0) ∧
      (nbit (ew w 1) 8 = 0 → t.regionBad i (ew w 2) (ew w 3) (ew w 4) = true → exec (.region r) s = ends t 0x090A) ∧
      (nbit (ew w 1) 8 = 1 → vget none t.regions i ≠ none → exec (.region r) s = ends (t.unregister i) 0)) ∧
    (StartsHead s t r 0x21 w → t.estate = 1 → exec (.epochEnd r) s = .next (t.noteWait r .epochEnd)) ∧
    (StartsHead s t r 0x22 w → t.estate = 1 →
      exec (.epochAbort r) s = ends ((t.cast true (if ew w 1 = 0 then 0x0912 else ew w 1)).reopenRun r) 0) ∧
    (StartsHead s t r 0x23 w →
      (t.estate ≠ 2 → exec (.epochResolve r) s = ends t 0x090C) ∧
      (t.estate = 2 → t.job.rank ≠ 0 → nbit (ew w 1) 0 = 1 →
        exec (.epochResolve r) s = ends (t.memberCommit t.openE t.attempt) 0) ∧
      (t.estate = 2 → t.job.rank ≠ 0 → nbit (ew w 1) 0 = 0 →
        exec (.epochResolve r) s = ends (t.memberAbort 0x0912 t.job.rank) 0)) ∧
    (StartsHead s t r 0x28 w → k < t.job.nWindows →
      (nbit (ew w 1) 16 = 1 → exec (.window r) s = ends { t with windows := tset winDflt t.windows k none } 0) ∧
      (∀ g, nbit (ew w 1) 16 = 0 → vget none t.regions (ew w 2) = some g →
        let off := nbits (ew w 3) 31 0
        let len := nbits (ew w 3) 63 32
        1 ≤ len → len ≤ 2 ^ 30 → off + len ≤ g.len →
        exec (.window r) s = ends { t with windows := tset winDflt t.windows k (some ⟨ew w 2, off, len, ew w 4⟩) } 0)) ∧
    (∀ v g l u, StartsHead s t r 0x29 w → tget winDflt t.windows k = some v → vget none t.regions v.region = some g →
      (if t.fencedAddr (t.commitAddr (g.base + v.off)) then ([], t) else t.readCommitted ⟨0, 3, 0x0401⟩ (g.base + v.off) v.len) = (l, u) →
      exec (.windowExport r) s = .next (({ u with dw := { u.dw with
        reads := u.dw.reads ++ [SlRead.mk (g.base + v.off) (ew w 2) v.len (ew w 3) 0 (some (k, r.val)) l] } }).noteWait r
          (.windowOut (ew w 3) u.epochC))) ∧
    (∀ op i idx code, s.pick = some r.val → s.ringHead r = some (idx, some w) → eOp w = op → s.gate r (some w) = .fail code →
      (op, i) ∈ [(0x00, Instr.ringNop r), (0x01, .jobLaunch r), (0x02, .jobEnd r), (0x03, .load r), (0x04, .unload r),
        (0x10, .dispatch r), (0x11, .wePost r), (0x20, .region r), (0x21, .epochEnd r), (0x22, .epochAbort r), (0x23, .epochResolve r),
        (0x28, .window r), (0x29, .windowExport r), (0x30, .scrub r), (0x38, .powerHint r), (0x3F, .waitRing r)] →
      exec i s = ends ((if s.periodic r then s else (s.readEntry r idx).2).claim r idx w) code)

/-- Completions, releases and the ring registers (R213, R214, R217, R222, R223, R235, R243): a command whose wait is over writes words 6
and 7 of its entry and advances DONE_IDX; an aborted attempt's sweep ends once no command of it runs, or the drain limit has passed; a release fetches one batch; EN,
RD_IDX and WR_IDX act as R213 and R214 say, and a reserved SIZE_LOG2 leaves that field as it is (R17).
Model's readings and choices it rests on: log entries 63, 64, 65. -/
def Obligations.RingCompletion : Prop :=
  ∀ (r : Fin 64) (src : Party) (s : State),
    let at_ := fun (f : Fld) => f.at (ringOff r)
    (∀ u code detail event, (s.ring r).run = some u → u.wait = .done code detail event → s.rcServes = true → eOp u.words ≠ 0x01 →
      u.closed = false → u.epoch = 0 → nbit (ew u.words 0) 48 = 0 → code ≠ 0x0901 → s.periodic r = false →
      let t := (s.memWrite s.rcSource (s.entryAddr r u.idx + 48) (leBytes 4 detail ++ [0, 0] ++ leBytes 2 code ++ leBytes 8 s.rtime)).2
      let v := (t.setRing r { t.ring r with run := none }).recPut r none
      v.periodic r = false → (v.ring r).cur = none →
      exec (.commandComplete r) s = .next (v.fset (at_ R.RING_IDX_DONE_IDX) (u.idx + 1))) ∧
    (∀ u, (s.ring r).run = some u → s.rcServes = true → s.waitOver r u = true →
      exec (.commandComplete r) s = .next (s.complete r u)) ∧
    (s.rcServes = true → s.estate = 4 → (∀ q, q < 64 → (s.ring q).run = none) ∨ s.epoch.drained = true →
      exec .abortSweepDone s = .next s.reopen) ∧
    (s.rcServes = true → s.rflag r R.RING_CFG_EN = true → s.periodic r = true → s.ringStopped r = false →
      s.releaseAt r (s.ring r).nextK ≤ s.rtime →
      let k := (s.ring r).nextK
      let t := s.setRing r { s.ring r with nextK := k + 1 }
      let e := t.fetchBatch r (t.rf r R.RING_IDX_RD_IDX) (min 256 (t.ringLeft r))
      (∀ l, e.1 = some l →
        let x := e.2.ring r
        let b : Batch := ⟨k, l, e.2.rtime⟩
        exec (.periodRelease r) s =
          .next (e.2.setRing r (if x.cur.isNone then { x with cur := some b } else { x with queued := x.queued ++ [b] }))) ∧
      (e.1 = none →
        exec (.periodRelease r) s = .next (e.2.bump (at_ R.RING_EVENTS_EMPTY_COUNT) (at_ R.RING_FLAGS_EMPTY_OVF) 1))) ∧
    (∀ v : BitVec 32, s.Reaches src (R.RING_WR + ringOff r) →
      exec (.wrIdx r src v) s = .next (
        let t := s.fset (at_ R.RING_WR_WR_IDX) v.toNat
        if t.ringSize r < (2 ^ 32 + t.rf r R.RING_WR_WR_IDX - t.rf r R.RING_IDX_DONE_IDX) % 2 ^ 32
        then t.stopRing r 3 (t.rf r R.RING_IDX_RD_IDX) else t)) ∧
    (∀ v : BitVec 32, s.Reaches src (R.RING_IDX + ringOff r) → s.rflag r R.RING_CFG_EN = false ∨ s.ringStopped r = true →
      exec (.rdIdx r src v) s = .next ((s.fset (at_ R.RING_IDX_RD_IDX) v.toNat).fset (at_ R.RING_IDX_DONE_IDX) v.toNat)) ∧
    (∀ v : BitVec 64, s.Reaches src (R.RING_CFG + ringOff r) → s.rflag r R.RING_CFG_EN = false →
      let reg := (s.csrGet (R.RING_CFG + ringOff r)).toNat
      let size := nbits v.toNat 24 20
      let reserved := size < 4 ∨ 16 < size
      let x := if reserved then v.toNat - size * 2 ^ 20 + nbits reg 24 20 * 2 ^ 20 else v.toNat
      let u := if reserved then s.fset (at_ R.RING_STATUS_CFG_ERR) 1 else s
      let t := u.csrPut (R.RING_CFG + ringOff r) (BitVec.ofNat 64 ((x &&& 0x1FF0002) + reg % 2))
      exec (.ringEn r src v) s = .next (
        if nbit x 0 = 0 then (t.fset (at_ R.RING_CFG_EN) 0).setRing r { (t.fset (at_ R.RING_CFG_EN) 0).ring r with cur := none, queued := [] }
        else if t.ringOk r then (t.fset (at_ R.RING_CFG_EN) 1).ringStart r
        else t.fset (at_ R.RING_STATUS_CFG_ERR) 1))

/-- Barrier messages (R230 to R237): votes and queries at the coordinator, decisions, acknowledges and UNKNOWN at a member. The timers of the barrier (R232, R233, R236): the vote timer decides an abort that names the first rank that has not voted; decisions
not acknowledged go out again; a voted member asks the coordinator again.
Model's readings and choices it rests on: log entries 13, 62, 63. -/
def Obligations.EpochBarrier : Prop :=
  (
    ∀ (s t : State) (m : BarMsg),
      (TakesBarrier s t 1 true m →
        (∀ d, t.epoch.record t.openE t.attempt = some d → m.rank ≠ t.job.rank → exec .voteDone s = .next (t.tell m.rank d)) ∧
        (t.epoch.record t.openE t.attempt = none → t.epoch.votesLost = false →
          let u := t.epMod fun x => { x with
            doneMask := if x.doneMask.contains m.rank then x.doneMask else x.doneMask ++ [m.rank], anyVote := true }
          exec .voteDone s = .next (if u.job.members ≤ u.epoch.doneMask.length then u.decide_ true 0 0 else u))) ∧
      (TakesBarrier s t 2 true m → t.epoch.record t.openE t.attempt = none →
        exec .voteAbort s = .next (t.decide_ false m.cause m.rank)) ∧
      (TakesBarrier s t 3 false m → exec .decideCommit s = .next (
        (if t.settled m.epoch m.attempt then t else t.memberCommit m.epoch m.attempt).barTo 0 6 m.epoch m.attempt 0)) ∧
      (TakesBarrier s t 4 false m →
        (t.settled m.epoch m.attempt = true → exec .decideAbort s = .next (t.barTo 0 6 m.epoch m.attempt 0)) ∧
        (t.settled m.epoch m.attempt = false → ∃ (rank : Nat) (u : State), u = { t with freeCtr := u.freeCtr } ∧
          exec .decideAbort s = .next ((u.memberAbort m.cause rank).barTo 0 6 m.epoch m.attempt 0))) ∧
      (TakesBarrier s t 5 true m → s.job.active = true →
        (m.epoch ≤ t.epochC → m.rank ≠ t.job.rank → exec .query s = .next (t.tell m.rank ⟨m.epoch, m.attempt, true, 0, 0⟩)) ∧
        (t.epochC < m.epoch → t.epoch.record m.epoch m.attempt = none → t.epoch.doneMask = [] →
          exec .query s = .next (t.decide_ false 0x0910 m.rank))) ∧
      (TakesBarrier s t 6 true m → exec .barrierAck s = .next (t.epMod fun x => { x with
        unacked := x.unacked.filter fun (r, d, _) => !(r == m.rank && d.epoch == m.epoch && d.attempt == m.attempt) })) ∧
      (TakesBarrier s t 7 false m → exec .unknown s = .next (t.event t.rcSource 0x0983 (leBytes 4 m.epoch))) ∧
      (∀ type coord c, (type, coord, c) ∈ [(1, true, Instr.voteDone), (2, true, .voteAbort), (3, false, .decideCommit),
          (4, false, .decideAbort), (6, true, .barrierAck), (7, false, .unknown)] →
        ∀ l, s.rcServes = true → takeBar type s.barInbox = some (m, l) →
        ({ s with barInbox := l } : State).barStray m = true ∨ coord ≠ (s.job.rank == 0) →
        exec c s = .next (({ s with barInbox := l } : State).bump R.EPOCH_STRAY_STRAY R.EPOCH_STRAY_STRAY_OVF 1))) ∧
  (
    ∀ s : State, s.rcServes = true →
      (s.job.active = true → s.job.rank = 0 → s.epoch.anyVote = true → s.epoch.record s.openE s.attempt = none →
        exec .epochTimeout s = .next (s.decide_ false 0x090E
          (((List.range s.job.members).find? fun r => !s.epoch.doneMask.contains r).getD 0))) ∧
      (let t := s.epMod fun x => { x with unacked := x.unacked.filter fun (_, _, until_) => decide (s.rtime < until_) };
        exec .decideResend s =
          .next (t.epoch.unacked.foldl (fun u (r, d, _) => u.barTo r (if d.commit then 3 else 4) d.epoch d.attempt d.cause) t)) ∧
      (s.job.active = true → s.estate = 2 →
        (s.job.rank ≠ 0 → exec .queryRepeat s = .next (s.barTo 0 5 s.openE s.attempt 0)) ∧
        (s.job.rank = 0 → exec .queryRepeat s = .next (s.onQuery s.openE s.attempt 0))) ∧
      (∀ commit cause rank, let d : Decision := ⟨s.openE, s.attempt, commit, cause, rank⟩
        (s.decide_ commit cause rank) = ((let t := s.epMod fun x => { x with decided := d :: x.decided }
          if commit then t.memberCommit d.epoch d.attempt else t.memberAbort cause rank).tellAll d)))

/-- Mailboxes and doorbells (R247 to R250, R256, R257): words are pushed into a queue that takes sixteen and none while a message is
pending; SEND numbers the message, makes it pending and rings its receiver; DISCARD empties what is unsent; an acknowledge that names
the pending message ends it and rings its sender, and any other counts as stale; a timer that expires acknowledges with 0xFFFF.
Model's readings and choices it rests on: log entry 67. -/
def Obligations.MailboxCommands : Prop :=
  ∀ (n : Fin 8) (dir : Fin 2) (src : Party) (s : State),
    let o := mqOff n dir
    let k := s.mqWords n dir
    let ended := fun (code : Nat) (u : State) =>
      let v := ((((u.mqEmpty n dir).fset (R.MQ_STATUS_PENDING.at o) 0).fset (R.MQ_STATUS_LAST_SEQ.at o)
        (((u.mqEmpty n dir).fset (R.MQ_STATUS_PENDING.at o) 0).fget (R.MQ_STATUS_MSG_SEQ.at o))).fset
        (R.MQ_STATUS_LAST_CODE.at o) code).fset (R.MQ_STATUS_ACKED.at o) 1
      if dir.val = 0 then v.ringDb (24 + n) else (v.ringDb (8 + n)).mqReply n
    (∀ w : BitVec 64, s.Reaches src (R.MQ_PUSH + o) → s.mqSends dir src = true →
      (s.mqPending n dir = false → k < 16 →
        exec (.mqPush n dir src w) s = .next ((s.csrPut (mqWord n dir k) w).fset (R.MQ_STATUS_WORDS.at o) (k + 1))) ∧
      (s.mqPending n dir = true ∨ 16 ≤ k →
        exec (.mqPush n dir src w) s =
          .next ((s.fset (R.MQ_STATUS_PUSH_ERR.at o) 1).bump (R.MQ_EVENTS2_PUSH_DROP.at o) (R.MQ_STATUS_DROP_OVF.at o) 1))) ∧
    (s.Reaches src (R.MQ_CTL + o) → s.mqSends dir src = true →
      (0 < k → s.mqPending n dir = false → s.flag (R.MQ_STATUS_PUSH_ERR.at o) = false →
        exec (.send n dir src) s = .next ((((s.wrap (R.MQ_STATUS_MSG_SEQ.at o)).fset (R.MQ_STATUS_PENDING.at o) 1).bump
          (R.MQ_EVENTS_SENT.at o) (R.MQ_STATUS_SENT_OVF.at o) 1).ringDb (if dir.val = 0 then n.val else 16 + n.val))) ∧
      (k = 0 ∨ s.mqPending n dir = true ∨ s.flag (R.MQ_STATUS_PUSH_ERR.at o) = true →
        exec (.send n dir src) s = .next (s.fset (R.MQ_STATUS_SEND_ERR.at o) 1)) ∧
      (s.mqPending n dir = false → exec (.discard n dir src) s = .next ((s.mqEmpty n dir).fset (R.MQ_STATUS_PUSH_ERR.at o) 0)) ∧
      (s.mqPending n dir = true → exec (.discard n dir src) s = .next (s.fset (R.MQ_STATUS_PUSH_ERR.at o) 0))) ∧
    (∀ seq code : BitVec 16, s.Reaches src (R.MQ_ACK + o) → s.mqReceives dir src = true →
      (s.mqPending n dir = true → seq.toNat = s.fget (R.MQ_STATUS_MSG_SEQ.at o) → code.toNat < 0xFF00 →
        exec (.mqAck n dir src seq code) s = .next (ended code.toNat s)) ∧
      (s.mqPending n dir = false ∨ seq.toNat ≠ s.fget (R.MQ_STATUS_MSG_SEQ.at o) ∨ 0xFF00 ≤ code.toNat →
        exec (.mqAck n dir src seq code) s = .next (s.bump (R.MQ_EVENTS2_STALE_ACK.at o) (R.MQ_STATUS_STALE_OVF.at o) 1))) ∧
    (s.mqPending n dir = true → s.dom.worksRst = false →
      let t := (s.fset (R.MQ_STATUS_TIMEOUT.at o) 1).bump (R.MQ_EVENTS_TIMEOUTS.at o) (R.MQ_STATUS_TIMEOUTS_OVF.at o) 1
      exec (.ackTimeout n dir) s = .next (ended 0xFFFF
        (t.report (0x0500 + n.val) .mbxTimeout (65536 * dir.val + t.fget (R.MQ_STATUS_MSG_SEQ.at o)) 0))) ∧
    (∀ v : BitVec 64, s.Reaches src R.DB_MASK → exec (.dbMask src v) s = .next (
      ((List.range 32).filter fun i => decide (16 ≤ i) && nbit (s.fget R.DB_MASK_MASK) i == 1 && nbit (v.toNat % 2 ^ 32) i == 0 &&
        nbit ((s.fset R.DB_MASK_MASK (v.toNat % 2 ^ 32)).fget R.DB_PEND_PEND) i == 1).foldl (fun t i => t.dbEvent i)
          (s.fset R.DB_MASK_MASK (v.toNat % 2 ^ 32)))) ∧
    (s.mqSends dir src = false → s.mqReceives dir src = false → ∀ c w seq code,
      c ∈ [Instr.mqPush n dir src w, .send n dir src, .discard n dir src, .mqAck n dir src seq code] → exec c s = .next s)

/-- The services of the active controller and the tokens (R252, R253, R260, R261): PING is acknowledged, ECHO brings its words back,
a service that is not listed gets UNKNOWN_SERVICE; a read of a free token takes it for its reader and shows 1 in BROKEN's place if
it was released without its owner, a read of a held one shows its owner; only the owner's write releases it.
Model's readings and choices it rests on: log entries 12, 22, 68. -/
def Obligations.ServicesAndTokens : Prop :=
  ∀ s : State,
    (∀ n : Fin 8, s.rcServes = true → s.mqPending n 0 = true →
      (s.mqService n = 1 → s.mqBadArgs n = false → exec (.ping n) s = .next (s.mqAcked n 0 0)) ∧
      (s.mqService n = 1 → s.mqBadArgs n = true → exec (.ping n) s = .next (s.mqAcked n 0 0x0802)) ∧
      (s.mqService n = 2 → s.mqBadArgs n = false →
        let t := s.mqAcked n 0 0
        exec (.echo n) s = .next (({ t with replies := vmod t.replies n (· ++ [s.mqList n 0]) } : State).mqReply n)) ∧
      (s.mqService n = 0 ∨ 4 < s.mqService n →
        (nbits (s.csrGet (mqWord n 0 0)).toNat 47 32 = 0 → exec (.unknownService n) s = .next (s.mqAcked n 0 0x0801)) ∧
        (nbits (s.csrGet (mqWord n 0 0)).toNat 47 32 ≠ 0 → ∃ (code : Nat) (t : State), t = { s with freeCtr := t.freeCtr } ∧
          (code = 0x0801 ∨ code = 0x0802) ∧ exec (.unknownService n) s = .next (t.mqAcked n 0 code)))) ∧
    (∀ (k : Fin 64) (src : Party), s.Reaches src (R.TOKEN + 8 * k.val) →
      let held := fun (u : State) => u.flag (R.TOKEN_HELD.at (8 * k.val))
      let owner := fun (u : State) => u.fget (R.TOKEN_OWNER.at (8 * k.val))
      (held s = false → exec (.tokenTake k src) s = .next (
        let t := s.csrPut (R.TOKEN + 8 * k.val) (BitVec.ofNat 64 (32 + partyCode src))
        let w := BitVec.ofNat 64 (128 + 64 * s.fget (R.TOKEN_BROKEN.at (8 * k.val)) + 32 + partyCode src)
        { t with rdata := vput t.rdata (partyCode src - 1) w })) ∧
      (held s = true → exec (.tokenTake k src) s = .next
        { s with rdata := vput s.rdata (partyCode src - 1) (BitVec.ofNat 64 (32 + owner s)) }) ∧
      (∀ t, s.Canon → held s = false → exec (.tokenTake k src) s = .next t → held t = true ∧ owner t = partyCode src)) ∧
    (∀ (k : Fin 64) (src : Party), s.Reaches src R.TOKEN_REL →
      let mine := s.flag (R.TOKEN_HELD.at (8 * k.val)) = true ∧ s.fget (R.TOKEN_OWNER.at (8 * k.val)) = partyCode src
      (mine → exec (.tokenRel src k) s = .next (s.csrPut (R.TOKEN + 8 * k.val) 0)) ∧ (¬ mine → exec (.tokenRel src k) s = .next s))

/-- The controller pair (R264 to R271, R434, R435, R520): beats and their loss, the standby's check, the switchover by service and
by handover, the way from SELFTEST to service, and the tenth missed firmware beat.
Model's readings and choices it rests on: log entries 15, 18, 69, 71, 151. -/
def Obligations.ControllerCommands : Prop :=
  ∀ s : State,
    (∀ src x, s.Reaches src R.RC_BEAT → (src, x) ∈ [(Party.rcA, 0), (.rcB, 1)] → s.rcState x ≠ 0 → s.rcState x ≠ 5 →
      exec (.rcBeat src) s = .next (((s.wrap (if x = 0 then R.RC_STATUS_HB_A else R.RC_STATUS_HB_B)).pathBack x 0).judgePaths x)) ∧
    (∀ rc : Fin 2, s.dom.worksRst = false →
      (s.dom.signalRst = false → s.rcState rc ≠ 0 → s.rcCut rc = false →
        exec (.wireHeartbeat rc) s = .next ((s.pathBack rc 1).judgePaths rc)) ∧
      (∀ path : Fin 2, s.rcState rc ≠ 0 →
        let i := 2 * rc.val + path.val
        let t := s.fset R.RC_STATUS_PATHS (clearBit (s.fget R.RC_STATUS_PATHS) i)
        exec (.hbPathSilent rc path) s = .next ((t.rcMod fun c => { c with silent := setBit c.silent i }).judgePaths rc)) ∧
      (s.rcState rc = 1 → s.rcCut rc = false → s.fw.hand = none →
        exec (.rcSelftestDone rc true) s = .next (((s.setRc rc 2).pickActive).judgePaths rc) ∧
        exec (.rcSelftestDone rc false) s = .next ((s.setRc rc 6).pickActive)) ∧
      (s.rcState rc = 2 → rc.val ≠ s.rcActive → s.rcState s.rcActive = 4 →
        let t := s.rcMod fun c => { c with recs := vput c.recs rc (vget (.replicate 64 none) c.recs s.rcActive) }
        exec (.rcStandbyReady rc) s = .next ((((t.setRc rc 3).event (rcSrc rc) 0x0884 (leBytes 1 rc.val)).standbyPass).judgePaths rc))) ∧
    (∀ (n : Fin 8) (differ selfErr : Bool), s.rcServes = true →
      let x := 1 - s.rcActive
      let code := if s.rcState x ≠ 3 then 0x0803 else if selfErr then 0x0804 else if differ then 0x0804 else 0
      let t := if s.rcState x ≠ 3 then s else if selfErr then s.standbyFail x 3 else if differ then s.standbyFail x 2 else s.standbyPass
      exec (.standbyCheckTimer differ selfErr) s = .next t ∧
      (s.mqPending n 0 = true → s.mqService n = 3 → s.mqBadArgs n = false →
        exec (.standbyCheck n differ selfErr) s = .next (t.mqAcked n 0 code))) ∧
    (∀ n : Fin 8, s.rcServes = true → s.mqPending n 0 = true → s.mqService n = 4 → s.mqBadArgs n = false →
      (s.standbyOk = true → exec (.switchover n) s = .next ((s.switchTo (some n.val)).mqAcked n 0 0)) ∧
      (s.standbyOk = false → exec (.switchover n) s = .next (s.mqAcked n 0 0x0803))) ∧
    (∀ h, s.fw.hand = some h → s.rcState h.rc = 3 → s.standbyOk = true → s.dom.worksRst = false → s.dom.signalRst = false →
      (s.fwBlock (some 1) = 0 → s.arithBusy (s.idle 1) = false →
        exec .handoverSwitchover s = .next (
          let k := s.idle 1
          let t := ((s.switchTo none).slotSt k 4).fwMod fun x => { x with hand := none, run := vput x.run 1 (k % 2) }
          (((t.syncArith.imageMeasured 1).trialStart 1).fwActivated 1 k))) ∧
      (s.fwBlock (some 1) ≠ 0 →
        exec .handoverSwitchover s = .next ((s.odPut D.FW_RESULT (s.fwBlock (some 1))).dropHand (s.fwBlock (some 1)))) ∧
      (s.fwBlock (some 1) = 0 → s.arithBusy (s.idle 1) = true → exec .handoverSwitchover s = .next s.dropHandover)) ∧
    (∀ src i, s.Reaches src R.FW_BEAT → (src, i) ∈ [(Party.rcA, 0), (.rcB, 1), (.signalBox, 2)] →
      exec (.fwBeat src) s = .next (s.fset (missFld i) 0)) ∧
    (∀ i : Fin 3, s.watched i = true →
      let k := s.fget (missFld i) + 1
      let t := (s.fset (missFld i) 0).report (if i.val = 2 then sbSource else rcSrc i) .fwHang 10 0
      (k < 10 → exec (.fwBeatMiss i) s = .next (s.fset (missFld i) k)) ∧
      (10 ≤ k → i.val = 2 → exec (.fwBeatMiss i) s = .next (t.spoil 0).sbHang) ∧
      (10 ≤ k → i.val < 2 → exec (.fwBeatMiss i) s = .next (if i.val = t.rcActive then t.spoil 1 else t)))

/-- Training (R279, R283 to R286, R292): DETECT to TRAIN on signal, TRAIN to LOCK once every lane that may run is ready on both sides or the
limit comes, LOCK to IDENT once every lane of the mask is locked or the limit comes, DOWN where no lane is left, and DETECT again; a lane
may run unless LANE_DISABLE named it when TRAIN began or it is parked. A lane
locks on codewords that decode and carry the sync pattern; every marker of the partner is answered by one of this side.
Model's readings and choices it rests on: log entries 74, 76, 171, 177. -/
def Obligations.LinkTraining : Prop :=
  ∀ (p : Fin 18) (s : State), s.dom.lineRst = false →
    let o := portOff p
    let x := s.port p
    let failed := ((s.portDark p).setPortState p 7).bump (R.PORT_STATUS_DOWNS.at o) (R.PORT_FLAGS_DOWNS_OVF.at o) 1
    (s.portState p = 1 → s.portMay p = true → s.clock.present = true →
      exec (.signalDetect p) s = .next
        ([0, 1, 2, 3].foldl (fun u l => u.sendMarker p l) ((s.setPort p { x with
          mine := 0, theirs := 0, taps := .replicate 16 0, rsp := .replicate 4 0, answers := .replicate 4 0
          barred := s.fget (R.PORT_CTL_LANE_DISABLE.at o) }).setPortState p 2))) ∧
    (s.eligible p = maskMinus (15 - x.barred % 16) (s.parked p)) ∧
    (∀ m, s.serveLanes p m = (let t := (s.setLaneMask p m).fset (R.PORT_STATUS_WIDTH.at o) (widthOf m)
      t.setPort p { t.port p with spread := m })) ∧
    (∀ l : Fin 4, vget 0 x.rsp l < 256 → ∃ (m : BitVec 64) (u : State), u = { s with freeCtr := u.freeCtr } ∧
      s.sendMarker p l = u.setPort p { x with markers := vput x.markers l m } ∧ nbits m.toNat 63 48 = 0x7E5A ∧
      nbits m.toNat 47 46 = l.val ∧ nbit m.toNat 45 = nbit x.mine l ∧ nbits m.toNat 35 28 = vget 0 x.rsp l ∧ nbits m.toNat 27 0 = 0) ∧
    (∀ (w : BitVec 64) (ready : Bool), s.portState p = 2 ∨ s.portState p = 5 ∨ s.portState p = 6 → nbits w.toNat 63 48 = 0x7E5A → nbits w.toNat 27 0 = 0 →
      let l := nbits w.toNat 47 46
      let y := serveMarker x w.toNat
      let z := { y with mine := withBit y.mine l ready, theirs := withBit y.theirs l (nbit w.toNat 45 == 1)
                        answers := vput y.answers l (nbits w.toNat 35 28) }
      let t := (s.setPort p z).sendMarker p l
      let all := t.portState p = 2 ∧ t.eligible p ≠ 0 ∧ z.mine &&& z.theirs &&& t.eligible p = t.eligible p
      (¬ all → exec (.trainingMarker p w ready) s = .next t) ∧
      (all → exec (.trainingMarker p w ready) s = .next
        (((t.serveLanes p (t.eligible p)).setLockMask p 0).setPortState p 3))) ∧
    (s.portState p = 2 →
      let m := x.mine &&& x.theirs &&& s.eligible p
      (m = 0 → exec (.trainLimit p) s = .next failed) ∧
      (m ≠ 0 → exec (.trainLimit p) s =
        .next (((s.serveLanes p m).setLockMask p 0).setPortState p 3))) ∧
    (∀ (l : Fin 4) cws, 3 ≤ s.portState p → s.portState p ≤ 6 →
      (cwTags 0x96 cws = none → exec (.laneLock p ⟨l, cws⟩) s = .next s) ∧
      (∀ ts, cwTags 0x96 cws = some ts →
        let r := s.traffic (R.PORT_FEC_CORR_CW.at o) (ts.countP (·.2))
        let u := r.setPort p { r.port p with badRun := vput (r.port p).badRun l 0 }
        let t := u.setLockMask p (u.lockMask p ||| 2 ^ l.val)
        let all := t.portState p = 3 ∧ t.laneMask p &&& t.lockMask p = t.laneMask p
        (all → exec (.laneLock p ⟨l, cws⟩) s = .next (t.toIdent p)) ∧ (¬ all → exec (.laneLock p ⟨l, cws⟩) s = .next t))) ∧
    (s.portState p = 3 →
      let m := s.laneMask p &&& s.lockMask p
      (m = 0 → exec (.lockLimit p) s = .next failed) ∧
      (m ≠ 0 → exec (.lockLimit p) s =
        .next ((s.serveLanes p m).toIdent p))) ∧
    (s.portState p = 4 → s.traySet = true → exec (.identLimit p) s = .next failed) ∧
    (s.portState p = 7 → s.portMay p = true → exec (.downRetry p) s = .next (s.setPortState p 1)) ∧
    (∀ src, s.Reaches src (R.PORT_CTL + o) →
      (s.portLicensed p = true → s.portState p = 7 →
        exec (.portEn p src true) s = .next ((s.fset (R.PORT_CTL_EN.at o) 1).setPortState p 1)) ∧
      (s.portLicensed p = true →
        exec (.portEn p src false) s = .next (((((s.sayDown p 2).portDown p 4 0)).fset (R.PORT_CTL_EN.at o) 0).setPortState p 7)) ∧
      (s.portLicensed p = false → ∀ on, exec (.portEn p src on) s = .next s) ∧
      (let t := (((s.sayDown p 3).setParked p 0).portDown p 4 0)
       let u := t.setPort p { t.port p with losses := [] }
       exec (.retrain p src) s = .next (if u.portMay p then u.setPortState p 1 else u)))

/-- Frames of a port that runs the link layer (R279 to R281, R286 to R289): a bad frame is counted and asked for; a good one
acknowledges, returns credits, and is delivered in order, a duplicate dropped and a gap asked for; a frame leaves in a codeword under its
count, on the lane of that count, with ACKSEQ and credits; IDENT records and judges the partner; RETRY resends and the ninth resend of
one frame takes the port down; DOWN takes it down; an IDLE frame acts at once.
Model's readings and choices it rests on: log entries 72, 80, 171, 196. -/
def Obligations.LinkFrames : Prop :=
  ∀ (p : Fin 18) (f : FrameIn) (s : State),
    let o := portOff p
    (s.dom.lineRst = false → s.portLinked p = true →
      (∀ type, frBad f = true → s.rxFrame p f type =
        (false, ((s.goodWord p f).bump (R.PORT_EVENTS_CRC_ERR.at o) (R.PORT_FLAGS_CRC_OVF.at o) 1).wantFrame p)) ∧
      (let t := (s.goodWord p f).frameHeader p f
       let x := t.port p
       (frBad f = false → frType f = 0 → exec (.idleFrame p f) s = .next (t.pumpPort p 512)) ∧
       (∀ type, 0 < type → frBad f = false → frType f = type →
         (frSeq f = x.rxExp → s.rxFrame p f type =
           (true, t.setPort p { x with rxExp := (x.rxExp + 1) % 0x1000, rxAny := true, awaitSeq := false })) ∧
         (frSeq f ≠ x.rxExp → frLe (frSeq f) x.rxExp = true → s.rxFrame p f type = (false, t)) ∧
         (frSeq f ≠ x.rxExp → frLe (frSeq f) x.rxExp = false → s.rxFrame p f type = (false, t.askFrame p)))) ∧
      (frBad f = true → exec (.idleFrame p f) s =
        .next ((((s.goodWord p f).bump (R.PORT_EVENTS_CRC_ERR.at o) (R.PORT_FLAGS_CRC_OVF.at o) 1).wantFrame p).pumpPort p 512)) ∧
      exec (.frameAckReport p) s = .next (s.putFrame p .idle 0)) ∧
    (∀ (fr : OutFrame) (seq vc n : Nat) (y : Port), (s.port p).takeRet = (vc, n, y) →
      let k := (s.port p).cwCount
      let u := (s.putFrame p fr seq).port p
      u.lastCw = cwOf (0x96 * 2 ^ 12 + k) (leNat (frameBytes fr seq (s.port p).ackSeq vc n)) ∧ u.cwCount = (k + 1) % 4096 ∧
      u.lastLane = (s.txLanes p).getD (k % max 1 (s.txLanes p).length) 0 ∧ u.spread = (s.port p).spreadNow ∧ u.ret = y.ret) ∧
    (∀ t pkts, s.rxFrame p f 1 = (true, t) →
      (t.portState p ≠ 4 → exec (.dataFrame p f pkts) s = .next ((pkts.foldl (fun u k => u.takePacket p k) t).pumpPort p 512)) ∧
      (t.portState p = 4 → exec (.dataFrame p f pkts) s = .next (t.pumpPort p 512))) ∧
    (∀ t, s.rxFrame p f 2 = (true, t) →
      (∀ m, t.portState p = 4 →
        let v := t.sharedVersion m.vmin.toNat m.vmax.toNat
        let u := ((((t.fset (R.PORT_PARTNER_VERSION.at o) v).fset (R.PORT_PARTNER_PORT.at o) m.port.toNat).fset
          (R.PORT_PARTNER_ROLE.at o) m.role.toNat).fset (R.PORT_PARTNER_DEST.at o) m.dest.toNat).fset
          (R.PORT_PARTNER_SN_SERIAL.at o) m.serial.toNat
        let w := u.setPort p { u.port p with judged := some (u.judge p m.dest.toNat m.port.toNat m.serial.toNat v) }
        exec (.ident p f m) s = .next ((w.sendIdent p 2 v).finishIdent p) ∧
        exec (.identAck p f m) s = .next ((t.setPort p { t.port p with ackRx := true }).finishIdent p)) ∧
      (∀ e : BitVec 12,
        let u := t.frameAcked p ((e.toNat + 0xFFF) % 0x1000)
        let x := u.port p
        ((∃ q ∈ x.replay, 8 ≤ timesResent x.resent q.1) → exec (.retry p f e) s = .next (u.portDown p 2 0)) ∧
        ((∀ q ∈ x.replay, timesResent x.resent q.1 < 8) →
          exec (.retry p f e) s = .next ((u.setPort p { x with resendQ := x.replay }).pumpPort p 1024))) ∧
      (∀ cause, exec (.down p (.message f cause)) s = .next (t.portDown p 3 cause.toNat))) ∧
    (s.dom.lineRst = false → 3 ≤ s.portState p → exec (.down p PortLoss.lanes) s = .next ((s.lanesLost p).portDown p 1 0)) ∧
    (∀ (dest port serial version : Nat), s.judge p dest port serial version =
      (let m := s.mapOf p
       let sn := s.od (D.MAP_SN + p)
       if m = 0 then 3
       else if dest ≠ nbits m 27 16 ∨ port ≠ nbits m 7 0 ∨ (sn ≠ 0 ∧ sn ≠ serial) then 1
       else if version = 0 then 2 else 0))

/-- Width steps, lanes, die-to-die modules and the clocks (R290, R291, R295 to R299): what a WIDTH message, its change, a lane's loss
and its retraining do, and what the node's edges and the loss and return of REFCLK do to RTIME, the links and the lanes.
Model's readings and choices it rests on: log entries 1, 75, 77, 78, 178. -/
def Obligations.LinkWidthAndClock : Prop :=
  ∀ s : State,
    (∀ (p : Fin 18) (f : FrameIn) (mask : BitVec 4) (count : BitVec 12) (t : State), s.rxFrame p f 2 = (true, t) →
      exec (.width p f true mask count) s = .next (if mask.toNat &&& t.ableLanes p = mask.toNat
        then t.setPort p { t.port p with change := some (mask.toNat, count.toNat) } else t) ∧
      (∃ (k : Nat) (u : State), k < 960 ∧ u = { t with freeCtr := u.freeCtr } ∧
        let c := ((t.port p).cwCount + 64 + k) % 4096
        let m := mask.toNat &&& u.ableLanes p
        exec (.width p f false mask count) s = .next
          ((u.setPort p { u.port p with change := some (m, c) }).sendCtrl p 5 ([1] ++ leBytes 1 m ++ [0] ++ leBytes 2 c)))) ∧
    (∀ (p : Fin 18) (m c : Nat), (s.port p).change = some (m, c) →
      let o := portOff p
      let x := s.port p
      let t := (s.setPort p { x with
        change := none, cwCount := if (4096 + x.cwCount - c) % 4096 < 2048 then x.cwCount else c }).bump
          (R.PORT_EVENTS2_WIDTH_STEPS.at o) (R.PORT_FLAGS_STEPS_OVF.at o) 1
      let spread := if c = x.cwCount then m else x.spread
      s.txLanes p = (lanesOf spread).take (widthOf spread) ∧
      (widthOf m = 0 → exec (.widthChange p) s = .next (t.portDown p 1 0)) ∧
      (widthOf m ≠ 0 →
        let u := t.fillBucket p
        let v := (lanesOf (maskMinus (u.laneMask p) m)).foldl (fun v l => v.laneDrops p l) u
        exec (.widthChange p) s = .next (((v.serveLanes p m).event (portSource p) 0x0A82
          (leBytes 1 (portNum p) ++ leBytes 1 (t.portWidth p) ++ leBytes 1 (widthOf m) ++ leBytes 1 m)).pumpPort p 512))) ∧
    (∀ (p : Fin 18) (l : Fin 4) (lock : Bool) (r : State), s.dom.lineRst = false →
      r = (if lock then s.setLockMask p (maskMinus (s.lockMask p) (2 ^ l.val)) else s) →
      (r.portLinked p = true → nbit (r.laneMask p) l = 1 →
        let t := r.laneDrops p l
        (t.laneMask p = 0 → exec (.laneLoss p l lock) s = .next (t.portDown p 1 0)) ∧
        (t.laneMask p ≠ 0 → exec (.laneLoss p l lock) s = .next (t.sendCtrl p 5 (0 :: leBytes 1 (t.laneMask p))))) ∧
      (r.portLinked p = false ∨ nbit (r.laneMask p) l = 0 → exec (.laneLoss p l lock) s = .next r)) ∧
    (∀ (p : Fin 18) (l : Fin 4), s.od D.AUTO_WIDEN = 1 → s.portState p = 5 ∨ s.portState p = 6 → nbit (s.laneMask p) l = 0 →
      nbit (s.parked p) l = 0 → nbit (s.port p).barred l = 0 →
      let t := s.setLockMask p (s.lockMask p ||| 2 ^ l.val)
      let x := t.port p
      let u := t.setPort p { x with
        dropped := maskMinus x.dropped (2 ^ l.val), badRun := vput x.badRun l 0, badAt := x.badAt.filter (fun e => e.1 != l.val) }
      exec (.laneRetrain p l true) s = .next (u.sendCtrl p 5 (0 :: leBytes 1 (u.laneMask p ||| 2 ^ l.val)))) ∧
    (∀ (i : Fin 6) (m : Fin 4), s.dom.lineRst = false →
      let f := R.UCIE_STATUS_MODULES.at (8 * i.val)
      nbit (s.fget f) m = 1 →
      let v := maskMinus (s.fget f) (2 ^ m.val)
      exec (.d2dDegraded i m) s =
        .next (((s.fset f v).report (0x0350 + i.val) .d2dDegraded v 0).event (0x0350 + i.val) 0x0A85 (leBytes 1 i ++ leBytes 1 v))) ∧
    (s.dom.lineRst = false →
      let c := { s.clock with copy := if s.dom.signalRst && !s.clock.fromCopy then s.clock.copy else nearestMs s.clock.copy }
      let t := ({ s with clock := c, rfrac := 0 } : State).fset R.RTIME_STATUS_TSYNC_PRESENT 1
      (s.clock.armed = none → s.clock.fromCopy = false → exec .tsyncEdge s = .next t.snapRtime) ∧
      (∀ v, s.dom.signalRst = true →
        (∃ at_, s.clock.armed = some (v, at_) ∧ at_ + 10000 ≤ t.rtime) ∨ (s.clock.armed = none ∧ s.clock.fromCopy = true ∧ v = c.copy) →
        exec .tsyncEdge s = .next (t.loadRtime v)) ∧
      (∀ v, s.dom.signalRst = false →
        (∃ at_, s.clock.armed = some (v, at_) ∧ at_ + 10000 ≤ t.rtime) ∨ (s.clock.armed = none ∧ s.clock.fromCopy = true ∧ v = c.copy) →
        let u := t.loadRtime v
        exec .tsyncEdge s = .next { u with clock := { u.clock with copy := v, copyValid := u.flag R.RTIME_STATUS_RTIME_VALID } }) ∧
      (∀ v at_, s.clock.armed = some (v, at_) → t.rtime < at_ + 10000 → exec .tsyncEdge s = .next t.snapRtime)) ∧
    (s.dom.lineRst = false → s.flag R.RTIME_STATUS_TSYNC_PRESENT = true →
      exec .tsyncLoss s = .next ((s.fset R.RTIME_STATUS_TSYNC_PRESENT 0).rtimeFault 1 0)) ∧
    (s.dom.lineRst = false → s.clock.present = true →
      let t : State := { s with clock := { s.clock with present := false, copyValid := false, armed := none, fromCopy := false } }
      let u := ((t.fset R.RTIME_STATUS_REFCLK_LOCK 0).fset R.RTIME_STATUS_RTIME_VALID 0).fset R.RTIME_STATUS_ARMED 0
      let v := (List.range 18).foldl (fun w p => (w.lanesLost p).portDown p 1 0) u
      let w := (List.range 6).foldl (fun w i => w.fset (R.UCIE_STATUS_MODULES.at (8 * i)) 0) v
      let z := [0, 1].foldl (fun w l => w.laneDown l 1 false) w
      exec .refclkLoss s =
        .next ((({ z with fw := { z.fw with spoilt := z.fw.spoilt ||| 4 } } : State).rtimeFault 2 0).report 0x0370 .clockLost 0 0)) ∧
    (s.dom.lineRst = false → s.flag R.RTIME_STATUS_REFCLK_LOCK = false → s.clock.present = false →
      exec .refclkLock s = .next (((({ s with clock := { s.clock with present := true } } : State).fset R.RTIME_STATUS_REFCLK_LOCK
        1).report 0x0370 .clockLost 0 0 true)))

/-- Packets that reach this package (R149, R308, R310 to R314, R317, R319): a packet that is too old is counted and discarded, one for
another package is forwarded, and the types served here write, read, answer, end a request of this package, join an inbox, which a
decision does also while WORKS is in reset, or exclude a plane; what no rule takes is counted.
Model's readings and choices it rests on: log entries 81, 82. -/
def Obligations.PacketArrivals : Prop :=
  ∀ (k : Fin 19) (type : Nat) (i : Instr) (s t : State) (q : Pkt),
    (type, i) ∈ [(0, Instr.write k), (1, .writeAck k), (2, .read k), (3, .readRsp k), (4, .msg k), (5, .coll k), (6, .routeFail k),
      (7, .tc3CsrRd k)] → s.takeRx k type = some (q, t) →
    let arrived := pkMc q = true ∨ k.val = 18 ∨ pkDest q = t.ownId % 4096
    let body := fun (n : Nat) => leNat (q.payload.take n)
    let source := t.pkSource k q
    (k.val < 18 → t.aged q = true → exec i s = .next (t.bump R.ROUTE_EVENTS2_AGED R.ROUTE_FLAGS_AGED_OVF 1)) ∧
    (k.val = 18 ∨ t.aged q = false →
      (¬ arrived → exec i s = .next (t.forward q (decide (k.val < 16)))) ∧
      (arrived →
        (∀ c u, type = 0 → t.memWrite source (pkAddr q) q.payload = (c, u) → exec (.write k) s = .next (u.answer q 1 c [])) ∧
        (type = 1 → exec (.writeAck k) s = .next (t.response q 0)) ∧
        (∀ l u, type = 2 → 1 ≤ body 4 → body 4 ≤ 512 → t.memRead ⟨0, 3, source⟩ (pkAddr q) (body 4) = (.ok l, u) →
          exec (.read k) s = .next (u.answer q 3 0 l)) ∧
        (∀ c d u, type = 2 → 1 ≤ body 4 → body 4 ≤ 512 → t.memRead ⟨0, 3, source⟩ (pkAddr q) (body 4) = (.error (c, d), u) →
          exec (.read k) s = .next (u.answer q 3 c [])) ∧
        (type = 2 → body 4 = 0 ∨ 512 < body 4 → exec (.read k) s = .next (t.answer q 3 1 [])) ∧
        (type = 3 → exec (.readRsp k) s = .next (t.response q 2)) ∧
        (type = 4 → pkAddr q % 256 = 1 → t.dom.worksRst = false →
          let m := barOf q.payload (pkSrc q)
          (1 ≤ m.type → m.type ≤ 7 → exec (.msg k) s = .next { t with barInbox := t.barInbox ++ [m] }) ∧
          (m.type = 0 ∨ 7 < m.type → exec (.msg k) s = .next (t.bump R.EPOCH_STRAY_STRAY R.EPOCH_STRAY_STRAY_OVF 1))) ∧
        (type = 4 → pkAddr q % 256 = 1 → t.dom.worksRst = true →
          let m := barOf q.payload (pkSrc q)
          (m.type = 3 ∨ m.type = 4 → exec (.msg k) s = .next { t with barInbox := t.barInbox ++ [m] }) ∧
          (m.type ≠ 3 → m.type ≠ 4 →
            exec (.msg k) s = .next (t.bump R.ROUTE_EVENTS_RULE_DROP R.ROUTE_FLAGS_RULE_OVF 1))) ∧
        (type = 4 → pkAddr q % 256 ≠ 1 → exec (.msg k) s = .next (t.toEngines q)) ∧
        (type = 5 → exec (.coll k) s = .next (t.toEngines q)) ∧
        (type = 6 → pkSrc q < 0xF00 ∨ 0xF0F < pkSrc q →
          exec (.routeFail k) s = .next (t.bump R.ROUTE_EVENTS_RULE_DROP R.ROUTE_FLAGS_RULE_OVF 1)) ∧
        (type = 6 → 0xF00 ≤ pkSrc q → pkSrc q ≤ 0xF0F →
          let d := body 2 % 4096
          0x06F < d → t.reqOf (leNat ((q.payload.drop 4).take 2)) = none →
          let u := t.bump R.ROUTE_EVENTS3_FAIL_RX R.ROUTE_FLAGS_FAIL_OVF 1
          let v : State := { u with router := { u.router with failRx := u.router.failRx + 1 } }
          exec (.routeFail k) s = .next (v.fset (exclude d) (v.fget (exclude d) ||| 2 ^ (pkSrc q - 0xF00)))) ∧
        (∀ c w u, type = 7 → pkTc q = 3 → 0xF00 ≤ pkSrc q → pkSrc q ≤ 0xF0F → 0x18000000000 ≤ pkAddr q →
          switchMayRead (pkAddr q - 0x18000000000) = true →
          t.csrRead source none (pkAddr q - 0x18000000000) (body 4) = (c, w, u) →
          exec (.tc3CsrRd k) s = .next (u.answer q 8 c (leBytes 8 w.toNat))) ∧
        (type = 7 → pkTc q ≠ 3 →
          exec (.tc3CsrRd k) s = .next ((t.addrFault source (t.globalAddr (pkAddr q)) 1).answer q 8 1 (leBytes 8 0)))))

/-- Requests and routing (R311, R313, R314, R317, R319, R324, R326, R328): a response ends the open request of its tag, kind and
partner, or with UNREACHABLE from a package on its way, or is stale; a request without a response ends; where one ends, DMA transfers
that wait for a tag go on; a packet with no hop left is discarded; a points entry written ends the
exclusions of its destination; a held packet leaves once its bytes are in the bucket; a congestion map takes the other buffer, and
with maps off a period ends uncounted.
Model's readings and choices it rests on: log entries 6, 8, 9, 30, 83, 84, 85, 87. -/
def Obligations.RequestsAndRouting : Prop :=
  ∀ s : State,
    (∀ (q : Pkt) (req : Nat),
      (∀ r, s.reqOf (pkTag q) = some r → pkType r.pkt = req → pkDest r.pkt = pkSrc q ∨ pkStatus q = 8 →
        s.response q req = (s.endReq r (pkStatus q) (q.payload.take r.len)).dmaGoOn r.tile r.eng) ∧
      (∀ r, s.reqOf (pkTag q) = some r → pkType r.pkt ≠ req ∨ (pkDest r.pkt ≠ pkSrc q ∧ pkStatus q ≠ 8) →
        s.response q req = s.bump R.ROUTE_EVENTS3_STALE_RSP R.ROUTE_FLAGS_STALE_OVF 1) ∧
      (s.reqOf (pkTag q) = none → s.response q req = s.bump R.ROUTE_EVENTS3_STALE_RSP R.ROUTE_FLAGS_STALE_OVF 1)) ∧
    (∀ (tag : BitVec 16) (r : Req), s.reqOf tag.toNat = some r →
      ∃ code : Nat, 2 ^ 16 ≤ code ∧
        exec (.requestTimeout tag) s = .next (((s.bump R.ROUTE_EVENTS4_E2E_TIMEOUTS R.ROUTE_FLAGS_TIMEOUT_OVF 1).endReq r
          code []).dmaGoOn r.tile r.eng)) ∧
    (∀ (q : Pkt) (fab : Bool), pkHop q = 0 → s.forward q fab = s.bump R.ROUTE_EVENTS2_HOP_EXPIRED R.ROUTE_FLAGS_HOP_OVF 1) ∧
    (∀ (d : BitVec 12) (src : Party) (v : BitVec 64), s.Reaches src (R.POINTS + 8 * d.toNat) →
      (nbits v.toNat 62 19 = 0 → exec (.points d src v) s = .next ((s.csrPut (R.POINTS + 8 * d.toNat) v).fset (exclude d.toNat) 0)) ∧
      (nbits v.toNat 62 19 ≠ 0 → exec (.points d src v) s = .next (s.csrRefuse src (R.POINTS + 8 * d.toNat)))) ∧
    (∀ src, s.Reaches src R.ROUTE_CTL → ∃ t, exec (.clearExclude src) s = .next t ∧ (∀ d, d < 4096 → t.fget (exclude d) = 0) ∧
      ∀ off, off < R.EXCLUDE ∨ R.EXCLUDE + 8 * 4096 ≤ off → t.csrGet off = s.csrGet off) ∧
    (∀ (p : Fin 18) (q : Pkt) (l : List Pkt), (s.port p).held = q :: l →
      let t := s.fillBucket p
      (pkBytes q * 16 ≤ (t.port p).bucket → exec (.tc0BucketRelease p) s = .next
        ((t.setPort p { t.port p with held := l, bucket := (t.port p).bucket - pkBytes q * 16 }).pushOut p ⟨q, false, false⟩)) ∧
      ((t.port p).bucket < pkBytes q * 16 → exec (.tc0BucketRelease p) s = .next t)) ∧
    (∀ (q : Pkt) (d : Nat), s.planesFor q d true = []) ∧
    (s.dom.lineRst = false → s.flag R.ROUTE_CTL_CMAP_EN = true →
      let t := (List.range 18).foldl (fun u p => u.setPort p { u.port p with period := (u.port p).period.cut u.rtime }) s
      let full := ((t.csrGet R.CMAP_CUR).toNat + 1) % 2 ^ 64
      let hdr := leBytes 8 full ++ leBytes 8 t.rtime ++ leBytes 4 (s.od D.CMAP_PERIOD) ++ leBytes 2 t.ownId ++ leBytes 2 18
        ++ satField t.router.unreach 4 ++ satField t.router.failRx 4 ++ List.replicate 32 0
      let map := hdr ++ (List.range 18).flatMap fun p => t.cmapRecord p (1000 * s.od D.CMAP_PERIOD)
      let u := (t.putWords (R.CMAP_BUF + 0x1000 * (full % 2)) (words64 152 map)).csrPut R.CMAP_CUR (BitVec.ofNat 64 full)
      let v := (List.range 18).foldl (fun u p => u.setPort p (u.port p).newPeriod) u
      exec .cmapPeriod s = .next { v with router := { v.router with unreach := 0, failRx := 0 } }) ∧
    (s.dom.lineRst = false → s.flag R.ROUTE_CTL_CMAP_EN = false →
      let t := (List.range 18).foldl (fun u p => u.setPort p { u.port p with period := (u.port p).period.cut u.rtime }) s
      let v := (List.range 18).foldl (fun u p => u.setPort p (u.port p).newPeriod) t
      exec .cmapPeriod s = .next { v with router := { v.router with unreach := 0, failRx := 0 } })

/-- Messages of a collective (R343 to R349, R351): a READY with another digest fails it, a first one joins and carries the collective
on, and a second one is answered; the wire bytes of a data packet are counted, and data for a chunk already taken is counted as such, any
other joins its chunk; an acknowledge takes the chunk away; a NACK holds a chunk or sends it again, and the ninth failure aborts or, once
every byte of DST is written, completes the collective and loses the chunk; ABORT ends a launched collective that may still abort, changes nothing of one aborted
before, is counted at one whose result is written, and is recorded before the launch; a message for no collective is stray.
Model's readings and choices it rests on: log entries 88, 92, 93, 165. -/
def Obligations.CollectiveMessages : Prop :=
  ∀ (d : Fin 4) (s t : State) (p : Pkt) (c : Coll),
    let r := cmNat p 2 2
    let chunk := cmNat p 16 4
    (TakesColl s t d 2 p c →
      (cmDigest p ≠ c.cst.digest → exec (.ready d) s = .next (t.collFail d c 0x0B01 r)) ∧
      (cmDigest p = c.cst.digest → r ≠ c.cst.rank → (∀ e ∈ c.ready, e.1 ≠ r) →
        let v := { c with ready := c.ready ++ [(r, cmNat p 32 8)] }
        exec (.ready d) s = .next ((t.collPut d v).collGo d v)) ∧
      (∀ at_, cmDigest p = c.cst.digest → r ≠ c.cst.rank → (r, at_) ∈ c.ready → c.state ≠ .queued →
        exec (.ready d) s = .next (t.cmSend c r 5 0 0 0 (t.readyBody d c)))) ∧
    (TakesColl s t d 1 p c →
      (cmDigest p ≠ c.cst.digest → exec (.data d) s = .next (t.collFail d c 0x0B01 r)) ∧
      (cmDigest p = c.cst.digest → c.state = .queued ∨ c.expects r chunk = false → exec (.data d) s = .next (t.stray d)) ∧
      (cmDigest p = c.cst.digest → c.state ≠ .queued → c.expects r chunk = true →
        let u := t.traffic (R.ME_RX_BYTES_BYTES.at (meOff d)) (c.partLen r chunk p)
        (∀ x y when_, c.taken.find? (fun e => e.1 == r && e.2.1 == chunk) = some (x, y, when_) →
          exec (.data d) s = .next (u.dupChunk d c r chunk when_)) ∧
        (c.taken.find? (fun e => e.1 == r && e.2.1 == chunk) = none → exec (.data d) s = .next (u.takePart d c r chunk p)))) ∧
    (TakesColl s t d 3 p c →
      let v := { c with out := c.out.filter fun x => !(x.dest == r && x.chunk == chunk && x.sent) }
      v.out.find? (fun x => x.dest == r && x.busy) = none → exec (.chunkAck d) s = .next ((t.collPut d v).collGo d v)) ∧
    (∀ u, TakesColl s t d 4 p c → c.out.find? (fun x => x.dest == r && x.chunk == chunk && x.sent) = some u →
      (cmNat p 20 1 = 2 → exec (.nack d) s = .next (t.collPut d
        { c with out := c.out.map fun x => if x.dest = r ∧ x.chunk = chunk then { x with busy := true } else x })) ∧
      (cmNat p 20 1 ≠ 2 → u.fails < 8 →
        exec (.nack d) s = .next ((t.resendChunk d c u true).1.collPut d (t.resendChunk d c u true).2)) ∧
      (cmNat p 20 1 ≠ 2 → 8 ≤ u.fails → c.abortable = true → exec (.nack d) s = .next (t.collFail d c 0x0B04 u.dest)) ∧
      (cmNat p 20 1 ≠ 2 → 8 ≤ u.fails → c.abortable = false → exec (.nack d) s = .next (t.collLost d c u.dest))) ∧
    (∀ u, s.takeCm d 5 = some (p, u) → u.cmStray p = false →
      (∀ v, u.collOf d (cmGroup p) (cmNat p 4 4) = some v → v.state = .queued ∨ v.state = .started → v.written = false →
        exec (.abort d) s = .next (u.collAbort d v (cmNat p 20 2) (cmNat p 22 2) false)) ∧
      (∀ v, u.collOf d (cmGroup p) (cmNat p 4 4) = some v → v.state = .done ∨ v.written = true →
        exec (.abort d) s = .next (u.meBump d R.ME_EVENTS2_LATE_ABORT 7)) ∧
      (∀ v, u.collOf d (cmGroup p) (cmNat p 4 4) = some v → v.state = .dead → exec (.abort d) s = .next u) ∧
      (u.collOf d (cmGroup p) (cmNat p 4 4) = none →
        let e := u.meng d
        (∀ a ∈ e.aborts, a.group ≠ cmGroup p ∨ a.seq ≠ cmNat p 4 4 ∨ a.epoch ≠ cmNat p 28 4 ∨ a.attempt ≠ cmNat p 26 2) →
        let l := e.aborts ++ [AbortRec.mk (cmGroup p) (cmNat p 4 4) (cmNat p 28 4) (cmNat p 26 2) (cmNat p 20 2) (cmNat p 22 2)]
        exec (.abort d) s = .next (u.setMe d { e with aborts := l.drop (l.length - 64) }))) ∧
    (∀ kind i u, (kind, i) ∈ [(1, Instr.data d), (2, .ready d), (3, .chunkAck d), (4, .nack d), (5, .abort d)] →
      s.takeCm d kind = some (p, u) → u.cmStray p = true → exec i s = .next (u.stray d)) ∧
    (∀ kind i u v, (kind, i) ∈ [(1, Instr.data d), (2, .ready d), (3, .chunkAck d), (4, .nack d)] →
      s.takeCm d kind = some (p, u) → u.cmStray p = false → u.collOf d (cmGroup p) (cmNat p 4 4) = some v →
      v.state = .dead ∨ v.lost = true → exec i s = .next (u.stray d)) ∧
    (∀ rank,
      let u := ((if c.written then s.collComplete d c else s).castAbort d c 0x0B04 rank).collPut d
        { c with state := .done, lost := true, out := [], arr := [], inb := [], outb := [], coast := false }
      s.collLost d c rank = ((u.report (0x0100 + d) .collAbort 0x0B04 0).noteFail 0x0B04).meRegs d)

/-- A collective from its launch to its end (R113, R340, R341, R344, R347, R349, R351, R355): the next one in launch order starts where
its claim fits and its trigger counts, a broken trigger ends it, chunks without an acknowledge go out again and the ninth failure aborts
or loses the chunk, READY is repeated once its interval has passed, a stalled one aborts, a long wait coasts, and one whose result is
written is done; the matrix part of MMA.AG then runs, and where that traps no trigger is counted.
Model's readings and choices it rests on: log entries 10, 88, 90, 91, 94, 165. -/
def Obligations.CollectiveProgress : Prop :=
  ∀ (d : Fin 4) (s : State),
    let e := s.meng d
    (∀ c, e.colls.find? (fun c => c.state == .queued) = some c → s.dom.worksRst = false → s.unitFenced R.FENCE_UNITS_ME d = false →
      let o := ctrOff d c.cst.trigIn
      (c.cst.trigEn = true → s.flag (R.CTR_BROKEN.at o) = true →
        exec (.collectiveStart d) s = .next (s.collAbort d c 0x0B08 c.cst.rank false)) ∧
      ((c.cst.trigEn = false ∨ s.flag (R.CTR_BROKEN.at o) = false ∧ s.fget (R.CTR_VALUE.at o) ≠ 0) →
        (e.colls.filter (·.claims)).length < 8 → e.claimed + 2 * c.w * c.b ≤ 2 ^ 24 →
        exec (.collectiveStart d) s = .next (s.startColl d c)) ∧
      (c.cst.trigEn = false → 8 ≤ (e.colls.filter (·.claims)).length → exec (.collectiveStart d) s = .next s)) ∧
    (let due := fun (u : OutChunk) => u.sent && decide (u.sentAt + 1000 * s.od D.COLL_RESEND_US ≤ s.rtime)
     ∀ c u, e.colls.find? (fun c => c.claims && c.out.any due) = some c → c.out.find? due = some u →
      (u.busy = true → exec (.chunkResend d) s = .next ((s.resendChunk d c u false).1.collPut d (s.resendChunk d c u false).2)) ∧
      (u.busy = false → u.fails < 8 →
        exec (.chunkResend d) s = .next ((s.resendChunk d c u true).1.collPut d (s.resendChunk d c u true).2)) ∧
      (u.busy = false → 8 ≤ u.fails → c.abortable = true → exec (.chunkResend d) s = .next (s.collFail d c 0x0B04 u.dest)) ∧
      (u.busy = false → 8 ≤ u.fails → c.abortable = false → exec (.chunkResend d) s = .next (s.collLost d c u.dest))) ∧
    (∀ c l, e.colls = c :: l → (∀ x ∈ l, x.state ≠ .started) → c.state = .started → c.allReady = false →
      (c.readyAt + 1000 * s.od D.COLL_RESEND_US ≤ s.rtime → exec (.readyRepeat d) s =
        .next ((s.collPut d { c with readyAt := s.rtime, lastAt := s.rtime }).cmCast c (s.readyBody d c))) ∧
      (s.rtime < c.readyAt + 1000 * s.od D.COLL_RESEND_US → exec (.readyRepeat d) s = .next s)) ∧
    (∀ c, e.colls.find? (fun c =>
        c.state == .started && c.abortable && decide (c.lastAt + 1000000 * s.od D.COLL_STALL_MS ≤ s.rtime)) = some c →
      ∃ (rank : Nat) (u : State), u = { s with freeCtr := u.freeCtr } ∧ (c.g = 0 ∨ rank < c.g) ∧
        exec (.stall d) s = .next (u.collFail d c 0x0B05 rank)) ∧
    (∀ c, e.colls.find? (fun c => c.state == .started && !c.coast && c.awaits && s.od D.COAST_US != 0 &&
        decide (c.waitAt + 1000 * s.od D.COAST_US < s.rtime)) = some c →
      exec (.coastWait d) s = .next (((s.collPut d { c with coast := true }).meBump d R.ME_EVENTS3_COASTS 9).meRegs d)) ∧
    (∀ c, e.colls.find? (·.written) = some c → c.snap = none →
      let v := { c with state := .done, coast := false }
      let t := ((s.collPut d v).ctrAdd d v.cst.trigOut 1).meBump d R.ME_EVENTS_DONE 0
      exec (.collectiveDone d) s = .next
        (((t.fset (R.ME_LAST_COLL_SEQ.at (meOff d)) v.cst.seq).fset (R.ME_LAST_FILL.at (meOff d)) v.fill).meRegs d)) ∧
    (∀ c t w u, e.colls.find? (·.written) = some c → c.snap = some (t, w) →
      (s.gatherMma c.tile t w = (.ok (), u) → exec (.collectiveDone d) s = .next (u.collDone d c 1)) ∧
      (∀ x, s.gatherMma c.tile t w = (.error x, u) →
        exec (.collectiveDone d) s = .next ((u.collDone d c 0).lateTrap c.tile t.pc x)))

/-- The governor (R366, R368, R378, R381 to R383, R386): PWR_ALERT_N and the input conditions enter buffer stop, with permits 16,
setpoints of 450 mV and no ballast, and with LINE in reset the power module's load off and its setpoints at 450 mV; its release leads to
BS_HOLD and that to a start event from the measured draw, whose end reports phase 3; a lost blade caps the power at 650 W; a tick
measures and then runs the control law, or stays in buffer stop, where 100 µs on the permits are what the budget allows, and with LINE in
reset the module's load follows the floor. An alert that comes without power stands when power arrives.
Model's readings and choices it rests on: log entries 95, 97, 101, 102, 104, 180, 194. -/
def Obligations.PowerCommands : Prop :=
  (∀ s : State, s.dom.powered = false → exec .pwrAlertAssert s = .next (s.govMod fun g => { g with alertExt := true })) ∧
  ∀ s : State, s.dom.powered = true →
    let asserted := s.govMod fun g => { g with alertExt := true }
    (exec .pwrAlertAssert s = .next (asserted.enterBs 2).pinFlags) ∧
    (s.gov.held = false → s.dom.lineRst = false → ∀ cause,
      let t := s.govMod fun g => { g with held := true, fresh := true, bsAt := max 1 s.clock.run, msBs := true, cause := cause }
      let u := (((t.fset R.PWR_STATUS_BS_CAUSE cause).fset R.PWR_STATUS_STATE 3).bsActuators fun _ => 16).bump
        R.PWR_EVENTS_ALERTS R.PWR_FLAGS_ALERTS_OVF 1
      s.enterBs cause = (u.report govSource .bufferStop cause 0).bsEvent 1) ∧
    (s.gov.held = false → s.dom.lineRst = true → ∀ cause,
      let t := s.govMod fun g => { g with held := true, fresh := true, bsAt := max 1 s.clock.run, msBs := true, cause := cause,
                                          offSet := 450, modBal := 0 }
      s.enterBs cause = (t.report govSource .bufferStop cause 0).bsEvent 1) ∧
    (let t := s.govMod fun g => { g with alertExt := false }
     (t.govState = 3 → t.alert = false → t.thermForce = false →
      exec .pwrAlertRelease s = .next (t.fset R.PWR_STATUS_STATE 4).pinFlags) ∧
     (t.govState ≠ 3 ∨ t.alert = true ∨ t.thermForce = true → exec .pwrAlertRelease s = .next t.pinFlags)) ∧
    (∀ row : Fin 5, let r := row.val + 1
      let k : Kind := if r ≤ 3 then .pwrInput else .pwrRail
      (s.gov.alerts.contains r = false → exec (.inputCondition row true) s = .next
        ((((s.govMod fun g => { g with alerts := g.alerts ++ [r] }).report 0x0601 k r 0).enterBs 1).pinFlags)) ∧
      (s.gov.alerts.contains r = true → exec (.inputCondition row false) s = .next
        ((((s.govMod fun g => { g with alerts := g.alerts.filter (· != r) }).report 0x0601 k r 0 true).releaseBs).pinFlags))) ∧
    (s.govState = 4 → s.alert = false → s.thermForce = false →
      let w := s.fget R.PWR_NOW_TICK_W
      let t := (s.govMod fun g => { g with held := false, fresh := false, t := 100 * w }).fset R.PWR_STATUS_STATE 1
      let u := t.govLoad.startEvent
      exec .bsHoldEnd s = .next
        (((u.fset R.PWR_NOW_TARGET_W w).bsEvent 2).report govSource .bufferStop u.gov.cause 0 true)) ∧
    (∀ t : State, t.startEvent = (t.fset R.PWR_STATUS_STATE 2).govMod fun g => { g with
      stagger := t.rtime + t.fget R.PWR_SMOOTH_START_INDEX * 100000 * t.fget R.PWR_SMOOTH_STAGGER_STEP, started := true }) ∧
    (s.govState = 2 → s.gov.stagger ≤ s.rtime →
      let t := s.fset R.PWR_STATUS_STATE 1
      (s.gov.bsAt = 0 → exec .staggerEnd s = .next t) ∧
      (s.gov.bsAt ≠ 0 → exec .staggerEnd s = .next ((t.bsEvent 3).govMod fun g => { g with bsAt := 0 }))) ∧
    (∀ b : Fin 2,
      (s.gov.lost = 0 → exec (.bladeLoss b) s = .next
        (((s.govMod fun g => { g with lost := 2 ^ b.val, msBlade := true }).report 0x0601 .bladeLost (2 ^ b.val) 0).bladeCap 650)) ∧
      (s.gov.lost = 2 ^ b.val → exec (.bladeReturn b) s = .next
        (((s.govMod fun g => { g with lost := 0 }).report 0x0601 .bladeLost (2 ^ b.val) 0 true).bladeCap 0xFFFF))) ∧
    (∀ x, s.dom.lineRst = false →
      let t := ((s.measure x).govMod fun g => { g with
        fresh := false, modBal := 0, offSet := 0, hints := if g.held then hintStep (s.measure x).rtime g.t g.hints else g.hints }).liveFlags.pinFlags
      let r := t.govEntries
      let cause := if t.gov.held then t.gov.cause else if t.gov.alerts.isEmpty then (if t.gov.alertExt then 2 else 3) else 1
      (t.alert = false → t.thermForce = false → t.gov.held = false → r.govState ≠ 0 →
        exec (.governorTick x) s = .next (r.govLoad.control x)) ∧
      (t.alert = false → t.thermForce = false → t.gov.held = false → r.govState = 0 →
        exec (.governorTick x) s = .next ((r.govFirst x.tickW.toNat).govLoad.control x)) ∧
      (t.alert = false → t.thermForce = false → t.gov.held = true → t.govState = 4 → exec (.governorTick x) s = .next t.bsTick) ∧
      (t.alert = false → t.thermForce = false → t.gov.held = true → t.govState ≠ 4 →
        exec (.governorTick x) s = .next ((((t.fset R.PWR_STATUS_STATE 4).bsCause t.gov.cause).bsActuators fun _ => 16).bsTick)) ∧
      (t.alert = true ∨ t.thermForce = true → t.govState ≠ 3 →
        let v := if t.gov.held then t else t.enterBs cause
        exec (.governorTick x) s = .next (((v.fset R.PWR_STATUS_STATE 3).bsCause cause).bsActuators fun _ => 16)) ∧
      (t.alert = true ∨ t.thermForce = true → t.govState = 3 → exec (.governorTick x) s = .next t.bsTick)) ∧
    (s.clock.run < s.gov.bsAt + 100000 → s.bsTick = (List.range 4).foldl (fun u d => u.setRate d) s.hintRegs) ∧
    (s.gov.bsAt + 100000 ≤ s.clock.run →
      ∃ (u : State) (permit : Nat → Nat), u = { s with freeCtr := u.freeCtr } ∧ (∀ d, 16 ≤ permit d ∧ permit d ≤ 256) ∧
        s.bsTick = u.bsActuators permit) ∧
    (∀ x, s.dom.lineRst = true → exec (.governorTick x) s = .next (s.offTick x))

/-- The governor's target after a tick (R376, R383): no bound in force is passed, the target rises by at most SLEW in a tick and not at
all while starts are staggered, and falls by more than SLEW only onto a bound. With LINE in reset the power module's load moves by at most
SLEW in a tick, but goes at once in buffer stop (R386), and the energy drawn counts on (R390).
Model's readings and choices it rests on: log entries 96, 99, 180, 182. -/
def Obligations.GovernorSlew : Prop :=
  ∀ (s : State) (x : GovIn),
    let t := (s.control x).gov.t
    let hi := (s.bounds.map (·.1)).foldl min (100 * pMax)
    let slew := s.fget R.PWR_SMOOTH_SLEW
    t ≤ hi ∧ t ≤ s.gov.t + slew ∧ (t < s.gov.t - slew → t = hi) ∧ (s.govState = 2 → t ≤ s.gov.t) ∧
    (let now := (s.offTick x).gov.modBal
     let pace := (s.govMod fun g => { g with energyJ := g.energyJ + x.tickW.toNat }).govEntries.govEase.fget R.PWR_SMOOTH_SLEW
     (s.offTick x).gov.energyJ = s.gov.energyJ + x.tickW.toNat ∧ now ≤ s.gov.modBal + pace ∧ (s.gov.held = false → s.dom.cutoff = false → s.gov.modBal - pace ≤ now) ∧
       (s.gov.held = true → now = 0))

/-- The eight commands of thermal control (R391 to R408), each in every form. A sample files a reading or FAULT for every sensor, writes the
registers, marks guards on FAULT and judges the soft trip; an estimator update moves the estimates where the last second was steady and counts how long R and F
have been past their thresholds, on which FLOW_LOW acts; a cap update forms the caps, of which the least binds and below 300 W forces; an
evaluation of the slopes counts the runs of excess and asks for the cut; a check files the readings and judges every guard, which is marked
on FAULT or when a row has held long enough, row 5 for the pair of coolant sensors; a comparator trips at 118 °C, with WORKS in reset or not, and the rails go at 125 °C. A cause
of force enters buffer stop when it begins and leaves with the last. Where LINE is in reset the commands of the controller change nothing,
nor does a comparator below its limit, of a guard that is marked or on FAULT, or after its trip.
Model's readings and choices it rests on: log entries 105, 107, 110, 130, 194. -/
def Obligations.ThermalCommands : Prop :=
  ∀ s : State, s.dom.powered = true →
    (s.dom.lineRst = true → ∀ (l : List (Option Int)) (c : Instr),
      c ∈ [Instr.sensorSample l, .estimatorUpdate, .thermCapUpdate, .flowStopEval, .flowLow, .plausibilityCheck] → exec c s = .next s) ∧
    (∀ l : List (Option Int), s.dom.lineRst = false →
      let a := s.thMod fun t => { t with sampled := true, temp := Vector.ofFn fun i => (l.getD i.val none).getD (vget 0 t.temp i.val),
                                         fault := Vector.ofFn fun i => (l.getD i.val none).isNone }
      let b := (List.range 10).foldl (fun u g => if u.tFault (guardSensor g) = true ∧ u.guardBad g = false then u.markGuard g 0 else u)
        ((List.range 197).foldl (fun u i => u.sensorReg i) a)
      let c := (b.fset R.THERM_TEMPS_TJ_HOT (tenths b.tjHot)).fset R.THERM_TEMPS_MEM_HOT (tenths (maxTemp ((List.range 8).map b.tm)))
      let d := (c.fset R.THERM_TEMPS_INLET (tenths c.tIn)).fset R.THERM_TEMPS_OUTLET (tenths c.outlet)
      let e := if d.dom.worksRst then d else (List.range 8).foldl (fun u n => u.refresh2x n) d
      let cool := fun (n : Nat) => e.thMod fun t => { t with coolFor := n }
      (∀ i, i < 197 → ∀ v, l[i]? = some (some v) → a.temp i = v ∧ a.tFault i = false) ∧
      (∀ i, i < 197 → (l[i]? = none ∨ l[i]? = some none) → a.tFault i = true ∧ a.temp i = s.temp i) ∧
      (∀ i, e.softTripped = some i → nbit e.therm.causes 1 = 0 → exec (.sensorSample l) s =
        .next ((((cool 0).thMod fun t => { t with soft := i }).forceOn 1 (sensorPlace i)).report thermSource .thermSoft i 0)) ∧
      (∀ i, e.softTripped = some i → nbit e.therm.causes 1 = 1 → exec (.sensorSample l) s = .next (cool 0)) ∧
      (e.softTripped = none → e.softCool = false → exec (.sensorSample l) s = .next (cool 0)) ∧
      (e.softTripped = none → e.softCool = true → nbit e.therm.causes 1 = 0 ∨ e.therm.coolFor < 10000 →
        exec (.sensorSample l) s = .next (cool (e.therm.coolFor + 1))) ∧
      (e.softTripped = none → e.softCool = true → nbit e.therm.causes 1 = 1 → 10000 ≤ e.therm.coolFor →
        exec (.sensorSample l) s =
          .next (((cool (e.therm.coolFor + 1)).forceOff 1).report thermSource .thermSoft e.therm.soft 0 true))) ∧
    (s.dom.lineRst = false →
      let warn : Rat := (s.od D.RTH_WARN : Rat) / 100000
      let need : Rat := (s.od D.FLOW_WARN : Rat) / 100
      let counted := fun (u : State) => (u.thMod fun t => { t with
        lowFor := if warn ≤ u.rthDie then t.lowFor + 1 else 0, flowFor := if u.therm.flow < need then t.flowFor + 1 else 0,
        wellFor := if 10 * u.rthDie ≤ 9 * warn ∧ 11 * need ≤ 10 * u.therm.flow then t.wellFor + 1 else 0 }).rthRegs
      let moved := fun (p : Rat) => s.thMod fun t => { t with
        rth := Vector.ofFn fun x => vget 0 t.rth x.val + (kelvin (s.tx x.val - s.tIn) / p - vget 0 t.rth x.val) / 64 }
      let gain := s.temp 196 - s.temp 195
      (steadyMean s.gov.means = none ∨ s.takesPart 195 = false → exec .estimatorUpdate s = .next (counted s)) ∧
      (∀ p, steadyMean s.gov.means = some p → s.takesPart 195 = true →
        (s.takesPart 196 = false ∨ gain < deg 2 → exec .estimatorUpdate s = .next (counted (moved p))) ∧
        (s.takesPart 196 = true → deg 2 ≤ gain → s.od D.COOLANT_C ≠ 0 → exec .estimatorUpdate s =
          .next (counted ((moved p).thMod fun t => { t with flow := p / (((s.od D.COOLANT_C : Nat) : Rat) / 10 * kelvin gain) }))) ∧
        (s.takesPart 196 = true → deg 2 ≤ gain → s.od D.COOLANT_C = 0 → exec .estimatorUpdate s =
          .next (counted ((moved p).thMod fun t => { t with flow := (Config.thermFree 24 : Rat) }))))) ∧
    (∀ (l : List Nat) (p : Rat), steadyMean l = some p ↔ 1000 ≤ l.length ∧ p = (natSum (l.take 1000) : Rat) / 100000 ∧
      ∀ x ∈ l.take 1000, 30000 ≤ x ∧ (x : Rat) - 100 * p ≤ 5 * p ∧ 100 * p - (x : Rat) ≤ 5 * p) ∧
    (s.dom.lineRst = false →
      let tell := fun (u : State) (v : Nat) =>
        u.event thermSource 0x0D81 (leBytes 1 v ++ [0] ++ leBytes 2 (u.fget R.THERM_RTH_RTH_DIE) ++ leBytes 2 (u.fget R.THERM_RTH_FLOW_EST))
      (s.flag R.THERM_STATUS_FLOW_LOW = false → 100 < s.therm.lowFor ∨ 100 < s.therm.flowFor →
        exec .flowLow s = .next (tell (s.setFlag R.THERM_STATUS_FLOW_LOW true) 1)) ∧
      (s.flag R.THERM_STATUS_FLOW_LOW = true → 100 < s.therm.wellFor →
        exec .flowLow s = .next (tell (s.setFlag R.THERM_STATUS_FLOW_LOW false) 0)) ∧
      (s.flag R.THERM_STATUS_FLOW_LOW = false → s.therm.lowFor ≤ 100 → s.therm.flowFor ≤ 100 → exec .flowLow s = .next s) ∧
      (s.flag R.THERM_STATUS_FLOW_LOW = true → s.therm.wellFor ≤ 100 → exec .flowLow s = .next s)) ∧
    (s.dom.lineRst = false →
      let lim := fun x => deg (if x < 4 then 105 else 95)
      let hot := (List.range 12).filter fun x => decide (lim x < s.tx x)
      let a := ((hot.filter fun x => nbit s.therm.hot x == 0).foldl (fun u _ => u.bump R.THERM_EVENTS_OVER_LIMIT R.THERM_FLAGS_OVER_OVF 1) s).thMod
        fun t => { t with hot := natSum (hot.map (2 ^ ·)) }
      let old := a.fget R.THERM_CAPS_TJ_CAP
      let plaus := a.fget R.THERM_CAPS_PLAUS_CAP
      ∀ tjc est reg, s.estCap = (est, reg) →
        (old = 0xFFFF → hot = [] → tjc = 0xFFFF) →
        (old = 0xFFFF → hot ≠ [] → tjc = min a.powerW 0xFFFE) →
        (old ≠ 0xFFFF → (∀ x, x < 12 → s.tx x ≤ lim x - deg 1) → tjc = if pMax < old + 10 then 0xFFFF else old + 10) →
        (old ≠ 0xFFFF → (∃ x, x < 12 ∧ lim x - deg 1 < s.tx x) → tjc = old - 10) →
        let ramp := a.rampCap
        let cap := min (min est tjc) (min (min ramp plaus) pMax)
        let bind := if cap = pMax then 0 else if cap = est then 1 else if cap = tjc then 2 else if cap = ramp then 3 else 4
        let b := ((((a.fset R.THERM_CAPS_EST_CAP est).fset R.THERM_RTH_EST_REGION reg).fset R.THERM_CAPS_TJ_CAP tjc).fset
          R.THERM_CAPS_RAMP_CAP ramp).setFlag R.THERM_STATUS_RAMP_ON (ramp != 0xFFFF)
        let c := ((b.fset R.THERM_STATUS_BIND_CAP bind).fset R.PWR_CAPS_THERM_CAP cap).thMod fun t => { t with
          capOk := if 350 ≤ cap then t.capOk + 1 else 0 }
        (cap < 300 → exec .thermCapUpdate s = .next (c.forceOn 4 reg)) ∧
        (300 ≤ cap → nbit c.therm.causes 4 = 1 → 1000 < c.therm.capOk → exec .thermCapUpdate s = .next (c.forceOff 4)) ∧
        (300 ≤ cap → nbit c.therm.causes 4 = 0 ∨ c.therm.capOk ≤ 1000 → exec .thermCapUpdate s = .next c)) ∧
    (∀ est reg, s.estCap = (est, reg) → est ≤ pMax ∧
      (∀ x, x < 12 → 0 < s.rth x → est ≤ capW (kelvin (s.limitX x - s.tIn) / s.rth x) pMax) ∧
      ((∀ x, x < 12 → (pMax : Rat) ≤ s.estOf x) → est = pMax ∧ reg = 0) ∧
      (∀ x, x < 12 → s.estOf x < (pMax : Rat) → reg < 12 ∧ est = capW (s.estOf reg) pMax ∧ s.estOf reg ≤ s.estOf x)) ∧
    (s.dom.lineRst = false →
      let ex := (List.range 4).map fun d => s.excess d
      let a := s.thMod fun t => { t with
        meds := ((List.range 4).map fun d => (s.dieMedian d none).getD (s.tj d)) :: t.meds.take 9,
        runs := Vector.ofFn fun d => if 5 < (ex.getD d.val none).getD 0 then vget 0 t.runs d.val + 1 else 0,
        calmFor := if ex.all fun e => decide (e.getD 0 ≤ 5) then t.calmFor + 1 else 0 }
      let worst := (List.range 4).foldl (fun b d => if (ex.getD b none).getD 0 < (ex.getD d none).getD 0 then d else b) 0
      let e := ((ex.getD worst none).getD 0 * 100).floor
      let b := (a.fset R.THERM_SLOPE_EXCESS (unsint 16 (max (-32768) (min 32767 e)))).fset R.THERM_SLOPE_DIE worst
      let c := b.fset R.THERM_SLOPE_RUN_MS (min (vget 0 b.therm.runs worst - 1) 255)
      ((∀ d, d < 4 → vget 0 c.therm.runs d ≤ 20) → exec .flowStopEval s = .next c) ∧
      (∀ d, d < 4 → 20 < vget 0 c.therm.runs d → (∀ k, k < d → vget 0 c.therm.runs k ≤ 20) →
        (nbit c.therm.causes 2 = 1 → exec .flowStopEval s = .next c) ∧
        (nbit c.therm.causes 2 = 0 →
          let u := (((c.thMod fun t => { t with stopDie := d }).setFlag R.THERM_STATUS_CUT_REQ true).report thermSource .thermStop d 0)
          exec .flowStopEval s = .next ((u.forceOn 2 d).notice 1 (leBytes 1 d ++ [0] ++ leBytes 2 (u.fget R.THERM_SLOPE_EXCESS)))))) ∧
    (s.dom.lineRst = false → s.therm.sampled = false → exec .plausibilityCheck s = .next s) ∧
    (s.dom.lineRst = false → s.therm.sampled = true →
      let t := s.thMod fun t => { t with past := (s.powerW, (List.range 10).map fun g => s.temp (guardSensor g)) :: t.past.take 20,
                                         crossFor := if s.coolantCrossed then t.crossFor + 1 else 0 }
      exec .plausibilityCheck s = .next ((List.range 10).foldl (fun u g => u.checkGuard g) t)) ∧
    (∀ g, g < 10 → s.guardBad g = false →
      let rows := fun (l : List (Nat × Nat)) => s.thMod fun t => { t with ruleFor := vput t.ruleFor g l }
      let old := vget [] s.therm.ruleFor g
      let new := ([1, 2, 3, 4, 5, 6, 7].filter fun r => s.guardRule g r).map fun r =>
        (r, if r = 5 then s.therm.crossFor else ((old.find? (·.1 == r)).map (·.2)).getD 0 + 1)
      (s.tFault (guardSensor g) = true → s.checkGuard g = (rows []).markGuard g 0) ∧
      (s.tFault (guardSensor g) = false → (∀ e ∈ new, e.2 < guardTime e.1) → s.checkGuard g = rows new) ∧
      (∀ e, s.tFault (guardSensor g) = false → (new.find? fun e => decide (guardTime e.1 ≤ e.2)) = some e →
        s.checkGuard g = (rows new).markGuard g e.1)) ∧
    (∀ g row, g < 8 →
      let a := s.fset R.THERM_STATUS_GUARD_BAD (s.fget R.THERM_STATUS_GUARD_BAD + 2 ^ g)
      s.markGuard g row = ((a.event thermSource 0x0D82 (leBytes 1 g ++ leBytes 1 row ++ leBytes 2 (tenths (a.temp (guardSensor g)))
        ++ leBytes 2 (tenths (a.guardModel g)) ++ leBytes 2 (tenths (a.guardPeer g)))).report thermSource .thermGuard g 0).plaus g) ∧
    (∀ cause place, 1 ≤ cause → cause ≤ 4 →
      let t := s.thMod fun t => { t with causes := t.causes + 2 ^ cause }
      let rest := s.thMod fun t => { t with causes := t.causes - 2 ^ cause }
      (nbit s.therm.causes cause = 1 → s.forceOn cause place = s) ∧
      (nbit s.therm.causes cause = 0 → t.flag R.THERM_STATUS_FORCE = false → s.forceOn cause place =
        (((t.fset R.THERM_STATUS_FORCE_CAUSE cause).setFlag R.THERM_STATUS_FORCE true).enterBs 3).forceEvent cause place) ∧
      (nbit s.therm.causes cause = 0 → t.flag R.THERM_STATUS_FORCE = true → s.forceOn cause place = (t.enterBs 3).forceEvent cause place) ∧
      (nbit s.therm.causes cause = 0 → s.forceOff cause = s) ∧
      (nbit s.therm.causes cause = 1 → s.therm.causes ≠ 2 ^ cause → s.forceOff cause = rest) ∧
      (nbit s.therm.causes cause = 1 → s.therm.causes = 2 ^ cause → s.forceOff cause =
        ((rest.fset R.THERM_STATUS_FORCE_CAUSE 0).setFlag R.THERM_STATUS_FORCE false).releaseBs)) ∧
    (∀ (g : Fin 8) (reading : Int),
      (s.takesPart (guardSensor g) = false ∨ reading < deg 118 ∨ (∃ r, (g.val, r) ∈ s.therm.trips) → exec (.hardwareTrip g reading) s = .next s) ∧
      (s.takesPart (guardSensor g) = true → deg 118 ≤ reading → (∀ r, (g.val, r) ∉ s.therm.trips) →
        let t := ((s.forceOn 5 g).thMod fun t => { t with trips := t.trips ++ [(g.val, reading)] }).report thermSource .thermTrip
          (guardSensor g) 0
        let u := t.event thermSource 0x0D84 (leBytes 1 (guardSensor g) ++ [0] ++ leBytes 2 (tenths reading))
        (u.flag R.THERM_STATUS_TRIP = true → exec (.hardwareTrip g reading) s = .next u) ∧
        (u.flag R.THERM_STATUS_TRIP = false →
          let w := u.fset R.THERM_STATUS_TRIP 1
          (w.dom.worksRst = true → exec (.hardwareTrip g reading) s = .next w) ∧
          (w.dom.worksRst = false →
            let v := (w.fset R.RESET_STATUS_LAST_KIND 1).fset R.RESET_STATUS_LAST_CAUSE 3
            let x := v.domMod fun d => { d with reqKind := if v.dom.reqKind = 1 then 0 else v.dom.reqKind,
                                                reqCause := if v.dom.reqKind ≤ 1 then 3 else v.dom.reqCause }
            exec (.hardwareTrip g reading) s = .next (((x.worksEnter 1 3).resetNotice 1 1).restartRun 2)))) ∧
      (s.takesPart (guardSensor g) = false ∨ reading < deg 125 → exec (.railCutoff g reading) s = .next s) ∧
      (s.takesPart (guardSensor g) = true → deg 125 ≤ reading →
        exec (.railCutoff g reading) s = .next (s.dark.domMod fun d => { d with cutoff := true, reqKind := 0, exitTimer := false })))

/-- The six commands of the interlock (R415, R416, R418 to R427, R429, R430), each in every form. The collector takes a source's oldest
message: an unlisted one becomes IL_UNKNOWN, and each gets a number, a class, its place in the log and the captures, its event, its row of
the condition table, and by class the hand-over, fault state with FAULT_N, or, for a CLEAR, the automatic exit. The bucket of a source counts
and promotes, by the level before a read in whose access the message falls, which then leaves 1 + REPEAT; at a whole second it drains, or is full where a lowered capacity lies at or below it. The pulse ends; the quiet timer ends
fault state, or asks for a clear, once its period has run; a message is injected only for a party whose accesses pass and while enabled; a
self-check that finds something sets the safe state and keeps IL_SELF raised. Where LINE is in reset none of them but the pulse's end changes anything.
Model's readings and choices it rests on: log entries 112, 114, 115, 117, 119, 181, 194, 203. -/
def Obligations.InterlockCommands : Prop :=
  ∀ s : State,
    (s.dom.lineRst = true → ∀ (source : BitVec 16) (src : Party) (v : BitVec 64) (cause : Fin 4) (c : Instr),
      c ∈ [Instr.faultMessage source, .ilBucketDrain, .quietTimer, .ilInject src v, .ilSelfCheck cause] → exec c s = .next s) ∧
    (s.dom.lineRst = false → ∀ source : BitVec 16,
      (s.heldAt source.toNat = [] → exec (.faultMessage source) s = .next s) ∧
      (∀ m l, s.heldAt source.toNat = m :: l →
        exec (.faultMessage source) s = .next (({ s with msgs := tset (fun _ => []) s.msgs source.toNat l } : State).collect m))) ∧
    (∀ m : FaultMsg,
      (kindListed m.kind = true → sourceListed m.source = true → m.known = m) ∧
      (kindListed m.kind = false ∨ sourceListed m.source = false →
        m.known = { m with kind := 0x0E61, detail := m.source % 65536 * 65536 + m.kind % 65536 }) ∧
      (m.high = false → m.baseClass = kindClass m.kind) ∧ (m.high = true → m.baseClass = if m.kind = 0x0E14 then 2 else 3) ∧
      (∀ (h : FaultMsg) (l : List FaultMsg), h.kind = m.kind → h.clear = m.clear →
        mergeMsg m (h :: l) = some ({ h with rep := min (h.rep + 1) 255, high := h.high || m.high } :: l))) ∧
    (∀ m cls promoted u, (s.wrap R.IL_LOG_STAT_NEXT_LSEQ).classify m.known = (cls, promoted, u) →
      let k := m.known
      let lseq := s.fget R.IL_LOG_STAT_NEXT_LSEQ
      let v := ((u.logEntry k cls lseq promoted).ilFault k cls lseq promoted).condMsg k cls
      (k.clear = true → s.collect m = v.tryExit) ∧
      (k.clear = false → cls = 3 → s.collect m = v.faultEnter lseq) ∧
      (k.clear = false → cls = 2 → v.flag R.IL_STATUS_FAULT_STATE = true → s.collect m = v.quietStart.handOver k promoted lseq) ∧
      (k.clear = false → cls = 2 → v.flag R.IL_STATUS_FAULT_STATE = false → s.collect m = v.handOver k promoted lseq) ∧
      (k.clear = false → cls < 2 → s.collect m = v)) ∧
    (∀ m : FaultMsg,
      let safe := s.flag R.IL_STATUS_SAFE
      let level := R.IL_BUCKET_LEVEL.at (8 * m.source)
      let full := R.IL_BUCKET_FULL.at (8 * m.source)
      let n := s.fget level + (1 + m.rep)
      let apart := ∀ l f, s.il.readAt ≠ some (m.source, l, f, s.clock.run)
      let up := fun (u : State) => u.bump R.IL_EVENTS2_PROMOTED R.IL_FLAGS_PROMOTED_OVF 1
      (safe = true → s.classify m = (3, false, s)) ∧
      (∀ x, safe = false → m.clear = true → s.condOf m.source m.kind = some x → s.classify m = (x.cls, false, s)) ∧
      (safe = false → m.clear = true → s.condOf m.source m.kind = none → s.classify m = (m.baseClass, false, s)) ∧
      (safe = false → m.clear = false → m.baseClass = 3 → s.classify m = (3, false, s)) ∧
      (safe = false → m.clear = false → m.baseClass ≠ 3 →
        (apart → s.flag full = true → s.classify m = (m.baseClass + 1, true, up s)) ∧
        (apart → s.flag full = false → n < s.od D.BUCKET_CAP → s.classify m = (m.baseClass, false, s.fset level n)) ∧
        (apart → s.flag full = false → s.od D.BUCKET_CAP ≤ n → s.classify m = (m.baseClass + 1, true, up
          (((s.fset level (s.od D.BUCKET_CAP)).fset full 1).event ilSource 0x0E82 (leBytes 2 m.source ++ leBytes 2 m.kind)))) ∧
        (∀ l f, s.il.readAt = some (m.source, l, f, s.clock.run) → ∃ same : Bool,
          let t : State := { s with freeCtr := s.freeCtr + 1, il := { s.il with readAt := none } }
          (same = false → s.classify m = t.classify m) ∧
          (same = true → s.flag full = false → s.fget level = 0 → 1 + m.rep < s.od D.BUCKET_CAP →
            let u := t.fset level (1 + m.rep)
            (f = true → s.classify m = (m.baseClass + 1, true, up u)) ∧
            (f = false → l + (1 + m.rep) < s.od D.BUCKET_CAP → s.classify m = (m.baseClass, false, u)) ∧
            (f = false → s.od D.BUCKET_CAP ≤ l + (1 + m.rep) → s.classify m =
              (m.baseClass + 1, true, up (u.event ilSource 0x0E82 (leBytes 2 m.source ++ leBytes 2 m.kind)))))))) ∧
    (∀ (m : FaultMsg) cls lseq promoted,
      let l := m.words cls lseq promoted
      let off := R.IL_LOG + 32 * (lseq % 256)
      let lost := s.csrGet off != 0 && !logPassed (s.fget R.IL_LOG_STAT_READ) (2 ^ 32 + lseq - 256)
      let put := fun (u : State) => (u.csrWords off l).bump R.IL_EVENTS_MSGS R.IL_FLAGS_MSGS_OVF 1
      let a := s.bump R.IL_EVENTS_LOG_LOST R.IL_FLAGS_LOST_OVF 1
      let kept := fun (u : State) =>
        (cls = 0 → s.logEntry m cls lseq promoted = u) ∧
        (cls = 1 ∨ cls = 2 → s.logEntry m cls lseq promoted = u.ilCapture R.IL_FIRST l) ∧
        (cls = 3 → s.logEntry m cls lseq promoted =
          ((u.ilCapture R.IL_FIRST l).ilCapture R.IL_FIRST_CRIT l).keepCritical (l.flatMap (leBytes 8)))
      (lost = true → kept (put a)) ∧ (lost = false → kept (put s))) ∧
    (∀ off l,
      ((s.csrGet off).getLsbD 0 = true → s.ilCapture off l = s) ∧
      ((s.csrGet off).getLsbD 0 = false → s.ilCapture off l = (s.csrWords off l).csrPut off (BitVec.ofNat 64 (l.getD 0 0 + 1)))) ∧
    (∀ (m : FaultMsg) cls lseq promoted,
      let recent := ∃ t, (m.source, m.kind, t) ∈ s.il.sent ∧ s.clock.run < t + 10000000
      (cls = 0 ∨ recent → s.ilFault m cls lseq promoted = s) ∧
      (cls ≠ 0 → ¬ recent → s.ilFault m cls lseq promoted = (s.ilMod fun x => { x with
        sent := (m.source, m.kind, s.clock.run) :: x.sent.filter fun (a, k, _) => !(a == m.source && k == m.kind) }).event ilSource 0x0E80
          ((m.words cls lseq promoted).flatMap (leBytes 8)))) ∧
    (∀ (m : FaultMsg) cls,
      let hit := fun (c : Cond) => c.source == m.source && c.kind == m.kind
      let shown := fun (u : State) => u.fset R.IL_STATUS_COND u.il.conds.length
      (kindCond m.kind = false → s.condMsg m cls = s) ∧
      (kindCond m.kind = true → m.clear = true →
        s.condMsg m cls = shown (s.ilMod fun x => { x with conds := x.conds.filter fun c => !hit c })) ∧
      (kindCond m.kind = true → m.clear = false → s.il.conds.any hit = true → s.condMsg m cls =
        shown (s.ilMod fun x => { x with conds := x.conds.map fun c => if hit c then { c with cls := max c.cls cls } else c })) ∧
      (kindCond m.kind = true → m.clear = false → s.il.conds.any hit = false → s.il.conds.length < 64 →
        s.condMsg m cls = shown (s.ilMod fun x => { x with conds := x.conds ++ [Cond.mk m.source m.kind cls] })) ∧
      (kindCond m.kind = true → m.clear = false → s.il.conds.any hit = false → 64 ≤ s.il.conds.length →
        s.condMsg m cls = shown (s.fset R.IL_STATUS_COND_OVF 1))) ∧
    (∀ lseq,
      let t := ((s.fset R.IL_STATUS_FAULT_STATE 1).fset R.IL_STATUS_FAULT_N 1).fset R.IL_STATUS_FAULT_N_HOLD 1
      let u := (t.ilMod fun x => { x with pulse := true }).quietStart
      (s.flag R.IL_STATUS_FAULT_STATE = true → s.faultEnter lseq = u) ∧
      (s.flag R.IL_STATUS_FAULT_STATE = false → s.faultEnter lseq = (u.ilState 1 (some lseq)).faultNotice 1)) ∧
    (∀ (m : FaultMsg) promoted lseq,
      let act := s.actUnit m.source 1 1 lseq
      let fenced := (0x210 ≤ m.source ∧ m.source ≤ 0x217) ∨ (0x100 ≤ m.source ∧ m.source ≤ 0x103)
      let lost := m.kind = 0x0E32 ∨ m.kind = 0x0E34 ∨ promoted = true
      (m.source ≤ 0xBF → m.kind = 0x0E02 ∨ promoted = true → s.handOver m promoted lseq = act) ∧
      (m.source ≤ 0xBF → m.kind ≠ 0x0E02 → promoted = false → s.handOver m promoted lseq = s) ∧
      (fenced → promoted = true → s.handOver m promoted lseq = act) ∧ (fenced → promoted = false → s.handOver m promoted lseq = s) ∧
      (m.source = 0x510 ∨ m.source = 0x511 → lost → s.dom.worksRst = false →
        (m.source - 0x510 = s.rcActive → s.handOver m promoted lseq = act) ∧
        (m.source - 0x510 ≠ s.rcActive → s.rcState (m.source - 0x510) = 3 →
          s.handOver m promoted lseq = s.standbyFail (m.source - 0x510) 1) ∧
        (m.source - 0x510 ≠ s.rcActive → s.rcState (m.source - 0x510) ≠ 3 → s.handOver m promoted lseq = s)) ∧
      (m.source = 0x510 ∨ m.source = 0x511 → ¬ lost ∨ s.dom.worksRst = true → s.handOver m promoted lseq = s) ∧
      (m.source = 0x700 → m.kind = 0x0E34 → m.injected = true → s.handOver m promoted lseq = s.sbHang) ∧
      (0xBF < m.source → ¬ fenced → m.source ≠ 0x510 → m.source ≠ 0x511 → ¬ (m.source = 0x700 ∧ m.kind = 0x0E34 ∧ m.injected = true) →
        s.handOver m promoted lseq = s)) ∧
    (exec .faultNPulseEnd s = .next (s.ilMod fun x => { x with pulse := false }).faultPin ∧
      (s.flag R.IL_STATUS_FAULT_N = true → s.il.pulse = false → s.flag R.IL_STATUS_FAULT_N_HOLD = false →
        s.faultPin = s.fset R.IL_STATUS_FAULT_N 0) ∧
      (s.flag R.IL_STATUS_FAULT_N = false ∨ s.il.pulse = true ∨ s.flag R.IL_STATUS_FAULT_N_HOLD = true → s.faultPin = s)) ∧
    (s.dom.lineRst = false →
      let due := s.il.quietAt + 1000000000 * s.od D.QUIET_S
      (s.flag R.IL_STATUS_QUIET_RUN = true → due ≤ s.clock.run →
        exec .quietTimer s = .next (s.ilMod fun x => { x with expired := true }).tryExit) ∧
      (s.flag R.IL_STATUS_QUIET_RUN = false ∨ s.clock.run < due → exec .quietTimer s = .next s)) ∧
    (s.flag R.IL_STATUS_FAULT_STATE = false ∨ s.il.expired = false ∨ s.flag R.IL_STATUS_CLEAR_REQUIRED = true → s.tryExit = s) ∧
    (s.flag R.IL_STATUS_FAULT_STATE = true → s.il.expired = true → s.flag R.IL_STATUS_CLEAR_REQUIRED = false →
      ((∃ c ∈ s.il.conds, 2 ≤ c.cls) ∨ s.flag R.IL_STATUS_COND_OVF = true ∨ s.flag R.IL_STATUS_SAFE = true → s.tryExit = s) ∧
      ((∀ c ∈ s.il.conds, c.cls < 2) → s.flag R.IL_STATUS_COND_OVF = false → s.flag R.IL_STATUS_SAFE = false →
        (s.od D.RECOVERY_LIMIT ≤ s.hourExits → s.tryExit = (s.fset R.IL_STATUS_CLEAR_REQUIRED 1).ilState 4 none) ∧
        (s.hourExits < s.od D.RECOVERY_LIMIT →
          let n := min (s.fget R.IL_RECOVERY_RECOVERIES + 1) 0xFFFF
          let t := (s.faultEnd.fset R.IL_RECOVERY_RECOVERIES n).odPut D.RECOVERIES n
          let u := t.ilMod fun x => { x with exits := x.exits.filter (fun e => decide (t.rtime < e + 3600000000000)) ++ [t.rtime] }
          s.tryExit = (u.ilState 2 none).faultNotice 2))) ∧
    (s.dom.lineRst = false → ∀ (src : Party) (v : BitVec 64),
      (s.partyUp src = false ∨ s.od D.INJECT_EN = 0 → exec (.ilInject src v) s = .next s) ∧
      (s.partyUp src = true → s.od D.INJECT_EN ≠ 0 →
        let source := nbits v.toNat 63 48
        let kind := nbits v.toNat 47 32
        exec (.ilInject src v) s = .next (s.reportMsg ⟨source, kind, nbits v.toNat 31 24, v.getLsbD 23, v.getLsbD 22, true, 0, 0, s.rtime,
          s.highClass source kind 0⟩))) ∧
    (s.dom.lineRst = false → exec (.ilSelfCheck 0) s = .next s ∧ ∀ cause : Fin 4, cause.val ≠ 0 →
      let t := (s.fset R.IL_FLAGS_SELF_CAUSE cause.val).fset R.IL_STATUS_SAFE 1
      let raised := (s.condOf ilSource 0x0E60).isSome = true ∨ ∃ m ∈ s.heldAt ilSource, m.kind = 0x0E60 ∧ m.clear = false
      (s.flag R.IL_STATUS_SAFE = true → raised → exec (.ilSelfCheck cause) s = .next t) ∧
      (s.flag R.IL_STATUS_SAFE = true → ¬ raised → exec (.ilSelfCheck cause) s = .next (t.report ilSource .ilSelf cause.val 0)) ∧
      (s.flag R.IL_STATUS_SAFE = false → exec (.ilSelfCheck cause) s = .next ((t.ilState 5 none).report ilSource .ilSelf cause.val 0))) ∧
    (s.dom.lineRst = false → s.Canon → ∃ t, exec .ilBucketDrain s = .next t ∧ { t with csr := s.csr } = s ∧
      (∀ off, (∀ c, c < 0x1000 → off ≠ R.IL_BUCKET + 8 * c) → t.csrGet off = s.csrGet off) ∧
      ∀ c, c < 0x1000 →
        let level := R.IL_BUCKET_LEVEL.at (8 * c)
        let full := R.IL_BUCKET_FULL.at (8 * c)
        let n := s.fget level
        (n = 0 ∨ s.flag full = true → t.fget level = n ∧ t.flag full = s.flag full) ∧
        (n ≠ 0 → s.flag full = false → n < s.od D.BUCKET_CAP → t.fget level = n - s.od D.BUCKET_LEAK ∧ t.flag full = false) ∧
        (n ≠ 0 → s.flag full = false → s.od D.BUCKET_CAP ≤ n →
          t.fget level = s.od D.BUCKET_CAP ∧ t.flag full = true))

/-- Fences (R437 to R442, R447, R453): a request is answered and begins the fence of its target with a cut, or of what it moves up to when
it is repeated too often; samples that a fence inside it still owes stay to be written; the drain ends, samples are
written, the unit reset decides whether the target lifts, stays, or moves the action up; a lift asks for another unit reset; the drain
limit of an aborted attempt acts on what still runs.
Model's readings and choices it rests on: log entries 120, 121, 122, 123. -/
def Obligations.FenceCommands : Prop :=
  ∀ (target : BitVec 16) (s : State),
    let c := target.toNat
    (∀ src hold, s.Reaches src R.FENCE_REQ →
      let answer := fun (code : Nat) (u : State) => Host.Outcome.next ((u.fset R.FENCE_RESULT_RESULT code).fset R.FENCE_RESULT_TARGET c)
      (tgtOf c = none → exec (.fenceReq src target hold) s = answer 0x0F01 s ∧ exec (.lift src target) s = answer 0x0F01 s) ∧
      (∀ t, tgtOf c = some t →
        (s.dom.worksRst = true → exec (.fenceReq src target hold) s = answer 0x0F02 s ∧ exec (.lift src target) s = answer 0x0F02 s) ∧
        (s.dom.worksRst = false → s.inService t = true →
          (s.isFenced c t = true → exec (.fenceReq src target hold) s = answer 0 s) ∧
          (s.isFenced c t = false → s.hitsActive t = true → s.standbyOk = false →
            exec (.fenceReq src target hold) s = answer 0x0F03 s) ∧
          (∀ c' level u, s.isFenced c t = false → s.hitsActive t = false ∨ s.standbyOk = true → s.climb c t.level 5 = (c', level, u) →
            (3 ≤ level → exec (.fenceReq src target hold) s = answer 0 (u.askReset (levelKind level) 2 level c' 0xFFFFFFFF)) ∧
            (∀ t', level < 3 → tgtOf c' = some t' →
              (u.isFenced c' t' = true → exec (.fenceReq src target hold) s = answer 0 u) ∧
              (u.isFenced c' t' = false → u.hitsActive t' = false ∨ u.standbyOk = true →
                exec (.fenceReq src target hold) s = answer 0 (u.fence c' t' level 2 0xFFFFFFFF hold)))) ∧
          (∀ x, s.mgr.held = [] → s.fenceOf c = some x → x.phase = .stays →
            exec (.lift src target) s = answer 0 ((s.rcSelfTests t).fenceMod c fun y => { y with phase := .lifting }))))) ∧
    (∀ level k,
      (5 ≤ level ∨ s.recentActs (actKey c level) level + 1 < s.od D.ESC_REPEAT → s.climb c level (k + 1) = (c, level, s)) ∧
      (∀ t, level = 1 → tgtOf c = some t → s.od D.ESC_REPEAT ≤ s.recentActs c 1 + 1 →
        s.climb c level (k + 1) = (s.escalation c 1 2 false).climb (0x0800 + t.dieOf) 2 k) ∧
      (1 < level → level < 5 → s.od D.ESC_REPEAT ≤ s.recentActs (actKey c level) level + 1 →
        s.climb c level (k + 1) = (s.escalation c level (level + 1) false).climb c (level + 1) k)) ∧
    (∀ t level cause lseq hold, s.hitsActive t = false →
      let x : Fence := ⟨c, level, cause, lseq, hold, .drain, false, false, 0xFFFFFFFF,
        ((s.mgr.fences.filter fun y => t.covers y.target).flatMap (·.samples)) ++ (s.toSample t).map fun p => s.sampleOf p cause level lseq⟩
      let u := s.mgrMod fun m => { m with
        fences := (m.fences.filter fun y => !t.covers y.target) ++ [x], acts := m.acts ++ [(c, level, s.rtime)] }
      let v := (u.bump R.ESC_EVENTS_FENCES R.ESC_EVENTS2_FENCES_OVF 1).csrPut R.FENCE_LAST
        (BitVec.ofNat 64 (c * 2 ^ 48 + cause * 2 ^ 40 + level * 2 ^ 36 + lseq))
      v.participates t = false → s.fence c t level cause lseq hold = v.cut t) ∧
    (∀ x t, s.fenceOf c = some x → tgtOf c = some t →
      (x.phase = .drain → s.drainLeft t = [] → ∃ u, exec (.fenceDrainEnd target) s = .next u ∧
        u = ((t.tiles.foldl (fun u p =>
          if u.tileState p = 5 then u.setTile p { u.tile p with dma := (u.tile p).dma.map fun e => { e with run := none } } else u)
          ({ s with router := { s.router with reqs := s.router.reqs.filter fun q => !t.tiles.contains q.tile } } : State)).fenceMod
            x.target fun y => { y with phase := .drained, drainTo := false })) ∧
      (x.phase = .drained →
        let w := s.writeSamples x.samples
        let u := t.rcs.foldl (fun u r => u.tokensForced (2 + r)) w.2
        let v := if t.rcs.any (· != u.rcActive) then u.failoverEnd else u
        exec (.fenceComplete target) s =
          .next ((v.rcSelfTests t).fenceMod x.target fun y => { y with phase := .unitReset, recSeq := w.1, samples := [] })) ∧
      (∀ passed chUp ok u, s.unitReset t passed chUp = (ok, u) → x.phase = .unitReset ∨ x.phase = .lifting →
        let lifts := ok = true ∧ (x.phase = .lifting ∨ x.hold = false ∧ u.od D.AUTO_LIFT = 1)
        (lifts → exec (.unitResetDone target passed chUp) s = .next
          (((u.lift t).mgrMod fun m => { m with fences := m.fences.filter (·.target != x.target) }).fenceDone x true false)) ∧
        (¬ lifts → ok = true → exec (.unitResetDone target passed chUp) s = .next
          (((u.rcFenced t).fenceMod x.target fun y => { y with phase := .stays, urFail := false }).fenceDone x false false)) ∧
        (ok = false → x.phase = .unitReset → exec (.unitResetDone target passed chUp) s = .next
          ((((u.rcFenced t).fenceMod x.target fun y => { y with phase := .stays, urFail := true }).fenceDone x false true).unitFailed x t)))) ∧
    (s.estate = 4 → s.epoch.drained = false → s.dom.worksRst = false → exec .abortDrain s = .next
      (s.stillRunning.foldl (fun u c => u.actUnit c 1 3 0xFFFFFFFF) (s.epMod fun x => { x with drained := true })))

/-- The reset domains (R30 to R34, R367, R435, R447 to R451, R456, R480): the requested reset is entered, WORKS first, with its notice
and its run, and the notices of a package reset stay queued; exits train channels, verify the LINE image behind a package reset, take over
the clock copy and start the ports; a reset that does not exit escalates; a SIGNAL reset is the cut-over of an activation, which it
abandons where a condition of R518 has arisen; loss of power
leaves every domain down.
Model's readings and choices it rests on: log entries 125, 126, 127, 129, 131, 151, 157, 197, 198, 202. -/
def Obligations.ResetCommands : Prop :=
  ∀ s : State,
    let done := fun (u : State) => ({ u with dom := { u.dom with reqKind := 0, again := false, exitTimer := true } } : State)
    (s.dom.reqKind = 1 → s.dom.worksRst = false →
      exec .worksReset s = .next ((done ((s.worksEnter 1 s.dom.reqCause).resetNotice 1 1)).restartRun 2)) ∧
    (s.dom.reqKind = 2 → s.dom.lineRst = false →
      let t := (if s.dom.worksRst then s else s.worksEnter 2 s.dom.reqCause).resetNotice 2 1
      let passed := if t.boot.stage = 7 ∧ t.boot.full = false then 6 else t.boot.stage
      let u := t.fwMod fun x => { x with
        lineAgain := true, lineStage := if (t.fwSlot (t.idle 2)).state = 3 then passed else x.lineStage }
      let v := (List.range 18).foldl (fun w p => if w.portState p = 5 ∨ w.portState p = 6 then w.sayDown p 1 else w) u
      let notes := (t.dw.evSent ++ t.dw.evq).filter fun e => e.code == 0x0F82
      exec .packageReset s = .next ((done (v.lineWipe.keepNotices notes)).restartRun 1) ∧
      (v.lineWipe.keepNotices notes).dw.evSeq = notes.length ∧
      ∀ (i : Nat) (e : DwEvent), notes[i]? = some e → (v.lineWipe.keepNotices notes).dw.evq[i]? = some { e with seq := i }) ∧
    (s.dom.reqKind = 4 →
      let t := (if s.dom.worksRst then s else (s.worksEnter 4 s.dom.reqCause).resetNotice 4 1).fset R.RESET_STATUS_CYCLE_REQ 1
      let u : State := { t with dom := { t.dom with reqKind := 0, again := false }, mgr := { t.mgr with cycTarget := s.dom.reqTarget } }
      exec .powerCycle s = .next (u.notice 2 (leBytes 2 s.dom.reqTarget ++ leBytes 1 5))) ∧
    (∀ t : State, (t.worksWipe).dom.worksRst = true ∧ (t.worksWipe).tiles = .replicate 192 .reset ∧ (t.worksWipe).job = t.job ∧
      (t.worksWipe).regions = t.regions ∧ (t.worksWipe).prog = .empty ∧ (t.lineWipe).dom.lineRst = true ∧ (t.lineWipe).msgs = [] ∧
      (t.lineWipe).dw = .reset ∧ (t.lineWipe).dict = t.dict ∧
      ∀ p, p < 18 → (t.lineWipe).port p = { Port.reset with lastCw := (t.port p).lastCw, lastLane := (t.port p).lastLane }) ∧
    (∀ (chUp : Vector (BitVec 4) 8) (bad : BitVec 2), s.dom.worksRst = true → s.dom.lineRst = false → s.dom.cutoff = false →
      s.flag R.THERM_STATUS_TRIP = false → s.flag R.RESET_STATUS_CYCLE_REQ = false → s.boot.stage = 3 → s.boot.outcome = 0 →
      let t : State := { s with dom := { s.dom with worksRst := false, exitTimer := false, again := false } }
      let u := (List.range 8).foldl (fun u n =>
        (((u.logRead n).fset (R.MD_STATUS_CH_UP.at (mdOff n)) (chUp[n]!).toNat).fset (R.SCRUB_CTL_RATE.at (mdOff n)) (u.od D.SCRUB_RATE)).reloadMark n) t
      let v := (List.range 8).foldl (fun u n => u.weSync n) ((List.range 192).foldl (fun u p => u.tileExit p) u)
      let b := (if v.job.active then v.jobRead.syncMirror else v).bootSlot 1 bad
      let w := ((b.2.syncArith).fwMod fun x => { x with rcImg := .replicate 2 (vget 0 x.run 1) })
      let x := (List.range 4).foldl (fun u d => u.ownPace d (u.fget (R.DIE_PWR_RATE.at (diePwr d))))
        (w.fset R.RC_STATUS_ACTIVE (w.od D.RC_PREFERRED)).heldDecisions
      exec (.worksResetExit chUp bad) s = .next (if b.1 then (x.selfTest 0).selfTest 1 else (x.setRc 0 6).setRc 1 6)) ∧
    (∀ (bad : BitVec 2) (ok : Bool) (r : State), s.dom.lineRst = true → s.dom.powered = true → s.dom.cutoff = false → s.boot.stage = 2 →
      s.boot.outcome = 0 →
      (if s.fw.lineAgain then
        ((s.lineTrial.bootSlot 2 bad).1, (s.lineTrial.bootSlot 2 bad).2.fwMod fun x => { x with lineAgain := false })
      else (true, s)) = (ok, r) →
      let t : State := { r with
        dom := { r.dom with lineRst := false, exitTimer := true, again := false }, clock := { r.clock with fromCopy := r.clock.copyValid } }
      let u := t.odPut D.LINK_VERSION (t.fwSlot (t.inForce 2)).link
      let v := if u.clock.present then u.fset R.RTIME_STATUS_REFCLK_LOCK 1 else u
      let w := ((List.range 18).foldl (fun u p => if u.portMay p then u.setPortState p 1 else u) v).dwStart
      let x := w.pinFlags.fset R.IL_STATUS_INJECT_EN (w.od D.INJECT_EN)
      let y : State := if x.flag R.IL_STATUS_FAULT_STATE then
        { x.fset R.IL_STATUS_QUIET_RUN 1 with il := { x.il with quietAt := x.clock.run } } else x
      (ok = true → exec (.lineResetExit bad) s = .next (y.condsDrop.raiseAgain).bootRegs) ∧
      (ok = false → r.dom.signalRst = true → exec (.lineResetExit bad) s = .next (r.stopRun 0 0x1001)) ∧
      (ok = false → r.dom.signalRst = false → ∃ (us : Nat) (q : State), q = { r with freeCtr := q.freeCtr } ∧
        exec (.lineResetExit bad) s = .next ((q.bootMod fun b => { b with stage := 0 }).stageStop 0 2 0x1001 us [] q.s0Detail))) ∧
    (∀ line, s.dom.exitTimer = true → (if line then s.dom.lineRst = true else s.dom.lineRst = false ∧ s.dom.worksRst = true) →
      s.flag R.THERM_STATUS_TRIP = false →
      let t : State := { s with dom := { s.dom with exitTimer := false } }
      let l := if line then 4 else 3
      (s.flag R.IL_STATUS_SAFE = true → exec (.resetExitTimeout line) s = .next t) ∧
      (s.flag R.IL_STATUS_SAFE = false → exec (.resetExitTimeout line) s = .next
        ((t.escalation s.dom.reqTarget l (l + 1) false).autoReset s.dom.reqTarget (l + 1) s.dom.reqCause s.dom.reqLseq))) ∧
    (∀ bad : BitVec 2, s.dom.sigReq ≠ 0 → s.dom.signalRst = false →
      let enters := fun (r : State) =>
        let t := ((r.tokensForced 4).dropHandover).odTurnAway
        let u := if t.dom.lineRst then t else t.bump R.SB_EVENTS2_SB_RESTARTS R.SB_FLAGS_RESTARTS_OVF 1
        let v : State := { u with
          clock := { u.clock with copyValid := false }, dom := { u.dom with signalRst := true, sigReq := 0 } }
        let hung := s.dom.sigReq = 1 ∧ 3 ≤ r.mgr.hangs.length ∧ r.trial 0 = false
        ((if hung then v.fset R.RESET_STATUS_SB_HELD 1 else v).romBoot bad s.dom.sigReq r.uptime).pathsJudged
      (s.sigPending = none → exec (.signalReset bad) s = .next (enters s)) ∧
      (∀ k, s.sigPending = some k →
        let code := s.fwBlock (some 0)
        let back := ((s.slotSt k 2).odPut D.FW_RESULT code).activateFail 0 code
        (code = 0 → exec (.signalReset bad) s = .next (enters ((s.trialStart 0).fwActivated 0 k))) ∧
        (code ≠ 0 → s.dom.sigReq ≠ 3 → exec (.signalReset bad) s = .next (enters back)) ∧
        (code ≠ 0 → s.dom.sigReq = 3 → exec (.signalReset bad) s = .next (back.domMod fun d => { d with sigReq := 0 })))) ∧
    (s.dom.signalRst = true → s.dom.powered = true → s.flag R.RESET_STATUS_SB_HELD = false → s.sb.noImage = false →
      s.dom.lineRst = true →
      let t := (s.domMod fun d => { d with signalRst := false }).imageMeasured 0
      let u : State := { t with clock := { t.clock with copyValid := false } }
      let v := u.licAgain.odDefaults
      let w := (v.sbMod fun b => { b with up := true, upAt := v.clock.run }).noticesDue
      let x := w.event sbSource 0x1181 (leBytes 1 w.sb.cause ++ [0] ++ leBytes 1 w.notices.length ++ [0] ++ leBytes 4 w.sb.before)
      let y := x.ilMod fun z => { z with flash := (z.flash ++ z.waiting).drop ((z.flash ++ z.waiting).length - 64), waiting := [] }
      exec .signalResetExit s = .next y.pathsJudged) ∧
    (s.dom.powered = true → exec .powerLoss s = .next { s.dark with dom := { s.dark.dom with
      powered := false, signalRst := true, reqKind := 0, sigReq := 0, exitTimer := false } }) ∧
    (∀ (pos : Fin 4) (bad : BitVec 2), ∃ t, exec (.powerOnReset pos bad) s = .next t ∧ t.pending = s.pending ∧ t.blob = s.blob.filter
      (fun e => odKept e.1) ∧ t.gens = s.gens ∧ t.dom.powered = true ∧ t.dom.lineRst = true ∧ t.dom.worksRst = true)

/-- The five commands of bring-up, the background test and firmware trials (R456 to R469, R472, R475, R507, R520 to R523), each in every
form. The stage in force, of a package that has power and a signal box that runs, does its work and passes on, stops with its cause, is
held, or waits for its reset domain: S0 the fuses and the LINE image, S1 the licence, S2 the die-to-die links and the clock, S3 marks, die
test and repair, S4 the tile test and the geometry, S5 the controllers, S6 tray number, geometry and topology, S7 the report and the
background test. REFCLK's return resumes S2; the background test ends with its report once every device has; a trial that may be confirmed
goes GOOD, raises the least security version where its image asks, and a runtime one brings the standby over; a trial whose window lapses
falls back. At any other time each of the five changes nothing.
Model's readings and choices it rests on: log entries 132, 134, 136, 140, 154, 155, 157, 194, 202. -/
def Obligations.BringupAndTrials : Prop :=
  ∀ (us : BitVec 32) (s : State),
    let k := us.toNat
    let runs := s.dom.powered = true ∧ s.dom.cutoff = false ∧ s.dom.signalRst = false
    let at_ := fun (n : Nat) => runs ∧ s.boot.stage = n ∧ s.boot.outcome = 0
    (∀ (n : Nat) (i : StageIn), (n, i) ∈ [(1, StageIn.s1), (5, .s5)] ∨ (∃ ok f bad, (n, i) = (0, .s0 ok f bad)) ∨ (∃ up, (n, i) = (2, .s2 up)) ∨
        (∃ ok f, (n, i) = (3, .s3 ok f)) ∨ (∃ f ok, (n, i) = (4, .s4 f ok)) ∨ (∃ ms, (n, i) = (7, .s7 ms)) →
      ¬ at_ n → exec (.stageDone us i) s = .next s) ∧
    (∀ ok f bad, at_ 0 →
      let t := s.sbMod fun b => { b with up := true }
      (ok = false ∨ s.boot.fatal = 0x1002 → exec (.stageDone us (.s0 ok f bad)) s = .next (t.stageStop 0 2 0x1002 k [] [])) ∧
      (ok = true → s.boot.fatal ≠ 0x1002 → ∀ good u, ((t.loadFuses f).addressUp.imageMeasured 0).bootSlot 2 bad = (good, u) →
        let d := leBytes 8 (u.od D.SERIAL) ++ leBytes 2 0x00B0 ++ leBytes 1 (vget 0 u.fw.run 0)
        (good = true → exec (.stageDone us (.s0 ok f bad)) s = .next (u.stagePass 0 k [] d 1)) ∧
        (good = false → exec (.stageDone us (.s0 ok f bad)) s = .next (u.stageStop 0 2 0x1001 k [] d)))) ∧
    (∀ (t : Nat) (bad : BitVec 2),
      let a := s.inForce t
      let b := s.idle t
      let fails := fun (k : Nat) (x : Bool) => x = true ∨ ((s.fwSlot k).header ≠ [] ∧
        (s.fwHeadCode (s.fwSlot k).header ≠ (0, k / 2) ∨ (k / 2 = 1 ∧ (s.fwSlot k).recV < (s.fwSlot k).recMin) ∨
          sha512 (s.fwSlot k).body ≠ bytesAt (s.fwSlot k).header 0x30 64))
      let gone := (s.fwSlot a).state = 6 ∨ fails a (bad.getLsbD (a % 2))
      let spare := (s.fwSlot b).state = 5 ∧ ¬ fails b (bad.getLsbD (b % 2))
      (¬ gone → s.bootSlot t bad = (true, s.imageStart t)) ∧
      (gone → spare → s.bootSlot t bad =
        (true, (((s.slotSt a 6).fwMod fun x => { x with run := vput x.run t (b % 2) }).imageStart t).event sbSource 0x1383
          (leBytes 1 (fwCode t) ++ [3] ++ leBytes 1 (b % 2) ++ [0] ++ leBytes 4 (s.fwSlot b).version))) ∧
      (gone → ¬ spare → s.bootSlot t bad = (false, s.slotSt a 6))) ∧
    (at_ 1 → ∀ l t,
      (s.boot.licNext = some l ∧ t = (s.blobPut D.LICENCE l).bootMod fun b => { b with licNext := none }) ∨
        (s.boot.licNext = none ∧ l = s.blobOf D.LICENCE ∧ t = s) →
      let c := t.licCode l none
      (c = 0 → exec (.stageDone us .s1) s = .next
        ((((t.odPut D.LIC_STATE 1).odPut D.LIC_SEQ (numAt l 4 4)).odPut D.LIC_PRODUCT (numAt l 0x50 2)).stagePass 1 k []
          (bytesAt l 4 4 ++ bytesAt l 0x50 8) 2)) ∧
      (c ≠ 0 → exec (.stageDone us .s1) s = .next
        ((((t.odPut D.LIC_STATE 0).odPut D.LIC_SEQ 0).odPut D.LIC_PRODUCT 0).stageStop 1 2 0x1003 k (leBytes 4 c) []))) ∧
    (∀ up, at_ 2 →
      (s.dom.lineRst = true → exec (.stageDone us (.s2 up)) s = .next s) ∧
      (s.dom.lineRst = false →
        let t := if s.boot.trained then s else (s.d2dTrain up).bootMod fun b => { b with trained := true }
        let bit := fun (b : Bool) (n : Nat) => if b then n else 0
        let packed := (List.range 6).foldl (fun v i => v + t.modules i * 16 ^ i) 0
        let d := leBytes 3 packed ++ leBytes 1 (bit t.clock.present 1 + bit (t.laneState 0 == 4) 2 + bit (t.laneState 1 == 4) 4)
        let n := leBytes 4 ((((List.range 6).map t.modules).map popcount16).foldl (· + ·) 0)
        let cut := ∃ die, die < 4 ∧ ∀ i, i < 6 → (pairDies i).contains die = true → t.modules i = 0
        (t.clock.present = false → exec (.stageDone us (.s2 up)) s = .next (t.stageStop 2 2 0x1004 k n d)) ∧
        (t.clock.present = true → cut ∨ t.boot.fatal = 0x1005 → exec (.stageDone us (.s2 up)) s = .next (t.stageStop 2 2 0x1005 k n d)) ∧
        (t.clock.present = true → ¬ cut → t.boot.fatal ≠ 0x1005 → exec (.stageDone us (.s2 up)) s = .next (t.stagePass 2 k n d 3)))) ∧
    (∀ ok (fail : Vector (BitVec 16) 8), at_ 3 →
      (s.dom.worksRst = true → exec (.stageDone us (.s3 ok fail)) s = .next s) ∧
      (s.dom.worksRst = false →
        let full := s.boot.kind == 0
        let fails := fun (n : Nat) => if full then (vget 0 fail n).toNat else 0
        let a := (List.range 8).foldl (fun u n => (((u.logRead n).mapRead n).loadMarks n full).dieTest n (fails n)) s
        let found := (List.range 8).any fun n => s.diesFound n (fails n) != 0
        let c := (List.range 8).foldl (fun u n => u.repairUnits n) a.testPattern
        let t := if full then c.setFlag R.BOOT_STATUS_DRIFT (a.testPattern.flag R.BOOT_STATUS_DRIFT || found) else a
        let marks := (List.range 8).map fun n => t.fget (R.DIE_MARK_MARKED.at (mdOff n))
        let ups := (List.range 8).map fun n => t.fget (R.MD_STATUS_CH_UP.at (mdOff n))
        let d := marks.flatMap (leBytes 2) ++ ups.flatMap (leBytes 1)
        let n := leBytes 4 ((marks.map popcount16).foldl (· + ·) 0)
        let stops := t.boot.fatal = 0x1006 ∨ 0 ∈ ups ∨ ok = false ∨ checkerVectorsOk = false ∨ (full = true ∧ ∃ n, n < 8 ∧ 3 ≤ s.marksCalled n (fails n))
        (stops → exec (.stageDone us (.s3 ok fail)) s = .next (t.stageStop 3 2 0x1006 k n d)) ∧
        (¬ stops → exec (.stageDone us (.s3 ok fail)) s = .next (t.stagePass 3 k n d 4)))) ∧
    (∀ (fail : BitVec 192) ok, at_ 4 →
      (s.dom.worksRst = true ∨ s.rcState 0 = 1 ∨ s.rcState 1 = 1 → exec (.stageDone us (.s4 fail ok)) s = .next s) ∧
      (s.dom.worksRst = false → s.rcState 0 ≠ 1 → s.rcState 1 ≠ 1 →
        let full := s.boot.kind == 0
        let bad := if checkerVectorsOk then fail else BitVec.allOnes 192
        let t := if s.boot.tested then s else if full then s.tilesTested bad ok
          else (s.quickFail bad).bootMod fun b => { b with tested := true, unitsOk := ok }
        let short := full = true ∧ ∃ die, die < 4 ∧ (t.geomOf die).length ≠ t.licTiles / 4
        let tiles := fun (u : State) => (List.range 3).flatMap fun i => leBytes 8 (u.csrGet (R.BOOT_TILES + 8 * i)).toNat
        (short → t.od D.ACCEPT_REDUCED ≠ 1 → exec (.stageDone us (.s4 fail ok)) s = .next (t.stageStop 4 2 0x1007 k
          (leBytes 2 (((List.range 4).map fun die => (t.geomOf die).length).foldl (· + ·) 0) ++ leBytes 2 t.boot.drift) (tiles t))) ∧
        (¬ short ∨ t.od D.ACCEPT_REDUCED = 1 →
          let u := if full then t.geomFix else t
          let n := leBytes 2 (u.fget R.BOOT_GEOM_IN_SERVICE) ++ leBytes 2 (u.tileMap R.BOOT_DRIFT).length
          (u.rcState 0 = 6 → u.rcState 1 = 6 → exec (.stageDone us (.s4 fail ok)) s = .next (u.stageStop 4 2 0x1008 k n (tiles u))) ∧
          (u.rcState 0 ≠ 6 ∨ u.rcState 1 ≠ 6 →
            (u.boot.unitsOk = false ∨ u.boot.fatal = 0x1009 → exec (.stageDone us (.s4 fail ok)) s = .next (u.stageStop 4 2 0x1009 k n (tiles u))) ∧
            (u.boot.unitsOk = true → u.boot.fatal ≠ 0x1009 → exec (.stageDone us (.s4 fail ok)) s = .next (u.stagePass 4 k n (tiles u) 5)))))) ∧
    (at_ 5 →
      (s.dom.worksRst = true ∨ s.rcState s.rcActive ≠ 4 → exec (.stageDone us .s5) s = .next s) ∧
      (s.dom.worksRst = false → s.rcState s.rcActive = 4 →
        let t := s.stagePass 5 k [] (leBytes 1 s.rcActive ++ leBytes 1 (s.rcState 0) ++ leBytes 1 (s.rcState 1))
          (if s.boot.kind = 2 ∧ s.boot.s6 = true then 7 else 6)
        (t.boot.notice = 0 → exec (.stageDone us .s5) s = .next t) ∧
        (t.boot.notice ≠ 0 →
          let u := (t.wrap R.RESET_STATUS_RESET_GEN).odPut D.RESET_GEN ((t.wrap R.RESET_STATUS_RESET_GEN).fget R.RESET_STATUS_RESET_GEN)
          exec (.stageDone us .s5) s = .next ((u.resetNotice u.boot.notice 2).bootMod fun b => { b with notice := 0 })))) ∧
    (¬ (at_ 6 ∨ (runs ∧ s.boot.stage = 6 ∧ s.boot.outcome = 3)) → exec (.stageDone us .s6) s = .next s) ∧
    (at_ 6 ∨ (runs ∧ s.boot.stage = 6 ∧ s.boot.outcome = 3) →
      (s.traySet = true → s.portsSettled = false → exec (.stageDone us .s6) s = .next s) ∧
      (s.traySet = false ∨ s.portsSettled = true →
        let t := s.bootMod fun b => { b with topoOn := b.topoOn || s.traySet }
        let n := leBytes 4 t.portsMissing
        let d := leBytes 4 t.fabricState ++ leBytes 2 t.ownId ++ [0, 0] ++ leBytes 8 t.topoDigest
        let want := t.od D.GEOMETRY_EXPECT
        let wrong := want ≠ 0 ∧ want ≠ t.fget R.BOOT_GEOM_IN_SERVICE
        let missing := 2 < t.portsMissing ∧ t.boot.accepted ≠ some t.topoDigest
        let held := fun (c : Nat) =>
          (t.boot.outcome = 3 → t.boot.cause = c → exec (.stageDone us .s6) s = .next t) ∧
          (t.boot.outcome = 0 ∨ t.boot.cause ≠ c → exec (.stageDone us .s6) s = .next (t.stageStop 6 3 c k n d))
        (t.traySet = false → held 0x100A) ∧
        (t.traySet = true → wrong → held 0x100C) ∧
        (t.traySet = true → ¬ wrong → missing → held 0x100B) ∧
        (t.traySet = true → ¬ wrong → ¬ missing → exec (.stageDone us .s6) s = .next (t.stagePass 6 k n d 7)))) ∧
    (∀ ms : BitVec 32, at_ 7 →
      let t := (s.stagePass 7 k (leBytes 4 ms.toNat) [] 7).odPut D.BRINGUP_MS ms.toNat
      (t.od D.BGTEST_EN = 1 → exec (.stageDone us (.s7 ms)) s = .next t.bgStart) ∧
      (t.od D.BGTEST_EN ≠ 1 → exec (.stageDone us (.s7 ms)) s = .next t)) ∧
    (∀ stage outcome cause n d next,
      let s' := if cause ∈ [0x1002, 0x1005, 0x1006, 0x1009] ∧ s.trial 2 = false then s.bootMod fun b => { b with fatal := cause } else s
      let a := ((s'.bootMod fun b => { b with outcome := outcome, cause := cause }).stageReport stage outcome cause k n d).bootRegs
      (a.boot.outcome = 2 → a.trial 2 = true →
        s.stageStop stage outcome cause k n d = (a.fallBack 2 2).askReset 2 2 4 0xFFFF 0xFFFFFFFF) ∧
      (a.boot.outcome ≠ 2 ∨ a.trial 2 = false → s.stageStop stage outcome cause k n d = a) ∧
      s.stagePass stage k n d next = ((s.stageReport stage 1 0 k n d).bootMod fun b =>
        { b with stage := next, outcome := if stage = 7 then 1 else 0, cause := 0 }).bootRegs) ∧
    ((s.clock.present = true → s.boot.stage = 2 → 2 ≤ s.boot.outcome → s.boot.cause = 0x1004 →
        exec .clockRetry s = .next (s.bootMod fun b => { b with outcome := 0, cause := 0 }).bootRegs) ∧
      (s.clock.present = false ∨ s.boot.stage ≠ 2 ∨ s.boot.outcome < 2 ∨ s.boot.cause ≠ 0x1004 → exec .clockRetry s = .next s)) ∧
    (∀ spares,
      (s.flag R.BOOT_STATUS_BG_RUN = false ∨ (∃ n, n < 8 ∧ s.bgBusy n = true) → exec (.bgtestDone spares) s = .next s) ∧
      (s.flag R.BOOT_STATUS_BG_RUN = true → (∀ n, n < 8 → s.bgBusy n = false) →
        (s.boot.bgStop = true → exec (.bgtestDone spares) s = .next (s.bgEnd 3 [])) ∧
        (s.boot.bgStop = false → exec (.bgtestDone spares) s = .next (((List.range 8).foldl (fun u n =>
          u.setMdev n { u.mdev n with spareBad := (u.mdev n).spareBad + (vget 0 spares n).toNat }) s).bgEnd 2
            ((List.range 8).map fun n => (vget 0 spares n).toNat))))) ∧
    (∀ t : Fin 3,
      let a := s.inForce t
      let b := s.idle t
      let x := s.fwSlot a
      let u := s.slotSt a 5
      let r := u.fwMod fun f => { f with minSvn := vput f.minSvn t (max (vget 0 f.minSvn t) x.svn) }
      let raised := if (r.fwSlot b).svn < x.svn then r.slotSt b 6 else r
      let v := if x.raise then raised else u
      let other := 1 - v.rcActive
      let w := if t.val = 1 then (((v.fwMod fun f => { f with rcImg := vput f.rcImg other (a % 2) }).recordFormat).setStandbyOk false).selfTest other else v
      (s.dom.signalRst = true ∨ s.mayConfirm t = false → exec (.trialConfirm t) s = .next s) ∧
      (s.dom.signalRst = false → s.mayConfirm t = true → exec (.trialConfirm t) s =
        .next (w.event sbSource 0x1382 (leBytes 1 (fwCode t) ++ [0] ++ leBytes 1 (a % 2) ++ [0] ++ leBytes 4 x.version
          ++ leBytes 4 (vget 0 w.fw.minSvn t))))) ∧
    (let age := fun (t : Nat) => s.clock.run - vget 0 s.fw.cut t
     let sound := fun (t : Nat) => s.trial t = true ∧ nbit s.fw.spoilt t = 0 ∧ age t < 1000000000 * s.od D.FW_TRIAL_S
     (s.mayConfirm 0 = true ↔ sound 0 ∧ s.sb.up = true ∧ s.fw.flashed = true) ∧
     (s.mayConfirm 1 = true ↔ sound 1 ∧ 10000000000 ≤ age 1 ∧ s.standbyOk = true) ∧
     (s.mayConfirm 2 = true ↔ sound 2 ∧ (s.boot.full = true ∨ (s.fw.lineStage < 7 ∧ s.fw.lineStage ≤ s.boot.stage)))) ∧
    (∀ t : Fin 3,
      let u := s.fallBack t 1
      (s.trial t = false → exec (.trialLapse t) s = .next s) ∧
      (s.trial t = true →
        (t.val = 0 → exec (.trialLapse t) s = .next (u.askSignal 3)) ∧
        (t.val = 2 → exec (.trialLapse t) s = .next (u.askReset 2 2 4 0xFFFF 0xFFFFFFFF)) ∧
        (t.val = 1 → u.standbyOk = true → exec (.trialLapse t) s = .next ((u.switchTo none).selfTest u.rcActive)) ∧
        (t.val = 1 → u.standbyOk = false → exec (.trialLapse t) s = .next (u.askReset 1 2 3 0xFFFF 0xFFFFFFFF))))

/-- Requests to the object dictionary (R484 to R492), on both paths and in every form: a message waits for its own row, reaches a signal box
that runs, and on the control lane once its flits are whole; it is malformed, an acknowledge of notices, a repeat answered as before, the ninth
of its path, or waits in its queue; a signal box not at work serves all that wait, each path in turn, every answer kept and sent. READ, WRITE and INFO are refused, in this order, for a stale session, a
grant that does not hold, an unknown entry, its access, its level, or a package that is not idle; else they read, describe or write. A
scalar write is checked for size and range, a longer value joined segment by segment, and an applied one advances GEN once its commit held.
HELLO opens a session and reattaches an orphaned package; HEARTBEAT answers the session with the snapshot.
Model's readings and choices it rests on: log entries 141, 142, 143, 147, 200. -/
def Obligations.DictionaryRequests : Prop :=
  ∀ (m : OdMsg) (e : OdEnv) (s : State) (q : OdReq) (body : List Byte),
    let rows : List (Instr × List Nat) := [(.odWrite m e, [2]), (.odInfo m e, [3]), (.hello m e, [0x10]), (.heartbeat m e, [0x11]),
      (.noticeAck m e, [0x21])]
    let mine := fun (i : Instr) (op : Nat) =>
      (∃ l, (i, l) ∈ rows ∧ op ∈ l) ∨ (i = .odRead m e ∧ op ≠ 2 ∧ op ≠ 3 ∧ op ≠ 0x10 ∧ op ≠ 0x11 ∧ op ≠ 0x21)
    let row := fun (i : Instr) => (∃ l, (i, l) ∈ rows) ∨ i = .odRead m e
    (∀ i src dport sumOk l, m = .port src dport sumOk l → q = odParse false src.toNat l → row i →
      let hears := s.dom.signalRst = false ∧ s.sb.up = true ∧ s.sb.dup = false ∧ dport.toNat = s.od D.OD_PORT ∧ sumOk = true ∧
        l.length ≤ 1048
      (hears → mine i q.op → exec i s = .next (s.odHandle m l q e)) ∧
      (¬ hears ∨ ¬ mine i q.op → exec i s = .next s)) ∧
    (∀ i f, m = .lane f → row i →
      (∀ t, s.rxFlit 0 f (· == 6) = (false, t) → exec i s = .next t.pump) ∧
      (∀ t u, s.rxFlit 0 f (· == 6) = (true, t) → t.gather f = (none, u) → exec i s = .next u.pump) ∧
      (∀ t u x, s.rxFlit 0 f (· == 6) = (true, t) → t.gather f = (some x, u) → q = odParse true 0 x.body →
        (¬ mine i q.op → exec i s = .next s) ∧
        (mine i q.op → u.dom.signalRst = true ∨ u.sb.up = false → exec i s = .next (u.odSend m (q.response 5 0 []))) ∧
        (mine i q.op → u.dom.signalRst = false → u.sb.up = true → exec i s = .next (u.odHandle m x.body q e)))) ∧
    (∀ (l : List Byte), (∀ src dport sumOk b, m = .port src dport sumOk b → s.odSend m l = s.fieldSend (.udp src.toNat l)) ∧
      (∀ f, m = .lane f → s.odSend m l = (s.respond f 7 (chunk52 80 l)).pump)) ∧
    (q.malformed = true ↔ q.size < 24 ∨ q.op ∉ [1, 2, 3, 0x10, 0x11, 0x21] ∨ 2 ≤ q.flags ∨ (q.op = 2 ∧ q.length ≠ q.value.length) ∨
      (q.op ≠ 2 ∧ q.value ≠ []) ∨ (q.op ≠ 2 ∧ q.op ≠ 1 ∧ q.length ≠ 0) ∨ (q.lane = true ∧ (0x10 ≤ q.op ∨ 4096 < q.size))) ∧
    (q.malformed = true → s.odHandle m body q e = s.odSend m (q.response 4 0 [])) ∧
    (let held := fun (n : Notice) => (n.kind = 1 ∧ s.flag R.THERM_STATUS_CUT_REQ = true) ∨ (n.kind = 2 ∧ s.flag R.RESET_STATUS_CYCLE_REQ = true)
     q.malformed = false → q.op = 0x21 → ∃ left, s.odHandle m body q e = { s with notices := left } ∧
      (∀ n, n ∈ left ↔ (n ∈ s.notices ∧ n.reqId ≠ q.reqId) ∨
        ∃ o, o ∈ s.notices ∧ o.reqId = q.reqId ∧ held o ∧ n = { o with acked := true })) ∧
    (q.malformed = false → q.op ≠ 0x21 →
      (∀ old, (vget [] s.sb.kept q.path).lookup q.reqId = some old → s.odHandle m body q e = s.odSend m old) ∧
      ((vget [] s.sb.kept q.path).lookup q.reqId = none →
        let t := s.sbMod fun b => { b with waiting := vmod b.waiting q.path fun l => l ++ [⟨m, body, e, false⟩] }
        (8 ≤ (vget [] s.sb.waiting q.path).length →
          s.odHandle m body q e = (s.sbBump R.SB_EVENTS2_OD_BUSY R.SB_FLAGS_BUSY_OVF).odSend m (q.response 0x1209 0 [])) ∧
        ((vget [] s.sb.waiting q.path).length < 8 →
          (e.busy = true → s.odHandle m body q e = t) ∧ (e.busy = false → s.odHandle m body q e = t.odDrain)))) ∧
    ((s.sb.up = true → s.dom.signalRst = false →
        s.odDrain = State.odServeN ((vget [] s.sb.waiting 0).length + (vget [] s.sb.waiting 1).length) s) ∧
      (s.sb.up = false ∨ s.dom.signalRst = true → s.odDrain = s) ∧
      (∀ n, State.odServeN 0 s = s ∧ State.odServeN (n + 1) s = State.odServeN n s.odNext) ∧
      (∀ p w l, p < 2 → vget [] s.sb.waiting p = w :: l → vget [] s.sb.waiting (1 - p) = [] ∨ s.sb.turn = p →
        let r := match w.msg with
          | .port src _ _ _ => odParse (p == 1) src.toNat w.body
          | .lane _ => odParse (p == 1) 0 w.body
        s.odNext = (s.sbMod fun b => { b with waiting := vput b.waiting p l, turn := 1 - p }).odTake w r) ∧
      (vget [] s.sb.waiting 0 = [] → vget [] s.sb.waiting 1 = [] → s.odNext = s)) ∧
    (∀ mute, let w : OdWait := ⟨m, body, e, mute⟩
      let send := fun (t : State) (l : List Byte) => if mute then t else t.odSend m l
      (∀ old, (vget [] s.sb.kept q.path).lookup q.reqId = some old → s.odTake w q = send s old) ∧
      ((vget [] s.sb.kept q.path).lookup q.reqId = none →
        (∀ c v u, q.op < 0x10 → s.odServe q e = (c, v, u) →
          let x := q.response c (tget (fun _ => 0) u.gens q.key) v
          s.odTake w q = send (u.odKeep q x) x) ∧
        (∀ c v u, q.op = 0x10 → s.hello q = (c, v, u) →
          let t := send (u.odKeep q (q.response c 0 v)) (q.response c 0 v)
          (c = 0 → s.odTake w q = t.noticesSend) ∧ (c ≠ 0 → s.odTake w q = t)) ∧
        (∀ c v u, q.op = 0x11 → s.heartbeat q = (c, v, u) →
          s.odTake w q = send (u.odKeep q (q.response c 0 v)) (q.response c 0 v)))) ∧
    (let u := s.sbMod fun b => { b with session := q.session, tray := q.src, hello := true, kept := vput b.kept 0 [] }
     let back := (u.sbMod fun b => { b with orphan := 2 }).orphanEvent 2 q.session
     (q.session = 0 ∨ q.session = s.sb.session → s.hello q = (0x1205, [], s)) ∧
     (q.session ≠ 0 → q.session ≠ s.sb.session →
       (s.sb.orphan ≠ 1 → s.hello q = (0, u.snapshot, u)) ∧ (s.sb.orphan = 1 → s.hello q = (0, back.snapshot, back))) ∧
     (q.session ≠ 0 → q.session = s.sb.session → s.heartbeat q = (0, s.snapshot, s)) ∧
     (q.session = 0 ∨ q.session ≠ s.sb.session → s.heartbeat q = (0x1208, [], s))) ∧
    (q.op = 2 → q.lane = false → s.sessionOk q = false →
      s.odServe q e = (0x1208, [], s.sbBump R.SB_EVENTS_STALE_WRITES R.SB_FLAGS_STALE_OVF)) ∧
    (q.op ≠ 2 ∨ q.lane = true ∨ s.sessionOk q = true →
      (s.odLevel q = none → s.odServe q e = (0x120A, [], s)) ∧
      (∀ lv, s.odLevel q = some lv →
        (odFind q.key = none → s.odServe q e = (0x1201, [], s)) ∧
        (∀ r, odFind q.key = some r →
          let reach := lv ≤ r.level.code
          (q.op = 2 →
            (r.acc = .ro → s.odServe q e = (0x1202, [], s)) ∧
            (r.acc ≠ .ro → ¬ reach → s.odOpen q.key = false → s.odServe q e = (0x1203, [], s)) ∧
            (r.acc = .rwIdle → reach ∨ s.odOpen q.key = true → s.odIdle = false → s.odServe q e = (0x1204, [], s)) ∧
            (∀ c u, r.acc ≠ .ro → reach ∨ s.odOpen q.key = true → r.acc ≠ .rwIdle ∨ s.odIdle = true → s.odWrite q e lv r = (c, u) →
              s.odServe q e = (c, [], u))) ∧
          (q.op = 3 → (reach → s.odServe q e = (0, s.odInfo r q.path q.key, s)) ∧ (¬ reach → s.odServe q e = (0x1203, [], s))) ∧
          (q.op = 1 →
            (r.acc = .wo → s.odServe q e = (0x1202, [], s)) ∧
            (r.acc ≠ .wo → ¬ reach → s.odServe q e = (0x1203, [], s)) ∧
            (r.acc ≠ .wo → reach → r.type.size ≠ 0 → q.offset ≠ 0 → s.odServe q e = (0x1206, [], s)) ∧
            (r.acc ≠ .wo → reach → r.type.size = 0 ∨ q.offset = 0 →
              let now := s.odBytes r q.path q.key
              let seen := tget (fun _ => none) s.sb.seen (q.key * 2 + q.path)
              let mark := fun (t : State) => t.sbMod fun b => { b with seen := tset (fun _ => none) b.seen (q.key * 2 + q.path) (some now) }
              let new : State := { s with gens := tset (fun _ => 0) s.gens q.key ((tget (fun _ => 0) s.gens q.key + 1) % 65536) }
              let value := (now.drop q.offset).take (min q.length (if q.lane then 4072 else 1024))
              (r.type.size ≠ 0 ∨ seen = some now → s.odServe q e = (0, value, s)) ∧
              (r.type.size = 0 → seen = none → s.odServe q e = (0, value, mark s)) ∧
              (∀ old, r.type.size = 0 → seen = some old → old ≠ now → s.odServe q e = (0, value, mark new))))))) ∧
    (∀ lv (r : OdRow), let v := leNat q.value
      let inRange := ∀ g, r.range = some g → v ∈ g.also ∨ (g.lo ≤ v ∧ v ≤ g.hi ∧ (v - g.lo) % g.step = 0)
      let badSize := q.value.length ≠ r.type.size ∨ q.offset ≠ 0 ∨ (r.type = .bool ∧ 1 < v)
      let largest := (odSizes.lookup r.key).getD (if r.type = .domain then 65536 else if r.type = .str then 256 else r.type.size)
      let drop := s.stage q.path none
      let last := fun (b : List Byte) =>
        (largest < b.length → s.odWrite q e lv r = (0x1205, drop)) ∧
        (b.length ≤ largest → q.flags % 2 = 0 → s.odWrite q e lv r = (0, s.stage q.path (some (q.key, b)))) ∧
        (b.length ≤ largest → q.flags % 2 = 1 → s.odWrite q e lv r = drop.odCommit e r q.key (drop.odApplyBlob q lv r q.key b))
      (r.type.size ≠ 0 →
        (badSize → s.odWrite q e lv r = (0x1206, s)) ∧
        (¬ badSize → ¬ inRange → s.odWrite q e lv r = (0x1205, s)) ∧
        (¬ badSize → inRange → s.odWrite q e lv r = s.odCommit e r q.key (odGoverns q.key (s.odApply q e r q.key v)))) ∧
      (r.type.size = 0 →
        (q.offset = 0 → last q.value) ∧
        (∀ k b, q.offset ≠ 0 → vget none s.sb.staged q.path = some (k, b) → k = q.key → b.length = q.offset → last (b ++ q.value)) ∧
        (∀ k b, q.offset ≠ 0 → vget none s.sb.staged q.path = some (k, b) → k ≠ q.key ∨ b.length ≠ q.offset →
          s.odWrite q e lv r = (0x1207, drop)) ∧
        (q.offset ≠ 0 → vget none s.sb.staged q.path = none → s.odWrite q e lv r = (0x1207, drop)))) ∧
    (∀ (r : OdRow) k c (t : State),
      let forget := fun (x : Tab (Option (List Byte))) => tset (fun _ => none) (tset (fun _ => none) x (k * 2) none) (k * 2 + 1) none
      let new := ({ t with gens := tset (fun _ => 0) t.gens k ((tget (fun _ => 0) t.gens k + 1) % 65536) } : State).sbMod fun b =>
        { b with seen := forget b.seen }
      (c ≠ 0 → s.odCommit e r k (c, t) = (c, t)) ∧
      (r.persist = true → e.flashFails = true → s.odCommit e r k (0, t) = (0x120C, s)) ∧
      (r.persist = true → e.flashFails = false → s.odCommit e r k (0, t) = (0, new.fwMod fun f => { f with flashed := true })) ∧
      (r.persist = false → s.odCommit e r k (0, t) = (0, new)))

/-- Writes of the dictionary that act (R20, R42, R297, R398, R404, R406, R424, R425, R431, R465 to R472, R493, R505, R511, R514 to
R520): a request of such a row is served as any write is; a value of the right size goes to the effect of its entry; and the
effects and refusals of the entries named here are given. The first clause is of a field port at its own address with no request waiting.
Model's readings and choices it rests on: log entries 141, 143, 146, 151, 152, 153. -/
def Obligations.DictionaryActions : Prop :=
  ∀ (src : BitVec 128) (dport : BitVec 16) (l : List Byte) (e : OdEnv) (s : State),
    let m := OdMsg.port src dport true l
    let q := odParse false src.toNat l
    let v := leNat q.value
    let odd := v % 2 = 1
    (∀ i c u k n, s.dom.signalRst = false → s.sb.up = true → s.sb.dup = false → dport.toNat = s.od D.OD_PORT → l.length ≤ 1048 →
      q.op = 2 → q.malformed = false → e.busy = false → vget [] s.sb.waiting 0 = [] → vget [] s.sb.waiting 1 = [] →
      (vget [] s.sb.kept 0).lookup q.reqId = none → k ≤ q.key → q.key < k + n →
      (k, n, i) ∈ [(D.RTIME_NEXT, 1, Instr.rtimeNext m e), (D.GUARD_CLEAR, 1, .guardClear m e), (D.FAULT_ACK, 1, .faultAck m e),
        (D.FAULT_CLEAR, 1, .faultClear m e), (D.RECOVERIES_RESET, 1, .recoveriesReset m e), (D.ACCEPT_REDUCED, 1, .acceptReduced m e),
        (D.TOPO_ACCEPT, 1, .topoAccept m e), (D.GEOMETRY_EXPECT, 1, .geometryExpect m e), (D.TRAY_NO, 1, .trayNo m e),
        (D.BGTEST_EN, 1, .bgtestEn m e), (D.LICENCE, 1, .licence m e), (D.DIE_MARKS, 8, .dieMarks m e), (D.FW_HEADER, 1, .fwHeader m e),
        (D.FW_ABORT, 1, .fwAbort m e), (D.ATTEST_NONCE, 1, .attestNonce m e), (D.OWNER_KEY, 1, .ownerKey m e), (D.GRANT, 15, .grant m e),
        (D.GRANT_MIN_SEQ, 1, .grantMinSeq m e), (D.LICENCE_KEY_CERT, 1, .licenceKeyCert m e), (D.ORPHAN_RELEASE, 1, .orphanRelease m e)] ∨
      (k, n, i) = (D.THERM_CLEAR, 1, .flowStopClear m e) ∧ odd ∨ (k, n, i) = (D.THERM_CLEAR, 1, .tripClear m e) ∧ v / 2 % 2 = 1 ∨
      (k, n, i) = (D.FW_ACTIVATE, 1, .activateSignal m e) ∧ v = 1 ∨ (k, n, i) = (D.FW_ACTIVATE, 1, .activateLine m e) ∧ v = 3 ∨
      (k, n, i) = (D.FW_ACTIVATE, 1, .activateRuntime m e) ∧ v = 2 ∨
      i = .fwChunk m e ∧ (chunkOf q.key).isSome = true →
      (s.sbMod fun b => { b with waiting := .replicate 2 [], turn := 1 }).odServe q e = (c, [], u) →
      let x := q.response c (tget (fun _ => 0) u.gens q.key) []
      exec i s = .next ((u.odKeep q x).fieldSend (.udp src.toNat x))) ∧
    (∀ lv r, r.type.size ≠ 0 → q.value.length = r.type.size → q.offset = 0 → r.type ≠ .bool → r.range = none →
      s.odWrite q e lv r = s.odCommit e r q.key (odGoverns q.key (s.odApply q e r q.key v)) ∧
        (govKeys.contains q.key = false → s.odWrite q e lv r = s.odCommit e r q.key (s.odApply q e r q.key v))) ∧
    (∀ r x, r.key ≠ D.DIE_MARKS → s.dom.lineRst = false →
      let apply := fun (k : Nat) (x : Nat) => s.odApply q e r k x
      (s.flag R.IL_STATUS_SAFE = false → apply D.FAULT_ACK 1 = (0, (s.fset R.IL_STATUS_FAULT_N_HOLD 0).faultPin)) ∧
      (s.flag R.IL_STATUS_SAFE = true → apply D.FAULT_ACK 1 = (0x120B, s)) ∧
      apply D.RECOVERIES_RESET 1 =
        (0, ((s.fset R.IL_RECOVERY_RECOVERIES 0).odPut D.RECOVERIES 0).ilMod fun x => { x with exits := [] }) ∧
      (x % 1000000 = 0 → apply D.RTIME_NEXT x =
        (0, { s.fset R.RTIME_STATUS_ARMED 1 with clock := { s.clock with armed := some (x, s.rtime) } })) ∧
      (x % 1000000 ≠ 0 → apply D.RTIME_NEXT x = (0x1205, s)) ∧
      apply D.ACCEPT_REDUCED x = (0, if x = 1 then (s.odPut D.ACCEPT_REDUCED 1).stageResume 4 0x1007 else s.odPut D.ACCEPT_REDUCED x) ∧
      (s.boot.topoOn = true → x = s.topoDigest →
        apply D.TOPO_ACCEPT x = (0, (s.bootMod fun b => { b with accepted := some x }).stageResume 6 0x100B)) ∧
      (x ≠ s.topoDigest → apply D.TOPO_ACCEPT x = (0x120B, s)) ∧
      (x ≠ 0 → x ≠ s.fget R.BOOT_GEOM_IN_SERVICE →
        apply D.GEOMETRY_EXPECT x = (0, s.odPut D.GEOMETRY_EXPECT x)) ∧
      (s.therm.calmFor ≤ 1000 → apply D.THERM_CLEAR 1 = (0x120B, s)) ∧
      (s.sb.orphan = 0 → apply D.ORPHAN_RELEASE x = (0, s)) ∧
      (s.sb.orphan = 2 → x ≠ 0 → apply D.ORPHAN_RELEASE x = (0, s.orphanRelease)) ∧
      apply D.GRANT_MIN_SEQ x = (0, (s.odPut D.GRANT_MIN_SEQ x).sbMod fun b => { b with grants := b.grants.map fun g =>
        match g with
        | some y => if y.seq < x then none else some y
        | none => none }) ∧
      (s.activateCode 2 = 0 → apply D.FW_ACTIVATE 3 = (0, (s.slotSt (s.idle 2) 3).odPut D.FW_RESULT 0)) ∧
      (∀ c, c ≠ 0 → s.activateCode 0 = c → apply D.FW_ACTIVATE 1 = (0x120B, s.odPut D.FW_RESULT c))) ∧
    (∀ lv r k, let whole := fun (key : Nat) (b : List Byte) => s.odApplyBlob q lv r key b
      (∀ b, r.key ≠ D.GRANT → s.staging = none → chunkOf k ≠ none → k ≠ D.FW_HEADER → k ≠ D.OWNER_KEY → k ≠ D.ATTEST_NONCE →
        k ≠ D.LICENCE_KEY_CERT → k ≠ D.LICENCE → whole k b = (0x120B, s.odPut D.FW_RESULT 0x1311)) ∧
      (∀ b, (s.fwHeaderCode b).1 ≠ 0 → whole D.FW_HEADER b = (0x120B, s.odPut D.FW_RESULT (s.fwHeaderCode b).1)) ∧
      (∀ b, (s.blobOf D.OWNER_KEY).isEmpty = false → lv ≠ 0 → whole D.OWNER_KEY b = (0x1203, s)) ∧
      (∀ b, r.key ≠ D.GRANT → b.length ≠ 32 → whole D.ATTEST_NONCE b = (0x1205, s)))

/-- The field port's own answers and the sideband (R482, R488, R492 to R497): notices and the segments of a broken transfer, the orphan
cap once no heartbeat comes, ICMPv6, the neighbour's question and duplicate address detection, and the I3C target with its addresses, CCCs and mirror.
Model's readings and choices it rests on: log entries 16, 147, 148, 149, 199. -/
def Obligations.PortAndSideband : Prop :=
  ∀ s : State, s.dom.powered = true →
    let taking := fun (f : I3c → I3c) => Host.Outcome.next ({ s with i3c := f s.i3c } : State)
    (exec .noticeResend s = .next (s.notices.foldl (fun u n => if n.acked then u else u.noticeSend n) s)) ∧
    (∀ x : FieldOut, (s.sb.dup = true → s.fieldSend x = s) ∧
      (s.sb.dup = false → s.fieldSend x = { s with sb := { s.sb with out := s.sb.out ++ [x] } })) ∧
    (s.addressUp = ({ s with sb := { s.sb with dad := some s.clock.run, dup := false } } : State).fieldSend (.solicit s.linkLocal)) ∧
    (∀ n : Notice, s.dom.signalRst = false → s.sb.up = true → s.sb.session ≠ 0 → s.sb.orphan ≠ 1 →
      s.noticeSend n = s.fieldSend (.udp s.sb.tray (odHeader 0x20 0 0 n.reqId s.sb.session 0 44 0 ++ leBytes 1 n.kind ++ [0, 0, 0]
        ++ leBytes 8 n.rtime ++ (n.detail ++ List.replicate 32 0).take 32))) ∧
    (s.sbRuns = true →
      (∀ path : Fin 2, exec (.segmentTimeout path) s = .next (s.sbMod fun b => { b with staged := vput b.staged path none })) ∧
      (∀ src ident seq data, s.sb.dup = false → exec (.icmpv6Echo src ident seq data) s =
        .next (s.fieldSend (.echoReply src.toNat ident.toNat seq.toNat data))) ∧
      (∀ src ident seq data, s.sb.dup = true → exec (.icmpv6Echo src ident seq data) s = .next s) ∧
      (∀ src target : BitVec 128,
        let awaited := ∃ t, s.sb.dad = some t ∧ s.clock.run < t + 1000000000
        (s.sb.dup = false → target.toNat = s.linkLocal →
          (src.toNat ≠ 0 → exec (.neighborSolicitation src target) s = .next (s.fieldSend (.advertisement src.toNat s.linkLocal))) ∧
          (src.toNat = 0 → awaited → exec (.neighborSolicitation src target) s = .next (s.sbMod fun b => { b with dup := true })) ∧
          (src.toNat = 0 → ¬ awaited → exec (.neighborSolicitation src target) s =
            .next (s.fieldSend (.advertisement (0xFF02 * 2 ^ 112 + 1) s.linkLocal)))) ∧
        (s.sb.dup = true ∨ target.toNat ≠ s.linkLocal → exec (.neighborSolicitation src target) s = .next s)) ∧
      (s.sb.orphan ≠ 1 → s.od D.ORPHAN_CAP_W ≠ 0 →
        let t := s.govMod fun g => { g with orphan := s.od D.ORPHAN_CAP_W, eOrphan := min g.eOrphan (100 * pMax) }
        let u := (t.fset R.PWR_CAPS_ORPHAN_CAP (wattsUp t.gov.eOrphan)).sbMod fun b =>
          { b with session := 0, kept := vput b.kept 0 [], orphan := 1 }
        exec .orphanTimeout s =
          .next ((u.sbBump R.SB_EVENTS_ORPHANS R.SB_FLAGS_ORPHANS_OVF).orphanEvent 1 s.sb.session))) ∧
    (let t : State := { s with i3c := { s.i3c with refresh := (s.i3c.refresh + 1) % 2 ^ 32 } }
     let now := t.mirrorFlags
     let rose := (now &&& ibiMask) ||| t.i3c.wasFlags ≠ t.i3c.wasFlags
     let x := { t.i3c with mirror := t.snapshot, wasFlags := now &&& ibiMask }
     (t.i3c.ibiEn = true → rose →
      exec .mirrorRefresh s = .next { t with i3c := { x with ibi := some (now % 256), raised := x.raised + 1 } }) ∧
     (t.i3c.ibiEn = false ∨ ¬ rose → exec .mirrorRefresh s = .next { t with i3c := x })) ∧
    (s.i3c.ibiEn = true → s.i3c.ibi.isSome = true → exec .ibiRetry s = taking fun x => { x with raised := x.raised + 1 }) ∧
    (∀ a : BitVec 7, s.i3cHit a = true →
      (∀ b l, exec (.i3cPrivateWrite a (b :: l)) s = taking fun x => { x with ptr := b.toNat % 64 }) ∧
      (∀ n : Fin 65, exec (.i3cPrivateRead a n) s =
        taking fun x => { x with out := (List.range n.val).map fun i => x.mirror.getD ((x.ptr + i) % 64) 0 })) ∧
    (∀ a dyn : BitVec 7,
      (a.toNat = s.staticAddr → s.i3c.dyn = none → exec (.setdasa a dyn) s = taking fun x => { x with dyn := some dyn.toNat }) ∧
      (s.i3c.dyn = none → exec (.entdaa dyn) s = taking fun x => { x with dyn := some dyn.toNat, out := s.pid ++ [0x06, 0x00] }) ∧
      (exec .rstdaa s = taking fun x => { x with dyn := none }) ∧
      (s.i3c.dyn = some a.toNat →
        exec (.setnewda a dyn) s = (taking fun x => { x with dyn := some dyn.toNat }) ∧
        exec (.getpid a) s = (taking fun x => { x with out := s.pid }) ∧
        exec (.getbcr a) s = (taking fun x => { x with out := [0x06] }) ∧
        exec (.getdcr a) s = (taking fun x => { x with out := [0x00] }) ∧
        exec (.getmwl a) s = (taking fun x => { x with out := [0, 1] }) ∧
        exec (.getmrl a) s = (taking fun x => { x with out := [0, 64] }) ∧
        (∃ (b c : Byte) (u : State), u = { s with freeCtr := u.freeCtr } ∧
          exec (.getstatus a) s = .next { u with i3c := { u.i3c with out := [b, c] } }))) ∧
    (∀ (a : Option (BitVec 7)) (v : BitVec 8), s.cccHit a = true → v.getLsbD 0 = true →
      exec (.enec a v) s = (taking fun x => { x with ibiEn := true }) ∧
      exec (.disec a v) s = (taking fun x => { x with ibiEn := false })) ∧
    (∀ (a : BitVec 7) c, s.i3c.dyn ≠ some a.toNat →
      c ∈ [Instr.getpid a, .getbcr a, .getdcr a, .getmwl a, .getmrl a, .getstatus a, .enec (some a) 1, .disec (some a) 1] →
      exec c s = .next s)

/-- The machine right after power-on (R43, R456): no command waits, the always-on partition runs, LINE and WORKS are in reset and the
signal box is not, no link is up and no tile serves, memory lists nothing, the run is a full one at S0; every sparse table is
canonical, no source holds a fault message, and what the reset values of the register map state can be read.
Model's readings and choices it rests on: log entries 19, 20, 21. -/
def Obligations.ResetState : Prop :=
  let s := State.reset
  s.pending = [] ∧ s.dom.powered = true ∧ s.dom.lineRst = true ∧ s.dom.worksRst = true ∧ s.dom.signalRst = false ∧ s.mem = [] ∧
    s.boot.stage = 0 ∧ s.boot.kind = 0 ∧ s.boot.outcome = 0 ∧ s.job.active = false ∧ s.prog.loaded = false ∧ s.notices = [] ∧
    s.i3c.dyn = none ∧ s.Canon ∧ s.FourHeld ∧
    (∀ p, p < 192 → s.tileState p = 0) ∧ (∀ p, p < 18 → s.portState p = 0) ∧ s.rcState 0 = 0 ∧ s.rcState 1 = 0 ∧
    s.govState = 0 ∧ s.estate = 0 ∧ s.fget R.PWR_CAPS_BLADE_CAP = 0xFFFF ∧ s.fget R.THERM_CAPS_TJ_CAP = 0xFFFF ∧
    s.fget R.RTIME_NS = 0 ∧ s.od D.TRAY_NO = 0xFF ∧ s.od D.PEAK_LIMIT_W = 1300 ∧ s.od D.TJ_MARGIN_K = 3
end

