-- ==== Sys2Proof/Laws/Ecc.lean ====
section
/-! SUPPORT. The code of R160 to R162 meets the known vectors of the checkers (R181). -/

namespace Sys2Proof.Machine

theorem encoderOk_eq : encoderOk = true := by decide +kernel

theorem setsAbcOk_eq : setsAbcOk = true := by decide +kernel

theorem setsDeOk_eq : setsDeOk = true := by decide +kernel

/-- A checker built as the code says meets every vector, so that a stage depends on its operand alone. -/
@[simp] theorem checkerVectorsOk_eq : checkerVectorsOk = true := by
  unfold checkerVectorsOk; rw [encoderOk_eq, setsAbcOk_eq, setsDeOk_eq]; rfl

end Sys2Proof.Machine
end

