-- ==== Sys2Proof/Laws/Tab.lean ====
section
/-! SUPPORT. Reads after writes and the canonical form of sparse tables. -/

namespace Sys2Proof.Machine

variable {α : Type}

theorem twfFrom_mono [DecidableEq α] {d : Nat → α} {t : Tab α} {a b : Nat} (h : twfFrom d b t) (hab : a ≤ b) :
    twfFrom d a t := by
  cases t with
  | nil => rfl
  | cons e t => simp only [twfFrom, Bool.and_eq_true, decide_eq_true_eq] at h ⊢; exact ⟨⟨by omega, h.1.2⟩, h.2⟩

theorem tget_of_lt [DecidableEq α] {d : Nat → α} {t : Tab α} {lo k : Nat} (h : twfFrom d lo t) (hk : k < lo) :
    tget d t k = d k := by
  induction t generalizing lo with
  | nil => rfl
  | cons e t ih =>
    obtain ⟨j, v⟩ := e
    simp only [twfFrom, Bool.and_eq_true, decide_eq_true_eq] at h
    simp only [tget, show k ≠ j by omega, if_false]
    exact ih h.2 (by omega)

theorem tget_tinsert (d : Nat → α) (t : Tab α) (k : Nat) (v : α) (a : Nat) :
    tget d (tinsert t k v) a = if a = k then v else tget d t a := by
  induction t with
  | nil => simp [tinsert, tget]
  | cons e t ih =>
    obtain ⟨j, w⟩ := e
    by_cases h1 : k < j
    · simp [tinsert, h1, tget]
    · by_cases h2 : k = j
      · subst h2; simp only [tinsert, h1, if_false, if_true, tget]; split_ifs <;> rfl
      · simp only [tinsert, h1, h2, if_false, tget, ih]
        by_cases h3 : a = j <;> by_cases h4 : a = k <;> simp_all

theorem tget_terase_ne (d : Nat → α) (t : Tab α) {k a : Nat} (h : a ≠ k) :
    tget d (terase t k) a = tget d t a := by
  induction t with
  | nil => rfl
  | cons e t ih =>
    obtain ⟨j, w⟩ := e
    by_cases h1 : k = j
    · subst h1; simp [terase, tget, h]
    · by_cases h2 : k < j
      · simp [terase, h1, h2]
      · simp only [terase, h1, h2, if_false, tget, ih]

theorem tget_terase_self [DecidableEq α] {d : Nat → α} {t : Tab α} {lo k : Nat} (h : twfFrom d lo t) :
    tget d (terase t k) k = d k := by
  induction t generalizing lo with
  | nil => rfl
  | cons e t ih =>
    obtain ⟨j, w⟩ := e
    simp only [twfFrom, Bool.and_eq_true, decide_eq_true_eq] at h
    by_cases h1 : k = j
    · subst h1; simp only [terase, if_true]; exact tget_of_lt h.2 (by omega)
    · by_cases h2 : k < j
      · simp only [terase, h1, h2, if_false, if_true, tget]; exact tget_of_lt h.2 (by omega)
      · simp only [terase, h1, h2, if_false, tget]; exact ih h.2

/-- A read after a write of another key. -/
theorem tget_tset_ne [DecidableEq α] (d : Nat → α) (t : Tab α) {k a : Nat} (v : α) (h : a ≠ k) :
    tget d (tset d t k v) a = tget d t a := by
  unfold tset; split
  · exact tget_terase_ne d t h
  · rw [tget_tinsert]; simp [h]

/-- A read after a write of the same key. -/
theorem tget_tset_self [DecidableEq α] {d : Nat → α} {t : Tab α} (h : twf d t) (k : Nat) (v : α) :
    tget d (tset d t k v) k = v := by
  unfold tset; split
  · rename_i hv; rw [tget_terase_self h, hv]
  · rw [tget_tinsert]; simp

theorem twfFrom_terase [DecidableEq α] {d : Nat → α} {t : Tab α} {lo : Nat} (k : Nat) (h : twfFrom d lo t) :
    twfFrom d lo (terase t k) := by
  induction t generalizing lo with
  | nil => rfl
  | cons e t ih =>
    obtain ⟨j, w⟩ := e
    have h' := h
    simp only [twfFrom, Bool.and_eq_true, decide_eq_true_eq] at h
    unfold terase; split_ifs
    · exact twfFrom_mono h.2 (by omega)
    · exact h'
    · simp only [twfFrom, Bool.and_eq_true, decide_eq_true_eq]; exact ⟨h.1, ih h.2⟩

theorem twfFrom_tinsert [DecidableEq α] {d : Nat → α} {t : Tab α} {lo k : Nat} {v : α} (h : twfFrom d lo t)
    (hk : lo ≤ k) (hv : v ≠ d k) : twfFrom d lo (tinsert t k v) := by
  induction t generalizing lo with
  | nil => simp [tinsert, twfFrom, hk, hv]
  | cons e t ih =>
    obtain ⟨j, w⟩ := e
    simp only [twfFrom, Bool.and_eq_true, decide_eq_true_eq] at h
    unfold tinsert; split_ifs with h1 h2
    · simp only [twfFrom, Bool.and_eq_true, decide_eq_true_eq]; exact ⟨⟨hk, hv⟩, ⟨⟨by omega, h.1.2⟩, h.2⟩⟩
    · subst h2; simp only [twfFrom, Bool.and_eq_true, decide_eq_true_eq]; exact ⟨⟨hk, hv⟩, h.2⟩
    · simp only [twfFrom, Bool.and_eq_true, decide_eq_true_eq]; exact ⟨h.1, ih h.2 (by omega)⟩

/-- A write keeps the canonical form. -/
theorem twf_tset [DecidableEq α] {d : Nat → α} {t : Tab α} (h : twf d t) (k : Nat) (v : α) : twf d (tset d t k v) := by
  unfold tset; split
  · exact twfFrom_terase k h
  · exact twfFrom_tinsert h (Nat.zero_le _) (by assumption)

theorem twfFrom_filter [DecidableEq α] {d : Nat → α} {t : Tab α} {lo : Nat} (p : Nat × α → Bool) (h : twfFrom d lo t = true) :
    twfFrom d lo (t.filter p) = true := by
  induction t generalizing lo with
  | nil => rfl
  | cons e t ih =>
    simp only [twfFrom, Bool.and_eq_true, decide_eq_true_eq] at h
    rw [List.filter_cons]
    split
    · simp only [twfFrom, Bool.and_eq_true, decide_eq_true_eq]; exact ⟨h.1, ih h.2⟩
    · exact twfFrom_mono (ih h.2) (by omega)

/-- Dropping entries keeps the canonical form. -/
theorem twf_filter [DecidableEq α] {d : Nat → α} {t : Tab α} (p : Nat × α → Bool) (h : twf d t = true) : twf d (t.filter p) = true :=
  twfFrom_filter p h

end Sys2Proof.Machine
end

