-- ==== Sys2Proof/Laws/Keep.lean ====
section
/-! SUPPORT. Predicates over states that every operation keeps: a predicate is closed when the few operations that write the queue,
the registers, the dictionary, memory and the other sparse tables keep it and when it does not look at the rest of the state. For each
operation of the machine a lemma under Laws/Keep says that it keeps every closed predicate. -/

namespace Sys2Proof.Machine

/-- The entries of the registers with those under `p` rewritten by `f`, and none listed that reads as its default. -/
def remap (p : Nat → Bool) (f : Nat → Word → Word) (t : Tab Word) : Tab Word :=
  t.filterMap (fun e => if p e.1 then (if f e.1 e.2 = csrDflt e.1 then none else some (e.1, f e.1 e.2)) else some e)

/-- A predicate that looks at the queue and the sparse tables alone, and that every way in which they are written keeps. -/
structure Closed (P : State → Prop) : Prop where
  frame : ∀ {s t : State}, P s → t.pending = s.pending → t.csr = s.csr → t.dict = s.dict → t.gens = s.gens → t.mem = s.mem →
    t.flips = s.flips → t.umeta = s.umeta → t.msgs = s.msgs → t.evid = s.evid → t.blob = s.blob → t.windows = s.windows → P t
  csr : ∀ {s : State}, P s → ∀ k v, P { s with csr := tset csrDflt s.csr k v }
  csrFilter : ∀ {s : State}, P s → ∀ p : Nat × Word → Bool, P { s with csr := s.csr.filter p }
  csrReset : ∀ {s : State}, P s → ∀ (p : Nat → Bool) (f : Nat → Word → Word), P { s with csr := remap p f s.csr }
  dict : ∀ {s : State}, P s → ∀ k v, P { s with dict := tset dictDflt s.dict k v }
  dictFilter : ∀ {s : State}, P s → ∀ p : Nat × Nat → Bool, P { s with dict := s.dict.filter p }
  gens : ∀ {s : State}, P s → ∀ k v, P { s with gens := tset (fun _ => 0) s.gens k v }
  cell : ∀ {s : State}, P s → ∀ a b c,
    P { s with mem := tset memDflt s.mem a b, flips := tset flipDflt s.flips a c }
  memFilter : ∀ {s : State}, P s → ∀ (p : Host.Cell → Bool) (q : Nat × BitVec 13 → Bool),
    P { s with mem := s.mem.filter p, flips := s.flips.filter q }
  units : ∀ {s : State}, P s → ∀ k v, P { s with umeta := tset metaDflt s.umeta k v }
  unitsFilter : ∀ {s : State}, P s → ∀ p : Nat × UnitMeta → Bool, P { s with umeta := s.umeta.filter p }
  sweep : ∀ {s : State}, P s → ∀ e, P { s with umeta := sweepUnits e s.umeta }
  msgs : ∀ {s : State}, P s → ∀ k l, l.length ≤ max 4 (tget (fun _ => []) s.msgs k).length →
    P { s with msgs := tset (fun _ => []) s.msgs k l }
  msgsNil : ∀ {s : State}, P s → P { s with msgs := [] }
  windowsNil : ∀ {s : State}, P s → P { s with windows := [] }
  msgsFilter : ∀ {s : State}, P s → ∀ p : FaultMsg → Bool,
    P { s with msgs := (s.msgs.map fun e => (e.1, e.2.filter p)).filter fun e => !e.2.isEmpty }
  evid : ∀ {s : State}, P s → ∀ k v a c, P { s with evid := tset (fun _ => 0) s.evid k v, flips := tset flipDflt s.flips a c }
  blob : ∀ {s : State}, P s → ∀ k v, P { s with blob := tset (fun _ => none) s.blob k v }
  window : ∀ {s : State}, P s → ∀ k v, P { s with windows := tset winDflt s.windows k v }
  windowFilter : ∀ {s : State}, P s → ∀ p : Nat × Option Window → Bool, P { s with windows := s.windows.filter p }
  job : ∀ {s : State}, P s → P { s with umeta := [], windows := [] }
  power : ∀ {s : State}, P s → ∀ (p : Nat × Nat → Bool) (q : Nat × Option (List Byte) → Bool), P { State.reset with
    pending := s.pending, dict := s.dict.filter p, gens := s.gens, blob := s.blob.filter q }

/-- Rewriting registers keeps the canonical form. -/
theorem twfFrom_remap {t : Tab Word} {lo : Nat} (p : Nat → Bool) (f : Nat → Word → Word) (h : twfFrom csrDflt lo t = true) :
    twfFrom csrDflt lo (remap p f t) = true := by
  induction t generalizing lo with
  | nil => rfl
  | cons e t ih =>
    obtain ⟨k, v⟩ := e
    simp only [twfFrom, Bool.and_eq_true, decide_eq_true_eq] at h
    have ht : twfFrom csrDflt lo (remap p f t) = true := twfFrom_mono (ih h.2) (by omega)
    have hc : ∀ w, w ≠ csrDflt k → twfFrom csrDflt lo ((k, w) :: remap p f t) = true := by
      intro w hw
      simp only [twfFrom, Bool.and_eq_true, decide_eq_true_eq]
      exact ⟨⟨h.1.1, hw⟩, ih h.2⟩
    unfold remap at ht hc ⊢
    rw [List.filterMap_cons]
    by_cases hp : p k = true
    · by_cases hd : f k v = csrDflt k
      · simp only [hp, hd, if_true]; exact ht
      · simp only [hp, hd, if_true, if_false]; exact hc _ hd
    · simp only [hp]; exact hc _ h.1.2

/-- The sweep of an abort keeps the canonical form. -/
theorem twfFrom_sweep {t : Tab UnitMeta} {lo : Nat} (e : Nat) (h : twfFrom metaDflt lo t = true) :
    twfFrom metaDflt lo (sweepUnits e t) = true := by
  induction t generalizing lo with
  | nil => rfl
  | cons x t ih =>
    obtain ⟨k, m⟩ := x
    simp only [twfFrom, Bool.and_eq_true, decide_eq_true_eq] at h
    have hc : ∀ y : UnitMeta, y ≠ metaDflt k → twfFrom metaDflt lo ((k, y) :: sweepUnits e t) = true := by
      intro y hy
      simp only [twfFrom, Bool.and_eq_true, decide_eq_true_eq]
      exact ⟨⟨h.1.1, hy⟩, ih h.2⟩
    have he : sweepUnits e ((k, m) :: t)
        = (if m.reg && m.tag == e then (k, { m with sel := !m.sel, tag := 0 }) else (k, m)) :: sweepUnits e t := rfl
    rw [he]
    by_cases hr : (m.reg && m.tag == e) = true
    · rw [if_pos hr]
      refine hc _ fun hm => ?_
      simp only [Bool.and_eq_true] at hr
      simp [metaDflt, UnitMeta.none, hr.1] at hm
    · rw [if_neg hr]; exact hc _ h.1.2

/-- Dropping held messages keeps the canonical form. -/
theorem twfFrom_held {t : Tab (List FaultMsg)} {lo : Nat} (p : FaultMsg → Bool) (h : twfFrom (fun _ => []) lo t = true) :
    twfFrom (fun _ => []) lo ((t.map fun e => (e.1, e.2.filter p)).filter fun e => !e.2.isEmpty) = true := by
  induction t generalizing lo with
  | nil => rfl
  | cons e t ih =>
    obtain ⟨k, l⟩ := e
    simp only [twfFrom, Bool.and_eq_true, decide_eq_true_eq] at h
    rw [List.map_cons, List.filter_cons]
    by_cases hl : l.filter p = []
    · simp only [hl]
      exact twfFrom_mono (ih h.2) (by omega)
    · have he : (!(l.filter p).isEmpty) = true := by simpa using hl
      simp only [he, if_true, twfFrom, Bool.and_eq_true, decide_eq_true_eq]
      exact ⟨⟨h.1.1, hl⟩, ih h.2⟩

variable {P : State → Prop}

theorem Keeps.ite {c : Prop} [Decidable c] {a b : State} (ha : P a) (hb : P b) : P (if c then a else b) := by
  split <;> assumption

theorem Keeps.iteB {α β : Type} {c : Prop} [Decidable c] {a b : α × β × State} (ha : P a.2.2) (hb : P b.2.2) :
    P (if c then a else b).2.2 := by
  split <;> assumption

theorem Keeps.iteC {α : Type} {c : Prop} [Decidable c] {a b : α × State} (ha : P a.2) (hb : P b.2) :
    P (if c then a else b).2 := by
  split <;> assumption

theorem Keeps.iteA {α : Type} {c : Prop} [Decidable c] {a b : State × α} (ha : P a.1) (hb : P b.1) : P (if c then a else b).1 := by
  split <;> assumption

theorem Keeps.foldl {α : Type} {f : State → α → State} {l : List α} {s : State} (h : P s) (hf : ∀ t x, P t → P (f t x)) :
    P (l.foldl f s) := by
  induction l generalizing s with
  | nil => exact h
  | cons x l ih => exact ih (hf s x h)

theorem Keeps.foldl2 {α β : Type} {f : β × State → α → β × State} {l : List α} {b : β} {s : State} (h : P s)
    (hf : ∀ b t x, P t → P (f (b, t) x).2) : P (l.foldl f (b, s)).2 := by
  induction l generalizing b s with
  | nil => exact h
  | cons x l ih => exact ih (hf b s x h)

theorem Keeps.next {e : State} (h : P e) : ∀ t, (Host.Outcome.next e : Res) = .next t → P t := by
  intro t ht; cases ht; exact h

theorem Keeps.pair {α : Type} {e : α × State} {a : α} {t : State} (h : e = (a, t)) (hp : P e.2) : P t := by
  subst h; exact hp

theorem mergeMsg_length {m : FaultMsg} : ∀ {l l' : List FaultMsg}, mergeMsg m l = some l' → l'.length = l.length
  | [], l', h => by simp [mergeMsg] at h
  | x :: t, l', h => by
    unfold mergeMsg at h
    split at h
    · cases h; rfl
    · cases hm : mergeMsg m t with
      | none => simp [hm] at h
      | some u =>
        simp only [hm, Option.map_some, Option.some.injEq] at h
        subst h
        simp [mergeMsg_length hm]

theorem kindClass_le (c : Nat) : kindClass c ≤ 3 := by
  unfold kindClass; split <;> omega

theorem foldl_min_mem : ∀ (l : List Nat) (a : Nat), l.foldl min a = a ∨ l.foldl min a ∈ l
  | [], a => .inl rfl
  | x :: t, a => by
    rcases foldl_min_mem t (min a x) with h | h
    · rcases Nat.le_total a x with hx | hx
      · left; rw [List.foldl_cons, h, Nat.min_eq_left hx]
      · right; rw [List.foldl_cons, h, Nat.min_eq_right hx]; exact List.mem_cons_self
    · right; rw [List.foldl_cons]; exact List.mem_cons_of_mem _ h

theorem foldl_min_le : ∀ (l : List Nat) (a : Nat), l.foldl min a ≤ a
  | [], _ => Nat.le_refl _
  | x :: t, a => Nat.le_trans (foldl_min_le t (min a x)) (Nat.min_le_left _ _)

theorem foldl_min_le_mem : ∀ (l : List Nat) (a x : Nat), x ∈ l → l.foldl min a ≤ x
  | [], _, _, h => by simp at h
  | y :: t, a, x, h => by
    rw [List.foldl_cons]
    rcases List.mem_cons.1 h with rfl | h
    · exact Nat.le_trans (foldl_min_le t _) (Nat.min_le_right _ _)
    · exact foldl_min_le_mem t _ x h

/-- The held message that gives way is one that is held. -/
theorem lowestMsg_lt {l : List FaultMsg} (h : l ≠ []) : lowestMsg l < l.length := by
  unfold lowestMsg
  apply List.findIdx_lt_length_of_exists
  obtain ⟨x, t, rfl⟩ := List.exists_cons_of_ne_nil h
  rcases foldl_min_mem ((x :: t).map fun h => kindClass h.kind) 3 with hm | hm
  · refine ⟨x, List.mem_cons_self, ?_⟩
    have h1 := foldl_min_le_mem ((x :: t).map fun h => kindClass h.kind) 3 (kindClass x.kind)
      (List.mem_map.2 ⟨x, List.mem_cons_self, rfl⟩)
    have h2 := kindClass_le x.kind
    rw [hm] at h1 ⊢
    simp only [beq_iff_eq]; omega
  · obtain ⟨y, hy, he⟩ := List.mem_map.1 hm
    exact ⟨y, hy, by simp only [beq_iff_eq]; exact he⟩

/-- A source never comes to hold more than four messages (R416). -/
theorem holdMsg_length (l : List FaultMsg) (m : FaultMsg) : (holdMsg l m).1.length ≤ max 4 l.length := by
  unfold holdMsg
  split
  · rename_i h; rw [mergeMsg_length h]; exact Nat.le_max_right _ _
  · split
    · rename_i h
      simp only [List.length_append, List.length_singleton]
      omega
    · rename_i h
      have hl : l ≠ [] := by rintro rfl; simp at h
      have := lowestMsg_lt hl
      simp only [List.length_append, List.length_singleton, List.length_eraseIdx_of_lt this]
      omega

theorem Keeps.oNone {α : Type} {Q : α → Prop} : ∀ x, (none : Option α) = some x → Q x := by intro x hx; cases hx

theorem Keeps.oSome {α : Type} {Q : α → Prop} {a : α} (h : Q a) : ∀ x, some a = some x → Q x := by
  intro x hx; cases hx; exact h

theorem Keeps.oIte {α : Type} {Q : α → Prop} {c : Prop} [Decidable c] {a b : Option α} (ha : ∀ x, a = some x → Q x)
    (hb : ∀ x, b = some x → Q x) : ∀ x, (if c then a else b) = some x → Q x := by split <;> assumption

theorem Keeps.oMap {α β : Type} {Q : β → Prop} {f : α → β} {o : Option α} (h : ∀ x, o = some x → Q (f x)) :
    ∀ y, o.map f = some y → Q y := by
  intro y hy
  cases o with
  | none => cases hy
  | some x => cases hy; exact h x rfl

theorem Keeps.ofSome {o : Option State} {t : State} (h : ∀ x, o = some x → P x) (he : o = some t) : P t := h _ he

theorem Keeps.ofSome1 {α : Type} {o : Option (State × α)} {t : State} {a : α} (h : ∀ x, o = some x → P x.1)
    (he : o = some (t, a)) : P t := h _ he

theorem Keeps.ofSome2 {α : Type} {o : Option (α × State)} {t : State} {a : α} (h : ∀ x, o = some x → P x.2)
    (he : o = some (a, t)) : P t := h _ he

theorem Keeps.pair1 {α : Type} {e : State × α} {a : α} {t : State} (h : e = (t, a)) (hp : P e.1) : P t := by
  subst h; exact hp

theorem Keeps.mid {α β : Type} {e : α × State × β} {a : α} {b : β} {t : State} (h : e = (a, t, b)) (hp : P e.2.1) : P t := by
  subst h; exact hp

theorem Keeps.last {α β : Type} {e : α × β × State} {a : α} {b : β} {t : State} (h : e = (a, b, t)) (hp : P e.2.2) : P t := by
  subst h; exact hp

variable (hP : Closed P)
include hP

theorem Keeps.mk {s : State} {freeCtr : _} {rfrac : _} {ceFull : _} {dom : _} {tiles : _} {prog : _} {we : _} {md : _} {dw : _} {regions : _} {rings : _} {rrNext : _} {job : _} {epoch : _} {mirror : _} {barInbox : _} {ports : _} {router : _} {clock : _} {me : _} {rc : _} {replies : _} {gov : _} {therm : _} {notices : _} {noticeSeq : _} {il : _} {mgr : _} {boot : _} {sb : _} {i3c : _} {fw : _} {rdata : _} (h : P s) :
    P (State.mk s.pending freeCtr rfrac s.csr s.dict s.gens s.mem s.flips ceFull s.umeta dom s.msgs tiles prog we md dw regions rings rrNext job s.windows epoch mirror barInbox ports router clock me rc replies gov therm notices noticeSeq il mgr s.evid boot sb s.blob i3c fw rdata) :=
  hP.frame h rfl rfl rfl rfl rfl rfl rfl rfl rfl rfl rfl

end Sys2Proof.Machine
end

