-- ==== Sys2Proof/Laws/Keep/Ops.lean ====
section
/-! SUPPORT. Every operation of Machine/Ops.lean keeps a closed predicate (see Laws/Keep.lean). -/

namespace Sys2Proof.Machine

variable {P : State → Prop} (hP : Closed P)
include hP

theorem State.csrPut_keeps {s : State} {a1 : _} {a2 : _} (h : P s) :
    P (State.csrPut s a1 a2) := by
  exact hP.csr h _ _

theorem State.fset_keeps {s : State} {a1 : _} {a2 : _} (h : P s) :
    P (State.fset s a1 a2) := by
  unfold State.fset
  repeat' first
    | with_reducible assumption
    | with_reducible refine Keeps.ite ?_ ?_
    | with_reducible refine Keeps.foldl ?_ (fun t x ht => ?_)
    | with_reducible refine State.csrPut_keeps hP ?_

theorem State.setFlag_keeps {s : State} {a1 : _} {a2 : _} (h : P s) :
    P (State.setFlag s a1 a2) := by
  unfold State.setFlag
  repeat' first
    | with_reducible assumption
    | with_reducible refine Keeps.ite ?_ ?_
    | with_reducible refine Keeps.foldl ?_ (fun t x ht => ?_)
    | with_reducible refine State.fset_keeps hP ?_

theorem State.bump_keeps {s : State} {a1 : _} {a2 : _} {a3 : _} (h : P s) :
    P (State.bump s a1 a2 a3) := by
  unfold State.bump
  repeat' first
    | with_reducible assumption
    | with_reducible refine Keeps.ite ?_ ?_
    | with_reducible refine Keeps.foldl ?_ (fun t x ht => ?_)
    | with_reducible refine State.fset_keeps hP ?_

theorem State.traffic_keeps {s : State} {a1 : _} {a2 : _} (h : P s) :
    P (State.traffic s a1 a2) := by
  unfold State.traffic
  repeat' first
    | with_reducible assumption
    | with_reducible refine Keeps.ite ?_ ?_
    | with_reducible refine Keeps.foldl ?_ (fun t x ht => ?_)
    | with_reducible refine State.fset_keeps hP ?_

theorem State.wrap_keeps {s : State} {a1 : _} {a2 : _} (h : P s) :
    P (State.wrap s a1 a2) := by
  unfold State.wrap
  repeat' first
    | with_reducible assumption
    | with_reducible refine Keeps.ite ?_ ?_
    | with_reducible refine Keeps.foldl ?_ (fun t x ht => ?_)
    | with_reducible refine State.fset_keeps hP ?_

theorem State.odPut_keeps {s : State} {a1 : _} {a2 : _} (h : P s) :
    P (State.odPut s a1 a2) := by
  exact hP.dict h _ _

theorem State.odBump_keeps {s : State} {a1 : _} (h : P s) :
    P (State.odBump s a1) := by
  unfold State.odBump
  repeat' first
    | with_reducible assumption
    | with_reducible refine Keeps.ite ?_ ?_
    | with_reducible refine Keeps.foldl ?_ (fun t x ht => ?_)
    | with_reducible refine State.odPut_keeps hP ?_

theorem State.draw_keeps {s : State} (h : P s) :
    P (State.draw s).2 := by
  unfold State.draw
  repeat' first
    | with_reducible assumption
    | with_reducible refine Keeps.ite ?_ ?_
    | with_reducible refine Keeps.foldl ?_ (fun t x ht => ?_)
    | with_reducible refine Keeps.pair (by assumption) ?_
    | with_reducible refine Keeps.pair1 (by assumption) ?_
    | fail_if_no_progress with_reducible refine Keeps.mk hP ?_

theorem State.tick_keeps {s : State} (h : P s) :
    P (State.tick s) := by
  unfold State.tick
  repeat' first
    | with_reducible assumption
    | with_reducible refine Keeps.ite ?_ ?_
    | with_reducible refine Keeps.iteC ?_ ?_
    | with_reducible refine Keeps.foldl ?_ (fun t x ht => ?_)
    | with_reducible refine State.fset_keeps hP ?_
    | with_reducible refine Keeps.pair (by assumption) ?_
    | with_reducible refine Keeps.pair1 (by assumption) ?_
    | fail_if_no_progress with_reducible refine Keeps.mk hP ?_

theorem State.event_keeps {s : State} {a1 : _} {a2 : _} {a3 : _} (h : P s) :
    P (State.event s a1 a2 a3) := by
  unfold State.event
  repeat' first
    | with_reducible assumption
    | with_reducible refine Keeps.ite ?_ ?_
    | with_reducible refine Keeps.foldl ?_ (fun t x ht => ?_)
    | with_reducible refine State.bump_keeps hP ?_
    | with_reducible refine Keeps.pair (by assumption) ?_
    | with_reducible refine Keeps.pair1 (by assumption) ?_
    | fail_if_no_progress with_reducible refine Keeps.mk hP ?_

theorem State.reportMsg_keeps {s : State} {a1 : _} (h : P s) :
    P (State.reportMsg s a1) := by
  unfold State.reportMsg
  refine Keeps.ite (State.bump_keeps hP ?_) ?_ <;> exact hP.msgs h _ _ (holdMsg_length _ _)

theorem State.report_keeps {s : State} {a1 : _} {a2 : _} {a3 : _} {a4 : _} {a5 : _} (h : P s) :
    P (State.report s a1 a2 a3 a4 a5) := by
  unfold State.report
  repeat' first
    | with_reducible assumption
    | with_reducible refine Keeps.ite ?_ ?_
    | with_reducible refine Keeps.foldl ?_ (fun t x ht => ?_)
    | with_reducible refine State.reportMsg_keeps hP ?_

theorem State.setTileState_keeps {s : State} {a1 : _} {a2 : _} (h : P s) :
    P (State.setTileState s a1 a2) := by
  unfold State.setTileState
  repeat' first
    | with_reducible assumption
    | with_reducible refine Keeps.ite ?_ ?_
    | with_reducible refine Keeps.foldl ?_ (fun t x ht => ?_)
    | with_reducible refine State.fset_keeps hP ?_

theorem State.putCell_keeps {s : State} {a1 : _} {a2 : _} {a3 : _} (h : P s) :
    P (State.putCell s a1 a2 a3) := hP.cell h _ _ _

theorem State.store_keeps {s : State} {a1 : _} {a2 : _} (h : P s) :
    P (State.store s a1 a2) := by
  unfold State.store
  repeat' first
    | with_reducible assumption
    | with_reducible refine Keeps.ite ?_ ?_
    | with_reducible refine Keeps.iteC ?_ ?_
    | with_reducible refine Keeps.foldl ?_ (fun t x ht => ?_)
    | with_reducible refine State.putCell_keeps hP ?_

theorem State.copyCell_keeps {s : State} {a1 : _} {a2 : _} (h : P s) :
    P (State.copyCell s a1 a2) := by
  unfold State.copyCell
  repeat' first
    | with_reducible assumption
    | with_reducible refine Keeps.ite ?_ ?_
    | with_reducible refine Keeps.iteC ?_ ?_
    | with_reducible refine Keeps.foldl ?_ (fun t x ht => ?_)
    | with_reducible refine State.putCell_keeps hP ?_

theorem State.copyCells_keeps {s : State} {a1 : _} {a2 : _} {a3 : _} (h : P s) :
    P (State.copyCells s a1 a2 a3) := by
  induction a3 generalizing s a1 a2
  · simp only [State.copyCells]
    repeat' first
      | with_reducible assumption
  · rename_i ih
    simp only [State.copyCells]
    repeat' first
      | with_reducible assumption
      | with_reducible refine Keeps.ite ?_ ?_
      | with_reducible refine Keeps.foldl ?_ (fun t x ht => ?_)
      | with_reducible refine State.copyCell_keeps hP ?_
      | with_reducible refine ih ?_

theorem State.ceFill_keeps {s : State} {a1 : _} {a2 : _} (h : P s) :
    P (State.ceFill s a1 a2) := by
  unfold State.ceFill
  repeat' first
    | with_reducible assumption
    | with_reducible refine Keeps.ite ?_ ?_
    | with_reducible refine Keeps.iteC ?_ ?_
    | with_reducible refine Keeps.foldl ?_ (fun t x ht => ?_)
    | with_reducible refine State.fset_keeps hP ?_
    | with_reducible refine State.report_keeps hP ?_
    | with_reducible refine Keeps.pair (by assumption) ?_
    | with_reducible refine Keeps.pair1 (by assumption) ?_
    | fail_if_no_progress with_reducible refine Keeps.mk hP ?_

theorem State.ceBucket_keeps {s : State} {a1 : _} {a2 : _} (h : P s) :
    P (State.ceBucket s a1 a2) := by
  unfold State.ceBucket
  repeat' first
    | with_reducible assumption
    | with_reducible refine Keeps.ite ?_ ?_
    | with_reducible refine Keeps.iteC ?_ ?_
    | with_reducible refine Keeps.foldl ?_ (fun t x ht => ?_)
    | with_reducible refine State.fset_keeps hP ?_
    | with_reducible refine State.ceFill_keeps hP ?_

theorem State.ceDrain_keeps {s : State} {a1 : _} {a2 : _} (h : P s) :
    P (State.ceDrain s a1 a2) := by
  unfold State.ceDrain
  repeat' first
    | with_reducible assumption
    | with_reducible refine Keeps.ite ?_ ?_
    | with_reducible refine Keeps.iteC ?_ ?_
    | with_reducible refine Keeps.foldl ?_ (fun t x ht => ?_)
    | with_reducible refine State.fset_keeps hP ?_
    | with_reducible refine State.ceFill_keeps hP ?_

theorem State.capture_keeps {s : State} {a1 : _} {a2 : _} {a3 : _} {a4 : _} {a5 : _} (h : P s) :
    P (State.capture s a1 a2 a3 a4 a5) := by
  unfold State.capture
  repeat' first
    | with_reducible assumption
    | with_reducible refine Keeps.ite ?_ ?_
    | with_reducible refine Keeps.foldl ?_ (fun t x ht => ?_)
    | with_reducible refine State.csrPut_keeps hP ?_

theorem State.markDie_keeps {s : State} {a1 : _} {a2 : _} {a3 : _} (h : P s) :
    P (State.markDie s a1 a2 a3) := by
  unfold State.markDie
  repeat' first
    | with_reducible assumption
    | with_reducible refine Keeps.ite ?_ ?_
    | with_reducible refine Keeps.foldl ?_ (fun t x ht => ?_)
    | with_reducible refine State.report_keeps hP ?_
    | with_reducible refine State.fset_keeps hP ?_
    | with_reducible refine State.odPut_keeps hP ?_
    | with_reducible refine Keeps.pair (by assumption) ?_
    | with_reducible refine Keeps.pair1 (by assumption) ?_
    | fail_if_no_progress with_reducible refine Keeps.mk hP ?_

theorem State.autoMark_keeps {s : State} {a1 : _} {a2 : _} (h : P s) :
    P (State.autoMark s a1 a2) := by
  unfold State.autoMark
  repeat' first
    | with_reducible assumption
    | with_reducible refine Keeps.ite ?_ ?_
    | with_reducible refine Keeps.foldl ?_ (fun t x ht => ?_)
    | with_reducible refine State.markDie_keeps hP ?_
    | with_reducible refine Keeps.pair (by assumption) ?_
    | with_reducible refine Keeps.pair1 (by assumption) ?_
    | fail_if_no_progress with_reducible refine Keeps.mk hP ?_

theorem State.noteMdCe_keeps {s : State} {a1 : _} {a2 : _} {a3 : _} {a4 : _} {a5 : _} {a6 : _} (h : P s) :
    P (State.noteMdCe s a1 a2 a3 a4 a5 a6) := by
  unfold State.noteMdCe
  repeat' first
    | with_reducible assumption
    | with_reducible refine Keeps.ite ?_ ?_
    | with_reducible refine Keeps.iteC ?_ ?_
    | with_reducible refine Keeps.foldl ?_ (fun t x ht => ?_)
    | with_reducible refine State.bump_keeps hP ?_
    | with_reducible refine State.ceBucket_keeps hP ?_
    | with_reducible refine State.capture_keeps hP ?_

theorem State.noteDie_keeps {s : State} {a1 : _} {a2 : _} (h : P s) :
    P (State.noteDie s a1 a2) := by
  unfold State.noteDie
  repeat' first
    | with_reducible assumption
    | with_reducible refine Keeps.ite ?_ ?_
    | with_reducible refine Keeps.iteC ?_ ?_
    | with_reducible refine Keeps.foldl ?_ (fun t x ht => ?_)
    | with_reducible refine State.bump_keeps hP ?_
    | with_reducible refine State.autoMark_keeps hP ?_

theorem State.noteCorrected_keeps {s : State} {a1 : _} {a2 : _} {a3 : _} {a4 : _} {a5 : _} {a6 : _} (h : P s) :
    P (State.noteCorrected s a1 a2 a3 a4 a5 a6) := by
  unfold State.noteCorrected
  repeat' first
    | with_reducible assumption
    | with_reducible refine Keeps.ite ?_ ?_
    | with_reducible refine Keeps.iteC ?_ ?_
    | with_reducible refine Keeps.foldl ?_ (fun t x ht => ?_)
    | with_reducible refine State.bump_keeps hP ?_
    | with_reducible refine State.store_keeps hP ?_
    | with_reducible refine State.noteMdCe_keeps hP ?_
    | with_reducible refine State.noteDie_keeps hP ?_
    | with_reducible refine State.ceBucket_keeps hP ?_
    | with_reducible refine State.capture_keeps hP ?_
    | with_reducible refine Keeps.pair (by assumption) ?_
    | with_reducible refine Keeps.pair1 (by assumption) ?_
    | fail_if_no_progress with_reducible refine Keeps.mk hP ?_
    | split

theorem State.noteMdUe_keeps {s : State} {a1 : _} {a2 : _} {a3 : _} {a4 : _} {a5 : _} (h : P s) :
    P (State.noteMdUe s a1 a2 a3 a4 a5) := by
  unfold State.noteMdUe
  repeat' first
    | with_reducible assumption
    | with_reducible refine Keeps.ite ?_ ?_
    | with_reducible refine Keeps.iteC ?_ ?_
    | with_reducible refine Keeps.foldl ?_ (fun t x ht => ?_)
    | with_reducible refine State.bump_keeps hP ?_
    | with_reducible refine State.capture_keeps hP ?_

theorem State.noteUncorrectable_keeps {s : State} {a1 : _} {a2 : _} {a3 : _} {a4 : _} (h : P s) :
    P (State.noteUncorrectable s a1 a2 a3 a4) := by
  unfold State.noteUncorrectable
  repeat' first
    | with_reducible assumption
    | with_reducible refine Keeps.ite ?_ ?_
    | with_reducible refine Keeps.iteC ?_ ?_
    | with_reducible refine Keeps.foldl ?_ (fun t x ht => ?_)
    | with_reducible refine State.bump_keeps hP ?_
    | with_reducible refine State.noteMdUe_keeps hP ?_
    | with_reducible refine State.report_keeps hP ?_
    | with_reducible refine State.capture_keeps hP ?_
    | with_reducible refine Keeps.pair (by assumption) ?_
    | with_reducible refine Keeps.pair1 (by assumption) ?_
    | fail_if_no_progress with_reducible refine Keeps.mk hP ?_
    | split

theorem State.decodeAt_keeps {s : State} {a1 : _} {a2 : _} {a3 : _} (h : P s) :
    P (State.decodeAt s a1 a2 a3).2 := by
  unfold State.decodeAt
  repeat' first
    | with_reducible assumption
    | with_reducible refine Keeps.ite ?_ ?_
    | with_reducible refine Keeps.iteC ?_ ?_
    | with_reducible refine Keeps.foldl ?_ (fun t x ht => ?_)
    | with_reducible refine State.noteUncorrectable_keeps hP ?_
    | with_reducible refine State.noteCorrected_keeps hP ?_
    | with_reducible refine Keeps.pair (by assumption) ?_
    | with_reducible refine Keeps.pair1 (by assumption) ?_
    | fail_if_no_progress with_reducible refine Keeps.mk hP ?_
    | split
    | dsimp only

theorem State.metaRead_keeps {s : State} {a1 : _} (h : P s) :
    P (State.metaRead s a1).2 := by
  unfold State.metaRead
  repeat' first
    | with_reducible assumption
    | with_reducible refine Keeps.ite ?_ ?_
    | with_reducible refine Keeps.iteC ?_ ?_
    | with_reducible refine Keeps.foldl ?_ (fun t x ht => ?_)
    | with_reducible refine Keeps.foldl2 ?_ (fun b t x ht => ?_)
    | with_reducible refine State.decodeAt_keeps hP ?_

theorem State.rsvRead_keeps {s : State} {a1 : _} {a2 : _} {a3 : _} (h : P s) :
    P (State.rsvRead s a1 a2 a3) := by
  unfold State.rsvRead
  repeat' first
    | with_reducible assumption
    | with_reducible refine Keeps.ite ?_ ?_
    | with_reducible refine Keeps.iteC ?_ ?_
    | with_reducible refine Keeps.foldl ?_ (fun t x ht => ?_)
    | with_reducible refine Keeps.foldl2 ?_ (fun b t x ht => ?_)
    | with_reducible refine State.draw_keeps hP ?_
    | with_reducible refine State.decodeAt_keeps hP ?_

theorem State.logRead_keeps {s : State} {a1 : _} (h : P s) :
    P (State.logRead s a1) := by
  unfold State.logRead
  repeat' first
    | with_reducible assumption
    | with_reducible refine Keeps.ite ?_ ?_
    | with_reducible refine Keeps.iteC ?_ ?_
    | with_reducible refine Keeps.foldl ?_ (fun t x ht => ?_)
    | with_reducible refine State.rsvRead_keeps hP ?_

theorem State.listRead_keeps {s : State} {a1 : _} (h : P s) :
    P (State.listRead s a1) := by
  unfold State.listRead
  repeat' first
    | with_reducible assumption
    | with_reducible refine Keeps.ite ?_ ?_
    | with_reducible refine Keeps.iteC ?_ ?_
    | with_reducible refine Keeps.foldl ?_ (fun t x ht => ?_)
    | with_reducible refine State.rsvRead_keeps hP ?_

theorem State.mapRead_keeps {s : State} {a1 : _} (h : P s) :
    P (State.mapRead s a1) := by
  unfold State.mapRead
  repeat' first
    | with_reducible assumption
    | with_reducible refine Keeps.ite ?_ ?_
    | with_reducible refine Keeps.iteC ?_ ?_
    | with_reducible refine Keeps.foldl ?_ (fun t x ht => ?_)
    | with_reducible refine State.rsvRead_keeps hP ?_

theorem State.jobRead_keeps {s : State} (h : P s) :
    P (State.jobRead s) := by
  unfold State.jobRead
  repeat' first
    | with_reducible assumption
    | with_reducible refine Keeps.ite ?_ ?_
    | with_reducible refine Keeps.iteC ?_ ?_
    | with_reducible refine Keeps.foldl ?_ (fun t x ht => ?_)
    | with_reducible refine State.rsvRead_keeps hP ?_

theorem State.readCell_keeps {s : State} {a1 : _} {a2 : _} (h : P s) :
    P (State.readCell s a1 a2).2 := by
  unfold State.readCell
  repeat' first
    | with_reducible assumption
    | with_reducible refine Keeps.ite ?_ ?_
    | with_reducible refine Keeps.iteC ?_ ?_
    | with_reducible refine Keeps.foldl ?_ (fun t x ht => ?_)
    | with_reducible refine State.decodeAt_keeps hP ?_

theorem State.readCells_keeps {s : State} {a1 : _} {a2 : _} {a3 : _} (h : P s) :
    P (State.readCells s a1 a2 a3).2 := by
  induction a3 generalizing s a1 a2
  · simp only [State.readCells]
    repeat' first
      | with_reducible assumption
  · rename_i ih
    simp only [State.readCells]
    repeat' first
      | with_reducible assumption
      | with_reducible refine Keeps.ite ?_ ?_
      | with_reducible refine Keeps.iteC ?_ ?_
      | with_reducible refine Keeps.foldl ?_ (fun t x ht => ?_)
      | with_reducible refine State.readCell_keeps hP ?_
      | with_reducible refine ih ?_

theorem State.readWork_keeps {s : State} {a1 : _} {a2 : _} (h : P s) :
    P (State.readWork s a1 a2).2 := by
  unfold State.readWork
  repeat' first
    | with_reducible assumption
    | with_reducible refine Keeps.ite ?_ ?_
    | with_reducible refine Keeps.iteC ?_ ?_
    | with_reducible refine Keeps.foldl ?_ (fun t x ht => ?_)
    | with_reducible refine State.readCell_keeps hP ?_
    | with_reducible refine State.metaRead_keeps hP ?_

theorem State.readCommit_keeps {s : State} {a1 : _} {a2 : _} (h : P s) :
    P (State.readCommit s a1 a2).2 := by
  unfold State.readCommit
  repeat' first
    | with_reducible assumption
    | with_reducible refine Keeps.ite ?_ ?_
    | with_reducible refine Keeps.iteC ?_ ?_
    | with_reducible refine Keeps.foldl ?_ (fun t x ht => ?_)
    | with_reducible refine State.readCell_keeps hP ?_
    | with_reducible refine State.metaRead_keeps hP ?_

theorem State.readView_keeps {s : State} {a1 : _} {a2 : _} {a3 : _} (h : P s) :
    P (State.readView s a1 a2 a3).2 := by
  induction a3 generalizing s a1 a2
  · simp only [State.readView]
    repeat' first
      | with_reducible assumption
  · rename_i ih
    simp only [State.readView]
    repeat' first
      | with_reducible assumption
      | with_reducible refine Keeps.ite ?_ ?_
      | with_reducible refine Keeps.iteC ?_ ?_
      | with_reducible refine Keeps.foldl ?_ (fun t x ht => ?_)
      | with_reducible refine State.readWork_keeps hP ?_
      | with_reducible refine ih ?_

theorem State.readCommitted_keeps {s : State} {a1 : _} {a2 : _} {a3 : _} (h : P s) :
    P (State.readCommitted s a1 a2 a3).2 := by
  induction a3 generalizing s a1 a2
  · simp only [State.readCommitted]
    repeat' first
      | with_reducible assumption
  · rename_i ih
    simp only [State.readCommitted]
    repeat' first
      | with_reducible assumption
      | with_reducible refine Keeps.ite ?_ ?_
      | with_reducible refine Keeps.iteC ?_ ?_
      | with_reducible refine Keeps.foldl ?_ (fun t x ht => ?_)
      | with_reducible refine State.readCommit_keeps hP ?_
      | with_reducible refine ih ?_

theorem State.readBytes_keeps {s : State} {a1 : _} {a2 : _} {a3 : _} (h : P s) :
    P (State.readBytes s a1 a2 a3).2 := by
  unfold State.readBytes
  repeat' first
    | with_reducible assumption
    | with_reducible refine Keeps.ite ?_ ?_
    | with_reducible refine Keeps.foldl ?_ (fun t x ht => ?_)
    | with_reducible refine State.readView_keeps hP ?_

theorem State.metaClean_keeps {s : State} {a1 : _} (h : P s) :
    P (State.metaClean s a1) := by
  have := hP.memFilter h (fun _ => true) (fun e => !(inMeta e.1 && a1 (metaUnit e.1)))
  rwa [List.filter_true] at this

theorem State.firstWrite_keeps {s : State} {a1 : _} (h : P s) :
    P (State.firstWrite s a1) := by
  unfold State.firstWrite
  exact Keeps.ite (State.metaClean_keeps hP (hP.units (State.copyCells_keeps hP h) _ _)) h

theorem State.writeByte_keeps {s : State} {a1 : _} {a2 : _} (h : P s) :
    P (State.writeByte s a1 a2) := by
  unfold State.writeByte
  repeat' first
    | with_reducible assumption
    | with_reducible refine Keeps.ite ?_ ?_
    | with_reducible refine Keeps.iteC ?_ ?_
    | with_reducible refine Keeps.foldl ?_ (fun t x ht => ?_)
    | with_reducible refine State.firstWrite_keeps hP ?_
    | with_reducible refine State.store_keeps hP ?_
    | with_reducible refine State.metaRead_keeps hP ?_

theorem State.writeBytes_keeps {s : State} {a1 : _} {a2 : _} (h : P s) :
    P (State.writeBytes s a1 a2) := by
  induction a2 generalizing s a1
  · simp only [State.writeBytes]
    repeat' first
      | with_reducible assumption
  · rename_i ih
    simp only [State.writeBytes]
    repeat' first
      | with_reducible assumption
      | with_reducible refine Keeps.ite ?_ ?_
      | with_reducible refine Keeps.foldl ?_ (fun t x ht => ?_)
      | with_reducible refine State.writeByte_keeps hP ?_
      | with_reducible refine ih ?_

theorem State.writeBits_keeps {s : State} {a1 : _} {a2 : _} {a3 : _} (h : P s) :
    P (State.writeBits s a1 a2 a3) := by
  unfold State.writeBits
  repeat' first
    | with_reducible assumption
    | with_reducible refine Keeps.ite ?_ ?_
    | with_reducible refine Keeps.iteC ?_ ?_
    | with_reducible refine Keeps.foldl ?_ (fun t x ht => ?_)
    | with_reducible refine State.firstWrite_keeps hP ?_
    | with_reducible refine State.store_keeps hP ?_
    | with_reducible refine State.metaRead_keeps hP ?_
    | with_reducible refine Keeps.pair (by assumption) ?_
    | with_reducible refine Keeps.pair1 (by assumption) ?_
    | fail_if_no_progress with_reducible refine Keeps.mk hP ?_
    | split
    | dsimp only

theorem State.readNat_keeps {s : State} {a1 : _} {a2 : _} {a3 : _} (h : P s) :
    P (State.readNat s a1 a2 a3).2 := by
  unfold State.readNat
  repeat' first
    | with_reducible assumption
    | with_reducible refine Keeps.ite ?_ ?_
    | with_reducible refine Keeps.foldl ?_ (fun t x ht => ?_)
    | with_reducible refine State.readBytes_keeps hP ?_

theorem State.addrFault_keeps {s : State} {a1 : _} {a2 : _} {a3 : _} (h : P s) :
    P (State.addrFault s a1 a2 a3) := by
  unfold State.addrFault
  repeat' first
    | with_reducible assumption
    | with_reducible refine Keeps.ite ?_ ?_
    | with_reducible refine Keeps.foldl ?_ (fun t x ht => ?_)
    | with_reducible refine State.report_keeps hP ?_

end Sys2Proof.Machine
end

