-- ==== Sys2Proof/Laws/Keep/Access.lean ====
section
/-! SUPPORT. Every operation of Machine/Access.lean keeps a closed predicate (see Laws/Keep.lean). -/

namespace Sys2Proof.Machine

variable {P : State → Prop} (hP : Closed P)
include hP

theorem State.csrRefuse_keeps {s : State} {a1 : _} {a2 : _} (h : P s) :
    P (State.csrRefuse s a1 a2) := by
  unfold State.csrRefuse
  repeat' first
    | with_reducible assumption
    | with_reducible refine Keeps.ite ?_ ?_
    | with_reducible refine Keeps.foldl ?_ (fun t x ht => ?_)
    | with_reducible refine State.bump_keeps hP ?_
    | with_reducible refine State.csrPut_keeps hP ?_

theorem State.regCmd_keeps {s : State} {a1 : _} {a2 : _} (h : P s) (hb2 : ∀ t, P t → P (a2 t)) :
    P (State.regCmd s a1 a2) := by
  unfold State.regCmd
  repeat' first
    | with_reducible assumption
    | with_reducible refine Keeps.ite ?_ ?_
    | with_reducible refine Keeps.foldl ?_ (fun t x ht => ?_)
    | with_reducible refine hb2 _ ?_

theorem State.byParty_keeps {s : State} {a1 : _} {a2 : _} (h : P s) (hb2 : ∀ t, P t → P (a2 t)) :
    P (State.byParty s a1 a2) := by
  unfold State.byParty
  repeat' first
    | with_reducible assumption
    | with_reducible refine Keeps.ite ?_ ?_
    | with_reducible refine Keeps.iteC ?_ ?_
    | with_reducible refine Keeps.foldl ?_ (fun t x ht => ?_)
    | with_reducible refine hb2 _ ?_

theorem State.readUntil_keeps {s : State} {a1 : _} {a2 : _} {a3 : _} (h : P s) :
    P (State.readUntil s a1 a2 a3).2 := by
  induction a3 generalizing s a1 a2
  · simp only [State.readUntil]
    repeat' first
      | with_reducible assumption
  · rename_i ih
    simp only [State.readUntil]
    repeat' first
      | with_reducible assumption
      | with_reducible refine Keeps.ite ?_ ?_
      | with_reducible refine Keeps.iteC ?_ ?_
      | with_reducible refine Keeps.foldl ?_ (fun t x ht => ?_)
      | with_reducible refine State.readWork_keeps hP ?_
      | with_reducible refine ih ?_
      | with_reducible refine Keeps.pair (by assumption) ?_
      | with_reducible refine Keeps.pair1 (by assumption) ?_
      | fail_if_no_progress with_reducible refine Keeps.mk hP ?_
      | split

theorem State.memRead_keeps {s : State} {a1 : _} {a2 : _} {a3 : _} (h : P s) :
    P (State.memRead s a1 a2 a3).2 := by
  unfold State.memRead
  repeat' first
    | with_reducible assumption
    | with_reducible refine Keeps.ite ?_ ?_
    | with_reducible refine Keeps.foldl ?_ (fun t x ht => ?_)
    | with_reducible refine State.readUntil_keeps hP ?_
    | with_reducible refine State.addrFault_keeps hP ?_
    | with_reducible refine Keeps.pair (by assumption) ?_
    | with_reducible refine Keeps.pair1 (by assumption) ?_
    | fail_if_no_progress with_reducible refine Keeps.mk hP ?_
    | split

theorem State.memWrite_keeps {s : State} {a1 : _} {a2 : _} {a3 : _} (h : P s) :
    P (State.memWrite s a1 a2 a3).2 := by
  unfold State.memWrite
  repeat' first
    | with_reducible assumption
    | with_reducible refine Keeps.ite ?_ ?_
    | with_reducible refine Keeps.foldl ?_ (fun t x ht => ?_)
    | with_reducible refine State.writeBytes_keeps hP ?_
    | with_reducible refine State.addrFault_keeps hP ?_
    | with_reducible refine Keeps.pair (by assumption) ?_
    | with_reducible refine Keeps.pair1 (by assumption) ?_
    | fail_if_no_progress with_reducible refine Keeps.mk hP ?_
    | split

end Sys2Proof.Machine
end

