-- ==== Sys2Proof/Laws/Keep/Mailbox.lean ====
section
/-! SUPPORT. Every operation of Machine/Mailbox.lean keeps a closed predicate (see Laws/Keep.lean). -/

namespace Sys2Proof.Machine

variable {P : State → Prop} (hP : Closed P)
include hP

theorem State.regCmdSt_keeps {s : State} {a1 : _} {a2 : _} (h : P s) (hb2 : ∀ t, P t → P (a2 t).2) :
    P (State.regCmdSt s a1 a2).2 := by
  unfold State.regCmdSt
  repeat' first
    | with_reducible assumption
    | with_reducible refine Keeps.ite ?_ ?_
    | with_reducible refine Keeps.foldl ?_ (fun t x ht => ?_)
    | with_reducible refine hb2 _ ?_
    | with_reducible refine Keeps.pair (by assumption) ?_
    | with_reducible refine Keeps.pair1 (by assumption) ?_
    | fail_if_no_progress with_reducible refine Keeps.mk hP ?_
    | split

theorem State.mqEmpty_keeps {s : State} {a1 : _} {a2 : _} (h : P s) :
    P (State.mqEmpty s a1 a2) := by
  unfold State.mqEmpty
  repeat' first
    | with_reducible assumption
    | with_reducible refine Keeps.ite ?_ ?_
    | with_reducible refine Keeps.foldl ?_ (fun t x ht => ?_)
    | with_reducible refine State.fset_keeps hP ?_
    | with_reducible refine State.csrPut_keeps hP ?_

theorem State.dbEvent_keeps {s : State} {a1 : _} (h : P s) :
    P (State.dbEvent s a1) := by
  unfold State.dbEvent
  repeat' first
    | with_reducible assumption
    | with_reducible refine Keeps.ite ?_ ?_
    | with_reducible refine Keeps.foldl ?_ (fun t x ht => ?_)
    | with_reducible refine State.event_keeps hP ?_

theorem State.ringDb_keeps {s : State} {a1 : _} (h : P s) :
    P (State.ringDb s a1) := by
  unfold State.ringDb
  repeat' first
    | with_reducible assumption
    | with_reducible refine Keeps.ite ?_ ?_
    | with_reducible refine Keeps.foldl ?_ (fun t x ht => ?_)
    | with_reducible refine State.fset_keeps hP ?_
    | with_reducible refine State.dbEvent_keeps hP ?_

theorem State.writeDbMask_keeps {s : State} {a1 : _} (h : P s) :
    P (State.writeDbMask s a1) := by
  unfold State.writeDbMask
  repeat' first
    | with_reducible assumption
    | with_reducible refine Keeps.ite ?_ ?_
    | with_reducible refine Keeps.foldl ?_ (fun t x ht => ?_)
    | with_reducible refine State.fset_keeps hP ?_
    | with_reducible refine State.dbEvent_keeps hP ?_

theorem execDbMask_keeps {a0 : _} {a1 : _} {s : State} (h : P s) :
    ∀ t, execDbMask a0 a1 s = .next t → P t := by
  unfold execDbMask
  refine Keeps.next ?_
  repeat' first
    | with_reducible assumption
    | with_reducible refine Keeps.ite ?_ ?_
    | with_reducible refine Keeps.iteC ?_ ?_
    | with_reducible refine Keeps.foldl ?_ (fun t x ht => ?_)
    | with_reducible refine State.writeDbMask_keeps hP ?_
    | with_reducible refine State.byParty_keeps hP ?_ (fun t ht => ?_)
    | with_reducible refine State.regCmd_keeps hP ?_ (fun t ht => ?_)

theorem State.mqPushWord_keeps {s : State} {a1 : _} {a2 : _} {a3 : _} (h : P s) :
    P (State.mqPushWord s a1 a2 a3) := by
  unfold State.mqPushWord
  repeat' first
    | with_reducible assumption
    | with_reducible refine Keeps.ite ?_ ?_
    | with_reducible refine Keeps.foldl ?_ (fun t x ht => ?_)
    | with_reducible refine State.bump_keeps hP ?_
    | with_reducible refine State.fset_keeps hP ?_
    | with_reducible refine State.csrPut_keeps hP ?_

theorem State.mqPush_keeps {s : State} {a1 : _} {a2 : _} {a3 : _} {a4 : _} (h : P s) :
    P (State.mqPush s a1 a2 a3 a4).2 := by
  unfold State.mqPush
  repeat' first
    | with_reducible assumption
    | with_reducible refine Keeps.ite ?_ ?_
    | with_reducible refine Keeps.foldl ?_ (fun t x ht => ?_)
    | with_reducible refine State.mqPushWord_keeps hP ?_
    | with_reducible refine Keeps.pair (by assumption) ?_
    | with_reducible refine Keeps.pair1 (by assumption) ?_
    | fail_if_no_progress with_reducible refine Keeps.mk hP ?_
    | split

theorem State.mqSendOk_keeps {s : State} {a1 : _} {a2 : _} (h : P s) :
    P (State.mqSendOk s a1 a2) := by
  unfold State.mqSendOk
  repeat' first
    | with_reducible assumption
    | with_reducible refine Keeps.ite ?_ ?_
    | with_reducible refine Keeps.foldl ?_ (fun t x ht => ?_)
    | with_reducible refine State.fset_keeps hP ?_
    | with_reducible refine State.wrap_keeps hP ?_
    | with_reducible refine State.bump_keeps hP ?_
    | with_reducible refine State.ringDb_keeps hP ?_

theorem State.mqSend_keeps {s : State} {a1 : _} {a2 : _} {a3 : _} (h : P s) :
    P (State.mqSend s a1 a2 a3).2 := by
  unfold State.mqSend
  repeat' first
    | with_reducible assumption
    | with_reducible refine Keeps.ite ?_ ?_
    | with_reducible refine Keeps.foldl ?_ (fun t x ht => ?_)
    | with_reducible refine State.fset_keeps hP ?_
    | with_reducible refine State.mqSendOk_keeps hP ?_
    | with_reducible refine Keeps.pair (by assumption) ?_
    | with_reducible refine Keeps.pair1 (by assumption) ?_
    | fail_if_no_progress with_reducible refine Keeps.mk hP ?_
    | split
    | dsimp only

theorem State.mqDrop_keeps {s : State} {a1 : _} {a2 : _} (h : P s) :
    P (State.mqDrop s a1 a2) := by
  unfold State.mqDrop
  repeat' first
    | with_reducible assumption
    | with_reducible refine Keeps.ite ?_ ?_
    | with_reducible refine Keeps.foldl ?_ (fun t x ht => ?_)
    | with_reducible refine State.fset_keeps hP ?_
    | with_reducible refine State.mqEmpty_keeps hP ?_

theorem State.mqDiscard_keeps {s : State} {a1 : _} {a2 : _} {a3 : _} (h : P s) :
    P (State.mqDiscard s a1 a2 a3).2 := by
  unfold State.mqDiscard
  repeat' first
    | with_reducible assumption
    | with_reducible refine Keeps.ite ?_ ?_
    | with_reducible refine Keeps.foldl ?_ (fun t x ht => ?_)
    | with_reducible refine State.mqDrop_keeps hP ?_
    | with_reducible refine Keeps.pair (by assumption) ?_
    | with_reducible refine Keeps.pair1 (by assumption) ?_
    | fail_if_no_progress with_reducible refine Keeps.mk hP ?_
    | split

theorem State.mqReply_keeps {s : State} {a1 : _} (h : P s) :
    P (State.mqReply s a1) := by
  unfold State.mqReply
  repeat' first
    | with_reducible assumption
    | with_reducible refine Keeps.ite ?_ ?_
    | with_reducible refine Keeps.foldl ?_ (fun t x ht => ?_)
    | with_reducible refine State.mqSendOk_keeps hP ?_
    | with_reducible refine State.mqPushWord_keeps hP ?_
    | with_reducible refine State.mqDrop_keeps hP ?_
    | with_reducible refine Keeps.pair (by assumption) ?_
    | with_reducible refine Keeps.pair1 (by assumption) ?_
    | fail_if_no_progress with_reducible refine Keeps.mk hP ?_
    | split

theorem State.mqAcked_keeps {s : State} {a1 : _} {a2 : _} {a3 : _} (h : P s) :
    P (State.mqAcked s a1 a2 a3) := by
  unfold State.mqAcked
  repeat' first
    | with_reducible assumption
    | with_reducible refine Keeps.ite ?_ ?_
    | with_reducible refine Keeps.foldl ?_ (fun t x ht => ?_)
    | with_reducible refine State.fset_keeps hP ?_
    | with_reducible refine State.mqEmpty_keeps hP ?_
    | with_reducible refine State.ringDb_keeps hP ?_
    | with_reducible refine State.mqReply_keeps hP ?_

theorem State.mqAck_keeps {s : State} {a1 : _} {a2 : _} {a3 : _} {a4 : _} {a5 : _} (h : P s) :
    P (State.mqAck s a1 a2 a3 a4 a5).2 := by
  unfold State.mqAck
  repeat' first
    | with_reducible assumption
    | with_reducible refine Keeps.ite ?_ ?_
    | with_reducible refine Keeps.foldl ?_ (fun t x ht => ?_)
    | with_reducible refine State.mqAcked_keeps hP ?_
    | with_reducible refine State.bump_keeps hP ?_
    | with_reducible refine Keeps.pair (by assumption) ?_
    | with_reducible refine Keeps.pair1 (by assumption) ?_
    | fail_if_no_progress with_reducible refine Keeps.mk hP ?_
    | split
    | dsimp only

theorem execMqPush_keeps {a0 : _} {a1 : _} {a2 : _} {a3 : _} {s : State} (h : P s) :
    ∀ t, execMqPush a0 a1 a2 a3 s = .next t → P t := by
  unfold execMqPush
  refine Keeps.next ?_
  repeat' first
    | with_reducible assumption
    | with_reducible refine Keeps.ite ?_ ?_
    | with_reducible refine Keeps.iteC ?_ ?_
    | with_reducible refine Keeps.foldl ?_ (fun t x ht => ?_)
    | with_reducible refine State.regCmdSt_keeps hP ?_ (fun t ht => ?_)
    | with_reducible refine State.byParty_keeps hP ?_ (fun t ht => ?_)
    | with_reducible refine State.mqPush_keeps hP ?_

theorem execSend_keeps {a0 : _} {a1 : _} {a2 : _} {s : State} (h : P s) :
    ∀ t, execSend a0 a1 a2 s = .next t → P t := by
  unfold execSend
  refine Keeps.next ?_
  repeat' first
    | with_reducible assumption
    | with_reducible refine Keeps.ite ?_ ?_
    | with_reducible refine Keeps.iteC ?_ ?_
    | with_reducible refine Keeps.foldl ?_ (fun t x ht => ?_)
    | with_reducible refine State.regCmdSt_keeps hP ?_ (fun t ht => ?_)
    | with_reducible refine State.byParty_keeps hP ?_ (fun t ht => ?_)
    | with_reducible refine State.mqSend_keeps hP ?_

theorem execDiscard_keeps {a0 : _} {a1 : _} {a2 : _} {s : State} (h : P s) :
    ∀ t, execDiscard a0 a1 a2 s = .next t → P t := by
  unfold execDiscard
  refine Keeps.next ?_
  repeat' first
    | with_reducible assumption
    | with_reducible refine Keeps.ite ?_ ?_
    | with_reducible refine Keeps.iteC ?_ ?_
    | with_reducible refine Keeps.foldl ?_ (fun t x ht => ?_)
    | with_reducible refine State.regCmdSt_keeps hP ?_ (fun t ht => ?_)
    | with_reducible refine State.byParty_keeps hP ?_ (fun t ht => ?_)
    | with_reducible refine State.mqDiscard_keeps hP ?_

theorem execMqAck_keeps {a0 : _} {a1 : _} {a2 : _} {a3 : _} {a4 : _} {s : State} (h : P s) :
    ∀ t, execMqAck a0 a1 a2 a3 a4 s = .next t → P t := by
  unfold execMqAck
  refine Keeps.next ?_
  repeat' first
    | with_reducible assumption
    | with_reducible refine Keeps.ite ?_ ?_
    | with_reducible refine Keeps.iteC ?_ ?_
    | with_reducible refine Keeps.foldl ?_ (fun t x ht => ?_)
    | with_reducible refine State.regCmdSt_keeps hP ?_ (fun t ht => ?_)
    | with_reducible refine State.byParty_keeps hP ?_ (fun t ht => ?_)
    | with_reducible refine State.mqAck_keeps hP ?_

theorem execAckTimeout_keeps {a0 : _} {a1 : _} {s : State} (h : P s) :
    ∀ t, execAckTimeout a0 a1 s = .next t → P t := by
  unfold execAckTimeout
  refine Keeps.next ?_
  repeat' first
    | with_reducible assumption
    | with_reducible refine Keeps.ite ?_ ?_
    | with_reducible refine Keeps.foldl ?_ (fun t x ht => ?_)
    | with_reducible refine State.bump_keeps hP ?_
    | with_reducible refine State.fset_keeps hP ?_
    | with_reducible refine State.report_keeps hP ?_
    | with_reducible refine State.mqAcked_keeps hP ?_

theorem State.serve_keeps {s : State} {a1 : _} {a2 : _} {a3 : _} (h : P s) (hb3 : ∀ t, P t → P (a3 t)) :
    P (State.serve s a1 a2 a3) := by
  unfold State.serve
  repeat' first
    | with_reducible assumption
    | with_reducible refine Keeps.ite ?_ ?_
    | with_reducible refine Keeps.foldl ?_ (fun t x ht => ?_)
    | with_reducible refine hb3 _ ?_

theorem State.serveListed_keeps {s : State} {a1 : _} {a2 : _} {a3 : _} (h : P s) (hb3 : ∀ t, P t → P (a3 t)) :
    P (State.serveListed s a1 a2 a3) := by
  unfold State.serveListed
  repeat' first
    | with_reducible assumption
    | with_reducible refine Keeps.ite ?_ ?_
    | with_reducible refine Keeps.foldl ?_ (fun t x ht => ?_)
    | with_reducible refine State.serve_keeps hP ?_ (fun t ht => ?_)
    | with_reducible refine State.mqAcked_keeps hP ?_
    | with_reducible refine hb3 _ ?_

theorem execPing_keeps {a0 : _} {s : State} (h : P s) :
    ∀ t, execPing a0 s = .next t → P t := by
  unfold execPing
  refine Keeps.next ?_
  repeat' first
    | with_reducible assumption
    | with_reducible refine Keeps.ite ?_ ?_
    | with_reducible refine Keeps.foldl ?_ (fun t x ht => ?_)
    | with_reducible refine State.serveListed_keeps hP ?_ (fun t ht => ?_)
    | with_reducible refine State.mqAcked_keeps hP ?_

theorem execEcho_keeps {a0 : _} {s : State} (h : P s) :
    ∀ t, execEcho a0 s = .next t → P t := by
  unfold execEcho
  refine Keeps.next ?_
  repeat' first
    | with_reducible assumption
    | with_reducible refine Keeps.ite ?_ ?_
    | with_reducible refine Keeps.foldl ?_ (fun t x ht => ?_)
    | with_reducible refine State.serveListed_keeps hP ?_ (fun t ht => ?_)
    | with_reducible refine State.mqAcked_keeps hP ?_
    | with_reducible refine State.mqReply_keeps hP ?_
    | with_reducible refine Keeps.pair (by assumption) ?_
    | with_reducible refine Keeps.pair1 (by assumption) ?_
    | fail_if_no_progress with_reducible refine Keeps.mk hP ?_

theorem execUnknownService_keeps {a0 : _} {s : State} (h : P s) :
    ∀ t, execUnknownService a0 s = .next t → P t := by
  unfold execUnknownService
  refine Keeps.next ?_
  repeat' first
    | with_reducible assumption
    | with_reducible refine Keeps.ite ?_ ?_
    | with_reducible refine Keeps.foldl ?_ (fun t x ht => ?_)
    | with_reducible refine State.serve_keeps hP ?_ (fun t ht => ?_)
    | with_reducible refine State.mqAcked_keeps hP ?_
    | with_reducible refine State.draw_keeps hP ?_

theorem State.tokenTake_keeps {s : State} {a1 : _} {a2 : _} (h : P s) :
    P (State.tokenTake s a1 a2).2 := by
  unfold State.tokenTake
  repeat' first
    | with_reducible assumption
    | with_reducible refine Keeps.ite ?_ ?_
    | with_reducible refine Keeps.foldl ?_ (fun t x ht => ?_)
    | with_reducible refine State.csrPut_keeps hP ?_
    | with_reducible refine Keeps.pair (by assumption) ?_
    | with_reducible refine Keeps.pair1 (by assumption) ?_
    | fail_if_no_progress with_reducible refine Keeps.mk hP ?_
    | split
    | dsimp only

theorem execTokenTake_keeps {a0 : _} {a1 : _} {s : State} (h : P s) :
    ∀ t, execTokenTake a0 a1 s = .next t → P t := by
  unfold execTokenTake
  refine Keeps.next ?_
  repeat' first
    | with_reducible assumption
    | with_reducible refine Keeps.ite ?_ ?_
    | with_reducible refine Keeps.iteC ?_ ?_
    | with_reducible refine Keeps.foldl ?_ (fun t x ht => ?_)
    | with_reducible refine State.byParty_keeps hP ?_ (fun t ht => ?_)
    | with_reducible refine State.regCmd_keeps hP ?_ (fun t ht => ?_)
    | with_reducible refine State.tokenTake_keeps hP ?_
    | with_reducible refine Keeps.pair (by assumption) ?_
    | with_reducible refine Keeps.pair1 (by assumption) ?_
    | fail_if_no_progress with_reducible refine Keeps.mk hP ?_

theorem State.tokenRel_keeps {s : State} {a1 : _} {a2 : _} (h : P s) :
    P (State.tokenRel s a1 a2).2 := by
  unfold State.tokenRel
  repeat' first
    | with_reducible assumption
    | with_reducible refine Keeps.ite ?_ ?_
    | with_reducible refine Keeps.foldl ?_ (fun t x ht => ?_)
    | with_reducible refine State.csrPut_keeps hP ?_
    | with_reducible refine Keeps.pair (by assumption) ?_
    | with_reducible refine Keeps.pair1 (by assumption) ?_
    | fail_if_no_progress with_reducible refine Keeps.mk hP ?_
    | split
    | dsimp only

theorem execTokenRel_keeps {a0 : _} {a1 : _} {s : State} (h : P s) :
    ∀ t, execTokenRel a0 a1 s = .next t → P t := by
  unfold execTokenRel
  refine Keeps.next ?_
  repeat' first
    | with_reducible assumption
    | with_reducible refine Keeps.ite ?_ ?_
    | with_reducible refine Keeps.iteC ?_ ?_
    | with_reducible refine Keeps.foldl ?_ (fun t x ht => ?_)
    | with_reducible refine State.regCmdSt_keeps hP ?_ (fun t ht => ?_)
    | with_reducible refine State.tokenRel_keeps hP ?_
    | with_reducible refine State.byParty_keeps hP ?_ (fun t ht => ?_)

theorem State.tokensForced_keeps {s : State} {a1 : _} (h : P s) :
    P (State.tokensForced s a1) := by
  unfold State.tokensForced
  repeat' first
    | with_reducible assumption
    | with_reducible refine Keeps.ite ?_ ?_
    | with_reducible refine Keeps.foldl ?_ (fun t x ht => ?_)
    | with_reducible refine State.bump_keeps hP ?_
    | with_reducible refine State.csrPut_keeps hP ?_

end Sys2Proof.Machine
end

