-- ==== Sys2Proof/Laws/Keep/Dwente.lean ====
section
/-! SUPPORT. Every operation of Machine/Dwente.lean keeps a closed predicate (see Laws/Keep.lean). -/

namespace Sys2Proof.Machine

variable {P : State → Prop} (hP : Closed P)
include hP

theorem State.setLane_keeps {s : State} {a1 : _} {a2 : _} (h : P s) :
    P (State.setLane s a1 a2) := by
  unfold State.setLane
  repeat' first
    | with_reducible assumption
    | with_reducible refine Keeps.ite ?_ ?_
    | with_reducible refine Keeps.foldl ?_ (fun t x ht => ?_)
    | with_reducible refine Keeps.pair (by assumption) ?_
    | with_reducible refine Keeps.pair1 (by assumption) ?_
    | fail_if_no_progress with_reducible refine Keeps.mk hP ?_

theorem State.setLaneState_keeps {s : State} {a1 : _} {a2 : _} (h : P s) :
    P (State.setLaneState s a1 a2) := by
  unfold State.setLaneState
  repeat' first
    | with_reducible assumption
    | with_reducible refine Keeps.ite ?_ ?_
    | with_reducible refine Keeps.foldl ?_ (fun t x ht => ?_)
    | with_reducible refine State.fset_keeps hP ?_

theorem State.putFlit_keeps {s : State} {a1 : _} {a2 : _} {a3 : _} (h : P s) :
    P (State.putFlit s a1 a2 a3) := by
  unfold State.putFlit
  repeat' first
    | with_reducible assumption
    | with_reducible refine Keeps.ite ?_ ?_
    | with_reducible refine Keeps.iteC ?_ ?_
    | with_reducible refine Keeps.foldl ?_ (fun t x ht => ?_)
    | with_reducible refine State.setLane_keeps hP ?_

theorem State.sendFlit_keeps {s : State} {a1 : _} {a2 : _} (h : P s) :
    P (State.sendFlit s a1 a2) := by
  unfold State.sendFlit
  repeat' first
    | with_reducible assumption
    | with_reducible refine Keeps.ite ?_ ?_
    | with_reducible refine Keeps.iteC ?_ ?_
    | with_reducible refine Keeps.foldl ?_ (fun t x ht => ?_)
    | with_reducible refine State.setLane_keeps hP ?_
    | with_reducible refine State.putFlit_keeps hP ?_

theorem State.nextEvent_keeps {s : State} (h : P s) :
    ∀ x, State.nextEvent s = some x → P x.2 := by
  unfold State.nextEvent
  repeat' first
    | with_reducible assumption
    | with_reducible refine Keeps.ite ?_ ?_
    | with_reducible exact Keeps.oNone
    | with_reducible refine Keeps.oSome ?_
    | with_reducible refine Keeps.oMap (fun x hx => ?_)
    | with_reducible refine Keeps.oIte ?_ ?_
    | with_reducible refine Keeps.foldl ?_ (fun t x ht => ?_)
    | with_reducible refine Keeps.pair (by assumption) ?_
    | with_reducible refine Keeps.pair1 (by assumption) ?_
    | fail_if_no_progress with_reducible refine Keeps.mk hP ?_
    | split

theorem State.sendClass_keeps {s : State} {a1 : _} {a2 : _} (h : P s) :
    ∀ x, State.sendClass s a1 a2 = some x → P x := by
  unfold State.sendClass
  repeat' first
    | with_reducible assumption
    | with_reducible exact Keeps.oNone
    | with_reducible refine Keeps.oSome ?_
    | with_reducible refine Keeps.oMap (fun x hx => ?_)
    | with_reducible refine Keeps.oIte ?_ ?_
    | with_reducible refine Keeps.ite ?_ ?_
    | with_reducible refine Keeps.iteC ?_ ?_
    | with_reducible refine Keeps.foldl ?_ (fun t x ht => ?_)
    | with_reducible refine Keeps.ofSome2 (State.nextEvent_keeps hP ?_) (by assumption)
    | with_reducible refine State.nextEvent_keeps hP ?_
    | with_reducible refine State.setLane_keeps hP ?_
    | with_reducible refine State.fset_keeps hP ?_
    | with_reducible refine State.sendFlit_keeps hP ?_
    | with_reducible refine Keeps.pair (by assumption) ?_
    | with_reducible refine Keeps.pair1 (by assumption) ?_
    | fail_if_no_progress with_reducible refine Keeps.mk hP ?_
    | split

theorem State.sendFirst_keeps {s : State} {a1 : _} {a2 : _} (h : P s) :
    ∀ x, State.sendFirst s a1 a2 = some x → P x := by
  induction a2 generalizing s a1
  · simp only [State.sendFirst]
    repeat' first
      | with_reducible assumption
      | with_reducible refine Keeps.ite ?_ ?_
      | with_reducible exact Keeps.oNone
  · rename_i ih
    simp only [State.sendFirst]
    repeat' first
      | with_reducible assumption
      | with_reducible refine Keeps.ite ?_ ?_
      | with_reducible exact Keeps.oNone
      | with_reducible refine Keeps.oSome ?_
      | with_reducible refine Keeps.oMap (fun x hx => ?_)
      | with_reducible refine Keeps.oIte ?_ ?_
      | with_reducible refine Keeps.foldl ?_ (fun t x ht => ?_)
      | with_reducible refine State.sendClass_keeps hP ?_
      | with_reducible refine Keeps.ofSome (State.sendClass_keeps hP ?_) (by assumption)
      | with_reducible refine ih ?_
      | with_reducible refine Keeps.pair (by assumption) ?_
      | with_reducible refine Keeps.pair1 (by assumption) ?_
      | fail_if_no_progress with_reducible refine Keeps.mk hP ?_
      | split

theorem State.resendOne_keeps {s : State} {a1 : _} (h : P s) :
    ∀ x, State.resendOne s a1 = some x → P x := by
  unfold State.resendOne
  repeat' first
    | with_reducible assumption
    | with_reducible exact Keeps.oNone
    | with_reducible refine Keeps.oSome ?_
    | with_reducible refine Keeps.oMap (fun x hx => ?_)
    | with_reducible refine Keeps.oIte ?_ ?_
    | with_reducible refine Keeps.ite ?_ ?_
    | with_reducible refine Keeps.iteC ?_ ?_
    | with_reducible refine Keeps.foldl ?_ (fun t x ht => ?_)
    | with_reducible refine State.bump_keeps hP ?_
    | with_reducible refine State.setLane_keeps hP ?_
    | with_reducible refine State.putFlit_keeps hP ?_
    | with_reducible refine Keeps.pair (by assumption) ?_
    | with_reducible refine Keeps.pair1 (by assumption) ?_
    | fail_if_no_progress with_reducible refine Keeps.mk hP ?_
    | split
    | dsimp only

theorem State.pumpLane_keeps {s : State} {a1 : _} {a2 : _} (h : P s) :
    P (State.pumpLane s a1 a2) := by
  induction a2 generalizing s a1
  · simp only [State.pumpLane]
    repeat' first
      | with_reducible assumption
  · rename_i ih
    simp only [State.pumpLane]
    repeat' first
      | with_reducible assumption
      | with_reducible refine Keeps.ite ?_ ?_
      | with_reducible refine Keeps.iteC ?_ ?_
      | with_reducible refine Keeps.foldl ?_ (fun t x ht => ?_)
      | with_reducible refine Keeps.ofSome (State.sendFirst_keeps hP ?_) (by assumption)
      | with_reducible refine Keeps.ofSome (State.resendOne_keeps hP ?_) (by assumption)
      | with_reducible refine ih ?_
      | with_reducible refine Keeps.pair (by assumption) ?_
      | with_reducible refine Keeps.pair1 (by assumption) ?_
      | fail_if_no_progress with_reducible refine Keeps.mk hP ?_
      | split

theorem State.pump_keeps {s : State} (h : P s) :
    P (State.pump s) := by
  unfold State.pump
  repeat' first
    | with_reducible assumption
    | with_reducible refine Keeps.ite ?_ ?_
    | with_reducible refine Keeps.iteC ?_ ?_
    | with_reducible refine Keeps.foldl ?_ (fun t x ht => ?_)
    | with_reducible refine State.pumpLane_keeps hP ?_

theorem State.enqueue_keeps {s : State} {a1 : _} {a2 : _} {a3 : _} {a4 : _} {a5 : _} (h : P s) :
    P (State.enqueue s a1 a2 a3 a4 a5) := by
  unfold State.enqueue
  repeat' first
    | with_reducible assumption
    | with_reducible refine Keeps.ite ?_ ?_
    | with_reducible refine Keeps.foldl ?_ (fun t x ht => ?_)
    | with_reducible refine State.setLane_keeps hP ?_

theorem State.respond_keeps {s : State} {a1 : _} {a2 : _} {a3 : _} (h : P s) :
    P (State.respond s a1 a2 a3) := by
  unfold State.respond
  repeat' first
    | with_reducible assumption
    | with_reducible refine Keeps.ite ?_ ?_
    | with_reducible refine Keeps.foldl ?_ (fun t x ht => ?_)
    | with_reducible refine State.enqueue_keeps hP ?_

theorem State.malformed_keeps {s : State} {a1 : _} (h : P s) :
    P (State.malformed s a1) := by
  unfold State.malformed
  repeat' first
    | with_reducible assumption
    | with_reducible refine Keeps.ite ?_ ?_
    | with_reducible refine Keeps.foldl ?_ (fun t x ht => ?_)
    | with_reducible refine State.respond_keeps hP ?_
    | with_reducible refine Keeps.pair (by assumption) ?_
    | with_reducible refine Keeps.pair1 (by assumption) ?_
    | fail_if_no_progress with_reducible refine Keeps.mk hP ?_
    | split

theorem State.laneDown_keeps {s : State} {a1 : _} {a2 : _} {a3 : _} (h : P s) :
    P (State.laneDown s a1 a2 a3) := by
  unfold State.laneDown
  repeat' first
    | with_reducible assumption
    | with_reducible refine Keeps.ite ?_ ?_
    | with_reducible refine Keeps.iteC ?_ ?_
    | with_reducible refine Keeps.foldl ?_ (fun t x ht => ?_)
    | with_reducible refine State.bump_keeps hP ?_
    | with_reducible refine State.setLane_keeps hP ?_
    | with_reducible refine State.setLaneState_keeps hP ?_
    | with_reducible refine State.report_keeps hP ?_

theorem State.laneUp_keeps {s : State} {a1 : _} (h : P s) :
    P (State.laneUp s a1) := by
  unfold State.laneUp
  repeat' first
    | with_reducible assumption
    | with_reducible refine Keeps.ite ?_ ?_
    | with_reducible refine Keeps.iteC ?_ ?_
    | with_reducible refine Keeps.foldl ?_ (fun t x ht => ?_)
    | with_reducible refine State.setLane_keeps hP ?_
    | with_reducible refine State.fset_keeps hP ?_
    | with_reducible refine State.setLaneState_keeps hP ?_
    | with_reducible refine State.report_keeps hP ?_

theorem State.tryUp_keeps {s : State} {a1 : _} (h : P s) :
    P (State.tryUp s a1) := by
  unfold State.tryUp
  repeat' first
    | with_reducible assumption
    | with_reducible refine Keeps.ite ?_ ?_
    | with_reducible refine Keeps.foldl ?_ (fun t x ht => ?_)
    | with_reducible refine State.laneUp_keeps hP ?_

theorem execDwLock_keeps {a0 : _} {a1 : _} {s : State} (h : P s) :
    ∀ t, execDwLock a0 a1 s = .next t → P t := by
  unfold execDwLock
  refine Keeps.next ?_
  repeat' first
    | with_reducible assumption
    | with_reducible refine Keeps.ite ?_ ?_
    | with_reducible refine Keeps.iteC ?_ ?_
    | with_reducible refine Keeps.foldl ?_ (fun t x ht => ?_)
    | with_reducible refine State.setLane_keeps hP ?_
    | with_reducible refine State.fset_keeps hP ?_
    | with_reducible refine State.setLaneState_keeps hP ?_
    | with_reducible refine State.traffic_keeps hP ?_
    | with_reducible refine Keeps.pair (by assumption) ?_
    | with_reducible refine Keeps.pair1 (by assumption) ?_
    | fail_if_no_progress with_reducible refine Keeps.mk hP ?_
    | split

theorem execDwLockLost_keeps {a0 : _} {a1 : _} {s : State} (h : P s) :
    ∀ t, execDwLockLost a0 a1 s = .next t → P t := by
  unfold execDwLockLost
  refine Keeps.next ?_
  repeat' first
    | with_reducible assumption
    | with_reducible refine Keeps.ite ?_ ?_
    | with_reducible refine Keeps.foldl ?_ (fun t x ht => ?_)
    | with_reducible refine State.fset_keeps hP ?_
    | with_reducible refine State.laneDown_keeps hP ?_

theorem State.dwBadWord_keeps {s : State} {a1 : _} {a2 : _} (h : P s) :
    P (State.dwBadWord s a1 a2) := by
  unfold State.dwBadWord
  repeat' first
    | with_reducible assumption
    | with_reducible refine Keeps.ite ?_ ?_
    | with_reducible refine Keeps.iteC ?_ ?_
    | with_reducible refine Keeps.foldl ?_ (fun t x ht => ?_)
    | with_reducible refine State.bump_keeps hP ?_
    | with_reducible refine State.laneDown_keeps hP ?_
    | with_reducible refine State.setLane_keeps hP ?_
    | with_reducible refine State.traffic_keeps hP ?_

theorem State.sendRetry_keeps {s : State} {a1 : _} (h : P s) :
    P (State.sendRetry s a1) := by
  unfold State.sendRetry
  repeat' first
    | with_reducible assumption
    | with_reducible refine Keeps.ite ?_ ?_
    | with_reducible refine Keeps.iteC ?_ ?_
    | with_reducible refine Keeps.foldl ?_ (fun t x ht => ?_)
    | with_reducible refine State.setLane_keeps hP ?_
    | with_reducible refine State.sendFlit_keeps hP ?_

theorem State.askRetry_keeps {s : State} {a1 : _} (h : P s) :
    P (State.askRetry s a1) := by
  unfold State.askRetry
  repeat' first
    | with_reducible assumption
    | with_reducible refine Keeps.ite ?_ ?_
    | with_reducible refine Keeps.iteC ?_ ?_
    | with_reducible refine Keeps.foldl ?_ (fun t x ht => ?_)
    | with_reducible refine State.sendRetry_keeps hP ?_

theorem State.acked_keeps {s : State} {a1 : _} {a2 : _} (h : P s) :
    P (State.acked s a1 a2) := by
  unfold State.acked
  repeat' first
    | with_reducible assumption
    | with_reducible refine Keeps.ite ?_ ?_
    | with_reducible refine Keeps.iteC ?_ ?_
    | with_reducible refine Keeps.foldl ?_ (fun t x ht => ?_)
    | with_reducible refine State.setLane_keeps hP ?_
    | with_reducible refine Keeps.pair (by assumption) ?_
    | with_reducible refine Keeps.pair1 (by assumption) ?_
    | fail_if_no_progress with_reducible refine Keeps.mk hP ?_

theorem State.takeHeader_keeps {s : State} {a1 : _} {a2 : _} (h : P s) :
    P (State.takeHeader s a1 a2) := by
  unfold State.takeHeader
  repeat' first
    | with_reducible assumption
    | with_reducible refine Keeps.ite ?_ ?_
    | with_reducible refine Keeps.iteC ?_ ?_
    | with_reducible refine Keeps.foldl ?_ (fun t x ht => ?_)
    | with_reducible refine State.fset_keeps hP ?_
    | with_reducible refine State.acked_keeps hP ?_

theorem State.protoErr_keeps {s : State} {a1 : _} (h : P s) :
    P (State.protoErr s a1) := by
  unfold State.protoErr
  repeat' first
    | with_reducible assumption
    | with_reducible refine Keeps.ite ?_ ?_
    | with_reducible refine Keeps.foldl ?_ (fun t x ht => ?_)
    | with_reducible refine State.bump_keeps hP ?_

theorem State.fecNote_keeps {s : State} {a1 : _} {a2 : _} (h : P s) :
    P (State.fecNote s a1 a2) := by
  unfold State.fecNote
  repeat' first
    | with_reducible assumption
    | with_reducible refine Keeps.ite ?_ ?_
    | with_reducible refine Keeps.foldl ?_ (fun t x ht => ?_)
    | with_reducible refine State.setLane_keeps hP ?_
    | with_reducible refine State.traffic_keeps hP ?_

theorem State.refuseFlit_keeps {s : State} {a1 : _} {a2 : _} (h : P s) :
    P (State.refuseFlit s a1 a2) := by
  unfold State.refuseFlit
  repeat' first
    | with_reducible assumption
    | with_reducible refine Keeps.ite ?_ ?_
    | with_reducible refine Keeps.iteC ?_ ?_
    | with_reducible refine Keeps.foldl ?_ (fun t x ht => ?_)
    | with_reducible refine State.malformed_keeps hP ?_

theorem State.msgBroken_keeps {s : State} {a1 : _} {a2 : _} (h : P s) :
    P (State.msgBroken s a1 a2) := by
  unfold State.msgBroken
  repeat' first
    | with_reducible assumption
    | with_reducible refine Keeps.ite ?_ ?_
    | with_reducible refine Keeps.iteC ?_ ?_
    | with_reducible refine Keeps.foldl ?_ (fun t x ht => ?_)
    | with_reducible refine Keeps.pair (by assumption) ?_
    | with_reducible refine Keeps.pair1 (by assumption) ?_
    | fail_if_no_progress with_reducible refine Keeps.mk hP ?_

theorem State.takeSeq_keeps {s : State} {a1 : _} (h : P s) :
    P (State.takeSeq s a1) := by
  unfold State.takeSeq
  repeat' first
    | with_reducible assumption
    | with_reducible refine Keeps.ite ?_ ?_
    | with_reducible refine Keeps.iteC ?_ ?_
    | with_reducible refine Keeps.foldl ?_ (fun t x ht => ?_)
    | with_reducible refine State.setLane_keeps hP ?_

theorem State.takeCredit_keeps {s : State} {a1 : _} {a2 : _} (h : P s) :
    P (State.takeCredit s a1 a2).2 := by
  unfold State.takeCredit
  repeat' first
    | with_reducible assumption
    | with_reducible refine Keeps.ite ?_ ?_
    | with_reducible refine Keeps.iteC ?_ ?_
    | with_reducible refine Keeps.foldl ?_ (fun t x ht => ?_)
    | with_reducible refine State.setLane_keeps hP ?_

theorem State.rxFlit_keeps {s : State} {a1 : _} {a2 : _} {a3 : _} (h : P s) :
    P (State.rxFlit s a1 a2 a3).2 := by
  unfold State.rxFlit
  repeat' first
    | with_reducible assumption
    | with_reducible refine Keeps.ite ?_ ?_
    | with_reducible refine Keeps.iteC ?_ ?_
    | with_reducible refine Keeps.foldl ?_ (fun t x ht => ?_)
    | with_reducible refine State.bump_keeps hP ?_
    | with_reducible refine State.fecNote_keeps hP ?_
    | with_reducible refine State.sendRetry_keeps hP ?_
    | with_reducible refine State.takeHeader_keeps hP ?_
    | with_reducible refine State.takeSeq_keeps hP ?_
    | with_reducible refine State.refuseFlit_keeps hP ?_
    | with_reducible refine State.askRetry_keeps hP ?_
    | with_reducible refine State.protoErr_keeps hP ?_
    | with_reducible refine State.takeCredit_keeps hP ?_
    | with_reducible refine State.msgBroken_keeps hP ?_
    | with_reducible refine Keeps.pair (by assumption) ?_
    | with_reducible refine Keeps.pair1 (by assumption) ?_
    | fail_if_no_progress with_reducible refine Keeps.mk hP ?_
    | split

theorem State.gather_keeps {s : State} {a1 : _} (h : P s) :
    P (State.gather s a1).2 := by
  unfold State.gather
  repeat' first
    | with_reducible assumption
    | with_reducible refine Keeps.ite ?_ ?_
    | with_reducible refine Keeps.iteC ?_ ?_
    | with_reducible refine Keeps.foldl ?_ (fun t x ht => ?_)
    | with_reducible refine State.protoErr_keeps hP ?_
    | with_reducible refine State.malformed_keeps hP ?_
    | with_reducible refine Keeps.pair (by assumption) ?_
    | with_reducible refine Keeps.pair1 (by assumption) ?_
    | fail_if_no_progress with_reducible refine Keeps.mk hP ?_

theorem State.clRow_keeps {s : State} {a1 : _} {a2 : _} {a3 : _} (h : P s) (hb3 : ∀ t x1, P t → P (a3 t x1)) :
    P (State.clRow s a1 a2 a3) := by
  unfold State.clRow
  repeat' first
    | with_reducible assumption
    | with_reducible refine Keeps.ite ?_ ?_
    | with_reducible refine Keeps.iteC ?_ ?_
    | with_reducible refine Keeps.foldl ?_ (fun t x ht => ?_)
    | with_reducible refine State.pump_keeps hP ?_
    | with_reducible refine State.rxFlit_keeps hP ?_
    | with_reducible refine State.gather_keeps hP ?_
    | with_reducible refine hb3 _ _ ?_
    | with_reducible refine Keeps.pair (by assumption) ?_
    | with_reducible refine Keeps.pair1 (by assumption) ?_
    | fail_if_no_progress with_reducible refine Keeps.mk hP ?_
    | split

theorem execIdle_keeps {a0 : _} {a1 : _} {s : State} (h : P s) :
    ∀ t, execIdle a0 a1 s = .next t → P t := by
  unfold execIdle
  refine Keeps.next ?_
  repeat' first
    | with_reducible assumption
    | with_reducible refine Keeps.ite ?_ ?_
    | with_reducible refine Keeps.foldl ?_ (fun t x ht => ?_)
    | with_reducible refine State.pump_keeps hP ?_
    | with_reducible refine State.rxFlit_keeps hP ?_

theorem State.sendInit_keeps {s : State} {a1 : _} {a2 : _} (h : P s) :
    P (State.sendInit s a1 a2) := by
  unfold State.sendInit
  repeat' first
    | with_reducible assumption
    | with_reducible refine Keeps.ite ?_ ?_
    | with_reducible refine Keeps.iteC ?_ ?_
    | with_reducible refine Keeps.foldl ?_ (fun t x ht => ?_)
    | with_reducible refine State.setLane_keeps hP ?_
    | with_reducible refine State.sendFlit_keeps hP ?_
    | with_reducible refine State.putFlit_keeps hP ?_
    | with_reducible refine Keeps.pair (by assumption) ?_
    | with_reducible refine Keeps.pair1 (by assumption) ?_
    | fail_if_no_progress with_reducible refine Keeps.mk hP ?_
    | split
    | dsimp only

theorem execInitRepeat_keeps {a0 : _} {s : State} (h : P s) :
    ∀ t, execInitRepeat a0 s = .next t → P t := by
  unfold execInitRepeat
  refine Keeps.next ?_
  repeat' first
    | with_reducible assumption
    | with_reducible refine Keeps.ite ?_ ?_
    | with_reducible refine Keeps.iteC ?_ ?_
    | with_reducible refine Keeps.foldl ?_ (fun t x ht => ?_)
    | with_reducible refine State.setLaneState_keeps hP ?_
    | with_reducible refine State.sendInit_keeps hP ?_

theorem State.linkFresh_keeps {s : State} {a1 : _} {a2 : _} {a3 : _} {a4 : _} (h : P s) :
    P (State.linkFresh s a1 a2 a3 a4) := by
  unfold State.linkFresh
  repeat' first
    | with_reducible assumption
    | with_reducible refine Keeps.ite ?_ ?_
    | with_reducible refine Keeps.foldl ?_ (fun t x ht => ?_)
    | with_reducible refine Keeps.pair (by assumption) ?_
    | with_reducible refine Keeps.pair1 (by assumption) ?_
    | fail_if_no_progress with_reducible refine Keeps.mk hP ?_

theorem State.creditsFrom_keeps {s : State} {a1 : _} {a2 : _} (h : P s) :
    P (State.creditsFrom s a1 a2) := by
  unfold State.creditsFrom
  repeat' first
    | with_reducible assumption
    | with_reducible refine Keeps.ite ?_ ?_
    | with_reducible refine Keeps.foldl ?_ (fun t x ht => ?_)
    | with_reducible refine State.fset_keeps hP ?_

theorem State.exportDone_keeps {s : State} {a1 : _} {a2 : _} (h : P s) :
    P (State.exportDone s a1 a2) := by
  unfold State.exportDone
  repeat' first
    | with_reducible assumption
    | with_reducible refine Keeps.ite ?_ ?_
    | with_reducible refine Keeps.foldl ?_ (fun t x ht => ?_)
    | with_reducible refine State.draw_keeps hP ?_
    | with_reducible refine Keeps.pair (by assumption) ?_
    | with_reducible refine Keeps.pair1 (by assumption) ?_
    | fail_if_no_progress with_reducible refine Keeps.mk hP ?_
    | split

theorem State.freshStart_keeps {s : State} {a1 : _} {a2 : _} {a3 : _} (h : P s) :
    P (State.freshStart s a1 a2 a3) := by
  unfold State.freshStart
  repeat' first
    | with_reducible assumption
    | with_reducible refine Keeps.ite ?_ ?_
    | with_reducible refine Keeps.iteC ?_ ?_
    | with_reducible refine Keeps.foldl ?_ (fun t x ht => ?_)
    | with_reducible refine Keeps.foldl2 ?_ (fun b t x ht => ?_)
    | with_reducible refine State.exportDone_keeps hP ?_
    | with_reducible refine State.setLane_keeps hP ?_
    | with_reducible refine State.fset_keeps hP ?_
    | with_reducible refine State.linkFresh_keeps hP ?_
    | with_reducible refine State.tokensForced_keeps hP ?_
    | with_reducible refine State.creditsFrom_keeps hP ?_
    | with_reducible refine Keeps.pair (by assumption) ?_
    | with_reducible refine Keeps.pair1 (by assumption) ?_
    | fail_if_no_progress with_reducible refine Keeps.mk hP ?_

theorem State.resendFrom_keeps {s : State} {a1 : _} {a2 : _} (h : P s) :
    P (State.resendFrom s a1 a2) := by
  unfold State.resendFrom
  repeat' first
    | with_reducible assumption
    | with_reducible refine Keeps.ite ?_ ?_
    | with_reducible refine Keeps.iteC ?_ ?_
    | with_reducible refine Keeps.foldl ?_ (fun t x ht => ?_)
    | with_reducible refine State.setLane_keeps hP ?_
    | with_reducible refine State.acked_keeps hP ?_

theorem State.hold_keeps {s : State} {a1 : _} {a2 : _} (h : P s) :
    P (State.hold s a1 a2) := by
  unfold State.hold
  repeat' first
    | with_reducible assumption
    | with_reducible refine Keeps.ite ?_ ?_
    | with_reducible refine Keeps.foldl ?_ (fun t x ht => ?_)
    | with_reducible refine State.fset_keeps hP ?_
    | with_reducible refine State.setLaneState_keeps hP ?_

theorem State.linkBad_keeps {s : State} {a1 : _} {a2 : _} (h : P s) :
    P (State.linkBad s a1 a2) := by
  unfold State.linkBad
  repeat' first
    | with_reducible assumption
    | with_reducible refine Keeps.ite ?_ ?_
    | with_reducible refine Keeps.iteC ?_ ?_
    | with_reducible refine Keeps.foldl ?_ (fun t x ht => ?_)
    | with_reducible refine State.rxFlit_keeps hP ?_

theorem State.initSeq_keeps {s : State} {a1 : _} {a2 : _} (h : P s) :
    P (State.initSeq s a1 a2) := by
  unfold State.initSeq
  repeat' first
    | with_reducible assumption
    | with_reducible refine Keeps.ite ?_ ?_
    | with_reducible refine Keeps.iteC ?_ ?_
    | with_reducible refine Keeps.foldl ?_ (fun t x ht => ?_)
    | with_reducible refine State.fecNote_keeps hP ?_
    | with_reducible refine State.takeSeq_keeps hP ?_

theorem execLinkInit_keeps {a0 : _} {a1 : _} {s : State} (h : P s) :
    ∀ t, execLinkInit a0 a1 s = .next t → P t := by
  unfold execLinkInit
  refine Keeps.next ?_
  repeat' first
    | with_reducible assumption
    | with_reducible refine Keeps.ite ?_ ?_
    | with_reducible refine Keeps.iteC ?_ ?_
    | with_reducible refine Keeps.foldl ?_ (fun t x ht => ?_)
    | with_reducible refine State.freshStart_keeps hP ?_
    | with_reducible refine State.fecNote_keeps hP ?_
    | with_reducible refine State.pump_keeps hP ?_
    | with_reducible refine State.setLane_keeps hP ?_
    | with_reducible refine State.fset_keeps hP ?_
    | with_reducible refine State.setLaneState_keeps hP ?_
    | with_reducible refine State.linkBad_keeps hP ?_
    | with_reducible refine State.tryUp_keeps hP ?_
    | with_reducible refine State.initSeq_keeps hP ?_
    | with_reducible refine State.resendFrom_keeps hP ?_
    | with_reducible refine State.sendInit_keeps hP ?_
    | with_reducible refine State.hold_keeps hP ?_

theorem execLinkInitAck_keeps {a0 : _} {a1 : _} {s : State} (h : P s) :
    ∀ t, execLinkInitAck a0 a1 s = .next t → P t := by
  unfold execLinkInitAck
  refine Keeps.next ?_
  repeat' first
    | with_reducible assumption
    | with_reducible refine Keeps.ite ?_ ?_
    | with_reducible refine Keeps.iteC ?_ ?_
    | with_reducible refine Keeps.foldl ?_ (fun t x ht => ?_)
    | with_reducible refine State.fecNote_keeps hP ?_
    | with_reducible refine State.pump_keeps hP ?_
    | with_reducible refine State.setLane_keeps hP ?_
    | with_reducible refine State.linkBad_keeps hP ?_
    | with_reducible refine State.tryUp_keeps hP ?_
    | with_reducible refine State.initSeq_keeps hP ?_
    | with_reducible refine State.hold_keeps hP ?_

theorem execLinkRetry_keeps {a0 : _} {a1 : _} {s : State} (h : P s) :
    ∀ t, execLinkRetry a0 a1 s = .next t → P t := by
  unfold execLinkRetry
  refine Keeps.next ?_
  repeat' first
    | with_reducible assumption
    | with_reducible refine Keeps.ite ?_ ?_
    | with_reducible refine Keeps.iteC ?_ ?_
    | with_reducible refine Keeps.foldl ?_ (fun t x ht => ?_)
    | with_reducible refine State.pump_keeps hP ?_
    | with_reducible refine State.laneDown_keeps hP ?_
    | with_reducible refine State.linkBad_keeps hP ?_
    | with_reducible refine State.resendFrom_keeps hP ?_
    | with_reducible refine State.rxFlit_keeps hP ?_
    | with_reducible refine Keeps.pair (by assumption) ?_
    | with_reducible refine Keeps.pair1 (by assumption) ?_
    | fail_if_no_progress with_reducible refine Keeps.mk hP ?_
    | split

theorem execLinkDown_keeps {a0 : _} {a1 : _} {s : State} (h : P s) :
    ∀ t, execLinkDown a0 a1 s = .next t → P t := by
  unfold execLinkDown
  refine Keeps.next ?_
  repeat' first
    | with_reducible assumption
    | with_reducible refine Keeps.ite ?_ ?_
    | with_reducible refine Keeps.foldl ?_ (fun t x ht => ?_)
    | with_reducible refine State.linkBad_keeps hP ?_
    | with_reducible refine State.rxFlit_keeps hP ?_
    | with_reducible refine State.laneDown_keeps hP ?_
    | with_reducible refine Keeps.pair (by assumption) ?_
    | with_reducible refine Keeps.pair1 (by assumption) ?_
    | fail_if_no_progress with_reducible refine Keeps.mk hP ?_
    | split

theorem execAckseqReport_keeps {a0 : _} {s : State} (h : P s) :
    ∀ t, execAckseqReport a0 s = .next t → P t := by
  unfold execAckseqReport
  refine Keeps.next ?_
  repeat' first
    | with_reducible assumption
    | with_reducible refine Keeps.ite ?_ ?_
    | with_reducible refine Keeps.iteC ?_ ?_
    | with_reducible refine Keeps.foldl ?_ (fun t x ht => ?_)
    | with_reducible refine State.pump_keeps hP ?_
    | with_reducible refine State.sendFlit_keeps hP ?_

theorem State.fresh_keeps {s : State} {a1 : _} (h : P s) :
    P (State.fresh s a1) := by
  unfold State.fresh
  repeat' first
    | with_reducible assumption
    | with_reducible refine Keeps.ite ?_ ?_
    | with_reducible refine Keeps.foldl ?_ (fun t x ht => ?_)
    | with_reducible refine State.regCmd_keeps hP ?_ (fun t ht => ?_)
    | with_reducible refine State.laneDown_keeps hP ?_

theorem execFreshCl_keeps {a0 : _} {s : State} (h : P s) :
    ∀ t, execFreshCl a0 s = .next t → P t := by
  unfold execFreshCl
  refine Keeps.next ?_
  repeat' first
    | with_reducible assumption
    | with_reducible refine Keeps.ite ?_ ?_
    | with_reducible refine Keeps.iteC ?_ ?_
    | with_reducible refine Keeps.foldl ?_ (fun t x ht => ?_)
    | with_reducible refine State.fresh_keeps hP ?_
    | with_reducible refine State.byParty_keeps hP ?_ (fun t ht => ?_)

theorem execFreshSl_keeps {a0 : _} {s : State} (h : P s) :
    ∀ t, execFreshSl a0 s = .next t → P t := by
  unfold execFreshSl
  refine Keeps.next ?_
  repeat' first
    | with_reducible assumption
    | with_reducible refine Keeps.ite ?_ ?_
    | with_reducible refine Keeps.iteC ?_ ?_
    | with_reducible refine Keeps.foldl ?_ (fun t x ht => ?_)
    | with_reducible refine State.fresh_keeps hP ?_
    | with_reducible refine State.byParty_keeps hP ?_ (fun t ht => ?_)

theorem State.laneEnable_keeps {s : State} {a1 : _} {a2 : _} (h : P s) :
    P (State.laneEnable s a1 a2) := by
  unfold State.laneEnable
  repeat' first
    | with_reducible assumption
    | with_reducible refine Keeps.ite ?_ ?_
    | with_reducible refine Keeps.foldl ?_ (fun t x ht => ?_)
    | with_reducible refine State.regCmd_keeps hP ?_ (fun t ht => ?_)
    | with_reducible refine State.fset_keeps hP ?_
    | with_reducible refine State.setLaneState_keeps hP ?_
    | with_reducible refine State.laneDown_keeps hP ?_

theorem execEnCl_keeps {a0 : _} {a1 : _} {s : State} (h : P s) :
    ∀ t, execEnCl a0 a1 s = .next t → P t := by
  unfold execEnCl
  refine Keeps.next ?_
  repeat' first
    | with_reducible assumption
    | with_reducible refine Keeps.ite ?_ ?_
    | with_reducible refine Keeps.iteC ?_ ?_
    | with_reducible refine Keeps.foldl ?_ (fun t x ht => ?_)
    | with_reducible refine State.laneEnable_keeps hP ?_
    | with_reducible refine State.byParty_keeps hP ?_ (fun t ht => ?_)

theorem execEnSl_keeps {a0 : _} {a1 : _} {s : State} (h : P s) :
    ∀ t, execEnSl a0 a1 s = .next t → P t := by
  unfold execEnSl
  refine Keeps.next ?_
  repeat' first
    | with_reducible assumption
    | with_reducible refine Keeps.ite ?_ ?_
    | with_reducible refine Keeps.iteC ?_ ?_
    | with_reducible refine Keeps.foldl ?_ (fun t x ht => ?_)
    | with_reducible refine State.laneEnable_keeps hP ?_
    | with_reducible refine State.byParty_keeps hP ?_ (fun t ht => ?_)

theorem State.slSend_keeps {s : State} {a1 : _} {a2 : _} (h : P s) :
    P (State.slSend s a1 a2) := by
  unfold State.slSend
  repeat' first
    | with_reducible assumption
    | with_reducible refine Keeps.ite ?_ ?_
    | with_reducible refine Keeps.foldl ?_ (fun t x ht => ?_)
    | with_reducible refine State.enqueue_keeps hP ?_

theorem State.slComplete_keeps {s : State} {a1 : _} {a2 : _} {a3 : _} (h : P s) :
    P (State.slComplete s a1 a2 a3) := by
  unfold State.slComplete
  repeat' first
    | with_reducible assumption
    | with_reducible refine Keeps.ite ?_ ?_
    | with_reducible refine Keeps.foldl ?_ (fun t x ht => ?_)
    | with_reducible refine State.slSend_keeps hP ?_

theorem State.slRefused_keeps {s : State} {a1 : _} {a2 : _} (h : P s) :
    P (State.slRefused s a1 a2) := by
  unfold State.slRefused
  repeat' first
    | with_reducible assumption
    | with_reducible refine Keeps.ite ?_ ?_
    | with_reducible refine Keeps.iteC ?_ ?_
    | with_reducible refine Keeps.foldl ?_ (fun t x ht => ?_)
    | with_reducible refine State.addrFault_keeps hP ?_

theorem State.slCredit_keeps {s : State} (h : P s) :
    ∀ x, State.slCredit s = some x → P x := by
  unfold State.slCredit
  repeat' first
    | with_reducible assumption
    | with_reducible refine Keeps.ite ?_ ?_
    | with_reducible exact Keeps.oNone
    | with_reducible refine Keeps.oSome ?_
    | with_reducible refine Keeps.oMap (fun x hx => ?_)
    | with_reducible refine Keeps.oIte ?_ ?_
    | with_reducible refine Keeps.foldl ?_ (fun t x ht => ?_)
    | with_reducible refine State.setLane_keeps hP ?_

theorem State.slReturn_keeps {s : State} (h : P s) :
    P (State.slReturn s) := by
  unfold State.slReturn
  repeat' first
    | with_reducible assumption
    | with_reducible refine Keeps.ite ?_ ?_
    | with_reducible refine Keeps.foldl ?_ (fun t x ht => ?_)
    | with_reducible refine State.setLane_keeps hP ?_

theorem execSlHdr_keeps {a0 : _} {s : State} (h : P s) :
    ∀ t, execSlHdr a0 s = .next t → P t := by
  unfold execSlHdr
  refine Keeps.next ?_
  repeat' first
    | with_reducible assumption
    | with_reducible refine Keeps.ite ?_ ?_
    | with_reducible refine Keeps.foldl ?_ (fun t x ht => ?_)
    | with_reducible refine State.rxFlit_keeps hP ?_
    | with_reducible refine State.protoErr_keeps hP ?_
    | with_reducible refine State.slCredit_keeps hP ?_
    | with_reducible refine Keeps.ofSome (State.slCredit_keeps hP ?_) (by assumption)
    | with_reducible refine Keeps.pair (by assumption) ?_
    | with_reducible refine Keeps.pair1 (by assumption) ?_
    | fail_if_no_progress with_reducible refine Keeps.mk hP ?_
    | split

theorem execSlData_keeps {a0 : _} {s : State} (h : P s) :
    ∀ t, execSlData a0 s = .next t → P t := by
  unfold execSlData
  refine Keeps.next ?_
  repeat' first
    | with_reducible assumption
    | with_reducible refine Keeps.ite ?_ ?_
    | with_reducible refine Keeps.foldl ?_ (fun t x ht => ?_)
    | with_reducible refine State.rxFlit_keeps hP ?_
    | with_reducible refine State.protoErr_keeps hP ?_
    | with_reducible refine Keeps.pair (by assumption) ?_
    | with_reducible refine Keeps.pair1 (by assumption) ?_
    | fail_if_no_progress with_reducible refine Keeps.mk hP ?_
    | split

theorem execSlBlockWritten_keeps {s : State} (h : P s) :
    ∀ t, execSlBlockWritten s = .next t → P t := by
  unfold execSlBlockWritten
  refine Keeps.next ?_
  repeat' first
    | with_reducible assumption
    | with_reducible refine Keeps.ite ?_ ?_
    | with_reducible refine Keeps.foldl ?_ (fun t x ht => ?_)
    | with_reducible refine State.writeBytes_keeps hP ?_
    | with_reducible refine State.slRefused_keeps hP ?_
    | with_reducible refine State.slReturn_keeps hP ?_
    | with_reducible refine State.slComplete_keeps hP ?_
    | with_reducible refine State.pump_keeps hP ?_
    | with_reducible refine Keeps.pair (by assumption) ?_
    | with_reducible refine Keeps.pair1 (by assumption) ?_
    | fail_if_no_progress with_reducible refine Keeps.mk hP ?_
    | split

theorem execSlRdreq_keeps {a0 : _} {s : State} (h : P s) :
    ∀ t, execSlRdreq a0 s = .next t → P t := by
  unfold execSlRdreq
  refine Keeps.next ?_
  repeat' first
    | with_reducible assumption
    | with_reducible refine Keeps.ite ?_ ?_
    | with_reducible refine Keeps.iteC ?_ ?_
    | with_reducible refine Keeps.foldl ?_ (fun t x ht => ?_)
    | with_reducible refine State.pump_keeps hP ?_
    | with_reducible refine State.slComplete_keeps hP ?_
    | with_reducible refine State.rxFlit_keeps hP ?_
    | with_reducible refine Keeps.pair (by assumption) ?_
    | with_reducible refine Keeps.pair1 (by assumption) ?_
    | fail_if_no_progress with_reducible refine Keeps.mk hP ?_
    | split

theorem State.slBlock_keeps {s : State} {a1 : _} {a2 : _} (h : P s) :
    P (State.slBlock s a1 a2).2 := by
  unfold State.slBlock
  repeat' first
    | with_reducible assumption
    | with_reducible refine Keeps.ite ?_ ?_
    | with_reducible refine Keeps.iteC ?_ ?_
    | with_reducible refine Keeps.foldl ?_ (fun t x ht => ?_)
    | with_reducible refine State.slRefused_keeps hP ?_
    | with_reducible refine State.readBytes_keeps hP ?_
    | with_reducible refine Keeps.pair (by assumption) ?_
    | with_reducible refine Keeps.pair1 (by assumption) ?_
    | fail_if_no_progress with_reducible refine Keeps.mk hP ?_
    | split

theorem execSlReadBlock_keeps {s : State} (h : P s) :
    ∀ t, execSlReadBlock s = .next t → P t := by
  unfold execSlReadBlock
  refine Keeps.next ?_
  repeat' first
    | with_reducible assumption
    | with_reducible refine Keeps.ite ?_ ?_
    | with_reducible refine Keeps.iteC ?_ ?_
    | with_reducible refine Keeps.foldl ?_ (fun t x ht => ?_)
    | with_reducible refine State.exportDone_keeps hP ?_
    | with_reducible refine State.pump_keeps hP ?_
    | with_reducible refine State.slBlock_keeps hP ?_
    | with_reducible refine State.fset_keeps hP ?_
    | with_reducible refine State.slComplete_keeps hP ?_
    | with_reducible refine State.slSend_keeps hP ?_
    | with_reducible refine Keeps.pair (by assumption) ?_
    | with_reducible refine Keeps.pair1 (by assumption) ?_
    | fail_if_no_progress with_reducible refine Keeps.mk hP ?_
    | split
    | dsimp only

end Sys2Proof.Machine
end

