-- ==== Sys2Proof/Laws/Keep/Memory.lean ====
section
/-! SUPPORT. Every operation of Machine/Memory.lean keeps a closed predicate (see Laws/Keep.lean). -/

namespace Sys2Proof.Machine

variable {P : State → Prop} (hP : Closed P)
include hP

theorem State.setMdev_keeps {s : State} {a1 : _} {a2 : _} (h : P s) :
    P (State.setMdev s a1 a2) := by
  unfold State.setMdev
  repeat' first
    | with_reducible assumption
    | with_reducible refine Keeps.ite ?_ ?_
    | with_reducible refine Keeps.foldl ?_ (fun t x ht => ?_)
    | with_reducible refine Keeps.pair (by assumption) ?_
    | with_reducible refine Keeps.pair1 (by assumption) ?_
    | fail_if_no_progress with_reducible refine Keeps.mk hP ?_

theorem State.reloadMark_keeps {s : State} {a1 : _} (h : P s) :
    P (State.reloadMark s a1) := by
  unfold State.reloadMark
  repeat' first
    | with_reducible assumption
    | with_reducible refine Keeps.ite ?_ ?_
    | with_reducible refine Keeps.iteC ?_ ?_
    | with_reducible refine Keeps.foldl ?_ (fun t x ht => ?_)
    | with_reducible refine State.fset_keeps hP ?_

theorem State.retire_keeps {s : State} {a1 : _} {a2 : _} (h : P s) :
    P (State.retire s a1 a2) := by
  unfold State.retire
  repeat' first
    | with_reducible assumption
    | with_reducible refine Keeps.ite ?_ ?_
    | with_reducible refine Keeps.foldl ?_ (fun t x ht => ?_)
    | with_reducible refine State.fset_keeps hP ?_
    | with_reducible refine State.report_keeps hP ?_

theorem execBurstCrcFail_keeps {a0 : _} {a1 : _} {a2 : _} {s : State} (h : P s) :
    ∀ t, execBurstCrcFail a0 a1 a2 s = .next t → P t := by
  unfold execBurstCrcFail
  refine Keeps.next ?_
  repeat' first
    | with_reducible assumption
    | with_reducible refine Keeps.ite ?_ ?_
    | with_reducible refine Keeps.foldl ?_ (fun t x ht => ?_)
    | with_reducible refine State.retire_keeps hP ?_
    | with_reducible refine State.setMdev_keeps hP ?_

theorem State.drainDies_keeps {s : State} {a1 : _} (h : P s) :
    P (State.drainDies s a1) := by
  induction a1 generalizing s 
  · simp only [State.drainDies]
    repeat' first
      | with_reducible assumption
  · rename_i ih
    simp only [State.drainDies]
    repeat' first
      | with_reducible assumption
      | with_reducible refine Keeps.ite ?_ ?_
      | with_reducible refine Keeps.foldl ?_ (fun t x ht => ?_)
      | with_reducible refine State.ceDrain_keeps hP ?_
      | with_reducible refine ih ?_

theorem State.drainMds_keeps {s : State} {a1 : _} (h : P s) :
    P (State.drainMds s a1) := by
  induction a1 generalizing s 
  · simp only [State.drainMds]
    repeat' first
      | with_reducible assumption
  · rename_i ih
    simp only [State.drainMds]
    repeat' first
      | with_reducible assumption
      | with_reducible refine Keeps.ite ?_ ?_
      | with_reducible refine Keeps.foldl ?_ (fun t x ht => ?_)
      | with_reducible refine State.ceDrain_keeps hP ?_
      | with_reducible refine ih ?_

theorem execEccBucketDrain_keeps {s : State} (h : P s) :
    ∀ t, execEccBucketDrain s = .next t → P t := by
  unfold execEccBucketDrain
  refine Keeps.next ?_
  repeat' first
    | with_reducible assumption
    | with_reducible refine Keeps.ite ?_ ?_
    | with_reducible refine Keeps.foldl ?_ (fun t x ht => ?_)
    | with_reducible refine State.drainDies_keeps hP ?_
    | with_reducible refine State.drainMds_keeps hP ?_

theorem State.scrubClear_keeps {s : State} {a1 : _} {a2 : _} {a3 : _} (h : P s) :
    P (State.scrubClear s a1 a2 a3) := by
  unfold State.scrubClear
  repeat' first
    | with_reducible assumption
    | with_reducible refine Keeps.ite ?_ ?_
    | with_reducible refine Keeps.foldl ?_ (fun t x ht => ?_)
    | with_reducible refine State.csrPut_keeps hP ?_

theorem State.scrubStart_keeps {s : State} {a1 : _} {a2 : _} {a3 : _} {a4 : _} {a5 : _} {a6 : _} {a7 : _} (h : P s) :
    P (State.scrubStart s a1 a2 a3 a4 a5 a6 a7).2 := by
  unfold State.scrubStart
  repeat' first
    | with_reducible assumption
    | with_reducible refine Keeps.ite ?_ ?_
    | with_reducible refine Keeps.iteC ?_ ?_
    | with_reducible refine Keeps.foldl ?_ (fun t x ht => ?_)
    | with_reducible refine State.fset_keeps hP ?_
    | with_reducible refine State.scrubClear_keeps hP ?_
    | with_reducible refine State.setMdev_keeps hP ?_

theorem State.scrubStop_keeps {s : State} {a1 : _} (h : P s) :
    P (State.scrubStop s a1) := by
  unfold State.scrubStop
  repeat' first
    | with_reducible assumption
    | with_reducible refine Keeps.ite ?_ ?_
    | with_reducible refine Keeps.foldl ?_ (fun t x ht => ?_)
    | with_reducible refine State.setMdev_keeps hP ?_

theorem State.scrubEnd_keeps {s : State} {a1 : _} {a2 : _} (h : P s) :
    P (State.scrubEnd s a1 a2) := by
  unfold State.scrubEnd
  repeat' first
    | with_reducible assumption
    | with_reducible refine Keeps.ite ?_ ?_
    | with_reducible refine Keeps.foldl ?_ (fun t x ht => ?_)
    | with_reducible refine State.fset_keeps hP ?_
    | with_reducible refine State.setMdev_keeps hP ?_
    | with_reducible refine State.memWrite_keeps hP ?_
    | with_reducible refine Keeps.pair (by assumption) ?_
    | with_reducible refine Keeps.pair1 (by assumption) ?_
    | fail_if_no_progress with_reducible refine Keeps.mk hP ?_
    | split

theorem State.writeScrubCtl_keeps {s : State} {a1 : _} {a2 : _} {a3 : _} {a4 : _} (h : P s) :
    P (State.writeScrubCtl s a1 a2 a3 a4).2 := by
  unfold State.writeScrubCtl
  repeat' first
    | with_reducible assumption
    | with_reducible refine Keeps.ite ?_ ?_
    | with_reducible refine Keeps.foldl ?_ (fun t x ht => ?_)
    | with_reducible refine State.csrRefuse_keeps hP ?_
    | with_reducible refine State.fset_keeps hP ?_
    | with_reducible refine State.scrubEnd_keeps hP ?_
    | with_reducible refine State.scrubStart_keeps hP ?_
    | with_reducible refine State.scrubStop_keeps hP ?_
    | with_reducible refine Keeps.pair (by assumption) ?_
    | with_reducible refine Keeps.pair1 (by assumption) ?_
    | fail_if_no_progress with_reducible refine Keeps.mk hP ?_
    | split
    | dsimp only

theorem execScrubGo_keeps {a0 : _} {a1 : _} {a2 : _} {s : State} (h : P s) :
    ∀ t, execScrubGo a0 a1 a2 s = .next t → P t := by
  unfold execScrubGo
  refine Keeps.next ?_
  repeat' first
    | with_reducible assumption
    | with_reducible refine Keeps.ite ?_ ?_
    | with_reducible refine Keeps.iteC ?_ ?_
    | with_reducible refine Keeps.foldl ?_ (fun t x ht => ?_)
    | with_reducible refine State.writeScrubCtl_keeps hP ?_
    | with_reducible refine State.byParty_keeps hP ?_ (fun t ht => ?_)
    | with_reducible refine State.regCmd_keeps hP ?_ (fun t ht => ?_)

theorem execScrubStop_keeps {a0 : _} {a1 : _} {s : State} (h : P s) :
    ∀ t, execScrubStop a0 a1 s = .next t → P t := by
  unfold execScrubStop
  refine Keeps.next ?_
  repeat' first
    | with_reducible assumption
    | with_reducible refine Keeps.ite ?_ ?_
    | with_reducible refine Keeps.iteC ?_ ?_
    | with_reducible refine Keeps.foldl ?_ (fun t x ht => ?_)
    | with_reducible refine State.byParty_keeps hP ?_ (fun t ht => ?_)
    | with_reducible refine State.regCmd_keeps hP ?_ (fun t ht => ?_)
    | with_reducible refine State.scrubStop_keeps hP ?_

theorem State.scrubRead_keeps {s : State} {a1 : _} {a2 : _} {a3 : _} {a4 : _} (h : P s) :
    P (State.scrubRead s a1 a2 a3 a4).2 := by
  induction a4 generalizing s a1 a2 a3
  · simp only [State.scrubRead]
    repeat' first
      | with_reducible assumption
  · rename_i ih
    simp only [State.scrubRead]
    repeat' first
      | with_reducible assumption
      | with_reducible refine Keeps.ite ?_ ?_
      | with_reducible refine Keeps.foldl ?_ (fun t x ht => ?_)
      | with_reducible refine State.readCell_keeps hP ?_
      | with_reducible refine ih ?_

theorem State.scrubStore_keeps {s : State} {a1 : _} {a2 : _} (h : P s) :
    P (State.scrubStore s a1 a2) := by
  induction a2 generalizing s a1
  · simp only [State.scrubStore]
    repeat' first
      | with_reducible assumption
  · rename_i ih
    simp only [State.scrubStore]
    repeat' first
      | with_reducible assumption
      | with_reducible refine Keeps.ite ?_ ?_
      | with_reducible refine Keeps.foldl ?_ (fun t x ht => ?_)
      | with_reducible refine State.store_keeps hP ?_
      | with_reducible refine ih ?_
      | with_reducible refine Keeps.pair (by assumption) ?_
      | with_reducible refine Keeps.pair1 (by assumption) ?_
      | fail_if_no_progress with_reducible refine Keeps.mk hP ?_
      | split

theorem State.sumAdd_keeps {s : State} {a1 : _} {a2 : _} (h : P s) :
    P (State.sumAdd s a1 a2) := by
  unfold State.sumAdd
  repeat' first
    | with_reducible assumption
    | with_reducible refine Keeps.ite ?_ ?_
    | with_reducible refine Keeps.foldl ?_ (fun t x ht => ?_)
    | with_reducible refine State.fset_keeps hP ?_

theorem execScrubGroup_keeps {a0 : _} {s : State} (h : P s) :
    ∀ t, execScrubGroup a0 s = .next t → P t := by
  unfold execScrubGroup
  refine Keeps.next ?_
  repeat' first
    | with_reducible assumption
    | with_reducible refine Keeps.ite ?_ ?_
    | with_reducible refine Keeps.foldl ?_ (fun t x ht => ?_)
    | with_reducible refine State.scrubRead_keeps hP ?_
    | with_reducible refine State.scrubStore_keeps hP ?_
    | with_reducible refine State.traffic_keeps hP ?_
    | with_reducible refine State.sumAdd_keeps hP ?_
    | with_reducible refine State.csrPut_keeps hP ?_
    | with_reducible refine State.fset_keeps hP ?_
    | with_reducible refine State.setMdev_keeps hP ?_
    | with_reducible refine Keeps.pair (by assumption) ?_
    | with_reducible refine Keeps.pair1 (by assumption) ?_
    | fail_if_no_progress with_reducible refine Keeps.mk hP ?_
    | split

theorem execScrubDone_keeps {a0 : _} {s : State} (h : P s) :
    ∀ t, execScrubDone a0 s = .next t → P t := by
  unfold execScrubDone
  refine Keeps.next ?_
  repeat' first
    | with_reducible assumption
    | with_reducible refine Keeps.ite ?_ ?_
    | with_reducible refine Keeps.foldl ?_ (fun t x ht => ?_)
    | with_reducible refine State.scrubEnd_keeps hP ?_

theorem execRefresh_keeps {a0 : _} {s : State} (h : P s) :
    ∀ t, execRefresh a0 s = .next t → P t := by
  unfold execRefresh
  refine Keeps.next ?_
  repeat' first
    | with_reducible assumption
    | with_reducible refine Keeps.ite ?_ ?_
    | with_reducible refine Keeps.foldl ?_ (fun t x ht => ?_)
    | with_reducible refine State.setFlag_keeps hP ?_

end Sys2Proof.Machine
end

