-- ==== Sys2Proof/Laws/Keep/Flags.lean ====
section
/-! SUPPORT. Every operation of Machine/Flags.lean keeps a closed predicate (see Laws/Keep.lean). -/

namespace Sys2Proof.Machine

variable {P : State → Prop} (hP : Closed P)
include hP

theorem State.raise_keeps {s : State} {a1 : _} {a2 : _} (h : P s) :
    P (State.raise s a1 a2) := by
  unfold State.raise
  repeat' first
    | with_reducible assumption
    | with_reducible refine Keeps.ite ?_ ?_
    | with_reducible refine Keeps.foldl ?_ (fun t x ht => ?_)
    | with_reducible refine State.fset_keeps hP ?_

theorem State.arithStatus_keeps {s : State} {a1 : _} {a2 : _} {a3 : _} (h : P s) :
    P (State.arithStatus s a1 a2 a3) := by
  unfold State.arithStatus
  repeat' first
    | with_reducible assumption
    | with_reducible refine Keeps.ite ?_ ?_
    | with_reducible refine Keeps.foldl ?_ (fun t x ht => ?_)
    | with_reducible refine State.fset_keeps hP ?_
    | with_reducible refine State.raise_keeps hP ?_
    | with_reducible refine State.bump_keeps hP ?_

theorem State.weStatus_keeps {s : State} {a1 : _} {a2 : _} (h : P s) :
    P (State.weStatus s a1 a2) := by
  unfold State.weStatus
  repeat' first
    | with_reducible assumption
    | with_reducible refine Keeps.ite ?_ ?_
    | with_reducible refine Keeps.foldl ?_ (fun t x ht => ?_)
    | with_reducible refine State.raise_keeps hP ?_

theorem State.meStatus_keeps {s : State} {a1 : _} {a2 : _} (h : P s) :
    P (State.meStatus s a1 a2) := by
  unfold State.meStatus
  repeat' first
    | with_reducible assumption
    | with_reducible refine Keeps.ite ?_ ?_
    | with_reducible refine Keeps.foldl ?_ (fun t x ht => ?_)
    | with_reducible refine State.raise_keeps hP ?_

end Sys2Proof.Machine
end

