-- ==== Sys2Proof/Laws/Keep/Operands.lean ====
section
/-! SUPPORT. Every operation of Machine/Operands.lean keeps a closed predicate (see Laws/Keep.lean). -/

namespace Sys2Proof.Machine

variable {P : State → Prop} (hP : Closed P)
include hP

theorem State.readElem_keeps {s : State} {a1 : _} {a2 : _} {a3 : _} {a4 : _} (h : P s) :
    P (State.readElem s a1 a2 a3 a4).2 := by
  unfold State.readElem
  repeat' first
    | with_reducible assumption
    | with_reducible refine Keeps.ite ?_ ?_
    | with_reducible refine Keeps.foldl ?_ (fun t x ht => ?_)
    | with_reducible refine State.readView_keeps hP ?_
    | with_reducible refine Keeps.pair (by assumption) ?_
    | with_reducible refine Keeps.pair1 (by assumption) ?_
    | fail_if_no_progress with_reducible refine Keeps.mk hP ?_
    | split
    | dsimp only

theorem State.readElems_keeps {s : State} {a1 : _} {a2 : _} {a3 : _} (h : P s) :
    P (State.readElems s a1 a2 a3).2 := by
  induction a3 generalizing s a1 a2
  · simp only [State.readElems]
    repeat' first
      | with_reducible assumption
  · rename_i ih
    simp only [State.readElems]
    repeat' first
      | with_reducible assumption
      | with_reducible refine Keeps.ite ?_ ?_
      | with_reducible refine Keeps.foldl ?_ (fun t x ht => ?_)
      | with_reducible refine State.readElem_keeps hP ?_
      | with_reducible refine ih ?_
      | with_reducible refine Keeps.pair (by assumption) ?_
      | with_reducible refine Keeps.pair1 (by assumption) ?_
      | fail_if_no_progress with_reducible refine Keeps.mk hP ?_
      | split

theorem State.runPre_keeps {s : State} {a1 : _} {a2 : _} {a3 : _} (h : P s) :
    P (State.runPre s a1 a2 a3).2 := by
  induction a3 generalizing s a1 a2
  · simp only [State.runPre]
    repeat' first
      | with_reducible assumption
  · rename_i ih
    simp only [State.runPre]
    repeat' first
      | with_reducible assumption
      | with_reducible refine Keeps.ite ?_ ?_
      | with_reducible refine Keeps.iteC ?_ ?_
      | with_reducible refine Keeps.foldl ?_ (fun t x ht => ?_)
      | with_reducible refine State.readWork_keeps hP ?_
      | with_reducible refine ih ?_
      | with_reducible refine Keeps.pair (by assumption) ?_
      | with_reducible refine Keeps.pair1 (by assumption) ?_
      | fail_if_no_progress with_reducible refine Keeps.mk hP ?_
      | split

theorem State.runWrite_keeps {s : State} {a1 : _} {a2 : _} (h : P s) :
    P (State.runWrite s a1 a2) := by
  induction a2 generalizing s a1
  · simp only [State.runWrite]
    repeat' first
      | with_reducible assumption
  · rename_i ih
    simp only [State.runWrite]
    repeat' first
      | with_reducible assumption
      | with_reducible refine Keeps.ite ?_ ?_
      | with_reducible refine Keeps.iteC ?_ ?_
      | with_reducible refine Keeps.foldl ?_ (fun t x ht => ?_)
      | with_reducible refine State.writeBits_keeps hP ?_
      | with_reducible refine State.writeByte_keeps hP ?_
      | with_reducible refine ih ?_

theorem State.runWhole_keeps {s : State} {a1 : _} {a2 : _} {a3 : _} (h : P s) :
    P (State.runWhole s a1 a2 a3).2 := by
  unfold State.runWhole
  repeat' first
    | with_reducible assumption
    | with_reducible refine Keeps.ite ?_ ?_
    | with_reducible refine Keeps.iteC ?_ ?_
    | with_reducible refine Keeps.foldl ?_ (fun t x ht => ?_)
    | with_reducible refine State.runPre_keeps hP ?_
    | with_reducible refine State.runWrite_keeps hP ?_
    | with_reducible refine Keeps.pair (by assumption) ?_
    | with_reducible refine Keeps.pair1 (by assumption) ?_
    | fail_if_no_progress with_reducible refine Keeps.mk hP ?_
    | split

theorem State.runsPre_keeps {s : State} {a1 : _} {a2 : _} {a3 : _} (h : P s) :
    P (State.runsPre s a1 a2 a3).2 := by
  induction a3 generalizing s a1 a2
  · simp only [State.runsPre]
    repeat' first
      | with_reducible assumption
  · rename_i ih
    simp only [State.runsPre]
    repeat' first
      | with_reducible assumption
      | with_reducible refine Keeps.ite ?_ ?_
      | with_reducible refine Keeps.foldl ?_ (fun t x ht => ?_)
      | with_reducible refine State.runPre_keeps hP ?_
      | with_reducible refine ih ?_
      | with_reducible refine Keeps.pair (by assumption) ?_
      | with_reducible refine Keeps.pair1 (by assumption) ?_
      | fail_if_no_progress with_reducible refine Keeps.mk hP ?_
      | split

theorem State.runsWrite_keeps {s : State} {a1 : _} {a2 : _} (h : P s) :
    P (State.runsWrite s a1 a2) := by
  induction a2 generalizing s a1
  · simp only [State.runsWrite]
    repeat' first
      | with_reducible assumption
  · rename_i ih
    simp only [State.runsWrite]
    repeat' first
      | with_reducible assumption
      | with_reducible refine Keeps.ite ?_ ?_
      | with_reducible refine Keeps.iteC ?_ ?_
      | with_reducible refine Keeps.foldl ?_ (fun t x ht => ?_)
      | with_reducible refine State.runWrite_keeps hP ?_
      | with_reducible refine ih ?_

end Sys2Proof.Machine
end

