-- ==== Sys2Proof/Laws/Keep/Tile.lean ====
section
/-! SUPPORT. Every operation of Machine/Tile.lean keeps a closed predicate (see Laws/Keep.lean). -/

namespace Sys2Proof.Machine

variable {P : State → Prop} (hP : Closed P)
include hP

theorem State.setTile_keeps {s : State} {a1 : _} {a2 : _} (h : P s) :
    P (State.setTile s a1 a2) := by
  unfold State.setTile
  repeat' first
    | with_reducible assumption
    | with_reducible refine Keeps.ite ?_ ?_
    | with_reducible refine Keeps.foldl ?_ (fun t x ht => ?_)
    | with_reducible refine Keeps.pair (by assumption) ?_
    | with_reducible refine Keeps.pair1 (by assumption) ?_
    | fail_if_no_progress with_reducible refine Keeps.mk hP ?_

theorem State.ctrAdd_keeps {s : State} {a1 : _} {a2 : _} {a3 : _} (h : P s) :
    P (State.ctrAdd s a1 a2 a3) := by
  unfold State.ctrAdd
  repeat' first
    | with_reducible assumption
    | with_reducible refine Keeps.ite ?_ ?_
    | with_reducible refine Keeps.foldl ?_ (fun t x ht => ?_)
    | with_reducible refine State.bump_keeps hP ?_

theorem State.acceptDispatch_keeps {s : State} {a1 : _} {a2 : _} (h : P s) :
    P (State.acceptDispatch s a1 a2) := by
  unfold State.acceptDispatch
  repeat' first
    | with_reducible assumption
    | with_reducible refine Keeps.ite ?_ ?_
    | with_reducible refine Keeps.foldl ?_ (fun t x ht => ?_)
    | with_reducible refine State.setTile_keeps hP ?_
    | with_reducible refine State.fset_keeps hP ?_
    | with_reducible refine State.setTileState_keeps hP ?_

theorem State.dupDispatch_keeps {s : State} {a1 : _} (h : P s) :
    P (State.dupDispatch s a1) := by
  unfold State.dupDispatch
  repeat' first
    | with_reducible assumption
    | with_reducible refine Keeps.ite ?_ ?_
    | with_reducible refine Keeps.foldl ?_ (fun t x ht => ?_)
    | with_reducible refine State.wrap_keeps hP ?_

theorem State.gapDispatch_keeps {s : State} {a1 : _} {a2 : _} (h : P s) :
    P (State.gapDispatch s a1 a2) := by
  unfold State.gapDispatch
  repeat' first
    | with_reducible assumption
    | with_reducible refine Keeps.ite ?_ ?_
    | with_reducible refine Keeps.foldl ?_ (fun t x ht => ?_)
    | with_reducible refine State.report_keeps hP ?_

theorem State.evalDispatch_keeps {s : State} {a1 : _} {a2 : _} (h : P s) :
    P (State.evalDispatch s a1 a2) := by
  unfold State.evalDispatch
  repeat' first
    | with_reducible assumption
    | with_reducible refine Keeps.ite ?_ ?_
    | with_reducible refine Keeps.foldl ?_ (fun t x ht => ?_)
    | with_reducible refine State.acceptDispatch_keeps hP ?_
    | with_reducible refine State.dupDispatch_keeps hP ?_
    | with_reducible refine State.gapDispatch_keeps hP ?_

theorem State.tileReport_keeps {s : State} {a1 : _} (h : P s) :
    P (State.tileReport s a1) := by
  unfold State.tileReport
  repeat' first
    | with_reducible assumption
    | with_reducible refine Keeps.ite ?_ ?_
    | with_reducible refine Keeps.iteC ?_ ?_
    | with_reducible refine Keeps.foldl ?_ (fun t x ht => ?_)
    | with_reducible refine Keeps.pair (by assumption) ?_
    | with_reducible refine Keeps.pair1 (by assumption) ?_
    | fail_if_no_progress with_reducible refine Keeps.mk hP ?_

theorem State.evalHeld_keeps {s : State} {a1 : _} (h : P s) :
    P (State.evalHeld s a1) := by
  unfold State.evalHeld
  repeat' first
    | with_reducible assumption
    | with_reducible refine Keeps.ite ?_ ?_
    | with_reducible refine Keeps.iteC ?_ ?_
    | with_reducible refine Keeps.foldl ?_ (fun t x ht => ?_)
    | with_reducible refine State.evalDispatch_keeps hP ?_
    | with_reducible refine State.setTile_keeps hP ?_
    | with_reducible refine State.tileReport_keeps hP ?_
    | with_reducible refine Keeps.pair (by assumption) ?_
    | with_reducible refine Keeps.pair1 (by assumption) ?_
    | fail_if_no_progress with_reducible refine Keeps.mk hP ?_
    | split

theorem State.arrive_keeps {s : State} {a1 : _} {a2 : _} (h : P s) :
    P (State.arrive s a1 a2) := by
  unfold State.arrive
  repeat' first
    | with_reducible assumption
    | with_reducible refine Keeps.ite ?_ ?_
    | with_reducible refine Keeps.foldl ?_ (fun t x ht => ?_)
    | with_reducible refine State.evalDispatch_keeps hP ?_
    | with_reducible refine State.setTile_keeps hP ?_
    | with_reducible refine State.dupDispatch_keeps hP ?_
    | with_reducible refine State.gapDispatch_keeps hP ?_
    | with_reducible refine Keeps.pair (by assumption) ?_
    | with_reducible refine Keeps.pair1 (by assumption) ?_
    | fail_if_no_progress with_reducible refine Keeps.mk hP ?_
    | split

theorem execDispatchArrive_keeps {a0 : _} {a1 : _} {a2 : _} {a3 : _} {a4 : _} {a5 : _} {s : State} (h : P s) :
    ∀ t, execDispatchArrive a0 a1 a2 a3 a4 a5 s = .next t → P t := by
  unfold execDispatchArrive
  refine Keeps.next ?_
  repeat' first
    | with_reducible assumption
    | with_reducible refine Keeps.ite ?_ ?_
    | with_reducible refine Keeps.foldl ?_ (fun t x ht => ?_)
    | with_reducible refine State.arrive_keeps hP ?_

theorem State.trapAt_keeps {s : State} {a1 : _} {a2 : _} {a3 : _} (h : P s) :
    P (State.trapAt s a1 a2 a3) := by
  unfold State.trapAt
  repeat' first
    | with_reducible assumption
    | with_reducible refine Keeps.ite ?_ ?_
    | with_reducible refine Keeps.iteC ?_ ?_
    | with_reducible refine Keeps.foldl ?_ (fun t x ht => ?_)
    | with_reducible refine State.setTileState_keeps hP ?_
    | with_reducible refine State.evalHeld_keeps hP ?_
    | with_reducible refine State.report_keeps hP ?_
    | with_reducible refine State.setTile_keeps hP ?_
    | with_reducible refine State.capture_keeps hP ?_

theorem State.trap_keeps {s : State} {a1 : _} {a2 : _} (h : P s) :
    P (State.trap s a1 a2) := by
  unfold State.trap
  repeat' first
    | with_reducible assumption
    | with_reducible refine Keeps.ite ?_ ?_
    | with_reducible refine Keeps.iteC ?_ ?_
    | with_reducible refine Keeps.foldl ?_ (fun t x ht => ?_)
    | with_reducible refine State.trapAt_keeps hP ?_

theorem State.fetch_keeps {s : State} {a1 : _} (h : P s) :
    P (State.fetch s a1).2 := by
  unfold State.fetch
  repeat' first
    | with_reducible assumption
    | with_reducible refine Keeps.ite ?_ ?_
    | with_reducible refine Keeps.foldl ?_ (fun t x ht => ?_)
    | with_reducible refine State.readView_keeps hP ?_
    | with_reducible refine Keeps.pair (by assumption) ?_
    | with_reducible refine Keeps.pair1 (by assumption) ?_
    | fail_if_no_progress with_reducible refine Keeps.mk hP ?_
    | split
    | dsimp only

theorem State.advance_keeps {s : State} {a1 : _} (h : P s) :
    P (State.advance s a1) := by
  unfold State.advance
  repeat' first
    | with_reducible assumption
    | with_reducible refine Keeps.ite ?_ ?_
    | with_reducible refine Keeps.foldl ?_ (fun t x ht => ?_)
    | with_reducible refine State.setTile_keeps hP ?_

theorem State.issue_keeps {s : State} {a1 : _} {a2 : _} {a3 : _} (h : P s) (hb3 : ∀ t x1, P t → P (a3 t x1)) :
    P (State.issue s a1 a2 a3) := by
  unfold State.issue
  repeat' first
    | with_reducible assumption
    | with_reducible refine Keeps.ite ?_ ?_
    | with_reducible refine Keeps.foldl ?_ (fun t x ht => ?_)
    | with_reducible refine State.fetch_keeps hP ?_
    | with_reducible refine State.trap_keeps hP ?_
    | with_reducible refine hb3 _ _ ?_
    | with_reducible refine Keeps.pair (by assumption) ?_
    | with_reducible refine Keeps.pair1 (by assumption) ?_
    | fail_if_no_progress with_reducible refine Keeps.mk hP ?_
    | split

theorem State.branch_keeps {s : State} {a1 : _} {a2 : _} (h : P s) :
    P (State.branch s a1 a2) := by
  unfold State.branch
  repeat' first
    | with_reducible assumption
    | with_reducible refine Keeps.ite ?_ ?_
    | with_reducible refine Keeps.foldl ?_ (fun t x ht => ?_)
    | with_reducible refine State.setTile_keeps hP ?_

theorem execNop_keeps {a0 : _} {s : State} (h : P s) :
    ∀ t, execNop a0 s = .next t → P t := by
  unfold execNop
  refine Keeps.next ?_
  repeat' first
    | with_reducible assumption
    | with_reducible refine Keeps.ite ?_ ?_
    | with_reducible refine Keeps.foldl ?_ (fun t x ht => ?_)
    | with_reducible refine State.issue_keeps hP ?_ (fun t x1 ht => ?_)
    | with_reducible refine State.advance_keeps hP ?_

theorem State.startWait_keeps {s : State} {a1 : _} {a2 : _} (h : P s) :
    P (State.startWait s a1 a2) := by
  unfold State.startWait
  repeat' first
    | with_reducible assumption
    | with_reducible refine Keeps.ite ?_ ?_
    | with_reducible refine Keeps.foldl ?_ (fun t x ht => ?_)
    | with_reducible refine State.setTileState_keeps hP ?_
    | with_reducible refine State.setTile_keeps hP ?_

theorem execHalt_keeps {a0 : _} {s : State} (h : P s) :
    ∀ t, execHalt a0 s = .next t → P t := by
  unfold execHalt
  refine Keeps.next ?_
  repeat' first
    | with_reducible assumption
    | with_reducible refine Keeps.ite ?_ ?_
    | with_reducible refine Keeps.foldl ?_ (fun t x ht => ?_)
    | with_reducible refine State.issue_keeps hP ?_ (fun t x1 ht => ?_)
    | with_reducible refine State.startWait_keeps hP ?_

theorem execJmp_keeps {a0 : _} {s : State} (h : P s) :
    ∀ t, execJmp a0 s = .next t → P t := by
  unfold execJmp
  refine Keeps.next ?_
  repeat' first
    | with_reducible assumption
    | with_reducible refine Keeps.ite ?_ ?_
    | with_reducible refine Keeps.foldl ?_ (fun t x ht => ?_)
    | with_reducible refine State.issue_keeps hP ?_ (fun t x1 ht => ?_)
    | with_reducible refine State.branch_keeps hP ?_

theorem execBnz_keeps {a0 : _} {s : State} (h : P s) :
    ∀ t, execBnz a0 s = .next t → P t := by
  unfold execBnz
  refine Keeps.next ?_
  repeat' first
    | with_reducible assumption
    | with_reducible refine Keeps.ite ?_ ?_
    | with_reducible refine Keeps.foldl ?_ (fun t x ht => ?_)
    | with_reducible refine State.issue_keeps hP ?_ (fun t x1 ht => ?_)
    | with_reducible refine State.branch_keeps hP ?_
    | with_reducible refine State.advance_keeps hP ?_

theorem execBz_keeps {a0 : _} {s : State} (h : P s) :
    ∀ t, execBz a0 s = .next t → P t := by
  unfold execBz
  refine Keeps.next ?_
  repeat' first
    | with_reducible assumption
    | with_reducible refine Keeps.ite ?_ ?_
    | with_reducible refine Keeps.foldl ?_ (fun t x ht => ?_)
    | with_reducible refine State.issue_keeps hP ?_ (fun t x1 ht => ?_)
    | with_reducible refine State.branch_keeps hP ?_
    | with_reducible refine State.advance_keeps hP ?_

theorem execGset_keeps {a0 : _} {s : State} (h : P s) :
    ∀ t, execGset a0 s = .next t → P t := by
  unfold execGset
  refine Keeps.next ?_
  repeat' first
    | with_reducible assumption
    | with_reducible refine Keeps.ite ?_ ?_
    | with_reducible refine Keeps.foldl ?_ (fun t x ht => ?_)
    | with_reducible refine State.issue_keeps hP ?_ (fun t x1 ht => ?_)
    | with_reducible refine State.advance_keeps hP ?_
    | with_reducible refine State.setTile_keeps hP ?_

theorem execGadd_keeps {a0 : _} {s : State} (h : P s) :
    ∀ t, execGadd a0 s = .next t → P t := by
  unfold execGadd
  refine Keeps.next ?_
  repeat' first
    | with_reducible assumption
    | with_reducible refine Keeps.ite ?_ ?_
    | with_reducible refine Keeps.foldl ?_ (fun t x ht => ?_)
    | with_reducible refine State.issue_keeps hP ?_ (fun t x1 ht => ?_)
    | with_reducible refine State.advance_keeps hP ?_
    | with_reducible refine State.setTile_keeps hP ?_

theorem execFence_keeps {a0 : _} {s : State} (h : P s) :
    ∀ t, execFence a0 s = .next t → P t := by
  unfold execFence
  refine Keeps.next ?_
  repeat' first
    | with_reducible assumption
    | with_reducible refine Keeps.ite ?_ ?_
    | with_reducible refine Keeps.foldl ?_ (fun t x ht => ?_)
    | with_reducible refine State.issue_keeps hP ?_ (fun t x1 ht => ?_)
    | with_reducible refine State.startWait_keeps hP ?_

theorem execIllegalOp_keeps {a0 : _} {s : State} (h : P s) :
    ∀ t, execIllegalOp a0 s = .next t → P t := by
  unfold execIllegalOp
  refine Keeps.next ?_
  repeat' first
    | with_reducible assumption
    | with_reducible refine Keeps.ite ?_ ?_
    | with_reducible refine Keeps.foldl ?_ (fun t x ht => ?_)
    | with_reducible refine State.issue_keeps hP ?_ (fun t x1 ht => ?_)
    | with_reducible refine State.trap_keeps hP ?_

theorem State.berthSub_keeps {s : State} {a1 : _} {a2 : _} (h : P s) :
    P (State.berthSub s a1 a2) := by
  unfold State.berthSub
  repeat' first
    | with_reducible assumption
    | with_reducible refine Keeps.ite ?_ ?_
    | with_reducible refine Keeps.foldl ?_ (fun t x ht => ?_)
    | with_reducible refine State.trap_keeps hP ?_
    | with_reducible refine State.advance_keeps hP ?_
    | with_reducible refine State.setTile_keeps hP ?_
    | with_reducible refine Keeps.pair (by assumption) ?_
    | with_reducible refine Keeps.pair1 (by assumption) ?_
    | fail_if_no_progress with_reducible refine Keeps.mk hP ?_
    | split
    | dsimp only

theorem execBerthSub_keeps {a0 : _} {s : State} (h : P s) :
    ∀ t, execBerthSub a0 s = .next t → P t := by
  unfold execBerthSub
  refine Keeps.next ?_
  repeat' first
    | with_reducible assumption
    | with_reducible refine Keeps.ite ?_ ?_
    | with_reducible refine Keeps.foldl ?_ (fun t x ht => ?_)
    | with_reducible refine State.issue_keeps hP ?_ (fun t x1 ht => ?_)
    | with_reducible refine State.berthSub_keeps hP ?_

theorem State.berthTo_keeps {s : State} {a1 : _} {a2 : _} {a3 : _} (h : P s) :
    P (State.berthTo s a1 a2 a3) := by
  unfold State.berthTo
  repeat' first
    | with_reducible assumption
    | with_reducible refine Keeps.ite ?_ ?_
    | with_reducible refine Keeps.foldl ?_ (fun t x ht => ?_)
    | with_reducible refine State.trap_keeps hP ?_
    | with_reducible refine State.advance_keeps hP ?_
    | with_reducible refine State.setTile_keeps hP ?_

theorem execBerthCpy_keeps {a0 : _} {s : State} (h : P s) :
    ∀ t, execBerthCpy a0 s = .next t → P t := by
  unfold execBerthCpy
  refine Keeps.next ?_
  repeat' first
    | with_reducible assumption
    | with_reducible refine Keeps.ite ?_ ?_
    | with_reducible refine Keeps.foldl ?_ (fun t x ht => ?_)
    | with_reducible refine State.issue_keeps hP ?_ (fun t x1 ht => ?_)
    | with_reducible refine State.berthTo_keeps hP ?_

theorem execBerthClr_keeps {a0 : _} {s : State} (h : P s) :
    ∀ t, execBerthClr a0 s = .next t → P t := by
  unfold execBerthClr
  refine Keeps.next ?_
  repeat' first
    | with_reducible assumption
    | with_reducible refine Keeps.ite ?_ ?_
    | with_reducible refine Keeps.foldl ?_ (fun t x ht => ?_)
    | with_reducible refine State.issue_keeps hP ?_ (fun t x1 ht => ?_)
    | with_reducible refine State.berthTo_keeps hP ?_

theorem State.withCtr_keeps {s : State} {a1 : _} {a2 : _} {a3 : _} (h : P s) (hb3 : ∀ t, P t → P (a3 t)) :
    P (State.withCtr s a1 a2 a3) := by
  unfold State.withCtr
  repeat' first
    | with_reducible assumption
    | with_reducible refine Keeps.ite ?_ ?_
    | with_reducible refine Keeps.foldl ?_ (fun t x ht => ?_)
    | with_reducible refine State.trap_keeps hP ?_
    | with_reducible refine hb3 _ ?_

theorem execCtrAdd_keeps {a0 : _} {s : State} (h : P s) :
    ∀ t, execCtrAdd a0 s = .next t → P t := by
  unfold execCtrAdd
  refine Keeps.next ?_
  repeat' first
    | with_reducible assumption
    | with_reducible refine Keeps.ite ?_ ?_
    | with_reducible refine Keeps.foldl ?_ (fun t x ht => ?_)
    | with_reducible refine State.issue_keeps hP ?_ (fun t x1 ht => ?_)
    | with_reducible refine State.withCtr_keeps hP ?_ (fun t ht => ?_)
    | with_reducible refine State.advance_keeps hP ?_
    | with_reducible refine State.ctrAdd_keeps hP ?_

theorem execCtrSet_keeps {a0 : _} {s : State} (h : P s) :
    ∀ t, execCtrSet a0 s = .next t → P t := by
  unfold execCtrSet
  refine Keeps.next ?_
  repeat' first
    | with_reducible assumption
    | with_reducible refine Keeps.ite ?_ ?_
    | with_reducible refine Keeps.foldl ?_ (fun t x ht => ?_)
    | with_reducible refine State.issue_keeps hP ?_ (fun t x1 ht => ?_)
    | with_reducible refine State.withCtr_keeps hP ?_ (fun t ht => ?_)
    | with_reducible refine State.advance_keeps hP ?_
    | with_reducible refine State.fset_keeps hP ?_

theorem execCtrWait_keeps {a0 : _} {s : State} (h : P s) :
    ∀ t, execCtrWait a0 s = .next t → P t := by
  unfold execCtrWait
  refine Keeps.next ?_
  repeat' first
    | with_reducible assumption
    | with_reducible refine Keeps.ite ?_ ?_
    | with_reducible refine Keeps.foldl ?_ (fun t x ht => ?_)
    | with_reducible refine State.issue_keeps hP ?_ (fun t x1 ht => ?_)
    | with_reducible refine State.withCtr_keeps hP ?_ (fun t ht => ?_)
    | with_reducible refine State.startWait_keeps hP ?_

theorem State.resume_keeps {s : State} {a1 : _} (h : P s) :
    P (State.resume s a1) := by
  unfold State.resume
  repeat' first
    | with_reducible assumption
    | with_reducible refine Keeps.ite ?_ ?_
    | with_reducible refine Keeps.foldl ?_ (fun t x ht => ?_)
    | with_reducible refine State.advance_keeps hP ?_
    | with_reducible refine State.setTileState_keeps hP ?_
    | with_reducible refine State.setTile_keeps hP ?_

theorem execCtrWaitRelease_keeps {a0 : _} {s : State} (h : P s) :
    ∀ t, execCtrWaitRelease a0 s = .next t → P t := by
  unfold execCtrWaitRelease
  refine Keeps.next ?_
  repeat' first
    | with_reducible assumption
    | with_reducible refine Keeps.ite ?_ ?_
    | with_reducible refine Keeps.foldl ?_ (fun t x ht => ?_)
    | with_reducible refine State.trap_keeps hP ?_
    | with_reducible refine State.resume_keeps hP ?_
    | with_reducible refine Keeps.pair (by assumption) ?_
    | with_reducible refine Keeps.pair1 (by assumption) ?_
    | fail_if_no_progress with_reducible refine Keeps.mk hP ?_
    | split

end Sys2Proof.Machine
end

