-- ==== Sys2Proof/Laws/Keep/Vec.lean ====
section
/-! SUPPORT. Every operation of Machine/Vec.lean keeps a closed predicate (see Laws/Keep.lean). -/

namespace Sys2Proof.Machine

variable {P : State → Prop} (hP : Closed P)
include hP

theorem State.vecRead_keeps {s : State} {a1 : _} {a2 : _} {a3 : _} {a4 : _} (h : P s) :
    P (State.vecRead s a1 a2 a3 a4).2 := by
  unfold State.vecRead
  repeat' first
    | with_reducible assumption
    | with_reducible refine Keeps.ite ?_ ?_
    | with_reducible refine Keeps.foldl ?_ (fun t x ht => ?_)
    | with_reducible refine State.readElems_keeps hP ?_
    | with_reducible refine Keeps.pair (by assumption) ?_
    | with_reducible refine Keeps.pair1 (by assumption) ?_
    | fail_if_no_progress with_reducible refine Keeps.mk hP ?_
    | split

theorem State.vecRun_keeps {s : State} {a1 : _} {a2 : _} (h : P s) :
    P (State.vecRun s a1 a2) := by
  unfold State.vecRun
  repeat' first
    | with_reducible assumption
    | with_reducible refine Keeps.ite ?_ ?_
    | with_reducible refine Keeps.iteC ?_ ?_
    | with_reducible refine Keeps.foldl ?_ (fun t x ht => ?_)
    | with_reducible refine State.vecRead_keeps hP ?_
    | with_reducible refine State.arithStatus_keeps hP ?_
    | with_reducible refine State.runsWrite_keeps hP ?_
    | with_reducible refine State.runsPre_keeps hP ?_
    | with_reducible refine State.readElems_keeps hP ?_
    | with_reducible refine State.trap_keeps hP ?_
    | with_reducible refine State.advance_keeps hP ?_
    | with_reducible refine Keeps.pair (by assumption) ?_
    | with_reducible refine Keeps.pair1 (by assumption) ?_
    | fail_if_no_progress with_reducible refine Keeps.mk hP ?_
    | split
    | dsimp only

theorem State.vec_keeps {s : State} {a1 : _} {a2 : _} (h : P s) :
    P (State.vec s a1 a2) := by
  unfold State.vec
  repeat' first
    | with_reducible assumption
    | with_reducible refine Keeps.ite ?_ ?_
    | with_reducible refine Keeps.foldl ?_ (fun t x ht => ?_)
    | with_reducible refine State.issue_keeps hP ?_ (fun t x1 ht => ?_)
    | with_reducible refine State.trap_keeps hP ?_
    | with_reducible refine State.vecRun_keeps hP ?_
    | with_reducible refine Keeps.pair (by assumption) ?_
    | with_reducible refine Keeps.pair1 (by assumption) ?_
    | fail_if_no_progress with_reducible refine Keeps.mk hP ?_
    | split

theorem execVadd_keeps {a0 : _} {s : State} (h : P s) :
    ∀ t, execVadd a0 s = .next t → P t := by
  unfold execVadd
  refine Keeps.next ?_
  repeat' first
    | with_reducible assumption
    | with_reducible refine Keeps.ite ?_ ?_
    | with_reducible refine Keeps.foldl ?_ (fun t x ht => ?_)
    | with_reducible refine State.vec_keeps hP ?_

theorem execVsub_keeps {a0 : _} {s : State} (h : P s) :
    ∀ t, execVsub a0 s = .next t → P t := by
  unfold execVsub
  refine Keeps.next ?_
  repeat' first
    | with_reducible assumption
    | with_reducible refine Keeps.ite ?_ ?_
    | with_reducible refine Keeps.foldl ?_ (fun t x ht => ?_)
    | with_reducible refine State.vec_keeps hP ?_

theorem execVmul_keeps {a0 : _} {s : State} (h : P s) :
    ∀ t, execVmul a0 s = .next t → P t := by
  unfold execVmul
  refine Keeps.next ?_
  repeat' first
    | with_reducible assumption
    | with_reducible refine Keeps.ite ?_ ?_
    | with_reducible refine Keeps.foldl ?_ (fun t x ht => ?_)
    | with_reducible refine State.vec_keeps hP ?_

theorem execVfma_keeps {a0 : _} {s : State} (h : P s) :
    ∀ t, execVfma a0 s = .next t → P t := by
  unfold execVfma
  refine Keeps.next ?_
  repeat' first
    | with_reducible assumption
    | with_reducible refine Keeps.ite ?_ ?_
    | with_reducible refine Keeps.foldl ?_ (fun t x ht => ?_)
    | with_reducible refine State.vec_keeps hP ?_

theorem execVmax_keeps {a0 : _} {s : State} (h : P s) :
    ∀ t, execVmax a0 s = .next t → P t := by
  unfold execVmax
  refine Keeps.next ?_
  repeat' first
    | with_reducible assumption
    | with_reducible refine Keeps.ite ?_ ?_
    | with_reducible refine Keeps.foldl ?_ (fun t x ht => ?_)
    | with_reducible refine State.vec_keeps hP ?_

theorem execVmin_keeps {a0 : _} {s : State} (h : P s) :
    ∀ t, execVmin a0 s = .next t → P t := by
  unfold execVmin
  refine Keeps.next ?_
  repeat' first
    | with_reducible assumption
    | with_reducible refine Keeps.ite ?_ ?_
    | with_reducible refine Keeps.foldl ?_ (fun t x ht => ?_)
    | with_reducible refine State.vec_keeps hP ?_

theorem execVcvt_keeps {a0 : _} {s : State} (h : P s) :
    ∀ t, execVcvt a0 s = .next t → P t := by
  unfold execVcvt
  refine Keeps.next ?_
  repeat' first
    | with_reducible assumption
    | with_reducible refine Keeps.ite ?_ ?_
    | with_reducible refine Keeps.foldl ?_ (fun t x ht => ?_)
    | with_reducible refine State.vec_keeps hP ?_

theorem execVrcp_keeps {a0 : _} {s : State} (h : P s) :
    ∀ t, execVrcp a0 s = .next t → P t := by
  unfold execVrcp
  refine Keeps.next ?_
  repeat' first
    | with_reducible assumption
    | with_reducible refine Keeps.ite ?_ ?_
    | with_reducible refine Keeps.foldl ?_ (fun t x ht => ?_)
    | with_reducible refine State.vec_keeps hP ?_

theorem execVsqrt_keeps {a0 : _} {s : State} (h : P s) :
    ∀ t, execVsqrt a0 s = .next t → P t := by
  unfold execVsqrt
  refine Keeps.next ?_
  repeat' first
    | with_reducible assumption
    | with_reducible refine Keeps.ite ?_ ?_
    | with_reducible refine Keeps.foldl ?_ (fun t x ht => ?_)
    | with_reducible refine State.vec_keeps hP ?_

theorem execVrsq_keeps {a0 : _} {s : State} (h : P s) :
    ∀ t, execVrsq a0 s = .next t → P t := by
  unfold execVrsq
  refine Keeps.next ?_
  repeat' first
    | with_reducible assumption
    | with_reducible refine Keeps.ite ?_ ?_
    | with_reducible refine Keeps.foldl ?_ (fun t x ht => ?_)
    | with_reducible refine State.vec_keeps hP ?_

theorem execVexp2_keeps {a0 : _} {s : State} (h : P s) :
    ∀ t, execVexp2 a0 s = .next t → P t := by
  unfold execVexp2
  refine Keeps.next ?_
  repeat' first
    | with_reducible assumption
    | with_reducible refine Keeps.ite ?_ ?_
    | with_reducible refine Keeps.foldl ?_ (fun t x ht => ?_)
    | with_reducible refine State.vec_keeps hP ?_

theorem execVlog2_keeps {a0 : _} {s : State} (h : P s) :
    ∀ t, execVlog2 a0 s = .next t → P t := by
  unfold execVlog2
  refine Keeps.next ?_
  repeat' first
    | with_reducible assumption
    | with_reducible refine Keeps.ite ?_ ?_
    | with_reducible refine Keeps.foldl ?_ (fun t x ht => ?_)
    | with_reducible refine State.vec_keeps hP ?_

theorem execVred_keeps {a0 : _} {s : State} (h : P s) :
    ∀ t, execVred a0 s = .next t → P t := by
  unfold execVred
  refine Keeps.next ?_
  repeat' first
    | with_reducible assumption
    | with_reducible refine Keeps.ite ?_ ?_
    | with_reducible refine Keeps.foldl ?_ (fun t x ht => ?_)
    | with_reducible refine State.vec_keeps hP ?_

theorem execXadd_keeps {a0 : _} {s : State} (h : P s) :
    ∀ t, execXadd a0 s = .next t → P t := by
  unfold execXadd
  refine Keeps.next ?_
  repeat' first
    | with_reducible assumption
    | with_reducible refine Keeps.ite ?_ ?_
    | with_reducible refine Keeps.foldl ?_ (fun t x ht => ?_)
    | with_reducible refine State.vec_keeps hP ?_

theorem execVsel_keeps {a0 : _} {s : State} (h : P s) :
    ∀ t, execVsel a0 s = .next t → P t := by
  unfold execVsel
  refine Keeps.next ?_
  repeat' first
    | with_reducible assumption
    | with_reducible refine Keeps.ite ?_ ?_
    | with_reducible refine Keeps.foldl ?_ (fun t x ht => ?_)
    | with_reducible refine State.vec_keeps hP ?_

theorem execVmov_keeps {a0 : _} {s : State} (h : P s) :
    ∀ t, execVmov a0 s = .next t → P t := by
  unfold execVmov
  refine Keeps.next ?_
  repeat' first
    | with_reducible assumption
    | with_reducible refine Keeps.ite ?_ ?_
    | with_reducible refine Keeps.foldl ?_ (fun t x ht => ?_)
    | with_reducible refine State.vec_keeps hP ?_

end Sys2Proof.Machine
end

