-- ==== Sys2Proof/Laws/Keep/Mma.lean ====
section
/-! SUPPORT. Every operation of Machine/Mma.lean keeps a closed predicate (see Laws/Keep.lean). -/

namespace Sys2Proof.Machine

variable {P : State → Prop} (hP : Closed P)
include hP

theorem State.readRows_keeps {s : State} {a1 : _} {a2 : _} {a3 : _} {a4 : _} {a5 : _} {a6 : _} (h : P s) :
    P (State.readRows s a1 a2 a3 a4 a5 a6).2 := by
  unfold State.readRows
  repeat' first
    | with_reducible assumption
    | with_reducible refine Keeps.ite ?_ ?_
    | with_reducible refine Keeps.foldl ?_ (fun t x ht => ?_)
    | with_reducible refine State.readElems_keeps hP ?_
    | with_reducible refine Keeps.pair (by assumption) ?_
    | with_reducible refine Keeps.pair1 (by assumption) ?_
    | fail_if_no_progress with_reducible refine Keeps.mk hP ?_
    | split

theorem State.mmaRead_keeps {s : State} {a1 : _} {a2 : _} (h : P s) :
    P (State.mmaRead s a1 a2).2 := by
  unfold State.mmaRead
  repeat' first
    | with_reducible assumption
    | with_reducible refine Keeps.ite ?_ ?_
    | with_reducible refine Keeps.foldl ?_ (fun t x ht => ?_)
    | with_reducible refine State.readRows_keeps hP ?_
    | with_reducible refine Keeps.pair (by assumption) ?_
    | with_reducible refine Keeps.pair1 (by assumption) ?_
    | fail_if_no_progress with_reducible refine Keeps.mk hP ?_
    | split
    | dsimp only

theorem State.mmaBlock_keeps {s : State} {a1 : _} {a2 : _} (h : P s) :
    P (State.mmaBlock s a1 a2).2 := by
  unfold State.mmaBlock
  repeat' first
    | with_reducible assumption
    | with_reducible refine Keeps.ite ?_ ?_
    | with_reducible refine Keeps.iteC ?_ ?_
    | with_reducible refine Keeps.foldl ?_ (fun t x ht => ?_)
    | with_reducible refine State.runsWrite_keeps hP ?_
    | with_reducible refine State.runsPre_keeps hP ?_
    | with_reducible refine State.mmaRead_keeps hP ?_
    | with_reducible refine State.setTile_keeps hP ?_
    | with_reducible refine Keeps.pair (by assumption) ?_
    | with_reducible refine Keeps.pair1 (by assumption) ?_
    | fail_if_no_progress with_reducible refine Keeps.mk hP ?_
    | split
    | dsimp only

theorem execMma_keeps {a0 : _} {s : State} (h : P s) :
    ∀ t, execMma a0 s = .next t → P t := by
  unfold execMma
  refine Keeps.next ?_
  repeat' first
    | with_reducible assumption
    | with_reducible refine Keeps.ite ?_ ?_
    | with_reducible refine Keeps.iteC ?_ ?_
    | with_reducible refine Keeps.foldl ?_ (fun t x ht => ?_)
    | with_reducible refine State.arithStatus_keeps hP ?_
    | with_reducible refine State.mmaBlock_keeps hP ?_
    | with_reducible refine State.issue_keeps hP ?_ (fun t x1 ht => ?_)
    | with_reducible refine State.trap_keeps hP ?_
    | with_reducible refine State.advance_keeps hP ?_
    | with_reducible refine Keeps.pair (by assumption) ?_
    | with_reducible refine Keeps.pair1 (by assumption) ?_
    | fail_if_no_progress with_reducible refine Keeps.mk hP ?_
    | split

theorem execMmaCfg_keeps {a0 : _} {s : State} (h : P s) :
    ∀ t, execMmaCfg a0 s = .next t → P t := by
  unfold execMmaCfg
  refine Keeps.next ?_
  repeat' first
    | with_reducible assumption
    | with_reducible refine Keeps.ite ?_ ?_
    | with_reducible refine Keeps.foldl ?_ (fun t x ht => ?_)
    | with_reducible refine State.issue_keeps hP ?_ (fun t x1 ht => ?_)
    | with_reducible refine State.trap_keeps hP ?_
    | with_reducible refine State.advance_keeps hP ?_
    | with_reducible refine State.setTile_keeps hP ?_

end Sys2Proof.Machine
end

