-- ==== Sys2Proof/Laws/Keep/Router.lean ====
section
/-! SUPPORT. Every operation of Machine/Router.lean keeps a closed predicate (see Laws/Keep.lean). -/

namespace Sys2Proof.Machine

variable {P : State → Prop} (hP : Closed P)
include hP

theorem State.setPort_keeps {s : State} {a1 : _} {a2 : _} (h : P s) :
    P (State.setPort s a1 a2) := by
  unfold State.setPort
  repeat' first
    | with_reducible assumption
    | with_reducible refine Keeps.ite ?_ ?_
    | with_reducible refine Keeps.foldl ?_ (fun t x ht => ?_)
    | with_reducible refine Keeps.pair (by assumption) ?_
    | with_reducible refine Keeps.pair1 (by assumption) ?_
    | fail_if_no_progress with_reducible refine Keeps.mk hP ?_

theorem State.setPortState_keeps {s : State} {a1 : _} {a2 : _} (h : P s) :
    P (State.setPortState s a1 a2) := by
  unfold State.setPortState
  repeat' first
    | with_reducible assumption
    | with_reducible refine Keeps.ite ?_ ?_
    | with_reducible refine Keeps.foldl ?_ (fun t x ht => ?_)
    | with_reducible refine State.fset_keeps hP ?_

theorem State.putFrame_keeps {s : State} {a1 : _} {a2 : _} {a3 : _} (h : P s) :
    P (State.putFrame s a1 a2 a3) := by
  unfold State.putFrame
  repeat' first
    | with_reducible assumption
    | with_reducible refine Keeps.ite ?_ ?_
    | with_reducible refine Keeps.iteC ?_ ?_
    | with_reducible refine Keeps.foldl ?_ (fun t x ht => ?_)
    | with_reducible refine State.setPort_keeps hP ?_

theorem State.sendFrame_keeps {s : State} {a1 : _} {a2 : _} (h : P s) :
    P (State.sendFrame s a1 a2) := by
  unfold State.sendFrame
  repeat' first
    | with_reducible assumption
    | with_reducible refine Keeps.ite ?_ ?_
    | with_reducible refine Keeps.iteC ?_ ?_
    | with_reducible refine Keeps.foldl ?_ (fun t x ht => ?_)
    | with_reducible refine State.setPort_keeps hP ?_
    | with_reducible refine State.putFrame_keeps hP ?_
    | with_reducible refine Keeps.pair (by assumption) ?_
    | with_reducible refine Keeps.pair1 (by assumption) ?_
    | fail_if_no_progress with_reducible refine Keeps.mk hP ?_
    | split

theorem State.intoStream_keeps {s : State} {a1 : _} {a2 : _} (h : P s) :
    P (State.intoStream s a1 a2) := by
  unfold State.intoStream
  repeat' first
    | with_reducible assumption
    | with_reducible refine Keeps.ite ?_ ?_
    | with_reducible refine Keeps.iteC ?_ ?_
    | with_reducible refine Keeps.foldl ?_ (fun t x ht => ?_)
    | with_reducible refine State.setPort_keeps hP ?_
    | with_reducible refine State.sendFrame_keeps hP ?_

theorem State.flushStream_keeps {s : State} {a1 : _} (h : P s) :
    P (State.flushStream s a1) := by
  unfold State.flushStream
  repeat' first
    | with_reducible assumption
    | with_reducible refine Keeps.ite ?_ ?_
    | with_reducible refine Keeps.iteC ?_ ?_
    | with_reducible refine Keeps.foldl ?_ (fun t x ht => ?_)
    | with_reducible refine State.draw_keeps hP ?_
    | with_reducible refine State.setPort_keeps hP ?_
    | with_reducible refine State.sendFrame_keeps hP ?_

theorem State.sendQueued_keeps {s : State} {a1 : _} {a2 : _} {a3 : _} {a4 : _} {a5 : _} (h : P s) :
    P (State.sendQueued s a1 a2 a3 a4 a5) := by
  unfold State.sendQueued
  repeat' first
    | with_reducible assumption
    | with_reducible refine Keeps.ite ?_ ?_
    | with_reducible refine Keeps.iteC ?_ ?_
    | with_reducible refine Keeps.foldl ?_ (fun t x ht => ?_)
    | with_reducible refine State.setPort_keeps hP ?_
    | with_reducible refine State.intoStream_keeps hP ?_

theorem State.drr_keeps {s : State} {a1 : _} {a2 : _} (h : P s) :
    ∀ x, State.drr s a1 a2 = some x → P x := by
  induction a2 generalizing s a1
  · simp only [State.drr]
    repeat' first
      | with_reducible assumption
      | with_reducible refine Keeps.ite ?_ ?_
      | with_reducible exact Keeps.oNone
  · rename_i ih
    simp only [State.drr]
    repeat' first
      | with_reducible assumption
      | with_reducible refine Keeps.ite ?_ ?_
      | with_reducible exact Keeps.oNone
      | with_reducible refine Keeps.oSome ?_
      | with_reducible refine Keeps.oMap (fun x hx => ?_)
      | with_reducible refine Keeps.oIte ?_ ?_
      | with_reducible refine Keeps.foldl ?_ (fun t x ht => ?_)
      | with_reducible refine State.sendQueued_keeps hP ?_
      | with_reducible refine State.setPort_keeps hP ?_
      | with_reducible refine ih ?_
      | with_reducible refine Keeps.pair (by assumption) ?_
      | with_reducible refine Keeps.pair1 (by assumption) ?_
      | fail_if_no_progress with_reducible refine Keeps.mk hP ?_
      | split

theorem State.sendOne_keeps {s : State} {a1 : _} (h : P s) :
    ∀ x, State.sendOne s a1 = some x → P x := by
  unfold State.sendOne
  repeat' first
    | with_reducible assumption
    | with_reducible exact Keeps.oNone
    | with_reducible refine Keeps.oSome ?_
    | with_reducible refine Keeps.oMap (fun x hx => ?_)
    | with_reducible refine Keeps.oIte ?_ ?_
    | with_reducible refine Keeps.ite ?_ ?_
    | with_reducible refine Keeps.iteC ?_ ?_
    | with_reducible refine Keeps.foldl ?_ (fun t x ht => ?_)
    | with_reducible refine State.sendQueued_keeps hP ?_
    | with_reducible refine State.bump_keeps hP ?_
    | with_reducible refine State.setPort_keeps hP ?_
    | with_reducible refine Keeps.ofSome (State.drr_keeps hP ?_) (by assumption)
    | with_reducible refine State.drr_keeps hP ?_
    | with_reducible refine State.putFrame_keeps hP ?_
    | with_reducible refine Keeps.pair (by assumption) ?_
    | with_reducible refine Keeps.pair1 (by assumption) ?_
    | fail_if_no_progress with_reducible refine Keeps.mk hP ?_
    | split

theorem State.noteWaits_keeps {s : State} {a1 : _} (h : P s) :
    P (State.noteWaits s a1) := by
  unfold State.noteWaits
  repeat' first
    | with_reducible assumption
    | with_reducible refine Keeps.ite ?_ ?_
    | with_reducible refine Keeps.foldl ?_ (fun t x ht => ?_)
    | with_reducible refine State.setPort_keeps hP ?_

theorem State.pumpPort_keeps {s : State} {a1 : _} {a2 : _} (h : P s) :
    P (State.pumpPort s a1 a2) := by
  induction a2 generalizing s a1
  · simp only [State.pumpPort]
    repeat' first
      | with_reducible assumption
      | with_reducible refine Keeps.ite ?_ ?_
      | with_reducible refine Keeps.iteC ?_ ?_
      | with_reducible refine Keeps.foldl ?_ (fun t x ht => ?_)
      | with_reducible refine State.flushStream_keeps hP ?_
      | with_reducible refine State.noteWaits_keeps hP ?_
  · rename_i ih
    simp only [State.pumpPort]
    repeat' first
      | with_reducible assumption
      | with_reducible refine Keeps.ite ?_ ?_
      | with_reducible refine Keeps.iteC ?_ ?_
      | with_reducible refine Keeps.foldl ?_ (fun t x ht => ?_)
      | with_reducible refine State.flushStream_keeps hP ?_
      | with_reducible refine State.noteWaits_keeps hP ?_
      | with_reducible refine Keeps.ofSome (State.sendOne_keeps hP ?_) (by assumption)
      | with_reducible refine ih ?_
      | with_reducible refine Keeps.pair (by assumption) ?_
      | with_reducible refine Keeps.pair1 (by assumption) ?_
      | fail_if_no_progress with_reducible refine Keeps.mk hP ?_
      | split

theorem State.pushOut_keeps {s : State} {a1 : _} {a2 : _} (h : P s) :
    P (State.pushOut s a1 a2) := by
  unfold State.pushOut
  repeat' first
    | with_reducible assumption
    | with_reducible refine Keeps.ite ?_ ?_
    | with_reducible refine Keeps.foldl ?_ (fun t x ht => ?_)
    | with_reducible refine State.pumpPort_keeps hP ?_
    | with_reducible refine State.setPort_keeps hP ?_

theorem State.fillBucket_keeps {s : State} {a1 : _} (h : P s) :
    P (State.fillBucket s a1) := by
  unfold State.fillBucket
  repeat' first
    | with_reducible assumption
    | with_reducible refine Keeps.ite ?_ ?_
    | with_reducible refine Keeps.foldl ?_ (fun t x ht => ?_)
    | with_reducible refine State.setPort_keeps hP ?_

theorem State.throughBucket_keeps {s : State} {a1 : _} {a2 : _} (h : P s) :
    P (State.throughBucket s a1 a2) := by
  unfold State.throughBucket
  repeat' first
    | with_reducible assumption
    | with_reducible refine Keeps.ite ?_ ?_
    | with_reducible refine Keeps.iteC ?_ ?_
    | with_reducible refine Keeps.foldl ?_ (fun t x ht => ?_)
    | with_reducible refine State.bump_keeps hP ?_
    | with_reducible refine State.setPort_keeps hP ?_
    | with_reducible refine State.pushOut_keeps hP ?_
    | with_reducible refine State.fillBucket_keeps hP ?_

theorem State.dmaMod_keeps {s : State} {a1 : _} {a2 : _} {a3 : _} (h : P s) :
    P (State.dmaMod s a1 a2 a3) := by
  unfold State.dmaMod
  repeat' first
    | with_reducible assumption
    | with_reducible refine Keeps.ite ?_ ?_
    | with_reducible refine Keeps.foldl ?_ (fun t x ht => ?_)
    | with_reducible refine State.setTile_keeps hP ?_

theorem State.endReq_keeps {s : State} {a1 : _} {a2 : _} {a3 : _} (h : P s) :
    P (State.endReq s a1 a2 a3) := by
  unfold State.endReq
  repeat' first
    | with_reducible assumption
    | with_reducible refine Keeps.ite ?_ ?_
    | with_reducible refine Keeps.foldl ?_ (fun t x ht => ?_)
    | with_reducible refine State.dmaMod_keeps hP ?_
    | with_reducible refine Keeps.pair (by assumption) ?_
    | with_reducible refine Keeps.pair1 (by assumption) ?_
    | fail_if_no_progress with_reducible refine Keeps.mk hP ?_

theorem State.countUnreachable_keeps {s : State} (h : P s) :
    P (State.countUnreachable s) := by
  unfold State.countUnreachable
  repeat' first
    | with_reducible assumption
    | with_reducible refine Keeps.ite ?_ ?_
    | with_reducible refine Keeps.iteC ?_ ?_
    | with_reducible refine Keeps.foldl ?_ (fun t x ht => ?_)
    | with_reducible refine State.bump_keeps hP ?_
    | with_reducible refine Keeps.pair (by assumption) ?_
    | with_reducible refine Keeps.pair1 (by assumption) ?_
    | fail_if_no_progress with_reducible refine Keeps.mk hP ?_

theorem State.noRoute_keeps {s : State} {a1 : _} {a2 : _} (h : P s) (hb2 : ∀ t x1, P t → P (a2 t x1)) :
    P (State.noRoute s a1 a2) := by
  unfold State.noRoute
  repeat' first
    | with_reducible assumption
    | with_reducible refine Keeps.ite ?_ ?_
    | with_reducible refine Keeps.iteC ?_ ?_
    | with_reducible refine Keeps.foldl ?_ (fun t x ht => ?_)
    | with_reducible refine State.endReq_keeps hP ?_
    | with_reducible refine State.countUnreachable_keeps hP ?_
    | with_reducible refine hb2 _ _ ?_
    | with_reducible refine Keeps.pair (by assumption) ?_
    | with_reducible refine Keeps.pair1 (by assumption) ?_
    | fail_if_no_progress with_reducible refine Keeps.mk hP ?_
    | split

theorem State.dispatchPkt_keeps {s : State} {a1 : _} {a2 : _} (h : P s) :
    P (State.dispatchPkt s a1 a2) := by
  induction a2 generalizing s a1
  · simp only [State.dispatchPkt]
    repeat' first
      | with_reducible assumption
  · rename_i ih
    simp only [State.dispatchPkt]
    repeat' first
      | with_reducible assumption
      | with_reducible refine Keeps.ite ?_ ?_
      | with_reducible refine Keeps.iteC ?_ ?_
      | with_reducible refine Keeps.foldl ?_ (fun t x ht => ?_)
      | with_reducible refine State.noRoute_keeps hP ?_ (fun t x1 ht => ?_)
      | with_reducible refine State.pushOut_keeps hP ?_
      | with_reducible refine State.throughBucket_keeps hP ?_
      | with_reducible refine ih ?_
      | with_reducible refine Keeps.pair (by assumption) ?_
      | with_reducible refine Keeps.pair1 (by assumption) ?_
      | fail_if_no_progress with_reducible refine Keeps.mk hP ?_
      | split

theorem State.sendPkt_keeps {s : State} {a1 : _} (h : P s) :
    P (State.sendPkt s a1) := by
  unfold State.sendPkt
  repeat' first
    | with_reducible assumption
    | with_reducible refine Keeps.ite ?_ ?_
    | with_reducible refine Keeps.iteC ?_ ?_
    | with_reducible refine Keeps.foldl ?_ (fun t x ht => ?_)
    | with_reducible refine State.dispatchPkt_keeps hP ?_

theorem State.forward_keeps {s : State} {a1 : _} {a2 : _} (h : P s) :
    P (State.forward s a1 a2) := by
  unfold State.forward
  repeat' first
    | with_reducible assumption
    | with_reducible refine Keeps.ite ?_ ?_
    | with_reducible refine Keeps.iteC ?_ ?_
    | with_reducible refine Keeps.foldl ?_ (fun t x ht => ?_)
    | with_reducible refine State.bump_keeps hP ?_
    | with_reducible refine State.dispatchPkt_keeps hP ?_

theorem State.ruleDrop_keeps {s : State} (h : P s) :
    P (State.ruleDrop s) := by
  unfold State.ruleDrop
  repeat' first
    | with_reducible assumption
    | with_reducible refine Keeps.ite ?_ ?_
    | with_reducible refine Keeps.foldl ?_ (fun t x ht => ?_)
    | with_reducible refine State.bump_keeps hP ?_

theorem State.sendReq_keeps {s : State} {a1 : _} {a2 : _} {a3 : _} {a4 : _} {a5 : _} (h : P s) :
    P (State.sendReq s a1 a2 a3 a4 a5) := by
  unfold State.sendReq
  repeat' first
    | with_reducible assumption
    | with_reducible refine Keeps.ite ?_ ?_
    | with_reducible refine Keeps.foldl ?_ (fun t x ht => ?_)
    | with_reducible refine State.sendPkt_keeps hP ?_
    | with_reducible refine State.dmaMod_keeps hP ?_
    | with_reducible refine Keeps.pair (by assumption) ?_
    | with_reducible refine Keeps.pair1 (by assumption) ?_
    | fail_if_no_progress with_reducible refine Keeps.mk hP ?_

theorem State.mcgWrite_keeps {s : State} {a1 : _} {a2 : _} (h : P s) :
    P (State.mcgWrite s a1 a2) := by
  unfold State.mcgWrite
  repeat' first
    | with_reducible assumption
    | with_reducible refine Keeps.ite ?_ ?_
    | with_reducible refine Keeps.iteC ?_ ?_
    | with_reducible refine Keeps.foldl ?_ (fun t x ht => ?_)
    | with_reducible refine Keeps.pair (by assumption) ?_
    | with_reducible refine Keeps.pair1 (by assumption) ?_
    | fail_if_no_progress with_reducible refine Keeps.mk hP ?_

theorem State.mcPlanes_keeps {s : State} {a1 : _} {a2 : _} {a3 : _} {a4 : _} {a5 : _} (h : P s) :
    P (State.mcPlanes s a1 a2 a3 a4 a5).1 := by
  induction a3 generalizing s a1 a2 a4 a5
  · simp only [State.mcPlanes]
    repeat' first
      | with_reducible assumption
  · rename_i ih
    simp only [State.mcPlanes]
    repeat' first
      | with_reducible assumption
      | with_reducible refine Keeps.ite ?_ ?_
      | with_reducible refine Keeps.iteC ?_ ?_
      | with_reducible refine Keeps.foldl ?_ (fun t x ht => ?_)
      | with_reducible refine State.pushOut_keeps hP ?_
      | with_reducible refine State.throughBucket_keeps hP ?_
      | with_reducible refine ih ?_
      | with_reducible refine Keeps.pair (by assumption) ?_
      | with_reducible refine Keeps.pair1 (by assumption) ?_
      | fail_if_no_progress with_reducible refine Keeps.mk hP ?_
      | split

theorem State.mcSpread_keeps {s : State} {a1 : _} {a2 : _} {a3 : _} (h : P s) :
    P (State.mcSpread s a1 a2 a3) := by
  unfold State.mcSpread
  repeat' first
    | with_reducible assumption
    | with_reducible refine Keeps.ite ?_ ?_
    | with_reducible refine Keeps.iteC ?_ ?_
    | with_reducible refine Keeps.foldl ?_ (fun t x ht => ?_)
    | with_reducible refine Keeps.foldl2 ?_ (fun b t x ht => ?_)
    | with_reducible refine State.sendPkt_keeps hP ?_
    | with_reducible refine State.mcPlanes_keeps hP ?_

theorem State.multicast_keeps {s : State} {a1 : _} {a2 : _} {a3 : _} (h : P s) :
    P (State.multicast s a1 a2 a3) := by
  unfold State.multicast
  repeat' first
    | with_reducible assumption
    | with_reducible refine Keeps.ite ?_ ?_
    | with_reducible refine Keeps.iteC ?_ ?_
    | with_reducible refine Keeps.foldl ?_ (fun t x ht => ?_)
    | with_reducible refine State.mcSpread_keeps hP ?_
    | with_reducible refine Keeps.pair (by assumption) ?_
    | with_reducible refine Keeps.pair1 (by assumption) ?_
    | fail_if_no_progress with_reducible refine Keeps.mk hP ?_

theorem State.reroute_keeps {s : State} {a1 : _} (h : P s) :
    P (State.reroute s a1) := by
  unfold State.reroute
  repeat' first
    | with_reducible assumption
    | with_reducible refine Keeps.ite ?_ ?_
    | with_reducible refine Keeps.iteC ?_ ?_
    | with_reducible refine Keeps.foldl ?_ (fun t x ht => ?_)
    | with_reducible refine State.mcSpread_keeps hP ?_
    | with_reducible refine State.dispatchPkt_keeps hP ?_

theorem State.requeue_keeps {s : State} {a1 : _} (h : P s) :
    P (State.requeue s a1) := by
  unfold State.requeue
  repeat' first
    | with_reducible assumption
    | with_reducible refine Keeps.ite ?_ ?_
    | with_reducible refine Keeps.iteC ?_ ?_
    | with_reducible refine Keeps.foldl ?_ (fun t x ht => ?_)
    | with_reducible refine Keeps.foldl2 ?_ (fun b t x ht => ?_)
    | with_reducible refine State.setPort_keeps hP ?_
    | with_reducible refine State.reroute_keeps hP ?_
    | with_reducible refine State.noteWaits_keeps hP ?_

end Sys2Proof.Machine
end

