-- ==== Sys2Proof/Laws/Keep/Dma.lean ====
section
/-! SUPPORT. Every operation of Machine/Dma.lean keeps a closed predicate (see Laws/Keep.lean). -/

namespace Sys2Proof.Machine

variable {P : State → Prop} (hP : Closed P)
include hP

theorem State.dmaIssue_keeps {s : State} {a1 : _} {a2 : _} (h : P s) :
    P (State.dmaIssue s a1 a2) := by
  unfold State.dmaIssue
  repeat' first
    | with_reducible assumption
    | with_reducible refine Keeps.ite ?_ ?_
    | with_reducible refine Keeps.foldl ?_ (fun t x ht => ?_)
    | with_reducible refine State.trap_keeps hP ?_
    | with_reducible refine State.advance_keeps hP ?_
    | with_reducible refine State.setTile_keeps hP ?_
    | with_reducible refine Keeps.pair (by assumption) ?_
    | with_reducible refine Keeps.pair1 (by assumption) ?_
    | fail_if_no_progress with_reducible refine Keeps.mk hP ?_
    | split

theorem execDmaCopy_keeps {a0 : _} {s : State} (h : P s) :
    ∀ t, execDmaCopy a0 s = .next t → P t := by
  unfold execDmaCopy
  refine Keeps.next ?_
  repeat' first
    | with_reducible assumption
    | with_reducible refine Keeps.ite ?_ ?_
    | with_reducible refine Keeps.foldl ?_ (fun t x ht => ?_)
    | with_reducible refine State.issue_keeps hP ?_ (fun t x1 ht => ?_)
    | with_reducible refine State.dmaIssue_keeps hP ?_

theorem execDmaCopy2_keeps {a0 : _} {s : State} (h : P s) :
    ∀ t, execDmaCopy2 a0 s = .next t → P t := by
  unfold execDmaCopy2
  refine Keeps.next ?_
  repeat' first
    | with_reducible assumption
    | with_reducible refine Keeps.ite ?_ ?_
    | with_reducible refine Keeps.foldl ?_ (fun t x ht => ?_)
    | with_reducible refine State.issue_keeps hP ?_ (fun t x1 ht => ?_)
    | with_reducible refine State.dmaIssue_keeps hP ?_

theorem State.dmaRead_keeps {s : State} {a1 : _} {a2 : _} (h : P s) :
    P (State.dmaRead s a1 a2).2 := by
  induction a2 generalizing s a1
  · simp only [State.dmaRead]
    repeat' first
      | with_reducible assumption
  · rename_i ih
    simp only [State.dmaRead]
    repeat' first
      | with_reducible assumption
      | with_reducible refine Keeps.ite ?_ ?_
      | with_reducible refine Keeps.foldl ?_ (fun t x ht => ?_)
      | with_reducible refine State.memRead_keeps hP ?_
      | with_reducible refine ih ?_
      | with_reducible refine Keeps.pair (by assumption) ?_
      | with_reducible refine Keeps.pair1 (by assumption) ?_
      | fail_if_no_progress with_reducible refine Keeps.mk hP ?_
      | split

theorem State.setDma_keeps {s : State} {a1 : _} {a2 : _} {a3 : _} (h : P s) :
    P (State.setDma s a1 a2 a3) := by
  unfold State.setDma
  repeat' first
    | with_reducible assumption
    | with_reducible refine Keeps.ite ?_ ?_
    | with_reducible refine Keeps.foldl ?_ (fun t x ht => ?_)
    | with_reducible refine State.setTile_keeps hP ?_

theorem State.dmaAsk_keeps {s : State} {a1 : _} {a2 : _} {a3 : _} {a4 : _} {a5 : _} (h : P s) :
    P (State.dmaAsk s a1 a2 a3 a4 a5) := by
  unfold State.dmaAsk
  repeat' first
    | with_reducible assumption
    | with_reducible refine Keeps.ite ?_ ?_
    | with_reducible refine Keeps.foldl ?_ (fun t x ht => ?_)
    | with_reducible refine State.sendReq_keeps hP ?_

theorem State.dmaSend_keeps {s : State} {a1 : _} {a2 : _} {a3 : _} {a4 : _} {a5 : _} (h : P s) :
    P (State.dmaSend s a1 a2 a3 a4 a5) := by
  induction a5 generalizing s a1 a2 a3 a4
  · simp only [State.dmaSend]
    repeat' first
      | with_reducible assumption
  · rename_i ih
    simp only [State.dmaSend]
    repeat' first
      | with_reducible assumption
      | with_reducible refine Keeps.ite ?_ ?_
      | with_reducible refine Keeps.iteC ?_ ?_
      | with_reducible refine Keeps.foldl ?_ (fun t x ht => ?_)
      | with_reducible refine State.dmaMod_keeps hP ?_
      | with_reducible refine State.dmaAsk_keeps hP ?_
      | with_reducible refine ih ?_

theorem State.dmaMore_keeps {s : State} {a1 : _} {a2 : _} (h : P s) :
    P (State.dmaMore s a1 a2) := by
  unfold State.dmaMore
  repeat' first
    | with_reducible assumption
    | with_reducible refine Keeps.ite ?_ ?_
    | with_reducible refine Keeps.iteC ?_ ?_
    | with_reducible refine Keeps.foldl ?_ (fun t x ht => ?_)
    | with_reducible refine State.dmaSend_keeps hP ?_
    | with_reducible refine Keeps.pair (by assumption) ?_
    | with_reducible refine Keeps.pair1 (by assumption) ?_
    | fail_if_no_progress with_reducible refine Keeps.mk hP ?_
    | split

theorem State.dmaAll_keeps {s : State} (h : P s) : P s.dmaAll :=
  Keeps.foldl h fun _ _ ht => State.dmaMore_keeps hP (State.dmaMore_keeps hP ht)

theorem State.dmaGoOn_keeps {s : State} {a1 : _} {a2 : _} (h : P s) :
    P (State.dmaGoOn s a1 a2) := State.dmaAll_keeps hP (State.dmaMore_keeps hP h)

theorem State.dmaStart_keeps {s : State} {a1 : _} {a2 : _} {a3 : _} {a4 : _} (h : P s) :
    P (State.dmaStart s a1 a2 a3 a4) := by
  unfold State.dmaStart
  repeat' first
    | with_reducible assumption
    | with_reducible refine Keeps.ite ?_ ?_
    | with_reducible refine Keeps.iteC ?_ ?_
    | with_reducible refine Keeps.foldl ?_ (fun t x ht => ?_)
    | with_reducible refine State.dmaSend_keeps hP ?_
    | with_reducible refine State.setDma_keeps hP ?_
    | with_reducible refine State.dmaMod_keeps hP ?_
    | with_reducible refine State.dmaRead_keeps hP ?_
    | with_reducible refine Keeps.pair (by assumption) ?_
    | with_reducible refine Keeps.pair1 (by assumption) ?_
    | fail_if_no_progress with_reducible refine Keeps.mk hP ?_
    | split

theorem execDmaTransferStart_keeps {a0 : _} {a1 : _} {s : State} (h : P s) :
    ∀ t, execDmaTransferStart a0 a1 s = .next t → P t := by
  unfold execDmaTransferStart
  refine Keeps.next ?_
  repeat' first
    | with_reducible assumption
    | with_reducible refine Keeps.ite ?_ ?_
    | with_reducible refine Keeps.foldl ?_ (fun t x ht => ?_)
    | with_reducible refine State.dmaStart_keeps hP ?_
    | with_reducible refine Keeps.pair (by assumption) ?_
    | with_reducible refine Keeps.pair1 (by assumption) ?_
    | fail_if_no_progress with_reducible refine Keeps.mk hP ?_
    | split

theorem State.dmaWrite_keeps {s : State} {a1 : _} {a2 : _} {a3 : _} (h : P s) :
    P (State.dmaWrite s a1 a2 a3).2 := by
  induction a3 generalizing s a1 a2
  · simp only [State.dmaWrite]
    repeat' first
      | with_reducible assumption
  · rename_i ih
    simp only [State.dmaWrite]
    repeat' first
      | with_reducible assumption
      | with_reducible refine Keeps.ite ?_ ?_
      | with_reducible refine Keeps.foldl ?_ (fun t x ht => ?_)
      | with_reducible refine State.memWrite_keeps hP ?_
      | with_reducible refine ih ?_
      | with_reducible refine Keeps.pair (by assumption) ?_
      | with_reducible refine Keeps.pair1 (by assumption) ?_
      | fail_if_no_progress with_reducible refine Keeps.mk hP ?_
      | split

theorem execDmaTransferDone_keeps {a0 : _} {a1 : _} {s : State} (h : P s) :
    ∀ t, execDmaTransferDone a0 a1 s = .next t → P t := by
  unfold execDmaTransferDone
  refine Keeps.next ?_
  repeat' first
    | with_reducible assumption
    | with_reducible refine Keeps.ite ?_ ?_
    | with_reducible refine Keeps.iteC ?_ ?_
    | with_reducible refine Keeps.foldl ?_ (fun t x ht => ?_)
    | with_reducible refine State.setDma_keeps hP ?_
    | with_reducible refine State.dmaMod_keeps hP ?_
    | with_reducible refine State.dmaWrite_keeps hP ?_
    | with_reducible refine State.ctrAdd_keeps hP ?_
    | with_reducible refine Keeps.pair (by assumption) ?_
    | with_reducible refine Keeps.pair1 (by assumption) ?_
    | fail_if_no_progress with_reducible refine Keeps.mk hP ?_
    | split
    | dsimp only

end Sys2Proof.Machine
end

