-- ==== Sys2Proof/Laws/Keep/Links.lean ====
section
/-! SUPPORT. Every operation of Machine/Links.lean keeps a closed predicate (see Laws/Keep.lean). -/

namespace Sys2Proof.Machine

variable {P : State → Prop} (hP : Closed P)
include hP

theorem State.sendCtrl_keeps {s : State} {a1 : _} {a2 : _} {a3 : _} (h : P s) :
    P (State.sendCtrl s a1 a2 a3) := by
  unfold State.sendCtrl
  repeat' first
    | with_reducible assumption
    | with_reducible refine Keeps.ite ?_ ?_
    | with_reducible refine Keeps.foldl ?_ (fun t x ht => ?_)
    | with_reducible refine State.sendFrame_keeps hP ?_

theorem State.wantFrame_keeps {s : State} {a1 : _} (h : P s) :
    P (State.wantFrame s a1) := by
  unfold State.wantFrame
  repeat' first
    | with_reducible assumption
    | with_reducible refine Keeps.ite ?_ ?_
    | with_reducible refine Keeps.iteC ?_ ?_
    | with_reducible refine Keeps.foldl ?_ (fun t x ht => ?_)
    | with_reducible refine State.sendCtrl_keeps hP ?_
    | with_reducible refine State.setPort_keeps hP ?_

theorem State.askFrame_keeps {s : State} {a1 : _} (h : P s) :
    P (State.askFrame s a1) := by
  unfold State.askFrame
  repeat' first
    | with_reducible assumption
    | with_reducible refine Keeps.ite ?_ ?_
    | with_reducible refine Keeps.iteC ?_ ?_
    | with_reducible refine Keeps.foldl ?_ (fun t x ht => ?_)
    | with_reducible refine State.wantFrame_keeps hP ?_

theorem State.frameAcked_keeps {s : State} {a1 : _} {a2 : _} (h : P s) :
    P (State.frameAcked s a1 a2) := by
  unfold State.frameAcked
  repeat' first
    | with_reducible assumption
    | with_reducible refine Keeps.ite ?_ ?_
    | with_reducible refine Keeps.iteC ?_ ?_
    | with_reducible refine Keeps.foldl ?_ (fun t x ht => ?_)
    | with_reducible refine State.setPort_keeps hP ?_

theorem State.frameHeader_keeps {s : State} {a1 : _} {a2 : _} (h : P s) :
    P (State.frameHeader s a1 a2) := by
  unfold State.frameHeader
  repeat' first
    | with_reducible assumption
    | with_reducible refine Keeps.ite ?_ ?_
    | with_reducible refine Keeps.foldl ?_ (fun t x ht => ?_)
    | with_reducible refine State.frameAcked_keeps hP ?_
    | with_reducible refine State.setPort_keeps hP ?_

theorem State.goodWord_keeps {s : State} {a1 : _} {a2 : _} (h : P s) :
    P (State.goodWord s a1 a2) := by
  unfold State.goodWord
  repeat' first
    | with_reducible assumption
    | with_reducible refine Keeps.ite ?_ ?_
    | with_reducible refine Keeps.iteC ?_ ?_
    | with_reducible refine Keeps.foldl ?_ (fun t x ht => ?_)
    | with_reducible refine State.setPort_keeps hP ?_
    | with_reducible refine State.traffic_keeps hP ?_

theorem State.rxFrame_keeps {s : State} {a1 : _} {a2 : _} {a3 : _} (h : P s) :
    P (State.rxFrame s a1 a2 a3).2 := by
  unfold State.rxFrame
  repeat' first
    | with_reducible assumption
    | with_reducible refine Keeps.ite ?_ ?_
    | with_reducible refine Keeps.iteC ?_ ?_
    | with_reducible refine Keeps.foldl ?_ (fun t x ht => ?_)
    | with_reducible refine State.bump_keeps hP ?_
    | with_reducible refine State.setPort_keeps hP ?_
    | with_reducible refine State.goodWord_keeps hP ?_
    | with_reducible refine State.frameHeader_keeps hP ?_
    | with_reducible refine State.wantFrame_keeps hP ?_
    | with_reducible refine State.askFrame_keeps hP ?_

theorem State.setLaneMask_keeps {s : State} {a1 : _} {a2 : _} (h : P s) :
    P (State.setLaneMask s a1 a2) := by
  unfold State.setLaneMask
  repeat' first
    | with_reducible assumption
    | with_reducible refine Keeps.ite ?_ ?_
    | with_reducible refine Keeps.foldl ?_ (fun t x ht => ?_)
    | with_reducible refine State.fset_keeps hP ?_

theorem State.setLockMask_keeps {s : State} {a1 : _} {a2 : _} (h : P s) :
    P (State.setLockMask s a1 a2) := by
  unfold State.setLockMask
  repeat' first
    | with_reducible assumption
    | with_reducible refine Keeps.ite ?_ ?_
    | with_reducible refine Keeps.foldl ?_ (fun t x ht => ?_)
    | with_reducible refine State.fset_keeps hP ?_

theorem State.setParked_keeps {s : State} {a1 : _} {a2 : _} (h : P s) :
    P (State.setParked s a1 a2) := by
  unfold State.setParked
  repeat' first
    | with_reducible assumption
    | with_reducible refine Keeps.ite ?_ ?_
    | with_reducible refine Keeps.foldl ?_ (fun t x ht => ?_)
    | with_reducible refine State.fset_keeps hP ?_

theorem State.portDark_keeps {s : State} {a1 : _} (h : P s) :
    P (State.portDark s a1) := by
  unfold State.portDark
  repeat' first
    | with_reducible assumption
    | with_reducible refine Keeps.ite ?_ ?_
    | with_reducible refine Keeps.iteC ?_ ?_
    | with_reducible refine Keeps.foldl ?_ (fun t x ht => ?_)
    | with_reducible refine State.setPort_keeps hP ?_
    | with_reducible refine State.setLockMask_keeps hP ?_
    | with_reducible refine State.fset_keeps hP ?_
    | with_reducible refine State.setLaneMask_keeps hP ?_

theorem State.trainFail_keeps {s : State} {a1 : _} (h : P s) :
    P (State.trainFail s a1) := by
  unfold State.trainFail
  repeat' first
    | with_reducible assumption
    | with_reducible refine Keeps.ite ?_ ?_
    | with_reducible refine Keeps.foldl ?_ (fun t x ht => ?_)
    | with_reducible refine State.bump_keeps hP ?_
    | with_reducible refine State.setPortState_keeps hP ?_
    | with_reducible refine State.portDark_keeps hP ?_

theorem State.portLost_keeps {s : State} {a1 : _} {a2 : _} {a3 : _} (h : P s) :
    P (State.portLost s a1 a2 a3) := by
  unfold State.portLost
  repeat' first
    | with_reducible assumption
    | with_reducible refine Keeps.ite ?_ ?_
    | with_reducible refine Keeps.iteC ?_ ?_
    | with_reducible refine Keeps.foldl ?_ (fun t x ht => ?_)
    | with_reducible refine State.bump_keeps hP ?_
    | with_reducible refine State.setPort_keeps hP ?_
    | with_reducible refine State.setPortState_keeps hP ?_
    | with_reducible refine State.report_keeps hP ?_
    | with_reducible refine State.requeue_keeps hP ?_
    | with_reducible refine State.event_keeps hP ?_
    | with_reducible refine State.portDark_keeps hP ?_

theorem State.portDown_keeps {s : State} {a1 : _} {a2 : _} {a3 : _} (h : P s) :
    P (State.portDown s a1 a2 a3) := by
  unfold State.portDown
  repeat' first
    | with_reducible assumption
    | with_reducible refine Keeps.ite ?_ ?_
    | with_reducible refine Keeps.iteC ?_ ?_
    | with_reducible refine Keeps.foldl ?_ (fun t x ht => ?_)
    | with_reducible refine State.portLost_keeps hP ?_

theorem State.sayDown_keeps {s : State} {a1 : _} {a2 : _} (h : P s) :
    P (State.sayDown s a1 a2) := by
  unfold State.sayDown
  repeat' first
    | with_reducible assumption
    | with_reducible refine Keeps.ite ?_ ?_
    | with_reducible refine Keeps.iteC ?_ ?_
    | with_reducible refine Keeps.foldl ?_ (fun t x ht => ?_)
    | with_reducible refine State.sendCtrl_keeps hP ?_

theorem State.sendMarker_keeps {s : State} {a1 : _} {a2 : _} (h : P s) :
    P (State.sendMarker s a1 a2) := by
  unfold State.sendMarker
  repeat' first
    | with_reducible assumption
    | with_reducible refine Keeps.ite ?_ ?_
    | with_reducible refine Keeps.iteC ?_ ?_
    | with_reducible refine Keeps.foldl ?_ (fun t x ht => ?_)
    | with_reducible refine Keeps.foldl2 ?_ (fun b t x ht => ?_)
    | with_reducible refine State.draw_keeps hP ?_
    | with_reducible refine State.setPort_keeps hP ?_

theorem execSignalDetect_keeps {a0 : _} {s : State} (h : P s) :
    ∀ t, execSignalDetect a0 s = .next t → P t := by
  unfold execSignalDetect
  refine Keeps.next ?_
  repeat' first
    | with_reducible assumption
    | with_reducible refine Keeps.ite ?_ ?_
    | with_reducible refine Keeps.iteC ?_ ?_
    | with_reducible refine Keeps.foldl ?_ (fun t x ht => ?_)
    | with_reducible refine Keeps.foldl2 ?_ (fun b t x ht => ?_)
    | with_reducible refine State.setPort_keeps hP ?_
    | with_reducible refine State.setPortState_keeps hP ?_
    | with_reducible refine State.sendMarker_keeps hP ?_

theorem State.serveLanes_keeps {s : State} {a1 : _} {a2 : _} (h : P s) :
    P (State.serveLanes s a1 a2) := by
  unfold State.serveLanes
  repeat' first
    | with_reducible assumption
    | with_reducible refine Keeps.ite ?_ ?_
    | with_reducible refine Keeps.iteC ?_ ?_
    | with_reducible refine Keeps.foldl ?_ (fun t x ht => ?_)
    | with_reducible refine State.setPort_keeps hP ?_
    | with_reducible refine State.fset_keeps hP ?_
    | with_reducible refine State.setLaneMask_keeps hP ?_

theorem State.toLock_keeps {s : State} {a1 : _} (h : P s) :
    P (State.toLock s a1) := by
  unfold State.toLock
  repeat' first
    | with_reducible assumption
    | with_reducible refine Keeps.ite ?_ ?_
    | with_reducible refine Keeps.iteC ?_ ?_
    | with_reducible refine Keeps.foldl ?_ (fun t x ht => ?_)
    | with_reducible refine State.setLockMask_keeps hP ?_
    | with_reducible refine State.trainFail_keeps hP ?_
    | with_reducible refine State.setPortState_keeps hP ?_
    | with_reducible refine State.serveLanes_keeps hP ?_

theorem execTrainingMarker_keeps {a0 : _} {a1 : _} {a2 : _} {s : State} (h : P s) :
    ∀ t, execTrainingMarker a0 a1 a2 s = .next t → P t := by
  unfold execTrainingMarker
  refine Keeps.next ?_
  repeat' first
    | with_reducible assumption
    | with_reducible refine Keeps.ite ?_ ?_
    | with_reducible refine Keeps.iteC ?_ ?_
    | with_reducible refine Keeps.foldl ?_ (fun t x ht => ?_)
    | with_reducible refine State.setPort_keeps hP ?_
    | with_reducible refine State.toLock_keeps hP ?_
    | with_reducible refine State.sendMarker_keeps hP ?_

theorem execTrainLimit_keeps {a0 : _} {s : State} (h : P s) :
    ∀ t, execTrainLimit a0 s = .next t → P t := by
  unfold execTrainLimit
  refine Keeps.next ?_
  repeat' first
    | with_reducible assumption
    | with_reducible refine Keeps.ite ?_ ?_
    | with_reducible refine Keeps.foldl ?_ (fun t x ht => ?_)
    | with_reducible refine State.toLock_keeps hP ?_

theorem State.sendIdent_keeps {s : State} {a1 : _} {a2 : _} {a3 : _} (h : P s) :
    P (State.sendIdent s a1 a2 a3) := by
  unfold State.sendIdent
  repeat' first
    | with_reducible assumption
    | with_reducible refine Keeps.ite ?_ ?_
    | with_reducible refine Keeps.foldl ?_ (fun t x ht => ?_)
    | with_reducible refine State.sendCtrl_keeps hP ?_

theorem State.toIdent_keeps {s : State} {a1 : _} (h : P s) :
    P (State.toIdent s a1) := by
  unfold State.toIdent
  repeat' first
    | with_reducible assumption
    | with_reducible refine Keeps.ite ?_ ?_
    | with_reducible refine Keeps.iteC ?_ ?_
    | with_reducible refine Keeps.foldl ?_ (fun t x ht => ?_)
    | with_reducible refine State.setPort_keeps hP ?_
    | with_reducible refine State.sendIdent_keeps hP ?_
    | with_reducible refine State.setPortState_keeps hP ?_

theorem execLaneLock_keeps {a0 : _} {a1 : _} {s : State} (h : P s) :
    ∀ t, execLaneLock a0 a1 s = .next t → P t := by
  unfold execLaneLock
  refine Keeps.next ?_
  repeat' first
    | with_reducible assumption
    | with_reducible refine Keeps.ite ?_ ?_
    | with_reducible refine Keeps.iteC ?_ ?_
    | with_reducible refine Keeps.foldl ?_ (fun t x ht => ?_)
    | with_reducible refine State.setPort_keeps hP ?_
    | with_reducible refine State.setLockMask_keeps hP ?_
    | with_reducible refine State.traffic_keeps hP ?_
    | with_reducible refine State.toIdent_keeps hP ?_

theorem execLockLimit_keeps {a0 : _} {s : State} (h : P s) :
    ∀ t, execLockLimit a0 s = .next t → P t := by
  unfold execLockLimit
  refine Keeps.next ?_
  repeat' first
    | with_reducible assumption
    | with_reducible refine Keeps.ite ?_ ?_
    | with_reducible refine Keeps.iteC ?_ ?_
    | with_reducible refine Keeps.foldl ?_ (fun t x ht => ?_)
    | with_reducible refine State.trainFail_keeps hP ?_
    | with_reducible refine State.serveLanes_keeps hP ?_
    | with_reducible refine State.toIdent_keeps hP ?_

theorem State.portBack_keeps {s : State} {a1 : _} (h : P s) :
    P (State.portBack s a1) := by
  unfold State.portBack
  dsimp only
  split
  · exact State.report_keeps hP (State.setPort_keeps hP h)
  · exact State.setPort_keeps hP h

theorem State.toUp_keeps {s : State} {a1 : _} (h : P s) :
    P (State.toUp s a1) := by
  unfold State.toUp
  repeat' first
    | with_reducible assumption
    | with_reducible refine Keeps.ite ?_ ?_
    | with_reducible refine Keeps.foldl ?_ (fun t x ht => ?_)
    | with_reducible refine State.fset_keeps hP ?_
    | with_reducible refine State.setPortState_keeps hP ?_
    | with_reducible refine State.setPort_keeps hP ?_
    | with_reducible refine State.event_keeps hP ?_
    | with_reducible refine State.portBack_keeps hP ?_

theorem State.toMaint_keeps {s : State} {a1 : _} {a2 : _} (h : P s) :
    P (State.toMaint s a1 a2) := by
  unfold State.toMaint
  repeat' first
    | with_reducible assumption
    | with_reducible refine Keeps.ite ?_ ?_
    | with_reducible refine Keeps.foldl ?_ (fun t x ht => ?_)
    | with_reducible refine State.fset_keeps hP ?_
    | with_reducible refine State.setPortState_keeps hP ?_
    | with_reducible refine State.event_keeps hP ?_
    | with_reducible refine State.portBack_keeps hP ?_

theorem State.creditsStart_keeps {s : State} {a1 : _} (h : P s) :
    P (State.creditsStart s a1) := by
  unfold State.creditsStart
  repeat' first
    | with_reducible assumption
    | with_reducible refine Keeps.ite ?_ ?_
    | with_reducible refine Keeps.iteC ?_ ?_
    | with_reducible refine Keeps.foldl ?_ (fun t x ht => ?_)
    | with_reducible refine Keeps.foldl2 ?_ (fun b t x ht => ?_)
    | with_reducible refine State.setPort_keeps hP ?_

theorem State.finishIdent_keeps {s : State} {a1 : _} (h : P s) :
    P (State.finishIdent s a1) := by
  unfold State.finishIdent
  repeat' first
    | with_reducible assumption
    | with_reducible refine Keeps.ite ?_ ?_
    | with_reducible refine Keeps.iteC ?_ ?_
    | with_reducible refine Keeps.foldl ?_ (fun t x ht => ?_)
    | with_reducible refine State.toMaint_keeps hP ?_
    | with_reducible refine State.toUp_keeps hP ?_
    | with_reducible refine State.creditsStart_keeps hP ?_
    | with_reducible refine Keeps.pair (by assumption) ?_
    | with_reducible refine Keeps.pair1 (by assumption) ?_
    | fail_if_no_progress with_reducible refine Keeps.mk hP ?_
    | split
    | dsimp only

theorem execIdent_keeps {a0 : _} {a1 : _} {a2 : _} {s : State} (h : P s) :
    ∀ t, execIdent a0 a1 a2 s = .next t → P t := by
  unfold execIdent
  refine Keeps.next ?_
  repeat' first
    | with_reducible assumption
    | with_reducible refine Keeps.ite ?_ ?_
    | with_reducible refine Keeps.foldl ?_ (fun t x ht => ?_)
    | with_reducible refine State.rxFrame_keeps hP ?_
    | with_reducible refine State.fset_keeps hP ?_
    | with_reducible refine State.setPort_keeps hP ?_
    | with_reducible refine State.finishIdent_keeps hP ?_
    | with_reducible refine State.sendIdent_keeps hP ?_

theorem execIdentAck_keeps {a0 : _} {a1 : _} {a2 : _} {s : State} (h : P s) :
    ∀ t, execIdentAck a0 a1 a2 s = .next t → P t := by
  unfold execIdentAck
  refine Keeps.next ?_
  repeat' first
    | with_reducible assumption
    | with_reducible refine Keeps.ite ?_ ?_
    | with_reducible refine Keeps.foldl ?_ (fun t x ht => ?_)
    | with_reducible refine State.rxFrame_keeps hP ?_
    | with_reducible refine State.finishIdent_keeps hP ?_
    | with_reducible refine State.setPort_keeps hP ?_

theorem execIdentLimit_keeps {a0 : _} {s : State} (h : P s) :
    ∀ t, execIdentLimit a0 s = .next t → P t := by
  unfold execIdentLimit
  refine Keeps.next ?_
  repeat' first
    | with_reducible assumption
    | with_reducible refine Keeps.ite ?_ ?_
    | with_reducible refine Keeps.foldl ?_ (fun t x ht => ?_)
    | with_reducible refine State.trainFail_keeps hP ?_

theorem State.remap_keeps {s : State} {a1 : _} (h : P s) :
    P (State.remap s a1) := by
  unfold State.remap
  repeat' first
    | with_reducible assumption
    | with_reducible refine Keeps.ite ?_ ?_
    | with_reducible refine Keeps.iteC ?_ ?_
    | with_reducible refine Keeps.foldl ?_ (fun t x ht => ?_)
    | with_reducible refine State.toMaint_keeps hP ?_
    | with_reducible refine State.toUp_keeps hP ?_
    | with_reducible refine State.creditsStart_keeps hP ?_

theorem execDownRetry_keeps {a0 : _} {s : State} (h : P s) :
    ∀ t, execDownRetry a0 s = .next t → P t := by
  unfold execDownRetry
  refine Keeps.next ?_
  repeat' first
    | with_reducible assumption
    | with_reducible refine Keeps.ite ?_ ?_
    | with_reducible refine Keeps.foldl ?_ (fun t x ht => ?_)
    | with_reducible refine State.setPortState_keeps hP ?_

theorem State.takePacket_keeps {s : State} {a1 : _} {a2 : _} (h : P s) :
    P (State.takePacket s a1 a2) := by
  unfold State.takePacket
  repeat' first
    | with_reducible assumption
    | with_reducible refine Keeps.ite ?_ ?_
    | with_reducible refine Keeps.iteC ?_ ?_
    | with_reducible refine Keeps.foldl ?_ (fun t x ht => ?_)
    | with_reducible refine State.bump_keeps hP ?_
    | with_reducible refine State.setPort_keeps hP ?_
    | with_reducible refine State.ruleDrop_keeps hP ?_
    | with_reducible refine State.forward_keeps hP ?_

theorem execDataFrame_keeps {a0 : _} {a1 : _} {a2 : _} {s : State} (h : P s) :
    ∀ t, execDataFrame a0 a1 a2 s = .next t → P t := by
  unfold execDataFrame
  refine Keeps.next ?_
  repeat' first
    | with_reducible assumption
    | with_reducible refine Keeps.ite ?_ ?_
    | with_reducible refine Keeps.foldl ?_ (fun t x ht => ?_)
    | with_reducible refine State.rxFrame_keeps hP ?_
    | with_reducible refine State.takePacket_keeps hP ?_
    | with_reducible refine State.pumpPort_keeps hP ?_

theorem execIdleFrame_keeps {a0 : _} {a1 : _} {s : State} (h : P s) :
    ∀ t, execIdleFrame a0 a1 s = .next t → P t := by
  unfold execIdleFrame
  refine Keeps.next ?_
  repeat' first
    | with_reducible assumption
    | with_reducible refine Keeps.ite ?_ ?_
    | with_reducible refine Keeps.foldl ?_ (fun t x ht => ?_)
    | with_reducible refine State.pumpPort_keeps hP ?_
    | with_reducible refine State.rxFrame_keeps hP ?_

theorem execRetry_keeps {a0 : _} {a1 : _} {a2 : _} {s : State} (h : P s) :
    ∀ t, execRetry a0 a1 a2 s = .next t → P t := by
  unfold execRetry
  refine Keeps.next ?_
  repeat' first
    | with_reducible assumption
    | with_reducible refine Keeps.ite ?_ ?_
    | with_reducible refine Keeps.iteC ?_ ?_
    | with_reducible refine Keeps.foldl ?_ (fun t x ht => ?_)
    | with_reducible refine State.setPort_keeps hP ?_
    | with_reducible refine State.portDown_keeps hP ?_
    | with_reducible refine State.rxFrame_keeps hP ?_
    | with_reducible refine State.frameAcked_keeps hP ?_
    | with_reducible refine State.pumpPort_keeps hP ?_

theorem State.laneDrops_keeps {s : State} {a1 : _} {a2 : _} (h : P s) :
    P (State.laneDrops s a1 a2) := by
  unfold State.laneDrops
  repeat' first
    | with_reducible assumption
    | with_reducible refine Keeps.ite ?_ ?_
    | with_reducible refine Keeps.iteC ?_ ?_
    | with_reducible refine Keeps.foldl ?_ (fun t x ht => ?_)
    | with_reducible refine State.bump_keeps hP ?_
    | with_reducible refine State.setPort_keeps hP ?_
    | with_reducible refine State.setLaneMask_keeps hP ?_
    | with_reducible refine State.setParked_keeps hP ?_

theorem State.lanesLost_keeps {s : State} {a1 : _} (h : P s) :
    P (State.lanesLost s a1) := by
  unfold State.lanesLost
  repeat' first
    | with_reducible assumption
    | with_reducible refine Keeps.ite ?_ ?_
    | with_reducible refine Keeps.iteC ?_ ?_
    | with_reducible refine Keeps.foldl ?_ (fun t x ht => ?_)
    | with_reducible refine Keeps.foldl2 ?_ (fun b t x ht => ?_)
    | with_reducible refine State.laneDrops_keeps hP ?_

theorem execDown_keeps {a0 : _} {a1 : _} {s : State} (h : P s) :
    ∀ t, execDown a0 a1 s = .next t → P t := by
  unfold execDown
  refine Keeps.next ?_
  repeat' first
    | with_reducible assumption
    | with_reducible refine Keeps.ite ?_ ?_
    | with_reducible refine Keeps.iteC ?_ ?_
    | with_reducible refine Keeps.foldl ?_ (fun t x ht => ?_)
    | with_reducible refine State.lanesLost_keeps hP ?_
    | with_reducible refine State.portDown_keeps hP ?_
    | with_reducible refine State.rxFrame_keeps hP ?_
    | with_reducible refine Keeps.pair (by assumption) ?_
    | with_reducible refine Keeps.pair1 (by assumption) ?_
    | fail_if_no_progress with_reducible refine Keeps.mk hP ?_
    | split

theorem execFrameAckReport_keeps {a0 : _} {s : State} (h : P s) :
    ∀ t, execFrameAckReport a0 s = .next t → P t := by
  unfold execFrameAckReport
  refine Keeps.next ?_
  repeat' first
    | with_reducible assumption
    | with_reducible refine Keeps.ite ?_ ?_
    | with_reducible refine Keeps.iteC ?_ ?_
    | with_reducible refine Keeps.foldl ?_ (fun t x ht => ?_)
    | with_reducible refine State.sendFrame_keeps hP ?_

theorem State.propose_keeps {s : State} {a1 : _} {a2 : _} (h : P s) :
    P (State.propose s a1 a2) := by
  unfold State.propose
  repeat' first
    | with_reducible assumption
    | with_reducible refine Keeps.ite ?_ ?_
    | with_reducible refine Keeps.foldl ?_ (fun t x ht => ?_)
    | with_reducible refine State.sendCtrl_keeps hP ?_

theorem execWidth_keeps {a0 : _} {a1 : _} {a2 : _} {a3 : _} {a4 : _} {s : State} (h : P s) :
    ∀ t, execWidth a0 a1 a2 a3 a4 s = .next t → P t := by
  unfold execWidth
  refine Keeps.next ?_
  repeat' first
    | with_reducible assumption
    | with_reducible refine Keeps.ite ?_ ?_
    | with_reducible refine Keeps.iteC ?_ ?_
    | with_reducible refine Keeps.foldl ?_ (fun t x ht => ?_)
    | with_reducible refine State.sendCtrl_keeps hP ?_
    | with_reducible refine State.draw_keeps hP ?_
    | with_reducible refine State.setPort_keeps hP ?_
    | with_reducible refine State.rxFrame_keeps hP ?_

theorem execWidthChange_keeps {a0 : _} {s : State} (h : P s) :
    ∀ t, execWidthChange a0 s = .next t → P t := by
  unfold execWidthChange
  refine Keeps.next ?_
  repeat' first
    | with_reducible assumption
    | with_reducible refine Keeps.ite ?_ ?_
    | with_reducible refine Keeps.iteC ?_ ?_
    | with_reducible refine Keeps.foldl ?_ (fun t x ht => ?_)
    | with_reducible refine Keeps.foldl2 ?_ (fun b t x ht => ?_)
    | with_reducible refine State.bump_keeps hP ?_
    | with_reducible refine State.setPort_keeps hP ?_
    | with_reducible refine State.portDown_keeps hP ?_
    | with_reducible refine State.laneDrops_keeps hP ?_
    | with_reducible refine State.fillBucket_keeps hP ?_
    | with_reducible refine State.serveLanes_keeps hP ?_
    | with_reducible refine State.pumpPort_keeps hP ?_
    | with_reducible refine State.event_keeps hP ?_
    | with_reducible refine Keeps.pair (by assumption) ?_
    | with_reducible refine Keeps.pair1 (by assumption) ?_
    | fail_if_no_progress with_reducible refine Keeps.mk hP ?_
    | split

theorem State.laneOut_keeps {s : State} {a1 : _} {a2 : _} (h : P s) :
    P (State.laneOut s a1 a2) := by
  unfold State.laneOut
  repeat' first
    | with_reducible assumption
    | with_reducible refine Keeps.ite ?_ ?_
    | with_reducible refine Keeps.iteC ?_ ?_
    | with_reducible refine Keeps.foldl ?_ (fun t x ht => ?_)
    | with_reducible refine State.portDown_keeps hP ?_
    | with_reducible refine State.propose_keeps hP ?_
    | with_reducible refine State.laneDrops_keeps hP ?_

theorem execLaneLoss_keeps {a0 : _} {a1 : _} {a2 : _} {s : State} (h : P s) :
    ∀ t, execLaneLoss a0 a1 a2 s = .next t → P t := by
  unfold execLaneLoss
  refine Keeps.next ?_
  repeat' first
    | with_reducible assumption
    | with_reducible refine Keeps.ite ?_ ?_
    | with_reducible refine Keeps.iteC ?_ ?_
    | with_reducible refine Keeps.foldl ?_ (fun t x ht => ?_)
    | with_reducible refine State.laneOut_keeps hP ?_
    | with_reducible refine State.setLockMask_keeps hP ?_

theorem execLaneRetrain_keeps {a0 : _} {a1 : _} {a2 : _} {s : State} (h : P s) :
    ∀ t, execLaneRetrain a0 a1 a2 s = .next t → P t := by
  unfold execLaneRetrain
  refine Keeps.next ?_
  repeat' first
    | with_reducible assumption
    | with_reducible refine Keeps.ite ?_ ?_
    | with_reducible refine Keeps.iteC ?_ ?_
    | with_reducible refine Keeps.foldl ?_ (fun t x ht => ?_)
    | with_reducible refine State.setPort_keeps hP ?_
    | with_reducible refine State.setLockMask_keeps hP ?_
    | with_reducible refine State.propose_keeps hP ?_

theorem State.retrain_keeps {s : State} {a1 : _} (h : P s) :
    P (State.retrain s a1) := by
  unfold State.retrain
  repeat' first
    | with_reducible assumption
    | with_reducible refine Keeps.ite ?_ ?_
    | with_reducible refine Keeps.foldl ?_ (fun t x ht => ?_)
    | with_reducible refine State.setParked_keeps hP ?_
    | with_reducible refine State.sayDown_keeps hP ?_
    | with_reducible refine State.portDown_keeps hP ?_
    | with_reducible refine State.setPort_keeps hP ?_
    | with_reducible refine State.setPortState_keeps hP ?_

theorem execRetrain_keeps {a0 : _} {a1 : _} {s : State} (h : P s) :
    ∀ t, execRetrain a0 a1 s = .next t → P t := by
  unfold execRetrain
  refine Keeps.next ?_
  repeat' first
    | with_reducible assumption
    | with_reducible refine Keeps.ite ?_ ?_
    | with_reducible refine Keeps.iteC ?_ ?_
    | with_reducible refine Keeps.foldl ?_ (fun t x ht => ?_)
    | with_reducible refine State.byParty_keeps hP ?_ (fun t ht => ?_)
    | with_reducible refine State.regCmd_keeps hP ?_ (fun t ht => ?_)
    | with_reducible refine State.retrain_keeps hP ?_

theorem State.portEn_keeps {s : State} {a1 : _} {a2 : _} (h : P s) :
    P (State.portEn s a1 a2) := by
  unfold State.portEn
  repeat' first
    | with_reducible assumption
    | with_reducible refine Keeps.ite ?_ ?_
    | with_reducible refine Keeps.foldl ?_ (fun t x ht => ?_)
    | with_reducible refine State.fset_keeps hP ?_
    | with_reducible refine State.setPortState_keeps hP ?_
    | with_reducible refine State.portDown_keeps hP ?_
    | with_reducible refine State.sayDown_keeps hP ?_

theorem execPortEn_keeps {a0 : _} {a1 : _} {a2 : _} {s : State} (h : P s) :
    ∀ t, execPortEn a0 a1 a2 s = .next t → P t := by
  unfold execPortEn
  refine Keeps.next ?_
  repeat' first
    | with_reducible assumption
    | with_reducible refine Keeps.ite ?_ ?_
    | with_reducible refine Keeps.iteC ?_ ?_
    | with_reducible refine Keeps.foldl ?_ (fun t x ht => ?_)
    | with_reducible refine State.byParty_keeps hP ?_ (fun t ht => ?_)
    | with_reducible refine State.portEn_keeps hP ?_
    | with_reducible refine State.regCmd_keeps hP ?_ (fun t ht => ?_)

theorem State.portBadWord_keeps {s : State} {a1 : _} {a2 : _} {a3 : _} (h : P s) :
    P (State.portBadWord s a1 a2 a3) := by
  unfold State.portBadWord
  repeat' first
    | with_reducible assumption
    | with_reducible refine Keeps.ite ?_ ?_
    | with_reducible refine Keeps.iteC ?_ ?_
    | with_reducible refine Keeps.foldl ?_ (fun t x ht => ?_)
    | with_reducible refine State.laneOut_keeps hP ?_
    | with_reducible refine State.bump_keeps hP ?_
    | with_reducible refine State.setPort_keeps hP ?_
    | with_reducible refine State.setLockMask_keeps hP ?_
    | with_reducible refine State.traffic_keeps hP ?_

theorem execD2dDegraded_keeps {a0 : _} {a1 : _} {s : State} (h : P s) :
    ∀ t, execD2dDegraded a0 a1 s = .next t → P t := by
  unfold execD2dDegraded
  refine Keeps.next ?_
  repeat' first
    | with_reducible assumption
    | with_reducible refine Keeps.ite ?_ ?_
    | with_reducible refine Keeps.foldl ?_ (fun t x ht => ?_)
    | with_reducible refine State.event_keeps hP ?_
    | with_reducible refine State.report_keeps hP ?_
    | with_reducible refine State.fset_keeps hP ?_

theorem State.rtimeFault_keeps {s : State} {a1 : _} {a2 : _} (h : P s) :
    P (State.rtimeFault s a1 a2) := by
  unfold State.rtimeFault
  repeat' first
    | with_reducible assumption
    | with_reducible refine Keeps.ite ?_ ?_
    | with_reducible refine Keeps.foldl ?_ (fun t x ht => ?_)
    | with_reducible refine State.event_keeps hP ?_

theorem State.snapRtime_keeps {s : State} (h : P s) :
    P (State.snapRtime s) := by
  unfold State.snapRtime
  repeat' first
    | with_reducible assumption
    | with_reducible refine Keeps.ite ?_ ?_
    | with_reducible refine Keeps.foldl ?_ (fun t x ht => ?_)
    | with_reducible refine State.fset_keeps hP ?_
    | with_reducible refine State.rtimeFault_keeps hP ?_
    | with_reducible refine State.bump_keeps hP ?_

theorem State.loadRtime_keeps {s : State} {a1 : _} (h : P s) :
    P (State.loadRtime s a1) := by
  unfold State.loadRtime
  repeat' first
    | with_reducible assumption
    | with_reducible refine Keeps.ite ?_ ?_
    | with_reducible refine Keeps.foldl ?_ (fun t x ht => ?_)
    | with_reducible refine State.fset_keeps hP ?_
    | with_reducible refine Keeps.pair (by assumption) ?_
    | with_reducible refine Keeps.pair1 (by assumption) ?_
    | fail_if_no_progress with_reducible refine Keeps.mk hP ?_

theorem execTsyncEdge_keeps {s : State} (h : P s) :
    ∀ t, execTsyncEdge s = .next t → P t := by
  unfold execTsyncEdge
  refine Keeps.next ?_
  repeat' first
    | with_reducible assumption
    | with_reducible refine Keeps.ite ?_ ?_
    | with_reducible refine Keeps.iteC ?_ ?_
    | with_reducible refine Keeps.foldl ?_ (fun t x ht => ?_)
    | with_reducible refine State.snapRtime_keeps hP ?_
    | with_reducible refine State.fset_keeps hP ?_
    | with_reducible refine State.loadRtime_keeps hP ?_
    | with_reducible refine Keeps.pair (by assumption) ?_
    | with_reducible refine Keeps.pair1 (by assumption) ?_
    | fail_if_no_progress with_reducible refine Keeps.mk hP ?_
    | split
    | dsimp only

theorem execTsyncLoss_keeps {s : State} (h : P s) :
    ∀ t, execTsyncLoss s = .next t → P t := by
  unfold execTsyncLoss
  refine Keeps.next ?_
  repeat' first
    | with_reducible assumption
    | with_reducible refine Keeps.ite ?_ ?_
    | with_reducible refine Keeps.foldl ?_ (fun t x ht => ?_)
    | with_reducible refine State.rtimeFault_keeps hP ?_
    | with_reducible refine State.fset_keeps hP ?_

theorem execRefclkLoss_keeps {s : State} (h : P s) :
    ∀ t, execRefclkLoss s = .next t → P t := by
  unfold execRefclkLoss
  refine Keeps.next ?_
  repeat' first
    | with_reducible assumption
    | with_reducible refine Keeps.ite ?_ ?_
    | with_reducible refine Keeps.iteC ?_ ?_
    | with_reducible refine Keeps.foldl ?_ (fun t x ht => ?_)
    | with_reducible refine Keeps.foldl2 ?_ (fun b t x ht => ?_)
    | with_reducible refine State.laneDown_keeps hP ?_
    | with_reducible refine State.rtimeFault_keeps hP ?_
    | with_reducible refine State.fset_keeps hP ?_
    | with_reducible refine State.lanesLost_keeps hP ?_
    | with_reducible refine State.portDown_keeps hP ?_
    | with_reducible refine State.report_keeps hP ?_
    | with_reducible refine Keeps.pair (by assumption) ?_
    | with_reducible refine Keeps.pair1 (by assumption) ?_
    | fail_if_no_progress with_reducible refine Keeps.mk hP ?_

theorem execRefclkLock_keeps {s : State} (h : P s) :
    ∀ t, execRefclkLock s = .next t → P t := by
  unfold execRefclkLock
  refine Keeps.next ?_
  repeat' first
    | with_reducible assumption
    | with_reducible refine Keeps.ite ?_ ?_
    | with_reducible refine Keeps.foldl ?_ (fun t x ht => ?_)
    | with_reducible refine State.fset_keeps hP ?_
    | with_reducible refine State.report_keeps hP ?_
    | with_reducible refine Keeps.pair (by assumption) ?_
    | with_reducible refine Keeps.pair1 (by assumption) ?_
    | fail_if_no_progress with_reducible refine Keeps.mk hP ?_

theorem State.armRtime_keeps {s : State} {a1 : _} (h : P s) :
    P (State.armRtime s a1).2 := by
  unfold State.armRtime
  repeat' first
    | with_reducible assumption
    | with_reducible refine Keeps.ite ?_ ?_
    | with_reducible refine Keeps.foldl ?_ (fun t x ht => ?_)
    | with_reducible refine State.fset_keeps hP ?_
    | with_reducible refine Keeps.pair (by assumption) ?_
    | with_reducible refine Keeps.pair1 (by assumption) ?_
    | fail_if_no_progress with_reducible refine Keeps.mk hP ?_
    | split

end Sys2Proof.Machine
end

