-- ==== Sys2Proof/Laws/Keep/Packets.lean ====
section
/-! SUPPORT. Every operation of Machine/Packets.lean keeps a closed predicate (see Laws/Keep.lean). -/

namespace Sys2Proof.Machine

variable {P : State → Prop} (hP : Closed P)
include hP

theorem State.takeRx_keeps {s : State} {a1 : _} {a2 : _} (h : P s) :
    ∀ x, State.takeRx s a1 a2 = some x → P x.2 := by
  unfold State.takeRx
  repeat' first
    | with_reducible assumption
    | with_reducible refine Keeps.ite ?_ ?_
    | with_reducible exact Keeps.oNone
    | with_reducible refine Keeps.oSome ?_
    | with_reducible refine Keeps.oMap (fun x hx => ?_)
    | with_reducible refine Keeps.oIte ?_ ?_
    | with_reducible refine Keeps.foldl ?_ (fun t x ht => ?_)
    | with_reducible refine State.setPort_keeps hP ?_
    | with_reducible refine Keeps.pair (by assumption) ?_
    | with_reducible refine Keeps.pair1 (by assumption) ?_
    | fail_if_no_progress with_reducible refine Keeps.mk hP ?_

theorem State.packetRow_keeps {s : State} {a1 : _} {a2 : _} {a3 : _} (h : P s) (hb3 : ∀ t x1, P t → P (a3 t x1)) :
    P (State.packetRow s a1 a2 a3) := by
  unfold State.packetRow
  repeat' first
    | with_reducible assumption
    | with_reducible refine Keeps.ite ?_ ?_
    | with_reducible refine Keeps.iteC ?_ ?_
    | with_reducible refine Keeps.foldl ?_ (fun t x ht => ?_)
    | with_reducible refine State.bump_keeps hP ?_
    | with_reducible refine State.forward_keeps hP ?_
    | with_reducible refine Keeps.ofSome2 (State.takeRx_keeps hP ?_) (by assumption)
    | with_reducible refine hb3 _ _ ?_
    | with_reducible refine Keeps.pair (by assumption) ?_
    | with_reducible refine Keeps.pair1 (by assumption) ?_
    | fail_if_no_progress with_reducible refine Keeps.mk hP ?_
    | split

theorem State.answer_keeps {s : State} {a1 : _} {a2 : _} {a3 : _} {a4 : _} (h : P s) :
    P (State.answer s a1 a2 a3 a4) := by
  unfold State.answer
  repeat' first
    | with_reducible assumption
    | with_reducible refine Keeps.ite ?_ ?_
    | with_reducible refine Keeps.foldl ?_ (fun t x ht => ?_)
    | with_reducible refine State.sendPkt_keeps hP ?_

theorem execWrite_keeps {a0 : _} {s : State} (h : P s) :
    ∀ t, execWrite a0 s = .next t → P t := by
  unfold execWrite
  refine Keeps.next ?_
  repeat' first
    | with_reducible assumption
    | with_reducible refine Keeps.ite ?_ ?_
    | with_reducible refine Keeps.foldl ?_ (fun t x ht => ?_)
    | with_reducible refine State.packetRow_keeps hP ?_ (fun t x1 ht => ?_)
    | with_reducible refine State.memWrite_keeps hP ?_
    | with_reducible refine State.answer_keeps hP ?_

theorem execRead_keeps {a0 : _} {s : State} (h : P s) :
    ∀ t, execRead a0 s = .next t → P t := by
  unfold execRead
  refine Keeps.next ?_
  repeat' first
    | with_reducible assumption
    | with_reducible refine Keeps.ite ?_ ?_
    | with_reducible refine Keeps.foldl ?_ (fun t x ht => ?_)
    | with_reducible refine State.packetRow_keeps hP ?_ (fun t x1 ht => ?_)
    | with_reducible refine State.answer_keeps hP ?_
    | with_reducible refine State.memRead_keeps hP ?_
    | with_reducible refine Keeps.pair (by assumption) ?_
    | with_reducible refine Keeps.pair1 (by assumption) ?_
    | fail_if_no_progress with_reducible refine Keeps.mk hP ?_
    | split

theorem State.response_keeps {s : State} {a1 : _} {a2 : _} (h : P s) :
    P (State.response s a1 a2) := by
  unfold State.response
  repeat' first
    | with_reducible assumption
    | with_reducible refine Keeps.ite ?_ ?_
    | with_reducible refine Keeps.iteC ?_ ?_
    | with_reducible refine Keeps.foldl ?_ (fun t x ht => ?_)
    | with_reducible refine State.bump_keeps hP ?_
    | with_reducible refine State.endReq_keeps hP ?_
    | with_reducible refine State.dmaGoOn_keeps hP ?_
    | with_reducible refine Keeps.pair (by assumption) ?_
    | with_reducible refine Keeps.pair1 (by assumption) ?_
    | fail_if_no_progress with_reducible refine Keeps.mk hP ?_
    | split

theorem execWriteAck_keeps {a0 : _} {s : State} (h : P s) :
    ∀ t, execWriteAck a0 s = .next t → P t := by
  unfold execWriteAck
  refine Keeps.next ?_
  repeat' first
    | with_reducible assumption
    | with_reducible refine Keeps.ite ?_ ?_
    | with_reducible refine Keeps.foldl ?_ (fun t x ht => ?_)
    | with_reducible refine State.packetRow_keeps hP ?_ (fun t x1 ht => ?_)
    | with_reducible refine State.response_keeps hP ?_

theorem execReadRsp_keeps {a0 : _} {s : State} (h : P s) :
    ∀ t, execReadRsp a0 s = .next t → P t := by
  unfold execReadRsp
  refine Keeps.next ?_
  repeat' first
    | with_reducible assumption
    | with_reducible refine Keeps.ite ?_ ?_
    | with_reducible refine Keeps.foldl ?_ (fun t x ht => ?_)
    | with_reducible refine State.packetRow_keeps hP ?_ (fun t x1 ht => ?_)
    | with_reducible refine State.response_keeps hP ?_

theorem execRequestTimeout_keeps {a0 : _} {s : State} (h : P s) :
    ∀ t, execRequestTimeout a0 s = .next t → P t := by
  unfold execRequestTimeout
  refine Keeps.next ?_
  repeat' first
    | with_reducible assumption
    | with_reducible refine Keeps.ite ?_ ?_
    | with_reducible refine Keeps.foldl ?_ (fun t x ht => ?_)
    | with_reducible refine State.dmaGoOn_keeps hP ?_
    | with_reducible refine State.endReq_keeps hP ?_
    | with_reducible refine State.bump_keeps hP ?_
    | with_reducible refine Keeps.pair (by assumption) ?_
    | with_reducible refine Keeps.pair1 (by assumption) ?_
    | fail_if_no_progress with_reducible refine Keeps.mk hP ?_
    | split

theorem State.setMe_keeps {s : State} {a1 : _} {a2 : _} (h : P s) :
    P (State.setMe s a1 a2) := by
  unfold State.setMe
  repeat' first
    | with_reducible assumption
    | with_reducible refine Keeps.ite ?_ ?_
    | with_reducible refine Keeps.foldl ?_ (fun t x ht => ?_)
    | with_reducible refine Keeps.pair (by assumption) ?_
    | with_reducible refine Keeps.pair1 (by assumption) ?_
    | fail_if_no_progress with_reducible refine Keeps.mk hP ?_

theorem State.stray_keeps {s : State} {a1 : _} (h : P s) :
    P (State.stray s a1) := by
  unfold State.stray
  repeat' first
    | with_reducible assumption
    | with_reducible refine Keeps.ite ?_ ?_
    | with_reducible refine Keeps.foldl ?_ (fun t x ht => ?_)
    | with_reducible refine State.bump_keeps hP ?_

theorem State.toEngine_keeps {s : State} {a1 : _} {a2 : _} (h : P s) :
    P (State.toEngine s a1 a2) := by
  unfold State.toEngine
  repeat' first
    | with_reducible assumption
    | with_reducible refine Keeps.ite ?_ ?_
    | with_reducible refine Keeps.foldl ?_ (fun t x ht => ?_)
    | with_reducible refine State.ruleDrop_keeps hP ?_
    | with_reducible refine State.stray_keeps hP ?_
    | with_reducible refine State.setMe_keeps hP ?_

theorem State.toEngines_keeps {s : State} {a1 : _} (h : P s) :
    P (State.toEngines s a1) := by
  unfold State.toEngines
  repeat' first
    | with_reducible assumption
    | with_reducible refine Keeps.ite ?_ ?_
    | with_reducible refine Keeps.iteC ?_ ?_
    | with_reducible refine Keeps.foldl ?_ (fun t x ht => ?_)
    | with_reducible refine Keeps.foldl2 ?_ (fun b t x ht => ?_)
    | with_reducible refine State.ruleDrop_keeps hP ?_
    | with_reducible refine State.toEngine_keeps hP ?_
    | with_reducible refine State.stray_keeps hP ?_

theorem execMsg_keeps {a0 : _} {s : State} (h : P s) :
    ∀ t, execMsg a0 s = .next t → P t := by
  unfold execMsg
  refine Keeps.next ?_
  repeat' first
    | with_reducible assumption
    | with_reducible refine Keeps.ite ?_ ?_
    | with_reducible refine Keeps.iteC ?_ ?_
    | with_reducible refine Keeps.foldl ?_ (fun t x ht => ?_)
    | with_reducible refine State.bump_keeps hP ?_
    | with_reducible refine State.toEngines_keeps hP ?_
    | with_reducible refine State.ruleDrop_keeps hP ?_
    | with_reducible refine State.packetRow_keeps hP ?_ (fun t x1 ht => ?_)
    | with_reducible refine Keeps.pair (by assumption) ?_
    | with_reducible refine Keeps.pair1 (by assumption) ?_
    | fail_if_no_progress with_reducible refine Keeps.mk hP ?_

theorem execColl_keeps {a0 : _} {s : State} (h : P s) :
    ∀ t, execColl a0 s = .next t → P t := by
  unfold execColl
  refine Keeps.next ?_
  repeat' first
    | with_reducible assumption
    | with_reducible refine Keeps.ite ?_ ?_
    | with_reducible refine Keeps.foldl ?_ (fun t x ht => ?_)
    | with_reducible refine State.packetRow_keeps hP ?_ (fun t x1 ht => ?_)
    | with_reducible refine State.toEngines_keeps hP ?_

theorem State.resendReq_keeps {s : State} {a1 : _} (h : P s) :
    P (State.resendReq s a1) := by
  unfold State.resendReq
  repeat' first
    | with_reducible assumption
    | with_reducible refine Keeps.ite ?_ ?_
    | with_reducible refine Keeps.foldl ?_ (fun t x ht => ?_)
    | with_reducible refine State.sendPkt_keeps hP ?_
    | with_reducible refine Keeps.pair (by assumption) ?_
    | with_reducible refine Keeps.pair1 (by assumption) ?_
    | fail_if_no_progress with_reducible refine Keeps.mk hP ?_

theorem execRouteFail_keeps {a0 : _} {s : State} (h : P s) :
    ∀ t, execRouteFail a0 s = .next t → P t := by
  unfold execRouteFail
  refine Keeps.next ?_
  repeat' first
    | with_reducible assumption
    | with_reducible refine Keeps.ite ?_ ?_
    | with_reducible refine Keeps.iteC ?_ ?_
    | with_reducible refine Keeps.foldl ?_ (fun t x ht => ?_)
    | with_reducible refine State.bump_keeps hP ?_
    | with_reducible refine State.resendReq_keeps hP ?_
    | with_reducible refine State.fset_keeps hP ?_
    | with_reducible refine State.ruleDrop_keeps hP ?_
    | with_reducible refine State.dmaGoOn_keeps hP ?_
    | with_reducible refine State.endReq_keeps hP ?_
    | with_reducible refine State.countUnreachable_keeps hP ?_
    | with_reducible refine State.packetRow_keeps hP ?_ (fun t x1 ht => ?_)
    | with_reducible refine Keeps.pair (by assumption) ?_
    | with_reducible refine Keeps.pair1 (by assumption) ?_
    | fail_if_no_progress with_reducible refine Keeps.mk hP ?_
    | split
    | dsimp only

theorem State.writePoints_keeps {s : State} {a1 : _} {a2 : _} {a3 : _} (h : P s) :
    P (State.writePoints s a1 a2 a3) := by
  unfold State.writePoints
  repeat' first
    | with_reducible assumption
    | with_reducible refine Keeps.ite ?_ ?_
    | with_reducible refine Keeps.foldl ?_ (fun t x ht => ?_)
    | with_reducible refine State.csrRefuse_keeps hP ?_
    | with_reducible refine State.fset_keeps hP ?_
    | with_reducible refine State.csrPut_keeps hP ?_

theorem execPoints_keeps {a0 : _} {a1 : _} {a2 : _} {s : State} (h : P s) :
    ∀ t, execPoints a0 a1 a2 s = .next t → P t := by
  unfold execPoints
  refine Keeps.next ?_
  repeat' first
    | with_reducible assumption
    | with_reducible refine Keeps.ite ?_ ?_
    | with_reducible refine Keeps.iteC ?_ ?_
    | with_reducible refine Keeps.foldl ?_ (fun t x ht => ?_)
    | with_reducible refine State.writePoints_keeps hP ?_
    | with_reducible refine State.byParty_keeps hP ?_ (fun t ht => ?_)
    | with_reducible refine State.regCmd_keeps hP ?_ (fun t ht => ?_)

theorem State.clearExclude_keeps {s : State} (h : P s) :
    P (State.clearExclude s) := by
  exact hP.csrFilter h _

theorem execClearExclude_keeps {a0 : _} {s : State} (h : P s) :
    ∀ t, execClearExclude a0 s = .next t → P t := by
  unfold execClearExclude
  refine Keeps.next ?_
  repeat' first
    | with_reducible assumption
    | with_reducible refine Keeps.ite ?_ ?_
    | with_reducible refine Keeps.iteC ?_ ?_
    | with_reducible refine Keeps.foldl ?_ (fun t x ht => ?_)
    | with_reducible refine State.byParty_keeps hP ?_ (fun t ht => ?_)
    | with_reducible refine State.clearExclude_keeps hP ?_
    | with_reducible refine State.regCmd_keeps hP ?_ (fun t ht => ?_)

theorem execTc0BucketRelease_keeps {a0 : _} {s : State} (h : P s) :
    ∀ t, execTc0BucketRelease a0 s = .next t → P t := by
  unfold execTc0BucketRelease
  refine Keeps.next ?_
  repeat' first
    | with_reducible assumption
    | with_reducible refine Keeps.ite ?_ ?_
    | with_reducible refine Keeps.iteC ?_ ?_
    | with_reducible refine Keeps.foldl ?_ (fun t x ht => ?_)
    | with_reducible refine State.setPort_keeps hP ?_
    | with_reducible refine State.pushOut_keeps hP ?_
    | with_reducible refine State.fillBucket_keeps hP ?_
    | with_reducible refine Keeps.pair (by assumption) ?_
    | with_reducible refine Keeps.pair1 (by assumption) ?_
    | fail_if_no_progress with_reducible refine Keeps.mk hP ?_
    | split
    | dsimp only

theorem State.putWords_keeps {s : State} {a1 : _} {a2 : _} (h : P s) :
    P (State.putWords s a1 a2) := by
  induction a2 generalizing s a1
  · simp only [State.putWords]
    repeat' first
      | with_reducible assumption
  · rename_i ih
    simp only [State.putWords]
    repeat' first
      | with_reducible assumption
      | with_reducible refine Keeps.ite ?_ ?_
      | with_reducible refine Keeps.foldl ?_ (fun t x ht => ?_)
      | with_reducible refine State.csrPut_keeps hP ?_
      | with_reducible refine ih ?_

theorem execCmapPeriod_keeps {s : State} (h : P s) :
    ∀ t, execCmapPeriod s = .next t → P t := by
  unfold execCmapPeriod
  refine Keeps.next ?_
  repeat' first
    | with_reducible assumption
    | with_reducible refine Keeps.ite ?_ ?_
    | with_reducible refine Keeps.iteC ?_ ?_
    | with_reducible refine Keeps.foldl ?_ (fun t x ht => ?_)
    | with_reducible refine Keeps.foldl2 ?_ (fun b t x ht => ?_)
    | with_reducible refine State.setPort_keeps hP ?_
    | with_reducible refine State.putWords_keeps hP ?_
    | with_reducible refine State.csrPut_keeps hP ?_
    | with_reducible refine Keeps.pair (by assumption) ?_
    | with_reducible refine Keeps.pair1 (by assumption) ?_
    | fail_if_no_progress with_reducible refine Keeps.mk hP ?_

end Sys2Proof.Machine
end

