-- ==== Sys2Proof/Laws/Keep/Coll.lean ====
section
/-! SUPPORT. Every operation of Machine/Coll.lean keeps a closed predicate (see Laws/Keep.lean). -/

namespace Sys2Proof.Machine

variable {P : State → Prop} (hP : Closed P)
include hP

theorem State.meBump_keeps {s : State} {a1 : _} {a2 : _} {a3 : _} (h : P s) :
    P (State.meBump s a1 a2 a3) := by
  unfold State.meBump
  repeat' first
    | with_reducible assumption
    | with_reducible refine Keeps.ite ?_ ?_
    | with_reducible refine Keeps.foldl ?_ (fun t x ht => ?_)
    | with_reducible refine State.bump_keeps hP ?_

theorem State.meRegs_keeps {s : State} {a1 : _} (h : P s) :
    P (State.meRegs s a1) := by
  unfold State.meRegs
  repeat' first
    | with_reducible assumption
    | with_reducible refine Keeps.ite ?_ ?_
    | with_reducible refine Keeps.foldl ?_ (fun t x ht => ?_)
    | with_reducible refine State.fset_keeps hP ?_

theorem State.collMod_keeps {s : State} {a1 : _} {a2 : _} {a3 : _} {a4 : _} (h : P s) :
    P (State.collMod s a1 a2 a3 a4) := by
  unfold State.collMod
  repeat' first
    | with_reducible assumption
    | with_reducible refine Keeps.ite ?_ ?_
    | with_reducible refine Keeps.foldl ?_ (fun t x ht => ?_)
    | with_reducible refine State.setMe_keeps hP ?_

theorem State.collPut_keeps {s : State} {a1 : _} {a2 : _} (h : P s) :
    P (State.collPut s a1 a2) := by
  unfold State.collPut
  repeat' first
    | with_reducible assumption
    | with_reducible refine Keeps.ite ?_ ?_
    | with_reducible refine Keeps.foldl ?_ (fun t x ht => ?_)
    | with_reducible refine State.collMod_keeps hP ?_

theorem State.cmSend_keeps {s : State} {a1 : _} {a2 : _} {a3 : _} {a4 : _} {a5 : _} {a6 : _} {a7 : _} (h : P s) :
    P (State.cmSend s a1 a2 a3 a4 a5 a6 a7) := by
  unfold State.cmSend
  repeat' first
    | with_reducible assumption
    | with_reducible refine Keeps.ite ?_ ?_
    | with_reducible refine Keeps.foldl ?_ (fun t x ht => ?_)
    | with_reducible refine State.sendPkt_keeps hP ?_

theorem State.cmCast_keeps {s : State} {a1 : _} {a2 : _} (h : P s) :
    P (State.cmCast s a1 a2) := by
  unfold State.cmCast
  repeat' first
    | with_reducible assumption
    | with_reducible refine Keeps.ite ?_ ?_
    | with_reducible refine Keeps.foldl ?_ (fun t x ht => ?_)
    | with_reducible refine State.multicast_keeps hP ?_

theorem State.sendChunk_keeps {s : State} {a1 : _} {a2 : _} {a3 : _} (h : P s) :
    P (State.sendChunk s a1 a2 a3) := by
  unfold State.sendChunk
  repeat' first
    | with_reducible assumption
    | with_reducible refine Keeps.ite ?_ ?_
    | with_reducible refine Keeps.foldl ?_ (fun t x ht => ?_)
    | with_reducible refine State.cmSend_keeps hP ?_
    | with_reducible refine State.traffic_keeps hP ?_

theorem State.pumpChunks_keeps {s : State} {a1 : _} {a2 : _} {a3 : _} (h : P s) :
    P (State.pumpChunks s a1 a2 a3).1 := by
  induction a3 generalizing s a1 a2
  · simp only [State.pumpChunks]
    repeat' first
      | with_reducible assumption
  · rename_i ih
    simp only [State.pumpChunks]
    repeat' first
      | with_reducible assumption
      | with_reducible refine Keeps.ite ?_ ?_
      | with_reducible refine Keeps.foldl ?_ (fun t x ht => ?_)
      | with_reducible refine State.sendChunk_keeps hP ?_
      | with_reducible refine ih ?_
      | with_reducible refine Keeps.pair (by assumption) ?_
      | with_reducible refine Keeps.pair1 (by assumption) ?_
      | fail_if_no_progress with_reducible refine Keeps.mk hP ?_
      | split

theorem State.castAbort_keeps {s : State} {a1 : _} {a2 : _} {a3 : _} {a4 : _} (h : P s) :
    P (State.castAbort s a1 a2 a3 a4) := by
  unfold State.castAbort
  repeat' first
    | with_reducible assumption
    | with_reducible refine Keeps.ite ?_ ?_
    | with_reducible refine Keeps.iteC ?_ ?_
    | with_reducible refine Keeps.foldl ?_ (fun t x ht => ?_)
    | with_reducible refine State.cmCast_keeps hP ?_

theorem State.tellTile_keeps {s : State} {a1 : _} (h : P s) :
    P (State.tellTile s a1) := by
  unfold State.tellTile
  repeat' first
    | with_reducible assumption
    | with_reducible refine Keeps.ite ?_ ?_
    | with_reducible refine Keeps.iteC ?_ ?_
    | with_reducible refine Keeps.foldl ?_ (fun t x ht => ?_)
    | with_reducible refine State.setTile_keeps hP ?_
    | with_reducible refine Keeps.pair (by assumption) ?_
    | with_reducible refine Keeps.pair1 (by assumption) ?_
    | fail_if_no_progress with_reducible refine Keeps.mk hP ?_
    | split
    | dsimp only

theorem State.noteFail_keeps {s : State} {a1 : _} (h : P s) :
    P (State.noteFail s a1) := by
  unfold State.noteFail
  repeat' first
    | with_reducible assumption
    | with_reducible refine Keeps.ite ?_ ?_
    | with_reducible refine Keeps.iteC ?_ ?_
    | with_reducible refine Keeps.foldl ?_ (fun t x ht => ?_)
    | with_reducible refine Keeps.pair (by assumption) ?_
    | with_reducible refine Keeps.pair1 (by assumption) ?_
    | fail_if_no_progress with_reducible refine Keeps.mk hP ?_

theorem State.collAbort_keeps {s : State} {a1 : _} {a2 : _} {a3 : _} {a4 : _} {a5 : _} (h : P s) :
    P (State.collAbort s a1 a2 a3 a4 a5) := by
  unfold State.collAbort
  repeat' first
    | with_reducible assumption
    | with_reducible refine Keeps.ite ?_ ?_
    | with_reducible refine Keeps.iteC ?_ ?_
    | with_reducible refine Keeps.foldl ?_ (fun t x ht => ?_)
    | with_reducible refine State.tellTile_keeps hP ?_
    | with_reducible refine State.castAbort_keeps hP ?_
    | with_reducible refine State.collPut_keeps hP ?_
    | with_reducible refine State.fset_keeps hP ?_
    | with_reducible refine State.report_keeps hP ?_
    | with_reducible refine State.noteFail_keeps hP ?_
    | with_reducible refine State.meRegs_keeps hP ?_
    | with_reducible refine State.meBump_keeps hP ?_
    | with_reducible refine State.event_keeps hP ?_
    | with_reducible refine State.csrPut_keeps hP ?_

theorem State.collFail_keeps {s : State} {a1 : _} {a2 : _} {a3 : _} {a4 : _} (h : P s) :
    P (State.collFail s a1 a2 a3 a4) := by
  unfold State.collFail
  repeat' first
    | with_reducible assumption
    | with_reducible refine Keeps.ite ?_ ?_
    | with_reducible refine Keeps.iteC ?_ ?_
    | with_reducible refine Keeps.foldl ?_ (fun t x ht => ?_)
    | with_reducible refine State.collAbort_keeps hP ?_

theorem State.breakCtr_keeps {s : State} {a1 : _} {a2 : _} (h : P s) :
    P (State.breakCtr s a1 a2) := by
  unfold State.breakCtr
  repeat' first
    | with_reducible assumption
    | with_reducible refine Keeps.ite ?_ ?_
    | with_reducible refine Keeps.iteC ?_ ?_
    | with_reducible refine Keeps.foldl ?_ (fun t x ht => ?_)
    | with_reducible refine Keeps.foldl2 ?_ (fun b t x ht => ?_)
    | with_reducible refine State.fset_keeps hP ?_
    | with_reducible refine State.collAbort_keeps hP ?_

theorem State.dmaHalt_keeps {s : State} {a1 : _} {a2 : _} {a3 : _} {a4 : _} (h : P s) :
    P (State.dmaHalt s a1 a2 a3 a4) := by
  unfold State.dmaHalt
  repeat' first
    | with_reducible assumption
    | with_reducible refine Keeps.ite ?_ ?_
    | with_reducible refine Keeps.iteC ?_ ?_
    | with_reducible refine Keeps.foldl ?_ (fun t x ht => ?_)
    | with_reducible refine Keeps.foldl2 ?_ (fun b t x ht => ?_)
    | with_reducible refine State.setDma_keeps hP ?_
    | with_reducible refine State.report_keeps hP ?_
    | with_reducible refine State.breakCtr_keeps hP ?_
    | with_reducible refine Keeps.pair (by assumption) ?_
    | with_reducible refine Keeps.pair1 (by assumption) ?_
    | fail_if_no_progress with_reducible refine Keeps.mk hP ?_
    | split

theorem execDmaHalt_keeps {a0 : _} {a1 : _} {s : State} (h : P s) :
    ∀ t, execDmaHalt a0 a1 s = .next t → P t := by
  unfold execDmaHalt
  refine Keeps.next ?_
  repeat' first
    | with_reducible assumption
    | with_reducible refine Keeps.ite ?_ ?_
    | with_reducible refine Keeps.iteC ?_ ?_
    | with_reducible refine Keeps.foldl ?_ (fun t x ht => ?_)
    | with_reducible refine State.dmaHalt_keeps hP ?_
    | with_reducible refine Keeps.pair (by assumption) ?_
    | with_reducible refine Keeps.pair1 (by assumption) ?_
    | fail_if_no_progress with_reducible refine Keeps.mk hP ?_
    | split

theorem State.writeDst_keeps {s : State} {a1 : _} {a2 : _} {a3 : _} (h : P s) :
    P (State.writeDst s a1 a2 a3).2 := by
  unfold State.writeDst
  repeat' first
    | with_reducible assumption
    | with_reducible refine Keeps.ite ?_ ?_
    | with_reducible refine Keeps.iteC ?_ ?_
    | with_reducible refine Keeps.foldl ?_ (fun t x ht => ?_)
    | with_reducible refine State.addrFault_keeps hP ?_
    | with_reducible refine State.runWhole_keeps hP ?_
    | with_reducible refine State.meStatus_keeps hP ?_
    | with_reducible refine Keeps.pair (by assumption) ?_
    | with_reducible refine Keeps.pair1 (by assumption) ?_
    | fail_if_no_progress with_reducible refine Keeps.mk hP ?_
    | split
    | dsimp only

theorem State.writeDsts_keeps {s : State} {a1 : _} {a2 : _} {a3 : _} (h : P s) :
    P (State.writeDsts s a1 a2 a3).2 := by
  induction a3 generalizing s a1 a2
  · simp only [State.writeDsts]
    repeat' first
      | with_reducible assumption
  · rename_i ih
    simp only [State.writeDsts]
    repeat' first
      | with_reducible assumption
      | with_reducible refine Keeps.ite ?_ ?_
      | with_reducible refine Keeps.iteC ?_ ?_
      | with_reducible refine Keeps.foldl ?_ (fun t x ht => ?_)
      | with_reducible refine State.writeDst_keeps hP ?_
      | with_reducible refine ih ?_
      | with_reducible refine Keeps.pair (by assumption) ?_
      | with_reducible refine Keeps.pair1 (by assumption) ?_
      | fail_if_no_progress with_reducible refine Keeps.mk hP ?_
      | split

theorem State.ackChunk_keeps {s : State} {a1 : _} {a2 : _} {a3 : _} {a4 : _} (h : P s) :
    P (State.ackChunk s a1 a2 a3 a4) := by
  unfold State.ackChunk
  repeat' first
    | with_reducible assumption
    | with_reducible refine Keeps.ite ?_ ?_
    | with_reducible refine Keeps.foldl ?_ (fun t x ht => ?_)
    | with_reducible refine State.cmSend_keeps hP ?_

theorem State.consumeAll_keeps {s : State} {a1 : _} {a2 : _} {a3 : _} (h : P s) :
    P (State.consumeAll s a1 a2 a3).2.1 := by
  induction a3 generalizing s a1 a2
  · simp only [State.consumeAll]
    repeat' first
      | with_reducible assumption
  · rename_i ih
    simp only [State.consumeAll]
    repeat' first
      | with_reducible assumption
      | with_reducible refine Keeps.ite ?_ ?_
      | with_reducible refine Keeps.iteC ?_ ?_
      | with_reducible refine Keeps.foldl ?_ (fun t x ht => ?_)
      | with_reducible refine State.writeDsts_keeps hP ?_
      | with_reducible refine State.ackChunk_keeps hP ?_
      | with_reducible refine ih ?_
      | with_reducible refine Keeps.pair (by assumption) ?_
      | with_reducible refine Keeps.pair1 (by assumption) ?_
      | fail_if_no_progress with_reducible refine Keeps.mk hP ?_
      | split

theorem State.noteSkew_keeps {s : State} {a1 : _} {a2 : _} (h : P s) :
    P (State.noteSkew s a1 a2) := by
  unfold State.noteSkew
  repeat' first
    | with_reducible assumption
    | with_reducible refine Keeps.ite ?_ ?_
    | with_reducible refine Keeps.foldl ?_ (fun t x ht => ?_)
    | with_reducible refine State.fset_keeps hP ?_
    | with_reducible refine State.event_keeps hP ?_
    | with_reducible refine State.meBump_keeps hP ?_

theorem State.collOwn_keeps {s : State} {a1 : _} {a2 : _} (h : P s) :
    P (State.collOwn s a1 a2).2.1 := by
  unfold State.collOwn
  repeat' first
    | with_reducible assumption
    | with_reducible refine Keeps.ite ?_ ?_
    | with_reducible refine Keeps.iteC ?_ ?_
    | with_reducible refine Keeps.foldl ?_ (fun t x ht => ?_)
    | with_reducible refine State.noteSkew_keeps hP ?_
    | with_reducible refine State.writeDsts_keeps hP ?_
    | with_reducible refine Keeps.pair (by assumption) ?_
    | with_reducible refine Keeps.pair1 (by assumption) ?_
    | fail_if_no_progress with_reducible refine Keeps.mk hP ?_
    | split

theorem State.collGo_keeps {s : State} {a1 : _} {a2 : _} (h : P s) :
    P (State.collGo s a1 a2) := by
  unfold State.collGo
  repeat' first
    | with_reducible assumption
    | with_reducible refine Keeps.ite ?_ ?_
    | with_reducible refine Keeps.iteC ?_ ?_
    | with_reducible refine Keeps.foldl ?_ (fun t x ht => ?_)
    | with_reducible refine State.collPut_keeps hP ?_
    | with_reducible refine State.collOwn_keeps hP ?_
    | with_reducible refine State.pumpChunks_keeps hP ?_
    | with_reducible refine State.consumeAll_keeps hP ?_
    | with_reducible refine State.meRegs_keeps hP ?_
    | with_reducible refine State.collFail_keeps hP ?_
    | with_reducible refine Keeps.mid (by assumption) ?_
    | with_reducible refine Keeps.pair (by assumption) ?_
    | with_reducible refine Keeps.pair1 (by assumption) ?_
    | fail_if_no_progress with_reducible refine Keeps.mk hP ?_
    | split

theorem State.readConsist_keeps {s : State} {a1 : _} {a2 : _} (h : P s) :
    P (State.readConsist s a1 a2).2 := by
  unfold State.readConsist
  repeat' first
    | with_reducible assumption
    | with_reducible refine Keeps.ite ?_ ?_
    | with_reducible refine Keeps.iteC ?_ ?_
    | with_reducible refine Keeps.foldl ?_ (fun t x ht => ?_)
    | with_reducible refine State.readUntil_keeps hP ?_
    | with_reducible refine Keeps.pair (by assumption) ?_
    | with_reducible refine Keeps.pair1 (by assumption) ?_
    | fail_if_no_progress with_reducible refine Keeps.mk hP ?_
    | split

theorem State.launch_keeps {s : State} {a1 : _} {a2 : _} {a3 : _} {a4 : _} {a5 : _} {a6 : _} {a7 : _} (h : P s) :
    P (State.launch s a1 a2 a3 a4 a5 a6 a7) := by
  unfold State.launch
  repeat' first
    | with_reducible assumption
    | with_reducible refine Keeps.ite ?_ ?_
    | with_reducible refine Keeps.iteC ?_ ?_
    | with_reducible refine Keeps.foldl ?_ (fun t x ht => ?_)
    | with_reducible refine State.setMe_keeps hP ?_
    | with_reducible refine State.meRegs_keeps hP ?_
    | with_reducible refine State.collAbort_keeps hP ?_
    | with_reducible refine Keeps.pair (by assumption) ?_
    | with_reducible refine Keeps.pair1 (by assumption) ?_
    | fail_if_no_progress with_reducible refine Keeps.mk hP ?_
    | split
    | dsimp only

theorem State.collStart_keeps {s : State} {a1 : _} {a2 : _} (h : P s) :
    P (State.collStart s a1 a2) := by
  unfold State.collStart
  repeat' first
    | with_reducible assumption
    | with_reducible refine Keeps.ite ?_ ?_
    | with_reducible refine Keeps.iteC ?_ ?_
    | with_reducible refine Keeps.foldl ?_ (fun t x ht => ?_)
    | with_reducible refine State.launch_keeps hP ?_
    | with_reducible refine State.readConsist_keeps hP ?_
    | with_reducible refine State.trap_keeps hP ?_
    | with_reducible refine State.advance_keeps hP ?_
    | with_reducible refine Keeps.pair (by assumption) ?_
    | with_reducible refine Keeps.pair1 (by assumption) ?_
    | fail_if_no_progress with_reducible refine Keeps.mk hP ?_
    | split
    | dsimp only

theorem execCollStart_keeps {a0 : _} {s : State} (h : P s) :
    ∀ t, execCollStart a0 s = .next t → P t := by
  unfold execCollStart
  refine Keeps.next ?_
  repeat' first
    | with_reducible assumption
    | with_reducible refine Keeps.ite ?_ ?_
    | with_reducible refine Keeps.foldl ?_ (fun t x ht => ?_)
    | with_reducible refine State.issue_keeps hP ?_ (fun t x1 ht => ?_)
    | with_reducible refine State.collStart_keeps hP ?_

theorem State.fusedBlocks_keeps {s : State} {a1 : _} {a2 : _} {a3 : _} {a4 : _} (h : P s) :
    P (State.fusedBlocks s a1 a2 a3 a4).2 := by
  induction a4 generalizing s a1 a2 a3
  · simp only [State.fusedBlocks]
    repeat' first
      | with_reducible assumption
  · rename_i ih
    simp only [State.fusedBlocks]
    repeat' first
      | with_reducible assumption
      | with_reducible refine Keeps.ite ?_ ?_
      | with_reducible refine Keeps.iteC ?_ ?_
      | with_reducible refine Keeps.foldl ?_ (fun t x ht => ?_)
      | with_reducible refine State.mmaBlock_keeps hP ?_
      | with_reducible refine ih ?_
      | with_reducible refine Keeps.pair (by assumption) ?_
      | with_reducible refine Keeps.pair1 (by assumption) ?_
      | fail_if_no_progress with_reducible refine Keeps.mk hP ?_
      | split

theorem State.putBack_keeps {s : State} {s1 : State} {a2 : _} (h : P s) (h1 : P s1) :
    P (State.putBack s s1 a2) := by
  unfold State.putBack
  repeat' first
    | with_reducible assumption
    | with_reducible refine Keeps.ite ?_ ?_
    | with_reducible refine Keeps.iteC ?_ ?_
    | with_reducible refine Keeps.foldl ?_ (fun t x ht => ?_)
    | with_reducible refine Keeps.foldl2 ?_ (fun b t x ht => ?_)
    | with_reducible refine State.putCell_keeps hP ?_

theorem State.fusedRun_keeps {s : State} {a1 : _} {a2 : _} (h : P s) :
    P (State.fusedRun s a1 a2).2 := by
  unfold State.fusedRun
  repeat' first
    | with_reducible assumption
    | with_reducible refine Keeps.ite ?_ ?_
    | with_reducible refine Keeps.iteC ?_ ?_
    | with_reducible refine Keeps.foldl ?_ (fun t x ht => ?_)
    | with_reducible refine State.arithStatus_keeps hP ?_
    | with_reducible refine State.putBack_keeps hP ?_ ?_
    | with_reducible refine State.fusedBlocks_keeps hP ?_
    | with_reducible refine Keeps.pair (by assumption) ?_
    | with_reducible refine Keeps.pair1 (by assumption) ?_
    | fail_if_no_progress with_reducible refine Keeps.mk hP ?_
    | split

theorem State.fused_keeps {s : State} {a1 : _} {a2 : _} {a3 : _} (h : P s) :
    P (State.fused s a1 a2 a3) := by
  unfold State.fused
  repeat' first
    | with_reducible assumption
    | with_reducible refine Keeps.ite ?_ ?_
    | with_reducible refine Keeps.iteC ?_ ?_
    | with_reducible refine Keeps.foldl ?_ (fun t x ht => ?_)
    | with_reducible refine State.fusedRun_keeps hP ?_
    | with_reducible refine State.launch_keeps hP ?_
    | with_reducible refine State.readConsist_keeps hP ?_
    | with_reducible refine State.trap_keeps hP ?_
    | with_reducible refine State.advance_keeps hP ?_
    | with_reducible refine Keeps.pair (by assumption) ?_
    | with_reducible refine Keeps.pair1 (by assumption) ?_
    | fail_if_no_progress with_reducible refine Keeps.mk hP ?_
    | split
    | dsimp only

theorem execMmaRs_keeps {a0 : _} {s : State} (h : P s) :
    ∀ t, execMmaRs a0 s = .next t → P t := by
  unfold execMmaRs
  refine Keeps.next ?_
  repeat' first
    | with_reducible assumption
    | with_reducible refine Keeps.ite ?_ ?_
    | with_reducible refine Keeps.foldl ?_ (fun t x ht => ?_)
    | with_reducible refine State.issue_keeps hP ?_ (fun t x1 ht => ?_)
    | with_reducible refine State.fused_keeps hP ?_

theorem execMmaAg_keeps {a0 : _} {s : State} (h : P s) :
    ∀ t, execMmaAg a0 s = .next t → P t := by
  unfold execMmaAg
  refine Keeps.next ?_
  repeat' first
    | with_reducible assumption
    | with_reducible refine Keeps.ite ?_ ?_
    | with_reducible refine Keeps.foldl ?_ (fun t x ht => ?_)
    | with_reducible refine State.issue_keeps hP ?_ (fun t x1 ht => ?_)
    | with_reducible refine State.fused_keeps hP ?_

theorem execMmaA2a_keeps {a0 : _} {s : State} (h : P s) :
    ∀ t, execMmaA2a a0 s = .next t → P t := by
  unfold execMmaA2a
  refine Keeps.next ?_
  repeat' first
    | with_reducible assumption
    | with_reducible refine Keeps.ite ?_ ?_
    | with_reducible refine Keeps.foldl ?_ (fun t x ht => ?_)
    | with_reducible refine State.issue_keeps hP ?_ (fun t x1 ht => ?_)
    | with_reducible refine State.fused_keeps hP ?_

theorem State.readSource_keeps {s : State} {a1 : _} {a2 : _} (h : P s) :
    P (State.readSource s a1 a2).2 := by
  unfold State.readSource
  repeat' first
    | with_reducible assumption
    | with_reducible refine Keeps.ite ?_ ?_
    | with_reducible refine Keeps.foldl ?_ (fun t x ht => ?_)
    | with_reducible refine State.readElems_keeps hP ?_
    | with_reducible refine Keeps.pair (by assumption) ?_
    | with_reducible refine Keeps.pair1 (by assumption) ?_
    | fail_if_no_progress with_reducible refine Keeps.mk hP ?_
    | split
    | dsimp only

theorem State.startColl_keeps {s : State} {a1 : _} {a2 : _} (h : P s) :
    P (State.startColl s a1 a2) := by
  unfold State.startColl
  repeat' first
    | with_reducible assumption
    | with_reducible refine Keeps.ite ?_ ?_
    | with_reducible refine Keeps.iteC ?_ ?_
    | with_reducible refine Keeps.foldl ?_ (fun t x ht => ?_)
    | with_reducible refine State.collPut_keeps hP ?_
    | with_reducible refine State.fset_keeps hP ?_
    | with_reducible refine State.readSource_keeps hP ?_
    | with_reducible refine State.cmCast_keeps hP ?_
    | with_reducible refine State.collFail_keeps hP ?_
    | with_reducible refine State.collGo_keeps hP ?_
    | with_reducible refine Keeps.pair (by assumption) ?_
    | with_reducible refine Keeps.pair1 (by assumption) ?_
    | fail_if_no_progress with_reducible refine Keeps.mk hP ?_
    | split
    | dsimp only

theorem execCollectiveStart_keeps {a0 : _} {s : State} (h : P s) :
    ∀ t, execCollectiveStart a0 s = .next t → P t := by
  unfold execCollectiveStart
  refine Keeps.next ?_
  repeat' first
    | with_reducible assumption
    | with_reducible refine Keeps.ite ?_ ?_
    | with_reducible refine Keeps.foldl ?_ (fun t x ht => ?_)
    | with_reducible refine State.collAbort_keeps hP ?_
    | with_reducible refine State.startColl_keeps hP ?_
    | with_reducible refine Keeps.pair (by assumption) ?_
    | with_reducible refine Keeps.pair1 (by assumption) ?_
    | fail_if_no_progress with_reducible refine Keeps.mk hP ?_
    | split
    | dsimp only

theorem State.takeCm_keeps {s : State} {a1 : _} {a2 : _} (h : P s) :
    ∀ x, State.takeCm s a1 a2 = some x → P x.2 := by
  unfold State.takeCm
  repeat' first
    | with_reducible assumption
    | with_reducible refine Keeps.ite ?_ ?_
    | with_reducible exact Keeps.oNone
    | with_reducible refine Keeps.oSome ?_
    | with_reducible refine Keeps.oMap (fun x hx => ?_)
    | with_reducible refine Keeps.oIte ?_ ?_
    | with_reducible refine Keeps.foldl ?_ (fun t x ht => ?_)
    | with_reducible refine State.setMe_keeps hP ?_
    | with_reducible refine Keeps.pair (by assumption) ?_
    | with_reducible refine Keeps.pair1 (by assumption) ?_
    | fail_if_no_progress with_reducible refine Keeps.mk hP ?_
    | split
    | dsimp only

theorem State.cmRow_keeps {s : State} {a1 : _} {a2 : _} {a3 : _} (h : P s) (hb3 : ∀ t x1 x2, P t → P (a3 t x1 x2)) :
    P (State.cmRow s a1 a2 a3) := by
  unfold State.cmRow
  repeat' first
    | with_reducible assumption
    | with_reducible refine Keeps.ite ?_ ?_
    | with_reducible refine Keeps.iteC ?_ ?_
    | with_reducible refine Keeps.foldl ?_ (fun t x ht => ?_)
    | with_reducible refine State.collPut_keeps hP ?_
    | with_reducible refine Keeps.ofSome2 (State.takeCm_keeps hP ?_) (by assumption)
    | with_reducible refine State.meRegs_keeps hP ?_
    | with_reducible refine State.stray_keeps hP ?_
    | with_reducible refine hb3 _ _ _ ?_
    | with_reducible refine Keeps.pair (by assumption) ?_
    | with_reducible refine Keeps.pair1 (by assumption) ?_
    | fail_if_no_progress with_reducible refine Keeps.mk hP ?_
    | split

theorem execReady_keeps {a0 : _} {s : State} (h : P s) :
    ∀ t, execReady a0 s = .next t → P t := by
  unfold execReady
  refine Keeps.next ?_
  repeat' first
    | with_reducible assumption
    | with_reducible refine Keeps.ite ?_ ?_
    | with_reducible refine Keeps.iteC ?_ ?_
    | with_reducible refine Keeps.foldl ?_ (fun t x ht => ?_)
    | with_reducible refine State.cmRow_keeps hP ?_ (fun t x1 x2 ht => ?_)
    | with_reducible refine State.collPut_keeps hP ?_
    | with_reducible refine State.cmSend_keeps hP ?_
    | with_reducible refine State.collFail_keeps hP ?_
    | with_reducible refine State.collGo_keeps hP ?_

theorem State.nackChunk_keeps {s : State} {a1 : _} {a2 : _} {a3 : _} {a4 : _} {a5 : _} (h : P s) :
    P (State.nackChunk s a1 a2 a3 a4 a5) := by
  unfold State.nackChunk
  repeat' first
    | with_reducible assumption
    | with_reducible refine Keeps.ite ?_ ?_
    | with_reducible refine Keeps.foldl ?_ (fun t x ht => ?_)
    | with_reducible refine State.cmSend_keeps hP ?_

theorem State.dupChunk_keeps {s : State} {a1 : _} {a2 : _} {a3 : _} {a4 : _} {a5 : _} (h : P s) :
    P (State.dupChunk s a1 a2 a3 a4 a5) := by
  unfold State.dupChunk
  repeat' first
    | with_reducible assumption
    | with_reducible refine Keeps.ite ?_ ?_
    | with_reducible refine Keeps.foldl ?_ (fun t x ht => ?_)
    | with_reducible refine State.meBump_keeps hP ?_
    | with_reducible refine State.ackChunk_keeps hP ?_
    | with_reducible refine State.collPut_keeps hP ?_

theorem State.refuseChunk_keeps {s : State} {a1 : _} {a2 : _} {a3 : _} {a4 : _} {a5 : _} (h : P s) :
    P (State.refuseChunk s a1 a2 a3 a4 a5) := by
  unfold State.refuseChunk
  repeat' first
    | with_reducible assumption
    | with_reducible refine Keeps.ite ?_ ?_
    | with_reducible refine Keeps.iteC ?_ ?_
    | with_reducible refine Keeps.foldl ?_ (fun t x ht => ?_)
    | with_reducible refine State.collPut_keeps hP ?_
    | with_reducible refine State.nackChunk_keeps hP ?_
    | with_reducible refine State.meBump_keeps hP ?_
    | with_reducible refine Keeps.pair (by assumption) ?_
    | with_reducible refine Keeps.pair1 (by assumption) ?_
    | fail_if_no_progress with_reducible refine Keeps.mk hP ?_
    | split

theorem State.takePart_keeps {s : State} {a1 : _} {a2 : _} {a3 : _} {a4 : _} {a5 : _} (h : P s) :
    P (State.takePart s a1 a2 a3 a4 a5) := by
  unfold State.takePart
  repeat' first
    | with_reducible assumption
    | with_reducible refine Keeps.ite ?_ ?_
    | with_reducible refine Keeps.iteC ?_ ?_
    | with_reducible refine Keeps.foldl ?_ (fun t x ht => ?_)
    | with_reducible refine State.collPut_keeps hP ?_
    | with_reducible refine State.nackChunk_keeps hP ?_
    | with_reducible refine State.refuseChunk_keeps hP ?_
    | with_reducible refine State.meBump_keeps hP ?_
    | with_reducible refine State.collGo_keeps hP ?_
    | with_reducible refine Keeps.pair (by assumption) ?_
    | with_reducible refine Keeps.pair1 (by assumption) ?_
    | fail_if_no_progress with_reducible refine Keeps.mk hP ?_
    | split
    | dsimp only

theorem execData_keeps {a0 : _} {s : State} (h : P s) :
    ∀ t, execData a0 s = .next t → P t := by
  unfold execData
  refine Keeps.next ?_
  repeat' first
    | with_reducible assumption
    | with_reducible refine Keeps.ite ?_ ?_
    | with_reducible refine Keeps.iteC ?_ ?_
    | with_reducible refine Keeps.foldl ?_ (fun t x ht => ?_)
    | with_reducible refine State.cmRow_keeps hP ?_ (fun t x1 x2 ht => ?_)
    | with_reducible refine State.traffic_keeps hP ?_
    | with_reducible refine State.dupChunk_keeps hP ?_
    | with_reducible refine State.takePart_keeps hP ?_
    | with_reducible refine State.collFail_keeps hP ?_
    | with_reducible refine State.stray_keeps hP ?_
    | with_reducible refine Keeps.pair (by assumption) ?_
    | with_reducible refine Keeps.pair1 (by assumption) ?_
    | fail_if_no_progress with_reducible refine Keeps.mk hP ?_
    | split

theorem State.resendChunk_keeps {s : State} {a1 : _} {a2 : _} {a3 : _} {a4 : _} (h : P s) :
    P (State.resendChunk s a1 a2 a3 a4).1 := by
  unfold State.resendChunk
  repeat' first
    | with_reducible assumption
    | with_reducible refine Keeps.ite ?_ ?_
    | with_reducible refine Keeps.iteC ?_ ?_
    | with_reducible refine Keeps.foldl ?_ (fun t x ht => ?_)
    | with_reducible refine State.sendChunk_keeps hP ?_
    | with_reducible refine State.meBump_keeps hP ?_

theorem execChunkAck_keeps {a0 : _} {s : State} (h : P s) :
    ∀ t, execChunkAck a0 s = .next t → P t := by
  unfold execChunkAck
  refine Keeps.next ?_
  repeat' first
    | with_reducible assumption
    | with_reducible refine Keeps.ite ?_ ?_
    | with_reducible refine Keeps.foldl ?_ (fun t x ht => ?_)
    | with_reducible refine State.cmRow_keeps hP ?_ (fun t x1 x2 ht => ?_)
    | with_reducible refine State.resendChunk_keeps hP ?_
    | with_reducible refine State.collGo_keeps hP ?_
    | with_reducible refine State.collPut_keeps hP ?_
    | with_reducible refine Keeps.pair (by assumption) ?_
    | with_reducible refine Keeps.pair1 (by assumption) ?_
    | fail_if_no_progress with_reducible refine Keeps.mk hP ?_
    | split
    | dsimp only

theorem State.gatherMma_keeps {s : State} {a1 : _} {a2 : _} {a3 : _} (h : P s) :
    P (State.gatherMma s a1 a2 a3).2 := by
  unfold State.gatherMma
  repeat' first
    | with_reducible assumption
    | with_reducible refine Keeps.ite ?_ ?_
    | with_reducible refine Keeps.iteC ?_ ?_
    | with_reducible refine Keeps.foldl ?_ (fun t x ht => ?_)
    | with_reducible refine State.fusedRun_keeps hP ?_
    | with_reducible refine State.setTile_keeps hP ?_

theorem State.collDone_keeps {s : State} {a1 : _} {a2 : _} {a3 : _} (h : P s) :
    P (State.collDone s a1 a2 a3) := by
  unfold State.collDone
  repeat' first
    | with_reducible assumption
    | with_reducible refine Keeps.ite ?_ ?_
    | with_reducible refine Keeps.iteC ?_ ?_
    | with_reducible refine Keeps.foldl ?_ (fun t x ht => ?_)
    | with_reducible refine State.collPut_keeps hP ?_
    | with_reducible refine State.fset_keeps hP ?_
    | with_reducible refine State.meRegs_keeps hP ?_
    | with_reducible refine State.meBump_keeps hP ?_
    | with_reducible refine State.ctrAdd_keeps hP ?_

theorem State.lateTrap_keeps {s : State} {a1 : _} {a2 : _} {a3 : _} (h : P s) :
    P (State.lateTrap s a1 a2 a3) := by
  unfold State.lateTrap
  repeat' first
    | with_reducible assumption
    | with_reducible refine Keeps.ite ?_ ?_
    | with_reducible refine Keeps.iteC ?_ ?_
    | with_reducible refine Keeps.foldl ?_ (fun t x ht => ?_)
    | with_reducible refine State.trapAt_keeps hP ?_

theorem State.collComplete_keeps {s : State} {a1 : _} {a2 : _} (h : P s) :
    P (State.collComplete s a1 a2) := by
  unfold State.collComplete
  repeat' first
    | with_reducible assumption
    | with_reducible refine Keeps.ite ?_ ?_
    | with_reducible refine Keeps.iteC ?_ ?_
    | with_reducible refine Keeps.foldl ?_ (fun t x ht => ?_)
    | with_reducible refine State.collDone_keeps hP ?_
    | with_reducible refine State.lateTrap_keeps hP ?_
    | with_reducible refine State.gatherMma_keeps hP ?_
    | with_reducible refine Keeps.pair (by assumption) ?_
    | with_reducible refine Keeps.pair1 (by assumption) ?_
    | fail_if_no_progress with_reducible refine Keeps.mk hP ?_
    | split

theorem State.collLost_keeps {s : State} {a1 : _} {a2 : _} {a3 : _} (h : P s) :
    P (State.collLost s a1 a2 a3) := by
  unfold State.collLost
  repeat' first
    | with_reducible assumption
    | with_reducible refine Keeps.ite ?_ ?_
    | with_reducible refine Keeps.iteC ?_ ?_
    | with_reducible refine Keeps.foldl ?_ (fun t x ht => ?_)
    | with_reducible refine State.castAbort_keeps hP ?_
    | with_reducible refine State.collPut_keeps hP ?_
    | with_reducible refine State.report_keeps hP ?_
    | with_reducible refine State.noteFail_keeps hP ?_
    | with_reducible refine State.meRegs_keeps hP ?_
    | with_reducible refine State.collComplete_keeps hP ?_

theorem State.chunkFail_keeps {s : State} {a1 : _} {a2 : _} {a3 : _} (h : P s) :
    P (State.chunkFail s a1 a2 a3) := by
  unfold State.chunkFail
  repeat' first
    | with_reducible assumption
    | with_reducible refine Keeps.ite ?_ ?_
    | with_reducible refine Keeps.iteC ?_ ?_
    | with_reducible refine Keeps.foldl ?_ (fun t x ht => ?_)
    | with_reducible refine State.collPut_keeps hP ?_
    | with_reducible refine State.resendChunk_keeps hP ?_
    | with_reducible refine State.collFail_keeps hP ?_
    | with_reducible refine State.collLost_keeps hP ?_

theorem execNack_keeps {a0 : _} {s : State} (h : P s) :
    ∀ t, execNack a0 s = .next t → P t := by
  unfold execNack
  refine Keeps.next ?_
  repeat' first
    | with_reducible assumption
    | with_reducible refine Keeps.ite ?_ ?_
    | with_reducible refine Keeps.foldl ?_ (fun t x ht => ?_)
    | with_reducible refine State.cmRow_keeps hP ?_ (fun t x1 x2 ht => ?_)
    | with_reducible refine State.collPut_keeps hP ?_
    | with_reducible refine State.chunkFail_keeps hP ?_
    | with_reducible refine Keeps.pair (by assumption) ?_
    | with_reducible refine Keeps.pair1 (by assumption) ?_
    | fail_if_no_progress with_reducible refine Keeps.mk hP ?_
    | split
    | dsimp only

theorem execChunkResend_keeps {a0 : _} {s : State} (h : P s) :
    ∀ t, execChunkResend a0 s = .next t → P t := by
  unfold execChunkResend
  refine Keeps.next ?_
  repeat' first
    | with_reducible assumption
    | with_reducible refine Keeps.ite ?_ ?_
    | with_reducible refine Keeps.foldl ?_ (fun t x ht => ?_)
    | with_reducible refine State.resendChunk_keeps hP ?_
    | with_reducible refine State.collPut_keeps hP ?_
    | with_reducible refine State.chunkFail_keeps hP ?_
    | with_reducible refine Keeps.pair (by assumption) ?_
    | with_reducible refine Keeps.pair1 (by assumption) ?_
    | fail_if_no_progress with_reducible refine Keeps.mk hP ?_
    | split
    | dsimp only

theorem State.recordAbort_keeps {s : State} {a1 : _} {a2 : _} (h : P s) :
    P (State.recordAbort s a1 a2) := by
  unfold State.recordAbort
  repeat' first
    | with_reducible assumption
    | with_reducible refine Keeps.ite ?_ ?_
    | with_reducible refine Keeps.iteC ?_ ?_
    | with_reducible refine Keeps.foldl ?_ (fun t x ht => ?_)
    | with_reducible refine State.setMe_keeps hP ?_

theorem execAbort_keeps {a0 : _} {s : State} (h : P s) :
    ∀ t, execAbort a0 s = .next t → P t := by
  unfold execAbort
  refine Keeps.next ?_
  repeat' first
    | with_reducible assumption
    | with_reducible refine Keeps.ite ?_ ?_
    | with_reducible refine Keeps.iteC ?_ ?_
    | with_reducible refine Keeps.foldl ?_ (fun t x ht => ?_)
    | with_reducible refine State.recordAbort_keeps hP ?_
    | with_reducible refine Keeps.ofSome2 (State.takeCm_keeps hP ?_) (by assumption)
    | with_reducible refine State.collAbort_keeps hP ?_
    | with_reducible refine State.meBump_keeps hP ?_
    | with_reducible refine State.stray_keeps hP ?_
    | with_reducible refine Keeps.pair (by assumption) ?_
    | with_reducible refine Keeps.pair1 (by assumption) ?_
    | fail_if_no_progress with_reducible refine Keeps.mk hP ?_
    | split

theorem execReadyRepeat_keeps {a0 : _} {s : State} (h : P s) :
    ∀ t, execReadyRepeat a0 s = .next t → P t := by
  unfold execReadyRepeat
  refine Keeps.next ?_
  repeat' first
    | with_reducible assumption
    | with_reducible refine Keeps.ite ?_ ?_
    | with_reducible refine Keeps.iteC ?_ ?_
    | with_reducible refine Keeps.foldl ?_ (fun t x ht => ?_)
    | with_reducible refine Keeps.foldl2 ?_ (fun b t x ht => ?_)
    | with_reducible refine State.collPut_keeps hP ?_
    | with_reducible refine State.cmCast_keeps hP ?_

theorem execStall_keeps {a0 : _} {s : State} (h : P s) :
    ∀ t, execStall a0 s = .next t → P t := by
  unfold execStall
  refine Keeps.next ?_
  repeat' first
    | with_reducible assumption
    | with_reducible refine Keeps.ite ?_ ?_
    | with_reducible refine Keeps.iteC ?_ ?_
    | with_reducible refine Keeps.foldl ?_ (fun t x ht => ?_)
    | with_reducible refine State.draw_keeps hP ?_
    | with_reducible refine State.collFail_keeps hP ?_
    | with_reducible refine Keeps.pair (by assumption) ?_
    | with_reducible refine Keeps.pair1 (by assumption) ?_
    | fail_if_no_progress with_reducible refine Keeps.mk hP ?_
    | split

theorem execCoastWait_keeps {a0 : _} {s : State} (h : P s) :
    ∀ t, execCoastWait a0 s = .next t → P t := by
  unfold execCoastWait
  refine Keeps.next ?_
  repeat' first
    | with_reducible assumption
    | with_reducible refine Keeps.ite ?_ ?_
    | with_reducible refine Keeps.iteC ?_ ?_
    | with_reducible refine Keeps.foldl ?_ (fun t x ht => ?_)
    | with_reducible refine State.collPut_keeps hP ?_
    | with_reducible refine State.meRegs_keeps hP ?_
    | with_reducible refine State.meBump_keeps hP ?_
    | with_reducible refine Keeps.pair (by assumption) ?_
    | with_reducible refine Keeps.pair1 (by assumption) ?_
    | fail_if_no_progress with_reducible refine Keeps.mk hP ?_
    | split
    | dsimp only

theorem execCollectiveDone_keeps {a0 : _} {s : State} (h : P s) :
    ∀ t, execCollectiveDone a0 s = .next t → P t := by
  unfold execCollectiveDone
  refine Keeps.next ?_
  repeat' first
    | with_reducible assumption
    | with_reducible refine Keeps.ite ?_ ?_
    | with_reducible refine Keeps.iteC ?_ ?_
    | with_reducible refine Keeps.foldl ?_ (fun t x ht => ?_)
    | with_reducible refine State.collComplete_keeps hP ?_
    | with_reducible refine Keeps.pair (by assumption) ?_
    | with_reducible refine Keeps.pair1 (by assumption) ?_
    | fail_if_no_progress with_reducible refine Keeps.mk hP ?_
    | split

theorem State.collsEnd_keeps {s : State} (h : P s) :
    P (State.collsEnd s) := by
  unfold State.collsEnd
  repeat' first
    | with_reducible assumption
    | with_reducible refine Keeps.ite ?_ ?_
    | with_reducible refine Keeps.iteC ?_ ?_
    | with_reducible refine Keeps.foldl ?_ (fun t x ht => ?_)
    | with_reducible refine Keeps.foldl2 ?_ (fun b t x ht => ?_)
    | with_reducible refine State.setMe_keeps hP ?_
    | with_reducible refine State.meRegs_keeps hP ?_
    | with_reducible refine State.collAbort_keeps hP ?_
    | with_reducible refine State.collComplete_keeps hP ?_

theorem State.collsCommit_keeps {s : State} (h : P s) :
    P (State.collsCommit s) := by
  unfold State.collsCommit
  repeat' first
    | with_reducible assumption
    | with_reducible refine Keeps.ite ?_ ?_
    | with_reducible refine Keeps.foldl ?_ (fun t x ht => ?_)
    | with_reducible refine State.meRegs_keeps hP ?_
    | with_reducible refine State.setMe_keeps hP ?_

theorem State.collsCut_keeps {s : State} {a1 : _} {a2 : _} {a3 : _} (h : P s) :
    P (State.collsCut s a1 a2 a3) := by
  unfold State.collsCut
  repeat' first
    | with_reducible assumption
    | with_reducible refine Keeps.ite ?_ ?_
    | with_reducible refine Keeps.iteC ?_ ?_
    | with_reducible refine Keeps.foldl ?_ (fun t x ht => ?_)
    | with_reducible refine Keeps.foldl2 ?_ (fun b t x ht => ?_)
    | with_reducible refine State.tellTile_keeps hP ?_
    | with_reducible refine State.castAbort_keeps hP ?_
    | with_reducible refine State.setMe_keeps hP ?_
    | with_reducible refine State.breakCtr_keeps hP ?_
    | with_reducible refine State.meRegs_keeps hP ?_

theorem State.coastOff_keeps {s : State} (h : P s) :
    P (State.coastOff s) := by
  unfold State.coastOff
  repeat' first
    | with_reducible assumption
    | with_reducible refine Keeps.ite ?_ ?_
    | with_reducible refine Keeps.iteC ?_ ?_
    | with_reducible refine Keeps.foldl ?_ (fun t x ht => ?_)
    | with_reducible refine Keeps.foldl2 ?_ (fun b t x ht => ?_)
    | with_reducible refine State.setMe_keeps hP ?_
    | with_reducible refine State.meRegs_keeps hP ?_

theorem State.endFence_keeps {s : State} {a1 : _} {a2 : _} (h : P s) (hb2 : ∀ t, P t → P (a2 t)) :
    P (State.endFence s a1 a2) := by
  unfold State.endFence
  repeat' first
    | with_reducible assumption
    | with_reducible refine Keeps.ite ?_ ?_
    | with_reducible refine Keeps.foldl ?_ (fun t x ht => ?_)
    | with_reducible refine State.trap_keeps hP ?_
    | with_reducible refine hb2 _ ?_

theorem execFenceWaitEnd_keeps {a0 : _} {s : State} (h : P s) :
    ∀ t, execFenceWaitEnd a0 s = .next t → P t := by
  unfold execFenceWaitEnd
  refine Keeps.next ?_
  repeat' first
    | with_reducible assumption
    | with_reducible refine Keeps.ite ?_ ?_
    | with_reducible refine Keeps.foldl ?_ (fun t x ht => ?_)
    | with_reducible refine State.endFence_keeps hP ?_ (fun t ht => ?_)
    | with_reducible refine State.resume_keeps hP ?_

theorem execHaltDone_keeps {a0 : _} {s : State} (h : P s) :
    ∀ t, execHaltDone a0 s = .next t → P t := by
  unfold execHaltDone
  refine Keeps.next ?_
  repeat' first
    | with_reducible assumption
    | with_reducible refine Keeps.ite ?_ ?_
    | with_reducible refine Keeps.foldl ?_ (fun t x ht => ?_)
    | with_reducible refine State.endFence_keeps hP ?_ (fun t ht => ?_)
    | with_reducible refine State.evalHeld_keeps hP ?_
    | with_reducible refine State.setTileState_keeps hP ?_
    | with_reducible refine State.setTile_keeps hP ?_

end Sys2Proof.Machine
end

