-- ==== Sys2Proof/Laws/Keep/Load.lean ====
section
/-! SUPPORT. Every operation of Machine/Load.lean keeps a closed predicate (see Laws/Keep.lean). -/

namespace Sys2Proof.Machine

variable {P : State → Prop} (hP : Closed P)
include hP

theorem State.placeTiles_keeps {s : State} {a1 : _} {a2 : _} (h : P s) :
    P (State.placeTiles s a1 a2) := by
  induction a2 generalizing s a1
  · simp only [State.placeTiles]
    repeat' first
      | with_reducible assumption
  · rename_i ih
    simp only [State.placeTiles]
    repeat' first
      | with_reducible assumption
      | with_reducible refine Keeps.ite ?_ ?_
      | with_reducible refine Keeps.foldl ?_ (fun t x ht => ?_)
      | with_reducible refine State.writeBytes_keeps hP ?_
      | with_reducible refine State.setTile_keeps hP ?_
      | with_reducible refine ih ?_
      | with_reducible refine Keeps.pair (by assumption) ?_
      | with_reducible refine Keeps.pair1 (by assumption) ?_
      | fail_if_no_progress with_reducible refine Keeps.mk hP ?_
      | split

theorem State.place_keeps {s : State} {a1 : _} (h : P s) :
    P (State.place s a1) := by
  unfold State.place
  repeat' first
    | with_reducible assumption
    | with_reducible refine Keeps.ite ?_ ?_
    | with_reducible refine Keeps.foldl ?_ (fun t x ht => ?_)
    | with_reducible refine State.placeTiles_keeps hP ?_
    | with_reducible refine Keeps.pair (by assumption) ?_
    | with_reducible refine Keeps.pair1 (by assumption) ?_
    | fail_if_no_progress with_reducible refine Keeps.mk hP ?_

theorem State.loadImage_keeps {s : State} {a1 : _} (h : P s) :
    P (State.loadImage s a1).2 := by
  unfold State.loadImage
  repeat' first
    | with_reducible assumption
    | with_reducible refine Keeps.ite ?_ ?_
    | with_reducible refine Keeps.foldl ?_ (fun t x ht => ?_)
    | with_reducible refine State.place_keeps hP ?_
    | with_reducible refine State.odPut_keeps hP ?_

theorem State.unload_keeps {s : State} (h : P s) :
    P (State.unload s) := by
  unfold State.unload
  repeat' first
    | with_reducible assumption
    | with_reducible refine Keeps.ite ?_ ?_
    | with_reducible refine Keeps.foldl ?_ (fun t x ht => ?_)
    | with_reducible refine Keeps.pair (by assumption) ?_
    | with_reducible refine Keeps.pair1 (by assumption) ?_
    | fail_if_no_progress with_reducible refine Keeps.mk hP ?_

end Sys2Proof.Machine
end

