-- ==== Sys2Proof/Laws/Keep/Wayside.lean ====
section
/-! SUPPORT. Every operation of Machine/Wayside.lean keeps a closed predicate (see Laws/Keep.lean). -/

namespace Sys2Proof.Machine

variable {P : State → Prop} (hP : Closed P)
include hP

omit hP in
theorem bindR_keeps {ε α β : Type} {e : Except ε α × State} {k : α → State → Except ε β × State} (h : P e.2)
    (hk : ∀ x t, P t → P (k x t).2) : P (bindR e k).2 := by
  rcases e with ⟨e | e, t⟩
  · exact h
  · exact hk _ _ h

theorem State.setWeng_keeps {s : State} {a1 : _} {a2 : _} (h : P s) :
    P (State.setWeng s a1 a2) := by
  unfold State.setWeng
  repeat' first
    | with_reducible assumption
    | with_reducible refine Keeps.ite ?_ ?_
    | with_reducible refine Keeps.foldl ?_ (fun t x ht => ?_)
    | with_reducible refine Keeps.pair (by assumption) ?_
    | with_reducible refine Keeps.pair1 (by assumption) ?_
    | fail_if_no_progress with_reducible refine Keeps.mk hP ?_

theorem State.setWeState_keeps {s : State} {a1 : _} {a2 : _} (h : P s) :
    P (State.setWeState s a1 a2) := by
  unfold State.setWeState
  repeat' first
    | with_reducible assumption
    | with_reducible refine Keeps.ite ?_ ?_
    | with_reducible refine Keeps.foldl ?_ (fun t x ht => ?_)
    | with_reducible refine State.fset_keeps hP ?_

theorem State.weSync_keeps {s : State} {a1 : _} (h : P s) :
    P (State.weSync s a1) := by
  unfold State.weSync
  repeat' first
    | with_reducible assumption
    | with_reducible refine Keeps.ite ?_ ?_
    | with_reducible refine Keeps.foldl ?_ (fun t x ht => ?_)
    | with_reducible refine State.fset_keeps hP ?_
    | with_reducible refine State.setFlag_keeps hP ?_

theorem State.weRest_keeps {s : State} {a1 : _} (h : P s) :
    P (State.weRest s a1) := by
  unfold State.weRest
  repeat' first
    | with_reducible assumption
    | with_reducible refine Keeps.ite ?_ ?_
    | with_reducible refine Keeps.foldl ?_ (fun t x ht => ?_)
    | with_reducible refine State.setWeState_keeps hP ?_
    | with_reducible refine Keeps.pair (by assumption) ?_
    | with_reducible refine Keeps.pair1 (by assumption) ?_
    | fail_if_no_progress with_reducible refine Keeps.mk hP ?_
    | split

theorem State.weHalt_keeps {s : State} {a1 : _} (h : P s) :
    P (State.weHalt s a1) := by
  unfold State.weHalt
  exact State.setWeState_keeps hP (State.setWeng_keeps hP h)

theorem State.putWeng_keeps {s : State} {a1 : _} {a2 : _} (h : P s) :
    P (State.putWeng s a1 a2) := by
  unfold State.putWeng
  repeat' first
    | with_reducible assumption
    | with_reducible refine Keeps.ite ?_ ?_
    | with_reducible refine Keeps.foldl ?_ (fun t x ht => ?_)
    | with_reducible refine State.weSync_keeps hP ?_
    | with_reducible refine State.setWeng_keeps hP ?_

theorem State.weTell_keeps {s : State} {a1 : _} {a2 : _} {a3 : _} (h : P s) :
    P (State.weTell s a1 a2 a3) := by
  unfold State.weTell
  repeat' first
    | with_reducible assumption
    | with_reducible refine Keeps.ite ?_ ?_
    | with_reducible refine Keeps.foldl ?_ (fun t x ht => ?_)
    | with_reducible refine Keeps.pair (by assumption) ?_
    | with_reducible refine Keeps.pair1 (by assumption) ?_
    | fail_if_no_progress with_reducible refine Keeps.mk hP ?_

theorem State.wePost_keeps {s : State} {a1 : _} {a2 : _} {a3 : _} (h : P s) :
    P (State.wePost s a1 a2 a3).2 := by
  unfold State.wePost
  repeat' first
    | with_reducible assumption
    | with_reducible refine Keeps.ite ?_ ?_
    | with_reducible refine Keeps.iteC ?_ ?_
    | with_reducible refine Keeps.foldl ?_ (fun t x ht => ?_)
    | with_reducible refine State.bump_keeps hP ?_
    | with_reducible refine State.weRest_keeps hP ?_
    | with_reducible refine State.fset_keeps hP ?_
    | with_reducible refine State.putWeng_keeps hP ?_
    | with_reducible refine State.report_keeps hP ?_

theorem State.wePostWrite_keeps {s : State} {a1 : _} {a2 : _} (h : P s) :
    P (State.wePostWrite s a1 a2) := by
  unfold State.wePostWrite
  repeat' first
    | with_reducible assumption
    | with_reducible refine Keeps.ite ?_ ?_
    | with_reducible refine Keeps.iteC ?_ ?_
    | with_reducible refine Keeps.foldl ?_ (fun t x ht => ?_)
    | with_reducible refine Keeps.foldl2 ?_ (fun b t x ht => ?_)
    | with_reducible refine State.csrPut_keeps hP ?_

theorem State.weCapture_keeps {s : State} {a1 : _} {a2 : _} {a3 : _} {a4 : _} (h : P s) :
    P (State.weCapture s a1 a2 a3 a4) := by
  unfold State.weCapture
  repeat' first
    | with_reducible assumption
    | with_reducible refine Keeps.ite ?_ ?_
    | with_reducible refine Keeps.foldl ?_ (fun t x ht => ?_)
    | with_reducible refine State.capture_keeps hP ?_

theorem State.weCancelAll_keeps {s : State} {a1 : _} {a2 : _} (h : P s) :
    P (State.weCancelAll s a1 a2) := by
  induction a2 generalizing s a1
  · simp only [State.weCancelAll]
    repeat' first
      | with_reducible assumption
  · rename_i ih
    simp only [State.weCancelAll]
    repeat' first
      | with_reducible assumption
      | with_reducible refine Keeps.ite ?_ ?_
      | with_reducible refine Keeps.foldl ?_ (fun t x ht => ?_)
      | with_reducible refine State.weTell_keeps hP ?_
      | with_reducible refine State.weCapture_keeps hP ?_
      | with_reducible refine ih ?_

theorem State.weClear_keeps {s : State} {a1 : _} (h : P s) :
    P (State.weClear s a1) := by
  unfold State.weClear
  repeat' first
    | with_reducible assumption
    | with_reducible refine Keeps.ite ?_ ?_
    | with_reducible refine Keeps.foldl ?_ (fun t x ht => ?_)
    | with_reducible refine State.putWeng_keeps hP ?_
    | with_reducible refine State.weCancelAll_keeps hP ?_
    | with_reducible refine State.setWeState_keeps hP ?_

theorem execWePostGo_keeps {a0 : _} {a1 : _} {s : State} (h : P s) :
    ∀ t, execWePostGo a0 a1 s = .next t → P t := by
  unfold execWePostGo
  refine Keeps.next ?_
  repeat' first
    | with_reducible assumption
    | with_reducible refine Keeps.ite ?_ ?_
    | with_reducible refine Keeps.iteC ?_ ?_
    | with_reducible refine Keeps.foldl ?_ (fun t x ht => ?_)
    | with_reducible refine State.byParty_keeps hP ?_ (fun t ht => ?_)
    | with_reducible refine State.regCmd_keeps hP ?_ (fun t ht => ?_)
    | with_reducible refine State.wePost_keeps hP ?_

theorem execWeClear_keeps {a0 : _} {a1 : _} {s : State} (h : P s) :
    ∀ t, execWeClear a0 a1 s = .next t → P t := by
  unfold execWeClear
  refine Keeps.next ?_
  repeat' first
    | with_reducible assumption
    | with_reducible refine Keeps.ite ?_ ?_
    | with_reducible refine Keeps.iteC ?_ ?_
    | with_reducible refine Keeps.foldl ?_ (fun t x ht => ?_)
    | with_reducible refine State.byParty_keeps hP ?_ (fun t ht => ?_)
    | with_reducible refine State.weClear_keeps hP ?_
    | with_reducible refine State.regCmd_keeps hP ?_ (fun t ht => ?_)

theorem State.weFail_keeps {s : State} {a1 : _} {a2 : _} {a3 : _} {a4 : _} (h : P s) :
    P (State.weFail s a1 a2 a3 a4) := by
  unfold State.weFail
  repeat' first
    | with_reducible assumption
    | with_reducible refine Keeps.ite ?_ ?_
    | with_reducible refine Keeps.foldl ?_ (fun t x ht => ?_)
    | with_reducible refine State.weHalt_keeps hP ?_
    | with_reducible refine State.weCapture_keeps hP ?_
    | with_reducible refine State.weTell_keeps hP ?_
    | with_reducible refine State.report_keeps hP ?_

theorem execWeError_keeps {a0 : _} {s : State} (h : P s) :
    ∀ t, execWeError a0 s = .next t → P t := by
  unfold execWeError
  refine Keeps.next ?_
  repeat' first
    | with_reducible assumption
    | with_reducible refine Keeps.ite ?_ ?_
    | with_reducible refine Keeps.foldl ?_ (fun t x ht => ?_)
    | with_reducible refine State.weFail_keeps hP ?_
    | with_reducible refine State.putWeng_keeps hP ?_
    | with_reducible refine Keeps.pair (by assumption) ?_
    | with_reducible refine Keeps.pair1 (by assumption) ?_
    | fail_if_no_progress with_reducible refine Keeps.mk hP ?_
    | split
    | dsimp only

theorem State.weBytes_keeps {s : State} {a1 : _} {a2 : _} {a3 : _} (h : P s) :
    P (State.weBytes s a1 a2 a3) := by
  unfold State.weBytes
  repeat' first
    | with_reducible assumption
    | with_reducible refine Keeps.ite ?_ ?_
    | with_reducible refine Keeps.foldl ?_ (fun t x ht => ?_)
    | with_reducible refine State.traffic_keeps hP ?_

theorem State.weRead_keeps {s : State} {a1 : _} {a2 : _} {a3 : _} {a4 : _} (h : P s) :
    P (State.weRead s a1 a2 a3 a4).2 := by
  unfold State.weRead
  repeat' first
    | with_reducible assumption
    | with_reducible refine Keeps.ite ?_ ?_
    | with_reducible refine Keeps.foldl ?_ (fun t x ht => ?_)
    | with_reducible refine bindR_keeps ?_ (fun x t ht => ?_)
    | with_reducible refine State.readElems_keeps hP ?_
    | with_reducible refine State.weBytes_keeps hP ?_

theorem State.weWrite_keeps {s : State} {a1 : _} {a2 : _} {a3 : _} {a4 : _} (h : P s) :
    P (State.weWrite s a1 a2 a3 a4).2 := by
  unfold State.weWrite
  repeat' first
    | with_reducible assumption
    | with_reducible refine Keeps.ite ?_ ?_
    | with_reducible refine Keeps.iteC ?_ ?_
    | with_reducible refine Keeps.foldl ?_ (fun t x ht => ?_)
    | with_reducible refine Keeps.foldl2 ?_ (fun b t x ht => ?_)
    | with_reducible refine State.runsWrite_keeps hP ?_
    | with_reducible refine State.runsPre_keeps hP ?_
    | with_reducible refine State.weBytes_keeps hP ?_
    | with_reducible refine Keeps.pair (by assumption) ?_
    | with_reducible refine Keeps.pair1 (by assumption) ?_
    | fail_if_no_progress with_reducible refine Keeps.mk hP ?_
    | split

theorem State.weEmit_keeps {s : State} {a1 : _} {a2 : _} {a3 : _} {a4 : _} {a5 : _} {a6 : _} (h : P s) :
    P (State.weEmit s a1 a2 a3 a4 a5 a6).2 := by
  unfold State.weEmit
  repeat' first
    | with_reducible assumption
    | with_reducible refine Keeps.ite ?_ ?_
    | with_reducible refine Keeps.foldl ?_ (fun t x ht => ?_)
    | with_reducible refine bindR_keeps ?_ (fun x t ht => ?_)
    | with_reducible refine State.weWrite_keeps hP ?_
    | with_reducible refine State.weStatus_keeps hP ?_

theorem State.weDrop_keeps {s : State} {a1 : _} (h : P s) :
    P (State.weDrop s a1) := by
  unfold State.weDrop
  repeat' first
    | with_reducible assumption
    | with_reducible refine Keeps.ite ?_ ?_
    | with_reducible refine Keeps.foldl ?_ (fun t x ht => ?_)
    | with_reducible refine State.bump_keeps hP ?_

theorem State.weCopied_keeps {s : State} {a1 : _} {a2 : _} {a3 : _} (h : P s) :
    P (State.weCopied s a1 a2 a3) := by
  unfold State.weCopied
  repeat' first
    | with_reducible assumption
    | with_reducible refine Keeps.ite ?_ ?_
    | with_reducible refine Keeps.iteC ?_ ?_
    | with_reducible refine Keeps.foldl ?_ (fun t x ht => ?_)
    | with_reducible refine State.weStatus_keeps hP ?_

theorem State.weGather_keeps {s : State} {a1 : _} {a2 : _} {a3 : _} {a4 : _} (h : P s) :
    P (State.weGather s a1 a2 a3 a4).2 := by
  induction a4 generalizing s a1 a2 a3
  · simp only [State.weGather]
    repeat' first
      | with_reducible assumption
  · rename_i ih
    simp only [State.weGather]
    repeat' first
      | with_reducible assumption
      | with_reducible refine Keeps.ite ?_ ?_
      | with_reducible refine Keeps.iteC ?_ ?_
      | with_reducible refine Keeps.foldl ?_ (fun t x ht => ?_)
      | with_reducible refine State.weCopied_keeps hP ?_
      | with_reducible refine State.weWrite_keeps hP ?_
      | with_reducible refine State.weRead_keeps hP ?_
      | with_reducible refine bindR_keeps ?_ (fun x t ht => ?_)
      | with_reducible refine State.weDrop_keeps hP ?_
      | with_reducible refine ih ?_
      | with_reducible refine Keeps.pair (by assumption) ?_
      | with_reducible refine Keeps.pair1 (by assumption) ?_
      | fail_if_no_progress with_reducible refine Keeps.mk hP ?_
      | split

theorem State.weScatter_keeps {s : State} {a1 : _} {a2 : _} {a3 : _} {a4 : _} {a5 : _} (h : P s) :
    P (State.weScatter s a1 a2 a3 a4 a5).2 := by
  induction a5 generalizing s a1 a2 a3 a4
  · simp only [State.weScatter]
    repeat' first
      | with_reducible assumption
  · rename_i ih
    simp only [State.weScatter]
    repeat' first
      | with_reducible assumption
      | with_reducible refine Keeps.ite ?_ ?_
      | with_reducible refine Keeps.foldl ?_ (fun t x ht => ?_)
      | with_reducible refine bindR_keeps ?_ (fun x t ht => ?_)
      | with_reducible refine State.weRead_keeps hP ?_
      | with_reducible refine State.weWrite_keeps hP ?_
      | with_reducible refine State.weStatus_keeps hP ?_
      | with_reducible refine State.weDrop_keeps hP ?_
      | with_reducible refine ih ?_
      | with_reducible refine Keeps.pair (by assumption) ?_
      | with_reducible refine Keeps.pair1 (by assumption) ?_
      | fail_if_no_progress with_reducible refine Keeps.mk hP ?_
      | split

theorem State.weBagRows_keeps {s : State} {a1 : _} {a2 : _} {a3 : _} (h : P s) :
    P (State.weBagRows s a1 a2 a3).2 := by
  induction a3 generalizing s a1 a2
  · simp only [State.weBagRows]
    repeat' first
      | with_reducible assumption
  · rename_i ih
    simp only [State.weBagRows]
    repeat' first
      | with_reducible assumption
      | with_reducible refine Keeps.ite ?_ ?_
      | with_reducible refine Keeps.foldl ?_ (fun t x ht => ?_)
      | with_reducible refine bindR_keeps ?_ (fun x t ht => ?_)
      | with_reducible refine State.weRead_keeps hP ?_
      | with_reducible refine State.weDrop_keeps hP ?_
      | with_reducible refine ih ?_
      | with_reducible refine Keeps.pair (by assumption) ?_
      | with_reducible refine Keeps.pair1 (by assumption) ?_
      | fail_if_no_progress with_reducible refine Keeps.mk hP ?_
      | split

theorem State.drawRow_keeps {s : State} {a1 : _} {a2 : _} (h : P s) :
    P (State.drawRow s a1 a2).2 := by
  induction a2 generalizing s a1
  · simp only [State.drawRow]
    repeat' first
      | with_reducible assumption
  · rename_i ih
    simp only [State.drawRow]
    repeat' first
      | with_reducible assumption
      | with_reducible refine Keeps.ite ?_ ?_
      | with_reducible refine Keeps.foldl ?_ (fun t x ht => ?_)
      | with_reducible refine State.draw_keeps hP ?_
      | with_reducible refine ih ?_

theorem State.weBags_keeps {s : State} {a1 : _} {a2 : _} {a3 : _} {a4 : _} {a5 : _} {a6 : _} (h : P s) :
    P (State.weBags s a1 a2 a3 a4 a5 a6).2 := by
  induction a6 generalizing s a1 a2 a3 a4 a5
  · simp only [State.weBags]
    repeat' first
      | with_reducible assumption
  · rename_i ih
    simp only [State.weBags]
    repeat' first
      | with_reducible assumption
      | with_reducible refine Keeps.ite ?_ ?_
      | with_reducible refine Keeps.foldl ?_ (fun t x ht => ?_)
      | with_reducible refine State.drawRow_keeps hP ?_
      | with_reducible refine bindR_keeps ?_ (fun x t ht => ?_)
      | with_reducible refine State.weWrite_keeps hP ?_
      | with_reducible refine State.weBagRows_keeps hP ?_
      | with_reducible refine State.weEmit_keeps hP ?_
      | with_reducible refine ih ?_
      | with_reducible refine Keeps.pair (by assumption) ?_
      | with_reducible refine Keeps.pair1 (by assumption) ?_
      | fail_if_no_progress with_reducible refine Keeps.mk hP ?_
      | split

theorem State.weList_keeps {s : State} {a1 : _} {a2 : _} {a3 : _} {a4 : _} {a5 : _} (h : P s) :
    P (State.weList s a1 a2 a3 a4 a5).2 := by
  unfold State.weList
  repeat' first
    | with_reducible assumption
    | with_reducible refine Keeps.ite ?_ ?_
    | with_reducible refine Keeps.foldl ?_ (fun t x ht => ?_)
    | with_reducible refine State.weRead_keeps hP ?_
    | with_reducible refine Keeps.pair (by assumption) ?_
    | with_reducible refine Keeps.pair1 (by assumption) ?_
    | fail_if_no_progress with_reducible refine Keeps.mk hP ?_
    | split

theorem State.weElemwise_keeps {s : State} {a1 : _} {a2 : _} (h : P s) :
    P (State.weElemwise s a1 a2).2 := by
  unfold State.weElemwise
  repeat' first
    | with_reducible assumption
    | with_reducible refine Keeps.ite ?_ ?_
    | with_reducible refine Keeps.foldl ?_ (fun t x ht => ?_)
    | with_reducible refine bindR_keeps ?_ (fun x t ht => ?_)
    | with_reducible refine State.weList_keeps hP ?_
    | with_reducible refine State.weEmit_keeps hP ?_

theorem State.weReduce_keeps {s : State} {a1 : _} {a2 : _} {a3 : _} {a4 : _} (h : P s) :
    P (State.weReduce s a1 a2 a3 a4).2 := by
  induction a3 generalizing s a1 a2 a4
  · simp only [State.weReduce]
    repeat' first
      | with_reducible assumption
      | with_reducible refine Keeps.ite ?_ ?_
      | with_reducible refine Keeps.foldl ?_ (fun t x ht => ?_)
      | with_reducible refine State.weEmit_keeps hP ?_
  · rename_i ih
    simp only [State.weReduce]
    repeat' first
      | with_reducible assumption
      | with_reducible refine Keeps.ite ?_ ?_
      | with_reducible refine Keeps.foldl ?_ (fun t x ht => ?_)
      | with_reducible refine State.weEmit_keeps hP ?_
      | with_reducible refine bindR_keeps ?_ (fun x t ht => ?_)
      | with_reducible refine State.weRead_keeps hP ?_
      | with_reducible refine ih ?_

theorem State.weGrid_keeps {s : State} {a1 : _} {a2 : _} {a3 : _} {a4 : _} (h : P s) :
    P (State.weGrid s a1 a2 a3 a4).2 := by
  unfold State.weGrid
  repeat' first
    | with_reducible assumption
    | with_reducible refine Keeps.ite ?_ ?_
    | with_reducible refine Keeps.foldl ?_ (fun t x ht => ?_)
    | with_reducible refine bindR_keeps ?_ (fun x t ht => ?_)
    | with_reducible refine State.weRead_keeps hP ?_

theorem State.weAttn_keeps {s : State} {a1 : _} {a2 : _} {a3 : _} {a4 : _} {a5 : _} (h : P s) :
    P (State.weAttn s a1 a2 a3 a4 a5).2 := by
  induction a5 generalizing s a1 a2 a3 a4
  · simp only [State.weAttn]
    repeat' first
      | with_reducible assumption
  · rename_i ih
    simp only [State.weAttn]
    repeat' first
      | with_reducible assumption
      | with_reducible refine Keeps.ite ?_ ?_
      | with_reducible refine Keeps.iteC ?_ ?_
      | with_reducible refine Keeps.foldl ?_ (fun t x ht => ?_)
      | with_reducible refine State.weWrite_keeps hP ?_
      | with_reducible refine State.weEmit_keeps hP ?_
      | with_reducible refine bindR_keeps ?_ (fun x t ht => ?_)
      | with_reducible refine ih ?_

theorem State.weQuant_keeps {s : State} {a1 : _} {a2 : _} {a3 : _} {a4 : _} {a5 : _} {a6 : _} {a7 : _} {a8 : _} (h : P s) :
    P (State.weQuant s a1 a2 a3 a4 a5 a6 a7 a8).2 := by
  induction a6 generalizing s a1 a2 a3 a4 a5 a7 a8
  · simp only [State.weQuant]
    repeat' first
      | with_reducible assumption
  · rename_i ih
    simp only [State.weQuant]
    repeat' first
      | with_reducible assumption
      | with_reducible refine Keeps.ite ?_ ?_
      | with_reducible refine Keeps.iteC ?_ ?_
      | with_reducible refine Keeps.foldl ?_ (fun t x ht => ?_)
      | with_reducible refine State.weStatus_keeps hP ?_
      | with_reducible refine State.weWrite_keeps hP ?_
      | with_reducible refine bindR_keeps ?_ (fun x t ht => ?_)
      | with_reducible refine ih ?_

theorem State.weDequant_keeps {s : State} {a1 : _} {a2 : _} (h : P s) :
    P (State.weDequant s a1 a2).2 := by
  unfold State.weDequant
  repeat' first
    | with_reducible assumption
    | with_reducible refine Keeps.ite ?_ ?_
    | with_reducible refine Keeps.foldl ?_ (fun t x ht => ?_)
    | with_reducible refine bindR_keeps ?_ (fun x t ht => ?_)
    | with_reducible refine State.weList_keeps hP ?_
    | with_reducible refine State.weRead_keeps hP ?_
    | with_reducible refine State.weEmit_keeps hP ?_

theorem State.weTopk_keeps {s : State} {a1 : _} {a2 : _} {a3 : _} (h : P s) :
    P (State.weTopk s a1 a2 a3).2 := by
  induction a3 generalizing s a1 a2
  · simp only [State.weTopk]
    repeat' first
      | with_reducible assumption
  · rename_i ih
    simp only [State.weTopk]
    repeat' first
      | with_reducible assumption
      | with_reducible refine Keeps.ite ?_ ?_
      | with_reducible refine Keeps.foldl ?_ (fun t x ht => ?_)
      | with_reducible refine bindR_keeps ?_ (fun x t ht => ?_)
      | with_reducible refine State.weRead_keeps hP ?_
      | with_reducible refine State.weEmit_keeps hP ?_
      | with_reducible refine State.weWrite_keeps hP ?_
      | with_reducible refine ih ?_

theorem State.weCompact_keeps {s : State} {a1 : _} {a2 : _} (h : P s) :
    P (State.weCompact s a1 a2).2 := by
  unfold State.weCompact
  repeat' first
    | with_reducible assumption
    | with_reducible refine Keeps.ite ?_ ?_
    | with_reducible refine Keeps.iteC ?_ ?_
    | with_reducible refine Keeps.foldl ?_ (fun t x ht => ?_)
    | with_reducible refine State.weCopied_keeps hP ?_
    | with_reducible refine State.weWrite_keeps hP ?_
    | with_reducible refine State.weList_keeps hP ?_
    | with_reducible refine bindR_keeps ?_ (fun x t ht => ?_)

theorem State.weWork_keeps {s : State} {a1 : _} {a2 : _} (h : P s) :
    P (State.weWork s a1 a2).2 := by
  unfold State.weWork
  repeat' first
    | with_reducible assumption
    | with_reducible refine Keeps.ite ?_ ?_
    | with_reducible refine Keeps.foldl ?_ (fun t x ht => ?_)
    | with_reducible refine bindR_keeps ?_ (fun x t ht => ?_)
    | with_reducible refine State.weList_keeps hP ?_
    | with_reducible refine State.weGather_keeps hP ?_
    | with_reducible refine State.weBags_keeps hP ?_
    | with_reducible refine State.weScatter_keeps hP ?_
    | with_reducible refine State.weElemwise_keeps hP ?_
    | with_reducible refine State.weReduce_keeps hP ?_
    | with_reducible refine State.weGrid_keeps hP ?_
    | with_reducible refine State.weAttn_keeps hP ?_
    | with_reducible refine State.weQuant_keeps hP ?_
    | with_reducible refine State.weDequant_keeps hP ?_
    | with_reducible refine State.weTopk_keeps hP ?_
    | with_reducible refine State.weCompact_keeps hP ?_
    | with_reducible refine Keeps.pair (by assumption) ?_
    | with_reducible refine Keeps.pair1 (by assumption) ?_
    | fail_if_no_progress with_reducible refine Keeps.mk hP ?_
    | split

theorem State.weStart_keeps {s : State} {a1 : _} {a2 : _} (h : P s) :
    P (State.weStart s a1 a2) := by
  unfold State.weStart
  repeat' first
    | with_reducible assumption
    | with_reducible refine Keeps.ite ?_ ?_
    | with_reducible refine Keeps.foldl ?_ (fun t x ht => ?_)
    | with_reducible refine State.setWeState_keeps hP ?_
    | with_reducible refine State.putWeng_keeps hP ?_
    | with_reducible refine State.weWork_keeps hP ?_
    | with_reducible refine State.setWeng_keeps hP ?_
    | with_reducible refine Keeps.pair (by assumption) ?_
    | with_reducible refine Keeps.pair1 (by assumption) ?_
    | fail_if_no_progress with_reducible refine Keeps.mk hP ?_
    | split
    | dsimp only

theorem execGather_keeps {a0 : _} {s : State} (h : P s) :
    ∀ t, execGather a0 s = .next t → P t := by
  unfold execGather
  refine Keeps.next ?_
  repeat' first
    | with_reducible assumption
    | with_reducible refine Keeps.ite ?_ ?_
    | with_reducible refine Keeps.foldl ?_ (fun t x ht => ?_)
    | with_reducible refine State.weStart_keeps hP ?_

theorem execEmbedBag_keeps {a0 : _} {s : State} (h : P s) :
    ∀ t, execEmbedBag a0 s = .next t → P t := by
  unfold execEmbedBag
  refine Keeps.next ?_
  repeat' first
    | with_reducible assumption
    | with_reducible refine Keeps.ite ?_ ?_
    | with_reducible refine Keeps.foldl ?_ (fun t x ht => ?_)
    | with_reducible refine State.weStart_keeps hP ?_

theorem execScatterAdd_keeps {a0 : _} {s : State} (h : P s) :
    ∀ t, execScatterAdd a0 s = .next t → P t := by
  unfold execScatterAdd
  refine Keeps.next ?_
  repeat' first
    | with_reducible assumption
    | with_reducible refine Keeps.ite ?_ ?_
    | with_reducible refine Keeps.foldl ?_ (fun t x ht => ?_)
    | with_reducible refine State.weStart_keeps hP ?_

theorem execElemwise_keeps {a0 : _} {s : State} (h : P s) :
    ∀ t, execElemwise a0 s = .next t → P t := by
  unfold execElemwise
  refine Keeps.next ?_
  repeat' first
    | with_reducible assumption
    | with_reducible refine Keeps.ite ?_ ?_
    | with_reducible refine Keeps.foldl ?_ (fun t x ht => ?_)
    | with_reducible refine State.weStart_keeps hP ?_

theorem execReduce_keeps {a0 : _} {s : State} (h : P s) :
    ∀ t, execReduce a0 s = .next t → P t := by
  unfold execReduce
  refine Keeps.next ?_
  repeat' first
    | with_reducible assumption
    | with_reducible refine Keeps.ite ?_ ?_
    | with_reducible refine Keeps.foldl ?_ (fun t x ht => ?_)
    | with_reducible refine State.weStart_keeps hP ?_

theorem execAttnDecode_keeps {a0 : _} {s : State} (h : P s) :
    ∀ t, execAttnDecode a0 s = .next t → P t := by
  unfold execAttnDecode
  refine Keeps.next ?_
  repeat' first
    | with_reducible assumption
    | with_reducible refine Keeps.ite ?_ ?_
    | with_reducible refine Keeps.foldl ?_ (fun t x ht => ?_)
    | with_reducible refine State.weStart_keeps hP ?_

theorem execQuantMx_keeps {a0 : _} {s : State} (h : P s) :
    ∀ t, execQuantMx a0 s = .next t → P t := by
  unfold execQuantMx
  refine Keeps.next ?_
  repeat' first
    | with_reducible assumption
    | with_reducible refine Keeps.ite ?_ ?_
    | with_reducible refine Keeps.foldl ?_ (fun t x ht => ?_)
    | with_reducible refine State.weStart_keeps hP ?_

theorem execDequantMx_keeps {a0 : _} {s : State} (h : P s) :
    ∀ t, execDequantMx a0 s = .next t → P t := by
  unfold execDequantMx
  refine Keeps.next ?_
  repeat' first
    | with_reducible assumption
    | with_reducible refine Keeps.ite ?_ ?_
    | with_reducible refine Keeps.foldl ?_ (fun t x ht => ?_)
    | with_reducible refine State.weStart_keeps hP ?_

theorem execTopk_keeps {a0 : _} {s : State} (h : P s) :
    ∀ t, execTopk a0 s = .next t → P t := by
  unfold execTopk
  refine Keeps.next ?_
  repeat' first
    | with_reducible assumption
    | with_reducible refine Keeps.ite ?_ ?_
    | with_reducible refine Keeps.foldl ?_ (fun t x ht => ?_)
    | with_reducible refine State.weStart_keeps hP ?_

theorem execCompact_keeps {a0 : _} {s : State} (h : P s) :
    ∀ t, execCompact a0 s = .next t → P t := by
  unfold execCompact
  refine Keeps.next ?_
  repeat' first
    | with_reducible assumption
    | with_reducible refine Keeps.ite ?_ ?_
    | with_reducible refine Keeps.foldl ?_ (fun t x ht => ?_)
    | with_reducible refine State.weStart_keeps hP ?_

theorem execWeDescDone_keeps {a0 : _} {s : State} (h : P s) :
    ∀ t, execWeDescDone a0 s = .next t → P t := by
  unfold execWeDescDone
  refine Keeps.next ?_
  repeat' first
    | with_reducible assumption
    | with_reducible refine Keeps.ite ?_ ?_
    | with_reducible refine Keeps.foldl ?_ (fun t x ht => ?_)
    | with_reducible refine State.weRest_keeps hP ?_
    | with_reducible refine State.putWeng_keeps hP ?_
    | with_reducible refine State.bump_keeps hP ?_
    | with_reducible refine State.ctrAdd_keeps hP ?_
    | with_reducible refine State.weTell_keeps hP ?_
    | with_reducible refine Keeps.pair (by assumption) ?_
    | with_reducible refine Keeps.pair1 (by assumption) ?_
    | fail_if_no_progress with_reducible refine Keeps.mk hP ?_
    | split

theorem State.weCommitted_keeps {s : State} {a1 : _} {a2 : _} (h : P s) :
    P (State.weCommitted s a1 a2) := by
  unfold State.weCommitted
  repeat' first
    | with_reducible assumption
    | with_reducible refine Keeps.ite ?_ ?_
    | with_reducible refine Keeps.foldl ?_ (fun t x ht => ?_)
    | with_reducible refine State.putWeng_keeps hP ?_

theorem State.weAborted_keeps {s : State} {a1 : _} {a2 : _} (h : P s) :
    P (State.weAborted s a1 a2) := by
  unfold State.weAborted
  repeat' first
    | with_reducible assumption
    | with_reducible refine Keeps.ite ?_ ?_
    | with_reducible refine Keeps.foldl ?_ (fun t x ht => ?_)
    | with_reducible refine State.putWeng_keeps hP ?_
    | with_reducible refine State.bump_keeps hP ?_

theorem execEpochApply_keeps {a0 : _} {s : State} (h : P s) :
    ∀ t, execEpochApply a0 s = .next t → P t := by
  unfold execEpochApply
  refine Keeps.next ?_
  repeat' first
    | with_reducible assumption
    | with_reducible refine Keeps.ite ?_ ?_
    | with_reducible refine Keeps.iteC ?_ ?_
    | with_reducible refine Keeps.foldl ?_ (fun t x ht => ?_)
    | with_reducible refine State.setWeState_keeps hP ?_
    | with_reducible refine State.listRead_keeps hP ?_

theorem State.weOpt_keeps {s : State} {a1 : _} {a2 : _} {a3 : _} (h : P s) :
    P (State.weOpt s a1 a2 a3).2 := by
  unfold State.weOpt
  repeat' first
    | with_reducible assumption
    | with_reducible refine Keeps.ite ?_ ?_
    | with_reducible refine Keeps.iteC ?_ ?_
    | with_reducible refine Keeps.foldl ?_ (fun t x ht => ?_)
    | with_reducible refine State.weStatus_keeps hP ?_
    | with_reducible refine State.weQuant_keeps hP ?_
    | with_reducible refine State.weWrite_keeps hP ?_
    | with_reducible refine State.weRead_keeps hP ?_
    | with_reducible refine State.weEmit_keeps hP ?_
    | with_reducible refine bindR_keeps ?_ (fun x t ht => ?_)

theorem State.weAction_keeps {s : State} {a1 : _} {a2 : _} (h : P s) :
    P (State.weAction s a1 a2) := by
  unfold State.weAction
  repeat' first
    | with_reducible assumption
    | with_reducible refine Keeps.ite ?_ ?_
    | with_reducible refine Keeps.iteC ?_ ?_
    | with_reducible refine Keeps.foldl ?_ (fun t x ht => ?_)
    | with_reducible refine State.putWeng_keeps hP ?_
    | with_reducible refine State.weCapture_keeps hP ?_
    | with_reducible refine State.setWeng_keeps hP ?_
    | with_reducible refine State.report_keeps hP ?_
    | with_reducible refine State.weHalt_keeps hP ?_
    | with_reducible refine State.ctrAdd_keeps hP ?_
    | with_reducible refine State.weOpt_keeps hP ?_
    | with_reducible refine Keeps.pair (by assumption) ?_
    | with_reducible refine Keeps.pair1 (by assumption) ?_
    | fail_if_no_progress with_reducible refine Keeps.mk hP ?_
    | split
    | dsimp only

theorem execOptSgdm_keeps {a0 : _} {s : State} (h : P s) :
    ∀ t, execOptSgdm a0 s = .next t → P t := by
  unfold execOptSgdm
  refine Keeps.next ?_
  repeat' first
    | with_reducible assumption
    | with_reducible refine Keeps.ite ?_ ?_
    | with_reducible refine Keeps.foldl ?_ (fun t x ht => ?_)
    | with_reducible refine State.weAction_keeps hP ?_

theorem execOptAdamw_keeps {a0 : _} {s : State} (h : P s) :
    ∀ t, execOptAdamw a0 s = .next t → P t := by
  unfold execOptAdamw
  refine Keeps.next ?_
  repeat' first
    | with_reducible assumption
    | with_reducible refine Keeps.ite ?_ ?_
    | with_reducible refine Keeps.foldl ?_ (fun t x ht => ?_)
    | with_reducible refine State.weAction_keeps hP ?_

theorem execApplied_keeps {a0 : _} {s : State} (h : P s) :
    ∀ t, execApplied a0 s = .next t → P t := by
  unfold execApplied
  refine Keeps.next ?_
  repeat' first
    | with_reducible assumption
    | with_reducible refine Keeps.ite ?_ ?_
    | with_reducible refine Keeps.foldl ?_ (fun t x ht => ?_)
    | with_reducible refine State.putWeng_keeps hP ?_
    | with_reducible refine State.weRest_keeps hP ?_
    | with_reducible refine State.fset_keeps hP ?_
    | with_reducible refine Keeps.pair (by assumption) ?_
    | with_reducible refine Keeps.pair1 (by assumption) ?_
    | fail_if_no_progress with_reducible refine Keeps.mk hP ?_
    | split
    | dsimp only

end Sys2Proof.Machine
end

