-- ==== Sys2Proof/Laws/Keep/Epochs.lean ====
section
/-! SUPPORT. Every operation of Machine/Epochs.lean keeps a closed predicate (see Laws/Keep.lean). -/

namespace Sys2Proof.Machine

variable {P : State → Prop} (hP : Closed P)
include hP

theorem State.setRing_keeps {s : State} {a1 : _} {a2 : _} (h : P s) :
    P (State.setRing s a1 a2) := by
  unfold State.setRing
  repeat' first
    | with_reducible assumption
    | with_reducible refine Keeps.ite ?_ ?_
    | with_reducible refine Keeps.foldl ?_ (fun t x ht => ?_)
    | with_reducible refine Keeps.pair (by assumption) ?_
    | with_reducible refine Keeps.pair1 (by assumption) ?_
    | fail_if_no_progress with_reducible refine Keeps.mk hP ?_

theorem State.stopRing_keeps {s : State} {a1 : _} {a2 : _} {a3 : _} (h : P s) :
    P (State.stopRing s a1 a2 a3) := by
  unfold State.stopRing
  repeat' first
    | with_reducible assumption
    | with_reducible refine Keeps.ite ?_ ?_
    | with_reducible refine Keeps.foldl ?_ (fun t x ht => ?_)
    | with_reducible refine State.fset_keeps hP ?_
    | with_reducible refine State.setRing_keeps hP ?_
    | with_reducible refine State.event_keeps hP ?_

theorem State.syncMirror_keeps {s : State} (h : P s) :
    P (State.syncMirror s) := by
  unfold State.syncMirror
  repeat' first
    | with_reducible assumption
    | with_reducible refine Keeps.ite ?_ ?_
    | with_reducible refine Keeps.foldl ?_ (fun t x ht => ?_)
    | with_reducible refine Keeps.pair (by assumption) ?_
    | with_reducible refine Keeps.pair1 (by assumption) ?_
    | fail_if_no_progress with_reducible refine Keeps.mk hP ?_

theorem State.epMod_keeps {s : State} {a1 : _} (h : P s) :
    P (State.epMod s a1) := by
  unfold State.epMod
  repeat' first
    | with_reducible assumption
    | with_reducible refine Keeps.ite ?_ ?_
    | with_reducible refine Keeps.foldl ?_ (fun t x ht => ?_)
    | with_reducible refine Keeps.pair (by assumption) ?_
    | with_reducible refine Keeps.pair1 (by assumption) ?_
    | fail_if_no_progress with_reducible refine Keeps.mk hP ?_

theorem State.setEstate_keeps {s : State} {a1 : _} (h : P s) :
    P (State.setEstate s a1) := by
  unfold State.setEstate
  repeat' first
    | with_reducible assumption
    | with_reducible refine Keeps.ite ?_ ?_
    | with_reducible refine Keeps.foldl ?_ (fun t x ht => ?_)
    | with_reducible refine State.syncMirror_keeps hP ?_
    | with_reducible refine State.fset_keeps hP ?_

theorem State.barSend_keeps {s : State} {a1 : _} {a2 : _} (h : P s) :
    P (State.barSend s a1 a2) := by
  unfold State.barSend
  repeat' first
    | with_reducible assumption
    | with_reducible refine Keeps.ite ?_ ?_
    | with_reducible refine Keeps.foldl ?_ (fun t x ht => ?_)
    | with_reducible refine State.sendPkt_keeps hP ?_

theorem State.barTo_keeps {s : State} {a1 : _} {a2 : _} {a3 : _} {a4 : _} {a5 : _} (h : P s) :
    P (State.barTo s a1 a2 a3 a4 a5) := by
  unfold State.barTo
  repeat' first
    | with_reducible assumption
    | with_reducible refine Keeps.ite ?_ ?_
    | with_reducible refine Keeps.foldl ?_ (fun t x ht => ?_)
    | with_reducible refine State.barSend_keeps hP ?_

theorem State.countStray_keeps {s : State} (h : P s) :
    P (State.countStray s) := by
  unfold State.countStray
  repeat' first
    | with_reducible assumption
    | with_reducible refine Keeps.ite ?_ ?_
    | with_reducible refine Keeps.foldl ?_ (fun t x ht => ?_)
    | with_reducible refine State.bump_keeps hP ?_

theorem State.memberCommit_keeps {s : State} {a1 : _} {a2 : _} (h : P s) :
    P (State.memberCommit s a1 a2) := by
  unfold State.memberCommit
  repeat' first
    | with_reducible assumption
    | with_reducible refine Keeps.ite ?_ ?_
    | with_reducible refine Keeps.foldl ?_ (fun t x ht => ?_)
    | with_reducible refine State.fset_keeps hP ?_
    | with_reducible refine State.weCommitted_keeps hP ?_
    | with_reducible refine State.epMod_keeps hP ?_
    | with_reducible refine State.bump_keeps hP ?_
    | with_reducible refine State.collsCommit_keeps hP ?_
    | with_reducible refine State.setEstate_keeps hP ?_
    | with_reducible refine State.event_keeps hP ?_

theorem State.memberAbort_keeps {s : State} {a1 : _} {a2 : _} (h : P s) :
    P (State.memberAbort s a1 a2) := by
  unfold State.memberAbort
  repeat' first
    | with_reducible assumption
    | with_reducible refine Keeps.ite ?_ ?_
    | with_reducible refine Keeps.foldl ?_ (fun t x ht => ?_)
    | with_reducible refine State.fset_keeps hP ?_
    | with_reducible refine State.epMod_keeps hP ?_
    | with_reducible refine State.collsEnd_keeps hP ?_
    | with_reducible refine State.setEstate_keeps hP ?_
    | with_reducible refine State.stopRing_keeps hP ?_
    | with_reducible refine Keeps.pair (by assumption) ?_
    | with_reducible refine Keeps.pair1 (by assumption) ?_
    | fail_if_no_progress with_reducible refine Keeps.mk hP ?_

theorem State.reopen_keeps {s : State} (h : P s) :
    P (State.reopen s) := by
  unfold State.reopen
  repeat' first
    | with_reducible assumption
    | with_reducible refine Keeps.ite ?_ ?_
    | with_reducible refine Keeps.iteC ?_ ?_
    | with_reducible refine Keeps.foldl ?_ (fun t x ht => ?_)
    | with_reducible refine Keeps.foldl2 ?_ (fun b t x ht => ?_)
    | with_reducible refine State.setEstate_keeps hP ?_
    | with_reducible refine State.bump_keeps hP ?_
    | with_reducible refine State.metaClean_keeps hP ?_
    | with_reducible refine State.fset_keeps hP ?_
    | with_reducible refine State.epMod_keeps hP ?_
    | with_reducible refine State.collsEnd_keeps hP ?_
    | with_reducible refine State.weAborted_keeps hP ?_
    | with_reducible refine State.event_keeps hP ?_
    | (refine hP.frame (hP.sweep ?_ _) rfl rfl rfl rfl rfl rfl rfl rfl rfl rfl rfl)

theorem State.tell_keeps {s : State} {a1 : _} {a2 : _} (h : P s) :
    P (State.tell s a1 a2) := by
  unfold State.tell
  repeat' first
    | with_reducible assumption
    | with_reducible refine Keeps.ite ?_ ?_
    | with_reducible refine Keeps.foldl ?_ (fun t x ht => ?_)
    | with_reducible refine State.barTo_keeps hP ?_

theorem State.tellAll_keeps {s : State} {a1 : _} (h : P s) :
    P (State.tellAll s a1) := by
  unfold State.tellAll
  repeat' first
    | with_reducible assumption
    | with_reducible refine Keeps.ite ?_ ?_
    | with_reducible refine Keeps.foldl ?_ (fun t x ht => ?_)
    | with_reducible refine State.epMod_keeps hP ?_
    | with_reducible refine State.tell_keeps hP ?_

theorem State.decide__keeps {s : State} {a1 : _} {a2 : _} {a3 : _} (h : P s) :
    P (State.decide_ s a1 a2 a3) := by
  unfold State.decide_
  repeat' first
    | with_reducible assumption
    | with_reducible refine Keeps.ite ?_ ?_
    | with_reducible refine Keeps.foldl ?_ (fun t x ht => ?_)
    | with_reducible refine State.epMod_keeps hP ?_
    | with_reducible refine State.memberCommit_keeps hP ?_
    | with_reducible refine State.memberAbort_keeps hP ?_
    | with_reducible refine State.tellAll_keeps hP ?_

theorem State.onVote_keeps {s : State} {a1 : _} {a2 : _} {a3 : _} (h : P s) :
    P (State.onVote s a1 a2 a3) := by
  unfold State.onVote
  repeat' first
    | with_reducible assumption
    | with_reducible refine Keeps.ite ?_ ?_
    | with_reducible refine Keeps.foldl ?_ (fun t x ht => ?_)
    | with_reducible refine State.tell_keeps hP ?_
    | with_reducible refine State.decide__keeps hP ?_
    | with_reducible refine State.epMod_keeps hP ?_
    | with_reducible refine Keeps.pair (by assumption) ?_
    | with_reducible refine Keeps.pair1 (by assumption) ?_
    | fail_if_no_progress with_reducible refine Keeps.mk hP ?_
    | split

theorem State.onQuery_keeps {s : State} {a1 : _} {a2 : _} {a3 : _} (h : P s) :
    P (State.onQuery s a1 a2 a3) := by
  unfold State.onQuery
  repeat' first
    | with_reducible assumption
    | with_reducible refine Keeps.ite ?_ ?_
    | with_reducible refine Keeps.foldl ?_ (fun t x ht => ?_)
    | with_reducible refine State.tell_keeps hP ?_
    | with_reducible refine State.decide__keeps hP ?_
    | with_reducible refine Keeps.pair (by assumption) ?_
    | with_reducible refine Keeps.pair1 (by assumption) ?_
    | fail_if_no_progress with_reducible refine Keeps.mk hP ?_
    | split

theorem State.cast_keeps {s : State} {a1 : _} {a2 : _} (h : P s) :
    P (State.cast s a1 a2) := by
  unfold State.cast
  repeat' first
    | with_reducible assumption
    | with_reducible refine Keeps.ite ?_ ?_
    | with_reducible refine Keeps.foldl ?_ (fun t x ht => ?_)
    | with_reducible refine State.setEstate_keeps hP ?_
    | with_reducible refine State.onVote_keeps hP ?_
    | with_reducible refine State.barTo_keeps hP ?_

theorem State.ilVote_keeps {s : State} {a1 : _} (h : P s) :
    P (State.ilVote s a1) := by
  unfold State.ilVote
  repeat' first
    | with_reducible assumption
    | with_reducible refine Keeps.ite ?_ ?_
    | with_reducible refine Keeps.foldl ?_ (fun t x ht => ?_)
    | with_reducible refine State.cast_keeps hP ?_

theorem State.resetVote_keeps {s : State} (h : P s) :
    P (State.resetVote s) := by
  unfold State.resetVote
  repeat' first
    | with_reducible assumption
    | with_reducible refine Keeps.ite ?_ ?_
    | with_reducible refine Keeps.foldl ?_ (fun t x ht => ?_)
    | with_reducible refine State.decide__keeps hP ?_
    | with_reducible refine State.memberAbort_keeps hP ?_
    | with_reducible refine State.barTo_keeps hP ?_

theorem State.barRow_keeps {s : State} {a1 : _} {a2 : _} {a3 : _} (h : P s) (hb3 : ∀ t x1, P t → P (a3 t x1)) :
    P (State.barRow s a1 a2 a3) := by
  unfold State.barRow
  repeat' first
    | with_reducible assumption
    | with_reducible refine Keeps.ite ?_ ?_
    | with_reducible refine Keeps.foldl ?_ (fun t x ht => ?_)
    | with_reducible refine State.countStray_keeps hP ?_
    | with_reducible refine hb3 _ _ ?_
    | with_reducible refine Keeps.pair (by assumption) ?_
    | with_reducible refine Keeps.pair1 (by assumption) ?_
    | fail_if_no_progress with_reducible refine Keeps.mk hP ?_
    | split

theorem execVoteDone_keeps {s : State} (h : P s) :
    ∀ t, execVoteDone s = .next t → P t := by
  unfold execVoteDone
  refine Keeps.next ?_
  repeat' first
    | with_reducible assumption
    | with_reducible refine Keeps.ite ?_ ?_
    | with_reducible refine Keeps.foldl ?_ (fun t x ht => ?_)
    | with_reducible refine State.barRow_keeps hP ?_ (fun t x1 ht => ?_)
    | with_reducible refine State.onVote_keeps hP ?_

theorem execVoteAbort_keeps {s : State} (h : P s) :
    ∀ t, execVoteAbort s = .next t → P t := by
  unfold execVoteAbort
  refine Keeps.next ?_
  repeat' first
    | with_reducible assumption
    | with_reducible refine Keeps.ite ?_ ?_
    | with_reducible refine Keeps.foldl ?_ (fun t x ht => ?_)
    | with_reducible refine State.barRow_keeps hP ?_ (fun t x1 ht => ?_)
    | with_reducible refine State.onVote_keeps hP ?_

theorem State.heldDecisions_keeps {s : State} (h : P s) :
    P (State.heldDecisions s) := by
  unfold State.heldDecisions
  repeat' first
    | with_reducible assumption
    | with_reducible refine Keeps.ite ?_ ?_
    | with_reducible refine Keeps.iteC ?_ ?_
    | with_reducible refine Keeps.foldl ?_ (fun t x ht => ?_)
    | with_reducible refine Keeps.foldl2 ?_ (fun b t x ht => ?_)
    | with_reducible refine State.draw_keeps hP ?_
    | with_reducible refine State.memberAbort_keeps hP ?_
    | with_reducible refine State.memberCommit_keeps hP ?_

theorem execDecideCommit_keeps {s : State} (h : P s) :
    ∀ t, execDecideCommit s = .next t → P t := by
  unfold execDecideCommit
  refine Keeps.next ?_
  repeat' first
    | with_reducible assumption
    | with_reducible refine Keeps.ite ?_ ?_
    | with_reducible refine Keeps.foldl ?_ (fun t x ht => ?_)
    | with_reducible refine State.barRow_keeps hP ?_ (fun t x1 ht => ?_)
    | with_reducible refine State.barTo_keeps hP ?_
    | with_reducible refine State.memberCommit_keeps hP ?_

theorem execDecideAbort_keeps {s : State} (h : P s) :
    ∀ t, execDecideAbort s = .next t → P t := by
  unfold execDecideAbort
  refine Keeps.next ?_
  repeat' first
    | with_reducible assumption
    | with_reducible refine Keeps.ite ?_ ?_
    | with_reducible refine Keeps.foldl ?_ (fun t x ht => ?_)
    | with_reducible refine State.barRow_keeps hP ?_ (fun t x1 ht => ?_)
    | with_reducible refine State.draw_keeps hP ?_
    | with_reducible refine State.memberAbort_keeps hP ?_
    | with_reducible refine State.barTo_keeps hP ?_

theorem execQuery_keeps {s : State} (h : P s) :
    ∀ t, execQuery s = .next t → P t := by
  unfold execQuery
  refine Keeps.next ?_
  repeat' first
    | with_reducible assumption
    | with_reducible refine Keeps.ite ?_ ?_
    | with_reducible refine Keeps.foldl ?_ (fun t x ht => ?_)
    | with_reducible refine State.barRow_keeps hP ?_ (fun t x1 ht => ?_)
    | with_reducible refine State.onQuery_keeps hP ?_
    | with_reducible refine State.barSend_keeps hP ?_
    | with_reducible refine Keeps.pair (by assumption) ?_
    | with_reducible refine Keeps.pair1 (by assumption) ?_
    | fail_if_no_progress with_reducible refine Keeps.mk hP ?_
    | split

theorem execBarrierAck_keeps {s : State} (h : P s) :
    ∀ t, execBarrierAck s = .next t → P t := by
  unfold execBarrierAck
  refine Keeps.next ?_
  repeat' first
    | with_reducible assumption
    | with_reducible refine Keeps.ite ?_ ?_
    | with_reducible refine Keeps.foldl ?_ (fun t x ht => ?_)
    | with_reducible refine State.barRow_keeps hP ?_ (fun t x1 ht => ?_)
    | with_reducible refine State.epMod_keeps hP ?_

theorem execUnknown_keeps {s : State} (h : P s) :
    ∀ t, execUnknown s = .next t → P t := by
  unfold execUnknown
  refine Keeps.next ?_
  repeat' first
    | with_reducible assumption
    | with_reducible refine Keeps.ite ?_ ?_
    | with_reducible refine Keeps.foldl ?_ (fun t x ht => ?_)
    | with_reducible refine State.barRow_keeps hP ?_ (fun t x1 ht => ?_)
    | with_reducible refine State.event_keeps hP ?_

theorem execEpochTimeout_keeps {s : State} (h : P s) :
    ∀ t, execEpochTimeout s = .next t → P t := by
  unfold execEpochTimeout
  refine Keeps.next ?_
  repeat' first
    | with_reducible assumption
    | with_reducible refine Keeps.ite ?_ ?_
    | with_reducible refine Keeps.foldl ?_ (fun t x ht => ?_)
    | with_reducible refine State.decide__keeps hP ?_

theorem execDecideResend_keeps {s : State} (h : P s) :
    ∀ t, execDecideResend s = .next t → P t := by
  unfold execDecideResend
  refine Keeps.next ?_
  repeat' first
    | with_reducible assumption
    | with_reducible refine Keeps.ite ?_ ?_
    | with_reducible refine Keeps.foldl ?_ (fun t x ht => ?_)
    | with_reducible refine State.epMod_keeps hP ?_
    | with_reducible refine State.tell_keeps hP ?_

theorem execQueryRepeat_keeps {s : State} (h : P s) :
    ∀ t, execQueryRepeat s = .next t → P t := by
  unfold execQueryRepeat
  refine Keeps.next ?_
  repeat' first
    | with_reducible assumption
    | with_reducible refine Keeps.ite ?_ ?_
    | with_reducible refine Keeps.foldl ?_ (fun t x ht => ?_)
    | with_reducible refine State.onQuery_keeps hP ?_
    | with_reducible refine State.barTo_keeps hP ?_

end Sys2Proof.Machine
end

