-- ==== Sys2Proof/Laws/Keep/Power.lean ====
section
/-! SUPPORT. Every operation of Machine/Power.lean keeps a closed predicate (see Laws/Keep.lean). -/

namespace Sys2Proof.Machine

variable {P : State → Prop} (hP : Closed P)
include hP

theorem State.govMod_keeps {s : State} {a1 : _} (h : P s) :
    P (State.govMod s a1) := by
  unfold State.govMod
  repeat' first
    | with_reducible assumption
    | with_reducible refine Keeps.ite ?_ ?_
    | with_reducible refine Keeps.foldl ?_ (fun t x ht => ?_)
    | with_reducible refine Keeps.pair (by assumption) ?_
    | with_reducible refine Keeps.pair1 (by assumption) ?_
    | fail_if_no_progress with_reducible refine Keeps.mk hP ?_

theorem State.pinFlags_keeps {s : State} (h : P s) :
    P (State.pinFlags s) := by
  unfold State.pinFlags
  repeat' first
    | with_reducible assumption
    | with_reducible refine Keeps.ite ?_ ?_
    | with_reducible refine Keeps.iteC ?_ ?_
    | with_reducible refine Keeps.foldl ?_ (fun t x ht => ?_)
    | with_reducible refine State.setFlag_keeps hP ?_

theorem State.liveFlags_keeps {s : State} (h : P s) :
    P (State.liveFlags s) := by
  unfold State.liveFlags
  repeat' first
    | with_reducible assumption
    | with_reducible refine Keeps.ite ?_ ?_
    | with_reducible refine Keeps.iteC ?_ ?_
    | with_reducible refine Keeps.foldl ?_ (fun t x ht => ?_)
    | with_reducible refine State.setFlag_keeps hP ?_

theorem State.effRegs_keeps {s : State} (h : P s) :
    P (State.effRegs s) := by
  unfold State.effRegs
  repeat' first
    | with_reducible assumption
    | with_reducible refine Keeps.ite ?_ ?_
    | with_reducible refine Keeps.iteC ?_ ?_
    | with_reducible refine Keeps.foldl ?_ (fun t x ht => ?_)
    | with_reducible refine State.fset_keeps hP ?_

theorem State.govEntries_keeps {s : State} (h : P s) :
    P (State.govEntries s) := by
  unfold State.govEntries
  repeat' first
    | with_reducible assumption
    | with_reducible refine Keeps.ite ?_ ?_
    | with_reducible refine Keeps.iteC ?_ ?_
    | with_reducible refine Keeps.foldl ?_ (fun t x ht => ?_)
    | with_reducible refine State.effRegs_keeps hP ?_
    | with_reducible refine State.fset_keeps hP ?_
    | with_reducible refine State.govMod_keeps hP ?_
    | with_reducible refine State.liveFlags_keeps hP ?_

theorem State.govEase_keeps {s : State} (h : P s) :
    P (State.govEase s) := by
  unfold State.govEase
  repeat' first
    | with_reducible assumption
    | with_reducible refine Keeps.ite ?_ ?_
    | with_reducible refine Keeps.iteC ?_ ?_
    | with_reducible refine Keeps.foldl ?_ (fun t x ht => ?_)
    | with_reducible refine State.effRegs_keeps hP ?_
    | with_reducible refine State.govMod_keeps hP ?_

theorem State.govLoad_keeps {s : State} (h : P s) :
    P (State.govLoad s) := by
  unfold State.govLoad
  repeat' first
    | with_reducible assumption
    | with_reducible refine Keeps.ite ?_ ?_
    | with_reducible refine Keeps.iteC ?_ ?_
    | with_reducible refine Keeps.foldl ?_ (fun t x ht => ?_)
    | with_reducible refine State.govEntries_keeps hP ?_
    | with_reducible refine State.liveFlags_keeps hP ?_
    | with_reducible refine State.govEase_keeps hP ?_

theorem State.oncePerS_keeps {s : State} {a1 : _} {a2 : _} (h : P s) (hb2 : ∀ t, P t → P (a2 t)) :
    P (State.oncePerS s a1 a2) := by
  unfold State.oncePerS
  repeat' first
    | with_reducible assumption
    | with_reducible refine Keeps.ite ?_ ?_
    | with_reducible refine Keeps.foldl ?_ (fun t x ht => ?_)
    | with_reducible refine State.govMod_keeps hP ?_
    | with_reducible refine hb2 _ ?_

theorem State.startEvent_keeps {s : State} (h : P s) :
    P (State.startEvent s) := by
  unfold State.startEvent
  repeat' first
    | with_reducible assumption
    | with_reducible refine Keeps.ite ?_ ?_
    | with_reducible refine Keeps.foldl ?_ (fun t x ht => ?_)
    | with_reducible refine State.govMod_keeps hP ?_
    | with_reducible refine State.fset_keeps hP ?_

theorem State.launchStart_keeps {s : State} (h : P s) :
    P (State.launchStart s) := by
  unfold State.launchStart
  repeat' first
    | with_reducible assumption
    | with_reducible refine Keeps.ite ?_ ?_
    | with_reducible refine Keeps.foldl ?_ (fun t x ht => ?_)
    | with_reducible refine State.startEvent_keeps hP ?_

theorem execStaggerEnd_keeps {s : State} (h : P s) :
    ∀ t, execStaggerEnd s = .next t → P t := by
  unfold execStaggerEnd
  refine Keeps.next ?_
  repeat' first
    | with_reducible assumption
    | with_reducible refine Keeps.ite ?_ ?_
    | with_reducible refine Keeps.iteC ?_ ?_
    | with_reducible refine Keeps.foldl ?_ (fun t x ht => ?_)
    | with_reducible refine State.fset_keeps hP ?_
    | with_reducible refine State.govMod_keeps hP ?_
    | with_reducible refine State.event_keeps hP ?_

theorem State.hintRegs_keeps {s : State} (h : P s) :
    P (State.hintRegs s) := by
  unfold State.hintRegs
  repeat' first
    | with_reducible assumption
    | with_reducible refine Keeps.ite ?_ ?_
    | with_reducible refine Keeps.iteC ?_ ?_
    | with_reducible refine Keeps.foldl ?_ (fun t x ht => ?_)
    | with_reducible refine Keeps.foldl2 ?_ (fun b t x ht => ?_)
    | with_reducible refine State.setFlag_keeps hP ?_
    | with_reducible refine State.fset_keeps hP ?_

theorem State.govHint_keeps {s : State} {a1 : _} {a2 : _} {a3 : _} {a4 : _} (h : P s) :
    P (State.govHint s a1 a2 a3 a4) := by
  unfold State.govHint
  repeat' first
    | with_reducible assumption
    | with_reducible refine Keeps.ite ?_ ?_
    | with_reducible refine Keeps.foldl ?_ (fun t x ht => ?_)
    | with_reducible refine State.fset_keeps hP ?_
    | with_reducible refine State.hintRegs_keeps hP ?_
    | with_reducible refine State.govMod_keeps hP ?_

theorem State.clearHints_keeps {s : State} (h : P s) :
    P (State.clearHints s) := by
  unfold State.clearHints
  repeat' first
    | with_reducible assumption
    | with_reducible refine Keeps.ite ?_ ?_
    | with_reducible refine Keeps.foldl ?_ (fun t x ht => ?_)
    | with_reducible refine State.hintRegs_keeps hP ?_
    | with_reducible refine State.govMod_keeps hP ?_

theorem State.freeSet_keeps {s : State} {a1 : _} (h : P s) :
    P (State.freeSet s a1).2 := by
  unfold State.freeSet
  repeat' first
    | with_reducible assumption
    | with_reducible refine Keeps.ite ?_ ?_
    | with_reducible refine Keeps.foldl ?_ (fun t x ht => ?_)
    | with_reducible refine State.draw_keeps hP ?_
    | with_reducible refine Keeps.pair (by assumption) ?_
    | with_reducible refine Keeps.pair1 (by assumption) ?_
    | fail_if_no_progress with_reducible refine Keeps.mk hP ?_
    | split
    | dsimp only

theorem State.ownPace_keeps {s : State} {a1 : _} {a2 : _} (h : P s) :
    P (State.ownPace s a1 a2) := by
  unfold State.ownPace
  repeat' first
    | with_reducible assumption
    | with_reducible refine Keeps.ite ?_ ?_
    | with_reducible refine Keeps.iteC ?_ ?_
    | with_reducible refine Keeps.foldl ?_ (fun t x ht => ?_)
    | with_reducible refine State.fset_keeps hP ?_
    | with_reducible refine State.setMe_keeps hP ?_
    | with_reducible refine State.meRegs_keeps hP ?_

theorem State.setRate_keeps {s : State} {a1 : _} (h : P s) :
    P (State.setRate s a1) := by
  unfold State.setRate
  repeat' first
    | with_reducible assumption
    | with_reducible refine Keeps.ite ?_ ?_
    | with_reducible refine Keeps.iteC ?_ ?_
    | with_reducible refine Keeps.foldl ?_ (fun t x ht => ?_)
    | with_reducible refine State.ownPace_keeps hP ?_
    | with_reducible refine State.draw_keeps hP ?_
    | with_reducible refine State.fset_keeps hP ?_
    | with_reducible refine Keeps.pair (by assumption) ?_
    | with_reducible refine Keeps.pair1 (by assumption) ?_
    | fail_if_no_progress with_reducible refine Keeps.mk hP ?_
    | split

theorem State.bsActuators_keeps {s : State} {a1 : _} (h : P s) :
    P (State.bsActuators s a1) := by
  unfold State.bsActuators
  repeat' first
    | with_reducible assumption
    | with_reducible refine Keeps.ite ?_ ?_
    | with_reducible refine Keeps.iteC ?_ ?_
    | with_reducible refine Keeps.foldl ?_ (fun t x ht => ?_)
    | with_reducible refine Keeps.foldl2 ?_ (fun b t x ht => ?_)
    | with_reducible refine State.setRate_keeps hP ?_
    | with_reducible refine State.hintRegs_keeps hP ?_
    | with_reducible refine State.fset_keeps hP ?_
    | with_reducible refine State.govMod_keeps hP ?_

theorem State.bsPermits_keeps {s : State} (h : P s) :
    P (State.bsPermits s) := by
  unfold State.bsPermits
  repeat' first
    | with_reducible assumption
    | with_reducible refine Keeps.ite ?_ ?_
    | with_reducible refine Keeps.iteC ?_ ?_
    | with_reducible refine Keeps.foldl ?_ (fun t x ht => ?_)
    | with_reducible refine State.draw_keeps hP ?_
    | with_reducible refine State.bsActuators_keeps hP ?_

theorem State.bsTick_keeps {s : State} (h : P s) :
    P (State.bsTick s) := by
  unfold State.bsTick
  repeat' first
    | with_reducible assumption
    | with_reducible refine Keeps.ite ?_ ?_
    | with_reducible refine Keeps.iteC ?_ ?_
    | with_reducible refine Keeps.foldl ?_ (fun t x ht => ?_)
    | with_reducible refine Keeps.foldl2 ?_ (fun b t x ht => ?_)
    | with_reducible refine State.setRate_keeps hP ?_
    | with_reducible refine State.hintRegs_keeps hP ?_
    | with_reducible refine State.bsPermits_keeps hP ?_

theorem State.bsEvent_keeps {s : State} {a1 : _} (h : P s) :
    P (State.bsEvent s a1) := by
  unfold State.bsEvent
  repeat' first
    | with_reducible assumption
    | with_reducible refine Keeps.ite ?_ ?_
    | with_reducible refine Keeps.iteC ?_ ?_
    | with_reducible refine Keeps.foldl ?_ (fun t x ht => ?_)
    | with_reducible refine State.event_keeps hP ?_

theorem State.bsCause_keeps {s : State} {a1 : _} (h : P s) :
    P (State.bsCause s a1) := by
  unfold State.bsCause
  repeat' first
    | with_reducible assumption
    | with_reducible refine Keeps.ite ?_ ?_
    | with_reducible refine Keeps.iteC ?_ ?_
    | with_reducible refine Keeps.foldl ?_ (fun t x ht => ?_)
    | with_reducible refine State.fset_keeps hP ?_
    | with_reducible refine State.govMod_keeps hP ?_

theorem State.enterBs_keeps {s : State} {a1 : _} (h : P s) :
    P (State.enterBs s a1) := by
  unfold State.enterBs
  repeat' first
    | with_reducible assumption
    | with_reducible refine Keeps.ite ?_ ?_
    | with_reducible refine Keeps.iteC ?_ ?_
    | with_reducible refine Keeps.foldl ?_ (fun t x ht => ?_)
    | with_reducible refine State.bsEvent_keeps hP ?_
    | with_reducible refine State.bsCause_keeps hP ?_
    | with_reducible refine State.bump_keeps hP ?_
    | with_reducible refine State.fset_keeps hP ?_
    | with_reducible refine State.report_keeps hP ?_
    | with_reducible refine State.govMod_keeps hP ?_
    | with_reducible refine State.bsActuators_keeps hP ?_

theorem State.releaseBs_keeps {s : State} (h : P s) :
    P (State.releaseBs s) := by
  unfold State.releaseBs
  repeat' first
    | with_reducible assumption
    | with_reducible refine Keeps.ite ?_ ?_
    | with_reducible refine Keeps.foldl ?_ (fun t x ht => ?_)
    | with_reducible refine State.fset_keeps hP ?_

theorem execPwrAlertAssert_keeps {s : State} (h : P s) :
    ∀ t, execPwrAlertAssert s = .next t → P t := by
  unfold execPwrAlertAssert
  refine Keeps.next ?_
  repeat' first
    | with_reducible assumption
    | with_reducible refine Keeps.ite ?_ ?_
    | with_reducible refine Keeps.iteC ?_ ?_
    | with_reducible refine Keeps.foldl ?_ (fun t x ht => ?_)
    | with_reducible refine State.govMod_keeps hP ?_
    | with_reducible refine State.pinFlags_keeps hP ?_
    | with_reducible refine State.enterBs_keeps hP ?_

theorem execPwrAlertRelease_keeps {s : State} (h : P s) :
    ∀ t, execPwrAlertRelease s = .next t → P t := by
  unfold execPwrAlertRelease
  refine Keeps.next ?_
  repeat' first
    | with_reducible assumption
    | with_reducible refine Keeps.ite ?_ ?_
    | with_reducible refine Keeps.foldl ?_ (fun t x ht => ?_)
    | with_reducible refine State.pinFlags_keeps hP ?_
    | with_reducible refine State.releaseBs_keeps hP ?_
    | with_reducible refine State.govMod_keeps hP ?_

theorem execInputCondition_keeps {a0 : _} {a1 : _} {s : State} (h : P s) :
    ∀ t, execInputCondition a0 a1 s = .next t → P t := by
  unfold execInputCondition
  refine Keeps.next ?_
  repeat' first
    | with_reducible assumption
    | with_reducible refine Keeps.ite ?_ ?_
    | with_reducible refine Keeps.foldl ?_ (fun t x ht => ?_)
    | with_reducible refine State.report_keeps hP ?_
    | with_reducible refine State.govMod_keeps hP ?_
    | with_reducible refine State.pinFlags_keeps hP ?_
    | with_reducible refine State.enterBs_keeps hP ?_
    | with_reducible refine State.releaseBs_keeps hP ?_

theorem execBsHoldEnd_keeps {s : State} (h : P s) :
    ∀ t, execBsHoldEnd s = .next t → P t := by
  unfold execBsHoldEnd
  refine Keeps.next ?_
  repeat' first
    | with_reducible assumption
    | with_reducible refine Keeps.ite ?_ ?_
    | with_reducible refine Keeps.iteC ?_ ?_
    | with_reducible refine Keeps.foldl ?_ (fun t x ht => ?_)
    | with_reducible refine State.bsEvent_keeps hP ?_
    | with_reducible refine State.govLoad_keeps hP ?_
    | with_reducible refine State.startEvent_keeps hP ?_
    | with_reducible refine State.fset_keeps hP ?_
    | with_reducible refine State.report_keeps hP ?_
    | with_reducible refine State.govMod_keeps hP ?_

theorem State.bladeCap_keeps {s : State} {a1 : _} (h : P s) :
    P (State.bladeCap s a1) := by
  unfold State.bladeCap
  repeat' first
    | with_reducible assumption
    | with_reducible refine Keeps.ite ?_ ?_
    | with_reducible refine Keeps.foldl ?_ (fun t x ht => ?_)
    | with_reducible refine State.pinFlags_keeps hP ?_
    | with_reducible refine State.fset_keeps hP ?_
    | with_reducible refine State.event_keeps hP ?_

theorem execBladeLoss_keeps {a0 : _} {s : State} (h : P s) :
    ∀ t, execBladeLoss a0 s = .next t → P t := by
  unfold execBladeLoss
  refine Keeps.next ?_
  repeat' first
    | with_reducible assumption
    | with_reducible refine Keeps.ite ?_ ?_
    | with_reducible refine Keeps.foldl ?_ (fun t x ht => ?_)
    | with_reducible refine State.govMod_keeps hP ?_
    | with_reducible refine State.bladeCap_keeps hP ?_
    | with_reducible refine State.report_keeps hP ?_

theorem execBladeReturn_keeps {a0 : _} {s : State} (h : P s) :
    ∀ t, execBladeReturn a0 s = .next t → P t := by
  unfold execBladeReturn
  refine Keeps.next ?_
  repeat' first
    | with_reducible assumption
    | with_reducible refine Keeps.ite ?_ ?_
    | with_reducible refine Keeps.foldl ?_ (fun t x ht => ?_)
    | with_reducible refine State.govMod_keeps hP ?_
    | with_reducible refine State.bladeCap_keeps hP ?_
    | with_reducible refine State.report_keeps hP ?_

theorem State.closeMs_keeps {s : State} (h : P s) :
    P (State.closeMs s) := by
  unfold State.closeMs
  repeat' first
    | with_reducible assumption
    | with_reducible refine Keeps.ite ?_ ?_
    | with_reducible refine Keeps.iteC ?_ ?_
    | with_reducible refine Keeps.foldl ?_ (fun t x ht => ?_)
    | with_reducible refine State.bump_keeps hP ?_
    | with_reducible refine State.draw_keeps hP ?_
    | with_reducible refine State.fset_keeps hP ?_
    | with_reducible refine State.oncePerS_keeps hP ?_ (fun t ht => ?_)
    | with_reducible refine State.govMod_keeps hP ?_
    | with_reducible refine State.event_keeps hP ?_
    | with_reducible refine Keeps.pair (by assumption) ?_
    | with_reducible refine Keeps.pair1 (by assumption) ?_
    | fail_if_no_progress with_reducible refine Keeps.mk hP ?_
    | split

theorem State.measure_keeps {s : State} {a1 : _} (h : P s) :
    P (State.measure s a1) := by
  unfold State.measure
  repeat' first
    | with_reducible assumption
    | with_reducible refine Keeps.ite ?_ ?_
    | with_reducible refine Keeps.iteC ?_ ?_
    | with_reducible refine Keeps.foldl ?_ (fun t x ht => ?_)
    | with_reducible refine Keeps.foldl2 ?_ (fun b t x ht => ?_)
    | with_reducible refine State.fset_keeps hP ?_
    | with_reducible refine State.traffic_keeps hP ?_
    | with_reducible refine State.govMod_keeps hP ?_
    | with_reducible refine State.closeMs_keeps hP ?_

theorem State.throttle_keeps {s : State} {a1 : _} (h : P s) :
    P (State.throttle s a1) := by
  unfold State.throttle
  repeat' first
    | with_reducible assumption
    | with_reducible refine Keeps.ite ?_ ?_
    | with_reducible refine Keeps.foldl ?_ (fun t x ht => ?_)
    | with_reducible refine State.freeSet_keeps hP ?_
    | with_reducible refine State.draw_keeps hP ?_
    | with_reducible refine State.fset_keeps hP ?_

theorem State.tileBallast_keeps {s : State} {a1 : _} {a2 : _} (h : P s) :
    P (State.tileBallast s a1 a2) := by
  induction a2 generalizing s a1
  · simp only [State.tileBallast]
    repeat' first
      | with_reducible assumption
  · rename_i ih
    simp only [State.tileBallast]
    repeat' first
      | with_reducible assumption
      | with_reducible refine Keeps.ite ?_ ?_
      | with_reducible refine Keeps.foldl ?_ (fun t x ht => ?_)
      | with_reducible refine State.draw_keeps hP ?_
      | with_reducible refine State.fset_keeps hP ?_
      | with_reducible refine ih ?_

theorem State.trimmed_keeps {s : State} {a1 : _} {a2 : _} (h : P s) :
    P (State.trimmed s a1 a2) := by
  unfold State.trimmed
  repeat' first
    | with_reducible assumption
    | with_reducible refine Keeps.ite ?_ ?_
    | with_reducible refine Keeps.iteC ?_ ?_
    | with_reducible refine Keeps.foldl ?_ (fun t x ht => ?_)
    | with_reducible refine State.draw_keeps hP ?_
    | with_reducible refine State.fset_keeps hP ?_

theorem State.allocate_keeps {s : State} {a1 : _} {a2 : _} (h : P s) :
    P (State.allocate s a1 a2) := by
  unfold State.allocate
  repeat' first
    | with_reducible assumption
    | with_reducible refine Keeps.ite ?_ ?_
    | with_reducible refine Keeps.iteC ?_ ?_
    | with_reducible refine Keeps.foldl ?_ (fun t x ht => ?_)
    | with_reducible refine Keeps.foldl2 ?_ (fun b t x ht => ?_)
    | with_reducible refine State.setRate_keeps hP ?_
    | with_reducible refine State.fset_keeps hP ?_
    | with_reducible refine State.throttle_keeps hP ?_
    | with_reducible refine State.trimmed_keeps hP ?_
    | with_reducible refine State.govMod_keeps hP ?_
    | with_reducible refine State.freeSet_keeps hP ?_
    | with_reducible refine State.tileBallast_keeps hP ?_

theorem State.setBind_keeps {s : State} {a1 : _} (h : P s) :
    P (State.setBind s a1) := by
  unfold State.setBind
  repeat' first
    | with_reducible assumption
    | with_reducible refine Keeps.ite ?_ ?_
    | with_reducible refine Keeps.foldl ?_ (fun t x ht => ?_)
    | with_reducible refine State.fset_keeps hP ?_
    | with_reducible refine State.oncePerS_keeps hP ?_ (fun t ht => ?_)
    | with_reducible refine State.bump_keeps hP ?_
    | with_reducible refine State.event_keeps hP ?_

theorem State.control_keeps {s : State} {a1 : _} (h : P s) :
    P (State.control s a1) := by
  unfold State.control
  repeat' first
    | with_reducible assumption
    | with_reducible refine Keeps.ite ?_ ?_
    | with_reducible refine Keeps.iteC ?_ ?_
    | with_reducible refine Keeps.foldl ?_ (fun t x ht => ?_)
    | with_reducible refine Keeps.foldl2 ?_ (fun b t x ht => ?_)
    | with_reducible refine State.hintRegs_keeps hP ?_
    | with_reducible refine State.fset_keeps hP ?_
    | with_reducible refine State.setBind_keeps hP ?_
    | with_reducible refine State.govMod_keeps hP ?_
    | with_reducible refine State.allocate_keeps hP ?_

theorem State.govFirst_keeps {s : State} {a1 : _} (h : P s) :
    P (State.govFirst s a1) := by
  unfold State.govFirst
  repeat' first
    | with_reducible assumption
    | with_reducible refine Keeps.ite ?_ ?_
    | with_reducible refine Keeps.foldl ?_ (fun t x ht => ?_)
    | with_reducible refine State.fset_keeps hP ?_
    | with_reducible refine State.govMod_keeps hP ?_
    | with_reducible refine State.startEvent_keeps hP ?_

theorem State.offTick_keeps {s : State} {a1 : _} (h : P s) :
    P (State.offTick s a1) := by
  unfold State.offTick
  repeat' first
    | with_reducible assumption
    | with_reducible refine Keeps.ite ?_ ?_
    | with_reducible refine Keeps.iteC ?_ ?_
    | with_reducible refine Keeps.foldl ?_ (fun t x ht => ?_)
    | with_reducible refine State.govEntries_keeps hP ?_
    | with_reducible refine State.govMod_keeps hP ?_
    | with_reducible refine State.govEase_keeps hP ?_

theorem State.tilesDark_keeps {s : State} (h : P s) :
    P (State.tilesDark s) := by
  unfold State.tilesDark
  repeat' first
    | with_reducible assumption
    | with_reducible refine Keeps.ite ?_ ?_
    | with_reducible refine Keeps.iteC ?_ ?_
    | with_reducible refine Keeps.foldl ?_ (fun t x ht => ?_)
    | with_reducible refine Keeps.foldl2 ?_ (fun b t x ht => ?_)
    | with_reducible refine State.fset_keeps hP ?_

theorem execGovernorTick_keeps {a0 : _} {s : State} (h : P s) :
    ∀ t, execGovernorTick a0 s = .next t → P t := by
  unfold execGovernorTick
  refine Keeps.next ?_
  repeat' first
    | with_reducible assumption
    | with_reducible refine Keeps.ite ?_ ?_
    | with_reducible refine Keeps.iteC ?_ ?_
    | with_reducible refine Keeps.foldl ?_ (fun t x ht => ?_)
    | with_reducible refine State.bsCause_keeps hP ?_
    | with_reducible refine State.govLoad_keeps hP ?_
    | with_reducible refine State.fset_keeps hP ?_
    | with_reducible refine State.control_keeps hP ?_
    | with_reducible refine State.govFirst_keeps hP ?_
    | with_reducible refine State.offTick_keeps hP ?_
    | with_reducible refine State.govEntries_keeps hP ?_
    | with_reducible refine State.bsTick_keeps hP ?_
    | with_reducible refine State.govMod_keeps hP ?_
    | with_reducible refine State.pinFlags_keeps hP ?_
    | with_reducible refine State.bsActuators_keeps hP ?_
    | with_reducible refine State.measure_keeps hP ?_
    | with_reducible refine State.liveFlags_keeps hP ?_
    | with_reducible refine State.enterBs_keeps hP ?_

end Sys2Proof.Machine
end

