-- ==== Sys2Proof/Laws/Keep/Thermal.lean ====
section
/-! SUPPORT. Every operation of Machine/Thermal.lean keeps a closed predicate (see Laws/Keep.lean). -/

namespace Sys2Proof.Machine

variable {P : State → Prop} (hP : Closed P)
include hP

theorem State.fieldSend_keeps {s : State} {a1 : _} (h : P s) :
    P (State.fieldSend s a1) := by
  unfold State.fieldSend
  repeat' first
    | with_reducible assumption
    | with_reducible refine Keeps.ite ?_ ?_
    | with_reducible refine Keeps.iteC ?_ ?_
    | with_reducible refine Keeps.foldl ?_ (fun t x ht => ?_)
    | with_reducible refine Keeps.pair (by assumption) ?_
    | with_reducible refine Keeps.pair1 (by assumption) ?_
    | fail_if_no_progress with_reducible refine Keeps.mk hP ?_

theorem State.addressUp_keeps {s : State} (h : P s) :
    P (State.addressUp s) := by
  unfold State.addressUp
  repeat' first
    | with_reducible assumption
    | with_reducible refine Keeps.ite ?_ ?_
    | with_reducible refine Keeps.iteC ?_ ?_
    | with_reducible refine Keeps.foldl ?_ (fun t x ht => ?_)
    | with_reducible refine State.fieldSend_keeps hP ?_
    | with_reducible refine Keeps.pair (by assumption) ?_
    | with_reducible refine Keeps.pair1 (by assumption) ?_
    | fail_if_no_progress with_reducible refine Keeps.mk hP ?_

theorem State.noticeSend_keeps {s : State} {a1 : _} (h : P s) :
    P (State.noticeSend s a1) := by
  unfold State.noticeSend
  repeat' first
    | with_reducible assumption
    | with_reducible refine Keeps.ite ?_ ?_
    | with_reducible refine Keeps.foldl ?_ (fun t x ht => ?_)
    | with_reducible refine State.fieldSend_keeps hP ?_

theorem State.notice_keeps {s : State} {a1 : _} {a2 : _} (h : P s) :
    P (State.notice s a1 a2) := by
  unfold State.notice
  repeat' first
    | with_reducible assumption
    | with_reducible refine Keeps.ite ?_ ?_
    | with_reducible refine Keeps.iteC ?_ ?_
    | with_reducible refine Keeps.foldl ?_ (fun t x ht => ?_)
    | with_reducible refine State.noticeSend_keeps hP ?_
    | with_reducible refine Keeps.pair (by assumption) ?_
    | with_reducible refine Keeps.pair1 (by assumption) ?_
    | fail_if_no_progress with_reducible refine Keeps.mk hP ?_

theorem State.thMod_keeps {s : State} {a1 : _} (h : P s) :
    P (State.thMod s a1) := by
  unfold State.thMod
  repeat' first
    | with_reducible assumption
    | with_reducible refine Keeps.ite ?_ ?_
    | with_reducible refine Keeps.foldl ?_ (fun t x ht => ?_)
    | with_reducible refine Keeps.pair (by assumption) ?_
    | with_reducible refine Keeps.pair1 (by assumption) ?_
    | fail_if_no_progress with_reducible refine Keeps.mk hP ?_

theorem State.forceEvent_keeps {s : State} {a1 : _} {a2 : _} (h : P s) :
    P (State.forceEvent s a1 a2) := by
  unfold State.forceEvent
  repeat' first
    | with_reducible assumption
    | with_reducible refine Keeps.ite ?_ ?_
    | with_reducible refine Keeps.foldl ?_ (fun t x ht => ?_)
    | with_reducible refine State.event_keeps hP ?_

theorem State.forceOn_keeps {s : State} {a1 : _} {a2 : _} (h : P s) :
    P (State.forceOn s a1 a2) := by
  unfold State.forceOn
  repeat' first
    | with_reducible assumption
    | with_reducible refine Keeps.ite ?_ ?_
    | with_reducible refine Keeps.foldl ?_ (fun t x ht => ?_)
    | with_reducible refine State.thMod_keeps hP ?_
    | with_reducible refine State.draw_keeps hP ?_
    | with_reducible refine State.setFlag_keeps hP ?_
    | with_reducible refine State.fset_keeps hP ?_
    | with_reducible refine State.enterBs_keeps hP ?_
    | with_reducible refine State.forceEvent_keeps hP ?_
    | with_reducible refine Keeps.pair (by assumption) ?_
    | with_reducible refine Keeps.pair1 (by assumption) ?_
    | fail_if_no_progress with_reducible refine Keeps.mk hP ?_
    | split

theorem State.forceOff_keeps {s : State} {a1 : _} (h : P s) :
    P (State.forceOff s a1) := by
  unfold State.forceOff
  repeat' first
    | with_reducible assumption
    | with_reducible refine Keeps.ite ?_ ?_
    | with_reducible refine Keeps.foldl ?_ (fun t x ht => ?_)
    | with_reducible refine State.thMod_keeps hP ?_
    | with_reducible refine State.releaseBs_keeps hP ?_
    | with_reducible refine State.setFlag_keeps hP ?_
    | with_reducible refine State.fset_keeps hP ?_

theorem State.sensorReg_keeps {s : State} {a1 : _} (h : P s) :
    P (State.sensorReg s a1) := by
  unfold State.sensorReg
  repeat' first
    | with_reducible assumption
    | with_reducible refine Keeps.ite ?_ ?_
    | with_reducible refine Keeps.foldl ?_ (fun t x ht => ?_)
    | with_reducible refine State.setFlag_keeps hP ?_
    | with_reducible refine State.fset_keeps hP ?_

theorem State.refresh2x_keeps {s : State} {a1 : _} (h : P s) :
    P (State.refresh2x s a1) := by
  unfold State.refresh2x
  repeat' first
    | with_reducible assumption
    | with_reducible refine Keeps.ite ?_ ?_
    | with_reducible refine Keeps.foldl ?_ (fun t x ht => ?_)
    | with_reducible refine State.setFlag_keeps hP ?_

theorem State.rthRegs_keeps {s : State} (h : P s) :
    P (State.rthRegs s) := by
  unfold State.rthRegs
  repeat' first
    | with_reducible assumption
    | with_reducible refine Keeps.ite ?_ ?_
    | with_reducible refine Keeps.foldl ?_ (fun t x ht => ?_)
    | with_reducible refine State.fset_keeps hP ?_

theorem execEstimatorUpdate_keeps {s : State} (h : P s) :
    ∀ t, execEstimatorUpdate s = .next t → P t := by
  unfold execEstimatorUpdate
  refine Keeps.next ?_
  repeat' first
    | with_reducible assumption
    | with_reducible refine Keeps.ite ?_ ?_
    | with_reducible refine Keeps.foldl ?_ (fun t x ht => ?_)
    | with_reducible refine State.thMod_keeps hP ?_
    | with_reducible refine State.rthRegs_keeps hP ?_
    | with_reducible refine Keeps.pair (by assumption) ?_
    | with_reducible refine Keeps.pair1 (by assumption) ?_
    | fail_if_no_progress with_reducible refine Keeps.mk hP ?_
    | split

theorem execFlowLow_keeps {s : State} (h : P s) :
    ∀ t, execFlowLow s = .next t → P t := by
  unfold execFlowLow
  refine Keeps.next ?_
  repeat' first
    | with_reducible assumption
    | with_reducible refine Keeps.ite ?_ ?_
    | with_reducible refine Keeps.foldl ?_ (fun t x ht => ?_)
    | with_reducible refine State.event_keeps hP ?_
    | with_reducible refine State.setFlag_keeps hP ?_

theorem execThermCapUpdate_keeps {s : State} (h : P s) :
    ∀ t, execThermCapUpdate s = .next t → P t := by
  unfold execThermCapUpdate
  refine Keeps.next ?_
  repeat' first
    | with_reducible assumption
    | with_reducible refine Keeps.ite ?_ ?_
    | with_reducible refine Keeps.iteC ?_ ?_
    | with_reducible refine Keeps.foldl ?_ (fun t x ht => ?_)
    | with_reducible refine Keeps.foldl2 ?_ (fun b t x ht => ?_)
    | with_reducible refine State.setFlag_keeps hP ?_
    | with_reducible refine State.bump_keeps hP ?_
    | with_reducible refine State.forceOn_keeps hP ?_
    | with_reducible refine State.thMod_keeps hP ?_
    | with_reducible refine State.fset_keeps hP ?_
    | with_reducible refine State.forceOff_keeps hP ?_

theorem execFlowStopEval_keeps {s : State} (h : P s) :
    ∀ t, execFlowStopEval s = .next t → P t := by
  unfold execFlowStopEval
  refine Keeps.next ?_
  repeat' first
    | with_reducible assumption
    | with_reducible refine Keeps.ite ?_ ?_
    | with_reducible refine Keeps.foldl ?_ (fun t x ht => ?_)
    | with_reducible refine State.thMod_keeps hP ?_
    | with_reducible refine State.fset_keeps hP ?_
    | with_reducible refine State.report_keeps hP ?_
    | with_reducible refine State.setFlag_keeps hP ?_
    | with_reducible refine State.notice_keeps hP ?_
    | with_reducible refine State.forceOn_keeps hP ?_
    | with_reducible refine Keeps.pair (by assumption) ?_
    | with_reducible refine Keeps.pair1 (by assumption) ?_
    | fail_if_no_progress with_reducible refine Keeps.mk hP ?_
    | split
    | dsimp only

theorem State.flowStopClear_keeps {s : State} (h : P s) :
    P (State.flowStopClear s).2 := by
  unfold State.flowStopClear
  repeat' first
    | with_reducible assumption
    | with_reducible refine Keeps.ite ?_ ?_
    | with_reducible refine Keeps.foldl ?_ (fun t x ht => ?_)
    | with_reducible refine State.report_keeps hP ?_
    | with_reducible refine State.setFlag_keeps hP ?_
    | with_reducible refine State.forceOff_keeps hP ?_
    | with_reducible refine Keeps.pair (by assumption) ?_
    | with_reducible refine Keeps.pair1 (by assumption) ?_
    | fail_if_no_progress with_reducible refine Keeps.mk hP ?_
    | split

theorem State.thermHint_keeps {s : State} {a1 : _} {a2 : _} (h : P s) :
    P (State.thermHint s a1 a2) := by
  unfold State.thermHint
  repeat' first
    | with_reducible assumption
    | with_reducible refine Keeps.ite ?_ ?_
    | with_reducible refine Keeps.foldl ?_ (fun t x ht => ?_)
    | with_reducible refine State.bump_keeps hP ?_
    | with_reducible refine State.event_keeps hP ?_

theorem State.powerHint_keeps {s : State} {a1 : _} {a2 : _} {a3 : _} {a4 : _} (h : P s) :
    P (State.powerHint s a1 a2 a3 a4) := by
  unfold State.powerHint
  repeat' first
    | with_reducible assumption
    | with_reducible refine Keeps.ite ?_ ?_
    | with_reducible refine Keeps.foldl ?_ (fun t x ht => ?_)
    | with_reducible refine State.thermHint_keeps hP ?_
    | with_reducible refine State.govHint_keeps hP ?_

theorem State.plaus_keeps {s : State} {a1 : _} (h : P s) :
    P (State.plaus s a1) := by
  unfold State.plaus
  repeat' first
    | with_reducible assumption
    | with_reducible refine Keeps.ite ?_ ?_
    | with_reducible refine Keeps.foldl ?_ (fun t x ht => ?_)
    | with_reducible refine State.fset_keeps hP ?_
    | with_reducible refine State.setFlag_keeps hP ?_
    | with_reducible refine State.forceOn_keeps hP ?_
    | with_reducible refine State.forceOff_keeps hP ?_

theorem State.markGuard_keeps {s : State} {a1 : _} {a2 : _} (h : P s) :
    P (State.markGuard s a1 a2) := by
  unfold State.markGuard
  repeat' first
    | with_reducible assumption
    | with_reducible refine Keeps.ite ?_ ?_
    | with_reducible refine Keeps.foldl ?_ (fun t x ht => ?_)
    | with_reducible refine State.fset_keeps hP ?_
    | with_reducible refine State.draw_keeps hP ?_
    | with_reducible refine State.event_keeps hP ?_
    | with_reducible refine State.plaus_keeps hP ?_
    | with_reducible refine State.report_keeps hP ?_
    | with_reducible refine Keeps.pair (by assumption) ?_
    | with_reducible refine Keeps.pair1 (by assumption) ?_
    | fail_if_no_progress with_reducible refine Keeps.mk hP ?_
    | split

theorem State.checkGuard_keeps {s : State} {a1 : _} (h : P s) :
    P (State.checkGuard s a1) := by
  unfold State.checkGuard
  repeat' first
    | with_reducible assumption
    | with_reducible refine Keeps.ite ?_ ?_
    | with_reducible refine Keeps.iteC ?_ ?_
    | with_reducible refine Keeps.foldl ?_ (fun t x ht => ?_)
    | with_reducible refine State.thMod_keeps hP ?_
    | with_reducible refine State.markGuard_keeps hP ?_
    | with_reducible refine Keeps.pair (by assumption) ?_
    | with_reducible refine Keeps.pair1 (by assumption) ?_
    | fail_if_no_progress with_reducible refine Keeps.mk hP ?_
    | split

theorem execPlausibilityCheck_keeps {s : State} (h : P s) :
    ∀ t, execPlausibilityCheck s = .next t → P t := by
  unfold execPlausibilityCheck
  refine Keeps.next ?_
  repeat' first
    | with_reducible assumption
    | with_reducible refine Keeps.ite ?_ ?_
    | with_reducible refine Keeps.iteC ?_ ?_
    | with_reducible refine Keeps.foldl ?_ (fun t x ht => ?_)
    | with_reducible refine Keeps.foldl2 ?_ (fun b t x ht => ?_)
    | with_reducible refine State.thMod_keeps hP ?_
    | with_reducible refine State.checkGuard_keeps hP ?_

theorem State.guardClear_keeps {s : State} {a1 : _} (h : P s) :
    P (State.guardClear s a1).2 := by
  unfold State.guardClear
  repeat' first
    | with_reducible assumption
    | with_reducible refine Keeps.ite ?_ ?_
    | with_reducible refine Keeps.iteC ?_ ?_
    | with_reducible refine Keeps.foldl ?_ (fun t x ht => ?_)
    | with_reducible refine Keeps.foldl2 ?_ (fun b t x ht => ?_)
    | with_reducible refine State.plaus_keeps hP ?_
    | with_reducible refine State.fset_keeps hP ?_
    | with_reducible refine State.report_keeps hP ?_

theorem State.markFaults_keeps {s : State} (h : P s) :
    P (State.markFaults s) := by
  unfold State.markFaults
  repeat' first
    | with_reducible assumption
    | with_reducible refine Keeps.ite ?_ ?_
    | with_reducible refine Keeps.iteC ?_ ?_
    | with_reducible refine Keeps.foldl ?_ (fun t x ht => ?_)
    | with_reducible refine Keeps.foldl2 ?_ (fun b t x ht => ?_)
    | with_reducible refine State.markGuard_keeps hP ?_

theorem State.softStep_keeps {s : State} (h : P s) :
    P (State.softStep s) := by
  unfold State.softStep
  repeat' first
    | with_reducible assumption
    | with_reducible refine Keeps.ite ?_ ?_
    | with_reducible refine Keeps.iteC ?_ ?_
    | with_reducible refine Keeps.foldl ?_ (fun t x ht => ?_)
    | with_reducible refine State.forceOn_keeps hP ?_
    | with_reducible refine State.thMod_keeps hP ?_
    | with_reducible refine State.report_keeps hP ?_
    | with_reducible refine State.forceOff_keeps hP ?_
    | with_reducible refine Keeps.pair (by assumption) ?_
    | with_reducible refine Keeps.pair1 (by assumption) ?_
    | fail_if_no_progress with_reducible refine Keeps.mk hP ?_
    | split

theorem execSensorSample_keeps {a0 : _} {s : State} (h : P s) :
    ∀ t, execSensorSample a0 s = .next t → P t := by
  unfold execSensorSample
  refine Keeps.next ?_
  repeat' first
    | with_reducible assumption
    | with_reducible refine Keeps.ite ?_ ?_
    | with_reducible refine Keeps.iteC ?_ ?_
    | with_reducible refine Keeps.foldl ?_ (fun t x ht => ?_)
    | with_reducible refine Keeps.foldl2 ?_ (fun b t x ht => ?_)
    | with_reducible refine State.thMod_keeps hP ?_
    | with_reducible refine State.refresh2x_keeps hP ?_
    | with_reducible refine State.fset_keeps hP ?_
    | with_reducible refine State.softStep_keeps hP ?_
    | with_reducible refine State.markFaults_keeps hP ?_
    | with_reducible refine State.sensorReg_keeps hP ?_

end Sys2Proof.Machine
end

