-- ==== Sys2Proof/Laws/Keep/RingCore.lean ====
section
/-! SUPPORT. Every operation of Machine/RingCore.lean keeps a closed predicate (see Laws/Keep.lean). -/

namespace Sys2Proof.Machine

variable {P : State → Prop} (hP : Closed P)
include hP

theorem State.readEntry_keeps {s : State} {a1 : _} {a2 : _} (h : P s) :
    P (State.readEntry s a1 a2).2 := by
  unfold State.readEntry
  repeat' first
    | with_reducible assumption
    | with_reducible refine Keeps.ite ?_ ?_
    | with_reducible refine Keeps.foldl ?_ (fun t x ht => ?_)
    | with_reducible refine State.memRead_keeps hP ?_
    | with_reducible refine Keeps.pair (by assumption) ?_
    | with_reducible refine Keeps.pair1 (by assumption) ?_
    | fail_if_no_progress with_reducible refine Keeps.mk hP ?_
    | split

theorem State.recPut_keeps {s : State} {a1 : _} {a2 : _} (h : P s) :
    P (State.recPut s a1 a2) := by
  unfold State.recPut
  repeat' first
    | with_reducible assumption
    | with_reducible refine Keeps.ite ?_ ?_
    | with_reducible refine Keeps.iteC ?_ ?_
    | with_reducible refine Keeps.foldl ?_ (fun t x ht => ?_)
    | with_reducible refine Keeps.pair (by assumption) ?_
    | with_reducible refine Keeps.pair1 (by assumption) ?_
    | fail_if_no_progress with_reducible refine Keeps.mk hP ?_

theorem State.setWait_keeps {s : State} {a1 : _} {a2 : _} (h : P s) :
    P (State.setWait s a1 a2) := by
  unfold State.setWait
  repeat' first
    | with_reducible assumption
    | with_reducible refine Keeps.ite ?_ ?_
    | with_reducible refine Keeps.foldl ?_ (fun t x ht => ?_)
    | with_reducible refine State.setRing_keeps hP ?_

theorem State.noteWait_keeps {s : State} {a1 : _} {a2 : _} (h : P s) :
    P (State.noteWait s a1 a2) := by
  unfold State.noteWait
  repeat' first
    | with_reducible assumption
    | with_reducible refine Keeps.ite ?_ ?_
    | with_reducible refine Keeps.iteC ?_ ?_
    | with_reducible refine Keeps.foldl ?_ (fun t x ht => ?_)
    | with_reducible refine State.setWait_keeps hP ?_
    | with_reducible refine State.recPut_keeps hP ?_

theorem State.claim_keeps {s : State} {a1 : _} {a2 : _} {a3 : _} (h : P s) :
    P (State.claim s a1 a2 a3) := by
  unfold State.claim
  repeat' first
    | with_reducible assumption
    | with_reducible refine Keeps.ite ?_ ?_
    | with_reducible refine Keeps.foldl ?_ (fun t x ht => ?_)
    | with_reducible refine State.setRing_keeps hP ?_
    | with_reducible refine State.fset_keeps hP ?_
    | with_reducible refine Keeps.pair (by assumption) ?_
    | with_reducible refine Keeps.pair1 (by assumption) ?_
    | fail_if_no_progress with_reducible refine Keeps.mk hP ?_

theorem State.startRow_keeps {s : State} {a1 : _} {a2 : _} {a3 : _} (h : P s) (hb3 : ∀ t x1, P t → P (a3 t x1).2) :
    P (State.startRow s a1 a2 a3) := by
  unfold State.startRow
  repeat' first
    | with_reducible assumption
    | with_reducible refine Keeps.ite ?_ ?_
    | with_reducible refine Keeps.iteC ?_ ?_
    | with_reducible refine Keeps.foldl ?_ (fun t x ht => ?_)
    | with_reducible refine State.readEntry_keeps hP ?_
    | with_reducible refine State.noteWait_keeps hP ?_
    | with_reducible refine State.claim_keeps hP ?_
    | with_reducible refine hb3 _ _ ?_
    | with_reducible refine Keeps.pair (by assumption) ?_
    | with_reducible refine Keeps.pair1 (by assumption) ?_
    | fail_if_no_progress with_reducible refine Keeps.mk hP ?_
    | split

theorem State.periodDone_keeps {s : State} {a1 : _} {a2 : _} (h : P s) :
    P (State.periodDone s a1 a2) := by
  unfold State.periodDone
  repeat' first
    | with_reducible assumption
    | with_reducible refine Keeps.ite ?_ ?_
    | with_reducible refine Keeps.foldl ?_ (fun t x ht => ?_)
    | with_reducible refine State.setRing_keeps hP ?_
    | with_reducible refine State.fset_keeps hP ?_
    | with_reducible refine State.odPut_keeps hP ?_
    | with_reducible refine State.bump_keeps hP ?_
    | with_reducible refine State.event_keeps hP ?_

theorem State.finish_keeps {s : State} {a1 : _} {a2 : _} {a3 : _} {a4 : _} {a5 : _} (h : P s) :
    P (State.finish s a1 a2 a3 a4 a5) := by
  unfold State.finish
  repeat' first
    | with_reducible assumption
    | with_reducible refine Keeps.ite ?_ ?_
    | with_reducible refine Keeps.iteC ?_ ?_
    | with_reducible refine Keeps.foldl ?_ (fun t x ht => ?_)
    | with_reducible refine State.fset_keeps hP ?_
    | with_reducible refine State.epMod_keeps hP ?_
    | with_reducible refine State.stopRing_keeps hP ?_
    | with_reducible refine State.setRing_keeps hP ?_
    | with_reducible refine State.memWrite_keeps hP ?_
    | with_reducible refine State.periodDone_keeps hP ?_
    | with_reducible refine State.recPut_keeps hP ?_
    | with_reducible refine State.event_keeps hP ?_
    | with_reducible refine Keeps.pair (by assumption) ?_
    | with_reducible refine Keeps.pair1 (by assumption) ?_
    | fail_if_no_progress with_reducible refine Keeps.mk hP ?_
    | split

end Sys2Proof.Machine
end

