-- ==== Sys2Proof/Laws/Keep/Rings.lean ====
section
/-! SUPPORT. Every operation of Machine/Rings.lean keeps a closed predicate (see Laws/Keep.lean). -/

namespace Sys2Proof.Machine

variable {P : State → Prop} (hP : Closed P)
include hP

theorem State.launchJob_keeps {s : State} {a1 : _} (h : P s) :
    P (State.launchJob s a1) := by
  unfold State.launchJob
  repeat' first
    | with_reducible assumption
    | with_reducible refine Keeps.ite ?_ ?_
    | with_reducible refine Keeps.iteC ?_ ?_
    | with_reducible refine Keeps.foldl ?_ (fun t x ht => ?_)
    | with_reducible refine Keeps.foldl2 ?_ (fun b t x ht => ?_)
    | with_reducible refine State.setEstate_keeps hP ?_
    | with_reducible refine State.setFlag_keeps hP ?_
    | with_reducible refine State.metaClean_keeps hP ?_
    | with_reducible refine State.fset_keeps hP ?_
    | with_reducible refine State.collsCommit_keeps hP ?_
    | with_reducible refine State.csrPut_keeps hP ?_
    | (refine hP.frame (hP.job ?_) rfl rfl rfl rfl rfl rfl rfl rfl rfl rfl rfl)

theorem now__keeps {a0 : _} {s : State} (h : P s) :
    P (now_ a0 s).2 := by
  unfold now_
  repeat' first
    | with_reducible assumption

theorem execJobLaunch_keeps {a0 : _} {s : State} (h : P s) :
    ∀ t, execJobLaunch a0 s = .next t → P t := by
  unfold execJobLaunch
  refine Keeps.next ?_
  repeat' first
    | with_reducible assumption
    | with_reducible refine Keeps.ite ?_ ?_
    | with_reducible refine Keeps.foldl ?_ (fun t x ht => ?_)
    | with_reducible refine State.startRow_keeps hP ?_ (fun t x1 ht => ?_)
    | with_reducible refine now__keeps hP ?_
    | with_reducible refine State.memRead_keeps hP ?_
    | with_reducible refine State.launchJob_keeps hP ?_
    | with_reducible refine Keeps.pair (by assumption) ?_
    | with_reducible refine Keeps.pair1 (by assumption) ?_
    | fail_if_no_progress with_reducible refine Keeps.mk hP ?_
    | split

theorem execJobEnd_keeps {a0 : _} {s : State} (h : P s) :
    ∀ t, execJobEnd a0 s = .next t → P t := by
  unfold execJobEnd
  refine Keeps.next ?_
  repeat' first
    | with_reducible assumption
    | with_reducible refine Keeps.ite ?_ ?_
    | with_reducible refine Keeps.foldl ?_ (fun t x ht => ?_)
    | with_reducible refine State.startRow_keeps hP ?_ (fun t x1 ht => ?_)

theorem execRingNop_keeps {a0 : _} {s : State} (h : P s) :
    ∀ t, execRingNop a0 s = .next t → P t := by
  unfold execRingNop
  refine Keeps.next ?_
  repeat' first
    | with_reducible assumption
    | with_reducible refine Keeps.ite ?_ ?_
    | with_reducible refine Keeps.foldl ?_ (fun t x ht => ?_)
    | with_reducible refine State.startRow_keeps hP ?_ (fun t x1 ht => ?_)
    | with_reducible refine now__keeps hP ?_

theorem execLoad_keeps {a0 : _} {s : State} (h : P s) :
    ∀ t, execLoad a0 s = .next t → P t := by
  unfold execLoad
  refine Keeps.next ?_
  repeat' first
    | with_reducible assumption
    | with_reducible refine Keeps.ite ?_ ?_
    | with_reducible refine Keeps.foldl ?_ (fun t x ht => ?_)
    | with_reducible refine State.startRow_keeps hP ?_ (fun t x1 ht => ?_)
    | with_reducible refine State.memRead_keeps hP ?_
    | with_reducible refine State.loadImage_keeps hP ?_
    | with_reducible refine now__keeps hP ?_
    | with_reducible refine State.odPut_keeps hP ?_
    | with_reducible refine Keeps.pair (by assumption) ?_
    | with_reducible refine Keeps.pair1 (by assumption) ?_
    | fail_if_no_progress with_reducible refine Keeps.mk hP ?_
    | split

theorem execUnload_keeps {a0 : _} {s : State} (h : P s) :
    ∀ t, execUnload a0 s = .next t → P t := by
  unfold execUnload
  refine Keeps.next ?_
  repeat' first
    | with_reducible assumption
    | with_reducible refine Keeps.ite ?_ ?_
    | with_reducible refine Keeps.foldl ?_ (fun t x ht => ?_)
    | with_reducible refine State.startRow_keeps hP ?_ (fun t x1 ht => ?_)

theorem State.sendDispatch_keeps {s : State} {a1 : _} {a2 : _} (h : P s) :
    P (State.sendDispatch s a1 a2).2 := by
  unfold State.sendDispatch
  repeat' first
    | with_reducible assumption
    | with_reducible refine Keeps.ite ?_ ?_
    | with_reducible refine Keeps.foldl ?_ (fun t x ht => ?_)
    | with_reducible refine State.arrive_keeps hP ?_

theorem State.sendDispatches_keeps {s : State} {a1 : _} {a2 : _} (h : P s) :
    P (State.sendDispatches s a1 a2).2 := by
  induction a2 generalizing s a1
  · simp only [State.sendDispatches]
    repeat' first
      | with_reducible assumption
  · rename_i ih
    simp only [State.sendDispatches]
    repeat' first
      | with_reducible assumption
      | with_reducible refine Keeps.ite ?_ ?_
      | with_reducible refine Keeps.foldl ?_ (fun t x ht => ?_)
      | with_reducible refine State.sendDispatch_keeps hP ?_
      | with_reducible refine ih ?_

theorem execDispatch_keeps {a0 : _} {s : State} (h : P s) :
    ∀ t, execDispatch a0 s = .next t → P t := by
  unfold execDispatch
  refine Keeps.next ?_
  repeat' first
    | with_reducible assumption
    | with_reducible refine Keeps.ite ?_ ?_
    | with_reducible refine Keeps.foldl ?_ (fun t x ht => ?_)
    | with_reducible refine State.startRow_keeps hP ?_ (fun t x1 ht => ?_)
    | with_reducible refine State.sendDispatches_keeps hP ?_

theorem execWePost_keeps {a0 : _} {s : State} (h : P s) :
    ∀ t, execWePost a0 s = .next t → P t := by
  unfold execWePost
  refine Keeps.next ?_
  repeat' first
    | with_reducible assumption
    | with_reducible refine Keeps.ite ?_ ?_
    | with_reducible refine Keeps.iteC ?_ ?_
    | with_reducible refine Keeps.foldl ?_ (fun t x ht => ?_)
    | with_reducible refine State.memRead_keeps hP ?_
    | with_reducible refine now__keeps hP ?_
    | with_reducible refine State.startRow_keeps hP ?_ (fun t x1 ht => ?_)
    | with_reducible refine State.wePost_keeps hP ?_
    | with_reducible refine State.wePostWrite_keeps hP ?_
    | with_reducible refine Keeps.pair (by assumption) ?_
    | with_reducible refine Keeps.pair1 (by assumption) ?_
    | fail_if_no_progress with_reducible refine Keeps.mk hP ?_
    | split

theorem execScrub_keeps {a0 : _} {s : State} (h : P s) :
    ∀ t, execScrub a0 s = .next t → P t := by
  unfold execScrub
  refine Keeps.next ?_
  repeat' first
    | with_reducible assumption
    | with_reducible refine Keeps.ite ?_ ?_
    | with_reducible refine Keeps.foldl ?_ (fun t x ht => ?_)
    | with_reducible refine State.startRow_keeps hP ?_ (fun t x1 ht => ?_)
    | with_reducible refine State.scrubStart_keeps hP ?_
    | with_reducible refine now__keeps hP ?_
    | with_reducible refine Keeps.pair (by assumption) ?_
    | with_reducible refine Keeps.pair1 (by assumption) ?_
    | fail_if_no_progress with_reducible refine Keeps.mk hP ?_
    | split
    | dsimp only

theorem execPowerHint_keeps {a0 : _} {s : State} (h : P s) :
    ∀ t, execPowerHint a0 s = .next t → P t := by
  unfold execPowerHint
  refine Keeps.next ?_
  repeat' first
    | with_reducible assumption
    | with_reducible refine Keeps.ite ?_ ?_
    | with_reducible refine Keeps.foldl ?_ (fun t x ht => ?_)
    | with_reducible refine State.startRow_keeps hP ?_ (fun t x1 ht => ?_)
    | with_reducible refine now__keeps hP ?_
    | with_reducible refine State.powerHint_keeps hP ?_

theorem execWaitRing_keeps {a0 : _} {s : State} (h : P s) :
    ∀ t, execWaitRing a0 s = .next t → P t := by
  unfold execWaitRing
  refine Keeps.next ?_
  repeat' first
    | with_reducible assumption
    | with_reducible refine Keeps.ite ?_ ?_
    | with_reducible refine Keeps.foldl ?_ (fun t x ht => ?_)
    | with_reducible refine State.startRow_keeps hP ?_ (fun t x1 ht => ?_)

theorem State.unregister_keeps {s : State} {a1 : _} (h : P s) :
    P (State.unregister s a1) := by
  unfold State.unregister
  split
  · exact h
  · refine hP.frame (hP.windowFilter (hP.unitsFilter (State.metaClean_keeps hP (Keeps.foldl h fun t x ht => ?_)) _) _)
      rfl rfl rfl rfl rfl rfl rfl rfl rfl rfl rfl
    exact Keeps.ite (State.copyCells_keeps hP ht) ht

theorem execRegion_keeps {a0 : _} {s : State} (h : P s) :
    ∀ t, execRegion a0 s = .next t → P t := by
  unfold execRegion
  refine Keeps.next ?_
  repeat' first
    | with_reducible assumption
    | with_reducible refine Keeps.ite ?_ ?_
    | with_reducible refine Keeps.iteC ?_ ?_
    | with_reducible refine Keeps.foldl ?_ (fun t x ht => ?_)
    | with_reducible refine State.metaClean_keeps hP ?_
    | with_reducible refine now__keeps hP ?_
    | with_reducible refine State.unregister_keeps hP ?_
    | with_reducible refine State.startRow_keeps hP ?_ (fun t x1 ht => ?_)
    | with_reducible refine Keeps.pair (by assumption) ?_
    | with_reducible refine Keeps.pair1 (by assumption) ?_
    | fail_if_no_progress with_reducible refine Keeps.mk hP ?_

theorem execEpochEnd_keeps {a0 : _} {s : State} (h : P s) :
    ∀ t, execEpochEnd a0 s = .next t → P t := by
  unfold execEpochEnd
  refine Keeps.next ?_
  repeat' first
    | with_reducible assumption
    | with_reducible refine Keeps.ite ?_ ?_
    | with_reducible refine Keeps.foldl ?_ (fun t x ht => ?_)
    | with_reducible refine State.startRow_keeps hP ?_ (fun t x1 ht => ?_)
    | with_reducible refine now__keeps hP ?_
    | with_reducible refine Keeps.pair (by assumption) ?_
    | with_reducible refine Keeps.pair1 (by assumption) ?_
    | fail_if_no_progress with_reducible refine Keeps.mk hP ?_
    | split

theorem State.reopenRun_keeps {s : State} {a1 : _} (h : P s) :
    P (State.reopenRun s a1) := by
  unfold State.reopenRun
  repeat' first
    | with_reducible assumption
    | with_reducible refine Keeps.ite ?_ ?_
    | with_reducible refine Keeps.foldl ?_ (fun t x ht => ?_)
    | with_reducible refine State.setRing_keeps hP ?_

theorem execEpochAbort_keeps {a0 : _} {s : State} (h : P s) :
    ∀ t, execEpochAbort a0 s = .next t → P t := by
  unfold execEpochAbort
  refine Keeps.next ?_
  repeat' first
    | with_reducible assumption
    | with_reducible refine Keeps.ite ?_ ?_
    | with_reducible refine Keeps.foldl ?_ (fun t x ht => ?_)
    | with_reducible refine State.startRow_keeps hP ?_ (fun t x1 ht => ?_)
    | with_reducible refine now__keeps hP ?_
    | with_reducible refine State.reopenRun_keeps hP ?_
    | with_reducible refine State.cast_keeps hP ?_
    | with_reducible refine Keeps.pair (by assumption) ?_
    | with_reducible refine Keeps.pair1 (by assumption) ?_
    | fail_if_no_progress with_reducible refine Keeps.mk hP ?_
    | split

theorem execEpochResolve_keeps {a0 : _} {s : State} (h : P s) :
    ∀ t, execEpochResolve a0 s = .next t → P t := by
  unfold execEpochResolve
  refine Keeps.next ?_
  repeat' first
    | with_reducible assumption
    | with_reducible refine Keeps.ite ?_ ?_
    | with_reducible refine Keeps.foldl ?_ (fun t x ht => ?_)
    | with_reducible refine State.startRow_keeps hP ?_ (fun t x1 ht => ?_)
    | with_reducible refine now__keeps hP ?_
    | with_reducible refine State.decide__keeps hP ?_
    | with_reducible refine State.memberCommit_keeps hP ?_
    | with_reducible refine State.memberAbort_keeps hP ?_
    | with_reducible refine Keeps.pair (by assumption) ?_
    | with_reducible refine Keeps.pair1 (by assumption) ?_
    | fail_if_no_progress with_reducible refine Keeps.mk hP ?_
    | split
    | dsimp only

theorem execWindow_keeps {a0 : _} {s : State} (h : P s) :
    ∀ t, execWindow a0 s = .next t → P t := by
  unfold execWindow
  refine Keeps.next ?_
  repeat' first
    | with_reducible assumption
    | with_reducible refine Keeps.ite ?_ ?_
    | with_reducible refine Keeps.foldl ?_ (fun t x ht => ?_)
    | with_reducible refine State.startRow_keeps hP ?_ (fun t x1 ht => ?_)
    | with_reducible refine now__keeps hP ?_
    | (refine hP.frame (hP.window ?_ _ _) rfl rfl rfl rfl rfl rfl rfl rfl rfl rfl rfl)
    | with_reducible refine Keeps.pair (by assumption) ?_
    | with_reducible refine Keeps.pair1 (by assumption) ?_
    | fail_if_no_progress with_reducible refine Keeps.mk hP ?_
    | split
    | dsimp only

theorem execWindowExport_keeps {a0 : _} {s : State} (h : P s) :
    ∀ t, execWindowExport a0 s = .next t → P t := by
  unfold execWindowExport
  refine Keeps.next ?_
  repeat' first
    | with_reducible assumption
    | with_reducible refine Keeps.ite ?_ ?_
    | with_reducible refine Keeps.iteC ?_ ?_
    | with_reducible refine Keeps.foldl ?_ (fun t x ht => ?_)
    | with_reducible refine now__keeps hP ?_
    | with_reducible refine State.startRow_keeps hP ?_ (fun t x1 ht => ?_)
    | with_reducible refine State.readCommitted_keeps hP ?_
    | with_reducible refine Keeps.pair (by assumption) ?_
    | with_reducible refine Keeps.pair1 (by assumption) ?_
    | fail_if_no_progress with_reducible refine Keeps.mk hP ?_
    | split
    | dsimp only

theorem State.endJob_keeps {s : State} (h : P s) :
    P (State.endJob s) := by
  unfold State.endJob
  repeat' first
    | with_reducible assumption
    | with_reducible refine Keeps.ite ?_ ?_
    | with_reducible refine Keeps.iteC ?_ ?_
    | with_reducible refine Keeps.foldl ?_ (fun t x ht => ?_)
    | with_reducible refine Keeps.foldl2 ?_ (fun b t x ht => ?_)
    | with_reducible refine State.setEstate_keeps hP ?_
    | with_reducible refine State.setFlag_keeps hP ?_
    | with_reducible refine State.fset_keeps hP ?_
    | with_reducible refine State.unregister_keeps hP ?_
    | with_reducible refine State.stopRing_keeps hP ?_
    | with_reducible refine State.collsCommit_keeps hP ?_
    | with_reducible refine State.unload_keeps hP ?_
    | with_reducible refine State.clearHints_keeps hP ?_
    | (refine hP.frame (hP.windowsNil ?_) rfl rfl rfl rfl rfl rfl rfl rfl rfl rfl rfl)

theorem State.jobEndAbort_keeps {s : State} (h : P s) :
    P (State.jobEndAbort s) := by
  unfold State.jobEndAbort
  repeat' first
    | with_reducible assumption
    | with_reducible refine Keeps.ite ?_ ?_
    | with_reducible refine Keeps.foldl ?_ (fun t x ht => ?_)
    | with_reducible refine State.draw_keeps hP ?_
    | with_reducible refine State.epMod_keeps hP ?_
    | with_reducible refine State.memberAbort_keeps hP ?_

theorem State.complete_keeps {s : State} {a1 : _} {a2 : _} (h : P s) :
    P (State.complete s a1 a2) := by
  unfold State.complete
  repeat' first
    | with_reducible assumption
    | with_reducible refine Keeps.ite ?_ ?_
    | with_reducible refine Keeps.iteC ?_ ?_
    | with_reducible refine Keeps.foldl ?_ (fun t x ht => ?_)
    | with_reducible refine State.jobEndAbort_keeps hP ?_
    | with_reducible refine State.finish_keeps hP ?_
    | with_reducible refine State.reopenRun_keeps hP ?_
    | with_reducible refine State.launchStart_keeps hP ?_
    | with_reducible refine State.cast_keeps hP ?_
    | with_reducible refine State.setWait_keeps hP ?_
    | with_reducible refine State.endJob_keeps hP ?_
    | with_reducible refine State.unload_keeps hP ?_
    | with_reducible refine Keeps.pair (by assumption) ?_
    | with_reducible refine Keeps.pair1 (by assumption) ?_
    | fail_if_no_progress with_reducible refine Keeps.mk hP ?_
    | split

theorem execCommandComplete_keeps {a0 : _} {s : State} (h : P s) :
    ∀ t, execCommandComplete a0 s = .next t → P t := by
  unfold execCommandComplete
  refine Keeps.next ?_
  repeat' first
    | with_reducible assumption
    | with_reducible refine Keeps.ite ?_ ?_
    | with_reducible refine Keeps.foldl ?_ (fun t x ht => ?_)
    | with_reducible refine State.complete_keeps hP ?_
    | with_reducible refine Keeps.pair (by assumption) ?_
    | with_reducible refine Keeps.pair1 (by assumption) ?_
    | fail_if_no_progress with_reducible refine Keeps.mk hP ?_
    | split

theorem execAbortSweepDone_keeps {s : State} (h : P s) :
    ∀ t, execAbortSweepDone s = .next t → P t := by
  unfold execAbortSweepDone
  refine Keeps.next ?_
  repeat' first
    | with_reducible assumption
    | with_reducible refine Keeps.ite ?_ ?_
    | with_reducible refine Keeps.iteC ?_ ?_
    | with_reducible refine Keeps.foldl ?_ (fun t x ht => ?_)
    | with_reducible refine State.reopen_keeps hP ?_

theorem State.fetchBatch_keeps {s : State} {a1 : _} {a2 : _} {a3 : _} (h : P s) :
    P (State.fetchBatch s a1 a2 a3).2 := by
  induction a3 generalizing s a1 a2
  · exact h
  · rename_i n ih
    unfold State.fetchBatch
    have h1 := State.readEntry_keeps hP (a1 := a1) (a2 := a2) h
    generalize s.readEntry a1 a2 = e at h1 ⊢
    rcases e with ⟨_ | w, t⟩
    · exact h1
    · dsimp only
      split
      · exact h1
      · have h2 := ih (a1 := a1) (a2 := (a2 + 1) % 2 ^ 32) h1
        generalize t.fetchBatch a1 ((a2 + 1) % 2 ^ 32) n = e at h2 ⊢
        rcases e with ⟨_ | l, u⟩ <;> exact h2

theorem State.batchIn_keeps {s : State} {a1 : _} {a2 : _} {a3 : _} (h : P s) :
    P (State.batchIn s a1 a2 a3) := by
  unfold State.batchIn
  repeat' first
    | with_reducible assumption
    | with_reducible refine Keeps.ite ?_ ?_
    | with_reducible refine Keeps.foldl ?_ (fun t x ht => ?_)
    | with_reducible refine State.bump_keeps hP ?_
    | with_reducible refine State.setRing_keeps hP ?_
    | with_reducible refine Keeps.pair (by assumption) ?_
    | with_reducible refine Keeps.pair1 (by assumption) ?_
    | fail_if_no_progress with_reducible refine Keeps.mk hP ?_
    | split

theorem State.release_keeps {s : State} {a1 : _} {a2 : _} (h : P s) :
    P (State.release s a1 a2) := by
  unfold State.release
  repeat' first
    | with_reducible assumption
    | with_reducible refine Keeps.ite ?_ ?_
    | with_reducible refine Keeps.foldl ?_ (fun t x ht => ?_)
    | with_reducible refine State.setRing_keeps hP ?_
    | with_reducible refine State.fetchBatch_keeps hP ?_
    | with_reducible refine State.batchIn_keeps hP ?_

theorem execPeriodRelease_keeps {a0 : _} {s : State} (h : P s) :
    ∀ t, execPeriodRelease a0 s = .next t → P t := by
  unfold execPeriodRelease
  refine Keeps.next ?_
  repeat' first
    | with_reducible assumption
    | with_reducible refine Keeps.ite ?_ ?_
    | with_reducible refine Keeps.foldl ?_ (fun t x ht => ?_)
    | with_reducible refine State.release_keeps hP ?_

theorem State.cfgErr_keeps {s : State} {a1 : _} (h : P s) :
    P (State.cfgErr s a1) := by
  unfold State.cfgErr
  repeat' first
    | with_reducible assumption
    | with_reducible refine Keeps.ite ?_ ?_
    | with_reducible refine Keeps.foldl ?_ (fun t x ht => ?_)
    | with_reducible refine State.fset_keeps hP ?_

theorem State.overrun_keeps {s : State} {a1 : _} (h : P s) :
    P (State.overrun s a1) := by
  unfold State.overrun
  repeat' first
    | with_reducible assumption
    | with_reducible refine Keeps.ite ?_ ?_
    | with_reducible refine Keeps.foldl ?_ (fun t x ht => ?_)
    | with_reducible refine State.stopRing_keeps hP ?_

theorem State.ringStart_keeps {s : State} {a1 : _} (h : P s) :
    P (State.ringStart s a1) := by
  unfold State.ringStart
  repeat' first
    | with_reducible assumption
    | with_reducible refine Keeps.ite ?_ ?_
    | with_reducible refine Keeps.foldl ?_ (fun t x ht => ?_)
    | with_reducible refine State.fset_keeps hP ?_
    | with_reducible refine State.overrun_keeps hP ?_
    | with_reducible refine State.setRing_keeps hP ?_

theorem State.writeRingCfg_keeps {s : State} {a1 : _} {a2 : _} (h : P s) :
    P (State.writeRingCfg s a1 a2) := by
  unfold State.writeRingCfg
  repeat' first
    | with_reducible assumption
    | with_reducible refine Keeps.ite ?_ ?_
    | with_reducible refine Keeps.iteC ?_ ?_
    | with_reducible refine Keeps.foldl ?_ (fun t x ht => ?_)
    | with_reducible refine State.fset_keeps hP ?_
    | with_reducible refine State.ringStart_keeps hP ?_
    | with_reducible refine State.cfgErr_keeps hP ?_
    | with_reducible refine State.setRing_keeps hP ?_
    | with_reducible refine State.csrPut_keeps hP ?_

theorem State.writeRdIdx_keeps {s : State} {a1 : _} {a2 : _} (h : P s) :
    P (State.writeRdIdx s a1 a2) := by
  unfold State.writeRdIdx
  repeat' first
    | with_reducible assumption
    | with_reducible refine Keeps.ite ?_ ?_
    | with_reducible refine Keeps.foldl ?_ (fun t x ht => ?_)
    | with_reducible refine State.fset_keeps hP ?_

theorem State.writeWrIdx_keeps {s : State} {a1 : _} {a2 : _} (h : P s) :
    P (State.writeWrIdx s a1 a2) := by
  unfold State.writeWrIdx
  repeat' first
    | with_reducible assumption
    | with_reducible refine Keeps.ite ?_ ?_
    | with_reducible refine Keeps.foldl ?_ (fun t x ht => ?_)
    | with_reducible refine State.fset_keeps hP ?_
    | with_reducible refine State.overrun_keeps hP ?_

theorem execRingEn_keeps {a0 : _} {a1 : _} {a2 : _} {s : State} (h : P s) :
    ∀ t, execRingEn a0 a1 a2 s = .next t → P t := by
  unfold execRingEn
  refine Keeps.next ?_
  repeat' first
    | with_reducible assumption
    | with_reducible refine Keeps.ite ?_ ?_
    | with_reducible refine Keeps.iteC ?_ ?_
    | with_reducible refine Keeps.foldl ?_ (fun t x ht => ?_)
    | with_reducible refine State.byParty_keeps hP ?_ (fun t ht => ?_)
    | with_reducible refine State.writeRingCfg_keeps hP ?_
    | with_reducible refine State.regCmd_keeps hP ?_ (fun t ht => ?_)

theorem execRdIdx_keeps {a0 : _} {a1 : _} {a2 : _} {s : State} (h : P s) :
    ∀ t, execRdIdx a0 a1 a2 s = .next t → P t := by
  unfold execRdIdx
  refine Keeps.next ?_
  repeat' first
    | with_reducible assumption
    | with_reducible refine Keeps.ite ?_ ?_
    | with_reducible refine Keeps.iteC ?_ ?_
    | with_reducible refine Keeps.foldl ?_ (fun t x ht => ?_)
    | with_reducible refine State.byParty_keeps hP ?_ (fun t ht => ?_)
    | with_reducible refine State.writeRdIdx_keeps hP ?_
    | with_reducible refine State.regCmd_keeps hP ?_ (fun t ht => ?_)

theorem execWrIdx_keeps {a0 : _} {a1 : _} {a2 : _} {s : State} (h : P s) :
    ∀ t, execWrIdx a0 a1 a2 s = .next t → P t := by
  unfold execWrIdx
  refine Keeps.next ?_
  repeat' first
    | with_reducible assumption
    | with_reducible refine Keeps.ite ?_ ?_
    | with_reducible refine Keeps.iteC ?_ ?_
    | with_reducible refine Keeps.foldl ?_ (fun t x ht => ?_)
    | with_reducible refine State.byParty_keeps hP ?_ (fun t ht => ?_)
    | with_reducible refine State.writeWrIdx_keeps hP ?_
    | with_reducible refine State.regCmd_keeps hP ?_ (fun t ht => ?_)

end Sys2Proof.Machine
end

