-- ==== Sys2Proof/Laws/Keep/Images.lean ====
section
/-! SUPPORT. Every operation of Machine/Images.lean keeps a closed predicate (see Laws/Keep.lean). -/

namespace Sys2Proof.Machine

variable {P : State → Prop} (hP : Closed P)
include hP

theorem State.fwMod_keeps {s : State} {a1 : _} (h : P s) :
    P (State.fwMod s a1) := by
  unfold State.fwMod
  repeat' first
    | with_reducible assumption
    | with_reducible refine Keeps.ite ?_ ?_
    | with_reducible refine Keeps.iteC ?_ ?_
    | with_reducible refine Keeps.foldl ?_ (fun t x ht => ?_)
    | with_reducible refine Keeps.pair (by assumption) ?_
    | with_reducible refine Keeps.pair1 (by assumption) ?_
    | fail_if_no_progress with_reducible refine Keeps.mk hP ?_

theorem State.slotSt_keeps {s : State} {a1 : _} {a2 : _} (h : P s) :
    P (State.slotSt s a1 a2) := by
  unfold State.slotSt
  repeat' first
    | with_reducible assumption
    | with_reducible refine Keeps.ite ?_ ?_
    | with_reducible refine Keeps.iteC ?_ ?_
    | with_reducible refine Keeps.foldl ?_ (fun t x ht => ?_)
    | with_reducible refine State.fwMod_keeps hP ?_

theorem State.syncArith_keeps {s : State} (h : P s) :
    P (State.syncArith s) := by
  unfold State.syncArith
  repeat' first
    | with_reducible assumption
    | with_reducible refine Keeps.ite ?_ ?_
    | with_reducible refine Keeps.iteC ?_ ?_
    | with_reducible refine Keeps.foldl ?_ (fun t x ht => ?_)
    | with_reducible refine State.odPut_keeps hP ?_

theorem State.blobPut_keeps {s : State} {a1 : _} {a2 : _} (h : P s) :
    P (State.blobPut s a1 a2) := by
  unfold State.blobPut
  repeat' first
    | with_reducible assumption
    | with_reducible refine Keeps.ite ?_ ?_
    | with_reducible refine Keeps.iteC ?_ ?_
    | with_reducible refine Keeps.foldl ?_ (fun t x ht => ?_)
    | (refine hP.frame (hP.blob ?_ _ _) rfl rfl rfl rfl rfl rfl rfl rfl rfl rfl rfl)

theorem State.imageMeasured_keeps {s : State} {a1 : _} (h : P s) :
    P (State.imageMeasured s a1) := by
  unfold State.imageMeasured
  repeat' first
    | with_reducible assumption
    | with_reducible refine Keeps.ite ?_ ?_
    | with_reducible refine Keeps.iteC ?_ ?_
    | with_reducible refine Keeps.foldl ?_ (fun t x ht => ?_)
    | with_reducible refine State.fwMod_keeps hP ?_

theorem State.imageGone_keeps {s : State} {a1 : _} (h : P s) :
    P (State.imageGone s a1) := by
  unfold State.imageGone
  repeat' first
    | with_reducible assumption
    | with_reducible refine Keeps.ite ?_ ?_
    | with_reducible refine Keeps.iteC ?_ ?_
    | with_reducible refine Keeps.foldl ?_ (fun t x ht => ?_)
    | with_reducible refine State.fwMod_keeps hP ?_

theorem State.recordFormat_keeps {s : State} (h : P s) :
    P (State.recordFormat s) := by
  unfold State.recordFormat
  repeat' first
    | with_reducible assumption
    | with_reducible refine Keeps.ite ?_ ?_
    | with_reducible refine Keeps.iteC ?_ ?_
    | with_reducible refine Keeps.foldl ?_ (fun t x ht => ?_)
    | with_reducible refine State.fwMod_keeps hP ?_

theorem State.imageStart_keeps {s : State} {a1 : _} (h : P s) :
    P (State.imageStart s a1) := by
  unfold State.imageStart
  repeat' first
    | with_reducible assumption
    | with_reducible refine Keeps.ite ?_ ?_
    | with_reducible refine Keeps.iteC ?_ ?_
    | with_reducible refine Keeps.foldl ?_ (fun t x ht => ?_)
    | with_reducible refine State.imageMeasured_keeps hP ?_
    | with_reducible refine State.recordFormat_keeps hP ?_

theorem State.fwActivated_keeps {s : State} {a1 : _} {a2 : _} (h : P s) :
    P (State.fwActivated s a1 a2) := by
  unfold State.fwActivated
  repeat' first
    | with_reducible assumption
    | with_reducible refine Keeps.ite ?_ ?_
    | with_reducible refine Keeps.iteC ?_ ?_
    | with_reducible refine Keeps.foldl ?_ (fun t x ht => ?_)
    | with_reducible refine State.event_keeps hP ?_

theorem State.activateFail_keeps {s : State} {a1 : _} {a2 : _} (h : P s) :
    P (State.activateFail s a1 a2) := by
  unfold State.activateFail
  repeat' first
    | with_reducible assumption
    | with_reducible refine Keeps.ite ?_ ?_
    | with_reducible refine Keeps.iteC ?_ ?_
    | with_reducible refine Keeps.foldl ?_ (fun t x ht => ?_)
    | with_reducible refine State.event_keeps hP ?_

theorem State.fallBack_keeps {s : State} {a1 : _} {a2 : _} (h : P s) :
    P (State.fallBack s a1 a2) := by
  unfold State.fallBack
  repeat' first
    | with_reducible assumption
    | with_reducible refine Keeps.ite ?_ ?_
    | with_reducible refine Keeps.iteC ?_ ?_
    | with_reducible refine Keeps.foldl ?_ (fun t x ht => ?_)
    | with_reducible refine State.fwMod_keeps hP ?_
    | with_reducible refine State.syncArith_keeps hP ?_
    | with_reducible refine State.slotSt_keeps hP ?_
    | with_reducible refine State.imageStart_keeps hP ?_
    | with_reducible refine State.event_keeps hP ?_

theorem State.abandon_keeps {s : State} {a1 : _} {a2 : _} (h : P s) :
    P (State.abandon s a1 a2) := by
  unfold State.abandon
  repeat' first
    | with_reducible assumption
    | with_reducible refine Keeps.ite ?_ ?_
    | with_reducible refine Keeps.iteC ?_ ?_
    | with_reducible refine Keeps.foldl ?_ (fun t x ht => ?_)
    | with_reducible refine State.fwMod_keeps hP ?_
    | with_reducible refine State.activateFail_keeps hP ?_
    | with_reducible refine State.slotSt_keeps hP ?_
    | with_reducible refine Keeps.pair (by assumption) ?_
    | with_reducible refine Keeps.pair1 (by assumption) ?_
    | fail_if_no_progress with_reducible refine Keeps.mk hP ?_
    | split

end Sys2Proof.Machine
end

