-- ==== Sys2Proof/Laws/Keep/Failover.lean ====
section
/-! SUPPORT. Every operation of Machine/Failover.lean keeps a closed predicate (see Laws/Keep.lean). -/

namespace Sys2Proof.Machine

variable {P : State → Prop} (hP : Closed P)
include hP

theorem State.rcMod_keeps {s : State} {a1 : _} (h : P s) :
    P (State.rcMod s a1) := by
  unfold State.rcMod
  repeat' first
    | with_reducible assumption
    | with_reducible refine Keeps.ite ?_ ?_
    | with_reducible refine Keeps.foldl ?_ (fun t x ht => ?_)
    | with_reducible refine Keeps.pair (by assumption) ?_
    | with_reducible refine Keeps.pair1 (by assumption) ?_
    | fail_if_no_progress with_reducible refine Keeps.mk hP ?_

theorem State.setRc_keeps {s : State} {a1 : _} {a2 : _} (h : P s) :
    P (State.setRc s a1 a2) := by
  unfold State.setRc
  repeat' first
    | with_reducible assumption
    | with_reducible refine Keeps.ite ?_ ?_
    | with_reducible refine Keeps.foldl ?_ (fun t x ht => ?_)
    | with_reducible refine State.fset_keeps hP ?_

theorem State.setStandbyOk_keeps {s : State} {a1 : _} (h : P s) :
    P (State.setStandbyOk s a1) := by
  unfold State.setStandbyOk
  repeat' first
    | with_reducible assumption
    | with_reducible refine Keeps.ite ?_ ?_
    | with_reducible refine Keeps.foldl ?_ (fun t x ht => ?_)
    | with_reducible refine State.setFlag_keeps hP ?_

theorem State.pathClear_keeps {s : State} {a1 : _} {a2 : _} (h : P s) :
    P (State.pathClear s a1 a2) := by
  unfold State.pathClear
  repeat' first
    | with_reducible assumption
    | with_reducible refine Keeps.ite ?_ ?_
    | with_reducible refine Keeps.iteC ?_ ?_
    | with_reducible refine Keeps.foldl ?_ (fun t x ht => ?_)
    | with_reducible refine State.report_keeps hP ?_
    | with_reducible refine State.rcMod_keeps hP ?_

theorem State.pathBack_keeps {s : State} {a1 : _} {a2 : _} (h : P s) :
    P (State.pathBack s a1 a2) := by
  unfold State.pathBack
  repeat' first
    | with_reducible assumption
    | with_reducible refine Keeps.ite ?_ ?_
    | with_reducible refine Keeps.iteC ?_ ?_
    | with_reducible refine Keeps.foldl ?_ (fun t x ht => ?_)
    | with_reducible refine State.fset_keeps hP ?_
    | with_reducible refine State.pathClear_keeps hP ?_

theorem State.pathsFresh_keeps {s : State} {a1 : _} (h : P s) :
    P (State.pathsFresh s a1) := by
  unfold State.pathsFresh
  repeat' first
    | with_reducible assumption
    | with_reducible refine Keeps.ite ?_ ?_
    | with_reducible refine Keeps.iteC ?_ ?_
    | with_reducible refine Keeps.foldl ?_ (fun t x ht => ?_)
    | with_reducible refine State.pathClear_keeps hP ?_

theorem State.selfTest_keeps {s : State} {a1 : _} (h : P s) :
    P (State.selfTest s a1) := by
  unfold State.selfTest
  repeat' first
    | with_reducible assumption
    | with_reducible refine Keeps.ite ?_ ?_
    | with_reducible refine Keeps.foldl ?_ (fun t x ht => ?_)
    | with_reducible refine State.pathsFresh_keeps hP ?_
    | with_reducible refine State.setRc_keeps hP ?_

theorem State.standbyFail_keeps {s : State} {a1 : _} {a2 : _} (h : P s) :
    P (State.standbyFail s a1 a2) := by
  unfold State.standbyFail
  repeat' first
    | with_reducible assumption
    | with_reducible refine Keeps.ite ?_ ?_
    | with_reducible refine Keeps.foldl ?_ (fun t x ht => ?_)
    | with_reducible refine State.bump_keeps hP ?_
    | with_reducible refine State.setStandbyOk_keeps hP ?_
    | with_reducible refine State.event_keeps hP ?_
    | with_reducible refine State.report_keeps hP ?_
    | with_reducible refine State.rcMod_keeps hP ?_
    | with_reducible refine State.abandon_keeps hP ?_
    | with_reducible refine State.setRc_keeps hP ?_
    | with_reducible refine State.selfTest_keeps hP ?_
    | with_reducible refine Keeps.pair (by assumption) ?_
    | with_reducible refine Keeps.pair1 (by assumption) ?_
    | fail_if_no_progress with_reducible refine Keeps.mk hP ?_
    | split

theorem State.standbyPass_keeps {s : State} (h : P s) :
    P (State.standbyPass s) := by
  unfold State.standbyPass
  repeat' first
    | with_reducible assumption
    | with_reducible refine Keeps.ite ?_ ?_
    | with_reducible refine Keeps.foldl ?_ (fun t x ht => ?_)
    | with_reducible refine State.setStandbyOk_keeps hP ?_
    | with_reducible refine State.report_keeps hP ?_
    | with_reducible refine State.rcMod_keeps hP ?_
    | with_reducible refine Keeps.pair (by assumption) ?_
    | with_reducible refine Keeps.pair1 (by assumption) ?_
    | fail_if_no_progress with_reducible refine Keeps.mk hP ?_
    | split
    | dsimp only

theorem State.standbyCheck_keeps {s : State} {a1 : _} {a2 : _} (h : P s) :
    P (State.standbyCheck s a1 a2).2 := by
  unfold State.standbyCheck
  repeat' first
    | with_reducible assumption
    | with_reducible refine Keeps.ite ?_ ?_
    | with_reducible refine Keeps.foldl ?_ (fun t x ht => ?_)
    | with_reducible refine State.standbyFail_keeps hP ?_
    | with_reducible refine State.standbyPass_keeps hP ?_
    | with_reducible refine Keeps.pair (by assumption) ?_
    | with_reducible refine Keeps.pair1 (by assumption) ?_
    | fail_if_no_progress with_reducible refine Keeps.mk hP ?_
    | split
    | dsimp only

theorem execStandbyCheck_keeps {a0 : _} {a1 : _} {a2 : _} {s : State} (h : P s) :
    ∀ t, execStandbyCheck a0 a1 a2 s = .next t → P t := by
  unfold execStandbyCheck
  refine Keeps.next ?_
  repeat' first
    | with_reducible assumption
    | with_reducible refine Keeps.ite ?_ ?_
    | with_reducible refine Keeps.foldl ?_ (fun t x ht => ?_)
    | with_reducible refine State.serveListed_keeps hP ?_ (fun t ht => ?_)
    | with_reducible refine State.standbyCheck_keeps hP ?_
    | with_reducible refine State.mqAcked_keeps hP ?_

theorem execStandbyCheckTimer_keeps {a0 : _} {a1 : _} {s : State} (h : P s) :
    ∀ t, execStandbyCheckTimer a0 a1 s = .next t → P t := by
  unfold execStandbyCheckTimer
  refine Keeps.next ?_
  repeat' first
    | with_reducible assumption
    | with_reducible refine Keeps.ite ?_ ?_
    | with_reducible refine Keeps.foldl ?_ (fun t x ht => ?_)
    | with_reducible refine State.standbyCheck_keeps hP ?_

theorem State.resendRing_keeps {s : State} {a1 : _} (h : P s) :
    P (State.resendRing s a1).2 := by
  unfold State.resendRing
  repeat' first
    | with_reducible assumption
    | with_reducible refine Keeps.ite ?_ ?_
    | with_reducible refine Keeps.iteC ?_ ?_
    | with_reducible refine Keeps.foldl ?_ (fun t x ht => ?_)
    | with_reducible refine Keeps.foldl2 ?_ (fun b t x ht => ?_)
    | with_reducible refine State.arrive_keeps hP ?_
    | with_reducible refine State.wePost_keeps hP ?_
    | with_reducible refine Keeps.pair (by assumption) ?_
    | with_reducible refine Keeps.pair1 (by assumption) ?_
    | fail_if_no_progress with_reducible refine Keeps.mk hP ?_
    | split

theorem State.resendAll_keeps {s : State} (h : P s) :
    P (State.resendAll s).2 := by
  unfold State.resendAll
  refine Keeps.foldl2 h (fun n t x ht => ?_)
  exact State.resendRing_keeps hP ht

theorem State.claimFinished_keeps {s : State} (h : P s) :
    P (State.claimFinished s) := by
  unfold State.claimFinished
  repeat' first
    | with_reducible assumption
    | with_reducible refine Keeps.ite ?_ ?_
    | with_reducible refine Keeps.iteC ?_ ?_
    | with_reducible refine Keeps.foldl ?_ (fun t x ht => ?_)
    | with_reducible refine Keeps.foldl2 ?_ (fun b t x ht => ?_)
    | with_reducible refine State.draw_keeps hP ?_
    | with_reducible refine State.complete_keeps hP ?_
    | with_reducible refine State.finish_keeps hP ?_
    | with_reducible refine Keeps.pair (by assumption) ?_
    | with_reducible refine Keeps.pair1 (by assumption) ?_
    | fail_if_no_progress with_reducible refine Keeps.mk hP ?_
    | split

theorem State.mqFailover_keeps {s : State} {a1 : _} (h : P s) :
    P (State.mqFailover s a1).2 := by
  unfold State.mqFailover
  refine Keeps.foldl2 h (fun n t x ht => ?_)
  dsimp only
  have h1 : P (State.mqDrop { t with replies := vput t.replies x [] } x 1) :=
    State.mqDrop_keeps hP (Keeps.mk hP ht)
  generalize State.mqDrop { t with replies := vput t.replies x [] } x 1 = u at h1 ⊢
  split
  · exact State.mqAcked_keeps hP (a1 := x) (a2 := 0) (a3 := 0xFFFE) h1
  · exact h1

theorem State.failoverEnd_keeps {s : State} (h : P s) :
    P (State.failoverEnd s) := by
  unfold State.failoverEnd
  repeat' first
    | with_reducible assumption
    | with_reducible refine Keeps.ite ?_ ?_
    | with_reducible refine Keeps.iteC ?_ ?_
    | with_reducible refine Keeps.foldl ?_ (fun t x ht => ?_)
    | with_reducible refine State.rcMod_keeps hP ?_
    | with_reducible refine State.event_keeps hP ?_
    | with_reducible refine Keeps.pair (by assumption) ?_
    | with_reducible refine Keeps.pair1 (by assumption) ?_
    | fail_if_no_progress with_reducible refine Keeps.mk hP ?_
    | split

theorem State.failover_keeps {s : State} {a1 : _} {a2 : _} (h : P s) :
    P (State.failover s a1 a2) := by
  unfold State.failover
  repeat' first
    | with_reducible assumption
    | with_reducible refine Keeps.ite ?_ ?_
    | with_reducible refine Keeps.iteC ?_ ?_
    | with_reducible refine Keeps.foldl ?_ (fun t x ht => ?_)
    | with_reducible refine State.failoverEnd_keeps hP ?_
    | with_reducible refine State.bump_keeps hP ?_
    | with_reducible refine State.fset_keeps hP ?_
    | with_reducible refine State.claimFinished_keeps hP ?_
    | with_reducible refine State.fallBack_keeps hP ?_
    | with_reducible refine State.rcMod_keeps hP ?_
    | with_reducible refine State.jobRead_keeps hP ?_
    | with_reducible refine State.setRc_keeps hP ?_
    | with_reducible refine State.abandon_keeps hP ?_
    | with_reducible refine State.mqFailover_keeps hP ?_
    | with_reducible refine State.odBump_keeps hP ?_
    | with_reducible refine State.setStandbyOk_keeps hP ?_
    | with_reducible refine State.resendAll_keeps hP ?_

theorem State.switchTo_keeps {s : State} {a1 : _} (h : P s) :
    P (State.switchTo s a1) := by
  unfold State.switchTo
  repeat' first
    | with_reducible assumption
    | with_reducible refine Keeps.ite ?_ ?_
    | with_reducible refine Keeps.foldl ?_ (fun t x ht => ?_)
    | with_reducible refine State.setRc_keeps hP ?_
    | with_reducible refine State.failover_keeps hP ?_
    | with_reducible refine State.tokensForced_keeps hP ?_

theorem execSwitchover_keeps {a0 : _} {s : State} (h : P s) :
    ∀ t, execSwitchover a0 s = .next t → P t := by
  unfold execSwitchover
  refine Keeps.next ?_
  repeat' first
    | with_reducible assumption
    | with_reducible refine Keeps.ite ?_ ?_
    | with_reducible refine Keeps.foldl ?_ (fun t x ht => ?_)
    | with_reducible refine State.serveListed_keeps hP ?_ (fun t ht => ?_)
    | with_reducible refine State.mqAcked_keeps hP ?_
    | with_reducible refine State.switchTo_keeps hP ?_

end Sys2Proof.Machine
end

