-- ==== Sys2Proof/Laws/Keep/Fence.lean ====
section
/-! SUPPORT. Every operation of Machine/Fence.lean keeps a closed predicate (see Laws/Keep.lean). -/

namespace Sys2Proof.Machine

variable {P : State → Prop} (hP : Closed P)
include hP

theorem State.mgrMod_keeps {s : State} {a1 : _} (h : P s) :
    P (State.mgrMod s a1) := by
  unfold State.mgrMod
  repeat' first
    | with_reducible assumption
    | with_reducible refine Keeps.ite ?_ ?_
    | with_reducible refine Keeps.foldl ?_ (fun t x ht => ?_)
    | with_reducible refine Keeps.pair (by assumption) ?_
    | with_reducible refine Keeps.pair1 (by assumption) ?_
    | fail_if_no_progress with_reducible refine Keeps.mk hP ?_

theorem State.fenceMod_keeps {s : State} {a1 : _} {a2 : _} (h : P s) :
    P (State.fenceMod s a1 a2) := by
  unfold State.fenceMod
  repeat' first
    | with_reducible assumption
    | with_reducible refine Keeps.ite ?_ ?_
    | with_reducible refine Keeps.foldl ?_ (fun t x ht => ?_)
    | with_reducible refine State.mgrMod_keeps hP ?_

theorem State.markUnit_keeps {s : State} {a1 : _} {a2 : _} {a3 : _} (h : P s) :
    P (State.markUnit s a1 a2 a3) := by
  unfold State.markUnit
  repeat' first
    | with_reducible assumption
    | with_reducible refine Keeps.ite ?_ ?_
    | with_reducible refine Keeps.foldl ?_ (fun t x ht => ?_)
    | with_reducible refine State.fset_keeps hP ?_

theorem State.evPut_keeps {s : State} {a1 : _} {a2 : _} {a3 : _} (h : P s) :
    P (State.evPut s a1 a2 a3) := by
  induction a3 generalizing s a1 a2
  · simp only [State.evPut]
    repeat' first
      | with_reducible assumption
  · rename_i ih
    simp only [State.evPut]
    repeat' first
      | with_reducible assumption
      | with_reducible refine Keeps.ite ?_ ?_
      | with_reducible refine Keeps.iteC ?_ ?_
      | with_reducible refine Keeps.foldl ?_ (fun t x ht => ?_)
      | with_reducible refine ih ?_
      | with_reducible refine hP.evid ?_ _ _ _ _

theorem State.evByte_keeps {s : State} {a1 : _} {a2 : _} (h : P s) :
    P (State.evByte s a1 a2).2 := by
  unfold State.evByte
  exact State.decodeAt_keeps hP h

theorem State.evRead_keeps {s : State} {a1 : _} {a2 : _} {a3 : _} (h : P s) :
    P (State.evRead s a1 a2 a3).2 := by
  induction a3 generalizing s a1 a2 with
  | zero => exact h
  | succ n ih => 
   rw [State.evRead]
   exact ih (State.evByte_keeps hP h)

theorem State.evNumber_keeps {s : State} {a1 : _} (h : P s) :
    P (State.evNumber s a1).2 := by
  cases a1 with
  | some l => exact h
  | none => exact State.draw_keeps hP h

theorem State.evNext_keeps {s : State} {a1 : _} (h : P s) :
    P (State.evNext s a1).2 := by
  unfold State.evNext
  exact State.evNumber_keeps hP (State.evRead_keeps hP h)

theorem State.evScratch_keeps {s : State} {a1 : _} {a2 : _} {a3 : _} {a4 : _} {a5 : _} {a6 : _} (h : P s) :
    P (State.evScratch s a1 a2 a3 a4 a5 a6).2 := by
  induction a6 generalizing s a1 a2 a3 a4 a5
  · simp only [State.evScratch]
    repeat' first
      | with_reducible assumption
  · rename_i ih
    simp only [State.evScratch]
    repeat' first
      | with_reducible assumption
      | with_reducible refine Keeps.ite ?_ ?_
      | with_reducible refine Keeps.iteC ?_ ?_
      | with_reducible refine Keeps.foldl ?_ (fun t x ht => ?_)
      | with_reducible refine State.evPut_keeps hP ?_
      | with_reducible refine State.readWork_keeps hP ?_
      | with_reducible refine ih ?_

theorem State.writeSample_keeps {s : State} {a1 : _} (h : P s) :
    P (State.writeSample s a1).2 := by
  unfold State.writeSample
  exact State.evPut_keeps hP (State.evPut_keeps hP (State.evScratch_keeps hP (State.evPut_keeps hP (State.evNext_keeps hP h))))

theorem State.writeSamples_keeps {s : State} {a1 : _} (h : P s) :
    P (State.writeSamples s a1).2 := by
  induction a1 generalizing s with
  | nil => exact h
  | cons x l ih =>
    rw [State.writeSamples]
    exact ih (State.writeSample_keeps hP h)


theorem State.ringsCut_keeps {s : State} {a1 : _} (h : P s) :
    P (State.ringsCut s a1) := by
  unfold State.ringsCut
  repeat' first
    | with_reducible assumption
    | with_reducible refine Keeps.ite ?_ ?_
    | with_reducible refine Keeps.foldl ?_ (fun t x ht => ?_)
    | with_reducible refine Keeps.pair (by assumption) ?_
    | with_reducible refine Keeps.pair1 (by assumption) ?_
    | fail_if_no_progress with_reducible refine Keeps.mk hP ?_

theorem State.cutTile_keeps {s : State} {a1 : _} (h : P s) :
    P (State.cutTile s a1) := by
  unfold State.cutTile
  repeat' first
    | with_reducible assumption
    | with_reducible refine Keeps.ite ?_ ?_
    | with_reducible refine Keeps.foldl ?_ (fun t x ht => ?_)
    | with_reducible refine State.breakCtr_keeps hP ?_
    | with_reducible refine State.setTile_keeps hP ?_
    | with_reducible refine State.collsCut_keeps hP ?_
    | with_reducible refine State.setTileState_keeps hP ?_
    | with_reducible refine State.ringsCut_keeps hP ?_
    | with_reducible refine Keeps.pair (by assumption) ?_
    | with_reducible refine Keeps.pair1 (by assumption) ?_
    | fail_if_no_progress with_reducible refine Keeps.mk hP ?_
    | split

theorem State.cutMe_keeps {s : State} {a1 : _} (h : P s) :
    P (State.cutMe s a1) := by
  unfold State.cutMe
  repeat' first
    | with_reducible assumption
    | with_reducible refine Keeps.ite ?_ ?_
    | with_reducible refine Keeps.foldl ?_ (fun t x ht => ?_)
    | with_reducible refine State.markUnit_keeps hP ?_
    | with_reducible refine State.collsCut_keeps hP ?_
    | with_reducible refine State.meRegs_keeps hP ?_
    | with_reducible refine State.setMe_keeps hP ?_

theorem State.cutWe_keeps {s : State} {a1 : _} (h : P s) :
    P (State.cutWe s a1) := by
  unfold State.cutWe
  repeat' first
    | with_reducible assumption
    | with_reducible refine Keeps.ite ?_ ?_
    | with_reducible refine Keeps.foldl ?_ (fun t x ht => ?_)
    | with_reducible refine State.markUnit_keeps hP ?_
    | with_reducible refine State.breakCtr_keeps hP ?_
    | with_reducible refine State.setWeState_keeps hP ?_
    | with_reducible refine State.putWeng_keeps hP ?_
    | with_reducible refine State.weCancelAll_keeps hP ?_

theorem State.cutMd_keeps {s : State} {a1 : _} (h : P s) :
    P (State.cutMd s a1) := by
  unfold State.cutMd
  repeat' first
    | with_reducible assumption
    | with_reducible refine Keeps.ite ?_ ?_
    | with_reducible refine Keeps.foldl ?_ (fun t x ht => ?_)
    | with_reducible refine State.markUnit_keeps hP ?_
    | with_reducible refine State.scrubEnd_keeps hP ?_

theorem State.cutRc_keeps {s : State} {a1 : _} (h : P s) :
    P (State.cutRc s a1) := by
  unfold State.cutRc
  repeat' first
    | with_reducible assumption
    | with_reducible refine Keeps.ite ?_ ?_
    | with_reducible refine Keeps.iteC ?_ ?_
    | with_reducible refine Keeps.foldl ?_ (fun t x ht => ?_)
    | with_reducible refine State.setRc_keeps hP ?_
    | with_reducible refine State.abandon_keeps hP ?_
    | with_reducible refine State.setStandbyOk_keeps hP ?_
    | with_reducible refine State.markUnit_keeps hP ?_
    | with_reducible refine Keeps.pair (by assumption) ?_
    | with_reducible refine Keeps.pair1 (by assumption) ?_
    | fail_if_no_progress with_reducible refine Keeps.mk hP ?_
    | split

theorem State.cut_keeps {s : State} {a1 : _} (h : P s) :
    P (State.cut s a1) := by
  unfold State.cut
  repeat' first
    | with_reducible assumption
    | with_reducible refine Keeps.ite ?_ ?_
    | with_reducible refine Keeps.foldl ?_ (fun t x ht => ?_)
    | with_reducible refine State.cutTile_keeps hP ?_
    | with_reducible refine State.cutMe_keeps hP ?_
    | with_reducible refine State.cutWe_keeps hP ?_
    | with_reducible refine State.cutMd_keeps hP ?_
    | with_reducible refine State.cutRc_keeps hP ?_
    | with_reducible refine State.markUnit_keeps hP ?_
    | with_reducible refine Keeps.pair (by assumption) ?_
    | with_reducible refine Keeps.pair1 (by assumption) ?_
    | fail_if_no_progress with_reducible refine Keeps.mk hP ?_
    | split

theorem State.fence_keeps {s : State} {a1 : _} {a2 : _} {a3 : _} {a4 : _} {a5 : _} {a6 : _} (h : P s) :
    P (State.fence s a1 a2 a3 a4 a5 a6) := by
  unfold State.fence
  repeat' first
    | with_reducible assumption
    | with_reducible refine Keeps.ite ?_ ?_
    | with_reducible refine Keeps.iteC ?_ ?_
    | with_reducible refine Keeps.foldl ?_ (fun t x ht => ?_)
    | with_reducible refine State.bump_keeps hP ?_
    | with_reducible refine State.mgrMod_keeps hP ?_
    | with_reducible refine State.cut_keeps hP ?_
    | with_reducible refine State.ilVote_keeps hP ?_
    | with_reducible refine State.csrPut_keeps hP ?_
    | with_reducible refine State.failover_keeps hP ?_

theorem execFenceDrainEnd_keeps {a0 : _} {s : State} (h : P s) :
    ∀ t, execFenceDrainEnd a0 s = .next t → P t := by
  unfold execFenceDrainEnd
  refine Keeps.next ?_
  repeat' first
    | with_reducible assumption
    | with_reducible refine Keeps.ite ?_ ?_
    | with_reducible refine Keeps.foldl ?_ (fun t x ht => ?_)
    | with_reducible refine State.setTile_keeps hP ?_
    | with_reducible refine State.fenceMod_keeps hP ?_
    | with_reducible refine State.fset_keeps hP ?_
    | with_reducible refine State.dmaAll_keeps hP ?_
    | with_reducible refine State.bump_keeps hP ?_
    | with_reducible refine Keeps.pair (by assumption) ?_
    | with_reducible refine Keeps.pair1 (by assumption) ?_
    | fail_if_no_progress with_reducible refine Keeps.mk hP ?_
    | split

theorem State.rcSelfTests_keeps {s : State} {a1 : _} (h : P s) :
    P (State.rcSelfTests s a1) := by
  unfold State.rcSelfTests
  repeat' first
    | with_reducible assumption
    | with_reducible refine Keeps.ite ?_ ?_
    | with_reducible refine Keeps.iteC ?_ ?_
    | with_reducible refine Keeps.foldl ?_ (fun t x ht => ?_)
    | with_reducible refine Keeps.foldl2 ?_ (fun b t x ht => ?_)
    | with_reducible refine State.selfTest_keeps hP ?_

theorem execFenceComplete_keeps {a0 : _} {s : State} (h : P s) :
    ∀ t, execFenceComplete a0 s = .next t → P t := by
  unfold execFenceComplete
  refine Keeps.next ?_
  repeat' first
    | with_reducible assumption
    | with_reducible refine Keeps.ite ?_ ?_
    | with_reducible refine Keeps.iteC ?_ ?_
    | with_reducible refine Keeps.foldl ?_ (fun t x ht => ?_)
    | with_reducible refine Keeps.foldl2 ?_ (fun b t x ht => ?_)
    | with_reducible refine State.failoverEnd_keeps hP ?_
    | with_reducible refine State.rcSelfTests_keeps hP ?_
    | with_reducible refine State.writeSamples_keeps hP ?_
    | with_reducible refine State.tokensForced_keeps hP ?_
    | with_reducible refine State.fenceMod_keeps hP ?_
    | with_reducible refine Keeps.pair (by assumption) ?_
    | with_reducible refine Keeps.pair1 (by assumption) ?_
    | fail_if_no_progress with_reducible refine Keeps.mk hP ?_
    | split

theorem State.codeBerths_keeps {s : State} {a1 : _} (h : P s) :
    P (State.codeBerths s a1) := by
  unfold State.codeBerths
  repeat' first
    | with_reducible assumption
    | with_reducible refine Keeps.ite ?_ ?_
    | with_reducible refine Keeps.foldl ?_ (fun t x ht => ?_)
    | with_reducible refine State.setTile_keeps hP ?_

theorem State.tileUnitReset_keeps {s : State} {a1 : _} {a2 : _} (h : P s) :
    P (State.tileUnitReset s a1 a2).2 := by
  unfold State.tileUnitReset
  repeat' first
    | with_reducible assumption
    | with_reducible refine Keeps.ite ?_ ?_
    | with_reducible refine Keeps.iteC ?_ ?_
    | with_reducible refine Keeps.foldl ?_ (fun t x ht => ?_)
    | with_reducible refine State.writeBytes_keeps hP ?_
    | with_reducible refine State.readUntil_keeps hP ?_
    | with_reducible refine State.setTile_keeps hP ?_
    | with_reducible refine State.codeBerths_keeps hP ?_
    | with_reducible refine Keeps.pair (by assumption) ?_
    | with_reducible refine Keeps.pair1 (by assumption) ?_
    | fail_if_no_progress with_reducible refine Keeps.mk hP ?_
    | split
    | dsimp only

theorem State.tilesUnitReset_keeps {s : State} {a1 : _} {a2 : _} (h : P s) :
    P (State.tilesUnitReset s a1 a2).2 := by
  induction a2 generalizing s a1
  · simp only [State.tilesUnitReset]
    repeat' first
      | with_reducible assumption
  · rename_i ih
    simp only [State.tilesUnitReset]
    repeat' first
      | with_reducible assumption
      | with_reducible refine Keeps.ite ?_ ?_
      | with_reducible refine Keeps.foldl ?_ (fun t x ht => ?_)
      | with_reducible refine State.tileUnitReset_keeps hP ?_
      | with_reducible refine ih ?_

theorem State.unitReset_keeps {s : State} {a1 : _} {a2 : _} {a3 : _} (h : P s) :
    P (State.unitReset s a1 a2 a3).2 := by
  unfold State.unitReset
  repeat' first
    | with_reducible assumption
    | with_reducible refine Keeps.ite ?_ ?_
    | with_reducible refine Keeps.iteC ?_ ?_
    | with_reducible refine Keeps.foldl ?_ (fun t x ht => ?_)
    | with_reducible refine Keeps.foldl2 ?_ (fun b t x ht => ?_)
    | with_reducible refine State.fset_keeps hP ?_
    | with_reducible refine State.setMe_keeps hP ?_
    | with_reducible refine State.meRegs_keeps hP ?_
    | with_reducible refine State.tilesUnitReset_keeps hP ?_

theorem State.rcFenced_keeps {s : State} {a1 : _} (h : P s) :
    P (State.rcFenced s a1) := by
  unfold State.rcFenced
  repeat' first
    | with_reducible assumption
    | with_reducible refine Keeps.ite ?_ ?_
    | with_reducible refine Keeps.iteC ?_ ?_
    | with_reducible refine Keeps.foldl ?_ (fun t x ht => ?_)
    | with_reducible refine Keeps.foldl2 ?_ (fun b t x ht => ?_)
    | with_reducible refine State.setRc_keeps hP ?_

theorem State.lift_keeps {s : State} {a1 : _} (h : P s) :
    P (State.lift s a1) := by
  unfold State.lift
  repeat' first
    | with_reducible assumption
    | with_reducible refine Keeps.ite ?_ ?_
    | with_reducible refine Keeps.iteC ?_ ?_
    | with_reducible refine Keeps.foldl ?_ (fun t x ht => ?_)
    | with_reducible refine Keeps.foldl2 ?_ (fun b t x ht => ?_)
    | with_reducible refine State.setTileState_keeps hP ?_
    | with_reducible refine State.weRest_keeps hP ?_
    | with_reducible refine State.setRc_keeps hP ?_
    | with_reducible refine State.meRegs_keeps hP ?_
    | with_reducible refine State.markUnit_keeps hP ?_
    | with_reducible refine Keeps.pair (by assumption) ?_
    | with_reducible refine Keeps.pair1 (by assumption) ?_
    | fail_if_no_progress with_reducible refine Keeps.mk hP ?_
    | split

theorem State.fenceDone_keeps {s : State} {a1 : _} {a2 : _} {a3 : _} (h : P s) :
    P (State.fenceDone s a1 a2 a3) := by
  unfold State.fenceDone
  repeat' first
    | with_reducible assumption
    | with_reducible refine Keeps.ite ?_ ?_
    | with_reducible refine Keeps.foldl ?_ (fun t x ht => ?_)
    | with_reducible refine State.setFlag_keeps hP ?_
    | with_reducible refine State.event_keeps hP ?_

theorem State.escalation_keeps {s : State} {a1 : _} {a2 : _} {a3 : _} {a4 : _} (h : P s) :
    P (State.escalation s a1 a2 a3 a4) := by
  unfold State.escalation
  repeat' first
    | with_reducible assumption
    | with_reducible refine Keeps.ite ?_ ?_
    | with_reducible refine Keeps.foldl ?_ (fun t x ht => ?_)
    | with_reducible refine State.bump_keeps hP ?_
    | with_reducible refine State.event_keeps hP ?_

theorem State.climb_keeps {s : State} {a1 : _} {a2 : _} {a3 : _} (h : P s) :
    P (State.climb s a1 a2 a3).2.2 := by
  induction a3 generalizing s a1 a2
  · simp only [State.climb]
    repeat' first
      | with_reducible assumption
  · rename_i ih
    simp only [State.climb]
    repeat' first
      | with_reducible assumption
      | with_reducible refine Keeps.ite ?_ ?_
      | with_reducible refine Keeps.foldl ?_ (fun t x ht => ?_)
      | with_reducible refine State.escalation_keeps hP ?_
      | with_reducible refine ih ?_
      | with_reducible refine Keeps.pair (by assumption) ?_
      | with_reducible refine Keeps.pair1 (by assumption) ?_
      | fail_if_no_progress with_reducible refine Keeps.mk hP ?_
      | split

theorem State.askReset_keeps {s : State} {a1 : _} {a2 : _} {a3 : _} {a4 : _} {a5 : _} (h : P s) :
    P (State.askReset s a1 a2 a3 a4 a5) := by
  unfold State.askReset
  repeat' first
    | with_reducible assumption
    | with_reducible refine Keeps.ite ?_ ?_
    | with_reducible refine Keeps.iteC ?_ ?_
    | with_reducible refine Keeps.foldl ?_ (fun t x ht => ?_)
    | with_reducible refine State.fset_keeps hP ?_
    | with_reducible refine State.climb_keeps hP ?_
    | with_reducible refine Keeps.last (by assumption) ?_
    | with_reducible refine Keeps.pair (by assumption) ?_
    | with_reducible refine Keeps.pair1 (by assumption) ?_
    | fail_if_no_progress with_reducible refine Keeps.mk hP ?_

theorem State.askSignal_keeps {s : State} {a1 : _} (h : P s) :
    P (State.askSignal s a1) := by
  unfold State.askSignal
  repeat' first
    | with_reducible assumption
    | with_reducible refine Keeps.ite ?_ ?_
    | with_reducible refine Keeps.foldl ?_ (fun t x ht => ?_)
    | with_reducible refine Keeps.pair (by assumption) ?_
    | with_reducible refine Keeps.pair1 (by assumption) ?_
    | fail_if_no_progress with_reducible refine Keeps.mk hP ?_

theorem State.requestReset_keeps {s : State} {a1 : _} (h : P s) :
    P (State.requestReset s a1) := by
  unfold State.requestReset
  repeat' first
    | with_reducible assumption
    | with_reducible refine Keeps.ite ?_ ?_
    | with_reducible refine Keeps.foldl ?_ (fun t x ht => ?_)
    | with_reducible refine State.fset_keeps hP ?_
    | with_reducible refine State.askSignal_keeps hP ?_
    | with_reducible refine State.askReset_keeps hP ?_

theorem State.autoReset_keeps {s : State} {a1 : _} {a2 : _} {a3 : _} {a4 : _} (h : P s) :
    P (State.autoReset s a1 a2 a3 a4) := by
  unfold State.autoReset
  repeat' first
    | with_reducible assumption
    | with_reducible refine Keeps.ite ?_ ?_
    | with_reducible refine Keeps.iteC ?_ ?_
    | with_reducible refine Keeps.foldl ?_ (fun t x ht => ?_)
    | with_reducible refine State.mgrMod_keeps hP ?_
    | with_reducible refine State.fset_keeps hP ?_
    | with_reducible refine State.escalation_keeps hP ?_
    | with_reducible refine State.askReset_keeps hP ?_

theorem State.act_keeps {s : State} {a1 : _} {a2 : _} {a3 : _} {a4 : _} (h : P s) :
    P (State.act s a1 a2 a3 a4) := by
  unfold State.act
  repeat' first
    | with_reducible assumption
    | with_reducible refine Keeps.ite ?_ ?_
    | with_reducible refine Keeps.iteC ?_ ?_
    | with_reducible refine Keeps.foldl ?_ (fun t x ht => ?_)
    | with_reducible refine State.climb_keeps hP ?_
    | with_reducible refine State.fence_keeps hP ?_
    | with_reducible refine State.autoReset_keeps hP ?_
    | with_reducible refine Keeps.last (by assumption) ?_
    | with_reducible refine Keeps.pair (by assumption) ?_
    | with_reducible refine Keeps.pair1 (by assumption) ?_
    | fail_if_no_progress with_reducible refine Keeps.mk hP ?_
    | split

theorem State.actUnit_keeps {s : State} {a1 : _} {a2 : _} {a3 : _} {a4 : _} (h : P s) :
    P (State.actUnit s a1 a2 a3 a4) := by
  unfold State.actUnit
  repeat' first
    | with_reducible assumption
    | with_reducible refine Keeps.ite ?_ ?_
    | with_reducible refine Keeps.foldl ?_ (fun t x ht => ?_)
    | with_reducible refine State.act_keeps hP ?_
    | with_reducible refine Keeps.pair (by assumption) ?_
    | with_reducible refine Keeps.pair1 (by assumption) ?_
    | fail_if_no_progress with_reducible refine Keeps.mk hP ?_
    | split

theorem State.fenceRequest_keeps {s : State} {a1 : _} {a2 : _} (h : P s) :
    P (State.fenceRequest s a1 a2).2 := by
  unfold State.fenceRequest
  repeat' first
    | with_reducible assumption
    | with_reducible refine Keeps.ite ?_ ?_
    | with_reducible refine Keeps.iteC ?_ ?_
    | with_reducible refine Keeps.foldl ?_ (fun t x ht => ?_)
    | with_reducible refine State.climb_keeps hP ?_
    | with_reducible refine State.fence_keeps hP ?_
    | with_reducible refine State.askReset_keeps hP ?_
    | with_reducible refine Keeps.last (by assumption) ?_
    | with_reducible refine Keeps.pair (by assumption) ?_
    | with_reducible refine Keeps.pair1 (by assumption) ?_
    | fail_if_no_progress with_reducible refine Keeps.mk hP ?_
    | split

theorem fenceAnswer_keeps {a0 : _} {a1 : _} (h1 : P a1.2) :
    P (fenceAnswer a0 a1) := by
  unfold fenceAnswer
  repeat' first
    | with_reducible assumption
    | with_reducible refine Keeps.ite ?_ ?_
    | with_reducible refine Keeps.foldl ?_ (fun t x ht => ?_)
    | with_reducible refine State.fset_keeps hP ?_

theorem execFenceReq_keeps {a0 : _} {a1 : _} {a2 : _} {s : State} (h : P s) :
    ∀ t, execFenceReq a0 a1 a2 s = .next t → P t := by
  unfold execFenceReq
  refine Keeps.next ?_
  repeat' first
    | with_reducible assumption
    | with_reducible refine Keeps.ite ?_ ?_
    | with_reducible refine Keeps.iteC ?_ ?_
    | with_reducible refine Keeps.foldl ?_ (fun t x ht => ?_)
    | with_reducible refine State.byParty_keeps hP ?_ (fun t ht => ?_)
    | with_reducible refine State.regCmd_keeps hP ?_ (fun t ht => ?_)
    | with_reducible refine State.fenceRequest_keeps hP ?_
    | with_reducible refine fenceAnswer_keeps hP ?_

theorem State.unitFailed_keeps {s : State} {a1 : _} {a2 : _} (h : P s) :
    P (State.unitFailed s a1 a2) := by
  unfold State.unitFailed
  repeat' first
    | with_reducible assumption
    | with_reducible refine Keeps.ite ?_ ?_
    | with_reducible refine Keeps.iteC ?_ ?_
    | with_reducible refine Keeps.foldl ?_ (fun t x ht => ?_)
    | with_reducible refine State.escalation_keeps hP ?_
    | with_reducible refine State.act_keeps hP ?_

theorem execUnitResetDone_keeps {a0 : _} {a1 : _} {a2 : _} {s : State} (h : P s) :
    ∀ t, execUnitResetDone a0 a1 a2 s = .next t → P t := by
  unfold execUnitResetDone
  refine Keeps.next ?_
  repeat' first
    | with_reducible assumption
    | with_reducible refine Keeps.ite ?_ ?_
    | with_reducible refine Keeps.iteC ?_ ?_
    | with_reducible refine Keeps.foldl ?_ (fun t x ht => ?_)
    | with_reducible refine State.mgrMod_keeps hP ?_
    | with_reducible refine State.unitFailed_keeps hP ?_
    | with_reducible refine State.lift_keeps hP ?_
    | with_reducible refine State.fenceDone_keeps hP ?_
    | with_reducible refine State.rcFenced_keeps hP ?_
    | with_reducible refine State.fenceMod_keeps hP ?_
    | with_reducible refine State.unitReset_keeps hP ?_
    | with_reducible refine Keeps.pair (by assumption) ?_
    | with_reducible refine Keeps.pair1 (by assumption) ?_
    | fail_if_no_progress with_reducible refine Keeps.mk hP ?_
    | split

theorem State.liftRequest_keeps {s : State} {a1 : _} (h : P s) :
    P (State.liftRequest s a1).2 := by
  unfold State.liftRequest
  repeat' first
    | with_reducible assumption
    | with_reducible refine Keeps.ite ?_ ?_
    | with_reducible refine Keeps.iteC ?_ ?_
    | with_reducible refine Keeps.foldl ?_ (fun t x ht => ?_)
    | with_reducible refine State.rcSelfTests_keeps hP ?_
    | with_reducible refine State.fenceMod_keeps hP ?_
    | with_reducible refine Keeps.pair (by assumption) ?_
    | with_reducible refine Keeps.pair1 (by assumption) ?_
    | fail_if_no_progress with_reducible refine Keeps.mk hP ?_
    | split

theorem execLift_keeps {a0 : _} {a1 : _} {s : State} (h : P s) :
    ∀ t, execLift a0 a1 s = .next t → P t := by
  unfold execLift
  refine Keeps.next ?_
  repeat' first
    | with_reducible assumption
    | with_reducible refine Keeps.ite ?_ ?_
    | with_reducible refine Keeps.iteC ?_ ?_
    | with_reducible refine Keeps.foldl ?_ (fun t x ht => ?_)
    | with_reducible refine State.byParty_keeps hP ?_ (fun t ht => ?_)
    | with_reducible refine State.regCmd_keeps hP ?_ (fun t ht => ?_)
    | with_reducible refine State.liftRequest_keeps hP ?_
    | with_reducible refine fenceAnswer_keeps hP ?_

theorem execAbortDrain_keeps {s : State} (h : P s) :
    ∀ t, execAbortDrain s = .next t → P t := by
  unfold execAbortDrain
  refine Keeps.next ?_
  repeat' first
    | with_reducible assumption
    | with_reducible refine Keeps.ite ?_ ?_
    | with_reducible refine Keeps.foldl ?_ (fun t x ht => ?_)
    | with_reducible refine State.actUnit_keeps hP ?_
    | with_reducible refine State.epMod_keeps hP ?_

end Sys2Proof.Machine
end

