-- ==== Sys2Proof/Laws/Keep/Beats.lean ====
section
/-! SUPPORT. Every operation of Machine/Beats.lean keeps a closed predicate (see Laws/Keep.lean). -/

namespace Sys2Proof.Machine

variable {P : State → Prop} (hP : Closed P)
include hP

theorem State.spoil_keeps {s : State} {a1 : _} (h : P s) :
    P (State.spoil s a1) := by
  unfold State.spoil
  repeat' first
    | with_reducible assumption
    | with_reducible refine Keeps.ite ?_ ?_
    | with_reducible refine Keeps.foldl ?_ (fun t x ht => ?_)
    | with_reducible refine State.fwMod_keeps hP ?_

theorem State.failFence_keeps {s : State} {a1 : _} {a2 : _} {a3 : _} (h : P s) :
    P (State.failFence s a1 a2 a3) := by
  unfold State.failFence
  repeat' first
    | with_reducible assumption
    | with_reducible refine Keeps.ite ?_ ?_
    | with_reducible refine Keeps.iteC ?_ ?_
    | with_reducible refine Keeps.foldl ?_ (fun t x ht => ?_)
    | with_reducible refine State.failoverEnd_keeps hP ?_
    | with_reducible refine State.fence_keeps hP ?_
    | with_reducible refine State.failover_keeps hP ?_

theorem State.lose_keeps {s : State} {a1 : _} (h : P s) :
    P (State.lose s a1) := by
  unfold State.lose
  repeat' first
    | with_reducible assumption
    | with_reducible refine Keeps.ite ?_ ?_
    | with_reducible refine Keeps.iteC ?_ ?_
    | with_reducible refine Keeps.foldl ?_ (fun t x ht => ?_)
    | with_reducible refine State.failoverEnd_keeps hP ?_
    | with_reducible refine State.failFence_keeps hP ?_
    | with_reducible refine State.report_keeps hP ?_
    | with_reducible refine State.climb_keeps hP ?_
    | with_reducible refine State.fallBack_keeps hP ?_
    | with_reducible refine State.rcMod_keeps hP ?_
    | with_reducible refine State.spoil_keeps hP ?_
    | with_reducible refine State.standbyFail_keeps hP ?_
    | with_reducible refine State.failover_keeps hP ?_
    | with_reducible refine State.autoReset_keeps hP ?_
    | with_reducible refine Keeps.last (by assumption) ?_
    | with_reducible refine Keeps.pair (by assumption) ?_
    | with_reducible refine Keeps.pair1 (by assumption) ?_
    | fail_if_no_progress with_reducible refine Keeps.mk hP ?_
    | split

theorem State.judgePaths_keeps {s : State} {a1 : _} (h : P s) :
    P (State.judgePaths s a1) := by
  unfold State.judgePaths
  repeat' first
    | with_reducible assumption
    | with_reducible refine Keeps.ite ?_ ?_
    | with_reducible refine Keeps.iteC ?_ ?_
    | with_reducible refine Keeps.foldl ?_ (fun t x ht => ?_)
    | with_reducible refine State.lose_keeps hP ?_
    | with_reducible refine State.report_keeps hP ?_
    | with_reducible refine State.rcMod_keeps hP ?_
    | with_reducible refine State.event_keeps hP ?_

theorem State.beat_keeps {s : State} {a1 : _} (h : P s) :
    P (State.beat s a1) := by
  unfold State.beat
  repeat' first
    | with_reducible assumption
    | with_reducible refine Keeps.ite ?_ ?_
    | with_reducible refine Keeps.iteC ?_ ?_
    | with_reducible refine Keeps.foldl ?_ (fun t x ht => ?_)
    | with_reducible refine State.judgePaths_keeps hP ?_
    | with_reducible refine State.pathBack_keeps hP ?_
    | with_reducible refine State.wrap_keeps hP ?_

theorem State.rcBeat_keeps {s : State} {a1 : _} (h : P s) :
    P (State.rcBeat s a1).2 := by
  unfold State.rcBeat
  repeat' first
    | with_reducible assumption
    | with_reducible refine Keeps.ite ?_ ?_
    | with_reducible refine Keeps.foldl ?_ (fun t x ht => ?_)
    | with_reducible refine State.beat_keeps hP ?_
    | with_reducible refine Keeps.pair (by assumption) ?_
    | with_reducible refine Keeps.pair1 (by assumption) ?_
    | fail_if_no_progress with_reducible refine Keeps.mk hP ?_
    | split

theorem execRcBeat_keeps {a0 : _} {s : State} (h : P s) :
    ∀ t, execRcBeat a0 s = .next t → P t := by
  unfold execRcBeat
  refine Keeps.next ?_
  repeat' first
    | with_reducible assumption
    | with_reducible refine Keeps.ite ?_ ?_
    | with_reducible refine Keeps.iteC ?_ ?_
    | with_reducible refine Keeps.foldl ?_ (fun t x ht => ?_)
    | with_reducible refine State.regCmdSt_keeps hP ?_ (fun t ht => ?_)
    | with_reducible refine State.byParty_keeps hP ?_ (fun t ht => ?_)
    | with_reducible refine State.rcBeat_keeps hP ?_

theorem execWireHeartbeat_keeps {a0 : _} {s : State} (h : P s) :
    ∀ t, execWireHeartbeat a0 s = .next t → P t := by
  unfold execWireHeartbeat
  refine Keeps.next ?_
  repeat' first
    | with_reducible assumption
    | with_reducible refine Keeps.ite ?_ ?_
    | with_reducible refine Keeps.iteC ?_ ?_
    | with_reducible refine Keeps.foldl ?_ (fun t x ht => ?_)
    | with_reducible refine State.judgePaths_keeps hP ?_
    | with_reducible refine State.pathBack_keeps hP ?_

theorem execHbPathSilent_keeps {a0 : _} {a1 : _} {s : State} (h : P s) :
    ∀ t, execHbPathSilent a0 a1 s = .next t → P t := by
  unfold execHbPathSilent
  refine Keeps.next ?_
  repeat' first
    | with_reducible assumption
    | with_reducible refine Keeps.ite ?_ ?_
    | with_reducible refine Keeps.foldl ?_ (fun t x ht => ?_)
    | with_reducible refine State.fset_keeps hP ?_
    | with_reducible refine State.judgePaths_keeps hP ?_
    | with_reducible refine State.rcMod_keeps hP ?_

theorem State.pickActive_keeps {s : State} (h : P s) :
    P (State.pickActive s) := by
  unfold State.pickActive
  repeat' first
    | with_reducible assumption
    | with_reducible refine Keeps.ite ?_ ?_
    | with_reducible refine Keeps.foldl ?_ (fun t x ht => ?_)
    | with_reducible refine State.fset_keeps hP ?_
    | with_reducible refine State.setRc_keeps hP ?_
    | with_reducible refine Keeps.pair (by assumption) ?_
    | with_reducible refine Keeps.pair1 (by assumption) ?_
    | fail_if_no_progress with_reducible refine Keeps.mk hP ?_

theorem execRcSelftestDone_keeps {a0 : _} {a1 : _} {s : State} (h : P s) :
    ∀ t, execRcSelftestDone a0 a1 s = .next t → P t := by
  unfold execRcSelftestDone
  refine Keeps.next ?_
  repeat' first
    | with_reducible assumption
    | with_reducible refine Keeps.ite ?_ ?_
    | with_reducible refine Keeps.iteC ?_ ?_
    | with_reducible refine Keeps.foldl ?_ (fun t x ht => ?_)
    | with_reducible refine State.fwMod_keeps hP ?_
    | with_reducible refine State.selfTest_keeps hP ?_
    | with_reducible refine State.judgePaths_keeps hP ?_
    | with_reducible refine State.pickActive_keeps hP ?_
    | with_reducible refine State.setRc_keeps hP ?_
    | with_reducible refine State.abandon_keeps hP ?_

theorem execRcStandbyReady_keeps {a0 : _} {s : State} (h : P s) :
    ∀ t, execRcStandbyReady a0 s = .next t → P t := by
  unfold execRcStandbyReady
  refine Keeps.next ?_
  repeat' first
    | with_reducible assumption
    | with_reducible refine Keeps.ite ?_ ?_
    | with_reducible refine Keeps.iteC ?_ ?_
    | with_reducible refine Keeps.foldl ?_ (fun t x ht => ?_)
    | with_reducible refine State.judgePaths_keeps hP ?_
    | with_reducible refine State.rcMod_keeps hP ?_
    | with_reducible refine State.standbyPass_keeps hP ?_
    | with_reducible refine State.setRc_keeps hP ?_
    | with_reducible refine State.event_keeps hP ?_

theorem State.fwBeat_keeps {s : State} {a1 : _} (h : P s) :
    P (State.fwBeat s a1).2 := by
  unfold State.fwBeat
  repeat' first
    | with_reducible assumption
    | with_reducible refine Keeps.ite ?_ ?_
    | with_reducible refine Keeps.foldl ?_ (fun t x ht => ?_)
    | with_reducible refine State.fset_keeps hP ?_
    | with_reducible refine Keeps.pair (by assumption) ?_
    | with_reducible refine Keeps.pair1 (by assumption) ?_
    | fail_if_no_progress with_reducible refine Keeps.mk hP ?_
    | split

theorem execFwBeat_keeps {a0 : _} {s : State} (h : P s) :
    ∀ t, execFwBeat a0 s = .next t → P t := by
  unfold execFwBeat
  refine Keeps.next ?_
  repeat' first
    | with_reducible assumption
    | with_reducible refine Keeps.ite ?_ ?_
    | with_reducible refine Keeps.iteC ?_ ?_
    | with_reducible refine Keeps.foldl ?_ (fun t x ht => ?_)
    | with_reducible refine State.regCmdSt_keeps hP ?_ (fun t ht => ?_)
    | with_reducible refine State.byParty_keeps hP ?_ (fun t ht => ?_)
    | with_reducible refine State.fwBeat_keeps hP ?_

theorem State.sbHang_keeps {s : State} (h : P s) :
    P (State.sbHang s) := by
  unfold State.sbHang
  repeat' first
    | with_reducible assumption
    | with_reducible refine Keeps.ite ?_ ?_
    | with_reducible refine Keeps.iteC ?_ ?_
    | with_reducible refine Keeps.foldl ?_ (fun t x ht => ?_)
    | with_reducible refine State.mgrMod_keeps hP ?_
    | with_reducible refine State.fset_keeps hP ?_
    | with_reducible refine State.askSignal_keeps hP ?_

theorem execFwBeatMiss_keeps {a0 : _} {s : State} (h : P s) :
    ∀ t, execFwBeatMiss a0 s = .next t → P t := by
  unfold execFwBeatMiss
  refine Keeps.next ?_
  repeat' first
    | with_reducible assumption
    | with_reducible refine Keeps.ite ?_ ?_
    | with_reducible refine Keeps.foldl ?_ (fun t x ht => ?_)
    | with_reducible refine State.fset_keeps hP ?_
    | with_reducible refine State.report_keeps hP ?_
    | with_reducible refine State.sbHang_keeps hP ?_
    | with_reducible refine State.spoil_keeps hP ?_

end Sys2Proof.Machine
end

