-- ==== Sys2Proof/Laws/Keep/Resets.lean ====
section
/-! SUPPORT. Every operation of Machine/Resets.lean keeps a closed predicate (see Laws/Keep.lean). -/

namespace Sys2Proof.Machine

variable {P : State → Prop} (hP : Closed P)
include hP

theorem State.resetBlocks_keeps {s : State} {a1 : _} (h : P s) :
    P (State.resetBlocks s a1) := by
  exact hP.csrReset h _ _

theorem State.bootMod_keeps {s : State} {a1 : _} (h : P s) :
    P (State.bootMod s a1) := by
  unfold State.bootMod
  repeat' first
    | with_reducible assumption
    | with_reducible refine Keeps.ite ?_ ?_
    | with_reducible refine Keeps.foldl ?_ (fun t x ht => ?_)
    | with_reducible refine Keeps.pair (by assumption) ?_
    | with_reducible refine Keeps.pair1 (by assumption) ?_
    | fail_if_no_progress with_reducible refine Keeps.mk hP ?_

theorem State.bootRegs_keeps {s : State} (h : P s) :
    P (State.bootRegs s) := by
  unfold State.bootRegs
  repeat' first
    | with_reducible assumption
    | with_reducible refine Keeps.ite ?_ ?_
    | with_reducible refine Keeps.iteC ?_ ?_
    | with_reducible refine Keeps.foldl ?_ (fun t x ht => ?_)
    | with_reducible refine State.setFlag_keeps hP ?_
    | with_reducible refine State.fset_keeps hP ?_
    | with_reducible refine State.liveFlags_keeps hP ?_

theorem State.bgEnd_keeps {s : State} {a1 : _} {a2 : _} (h : P s) :
    P (State.bgEnd s a1 a2) := by
  unfold State.bgEnd
  repeat' first
    | with_reducible assumption
    | with_reducible refine Keeps.ite ?_ ?_
    | with_reducible refine Keeps.iteC ?_ ?_
    | with_reducible refine Keeps.foldl ?_ (fun t x ht => ?_)
    | with_reducible refine State.fset_keeps hP ?_
    | with_reducible refine State.blobPut_keeps hP ?_
    | with_reducible refine State.event_keeps hP ?_

theorem State.restartRun_keeps {s : State} {a1 : _} (h : P s) :
    P (State.restartRun s a1) := by
  unfold State.restartRun
  repeat' first
    | with_reducible assumption
    | with_reducible refine Keeps.ite ?_ ?_
    | with_reducible refine Keeps.foldl ?_ (fun t x ht => ?_)
    | with_reducible refine State.blobPut_keeps hP ?_
    | with_reducible refine State.bootRegs_keeps hP ?_
    | with_reducible refine Keeps.pair (by assumption) ?_
    | with_reducible refine Keeps.pair1 (by assumption) ?_
    | fail_if_no_progress with_reducible refine Keeps.mk hP ?_

theorem State.stageReport_keeps {s : State} {a1 : _} {a2 : _} {a3 : _} {a4 : _} {a5 : _} {a6 : _} (h : P s) :
    P (State.stageReport s a1 a2 a3 a4 a5 a6) := by
  unfold State.stageReport
  repeat' first
    | with_reducible assumption
    | with_reducible refine Keeps.ite ?_ ?_
    | with_reducible refine Keeps.iteC ?_ ?_
    | with_reducible refine Keeps.foldl ?_ (fun t x ht => ?_)
    | with_reducible refine State.blobPut_keeps hP ?_
    | with_reducible refine State.event_keeps hP ?_
    | with_reducible refine State.notice_keeps hP ?_

theorem State.lineStopped_keeps {s : State} (h : P s) :
    P (State.lineStopped s) := by
  unfold State.lineStopped
  repeat' first
    | with_reducible assumption
    | with_reducible refine Keeps.ite ?_ ?_
    | with_reducible refine Keeps.iteC ?_ ?_
    | with_reducible refine Keeps.foldl ?_ (fun t x ht => ?_)
    | with_reducible refine State.fallBack_keeps hP ?_
    | with_reducible refine State.askReset_keeps hP ?_

theorem State.keepFatal_keeps {s : State} {a1 : _} (h : P s) :
    P (State.keepFatal s a1) := by
  unfold State.keepFatal
  repeat' first
    | with_reducible assumption
    | with_reducible refine Keeps.ite ?_ ?_
    | with_reducible refine Keeps.iteC ?_ ?_
    | with_reducible refine Keeps.foldl ?_ (fun t x ht => ?_)
    | with_reducible refine State.bootMod_keeps hP ?_

theorem State.stageStop_keeps {s : State} {a1 : _} {a2 : _} {a3 : _} {a4 : _} {a5 : _} {a6 : _} (h : P s) :
    P (State.stageStop s a1 a2 a3 a4 a5 a6) := by
  unfold State.stageStop
  repeat' first
    | with_reducible assumption
    | with_reducible refine Keeps.ite ?_ ?_
    | with_reducible refine Keeps.iteC ?_ ?_
    | with_reducible refine Keeps.foldl ?_ (fun t x ht => ?_)
    | with_reducible refine State.bootMod_keeps hP ?_
    | with_reducible refine State.stageReport_keeps hP ?_
    | with_reducible refine State.bootRegs_keeps hP ?_
    | with_reducible refine State.lineStopped_keeps hP ?_
    | with_reducible refine State.keepFatal_keeps hP ?_

theorem State.stagePass_keeps {s : State} {a1 : _} {a2 : _} {a3 : _} {a4 : _} {a5 : _} (h : P s) :
    P (State.stagePass s a1 a2 a3 a4 a5) := by
  unfold State.stagePass
  repeat' first
    | with_reducible assumption
    | with_reducible refine Keeps.ite ?_ ?_
    | with_reducible refine Keeps.iteC ?_ ?_
    | with_reducible refine Keeps.foldl ?_ (fun t x ht => ?_)
    | with_reducible refine State.bootMod_keeps hP ?_
    | with_reducible refine State.stageReport_keeps hP ?_
    | with_reducible refine State.bootRegs_keeps hP ?_

theorem State.stageResume_keeps {s : State} {a1 : _} {a2 : _} (h : P s) :
    P (State.stageResume s a1 a2) := by
  unfold State.stageResume
  repeat' first
    | with_reducible assumption
    | with_reducible refine Keeps.ite ?_ ?_
    | with_reducible refine Keeps.iteC ?_ ?_
    | with_reducible refine Keeps.foldl ?_ (fun t x ht => ?_)
    | with_reducible refine State.bootMod_keeps hP ?_
    | with_reducible refine State.bootRegs_keeps hP ?_

theorem State.trialStart_keeps {s : State} {a1 : _} (h : P s) :
    P (State.trialStart s a1) := by
  unfold State.trialStart
  repeat' first
    | with_reducible assumption
    | with_reducible refine Keeps.ite ?_ ?_
    | with_reducible refine Keeps.iteC ?_ ?_
    | with_reducible refine Keeps.foldl ?_ (fun t x ht => ?_)
    | with_reducible refine State.fwMod_keeps hP ?_

theorem State.resetNotice_keeps {s : State} {a1 : _} {a2 : _} (h : P s) :
    P (State.resetNotice s a1 a2) := by
  unfold State.resetNotice
  repeat' first
    | with_reducible assumption
    | with_reducible refine Keeps.ite ?_ ?_
    | with_reducible refine Keeps.foldl ?_ (fun t x ht => ?_)
    | with_reducible refine State.notice_keeps hP ?_
    | with_reducible refine State.event_keeps hP ?_

theorem State.worksWipe_keeps {s : State} (h : P s) :
    P (State.worksWipe s) := by
  unfold State.worksWipe
  dsimp only
  have h1 : P ((((((((s.resetBlocks inWorks).tilesDark).imageGone 1).fset R.FENCE_UNITS_DIES 0).fset R.FENCE_UNITS_RC 0).fset R.FENCE_UNITS_WE 0).fset
    R.FENCE_UNITS_MD 0).fset R.FENCE_UNITS_ME 0) := by
    repeat' (with_reducible refine State.fset_keeps hP ?_)
    exact State.imageGone_keeps hP (State.tilesDark_keeps hP (State.resetBlocks_keeps hP h))
  generalize ((((((((s.resetBlocks inWorks).tilesDark).imageGone 1).fset R.FENCE_UNITS_DIES 0).fset R.FENCE_UNITS_RC 0).fset R.FENCE_UNITS_WE 0).fset
    R.FENCE_UNITS_MD 0).fset R.FENCE_UNITS_ME 0) = t at h1 ⊢
  exact hP.frame (hP.memFilter h1 (fun c => !inSp c.1) (fun c => !inSp c.1)) rfl rfl rfl rfl rfl rfl rfl rfl rfl rfl rfl

theorem State.collsReset_keeps {s : State} (h : P s) :
    P (State.collsReset s) := by
  unfold State.collsReset
  repeat' first
    | with_reducible assumption
    | with_reducible refine Keeps.ite ?_ ?_
    | with_reducible refine Keeps.foldl ?_ (fun t x ht => ?_)
    | with_reducible refine State.collsCut_keeps hP ?_

theorem State.dropHand_keeps {s : State} {a1 : _} (h : P s) :
    P (State.dropHand s a1) := by
  unfold State.dropHand
  repeat' first
    | with_reducible assumption
    | with_reducible refine Keeps.ite ?_ ?_
    | with_reducible refine Keeps.iteC ?_ ?_
    | with_reducible refine Keeps.foldl ?_ (fun t x ht => ?_)
    | with_reducible refine State.selfTest_keeps hP ?_
    | with_reducible refine State.abandon_keeps hP ?_
    | with_reducible refine State.setStandbyOk_keeps hP ?_
    | with_reducible refine Keeps.pair (by assumption) ?_
    | with_reducible refine Keeps.pair1 (by assumption) ?_
    | fail_if_no_progress with_reducible refine Keeps.mk hP ?_
    | split

theorem State.dropHandover_keeps {s : State} (h : P s) :
    P (State.dropHandover s) := by
  unfold State.dropHandover
  repeat' first
    | with_reducible assumption
    | with_reducible refine Keeps.ite ?_ ?_
    | with_reducible refine Keeps.foldl ?_ (fun t x ht => ?_)
    | with_reducible refine State.dropHand_keeps hP ?_

theorem State.worksEnter_keeps {s : State} {a1 : _} {a2 : _} (h : P s) :
    P (State.worksEnter s a1 a2) := by
  unfold State.worksEnter
  repeat' first
    | with_reducible assumption
    | with_reducible refine Keeps.ite ?_ ?_
    | with_reducible refine Keeps.iteC ?_ ?_
    | with_reducible refine Keeps.foldl ?_ (fun t x ht => ?_)
    | with_reducible refine State.bgEnd_keeps hP ?_
    | with_reducible refine State.collsReset_keeps hP ?_
    | with_reducible refine State.resetVote_keeps hP ?_
    | with_reducible refine State.dropHandover_keeps hP ?_
    | with_reducible refine State.worksWipe_keeps hP ?_
    | with_reducible refine State.writeSamples_keeps hP ?_

theorem State.reqDone_keeps {s : State} (h : P s) :
    P (State.reqDone s) := by
  unfold State.reqDone
  repeat' first
    | with_reducible assumption
    | with_reducible refine Keeps.ite ?_ ?_
    | with_reducible refine Keeps.foldl ?_ (fun t x ht => ?_)
    | with_reducible refine Keeps.pair (by assumption) ?_
    | with_reducible refine Keeps.pair1 (by assumption) ?_
    | fail_if_no_progress with_reducible refine Keeps.mk hP ?_

theorem execWorksReset_keeps {s : State} (h : P s) :
    ∀ t, execWorksReset s = .next t → P t := by
  unfold execWorksReset
  refine Keeps.next ?_
  repeat' first
    | with_reducible assumption
    | with_reducible refine Keeps.ite ?_ ?_
    | with_reducible refine Keeps.foldl ?_ (fun t x ht => ?_)
    | with_reducible refine State.resetNotice_keeps hP ?_
    | with_reducible refine State.worksEnter_keeps hP ?_
    | with_reducible refine State.restartRun_keeps hP ?_
    | with_reducible refine State.reqDone_keeps hP ?_

theorem State.tileExit_keeps {s : State} {a1 : _} (h : P s) :
    P (State.tileExit s a1) := by
  unfold State.tileExit
  repeat' first
    | with_reducible assumption
    | with_reducible refine Keeps.ite ?_ ?_
    | with_reducible refine Keeps.foldl ?_ (fun t x ht => ?_)
    | with_reducible refine State.setTileState_keeps hP ?_
    | with_reducible refine State.fset_keeps hP ?_
    | with_reducible refine Keeps.pair (by assumption) ?_
    | with_reducible refine Keeps.pair1 (by assumption) ?_
    | fail_if_no_progress with_reducible refine Keeps.mk hP ?_
    | split

theorem State.bootSlot_keeps {s : State} {a1 : _} {a2 : _} (h : P s) :
    P (State.bootSlot s a1 a2).2 := by
  unfold State.bootSlot
  repeat' first
    | with_reducible assumption
    | with_reducible refine Keeps.ite ?_ ?_
    | with_reducible refine Keeps.iteC ?_ ?_
    | with_reducible refine Keeps.foldl ?_ (fun t x ht => ?_)
    | with_reducible refine State.fwMod_keeps hP ?_
    | with_reducible refine State.slotSt_keeps hP ?_
    | with_reducible refine State.imageStart_keeps hP ?_
    | with_reducible refine State.event_keeps hP ?_

theorem execWorksResetExit_keeps {a0 : _} {a1 : _} {s : State} (h : P s) :
    ∀ t, execWorksResetExit a0 a1 s = .next t → P t := by
  unfold execWorksResetExit
  refine Keeps.next ?_
  repeat' first
    | with_reducible assumption
    | with_reducible refine Keeps.ite ?_ ?_
    | with_reducible refine Keeps.iteC ?_ ?_
    | with_reducible refine Keeps.foldl ?_ (fun t x ht => ?_)
    | with_reducible refine Keeps.foldl2 ?_ (fun b t x ht => ?_)
    | with_reducible refine State.ownPace_keeps hP ?_
    | with_reducible refine State.fwMod_keeps hP ?_
    | with_reducible refine State.selfTest_keeps hP ?_
    | with_reducible refine State.syncArith_keeps hP ?_
    | with_reducible refine State.syncMirror_keeps hP ?_
    | with_reducible refine State.tileExit_keeps hP ?_
    | with_reducible refine State.fset_keeps hP ?_
    | with_reducible refine State.jobRead_keeps hP ?_
    | with_reducible refine State.reloadMark_keeps hP ?_
    | with_reducible refine State.setRc_keeps hP ?_
    | with_reducible refine State.logRead_keeps hP ?_
    | with_reducible refine State.bootSlot_keeps hP ?_
    | with_reducible refine State.heldDecisions_keeps hP ?_
    | with_reducible refine State.weSync_keeps hP ?_
    | with_reducible refine Keeps.pair (by assumption) ?_
    | with_reducible refine Keeps.pair1 (by assumption) ?_
    | fail_if_no_progress with_reducible refine Keeps.mk hP ?_

theorem State.govWipe_keeps {s : State} (h : P s) :
    P (State.govWipe s) := by
  unfold State.govWipe
  repeat' first
    | with_reducible assumption
    | with_reducible refine Keeps.ite ?_ ?_
    | with_reducible refine Keeps.iteC ?_ ?_
    | with_reducible refine Keeps.foldl ?_ (fun t x ht => ?_)
    | with_reducible refine State.govMod_keeps hP ?_

theorem State.thermWipe_keeps {s : State} (h : P s) :
    P (State.thermWipe s) := by
  unfold State.thermWipe
  repeat' first
    | with_reducible assumption
    | with_reducible refine Keeps.ite ?_ ?_
    | with_reducible refine Keeps.iteC ?_ ?_
    | with_reducible refine Keeps.foldl ?_ (fun t x ht => ?_)
    | with_reducible refine State.thMod_keeps hP ?_

theorem State.dwStart_keeps {s : State} (h : P s) :
    P (State.dwStart s) := by
  unfold State.dwStart
  repeat' first
    | with_reducible assumption
    | with_reducible refine Keeps.ite ?_ ?_
    | with_reducible refine Keeps.iteC ?_ ?_
    | with_reducible refine Keeps.foldl ?_ (fun t x ht => ?_)
    | with_reducible refine Keeps.foldl2 ?_ (fun b t x ht => ?_)
    | with_reducible refine State.draw_keeps hP ?_
    | with_reducible refine State.setLaneState_keeps hP ?_
    | with_reducible refine Keeps.pair (by assumption) ?_
    | with_reducible refine Keeps.pair1 (by assumption) ?_
    | fail_if_no_progress with_reducible refine Keeps.mk hP ?_

theorem State.sayReset_keeps {s : State} (h : P s) :
    P (State.sayReset s) := by
  unfold State.sayReset
  repeat' first
    | with_reducible assumption
    | with_reducible refine Keeps.ite ?_ ?_
    | with_reducible refine Keeps.iteC ?_ ?_
    | with_reducible refine Keeps.foldl ?_ (fun t x ht => ?_)
    | with_reducible refine Keeps.foldl2 ?_ (fun b t x ht => ?_)
    | with_reducible refine State.sayDown_keeps hP ?_

theorem State.lineWipe_keeps {s : State} (h : P s) :
    P (State.lineWipe s) := by
  unfold State.lineWipe
  dsimp only
  have h1 : P ((s.govWipe.thermWipe).resetBlocks fun off => !inWorks off) :=
    State.resetBlocks_keeps hP (State.thermWipe_keeps hP (State.govWipe_keeps hP h))
  generalize ((s.govWipe.thermWipe).resetBlocks fun off => !inWorks off) = t at h1 ⊢
  exact hP.frame (hP.msgsNil h1) rfl rfl rfl rfl rfl rfl rfl rfl rfl rfl rfl

theorem State.keepNotices_keeps {s : State} {a1 : _} (h : P s) :
    P (State.keepNotices s a1) := by
  unfold State.keepNotices
  repeat' first
    | with_reducible assumption
    | with_reducible refine Keeps.ite ?_ ?_
    | with_reducible refine Keeps.iteC ?_ ?_
    | with_reducible refine Keeps.foldl ?_ (fun t x ht => ?_)
    | with_reducible refine Keeps.pair (by assumption) ?_
    | with_reducible refine Keeps.pair1 (by assumption) ?_
    | fail_if_no_progress with_reducible refine Keeps.mk hP ?_

theorem execPackageReset_keeps {s : State} (h : P s) :
    ∀ t, execPackageReset s = .next t → P t := by
  unfold execPackageReset
  refine Keeps.next ?_
  repeat' first
    | with_reducible assumption
    | with_reducible refine Keeps.ite ?_ ?_
    | with_reducible refine Keeps.iteC ?_ ?_
    | with_reducible refine Keeps.foldl ?_ (fun t x ht => ?_)
    | with_reducible refine State.fwMod_keeps hP ?_
    | with_reducible refine State.keepNotices_keeps hP ?_
    | with_reducible refine State.restartRun_keeps hP ?_
    | with_reducible refine State.lineWipe_keeps hP ?_
    | with_reducible refine State.sayReset_keeps hP ?_
    | with_reducible refine State.worksEnter_keeps hP ?_
    | with_reducible refine State.reqDone_keeps hP ?_
    | with_reducible refine State.resetNotice_keeps hP ?_

theorem State.raiseAgain_keeps {s : State} (h : P s) :
    P (State.raiseAgain s) := by
  unfold State.raiseAgain
  repeat' first
    | with_reducible assumption
    | with_reducible refine Keeps.ite ?_ ?_
    | with_reducible refine Keeps.iteC ?_ ?_
    | with_reducible refine Keeps.foldl ?_ (fun t x ht => ?_)
    | with_reducible refine Keeps.foldl2 ?_ (fun b t x ht => ?_)
    | with_reducible refine State.report_keeps hP ?_
    | with_reducible refine Keeps.pair (by assumption) ?_
    | with_reducible refine Keeps.pair1 (by assumption) ?_
    | fail_if_no_progress with_reducible refine Keeps.mk hP ?_
    | split

theorem State.condsDrop_keeps {s : State} (h : P s) :
    P (State.condsDrop s) := by
  unfold State.condsDrop
  repeat' first
    | with_reducible assumption
    | with_reducible refine Keeps.ite ?_ ?_
    | with_reducible refine Keeps.iteC ?_ ?_
    | with_reducible refine Keeps.foldl ?_ (fun t x ht => ?_)
    | with_reducible refine hP.msgsFilter ?_ _

theorem State.lineTrial_keeps {s : State} (h : P s) :
    P (State.lineTrial s) := by
  unfold State.lineTrial
  repeat' first
    | with_reducible assumption
    | with_reducible refine Keeps.ite ?_ ?_
    | with_reducible refine Keeps.iteC ?_ ?_
    | with_reducible refine Keeps.foldl ?_ (fun t x ht => ?_)
    | with_reducible refine State.fwMod_keeps hP ?_
    | with_reducible refine State.slotSt_keeps hP ?_
    | with_reducible refine State.fwActivated_keeps hP ?_
    | with_reducible refine State.trialStart_keeps hP ?_

theorem State.stopRun_keeps {s : State} {a1 : _} {a2 : _} (h : P s) :
    P (State.stopRun s a1 a2) := by
  unfold State.stopRun
  repeat' first
    | with_reducible assumption
    | with_reducible refine Keeps.ite ?_ ?_
    | with_reducible refine Keeps.foldl ?_ (fun t x ht => ?_)
    | with_reducible refine State.bootRegs_keeps hP ?_
    | with_reducible refine State.bootMod_keeps hP ?_

theorem State.noImage_keeps {s : State} (h : P s) :
    P (State.noImage s) := by
  unfold State.noImage
  repeat' first
    | with_reducible assumption
    | with_reducible refine Keeps.ite ?_ ?_
    | with_reducible refine Keeps.iteC ?_ ?_
    | with_reducible refine Keeps.foldl ?_ (fun t x ht => ?_)
    | with_reducible refine State.draw_keeps hP ?_
    | with_reducible refine State.stageStop_keeps hP ?_
    | with_reducible refine State.bootMod_keeps hP ?_
    | with_reducible refine State.stopRun_keeps hP ?_

theorem State.lineImage_keeps {s : State} {a1 : _} (h : P s) :
    P (State.lineImage s a1).2 := by
  unfold State.lineImage
  repeat' first
    | with_reducible assumption
    | with_reducible refine Keeps.ite ?_ ?_
    | with_reducible refine Keeps.iteC ?_ ?_
    | with_reducible refine Keeps.foldl ?_ (fun t x ht => ?_)
    | with_reducible refine State.fwMod_keeps hP ?_
    | with_reducible refine State.lineTrial_keeps hP ?_
    | with_reducible refine State.bootSlot_keeps hP ?_

theorem execLineResetExit_keeps {a0 : _} {s : State} (h : P s) :
    ∀ t, execLineResetExit a0 s = .next t → P t := by
  unfold execLineResetExit
  refine Keeps.next ?_
  repeat' first
    | with_reducible assumption
    | with_reducible refine Keeps.ite ?_ ?_
    | with_reducible refine Keeps.iteC ?_ ?_
    | with_reducible refine Keeps.foldl ?_ (fun t x ht => ?_)
    | with_reducible refine Keeps.foldl2 ?_ (fun b t x ht => ?_)
    | with_reducible refine State.fset_keeps hP ?_
    | with_reducible refine State.condsDrop_keeps hP ?_
    | with_reducible refine State.setPortState_keeps hP ?_
    | with_reducible refine State.lineImage_keeps hP ?_
    | with_reducible refine State.pinFlags_keeps hP ?_
    | with_reducible refine State.odPut_keeps hP ?_
    | with_reducible refine State.dwStart_keeps hP ?_
    | with_reducible refine State.raiseAgain_keeps hP ?_
    | with_reducible refine State.bootRegs_keeps hP ?_
    | with_reducible refine State.noImage_keeps hP ?_
    | with_reducible refine Keeps.pair (by assumption) ?_
    | with_reducible refine Keeps.pair1 (by assumption) ?_
    | fail_if_no_progress with_reducible refine Keeps.mk hP ?_

theorem execPowerCycle_keeps {s : State} (h : P s) :
    ∀ t, execPowerCycle s = .next t → P t := by
  unfold execPowerCycle
  refine Keeps.next ?_
  repeat' first
    | with_reducible assumption
    | with_reducible refine Keeps.ite ?_ ?_
    | with_reducible refine Keeps.foldl ?_ (fun t x ht => ?_)
    | with_reducible refine State.resetNotice_keeps hP ?_
    | with_reducible refine State.worksEnter_keeps hP ?_
    | with_reducible refine State.fset_keeps hP ?_
    | with_reducible refine State.notice_keeps hP ?_
    | with_reducible refine Keeps.pair (by assumption) ?_
    | with_reducible refine Keeps.pair1 (by assumption) ?_
    | fail_if_no_progress with_reducible refine Keeps.mk hP ?_

theorem execResetExitTimeout_keeps {a0 : _} {s : State} (h : P s) :
    ∀ t, execResetExitTimeout a0 s = .next t → P t := by
  unfold execResetExitTimeout
  refine Keeps.next ?_
  repeat' first
    | with_reducible assumption
    | with_reducible refine Keeps.ite ?_ ?_
    | with_reducible refine Keeps.iteC ?_ ?_
    | with_reducible refine Keeps.foldl ?_ (fun t x ht => ?_)
    | with_reducible refine State.escalation_keeps hP ?_
    | with_reducible refine State.autoReset_keeps hP ?_
    | with_reducible refine Keeps.pair (by assumption) ?_
    | with_reducible refine Keeps.pair1 (by assumption) ?_
    | fail_if_no_progress with_reducible refine Keeps.mk hP ?_

theorem execHardwareTrip_keeps {a0 : _} {a1 : _} {s : State} (h : P s) :
    ∀ t, execHardwareTrip a0 a1 s = .next t → P t := by
  unfold execHardwareTrip
  refine Keeps.next ?_
  repeat' first
    | with_reducible assumption
    | with_reducible refine Keeps.ite ?_ ?_
    | with_reducible refine Keeps.iteC ?_ ?_
    | with_reducible refine Keeps.foldl ?_ (fun t x ht => ?_)
    | with_reducible refine State.forceOn_keeps hP ?_
    | with_reducible refine State.thMod_keeps hP ?_
    | with_reducible refine State.fset_keeps hP ?_
    | with_reducible refine State.restartRun_keeps hP ?_
    | with_reducible refine State.report_keeps hP ?_
    | with_reducible refine State.worksEnter_keeps hP ?_
    | with_reducible refine State.resetNotice_keeps hP ?_
    | with_reducible refine State.event_keeps hP ?_
    | with_reducible refine Keeps.pair (by assumption) ?_
    | with_reducible refine Keeps.pair1 (by assumption) ?_
    | fail_if_no_progress with_reducible refine Keeps.mk hP ?_

theorem State.dark_keeps {s : State} (h : P s) :
    P (State.dark s) := by
  unfold State.dark
  repeat' first
    | with_reducible assumption
    | with_reducible refine Keeps.ite ?_ ?_
    | with_reducible refine Keeps.iteC ?_ ?_
    | with_reducible refine Keeps.foldl ?_ (fun t x ht => ?_)
    | with_reducible refine State.fset_keeps hP ?_
    | with_reducible refine State.lineWipe_keeps hP ?_
    | with_reducible refine State.govMod_keeps hP ?_
    | with_reducible refine State.worksWipe_keeps hP ?_

theorem execRailCutoff_keeps {a0 : _} {a1 : _} {s : State} (h : P s) :
    ∀ t, execRailCutoff a0 a1 s = .next t → P t := by
  unfold execRailCutoff
  refine Keeps.next ?_
  repeat' first
    | with_reducible assumption
    | with_reducible refine Keeps.ite ?_ ?_
    | with_reducible refine Keeps.iteC ?_ ?_
    | with_reducible refine Keeps.foldl ?_ (fun t x ht => ?_)
    | with_reducible refine State.dark_keeps hP ?_
    | with_reducible refine Keeps.pair (by assumption) ?_
    | with_reducible refine Keeps.pair1 (by assumption) ?_
    | fail_if_no_progress with_reducible refine Keeps.mk hP ?_

theorem State.tripClear_keeps {s : State} (h : P s) :
    P (State.tripClear s).2 := by
  unfold State.tripClear
  repeat' first
    | with_reducible assumption
    | with_reducible refine Keeps.ite ?_ ?_
    | with_reducible refine Keeps.foldl ?_ (fun t x ht => ?_)
    | with_reducible refine State.report_keeps hP ?_
    | with_reducible refine State.thMod_keeps hP ?_
    | with_reducible refine State.setFlag_keeps hP ?_
    | with_reducible refine State.forceOff_keeps hP ?_
    | with_reducible refine Keeps.pair (by assumption) ?_
    | with_reducible refine Keeps.pair1 (by assumption) ?_
    | fail_if_no_progress with_reducible refine Keeps.mk hP ?_
    | split

theorem State.odSend_keeps {s : State} {a1 : _} {a2 : _} (h : P s) :
    P (State.odSend s a1 a2) := by
  unfold State.odSend
  repeat' first
    | with_reducible assumption
    | with_reducible refine Keeps.ite ?_ ?_
    | with_reducible refine Keeps.iteC ?_ ?_
    | with_reducible refine Keeps.foldl ?_ (fun t x ht => ?_)
    | with_reducible refine State.pump_keeps hP ?_
    | with_reducible refine State.fieldSend_keeps hP ?_
    | with_reducible refine State.respond_keeps hP ?_
    | with_reducible refine Keeps.pair (by assumption) ?_
    | with_reducible refine Keeps.pair1 (by assumption) ?_
    | fail_if_no_progress with_reducible refine Keeps.mk hP ?_
    | split

theorem State.romSelect_keeps {s : State} {a1 : _} (h : P s) :
    P (State.romSelect s a1).2 := by
  unfold State.romSelect
  repeat' first
    | with_reducible assumption
    | with_reducible refine Keeps.ite ?_ ?_
    | with_reducible refine Keeps.iteC ?_ ?_
    | with_reducible refine Keeps.foldl ?_ (fun t x ht => ?_)
    | with_reducible refine State.fwMod_keeps hP ?_
    | with_reducible refine State.slotSt_keeps hP ?_
    | with_reducible refine State.event_keeps hP ?_
    | with_reducible refine Keeps.pair (by assumption) ?_
    | with_reducible refine Keeps.pair1 (by assumption) ?_
    | fail_if_no_progress with_reducible refine Keeps.mk hP ?_
    | split
    | dsimp only

theorem State.sbMod_keeps {s : State} {a1 : _} (h : P s) :
    P (State.sbMod s a1) := by
  unfold State.sbMod
  repeat' first
    | with_reducible assumption
    | with_reducible refine Keeps.ite ?_ ?_
    | with_reducible refine Keeps.foldl ?_ (fun t x ht => ?_)
    | with_reducible refine Keeps.pair (by assumption) ?_
    | with_reducible refine Keeps.pair1 (by assumption) ?_
    | fail_if_no_progress with_reducible refine Keeps.mk hP ?_

theorem State.domMod_keeps {s : State} {a1 : _} (h : P s) :
    P (State.domMod s a1) := by
  unfold State.domMod
  repeat' first
    | with_reducible assumption
    | with_reducible refine Keeps.ite ?_ ?_
    | with_reducible refine Keeps.foldl ?_ (fun t x ht => ?_)
    | with_reducible refine Keeps.pair (by assumption) ?_
    | with_reducible refine Keeps.pair1 (by assumption) ?_
    | fail_if_no_progress with_reducible refine Keeps.mk hP ?_

theorem State.romBoot_keeps {s : State} {a1 : _} {a2 : _} {a3 : _} (h : P s) :
    P (State.romBoot s a1 a2 a3) := by
  unfold State.romBoot
  repeat' first
    | with_reducible assumption
    | with_reducible refine Keeps.ite ?_ ?_
    | with_reducible refine Keeps.iteC ?_ ?_
    | with_reducible refine Keeps.foldl ?_ (fun t x ht => ?_)
    | with_reducible refine State.fwMod_keeps hP ?_
    | with_reducible refine State.imageGone_keeps hP ?_
    | with_reducible refine State.romSelect_keeps hP ?_
    | with_reducible refine State.sbMod_keeps hP ?_

theorem State.pathsJudged_keeps {s : State} (h : P s) :
    P (State.pathsJudged s) := by
  unfold State.pathsJudged
  repeat' first
    | with_reducible assumption
    | with_reducible refine Keeps.ite ?_ ?_
    | with_reducible refine Keeps.foldl ?_ (fun t x ht => ?_)
    | with_reducible refine State.judgePaths_keeps hP ?_

theorem State.signalDown_keeps {s : State} (h : P s) :
    P (State.signalDown s) := by
  unfold State.signalDown
  repeat' first
    | with_reducible assumption
    | with_reducible refine Keeps.ite ?_ ?_
    | with_reducible refine Keeps.iteC ?_ ?_
    | with_reducible refine Keeps.foldl ?_ (fun t x ht => ?_)
    | with_reducible refine Keeps.pair (by assumption) ?_
    | with_reducible refine Keeps.pair1 (by assumption) ?_
    | fail_if_no_progress with_reducible refine Keeps.mk hP ?_

theorem State.sigCutOver_keeps {s : State} (h : P s) :
    P (State.sigCutOver s).2 := by
  unfold State.sigCutOver
  repeat' first
    | with_reducible assumption
    | with_reducible refine Keeps.ite ?_ ?_
    | with_reducible refine Keeps.iteC ?_ ?_
    | with_reducible refine Keeps.foldl ?_ (fun t x ht => ?_)
    | with_reducible refine State.activateFail_keeps hP ?_
    | with_reducible refine State.slotSt_keeps hP ?_
    | with_reducible refine State.fwActivated_keeps hP ?_
    | with_reducible refine State.odPut_keeps hP ?_
    | with_reducible refine State.trialStart_keeps hP ?_
    | with_reducible refine Keeps.pair (by assumption) ?_
    | with_reducible refine Keeps.pair1 (by assumption) ?_
    | fail_if_no_progress with_reducible refine Keeps.mk hP ?_
    | split

theorem State.odTurnAway_keeps {s : State} (h : P s) :
    P (State.odTurnAway s) := by
  unfold State.odTurnAway
  repeat' first
    | with_reducible assumption
    | with_reducible refine Keeps.ite ?_ ?_
    | with_reducible refine Keeps.iteC ?_ ?_
    | with_reducible refine Keeps.foldl ?_ (fun t x ht => ?_)
    | with_reducible refine Keeps.foldl2 ?_ (fun b t x ht => ?_)
    | with_reducible refine State.odSend_keeps hP ?_

theorem State.signalEnter_keeps {s : State} {a1 : _} {a2 : _} (h : P s) :
    P (State.signalEnter s a1 a2) := by
  unfold State.signalEnter
  repeat' first
    | with_reducible assumption
    | with_reducible refine Keeps.ite ?_ ?_
    | with_reducible refine Keeps.iteC ?_ ?_
    | with_reducible refine Keeps.foldl ?_ (fun t x ht => ?_)
    | with_reducible refine State.bump_keeps hP ?_
    | with_reducible refine State.signalDown_keeps hP ?_
    | with_reducible refine State.odTurnAway_keeps hP ?_
    | with_reducible refine State.fset_keeps hP ?_
    | with_reducible refine State.pathsJudged_keeps hP ?_
    | with_reducible refine State.romBoot_keeps hP ?_
    | with_reducible refine State.dropHandover_keeps hP ?_
    | with_reducible refine State.tokensForced_keeps hP ?_

theorem execSignalReset_keeps {a0 : _} {s : State} (h : P s) :
    ∀ t, execSignalReset a0 s = .next t → P t := by
  unfold execSignalReset
  refine Keeps.next ?_
  repeat' first
    | with_reducible assumption
    | with_reducible refine Keeps.ite ?_ ?_
    | with_reducible refine Keeps.iteC ?_ ?_
    | with_reducible refine Keeps.foldl ?_ (fun t x ht => ?_)
    | with_reducible refine State.signalEnter_keeps hP ?_
    | with_reducible refine State.domMod_keeps hP ?_
    | with_reducible refine State.sigCutOver_keeps hP ?_

theorem execPowerLoss_keeps {s : State} (h : P s) :
    ∀ t, execPowerLoss s = .next t → P t := by
  unfold execPowerLoss
  refine Keeps.next ?_
  repeat' first
    | with_reducible assumption
    | with_reducible refine Keeps.ite ?_ ?_
    | with_reducible refine Keeps.foldl ?_ (fun t x ht => ?_)
    | with_reducible refine State.dark_keeps hP ?_
    | with_reducible refine Keeps.pair (by assumption) ?_
    | with_reducible refine Keeps.pair1 (by assumption) ?_
    | fail_if_no_progress with_reducible refine Keeps.mk hP ?_

theorem State.fromFlash_keeps {s : State} (h : P s) : P (State.fromFlash s) :=
  hP.frame (hP.power h (fun e => odKept e.1) (fun e => odKept e.1)) rfl rfl rfl rfl rfl rfl rfl rfl rfl rfl rfl

theorem execPowerOnReset_keeps {a0 : _} {a1 : _} {s : State} (h : P s) :
    ∀ t, execPowerOnReset a0 a1 s = .next t → P t := by
  unfold execPowerOnReset
  refine Keeps.next ?_
  repeat' first
    | with_reducible assumption
    | with_reducible refine Keeps.ite ?_ ?_
    | with_reducible refine Keeps.iteC ?_ ?_
    | with_reducible refine Keeps.foldl ?_ (fun t x ht => ?_)
    | with_reducible refine Keeps.foldl2 ?_ (fun b t x ht => ?_)
    | with_reducible refine State.fwMod_keeps hP ?_
    | with_reducible refine State.govLoad_keeps hP ?_
    | with_reducible refine State.syncArith_keeps hP ?_
    | with_reducible refine State.thMod_keeps hP ?_
    | with_reducible refine State.fset_keeps hP ?_
    | with_reducible refine State.romSelect_keeps hP ?_
    | with_reducible refine State.bootMod_keeps hP ?_
    | with_reducible refine State.report_keeps hP ?_
    | with_reducible refine State.govMod_keeps hP ?_
    | with_reducible refine State.odPut_keeps hP ?_
    | with_reducible refine State.fromFlash_keeps hP ?_
    | with_reducible refine State.rthRegs_keeps hP ?_
    | with_reducible refine State.stopRun_keeps hP ?_
    | (refine hP.frame (hP.power h (fun e => odKept e.1) (fun e => odKept e.1)) rfl rfl rfl rfl rfl rfl rfl rfl rfl rfl rfl)
    | with_reducible refine Keeps.pair (by assumption) ?_
    | with_reducible refine Keeps.pair1 (by assumption) ?_
    | fail_if_no_progress with_reducible refine Keeps.mk hP ?_
    | split

end Sys2Proof.Machine
end

