-- ==== Sys2Proof/Laws/Keep/Interlock.lean ====
section
/-! SUPPORT. Every operation of Machine/Interlock.lean keeps a closed predicate (see Laws/Keep.lean). -/

namespace Sys2Proof.Machine

variable {P : State → Prop} (hP : Closed P)
include hP

theorem State.ilMod_keeps {s : State} {a1 : _} (h : P s) :
    P (State.ilMod s a1) := by
  unfold State.ilMod
  repeat' first
    | with_reducible assumption
    | with_reducible refine Keeps.ite ?_ ?_
    | with_reducible refine Keeps.foldl ?_ (fun t x ht => ?_)
    | with_reducible refine Keeps.pair (by assumption) ?_
    | with_reducible refine Keeps.pair1 (by assumption) ?_
    | fail_if_no_progress with_reducible refine Keeps.mk hP ?_

theorem State.ilFill_keeps {s : State} {a1 : _} {a2 : _} (h : P s) :
    P (State.ilFill s a1 a2).2.2 := by
  unfold State.ilFill
  repeat' first
    | with_reducible assumption
    | with_reducible refine Keeps.ite ?_ ?_
    | with_reducible refine Keeps.foldl ?_ (fun t x ht => ?_)
    | with_reducible refine State.fset_keeps hP ?_
    | with_reducible refine Keeps.pair (by assumption) ?_
    | with_reducible refine Keeps.pair1 (by assumption) ?_
    | fail_if_no_progress with_reducible refine Keeps.mk hP ?_
    | split
    | dsimp only

theorem State.ilBucket_keeps {s : State} {a1 : _} {a2 : _} (h : P s) :
    P (State.ilBucket s a1 a2).2.2 := by
  unfold State.ilBucket
  split
  · split
    · have h1 := State.draw_keeps hP (State.ilMod_keeps hP (a1 := fun x => { x with readAt := none }) h)
      dsimp only
      split
      · exact State.ilFill_keeps hP h1
      · exact State.ilFill_keeps hP h1
    · exact State.ilFill_keeps hP h
  · exact State.ilFill_keeps hP h

theorem FaultMsg.judged_keeps {m : FaultMsg} {r : Bool × Bool × State} (h : P r.2.2) : P (m.judged r).2.2 := by
  unfold FaultMsg.judged
  have h2 : P (if r.2.1 = true then r.2.2.event ilSource 0x0E82 (leBytes 2 m.source ++ leBytes 2 m.kind) else r.2.2) :=
    Keeps.ite (State.event_keeps hP h) h
  exact Keeps.iteB (State.bump_keeps hP h2) h2

theorem State.classify_keeps {s : State} {a1 : _} (h : P s) :
    P (State.classify s a1).2.2 := by
  unfold State.classify
  dsimp only
  refine Keeps.iteB ?_ (Keeps.iteB h (Keeps.iteB h ?_))
  · exact h
  · exact FaultMsg.judged_keeps hP (State.ilBucket_keeps hP h)

theorem State.csrWords_keeps {s : State} {a1 : _} {a2 : _} (h : P s) :
    P (State.csrWords s a1 a2) := by
  unfold State.csrWords
  repeat' first
    | with_reducible assumption
    | with_reducible refine Keeps.ite ?_ ?_
    | with_reducible refine Keeps.foldl ?_ (fun t x ht => ?_)
    | with_reducible refine State.csrPut_keeps hP ?_

theorem State.ilCapture_keeps {s : State} {a1 : _} {a2 : _} (h : P s) :
    P (State.ilCapture s a1 a2) := by
  unfold State.ilCapture
  repeat' first
    | with_reducible assumption
    | with_reducible refine Keeps.ite ?_ ?_
    | with_reducible refine Keeps.foldl ?_ (fun t x ht => ?_)
    | with_reducible refine State.csrPut_keeps hP ?_
    | with_reducible refine State.csrWords_keeps hP ?_

theorem State.keepCritical_keeps {s : State} {a1 : _} (h : P s) :
    P (State.keepCritical s a1) := by
  unfold State.keepCritical
  repeat' first
    | with_reducible assumption
    | with_reducible refine Keeps.ite ?_ ?_
    | with_reducible refine Keeps.foldl ?_ (fun t x ht => ?_)
    | with_reducible refine State.ilMod_keeps hP ?_
    | with_reducible refine State.bump_keeps hP ?_

theorem State.logEntry_keeps {s : State} {a1 : _} {a2 : _} {a3 : _} {a4 : _} (h : P s) :
    P (State.logEntry s a1 a2 a3 a4) := by
  unfold State.logEntry
  repeat' first
    | with_reducible assumption
    | with_reducible refine Keeps.ite ?_ ?_
    | with_reducible refine Keeps.foldl ?_ (fun t x ht => ?_)
    | with_reducible refine State.bump_keeps hP ?_
    | with_reducible refine State.csrWords_keeps hP ?_
    | with_reducible refine State.ilCapture_keeps hP ?_
    | with_reducible refine State.keepCritical_keeps hP ?_

theorem State.ilFault_keeps {s : State} {a1 : _} {a2 : _} {a3 : _} {a4 : _} (h : P s) :
    P (State.ilFault s a1 a2 a3 a4) := by
  unfold State.ilFault
  repeat' first
    | with_reducible assumption
    | with_reducible refine Keeps.ite ?_ ?_
    | with_reducible refine Keeps.iteC ?_ ?_
    | with_reducible refine Keeps.foldl ?_ (fun t x ht => ?_)
    | with_reducible refine State.ilMod_keeps hP ?_
    | with_reducible refine State.event_keeps hP ?_

theorem State.condMsg_keeps {s : State} {a1 : _} {a2 : _} (h : P s) :
    P (State.condMsg s a1 a2) := by
  unfold State.condMsg
  repeat' first
    | with_reducible assumption
    | with_reducible refine Keeps.ite ?_ ?_
    | with_reducible refine Keeps.foldl ?_ (fun t x ht => ?_)
    | with_reducible refine State.ilMod_keeps hP ?_
    | with_reducible refine State.fset_keeps hP ?_

theorem State.ilState_keeps {s : State} {a1 : _} {a2 : _} (h : P s) :
    P (State.ilState s a1 a2) := by
  unfold State.ilState
  repeat' first
    | with_reducible assumption
    | with_reducible refine Keeps.ite ?_ ?_
    | with_reducible refine Keeps.foldl ?_ (fun t x ht => ?_)
    | with_reducible refine State.draw_keeps hP ?_
    | with_reducible refine State.event_keeps hP ?_
    | with_reducible refine Keeps.pair (by assumption) ?_
    | with_reducible refine Keeps.pair1 (by assumption) ?_
    | fail_if_no_progress with_reducible refine Keeps.mk hP ?_
    | split

theorem State.faultNotice_keeps {s : State} {a1 : _} (h : P s) :
    P (State.faultNotice s a1) := by
  unfold State.faultNotice
  repeat' first
    | with_reducible assumption
    | with_reducible refine Keeps.ite ?_ ?_
    | with_reducible refine Keeps.foldl ?_ (fun t x ht => ?_)
    | with_reducible refine State.notice_keeps hP ?_

theorem State.quietStart_keeps {s : State} (h : P s) :
    P (State.quietStart s) := by
  unfold State.quietStart
  repeat' first
    | with_reducible assumption
    | with_reducible refine Keeps.ite ?_ ?_
    | with_reducible refine Keeps.iteC ?_ ?_
    | with_reducible refine Keeps.foldl ?_ (fun t x ht => ?_)
    | with_reducible refine State.fset_keeps hP ?_
    | with_reducible refine State.ilMod_keeps hP ?_

theorem State.faultEnter_keeps {s : State} {a1 : _} (h : P s) :
    P (State.faultEnter s a1) := by
  unfold State.faultEnter
  repeat' first
    | with_reducible assumption
    | with_reducible refine Keeps.ite ?_ ?_
    | with_reducible refine Keeps.foldl ?_ (fun t x ht => ?_)
    | with_reducible refine State.fset_keeps hP ?_
    | with_reducible refine State.quietStart_keeps hP ?_
    | with_reducible refine State.ilMod_keeps hP ?_
    | with_reducible refine State.faultNotice_keeps hP ?_
    | with_reducible refine State.ilState_keeps hP ?_

theorem State.faultPin_keeps {s : State} (h : P s) :
    P (State.faultPin s) := by
  unfold State.faultPin
  repeat' first
    | with_reducible assumption
    | with_reducible refine Keeps.ite ?_ ?_
    | with_reducible refine Keeps.foldl ?_ (fun t x ht => ?_)
    | with_reducible refine State.fset_keeps hP ?_

theorem State.faultEnd_keeps {s : State} (h : P s) :
    P (State.faultEnd s) := by
  unfold State.faultEnd
  repeat' first
    | with_reducible assumption
    | with_reducible refine Keeps.ite ?_ ?_
    | with_reducible refine Keeps.foldl ?_ (fun t x ht => ?_)
    | with_reducible refine State.fset_keeps hP ?_
    | with_reducible refine State.faultPin_keeps hP ?_
    | with_reducible refine State.ilMod_keeps hP ?_

theorem State.tryExit_keeps {s : State} (h : P s) :
    P (State.tryExit s) := by
  unfold State.tryExit
  repeat' first
    | with_reducible assumption
    | with_reducible refine Keeps.ite ?_ ?_
    | with_reducible refine Keeps.foldl ?_ (fun t x ht => ?_)
    | with_reducible refine State.ilState_keeps hP ?_
    | with_reducible refine State.fset_keeps hP ?_
    | with_reducible refine State.odPut_keeps hP ?_
    | with_reducible refine State.faultEnd_keeps hP ?_
    | with_reducible refine State.ilMod_keeps hP ?_
    | with_reducible refine State.faultNotice_keeps hP ?_

theorem State.handOver_keeps {s : State} {a1 : _} {a2 : _} {a3 : _} (h : P s) :
    P (State.handOver s a1 a2 a3) := by
  unfold State.handOver
  repeat' first
    | with_reducible assumption
    | with_reducible refine Keeps.ite ?_ ?_
    | with_reducible refine Keeps.foldl ?_ (fun t x ht => ?_)
    | with_reducible refine State.actUnit_keeps hP ?_
    | with_reducible refine State.standbyFail_keeps hP ?_
    | with_reducible refine State.sbHang_keeps hP ?_

theorem State.collect_keeps {s : State} {a1 : _} (h : P s) :
    P (State.collect s a1) := by
  unfold State.collect
  repeat' first
    | with_reducible assumption
    | with_reducible refine Keeps.ite ?_ ?_
    | with_reducible refine Keeps.foldl ?_ (fun t x ht => ?_)
    | with_reducible refine State.wrap_keeps hP ?_
    | with_reducible refine State.classify_keeps hP ?_
    | with_reducible refine State.ilFault_keeps hP ?_
    | with_reducible refine State.logEntry_keeps hP ?_
    | with_reducible refine State.condMsg_keeps hP ?_
    | with_reducible refine State.tryExit_keeps hP ?_
    | with_reducible refine State.faultEnter_keeps hP ?_
    | with_reducible refine State.quietStart_keeps hP ?_
    | with_reducible refine State.handOver_keeps hP ?_

theorem execFaultMessage_keeps {a0 : _} {s : State} (h : P s) :
    ∀ t, execFaultMessage a0 s = .next t → P t := by
  unfold execFaultMessage
  refine Keeps.next ?_
  refine Keeps.ite h ?_
  split
  · exact h
  · rename_i m l he
    refine State.collect_keeps hP (hP.msgs h _ _ ?_)
    rw [he, List.length_cons]
    omega

theorem execIlBucketDrain_keeps {s : State} (h : P s) :
    ∀ t, execIlBucketDrain s = .next t → P t := by
  unfold execIlBucketDrain
  refine Keeps.next ?_
  repeat' first
    | with_reducible assumption
    | with_reducible refine Keeps.ite ?_ ?_
    | with_reducible refine Keeps.foldl ?_ (fun t x ht => ?_)
    | with_reducible refine State.fset_keeps hP ?_

theorem execFaultNPulseEnd_keeps {s : State} (h : P s) :
    ∀ t, execFaultNPulseEnd s = .next t → P t := by
  unfold execFaultNPulseEnd
  refine Keeps.next ?_
  repeat' first
    | with_reducible assumption
    | with_reducible refine Keeps.ite ?_ ?_
    | with_reducible refine Keeps.foldl ?_ (fun t x ht => ?_)
    | with_reducible refine State.faultPin_keeps hP ?_
    | with_reducible refine State.ilMod_keeps hP ?_

theorem execQuietTimer_keeps {s : State} (h : P s) :
    ∀ t, execQuietTimer s = .next t → P t := by
  unfold execQuietTimer
  refine Keeps.next ?_
  repeat' first
    | with_reducible assumption
    | with_reducible refine Keeps.ite ?_ ?_
    | with_reducible refine Keeps.iteC ?_ ?_
    | with_reducible refine Keeps.foldl ?_ (fun t x ht => ?_)
    | with_reducible refine State.ilMod_keeps hP ?_
    | with_reducible refine State.tryExit_keeps hP ?_

theorem State.faultAck_keeps {s : State} (h : P s) :
    P (State.faultAck s).2 := by
  unfold State.faultAck
  repeat' first
    | with_reducible assumption
    | with_reducible refine Keeps.ite ?_ ?_
    | with_reducible refine Keeps.foldl ?_ (fun t x ht => ?_)
    | with_reducible refine State.faultPin_keeps hP ?_
    | with_reducible refine State.fset_keeps hP ?_
    | with_reducible refine Keeps.pair (by assumption) ?_
    | with_reducible refine Keeps.pair1 (by assumption) ?_
    | fail_if_no_progress with_reducible refine Keeps.mk hP ?_
    | split

theorem State.clearFault_keeps {s : State} (h : P s) :
    P (State.clearFault s).2 := by
  unfold State.clearFault
  repeat' first
    | with_reducible assumption
    | with_reducible refine Keeps.ite ?_ ?_
    | with_reducible refine Keeps.foldl ?_ (fun t x ht => ?_)
    | with_reducible refine State.faultEnd_keeps hP ?_
    | with_reducible refine State.fset_keeps hP ?_
    | with_reducible refine State.faultNotice_keeps hP ?_
    | with_reducible refine State.ilState_keeps hP ?_
    | with_reducible refine Keeps.pair (by assumption) ?_
    | with_reducible refine Keeps.pair1 (by assumption) ?_
    | fail_if_no_progress with_reducible refine Keeps.mk hP ?_
    | split

theorem State.ilRebuild_keeps {s : State} (h : P s) :
    P (State.ilRebuild s) := by
  unfold State.ilRebuild
  repeat' first
    | with_reducible assumption
    | with_reducible refine Keeps.ite ?_ ?_
    | with_reducible refine Keeps.foldl ?_ (fun t x ht => ?_)
    | with_reducible refine State.resetBlocks_keeps hP ?_
    | with_reducible refine State.fset_keeps hP ?_
    | with_reducible refine State.csrPut_keeps hP ?_
    | with_reducible refine State.ilMod_keeps hP ?_

theorem State.softwareClear_keeps {s : State} {a1 : _} (h : P s) :
    P (State.softwareClear s a1).2 := by
  unfold State.softwareClear
  repeat' first
    | with_reducible assumption
    | with_reducible refine Keeps.ite ?_ ?_
    | with_reducible refine Keeps.iteC ?_ ?_
    | with_reducible refine Keeps.foldl ?_ (fun t x ht => ?_)
    | with_reducible refine State.fset_keeps hP ?_
    | with_reducible refine State.clearFault_keeps hP ?_
    | with_reducible refine State.report_keeps hP ?_
    | with_reducible refine State.raiseAgain_keeps hP ?_
    | with_reducible refine State.ilRebuild_keeps hP ?_

theorem State.recoveriesReset_keeps {s : State} (h : P s) :
    P (State.recoveriesReset s) := by
  unfold State.recoveriesReset
  repeat' first
    | with_reducible assumption
    | with_reducible refine Keeps.ite ?_ ?_
    | with_reducible refine Keeps.foldl ?_ (fun t x ht => ?_)
    | with_reducible refine State.ilMod_keeps hP ?_
    | with_reducible refine State.odPut_keeps hP ?_
    | with_reducible refine State.fset_keeps hP ?_

theorem State.ilInject_keeps {s : State} {a1 : _} (h : P s) :
    P (State.ilInject s a1).2 := by
  unfold State.ilInject
  repeat' first
    | with_reducible assumption
    | with_reducible refine Keeps.ite ?_ ?_
    | with_reducible refine Keeps.foldl ?_ (fun t x ht => ?_)
    | with_reducible refine State.reportMsg_keeps hP ?_
    | with_reducible refine Keeps.pair (by assumption) ?_
    | with_reducible refine Keeps.pair1 (by assumption) ?_
    | fail_if_no_progress with_reducible refine Keeps.mk hP ?_
    | split

theorem execIlInject_keeps {a0 : _} {a1 : _} {s : State} (h : P s) :
    ∀ t, execIlInject a0 a1 s = .next t → P t := by
  unfold execIlInject
  refine Keeps.next ?_
  repeat' first
    | with_reducible assumption
    | with_reducible refine Keeps.ite ?_ ?_
    | with_reducible refine Keeps.iteC ?_ ?_
    | with_reducible refine Keeps.foldl ?_ (fun t x ht => ?_)
    | with_reducible refine State.ilInject_keeps hP ?_
    | with_reducible refine State.byParty_keeps hP ?_ (fun t ht => ?_)

theorem execIlSelfCheck_keeps {a0 : _} {s : State} (h : P s) :
    ∀ t, execIlSelfCheck a0 s = .next t → P t := by
  unfold execIlSelfCheck
  refine Keeps.next ?_
  repeat' first
    | with_reducible assumption
    | with_reducible refine Keeps.ite ?_ ?_
    | with_reducible refine Keeps.iteC ?_ ?_
    | with_reducible refine Keeps.foldl ?_ (fun t x ht => ?_)
    | with_reducible refine State.fset_keeps hP ?_
    | with_reducible refine State.report_keeps hP ?_
    | with_reducible refine State.ilState_keeps hP ?_

end Sys2Proof.Machine
end

