-- ==== Sys2Proof/Laws/Keep/Bringup.lean ====
section
/-! SUPPORT. Every operation of Machine/Bringup.lean keeps a closed predicate (see Laws/Keep.lean). -/

namespace Sys2Proof.Machine

variable {P : State → Prop} (hP : Closed P)
include hP

theorem State.loadFuses_keeps {s : State} {a1 : _} (h : P s) :
    P (State.loadFuses s a1) := by
  unfold State.loadFuses
  repeat' first
    | with_reducible assumption
    | with_reducible refine Keeps.ite ?_ ?_
    | with_reducible refine Keeps.foldl ?_ (fun t x ht => ?_)
    | with_reducible refine State.odPut_keeps hP ?_
    | with_reducible refine State.csrPut_keeps hP ?_
    | with_reducible refine State.bootMod_keeps hP ?_

theorem State.stage0_keeps {s : State} {a1 : _} {a2 : _} {a3 : _} {a4 : _} (h : P s) :
    P (State.stage0 s a1 a2 a3 a4) := by
  unfold State.stage0
  repeat' first
    | with_reducible assumption
    | with_reducible refine Keeps.ite ?_ ?_
    | with_reducible refine Keeps.iteC ?_ ?_
    | with_reducible refine Keeps.foldl ?_ (fun t x ht => ?_)
    | with_reducible refine State.stagePass_keeps hP ?_
    | with_reducible refine State.stageStop_keeps hP ?_
    | with_reducible refine State.imageMeasured_keeps hP ?_
    | with_reducible refine State.sbMod_keeps hP ?_
    | with_reducible refine State.loadFuses_keeps hP ?_
    | with_reducible refine State.bootSlot_keeps hP ?_
    | with_reducible refine State.addressUp_keeps hP ?_

theorem State.stage1_keeps {s : State} {a1 : _} (h : P s) :
    P (State.stage1 s a1) := by
  unfold State.stage1
  repeat' first
    | with_reducible assumption
    | with_reducible refine Keeps.ite ?_ ?_
    | with_reducible refine Keeps.foldl ?_ (fun t x ht => ?_)
    | with_reducible refine State.bootMod_keeps hP ?_
    | with_reducible refine State.blobPut_keeps hP ?_
    | with_reducible refine State.odPut_keeps hP ?_
    | with_reducible refine State.stageStop_keeps hP ?_
    | with_reducible refine State.stagePass_keeps hP ?_

theorem State.licInstall_keeps {s : State} {a1 : _} (h : P s) :
    P (State.licInstall s a1).2 := by
  unfold State.licInstall
  repeat' first
    | with_reducible assumption
    | with_reducible refine Keeps.ite ?_ ?_
    | with_reducible refine Keeps.foldl ?_ (fun t x ht => ?_)
    | with_reducible refine State.odPut_keeps hP ?_
    | with_reducible refine State.bootMod_keeps hP ?_
    | with_reducible refine State.stageResume_keeps hP ?_
    | with_reducible refine Keeps.pair (by assumption) ?_
    | with_reducible refine Keeps.pair1 (by assumption) ?_
    | fail_if_no_progress with_reducible refine Keeps.mk hP ?_
    | split
    | dsimp only

theorem State.licAgain_keeps {s : State} (h : P s) :
    P (State.licAgain s) := by
  unfold State.licAgain
  repeat' first
    | with_reducible assumption
    | with_reducible refine Keeps.ite ?_ ?_
    | with_reducible refine Keeps.foldl ?_ (fun t x ht => ?_)
    | with_reducible refine State.odPut_keeps hP ?_
    | with_reducible refine Keeps.pair (by assumption) ?_
    | with_reducible refine Keeps.pair1 (by assumption) ?_
    | fail_if_no_progress with_reducible refine Keeps.mk hP ?_
    | split

theorem State.moduleLost_keeps {s : State} {a1 : _} {a2 : _} (h : P s) :
    P (State.moduleLost s a1 a2) := by
  unfold State.moduleLost
  repeat' first
    | with_reducible assumption
    | with_reducible refine Keeps.ite ?_ ?_
    | with_reducible refine Keeps.foldl ?_ (fun t x ht => ?_)
    | with_reducible refine State.event_keeps hP ?_
    | with_reducible refine State.report_keeps hP ?_
    | with_reducible refine State.fset_keeps hP ?_

theorem State.d2dTrain_keeps {s : State} {a1 : _} (h : P s) :
    P (State.d2dTrain s a1) := by
  unfold State.d2dTrain
  repeat' first
    | with_reducible assumption
    | with_reducible refine Keeps.ite ?_ ?_
    | with_reducible refine Keeps.foldl ?_ (fun t x ht => ?_)
    | with_reducible refine State.fset_keeps hP ?_
    | with_reducible refine State.moduleLost_keeps hP ?_

theorem State.stage2_keeps {s : State} {a1 : _} {a2 : _} (h : P s) :
    P (State.stage2 s a1 a2) := by
  unfold State.stage2
  repeat' first
    | with_reducible assumption
    | with_reducible refine Keeps.ite ?_ ?_
    | with_reducible refine Keeps.iteC ?_ ?_
    | with_reducible refine Keeps.foldl ?_ (fun t x ht => ?_)
    | with_reducible refine Keeps.foldl2 ?_ (fun b t x ht => ?_)
    | with_reducible refine State.stagePass_keeps hP ?_
    | with_reducible refine State.stageStop_keeps hP ?_
    | with_reducible refine State.bootMod_keeps hP ?_
    | with_reducible refine State.d2dTrain_keeps hP ?_

theorem execClockRetry_keeps {s : State} (h : P s) :
    ∀ t, execClockRetry s = .next t → P t := by
  unfold execClockRetry
  refine Keeps.next ?_
  repeat' first
    | with_reducible assumption
    | with_reducible refine Keeps.ite ?_ ?_
    | with_reducible refine Keeps.foldl ?_ (fun t x ht => ?_)
    | with_reducible refine State.stageResume_keeps hP ?_

theorem State.loadMarks_keeps {s : State} {a1 : _} {a2 : _} (h : P s) :
    P (State.loadMarks s a1 a2) := by
  unfold State.loadMarks
  repeat' first
    | with_reducible assumption
    | with_reducible refine Keeps.ite ?_ ?_
    | with_reducible refine Keeps.iteC ?_ ?_
    | with_reducible refine Keeps.foldl ?_ (fun t x ht => ?_)
    | with_reducible refine Keeps.foldl2 ?_ (fun b t x ht => ?_)
    | with_reducible refine State.odPut_keeps hP ?_
    | with_reducible refine State.reloadMark_keeps hP ?_
    | with_reducible refine State.setMdev_keeps hP ?_

theorem State.testPattern_keeps {s : State} (h : P s) :
    P (State.testPattern s) := by
  unfold State.testPattern
  repeat' first
    | with_reducible assumption
    | with_reducible refine Keeps.ite ?_ ?_
    | with_reducible refine Keeps.iteC ?_ ?_
    | with_reducible refine Keeps.foldl ?_ (fun t x ht => ?_)
    | with_reducible refine hP.memFilter ?_ _ _

theorem State.dieTest_keeps {s : State} {a1 : _} {a2 : _} (h : P s) :
    P (State.dieTest s a1 a2) := by
  unfold State.dieTest
  repeat' first
    | with_reducible assumption
    | with_reducible refine Keeps.ite ?_ ?_
    | with_reducible refine Keeps.foldl ?_ (fun t x ht => ?_)
    | with_reducible refine State.event_keeps hP ?_
    | with_reducible refine State.markDie_keeps hP ?_

omit hP in
theorem wholeRead_keeps {a0 : _} (h0 : P a0.2) : P (wholeRead a0).2 := h0

theorem State.decodeUnit_keeps {s : State} {a1 : _} {a2 : _} (h : P s) :
    P (State.decodeUnit s a1 a2).2 := by
  unfold State.decodeUnit
  exact wholeRead_keeps (State.readCells_keeps hP h)

theorem State.toSpare_keeps {s : State} {a1 : _} {a2 : _} {a3 : _} (h : P s) :
    P (State.toSpare s a1 a2 a3) := by
  unfold State.toSpare
  repeat' first
    | with_reducible assumption
    | with_reducible refine Keeps.ite ?_ ?_
    | with_reducible refine Keeps.iteC ?_ ?_
    | with_reducible refine Keeps.foldl ?_ (fun t x ht => ?_)
    | with_reducible refine Keeps.foldl2 ?_ (fun b t x ht => ?_)
    | with_reducible refine State.store_keeps hP ?_
    | with_reducible refine State.setMdev_keeps hP ?_
    | with_reducible refine State.odBump_keeps hP ?_

theorem State.spareWith_keeps {s : State} {a1 : _} {a2 : _} {a3 : _} (h : P s) :
    P (State.spareWith s a1 a2 a3) := by
  cases a3 with
  | none => exact h
  | some l => exact State.toSpare_keeps hP h

theorem State.repairUnits_keeps {s : State} {a1 : _} (h : P s) :
    P (State.repairUnits s a1) := by
  unfold State.repairUnits
  exact Keeps.foldl h (fun t x ht => Keeps.ite ht (State.spareWith_keeps hP (State.decodeUnit_keeps hP ht)))

theorem State.stage3_keeps {s : State} {a1 : _} {a2 : _} {a3 : _} (h : P s) :
    P (State.stage3 s a1 a2 a3) := by
  unfold State.stage3
  repeat' first
    | with_reducible assumption
    | with_reducible refine Keeps.ite ?_ ?_
    | with_reducible refine Keeps.iteC ?_ ?_
    | with_reducible refine Keeps.foldl ?_ (fun t x ht => ?_)
    | with_reducible refine Keeps.foldl2 ?_ (fun b t x ht => ?_)
    | with_reducible refine State.stagePass_keeps hP ?_
    | with_reducible refine State.setFlag_keeps hP ?_
    | with_reducible refine State.stageStop_keeps hP ?_
    | with_reducible refine State.testPattern_keeps hP ?_
    | with_reducible refine State.loadMarks_keeps hP ?_
    | with_reducible refine State.repairUnits_keeps hP ?_
    | with_reducible refine State.logRead_keeps hP ?_
    | with_reducible refine State.dieTest_keeps hP ?_
    | with_reducible refine State.mapRead_keeps hP ?_

theorem State.putTileMap_keeps {s : State} {a1 : _} {a2 : _} (h : P s) :
    P (State.putTileMap s a1 a2) := by
  unfold State.putTileMap
  repeat' first
    | with_reducible assumption
    | with_reducible refine Keeps.ite ?_ ?_
    | with_reducible refine Keeps.foldl ?_ (fun t x ht => ?_)
    | with_reducible refine State.csrPut_keeps hP ?_

theorem State.tilesTested_keeps {s : State} {a1 : _} {a2 : _} (h : P s) :
    P (State.tilesTested s a1 a2) := by
  unfold State.tilesTested
  repeat' first
    | with_reducible assumption
    | with_reducible refine Keeps.ite ?_ ?_
    | with_reducible refine Keeps.iteC ?_ ?_
    | with_reducible refine Keeps.foldl ?_ (fun t x ht => ?_)
    | with_reducible refine Keeps.foldl2 ?_ (fun b t x ht => ?_)
    | with_reducible refine State.setFlag_keeps hP ?_
    | with_reducible refine State.putTileMap_keeps hP ?_
    | with_reducible refine State.bootMod_keeps hP ?_
    | with_reducible refine State.event_keeps hP ?_

theorem State.geomFix_keeps {s : State} (h : P s) :
    P (State.geomFix s) := by
  unfold State.geomFix
  repeat' first
    | with_reducible assumption
    | with_reducible refine Keeps.ite ?_ ?_
    | with_reducible refine Keeps.foldl ?_ (fun t x ht => ?_)
    | with_reducible refine State.fset_keeps hP ?_
    | with_reducible refine State.csrPut_keeps hP ?_
    | with_reducible refine State.setFlag_keeps hP ?_
    | with_reducible refine State.putTileMap_keeps hP ?_
    | with_reducible refine State.tileExit_keeps hP ?_
    | with_reducible refine Keeps.pair (by assumption) ?_
    | with_reducible refine Keeps.pair1 (by assumption) ?_
    | fail_if_no_progress with_reducible refine Keeps.mk hP ?_
    | split

theorem State.quickFail_keeps {s : State} {a1 : _} (h : P s) :
    P (State.quickFail s a1) := by
  unfold State.quickFail
  repeat' first
    | with_reducible assumption
    | with_reducible refine Keeps.ite ?_ ?_
    | with_reducible refine Keeps.iteC ?_ ?_
    | with_reducible refine Keeps.foldl ?_ (fun t x ht => ?_)
    | with_reducible refine Keeps.foldl2 ?_ (fun b t x ht => ?_)
    | with_reducible refine State.mgrMod_keeps hP ?_
    | with_reducible refine State.setTileState_keeps hP ?_
    | with_reducible refine State.putTileMap_keeps hP ?_
    | with_reducible refine State.event_keeps hP ?_

theorem State.stage4_keeps {s : State} {a1 : _} {a2 : _} {a3 : _} (h : P s) :
    P (State.stage4 s a1 a2 a3) := by
  unfold State.stage4
  repeat' first
    | with_reducible assumption
    | with_reducible refine Keeps.ite ?_ ?_
    | with_reducible refine Keeps.iteC ?_ ?_
    | with_reducible refine Keeps.foldl ?_ (fun t x ht => ?_)
    | with_reducible refine Keeps.foldl2 ?_ (fun b t x ht => ?_)
    | with_reducible refine State.stagePass_keeps hP ?_
    | with_reducible refine State.geomFix_keeps hP ?_
    | with_reducible refine State.stageStop_keeps hP ?_
    | with_reducible refine State.bootMod_keeps hP ?_
    | with_reducible refine State.quickFail_keeps hP ?_
    | with_reducible refine State.tilesTested_keeps hP ?_

theorem State.acceptReduced_keeps {s : State} {a1 : _} (h : P s) :
    P (State.acceptReduced s a1) := by
  unfold State.acceptReduced
  repeat' first
    | with_reducible assumption
    | with_reducible refine Keeps.ite ?_ ?_
    | with_reducible refine Keeps.foldl ?_ (fun t x ht => ?_)
    | with_reducible refine State.odPut_keeps hP ?_
    | with_reducible refine State.stageResume_keeps hP ?_

theorem State.stage5_keeps {s : State} {a1 : _} (h : P s) :
    P (State.stage5 s a1) := by
  unfold State.stage5
  repeat' first
    | with_reducible assumption
    | with_reducible refine Keeps.ite ?_ ?_
    | with_reducible refine Keeps.foldl ?_ (fun t x ht => ?_)
    | with_reducible refine State.stagePass_keeps hP ?_
    | with_reducible refine State.wrap_keeps hP ?_
    | with_reducible refine State.odPut_keeps hP ?_
    | with_reducible refine State.bootMod_keeps hP ?_
    | with_reducible refine State.resetNotice_keeps hP ?_

theorem State.stage6_keeps {s : State} {a1 : _} (h : P s) :
    P (State.stage6 s a1) := by
  unfold State.stage6
  repeat' first
    | with_reducible assumption
    | with_reducible refine Keeps.ite ?_ ?_
    | with_reducible refine Keeps.foldl ?_ (fun t x ht => ?_)
    | with_reducible refine State.bootMod_keeps hP ?_
    | with_reducible refine State.stagePass_keeps hP ?_
    | with_reducible refine State.stageStop_keeps hP ?_

theorem State.topoAccept_keeps {s : State} {a1 : _} (h : P s) :
    P (State.topoAccept s a1).2 := by
  unfold State.topoAccept
  repeat' first
    | with_reducible assumption
    | with_reducible refine Keeps.ite ?_ ?_
    | with_reducible refine Keeps.foldl ?_ (fun t x ht => ?_)
    | with_reducible refine State.stageResume_keeps hP ?_
    | with_reducible refine State.bootMod_keeps hP ?_
    | with_reducible refine Keeps.pair (by assumption) ?_
    | with_reducible refine Keeps.pair1 (by assumption) ?_
    | fail_if_no_progress with_reducible refine Keeps.mk hP ?_
    | split

theorem State.geometryExpect_keeps {s : State} {a1 : _} (h : P s) :
    P (State.geometryExpect s a1) := by
  unfold State.geometryExpect
  repeat' first
    | with_reducible assumption
    | with_reducible refine Keeps.ite ?_ ?_
    | with_reducible refine Keeps.foldl ?_ (fun t x ht => ?_)
    | with_reducible refine State.odPut_keeps hP ?_
    | with_reducible refine State.stageResume_keeps hP ?_

theorem State.trayNo_keeps {s : State} {a1 : _} (h : P s) :
    P (State.trayNo s a1) := by
  unfold State.trayNo
  repeat' first
    | with_reducible assumption
    | with_reducible refine Keeps.ite ?_ ?_
    | with_reducible refine Keeps.foldl ?_ (fun t x ht => ?_)
    | with_reducible refine State.odPut_keeps hP ?_
    | with_reducible refine State.stageResume_keeps hP ?_
    | with_reducible refine State.sendIdent_keeps hP ?_

theorem State.bgStart_keeps {s : State} (h : P s) :
    P (State.bgStart s) := by
  unfold State.bgStart
  repeat' first
    | with_reducible assumption
    | with_reducible refine Keeps.ite ?_ ?_
    | with_reducible refine Keeps.iteC ?_ ?_
    | with_reducible refine Keeps.foldl ?_ (fun t x ht => ?_)
    | with_reducible refine Keeps.foldl2 ?_ (fun b t x ht => ?_)
    | with_reducible refine State.fset_keeps hP ?_
    | with_reducible refine State.bootMod_keeps hP ?_
    | with_reducible refine State.scrubStart_keeps hP ?_
    | with_reducible refine State.csrPut_keeps hP ?_

theorem State.stage7_keeps {s : State} {a1 : _} {a2 : _} (h : P s) :
    P (State.stage7 s a1 a2) := by
  unfold State.stage7
  repeat' first
    | with_reducible assumption
    | with_reducible refine Keeps.ite ?_ ?_
    | with_reducible refine Keeps.foldl ?_ (fun t x ht => ?_)
    | with_reducible refine State.odPut_keeps hP ?_
    | with_reducible refine State.stagePass_keeps hP ?_
    | with_reducible refine State.bgStart_keeps hP ?_

theorem execBgtestDone_keeps {a0 : _} {s : State} (h : P s) :
    ∀ t, execBgtestDone a0 s = .next t → P t := by
  unfold execBgtestDone
  refine Keeps.next ?_
  repeat' first
    | with_reducible assumption
    | with_reducible refine Keeps.ite ?_ ?_
    | with_reducible refine Keeps.foldl ?_ (fun t x ht => ?_)
    | with_reducible refine State.bgEnd_keeps hP ?_
    | with_reducible refine State.setMdev_keeps hP ?_

theorem State.bgEnable_keeps {s : State} {a1 : _} (h : P s) :
    P (State.bgEnable s a1) := by
  unfold State.bgEnable
  repeat' first
    | with_reducible assumption
    | with_reducible refine Keeps.ite ?_ ?_
    | with_reducible refine Keeps.foldl ?_ (fun t x ht => ?_)
    | with_reducible refine State.odPut_keeps hP ?_
    | with_reducible refine State.bootMod_keeps hP ?_
    | with_reducible refine State.scrubStop_keeps hP ?_

theorem State.dieMarks_keeps {s : State} {a1 : _} {a2 : _} (h : P s) :
    P (State.dieMarks s a1 a2).2 := by
  unfold State.dieMarks
  repeat' first
    | with_reducible assumption
    | with_reducible refine Keeps.ite ?_ ?_
    | with_reducible refine Keeps.foldl ?_ (fun t x ht => ?_)
    | with_reducible refine State.fset_keeps hP ?_
    | with_reducible refine State.odPut_keeps hP ?_
    | with_reducible refine State.setMdev_keeps hP ?_
    | with_reducible refine Keeps.pair (by assumption) ?_
    | with_reducible refine Keeps.pair1 (by assumption) ?_
    | fail_if_no_progress with_reducible refine Keeps.mk hP ?_
    | split
    | dsimp only

theorem execStageDone_keeps {a0 : _} {a1 : _} {s : State} (h : P s) :
    ∀ t, execStageDone a0 a1 s = .next t → P t := by
  unfold execStageDone
  refine Keeps.next ?_
  repeat' first
    | with_reducible assumption
    | with_reducible refine Keeps.ite ?_ ?_
    | with_reducible refine Keeps.foldl ?_ (fun t x ht => ?_)
    | with_reducible refine State.stage0_keeps hP ?_
    | with_reducible refine State.stage1_keeps hP ?_
    | with_reducible refine State.stage2_keeps hP ?_
    | with_reducible refine State.stage3_keeps hP ?_
    | with_reducible refine State.stage4_keeps hP ?_
    | with_reducible refine State.stage5_keeps hP ?_
    | with_reducible refine State.stage6_keeps hP ?_
    | with_reducible refine State.stage7_keeps hP ?_
    | with_reducible refine Keeps.pair (by assumption) ?_
    | with_reducible refine Keeps.pair1 (by assumption) ?_
    | fail_if_no_progress with_reducible refine Keeps.mk hP ?_
    | split

end Sys2Proof.Machine
end

