-- ==== Sys2Proof/Laws/Keep/Firmware.lean ====
section
/-! SUPPORT. Every operation of Machine/Firmware.lean keeps a closed predicate (see Laws/Keep.lean). -/

namespace Sys2Proof.Machine

variable {P : State → Prop} (hP : Closed P)
include hP

theorem State.fwRefuse_keeps {s : State} {a1 : _} (h : P s) :
    P (State.fwRefuse s a1).2 := by
  unfold State.fwRefuse
  repeat' first
    | with_reducible assumption
    | with_reducible refine Keeps.ite ?_ ?_
    | with_reducible refine Keeps.foldl ?_ (fun t x ht => ?_)
    | with_reducible refine State.odPut_keeps hP ?_

theorem State.fwAccept_keeps {s : State} (h : P s) :
    P (State.fwAccept s).2 := by
  unfold State.fwAccept
  repeat' first
    | with_reducible assumption
    | with_reducible refine Keeps.ite ?_ ?_
    | with_reducible refine Keeps.foldl ?_ (fun t x ht => ?_)
    | with_reducible refine State.odPut_keeps hP ?_

theorem State.fwUpload_keeps {s : State} {a1 : _} {a2 : _} (h : P s) :
    P (State.fwUpload s a1 a2) := by
  unfold State.fwUpload
  repeat' first
    | with_reducible assumption
    | with_reducible refine Keeps.ite ?_ ?_
    | with_reducible refine Keeps.foldl ?_ (fun t x ht => ?_)
    | with_reducible refine State.event_keeps hP ?_

theorem State.putSlot_keeps {s : State} {a1 : _} {a2 : _} (h : P s) :
    P (State.putSlot s a1 a2) := by
  unfold State.putSlot
  repeat' first
    | with_reducible assumption
    | with_reducible refine Keeps.ite ?_ ?_
    | with_reducible refine Keeps.foldl ?_ (fun t x ht => ?_)
    | with_reducible refine State.fwMod_keeps hP ?_

theorem State.fwHeader_keeps {s : State} {a1 : _} (h : P s) :
    P (State.fwHeader s a1).2 := by
  unfold State.fwHeader
  repeat' first
    | with_reducible assumption
    | with_reducible refine Keeps.ite ?_ ?_
    | with_reducible refine Keeps.iteC ?_ ?_
    | with_reducible refine Keeps.foldl ?_ (fun t x ht => ?_)
    | with_reducible refine State.fwUpload_keeps hP ?_
    | with_reducible refine State.putSlot_keeps hP ?_
    | with_reducible refine State.fwRefuse_keeps hP ?_
    | with_reducible refine State.fwAccept_keeps hP ?_
    | with_reducible refine Keeps.pair (by assumption) ?_
    | with_reducible refine Keeps.pair1 (by assumption) ?_
    | fail_if_no_progress with_reducible refine Keeps.mk hP ?_
    | split

theorem State.fwChunk_keeps {s : State} {a1 : _} {a2 : _} (h : P s) :
    P (State.fwChunk s a1 a2).2 := by
  unfold State.fwChunk
  repeat' first
    | with_reducible assumption
    | with_reducible refine Keeps.ite ?_ ?_
    | with_reducible refine Keeps.foldl ?_ (fun t x ht => ?_)
    | with_reducible refine State.fwRefuse_keeps hP ?_
    | with_reducible refine State.fwAccept_keeps hP ?_
    | with_reducible refine State.putSlot_keeps hP ?_
    | with_reducible refine State.fwUpload_keeps hP ?_
    | with_reducible refine State.slotSt_keeps hP ?_
    | with_reducible refine State.odPut_keeps hP ?_
    | with_reducible refine Keeps.pair (by assumption) ?_
    | with_reducible refine Keeps.pair1 (by assumption) ?_
    | fail_if_no_progress with_reducible refine Keeps.mk hP ?_
    | split
    | dsimp only

theorem State.fwAbort_keeps {s : State} {a1 : _} (h : P s) :
    P (State.fwAbort s a1).2 := by
  unfold State.fwAbort
  repeat' first
    | with_reducible assumption
    | with_reducible refine Keeps.ite ?_ ?_
    | with_reducible refine Keeps.foldl ?_ (fun t x ht => ?_)
    | with_reducible refine State.dropHandover_keeps hP ?_
    | with_reducible refine State.putSlot_keeps hP ?_
    | with_reducible refine State.slotSt_keeps hP ?_
    | with_reducible refine Keeps.pair (by assumption) ?_
    | with_reducible refine Keeps.pair1 (by assumption) ?_
    | fail_if_no_progress with_reducible refine Keeps.mk hP ?_
    | split

theorem State.activateSignal_keeps {s : State} (h : P s) :
    P (State.activateSignal s).2 := by
  unfold State.activateSignal
  repeat' first
    | with_reducible assumption
    | with_reducible refine Keeps.ite ?_ ?_
    | with_reducible refine Keeps.iteC ?_ ?_
    | with_reducible refine Keeps.foldl ?_ (fun t x ht => ?_)
    | with_reducible refine State.fwMod_keeps hP ?_
    | with_reducible refine State.slotSt_keeps hP ?_
    | with_reducible refine State.askSignal_keeps hP ?_
    | with_reducible refine State.fwRefuse_keeps hP ?_
    | with_reducible refine State.fwAccept_keeps hP ?_

theorem State.activateLine_keeps {s : State} (h : P s) :
    P (State.activateLine s).2 := by
  unfold State.activateLine
  repeat' first
    | with_reducible assumption
    | with_reducible refine Keeps.ite ?_ ?_
    | with_reducible refine Keeps.foldl ?_ (fun t x ht => ?_)
    | with_reducible refine State.fwRefuse_keeps hP ?_
    | with_reducible refine State.fwAccept_keeps hP ?_
    | with_reducible refine State.slotSt_keeps hP ?_
    | with_reducible refine Keeps.pair (by assumption) ?_
    | with_reducible refine Keeps.pair1 (by assumption) ?_
    | fail_if_no_progress with_reducible refine Keeps.mk hP ?_
    | split
    | dsimp only

theorem State.activateRuntime_keeps {s : State} (h : P s) :
    P (State.activateRuntime s).2 := by
  unfold State.activateRuntime
  repeat' first
    | with_reducible assumption
    | with_reducible refine Keeps.ite ?_ ?_
    | with_reducible refine Keeps.foldl ?_ (fun t x ht => ?_)
    | with_reducible refine State.fwRefuse_keeps hP ?_
    | with_reducible refine State.fwMod_keeps hP ?_
    | with_reducible refine State.fwAccept_keeps hP ?_
    | with_reducible refine State.selfTest_keeps hP ?_
    | with_reducible refine State.setStandbyOk_keeps hP ?_
    | with_reducible refine Keeps.pair (by assumption) ?_
    | with_reducible refine Keeps.pair1 (by assumption) ?_
    | fail_if_no_progress with_reducible refine Keeps.mk hP ?_
    | split
    | dsimp only

theorem State.fwActivate_keeps {s : State} {a1 : _} (h : P s) :
    P (State.fwActivate s a1).2 := by
  unfold State.fwActivate
  repeat' first
    | with_reducible assumption
    | with_reducible refine Keeps.ite ?_ ?_
    | with_reducible refine Keeps.foldl ?_ (fun t x ht => ?_)
    | with_reducible refine State.activateSignal_keeps hP ?_
    | with_reducible refine State.activateRuntime_keeps hP ?_
    | with_reducible refine State.activateLine_keeps hP ?_
    | with_reducible refine Keeps.pair (by assumption) ?_
    | with_reducible refine Keeps.pair1 (by assumption) ?_
    | fail_if_no_progress with_reducible refine Keeps.mk hP ?_
    | split

theorem execHandoverSwitchover_keeps {s : State} (h : P s) :
    ∀ t, execHandoverSwitchover s = .next t → P t := by
  unfold execHandoverSwitchover
  refine Keeps.next ?_
  repeat' first
    | with_reducible assumption
    | with_reducible refine Keeps.ite ?_ ?_
    | with_reducible refine Keeps.iteC ?_ ?_
    | with_reducible refine Keeps.foldl ?_ (fun t x ht => ?_)
    | with_reducible refine State.fwMod_keeps hP ?_
    | with_reducible refine State.imageMeasured_keeps hP ?_
    | with_reducible refine State.syncArith_keeps hP ?_
    | with_reducible refine State.slotSt_keeps hP ?_
    | with_reducible refine State.fwActivated_keeps hP ?_
    | with_reducible refine State.dropHand_keeps hP ?_
    | with_reducible refine State.odPut_keeps hP ?_
    | with_reducible refine State.switchTo_keeps hP ?_
    | with_reducible refine State.dropHandover_keeps hP ?_
    | with_reducible refine State.trialStart_keeps hP ?_
    | with_reducible refine Keeps.pair (by assumption) ?_
    | with_reducible refine Keeps.pair1 (by assumption) ?_
    | fail_if_no_progress with_reducible refine Keeps.mk hP ?_
    | split

theorem execTrialConfirm_keeps {a0 : _} {s : State} (h : P s) :
    ∀ t, execTrialConfirm a0 s = .next t → P t := by
  unfold execTrialConfirm
  refine Keeps.next ?_
  repeat' first
    | with_reducible assumption
    | with_reducible refine Keeps.ite ?_ ?_
    | with_reducible refine Keeps.iteC ?_ ?_
    | with_reducible refine Keeps.foldl ?_ (fun t x ht => ?_)
    | with_reducible refine State.fwMod_keeps hP ?_
    | with_reducible refine State.selfTest_keeps hP ?_
    | with_reducible refine State.recordFormat_keeps hP ?_
    | with_reducible refine State.slotSt_keeps hP ?_
    | with_reducible refine State.setStandbyOk_keeps hP ?_
    | with_reducible refine State.event_keeps hP ?_

theorem execTrialLapse_keeps {a0 : _} {s : State} (h : P s) :
    ∀ t, execTrialLapse a0 s = .next t → P t := by
  unfold execTrialLapse
  refine Keeps.next ?_
  repeat' first
    | with_reducible assumption
    | with_reducible refine Keeps.ite ?_ ?_
    | with_reducible refine Keeps.foldl ?_ (fun t x ht => ?_)
    | with_reducible refine State.fallBack_keeps hP ?_
    | with_reducible refine State.askSignal_keeps hP ?_
    | with_reducible refine State.askReset_keeps hP ?_
    | with_reducible refine State.selfTest_keeps hP ?_
    | with_reducible refine State.switchTo_keeps hP ?_

theorem State.ownerKey_keeps {s : State} {a1 : _} {a2 : _} (h : P s) :
    P (State.ownerKey s a1 a2).2 := by
  unfold State.ownerKey
  repeat' first
    | with_reducible assumption
    | with_reducible refine Keeps.ite ?_ ?_
    | with_reducible refine Keeps.foldl ?_ (fun t x ht => ?_)
    | with_reducible refine State.sbMod_keeps hP ?_
    | with_reducible refine State.odPut_keeps hP ?_
    | with_reducible refine State.blobPut_keeps hP ?_
    | with_reducible refine Keeps.pair (by assumption) ?_
    | with_reducible refine Keeps.pair1 (by assumption) ?_
    | fail_if_no_progress with_reducible refine Keeps.mk hP ?_
    | split

theorem State.grantPut_keeps {s : State} {a1 : _} {a2 : _} {a3 : _} (h : P s) :
    P (State.grantPut s a1 a2 a3).2 := by
  unfold State.grantPut
  repeat' first
    | with_reducible assumption
    | with_reducible refine Keeps.ite ?_ ?_
    | with_reducible refine Keeps.foldl ?_ (fun t x ht => ?_)
    | with_reducible refine State.sbMod_keeps hP ?_
    | with_reducible refine Keeps.pair (by assumption) ?_
    | with_reducible refine Keeps.pair1 (by assumption) ?_
    | fail_if_no_progress with_reducible refine Keeps.mk hP ?_
    | split
    | dsimp only

theorem State.grantMin_keeps {s : State} {a1 : _} (h : P s) :
    P (State.grantMin s a1) := by
  unfold State.grantMin
  repeat' first
    | with_reducible assumption
    | with_reducible refine Keeps.ite ?_ ?_
    | with_reducible refine Keeps.foldl ?_ (fun t x ht => ?_)
    | with_reducible refine State.sbMod_keeps hP ?_
    | with_reducible refine State.odPut_keeps hP ?_

theorem State.licCert_keeps {s : State} {a1 : _} (h : P s) :
    P (State.licCert s a1).2 := by
  unfold State.licCert
  repeat' first
    | with_reducible assumption
    | with_reducible refine Keeps.ite ?_ ?_
    | with_reducible refine Keeps.foldl ?_ (fun t x ht => ?_)
    | with_reducible refine State.blobPut_keeps hP ?_
    | with_reducible refine Keeps.pair (by assumption) ?_
    | with_reducible refine Keeps.pair1 (by assumption) ?_
    | fail_if_no_progress with_reducible refine Keeps.mk hP ?_
    | split

theorem State.attest_keeps {s : State} {a1 : _} {a2 : _} (h : P s) :
    P (State.attest s a1 a2).2 := by
  unfold State.attest
  repeat' first
    | with_reducible assumption
    | with_reducible refine Keeps.ite ?_ ?_
    | with_reducible refine Keeps.foldl ?_ (fun t x ht => ?_)
    | with_reducible refine State.fwMod_keeps hP ?_
    | with_reducible refine Keeps.pair (by assumption) ?_
    | with_reducible refine Keeps.pair1 (by assumption) ?_
    | fail_if_no_progress with_reducible refine Keeps.mk hP ?_
    | split

end Sys2Proof.Machine
end

