-- ==== Sys2Proof/Laws/Keep/Dictionary.lean ====
section
/-! SUPPORT. Every operation of Machine/Dictionary.lean keeps a closed predicate (see Laws/Keep.lean). -/

namespace Sys2Proof.Machine

variable {P : State → Prop} (hP : Closed P)
include hP

theorem State.sbBump_keeps {s : State} {a1 : _} {a2 : _} (h : P s) :
    P (State.sbBump s a1 a2) := by
  unfold State.sbBump
  repeat' first
    | with_reducible assumption
    | with_reducible refine Keeps.ite ?_ ?_
    | with_reducible refine Keeps.foldl ?_ (fun t x ht => ?_)
    | with_reducible refine State.bump_keeps hP ?_

theorem State.orphanEvent_keeps {s : State} {a1 : _} {a2 : _} (h : P s) :
    P (State.orphanEvent s a1 a2) := by
  unfold State.orphanEvent
  repeat' first
    | with_reducible assumption
    | with_reducible refine Keeps.ite ?_ ?_
    | with_reducible refine Keeps.foldl ?_ (fun t x ht => ?_)
    | with_reducible refine State.event_keeps hP ?_

theorem State.orphanRelease_keeps {s : State} (h : P s) :
    P (State.orphanRelease s) := by
  unfold State.orphanRelease
  repeat' first
    | with_reducible assumption
    | with_reducible refine Keeps.ite ?_ ?_
    | with_reducible refine Keeps.foldl ?_ (fun t x ht => ?_)
    | with_reducible refine State.govMod_keeps hP ?_
    | with_reducible refine State.orphanEvent_keeps hP ?_
    | with_reducible refine State.fset_keeps hP ?_
    | with_reducible refine State.sbMod_keeps hP ?_

theorem odRefusable_keeps {a0 : _} (h0 : P a0.2) :
    P (odRefusable a0).2 := by
  exact h0

theorem State.thermClear_keeps {s : State} {a1 : _} (h : P s) :
    P (State.thermClear s a1).2 := by
  unfold State.thermClear
  repeat' first
    | with_reducible assumption
    | with_reducible refine Keeps.ite ?_ ?_
    | with_reducible refine Keeps.foldl ?_ (fun t x ht => ?_)
    | with_reducible refine State.flowStopClear_keeps hP ?_
    | with_reducible refine State.tripClear_keeps hP ?_
    | with_reducible refine Keeps.pair (by assumption) ?_
    | with_reducible refine Keeps.pair1 (by assumption) ?_
    | fail_if_no_progress with_reducible refine Keeps.mk hP ?_
    | split

theorem State.odRelease_keeps {s : State} {a1 : _} {a2 : _} (h : P s) :
    P (State.odRelease s a1 a2).2 := by
  unfold State.odRelease
  repeat' first
    | with_reducible assumption
    | with_reducible refine Keeps.ite ?_ ?_
    | with_reducible refine Keeps.foldl ?_ (fun t x ht => ?_)
    | with_reducible refine State.orphanRelease_keeps hP ?_
    | with_reducible refine Keeps.pair (by assumption) ?_
    | with_reducible refine Keeps.pair1 (by assumption) ?_
    | fail_if_no_progress with_reducible refine Keeps.mk hP ?_
    | split

theorem State.odApply_keeps {s : State} {a1 : _} {a2 : _} {a3 : _} {a4 : _} {a5 : _} (h : P s) :
    P (State.odApply s a1 a2 a3 a4 a5).2 := by
  unfold State.odApply
  dsimp only
  repeat' first
    | with_reducible assumption
    | with_reducible refine Keeps.iteC ?_ ?_
    | with_reducible exact State.odPut_keeps hP h
    | with_reducible exact State.odRelease_keeps hP h
    | with_reducible exact State.acceptReduced_keeps hP h
    | with_reducible exact odRefusable_keeps hP (State.topoAccept_keeps hP h)
    | with_reducible exact State.geometryExpect_keeps hP h
    | with_reducible exact State.bgEnable_keeps hP h
    | with_reducible exact State.thMod_keeps hP (State.odPut_keeps hP h)
    | with_reducible exact odRefusable_keeps hP (State.guardClear_keeps hP h)
    | with_reducible exact State.thermClear_keeps hP h
    | with_reducible exact State.trayNo_keeps hP h
    | with_reducible exact odRefusable_keeps hP (State.dieMarks_keeps hP h)
    | with_reducible exact odRefusable_keeps hP (State.softwareClear_keeps hP h)
    | with_reducible exact odRefusable_keeps hP (State.faultAck_keeps hP h)
    | with_reducible exact Keeps.ite (State.recoveriesReset_keeps hP h) h
    | with_reducible exact Keeps.ite (State.odPut_keeps hP h) (State.fset_keeps hP (State.odPut_keeps hP h))
    | with_reducible exact State.ilMod_keeps hP (State.odPut_keeps hP h)
    | with_reducible exact State.requestReset_keeps hP h
    | with_reducible exact State.fwAbort_keeps hP h
    | with_reducible exact State.fwActivate_keeps hP h
    | with_reducible exact State.grantMin_keeps hP h
    | with_reducible exact Keeps.ite (State.coastOff_keeps hP (State.odPut_keeps hP h)) (State.odPut_keeps hP h)
    | with_reducible exact State.remap_keeps hP (State.odPut_keeps hP h)
    | (have h1 := State.armRtime_keeps hP (a1 := a5) h
       generalize s.armRtime a5 = e at h1 ⊢
       obtain ⟨b, t⟩ := e
       cases b <;> exact h1)
    | split

theorem State.odApplyBlob_keeps {s : State} {a1 : _} {a2 : _} {a3 : _} {a4 : _} {a5 : _} (h : P s) :
    P (State.odApplyBlob s a1 a2 a3 a4 a5).2 := by
  unfold State.odApplyBlob
  repeat' first
    | with_reducible assumption
    | with_reducible refine Keeps.ite ?_ ?_
    | with_reducible refine Keeps.foldl ?_ (fun t x ht => ?_)
    | with_reducible refine State.fwHeader_keeps hP ?_
    | with_reducible refine State.ownerKey_keeps hP ?_
    | with_reducible refine State.grantPut_keeps hP ?_
    | with_reducible refine State.attest_keeps hP ?_
    | with_reducible refine State.licCert_keeps hP ?_
    | with_reducible refine odRefusable_keeps hP ?_
    | with_reducible refine State.licInstall_keeps hP ?_
    | with_reducible refine State.fwChunk_keeps hP ?_
    | with_reducible refine State.blobPut_keeps hP ?_
    | with_reducible refine Keeps.pair (by assumption) ?_
    | with_reducible refine Keeps.pair1 (by assumption) ?_
    | fail_if_no_progress with_reducible refine Keeps.mk hP ?_
    | split

theorem State.stage_keeps {s : State} {a1 : _} {a2 : _} (h : P s) :
    P (State.stage s a1 a2) := by
  unfold State.stage
  repeat' first
    | with_reducible assumption
    | with_reducible refine Keeps.ite ?_ ?_
    | with_reducible refine Keeps.foldl ?_ (fun t x ht => ?_)
    | with_reducible refine State.sbMod_keeps hP ?_

theorem State.genBump_keeps {s : State} {a1 : _} (h : P s) : P (State.genBump s a1) := hP.gens h _ _

theorem State.seenPut_keeps {s : State} {a1 : _} {a2 : _} {a3 : _} (h : P s) :
    P (State.seenPut s a1 a2 a3) := by
  unfold State.seenPut
  repeat' first
    | with_reducible assumption
    | with_reducible refine Keeps.ite ?_ ?_
    | with_reducible refine Keeps.iteC ?_ ?_
    | with_reducible refine Keeps.foldl ?_ (fun t x ht => ?_)
    | with_reducible refine State.sbMod_keeps hP ?_

theorem State.genFollow_keeps {s : State} {a1 : _} {a2 : _} {a3 : _} (h : P s) :
    P (State.genFollow s a1 a2 a3) := by
  unfold State.genFollow
  repeat' first
    | with_reducible assumption
    | with_reducible refine Keeps.ite ?_ ?_
    | with_reducible refine Keeps.iteC ?_ ?_
    | with_reducible refine Keeps.foldl ?_ (fun t x ht => ?_)
    | with_reducible refine State.genBump_keeps hP ?_
    | with_reducible refine State.seenPut_keeps hP ?_
    | with_reducible refine Keeps.pair (by assumption) ?_
    | with_reducible refine Keeps.pair1 (by assumption) ?_
    | fail_if_no_progress with_reducible refine Keeps.mk hP ?_
    | split

theorem State.odCommit_keeps {s : State} {a1 : _} {a2 : _} {a3 : _} {a4 : _} (h : P s) (h4 : P a4.2) :
    P (State.odCommit s a1 a2 a3 a4).2 := by
  unfold State.odCommit
  have hc : P (((a4.2.genBump a3).seenPut 0 a3 none).seenPut 1 a3 none) :=
    State.seenPut_keeps hP (State.seenPut_keeps hP (State.genBump_keeps hP h4))
  exact Keeps.iteC h4 (Keeps.iteC h (Keeps.ite (State.fwMod_keeps hP hc) hc))

theorem odGoverns_keeps {a0 : _} {a1 : _} (h1 : P a1.2) :
    P (odGoverns a0 a1).2 :=
  Keeps.iteC (State.govEntries_keeps hP h1) h1

theorem State.odWrite_keeps {s : State} {a1 : _} {a2 : _} {a3 : _} {a4 : _} (h : P s) :
    P (State.odWrite s a1 a2 a3 a4).2 := by
  unfold State.odWrite
  refine Keeps.iteC ?_ ?_
  · dsimp only
    refine Keeps.iteC h ?_
    generalize (match a4.range with | some g => !g.holds (leNat a1.value) | none => false) = b
    exact Keeps.iteC h (State.odCommit_keeps hP h (odGoverns_keeps hP (State.odApply_keeps hP h)))
  · split
    · exact State.stage_keeps hP h
    · refine Keeps.iteC (State.stage_keeps hP h) ?_
      exact State.odCommit_keeps hP (State.stage_keeps hP h) (State.odApplyBlob_keeps hP (State.stage_keeps hP h))

theorem State.odServe_keeps {s : State} {a1 : _} {a2 : _} (h : P s) :
    P (State.odServe s a1 a2).2.2 := by
  unfold State.odServe
  dsimp only
  refine Keeps.iteB (State.sbBump_keeps hP h) ?_
  cases s.odLevel a1 with
  | none => exact h
  | some lv =>
    dsimp only
    cases odFind a1.key with
    | none => exact h
    | some r =>
      dsimp only
      refine Keeps.iteB h (Keeps.iteB h (Keeps.iteB ?_ (Keeps.iteB h (Keeps.iteB h (Keeps.ite (State.genFollow_keeps hP h) h)))))
      refine Keeps.iteB h ?_
      exact State.odWrite_keeps hP h

theorem State.hello_keeps {s : State} {a1 : _} (h : P s) :
    P (State.hello s a1).2.2 := by
  unfold State.hello
  refine Keeps.iteB h ?_
  refine Keeps.ite (State.orphanEvent_keeps hP ?_) ?_ <;> exact State.sbMod_keeps hP h

theorem State.heartbeat_keeps {s : State} {a1 : _} (h : P s) :
    P (State.heartbeat s a1).2.2 := by
  unfold State.heartbeat
  repeat' first
    | with_reducible assumption
    | with_reducible refine Keeps.ite ?_ ?_
    | with_reducible refine Keeps.foldl ?_ (fun t x ht => ?_)
    | with_reducible refine Keeps.pair (by assumption) ?_
    | with_reducible refine Keeps.pair1 (by assumption) ?_
    | fail_if_no_progress with_reducible refine Keeps.mk hP ?_
    | split

theorem State.odKeep_keeps {s : State} {a1 : _} {a2 : _} (h : P s) :
    P (State.odKeep s a1 a2) := by
  unfold State.odKeep
  repeat' first
    | with_reducible assumption
    | with_reducible refine Keeps.ite ?_ ?_
    | with_reducible refine Keeps.foldl ?_ (fun t x ht => ?_)
    | with_reducible refine State.sbMod_keeps hP ?_

theorem State.noticesSend_keeps {s : State} (h : P s) :
    P (State.noticesSend s) := by
  unfold State.noticesSend
  repeat' first
    | with_reducible assumption
    | with_reducible refine Keeps.ite ?_ ?_
    | with_reducible refine Keeps.iteC ?_ ?_
    | with_reducible refine Keeps.foldl ?_ (fun t x ht => ?_)
    | with_reducible refine Keeps.foldl2 ?_ (fun b t x ht => ?_)
    | with_reducible refine State.noticeSend_keeps hP ?_

theorem State.noticeAck_keeps {s : State} {a1 : _} (h : P s) :
    P (State.noticeAck s a1) := by
  unfold State.noticeAck
  repeat' first
    | with_reducible assumption
    | with_reducible refine Keeps.ite ?_ ?_
    | with_reducible refine Keeps.iteC ?_ ?_
    | with_reducible refine Keeps.foldl ?_ (fun t x ht => ?_)
    | with_reducible refine Keeps.pair (by assumption) ?_
    | with_reducible refine Keeps.pair1 (by assumption) ?_
    | fail_if_no_progress with_reducible refine Keeps.mk hP ?_

theorem State.odTake_keeps {s : State} {a1 : _} {a2 : _} (h : P s) :
    P (State.odTake s a1 a2) := by
  unfold State.odTake
  repeat' first
    | with_reducible assumption
    | with_reducible refine Keeps.ite ?_ ?_
    | with_reducible refine Keeps.iteC ?_ ?_
    | with_reducible refine Keeps.foldl ?_ (fun t x ht => ?_)
    | with_reducible refine State.odKeep_keeps hP ?_
    | with_reducible refine State.odServe_keeps hP ?_
    | with_reducible refine State.heartbeat_keeps hP ?_
    | with_reducible refine State.odSend_keeps hP ?_
    | with_reducible refine State.noticesSend_keeps hP ?_
    | with_reducible refine State.hello_keeps hP ?_
    | with_reducible refine Keeps.last (by assumption) ?_
    | with_reducible refine Keeps.pair (by assumption) ?_
    | with_reducible refine Keeps.pair1 (by assumption) ?_
    | fail_if_no_progress with_reducible refine Keeps.mk hP ?_
    | split

theorem State.odNext_keeps {s : State} (h : P s) :
    P (State.odNext s) := by
  unfold State.odNext
  repeat' first
    | with_reducible assumption
    | with_reducible refine Keeps.ite ?_ ?_
    | with_reducible refine Keeps.iteC ?_ ?_
    | with_reducible refine Keeps.foldl ?_ (fun t x ht => ?_)
    | with_reducible refine State.odTake_keeps hP ?_
    | with_reducible refine State.sbMod_keeps hP ?_
    | with_reducible refine Keeps.pair (by assumption) ?_
    | with_reducible refine Keeps.pair1 (by assumption) ?_
    | fail_if_no_progress with_reducible refine Keeps.mk hP ?_
    | split

theorem State.odServeN_keeps {a0 : _} {s : State} (h : P s) :
    P (State.odServeN a0 s) := by
  induction a0 generalizing s
  · simp only [State.odServeN]
    repeat' first
      | with_reducible assumption
  · rename_i ih
    simp only [State.odServeN]
    repeat' first
      | with_reducible assumption
      | with_reducible refine Keeps.ite ?_ ?_
      | with_reducible refine Keeps.iteC ?_ ?_
      | with_reducible refine Keeps.foldl ?_ (fun t x ht => ?_)
      | with_reducible refine State.odNext_keeps hP ?_
      | with_reducible refine ih ?_

theorem State.odDrain_keeps {s : State} (h : P s) :
    P (State.odDrain s) := by
  unfold State.odDrain
  repeat' first
    | with_reducible assumption
    | with_reducible refine Keeps.ite ?_ ?_
    | with_reducible refine Keeps.iteC ?_ ?_
    | with_reducible refine Keeps.foldl ?_ (fun t x ht => ?_)
    | with_reducible refine State.odServeN_keeps hP ?_

theorem State.odHandle_keeps {s : State} {a1 : _} {a2 : _} {a3 : _} {a4 : _} (h : P s) :
    P (State.odHandle s a1 a2 a3 a4) := by
  unfold State.odHandle
  repeat' first
    | with_reducible assumption
    | with_reducible refine Keeps.ite ?_ ?_
    | with_reducible refine Keeps.iteC ?_ ?_
    | with_reducible refine Keeps.foldl ?_ (fun t x ht => ?_)
    | with_reducible refine State.sbBump_keeps hP ?_
    | with_reducible refine State.odSend_keeps hP ?_
    | with_reducible refine State.noticeAck_keeps hP ?_
    | with_reducible refine State.sbMod_keeps hP ?_
    | with_reducible refine State.odDrain_keeps hP ?_
    | with_reducible refine Keeps.pair (by assumption) ?_
    | with_reducible refine Keeps.pair1 (by assumption) ?_
    | fail_if_no_progress with_reducible refine Keeps.mk hP ?_
    | split

theorem State.odRow_keeps {s : State} {a1 : _} {a2 : _} {a3 : _} (h : P s) :
    P (State.odRow s a1 a2 a3) := by
  unfold State.odRow
  repeat' first
    | with_reducible assumption
    | with_reducible refine Keeps.ite ?_ ?_
    | with_reducible refine Keeps.iteC ?_ ?_
    | with_reducible refine Keeps.foldl ?_ (fun t x ht => ?_)
    | with_reducible refine State.odHandle_keeps hP ?_
    | with_reducible refine State.pump_keeps hP ?_
    | with_reducible refine State.odSend_keeps hP ?_
    | with_reducible refine State.rxFlit_keeps hP ?_
    | with_reducible refine State.gather_keeps hP ?_
    | with_reducible refine Keeps.pair (by assumption) ?_
    | with_reducible refine Keeps.pair1 (by assumption) ?_
    | fail_if_no_progress with_reducible refine Keeps.mk hP ?_
    | split

theorem execOdRead_keeps {a0 : _} {a1 : _} {s : State} (h : P s) :
    ∀ t, execOdRead a0 a1 s = .next t → P t := by
  unfold execOdRead
  refine Keeps.next ?_
  repeat' first
    | with_reducible assumption
    | with_reducible refine Keeps.ite ?_ ?_
    | with_reducible refine Keeps.foldl ?_ (fun t x ht => ?_)
    | with_reducible refine State.odRow_keeps hP ?_

theorem execOdWrite_keeps {a0 : _} {a1 : _} {s : State} (h : P s) :
    ∀ t, execOdWrite a0 a1 s = .next t → P t := by
  unfold execOdWrite
  refine Keeps.next ?_
  repeat' first
    | with_reducible assumption
    | with_reducible refine Keeps.ite ?_ ?_
    | with_reducible refine Keeps.foldl ?_ (fun t x ht => ?_)
    | with_reducible refine State.odRow_keeps hP ?_

theorem execOdInfo_keeps {a0 : _} {a1 : _} {s : State} (h : P s) :
    ∀ t, execOdInfo a0 a1 s = .next t → P t := by
  unfold execOdInfo
  refine Keeps.next ?_
  repeat' first
    | with_reducible assumption
    | with_reducible refine Keeps.ite ?_ ?_
    | with_reducible refine Keeps.foldl ?_ (fun t x ht => ?_)
    | with_reducible refine State.odRow_keeps hP ?_

theorem execHello_keeps {a0 : _} {a1 : _} {s : State} (h : P s) :
    ∀ t, execHello a0 a1 s = .next t → P t := by
  unfold execHello
  refine Keeps.next ?_
  repeat' first
    | with_reducible assumption
    | with_reducible refine Keeps.ite ?_ ?_
    | with_reducible refine Keeps.foldl ?_ (fun t x ht => ?_)
    | with_reducible refine State.odRow_keeps hP ?_

theorem execHeartbeat_keeps {a0 : _} {a1 : _} {s : State} (h : P s) :
    ∀ t, execHeartbeat a0 a1 s = .next t → P t := by
  unfold execHeartbeat
  refine Keeps.next ?_
  repeat' first
    | with_reducible assumption
    | with_reducible refine Keeps.ite ?_ ?_
    | with_reducible refine Keeps.foldl ?_ (fun t x ht => ?_)
    | with_reducible refine State.odRow_keeps hP ?_

theorem execNoticeAck_keeps {a0 : _} {a1 : _} {s : State} (h : P s) :
    ∀ t, execNoticeAck a0 a1 s = .next t → P t := by
  unfold execNoticeAck
  refine Keeps.next ?_
  repeat' first
    | with_reducible assumption
    | with_reducible refine Keeps.ite ?_ ?_
    | with_reducible refine Keeps.foldl ?_ (fun t x ht => ?_)
    | with_reducible refine State.odRow_keeps hP ?_

theorem execRtimeNext_keeps {a0 : _} {a1 : _} {s : State} (h : P s) :
    ∀ t, execRtimeNext a0 a1 s = .next t → P t := by
  unfold execRtimeNext
  refine Keeps.next ?_
  repeat' first
    | with_reducible assumption
    | with_reducible refine Keeps.ite ?_ ?_
    | with_reducible refine Keeps.foldl ?_ (fun t x ht => ?_)
    | with_reducible refine State.odRow_keeps hP ?_

theorem execFlowStopClear_keeps {a0 : _} {a1 : _} {s : State} (h : P s) :
    ∀ t, execFlowStopClear a0 a1 s = .next t → P t := by
  unfold execFlowStopClear
  refine Keeps.next ?_
  repeat' first
    | with_reducible assumption
    | with_reducible refine Keeps.ite ?_ ?_
    | with_reducible refine Keeps.foldl ?_ (fun t x ht => ?_)
    | with_reducible refine State.odRow_keeps hP ?_

theorem execTripClear_keeps {a0 : _} {a1 : _} {s : State} (h : P s) :
    ∀ t, execTripClear a0 a1 s = .next t → P t := by
  unfold execTripClear
  refine Keeps.next ?_
  repeat' first
    | with_reducible assumption
    | with_reducible refine Keeps.ite ?_ ?_
    | with_reducible refine Keeps.foldl ?_ (fun t x ht => ?_)
    | with_reducible refine State.odRow_keeps hP ?_

theorem execGuardClear_keeps {a0 : _} {a1 : _} {s : State} (h : P s) :
    ∀ t, execGuardClear a0 a1 s = .next t → P t := by
  unfold execGuardClear
  refine Keeps.next ?_
  repeat' first
    | with_reducible assumption
    | with_reducible refine Keeps.ite ?_ ?_
    | with_reducible refine Keeps.foldl ?_ (fun t x ht => ?_)
    | with_reducible refine State.odRow_keeps hP ?_

theorem execFaultAck_keeps {a0 : _} {a1 : _} {s : State} (h : P s) :
    ∀ t, execFaultAck a0 a1 s = .next t → P t := by
  unfold execFaultAck
  refine Keeps.next ?_
  repeat' first
    | with_reducible assumption
    | with_reducible refine Keeps.ite ?_ ?_
    | with_reducible refine Keeps.foldl ?_ (fun t x ht => ?_)
    | with_reducible refine State.odRow_keeps hP ?_

theorem execFaultClear_keeps {a0 : _} {a1 : _} {s : State} (h : P s) :
    ∀ t, execFaultClear a0 a1 s = .next t → P t := by
  unfold execFaultClear
  refine Keeps.next ?_
  repeat' first
    | with_reducible assumption
    | with_reducible refine Keeps.ite ?_ ?_
    | with_reducible refine Keeps.foldl ?_ (fun t x ht => ?_)
    | with_reducible refine State.odRow_keeps hP ?_

theorem execRecoveriesReset_keeps {a0 : _} {a1 : _} {s : State} (h : P s) :
    ∀ t, execRecoveriesReset a0 a1 s = .next t → P t := by
  unfold execRecoveriesReset
  refine Keeps.next ?_
  repeat' first
    | with_reducible assumption
    | with_reducible refine Keeps.ite ?_ ?_
    | with_reducible refine Keeps.foldl ?_ (fun t x ht => ?_)
    | with_reducible refine State.odRow_keeps hP ?_

theorem execAcceptReduced_keeps {a0 : _} {a1 : _} {s : State} (h : P s) :
    ∀ t, execAcceptReduced a0 a1 s = .next t → P t := by
  unfold execAcceptReduced
  refine Keeps.next ?_
  repeat' first
    | with_reducible assumption
    | with_reducible refine Keeps.ite ?_ ?_
    | with_reducible refine Keeps.foldl ?_ (fun t x ht => ?_)
    | with_reducible refine State.odRow_keeps hP ?_

theorem execTopoAccept_keeps {a0 : _} {a1 : _} {s : State} (h : P s) :
    ∀ t, execTopoAccept a0 a1 s = .next t → P t := by
  unfold execTopoAccept
  refine Keeps.next ?_
  repeat' first
    | with_reducible assumption
    | with_reducible refine Keeps.ite ?_ ?_
    | with_reducible refine Keeps.foldl ?_ (fun t x ht => ?_)
    | with_reducible refine State.odRow_keeps hP ?_

theorem execGeometryExpect_keeps {a0 : _} {a1 : _} {s : State} (h : P s) :
    ∀ t, execGeometryExpect a0 a1 s = .next t → P t := by
  unfold execGeometryExpect
  refine Keeps.next ?_
  repeat' first
    | with_reducible assumption
    | with_reducible refine Keeps.ite ?_ ?_
    | with_reducible refine Keeps.foldl ?_ (fun t x ht => ?_)
    | with_reducible refine State.odRow_keeps hP ?_

theorem execTrayNo_keeps {a0 : _} {a1 : _} {s : State} (h : P s) :
    ∀ t, execTrayNo a0 a1 s = .next t → P t := by
  unfold execTrayNo
  refine Keeps.next ?_
  repeat' first
    | with_reducible assumption
    | with_reducible refine Keeps.ite ?_ ?_
    | with_reducible refine Keeps.foldl ?_ (fun t x ht => ?_)
    | with_reducible refine State.odRow_keeps hP ?_

theorem execBgtestEn_keeps {a0 : _} {a1 : _} {s : State} (h : P s) :
    ∀ t, execBgtestEn a0 a1 s = .next t → P t := by
  unfold execBgtestEn
  refine Keeps.next ?_
  repeat' first
    | with_reducible assumption
    | with_reducible refine Keeps.ite ?_ ?_
    | with_reducible refine Keeps.foldl ?_ (fun t x ht => ?_)
    | with_reducible refine State.odRow_keeps hP ?_

theorem execLicence_keeps {a0 : _} {a1 : _} {s : State} (h : P s) :
    ∀ t, execLicence a0 a1 s = .next t → P t := by
  unfold execLicence
  refine Keeps.next ?_
  repeat' first
    | with_reducible assumption
    | with_reducible refine Keeps.ite ?_ ?_
    | with_reducible refine Keeps.foldl ?_ (fun t x ht => ?_)
    | with_reducible refine State.odRow_keeps hP ?_

theorem execDieMarks_keeps {a0 : _} {a1 : _} {s : State} (h : P s) :
    ∀ t, execDieMarks a0 a1 s = .next t → P t := by
  unfold execDieMarks
  refine Keeps.next ?_
  repeat' first
    | with_reducible assumption
    | with_reducible refine Keeps.ite ?_ ?_
    | with_reducible refine Keeps.foldl ?_ (fun t x ht => ?_)
    | with_reducible refine State.odRow_keeps hP ?_

theorem execFwHeader_keeps {a0 : _} {a1 : _} {s : State} (h : P s) :
    ∀ t, execFwHeader a0 a1 s = .next t → P t := by
  unfold execFwHeader
  refine Keeps.next ?_
  repeat' first
    | with_reducible assumption
    | with_reducible refine Keeps.ite ?_ ?_
    | with_reducible refine Keeps.foldl ?_ (fun t x ht => ?_)
    | with_reducible refine State.odRow_keeps hP ?_

theorem execFwChunk_keeps {a0 : _} {a1 : _} {s : State} (h : P s) :
    ∀ t, execFwChunk a0 a1 s = .next t → P t := by
  unfold execFwChunk
  refine Keeps.next ?_
  repeat' first
    | with_reducible assumption
    | with_reducible refine Keeps.ite ?_ ?_
    | with_reducible refine Keeps.foldl ?_ (fun t x ht => ?_)
    | with_reducible refine State.odRow_keeps hP ?_

theorem execFwAbort_keeps {a0 : _} {a1 : _} {s : State} (h : P s) :
    ∀ t, execFwAbort a0 a1 s = .next t → P t := by
  unfold execFwAbort
  refine Keeps.next ?_
  repeat' first
    | with_reducible assumption
    | with_reducible refine Keeps.ite ?_ ?_
    | with_reducible refine Keeps.foldl ?_ (fun t x ht => ?_)
    | with_reducible refine State.odRow_keeps hP ?_

theorem execActivateSignal_keeps {a0 : _} {a1 : _} {s : State} (h : P s) :
    ∀ t, execActivateSignal a0 a1 s = .next t → P t := by
  unfold execActivateSignal
  refine Keeps.next ?_
  repeat' first
    | with_reducible assumption
    | with_reducible refine Keeps.ite ?_ ?_
    | with_reducible refine Keeps.foldl ?_ (fun t x ht => ?_)
    | with_reducible refine State.odRow_keeps hP ?_

theorem execActivateLine_keeps {a0 : _} {a1 : _} {s : State} (h : P s) :
    ∀ t, execActivateLine a0 a1 s = .next t → P t := by
  unfold execActivateLine
  refine Keeps.next ?_
  repeat' first
    | with_reducible assumption
    | with_reducible refine Keeps.ite ?_ ?_
    | with_reducible refine Keeps.foldl ?_ (fun t x ht => ?_)
    | with_reducible refine State.odRow_keeps hP ?_

theorem execActivateRuntime_keeps {a0 : _} {a1 : _} {s : State} (h : P s) :
    ∀ t, execActivateRuntime a0 a1 s = .next t → P t := by
  unfold execActivateRuntime
  refine Keeps.next ?_
  repeat' first
    | with_reducible assumption
    | with_reducible refine Keeps.ite ?_ ?_
    | with_reducible refine Keeps.foldl ?_ (fun t x ht => ?_)
    | with_reducible refine State.odRow_keeps hP ?_

theorem execAttestNonce_keeps {a0 : _} {a1 : _} {s : State} (h : P s) :
    ∀ t, execAttestNonce a0 a1 s = .next t → P t := by
  unfold execAttestNonce
  refine Keeps.next ?_
  repeat' first
    | with_reducible assumption
    | with_reducible refine Keeps.ite ?_ ?_
    | with_reducible refine Keeps.foldl ?_ (fun t x ht => ?_)
    | with_reducible refine State.odRow_keeps hP ?_

theorem execOwnerKey_keeps {a0 : _} {a1 : _} {s : State} (h : P s) :
    ∀ t, execOwnerKey a0 a1 s = .next t → P t := by
  unfold execOwnerKey
  refine Keeps.next ?_
  repeat' first
    | with_reducible assumption
    | with_reducible refine Keeps.ite ?_ ?_
    | with_reducible refine Keeps.foldl ?_ (fun t x ht => ?_)
    | with_reducible refine State.odRow_keeps hP ?_

theorem execGrant_keeps {a0 : _} {a1 : _} {s : State} (h : P s) :
    ∀ t, execGrant a0 a1 s = .next t → P t := by
  unfold execGrant
  refine Keeps.next ?_
  repeat' first
    | with_reducible assumption
    | with_reducible refine Keeps.ite ?_ ?_
    | with_reducible refine Keeps.foldl ?_ (fun t x ht => ?_)
    | with_reducible refine State.odRow_keeps hP ?_

theorem execGrantMinSeq_keeps {a0 : _} {a1 : _} {s : State} (h : P s) :
    ∀ t, execGrantMinSeq a0 a1 s = .next t → P t := by
  unfold execGrantMinSeq
  refine Keeps.next ?_
  repeat' first
    | with_reducible assumption
    | with_reducible refine Keeps.ite ?_ ?_
    | with_reducible refine Keeps.foldl ?_ (fun t x ht => ?_)
    | with_reducible refine State.odRow_keeps hP ?_

theorem execLicenceKeyCert_keeps {a0 : _} {a1 : _} {s : State} (h : P s) :
    ∀ t, execLicenceKeyCert a0 a1 s = .next t → P t := by
  unfold execLicenceKeyCert
  refine Keeps.next ?_
  repeat' first
    | with_reducible assumption
    | with_reducible refine Keeps.ite ?_ ?_
    | with_reducible refine Keeps.foldl ?_ (fun t x ht => ?_)
    | with_reducible refine State.odRow_keeps hP ?_

theorem execOrphanRelease_keeps {a0 : _} {a1 : _} {s : State} (h : P s) :
    ∀ t, execOrphanRelease a0 a1 s = .next t → P t := by
  unfold execOrphanRelease
  refine Keeps.next ?_
  repeat' first
    | with_reducible assumption
    | with_reducible refine Keeps.ite ?_ ?_
    | with_reducible refine Keeps.foldl ?_ (fun t x ht => ?_)
    | with_reducible refine State.odRow_keeps hP ?_

theorem execNoticeResend_keeps {s : State} (h : P s) :
    ∀ t, execNoticeResend s = .next t → P t := by
  unfold execNoticeResend
  refine Keeps.next ?_
  repeat' first
    | with_reducible assumption
    | with_reducible refine Keeps.ite ?_ ?_
    | with_reducible refine Keeps.foldl ?_ (fun t x ht => ?_)
    | with_reducible refine State.noticesSend_keeps hP ?_

theorem execSegmentTimeout_keeps {a0 : _} {s : State} (h : P s) :
    ∀ t, execSegmentTimeout a0 s = .next t → P t := by
  unfold execSegmentTimeout
  refine Keeps.next ?_
  repeat' first
    | with_reducible assumption
    | with_reducible refine Keeps.ite ?_ ?_
    | with_reducible refine Keeps.foldl ?_ (fun t x ht => ?_)
    | with_reducible refine State.stage_keeps hP ?_

theorem execOrphanTimeout_keeps {s : State} (h : P s) :
    ∀ t, execOrphanTimeout s = .next t → P t := by
  unfold execOrphanTimeout
  refine Keeps.next ?_
  repeat' first
    | with_reducible assumption
    | with_reducible refine Keeps.ite ?_ ?_
    | with_reducible refine Keeps.foldl ?_ (fun t x ht => ?_)
    | with_reducible refine State.govMod_keeps hP ?_
    | with_reducible refine State.fset_keeps hP ?_
    | with_reducible refine State.sbMod_keeps hP ?_
    | with_reducible refine State.orphanEvent_keeps hP ?_
    | with_reducible refine State.sbBump_keeps hP ?_

theorem execIcmpv6Echo_keeps {a0 : _} {a1 : _} {a2 : _} {a3 : _} {s : State} (h : P s) :
    ∀ t, execIcmpv6Echo a0 a1 a2 a3 s = .next t → P t := by
  unfold execIcmpv6Echo
  refine Keeps.next ?_
  repeat' first
    | with_reducible assumption
    | with_reducible refine Keeps.ite ?_ ?_
    | with_reducible refine Keeps.iteC ?_ ?_
    | with_reducible refine Keeps.foldl ?_ (fun t x ht => ?_)
    | with_reducible refine State.fieldSend_keeps hP ?_

theorem execNeighborSolicitation_keeps {a0 : _} {a1 : _} {s : State} (h : P s) :
    ∀ t, execNeighborSolicitation a0 a1 s = .next t → P t := by
  unfold execNeighborSolicitation
  refine Keeps.next ?_
  repeat' first
    | with_reducible assumption
    | with_reducible refine Keeps.ite ?_ ?_
    | with_reducible refine Keeps.iteC ?_ ?_
    | with_reducible refine Keeps.foldl ?_ (fun t x ht => ?_)
    | with_reducible refine State.fieldSend_keeps hP ?_
    | with_reducible refine State.sbMod_keeps hP ?_

theorem State.odDefaults_keeps {s : State} (h : P s) :
    P (State.odDefaults s) := by
  unfold State.odDefaults
  repeat' first
    | with_reducible assumption
    | with_reducible refine Keeps.ite ?_ ?_
    | with_reducible refine Keeps.foldl ?_ (fun t x ht => ?_)
    | with_reducible refine State.govMod_keeps hP ?_
    | with_reducible refine State.thMod_keeps hP ?_
    | with_reducible refine State.fset_keeps hP ?_
    | (refine hP.frame (hP.dictFilter ?_ _) rfl rfl rfl rfl rfl rfl rfl rfl rfl rfl rfl)

theorem State.noticesDue_keeps {s : State} (h : P s) :
    P (State.noticesDue s) := by
  unfold State.noticesDue
  repeat' first
    | with_reducible assumption
    | with_reducible refine Keeps.ite ?_ ?_
    | with_reducible refine State.notice_keeps hP ?_

theorem execSignalResetExit_keeps {s : State} (h : P s) :
    ∀ t, execSignalResetExit s = .next t → P t := by
  unfold execSignalResetExit
  refine Keeps.next ?_
  repeat' first
    | with_reducible assumption
    | with_reducible refine Keeps.ite ?_ ?_
    | with_reducible refine Keeps.iteC ?_ ?_
    | with_reducible refine Keeps.foldl ?_ (fun t x ht => ?_)
    | with_reducible refine State.imageMeasured_keeps hP ?_
    | with_reducible refine State.pathsJudged_keeps hP ?_
    | with_reducible refine State.noticesDue_keeps hP ?_
    | with_reducible refine State.licAgain_keeps hP ?_
    | with_reducible refine State.odDefaults_keeps hP ?_
    | with_reducible refine State.ilMod_keeps hP ?_
    | with_reducible refine State.domMod_keeps hP ?_
    | with_reducible refine State.sbMod_keeps hP ?_
    | with_reducible refine State.event_keeps hP ?_
    | with_reducible refine State.csrPut_keeps hP ?_
    | with_reducible refine Keeps.pair (by assumption) ?_
    | with_reducible refine Keeps.pair1 (by assumption) ?_
    | fail_if_no_progress with_reducible refine Keeps.mk hP ?_

end Sys2Proof.Machine
end

