-- ==== Sys2Proof/Laws/Keep/I3c.lean ====
section
/-! SUPPORT. Every operation of Machine/I3c.lean keeps a closed predicate (see Laws/Keep.lean). -/

namespace Sys2Proof.Machine

variable {P : State → Prop} (hP : Closed P)
include hP

theorem State.i3cMod_keeps {s : State} {a1 : _} (h : P s) :
    P (State.i3cMod s a1) := by
  unfold State.i3cMod
  repeat' first
    | with_reducible assumption
    | with_reducible refine Keeps.ite ?_ ?_
    | with_reducible refine Keeps.foldl ?_ (fun t x ht => ?_)
    | with_reducible refine Keeps.pair (by assumption) ?_
    | with_reducible refine Keeps.pair1 (by assumption) ?_
    | fail_if_no_progress with_reducible refine Keeps.mk hP ?_

theorem State.cccAnswer_keeps {s : State} {a1 : _} {a2 : _} (h : P s) :
    P (State.cccAnswer s a1 a2) := by
  unfold State.cccAnswer
  repeat' first
    | with_reducible assumption
    | with_reducible refine Keeps.ite ?_ ?_
    | with_reducible refine Keeps.foldl ?_ (fun t x ht => ?_)
    | with_reducible refine State.i3cMod_keeps hP ?_

theorem execMirrorRefresh_keeps {s : State} (h : P s) :
    ∀ t, execMirrorRefresh s = .next t → P t := by
  unfold execMirrorRefresh
  refine Keeps.next ?_
  repeat' first
    | with_reducible assumption
    | with_reducible refine Keeps.ite ?_ ?_
    | with_reducible refine Keeps.foldl ?_ (fun t x ht => ?_)
    | with_reducible refine State.i3cMod_keeps hP ?_

theorem execIbiRetry_keeps {s : State} (h : P s) :
    ∀ t, execIbiRetry s = .next t → P t := by
  unfold execIbiRetry
  refine Keeps.next ?_
  repeat' first
    | with_reducible assumption
    | with_reducible refine Keeps.ite ?_ ?_
    | with_reducible refine Keeps.foldl ?_ (fun t x ht => ?_)
    | with_reducible refine State.i3cMod_keeps hP ?_

theorem execI3cPrivateWrite_keeps {a0 : _} {a1 : _} {s : State} (h : P s) :
    ∀ t, execI3cPrivateWrite a0 a1 s = .next t → P t := by
  unfold execI3cPrivateWrite
  refine Keeps.next ?_
  repeat' first
    | with_reducible assumption
    | with_reducible refine Keeps.ite ?_ ?_
    | with_reducible refine Keeps.foldl ?_ (fun t x ht => ?_)
    | with_reducible refine State.i3cMod_keeps hP ?_
    | with_reducible refine Keeps.pair (by assumption) ?_
    | with_reducible refine Keeps.pair1 (by assumption) ?_
    | fail_if_no_progress with_reducible refine Keeps.mk hP ?_
    | split

theorem execI3cPrivateRead_keeps {a0 : _} {a1 : _} {s : State} (h : P s) :
    ∀ t, execI3cPrivateRead a0 a1 s = .next t → P t := by
  unfold execI3cPrivateRead
  refine Keeps.next ?_
  repeat' first
    | with_reducible assumption
    | with_reducible refine Keeps.ite ?_ ?_
    | with_reducible refine Keeps.foldl ?_ (fun t x ht => ?_)
    | with_reducible refine State.i3cMod_keeps hP ?_

theorem execSetdasa_keeps {a0 : _} {a1 : _} {s : State} (h : P s) :
    ∀ t, execSetdasa a0 a1 s = .next t → P t := by
  unfold execSetdasa
  refine Keeps.next ?_
  repeat' first
    | with_reducible assumption
    | with_reducible refine Keeps.ite ?_ ?_
    | with_reducible refine Keeps.foldl ?_ (fun t x ht => ?_)
    | with_reducible refine State.i3cMod_keeps hP ?_

theorem execEntdaa_keeps {a0 : _} {s : State} (h : P s) :
    ∀ t, execEntdaa a0 s = .next t → P t := by
  unfold execEntdaa
  refine Keeps.next ?_
  repeat' first
    | with_reducible assumption
    | with_reducible refine Keeps.ite ?_ ?_
    | with_reducible refine Keeps.foldl ?_ (fun t x ht => ?_)
    | with_reducible refine State.i3cMod_keeps hP ?_

theorem execRstdaa_keeps {s : State} (h : P s) :
    ∀ t, execRstdaa s = .next t → P t := by
  unfold execRstdaa
  refine Keeps.next ?_
  repeat' first
    | with_reducible assumption
    | with_reducible refine Keeps.ite ?_ ?_
    | with_reducible refine Keeps.foldl ?_ (fun t x ht => ?_)
    | with_reducible refine State.i3cMod_keeps hP ?_

theorem execSetnewda_keeps {a0 : _} {a1 : _} {s : State} (h : P s) :
    ∀ t, execSetnewda a0 a1 s = .next t → P t := by
  unfold execSetnewda
  refine Keeps.next ?_
  repeat' first
    | with_reducible assumption
    | with_reducible refine Keeps.ite ?_ ?_
    | with_reducible refine Keeps.foldl ?_ (fun t x ht => ?_)
    | with_reducible refine State.i3cMod_keeps hP ?_

theorem execEnec_keeps {a0 : _} {a1 : _} {s : State} (h : P s) :
    ∀ t, execEnec a0 a1 s = .next t → P t := by
  unfold execEnec
  refine Keeps.next ?_
  repeat' first
    | with_reducible assumption
    | with_reducible refine Keeps.ite ?_ ?_
    | with_reducible refine Keeps.foldl ?_ (fun t x ht => ?_)
    | with_reducible refine State.i3cMod_keeps hP ?_

theorem execDisec_keeps {a0 : _} {a1 : _} {s : State} (h : P s) :
    ∀ t, execDisec a0 a1 s = .next t → P t := by
  unfold execDisec
  refine Keeps.next ?_
  repeat' first
    | with_reducible assumption
    | with_reducible refine Keeps.ite ?_ ?_
    | with_reducible refine Keeps.foldl ?_ (fun t x ht => ?_)
    | with_reducible refine State.i3cMod_keeps hP ?_

theorem execGetpid_keeps {a0 : _} {s : State} (h : P s) :
    ∀ t, execGetpid a0 s = .next t → P t := by
  unfold execGetpid
  refine Keeps.next ?_
  repeat' first
    | with_reducible assumption
    | with_reducible refine Keeps.ite ?_ ?_
    | with_reducible refine Keeps.foldl ?_ (fun t x ht => ?_)
    | with_reducible refine State.cccAnswer_keeps hP ?_

theorem execGetbcr_keeps {a0 : _} {s : State} (h : P s) :
    ∀ t, execGetbcr a0 s = .next t → P t := by
  unfold execGetbcr
  refine Keeps.next ?_
  repeat' first
    | with_reducible assumption
    | with_reducible refine Keeps.ite ?_ ?_
    | with_reducible refine Keeps.foldl ?_ (fun t x ht => ?_)
    | with_reducible refine State.cccAnswer_keeps hP ?_

theorem execGetdcr_keeps {a0 : _} {s : State} (h : P s) :
    ∀ t, execGetdcr a0 s = .next t → P t := by
  unfold execGetdcr
  refine Keeps.next ?_
  repeat' first
    | with_reducible assumption
    | with_reducible refine Keeps.ite ?_ ?_
    | with_reducible refine Keeps.foldl ?_ (fun t x ht => ?_)
    | with_reducible refine State.cccAnswer_keeps hP ?_

theorem execGetmwl_keeps {a0 : _} {s : State} (h : P s) :
    ∀ t, execGetmwl a0 s = .next t → P t := by
  unfold execGetmwl
  refine Keeps.next ?_
  repeat' first
    | with_reducible assumption
    | with_reducible refine Keeps.ite ?_ ?_
    | with_reducible refine Keeps.foldl ?_ (fun t x ht => ?_)
    | with_reducible refine State.cccAnswer_keeps hP ?_

theorem execGetmrl_keeps {a0 : _} {s : State} (h : P s) :
    ∀ t, execGetmrl a0 s = .next t → P t := by
  unfold execGetmrl
  refine Keeps.next ?_
  repeat' first
    | with_reducible assumption
    | with_reducible refine Keeps.ite ?_ ?_
    | with_reducible refine Keeps.foldl ?_ (fun t x ht => ?_)
    | with_reducible refine State.cccAnswer_keeps hP ?_

theorem execGetstatus_keeps {a0 : _} {s : State} (h : P s) :
    ∀ t, execGetstatus a0 s = .next t → P t := by
  unfold execGetstatus
  refine Keeps.next ?_
  repeat' first
    | with_reducible assumption
    | with_reducible refine Keeps.ite ?_ ?_
    | with_reducible refine Keeps.foldl ?_ (fun t x ht => ?_)
    | with_reducible refine State.draw_keeps hP ?_
    | with_reducible refine State.cccAnswer_keeps hP ?_

end Sys2Proof.Machine
end

