-- ==== Sys2Proof/Laws/Keep/Csr.lean ====
section
/-! SUPPORT. Every operation of Machine/Csr.lean keeps a closed predicate (see Laws/Keep.lean). -/

namespace Sys2Proof.Machine

variable {P : State → Prop} (hP : Closed P)
include hP

theorem State.csrFault_keeps {s : State} {a1 : _} {a2 : _} {a3 : _} (h : P s) :
    P (State.csrFault s a1 a2 a3) := by
  unfold State.csrFault
  repeat' first
    | with_reducible assumption
    | with_reducible refine Keeps.ite ?_ ?_
    | with_reducible refine Keeps.foldl ?_ (fun t x ht => ?_)
    | with_reducible refine State.addrFault_keeps hP ?_

theorem State.measured_keeps {s : State} {a1 : _} {a2 : _} {a3 : _} (h : P s) :
    P (State.measured s a1 a2 a3).2 := by
  unfold State.measured
  repeat' first
    | with_reducible assumption
    | with_reducible refine Keeps.ite ?_ ?_
    | with_reducible refine Keeps.iteC ?_ ?_
    | with_reducible refine Keeps.foldl ?_ (fun t x ht => ?_)
    | with_reducible refine State.bump_keeps hP ?_
    | with_reducible refine State.draw_keeps hP ?_

theorem State.noteRead_keeps {s : State} {a1 : _} (h : P s) : P (State.noteRead s a1) := by
  unfold State.noteRead
  repeat' first
    | with_reducible assumption
    | with_reducible refine Keeps.pair (by assumption) ?_
    | with_reducible refine Keeps.pair1 (by assumption) ?_
    | fail_if_no_progress with_reducible refine Keeps.mk hP ?_

theorem State.afterRead_keeps {s : State} {a1 : _} {a2 : _} {a3 : _} (h : P s) :
    P (State.afterRead s a1 a2 a3) := by
  unfold State.afterRead
  repeat' first
    | with_reducible assumption
    | with_reducible refine Keeps.ite ?_ ?_
    | with_reducible refine Keeps.iteC ?_ ?_
    | with_reducible refine Keeps.foldl ?_ (fun t x ht => ?_)
    | with_reducible refine State.noteRead_keeps hP ?_
    | with_reducible refine State.csrPut_keeps hP ?_
    | with_reducible refine Keeps.pair (by assumption) ?_
    | with_reducible refine Keeps.pair1 (by assumption) ?_
    | fail_if_no_progress with_reducible refine Keeps.mk hP ?_

theorem State.readReg_keeps {s : State} {a1 : _} {a2 : _} {a3 : _} (h : P s) :
    P (State.readReg s a1 a2 a3).2 := by
  unfold State.readReg
  repeat' first
    | with_reducible assumption
    | with_reducible refine Keeps.ite ?_ ?_
    | with_reducible refine Keeps.iteC ?_ ?_
    | with_reducible refine Keeps.foldl ?_ (fun t x ht => ?_)
    | with_reducible refine State.afterRead_keeps hP ?_
    | with_reducible refine State.measured_keeps hP ?_

theorem State.evData_keeps {s : State} {a1 : _} {a2 : _} (h : P s) :
    P (State.evData s a1 a2).2.2 := by
  unfold State.evData
  repeat' first
    | with_reducible assumption
    | with_reducible refine Keeps.ite ?_ ?_
    | with_reducible refine Keeps.iteC ?_ ?_
    | with_reducible refine Keeps.foldl ?_ (fun t x ht => ?_)
    | with_reducible refine State.evRead_keeps hP ?_
    | with_reducible refine Keeps.pair (by assumption) ?_
    | with_reducible refine Keeps.pair1 (by assumption) ?_
    | fail_if_no_progress with_reducible refine Keeps.mk hP ?_
    | split

theorem State.csrRead_keeps {s : State} {a1 : _} {a2 : _} {a3 : _} {a4 : _} (h : P s) :
    P (State.csrRead s a1 a2 a3 a4).2.2 := by
  unfold State.csrRead
  repeat' first
    | with_reducible assumption
    | with_reducible refine Keeps.ite ?_ ?_
    | with_reducible refine Keeps.iteC ?_ ?_
    | with_reducible refine Keeps.foldl ?_ (fun t x ht => ?_)
    | with_reducible refine State.evData_keeps hP ?_
    | with_reducible refine State.readReg_keeps hP ?_
    | with_reducible refine State.tokenTake_keeps hP ?_
    | with_reducible refine State.csrFault_keeps hP ?_
    | with_reducible refine Keeps.last (by assumption) ?_
    | with_reducible refine Keeps.pair (by assumption) ?_
    | with_reducible refine Keeps.pair1 (by assumption) ?_
    | fail_if_no_progress with_reducible refine Keeps.mk hP ?_
    | split
    | dsimp only

theorem State.plain_keeps {s : State} {a1 : _} (h : P s) :
    P (State.plain s a1) := by
  unfold State.plain
  repeat' first
    | with_reducible assumption
    | with_reducible refine Keeps.ite ?_ ?_
    | with_reducible refine Keeps.foldl ?_ (fun t x ht => ?_)
    | with_reducible refine State.csrPut_keeps hP ?_

theorem State.deny_keeps {s : State} {a1 : _} (h : P s) :
    P (State.deny s a1).2 := by
  unfold State.deny
  repeat' first
    | with_reducible assumption
    | with_reducible refine Keeps.ite ?_ ?_
    | with_reducible refine Keeps.foldl ?_ (fun t x ht => ?_)
    | with_reducible refine State.csrRefuse_keeps hP ?_

theorem State.writeIlCtl_keeps {s : State} {a1 : _} (h : P s) :
    P (State.writeIlCtl s a1).2 := by
  unfold State.writeIlCtl
  repeat' first
    | with_reducible assumption
    | with_reducible refine Keeps.ite ?_ ?_
    | with_reducible refine Keeps.foldl ?_ (fun t x ht => ?_)
    | with_reducible refine State.faultAck_keeps hP ?_
    | with_reducible refine State.softwareClear_keeps hP ?_
    | with_reducible refine Keeps.pair (by assumption) ?_
    | with_reducible refine Keeps.pair1 (by assumption) ?_
    | fail_if_no_progress with_reducible refine Keeps.mk hP ?_
    | split

theorem State.writeFenceReq_keeps {s : State} {a1 : _} (h : P s) :
    P (State.writeFenceReq s a1) := by
  unfold State.writeFenceReq
  repeat' first
    | with_reducible assumption
    | with_reducible refine Keeps.ite ?_ ?_
    | with_reducible refine Keeps.foldl ?_ (fun t x ht => ?_)
    | with_reducible refine fenceAnswer_keeps hP ?_
    | with_reducible refine State.liftRequest_keeps hP ?_
    | with_reducible refine State.fenceRequest_keeps hP ?_
    | with_reducible refine Keeps.pair (by assumption) ?_
    | with_reducible refine Keeps.pair1 (by assumption) ?_
    | fail_if_no_progress with_reducible refine Keeps.mk hP ?_
    | split

theorem State.writeFault_keeps {s : State} {a1 : _} (h : P s) :
    ∀ x, State.writeFault s a1 = some x → P x.2 := by
  unfold State.writeFault
  repeat' first
    | with_reducible assumption
    | with_reducible refine Keeps.ite ?_ ?_
    | with_reducible exact Keeps.oNone
    | with_reducible refine Keeps.oSome ?_
    | with_reducible refine Keeps.oMap (fun x hx => ?_)
    | with_reducible refine Keeps.oIte ?_ ?_
    | with_reducible refine Keeps.foldl ?_ (fun t x ht => ?_)
    | with_reducible refine State.writeIlCtl_keeps hP ?_
    | with_reducible refine State.ilInject_keeps hP ?_
    | with_reducible refine State.csrPut_keeps hP ?_
    | with_reducible refine State.writeFenceReq_keeps hP ?_
    | with_reducible refine State.requestReset_keeps hP ?_
    | with_reducible refine State.deny_keeps hP ?_
    | with_reducible refine State.fwBeat_keeps hP ?_
    | with_reducible refine Keeps.pair (by assumption) ?_
    | with_reducible refine Keeps.pair1 (by assumption) ?_
    | fail_if_no_progress with_reducible refine Keeps.mk hP ?_
    | split

theorem State.writePortCtl_keeps {s : State} {a1 : _} (h : P s) :
    P (State.writePortCtl s a1) := by
  unfold State.writePortCtl
  repeat' first
    | with_reducible assumption
    | with_reducible refine Keeps.ite ?_ ?_
    | with_reducible refine Keeps.foldl ?_ (fun t x ht => ?_)
    | with_reducible refine State.fset_keeps hP ?_
    | with_reducible refine State.retrain_keeps hP ?_
    | with_reducible refine State.portEn_keeps hP ?_

theorem State.writeDwCtl_keeps {s : State} {a1 : _} (h : P s) :
    P (State.writeDwCtl s a1).2 := by
  unfold State.writeDwCtl
  repeat' first
    | with_reducible assumption
    | with_reducible refine Keeps.ite ?_ ?_
    | with_reducible refine Keeps.foldl ?_ (fun t x ht => ?_)
    | with_reducible refine State.fset_keeps hP ?_
    | with_reducible refine State.deny_keeps hP ?_
    | with_reducible refine State.fresh_keeps hP ?_
    | with_reducible refine State.laneEnable_keeps hP ?_
    | with_reducible refine Keeps.pair (by assumption) ?_
    | with_reducible refine Keeps.pair1 (by assumption) ?_
    | fail_if_no_progress with_reducible refine Keeps.mk hP ?_
    | split

theorem State.writeMask_keeps {s : State} {a1 : _} (h : P s) :
    P (State.writeMask s a1) := by
  unfold State.writeMask
  repeat' first
    | with_reducible assumption
    | with_reducible refine Keeps.ite ?_ ?_
    | with_reducible refine Keeps.iteC ?_ ?_
    | with_reducible refine Keeps.foldl ?_ (fun t x ht => ?_)
    | with_reducible refine State.mcgWrite_keeps hP ?_
    | with_reducible refine State.plain_keeps hP ?_
    | with_reducible refine State.csrPut_keeps hP ?_

theorem State.writeFabric_keeps {s : State} {a1 : _} (h : P s) :
    ∀ x, State.writeFabric s a1 = some x → P x.2 := by
  unfold State.writeFabric
  repeat' first
    | with_reducible assumption
    | with_reducible refine Keeps.ite ?_ ?_
    | with_reducible exact Keeps.oNone
    | with_reducible refine Keeps.oSome ?_
    | with_reducible refine Keeps.oMap (fun x hx => ?_)
    | with_reducible refine Keeps.oIte ?_ ?_
    | with_reducible refine Keeps.foldl ?_ (fun t x ht => ?_)
    | with_reducible refine State.writePoints_keeps hP ?_
    | with_reducible refine State.writeMask_keeps hP ?_
    | with_reducible refine State.clearExclude_keeps hP ?_
    | with_reducible refine State.plain_keeps hP ?_
    | with_reducible refine State.writePortCtl_keeps hP ?_
    | with_reducible refine State.writeDwCtl_keeps hP ?_

theorem State.writeMqCtl_keeps {s : State} {a1 : _} (h : P s) :
    P (State.writeMqCtl s a1).2 := by
  unfold State.writeMqCtl
  repeat' first
    | with_reducible assumption
    | with_reducible refine Keeps.ite ?_ ?_
    | with_reducible refine Keeps.foldl ?_ (fun t x ht => ?_)
    | with_reducible refine State.mqDiscard_keeps hP ?_
    | with_reducible refine State.mqSend_keeps hP ?_
    | with_reducible refine Keeps.pair (by assumption) ?_
    | with_reducible refine Keeps.pair1 (by assumption) ?_
    | fail_if_no_progress with_reducible refine Keeps.mk hP ?_
    | split

theorem State.writeMail_keeps {s : State} {a1 : _} (h : P s) :
    ∀ x, State.writeMail s a1 = some x → P x.2 := by
  unfold State.writeMail
  repeat' first
    | with_reducible assumption
    | with_reducible exact Keeps.oNone
    | with_reducible refine Keeps.oSome ?_
    | with_reducible refine Keeps.oMap (fun x hx => ?_)
    | with_reducible refine Keeps.oIte ?_ ?_
    | with_reducible refine Keeps.ite ?_ ?_
    | with_reducible refine Keeps.iteC ?_ ?_
    | with_reducible refine Keeps.foldl ?_ (fun t x ht => ?_)
    | with_reducible refine State.writeMqCtl_keeps hP ?_
    | with_reducible refine State.writeDbMask_keeps hP ?_
    | with_reducible refine State.tokenRel_keeps hP ?_
    | with_reducible refine State.mqAck_keeps hP ?_
    | with_reducible refine State.rcBeat_keeps hP ?_
    | with_reducible refine State.mqPush_keeps hP ?_

theorem State.writeRingFixed_keeps {s : State} {a1 : _} {a2 : _} (h : P s) :
    P (State.writeRingFixed s a1 a2) := by
  unfold State.writeRingFixed
  repeat' first
    | with_reducible assumption
    | with_reducible refine Keeps.ite ?_ ?_
    | with_reducible refine Keeps.foldl ?_ (fun t x ht => ?_)
    | with_reducible refine State.plain_keeps hP ?_
    | with_reducible refine State.cfgErr_keeps hP ?_

theorem State.writeRing_keeps {s : State} {a1 : _} (h : P s) :
    ∀ x, State.writeRing s a1 = some x → P x.2 := by
  unfold State.writeRing
  repeat' first
    | with_reducible assumption
    | with_reducible refine Keeps.ite ?_ ?_
    | with_reducible exact Keeps.oNone
    | with_reducible refine Keeps.oSome ?_
    | with_reducible refine Keeps.oMap (fun x hx => ?_)
    | with_reducible refine Keeps.oIte ?_ ?_
    | with_reducible refine Keeps.foldl ?_ (fun t x ht => ?_)
    | with_reducible refine State.writeRingFixed_keeps hP ?_
    | with_reducible refine State.writeRingCfg_keeps hP ?_
    | with_reducible refine State.writeRdIdx_keeps hP ?_
    | with_reducible refine State.writeWrIdx_keeps hP ?_

theorem State.writeCtr_keeps {s : State} {a1 : _} (h : P s) :
    P (State.writeCtr s a1) := by
  unfold State.writeCtr
  repeat' first
    | with_reducible assumption
    | with_reducible refine Keeps.ite ?_ ?_
    | with_reducible refine Keeps.foldl ?_ (fun t x ht => ?_)
    | with_reducible refine State.plain_keeps hP ?_
    | with_reducible refine State.fset_keeps hP ?_

theorem State.writeWePostCtl_keeps {s : State} {a1 : _} (h : P s) :
    P (State.writeWePostCtl s a1) := by
  unfold State.writeWePostCtl
  repeat' first
    | with_reducible assumption
    | with_reducible refine Keeps.ite ?_ ?_
    | with_reducible refine Keeps.iteC ?_ ?_
    | with_reducible refine Keeps.foldl ?_ (fun t x ht => ?_)
    | with_reducible refine State.weClear_keeps hP ?_
    | with_reducible refine State.wePost_keeps hP ?_

theorem State.writeDie_keeps {s : State} {a1 : _} (h : P s) :
    ∀ x, State.writeDie s a1 = some x → P x.2 := by
  unfold State.writeDie
  repeat' first
    | with_reducible assumption
    | with_reducible refine Keeps.ite ?_ ?_
    | with_reducible exact Keeps.oNone
    | with_reducible refine Keeps.oSome ?_
    | with_reducible refine Keeps.oMap (fun x hx => ?_)
    | with_reducible refine Keeps.oIte ?_ ?_
    | with_reducible refine Keeps.foldl ?_ (fun t x ht => ?_)
    | with_reducible refine State.writeCtr_keeps hP ?_
    | with_reducible refine State.writeScrubCtl_keeps hP ?_
    | with_reducible refine State.writeWePostCtl_keeps hP ?_

theorem State.writeReg_keeps {s : State} {a1 : _} (h : P s) :
    P (State.writeReg s a1).2 := by
  unfold State.writeReg
  repeat' first
    | with_reducible assumption
    | with_reducible refine Keeps.ite ?_ ?_
    | with_reducible refine Keeps.foldl ?_ (fun t x ht => ?_)
    | with_reducible refine State.writeFault_keeps hP ?_
    | with_reducible refine Keeps.ofSome2 (State.writeFault_keeps hP ?_) (by assumption)
    | with_reducible refine State.writeFabric_keeps hP ?_
    | with_reducible refine Keeps.ofSome2 (State.writeFabric_keeps hP ?_) (by assumption)
    | with_reducible refine State.writeMail_keeps hP ?_
    | with_reducible refine Keeps.ofSome2 (State.writeMail_keeps hP ?_) (by assumption)
    | with_reducible refine State.writeRing_keeps hP ?_
    | with_reducible refine Keeps.ofSome2 (State.writeRing_keeps hP ?_) (by assumption)
    | with_reducible refine State.writeDie_keeps hP ?_
    | with_reducible refine Keeps.ofSome2 (State.writeDie_keeps hP ?_) (by assumption)
    | with_reducible refine State.plain_keeps hP ?_
    | with_reducible refine Keeps.pair (by assumption) ?_
    | with_reducible refine Keeps.pair1 (by assumption) ?_
    | fail_if_no_progress with_reducible refine Keeps.mk hP ?_
    | split

theorem State.csrWrite_keeps {s : State} {a1 : _} {a2 : _} {a3 : _} {a4 : _} {a5 : _} (h : P s) :
    P (State.csrWrite s a1 a2 a3 a4 a5).2 := by
  unfold State.csrWrite
  repeat' first
    | with_reducible assumption
    | with_reducible refine Keeps.ite ?_ ?_
    | with_reducible refine Keeps.foldl ?_ (fun t x ht => ?_)
    | with_reducible refine State.csrFault_keeps hP ?_
    | with_reducible refine State.writeReg_keeps hP ?_
    | with_reducible refine Keeps.pair (by assumption) ?_
    | with_reducible refine Keeps.pair1 (by assumption) ?_
    | fail_if_no_progress with_reducible refine Keeps.mk hP ?_
    | split

theorem execCsrWrite_keeps {a0 : _} {a1 : _} {a2 : _} {a3 : _} {a4 : _} {s : State} (h : P s) :
    ∀ t, execCsrWrite a0 a1 a2 a3 a4 s = .next t → P t := by
  unfold execCsrWrite
  refine Keeps.next ?_
  repeat' first
    | with_reducible assumption
    | with_reducible refine Keeps.ite ?_ ?_
    | with_reducible refine Keeps.foldl ?_ (fun t x ht => ?_)
    | with_reducible refine State.csrWrite_keeps hP ?_

theorem State.laneHole_keeps {s : State} {a1 : _} (h : P s) :
    P (State.laneHole s a1) := by
  unfold State.laneHole
  repeat' first
    | with_reducible assumption
    | with_reducible refine Keeps.ite ?_ ?_
    | with_reducible refine Keeps.iteC ?_ ?_
    | with_reducible refine Keeps.foldl ?_ (fun t x ht => ?_)
    | with_reducible refine State.addrFault_keeps hP ?_

theorem execCsrRd_keeps {a0 : _} {s : State} (h : P s) :
    ∀ t, execCsrRd a0 s = .next t → P t := by
  unfold execCsrRd
  refine Keeps.next ?_
  repeat' first
    | with_reducible assumption
    | with_reducible refine Keeps.ite ?_ ?_
    | with_reducible refine Keeps.iteC ?_ ?_
    | with_reducible refine Keeps.foldl ?_ (fun t x ht => ?_)
    | with_reducible refine State.csrRead_keeps hP ?_
    | with_reducible refine State.laneHole_keeps hP ?_
    | with_reducible refine State.respond_keeps hP ?_
    | with_reducible refine State.malformed_keeps hP ?_
    | with_reducible refine State.clRow_keeps hP ?_ (fun t x1 ht => ?_)

theorem execCsrWr_keeps {a0 : _} {s : State} (h : P s) :
    ∀ t, execCsrWr a0 s = .next t → P t := by
  unfold execCsrWr
  refine Keeps.next ?_
  repeat' first
    | with_reducible assumption
    | with_reducible refine Keeps.ite ?_ ?_
    | with_reducible refine Keeps.iteC ?_ ?_
    | with_reducible refine Keeps.foldl ?_ (fun t x ht => ?_)
    | with_reducible refine State.pump_keeps hP ?_
    | with_reducible refine State.laneHole_keeps hP ?_
    | with_reducible refine State.csrWrite_keeps hP ?_
    | with_reducible refine State.respond_keeps hP ?_
    | with_reducible refine State.malformed_keeps hP ?_
    | with_reducible refine State.clRow_keeps hP ?_ (fun t x1 ht => ?_)

theorem State.postedInReset_keeps {s : State} {a1 : _} {a2 : _} {a3 : _} (h : P s) :
    P (State.postedInReset s a1 a2 a3) := by
  unfold State.postedInReset
  repeat' first
    | with_reducible assumption
    | with_reducible refine Keeps.ite ?_ ?_
    | with_reducible refine Keeps.foldl ?_ (fun t x ht => ?_)
    | with_reducible refine State.event_keeps hP ?_

theorem execMbx_keeps {a0 : _} {s : State} (h : P s) :
    ∀ t, execMbx a0 s = .next t → P t := by
  unfold execMbx
  refine Keeps.next ?_
  repeat' first
    | with_reducible assumption
    | with_reducible refine Keeps.ite ?_ ?_
    | with_reducible refine Keeps.iteC ?_ ?_
    | with_reducible refine Keeps.foldl ?_ (fun t x ht => ?_)
    | with_reducible refine Keeps.foldl2 ?_ (fun b t x ht => ?_)
    | with_reducible refine State.mqPushWord_keeps hP ?_
    | with_reducible refine State.postedInReset_keeps hP ?_
    | with_reducible refine State.clRow_keeps hP ?_ (fun t x1 ht => ?_)

theorem execDoorbell_keeps {a0 : _} {s : State} (h : P s) :
    ∀ t, execDoorbell a0 s = .next t → P t := by
  unfold execDoorbell
  refine Keeps.next ?_
  repeat' first
    | with_reducible assumption
    | with_reducible refine Keeps.ite ?_ ?_
    | with_reducible refine Keeps.iteC ?_ ?_
    | with_reducible refine Keeps.foldl ?_ (fun t x ht => ?_)
    | with_reducible refine State.writeWrIdx_keeps hP ?_
    | with_reducible refine State.postedInReset_keeps hP ?_
    | with_reducible refine State.clRow_keeps hP ?_ (fun t x1 ht => ?_)

theorem State.windowRead_keeps {s : State} {a1 : _} {a2 : _} {a3 : _} (h : P s) :
    P (State.windowRead s a1 a2 a3).2 := by
  unfold State.windowRead
  repeat' first
    | with_reducible assumption
    | with_reducible refine Keeps.ite ?_ ?_
    | with_reducible refine Keeps.foldl ?_ (fun t x ht => ?_)
    | with_reducible refine State.readCommitted_keeps hP ?_
    | with_reducible refine Keeps.pair (by assumption) ?_
    | with_reducible refine Keeps.pair1 (by assumption) ?_
    | fail_if_no_progress with_reducible refine Keeps.mk hP ?_
    | split
    | dsimp only

theorem execRwRead_keeps {a0 : _} {s : State} (h : P s) :
    ∀ t, execRwRead a0 s = .next t → P t := by
  unfold execRwRead
  refine Keeps.next ?_
  repeat' first
    | with_reducible assumption
    | with_reducible refine Keeps.ite ?_ ?_
    | with_reducible refine Keeps.iteC ?_ ?_
    | with_reducible refine Keeps.foldl ?_ (fun t x ht => ?_)
    | with_reducible refine State.windowRead_keeps hP ?_
    | with_reducible refine State.respond_keeps hP ?_
    | with_reducible refine State.malformed_keeps hP ?_
    | with_reducible refine State.clRow_keeps hP ?_ (fun t x1 ht => ?_)

theorem execTc3CsrRd_keeps {a0 : _} {s : State} (h : P s) :
    ∀ t, execTc3CsrRd a0 s = .next t → P t := by
  unfold execTc3CsrRd
  refine Keeps.next ?_
  repeat' first
    | with_reducible assumption
    | with_reducible refine Keeps.ite ?_ ?_
    | with_reducible refine Keeps.foldl ?_ (fun t x ht => ?_)
    | with_reducible refine State.packetRow_keeps hP ?_ (fun t x1 ht => ?_)
    | with_reducible refine State.csrRead_keeps hP ?_
    | with_reducible refine State.answer_keeps hP ?_
    | with_reducible refine State.addrFault_keeps hP ?_

theorem execUndecodableCodeword_keeps {a0 : _} {s : State} (h : P s) :
    ∀ t, execUndecodableCodeword a0 s = .next t → P t := by
  unfold execUndecodableCodeword
  refine Keeps.next ?_
  repeat' first
    | with_reducible assumption
    | with_reducible refine Keeps.ite ?_ ?_
    | with_reducible refine Keeps.iteC ?_ ?_
    | with_reducible refine Keeps.foldl ?_ (fun t x ht => ?_)
    | with_reducible refine State.pump_keeps hP ?_
    | with_reducible refine State.portBadWord_keeps hP ?_
    | with_reducible refine State.dwBadWord_keeps hP ?_
    | with_reducible refine Keeps.pair (by assumption) ?_
    | with_reducible refine Keeps.pair1 (by assumption) ?_
    | fail_if_no_progress with_reducible refine Keeps.mk hP ?_
    | split

end Sys2Proof.Machine
end

