-- ==== Sys2Proof/Laws/Memory.lean ====
section
/-! SUPPORT. Memory: every operation on it keeps its canonical form, a read after a write of the same byte gives the byte written, and a
write leaves every other byte and its codeword alone (R167). -/

namespace Sys2Proof.Machine

/-- The canonical form of memory is a closed predicate: every operation of the machine keeps it. -/
theorem memory_wf_closed : Closed (fun s => Memory.wf s.mem = true) where
  frame := by intro s t h _ _ _ _ hm _ _ _ _ _ _; rw [hm]; exact h
  csr := fun h _ _ => h
  csrFilter := fun h _ => h
  csrReset := fun h _ _ => h
  dict := fun h _ _ => h
  dictFilter := fun h _ => h
  gens := fun h _ _ => h
  cell := fun h a b _ => twf_tset h a b
  memFilter := fun h p _ => twf_filter p h
  units := fun h _ _ => h
  unitsFilter := fun h _ => h
  sweep := fun h _ => h
  msgs := fun h _ _ _ => h
  msgsNil := fun h => h
  windowsNil := fun h => h
  msgsFilter := fun h _ => h
  evid := fun h _ _ _ _ => h
  blob := fun h _ _ => h
  window := fun h _ _ => h
  windowFilter := fun h _ => h
  job := fun h => h
  power := fun _ _ _ => rfl

theorem memory_wf_reset : Memory.wf State.reset.mem = true := rfl

variable {s : State}

theorem memory_wf_store (h : Memory.wf s.mem = true) (a : Nat) (b : Byte) : Memory.wf (s.store a b).mem = true :=
  State.store_keeps memory_wf_closed h

theorem memory_wf_copyCells (h : Memory.wf s.mem = true) (src dst n : Nat) : Memory.wf (s.copyCells src dst n).mem = true :=
  State.copyCells_keeps memory_wf_closed h

theorem memory_wf_readCell (h : Memory.wf s.mem = true) (rq : Rq) (a : Nat) : Memory.wf (s.readCell rq a).2.mem = true :=
  State.readCell_keeps memory_wf_closed h

theorem memory_wf_readBytes (h : Memory.wf s.mem = true) (rq : Rq) (a n : Nat) : Memory.wf (s.readBytes rq a n).2.mem = true :=
  State.readBytes_keeps memory_wf_closed h

theorem memory_wf_writeByte (h : Memory.wf s.mem = true) (a : Nat) (b : Byte) : Memory.wf (s.writeByte a b).mem = true :=
  State.writeByte_keeps memory_wf_closed h

theorem memory_wf_writeBytes (h : Memory.wf s.mem = true) (a : Nat) (l : List Byte) : Memory.wf (s.writeBytes a l).mem = true :=
  State.writeBytes_keeps memory_wf_closed h

theorem memory_wf_memWrite (h : Memory.wf s.mem = true) (src a : Nat) (l : List Byte) : Memory.wf (s.memWrite src a l).2.mem = true :=
  State.memWrite_keeps memory_wf_closed h

theorem memory_wf_worksWipe (h : Memory.wf s.mem = true) : Memory.wf s.worksWipe.mem = true :=
  State.worksWipe_keeps memory_wf_closed h

/-- Two package physical addresses are stored at one place only if they are the same address (R156, R180). -/
theorem slot_inj (s : State) {a x : Nat} (ha : a < rsvBase) (hx : x < rsvBase) (h : s.slot a = s.slot x) : a = x := by
  have hz : ∀ n i o : Nat, rsvBase ≤ rsvAddr n (spareOffset + 2048 * i + o % 2048) := by
    intro n i o; unfold rsvAddr; omega
  have hs : ∀ n u i, s.spareOf n u = some i → ((vget .reset s.md n).repair)[i]? = some u := by
    intro n u i hi
    unfold State.spareOf at hi
    obtain ⟨hl, he, _⟩ := List.findIdx?_eq_some_iff_getElem.1 hi
    rw [List.getElem?_eq_getElem hl]
    simpa using he
  have hm : ∀ b n o, locOf b = .md n o → b = n * mdSize + o ∧ n < 8 ∧ o < mdSize := by
    intro b n o hb
    unfold locOf at hb
    split at hb
    · rename_i hlt
      injection hb with h1 h2
      subst h1 h2
      have := Nat.div_add_mod b mdSize
      have h0 : 0 < mdSize := by decide
      exact ⟨by rw [Nat.mul_comm]; exact this.symm, (Nat.div_lt_iff_lt_mul h0).2 hlt, Nat.mod_lt _ h0⟩
    · split at hb <;> first | (cases hb) | (split at hb <;> first | (cases hb) | (split at hb <;> first | (cases hb) | (split at hb <;> cases hb)))
  unfold State.slot at h
  cases ea : locOf a with
  | md n o =>
    obtain ⟨h1, h2, h3⟩ := hm _ _ _ ea
    cases ex : locOf x with
    | md n' o' =>
      obtain ⟨h1', h2', h3'⟩ := hm _ _ _ ex
      simp only [ea, ex] at h
      cases sa : s.spareOf n (o / 2048) with
      | none => cases sx : s.spareOf n' (o' / 2048) with
        | none => simpa only [sa, sx] using h
        | some j => simp only [sa, sx] at h; have := hz n' j o'; omega
      | some i => cases sx : s.spareOf n' (o' / 2048) with
        | none => simp only [sa, sx] at h; have := hz n i o; omega
        | some j =>
          simp only [sa, sx] at h
          unfold rsvAddr at h
          have hn : n = n' := by omega
          have hi : i = j := by omega
          subst hn hi
          have hu := (hs _ _ _ sa).symm.trans (hs _ _ _ sx)
          injection hu with hu
          omega
    | _ =>
      simp only [ea, ex] at h
      cases sa : s.spareOf n (o / 2048) with
      | none => simpa only [sa] using h
      | some i => simp only [sa] at h; have := hz n i o; omega
  | _ =>
    cases ex : locOf x with
    | md n' o' =>
      simp only [ea, ex] at h
      cases sx : s.spareOf n' (o' / 2048) with
      | none => simpa only [sx] using h
      | some j => simp only [sx] at h; have := hz n' j o'; omega
    | _ => simpa only [ea, ex] using h

/-- A byte that was stored reads as it was stored. -/
theorem cell_store (h : Memory.wf s.mem = true) (a : Nat) (b : Byte) : (s.store a b).cell a = b := tget_tset_self h _ _

/-- A store leaves every byte stored elsewhere as it was. -/
theorem cell_store_ne (a : Nat) (b : Byte) {x : Nat} (hx : s.slot x ≠ s.slot a) : (s.store a b).cell x = s.cell x :=
  tget_tset_ne _ _ _ hx

/-- The codeword of a byte that was stored is that of the byte. -/
theorem word13_store (h : Memory.wf s.mem = true) (hf : twf flipDflt s.flips = true) (a : Nat) (b : Byte) :
    (s.store a b).word13 a = eccEncode b := by
  unfold State.word13
  rw [cell_store h, show (s.store a b).flip a = 0 from tget_tset_self (d := flipDflt) hf (s.slot a) 0]
  simp

/-- A store leaves every codeword stored elsewhere as it was. -/
theorem word13_store_ne (a : Nat) (b : Byte) {x : Nat} (hx : s.slot x ≠ s.slot a) : (s.store a b).word13 x = s.word13 x := by
  unfold State.word13
  rw [cell_store_ne a b hx, show (s.store a b).flip x = s.flip x from tget_tset_ne flipDflt s.flips 0 hx]

end Sys2Proof.Machine
end

