-- ==== Sys2Proof/Laws/Regs.lean ====
section
/-! SUPPORT. What the operations on registers do: a field after a write of it, every other field and register, and the parts of the
state they do not touch. -/

namespace Sys2Proof.Machine

/-! ## Fields of a word -/

theorem getBits_testBit (x : Word) (lo w i : Nat) : (getBits x lo w).testBit i = (decide (i < w) && x.getLsbD (lo + i)) := by
  unfold getBits
  rw [Nat.testBit_mod_two_pow, Nat.testBit_div_two_pow, Nat.add_comm i lo]
  rfl

theorem setBits_getLsbD {lo w i : Nat} (x : Word) (v : Nat) (h : lo + w ≤ 64) (hi : i < 64) :
    (setBits x lo w v).getLsbD i = if lo ≤ i ∧ i < lo + w then v.testBit (i - lo) else x.getLsbD i := by
  have hc : (decide (i < 64) && !decide (i < lo) && decide (i - lo < w)) = decide (lo ≤ i ∧ i < lo + w) := by
    rw [Bool.eq_iff_iff]
    simp only [Bool.and_eq_true, Bool.not_eq_true', decide_eq_true_eq, decide_eq_false_iff_not]
    omega
  have hm : (BitVec.ofNat 64 (2 ^ w - 1) <<< lo).getLsbD i = decide (lo ≤ i ∧ i < lo + w) := by
    rw [BitVec.getLsbD_shiftLeft, BitVec.getLsbD_ofNat, Nat.testBit_two_pow_sub_one, ← hc,
      decide_eq_true (show i - lo < 64 by omega), Bool.true_and]
  have hv : (BitVec.ofNat 64 (v % 2 ^ w) <<< lo).getLsbD i = (decide (lo ≤ i ∧ i < lo + w) && v.testBit (i - lo)) := by
    rw [BitVec.getLsbD_shiftLeft, BitVec.getLsbD_ofNat, Nat.testBit_mod_two_pow, ← hc,
      decide_eq_true (show i - lo < 64 by omega), Bool.true_and]
    simp only [Bool.and_assoc]
  unfold setBits
  rw [BitVec.getLsbD_or, BitVec.getLsbD_and, BitVec.getLsbD_not, hm, hv]
  by_cases hc : lo ≤ i ∧ i < lo + w
  · simp [hc]
  · simp [hc, hi]

theorem getBits_setBits_self {lo w : Nat} (x : Word) (v : Nat) (h : lo + w ≤ 64) : getBits (setBits x lo w v) lo w = v % 2 ^ w := by
  apply Nat.eq_of_testBit_eq
  intro i
  rw [getBits_testBit, Nat.testBit_mod_two_pow]
  by_cases hi : i < w
  · rw [setBits_getLsbD x v h (by omega), if_pos (by omega)]
    simp [hi]
  · simp [hi]

theorem getBits_setBits_ne {lo w lo' w' : Nat} (x : Word) (v : Nat) (h : lo + w ≤ 64) (h' : lo' + w' ≤ 64)
    (hd : lo' + w' ≤ lo ∨ lo + w ≤ lo') : getBits (setBits x lo w v) lo' w' = getBits x lo' w' := by
  apply Nat.eq_of_testBit_eq
  intro i
  rw [getBits_testBit, getBits_testBit]
  by_cases hi : i < w'
  · rw [setBits_getLsbD x v h (by omega), if_neg (by omega)]
  · simp [hi]

/-! ## Registers -/

@[simp] theorem State.csrGet_csrPut_self {s : State} (h : twf csrDflt s.csr = true) (off : Nat) (v : Word) :
    (s.csrPut off v).csrGet off = v := tget_tset_self h off v

@[simp] theorem State.csrGet_csrPut_ne {s : State} {off off' : Nat} (h : off' ≠ off) (v : Word) :
    (s.csrPut off v).csrGet off' = s.csrGet off' := tget_tset_ne _ _ _ h

theorem State.csrGet_fset_ne {s : State} {f : Fld} {off : Nat} (h : off ≠ f.off) (v : Nat) :
    (s.fset f v).csrGet off = s.csrGet off := State.csrGet_csrPut_ne h _

theorem State.csr_fset {s : State} (h : twf csrDflt s.csr = true) (f : Fld) (v : Nat) : twf csrDflt (s.fset f v).csr = true :=
  twf_tset h _ _

/-- A field reads what was written to it, cut to its width. -/
theorem State.fget_fset_self {s : State} (h : twf csrDflt s.csr = true) {f : Fld} (hf : f.lo + f.w ≤ 64) (v : Nat) :
    (s.fset f v).fget f = v % 2 ^ f.w := by
  unfold State.fget State.fset
  rw [State.csrGet_csrPut_self h]
  exact getBits_setBits_self _ _ hf

/-- A field of another register, or of the same one without overlap, reads as before. -/
theorem State.fget_fset_ne {s : State} (h : twf csrDflt s.csr = true) {f g : Fld} (hf : f.lo + f.w ≤ 64) (v : Nat)
    (hd : g.off ≠ f.off ∨ (g.lo + g.w ≤ 64 ∧ (g.lo + g.w ≤ f.lo ∨ f.lo + f.w ≤ g.lo))) : (s.fset f v).fget g = s.fget g := by
  unfold State.fget State.fset
  by_cases ho : g.off = f.off
  · rw [ho, State.csrGet_csrPut_self h]
    rcases hd with hd | hd
    · exact absurd ho hd
    · exact getBits_setBits_ne _ _ hf hd.1 hd.2
  · rw [State.csrGet_csrPut_ne ho]

/-! ## Fields of a copy of a register -/

theorem Fld.at_off_ne {f g : Fld} (h : f.off ≠ g.off) (o : Nat) : (f.at o).off ≠ (g.at o).off := by
  show f.off + o ≠ g.off + o
  omega

theorem State.fget_fset_at {s : State} (h : twf csrDflt s.csr = true) {f : Fld} {o : Nat} (hf : f.lo + f.w ≤ 64) (v : Nat)
    (hv : v < 2 ^ f.w) : (s.fset (f.at o) v).fget (f.at o) = v :=
  (State.fget_fset_self (f := f.at o) h hf v).trans (Nat.mod_eq_of_lt hv)

theorem State.fget_fset_at_ne {s : State} {f g : Fld} {o : Nat} (hd : g.off ≠ f.off) (v : Nat) :
    (s.fset (f.at o) v).fget (g.at o) = s.fget (g.at o) := by
  unfold State.fget
  rw [State.csrGet_fset_ne (Fld.at_off_ne hd o)]

/-! ## Elements of a bank -/

theorem vget_vput_self {α : Type} {n : Nat} (d : α) (v : Vector α n) {i : Nat} (h : i < n) (x : α) :
    vget d (vput v i x) i = x := by
  simp [vget, vput, h]

theorem vget_vput_ne {α : Type} {n : Nat} (d : α) (v : Vector α n) {i j : Nat} (h : j ≠ i) (x : α) :
    vget d (vput v i x) j = vget d v j := by
  unfold vget vput
  by_cases hi : i < n <;> by_cases hj : j < n <;> simp [hi, hj]
  rw [Vector.getElem_set_ne]
  exact fun he => h he.symm

theorem vput_vput {α : Type} {n : Nat} (v : Vector α n) (i : Nat) (x y : α) : vput (vput v i x) i y = vput v i y := by
  unfold vput
  split <;> simp

theorem vmod_eq {α : Type} {n : Nat} (d : α) (v : Vector α n) {i : Nat} (h : i < n) (f : α → α) :
    vmod v i f = vput v i (f (vget d v i)) := by
  simp [vmod, vput, vget, h]

theorem nbit_lt (x i : Nat) : nbit x i < 2 := Nat.mod_lt _ (by decide)

theorem vget_ofFn {α : Type} {n : Nat} (d : α) (f : Fin n → α) {i : Nat} (h : i < n) : vget d (Vector.ofFn f) i = f ⟨i, h⟩ := by
  unfold vget
  rw [dif_pos h]
  simp

end Sys2Proof.Machine
end

