-- ==== Sys2Proof/Laws/State.lean ====
section
/-! SUPPORT. The fields of the state that each named update leaves as they are, one lemma per field and update, and the values that the
accessors read after it. No later proof needs to unfold an update. -/

namespace Sys2Proof.Machine.State

variable (s : State)

/-- Where bytes are stored depends on the repair maps alone (R180). -/
theorem slot_of_md {s t : State} (h : t.md = s.md) (a : Nat) : t.slot a = s.slot a := by
  unfold State.slot State.spareOf; rw [h]

/-- The repair map says where a byte is stored (R180). -/
theorem slot_of_repair {s t : State} (h : ∀ n, (t.mdev n).repair = (s.mdev n).repair) (a : Nat) : t.slot a = s.slot a := by
  unfold State.slot State.spareOf
  simp only [State.mdev] at h
  simp only [h]

/-! ## `csrPut` -/

@[simp] theorem csrPut_pending (off : Nat) (v : Word) : (s.csrPut off v).pending = s.pending := rfl
@[simp] theorem csrPut_freeCtr (off : Nat) (v : Word) : (s.csrPut off v).freeCtr = s.freeCtr := rfl
@[simp] theorem csrPut_rfrac (off : Nat) (v : Word) : (s.csrPut off v).rfrac = s.rfrac := rfl
@[simp] theorem csrPut_dict (off : Nat) (v : Word) : (s.csrPut off v).dict = s.dict := rfl
@[simp] theorem csrPut_gens (off : Nat) (v : Word) : (s.csrPut off v).gens = s.gens := rfl
@[simp] theorem csrPut_mem (off : Nat) (v : Word) : (s.csrPut off v).mem = s.mem := rfl
@[simp] theorem csrPut_flips (off : Nat) (v : Word) : (s.csrPut off v).flips = s.flips := rfl
@[simp] theorem csrPut_ceFull (off : Nat) (v : Word) : (s.csrPut off v).ceFull = s.ceFull := rfl
@[simp] theorem csrPut_umeta (off : Nat) (v : Word) : (s.csrPut off v).umeta = s.umeta := rfl
@[simp] theorem csrPut_dom (off : Nat) (v : Word) : (s.csrPut off v).dom = s.dom := rfl
@[simp] theorem csrPut_msgs (off : Nat) (v : Word) : (s.csrPut off v).msgs = s.msgs := rfl
@[simp] theorem csrPut_tiles (off : Nat) (v : Word) : (s.csrPut off v).tiles = s.tiles := rfl
@[simp] theorem csrPut_prog (off : Nat) (v : Word) : (s.csrPut off v).prog = s.prog := rfl
@[simp] theorem csrPut_we (off : Nat) (v : Word) : (s.csrPut off v).we = s.we := rfl
@[simp] theorem csrPut_md (off : Nat) (v : Word) : (s.csrPut off v).md = s.md := rfl
@[simp] theorem csrPut_dw (off : Nat) (v : Word) : (s.csrPut off v).dw = s.dw := rfl
@[simp] theorem csrPut_regions (off : Nat) (v : Word) : (s.csrPut off v).regions = s.regions := rfl
@[simp] theorem csrPut_rings (off : Nat) (v : Word) : (s.csrPut off v).rings = s.rings := rfl
@[simp] theorem csrPut_rrNext (off : Nat) (v : Word) : (s.csrPut off v).rrNext = s.rrNext := rfl
@[simp] theorem csrPut_job (off : Nat) (v : Word) : (s.csrPut off v).job = s.job := rfl
@[simp] theorem csrPut_windows (off : Nat) (v : Word) : (s.csrPut off v).windows = s.windows := rfl
@[simp] theorem csrPut_epoch (off : Nat) (v : Word) : (s.csrPut off v).epoch = s.epoch := rfl
@[simp] theorem csrPut_mirror (off : Nat) (v : Word) : (s.csrPut off v).mirror = s.mirror := rfl
@[simp] theorem csrPut_barInbox (off : Nat) (v : Word) : (s.csrPut off v).barInbox = s.barInbox := rfl
@[simp] theorem csrPut_ports (off : Nat) (v : Word) : (s.csrPut off v).ports = s.ports := rfl
@[simp] theorem csrPut_router (off : Nat) (v : Word) : (s.csrPut off v).router = s.router := rfl
@[simp] theorem csrPut_clock (off : Nat) (v : Word) : (s.csrPut off v).clock = s.clock := rfl
@[simp] theorem csrPut_me (off : Nat) (v : Word) : (s.csrPut off v).me = s.me := rfl
@[simp] theorem csrPut_rc (off : Nat) (v : Word) : (s.csrPut off v).rc = s.rc := rfl
@[simp] theorem csrPut_replies (off : Nat) (v : Word) : (s.csrPut off v).replies = s.replies := rfl
@[simp] theorem csrPut_gov (off : Nat) (v : Word) : (s.csrPut off v).gov = s.gov := rfl
@[simp] theorem csrPut_therm (off : Nat) (v : Word) : (s.csrPut off v).therm = s.therm := rfl
@[simp] theorem csrPut_notices (off : Nat) (v : Word) : (s.csrPut off v).notices = s.notices := rfl
@[simp] theorem csrPut_noticeSeq (off : Nat) (v : Word) : (s.csrPut off v).noticeSeq = s.noticeSeq := rfl
@[simp] theorem csrPut_il (off : Nat) (v : Word) : (s.csrPut off v).il = s.il := rfl
@[simp] theorem csrPut_mgr (off : Nat) (v : Word) : (s.csrPut off v).mgr = s.mgr := rfl
@[simp] theorem csrPut_evid (off : Nat) (v : Word) : (s.csrPut off v).evid = s.evid := rfl
@[simp] theorem csrPut_boot (off : Nat) (v : Word) : (s.csrPut off v).boot = s.boot := rfl
@[simp] theorem csrPut_sb (off : Nat) (v : Word) : (s.csrPut off v).sb = s.sb := rfl
@[simp] theorem csrPut_blob (off : Nat) (v : Word) : (s.csrPut off v).blob = s.blob := rfl
@[simp] theorem csrPut_i3c (off : Nat) (v : Word) : (s.csrPut off v).i3c = s.i3c := rfl
@[simp] theorem csrPut_fw (off : Nat) (v : Word) : (s.csrPut off v).fw = s.fw := rfl
@[simp] theorem csrPut_rdata (off : Nat) (v : Word) : (s.csrPut off v).rdata = s.rdata := rfl
@[simp] theorem csrPut_od (off : Nat) (v : Word) (j : Nat) : (s.csrPut off v).od j = s.od j := rfl
@[simp] theorem csrPut_cell (off : Nat) (v : Word) (c : Nat) : (s.csrPut off v).cell c = s.cell c := rfl
@[simp] theorem csrPut_heldAt (off : Nat) (v : Word) (c : Nat) : (s.csrPut off v).heldAt c = s.heldAt c := rfl
@[simp] theorem csrPut_tile (off : Nat) (v : Word) (q : Nat) : (s.csrPut off v).tile q = s.tile q := rfl

/-! ## `fset` -/

@[simp] theorem fset_pending (f : Fld) (v : Nat) : (s.fset f v).pending = s.pending := rfl
@[simp] theorem fset_freeCtr (f : Fld) (v : Nat) : (s.fset f v).freeCtr = s.freeCtr := rfl
@[simp] theorem fset_rfrac (f : Fld) (v : Nat) : (s.fset f v).rfrac = s.rfrac := rfl
@[simp] theorem fset_dict (f : Fld) (v : Nat) : (s.fset f v).dict = s.dict := rfl
@[simp] theorem fset_gens (f : Fld) (v : Nat) : (s.fset f v).gens = s.gens := rfl
@[simp] theorem fset_mem (f : Fld) (v : Nat) : (s.fset f v).mem = s.mem := rfl
@[simp] theorem fset_flips (f : Fld) (v : Nat) : (s.fset f v).flips = s.flips := rfl
@[simp] theorem fset_ceFull (f : Fld) (v : Nat) : (s.fset f v).ceFull = s.ceFull := rfl
@[simp] theorem fset_umeta (f : Fld) (v : Nat) : (s.fset f v).umeta = s.umeta := rfl
@[simp] theorem fset_dom (f : Fld) (v : Nat) : (s.fset f v).dom = s.dom := rfl
@[simp] theorem fset_msgs (f : Fld) (v : Nat) : (s.fset f v).msgs = s.msgs := rfl
@[simp] theorem fset_tiles (f : Fld) (v : Nat) : (s.fset f v).tiles = s.tiles := rfl
@[simp] theorem fset_prog (f : Fld) (v : Nat) : (s.fset f v).prog = s.prog := rfl
@[simp] theorem fset_we (f : Fld) (v : Nat) : (s.fset f v).we = s.we := rfl
@[simp] theorem fset_md (f : Fld) (v : Nat) : (s.fset f v).md = s.md := rfl
@[simp] theorem fset_dw (f : Fld) (v : Nat) : (s.fset f v).dw = s.dw := rfl
@[simp] theorem fset_regions (f : Fld) (v : Nat) : (s.fset f v).regions = s.regions := rfl
@[simp] theorem fset_rings (f : Fld) (v : Nat) : (s.fset f v).rings = s.rings := rfl
@[simp] theorem fset_rrNext (f : Fld) (v : Nat) : (s.fset f v).rrNext = s.rrNext := rfl
@[simp] theorem fset_job (f : Fld) (v : Nat) : (s.fset f v).job = s.job := rfl
@[simp] theorem fset_windows (f : Fld) (v : Nat) : (s.fset f v).windows = s.windows := rfl
@[simp] theorem fset_epoch (f : Fld) (v : Nat) : (s.fset f v).epoch = s.epoch := rfl
@[simp] theorem fset_mirror (f : Fld) (v : Nat) : (s.fset f v).mirror = s.mirror := rfl
@[simp] theorem fset_barInbox (f : Fld) (v : Nat) : (s.fset f v).barInbox = s.barInbox := rfl
@[simp] theorem fset_ports (f : Fld) (v : Nat) : (s.fset f v).ports = s.ports := rfl
@[simp] theorem fset_router (f : Fld) (v : Nat) : (s.fset f v).router = s.router := rfl
@[simp] theorem fset_clock (f : Fld) (v : Nat) : (s.fset f v).clock = s.clock := rfl
@[simp] theorem fset_me (f : Fld) (v : Nat) : (s.fset f v).me = s.me := rfl
@[simp] theorem fset_rc (f : Fld) (v : Nat) : (s.fset f v).rc = s.rc := rfl
@[simp] theorem fset_replies (f : Fld) (v : Nat) : (s.fset f v).replies = s.replies := rfl
@[simp] theorem fset_gov (f : Fld) (v : Nat) : (s.fset f v).gov = s.gov := rfl
@[simp] theorem fset_therm (f : Fld) (v : Nat) : (s.fset f v).therm = s.therm := rfl
@[simp] theorem fset_notices (f : Fld) (v : Nat) : (s.fset f v).notices = s.notices := rfl
@[simp] theorem fset_noticeSeq (f : Fld) (v : Nat) : (s.fset f v).noticeSeq = s.noticeSeq := rfl
@[simp] theorem fset_il (f : Fld) (v : Nat) : (s.fset f v).il = s.il := rfl
@[simp] theorem fset_mgr (f : Fld) (v : Nat) : (s.fset f v).mgr = s.mgr := rfl
@[simp] theorem fset_evid (f : Fld) (v : Nat) : (s.fset f v).evid = s.evid := rfl
@[simp] theorem fset_boot (f : Fld) (v : Nat) : (s.fset f v).boot = s.boot := rfl
@[simp] theorem fset_sb (f : Fld) (v : Nat) : (s.fset f v).sb = s.sb := rfl
@[simp] theorem fset_blob (f : Fld) (v : Nat) : (s.fset f v).blob = s.blob := rfl
@[simp] theorem fset_i3c (f : Fld) (v : Nat) : (s.fset f v).i3c = s.i3c := rfl
@[simp] theorem fset_fw (f : Fld) (v : Nat) : (s.fset f v).fw = s.fw := rfl
@[simp] theorem fset_rdata (f : Fld) (v : Nat) : (s.fset f v).rdata = s.rdata := rfl
@[simp] theorem fset_od (f : Fld) (v : Nat) (j : Nat) : (s.fset f v).od j = s.od j := rfl
@[simp] theorem fset_cell (f : Fld) (v : Nat) (c : Nat) : (s.fset f v).cell c = s.cell c := rfl
@[simp] theorem fset_heldAt (f : Fld) (v : Nat) (c : Nat) : (s.fset f v).heldAt c = s.heldAt c := rfl
@[simp] theorem fset_tile (f : Fld) (v : Nat) (q : Nat) : (s.fset f v).tile q = s.tile q := rfl

/-! ## `setFlag` -/

@[simp] theorem setFlag_pending (f : Fld) (b : Bool) : (s.setFlag f b).pending = s.pending := rfl
@[simp] theorem setFlag_freeCtr (f : Fld) (b : Bool) : (s.setFlag f b).freeCtr = s.freeCtr := rfl
@[simp] theorem setFlag_rfrac (f : Fld) (b : Bool) : (s.setFlag f b).rfrac = s.rfrac := rfl
@[simp] theorem setFlag_dict (f : Fld) (b : Bool) : (s.setFlag f b).dict = s.dict := rfl
@[simp] theorem setFlag_gens (f : Fld) (b : Bool) : (s.setFlag f b).gens = s.gens := rfl
@[simp] theorem setFlag_mem (f : Fld) (b : Bool) : (s.setFlag f b).mem = s.mem := rfl
@[simp] theorem setFlag_flips (f : Fld) (b : Bool) : (s.setFlag f b).flips = s.flips := rfl
@[simp] theorem setFlag_ceFull (f : Fld) (b : Bool) : (s.setFlag f b).ceFull = s.ceFull := rfl
@[simp] theorem setFlag_umeta (f : Fld) (b : Bool) : (s.setFlag f b).umeta = s.umeta := rfl
@[simp] theorem setFlag_dom (f : Fld) (b : Bool) : (s.setFlag f b).dom = s.dom := rfl
@[simp] theorem setFlag_msgs (f : Fld) (b : Bool) : (s.setFlag f b).msgs = s.msgs := rfl
@[simp] theorem setFlag_tiles (f : Fld) (b : Bool) : (s.setFlag f b).tiles = s.tiles := rfl
@[simp] theorem setFlag_prog (f : Fld) (b : Bool) : (s.setFlag f b).prog = s.prog := rfl
@[simp] theorem setFlag_we (f : Fld) (b : Bool) : (s.setFlag f b).we = s.we := rfl
@[simp] theorem setFlag_md (f : Fld) (b : Bool) : (s.setFlag f b).md = s.md := rfl
@[simp] theorem setFlag_dw (f : Fld) (b : Bool) : (s.setFlag f b).dw = s.dw := rfl
@[simp] theorem setFlag_regions (f : Fld) (b : Bool) : (s.setFlag f b).regions = s.regions := rfl
@[simp] theorem setFlag_rings (f : Fld) (b : Bool) : (s.setFlag f b).rings = s.rings := rfl
@[simp] theorem setFlag_rrNext (f : Fld) (b : Bool) : (s.setFlag f b).rrNext = s.rrNext := rfl
@[simp] theorem setFlag_job (f : Fld) (b : Bool) : (s.setFlag f b).job = s.job := rfl
@[simp] theorem setFlag_windows (f : Fld) (b : Bool) : (s.setFlag f b).windows = s.windows := rfl
@[simp] theorem setFlag_epoch (f : Fld) (b : Bool) : (s.setFlag f b).epoch = s.epoch := rfl
@[simp] theorem setFlag_mirror (f : Fld) (b : Bool) : (s.setFlag f b).mirror = s.mirror := rfl
@[simp] theorem setFlag_barInbox (f : Fld) (b : Bool) : (s.setFlag f b).barInbox = s.barInbox := rfl
@[simp] theorem setFlag_ports (f : Fld) (b : Bool) : (s.setFlag f b).ports = s.ports := rfl
@[simp] theorem setFlag_router (f : Fld) (b : Bool) : (s.setFlag f b).router = s.router := rfl
@[simp] theorem setFlag_clock (f : Fld) (b : Bool) : (s.setFlag f b).clock = s.clock := rfl
@[simp] theorem setFlag_me (f : Fld) (b : Bool) : (s.setFlag f b).me = s.me := rfl
@[simp] theorem setFlag_rc (f : Fld) (b : Bool) : (s.setFlag f b).rc = s.rc := rfl
@[simp] theorem setFlag_replies (f : Fld) (b : Bool) : (s.setFlag f b).replies = s.replies := rfl
@[simp] theorem setFlag_gov (f : Fld) (b : Bool) : (s.setFlag f b).gov = s.gov := rfl
@[simp] theorem setFlag_therm (f : Fld) (b : Bool) : (s.setFlag f b).therm = s.therm := rfl
@[simp] theorem setFlag_notices (f : Fld) (b : Bool) : (s.setFlag f b).notices = s.notices := rfl
@[simp] theorem setFlag_noticeSeq (f : Fld) (b : Bool) : (s.setFlag f b).noticeSeq = s.noticeSeq := rfl
@[simp] theorem setFlag_il (f : Fld) (b : Bool) : (s.setFlag f b).il = s.il := rfl
@[simp] theorem setFlag_mgr (f : Fld) (b : Bool) : (s.setFlag f b).mgr = s.mgr := rfl
@[simp] theorem setFlag_evid (f : Fld) (b : Bool) : (s.setFlag f b).evid = s.evid := rfl
@[simp] theorem setFlag_boot (f : Fld) (b : Bool) : (s.setFlag f b).boot = s.boot := rfl
@[simp] theorem setFlag_sb (f : Fld) (b : Bool) : (s.setFlag f b).sb = s.sb := rfl
@[simp] theorem setFlag_blob (f : Fld) (b : Bool) : (s.setFlag f b).blob = s.blob := rfl
@[simp] theorem setFlag_i3c (f : Fld) (b : Bool) : (s.setFlag f b).i3c = s.i3c := rfl
@[simp] theorem setFlag_fw (f : Fld) (b : Bool) : (s.setFlag f b).fw = s.fw := rfl
@[simp] theorem setFlag_rdata (f : Fld) (b : Bool) : (s.setFlag f b).rdata = s.rdata := rfl
@[simp] theorem setFlag_od (f : Fld) (b : Bool) (j : Nat) : (s.setFlag f b).od j = s.od j := rfl
@[simp] theorem setFlag_cell (f : Fld) (b : Bool) (c : Nat) : (s.setFlag f b).cell c = s.cell c := rfl
@[simp] theorem setFlag_heldAt (f : Fld) (b : Bool) (c : Nat) : (s.setFlag f b).heldAt c = s.heldAt c := rfl
@[simp] theorem setFlag_tile (f : Fld) (b : Bool) (q : Nat) : (s.setFlag f b).tile q = s.tile q := rfl

/-! ## `wrap` -/

@[simp] theorem wrap_pending (f : Fld) (n : Nat) : (s.wrap f n).pending = s.pending := rfl
@[simp] theorem wrap_freeCtr (f : Fld) (n : Nat) : (s.wrap f n).freeCtr = s.freeCtr := rfl
@[simp] theorem wrap_rfrac (f : Fld) (n : Nat) : (s.wrap f n).rfrac = s.rfrac := rfl
@[simp] theorem wrap_dict (f : Fld) (n : Nat) : (s.wrap f n).dict = s.dict := rfl
@[simp] theorem wrap_gens (f : Fld) (n : Nat) : (s.wrap f n).gens = s.gens := rfl
@[simp] theorem wrap_mem (f : Fld) (n : Nat) : (s.wrap f n).mem = s.mem := rfl
@[simp] theorem wrap_flips (f : Fld) (n : Nat) : (s.wrap f n).flips = s.flips := rfl
@[simp] theorem wrap_ceFull (f : Fld) (n : Nat) : (s.wrap f n).ceFull = s.ceFull := rfl
@[simp] theorem wrap_umeta (f : Fld) (n : Nat) : (s.wrap f n).umeta = s.umeta := rfl
@[simp] theorem wrap_dom (f : Fld) (n : Nat) : (s.wrap f n).dom = s.dom := rfl
@[simp] theorem wrap_msgs (f : Fld) (n : Nat) : (s.wrap f n).msgs = s.msgs := rfl
@[simp] theorem wrap_tiles (f : Fld) (n : Nat) : (s.wrap f n).tiles = s.tiles := rfl
@[simp] theorem wrap_prog (f : Fld) (n : Nat) : (s.wrap f n).prog = s.prog := rfl
@[simp] theorem wrap_we (f : Fld) (n : Nat) : (s.wrap f n).we = s.we := rfl
@[simp] theorem wrap_md (f : Fld) (n : Nat) : (s.wrap f n).md = s.md := rfl
@[simp] theorem wrap_dw (f : Fld) (n : Nat) : (s.wrap f n).dw = s.dw := rfl
@[simp] theorem wrap_regions (f : Fld) (n : Nat) : (s.wrap f n).regions = s.regions := rfl
@[simp] theorem wrap_rings (f : Fld) (n : Nat) : (s.wrap f n).rings = s.rings := rfl
@[simp] theorem wrap_rrNext (f : Fld) (n : Nat) : (s.wrap f n).rrNext = s.rrNext := rfl
@[simp] theorem wrap_job (f : Fld) (n : Nat) : (s.wrap f n).job = s.job := rfl
@[simp] theorem wrap_windows (f : Fld) (n : Nat) : (s.wrap f n).windows = s.windows := rfl
@[simp] theorem wrap_epoch (f : Fld) (n : Nat) : (s.wrap f n).epoch = s.epoch := rfl
@[simp] theorem wrap_mirror (f : Fld) (n : Nat) : (s.wrap f n).mirror = s.mirror := rfl
@[simp] theorem wrap_barInbox (f : Fld) (n : Nat) : (s.wrap f n).barInbox = s.barInbox := rfl
@[simp] theorem wrap_ports (f : Fld) (n : Nat) : (s.wrap f n).ports = s.ports := rfl
@[simp] theorem wrap_router (f : Fld) (n : Nat) : (s.wrap f n).router = s.router := rfl
@[simp] theorem wrap_clock (f : Fld) (n : Nat) : (s.wrap f n).clock = s.clock := rfl
@[simp] theorem wrap_me (f : Fld) (n : Nat) : (s.wrap f n).me = s.me := rfl
@[simp] theorem wrap_rc (f : Fld) (n : Nat) : (s.wrap f n).rc = s.rc := rfl
@[simp] theorem wrap_replies (f : Fld) (n : Nat) : (s.wrap f n).replies = s.replies := rfl
@[simp] theorem wrap_gov (f : Fld) (n : Nat) : (s.wrap f n).gov = s.gov := rfl
@[simp] theorem wrap_therm (f : Fld) (n : Nat) : (s.wrap f n).therm = s.therm := rfl
@[simp] theorem wrap_notices (f : Fld) (n : Nat) : (s.wrap f n).notices = s.notices := rfl
@[simp] theorem wrap_noticeSeq (f : Fld) (n : Nat) : (s.wrap f n).noticeSeq = s.noticeSeq := rfl
@[simp] theorem wrap_il (f : Fld) (n : Nat) : (s.wrap f n).il = s.il := rfl
@[simp] theorem wrap_mgr (f : Fld) (n : Nat) : (s.wrap f n).mgr = s.mgr := rfl
@[simp] theorem wrap_evid (f : Fld) (n : Nat) : (s.wrap f n).evid = s.evid := rfl
@[simp] theorem wrap_boot (f : Fld) (n : Nat) : (s.wrap f n).boot = s.boot := rfl
@[simp] theorem wrap_sb (f : Fld) (n : Nat) : (s.wrap f n).sb = s.sb := rfl
@[simp] theorem wrap_blob (f : Fld) (n : Nat) : (s.wrap f n).blob = s.blob := rfl
@[simp] theorem wrap_i3c (f : Fld) (n : Nat) : (s.wrap f n).i3c = s.i3c := rfl
@[simp] theorem wrap_fw (f : Fld) (n : Nat) : (s.wrap f n).fw = s.fw := rfl
@[simp] theorem wrap_rdata (f : Fld) (n : Nat) : (s.wrap f n).rdata = s.rdata := rfl
@[simp] theorem wrap_od (f : Fld) (n : Nat) (j : Nat) : (s.wrap f n).od j = s.od j := rfl
@[simp] theorem wrap_cell (f : Fld) (n : Nat) (c : Nat) : (s.wrap f n).cell c = s.cell c := rfl
@[simp] theorem wrap_heldAt (f : Fld) (n : Nat) (c : Nat) : (s.wrap f n).heldAt c = s.heldAt c := rfl
@[simp] theorem wrap_tile (f : Fld) (n : Nat) (q : Nat) : (s.wrap f n).tile q = s.tile q := rfl

/-! ## `traffic` -/

@[simp] theorem traffic_pending (f : Fld) (n : Nat) : (s.traffic f n).pending = s.pending := rfl
@[simp] theorem traffic_freeCtr (f : Fld) (n : Nat) : (s.traffic f n).freeCtr = s.freeCtr := rfl
@[simp] theorem traffic_rfrac (f : Fld) (n : Nat) : (s.traffic f n).rfrac = s.rfrac := rfl
@[simp] theorem traffic_dict (f : Fld) (n : Nat) : (s.traffic f n).dict = s.dict := rfl
@[simp] theorem traffic_gens (f : Fld) (n : Nat) : (s.traffic f n).gens = s.gens := rfl
@[simp] theorem traffic_mem (f : Fld) (n : Nat) : (s.traffic f n).mem = s.mem := rfl
@[simp] theorem traffic_flips (f : Fld) (n : Nat) : (s.traffic f n).flips = s.flips := rfl
@[simp] theorem traffic_ceFull (f : Fld) (n : Nat) : (s.traffic f n).ceFull = s.ceFull := rfl
@[simp] theorem traffic_umeta (f : Fld) (n : Nat) : (s.traffic f n).umeta = s.umeta := rfl
@[simp] theorem traffic_dom (f : Fld) (n : Nat) : (s.traffic f n).dom = s.dom := rfl
@[simp] theorem traffic_msgs (f : Fld) (n : Nat) : (s.traffic f n).msgs = s.msgs := rfl
@[simp] theorem traffic_tiles (f : Fld) (n : Nat) : (s.traffic f n).tiles = s.tiles := rfl
@[simp] theorem traffic_prog (f : Fld) (n : Nat) : (s.traffic f n).prog = s.prog := rfl
@[simp] theorem traffic_we (f : Fld) (n : Nat) : (s.traffic f n).we = s.we := rfl
@[simp] theorem traffic_md (f : Fld) (n : Nat) : (s.traffic f n).md = s.md := rfl
@[simp] theorem traffic_dw (f : Fld) (n : Nat) : (s.traffic f n).dw = s.dw := rfl
@[simp] theorem traffic_regions (f : Fld) (n : Nat) : (s.traffic f n).regions = s.regions := rfl
@[simp] theorem traffic_rings (f : Fld) (n : Nat) : (s.traffic f n).rings = s.rings := rfl
@[simp] theorem traffic_rrNext (f : Fld) (n : Nat) : (s.traffic f n).rrNext = s.rrNext := rfl
@[simp] theorem traffic_job (f : Fld) (n : Nat) : (s.traffic f n).job = s.job := rfl
@[simp] theorem traffic_windows (f : Fld) (n : Nat) : (s.traffic f n).windows = s.windows := rfl
@[simp] theorem traffic_epoch (f : Fld) (n : Nat) : (s.traffic f n).epoch = s.epoch := rfl
@[simp] theorem traffic_mirror (f : Fld) (n : Nat) : (s.traffic f n).mirror = s.mirror := rfl
@[simp] theorem traffic_barInbox (f : Fld) (n : Nat) : (s.traffic f n).barInbox = s.barInbox := rfl
@[simp] theorem traffic_ports (f : Fld) (n : Nat) : (s.traffic f n).ports = s.ports := rfl
@[simp] theorem traffic_router (f : Fld) (n : Nat) : (s.traffic f n).router = s.router := rfl
@[simp] theorem traffic_clock (f : Fld) (n : Nat) : (s.traffic f n).clock = s.clock := rfl
@[simp] theorem traffic_me (f : Fld) (n : Nat) : (s.traffic f n).me = s.me := rfl
@[simp] theorem traffic_rc (f : Fld) (n : Nat) : (s.traffic f n).rc = s.rc := rfl
@[simp] theorem traffic_replies (f : Fld) (n : Nat) : (s.traffic f n).replies = s.replies := rfl
@[simp] theorem traffic_gov (f : Fld) (n : Nat) : (s.traffic f n).gov = s.gov := rfl
@[simp] theorem traffic_therm (f : Fld) (n : Nat) : (s.traffic f n).therm = s.therm := rfl
@[simp] theorem traffic_notices (f : Fld) (n : Nat) : (s.traffic f n).notices = s.notices := rfl
@[simp] theorem traffic_noticeSeq (f : Fld) (n : Nat) : (s.traffic f n).noticeSeq = s.noticeSeq := rfl
@[simp] theorem traffic_il (f : Fld) (n : Nat) : (s.traffic f n).il = s.il := rfl
@[simp] theorem traffic_mgr (f : Fld) (n : Nat) : (s.traffic f n).mgr = s.mgr := rfl
@[simp] theorem traffic_evid (f : Fld) (n : Nat) : (s.traffic f n).evid = s.evid := rfl
@[simp] theorem traffic_boot (f : Fld) (n : Nat) : (s.traffic f n).boot = s.boot := rfl
@[simp] theorem traffic_sb (f : Fld) (n : Nat) : (s.traffic f n).sb = s.sb := rfl
@[simp] theorem traffic_blob (f : Fld) (n : Nat) : (s.traffic f n).blob = s.blob := rfl
@[simp] theorem traffic_i3c (f : Fld) (n : Nat) : (s.traffic f n).i3c = s.i3c := rfl
@[simp] theorem traffic_fw (f : Fld) (n : Nat) : (s.traffic f n).fw = s.fw := rfl
@[simp] theorem traffic_rdata (f : Fld) (n : Nat) : (s.traffic f n).rdata = s.rdata := rfl
@[simp] theorem traffic_od (f : Fld) (n : Nat) (j : Nat) : (s.traffic f n).od j = s.od j := rfl
@[simp] theorem traffic_cell (f : Fld) (n : Nat) (c : Nat) : (s.traffic f n).cell c = s.cell c := rfl
@[simp] theorem traffic_heldAt (f : Fld) (n : Nat) (c : Nat) : (s.traffic f n).heldAt c = s.heldAt c := rfl
@[simp] theorem traffic_tile (f : Fld) (n : Nat) (q : Nat) : (s.traffic f n).tile q = s.tile q := rfl

/-! ## `bump` -/

@[simp] theorem bump_pending (f o : Fld) (n : Nat) : (s.bump f o n).pending = s.pending := by unfold State.bump; dsimp only; split <;> rfl
@[simp] theorem bump_freeCtr (f o : Fld) (n : Nat) : (s.bump f o n).freeCtr = s.freeCtr := by unfold State.bump; dsimp only; split <;> rfl
@[simp] theorem bump_rfrac (f o : Fld) (n : Nat) : (s.bump f o n).rfrac = s.rfrac := by unfold State.bump; dsimp only; split <;> rfl
@[simp] theorem bump_dict (f o : Fld) (n : Nat) : (s.bump f o n).dict = s.dict := by unfold State.bump; dsimp only; split <;> rfl
@[simp] theorem bump_gens (f o : Fld) (n : Nat) : (s.bump f o n).gens = s.gens := by unfold State.bump; dsimp only; split <;> rfl
@[simp] theorem bump_mem (f o : Fld) (n : Nat) : (s.bump f o n).mem = s.mem := by unfold State.bump; dsimp only; split <;> rfl
@[simp] theorem bump_flips (f o : Fld) (n : Nat) : (s.bump f o n).flips = s.flips := by unfold State.bump; dsimp only; split <;> rfl
@[simp] theorem bump_ceFull (f o : Fld) (n : Nat) : (s.bump f o n).ceFull = s.ceFull := by unfold State.bump; dsimp only; split <;> rfl
@[simp] theorem bump_umeta (f o : Fld) (n : Nat) : (s.bump f o n).umeta = s.umeta := by unfold State.bump; dsimp only; split <;> rfl
@[simp] theorem bump_dom (f o : Fld) (n : Nat) : (s.bump f o n).dom = s.dom := by unfold State.bump; dsimp only; split <;> rfl
@[simp] theorem bump_msgs (f o : Fld) (n : Nat) : (s.bump f o n).msgs = s.msgs := by unfold State.bump; dsimp only; split <;> rfl
@[simp] theorem bump_tiles (f o : Fld) (n : Nat) : (s.bump f o n).tiles = s.tiles := by unfold State.bump; dsimp only; split <;> rfl
@[simp] theorem bump_prog (f o : Fld) (n : Nat) : (s.bump f o n).prog = s.prog := by unfold State.bump; dsimp only; split <;> rfl
@[simp] theorem bump_we (f o : Fld) (n : Nat) : (s.bump f o n).we = s.we := by unfold State.bump; dsimp only; split <;> rfl
@[simp] theorem bump_md (f o : Fld) (n : Nat) : (s.bump f o n).md = s.md := by unfold State.bump; dsimp only; split <;> rfl
@[simp] theorem bump_dw (f o : Fld) (n : Nat) : (s.bump f o n).dw = s.dw := by unfold State.bump; dsimp only; split <;> rfl
@[simp] theorem bump_regions (f o : Fld) (n : Nat) : (s.bump f o n).regions = s.regions := by unfold State.bump; dsimp only; split <;> rfl
@[simp] theorem bump_rings (f o : Fld) (n : Nat) : (s.bump f o n).rings = s.rings := by unfold State.bump; dsimp only; split <;> rfl
@[simp] theorem bump_rrNext (f o : Fld) (n : Nat) : (s.bump f o n).rrNext = s.rrNext := by unfold State.bump; dsimp only; split <;> rfl
@[simp] theorem bump_job (f o : Fld) (n : Nat) : (s.bump f o n).job = s.job := by unfold State.bump; dsimp only; split <;> rfl
@[simp] theorem bump_windows (f o : Fld) (n : Nat) : (s.bump f o n).windows = s.windows := by unfold State.bump; dsimp only; split <;> rfl
@[simp] theorem bump_epoch (f o : Fld) (n : Nat) : (s.bump f o n).epoch = s.epoch := by unfold State.bump; dsimp only; split <;> rfl
@[simp] theorem bump_mirror (f o : Fld) (n : Nat) : (s.bump f o n).mirror = s.mirror := by unfold State.bump; dsimp only; split <;> rfl
@[simp] theorem bump_barInbox (f o : Fld) (n : Nat) : (s.bump f o n).barInbox = s.barInbox := by unfold State.bump; dsimp only; split <;> rfl
@[simp] theorem bump_ports (f o : Fld) (n : Nat) : (s.bump f o n).ports = s.ports := by unfold State.bump; dsimp only; split <;> rfl
@[simp] theorem bump_router (f o : Fld) (n : Nat) : (s.bump f o n).router = s.router := by unfold State.bump; dsimp only; split <;> rfl
@[simp] theorem bump_clock (f o : Fld) (n : Nat) : (s.bump f o n).clock = s.clock := by unfold State.bump; dsimp only; split <;> rfl
@[simp] theorem bump_me (f o : Fld) (n : Nat) : (s.bump f o n).me = s.me := by unfold State.bump; dsimp only; split <;> rfl
@[simp] theorem bump_rc (f o : Fld) (n : Nat) : (s.bump f o n).rc = s.rc := by unfold State.bump; dsimp only; split <;> rfl
@[simp] theorem bump_replies (f o : Fld) (n : Nat) : (s.bump f o n).replies = s.replies := by unfold State.bump; dsimp only; split <;> rfl
@[simp] theorem bump_gov (f o : Fld) (n : Nat) : (s.bump f o n).gov = s.gov := by unfold State.bump; dsimp only; split <;> rfl
@[simp] theorem bump_therm (f o : Fld) (n : Nat) : (s.bump f o n).therm = s.therm := by unfold State.bump; dsimp only; split <;> rfl
@[simp] theorem bump_notices (f o : Fld) (n : Nat) : (s.bump f o n).notices = s.notices := by unfold State.bump; dsimp only; split <;> rfl
@[simp] theorem bump_noticeSeq (f o : Fld) (n : Nat) : (s.bump f o n).noticeSeq = s.noticeSeq := by unfold State.bump; dsimp only; split <;> rfl
@[simp] theorem bump_il (f o : Fld) (n : Nat) : (s.bump f o n).il = s.il := by unfold State.bump; dsimp only; split <;> rfl
@[simp] theorem bump_mgr (f o : Fld) (n : Nat) : (s.bump f o n).mgr = s.mgr := by unfold State.bump; dsimp only; split <;> rfl
@[simp] theorem bump_evid (f o : Fld) (n : Nat) : (s.bump f o n).evid = s.evid := by unfold State.bump; dsimp only; split <;> rfl
@[simp] theorem bump_boot (f o : Fld) (n : Nat) : (s.bump f o n).boot = s.boot := by unfold State.bump; dsimp only; split <;> rfl
@[simp] theorem bump_sb (f o : Fld) (n : Nat) : (s.bump f o n).sb = s.sb := by unfold State.bump; dsimp only; split <;> rfl
@[simp] theorem bump_blob (f o : Fld) (n : Nat) : (s.bump f o n).blob = s.blob := by unfold State.bump; dsimp only; split <;> rfl
@[simp] theorem bump_i3c (f o : Fld) (n : Nat) : (s.bump f o n).i3c = s.i3c := by unfold State.bump; dsimp only; split <;> rfl
@[simp] theorem bump_fw (f o : Fld) (n : Nat) : (s.bump f o n).fw = s.fw := by unfold State.bump; dsimp only; split <;> rfl
@[simp] theorem bump_rdata (f o : Fld) (n : Nat) : (s.bump f o n).rdata = s.rdata := by unfold State.bump; dsimp only; split <;> rfl
@[simp] theorem bump_od (f o : Fld) (n : Nat) (j : Nat) : (s.bump f o n).od j = s.od j := by unfold State.od; rw [bump_dict]
@[simp] theorem bump_cell (f o : Fld) (n : Nat) (c : Nat) : (s.bump f o n).cell c = s.cell c := by unfold State.cell; rw [bump_mem, slot_of_md (bump_md _ _ _ _)]
@[simp] theorem bump_heldAt (f o : Fld) (n : Nat) (c : Nat) : (s.bump f o n).heldAt c = s.heldAt c := by unfold State.heldAt; rw [bump_msgs]
@[simp] theorem bump_tile (f o : Fld) (n : Nat) (q : Nat) : (s.bump f o n).tile q = s.tile q := by unfold State.tile; rw [bump_tiles]

/-! ## `capture` -/

@[simp] theorem capture_pending (valid : Fld) (reg : Nat) (w : Word) (areg a : Nat) : (s.capture valid reg w areg a).pending = s.pending := by unfold State.capture; split <;> rfl
@[simp] theorem capture_freeCtr (valid : Fld) (reg : Nat) (w : Word) (areg a : Nat) : (s.capture valid reg w areg a).freeCtr = s.freeCtr := by unfold State.capture; split <;> rfl
@[simp] theorem capture_rfrac (valid : Fld) (reg : Nat) (w : Word) (areg a : Nat) : (s.capture valid reg w areg a).rfrac = s.rfrac := by unfold State.capture; split <;> rfl
@[simp] theorem capture_dict (valid : Fld) (reg : Nat) (w : Word) (areg a : Nat) : (s.capture valid reg w areg a).dict = s.dict := by unfold State.capture; split <;> rfl
@[simp] theorem capture_gens (valid : Fld) (reg : Nat) (w : Word) (areg a : Nat) : (s.capture valid reg w areg a).gens = s.gens := by unfold State.capture; split <;> rfl
@[simp] theorem capture_mem (valid : Fld) (reg : Nat) (w : Word) (areg a : Nat) : (s.capture valid reg w areg a).mem = s.mem := by unfold State.capture; split <;> rfl
@[simp] theorem capture_flips (valid : Fld) (reg : Nat) (w : Word) (areg a : Nat) : (s.capture valid reg w areg a).flips = s.flips := by unfold State.capture; split <;> rfl
@[simp] theorem capture_ceFull (valid : Fld) (reg : Nat) (w : Word) (areg a : Nat) : (s.capture valid reg w areg a).ceFull = s.ceFull := by unfold State.capture; split <;> rfl
@[simp] theorem capture_umeta (valid : Fld) (reg : Nat) (w : Word) (areg a : Nat) : (s.capture valid reg w areg a).umeta = s.umeta := by unfold State.capture; split <;> rfl
@[simp] theorem capture_dom (valid : Fld) (reg : Nat) (w : Word) (areg a : Nat) : (s.capture valid reg w areg a).dom = s.dom := by unfold State.capture; split <;> rfl
@[simp] theorem capture_msgs (valid : Fld) (reg : Nat) (w : Word) (areg a : Nat) : (s.capture valid reg w areg a).msgs = s.msgs := by unfold State.capture; split <;> rfl
@[simp] theorem capture_tiles (valid : Fld) (reg : Nat) (w : Word) (areg a : Nat) : (s.capture valid reg w areg a).tiles = s.tiles := by unfold State.capture; split <;> rfl
@[simp] theorem capture_prog (valid : Fld) (reg : Nat) (w : Word) (areg a : Nat) : (s.capture valid reg w areg a).prog = s.prog := by unfold State.capture; split <;> rfl
@[simp] theorem capture_we (valid : Fld) (reg : Nat) (w : Word) (areg a : Nat) : (s.capture valid reg w areg a).we = s.we := by unfold State.capture; split <;> rfl
@[simp] theorem capture_md (valid : Fld) (reg : Nat) (w : Word) (areg a : Nat) : (s.capture valid reg w areg a).md = s.md := by unfold State.capture; split <;> rfl
@[simp] theorem capture_dw (valid : Fld) (reg : Nat) (w : Word) (areg a : Nat) : (s.capture valid reg w areg a).dw = s.dw := by unfold State.capture; split <;> rfl
@[simp] theorem capture_regions (valid : Fld) (reg : Nat) (w : Word) (areg a : Nat) : (s.capture valid reg w areg a).regions = s.regions := by unfold State.capture; split <;> rfl
@[simp] theorem capture_rings (valid : Fld) (reg : Nat) (w : Word) (areg a : Nat) : (s.capture valid reg w areg a).rings = s.rings := by unfold State.capture; split <;> rfl
@[simp] theorem capture_rrNext (valid : Fld) (reg : Nat) (w : Word) (areg a : Nat) : (s.capture valid reg w areg a).rrNext = s.rrNext := by unfold State.capture; split <;> rfl
@[simp] theorem capture_job (valid : Fld) (reg : Nat) (w : Word) (areg a : Nat) : (s.capture valid reg w areg a).job = s.job := by unfold State.capture; split <;> rfl
@[simp] theorem capture_windows (valid : Fld) (reg : Nat) (w : Word) (areg a : Nat) : (s.capture valid reg w areg a).windows = s.windows := by unfold State.capture; split <;> rfl
@[simp] theorem capture_epoch (valid : Fld) (reg : Nat) (w : Word) (areg a : Nat) : (s.capture valid reg w areg a).epoch = s.epoch := by unfold State.capture; split <;> rfl
@[simp] theorem capture_mirror (valid : Fld) (reg : Nat) (w : Word) (areg a : Nat) : (s.capture valid reg w areg a).mirror = s.mirror := by unfold State.capture; split <;> rfl
@[simp] theorem capture_barInbox (valid : Fld) (reg : Nat) (w : Word) (areg a : Nat) : (s.capture valid reg w areg a).barInbox = s.barInbox := by unfold State.capture; split <;> rfl
@[simp] theorem capture_ports (valid : Fld) (reg : Nat) (w : Word) (areg a : Nat) : (s.capture valid reg w areg a).ports = s.ports := by unfold State.capture; split <;> rfl
@[simp] theorem capture_router (valid : Fld) (reg : Nat) (w : Word) (areg a : Nat) : (s.capture valid reg w areg a).router = s.router := by unfold State.capture; split <;> rfl
@[simp] theorem capture_clock (valid : Fld) (reg : Nat) (w : Word) (areg a : Nat) : (s.capture valid reg w areg a).clock = s.clock := by unfold State.capture; split <;> rfl
@[simp] theorem capture_me (valid : Fld) (reg : Nat) (w : Word) (areg a : Nat) : (s.capture valid reg w areg a).me = s.me := by unfold State.capture; split <;> rfl
@[simp] theorem capture_rc (valid : Fld) (reg : Nat) (w : Word) (areg a : Nat) : (s.capture valid reg w areg a).rc = s.rc := by unfold State.capture; split <;> rfl
@[simp] theorem capture_replies (valid : Fld) (reg : Nat) (w : Word) (areg a : Nat) : (s.capture valid reg w areg a).replies = s.replies := by unfold State.capture; split <;> rfl
@[simp] theorem capture_gov (valid : Fld) (reg : Nat) (w : Word) (areg a : Nat) : (s.capture valid reg w areg a).gov = s.gov := by unfold State.capture; split <;> rfl
@[simp] theorem capture_therm (valid : Fld) (reg : Nat) (w : Word) (areg a : Nat) : (s.capture valid reg w areg a).therm = s.therm := by unfold State.capture; split <;> rfl
@[simp] theorem capture_notices (valid : Fld) (reg : Nat) (w : Word) (areg a : Nat) : (s.capture valid reg w areg a).notices = s.notices := by unfold State.capture; split <;> rfl
@[simp] theorem capture_noticeSeq (valid : Fld) (reg : Nat) (w : Word) (areg a : Nat) : (s.capture valid reg w areg a).noticeSeq = s.noticeSeq := by unfold State.capture; split <;> rfl
@[simp] theorem capture_il (valid : Fld) (reg : Nat) (w : Word) (areg a : Nat) : (s.capture valid reg w areg a).il = s.il := by unfold State.capture; split <;> rfl
@[simp] theorem capture_mgr (valid : Fld) (reg : Nat) (w : Word) (areg a : Nat) : (s.capture valid reg w areg a).mgr = s.mgr := by unfold State.capture; split <;> rfl
@[simp] theorem capture_evid (valid : Fld) (reg : Nat) (w : Word) (areg a : Nat) : (s.capture valid reg w areg a).evid = s.evid := by unfold State.capture; split <;> rfl
@[simp] theorem capture_boot (valid : Fld) (reg : Nat) (w : Word) (areg a : Nat) : (s.capture valid reg w areg a).boot = s.boot := by unfold State.capture; split <;> rfl
@[simp] theorem capture_sb (valid : Fld) (reg : Nat) (w : Word) (areg a : Nat) : (s.capture valid reg w areg a).sb = s.sb := by unfold State.capture; split <;> rfl
@[simp] theorem capture_blob (valid : Fld) (reg : Nat) (w : Word) (areg a : Nat) : (s.capture valid reg w areg a).blob = s.blob := by unfold State.capture; split <;> rfl
@[simp] theorem capture_i3c (valid : Fld) (reg : Nat) (w : Word) (areg a : Nat) : (s.capture valid reg w areg a).i3c = s.i3c := by unfold State.capture; split <;> rfl
@[simp] theorem capture_fw (valid : Fld) (reg : Nat) (w : Word) (areg a : Nat) : (s.capture valid reg w areg a).fw = s.fw := by unfold State.capture; split <;> rfl
@[simp] theorem capture_rdata (valid : Fld) (reg : Nat) (w : Word) (areg a : Nat) : (s.capture valid reg w areg a).rdata = s.rdata := by unfold State.capture; split <;> rfl
@[simp] theorem capture_od (valid : Fld) (reg : Nat) (w : Word) (areg a : Nat) (j : Nat) : (s.capture valid reg w areg a).od j = s.od j := by unfold State.od; rw [capture_dict]
@[simp] theorem capture_cell (valid : Fld) (reg : Nat) (w : Word) (areg a : Nat) (c : Nat) : (s.capture valid reg w areg a).cell c = s.cell c := by unfold State.cell; rw [capture_mem, slot_of_md (capture_md _ _ _ _ _ _)]
@[simp] theorem capture_heldAt (valid : Fld) (reg : Nat) (w : Word) (areg a : Nat) (c : Nat) : (s.capture valid reg w areg a).heldAt c = s.heldAt c := by unfold State.heldAt; rw [capture_msgs]
@[simp] theorem capture_tile (valid : Fld) (reg : Nat) (w : Word) (areg a : Nat) (q : Nat) : (s.capture valid reg w areg a).tile q = s.tile q := by unfold State.tile; rw [capture_tiles]

/-! ## `setTileState` -/

@[simp] theorem setTileState_pending (p v : Nat) : (s.setTileState p v).pending = s.pending := fset_pending _ _ _
@[simp] theorem setTileState_freeCtr (p v : Nat) : (s.setTileState p v).freeCtr = s.freeCtr := fset_freeCtr _ _ _
@[simp] theorem setTileState_rfrac (p v : Nat) : (s.setTileState p v).rfrac = s.rfrac := fset_rfrac _ _ _
@[simp] theorem setTileState_dict (p v : Nat) : (s.setTileState p v).dict = s.dict := fset_dict _ _ _
@[simp] theorem setTileState_gens (p v : Nat) : (s.setTileState p v).gens = s.gens := fset_gens _ _ _
@[simp] theorem setTileState_mem (p v : Nat) : (s.setTileState p v).mem = s.mem := fset_mem _ _ _
@[simp] theorem setTileState_flips (p v : Nat) : (s.setTileState p v).flips = s.flips := fset_flips _ _ _
@[simp] theorem setTileState_ceFull (p v : Nat) : (s.setTileState p v).ceFull = s.ceFull := fset_ceFull _ _ _
@[simp] theorem setTileState_umeta (p v : Nat) : (s.setTileState p v).umeta = s.umeta := fset_umeta _ _ _
@[simp] theorem setTileState_dom (p v : Nat) : (s.setTileState p v).dom = s.dom := fset_dom _ _ _
@[simp] theorem setTileState_msgs (p v : Nat) : (s.setTileState p v).msgs = s.msgs := fset_msgs _ _ _
@[simp] theorem setTileState_tiles (p v : Nat) : (s.setTileState p v).tiles = s.tiles := fset_tiles _ _ _
@[simp] theorem setTileState_prog (p v : Nat) : (s.setTileState p v).prog = s.prog := fset_prog _ _ _
@[simp] theorem setTileState_we (p v : Nat) : (s.setTileState p v).we = s.we := fset_we _ _ _
@[simp] theorem setTileState_md (p v : Nat) : (s.setTileState p v).md = s.md := fset_md _ _ _
@[simp] theorem setTileState_dw (p v : Nat) : (s.setTileState p v).dw = s.dw := fset_dw _ _ _
@[simp] theorem setTileState_regions (p v : Nat) : (s.setTileState p v).regions = s.regions := fset_regions _ _ _
@[simp] theorem setTileState_rings (p v : Nat) : (s.setTileState p v).rings = s.rings := fset_rings _ _ _
@[simp] theorem setTileState_rrNext (p v : Nat) : (s.setTileState p v).rrNext = s.rrNext := fset_rrNext _ _ _
@[simp] theorem setTileState_job (p v : Nat) : (s.setTileState p v).job = s.job := fset_job _ _ _
@[simp] theorem setTileState_windows (p v : Nat) : (s.setTileState p v).windows = s.windows := fset_windows _ _ _
@[simp] theorem setTileState_epoch (p v : Nat) : (s.setTileState p v).epoch = s.epoch := fset_epoch _ _ _
@[simp] theorem setTileState_mirror (p v : Nat) : (s.setTileState p v).mirror = s.mirror := fset_mirror _ _ _
@[simp] theorem setTileState_barInbox (p v : Nat) : (s.setTileState p v).barInbox = s.barInbox := fset_barInbox _ _ _
@[simp] theorem setTileState_ports (p v : Nat) : (s.setTileState p v).ports = s.ports := fset_ports _ _ _
@[simp] theorem setTileState_router (p v : Nat) : (s.setTileState p v).router = s.router := fset_router _ _ _
@[simp] theorem setTileState_clock (p v : Nat) : (s.setTileState p v).clock = s.clock := fset_clock _ _ _
@[simp] theorem setTileState_me (p v : Nat) : (s.setTileState p v).me = s.me := fset_me _ _ _
@[simp] theorem setTileState_rc (p v : Nat) : (s.setTileState p v).rc = s.rc := fset_rc _ _ _
@[simp] theorem setTileState_replies (p v : Nat) : (s.setTileState p v).replies = s.replies := fset_replies _ _ _
@[simp] theorem setTileState_gov (p v : Nat) : (s.setTileState p v).gov = s.gov := fset_gov _ _ _
@[simp] theorem setTileState_therm (p v : Nat) : (s.setTileState p v).therm = s.therm := fset_therm _ _ _
@[simp] theorem setTileState_notices (p v : Nat) : (s.setTileState p v).notices = s.notices := fset_notices _ _ _
@[simp] theorem setTileState_noticeSeq (p v : Nat) : (s.setTileState p v).noticeSeq = s.noticeSeq := fset_noticeSeq _ _ _
@[simp] theorem setTileState_il (p v : Nat) : (s.setTileState p v).il = s.il := fset_il _ _ _
@[simp] theorem setTileState_mgr (p v : Nat) : (s.setTileState p v).mgr = s.mgr := fset_mgr _ _ _
@[simp] theorem setTileState_evid (p v : Nat) : (s.setTileState p v).evid = s.evid := fset_evid _ _ _
@[simp] theorem setTileState_boot (p v : Nat) : (s.setTileState p v).boot = s.boot := fset_boot _ _ _
@[simp] theorem setTileState_sb (p v : Nat) : (s.setTileState p v).sb = s.sb := fset_sb _ _ _
@[simp] theorem setTileState_blob (p v : Nat) : (s.setTileState p v).blob = s.blob := fset_blob _ _ _
@[simp] theorem setTileState_i3c (p v : Nat) : (s.setTileState p v).i3c = s.i3c := fset_i3c _ _ _
@[simp] theorem setTileState_fw (p v : Nat) : (s.setTileState p v).fw = s.fw := fset_fw _ _ _
@[simp] theorem setTileState_rdata (p v : Nat) : (s.setTileState p v).rdata = s.rdata := fset_rdata _ _ _
@[simp] theorem setTileState_od (p v : Nat) (j : Nat) : (s.setTileState p v).od j = s.od j := fset_od _ _ _ _
@[simp] theorem setTileState_cell (p v : Nat) (c : Nat) : (s.setTileState p v).cell c = s.cell c := fset_cell _ _ _ _
@[simp] theorem setTileState_heldAt (p v : Nat) (c : Nat) : (s.setTileState p v).heldAt c = s.heldAt c := fset_heldAt _ _ _ _
@[simp] theorem setTileState_tile (p v : Nat) (q : Nat) : (s.setTileState p v).tile q = s.tile q := fset_tile _ _ _ _

/-! ## `odPut` -/

@[simp] theorem odPut_pending (k v : Nat) : (s.odPut k v).pending = s.pending := rfl
@[simp] theorem odPut_freeCtr (k v : Nat) : (s.odPut k v).freeCtr = s.freeCtr := rfl
@[simp] theorem odPut_rfrac (k v : Nat) : (s.odPut k v).rfrac = s.rfrac := rfl
@[simp] theorem odPut_csr (k v : Nat) : (s.odPut k v).csr = s.csr := rfl
@[simp] theorem odPut_gens (k v : Nat) : (s.odPut k v).gens = s.gens := rfl
@[simp] theorem odPut_mem (k v : Nat) : (s.odPut k v).mem = s.mem := rfl
@[simp] theorem odPut_flips (k v : Nat) : (s.odPut k v).flips = s.flips := rfl
@[simp] theorem odPut_ceFull (k v : Nat) : (s.odPut k v).ceFull = s.ceFull := rfl
@[simp] theorem odPut_umeta (k v : Nat) : (s.odPut k v).umeta = s.umeta := rfl
@[simp] theorem odPut_dom (k v : Nat) : (s.odPut k v).dom = s.dom := rfl
@[simp] theorem odPut_msgs (k v : Nat) : (s.odPut k v).msgs = s.msgs := rfl
@[simp] theorem odPut_tiles (k v : Nat) : (s.odPut k v).tiles = s.tiles := rfl
@[simp] theorem odPut_prog (k v : Nat) : (s.odPut k v).prog = s.prog := rfl
@[simp] theorem odPut_we (k v : Nat) : (s.odPut k v).we = s.we := rfl
@[simp] theorem odPut_md (k v : Nat) : (s.odPut k v).md = s.md := rfl
@[simp] theorem odPut_dw (k v : Nat) : (s.odPut k v).dw = s.dw := rfl
@[simp] theorem odPut_regions (k v : Nat) : (s.odPut k v).regions = s.regions := rfl
@[simp] theorem odPut_rings (k v : Nat) : (s.odPut k v).rings = s.rings := rfl
@[simp] theorem odPut_rrNext (k v : Nat) : (s.odPut k v).rrNext = s.rrNext := rfl
@[simp] theorem odPut_job (k v : Nat) : (s.odPut k v).job = s.job := rfl
@[simp] theorem odPut_windows (k v : Nat) : (s.odPut k v).windows = s.windows := rfl
@[simp] theorem odPut_epoch (k v : Nat) : (s.odPut k v).epoch = s.epoch := rfl
@[simp] theorem odPut_mirror (k v : Nat) : (s.odPut k v).mirror = s.mirror := rfl
@[simp] theorem odPut_barInbox (k v : Nat) : (s.odPut k v).barInbox = s.barInbox := rfl
@[simp] theorem odPut_ports (k v : Nat) : (s.odPut k v).ports = s.ports := rfl
@[simp] theorem odPut_router (k v : Nat) : (s.odPut k v).router = s.router := rfl
@[simp] theorem odPut_clock (k v : Nat) : (s.odPut k v).clock = s.clock := rfl
@[simp] theorem odPut_me (k v : Nat) : (s.odPut k v).me = s.me := rfl
@[simp] theorem odPut_rc (k v : Nat) : (s.odPut k v).rc = s.rc := rfl
@[simp] theorem odPut_replies (k v : Nat) : (s.odPut k v).replies = s.replies := rfl
@[simp] theorem odPut_gov (k v : Nat) : (s.odPut k v).gov = s.gov := rfl
@[simp] theorem odPut_therm (k v : Nat) : (s.odPut k v).therm = s.therm := rfl
@[simp] theorem odPut_notices (k v : Nat) : (s.odPut k v).notices = s.notices := rfl
@[simp] theorem odPut_noticeSeq (k v : Nat) : (s.odPut k v).noticeSeq = s.noticeSeq := rfl
@[simp] theorem odPut_il (k v : Nat) : (s.odPut k v).il = s.il := rfl
@[simp] theorem odPut_mgr (k v : Nat) : (s.odPut k v).mgr = s.mgr := rfl
@[simp] theorem odPut_evid (k v : Nat) : (s.odPut k v).evid = s.evid := rfl
@[simp] theorem odPut_boot (k v : Nat) : (s.odPut k v).boot = s.boot := rfl
@[simp] theorem odPut_sb (k v : Nat) : (s.odPut k v).sb = s.sb := rfl
@[simp] theorem odPut_blob (k v : Nat) : (s.odPut k v).blob = s.blob := rfl
@[simp] theorem odPut_i3c (k v : Nat) : (s.odPut k v).i3c = s.i3c := rfl
@[simp] theorem odPut_fw (k v : Nat) : (s.odPut k v).fw = s.fw := rfl
@[simp] theorem odPut_rdata (k v : Nat) : (s.odPut k v).rdata = s.rdata := rfl
@[simp] theorem odPut_csrGet (k v : Nat) (o : Nat) : (s.odPut k v).csrGet o = s.csrGet o := rfl
@[simp] theorem odPut_fget (k v : Nat) (g : Fld) : (s.odPut k v).fget g = s.fget g := rfl
@[simp] theorem odPut_flag (k v : Nat) (g : Fld) : (s.odPut k v).flag g = s.flag g := rfl
@[simp] theorem odPut_cell (k v : Nat) (c : Nat) : (s.odPut k v).cell c = s.cell c := rfl
@[simp] theorem odPut_heldAt (k v : Nat) (c : Nat) : (s.odPut k v).heldAt c = s.heldAt c := rfl
@[simp] theorem odPut_tile (k v : Nat) (q : Nat) : (s.odPut k v).tile q = s.tile q := rfl

/-! ## `odBump` -/

@[simp] theorem odBump_pending (k : Nat) : (s.odBump k).pending = s.pending := rfl
@[simp] theorem odBump_freeCtr (k : Nat) : (s.odBump k).freeCtr = s.freeCtr := rfl
@[simp] theorem odBump_rfrac (k : Nat) : (s.odBump k).rfrac = s.rfrac := rfl
@[simp] theorem odBump_csr (k : Nat) : (s.odBump k).csr = s.csr := rfl
@[simp] theorem odBump_gens (k : Nat) : (s.odBump k).gens = s.gens := rfl
@[simp] theorem odBump_mem (k : Nat) : (s.odBump k).mem = s.mem := rfl
@[simp] theorem odBump_flips (k : Nat) : (s.odBump k).flips = s.flips := rfl
@[simp] theorem odBump_ceFull (k : Nat) : (s.odBump k).ceFull = s.ceFull := rfl
@[simp] theorem odBump_umeta (k : Nat) : (s.odBump k).umeta = s.umeta := rfl
@[simp] theorem odBump_dom (k : Nat) : (s.odBump k).dom = s.dom := rfl
@[simp] theorem odBump_msgs (k : Nat) : (s.odBump k).msgs = s.msgs := rfl
@[simp] theorem odBump_tiles (k : Nat) : (s.odBump k).tiles = s.tiles := rfl
@[simp] theorem odBump_prog (k : Nat) : (s.odBump k).prog = s.prog := rfl
@[simp] theorem odBump_we (k : Nat) : (s.odBump k).we = s.we := rfl
@[simp] theorem odBump_md (k : Nat) : (s.odBump k).md = s.md := rfl
@[simp] theorem odBump_dw (k : Nat) : (s.odBump k).dw = s.dw := rfl
@[simp] theorem odBump_regions (k : Nat) : (s.odBump k).regions = s.regions := rfl
@[simp] theorem odBump_rings (k : Nat) : (s.odBump k).rings = s.rings := rfl
@[simp] theorem odBump_rrNext (k : Nat) : (s.odBump k).rrNext = s.rrNext := rfl
@[simp] theorem odBump_job (k : Nat) : (s.odBump k).job = s.job := rfl
@[simp] theorem odBump_windows (k : Nat) : (s.odBump k).windows = s.windows := rfl
@[simp] theorem odBump_epoch (k : Nat) : (s.odBump k).epoch = s.epoch := rfl
@[simp] theorem odBump_mirror (k : Nat) : (s.odBump k).mirror = s.mirror := rfl
@[simp] theorem odBump_barInbox (k : Nat) : (s.odBump k).barInbox = s.barInbox := rfl
@[simp] theorem odBump_ports (k : Nat) : (s.odBump k).ports = s.ports := rfl
@[simp] theorem odBump_router (k : Nat) : (s.odBump k).router = s.router := rfl
@[simp] theorem odBump_clock (k : Nat) : (s.odBump k).clock = s.clock := rfl
@[simp] theorem odBump_me (k : Nat) : (s.odBump k).me = s.me := rfl
@[simp] theorem odBump_rc (k : Nat) : (s.odBump k).rc = s.rc := rfl
@[simp] theorem odBump_replies (k : Nat) : (s.odBump k).replies = s.replies := rfl
@[simp] theorem odBump_gov (k : Nat) : (s.odBump k).gov = s.gov := rfl
@[simp] theorem odBump_therm (k : Nat) : (s.odBump k).therm = s.therm := rfl
@[simp] theorem odBump_notices (k : Nat) : (s.odBump k).notices = s.notices := rfl
@[simp] theorem odBump_noticeSeq (k : Nat) : (s.odBump k).noticeSeq = s.noticeSeq := rfl
@[simp] theorem odBump_il (k : Nat) : (s.odBump k).il = s.il := rfl
@[simp] theorem odBump_mgr (k : Nat) : (s.odBump k).mgr = s.mgr := rfl
@[simp] theorem odBump_evid (k : Nat) : (s.odBump k).evid = s.evid := rfl
@[simp] theorem odBump_boot (k : Nat) : (s.odBump k).boot = s.boot := rfl
@[simp] theorem odBump_sb (k : Nat) : (s.odBump k).sb = s.sb := rfl
@[simp] theorem odBump_blob (k : Nat) : (s.odBump k).blob = s.blob := rfl
@[simp] theorem odBump_i3c (k : Nat) : (s.odBump k).i3c = s.i3c := rfl
@[simp] theorem odBump_fw (k : Nat) : (s.odBump k).fw = s.fw := rfl
@[simp] theorem odBump_rdata (k : Nat) : (s.odBump k).rdata = s.rdata := rfl
@[simp] theorem odBump_csrGet (k : Nat) (o : Nat) : (s.odBump k).csrGet o = s.csrGet o := rfl
@[simp] theorem odBump_fget (k : Nat) (g : Fld) : (s.odBump k).fget g = s.fget g := rfl
@[simp] theorem odBump_flag (k : Nat) (g : Fld) : (s.odBump k).flag g = s.flag g := rfl
@[simp] theorem odBump_cell (k : Nat) (c : Nat) : (s.odBump k).cell c = s.cell c := rfl
@[simp] theorem odBump_heldAt (k : Nat) (c : Nat) : (s.odBump k).heldAt c = s.heldAt c := rfl
@[simp] theorem odBump_tile (k : Nat) (q : Nat) : (s.odBump k).tile q = s.tile q := rfl

/-! ## `event` -/

@[simp] theorem event_pending (source code : Nat) (l : List Byte) : (s.event source code l).pending = s.pending := by unfold State.event; dsimp only; split; exact bump_pending _ _ _ _; rfl
@[simp] theorem event_freeCtr (source code : Nat) (l : List Byte) : (s.event source code l).freeCtr = s.freeCtr := by unfold State.event; dsimp only; split; exact bump_freeCtr _ _ _ _; rfl
@[simp] theorem event_rfrac (source code : Nat) (l : List Byte) : (s.event source code l).rfrac = s.rfrac := by unfold State.event; dsimp only; split; exact bump_rfrac _ _ _ _; rfl
@[simp] theorem event_dict (source code : Nat) (l : List Byte) : (s.event source code l).dict = s.dict := by unfold State.event; dsimp only; split; exact bump_dict _ _ _ _; rfl
@[simp] theorem event_gens (source code : Nat) (l : List Byte) : (s.event source code l).gens = s.gens := by unfold State.event; dsimp only; split; exact bump_gens _ _ _ _; rfl
@[simp] theorem event_mem (source code : Nat) (l : List Byte) : (s.event source code l).mem = s.mem := by unfold State.event; dsimp only; split; exact bump_mem _ _ _ _; rfl
@[simp] theorem event_flips (source code : Nat) (l : List Byte) : (s.event source code l).flips = s.flips := by unfold State.event; dsimp only; split; exact bump_flips _ _ _ _; rfl
@[simp] theorem event_ceFull (source code : Nat) (l : List Byte) : (s.event source code l).ceFull = s.ceFull := by unfold State.event; dsimp only; split; exact bump_ceFull _ _ _ _; rfl
@[simp] theorem event_umeta (source code : Nat) (l : List Byte) : (s.event source code l).umeta = s.umeta := by unfold State.event; dsimp only; split; exact bump_umeta _ _ _ _; rfl
@[simp] theorem event_dom (source code : Nat) (l : List Byte) : (s.event source code l).dom = s.dom := by unfold State.event; dsimp only; split; exact bump_dom _ _ _ _; rfl
@[simp] theorem event_msgs (source code : Nat) (l : List Byte) : (s.event source code l).msgs = s.msgs := by unfold State.event; dsimp only; split; exact bump_msgs _ _ _ _; rfl
@[simp] theorem event_tiles (source code : Nat) (l : List Byte) : (s.event source code l).tiles = s.tiles := by unfold State.event; dsimp only; split; exact bump_tiles _ _ _ _; rfl
@[simp] theorem event_prog (source code : Nat) (l : List Byte) : (s.event source code l).prog = s.prog := by unfold State.event; dsimp only; split; exact bump_prog _ _ _ _; rfl
@[simp] theorem event_we (source code : Nat) (l : List Byte) : (s.event source code l).we = s.we := by unfold State.event; dsimp only; split; exact bump_we _ _ _ _; rfl
@[simp] theorem event_md (source code : Nat) (l : List Byte) : (s.event source code l).md = s.md := by unfold State.event; dsimp only; split; exact bump_md _ _ _ _; rfl
@[simp] theorem event_regions (source code : Nat) (l : List Byte) : (s.event source code l).regions = s.regions := by unfold State.event; dsimp only; split; exact bump_regions _ _ _ _; rfl
@[simp] theorem event_rings (source code : Nat) (l : List Byte) : (s.event source code l).rings = s.rings := by unfold State.event; dsimp only; split; exact bump_rings _ _ _ _; rfl
@[simp] theorem event_rrNext (source code : Nat) (l : List Byte) : (s.event source code l).rrNext = s.rrNext := by unfold State.event; dsimp only; split; exact bump_rrNext _ _ _ _; rfl
@[simp] theorem event_job (source code : Nat) (l : List Byte) : (s.event source code l).job = s.job := by unfold State.event; dsimp only; split; exact bump_job _ _ _ _; rfl
@[simp] theorem event_windows (source code : Nat) (l : List Byte) : (s.event source code l).windows = s.windows := by unfold State.event; dsimp only; split; exact bump_windows _ _ _ _; rfl
@[simp] theorem event_epoch (source code : Nat) (l : List Byte) : (s.event source code l).epoch = s.epoch := by unfold State.event; dsimp only; split; exact bump_epoch _ _ _ _; rfl
@[simp] theorem event_mirror (source code : Nat) (l : List Byte) : (s.event source code l).mirror = s.mirror := by unfold State.event; dsimp only; split; exact bump_mirror _ _ _ _; rfl
@[simp] theorem event_barInbox (source code : Nat) (l : List Byte) : (s.event source code l).barInbox = s.barInbox := by unfold State.event; dsimp only; split; exact bump_barInbox _ _ _ _; rfl
@[simp] theorem event_ports (source code : Nat) (l : List Byte) : (s.event source code l).ports = s.ports := by unfold State.event; dsimp only; split; exact bump_ports _ _ _ _; rfl
@[simp] theorem event_router (source code : Nat) (l : List Byte) : (s.event source code l).router = s.router := by unfold State.event; dsimp only; split; exact bump_router _ _ _ _; rfl
@[simp] theorem event_clock (source code : Nat) (l : List Byte) : (s.event source code l).clock = s.clock := by unfold State.event; dsimp only; split; exact bump_clock _ _ _ _; rfl
@[simp] theorem event_me (source code : Nat) (l : List Byte) : (s.event source code l).me = s.me := by unfold State.event; dsimp only; split; exact bump_me _ _ _ _; rfl
@[simp] theorem event_rc (source code : Nat) (l : List Byte) : (s.event source code l).rc = s.rc := by unfold State.event; dsimp only; split; exact bump_rc _ _ _ _; rfl
@[simp] theorem event_replies (source code : Nat) (l : List Byte) : (s.event source code l).replies = s.replies := by unfold State.event; dsimp only; split; exact bump_replies _ _ _ _; rfl
@[simp] theorem event_gov (source code : Nat) (l : List Byte) : (s.event source code l).gov = s.gov := by unfold State.event; dsimp only; split; exact bump_gov _ _ _ _; rfl
@[simp] theorem event_therm (source code : Nat) (l : List Byte) : (s.event source code l).therm = s.therm := by unfold State.event; dsimp only; split; exact bump_therm _ _ _ _; rfl
@[simp] theorem event_notices (source code : Nat) (l : List Byte) : (s.event source code l).notices = s.notices := by unfold State.event; dsimp only; split; exact bump_notices _ _ _ _; rfl
@[simp] theorem event_noticeSeq (source code : Nat) (l : List Byte) : (s.event source code l).noticeSeq = s.noticeSeq := by unfold State.event; dsimp only; split; exact bump_noticeSeq _ _ _ _; rfl
@[simp] theorem event_il (source code : Nat) (l : List Byte) : (s.event source code l).il = s.il := by unfold State.event; dsimp only; split; exact bump_il _ _ _ _; rfl
@[simp] theorem event_mgr (source code : Nat) (l : List Byte) : (s.event source code l).mgr = s.mgr := by unfold State.event; dsimp only; split; exact bump_mgr _ _ _ _; rfl
@[simp] theorem event_evid (source code : Nat) (l : List Byte) : (s.event source code l).evid = s.evid := by unfold State.event; dsimp only; split; exact bump_evid _ _ _ _; rfl
@[simp] theorem event_boot (source code : Nat) (l : List Byte) : (s.event source code l).boot = s.boot := by unfold State.event; dsimp only; split; exact bump_boot _ _ _ _; rfl
@[simp] theorem event_sb (source code : Nat) (l : List Byte) : (s.event source code l).sb = s.sb := by unfold State.event; dsimp only; split; exact bump_sb _ _ _ _; rfl
@[simp] theorem event_blob (source code : Nat) (l : List Byte) : (s.event source code l).blob = s.blob := by unfold State.event; dsimp only; split; exact bump_blob _ _ _ _; rfl
@[simp] theorem event_i3c (source code : Nat) (l : List Byte) : (s.event source code l).i3c = s.i3c := by unfold State.event; dsimp only; split; exact bump_i3c _ _ _ _; rfl
@[simp] theorem event_fw (source code : Nat) (l : List Byte) : (s.event source code l).fw = s.fw := by unfold State.event; dsimp only; split; exact bump_fw _ _ _ _; rfl
@[simp] theorem event_rdata (source code : Nat) (l : List Byte) : (s.event source code l).rdata = s.rdata := by unfold State.event; dsimp only; split; exact bump_rdata _ _ _ _; rfl
@[simp] theorem event_od (source code : Nat) (l : List Byte) (j : Nat) : (s.event source code l).od j = s.od j := by unfold State.od; rw [event_dict]
@[simp] theorem event_cell (source code : Nat) (l : List Byte) (c : Nat) : (s.event source code l).cell c = s.cell c := by unfold State.cell; rw [event_mem, slot_of_md (event_md _ _ _ _)]
@[simp] theorem event_heldAt (source code : Nat) (l : List Byte) (c : Nat) : (s.event source code l).heldAt c = s.heldAt c := by unfold State.heldAt; rw [event_msgs]
@[simp] theorem event_tile (source code : Nat) (l : List Byte) (q : Nat) : (s.event source code l).tile q = s.tile q := by unfold State.tile; rw [event_tiles]

/-! ## `reportMsg` -/

@[simp] theorem reportMsg_pending (m : FaultMsg) : (s.reportMsg m).pending = s.pending := by unfold State.reportMsg; split; dsimp only; split; exact bump_pending _ _ _ _; rfl
@[simp] theorem reportMsg_freeCtr (m : FaultMsg) : (s.reportMsg m).freeCtr = s.freeCtr := by unfold State.reportMsg; split; dsimp only; split; exact bump_freeCtr _ _ _ _; rfl
@[simp] theorem reportMsg_rfrac (m : FaultMsg) : (s.reportMsg m).rfrac = s.rfrac := by unfold State.reportMsg; split; dsimp only; split; exact bump_rfrac _ _ _ _; rfl
@[simp] theorem reportMsg_dict (m : FaultMsg) : (s.reportMsg m).dict = s.dict := by unfold State.reportMsg; split; dsimp only; split; exact bump_dict _ _ _ _; rfl
@[simp] theorem reportMsg_gens (m : FaultMsg) : (s.reportMsg m).gens = s.gens := by unfold State.reportMsg; split; dsimp only; split; exact bump_gens _ _ _ _; rfl
@[simp] theorem reportMsg_mem (m : FaultMsg) : (s.reportMsg m).mem = s.mem := by unfold State.reportMsg; split; dsimp only; split; exact bump_mem _ _ _ _; rfl
@[simp] theorem reportMsg_flips (m : FaultMsg) : (s.reportMsg m).flips = s.flips := by unfold State.reportMsg; split; dsimp only; split; exact bump_flips _ _ _ _; rfl
@[simp] theorem reportMsg_ceFull (m : FaultMsg) : (s.reportMsg m).ceFull = s.ceFull := by unfold State.reportMsg; split; dsimp only; split; exact bump_ceFull _ _ _ _; rfl
@[simp] theorem reportMsg_umeta (m : FaultMsg) : (s.reportMsg m).umeta = s.umeta := by unfold State.reportMsg; split; dsimp only; split; exact bump_umeta _ _ _ _; rfl
@[simp] theorem reportMsg_dom (m : FaultMsg) : (s.reportMsg m).dom = s.dom := by unfold State.reportMsg; split; dsimp only; split; exact bump_dom _ _ _ _; rfl
@[simp] theorem reportMsg_tiles (m : FaultMsg) : (s.reportMsg m).tiles = s.tiles := by unfold State.reportMsg; split; dsimp only; split; exact bump_tiles _ _ _ _; rfl
@[simp] theorem reportMsg_prog (m : FaultMsg) : (s.reportMsg m).prog = s.prog := by unfold State.reportMsg; split; dsimp only; split; exact bump_prog _ _ _ _; rfl
@[simp] theorem reportMsg_we (m : FaultMsg) : (s.reportMsg m).we = s.we := by unfold State.reportMsg; split; dsimp only; split; exact bump_we _ _ _ _; rfl
@[simp] theorem reportMsg_md (m : FaultMsg) : (s.reportMsg m).md = s.md := by unfold State.reportMsg; split; dsimp only; split; exact bump_md _ _ _ _; rfl
@[simp] theorem reportMsg_dw (m : FaultMsg) : (s.reportMsg m).dw = s.dw := by unfold State.reportMsg; split; dsimp only; split; exact bump_dw _ _ _ _; rfl
@[simp] theorem reportMsg_regions (m : FaultMsg) : (s.reportMsg m).regions = s.regions := by unfold State.reportMsg; split; dsimp only; split; exact bump_regions _ _ _ _; rfl
@[simp] theorem reportMsg_rings (m : FaultMsg) : (s.reportMsg m).rings = s.rings := by unfold State.reportMsg; split; dsimp only; split; exact bump_rings _ _ _ _; rfl
@[simp] theorem reportMsg_rrNext (m : FaultMsg) : (s.reportMsg m).rrNext = s.rrNext := by unfold State.reportMsg; split; dsimp only; split; exact bump_rrNext _ _ _ _; rfl
@[simp] theorem reportMsg_job (m : FaultMsg) : (s.reportMsg m).job = s.job := by unfold State.reportMsg; split; dsimp only; split; exact bump_job _ _ _ _; rfl
@[simp] theorem reportMsg_windows (m : FaultMsg) : (s.reportMsg m).windows = s.windows := by unfold State.reportMsg; split; dsimp only; split; exact bump_windows _ _ _ _; rfl
@[simp] theorem reportMsg_epoch (m : FaultMsg) : (s.reportMsg m).epoch = s.epoch := by unfold State.reportMsg; split; dsimp only; split; exact bump_epoch _ _ _ _; rfl
@[simp] theorem reportMsg_mirror (m : FaultMsg) : (s.reportMsg m).mirror = s.mirror := by unfold State.reportMsg; split; dsimp only; split; exact bump_mirror _ _ _ _; rfl
@[simp] theorem reportMsg_barInbox (m : FaultMsg) : (s.reportMsg m).barInbox = s.barInbox := by unfold State.reportMsg; split; dsimp only; split; exact bump_barInbox _ _ _ _; rfl
@[simp] theorem reportMsg_ports (m : FaultMsg) : (s.reportMsg m).ports = s.ports := by unfold State.reportMsg; split; dsimp only; split; exact bump_ports _ _ _ _; rfl
@[simp] theorem reportMsg_router (m : FaultMsg) : (s.reportMsg m).router = s.router := by unfold State.reportMsg; split; dsimp only; split; exact bump_router _ _ _ _; rfl
@[simp] theorem reportMsg_clock (m : FaultMsg) : (s.reportMsg m).clock = s.clock := by unfold State.reportMsg; split; dsimp only; split; exact bump_clock _ _ _ _; rfl
@[simp] theorem reportMsg_me (m : FaultMsg) : (s.reportMsg m).me = s.me := by unfold State.reportMsg; split; dsimp only; split; exact bump_me _ _ _ _; rfl
@[simp] theorem reportMsg_rc (m : FaultMsg) : (s.reportMsg m).rc = s.rc := by unfold State.reportMsg; split; dsimp only; split; exact bump_rc _ _ _ _; rfl
@[simp] theorem reportMsg_replies (m : FaultMsg) : (s.reportMsg m).replies = s.replies := by unfold State.reportMsg; split; dsimp only; split; exact bump_replies _ _ _ _; rfl
@[simp] theorem reportMsg_gov (m : FaultMsg) : (s.reportMsg m).gov = s.gov := by unfold State.reportMsg; split; dsimp only; split; exact bump_gov _ _ _ _; rfl
@[simp] theorem reportMsg_therm (m : FaultMsg) : (s.reportMsg m).therm = s.therm := by unfold State.reportMsg; split; dsimp only; split; exact bump_therm _ _ _ _; rfl
@[simp] theorem reportMsg_notices (m : FaultMsg) : (s.reportMsg m).notices = s.notices := by unfold State.reportMsg; split; dsimp only; split; exact bump_notices _ _ _ _; rfl
@[simp] theorem reportMsg_noticeSeq (m : FaultMsg) : (s.reportMsg m).noticeSeq = s.noticeSeq := by unfold State.reportMsg; split; dsimp only; split; exact bump_noticeSeq _ _ _ _; rfl
@[simp] theorem reportMsg_il (m : FaultMsg) : (s.reportMsg m).il = s.il := by unfold State.reportMsg; split; dsimp only; split; exact bump_il _ _ _ _; rfl
@[simp] theorem reportMsg_mgr (m : FaultMsg) : (s.reportMsg m).mgr = s.mgr := by unfold State.reportMsg; split; dsimp only; split; exact bump_mgr _ _ _ _; rfl
@[simp] theorem reportMsg_evid (m : FaultMsg) : (s.reportMsg m).evid = s.evid := by unfold State.reportMsg; split; dsimp only; split; exact bump_evid _ _ _ _; rfl
@[simp] theorem reportMsg_boot (m : FaultMsg) : (s.reportMsg m).boot = s.boot := by unfold State.reportMsg; split; dsimp only; split; exact bump_boot _ _ _ _; rfl
@[simp] theorem reportMsg_sb (m : FaultMsg) : (s.reportMsg m).sb = s.sb := by unfold State.reportMsg; split; dsimp only; split; exact bump_sb _ _ _ _; rfl
@[simp] theorem reportMsg_blob (m : FaultMsg) : (s.reportMsg m).blob = s.blob := by unfold State.reportMsg; split; dsimp only; split; exact bump_blob _ _ _ _; rfl
@[simp] theorem reportMsg_i3c (m : FaultMsg) : (s.reportMsg m).i3c = s.i3c := by unfold State.reportMsg; split; dsimp only; split; exact bump_i3c _ _ _ _; rfl
@[simp] theorem reportMsg_fw (m : FaultMsg) : (s.reportMsg m).fw = s.fw := by unfold State.reportMsg; split; dsimp only; split; exact bump_fw _ _ _ _; rfl
@[simp] theorem reportMsg_rdata (m : FaultMsg) : (s.reportMsg m).rdata = s.rdata := by unfold State.reportMsg; split; dsimp only; split; exact bump_rdata _ _ _ _; rfl
@[simp] theorem reportMsg_od (m : FaultMsg) (j : Nat) : (s.reportMsg m).od j = s.od j := by unfold State.od; rw [reportMsg_dict]
@[simp] theorem reportMsg_cell (m : FaultMsg) (c : Nat) : (s.reportMsg m).cell c = s.cell c := by unfold State.cell; rw [reportMsg_mem, slot_of_md (reportMsg_md _ _)]
@[simp] theorem reportMsg_tile (m : FaultMsg) (q : Nat) : (s.reportMsg m).tile q = s.tile q := by unfold State.tile; rw [reportMsg_tiles]

/-! ## `report` -/

@[simp] theorem report_pending (source : Nat) (k : Kind) (detail addr : Nat) (clear : Bool) : (s.report source k detail addr clear).pending = s.pending := reportMsg_pending _ _
@[simp] theorem report_freeCtr (source : Nat) (k : Kind) (detail addr : Nat) (clear : Bool) : (s.report source k detail addr clear).freeCtr = s.freeCtr := reportMsg_freeCtr _ _
@[simp] theorem report_rfrac (source : Nat) (k : Kind) (detail addr : Nat) (clear : Bool) : (s.report source k detail addr clear).rfrac = s.rfrac := reportMsg_rfrac _ _
@[simp] theorem report_dict (source : Nat) (k : Kind) (detail addr : Nat) (clear : Bool) : (s.report source k detail addr clear).dict = s.dict := reportMsg_dict _ _
@[simp] theorem report_gens (source : Nat) (k : Kind) (detail addr : Nat) (clear : Bool) : (s.report source k detail addr clear).gens = s.gens := reportMsg_gens _ _
@[simp] theorem report_mem (source : Nat) (k : Kind) (detail addr : Nat) (clear : Bool) : (s.report source k detail addr clear).mem = s.mem := reportMsg_mem _ _
@[simp] theorem report_flips (source : Nat) (k : Kind) (detail addr : Nat) (clear : Bool) : (s.report source k detail addr clear).flips = s.flips := reportMsg_flips _ _
@[simp] theorem report_ceFull (source : Nat) (k : Kind) (detail addr : Nat) (clear : Bool) : (s.report source k detail addr clear).ceFull = s.ceFull := reportMsg_ceFull _ _
@[simp] theorem report_umeta (source : Nat) (k : Kind) (detail addr : Nat) (clear : Bool) : (s.report source k detail addr clear).umeta = s.umeta := reportMsg_umeta _ _
@[simp] theorem report_dom (source : Nat) (k : Kind) (detail addr : Nat) (clear : Bool) : (s.report source k detail addr clear).dom = s.dom := reportMsg_dom _ _
@[simp] theorem report_tiles (source : Nat) (k : Kind) (detail addr : Nat) (clear : Bool) : (s.report source k detail addr clear).tiles = s.tiles := reportMsg_tiles _ _
@[simp] theorem report_prog (source : Nat) (k : Kind) (detail addr : Nat) (clear : Bool) : (s.report source k detail addr clear).prog = s.prog := reportMsg_prog _ _
@[simp] theorem report_we (source : Nat) (k : Kind) (detail addr : Nat) (clear : Bool) : (s.report source k detail addr clear).we = s.we := reportMsg_we _ _
@[simp] theorem report_md (source : Nat) (k : Kind) (detail addr : Nat) (clear : Bool) : (s.report source k detail addr clear).md = s.md := reportMsg_md _ _
@[simp] theorem report_dw (source : Nat) (k : Kind) (detail addr : Nat) (clear : Bool) : (s.report source k detail addr clear).dw = s.dw := reportMsg_dw _ _
@[simp] theorem report_regions (source : Nat) (k : Kind) (detail addr : Nat) (clear : Bool) : (s.report source k detail addr clear).regions = s.regions := reportMsg_regions _ _
@[simp] theorem report_rings (source : Nat) (k : Kind) (detail addr : Nat) (clear : Bool) : (s.report source k detail addr clear).rings = s.rings := reportMsg_rings _ _
@[simp] theorem report_rrNext (source : Nat) (k : Kind) (detail addr : Nat) (clear : Bool) : (s.report source k detail addr clear).rrNext = s.rrNext := reportMsg_rrNext _ _
@[simp] theorem report_job (source : Nat) (k : Kind) (detail addr : Nat) (clear : Bool) : (s.report source k detail addr clear).job = s.job := reportMsg_job _ _
@[simp] theorem report_windows (source : Nat) (k : Kind) (detail addr : Nat) (clear : Bool) : (s.report source k detail addr clear).windows = s.windows := reportMsg_windows _ _
@[simp] theorem report_epoch (source : Nat) (k : Kind) (detail addr : Nat) (clear : Bool) : (s.report source k detail addr clear).epoch = s.epoch := reportMsg_epoch _ _
@[simp] theorem report_mirror (source : Nat) (k : Kind) (detail addr : Nat) (clear : Bool) : (s.report source k detail addr clear).mirror = s.mirror := reportMsg_mirror _ _
@[simp] theorem report_barInbox (source : Nat) (k : Kind) (detail addr : Nat) (clear : Bool) : (s.report source k detail addr clear).barInbox = s.barInbox := reportMsg_barInbox _ _
@[simp] theorem report_ports (source : Nat) (k : Kind) (detail addr : Nat) (clear : Bool) : (s.report source k detail addr clear).ports = s.ports := reportMsg_ports _ _
@[simp] theorem report_router (source : Nat) (k : Kind) (detail addr : Nat) (clear : Bool) : (s.report source k detail addr clear).router = s.router := reportMsg_router _ _
@[simp] theorem report_clock (source : Nat) (k : Kind) (detail addr : Nat) (clear : Bool) : (s.report source k detail addr clear).clock = s.clock := reportMsg_clock _ _
@[simp] theorem report_me (source : Nat) (k : Kind) (detail addr : Nat) (clear : Bool) : (s.report source k detail addr clear).me = s.me := reportMsg_me _ _
@[simp] theorem report_rc (source : Nat) (k : Kind) (detail addr : Nat) (clear : Bool) : (s.report source k detail addr clear).rc = s.rc := reportMsg_rc _ _
@[simp] theorem report_replies (source : Nat) (k : Kind) (detail addr : Nat) (clear : Bool) : (s.report source k detail addr clear).replies = s.replies := reportMsg_replies _ _
@[simp] theorem report_gov (source : Nat) (k : Kind) (detail addr : Nat) (clear : Bool) : (s.report source k detail addr clear).gov = s.gov := reportMsg_gov _ _
@[simp] theorem report_therm (source : Nat) (k : Kind) (detail addr : Nat) (clear : Bool) : (s.report source k detail addr clear).therm = s.therm := reportMsg_therm _ _
@[simp] theorem report_notices (source : Nat) (k : Kind) (detail addr : Nat) (clear : Bool) : (s.report source k detail addr clear).notices = s.notices := reportMsg_notices _ _
@[simp] theorem report_noticeSeq (source : Nat) (k : Kind) (detail addr : Nat) (clear : Bool) : (s.report source k detail addr clear).noticeSeq = s.noticeSeq := reportMsg_noticeSeq _ _
@[simp] theorem report_il (source : Nat) (k : Kind) (detail addr : Nat) (clear : Bool) : (s.report source k detail addr clear).il = s.il := reportMsg_il _ _
@[simp] theorem report_mgr (source : Nat) (k : Kind) (detail addr : Nat) (clear : Bool) : (s.report source k detail addr clear).mgr = s.mgr := reportMsg_mgr _ _
@[simp] theorem report_evid (source : Nat) (k : Kind) (detail addr : Nat) (clear : Bool) : (s.report source k detail addr clear).evid = s.evid := reportMsg_evid _ _
@[simp] theorem report_boot (source : Nat) (k : Kind) (detail addr : Nat) (clear : Bool) : (s.report source k detail addr clear).boot = s.boot := reportMsg_boot _ _
@[simp] theorem report_sb (source : Nat) (k : Kind) (detail addr : Nat) (clear : Bool) : (s.report source k detail addr clear).sb = s.sb := reportMsg_sb _ _
@[simp] theorem report_blob (source : Nat) (k : Kind) (detail addr : Nat) (clear : Bool) : (s.report source k detail addr clear).blob = s.blob := reportMsg_blob _ _
@[simp] theorem report_i3c (source : Nat) (k : Kind) (detail addr : Nat) (clear : Bool) : (s.report source k detail addr clear).i3c = s.i3c := reportMsg_i3c _ _
@[simp] theorem report_fw (source : Nat) (k : Kind) (detail addr : Nat) (clear : Bool) : (s.report source k detail addr clear).fw = s.fw := reportMsg_fw _ _
@[simp] theorem report_rdata (source : Nat) (k : Kind) (detail addr : Nat) (clear : Bool) : (s.report source k detail addr clear).rdata = s.rdata := reportMsg_rdata _ _
@[simp] theorem report_od (source : Nat) (k : Kind) (detail addr : Nat) (clear : Bool) (j : Nat) : (s.report source k detail addr clear).od j = s.od j := by unfold State.od; rw [report_dict]
@[simp] theorem report_cell (source : Nat) (k : Kind) (detail addr : Nat) (clear : Bool) (c : Nat) : (s.report source k detail addr clear).cell c = s.cell c := by unfold State.cell; rw [report_mem, slot_of_md (report_md _ _ _ _ _ _)]
@[simp] theorem report_tile (source : Nat) (k : Kind) (detail addr : Nat) (clear : Bool) (q : Nat) : (s.report source k detail addr clear).tile q = s.tile q := by unfold State.tile; rw [report_tiles]

/-! ## `store` -/

@[simp] theorem store_pending (a : Nat) (b : Byte) : (s.store a b).pending = s.pending := rfl
@[simp] theorem store_freeCtr (a : Nat) (b : Byte) : (s.store a b).freeCtr = s.freeCtr := rfl
@[simp] theorem store_rfrac (a : Nat) (b : Byte) : (s.store a b).rfrac = s.rfrac := rfl
@[simp] theorem store_csr (a : Nat) (b : Byte) : (s.store a b).csr = s.csr := rfl
@[simp] theorem store_dict (a : Nat) (b : Byte) : (s.store a b).dict = s.dict := rfl
@[simp] theorem store_gens (a : Nat) (b : Byte) : (s.store a b).gens = s.gens := rfl
@[simp] theorem store_ceFull (a : Nat) (b : Byte) : (s.store a b).ceFull = s.ceFull := rfl
@[simp] theorem store_umeta (a : Nat) (b : Byte) : (s.store a b).umeta = s.umeta := rfl
@[simp] theorem store_dom (a : Nat) (b : Byte) : (s.store a b).dom = s.dom := rfl
@[simp] theorem store_msgs (a : Nat) (b : Byte) : (s.store a b).msgs = s.msgs := rfl
@[simp] theorem store_tiles (a : Nat) (b : Byte) : (s.store a b).tiles = s.tiles := rfl
@[simp] theorem store_prog (a : Nat) (b : Byte) : (s.store a b).prog = s.prog := rfl
@[simp] theorem store_we (a : Nat) (b : Byte) : (s.store a b).we = s.we := rfl
@[simp] theorem store_md (a : Nat) (b : Byte) : (s.store a b).md = s.md := rfl
@[simp] theorem store_dw (a : Nat) (b : Byte) : (s.store a b).dw = s.dw := rfl
@[simp] theorem store_regions (a : Nat) (b : Byte) : (s.store a b).regions = s.regions := rfl
@[simp] theorem store_rings (a : Nat) (b : Byte) : (s.store a b).rings = s.rings := rfl
@[simp] theorem store_rrNext (a : Nat) (b : Byte) : (s.store a b).rrNext = s.rrNext := rfl
@[simp] theorem store_job (a : Nat) (b : Byte) : (s.store a b).job = s.job := rfl
@[simp] theorem store_windows (a : Nat) (b : Byte) : (s.store a b).windows = s.windows := rfl
@[simp] theorem store_epoch (a : Nat) (b : Byte) : (s.store a b).epoch = s.epoch := rfl
@[simp] theorem store_mirror (a : Nat) (b : Byte) : (s.store a b).mirror = s.mirror := rfl
@[simp] theorem store_barInbox (a : Nat) (b : Byte) : (s.store a b).barInbox = s.barInbox := rfl
@[simp] theorem store_ports (a : Nat) (b : Byte) : (s.store a b).ports = s.ports := rfl
@[simp] theorem store_router (a : Nat) (b : Byte) : (s.store a b).router = s.router := rfl
@[simp] theorem store_clock (a : Nat) (b : Byte) : (s.store a b).clock = s.clock := rfl
@[simp] theorem store_me (a : Nat) (b : Byte) : (s.store a b).me = s.me := rfl
@[simp] theorem store_rc (a : Nat) (b : Byte) : (s.store a b).rc = s.rc := rfl
@[simp] theorem store_replies (a : Nat) (b : Byte) : (s.store a b).replies = s.replies := rfl
@[simp] theorem store_gov (a : Nat) (b : Byte) : (s.store a b).gov = s.gov := rfl
@[simp] theorem store_therm (a : Nat) (b : Byte) : (s.store a b).therm = s.therm := rfl
@[simp] theorem store_notices (a : Nat) (b : Byte) : (s.store a b).notices = s.notices := rfl
@[simp] theorem store_noticeSeq (a : Nat) (b : Byte) : (s.store a b).noticeSeq = s.noticeSeq := rfl
@[simp] theorem store_il (a : Nat) (b : Byte) : (s.store a b).il = s.il := rfl
@[simp] theorem store_mgr (a : Nat) (b : Byte) : (s.store a b).mgr = s.mgr := rfl
@[simp] theorem store_evid (a : Nat) (b : Byte) : (s.store a b).evid = s.evid := rfl
@[simp] theorem store_boot (a : Nat) (b : Byte) : (s.store a b).boot = s.boot := rfl
@[simp] theorem store_sb (a : Nat) (b : Byte) : (s.store a b).sb = s.sb := rfl
@[simp] theorem store_blob (a : Nat) (b : Byte) : (s.store a b).blob = s.blob := rfl
@[simp] theorem store_i3c (a : Nat) (b : Byte) : (s.store a b).i3c = s.i3c := rfl
@[simp] theorem store_fw (a : Nat) (b : Byte) : (s.store a b).fw = s.fw := rfl
@[simp] theorem store_rdata (a : Nat) (b : Byte) : (s.store a b).rdata = s.rdata := rfl
@[simp] theorem store_csrGet (a : Nat) (b : Byte) (o : Nat) : (s.store a b).csrGet o = s.csrGet o := rfl
@[simp] theorem store_fget (a : Nat) (b : Byte) (g : Fld) : (s.store a b).fget g = s.fget g := rfl
@[simp] theorem store_flag (a : Nat) (b : Byte) (g : Fld) : (s.store a b).flag g = s.flag g := rfl
@[simp] theorem store_od (a : Nat) (b : Byte) (j : Nat) : (s.store a b).od j = s.od j := rfl
@[simp] theorem store_heldAt (a : Nat) (b : Byte) (c : Nat) : (s.store a b).heldAt c = s.heldAt c := rfl
@[simp] theorem store_tile (a : Nat) (b : Byte) (q : Nat) : (s.store a b).tile q = s.tile q := rfl

/-! ## `copyCell` -/

@[simp] theorem copyCell_pending (src dst : Nat) : (s.copyCell src dst).pending = s.pending := rfl
@[simp] theorem copyCell_freeCtr (src dst : Nat) : (s.copyCell src dst).freeCtr = s.freeCtr := rfl
@[simp] theorem copyCell_rfrac (src dst : Nat) : (s.copyCell src dst).rfrac = s.rfrac := rfl
@[simp] theorem copyCell_csr (src dst : Nat) : (s.copyCell src dst).csr = s.csr := rfl
@[simp] theorem copyCell_dict (src dst : Nat) : (s.copyCell src dst).dict = s.dict := rfl
@[simp] theorem copyCell_gens (src dst : Nat) : (s.copyCell src dst).gens = s.gens := rfl
@[simp] theorem copyCell_ceFull (src dst : Nat) : (s.copyCell src dst).ceFull = s.ceFull := rfl
@[simp] theorem copyCell_umeta (src dst : Nat) : (s.copyCell src dst).umeta = s.umeta := rfl
@[simp] theorem copyCell_dom (src dst : Nat) : (s.copyCell src dst).dom = s.dom := rfl
@[simp] theorem copyCell_msgs (src dst : Nat) : (s.copyCell src dst).msgs = s.msgs := rfl
@[simp] theorem copyCell_tiles (src dst : Nat) : (s.copyCell src dst).tiles = s.tiles := rfl
@[simp] theorem copyCell_prog (src dst : Nat) : (s.copyCell src dst).prog = s.prog := rfl
@[simp] theorem copyCell_we (src dst : Nat) : (s.copyCell src dst).we = s.we := rfl
@[simp] theorem copyCell_md (src dst : Nat) : (s.copyCell src dst).md = s.md := rfl
@[simp] theorem copyCell_dw (src dst : Nat) : (s.copyCell src dst).dw = s.dw := rfl
@[simp] theorem copyCell_regions (src dst : Nat) : (s.copyCell src dst).regions = s.regions := rfl
@[simp] theorem copyCell_rings (src dst : Nat) : (s.copyCell src dst).rings = s.rings := rfl
@[simp] theorem copyCell_rrNext (src dst : Nat) : (s.copyCell src dst).rrNext = s.rrNext := rfl
@[simp] theorem copyCell_job (src dst : Nat) : (s.copyCell src dst).job = s.job := rfl
@[simp] theorem copyCell_windows (src dst : Nat) : (s.copyCell src dst).windows = s.windows := rfl
@[simp] theorem copyCell_epoch (src dst : Nat) : (s.copyCell src dst).epoch = s.epoch := rfl
@[simp] theorem copyCell_mirror (src dst : Nat) : (s.copyCell src dst).mirror = s.mirror := rfl
@[simp] theorem copyCell_barInbox (src dst : Nat) : (s.copyCell src dst).barInbox = s.barInbox := rfl
@[simp] theorem copyCell_ports (src dst : Nat) : (s.copyCell src dst).ports = s.ports := rfl
@[simp] theorem copyCell_router (src dst : Nat) : (s.copyCell src dst).router = s.router := rfl
@[simp] theorem copyCell_clock (src dst : Nat) : (s.copyCell src dst).clock = s.clock := rfl
@[simp] theorem copyCell_me (src dst : Nat) : (s.copyCell src dst).me = s.me := rfl
@[simp] theorem copyCell_rc (src dst : Nat) : (s.copyCell src dst).rc = s.rc := rfl
@[simp] theorem copyCell_replies (src dst : Nat) : (s.copyCell src dst).replies = s.replies := rfl
@[simp] theorem copyCell_gov (src dst : Nat) : (s.copyCell src dst).gov = s.gov := rfl
@[simp] theorem copyCell_therm (src dst : Nat) : (s.copyCell src dst).therm = s.therm := rfl
@[simp] theorem copyCell_notices (src dst : Nat) : (s.copyCell src dst).notices = s.notices := rfl
@[simp] theorem copyCell_noticeSeq (src dst : Nat) : (s.copyCell src dst).noticeSeq = s.noticeSeq := rfl
@[simp] theorem copyCell_il (src dst : Nat) : (s.copyCell src dst).il = s.il := rfl
@[simp] theorem copyCell_mgr (src dst : Nat) : (s.copyCell src dst).mgr = s.mgr := rfl
@[simp] theorem copyCell_evid (src dst : Nat) : (s.copyCell src dst).evid = s.evid := rfl
@[simp] theorem copyCell_boot (src dst : Nat) : (s.copyCell src dst).boot = s.boot := rfl
@[simp] theorem copyCell_sb (src dst : Nat) : (s.copyCell src dst).sb = s.sb := rfl
@[simp] theorem copyCell_blob (src dst : Nat) : (s.copyCell src dst).blob = s.blob := rfl
@[simp] theorem copyCell_i3c (src dst : Nat) : (s.copyCell src dst).i3c = s.i3c := rfl
@[simp] theorem copyCell_fw (src dst : Nat) : (s.copyCell src dst).fw = s.fw := rfl
@[simp] theorem copyCell_rdata (src dst : Nat) : (s.copyCell src dst).rdata = s.rdata := rfl
@[simp] theorem copyCell_csrGet (src dst : Nat) (o : Nat) : (s.copyCell src dst).csrGet o = s.csrGet o := rfl
@[simp] theorem copyCell_fget (src dst : Nat) (g : Fld) : (s.copyCell src dst).fget g = s.fget g := rfl
@[simp] theorem copyCell_flag (src dst : Nat) (g : Fld) : (s.copyCell src dst).flag g = s.flag g := rfl
@[simp] theorem copyCell_od (src dst : Nat) (j : Nat) : (s.copyCell src dst).od j = s.od j := rfl
@[simp] theorem copyCell_heldAt (src dst : Nat) (c : Nat) : (s.copyCell src dst).heldAt c = s.heldAt c := rfl
@[simp] theorem copyCell_tile (src dst : Nat) (q : Nat) : (s.copyCell src dst).tile q = s.tile q := rfl

/-! ## `setTile` -/

@[simp] theorem setTile_pending (p : Nat) (t : Tile) : (s.setTile p t).pending = s.pending := rfl
@[simp] theorem setTile_freeCtr (p : Nat) (t : Tile) : (s.setTile p t).freeCtr = s.freeCtr := rfl
@[simp] theorem setTile_rfrac (p : Nat) (t : Tile) : (s.setTile p t).rfrac = s.rfrac := rfl
@[simp] theorem setTile_csr (p : Nat) (t : Tile) : (s.setTile p t).csr = s.csr := rfl
@[simp] theorem setTile_dict (p : Nat) (t : Tile) : (s.setTile p t).dict = s.dict := rfl
@[simp] theorem setTile_gens (p : Nat) (t : Tile) : (s.setTile p t).gens = s.gens := rfl
@[simp] theorem setTile_mem (p : Nat) (t : Tile) : (s.setTile p t).mem = s.mem := rfl
@[simp] theorem setTile_flips (p : Nat) (t : Tile) : (s.setTile p t).flips = s.flips := rfl
@[simp] theorem setTile_ceFull (p : Nat) (t : Tile) : (s.setTile p t).ceFull = s.ceFull := rfl
@[simp] theorem setTile_umeta (p : Nat) (t : Tile) : (s.setTile p t).umeta = s.umeta := rfl
@[simp] theorem setTile_dom (p : Nat) (t : Tile) : (s.setTile p t).dom = s.dom := rfl
@[simp] theorem setTile_msgs (p : Nat) (t : Tile) : (s.setTile p t).msgs = s.msgs := rfl
@[simp] theorem setTile_prog (p : Nat) (t : Tile) : (s.setTile p t).prog = s.prog := rfl
@[simp] theorem setTile_we (p : Nat) (t : Tile) : (s.setTile p t).we = s.we := rfl
@[simp] theorem setTile_md (p : Nat) (t : Tile) : (s.setTile p t).md = s.md := rfl
@[simp] theorem setTile_dw (p : Nat) (t : Tile) : (s.setTile p t).dw = s.dw := rfl
@[simp] theorem setTile_regions (p : Nat) (t : Tile) : (s.setTile p t).regions = s.regions := rfl
@[simp] theorem setTile_rings (p : Nat) (t : Tile) : (s.setTile p t).rings = s.rings := rfl
@[simp] theorem setTile_rrNext (p : Nat) (t : Tile) : (s.setTile p t).rrNext = s.rrNext := rfl
@[simp] theorem setTile_job (p : Nat) (t : Tile) : (s.setTile p t).job = s.job := rfl
@[simp] theorem setTile_windows (p : Nat) (t : Tile) : (s.setTile p t).windows = s.windows := rfl
@[simp] theorem setTile_epoch (p : Nat) (t : Tile) : (s.setTile p t).epoch = s.epoch := rfl
@[simp] theorem setTile_mirror (p : Nat) (t : Tile) : (s.setTile p t).mirror = s.mirror := rfl
@[simp] theorem setTile_barInbox (p : Nat) (t : Tile) : (s.setTile p t).barInbox = s.barInbox := rfl
@[simp] theorem setTile_ports (p : Nat) (t : Tile) : (s.setTile p t).ports = s.ports := rfl
@[simp] theorem setTile_router (p : Nat) (t : Tile) : (s.setTile p t).router = s.router := rfl
@[simp] theorem setTile_clock (p : Nat) (t : Tile) : (s.setTile p t).clock = s.clock := rfl
@[simp] theorem setTile_me (p : Nat) (t : Tile) : (s.setTile p t).me = s.me := rfl
@[simp] theorem setTile_rc (p : Nat) (t : Tile) : (s.setTile p t).rc = s.rc := rfl
@[simp] theorem setTile_replies (p : Nat) (t : Tile) : (s.setTile p t).replies = s.replies := rfl
@[simp] theorem setTile_gov (p : Nat) (t : Tile) : (s.setTile p t).gov = s.gov := rfl
@[simp] theorem setTile_therm (p : Nat) (t : Tile) : (s.setTile p t).therm = s.therm := rfl
@[simp] theorem setTile_notices (p : Nat) (t : Tile) : (s.setTile p t).notices = s.notices := rfl
@[simp] theorem setTile_noticeSeq (p : Nat) (t : Tile) : (s.setTile p t).noticeSeq = s.noticeSeq := rfl
@[simp] theorem setTile_il (p : Nat) (t : Tile) : (s.setTile p t).il = s.il := rfl
@[simp] theorem setTile_mgr (p : Nat) (t : Tile) : (s.setTile p t).mgr = s.mgr := rfl
@[simp] theorem setTile_evid (p : Nat) (t : Tile) : (s.setTile p t).evid = s.evid := rfl
@[simp] theorem setTile_boot (p : Nat) (t : Tile) : (s.setTile p t).boot = s.boot := rfl
@[simp] theorem setTile_sb (p : Nat) (t : Tile) : (s.setTile p t).sb = s.sb := rfl
@[simp] theorem setTile_blob (p : Nat) (t : Tile) : (s.setTile p t).blob = s.blob := rfl
@[simp] theorem setTile_i3c (p : Nat) (t : Tile) : (s.setTile p t).i3c = s.i3c := rfl
@[simp] theorem setTile_fw (p : Nat) (t : Tile) : (s.setTile p t).fw = s.fw := rfl
@[simp] theorem setTile_rdata (p : Nat) (t : Tile) : (s.setTile p t).rdata = s.rdata := rfl
@[simp] theorem setTile_csrGet (p : Nat) (t : Tile) (o : Nat) : (s.setTile p t).csrGet o = s.csrGet o := rfl
@[simp] theorem setTile_fget (p : Nat) (t : Tile) (g : Fld) : (s.setTile p t).fget g = s.fget g := rfl
@[simp] theorem setTile_flag (p : Nat) (t : Tile) (g : Fld) : (s.setTile p t).flag g = s.flag g := rfl
@[simp] theorem setTile_od (p : Nat) (t : Tile) (j : Nat) : (s.setTile p t).od j = s.od j := rfl
@[simp] theorem setTile_cell (p : Nat) (t : Tile) (c : Nat) : (s.setTile p t).cell c = s.cell c := rfl
@[simp] theorem setTile_heldAt (p : Nat) (t : Tile) (c : Nat) : (s.setTile p t).heldAt c = s.heldAt c := rfl

/-! ## `setDma` -/

@[simp] theorem setDma_pending (p e : Nat) (d : DmaEng) : (s.setDma p e d).pending = s.pending := rfl
@[simp] theorem setDma_freeCtr (p e : Nat) (d : DmaEng) : (s.setDma p e d).freeCtr = s.freeCtr := rfl
@[simp] theorem setDma_rfrac (p e : Nat) (d : DmaEng) : (s.setDma p e d).rfrac = s.rfrac := rfl
@[simp] theorem setDma_csr (p e : Nat) (d : DmaEng) : (s.setDma p e d).csr = s.csr := rfl
@[simp] theorem setDma_dict (p e : Nat) (d : DmaEng) : (s.setDma p e d).dict = s.dict := rfl
@[simp] theorem setDma_gens (p e : Nat) (d : DmaEng) : (s.setDma p e d).gens = s.gens := rfl
@[simp] theorem setDma_mem (p e : Nat) (d : DmaEng) : (s.setDma p e d).mem = s.mem := rfl
@[simp] theorem setDma_flips (p e : Nat) (d : DmaEng) : (s.setDma p e d).flips = s.flips := rfl
@[simp] theorem setDma_ceFull (p e : Nat) (d : DmaEng) : (s.setDma p e d).ceFull = s.ceFull := rfl
@[simp] theorem setDma_umeta (p e : Nat) (d : DmaEng) : (s.setDma p e d).umeta = s.umeta := rfl
@[simp] theorem setDma_dom (p e : Nat) (d : DmaEng) : (s.setDma p e d).dom = s.dom := rfl
@[simp] theorem setDma_msgs (p e : Nat) (d : DmaEng) : (s.setDma p e d).msgs = s.msgs := rfl
@[simp] theorem setDma_prog (p e : Nat) (d : DmaEng) : (s.setDma p e d).prog = s.prog := rfl
@[simp] theorem setDma_we (p e : Nat) (d : DmaEng) : (s.setDma p e d).we = s.we := rfl
@[simp] theorem setDma_md (p e : Nat) (d : DmaEng) : (s.setDma p e d).md = s.md := rfl
@[simp] theorem setDma_dw (p e : Nat) (d : DmaEng) : (s.setDma p e d).dw = s.dw := rfl
@[simp] theorem setDma_regions (p e : Nat) (d : DmaEng) : (s.setDma p e d).regions = s.regions := rfl
@[simp] theorem setDma_rings (p e : Nat) (d : DmaEng) : (s.setDma p e d).rings = s.rings := rfl
@[simp] theorem setDma_rrNext (p e : Nat) (d : DmaEng) : (s.setDma p e d).rrNext = s.rrNext := rfl
@[simp] theorem setDma_job (p e : Nat) (d : DmaEng) : (s.setDma p e d).job = s.job := rfl
@[simp] theorem setDma_windows (p e : Nat) (d : DmaEng) : (s.setDma p e d).windows = s.windows := rfl
@[simp] theorem setDma_epoch (p e : Nat) (d : DmaEng) : (s.setDma p e d).epoch = s.epoch := rfl
@[simp] theorem setDma_mirror (p e : Nat) (d : DmaEng) : (s.setDma p e d).mirror = s.mirror := rfl
@[simp] theorem setDma_barInbox (p e : Nat) (d : DmaEng) : (s.setDma p e d).barInbox = s.barInbox := rfl
@[simp] theorem setDma_ports (p e : Nat) (d : DmaEng) : (s.setDma p e d).ports = s.ports := rfl
@[simp] theorem setDma_router (p e : Nat) (d : DmaEng) : (s.setDma p e d).router = s.router := rfl
@[simp] theorem setDma_clock (p e : Nat) (d : DmaEng) : (s.setDma p e d).clock = s.clock := rfl
@[simp] theorem setDma_me (p e : Nat) (d : DmaEng) : (s.setDma p e d).me = s.me := rfl
@[simp] theorem setDma_rc (p e : Nat) (d : DmaEng) : (s.setDma p e d).rc = s.rc := rfl
@[simp] theorem setDma_replies (p e : Nat) (d : DmaEng) : (s.setDma p e d).replies = s.replies := rfl
@[simp] theorem setDma_gov (p e : Nat) (d : DmaEng) : (s.setDma p e d).gov = s.gov := rfl
@[simp] theorem setDma_therm (p e : Nat) (d : DmaEng) : (s.setDma p e d).therm = s.therm := rfl
@[simp] theorem setDma_notices (p e : Nat) (d : DmaEng) : (s.setDma p e d).notices = s.notices := rfl
@[simp] theorem setDma_noticeSeq (p e : Nat) (d : DmaEng) : (s.setDma p e d).noticeSeq = s.noticeSeq := rfl
@[simp] theorem setDma_il (p e : Nat) (d : DmaEng) : (s.setDma p e d).il = s.il := rfl
@[simp] theorem setDma_mgr (p e : Nat) (d : DmaEng) : (s.setDma p e d).mgr = s.mgr := rfl
@[simp] theorem setDma_evid (p e : Nat) (d : DmaEng) : (s.setDma p e d).evid = s.evid := rfl
@[simp] theorem setDma_boot (p e : Nat) (d : DmaEng) : (s.setDma p e d).boot = s.boot := rfl
@[simp] theorem setDma_sb (p e : Nat) (d : DmaEng) : (s.setDma p e d).sb = s.sb := rfl
@[simp] theorem setDma_blob (p e : Nat) (d : DmaEng) : (s.setDma p e d).blob = s.blob := rfl
@[simp] theorem setDma_i3c (p e : Nat) (d : DmaEng) : (s.setDma p e d).i3c = s.i3c := rfl
@[simp] theorem setDma_fw (p e : Nat) (d : DmaEng) : (s.setDma p e d).fw = s.fw := rfl
@[simp] theorem setDma_rdata (p e : Nat) (d : DmaEng) : (s.setDma p e d).rdata = s.rdata := rfl
@[simp] theorem setDma_csrGet (p e : Nat) (d : DmaEng) (o : Nat) : (s.setDma p e d).csrGet o = s.csrGet o := rfl
@[simp] theorem setDma_fget (p e : Nat) (d : DmaEng) (g : Fld) : (s.setDma p e d).fget g = s.fget g := rfl
@[simp] theorem setDma_flag (p e : Nat) (d : DmaEng) (g : Fld) : (s.setDma p e d).flag g = s.flag g := rfl
@[simp] theorem setDma_od (p e : Nat) (d : DmaEng) (j : Nat) : (s.setDma p e d).od j = s.od j := rfl
@[simp] theorem setDma_cell (p e : Nat) (d : DmaEng) (c : Nat) : (s.setDma p e d).cell c = s.cell c := rfl
@[simp] theorem setDma_heldAt (p e : Nat) (d : DmaEng) (c : Nat) : (s.setDma p e d).heldAt c = s.heldAt c := rfl

/-! ## `setMdev` -/

@[simp] theorem setMdev_pending (n : Nat) (d : Md) : (s.setMdev n d).pending = s.pending := rfl
@[simp] theorem setMdev_freeCtr (n : Nat) (d : Md) : (s.setMdev n d).freeCtr = s.freeCtr := rfl
@[simp] theorem setMdev_rfrac (n : Nat) (d : Md) : (s.setMdev n d).rfrac = s.rfrac := rfl
@[simp] theorem setMdev_csr (n : Nat) (d : Md) : (s.setMdev n d).csr = s.csr := rfl
@[simp] theorem setMdev_dict (n : Nat) (d : Md) : (s.setMdev n d).dict = s.dict := rfl
@[simp] theorem setMdev_gens (n : Nat) (d : Md) : (s.setMdev n d).gens = s.gens := rfl
@[simp] theorem setMdev_mem (n : Nat) (d : Md) : (s.setMdev n d).mem = s.mem := rfl
@[simp] theorem setMdev_flips (n : Nat) (d : Md) : (s.setMdev n d).flips = s.flips := rfl
@[simp] theorem setMdev_ceFull (n : Nat) (d : Md) : (s.setMdev n d).ceFull = s.ceFull := rfl
@[simp] theorem setMdev_umeta (n : Nat) (d : Md) : (s.setMdev n d).umeta = s.umeta := rfl
@[simp] theorem setMdev_dom (n : Nat) (d : Md) : (s.setMdev n d).dom = s.dom := rfl
@[simp] theorem setMdev_msgs (n : Nat) (d : Md) : (s.setMdev n d).msgs = s.msgs := rfl
@[simp] theorem setMdev_tiles (n : Nat) (d : Md) : (s.setMdev n d).tiles = s.tiles := rfl
@[simp] theorem setMdev_prog (n : Nat) (d : Md) : (s.setMdev n d).prog = s.prog := rfl
@[simp] theorem setMdev_we (n : Nat) (d : Md) : (s.setMdev n d).we = s.we := rfl
@[simp] theorem setMdev_dw (n : Nat) (d : Md) : (s.setMdev n d).dw = s.dw := rfl
@[simp] theorem setMdev_regions (n : Nat) (d : Md) : (s.setMdev n d).regions = s.regions := rfl
@[simp] theorem setMdev_rings (n : Nat) (d : Md) : (s.setMdev n d).rings = s.rings := rfl
@[simp] theorem setMdev_rrNext (n : Nat) (d : Md) : (s.setMdev n d).rrNext = s.rrNext := rfl
@[simp] theorem setMdev_job (n : Nat) (d : Md) : (s.setMdev n d).job = s.job := rfl
@[simp] theorem setMdev_windows (n : Nat) (d : Md) : (s.setMdev n d).windows = s.windows := rfl
@[simp] theorem setMdev_epoch (n : Nat) (d : Md) : (s.setMdev n d).epoch = s.epoch := rfl
@[simp] theorem setMdev_mirror (n : Nat) (d : Md) : (s.setMdev n d).mirror = s.mirror := rfl
@[simp] theorem setMdev_barInbox (n : Nat) (d : Md) : (s.setMdev n d).barInbox = s.barInbox := rfl
@[simp] theorem setMdev_ports (n : Nat) (d : Md) : (s.setMdev n d).ports = s.ports := rfl
@[simp] theorem setMdev_router (n : Nat) (d : Md) : (s.setMdev n d).router = s.router := rfl
@[simp] theorem setMdev_clock (n : Nat) (d : Md) : (s.setMdev n d).clock = s.clock := rfl
@[simp] theorem setMdev_me (n : Nat) (d : Md) : (s.setMdev n d).me = s.me := rfl
@[simp] theorem setMdev_rc (n : Nat) (d : Md) : (s.setMdev n d).rc = s.rc := rfl
@[simp] theorem setMdev_replies (n : Nat) (d : Md) : (s.setMdev n d).replies = s.replies := rfl
@[simp] theorem setMdev_gov (n : Nat) (d : Md) : (s.setMdev n d).gov = s.gov := rfl
@[simp] theorem setMdev_therm (n : Nat) (d : Md) : (s.setMdev n d).therm = s.therm := rfl
@[simp] theorem setMdev_notices (n : Nat) (d : Md) : (s.setMdev n d).notices = s.notices := rfl
@[simp] theorem setMdev_noticeSeq (n : Nat) (d : Md) : (s.setMdev n d).noticeSeq = s.noticeSeq := rfl
@[simp] theorem setMdev_il (n : Nat) (d : Md) : (s.setMdev n d).il = s.il := rfl
@[simp] theorem setMdev_mgr (n : Nat) (d : Md) : (s.setMdev n d).mgr = s.mgr := rfl
@[simp] theorem setMdev_evid (n : Nat) (d : Md) : (s.setMdev n d).evid = s.evid := rfl
@[simp] theorem setMdev_boot (n : Nat) (d : Md) : (s.setMdev n d).boot = s.boot := rfl
@[simp] theorem setMdev_sb (n : Nat) (d : Md) : (s.setMdev n d).sb = s.sb := rfl
@[simp] theorem setMdev_blob (n : Nat) (d : Md) : (s.setMdev n d).blob = s.blob := rfl
@[simp] theorem setMdev_i3c (n : Nat) (d : Md) : (s.setMdev n d).i3c = s.i3c := rfl
@[simp] theorem setMdev_fw (n : Nat) (d : Md) : (s.setMdev n d).fw = s.fw := rfl
@[simp] theorem setMdev_rdata (n : Nat) (d : Md) : (s.setMdev n d).rdata = s.rdata := rfl
@[simp] theorem setMdev_csrGet (n : Nat) (d : Md) (o : Nat) : (s.setMdev n d).csrGet o = s.csrGet o := rfl
@[simp] theorem setMdev_fget (n : Nat) (d : Md) (g : Fld) : (s.setMdev n d).fget g = s.fget g := rfl
@[simp] theorem setMdev_flag (n : Nat) (d : Md) (g : Fld) : (s.setMdev n d).flag g = s.flag g := rfl
@[simp] theorem setMdev_od (n : Nat) (d : Md) (j : Nat) : (s.setMdev n d).od j = s.od j := rfl
@[simp] theorem setMdev_cell (n : Nat) (d : Md) (c : Nat) (h : d.repair = (s.mdev n).repair) : (s.setMdev n d).cell c = s.cell c := by
  unfold State.cell
  rw [setMdev_mem, slot_of_repair]
  intro m
  simp only [State.setMdev, State.mdev] at h ⊢
  by_cases hm : m = n
  · subst hm
    by_cases hn : m < 8
    · rw [vget_vput_self _ _ hn, h]
    · simp [vput, hn]
  · rw [vget_vput_ne _ _ hm]
@[simp] theorem setMdev_heldAt (n : Nat) (d : Md) (c : Nat) : (s.setMdev n d).heldAt c = s.heldAt c := rfl
@[simp] theorem setMdev_tile (n : Nat) (d : Md) (q : Nat) : (s.setMdev n d).tile q = s.tile q := rfl

/-! ## `setWeng` -/

@[simp] theorem setWeng_pending (n : Nat) (w : We) : (s.setWeng n w).pending = s.pending := rfl
@[simp] theorem setWeng_freeCtr (n : Nat) (w : We) : (s.setWeng n w).freeCtr = s.freeCtr := rfl
@[simp] theorem setWeng_rfrac (n : Nat) (w : We) : (s.setWeng n w).rfrac = s.rfrac := rfl
@[simp] theorem setWeng_csr (n : Nat) (w : We) : (s.setWeng n w).csr = s.csr := rfl
@[simp] theorem setWeng_dict (n : Nat) (w : We) : (s.setWeng n w).dict = s.dict := rfl
@[simp] theorem setWeng_gens (n : Nat) (w : We) : (s.setWeng n w).gens = s.gens := rfl
@[simp] theorem setWeng_mem (n : Nat) (w : We) : (s.setWeng n w).mem = s.mem := rfl
@[simp] theorem setWeng_flips (n : Nat) (w : We) : (s.setWeng n w).flips = s.flips := rfl
@[simp] theorem setWeng_ceFull (n : Nat) (w : We) : (s.setWeng n w).ceFull = s.ceFull := rfl
@[simp] theorem setWeng_umeta (n : Nat) (w : We) : (s.setWeng n w).umeta = s.umeta := rfl
@[simp] theorem setWeng_dom (n : Nat) (w : We) : (s.setWeng n w).dom = s.dom := rfl
@[simp] theorem setWeng_msgs (n : Nat) (w : We) : (s.setWeng n w).msgs = s.msgs := rfl
@[simp] theorem setWeng_tiles (n : Nat) (w : We) : (s.setWeng n w).tiles = s.tiles := rfl
@[simp] theorem setWeng_prog (n : Nat) (w : We) : (s.setWeng n w).prog = s.prog := rfl
@[simp] theorem setWeng_md (n : Nat) (w : We) : (s.setWeng n w).md = s.md := rfl
@[simp] theorem setWeng_dw (n : Nat) (w : We) : (s.setWeng n w).dw = s.dw := rfl
@[simp] theorem setWeng_regions (n : Nat) (w : We) : (s.setWeng n w).regions = s.regions := rfl
@[simp] theorem setWeng_rings (n : Nat) (w : We) : (s.setWeng n w).rings = s.rings := rfl
@[simp] theorem setWeng_rrNext (n : Nat) (w : We) : (s.setWeng n w).rrNext = s.rrNext := rfl
@[simp] theorem setWeng_job (n : Nat) (w : We) : (s.setWeng n w).job = s.job := rfl
@[simp] theorem setWeng_windows (n : Nat) (w : We) : (s.setWeng n w).windows = s.windows := rfl
@[simp] theorem setWeng_epoch (n : Nat) (w : We) : (s.setWeng n w).epoch = s.epoch := rfl
@[simp] theorem setWeng_mirror (n : Nat) (w : We) : (s.setWeng n w).mirror = s.mirror := rfl
@[simp] theorem setWeng_barInbox (n : Nat) (w : We) : (s.setWeng n w).barInbox = s.barInbox := rfl
@[simp] theorem setWeng_ports (n : Nat) (w : We) : (s.setWeng n w).ports = s.ports := rfl
@[simp] theorem setWeng_router (n : Nat) (w : We) : (s.setWeng n w).router = s.router := rfl
@[simp] theorem setWeng_clock (n : Nat) (w : We) : (s.setWeng n w).clock = s.clock := rfl
@[simp] theorem setWeng_me (n : Nat) (w : We) : (s.setWeng n w).me = s.me := rfl
@[simp] theorem setWeng_rc (n : Nat) (w : We) : (s.setWeng n w).rc = s.rc := rfl
@[simp] theorem setWeng_replies (n : Nat) (w : We) : (s.setWeng n w).replies = s.replies := rfl
@[simp] theorem setWeng_gov (n : Nat) (w : We) : (s.setWeng n w).gov = s.gov := rfl
@[simp] theorem setWeng_therm (n : Nat) (w : We) : (s.setWeng n w).therm = s.therm := rfl
@[simp] theorem setWeng_notices (n : Nat) (w : We) : (s.setWeng n w).notices = s.notices := rfl
@[simp] theorem setWeng_noticeSeq (n : Nat) (w : We) : (s.setWeng n w).noticeSeq = s.noticeSeq := rfl
@[simp] theorem setWeng_il (n : Nat) (w : We) : (s.setWeng n w).il = s.il := rfl
@[simp] theorem setWeng_mgr (n : Nat) (w : We) : (s.setWeng n w).mgr = s.mgr := rfl
@[simp] theorem setWeng_evid (n : Nat) (w : We) : (s.setWeng n w).evid = s.evid := rfl
@[simp] theorem setWeng_boot (n : Nat) (w : We) : (s.setWeng n w).boot = s.boot := rfl
@[simp] theorem setWeng_sb (n : Nat) (w : We) : (s.setWeng n w).sb = s.sb := rfl
@[simp] theorem setWeng_blob (n : Nat) (w : We) : (s.setWeng n w).blob = s.blob := rfl
@[simp] theorem setWeng_i3c (n : Nat) (w : We) : (s.setWeng n w).i3c = s.i3c := rfl
@[simp] theorem setWeng_fw (n : Nat) (w : We) : (s.setWeng n w).fw = s.fw := rfl
@[simp] theorem setWeng_rdata (n : Nat) (w : We) : (s.setWeng n w).rdata = s.rdata := rfl
@[simp] theorem setWeng_csrGet (n : Nat) (w : We) (o : Nat) : (s.setWeng n w).csrGet o = s.csrGet o := rfl
@[simp] theorem setWeng_fget (n : Nat) (w : We) (g : Fld) : (s.setWeng n w).fget g = s.fget g := rfl
@[simp] theorem setWeng_flag (n : Nat) (w : We) (g : Fld) : (s.setWeng n w).flag g = s.flag g := rfl
@[simp] theorem setWeng_od (n : Nat) (w : We) (j : Nat) : (s.setWeng n w).od j = s.od j := rfl
@[simp] theorem setWeng_cell (n : Nat) (w : We) (c : Nat) : (s.setWeng n w).cell c = s.cell c := rfl
@[simp] theorem setWeng_heldAt (n : Nat) (w : We) (c : Nat) : (s.setWeng n w).heldAt c = s.heldAt c := rfl
@[simp] theorem setWeng_tile (n : Nat) (w : We) (q : Nat) : (s.setWeng n w).tile q = s.tile q := rfl

/-! ## `setRing` -/

@[simp] theorem setRing_pending (r : Nat) (x : Ring) : (s.setRing r x).pending = s.pending := rfl
@[simp] theorem setRing_freeCtr (r : Nat) (x : Ring) : (s.setRing r x).freeCtr = s.freeCtr := rfl
@[simp] theorem setRing_rfrac (r : Nat) (x : Ring) : (s.setRing r x).rfrac = s.rfrac := rfl
@[simp] theorem setRing_csr (r : Nat) (x : Ring) : (s.setRing r x).csr = s.csr := rfl
@[simp] theorem setRing_dict (r : Nat) (x : Ring) : (s.setRing r x).dict = s.dict := rfl
@[simp] theorem setRing_gens (r : Nat) (x : Ring) : (s.setRing r x).gens = s.gens := rfl
@[simp] theorem setRing_mem (r : Nat) (x : Ring) : (s.setRing r x).mem = s.mem := rfl
@[simp] theorem setRing_flips (r : Nat) (x : Ring) : (s.setRing r x).flips = s.flips := rfl
@[simp] theorem setRing_ceFull (r : Nat) (x : Ring) : (s.setRing r x).ceFull = s.ceFull := rfl
@[simp] theorem setRing_umeta (r : Nat) (x : Ring) : (s.setRing r x).umeta = s.umeta := rfl
@[simp] theorem setRing_dom (r : Nat) (x : Ring) : (s.setRing r x).dom = s.dom := rfl
@[simp] theorem setRing_msgs (r : Nat) (x : Ring) : (s.setRing r x).msgs = s.msgs := rfl
@[simp] theorem setRing_tiles (r : Nat) (x : Ring) : (s.setRing r x).tiles = s.tiles := rfl
@[simp] theorem setRing_prog (r : Nat) (x : Ring) : (s.setRing r x).prog = s.prog := rfl
@[simp] theorem setRing_we (r : Nat) (x : Ring) : (s.setRing r x).we = s.we := rfl
@[simp] theorem setRing_md (r : Nat) (x : Ring) : (s.setRing r x).md = s.md := rfl
@[simp] theorem setRing_dw (r : Nat) (x : Ring) : (s.setRing r x).dw = s.dw := rfl
@[simp] theorem setRing_regions (r : Nat) (x : Ring) : (s.setRing r x).regions = s.regions := rfl
@[simp] theorem setRing_rrNext (r : Nat) (x : Ring) : (s.setRing r x).rrNext = s.rrNext := rfl
@[simp] theorem setRing_job (r : Nat) (x : Ring) : (s.setRing r x).job = s.job := rfl
@[simp] theorem setRing_windows (r : Nat) (x : Ring) : (s.setRing r x).windows = s.windows := rfl
@[simp] theorem setRing_epoch (r : Nat) (x : Ring) : (s.setRing r x).epoch = s.epoch := rfl
@[simp] theorem setRing_mirror (r : Nat) (x : Ring) : (s.setRing r x).mirror = s.mirror := rfl
@[simp] theorem setRing_barInbox (r : Nat) (x : Ring) : (s.setRing r x).barInbox = s.barInbox := rfl
@[simp] theorem setRing_ports (r : Nat) (x : Ring) : (s.setRing r x).ports = s.ports := rfl
@[simp] theorem setRing_router (r : Nat) (x : Ring) : (s.setRing r x).router = s.router := rfl
@[simp] theorem setRing_clock (r : Nat) (x : Ring) : (s.setRing r x).clock = s.clock := rfl
@[simp] theorem setRing_me (r : Nat) (x : Ring) : (s.setRing r x).me = s.me := rfl
@[simp] theorem setRing_rc (r : Nat) (x : Ring) : (s.setRing r x).rc = s.rc := rfl
@[simp] theorem setRing_replies (r : Nat) (x : Ring) : (s.setRing r x).replies = s.replies := rfl
@[simp] theorem setRing_gov (r : Nat) (x : Ring) : (s.setRing r x).gov = s.gov := rfl
@[simp] theorem setRing_therm (r : Nat) (x : Ring) : (s.setRing r x).therm = s.therm := rfl
@[simp] theorem setRing_notices (r : Nat) (x : Ring) : (s.setRing r x).notices = s.notices := rfl
@[simp] theorem setRing_noticeSeq (r : Nat) (x : Ring) : (s.setRing r x).noticeSeq = s.noticeSeq := rfl
@[simp] theorem setRing_il (r : Nat) (x : Ring) : (s.setRing r x).il = s.il := rfl
@[simp] theorem setRing_mgr (r : Nat) (x : Ring) : (s.setRing r x).mgr = s.mgr := rfl
@[simp] theorem setRing_evid (r : Nat) (x : Ring) : (s.setRing r x).evid = s.evid := rfl
@[simp] theorem setRing_boot (r : Nat) (x : Ring) : (s.setRing r x).boot = s.boot := rfl
@[simp] theorem setRing_sb (r : Nat) (x : Ring) : (s.setRing r x).sb = s.sb := rfl
@[simp] theorem setRing_blob (r : Nat) (x : Ring) : (s.setRing r x).blob = s.blob := rfl
@[simp] theorem setRing_i3c (r : Nat) (x : Ring) : (s.setRing r x).i3c = s.i3c := rfl
@[simp] theorem setRing_fw (r : Nat) (x : Ring) : (s.setRing r x).fw = s.fw := rfl
@[simp] theorem setRing_rdata (r : Nat) (x : Ring) : (s.setRing r x).rdata = s.rdata := rfl
@[simp] theorem setRing_csrGet (r : Nat) (x : Ring) (o : Nat) : (s.setRing r x).csrGet o = s.csrGet o := rfl
@[simp] theorem setRing_fget (r : Nat) (x : Ring) (g : Fld) : (s.setRing r x).fget g = s.fget g := rfl
@[simp] theorem setRing_flag (r : Nat) (x : Ring) (g : Fld) : (s.setRing r x).flag g = s.flag g := rfl
@[simp] theorem setRing_od (r : Nat) (x : Ring) (j : Nat) : (s.setRing r x).od j = s.od j := rfl
@[simp] theorem setRing_cell (r : Nat) (x : Ring) (c : Nat) : (s.setRing r x).cell c = s.cell c := rfl
@[simp] theorem setRing_heldAt (r : Nat) (x : Ring) (c : Nat) : (s.setRing r x).heldAt c = s.heldAt c := rfl
@[simp] theorem setRing_tile (r : Nat) (x : Ring) (q : Nat) : (s.setRing r x).tile q = s.tile q := rfl

/-! ## `setWait` -/

@[simp] theorem setWait_pending (r : Nat) (x : CmdWait) : (s.setWait r x).pending = s.pending := rfl
@[simp] theorem setWait_freeCtr (r : Nat) (x : CmdWait) : (s.setWait r x).freeCtr = s.freeCtr := rfl
@[simp] theorem setWait_rfrac (r : Nat) (x : CmdWait) : (s.setWait r x).rfrac = s.rfrac := rfl
@[simp] theorem setWait_csr (r : Nat) (x : CmdWait) : (s.setWait r x).csr = s.csr := rfl
@[simp] theorem setWait_dict (r : Nat) (x : CmdWait) : (s.setWait r x).dict = s.dict := rfl
@[simp] theorem setWait_gens (r : Nat) (x : CmdWait) : (s.setWait r x).gens = s.gens := rfl
@[simp] theorem setWait_mem (r : Nat) (x : CmdWait) : (s.setWait r x).mem = s.mem := rfl
@[simp] theorem setWait_flips (r : Nat) (x : CmdWait) : (s.setWait r x).flips = s.flips := rfl
@[simp] theorem setWait_ceFull (r : Nat) (x : CmdWait) : (s.setWait r x).ceFull = s.ceFull := rfl
@[simp] theorem setWait_umeta (r : Nat) (x : CmdWait) : (s.setWait r x).umeta = s.umeta := rfl
@[simp] theorem setWait_dom (r : Nat) (x : CmdWait) : (s.setWait r x).dom = s.dom := rfl
@[simp] theorem setWait_msgs (r : Nat) (x : CmdWait) : (s.setWait r x).msgs = s.msgs := rfl
@[simp] theorem setWait_tiles (r : Nat) (x : CmdWait) : (s.setWait r x).tiles = s.tiles := rfl
@[simp] theorem setWait_prog (r : Nat) (x : CmdWait) : (s.setWait r x).prog = s.prog := rfl
@[simp] theorem setWait_we (r : Nat) (x : CmdWait) : (s.setWait r x).we = s.we := rfl
@[simp] theorem setWait_md (r : Nat) (x : CmdWait) : (s.setWait r x).md = s.md := rfl
@[simp] theorem setWait_dw (r : Nat) (x : CmdWait) : (s.setWait r x).dw = s.dw := rfl
@[simp] theorem setWait_regions (r : Nat) (x : CmdWait) : (s.setWait r x).regions = s.regions := rfl
@[simp] theorem setWait_rrNext (r : Nat) (x : CmdWait) : (s.setWait r x).rrNext = s.rrNext := rfl
@[simp] theorem setWait_job (r : Nat) (x : CmdWait) : (s.setWait r x).job = s.job := rfl
@[simp] theorem setWait_windows (r : Nat) (x : CmdWait) : (s.setWait r x).windows = s.windows := rfl
@[simp] theorem setWait_epoch (r : Nat) (x : CmdWait) : (s.setWait r x).epoch = s.epoch := rfl
@[simp] theorem setWait_mirror (r : Nat) (x : CmdWait) : (s.setWait r x).mirror = s.mirror := rfl
@[simp] theorem setWait_barInbox (r : Nat) (x : CmdWait) : (s.setWait r x).barInbox = s.barInbox := rfl
@[simp] theorem setWait_ports (r : Nat) (x : CmdWait) : (s.setWait r x).ports = s.ports := rfl
@[simp] theorem setWait_router (r : Nat) (x : CmdWait) : (s.setWait r x).router = s.router := rfl
@[simp] theorem setWait_clock (r : Nat) (x : CmdWait) : (s.setWait r x).clock = s.clock := rfl
@[simp] theorem setWait_me (r : Nat) (x : CmdWait) : (s.setWait r x).me = s.me := rfl
@[simp] theorem setWait_rc (r : Nat) (x : CmdWait) : (s.setWait r x).rc = s.rc := rfl
@[simp] theorem setWait_replies (r : Nat) (x : CmdWait) : (s.setWait r x).replies = s.replies := rfl
@[simp] theorem setWait_gov (r : Nat) (x : CmdWait) : (s.setWait r x).gov = s.gov := rfl
@[simp] theorem setWait_therm (r : Nat) (x : CmdWait) : (s.setWait r x).therm = s.therm := rfl
@[simp] theorem setWait_notices (r : Nat) (x : CmdWait) : (s.setWait r x).notices = s.notices := rfl
@[simp] theorem setWait_noticeSeq (r : Nat) (x : CmdWait) : (s.setWait r x).noticeSeq = s.noticeSeq := rfl
@[simp] theorem setWait_il (r : Nat) (x : CmdWait) : (s.setWait r x).il = s.il := rfl
@[simp] theorem setWait_mgr (r : Nat) (x : CmdWait) : (s.setWait r x).mgr = s.mgr := rfl
@[simp] theorem setWait_evid (r : Nat) (x : CmdWait) : (s.setWait r x).evid = s.evid := rfl
@[simp] theorem setWait_boot (r : Nat) (x : CmdWait) : (s.setWait r x).boot = s.boot := rfl
@[simp] theorem setWait_sb (r : Nat) (x : CmdWait) : (s.setWait r x).sb = s.sb := rfl
@[simp] theorem setWait_blob (r : Nat) (x : CmdWait) : (s.setWait r x).blob = s.blob := rfl
@[simp] theorem setWait_i3c (r : Nat) (x : CmdWait) : (s.setWait r x).i3c = s.i3c := rfl
@[simp] theorem setWait_fw (r : Nat) (x : CmdWait) : (s.setWait r x).fw = s.fw := rfl
@[simp] theorem setWait_rdata (r : Nat) (x : CmdWait) : (s.setWait r x).rdata = s.rdata := rfl
@[simp] theorem setWait_csrGet (r : Nat) (x : CmdWait) (o : Nat) : (s.setWait r x).csrGet o = s.csrGet o := rfl
@[simp] theorem setWait_fget (r : Nat) (x : CmdWait) (g : Fld) : (s.setWait r x).fget g = s.fget g := rfl
@[simp] theorem setWait_flag (r : Nat) (x : CmdWait) (g : Fld) : (s.setWait r x).flag g = s.flag g := rfl
@[simp] theorem setWait_od (r : Nat) (x : CmdWait) (j : Nat) : (s.setWait r x).od j = s.od j := rfl
@[simp] theorem setWait_cell (r : Nat) (x : CmdWait) (c : Nat) : (s.setWait r x).cell c = s.cell c := rfl
@[simp] theorem setWait_heldAt (r : Nat) (x : CmdWait) (c : Nat) : (s.setWait r x).heldAt c = s.heldAt c := rfl
@[simp] theorem setWait_tile (r : Nat) (x : CmdWait) (q : Nat) : (s.setWait r x).tile q = s.tile q := rfl

/-! ## `setPort` -/

@[simp] theorem setPort_pending (p : Nat) (x : Port) : (s.setPort p x).pending = s.pending := rfl
@[simp] theorem setPort_freeCtr (p : Nat) (x : Port) : (s.setPort p x).freeCtr = s.freeCtr := rfl
@[simp] theorem setPort_rfrac (p : Nat) (x : Port) : (s.setPort p x).rfrac = s.rfrac := rfl
@[simp] theorem setPort_csr (p : Nat) (x : Port) : (s.setPort p x).csr = s.csr := rfl
@[simp] theorem setPort_dict (p : Nat) (x : Port) : (s.setPort p x).dict = s.dict := rfl
@[simp] theorem setPort_gens (p : Nat) (x : Port) : (s.setPort p x).gens = s.gens := rfl
@[simp] theorem setPort_mem (p : Nat) (x : Port) : (s.setPort p x).mem = s.mem := rfl
@[simp] theorem setPort_flips (p : Nat) (x : Port) : (s.setPort p x).flips = s.flips := rfl
@[simp] theorem setPort_ceFull (p : Nat) (x : Port) : (s.setPort p x).ceFull = s.ceFull := rfl
@[simp] theorem setPort_umeta (p : Nat) (x : Port) : (s.setPort p x).umeta = s.umeta := rfl
@[simp] theorem setPort_dom (p : Nat) (x : Port) : (s.setPort p x).dom = s.dom := rfl
@[simp] theorem setPort_msgs (p : Nat) (x : Port) : (s.setPort p x).msgs = s.msgs := rfl
@[simp] theorem setPort_tiles (p : Nat) (x : Port) : (s.setPort p x).tiles = s.tiles := rfl
@[simp] theorem setPort_prog (p : Nat) (x : Port) : (s.setPort p x).prog = s.prog := rfl
@[simp] theorem setPort_we (p : Nat) (x : Port) : (s.setPort p x).we = s.we := rfl
@[simp] theorem setPort_md (p : Nat) (x : Port) : (s.setPort p x).md = s.md := rfl
@[simp] theorem setPort_dw (p : Nat) (x : Port) : (s.setPort p x).dw = s.dw := rfl
@[simp] theorem setPort_regions (p : Nat) (x : Port) : (s.setPort p x).regions = s.regions := rfl
@[simp] theorem setPort_rings (p : Nat) (x : Port) : (s.setPort p x).rings = s.rings := rfl
@[simp] theorem setPort_rrNext (p : Nat) (x : Port) : (s.setPort p x).rrNext = s.rrNext := rfl
@[simp] theorem setPort_job (p : Nat) (x : Port) : (s.setPort p x).job = s.job := rfl
@[simp] theorem setPort_windows (p : Nat) (x : Port) : (s.setPort p x).windows = s.windows := rfl
@[simp] theorem setPort_epoch (p : Nat) (x : Port) : (s.setPort p x).epoch = s.epoch := rfl
@[simp] theorem setPort_mirror (p : Nat) (x : Port) : (s.setPort p x).mirror = s.mirror := rfl
@[simp] theorem setPort_barInbox (p : Nat) (x : Port) : (s.setPort p x).barInbox = s.barInbox := rfl
@[simp] theorem setPort_router (p : Nat) (x : Port) : (s.setPort p x).router = s.router := rfl
@[simp] theorem setPort_clock (p : Nat) (x : Port) : (s.setPort p x).clock = s.clock := rfl
@[simp] theorem setPort_me (p : Nat) (x : Port) : (s.setPort p x).me = s.me := rfl
@[simp] theorem setPort_rc (p : Nat) (x : Port) : (s.setPort p x).rc = s.rc := rfl
@[simp] theorem setPort_replies (p : Nat) (x : Port) : (s.setPort p x).replies = s.replies := rfl
@[simp] theorem setPort_gov (p : Nat) (x : Port) : (s.setPort p x).gov = s.gov := rfl
@[simp] theorem setPort_therm (p : Nat) (x : Port) : (s.setPort p x).therm = s.therm := rfl
@[simp] theorem setPort_notices (p : Nat) (x : Port) : (s.setPort p x).notices = s.notices := rfl
@[simp] theorem setPort_noticeSeq (p : Nat) (x : Port) : (s.setPort p x).noticeSeq = s.noticeSeq := rfl
@[simp] theorem setPort_il (p : Nat) (x : Port) : (s.setPort p x).il = s.il := rfl
@[simp] theorem setPort_mgr (p : Nat) (x : Port) : (s.setPort p x).mgr = s.mgr := rfl
@[simp] theorem setPort_evid (p : Nat) (x : Port) : (s.setPort p x).evid = s.evid := rfl
@[simp] theorem setPort_boot (p : Nat) (x : Port) : (s.setPort p x).boot = s.boot := rfl
@[simp] theorem setPort_sb (p : Nat) (x : Port) : (s.setPort p x).sb = s.sb := rfl
@[simp] theorem setPort_blob (p : Nat) (x : Port) : (s.setPort p x).blob = s.blob := rfl
@[simp] theorem setPort_i3c (p : Nat) (x : Port) : (s.setPort p x).i3c = s.i3c := rfl
@[simp] theorem setPort_fw (p : Nat) (x : Port) : (s.setPort p x).fw = s.fw := rfl
@[simp] theorem setPort_rdata (p : Nat) (x : Port) : (s.setPort p x).rdata = s.rdata := rfl
@[simp] theorem setPort_csrGet (p : Nat) (x : Port) (o : Nat) : (s.setPort p x).csrGet o = s.csrGet o := rfl
@[simp] theorem setPort_fget (p : Nat) (x : Port) (g : Fld) : (s.setPort p x).fget g = s.fget g := rfl
@[simp] theorem setPort_flag (p : Nat) (x : Port) (g : Fld) : (s.setPort p x).flag g = s.flag g := rfl
@[simp] theorem setPort_od (p : Nat) (x : Port) (j : Nat) : (s.setPort p x).od j = s.od j := rfl
@[simp] theorem setPort_cell (p : Nat) (x : Port) (c : Nat) : (s.setPort p x).cell c = s.cell c := rfl
@[simp] theorem setPort_heldAt (p : Nat) (x : Port) (c : Nat) : (s.setPort p x).heldAt c = s.heldAt c := rfl
@[simp] theorem setPort_tile (p : Nat) (x : Port) (q : Nat) : (s.setPort p x).tile q = s.tile q := rfl

/-! ## `setLane` -/

@[simp] theorem setLane_pending (l : Nat) (x : DwLane) : (s.setLane l x).pending = s.pending := rfl
@[simp] theorem setLane_freeCtr (l : Nat) (x : DwLane) : (s.setLane l x).freeCtr = s.freeCtr := rfl
@[simp] theorem setLane_rfrac (l : Nat) (x : DwLane) : (s.setLane l x).rfrac = s.rfrac := rfl
@[simp] theorem setLane_csr (l : Nat) (x : DwLane) : (s.setLane l x).csr = s.csr := rfl
@[simp] theorem setLane_dict (l : Nat) (x : DwLane) : (s.setLane l x).dict = s.dict := rfl
@[simp] theorem setLane_gens (l : Nat) (x : DwLane) : (s.setLane l x).gens = s.gens := rfl
@[simp] theorem setLane_mem (l : Nat) (x : DwLane) : (s.setLane l x).mem = s.mem := rfl
@[simp] theorem setLane_flips (l : Nat) (x : DwLane) : (s.setLane l x).flips = s.flips := rfl
@[simp] theorem setLane_ceFull (l : Nat) (x : DwLane) : (s.setLane l x).ceFull = s.ceFull := rfl
@[simp] theorem setLane_umeta (l : Nat) (x : DwLane) : (s.setLane l x).umeta = s.umeta := rfl
@[simp] theorem setLane_dom (l : Nat) (x : DwLane) : (s.setLane l x).dom = s.dom := rfl
@[simp] theorem setLane_msgs (l : Nat) (x : DwLane) : (s.setLane l x).msgs = s.msgs := rfl
@[simp] theorem setLane_tiles (l : Nat) (x : DwLane) : (s.setLane l x).tiles = s.tiles := rfl
@[simp] theorem setLane_prog (l : Nat) (x : DwLane) : (s.setLane l x).prog = s.prog := rfl
@[simp] theorem setLane_we (l : Nat) (x : DwLane) : (s.setLane l x).we = s.we := rfl
@[simp] theorem setLane_md (l : Nat) (x : DwLane) : (s.setLane l x).md = s.md := rfl
@[simp] theorem setLane_regions (l : Nat) (x : DwLane) : (s.setLane l x).regions = s.regions := rfl
@[simp] theorem setLane_rings (l : Nat) (x : DwLane) : (s.setLane l x).rings = s.rings := rfl
@[simp] theorem setLane_rrNext (l : Nat) (x : DwLane) : (s.setLane l x).rrNext = s.rrNext := rfl
@[simp] theorem setLane_job (l : Nat) (x : DwLane) : (s.setLane l x).job = s.job := rfl
@[simp] theorem setLane_windows (l : Nat) (x : DwLane) : (s.setLane l x).windows = s.windows := rfl
@[simp] theorem setLane_epoch (l : Nat) (x : DwLane) : (s.setLane l x).epoch = s.epoch := rfl
@[simp] theorem setLane_mirror (l : Nat) (x : DwLane) : (s.setLane l x).mirror = s.mirror := rfl
@[simp] theorem setLane_barInbox (l : Nat) (x : DwLane) : (s.setLane l x).barInbox = s.barInbox := rfl
@[simp] theorem setLane_ports (l : Nat) (x : DwLane) : (s.setLane l x).ports = s.ports := rfl
@[simp] theorem setLane_router (l : Nat) (x : DwLane) : (s.setLane l x).router = s.router := rfl
@[simp] theorem setLane_clock (l : Nat) (x : DwLane) : (s.setLane l x).clock = s.clock := rfl
@[simp] theorem setLane_me (l : Nat) (x : DwLane) : (s.setLane l x).me = s.me := rfl
@[simp] theorem setLane_rc (l : Nat) (x : DwLane) : (s.setLane l x).rc = s.rc := rfl
@[simp] theorem setLane_replies (l : Nat) (x : DwLane) : (s.setLane l x).replies = s.replies := rfl
@[simp] theorem setLane_gov (l : Nat) (x : DwLane) : (s.setLane l x).gov = s.gov := rfl
@[simp] theorem setLane_therm (l : Nat) (x : DwLane) : (s.setLane l x).therm = s.therm := rfl
@[simp] theorem setLane_notices (l : Nat) (x : DwLane) : (s.setLane l x).notices = s.notices := rfl
@[simp] theorem setLane_noticeSeq (l : Nat) (x : DwLane) : (s.setLane l x).noticeSeq = s.noticeSeq := rfl
@[simp] theorem setLane_il (l : Nat) (x : DwLane) : (s.setLane l x).il = s.il := rfl
@[simp] theorem setLane_mgr (l : Nat) (x : DwLane) : (s.setLane l x).mgr = s.mgr := rfl
@[simp] theorem setLane_evid (l : Nat) (x : DwLane) : (s.setLane l x).evid = s.evid := rfl
@[simp] theorem setLane_boot (l : Nat) (x : DwLane) : (s.setLane l x).boot = s.boot := rfl
@[simp] theorem setLane_sb (l : Nat) (x : DwLane) : (s.setLane l x).sb = s.sb := rfl
@[simp] theorem setLane_blob (l : Nat) (x : DwLane) : (s.setLane l x).blob = s.blob := rfl
@[simp] theorem setLane_i3c (l : Nat) (x : DwLane) : (s.setLane l x).i3c = s.i3c := rfl
@[simp] theorem setLane_fw (l : Nat) (x : DwLane) : (s.setLane l x).fw = s.fw := rfl
@[simp] theorem setLane_rdata (l : Nat) (x : DwLane) : (s.setLane l x).rdata = s.rdata := rfl
@[simp] theorem setLane_csrGet (l : Nat) (x : DwLane) (o : Nat) : (s.setLane l x).csrGet o = s.csrGet o := rfl
@[simp] theorem setLane_fget (l : Nat) (x : DwLane) (g : Fld) : (s.setLane l x).fget g = s.fget g := rfl
@[simp] theorem setLane_flag (l : Nat) (x : DwLane) (g : Fld) : (s.setLane l x).flag g = s.flag g := rfl
@[simp] theorem setLane_od (l : Nat) (x : DwLane) (j : Nat) : (s.setLane l x).od j = s.od j := rfl
@[simp] theorem setLane_cell (l : Nat) (x : DwLane) (c : Nat) : (s.setLane l x).cell c = s.cell c := rfl
@[simp] theorem setLane_heldAt (l : Nat) (x : DwLane) (c : Nat) : (s.setLane l x).heldAt c = s.heldAt c := rfl
@[simp] theorem setLane_tile (l : Nat) (x : DwLane) (q : Nat) : (s.setLane l x).tile q = s.tile q := rfl

/-! ## `setMe` -/

@[simp] theorem setMe_pending (d : Nat) (e : Me) : (s.setMe d e).pending = s.pending := rfl
@[simp] theorem setMe_freeCtr (d : Nat) (e : Me) : (s.setMe d e).freeCtr = s.freeCtr := rfl
@[simp] theorem setMe_rfrac (d : Nat) (e : Me) : (s.setMe d e).rfrac = s.rfrac := rfl
@[simp] theorem setMe_csr (d : Nat) (e : Me) : (s.setMe d e).csr = s.csr := rfl
@[simp] theorem setMe_dict (d : Nat) (e : Me) : (s.setMe d e).dict = s.dict := rfl
@[simp] theorem setMe_gens (d : Nat) (e : Me) : (s.setMe d e).gens = s.gens := rfl
@[simp] theorem setMe_mem (d : Nat) (e : Me) : (s.setMe d e).mem = s.mem := rfl
@[simp] theorem setMe_flips (d : Nat) (e : Me) : (s.setMe d e).flips = s.flips := rfl
@[simp] theorem setMe_ceFull (d : Nat) (e : Me) : (s.setMe d e).ceFull = s.ceFull := rfl
@[simp] theorem setMe_umeta (d : Nat) (e : Me) : (s.setMe d e).umeta = s.umeta := rfl
@[simp] theorem setMe_dom (d : Nat) (e : Me) : (s.setMe d e).dom = s.dom := rfl
@[simp] theorem setMe_msgs (d : Nat) (e : Me) : (s.setMe d e).msgs = s.msgs := rfl
@[simp] theorem setMe_tiles (d : Nat) (e : Me) : (s.setMe d e).tiles = s.tiles := rfl
@[simp] theorem setMe_prog (d : Nat) (e : Me) : (s.setMe d e).prog = s.prog := rfl
@[simp] theorem setMe_we (d : Nat) (e : Me) : (s.setMe d e).we = s.we := rfl
@[simp] theorem setMe_md (d : Nat) (e : Me) : (s.setMe d e).md = s.md := rfl
@[simp] theorem setMe_dw (d : Nat) (e : Me) : (s.setMe d e).dw = s.dw := rfl
@[simp] theorem setMe_regions (d : Nat) (e : Me) : (s.setMe d e).regions = s.regions := rfl
@[simp] theorem setMe_rings (d : Nat) (e : Me) : (s.setMe d e).rings = s.rings := rfl
@[simp] theorem setMe_rrNext (d : Nat) (e : Me) : (s.setMe d e).rrNext = s.rrNext := rfl
@[simp] theorem setMe_job (d : Nat) (e : Me) : (s.setMe d e).job = s.job := rfl
@[simp] theorem setMe_windows (d : Nat) (e : Me) : (s.setMe d e).windows = s.windows := rfl
@[simp] theorem setMe_epoch (d : Nat) (e : Me) : (s.setMe d e).epoch = s.epoch := rfl
@[simp] theorem setMe_mirror (d : Nat) (e : Me) : (s.setMe d e).mirror = s.mirror := rfl
@[simp] theorem setMe_barInbox (d : Nat) (e : Me) : (s.setMe d e).barInbox = s.barInbox := rfl
@[simp] theorem setMe_ports (d : Nat) (e : Me) : (s.setMe d e).ports = s.ports := rfl
@[simp] theorem setMe_router (d : Nat) (e : Me) : (s.setMe d e).router = s.router := rfl
@[simp] theorem setMe_clock (d : Nat) (e : Me) : (s.setMe d e).clock = s.clock := rfl
@[simp] theorem setMe_rc (d : Nat) (e : Me) : (s.setMe d e).rc = s.rc := rfl
@[simp] theorem setMe_replies (d : Nat) (e : Me) : (s.setMe d e).replies = s.replies := rfl
@[simp] theorem setMe_gov (d : Nat) (e : Me) : (s.setMe d e).gov = s.gov := rfl
@[simp] theorem setMe_therm (d : Nat) (e : Me) : (s.setMe d e).therm = s.therm := rfl
@[simp] theorem setMe_notices (d : Nat) (e : Me) : (s.setMe d e).notices = s.notices := rfl
@[simp] theorem setMe_noticeSeq (d : Nat) (e : Me) : (s.setMe d e).noticeSeq = s.noticeSeq := rfl
@[simp] theorem setMe_il (d : Nat) (e : Me) : (s.setMe d e).il = s.il := rfl
@[simp] theorem setMe_mgr (d : Nat) (e : Me) : (s.setMe d e).mgr = s.mgr := rfl
@[simp] theorem setMe_evid (d : Nat) (e : Me) : (s.setMe d e).evid = s.evid := rfl
@[simp] theorem setMe_boot (d : Nat) (e : Me) : (s.setMe d e).boot = s.boot := rfl
@[simp] theorem setMe_sb (d : Nat) (e : Me) : (s.setMe d e).sb = s.sb := rfl
@[simp] theorem setMe_blob (d : Nat) (e : Me) : (s.setMe d e).blob = s.blob := rfl
@[simp] theorem setMe_i3c (d : Nat) (e : Me) : (s.setMe d e).i3c = s.i3c := rfl
@[simp] theorem setMe_fw (d : Nat) (e : Me) : (s.setMe d e).fw = s.fw := rfl
@[simp] theorem setMe_rdata (d : Nat) (e : Me) : (s.setMe d e).rdata = s.rdata := rfl
@[simp] theorem setMe_csrGet (d : Nat) (e : Me) (o : Nat) : (s.setMe d e).csrGet o = s.csrGet o := rfl
@[simp] theorem setMe_fget (d : Nat) (e : Me) (g : Fld) : (s.setMe d e).fget g = s.fget g := rfl
@[simp] theorem setMe_flag (d : Nat) (e : Me) (g : Fld) : (s.setMe d e).flag g = s.flag g := rfl
@[simp] theorem setMe_od (d : Nat) (e : Me) (j : Nat) : (s.setMe d e).od j = s.od j := rfl
@[simp] theorem setMe_cell (d : Nat) (e : Me) (c : Nat) : (s.setMe d e).cell c = s.cell c := rfl
@[simp] theorem setMe_heldAt (d : Nat) (e : Me) (c : Nat) : (s.setMe d e).heldAt c = s.heldAt c := rfl
@[simp] theorem setMe_tile (d : Nat) (e : Me) (q : Nat) : (s.setMe d e).tile q = s.tile q := rfl

/-! ## `epMod` -/

@[simp] theorem epMod_pending (f : Epoch → Epoch) : (s.epMod f).pending = s.pending := rfl
@[simp] theorem epMod_freeCtr (f : Epoch → Epoch) : (s.epMod f).freeCtr = s.freeCtr := rfl
@[simp] theorem epMod_rfrac (f : Epoch → Epoch) : (s.epMod f).rfrac = s.rfrac := rfl
@[simp] theorem epMod_csr (f : Epoch → Epoch) : (s.epMod f).csr = s.csr := rfl
@[simp] theorem epMod_dict (f : Epoch → Epoch) : (s.epMod f).dict = s.dict := rfl
@[simp] theorem epMod_gens (f : Epoch → Epoch) : (s.epMod f).gens = s.gens := rfl
@[simp] theorem epMod_mem (f : Epoch → Epoch) : (s.epMod f).mem = s.mem := rfl
@[simp] theorem epMod_flips (f : Epoch → Epoch) : (s.epMod f).flips = s.flips := rfl
@[simp] theorem epMod_ceFull (f : Epoch → Epoch) : (s.epMod f).ceFull = s.ceFull := rfl
@[simp] theorem epMod_umeta (f : Epoch → Epoch) : (s.epMod f).umeta = s.umeta := rfl
@[simp] theorem epMod_dom (f : Epoch → Epoch) : (s.epMod f).dom = s.dom := rfl
@[simp] theorem epMod_msgs (f : Epoch → Epoch) : (s.epMod f).msgs = s.msgs := rfl
@[simp] theorem epMod_tiles (f : Epoch → Epoch) : (s.epMod f).tiles = s.tiles := rfl
@[simp] theorem epMod_prog (f : Epoch → Epoch) : (s.epMod f).prog = s.prog := rfl
@[simp] theorem epMod_we (f : Epoch → Epoch) : (s.epMod f).we = s.we := rfl
@[simp] theorem epMod_md (f : Epoch → Epoch) : (s.epMod f).md = s.md := rfl
@[simp] theorem epMod_dw (f : Epoch → Epoch) : (s.epMod f).dw = s.dw := rfl
@[simp] theorem epMod_regions (f : Epoch → Epoch) : (s.epMod f).regions = s.regions := rfl
@[simp] theorem epMod_rings (f : Epoch → Epoch) : (s.epMod f).rings = s.rings := rfl
@[simp] theorem epMod_rrNext (f : Epoch → Epoch) : (s.epMod f).rrNext = s.rrNext := rfl
@[simp] theorem epMod_job (f : Epoch → Epoch) : (s.epMod f).job = s.job := rfl
@[simp] theorem epMod_windows (f : Epoch → Epoch) : (s.epMod f).windows = s.windows := rfl
@[simp] theorem epMod_mirror (f : Epoch → Epoch) : (s.epMod f).mirror = s.mirror := rfl
@[simp] theorem epMod_barInbox (f : Epoch → Epoch) : (s.epMod f).barInbox = s.barInbox := rfl
@[simp] theorem epMod_ports (f : Epoch → Epoch) : (s.epMod f).ports = s.ports := rfl
@[simp] theorem epMod_router (f : Epoch → Epoch) : (s.epMod f).router = s.router := rfl
@[simp] theorem epMod_clock (f : Epoch → Epoch) : (s.epMod f).clock = s.clock := rfl
@[simp] theorem epMod_me (f : Epoch → Epoch) : (s.epMod f).me = s.me := rfl
@[simp] theorem epMod_rc (f : Epoch → Epoch) : (s.epMod f).rc = s.rc := rfl
@[simp] theorem epMod_replies (f : Epoch → Epoch) : (s.epMod f).replies = s.replies := rfl
@[simp] theorem epMod_gov (f : Epoch → Epoch) : (s.epMod f).gov = s.gov := rfl
@[simp] theorem epMod_therm (f : Epoch → Epoch) : (s.epMod f).therm = s.therm := rfl
@[simp] theorem epMod_notices (f : Epoch → Epoch) : (s.epMod f).notices = s.notices := rfl
@[simp] theorem epMod_noticeSeq (f : Epoch → Epoch) : (s.epMod f).noticeSeq = s.noticeSeq := rfl
@[simp] theorem epMod_il (f : Epoch → Epoch) : (s.epMod f).il = s.il := rfl
@[simp] theorem epMod_mgr (f : Epoch → Epoch) : (s.epMod f).mgr = s.mgr := rfl
@[simp] theorem epMod_evid (f : Epoch → Epoch) : (s.epMod f).evid = s.evid := rfl
@[simp] theorem epMod_boot (f : Epoch → Epoch) : (s.epMod f).boot = s.boot := rfl
@[simp] theorem epMod_sb (f : Epoch → Epoch) : (s.epMod f).sb = s.sb := rfl
@[simp] theorem epMod_blob (f : Epoch → Epoch) : (s.epMod f).blob = s.blob := rfl
@[simp] theorem epMod_i3c (f : Epoch → Epoch) : (s.epMod f).i3c = s.i3c := rfl
@[simp] theorem epMod_fw (f : Epoch → Epoch) : (s.epMod f).fw = s.fw := rfl
@[simp] theorem epMod_rdata (f : Epoch → Epoch) : (s.epMod f).rdata = s.rdata := rfl
@[simp] theorem epMod_csrGet (f : Epoch → Epoch) (o : Nat) : (s.epMod f).csrGet o = s.csrGet o := rfl
@[simp] theorem epMod_fget (f : Epoch → Epoch) (g : Fld) : (s.epMod f).fget g = s.fget g := rfl
@[simp] theorem epMod_flag (f : Epoch → Epoch) (g : Fld) : (s.epMod f).flag g = s.flag g := rfl
@[simp] theorem epMod_od (f : Epoch → Epoch) (j : Nat) : (s.epMod f).od j = s.od j := rfl
@[simp] theorem epMod_cell (f : Epoch → Epoch) (c : Nat) : (s.epMod f).cell c = s.cell c := rfl
@[simp] theorem epMod_heldAt (f : Epoch → Epoch) (c : Nat) : (s.epMod f).heldAt c = s.heldAt c := rfl
@[simp] theorem epMod_tile (f : Epoch → Epoch) (q : Nat) : (s.epMod f).tile q = s.tile q := rfl

/-! ## `rcMod` -/

@[simp] theorem rcMod_pending (f : Rc → Rc) : (s.rcMod f).pending = s.pending := rfl
@[simp] theorem rcMod_freeCtr (f : Rc → Rc) : (s.rcMod f).freeCtr = s.freeCtr := rfl
@[simp] theorem rcMod_rfrac (f : Rc → Rc) : (s.rcMod f).rfrac = s.rfrac := rfl
@[simp] theorem rcMod_csr (f : Rc → Rc) : (s.rcMod f).csr = s.csr := rfl
@[simp] theorem rcMod_dict (f : Rc → Rc) : (s.rcMod f).dict = s.dict := rfl
@[simp] theorem rcMod_gens (f : Rc → Rc) : (s.rcMod f).gens = s.gens := rfl
@[simp] theorem rcMod_mem (f : Rc → Rc) : (s.rcMod f).mem = s.mem := rfl
@[simp] theorem rcMod_flips (f : Rc → Rc) : (s.rcMod f).flips = s.flips := rfl
@[simp] theorem rcMod_ceFull (f : Rc → Rc) : (s.rcMod f).ceFull = s.ceFull := rfl
@[simp] theorem rcMod_umeta (f : Rc → Rc) : (s.rcMod f).umeta = s.umeta := rfl
@[simp] theorem rcMod_dom (f : Rc → Rc) : (s.rcMod f).dom = s.dom := rfl
@[simp] theorem rcMod_msgs (f : Rc → Rc) : (s.rcMod f).msgs = s.msgs := rfl
@[simp] theorem rcMod_tiles (f : Rc → Rc) : (s.rcMod f).tiles = s.tiles := rfl
@[simp] theorem rcMod_prog (f : Rc → Rc) : (s.rcMod f).prog = s.prog := rfl
@[simp] theorem rcMod_we (f : Rc → Rc) : (s.rcMod f).we = s.we := rfl
@[simp] theorem rcMod_md (f : Rc → Rc) : (s.rcMod f).md = s.md := rfl
@[simp] theorem rcMod_dw (f : Rc → Rc) : (s.rcMod f).dw = s.dw := rfl
@[simp] theorem rcMod_regions (f : Rc → Rc) : (s.rcMod f).regions = s.regions := rfl
@[simp] theorem rcMod_rings (f : Rc → Rc) : (s.rcMod f).rings = s.rings := rfl
@[simp] theorem rcMod_rrNext (f : Rc → Rc) : (s.rcMod f).rrNext = s.rrNext := rfl
@[simp] theorem rcMod_job (f : Rc → Rc) : (s.rcMod f).job = s.job := rfl
@[simp] theorem rcMod_windows (f : Rc → Rc) : (s.rcMod f).windows = s.windows := rfl
@[simp] theorem rcMod_epoch (f : Rc → Rc) : (s.rcMod f).epoch = s.epoch := rfl
@[simp] theorem rcMod_mirror (f : Rc → Rc) : (s.rcMod f).mirror = s.mirror := rfl
@[simp] theorem rcMod_barInbox (f : Rc → Rc) : (s.rcMod f).barInbox = s.barInbox := rfl
@[simp] theorem rcMod_ports (f : Rc → Rc) : (s.rcMod f).ports = s.ports := rfl
@[simp] theorem rcMod_router (f : Rc → Rc) : (s.rcMod f).router = s.router := rfl
@[simp] theorem rcMod_clock (f : Rc → Rc) : (s.rcMod f).clock = s.clock := rfl
@[simp] theorem rcMod_me (f : Rc → Rc) : (s.rcMod f).me = s.me := rfl
@[simp] theorem rcMod_replies (f : Rc → Rc) : (s.rcMod f).replies = s.replies := rfl
@[simp] theorem rcMod_gov (f : Rc → Rc) : (s.rcMod f).gov = s.gov := rfl
@[simp] theorem rcMod_therm (f : Rc → Rc) : (s.rcMod f).therm = s.therm := rfl
@[simp] theorem rcMod_notices (f : Rc → Rc) : (s.rcMod f).notices = s.notices := rfl
@[simp] theorem rcMod_noticeSeq (f : Rc → Rc) : (s.rcMod f).noticeSeq = s.noticeSeq := rfl
@[simp] theorem rcMod_il (f : Rc → Rc) : (s.rcMod f).il = s.il := rfl
@[simp] theorem rcMod_mgr (f : Rc → Rc) : (s.rcMod f).mgr = s.mgr := rfl
@[simp] theorem rcMod_evid (f : Rc → Rc) : (s.rcMod f).evid = s.evid := rfl
@[simp] theorem rcMod_boot (f : Rc → Rc) : (s.rcMod f).boot = s.boot := rfl
@[simp] theorem rcMod_sb (f : Rc → Rc) : (s.rcMod f).sb = s.sb := rfl
@[simp] theorem rcMod_blob (f : Rc → Rc) : (s.rcMod f).blob = s.blob := rfl
@[simp] theorem rcMod_i3c (f : Rc → Rc) : (s.rcMod f).i3c = s.i3c := rfl
@[simp] theorem rcMod_fw (f : Rc → Rc) : (s.rcMod f).fw = s.fw := rfl
@[simp] theorem rcMod_rdata (f : Rc → Rc) : (s.rcMod f).rdata = s.rdata := rfl
@[simp] theorem rcMod_csrGet (f : Rc → Rc) (o : Nat) : (s.rcMod f).csrGet o = s.csrGet o := rfl
@[simp] theorem rcMod_fget (f : Rc → Rc) (g : Fld) : (s.rcMod f).fget g = s.fget g := rfl
@[simp] theorem rcMod_flag (f : Rc → Rc) (g : Fld) : (s.rcMod f).flag g = s.flag g := rfl
@[simp] theorem rcMod_od (f : Rc → Rc) (j : Nat) : (s.rcMod f).od j = s.od j := rfl
@[simp] theorem rcMod_cell (f : Rc → Rc) (c : Nat) : (s.rcMod f).cell c = s.cell c := rfl
@[simp] theorem rcMod_heldAt (f : Rc → Rc) (c : Nat) : (s.rcMod f).heldAt c = s.heldAt c := rfl
@[simp] theorem rcMod_tile (f : Rc → Rc) (q : Nat) : (s.rcMod f).tile q = s.tile q := rfl

/-! ## `fwMod` -/

@[simp] theorem fwMod_pending (f : Fw → Fw) : (s.fwMod f).pending = s.pending := rfl
@[simp] theorem fwMod_freeCtr (f : Fw → Fw) : (s.fwMod f).freeCtr = s.freeCtr := rfl
@[simp] theorem fwMod_rfrac (f : Fw → Fw) : (s.fwMod f).rfrac = s.rfrac := rfl
@[simp] theorem fwMod_csr (f : Fw → Fw) : (s.fwMod f).csr = s.csr := rfl
@[simp] theorem fwMod_dict (f : Fw → Fw) : (s.fwMod f).dict = s.dict := rfl
@[simp] theorem fwMod_gens (f : Fw → Fw) : (s.fwMod f).gens = s.gens := rfl
@[simp] theorem fwMod_mem (f : Fw → Fw) : (s.fwMod f).mem = s.mem := rfl
@[simp] theorem fwMod_flips (f : Fw → Fw) : (s.fwMod f).flips = s.flips := rfl
@[simp] theorem fwMod_ceFull (f : Fw → Fw) : (s.fwMod f).ceFull = s.ceFull := rfl
@[simp] theorem fwMod_umeta (f : Fw → Fw) : (s.fwMod f).umeta = s.umeta := rfl
@[simp] theorem fwMod_dom (f : Fw → Fw) : (s.fwMod f).dom = s.dom := rfl
@[simp] theorem fwMod_msgs (f : Fw → Fw) : (s.fwMod f).msgs = s.msgs := rfl
@[simp] theorem fwMod_tiles (f : Fw → Fw) : (s.fwMod f).tiles = s.tiles := rfl
@[simp] theorem fwMod_prog (f : Fw → Fw) : (s.fwMod f).prog = s.prog := rfl
@[simp] theorem fwMod_we (f : Fw → Fw) : (s.fwMod f).we = s.we := rfl
@[simp] theorem fwMod_md (f : Fw → Fw) : (s.fwMod f).md = s.md := rfl
@[simp] theorem fwMod_dw (f : Fw → Fw) : (s.fwMod f).dw = s.dw := rfl
@[simp] theorem fwMod_regions (f : Fw → Fw) : (s.fwMod f).regions = s.regions := rfl
@[simp] theorem fwMod_rings (f : Fw → Fw) : (s.fwMod f).rings = s.rings := rfl
@[simp] theorem fwMod_rrNext (f : Fw → Fw) : (s.fwMod f).rrNext = s.rrNext := rfl
@[simp] theorem fwMod_job (f : Fw → Fw) : (s.fwMod f).job = s.job := rfl
@[simp] theorem fwMod_windows (f : Fw → Fw) : (s.fwMod f).windows = s.windows := rfl
@[simp] theorem fwMod_epoch (f : Fw → Fw) : (s.fwMod f).epoch = s.epoch := rfl
@[simp] theorem fwMod_mirror (f : Fw → Fw) : (s.fwMod f).mirror = s.mirror := rfl
@[simp] theorem fwMod_barInbox (f : Fw → Fw) : (s.fwMod f).barInbox = s.barInbox := rfl
@[simp] theorem fwMod_ports (f : Fw → Fw) : (s.fwMod f).ports = s.ports := rfl
@[simp] theorem fwMod_router (f : Fw → Fw) : (s.fwMod f).router = s.router := rfl
@[simp] theorem fwMod_clock (f : Fw → Fw) : (s.fwMod f).clock = s.clock := rfl
@[simp] theorem fwMod_me (f : Fw → Fw) : (s.fwMod f).me = s.me := rfl
@[simp] theorem fwMod_rc (f : Fw → Fw) : (s.fwMod f).rc = s.rc := rfl
@[simp] theorem fwMod_replies (f : Fw → Fw) : (s.fwMod f).replies = s.replies := rfl
@[simp] theorem fwMod_gov (f : Fw → Fw) : (s.fwMod f).gov = s.gov := rfl
@[simp] theorem fwMod_therm (f : Fw → Fw) : (s.fwMod f).therm = s.therm := rfl
@[simp] theorem fwMod_notices (f : Fw → Fw) : (s.fwMod f).notices = s.notices := rfl
@[simp] theorem fwMod_noticeSeq (f : Fw → Fw) : (s.fwMod f).noticeSeq = s.noticeSeq := rfl
@[simp] theorem fwMod_il (f : Fw → Fw) : (s.fwMod f).il = s.il := rfl
@[simp] theorem fwMod_mgr (f : Fw → Fw) : (s.fwMod f).mgr = s.mgr := rfl
@[simp] theorem fwMod_evid (f : Fw → Fw) : (s.fwMod f).evid = s.evid := rfl
@[simp] theorem fwMod_boot (f : Fw → Fw) : (s.fwMod f).boot = s.boot := rfl
@[simp] theorem fwMod_sb (f : Fw → Fw) : (s.fwMod f).sb = s.sb := rfl
@[simp] theorem fwMod_blob (f : Fw → Fw) : (s.fwMod f).blob = s.blob := rfl
@[simp] theorem fwMod_i3c (f : Fw → Fw) : (s.fwMod f).i3c = s.i3c := rfl
@[simp] theorem fwMod_rdata (f : Fw → Fw) : (s.fwMod f).rdata = s.rdata := rfl
@[simp] theorem fwMod_csrGet (f : Fw → Fw) (o : Nat) : (s.fwMod f).csrGet o = s.csrGet o := rfl
@[simp] theorem fwMod_fget (f : Fw → Fw) (g : Fld) : (s.fwMod f).fget g = s.fget g := rfl
@[simp] theorem fwMod_flag (f : Fw → Fw) (g : Fld) : (s.fwMod f).flag g = s.flag g := rfl
@[simp] theorem fwMod_od (f : Fw → Fw) (j : Nat) : (s.fwMod f).od j = s.od j := rfl
@[simp] theorem fwMod_cell (f : Fw → Fw) (c : Nat) : (s.fwMod f).cell c = s.cell c := rfl
@[simp] theorem fwMod_heldAt (f : Fw → Fw) (c : Nat) : (s.fwMod f).heldAt c = s.heldAt c := rfl
@[simp] theorem fwMod_tile (f : Fw → Fw) (q : Nat) : (s.fwMod f).tile q = s.tile q := rfl

/-! ## `mgrMod` -/

@[simp] theorem mgrMod_pending (f : Mgr → Mgr) : (s.mgrMod f).pending = s.pending := rfl
@[simp] theorem mgrMod_freeCtr (f : Mgr → Mgr) : (s.mgrMod f).freeCtr = s.freeCtr := rfl
@[simp] theorem mgrMod_rfrac (f : Mgr → Mgr) : (s.mgrMod f).rfrac = s.rfrac := rfl
@[simp] theorem mgrMod_csr (f : Mgr → Mgr) : (s.mgrMod f).csr = s.csr := rfl
@[simp] theorem mgrMod_dict (f : Mgr → Mgr) : (s.mgrMod f).dict = s.dict := rfl
@[simp] theorem mgrMod_gens (f : Mgr → Mgr) : (s.mgrMod f).gens = s.gens := rfl
@[simp] theorem mgrMod_mem (f : Mgr → Mgr) : (s.mgrMod f).mem = s.mem := rfl
@[simp] theorem mgrMod_flips (f : Mgr → Mgr) : (s.mgrMod f).flips = s.flips := rfl
@[simp] theorem mgrMod_ceFull (f : Mgr → Mgr) : (s.mgrMod f).ceFull = s.ceFull := rfl
@[simp] theorem mgrMod_umeta (f : Mgr → Mgr) : (s.mgrMod f).umeta = s.umeta := rfl
@[simp] theorem mgrMod_dom (f : Mgr → Mgr) : (s.mgrMod f).dom = s.dom := rfl
@[simp] theorem mgrMod_msgs (f : Mgr → Mgr) : (s.mgrMod f).msgs = s.msgs := rfl
@[simp] theorem mgrMod_tiles (f : Mgr → Mgr) : (s.mgrMod f).tiles = s.tiles := rfl
@[simp] theorem mgrMod_prog (f : Mgr → Mgr) : (s.mgrMod f).prog = s.prog := rfl
@[simp] theorem mgrMod_we (f : Mgr → Mgr) : (s.mgrMod f).we = s.we := rfl
@[simp] theorem mgrMod_md (f : Mgr → Mgr) : (s.mgrMod f).md = s.md := rfl
@[simp] theorem mgrMod_dw (f : Mgr → Mgr) : (s.mgrMod f).dw = s.dw := rfl
@[simp] theorem mgrMod_regions (f : Mgr → Mgr) : (s.mgrMod f).regions = s.regions := rfl
@[simp] theorem mgrMod_rings (f : Mgr → Mgr) : (s.mgrMod f).rings = s.rings := rfl
@[simp] theorem mgrMod_rrNext (f : Mgr → Mgr) : (s.mgrMod f).rrNext = s.rrNext := rfl
@[simp] theorem mgrMod_job (f : Mgr → Mgr) : (s.mgrMod f).job = s.job := rfl
@[simp] theorem mgrMod_windows (f : Mgr → Mgr) : (s.mgrMod f).windows = s.windows := rfl
@[simp] theorem mgrMod_epoch (f : Mgr → Mgr) : (s.mgrMod f).epoch = s.epoch := rfl
@[simp] theorem mgrMod_mirror (f : Mgr → Mgr) : (s.mgrMod f).mirror = s.mirror := rfl
@[simp] theorem mgrMod_barInbox (f : Mgr → Mgr) : (s.mgrMod f).barInbox = s.barInbox := rfl
@[simp] theorem mgrMod_ports (f : Mgr → Mgr) : (s.mgrMod f).ports = s.ports := rfl
@[simp] theorem mgrMod_router (f : Mgr → Mgr) : (s.mgrMod f).router = s.router := rfl
@[simp] theorem mgrMod_clock (f : Mgr → Mgr) : (s.mgrMod f).clock = s.clock := rfl
@[simp] theorem mgrMod_me (f : Mgr → Mgr) : (s.mgrMod f).me = s.me := rfl
@[simp] theorem mgrMod_rc (f : Mgr → Mgr) : (s.mgrMod f).rc = s.rc := rfl
@[simp] theorem mgrMod_replies (f : Mgr → Mgr) : (s.mgrMod f).replies = s.replies := rfl
@[simp] theorem mgrMod_gov (f : Mgr → Mgr) : (s.mgrMod f).gov = s.gov := rfl
@[simp] theorem mgrMod_therm (f : Mgr → Mgr) : (s.mgrMod f).therm = s.therm := rfl
@[simp] theorem mgrMod_notices (f : Mgr → Mgr) : (s.mgrMod f).notices = s.notices := rfl
@[simp] theorem mgrMod_noticeSeq (f : Mgr → Mgr) : (s.mgrMod f).noticeSeq = s.noticeSeq := rfl
@[simp] theorem mgrMod_il (f : Mgr → Mgr) : (s.mgrMod f).il = s.il := rfl
@[simp] theorem mgrMod_evid (f : Mgr → Mgr) : (s.mgrMod f).evid = s.evid := rfl
@[simp] theorem mgrMod_boot (f : Mgr → Mgr) : (s.mgrMod f).boot = s.boot := rfl
@[simp] theorem mgrMod_sb (f : Mgr → Mgr) : (s.mgrMod f).sb = s.sb := rfl
@[simp] theorem mgrMod_blob (f : Mgr → Mgr) : (s.mgrMod f).blob = s.blob := rfl
@[simp] theorem mgrMod_i3c (f : Mgr → Mgr) : (s.mgrMod f).i3c = s.i3c := rfl
@[simp] theorem mgrMod_fw (f : Mgr → Mgr) : (s.mgrMod f).fw = s.fw := rfl
@[simp] theorem mgrMod_rdata (f : Mgr → Mgr) : (s.mgrMod f).rdata = s.rdata := rfl
@[simp] theorem mgrMod_csrGet (f : Mgr → Mgr) (o : Nat) : (s.mgrMod f).csrGet o = s.csrGet o := rfl
@[simp] theorem mgrMod_fget (f : Mgr → Mgr) (g : Fld) : (s.mgrMod f).fget g = s.fget g := rfl
@[simp] theorem mgrMod_flag (f : Mgr → Mgr) (g : Fld) : (s.mgrMod f).flag g = s.flag g := rfl
@[simp] theorem mgrMod_od (f : Mgr → Mgr) (j : Nat) : (s.mgrMod f).od j = s.od j := rfl
@[simp] theorem mgrMod_cell (f : Mgr → Mgr) (c : Nat) : (s.mgrMod f).cell c = s.cell c := rfl
@[simp] theorem mgrMod_heldAt (f : Mgr → Mgr) (c : Nat) : (s.mgrMod f).heldAt c = s.heldAt c := rfl
@[simp] theorem mgrMod_tile (f : Mgr → Mgr) (q : Nat) : (s.mgrMod f).tile q = s.tile q := rfl

/-! ## `ilMod` -/

@[simp] theorem ilMod_pending (f : Il → Il) : (s.ilMod f).pending = s.pending := rfl
@[simp] theorem ilMod_freeCtr (f : Il → Il) : (s.ilMod f).freeCtr = s.freeCtr := rfl
@[simp] theorem ilMod_rfrac (f : Il → Il) : (s.ilMod f).rfrac = s.rfrac := rfl
@[simp] theorem ilMod_csr (f : Il → Il) : (s.ilMod f).csr = s.csr := rfl
@[simp] theorem ilMod_dict (f : Il → Il) : (s.ilMod f).dict = s.dict := rfl
@[simp] theorem ilMod_gens (f : Il → Il) : (s.ilMod f).gens = s.gens := rfl
@[simp] theorem ilMod_mem (f : Il → Il) : (s.ilMod f).mem = s.mem := rfl
@[simp] theorem ilMod_flips (f : Il → Il) : (s.ilMod f).flips = s.flips := rfl
@[simp] theorem ilMod_ceFull (f : Il → Il) : (s.ilMod f).ceFull = s.ceFull := rfl
@[simp] theorem ilMod_umeta (f : Il → Il) : (s.ilMod f).umeta = s.umeta := rfl
@[simp] theorem ilMod_dom (f : Il → Il) : (s.ilMod f).dom = s.dom := rfl
@[simp] theorem ilMod_msgs (f : Il → Il) : (s.ilMod f).msgs = s.msgs := rfl
@[simp] theorem ilMod_tiles (f : Il → Il) : (s.ilMod f).tiles = s.tiles := rfl
@[simp] theorem ilMod_prog (f : Il → Il) : (s.ilMod f).prog = s.prog := rfl
@[simp] theorem ilMod_we (f : Il → Il) : (s.ilMod f).we = s.we := rfl
@[simp] theorem ilMod_md (f : Il → Il) : (s.ilMod f).md = s.md := rfl
@[simp] theorem ilMod_dw (f : Il → Il) : (s.ilMod f).dw = s.dw := rfl
@[simp] theorem ilMod_regions (f : Il → Il) : (s.ilMod f).regions = s.regions := rfl
@[simp] theorem ilMod_rings (f : Il → Il) : (s.ilMod f).rings = s.rings := rfl
@[simp] theorem ilMod_rrNext (f : Il → Il) : (s.ilMod f).rrNext = s.rrNext := rfl
@[simp] theorem ilMod_job (f : Il → Il) : (s.ilMod f).job = s.job := rfl
@[simp] theorem ilMod_windows (f : Il → Il) : (s.ilMod f).windows = s.windows := rfl
@[simp] theorem ilMod_epoch (f : Il → Il) : (s.ilMod f).epoch = s.epoch := rfl
@[simp] theorem ilMod_mirror (f : Il → Il) : (s.ilMod f).mirror = s.mirror := rfl
@[simp] theorem ilMod_barInbox (f : Il → Il) : (s.ilMod f).barInbox = s.barInbox := rfl
@[simp] theorem ilMod_ports (f : Il → Il) : (s.ilMod f).ports = s.ports := rfl
@[simp] theorem ilMod_router (f : Il → Il) : (s.ilMod f).router = s.router := rfl
@[simp] theorem ilMod_clock (f : Il → Il) : (s.ilMod f).clock = s.clock := rfl
@[simp] theorem ilMod_me (f : Il → Il) : (s.ilMod f).me = s.me := rfl
@[simp] theorem ilMod_rc (f : Il → Il) : (s.ilMod f).rc = s.rc := rfl
@[simp] theorem ilMod_replies (f : Il → Il) : (s.ilMod f).replies = s.replies := rfl
@[simp] theorem ilMod_gov (f : Il → Il) : (s.ilMod f).gov = s.gov := rfl
@[simp] theorem ilMod_therm (f : Il → Il) : (s.ilMod f).therm = s.therm := rfl
@[simp] theorem ilMod_notices (f : Il → Il) : (s.ilMod f).notices = s.notices := rfl
@[simp] theorem ilMod_noticeSeq (f : Il → Il) : (s.ilMod f).noticeSeq = s.noticeSeq := rfl
@[simp] theorem ilMod_mgr (f : Il → Il) : (s.ilMod f).mgr = s.mgr := rfl
@[simp] theorem ilMod_evid (f : Il → Il) : (s.ilMod f).evid = s.evid := rfl
@[simp] theorem ilMod_boot (f : Il → Il) : (s.ilMod f).boot = s.boot := rfl
@[simp] theorem ilMod_sb (f : Il → Il) : (s.ilMod f).sb = s.sb := rfl
@[simp] theorem ilMod_blob (f : Il → Il) : (s.ilMod f).blob = s.blob := rfl
@[simp] theorem ilMod_i3c (f : Il → Il) : (s.ilMod f).i3c = s.i3c := rfl
@[simp] theorem ilMod_fw (f : Il → Il) : (s.ilMod f).fw = s.fw := rfl
@[simp] theorem ilMod_rdata (f : Il → Il) : (s.ilMod f).rdata = s.rdata := rfl
@[simp] theorem ilMod_csrGet (f : Il → Il) (o : Nat) : (s.ilMod f).csrGet o = s.csrGet o := rfl
@[simp] theorem ilMod_fget (f : Il → Il) (g : Fld) : (s.ilMod f).fget g = s.fget g := rfl
@[simp] theorem ilMod_flag (f : Il → Il) (g : Fld) : (s.ilMod f).flag g = s.flag g := rfl
@[simp] theorem ilMod_od (f : Il → Il) (j : Nat) : (s.ilMod f).od j = s.od j := rfl
@[simp] theorem ilMod_cell (f : Il → Il) (c : Nat) : (s.ilMod f).cell c = s.cell c := rfl
@[simp] theorem ilMod_heldAt (f : Il → Il) (c : Nat) : (s.ilMod f).heldAt c = s.heldAt c := rfl
@[simp] theorem ilMod_tile (f : Il → Il) (q : Nat) : (s.ilMod f).tile q = s.tile q := rfl

/-! ## `govMod` -/

@[simp] theorem govMod_pending (f : Gov → Gov) : (s.govMod f).pending = s.pending := rfl
@[simp] theorem govMod_freeCtr (f : Gov → Gov) : (s.govMod f).freeCtr = s.freeCtr := rfl
@[simp] theorem govMod_rfrac (f : Gov → Gov) : (s.govMod f).rfrac = s.rfrac := rfl
@[simp] theorem govMod_csr (f : Gov → Gov) : (s.govMod f).csr = s.csr := rfl
@[simp] theorem govMod_dict (f : Gov → Gov) : (s.govMod f).dict = s.dict := rfl
@[simp] theorem govMod_gens (f : Gov → Gov) : (s.govMod f).gens = s.gens := rfl
@[simp] theorem govMod_mem (f : Gov → Gov) : (s.govMod f).mem = s.mem := rfl
@[simp] theorem govMod_flips (f : Gov → Gov) : (s.govMod f).flips = s.flips := rfl
@[simp] theorem govMod_ceFull (f : Gov → Gov) : (s.govMod f).ceFull = s.ceFull := rfl
@[simp] theorem govMod_umeta (f : Gov → Gov) : (s.govMod f).umeta = s.umeta := rfl
@[simp] theorem govMod_dom (f : Gov → Gov) : (s.govMod f).dom = s.dom := rfl
@[simp] theorem govMod_msgs (f : Gov → Gov) : (s.govMod f).msgs = s.msgs := rfl
@[simp] theorem govMod_tiles (f : Gov → Gov) : (s.govMod f).tiles = s.tiles := rfl
@[simp] theorem govMod_prog (f : Gov → Gov) : (s.govMod f).prog = s.prog := rfl
@[simp] theorem govMod_we (f : Gov → Gov) : (s.govMod f).we = s.we := rfl
@[simp] theorem govMod_md (f : Gov → Gov) : (s.govMod f).md = s.md := rfl
@[simp] theorem govMod_dw (f : Gov → Gov) : (s.govMod f).dw = s.dw := rfl
@[simp] theorem govMod_regions (f : Gov → Gov) : (s.govMod f).regions = s.regions := rfl
@[simp] theorem govMod_rings (f : Gov → Gov) : (s.govMod f).rings = s.rings := rfl
@[simp] theorem govMod_rrNext (f : Gov → Gov) : (s.govMod f).rrNext = s.rrNext := rfl
@[simp] theorem govMod_job (f : Gov → Gov) : (s.govMod f).job = s.job := rfl
@[simp] theorem govMod_windows (f : Gov → Gov) : (s.govMod f).windows = s.windows := rfl
@[simp] theorem govMod_epoch (f : Gov → Gov) : (s.govMod f).epoch = s.epoch := rfl
@[simp] theorem govMod_mirror (f : Gov → Gov) : (s.govMod f).mirror = s.mirror := rfl
@[simp] theorem govMod_barInbox (f : Gov → Gov) : (s.govMod f).barInbox = s.barInbox := rfl
@[simp] theorem govMod_ports (f : Gov → Gov) : (s.govMod f).ports = s.ports := rfl
@[simp] theorem govMod_router (f : Gov → Gov) : (s.govMod f).router = s.router := rfl
@[simp] theorem govMod_clock (f : Gov → Gov) : (s.govMod f).clock = s.clock := rfl
@[simp] theorem govMod_me (f : Gov → Gov) : (s.govMod f).me = s.me := rfl
@[simp] theorem govMod_rc (f : Gov → Gov) : (s.govMod f).rc = s.rc := rfl
@[simp] theorem govMod_replies (f : Gov → Gov) : (s.govMod f).replies = s.replies := rfl
@[simp] theorem govMod_therm (f : Gov → Gov) : (s.govMod f).therm = s.therm := rfl
@[simp] theorem govMod_notices (f : Gov → Gov) : (s.govMod f).notices = s.notices := rfl
@[simp] theorem govMod_noticeSeq (f : Gov → Gov) : (s.govMod f).noticeSeq = s.noticeSeq := rfl
@[simp] theorem govMod_il (f : Gov → Gov) : (s.govMod f).il = s.il := rfl
@[simp] theorem govMod_mgr (f : Gov → Gov) : (s.govMod f).mgr = s.mgr := rfl
@[simp] theorem govMod_evid (f : Gov → Gov) : (s.govMod f).evid = s.evid := rfl
@[simp] theorem govMod_boot (f : Gov → Gov) : (s.govMod f).boot = s.boot := rfl
@[simp] theorem govMod_sb (f : Gov → Gov) : (s.govMod f).sb = s.sb := rfl
@[simp] theorem govMod_blob (f : Gov → Gov) : (s.govMod f).blob = s.blob := rfl
@[simp] theorem govMod_i3c (f : Gov → Gov) : (s.govMod f).i3c = s.i3c := rfl
@[simp] theorem govMod_fw (f : Gov → Gov) : (s.govMod f).fw = s.fw := rfl
@[simp] theorem govMod_rdata (f : Gov → Gov) : (s.govMod f).rdata = s.rdata := rfl
@[simp] theorem govMod_csrGet (f : Gov → Gov) (o : Nat) : (s.govMod f).csrGet o = s.csrGet o := rfl
@[simp] theorem govMod_fget (f : Gov → Gov) (g : Fld) : (s.govMod f).fget g = s.fget g := rfl
@[simp] theorem govMod_flag (f : Gov → Gov) (g : Fld) : (s.govMod f).flag g = s.flag g := rfl
@[simp] theorem govMod_od (f : Gov → Gov) (j : Nat) : (s.govMod f).od j = s.od j := rfl
@[simp] theorem govMod_cell (f : Gov → Gov) (c : Nat) : (s.govMod f).cell c = s.cell c := rfl
@[simp] theorem govMod_heldAt (f : Gov → Gov) (c : Nat) : (s.govMod f).heldAt c = s.heldAt c := rfl
@[simp] theorem govMod_tile (f : Gov → Gov) (q : Nat) : (s.govMod f).tile q = s.tile q := rfl

/-! ## `thMod` -/

@[simp] theorem thMod_pending (f : Therm → Therm) : (s.thMod f).pending = s.pending := rfl
@[simp] theorem thMod_freeCtr (f : Therm → Therm) : (s.thMod f).freeCtr = s.freeCtr := rfl
@[simp] theorem thMod_rfrac (f : Therm → Therm) : (s.thMod f).rfrac = s.rfrac := rfl
@[simp] theorem thMod_csr (f : Therm → Therm) : (s.thMod f).csr = s.csr := rfl
@[simp] theorem thMod_dict (f : Therm → Therm) : (s.thMod f).dict = s.dict := rfl
@[simp] theorem thMod_gens (f : Therm → Therm) : (s.thMod f).gens = s.gens := rfl
@[simp] theorem thMod_mem (f : Therm → Therm) : (s.thMod f).mem = s.mem := rfl
@[simp] theorem thMod_flips (f : Therm → Therm) : (s.thMod f).flips = s.flips := rfl
@[simp] theorem thMod_ceFull (f : Therm → Therm) : (s.thMod f).ceFull = s.ceFull := rfl
@[simp] theorem thMod_umeta (f : Therm → Therm) : (s.thMod f).umeta = s.umeta := rfl
@[simp] theorem thMod_dom (f : Therm → Therm) : (s.thMod f).dom = s.dom := rfl
@[simp] theorem thMod_msgs (f : Therm → Therm) : (s.thMod f).msgs = s.msgs := rfl
@[simp] theorem thMod_tiles (f : Therm → Therm) : (s.thMod f).tiles = s.tiles := rfl
@[simp] theorem thMod_prog (f : Therm → Therm) : (s.thMod f).prog = s.prog := rfl
@[simp] theorem thMod_we (f : Therm → Therm) : (s.thMod f).we = s.we := rfl
@[simp] theorem thMod_md (f : Therm → Therm) : (s.thMod f).md = s.md := rfl
@[simp] theorem thMod_dw (f : Therm → Therm) : (s.thMod f).dw = s.dw := rfl
@[simp] theorem thMod_regions (f : Therm → Therm) : (s.thMod f).regions = s.regions := rfl
@[simp] theorem thMod_rings (f : Therm → Therm) : (s.thMod f).rings = s.rings := rfl
@[simp] theorem thMod_rrNext (f : Therm → Therm) : (s.thMod f).rrNext = s.rrNext := rfl
@[simp] theorem thMod_job (f : Therm → Therm) : (s.thMod f).job = s.job := rfl
@[simp] theorem thMod_windows (f : Therm → Therm) : (s.thMod f).windows = s.windows := rfl
@[simp] theorem thMod_epoch (f : Therm → Therm) : (s.thMod f).epoch = s.epoch := rfl
@[simp] theorem thMod_mirror (f : Therm → Therm) : (s.thMod f).mirror = s.mirror := rfl
@[simp] theorem thMod_barInbox (f : Therm → Therm) : (s.thMod f).barInbox = s.barInbox := rfl
@[simp] theorem thMod_ports (f : Therm → Therm) : (s.thMod f).ports = s.ports := rfl
@[simp] theorem thMod_router (f : Therm → Therm) : (s.thMod f).router = s.router := rfl
@[simp] theorem thMod_clock (f : Therm → Therm) : (s.thMod f).clock = s.clock := rfl
@[simp] theorem thMod_me (f : Therm → Therm) : (s.thMod f).me = s.me := rfl
@[simp] theorem thMod_rc (f : Therm → Therm) : (s.thMod f).rc = s.rc := rfl
@[simp] theorem thMod_replies (f : Therm → Therm) : (s.thMod f).replies = s.replies := rfl
@[simp] theorem thMod_gov (f : Therm → Therm) : (s.thMod f).gov = s.gov := rfl
@[simp] theorem thMod_notices (f : Therm → Therm) : (s.thMod f).notices = s.notices := rfl
@[simp] theorem thMod_noticeSeq (f : Therm → Therm) : (s.thMod f).noticeSeq = s.noticeSeq := rfl
@[simp] theorem thMod_il (f : Therm → Therm) : (s.thMod f).il = s.il := rfl
@[simp] theorem thMod_mgr (f : Therm → Therm) : (s.thMod f).mgr = s.mgr := rfl
@[simp] theorem thMod_evid (f : Therm → Therm) : (s.thMod f).evid = s.evid := rfl
@[simp] theorem thMod_boot (f : Therm → Therm) : (s.thMod f).boot = s.boot := rfl
@[simp] theorem thMod_sb (f : Therm → Therm) : (s.thMod f).sb = s.sb := rfl
@[simp] theorem thMod_blob (f : Therm → Therm) : (s.thMod f).blob = s.blob := rfl
@[simp] theorem thMod_i3c (f : Therm → Therm) : (s.thMod f).i3c = s.i3c := rfl
@[simp] theorem thMod_fw (f : Therm → Therm) : (s.thMod f).fw = s.fw := rfl
@[simp] theorem thMod_rdata (f : Therm → Therm) : (s.thMod f).rdata = s.rdata := rfl
@[simp] theorem thMod_csrGet (f : Therm → Therm) (o : Nat) : (s.thMod f).csrGet o = s.csrGet o := rfl
@[simp] theorem thMod_fget (f : Therm → Therm) (g : Fld) : (s.thMod f).fget g = s.fget g := rfl
@[simp] theorem thMod_flag (f : Therm → Therm) (g : Fld) : (s.thMod f).flag g = s.flag g := rfl
@[simp] theorem thMod_od (f : Therm → Therm) (j : Nat) : (s.thMod f).od j = s.od j := rfl
@[simp] theorem thMod_cell (f : Therm → Therm) (c : Nat) : (s.thMod f).cell c = s.cell c := rfl
@[simp] theorem thMod_heldAt (f : Therm → Therm) (c : Nat) : (s.thMod f).heldAt c = s.heldAt c := rfl
@[simp] theorem thMod_tile (f : Therm → Therm) (q : Nat) : (s.thMod f).tile q = s.tile q := rfl

/-! ## `bootMod` -/

@[simp] theorem bootMod_pending (f : Boot → Boot) : (s.bootMod f).pending = s.pending := rfl
@[simp] theorem bootMod_freeCtr (f : Boot → Boot) : (s.bootMod f).freeCtr = s.freeCtr := rfl
@[simp] theorem bootMod_rfrac (f : Boot → Boot) : (s.bootMod f).rfrac = s.rfrac := rfl
@[simp] theorem bootMod_csr (f : Boot → Boot) : (s.bootMod f).csr = s.csr := rfl
@[simp] theorem bootMod_dict (f : Boot → Boot) : (s.bootMod f).dict = s.dict := rfl
@[simp] theorem bootMod_gens (f : Boot → Boot) : (s.bootMod f).gens = s.gens := rfl
@[simp] theorem bootMod_mem (f : Boot → Boot) : (s.bootMod f).mem = s.mem := rfl
@[simp] theorem bootMod_flips (f : Boot → Boot) : (s.bootMod f).flips = s.flips := rfl
@[simp] theorem bootMod_ceFull (f : Boot → Boot) : (s.bootMod f).ceFull = s.ceFull := rfl
@[simp] theorem bootMod_umeta (f : Boot → Boot) : (s.bootMod f).umeta = s.umeta := rfl
@[simp] theorem bootMod_dom (f : Boot → Boot) : (s.bootMod f).dom = s.dom := rfl
@[simp] theorem bootMod_msgs (f : Boot → Boot) : (s.bootMod f).msgs = s.msgs := rfl
@[simp] theorem bootMod_tiles (f : Boot → Boot) : (s.bootMod f).tiles = s.tiles := rfl
@[simp] theorem bootMod_prog (f : Boot → Boot) : (s.bootMod f).prog = s.prog := rfl
@[simp] theorem bootMod_we (f : Boot → Boot) : (s.bootMod f).we = s.we := rfl
@[simp] theorem bootMod_md (f : Boot → Boot) : (s.bootMod f).md = s.md := rfl
@[simp] theorem bootMod_dw (f : Boot → Boot) : (s.bootMod f).dw = s.dw := rfl
@[simp] theorem bootMod_regions (f : Boot → Boot) : (s.bootMod f).regions = s.regions := rfl
@[simp] theorem bootMod_rings (f : Boot → Boot) : (s.bootMod f).rings = s.rings := rfl
@[simp] theorem bootMod_rrNext (f : Boot → Boot) : (s.bootMod f).rrNext = s.rrNext := rfl
@[simp] theorem bootMod_job (f : Boot → Boot) : (s.bootMod f).job = s.job := rfl
@[simp] theorem bootMod_windows (f : Boot → Boot) : (s.bootMod f).windows = s.windows := rfl
@[simp] theorem bootMod_epoch (f : Boot → Boot) : (s.bootMod f).epoch = s.epoch := rfl
@[simp] theorem bootMod_mirror (f : Boot → Boot) : (s.bootMod f).mirror = s.mirror := rfl
@[simp] theorem bootMod_barInbox (f : Boot → Boot) : (s.bootMod f).barInbox = s.barInbox := rfl
@[simp] theorem bootMod_ports (f : Boot → Boot) : (s.bootMod f).ports = s.ports := rfl
@[simp] theorem bootMod_router (f : Boot → Boot) : (s.bootMod f).router = s.router := rfl
@[simp] theorem bootMod_clock (f : Boot → Boot) : (s.bootMod f).clock = s.clock := rfl
@[simp] theorem bootMod_me (f : Boot → Boot) : (s.bootMod f).me = s.me := rfl
@[simp] theorem bootMod_rc (f : Boot → Boot) : (s.bootMod f).rc = s.rc := rfl
@[simp] theorem bootMod_replies (f : Boot → Boot) : (s.bootMod f).replies = s.replies := rfl
@[simp] theorem bootMod_gov (f : Boot → Boot) : (s.bootMod f).gov = s.gov := rfl
@[simp] theorem bootMod_therm (f : Boot → Boot) : (s.bootMod f).therm = s.therm := rfl
@[simp] theorem bootMod_notices (f : Boot → Boot) : (s.bootMod f).notices = s.notices := rfl
@[simp] theorem bootMod_noticeSeq (f : Boot → Boot) : (s.bootMod f).noticeSeq = s.noticeSeq := rfl
@[simp] theorem bootMod_il (f : Boot → Boot) : (s.bootMod f).il = s.il := rfl
@[simp] theorem bootMod_mgr (f : Boot → Boot) : (s.bootMod f).mgr = s.mgr := rfl
@[simp] theorem bootMod_evid (f : Boot → Boot) : (s.bootMod f).evid = s.evid := rfl
@[simp] theorem bootMod_sb (f : Boot → Boot) : (s.bootMod f).sb = s.sb := rfl
@[simp] theorem bootMod_blob (f : Boot → Boot) : (s.bootMod f).blob = s.blob := rfl
@[simp] theorem bootMod_i3c (f : Boot → Boot) : (s.bootMod f).i3c = s.i3c := rfl
@[simp] theorem bootMod_fw (f : Boot → Boot) : (s.bootMod f).fw = s.fw := rfl
@[simp] theorem bootMod_rdata (f : Boot → Boot) : (s.bootMod f).rdata = s.rdata := rfl
@[simp] theorem bootMod_csrGet (f : Boot → Boot) (o : Nat) : (s.bootMod f).csrGet o = s.csrGet o := rfl
@[simp] theorem bootMod_fget (f : Boot → Boot) (g : Fld) : (s.bootMod f).fget g = s.fget g := rfl
@[simp] theorem bootMod_flag (f : Boot → Boot) (g : Fld) : (s.bootMod f).flag g = s.flag g := rfl
@[simp] theorem bootMod_od (f : Boot → Boot) (j : Nat) : (s.bootMod f).od j = s.od j := rfl
@[simp] theorem bootMod_cell (f : Boot → Boot) (c : Nat) : (s.bootMod f).cell c = s.cell c := rfl
@[simp] theorem bootMod_heldAt (f : Boot → Boot) (c : Nat) : (s.bootMod f).heldAt c = s.heldAt c := rfl
@[simp] theorem bootMod_tile (f : Boot → Boot) (q : Nat) : (s.bootMod f).tile q = s.tile q := rfl

/-! ## `sbMod` -/

@[simp] theorem sbMod_pending (f : Sb → Sb) : (s.sbMod f).pending = s.pending := rfl
@[simp] theorem sbMod_freeCtr (f : Sb → Sb) : (s.sbMod f).freeCtr = s.freeCtr := rfl
@[simp] theorem sbMod_rfrac (f : Sb → Sb) : (s.sbMod f).rfrac = s.rfrac := rfl
@[simp] theorem sbMod_csr (f : Sb → Sb) : (s.sbMod f).csr = s.csr := rfl
@[simp] theorem sbMod_dict (f : Sb → Sb) : (s.sbMod f).dict = s.dict := rfl
@[simp] theorem sbMod_gens (f : Sb → Sb) : (s.sbMod f).gens = s.gens := rfl
@[simp] theorem sbMod_mem (f : Sb → Sb) : (s.sbMod f).mem = s.mem := rfl
@[simp] theorem sbMod_flips (f : Sb → Sb) : (s.sbMod f).flips = s.flips := rfl
@[simp] theorem sbMod_ceFull (f : Sb → Sb) : (s.sbMod f).ceFull = s.ceFull := rfl
@[simp] theorem sbMod_umeta (f : Sb → Sb) : (s.sbMod f).umeta = s.umeta := rfl
@[simp] theorem sbMod_dom (f : Sb → Sb) : (s.sbMod f).dom = s.dom := rfl
@[simp] theorem sbMod_msgs (f : Sb → Sb) : (s.sbMod f).msgs = s.msgs := rfl
@[simp] theorem sbMod_tiles (f : Sb → Sb) : (s.sbMod f).tiles = s.tiles := rfl
@[simp] theorem sbMod_prog (f : Sb → Sb) : (s.sbMod f).prog = s.prog := rfl
@[simp] theorem sbMod_we (f : Sb → Sb) : (s.sbMod f).we = s.we := rfl
@[simp] theorem sbMod_md (f : Sb → Sb) : (s.sbMod f).md = s.md := rfl
@[simp] theorem sbMod_dw (f : Sb → Sb) : (s.sbMod f).dw = s.dw := rfl
@[simp] theorem sbMod_regions (f : Sb → Sb) : (s.sbMod f).regions = s.regions := rfl
@[simp] theorem sbMod_rings (f : Sb → Sb) : (s.sbMod f).rings = s.rings := rfl
@[simp] theorem sbMod_rrNext (f : Sb → Sb) : (s.sbMod f).rrNext = s.rrNext := rfl
@[simp] theorem sbMod_job (f : Sb → Sb) : (s.sbMod f).job = s.job := rfl
@[simp] theorem sbMod_windows (f : Sb → Sb) : (s.sbMod f).windows = s.windows := rfl
@[simp] theorem sbMod_epoch (f : Sb → Sb) : (s.sbMod f).epoch = s.epoch := rfl
@[simp] theorem sbMod_mirror (f : Sb → Sb) : (s.sbMod f).mirror = s.mirror := rfl
@[simp] theorem sbMod_barInbox (f : Sb → Sb) : (s.sbMod f).barInbox = s.barInbox := rfl
@[simp] theorem sbMod_ports (f : Sb → Sb) : (s.sbMod f).ports = s.ports := rfl
@[simp] theorem sbMod_router (f : Sb → Sb) : (s.sbMod f).router = s.router := rfl
@[simp] theorem sbMod_clock (f : Sb → Sb) : (s.sbMod f).clock = s.clock := rfl
@[simp] theorem sbMod_me (f : Sb → Sb) : (s.sbMod f).me = s.me := rfl
@[simp] theorem sbMod_rc (f : Sb → Sb) : (s.sbMod f).rc = s.rc := rfl
@[simp] theorem sbMod_replies (f : Sb → Sb) : (s.sbMod f).replies = s.replies := rfl
@[simp] theorem sbMod_gov (f : Sb → Sb) : (s.sbMod f).gov = s.gov := rfl
@[simp] theorem sbMod_therm (f : Sb → Sb) : (s.sbMod f).therm = s.therm := rfl
@[simp] theorem sbMod_notices (f : Sb → Sb) : (s.sbMod f).notices = s.notices := rfl
@[simp] theorem sbMod_noticeSeq (f : Sb → Sb) : (s.sbMod f).noticeSeq = s.noticeSeq := rfl
@[simp] theorem sbMod_il (f : Sb → Sb) : (s.sbMod f).il = s.il := rfl
@[simp] theorem sbMod_mgr (f : Sb → Sb) : (s.sbMod f).mgr = s.mgr := rfl
@[simp] theorem sbMod_evid (f : Sb → Sb) : (s.sbMod f).evid = s.evid := rfl
@[simp] theorem sbMod_boot (f : Sb → Sb) : (s.sbMod f).boot = s.boot := rfl
@[simp] theorem sbMod_blob (f : Sb → Sb) : (s.sbMod f).blob = s.blob := rfl
@[simp] theorem sbMod_i3c (f : Sb → Sb) : (s.sbMod f).i3c = s.i3c := rfl
@[simp] theorem sbMod_fw (f : Sb → Sb) : (s.sbMod f).fw = s.fw := rfl
@[simp] theorem sbMod_rdata (f : Sb → Sb) : (s.sbMod f).rdata = s.rdata := rfl
@[simp] theorem sbMod_csrGet (f : Sb → Sb) (o : Nat) : (s.sbMod f).csrGet o = s.csrGet o := rfl
@[simp] theorem sbMod_fget (f : Sb → Sb) (g : Fld) : (s.sbMod f).fget g = s.fget g := rfl
@[simp] theorem sbMod_flag (f : Sb → Sb) (g : Fld) : (s.sbMod f).flag g = s.flag g := rfl
@[simp] theorem sbMod_od (f : Sb → Sb) (j : Nat) : (s.sbMod f).od j = s.od j := rfl
@[simp] theorem sbMod_cell (f : Sb → Sb) (c : Nat) : (s.sbMod f).cell c = s.cell c := rfl
@[simp] theorem sbMod_heldAt (f : Sb → Sb) (c : Nat) : (s.sbMod f).heldAt c = s.heldAt c := rfl
@[simp] theorem sbMod_tile (f : Sb → Sb) (q : Nat) : (s.sbMod f).tile q = s.tile q := rfl

/-! ## `domMod` -/

@[simp] theorem domMod_pending (f : Dom → Dom) : (s.domMod f).pending = s.pending := rfl
@[simp] theorem domMod_freeCtr (f : Dom → Dom) : (s.domMod f).freeCtr = s.freeCtr := rfl
@[simp] theorem domMod_rfrac (f : Dom → Dom) : (s.domMod f).rfrac = s.rfrac := rfl
@[simp] theorem domMod_csr (f : Dom → Dom) : (s.domMod f).csr = s.csr := rfl
@[simp] theorem domMod_dict (f : Dom → Dom) : (s.domMod f).dict = s.dict := rfl
@[simp] theorem domMod_gens (f : Dom → Dom) : (s.domMod f).gens = s.gens := rfl
@[simp] theorem domMod_mem (f : Dom → Dom) : (s.domMod f).mem = s.mem := rfl
@[simp] theorem domMod_flips (f : Dom → Dom) : (s.domMod f).flips = s.flips := rfl
@[simp] theorem domMod_ceFull (f : Dom → Dom) : (s.domMod f).ceFull = s.ceFull := rfl
@[simp] theorem domMod_umeta (f : Dom → Dom) : (s.domMod f).umeta = s.umeta := rfl
@[simp] theorem domMod_msgs (f : Dom → Dom) : (s.domMod f).msgs = s.msgs := rfl
@[simp] theorem domMod_tiles (f : Dom → Dom) : (s.domMod f).tiles = s.tiles := rfl
@[simp] theorem domMod_prog (f : Dom → Dom) : (s.domMod f).prog = s.prog := rfl
@[simp] theorem domMod_we (f : Dom → Dom) : (s.domMod f).we = s.we := rfl
@[simp] theorem domMod_md (f : Dom → Dom) : (s.domMod f).md = s.md := rfl
@[simp] theorem domMod_dw (f : Dom → Dom) : (s.domMod f).dw = s.dw := rfl
@[simp] theorem domMod_regions (f : Dom → Dom) : (s.domMod f).regions = s.regions := rfl
@[simp] theorem domMod_rings (f : Dom → Dom) : (s.domMod f).rings = s.rings := rfl
@[simp] theorem domMod_rrNext (f : Dom → Dom) : (s.domMod f).rrNext = s.rrNext := rfl
@[simp] theorem domMod_job (f : Dom → Dom) : (s.domMod f).job = s.job := rfl
@[simp] theorem domMod_windows (f : Dom → Dom) : (s.domMod f).windows = s.windows := rfl
@[simp] theorem domMod_epoch (f : Dom → Dom) : (s.domMod f).epoch = s.epoch := rfl
@[simp] theorem domMod_mirror (f : Dom → Dom) : (s.domMod f).mirror = s.mirror := rfl
@[simp] theorem domMod_barInbox (f : Dom → Dom) : (s.domMod f).barInbox = s.barInbox := rfl
@[simp] theorem domMod_ports (f : Dom → Dom) : (s.domMod f).ports = s.ports := rfl
@[simp] theorem domMod_router (f : Dom → Dom) : (s.domMod f).router = s.router := rfl
@[simp] theorem domMod_clock (f : Dom → Dom) : (s.domMod f).clock = s.clock := rfl
@[simp] theorem domMod_me (f : Dom → Dom) : (s.domMod f).me = s.me := rfl
@[simp] theorem domMod_rc (f : Dom → Dom) : (s.domMod f).rc = s.rc := rfl
@[simp] theorem domMod_replies (f : Dom → Dom) : (s.domMod f).replies = s.replies := rfl
@[simp] theorem domMod_gov (f : Dom → Dom) : (s.domMod f).gov = s.gov := rfl
@[simp] theorem domMod_therm (f : Dom → Dom) : (s.domMod f).therm = s.therm := rfl
@[simp] theorem domMod_notices (f : Dom → Dom) : (s.domMod f).notices = s.notices := rfl
@[simp] theorem domMod_noticeSeq (f : Dom → Dom) : (s.domMod f).noticeSeq = s.noticeSeq := rfl
@[simp] theorem domMod_il (f : Dom → Dom) : (s.domMod f).il = s.il := rfl
@[simp] theorem domMod_mgr (f : Dom → Dom) : (s.domMod f).mgr = s.mgr := rfl
@[simp] theorem domMod_evid (f : Dom → Dom) : (s.domMod f).evid = s.evid := rfl
@[simp] theorem domMod_boot (f : Dom → Dom) : (s.domMod f).boot = s.boot := rfl
@[simp] theorem domMod_sb (f : Dom → Dom) : (s.domMod f).sb = s.sb := rfl
@[simp] theorem domMod_blob (f : Dom → Dom) : (s.domMod f).blob = s.blob := rfl
@[simp] theorem domMod_i3c (f : Dom → Dom) : (s.domMod f).i3c = s.i3c := rfl
@[simp] theorem domMod_fw (f : Dom → Dom) : (s.domMod f).fw = s.fw := rfl
@[simp] theorem domMod_rdata (f : Dom → Dom) : (s.domMod f).rdata = s.rdata := rfl
@[simp] theorem domMod_csrGet (f : Dom → Dom) (o : Nat) : (s.domMod f).csrGet o = s.csrGet o := rfl
@[simp] theorem domMod_fget (f : Dom → Dom) (g : Fld) : (s.domMod f).fget g = s.fget g := rfl
@[simp] theorem domMod_flag (f : Dom → Dom) (g : Fld) : (s.domMod f).flag g = s.flag g := rfl
@[simp] theorem domMod_od (f : Dom → Dom) (j : Nat) : (s.domMod f).od j = s.od j := rfl
@[simp] theorem domMod_cell (f : Dom → Dom) (c : Nat) : (s.domMod f).cell c = s.cell c := rfl
@[simp] theorem domMod_heldAt (f : Dom → Dom) (c : Nat) : (s.domMod f).heldAt c = s.heldAt c := rfl
@[simp] theorem domMod_tile (f : Dom → Dom) (q : Nat) : (s.domMod f).tile q = s.tile q := rfl

/-! ## `fieldSend` -/

@[simp] theorem fieldSend_pending (x : FieldOut) : (s.fieldSend x).pending = s.pending := by
  unfold State.fieldSend; split <;> rfl
@[simp] theorem fieldSend_freeCtr (x : FieldOut) : (s.fieldSend x).freeCtr = s.freeCtr := by
  unfold State.fieldSend; split <;> rfl
@[simp] theorem fieldSend_rfrac (x : FieldOut) : (s.fieldSend x).rfrac = s.rfrac := by
  unfold State.fieldSend; split <;> rfl
@[simp] theorem fieldSend_csr (x : FieldOut) : (s.fieldSend x).csr = s.csr := by
  unfold State.fieldSend; split <;> rfl
@[simp] theorem fieldSend_dict (x : FieldOut) : (s.fieldSend x).dict = s.dict := by
  unfold State.fieldSend; split <;> rfl
@[simp] theorem fieldSend_gens (x : FieldOut) : (s.fieldSend x).gens = s.gens := by
  unfold State.fieldSend; split <;> rfl
@[simp] theorem fieldSend_mem (x : FieldOut) : (s.fieldSend x).mem = s.mem := by
  unfold State.fieldSend; split <;> rfl
@[simp] theorem fieldSend_flips (x : FieldOut) : (s.fieldSend x).flips = s.flips := by
  unfold State.fieldSend; split <;> rfl
@[simp] theorem fieldSend_ceFull (x : FieldOut) : (s.fieldSend x).ceFull = s.ceFull := by
  unfold State.fieldSend; split <;> rfl
@[simp] theorem fieldSend_umeta (x : FieldOut) : (s.fieldSend x).umeta = s.umeta := by
  unfold State.fieldSend; split <;> rfl
@[simp] theorem fieldSend_dom (x : FieldOut) : (s.fieldSend x).dom = s.dom := by
  unfold State.fieldSend; split <;> rfl
@[simp] theorem fieldSend_msgs (x : FieldOut) : (s.fieldSend x).msgs = s.msgs := by
  unfold State.fieldSend; split <;> rfl
@[simp] theorem fieldSend_tiles (x : FieldOut) : (s.fieldSend x).tiles = s.tiles := by
  unfold State.fieldSend; split <;> rfl
@[simp] theorem fieldSend_prog (x : FieldOut) : (s.fieldSend x).prog = s.prog := by
  unfold State.fieldSend; split <;> rfl
@[simp] theorem fieldSend_we (x : FieldOut) : (s.fieldSend x).we = s.we := by
  unfold State.fieldSend; split <;> rfl
@[simp] theorem fieldSend_md (x : FieldOut) : (s.fieldSend x).md = s.md := by
  unfold State.fieldSend; split <;> rfl
@[simp] theorem fieldSend_dw (x : FieldOut) : (s.fieldSend x).dw = s.dw := by
  unfold State.fieldSend; split <;> rfl
@[simp] theorem fieldSend_regions (x : FieldOut) : (s.fieldSend x).regions = s.regions := by
  unfold State.fieldSend; split <;> rfl
@[simp] theorem fieldSend_rings (x : FieldOut) : (s.fieldSend x).rings = s.rings := by
  unfold State.fieldSend; split <;> rfl
@[simp] theorem fieldSend_rrNext (x : FieldOut) : (s.fieldSend x).rrNext = s.rrNext := by
  unfold State.fieldSend; split <;> rfl
@[simp] theorem fieldSend_job (x : FieldOut) : (s.fieldSend x).job = s.job := by
  unfold State.fieldSend; split <;> rfl
@[simp] theorem fieldSend_windows (x : FieldOut) : (s.fieldSend x).windows = s.windows := by
  unfold State.fieldSend; split <;> rfl
@[simp] theorem fieldSend_epoch (x : FieldOut) : (s.fieldSend x).epoch = s.epoch := by
  unfold State.fieldSend; split <;> rfl
@[simp] theorem fieldSend_mirror (x : FieldOut) : (s.fieldSend x).mirror = s.mirror := by
  unfold State.fieldSend; split <;> rfl
@[simp] theorem fieldSend_barInbox (x : FieldOut) : (s.fieldSend x).barInbox = s.barInbox := by
  unfold State.fieldSend; split <;> rfl
@[simp] theorem fieldSend_ports (x : FieldOut) : (s.fieldSend x).ports = s.ports := by
  unfold State.fieldSend; split <;> rfl
@[simp] theorem fieldSend_router (x : FieldOut) : (s.fieldSend x).router = s.router := by
  unfold State.fieldSend; split <;> rfl
@[simp] theorem fieldSend_clock (x : FieldOut) : (s.fieldSend x).clock = s.clock := by
  unfold State.fieldSend; split <;> rfl
@[simp] theorem fieldSend_me (x : FieldOut) : (s.fieldSend x).me = s.me := by
  unfold State.fieldSend; split <;> rfl
@[simp] theorem fieldSend_rc (x : FieldOut) : (s.fieldSend x).rc = s.rc := by
  unfold State.fieldSend; split <;> rfl
@[simp] theorem fieldSend_replies (x : FieldOut) : (s.fieldSend x).replies = s.replies := by
  unfold State.fieldSend; split <;> rfl
@[simp] theorem fieldSend_gov (x : FieldOut) : (s.fieldSend x).gov = s.gov := by
  unfold State.fieldSend; split <;> rfl
@[simp] theorem fieldSend_therm (x : FieldOut) : (s.fieldSend x).therm = s.therm := by
  unfold State.fieldSend; split <;> rfl
@[simp] theorem fieldSend_notices (x : FieldOut) : (s.fieldSend x).notices = s.notices := by
  unfold State.fieldSend; split <;> rfl
@[simp] theorem fieldSend_noticeSeq (x : FieldOut) : (s.fieldSend x).noticeSeq = s.noticeSeq := by
  unfold State.fieldSend; split <;> rfl
@[simp] theorem fieldSend_il (x : FieldOut) : (s.fieldSend x).il = s.il := by
  unfold State.fieldSend; split <;> rfl
@[simp] theorem fieldSend_mgr (x : FieldOut) : (s.fieldSend x).mgr = s.mgr := by
  unfold State.fieldSend; split <;> rfl
@[simp] theorem fieldSend_evid (x : FieldOut) : (s.fieldSend x).evid = s.evid := by
  unfold State.fieldSend; split <;> rfl
@[simp] theorem fieldSend_boot (x : FieldOut) : (s.fieldSend x).boot = s.boot := by
  unfold State.fieldSend; split <;> rfl
@[simp] theorem fieldSend_blob (x : FieldOut) : (s.fieldSend x).blob = s.blob := by
  unfold State.fieldSend; split <;> rfl
@[simp] theorem fieldSend_i3c (x : FieldOut) : (s.fieldSend x).i3c = s.i3c := by
  unfold State.fieldSend; split <;> rfl
@[simp] theorem fieldSend_fw (x : FieldOut) : (s.fieldSend x).fw = s.fw := by
  unfold State.fieldSend; split <;> rfl
@[simp] theorem fieldSend_rdata (x : FieldOut) : (s.fieldSend x).rdata = s.rdata := by
  unfold State.fieldSend; split <;> rfl
@[simp] theorem fieldSend_csrGet (x : FieldOut) (o : Nat) : (s.fieldSend x).csrGet o = s.csrGet o := by
  unfold State.fieldSend; split <;> rfl
@[simp] theorem fieldSend_fget (x : FieldOut) (g : Fld) : (s.fieldSend x).fget g = s.fget g := by
  unfold State.fieldSend; split <;> rfl
@[simp] theorem fieldSend_flag (x : FieldOut) (g : Fld) : (s.fieldSend x).flag g = s.flag g := by
  unfold State.fieldSend; split <;> rfl
@[simp] theorem fieldSend_od (x : FieldOut) (j : Nat) : (s.fieldSend x).od j = s.od j := by
  unfold State.fieldSend; split <;> rfl
@[simp] theorem fieldSend_cell (x : FieldOut) (c : Nat) : (s.fieldSend x).cell c = s.cell c := by
  unfold State.fieldSend; split <;> rfl
@[simp] theorem fieldSend_heldAt (x : FieldOut) (c : Nat) : (s.fieldSend x).heldAt c = s.heldAt c := by
  unfold State.fieldSend; split <;> rfl
@[simp] theorem fieldSend_tile (x : FieldOut) (q : Nat) : (s.fieldSend x).tile q = s.tile q := by
  unfold State.fieldSend; split <;> rfl

/-! ## `blobPut` -/

@[simp] theorem blobPut_pending (k : Nat) (l : List Byte) : (s.blobPut k l).pending = s.pending := rfl
@[simp] theorem blobPut_freeCtr (k : Nat) (l : List Byte) : (s.blobPut k l).freeCtr = s.freeCtr := rfl
@[simp] theorem blobPut_rfrac (k : Nat) (l : List Byte) : (s.blobPut k l).rfrac = s.rfrac := rfl
@[simp] theorem blobPut_csr (k : Nat) (l : List Byte) : (s.blobPut k l).csr = s.csr := rfl
@[simp] theorem blobPut_dict (k : Nat) (l : List Byte) : (s.blobPut k l).dict = s.dict := rfl
@[simp] theorem blobPut_gens (k : Nat) (l : List Byte) : (s.blobPut k l).gens = s.gens := rfl
@[simp] theorem blobPut_mem (k : Nat) (l : List Byte) : (s.blobPut k l).mem = s.mem := rfl
@[simp] theorem blobPut_flips (k : Nat) (l : List Byte) : (s.blobPut k l).flips = s.flips := rfl
@[simp] theorem blobPut_ceFull (k : Nat) (l : List Byte) : (s.blobPut k l).ceFull = s.ceFull := rfl
@[simp] theorem blobPut_umeta (k : Nat) (l : List Byte) : (s.blobPut k l).umeta = s.umeta := rfl
@[simp] theorem blobPut_dom (k : Nat) (l : List Byte) : (s.blobPut k l).dom = s.dom := rfl
@[simp] theorem blobPut_msgs (k : Nat) (l : List Byte) : (s.blobPut k l).msgs = s.msgs := rfl
@[simp] theorem blobPut_tiles (k : Nat) (l : List Byte) : (s.blobPut k l).tiles = s.tiles := rfl
@[simp] theorem blobPut_prog (k : Nat) (l : List Byte) : (s.blobPut k l).prog = s.prog := rfl
@[simp] theorem blobPut_we (k : Nat) (l : List Byte) : (s.blobPut k l).we = s.we := rfl
@[simp] theorem blobPut_md (k : Nat) (l : List Byte) : (s.blobPut k l).md = s.md := rfl
@[simp] theorem blobPut_dw (k : Nat) (l : List Byte) : (s.blobPut k l).dw = s.dw := rfl
@[simp] theorem blobPut_regions (k : Nat) (l : List Byte) : (s.blobPut k l).regions = s.regions := rfl
@[simp] theorem blobPut_rings (k : Nat) (l : List Byte) : (s.blobPut k l).rings = s.rings := rfl
@[simp] theorem blobPut_rrNext (k : Nat) (l : List Byte) : (s.blobPut k l).rrNext = s.rrNext := rfl
@[simp] theorem blobPut_job (k : Nat) (l : List Byte) : (s.blobPut k l).job = s.job := rfl
@[simp] theorem blobPut_windows (k : Nat) (l : List Byte) : (s.blobPut k l).windows = s.windows := rfl
@[simp] theorem blobPut_epoch (k : Nat) (l : List Byte) : (s.blobPut k l).epoch = s.epoch := rfl
@[simp] theorem blobPut_mirror (k : Nat) (l : List Byte) : (s.blobPut k l).mirror = s.mirror := rfl
@[simp] theorem blobPut_barInbox (k : Nat) (l : List Byte) : (s.blobPut k l).barInbox = s.barInbox := rfl
@[simp] theorem blobPut_ports (k : Nat) (l : List Byte) : (s.blobPut k l).ports = s.ports := rfl
@[simp] theorem blobPut_router (k : Nat) (l : List Byte) : (s.blobPut k l).router = s.router := rfl
@[simp] theorem blobPut_clock (k : Nat) (l : List Byte) : (s.blobPut k l).clock = s.clock := rfl
@[simp] theorem blobPut_me (k : Nat) (l : List Byte) : (s.blobPut k l).me = s.me := rfl
@[simp] theorem blobPut_rc (k : Nat) (l : List Byte) : (s.blobPut k l).rc = s.rc := rfl
@[simp] theorem blobPut_replies (k : Nat) (l : List Byte) : (s.blobPut k l).replies = s.replies := rfl
@[simp] theorem blobPut_gov (k : Nat) (l : List Byte) : (s.blobPut k l).gov = s.gov := rfl
@[simp] theorem blobPut_therm (k : Nat) (l : List Byte) : (s.blobPut k l).therm = s.therm := rfl
@[simp] theorem blobPut_notices (k : Nat) (l : List Byte) : (s.blobPut k l).notices = s.notices := rfl
@[simp] theorem blobPut_noticeSeq (k : Nat) (l : List Byte) : (s.blobPut k l).noticeSeq = s.noticeSeq := rfl
@[simp] theorem blobPut_il (k : Nat) (l : List Byte) : (s.blobPut k l).il = s.il := rfl
@[simp] theorem blobPut_mgr (k : Nat) (l : List Byte) : (s.blobPut k l).mgr = s.mgr := rfl
@[simp] theorem blobPut_evid (k : Nat) (l : List Byte) : (s.blobPut k l).evid = s.evid := rfl
@[simp] theorem blobPut_boot (k : Nat) (l : List Byte) : (s.blobPut k l).boot = s.boot := rfl
@[simp] theorem blobPut_sb (k : Nat) (l : List Byte) : (s.blobPut k l).sb = s.sb := rfl
@[simp] theorem blobPut_i3c (k : Nat) (l : List Byte) : (s.blobPut k l).i3c = s.i3c := rfl
@[simp] theorem blobPut_fw (k : Nat) (l : List Byte) : (s.blobPut k l).fw = s.fw := rfl
@[simp] theorem blobPut_rdata (k : Nat) (l : List Byte) : (s.blobPut k l).rdata = s.rdata := rfl
@[simp] theorem blobPut_csrGet (k : Nat) (l : List Byte) (o : Nat) : (s.blobPut k l).csrGet o = s.csrGet o := rfl
@[simp] theorem blobPut_fget (k : Nat) (l : List Byte) (g : Fld) : (s.blobPut k l).fget g = s.fget g := rfl
@[simp] theorem blobPut_flag (k : Nat) (l : List Byte) (g : Fld) : (s.blobPut k l).flag g = s.flag g := rfl
@[simp] theorem blobPut_od (k : Nat) (l : List Byte) (j : Nat) : (s.blobPut k l).od j = s.od j := rfl
@[simp] theorem blobPut_cell (k : Nat) (l : List Byte) (c : Nat) : (s.blobPut k l).cell c = s.cell c := rfl
@[simp] theorem blobPut_heldAt (k : Nat) (l : List Byte) (c : Nat) : (s.blobPut k l).heldAt c = s.heldAt c := rfl
@[simp] theorem blobPut_tile (k : Nat) (l : List Byte) (q : Nat) : (s.blobPut k l).tile q = s.tile q := rfl

/-! ## `i3cMod` -/

@[simp] theorem i3cMod_pending (f : I3c → I3c) : (s.i3cMod f).pending = s.pending := by unfold State.i3cMod; split <;> rfl
@[simp] theorem i3cMod_freeCtr (f : I3c → I3c) : (s.i3cMod f).freeCtr = s.freeCtr := by unfold State.i3cMod; split <;> rfl
@[simp] theorem i3cMod_rfrac (f : I3c → I3c) : (s.i3cMod f).rfrac = s.rfrac := by unfold State.i3cMod; split <;> rfl
@[simp] theorem i3cMod_csr (f : I3c → I3c) : (s.i3cMod f).csr = s.csr := by unfold State.i3cMod; split <;> rfl
@[simp] theorem i3cMod_dict (f : I3c → I3c) : (s.i3cMod f).dict = s.dict := by unfold State.i3cMod; split <;> rfl
@[simp] theorem i3cMod_gens (f : I3c → I3c) : (s.i3cMod f).gens = s.gens := by unfold State.i3cMod; split <;> rfl
@[simp] theorem i3cMod_mem (f : I3c → I3c) : (s.i3cMod f).mem = s.mem := by unfold State.i3cMod; split <;> rfl
@[simp] theorem i3cMod_flips (f : I3c → I3c) : (s.i3cMod f).flips = s.flips := by unfold State.i3cMod; split <;> rfl
@[simp] theorem i3cMod_ceFull (f : I3c → I3c) : (s.i3cMod f).ceFull = s.ceFull := by unfold State.i3cMod; split <;> rfl
@[simp] theorem i3cMod_umeta (f : I3c → I3c) : (s.i3cMod f).umeta = s.umeta := by unfold State.i3cMod; split <;> rfl
@[simp] theorem i3cMod_dom (f : I3c → I3c) : (s.i3cMod f).dom = s.dom := by unfold State.i3cMod; split <;> rfl
@[simp] theorem i3cMod_msgs (f : I3c → I3c) : (s.i3cMod f).msgs = s.msgs := by unfold State.i3cMod; split <;> rfl
@[simp] theorem i3cMod_tiles (f : I3c → I3c) : (s.i3cMod f).tiles = s.tiles := by unfold State.i3cMod; split <;> rfl
@[simp] theorem i3cMod_prog (f : I3c → I3c) : (s.i3cMod f).prog = s.prog := by unfold State.i3cMod; split <;> rfl
@[simp] theorem i3cMod_we (f : I3c → I3c) : (s.i3cMod f).we = s.we := by unfold State.i3cMod; split <;> rfl
@[simp] theorem i3cMod_md (f : I3c → I3c) : (s.i3cMod f).md = s.md := by unfold State.i3cMod; split <;> rfl
@[simp] theorem i3cMod_dw (f : I3c → I3c) : (s.i3cMod f).dw = s.dw := by unfold State.i3cMod; split <;> rfl
@[simp] theorem i3cMod_regions (f : I3c → I3c) : (s.i3cMod f).regions = s.regions := by unfold State.i3cMod; split <;> rfl
@[simp] theorem i3cMod_rings (f : I3c → I3c) : (s.i3cMod f).rings = s.rings := by unfold State.i3cMod; split <;> rfl
@[simp] theorem i3cMod_rrNext (f : I3c → I3c) : (s.i3cMod f).rrNext = s.rrNext := by unfold State.i3cMod; split <;> rfl
@[simp] theorem i3cMod_job (f : I3c → I3c) : (s.i3cMod f).job = s.job := by unfold State.i3cMod; split <;> rfl
@[simp] theorem i3cMod_windows (f : I3c → I3c) : (s.i3cMod f).windows = s.windows := by unfold State.i3cMod; split <;> rfl
@[simp] theorem i3cMod_epoch (f : I3c → I3c) : (s.i3cMod f).epoch = s.epoch := by unfold State.i3cMod; split <;> rfl
@[simp] theorem i3cMod_mirror (f : I3c → I3c) : (s.i3cMod f).mirror = s.mirror := by unfold State.i3cMod; split <;> rfl
@[simp] theorem i3cMod_barInbox (f : I3c → I3c) : (s.i3cMod f).barInbox = s.barInbox := by unfold State.i3cMod; split <;> rfl
@[simp] theorem i3cMod_ports (f : I3c → I3c) : (s.i3cMod f).ports = s.ports := by unfold State.i3cMod; split <;> rfl
@[simp] theorem i3cMod_router (f : I3c → I3c) : (s.i3cMod f).router = s.router := by unfold State.i3cMod; split <;> rfl
@[simp] theorem i3cMod_clock (f : I3c → I3c) : (s.i3cMod f).clock = s.clock := by unfold State.i3cMod; split <;> rfl
@[simp] theorem i3cMod_me (f : I3c → I3c) : (s.i3cMod f).me = s.me := by unfold State.i3cMod; split <;> rfl
@[simp] theorem i3cMod_rc (f : I3c → I3c) : (s.i3cMod f).rc = s.rc := by unfold State.i3cMod; split <;> rfl
@[simp] theorem i3cMod_replies (f : I3c → I3c) : (s.i3cMod f).replies = s.replies := by unfold State.i3cMod; split <;> rfl
@[simp] theorem i3cMod_gov (f : I3c → I3c) : (s.i3cMod f).gov = s.gov := by unfold State.i3cMod; split <;> rfl
@[simp] theorem i3cMod_therm (f : I3c → I3c) : (s.i3cMod f).therm = s.therm := by unfold State.i3cMod; split <;> rfl
@[simp] theorem i3cMod_notices (f : I3c → I3c) : (s.i3cMod f).notices = s.notices := by unfold State.i3cMod; split <;> rfl
@[simp] theorem i3cMod_noticeSeq (f : I3c → I3c) : (s.i3cMod f).noticeSeq = s.noticeSeq := by unfold State.i3cMod; split <;> rfl
@[simp] theorem i3cMod_il (f : I3c → I3c) : (s.i3cMod f).il = s.il := by unfold State.i3cMod; split <;> rfl
@[simp] theorem i3cMod_mgr (f : I3c → I3c) : (s.i3cMod f).mgr = s.mgr := by unfold State.i3cMod; split <;> rfl
@[simp] theorem i3cMod_evid (f : I3c → I3c) : (s.i3cMod f).evid = s.evid := by unfold State.i3cMod; split <;> rfl
@[simp] theorem i3cMod_boot (f : I3c → I3c) : (s.i3cMod f).boot = s.boot := by unfold State.i3cMod; split <;> rfl
@[simp] theorem i3cMod_sb (f : I3c → I3c) : (s.i3cMod f).sb = s.sb := by unfold State.i3cMod; split <;> rfl
@[simp] theorem i3cMod_blob (f : I3c → I3c) : (s.i3cMod f).blob = s.blob := by unfold State.i3cMod; split <;> rfl
@[simp] theorem i3cMod_fw (f : I3c → I3c) : (s.i3cMod f).fw = s.fw := by unfold State.i3cMod; split <;> rfl
@[simp] theorem i3cMod_rdata (f : I3c → I3c) : (s.i3cMod f).rdata = s.rdata := by unfold State.i3cMod; split <;> rfl
@[simp] theorem i3cMod_csrGet (f : I3c → I3c) (o : Nat) : (s.i3cMod f).csrGet o = s.csrGet o := by unfold State.csrGet; rw [i3cMod_csr]
@[simp] theorem i3cMod_fget (f : I3c → I3c) (g : Fld) : (s.i3cMod f).fget g = s.fget g := by unfold State.fget State.csrGet; rw [i3cMod_csr]
@[simp] theorem i3cMod_flag (f : I3c → I3c) (g : Fld) : (s.i3cMod f).flag g = s.flag g := by unfold State.flag State.fget State.csrGet; rw [i3cMod_csr]
@[simp] theorem i3cMod_od (f : I3c → I3c) (j : Nat) : (s.i3cMod f).od j = s.od j := by unfold State.od; rw [i3cMod_dict]
@[simp] theorem i3cMod_cell (f : I3c → I3c) (c : Nat) : (s.i3cMod f).cell c = s.cell c := by unfold State.cell; rw [i3cMod_mem, slot_of_md (i3cMod_md _ _)]
@[simp] theorem i3cMod_heldAt (f : I3c → I3c) (c : Nat) : (s.i3cMod f).heldAt c = s.heldAt c := by unfold State.heldAt; rw [i3cMod_msgs]
@[simp] theorem i3cMod_tile (f : I3c → I3c) (q : Nat) : (s.i3cMod f).tile q = s.tile q := by unfold State.tile; rw [i3cMod_tiles]

/-! ## Elements -/

@[simp] theorem tile_setTile_self {p : Nat} (h : p < 192) (x : Tile) : (s.setTile p x).tile p = x := vget_vput_self _ _ h _
@[simp] theorem tile_setTile_ne {p q : Nat} (h : q ≠ p) (x : Tile) : (s.setTile p x).tile q = s.tile q := vget_vput_ne _ _ h _
@[simp] theorem setTile_setTile (p : Nat) (x y : Tile) : (s.setTile p x).setTile p y = s.setTile p y :=
  congrArg (fun v => { s with tiles := v }) (vput_vput _ _ _ _)
@[simp] theorem advance_setTile {p : Nat} (h : p < 192) (x : Tile) :
    (s.setTile p x).advance p = s.setTile p { x with pc := (x.pc + 1) % 2 ^ 32 } := by
  unfold State.advance
  rw [tile_setTile_self s h, setTile_setTile]
@[simp] theorem ring_setRing_self {r : Nat} (h : r < 64) (x : Ring) : (s.setRing r x).ring r = x := vget_vput_self _ _ h _
@[simp] theorem ring_setRing_ne {r q : Nat} (h : q ≠ r) (x : Ring) : (s.setRing r x).ring q = s.ring q := vget_vput_ne _ _ h _
@[simp] theorem weng_setWeng_self {n : Nat} (h : n < 8) (x : We) : (s.setWeng n x).weng n = x := vget_vput_self _ _ h _
@[simp] theorem weng_setWeng_ne {n m : Nat} (h : m ≠ n) (x : We) : (s.setWeng n x).weng m = s.weng m := vget_vput_ne _ _ h _

end Sys2Proof.Machine.State
end

