-- ==== Sys2Proof/WellFormed.lean ====
section
/-! DEFINITION. Well-formed commands: operands whose types are wider than what the manual gives them. -/

namespace Sys2Proof

/-- A packet whose payload is what its `LEN` says: at most 512 bytes, in 16-byte units of which the last may hold fewer that mean
something (R307). -/
def Pkt.wellFormed (q : Pkt) : Bool :=
  q.payload.length == 16 * (q.w0.toNat / 2 ^ 26 % 64)

/-- Is the command well formed? A lane locks on eight codewords (R189, R279); a sample
takes every one of the 197 sensors (R391); a data frame brings packets of R307. -/
def Instr.wellFormed : Instr → Bool
  | .dwLock _ cws => cws.length == 8
  | .laneLock _ l => l.words.length == 8
  | .sensorSample l => l.length == 197
  | .dataFrame _ _ pkts => pkts.all Pkt.wellFormed
  | _ => true

end Sys2Proof
end

