-- ==== Sys2Proof/Tests/Slice0.lean ====
section
/-! SUPPORT. Tests of the model: expected results come from the manual's examples or by hand from its rules. The theorems named
witness show, for each statement of Certificates with hypotheses, states and operands that meet them, clause by clause. -/

namespace Sys2Proof.Tests

open Sys2Proof.Machine

set_option Elab.async false

/-! ## Small states -/

/-- The state after power-on with every domain out of reset. -/
def up : State := { State.reset with dom := { State.reset.dom with lineRst := false, worksRst := false } }

/-- A state with registers set, each to one field's value with its other fields 0. -/
def having (s : State) (l : List (Fld × Nat)) : State :=
  { s with csr := l.foldl (fun t e => tinsert t e.1.off (BitVec.ofNat 64 (e.2 * 2 ^ e.1.lo))) s.csr }

/-- A state with tile 0 in the state `k`. -/
def tileIn (k : Nat) : State := having up [(R.TILE_STATE_STATE.at (tileOff 0), k)]

/-- Every table canonical, as a Bool. -/
def canonB (s : State) : Bool :=
  twf csrDflt s.csr && twf dictDflt s.dict && twf (fun _ => 0) s.gens && Memory.wf s.mem && twf flipDflt s.flips &&
  twf metaDflt s.umeta && twf (fun _ => []) s.msgs && twf (fun _ => 0) s.evid && twf (fun _ => none) s.blob && twf winDflt s.windows

theorem canon_of {s : State} (h : canonB s = true) : s.Canon := by
  simp only [canonB, Bool.and_eq_true] at h
  obtain ⟨⟨⟨⟨⟨⟨⟨⟨⟨a, b⟩, c⟩, d⟩, e⟩, f⟩, g⟩, i⟩, j⟩, k⟩ := h
  exact ⟨a, b, c, d, e, f, g, i, j, k⟩

/-- Whether a reading succeeds. -/
def okB {ε α β : Type} (x : Except ε α × β) : Bool :=
  match x.1 with
  | .ok _ => true
  | .error _ => false

theorem ok_of {ε α β : Type} {x : Except ε α × β} (h : okB x = true) : ∃ v u, x = (.ok v, u) := by
  obtain ⟨v, u⟩ := x
  cases v with
  | ok v => exact ⟨v, u, rfl⟩
  | error e => simp [okB] at h

theorem error_of {ε α β : Type} {x : Except ε α × β} (h : okB x = false) : ∃ v u, x = (.error v, u) := by
  obtain ⟨v, u⟩ := x
  cases v with
  | ok v => simp [okB] at h
  | error e => exact ⟨e, u, rfl⟩

theorem pair_of {α β : Type} (x : α × β) : ∃ v u, x = (v, u) := ⟨x.1, x.2, rfl⟩

/-! ## Well-formed commands -/

theorem test_wf_dwLock : (Instr.dwLock 0 (.replicate 9 0)).wellFormed = false ∧ (Instr.dwLock 0 (.replicate 8 0)).wellFormed = true := by decide

theorem test_wf_laneLock :
    (Instr.laneLock 0 ⟨0, .replicate 7 0⟩).wellFormed = false ∧ (Instr.laneLock 0 ⟨0, .replicate 8 0⟩).wellFormed = true := by decide

theorem test_wf_sensorSample : (Instr.sensorSample []).wellFormed = false := by decide

theorem test_wf_dataFrame :
    (Instr.dataFrame 0 ⟨0, 0, true, false, 0⟩ [⟨0, 0, 0, [1]⟩]).wellFormed = false ∧
    (Instr.dataFrame 0 ⟨0, 0, true, false, 0⟩ [⟨0x4000000, 0, 0, [1]⟩]).wellFormed = false ∧
    (Instr.dataFrame 0 ⟨0, 0, true, false, 0⟩ [⟨0x4000000, 0, 0, .replicate 16 1⟩]).wellFormed = true := by decide

/-! ## The queue, the invariants and the shared operations -/

theorem witness_IdleStepTicks : State.reset.pending = [] := rfl

theorem witness_StepsCompleteAndKeepTheQueue : ∃ (c : Instr) (s t : State), exec c s = .next t :=
  ⟨.haltDone 0, State.reset, _, rfl⟩

theorem witness_StepKeepsCanonical : ∃ s t : State, s.Canon ∧ step s = .next t :=
  ⟨State.reset, State.reset.tick, canon_of (by decide), rfl⟩

theorem witness_StepKeepsFourHeld : ∃ s t : State, s.Canon ∧ s.FourHeld ∧ step s = .next t :=
  ⟨State.reset, State.reset.tick, canon_of (by decide), fun _ => Nat.zero_le _, rfl⟩

/-- A message of tile 5. -/
def msg (kind : Nat) (clear : Bool := false) : FaultMsg := ⟨5, kind, 0, clear, false, false, 0, 0, 0, false⟩

/-- A state in which tile 5 holds messages of the kinds of a list. -/
def holding (l : List Nat) : State := { up with msgs := [(5, l.map fun k => msg k)] }

theorem witness_HoldMessage_merge :
    (holding [1, 2, 3, 4]).Canon ∧ ((holding [1, 2, 3, 4]).heldAt 5).length ≤ 4 ∧
    (∃ h, ((holding [1, 2, 3, 4]).heldAt 5)[3]? = some h ∧ h.kind = (msg 4).kind ∧ h.clear = (msg 4).clear) :=
  ⟨canon_of (by decide), by decide, msg 4, rfl, rfl, rfl⟩

theorem witness_HoldMessage_room :
    (holding [1, 2, 3]).Canon ∧ ((holding [1, 2, 3]).heldAt 5).length < 4 ∧
    (∀ h ∈ (holding [1, 2, 3]).heldAt 5, ¬ (h.kind = (msg 4).kind ∧ h.clear = (msg 4).clear)) :=
  ⟨canon_of (by decide), by decide, by decide⟩

theorem witness_HoldMessage_full :
    (holding [1, 2, 3, 4]).Canon ∧ ((holding [1, 2, 3, 4]).heldAt 5).length = 4 ∧
    (∀ h ∈ (holding [1, 2, 3, 4]).heldAt 5, ¬ (h.kind = (msg 4 true).kind ∧ h.clear = (msg 4 true).clear)) :=
  ⟨canon_of (by decide), by decide, by decide⟩

theorem witness_RtimeRate : up.Canon ∧ up.dom.lineRst = false ∧ ({ up with rfrac := 9 } : State).rfrac < 10 :=
  ⟨canon_of (by decide), rfl, by decide⟩

theorem witness_FieldWrite :
    up.Canon ∧ (let f : Fld := ⟨R.RTIME, 0, 64⟩; f.lo + f.w ≤ 64) ∧
    (let f : Fld := ⟨R.RTIME, 63, 1⟩; let g : Fld := ⟨R.RTIME, 0, 63⟩; f.lo + f.w ≤ 64 ∧ g.lo + g.w ≤ f.lo) :=
  ⟨canon_of (by decide), by decide, by decide, by decide⟩

theorem witness_EventCounterSaturates :
    (let f := R.CTR_VALUE.at (ctrOff 0 0); let o := R.CTR_CTR_OVF.at (ctrOff 0 0)
     f.w = 32 ∧ f.lo + f.w ≤ 64 ∧ o.w = 1 ∧ o.lo + o.w ≤ 64 ∧ (o.off ≠ f.off ∨ o.lo + 1 ≤ f.lo ∨ f.lo + 32 ≤ o.lo)) ∧ up.Canon :=
  ⟨by decide, canon_of (by decide)⟩

/-! ## Tiles -/

/-- An instruction word of a class, an operation and berths; the remaining bits are those of the last number. -/
def word (cls op bd ba bb bc rest : Nat) : Nat :=
  cls * 2 ^ 124 + op * 2 ^ 116 + bd * 2 ^ 110 + ba * 2 ^ 104 + bb * 2 ^ 98 + bc * 2 ^ 92 + rest

/-- A berth over 64 bytes of the scratchpad of logical tile 0, in a format, one row of `cols` elements. -/
def inPad (fmt cols : Nat) : Berth :=
  ⟨true, true, true, true, 2, spBase + 0x1000, 0, false, 0, fmt, 256, 0, cols, 0, 0⟩

/-- Tile 0 runs, its code is the one word `w` at 256 MiB in memory device 0, which B1 names, and `f` sets the rest of the tile. -/
def running (w : Nat) (f : Tile → Tile := id) : State :=
  let s := having up [(R.TILE_STATE_STATE.at (tileOff 0), 2), (R.MD_STATUS_CH_UP, 15), (R.DIE_MARK_MARKED, 0), (R.LMAP_VALID, 1)]
  let code : Berth := ⟨true, true, false, true, 1, 2 ^ 28, 0, false, 0, 0, 16, 0, 16, 0, 0⟩
  { s with
    mem := ((leBytes 16 w).zipIdx.map fun (b, i) => (2 ^ 28 + i, b)).filter fun e => e.2 != 0
    prog := { Prog.empty with loaded := true, trigCtrs := 8, vcMask := 0x3F }
    tiles := vput s.tiles 0 (f { Tile.reset with b := vput Tile.reset.b 1 code }) }

/-- Does tile 0 fetch the word `w`? -/
def fetches (s : State) (w : Nat) : Bool :=
  s.tileState 0 == 2 && match (s.fetch 0).1 with
    | .ok v => v == w
    | .error _ => false

/-- The state after tile 0 has fetched. -/
def after (s : State) : State := (s.fetch 0).2

theorem issues_of {s : State} {w cls op : Nat} (h : (fetches s w && iCls w == cls && iOp w == op) = true) :
    Issues s (after s) 0 cls op w := by
  simp only [fetches, Bool.and_eq_true, beq_iff_eq] at h
  obtain ⟨⟨⟨h1, h2⟩, h3⟩, h4⟩ := h
  refine ⟨h1, ?_, h3, h4⟩
  unfold after
  show s.fetch 0 = _
  generalize hx : s.fetch 0 = x at h2
  obtain ⟨v, u⟩ := x
  cases v with
  | ok v => simp only [beq_iff_eq] at h2; rw [h2]
  | error e => simp at h2

theorem witness_DispatchArrives_judged :
    (tileIn 1).tileState 0 = 1 ∧ (tileIn 4).tileState 0 = 4 ∧ (tileIn 1).fget (R.TILE_SEQ_SEQ.at (tileOff 0)) = 0 ∧
    (2 ^ 32 + (1#32).toNat - 0) % 2 ^ 32 = 1 ∧ (2 ^ 32 + (0#32).toNat - 0) % 2 ^ 32 = 0 ∧
    2 ^ 31 ≤ (2 ^ 32 + (0x80000000#32).toNat - 0) % 2 ^ 32 ∧ 2 ≤ (2 ^ 32 + (2#32).toNat - 0) % 2 ^ 32 ∧
    (2 ^ 32 + (0x7FFFFFFF#32).toNat - 0) % 2 ^ 32 < 2 ^ 31 := by decide

theorem witness_DispatchArrives_held :
    (tileIn 2).tileState 0 = 2 ∧ ((tileIn 2).tile 0).held = none ∧ (tileIn 3).tileState 0 = 3 ∧
    (let s := { tileIn 3 with tiles := vput (tileIn 3).tiles 0 { Tile.reset with held := some ⟨1, 0, 0, 0, 0⟩ } }
     s.tileState 0 = 3 ∧ (s.tile 0).held = some ⟨1, 0, 0, 0, 0⟩) ∧ (tileIn 0).tileState 0 = 0 ∧ 5 ≤ (tileIn 5).tileState 0 := by
  decide

theorem witness_DispatchSets :
    (tileIn 1).Canon ∧ (⟨2 ^ 32 - 1, 0, 0, 0, 0⟩ : Dispatch).seq < 2 ^ 32 ∧
    (let w := word 0 5 0 0 0 0 1
     nbits w 91 88 = 0 ∧ Issues (running w) (after (running w)) 0 0 0x05 w) ∧
    (let w := word 0 6 0 0 0 0 (15 * 2 ^ 88 + 1)
     nbits w 91 88 = 15 ∧ Issues (running w) (after (running w)) 0 0 0x06 w) :=
  ⟨canon_of (by decide), by decide, ⟨by decide, issues_of (by decide)⟩, ⟨by decide, issues_of (by decide)⟩⟩

theorem control_issues : ∀ op : Fin 8, (let w := word 0 op 0 0 0 0 1
    fetches (running w) w && iCls w == 0 && iOp w == op) = true := by decide

theorem witness_ControlOperations : ∀ op : Fin 8, ∃ s t w, Issues s t 0 0 op w :=
  fun op => ⟨_, _, _, issues_of (control_issues op)⟩

/-- Tile 0 in WAIT, for `k`. -/
def waiting (k : TileWait) : State := { tileIn 3 with tiles := vput (tileIn 3).tiles 0 { Tile.reset with wait := k } }

theorem witness_WaitsEnd :
    (∃ s : State, s.tileState 0 = 3 ∧ (s.tile 0).wait = .halt) ∧ (∃ s : State, s.tileState 0 = 3 ∧ (s.tile 0).wait = .fence) ∧
    (∃ s : State, s.tileState 0 = 3 ∧ (s.tile 0).wait = .ctr 1023 0xFFFFFFFF) :=
  ⟨⟨waiting .halt, by decide, by decide⟩, ⟨waiting .fence, by decide, by decide⟩, ⟨waiting (.ctr 1023 0xFFFFFFFF), by decide, by decide⟩⟩

theorem witness_TrapsAndIllegalWords_trap :
    (tileIn 2).Canon ∧ ((tileIn 2).tile 0).held = none ∧ (2 ^ 16 - 1) < 2 ^ 16 ∧
    (tileIn 2).flag (R.TILE_TRAP_VALID.at (tileOff 0)) = false ∧
    (having (tileIn 2) [(R.TILE_TRAP_VALID.at (tileOff 0), 1)]).flag (R.TILE_TRAP_VALID.at (tileOff 0)) = true :=
  ⟨canon_of (by decide), by decide, by decide, by decide, by decide⟩

theorem witness_TrapsAndIllegalWords_word :
    (let w := word 15 0 0 0 0 0 0
     (running w).tileState 0 = 2 ∧ (running w).fetch 0 = (.ok w, after (running w)) ∧ opListed (iCls w) (iOp w) = false) ∧
    (tileIn 2).tileState 0 = 2 ∧ ∃ ti, (tileIn 2).fetch 0 = (.error ti, after (tileIn 2)) :=
  ⟨⟨by decide, (issues_of (cls := 15) (op := 0) (by decide)).word, by decide⟩, by decide, ⟨_, rfl⟩⟩

/-- A tile with berth registers 3 to 6 set. -/
def berths (a b c d : Berth) (t : Tile) : Tile := { t with b := vput (vput (vput (vput t.b 3 a) 4 b) 5 c) 6 d }

/-- `running`, with B3 to B6 over the tile's own scratchpad in one format. -/
def runningPad (w fmt cols : Nat) : State :=
  running w (berths (inPad fmt cols) (inPad fmt cols) (inPad fmt cols) (inPad fmt cols))

theorem witness_BerthAndCounterOperations_berth :
    (let w := word 1 1 63 3 0 0 0; Issues (running w) (after (running w)) 0 1 0x01 w ∧ iBd w = 63) ∧
    (let w := word 1 2 3 3 0 0 0; Issues (running w) (after (running w)) 0 1 0x02 w ∧ iBd w = 3) ∧
    (let w := word 1 1 1 3 0 0 0; Issues (running w) (after (running w)) 0 1 0x01 w ∧ iBd w = 1) ∧
    (let w := word 1 2 2 3 0 0 0; Issues (running w) (after (running w)) 0 1 0x02 w ∧ iBd w = 2) :=
  ⟨⟨issues_of (by decide), by decide⟩, ⟨issues_of (by decide), by decide⟩, ⟨issues_of (by decide), by decide⟩,
    issues_of (by decide), by decide⟩

/-- BERTH.SUB of B3 into B0: one row, `cols` columns from column `c`. -/
def subWord (c cols : Nat) : Nat := word 1 0 0 3 0 0 (2 ^ 72 + c * 2 ^ 24 + cols)

theorem witness_BerthAndCounterOperations_sub :
    (let w := subWord 0 4
     let s := runningPad w 1 4
     let b := ((after s).tile 0).berth (iBa w)
     Issues s (after s) 0 1 0x00 w ∧ b.usable = true ∧ (after s).chkRows b (iBa w) 0 4 0 1 = none ∧ nbits w 83 72 = 1 ∧
       nbits w 23 0 = 4 ∧ 4 % groupElems b.fmt = 0) ∧
    (let w := subWord 0 1
     let s := runningPad w 1 4
     let b := ((after s).tile 0).berth (iBa w)
     Issues s (after s) 0 1 0x00 w ∧ b.usable = true ∧ (after s).chkRows b (iBa w) 0 1 0 1 = none ∧ 1 % groupElems b.fmt ≠ 0) :=
  ⟨⟨issues_of (by decide), by decide, by decide, by decide, by decide, by decide⟩, issues_of (by decide), by decide, by decide, by decide⟩

theorem witness_BerthAndCounterOperations_ctr :
    (let w := word 5 0 0 0 0 0 7; Issues (running w) (after (running w)) 0 5 0x00 w ∧ nbits w 9 0 + 1 = (after (running w)).prog.trigCtrs) ∧
    (let w := word 5 1 0 0 0 0 7; Issues (running w) (after (running w)) 0 5 0x01 w ∧ nbits w 9 0 < (after (running w)).prog.trigCtrs) ∧
    (let w := word 5 2 0 0 0 0 7; Issues (running w) (after (running w)) 0 5 0x02 w ∧ nbits w 9 0 < (after (running w)).prog.trigCtrs) ∧
    (let w := word 5 0 0 0 0 0 8; Issues (running w) (after (running w)) 0 5 0x00 w ∧ nbits w 9 0 = (after (running w)).prog.trigCtrs) :=
  ⟨⟨issues_of (by decide), by decide⟩, ⟨issues_of (by decide), by decide⟩, ⟨issues_of (by decide), by decide⟩,
    issues_of (by decide), by decide⟩

theorem prod_of {α β : Type} {x : α × β} {v : α} (h : x.1 = v) : x = (v, x.2) := by subst h; rfl

/-- Is the reading this value? -/
def okIs {ε α β : Type} [DecidableEq α] (x : Except ε α × β) (v : α) : Bool :=
  match x.1 with
  | .ok u => u == v
  | .error _ => false

theorem okIs_of {ε α β : Type} [DecidableEq α] {x : Except ε α × β} {v : α} (h : okIs x v = true) : x = (.ok v, x.2) := by
  obtain ⟨a, b⟩ := x
  cases a with
  | ok u => simp only [okIs, beq_iff_eq] at h; simp only [h]
  | error e => simp [okIs] at h

/-- A vector word on B3, B4, B5 into B6, over two elements. -/
def vword (op : Nat) (rest : Nat := 0) : Nat := word 3 op 6 3 4 5 (rest + 2)

/-- The first two elements of a berth register of tile 0 as `t` reads them in the state `s`. -/
def two (t s : State) (i : Nat) : Except Nat (List Nat) × State :=
  s.readElems (rqOperand 0) ((t.tile 0).berth i) (((t.tile 0).berth i).coords 2)

theorem vec_issues : ∀ op : Fin 16, (let w := vword op
    let s := runningPad w (if op.val = 0x0D then 0x0D else 7) 2
    fetches s w && iCls w == 3 && iOp w == op && ((after s).vecCheck 0 w).isNone) = true := by decide

theorem witness_VectorArithmetic :
    let w := vword 3
    let s := runningPad w 7 2
    let t := after s
    let t1 := (two t t 3).2
    let t2 := (two t t1 4).2
    let t3 := (two t t2 5).2
    let d := (t.tile 0).berth 6
    Issues s t 0 3 3 w ∧ t.vecCheck 0 w = none ∧ fmtElem d.fmt = some (.fp fmtBF16) ∧ two t t 3 = (.ok [0, 0], t1) ∧
    two t t1 4 = (.ok [0, 0], t2) ∧ two t t2 5 = (.ok [0, 0], t3) ∧ (t3.runsPre (rqOperand 0) d (d.runs [0, 0])).1 = none :=
  ⟨issues_of (by decide), by decide, by rfl, okIs_of (by decide), okIs_of (by decide), okIs_of (by decide), by decide⟩

theorem witness_VectorMovesAndReductions_trap :
    let w := vword 0x0F (3 * 2 ^ 90)
    let s := runningPad w 7 2
    Issues s (after s) 0 3 0x0F w ∧ (after s).vecCheck 0 w = some ⟨1, 0, 0⟩ := ⟨issues_of (by decide), by decide⟩

theorem witness_VectorMovesAndReductions_vred :
    let w := vword 0x0C (2 ^ 86)
    let s := runningPad w 7 2
    let t := after s
    let t1 := (two t t 3).2
    let d := (t.tile 0).berth 6
    Issues s t 0 3 0x0C w ∧ t.vecCheck 0 w = none ∧ two t t 3 = (.ok [0, 0], t1) ∧ (t1.runsPre (rqOperand 0) d (d.runs [0])).1 = none :=
  ⟨issues_of (by decide), by decide, okIs_of (by decide), by decide⟩

/-- `runningPad` for VCVT from scaled E4M3 in B3, with the scales in B5, to BF16 in B6. -/
def scaledPad (w : Nat) : State :=
  running w (berths { inPad 4 2 with scaleEn := true, scaleBerth := 5 } (inPad 7 2) (inPad 0x0C 2) (inPad 7 2))

theorem witness_VectorMovesAndReductions_vcvt :
    let w := vword 0x06
    let s := scaledPad w
    let t := after s
    let a := (t.tile 0).berth 3
    let t1 := (two t t 3).2
    Issues s t 0 3 0x06 w ∧ t.vecCheck 0 w = none ∧ two t t 3 = (.ok [0, 0], t1) ∧ a.scaleEn = true ∧
    okIs (t1.readElems (rqOperand 0) ((t.tile 0).berth a.scaleBerth) ((a.coords 2).map fun (r, k) => (r, (a.originCol + k) / 32))) [0, 0] = true :=
  ⟨issues_of (by decide), by decide, okIs_of (by decide), by rfl, by decide⟩

theorem witness_VectorMovesAndReductions_xadd :
    let w := vword 0x0D
    let s := runningPad w 0x0D 2
    let t := after s
    let t1 := (two t t 3).2
    let t2 := (two t t1 4).2
    let t3 := (two t t2 5).2
    Issues s t 0 3 0x0D w ∧ t.vecCheck 0 w = none ∧ two t t 3 = (.ok [0, 0], t1) ∧ two t t1 4 = (.ok [0, 0], t2) ∧
    two t t2 5 = (.ok [0, 0], t3) ∧ iBc w ≠ 0 :=
  ⟨issues_of (by decide), by decide, okIs_of (by decide), okIs_of (by decide), okIs_of (by decide), by decide⟩

theorem witness_MatrixOperations_cfg :
    (let w := word 2 1 0 0 0 0 0; Issues (running w) (after (running w)) 0 2 1 w ∧ nbits w 115 92 = 0 ∧ nbits w 72 64 = 0) ∧
    (let w := word 2 1 0 0 0 1 0; Issues (running w) (after (running w)) 0 2 1 w ∧ nbits w 115 92 ≠ 0) :=
  ⟨⟨issues_of (by decide), by decide, by decide⟩, issues_of (by decide), by decide⟩

/-- An MMA word on B3 and B4 into B6, one K element, INIT; `wr` is WRITE. -/
def mword (wr : Nat) : Nat := word 2 0 6 3 4 0 (2 ^ 89 + wr * 2 ^ 88 + 2 ^ 22)

/-- B3 and B4 over 16 rows of one E4M3 element, B6 over 16 rows of 16 E4M3 elements. -/
def mrun (w : Nat) : State :=
  let ab : Berth := { inPad 4 1 with length := 16, pitch := 1 }
  running w (berths ab ab ab { inPad 4 16 with length := 256, pitch := 16 })

theorem witness_MatrixOperations_mma : ∀ wr : Fin 2,
    let w := mword wr
    let s := mrun w
    let t := after s
    let m := mmaArgs (t.tile 0) w
    Issues s t 0 2 0 w ∧ t.mmaCheck 0 w = none ∧ okB (t.mmaRead 0 m) = true ∧ m.write = (wr == 1) := by
  have h : ∀ wr : Fin 2, (let w := mword wr; let s := mrun w
    fetches s w && iCls w == 2 && iOp w == 0 && ((after s).mmaCheck 0 w).isNone && okB ((after s).mmaRead 0 (mmaArgs ((after s).tile 0) w))
      && (mmaArgs ((after s).tile 0) w).write == (wr == 1)) = true := by decide
  intro wr
  have g := h wr
  simp only [Bool.and_eq_true, Option.isNone_iff_eq_none, beq_iff_eq] at g
  exact ⟨issues_of (by simp [g]), g.1.1.2, g.1.2, g.2⟩

theorem witness_MatrixOperations_trap :
    let w := word 2 0 6 3 4 0 (2 ^ 89)
    Issues (mrun w) (after (mrun w)) 0 2 0 w ∧ (after (mrun w)).mmaCheck 0 w = some ⟨1, 0, 0⟩ :=
  ⟨issues_of (by decide), by decide⟩

/-! ## DMA and collectives at issue -/

/-- A DMA word from B3 to B6: class 1, channel 0, counter 0 as the done counter, two bytes. -/
def dword (op : Nat) (rest : Nat := 0) : Nat := word 4 op 6 3 0 0 (2 ^ 89 + 2 ^ 87 + 2 + rest)

/-- A transfer of two bytes between two berths. -/
def xfer (src dst : Berth) : DmaXfer := ⟨src, dst, false, 2, 1, 0, some 0⟩

/-- Tile 0 with its first DMA engine as given. -/
def withDma (d : DmaEng) (t : Tile) : Tile := { t with dma := vput t.dma 0 d }

/-- Rows of two bytes. -/
def rows2 : Berth := { inPad 4 2 with pitch := 2 }

/-- Two bytes at a remote package. -/
def remote : Berth := { inPad 4 2 with kind := 4, dest := 0x011 }

theorem witness_DmaOperations_issue : ∀ op : Fin 2, ∀ full : Bool,
    let w := dword op
    let d : DmaEng := { DmaEng.idle with queue := List.replicate (if full then 16 else 15) (xfer (inPad 4 2) (inPad 4 2)) }
    let s := running w fun t => withDma d (berths rows2 rows2 rows2 { rows2 with base := spBase + 0x2000 } t)
    Issues s (after s) 0 4 op w ∧ (after s).dmaCheck 0 w = none ∧ (vget .idle ((after s).tile 0).dma 0).queue.length = if full then 16 else 15 := by
  have h : ∀ op : Fin 2, ∀ full : Bool, (let w := dword op
    let d : DmaEng := { DmaEng.idle with queue := List.replicate (if full then 16 else 15) (xfer (inPad 4 2) (inPad 4 2)) }
    let s := running w fun t => withDma d (berths rows2 rows2 rows2 { rows2 with base := spBase + 0x2000 } t)
    fetches s w && iCls w == 4 && iOp w == op && ((after s).dmaCheck 0 w).isNone
      && (vget .idle ((after s).tile 0).dma 0).queue.length == if full then 16 else 15) = true := by decide
  intro op full
  have g := h op full
  simp only [Bool.and_eq_true, Option.isNone_iff_eq_none, beq_iff_eq] at g
  exact ⟨issues_of (by simp [g]), g.1.2, g.2⟩

theorem witness_DmaOperations_trap :
    let w := dword 0 (2 ^ 64)
    Issues (running w) (after (running w)) 0 4 0 w ∧ (after (running w)).dmaCheck 0 w = some ⟨1, 0, 0⟩ := ⟨issues_of (by decide), by decide⟩

/-- Tile 0 with a DMA engine. -/
def dmaState (d : DmaEng) : State := running 0 (withDma d)

theorem witness_DmaOperations_start : ∀ src : Fin 3, (
    let x := xfer (if src = 0 then remote else if src = 1 then inPad 4 2 else { inPad 4 2 with base := 2 ^ 51 }) (inPad 4 2)
    let s := dmaState ⟨[x], none, false⟩
    let d := s.dmaEng 0 0
    let t := s.setDma 0 0 { d with queue := [], run := some ⟨x, List.replicate x.bytes none, 0, [], none, 0⟩ }
    !s.dom.worksRst && !d.halted && d.run.isNone && s.tileState 0 != 5 && d.queue == [x] && (x.src.kind == 4) == (src == 0)
      && (src == 0 || okB (t.dmaRead 0 x.segs) == (src == 1))) = true := by decide

theorem witness_DmaOperations_done : ∀ far : Fin 3, (
    let x := xfer (inPad 4 2) (if far = 0 then inPad 4 2 else if far = 1 then remote else { inPad 4 2 with base := 2 ^ 51 })
    let s := dmaState ⟨[], some ⟨x, [some 1, some 2], 1, [], none, 0⟩, false⟩
    let d := s.dmaEng 0 0
    d.run == some ⟨x, [some 1, some 2], 1, [], none, 0⟩ && (DmaRun.mk x [some 1, some 2] 1 [] none 0).allSent && !s.dom.worksRst && s.tileState 0 != 5
      && allSome [some (1 : Byte), some 2] == some [1, 2] && (x.dst.kind == 4) == (far == 1)
      && (far == 1 || (s.dmaWrite 0 [1, 2] x.segs).1.isNone == (far == 0))) = true := by
  decide

theorem witness_DmaOperations_halt :
    let x := xfer (inPad 4 2) remote
    let s := dmaState ⟨[x], some ⟨x, [none, none], 0, [], some 1, 0⟩, false⟩
    (s.dmaEng 0 0).run = some ⟨x, [none, none], 0, [], some 1, 0⟩ ∧ s.tileState 0 ≠ 5 := by decide

/-- A job of this package alone, whose group 0 is dies 0 and 1. -/
def oneJob : Job := { Job.none with active := true, id := 1, members := 1, nWindows := 1, dest := [0x010], groups := [(1, 3)] }

/-- The bytes of a consist: two members, rank 0, chunks of 4 KiB, COLL_SEQ 1, from B`src` to B`dst`. -/
def consist (coll redop wire elem count src dst : Nat) : List Byte :=
  let w1 := coll * 2 ^ 56 + redop * 2 ^ 48 + wire * 2 ^ 43 + elem * 2 ^ 38 + count
  let w2 := 2 * 2 ^ 32 + 4 * 2 ^ 16
  let w3 := State.reset.od D.ARITH_VERSION * 2 ^ 32 + 1
  [(consistDigest w1 w2 w3).toNat, w1, w2, w3, src * 2 ^ 22 + dst * 2 ^ 16, 0, 0, 0].flatMap (leBytes 8)

/-- `running`, with the job, a consist in the scratchpad that B5 names, and the other berths given; B7 is as B6 elsewhere. -/
def collective (w : Nat) (a b d : Berth) (l : List Byte) : State :=
  let s := running w fun t =>
    let t := berths a b { inPad 0 64 with base := spBase + 0x4000 } d t
    { t with b := vput t.b 7 { d with base := spBase + 0x3000 } }
  { s with job := oneJob, mem := s.mem ++ (l.zipIdx.map fun (b, i) => (spBase + 0x4000 + i, b)).filter fun e => e.2 != 0 }

/-- What the clauses on COLL.START ask of a word in a state: its berth holds a consist, and the checks pass or trap as `traps` says. -/
def collRuns (w : Nat) (s : State) (traps : Bool) : Bool :=
  let t := after s
  let x := t.tile 0
  fetches s w && iCls w == 5 && iOp w == 3 && (chkBerth x (iBc w) false (fun b => b.kind != 4) (fun _ => true)).isNone
    && match t.readConsist 0 (iBc w) with
      | (.ok (some ws), u) =>
        let c := Consist.ofList ws
        let n := c.extents.1
        let m := c.extents.2
        (firstTrap (u.consistTraps x (iBc w) ws ++
          [u.chkColl x ((if n = 0 then [] else [(c.srcB, n, false)]) ++ if m = 0 ∧ c.dstB = 0 then [] else [(c.dstB, m, true)]),
           trapIf (u.collBad 0 c || (n != 0 && (x.berth c.srcB).fmt != c.elem) || (c.dstB != 0 && (x.berth c.dstB).fmt != c.elem)) 0x0042])).isSome
          == traps
      | _ => false

theorem witness_CollectiveIssueAndLaunch_start : ∀ traps : Bool,
    let w := word 5 3 0 0 0 5 0
    collRuns w (collective w (inPad 7 2) { inPad 7 2 with base := spBase + 0x2000 } .null (consist 1 1 7 (if traps then 4 else 7) 2 3 4))
      traps = true := by decide +kernel

theorem witness_CollectiveIssueAndLaunch_berth :
    let w := word 5 3 0 0 0 0 0
    Issues (running w) (after (running w)) 0 5 3 w ∧
    chkBerth ((after (running w)).tile 0) (iBc w) false (fun b => b.kind != 4) (fun _ => true) = some ⟨0x0010, 0, 0⟩ :=
  ⟨issues_of (by decide), by decide⟩

/-- What a fused word's checks on its own berths find. -/
def fusedNamed (op w : Nat) (s : State) : Option TrapInfo :=
  let t := after s
  let x := t.tile 0
  let a := fusedArgs x w
  let places := t.mmaPlaces 0 a [⟨iBc w, false, t.ownScratch 0, fun _ => true⟩] (op == 2) (op != 2)
  firstTrap ([trapIf (t.mmaEncBad w) 0x0001, chkPlaces x places places []] ++ mmaCond x a)

/-- What the clauses on fused words ask of a word of operation `op` in a state: its checks pass, its consist is read, the checks with it
and then the blocks end as the last two say. -/
def fusedRuns (op w : Nat) (s : State) (checks runs : Bool) : Bool :=
  let t := after s
  fetches s w && iCls w == 6 && iOp w == op && (fusedNamed op w s).isNone
    && match t.readConsist 0 (iBc w) with
      | (.ok (some ws), u) => (u.fusedCheck 0 op w (some ws)).isNone == checks && u.launchRoom 0
        && (op == 2 || !checks || okB (u.fusedRun 0 (fusedArgs (t.tile 0) w)) == runs)
      | _ => false

/-- A fused word on B3 and B4 with the consist B5 into B6: `mb` block rows, one block column, one K element. -/
def fword (op mb : Nat) : Nat := word 6 op 6 3 4 5 (2 ^ 22 + mb * 2 ^ 11 + 1)

/-- B3 or B4 over 32 rows of one E4M3 element. -/
def column : Berth := { inPad 4 1 with length := 32, pitch := 1 }

/-- B6 over 32 rows of 16 E4M3 elements. -/
def square : Berth := { inPad 4 16 with base := spBase + 0x2000, length := 512, pitch := 16 }

theorem witness_CollectiveIssueAndLaunch_rs :
    fusedRuns 1 (fword 1 1) (collective (fword 1 1) column column square (consist 1 1 7 4 256 6 7)) true true = true ∧
    fusedRuns 1 (fword 1 1) (collective (fword 1 1) column column square (consist 2 1 7 4 256 6 7)) false true = true := by
  constructor <;> decide +kernel

/-- With two bits of A's first byte flipped, so that it reads UNCORRECTABLE. -/
theorem witness_CollectiveIssueAndLaunch_ecc :
    let s := collective (fword 1 1) column column square (consist 1 1 7 4 256 6 7)
    fusedRuns 1 (fword 1 1) { s with flips := [(spBase + 0x1000, 3)] } true false = true := by decide +kernel

theorem witness_CollectiveIssueAndLaunch_ag :
    fusedRuns 2 (fword 2 1) (collective (fword 2 1) column column square (consist 2 0 4 4 8 3 0)) true true = true := by decide +kernel

theorem witness_CollectiveIssueAndLaunch_a2a :
    fusedRuns 3 (fword 3 2) (collective (fword 3 2) column column square (consist 3 0 4 4 512 6 7)) true true = true := by decide +kernel

theorem witness_CollectiveIssueAndLaunch_named : ∀ op : Fin 3,
    let w := word 6 (op + 1) 6 0 4 5 (2 ^ 22 + 2 ^ 11 + 1)
    let s := collective w column column square []
    Issues s (after s) 0 6 (op + 1) w ∧ fusedNamed (op + 1) w s = some ⟨0x0010, 0, 0⟩ := by
  have h : ∀ op : Fin 3, (let w := word 6 (op + 1) 6 0 4 5 (2 ^ 22 + 2 ^ 11 + 1)
    let s := collective w column column square []
    fetches s w && iCls w == 6 && iOp w == op + 1 && fusedNamed (op + 1) w s == some ⟨0x0010, 0, 0⟩) = true := by decide +kernel
  intro op
  have g := h op
  simp only [Bool.and_eq_true, beq_iff_eq] at g
  exact ⟨issues_of (by simp only [Bool.and_eq_true, beq_iff_eq]; exact g.1), g.2⟩

theorem witness_CollectiveIssueAndLaunch_launch : (State.reset.meng 0).aborts = [] := by decide

/-! ## Wayside engines and memory -/

/-- A berth over 64 bytes of memory device 0, in a format, one row. -/
def inStack (fmt len cols : Nat) : Berth := ⟨true, false, true, true, 1, 0x1000, 0, false, 0, fmt, len, 0, cols, 0, 0⟩

/-- A descriptor: word 0 is OP, the bits of `w0` and DESC_SEQ 1; words 1 and 2, the parameters' words, and the operands as given. -/
def desc (op w0 w1 w2 p0 : Nat) (opnds : List Berth) : List Nat :=
  [op * 2 ^ 56 + w0 + 1, w1, w2, p0, 0, 0, 0, 0] ++ opnds.flatMap fun b => words64 4 b.bytes

/-- Device 0's channels are up, and its wayside engine is as given, with STATE, SEQ and DEPTH 0 but for `st`. -/
def weState (w : We) (st : Nat) (l : List (Fld × Nat)) : State :=
  let s := having up ([(R.MD_STATUS_CH_UP, 15), (R.DIE_MARK_MARKED, 0), (R.WE_QSTAT_STATE, st)] ++ l)
  { s with we := vput s.we 0 w }

/-- Does the descriptor at the front start, and how does its work end? -/
def weRuns (d : List Nat) (s : State) : Bool × Bool :=
  let t := (s.putWeng 0 { s.weng 0 with queue := [], run := some ⟨d, none⟩ }).setWeState 0 1
  ((s.weng 0).queue == [d] && s.weReady 0 d, okB (t.weWork 0 d))

theorem witness_WaysideEngines_work : ∀ k : Fin 10, (
    let d := desc (k.val + 1) 0 0 0 0 []
    weRuns d (weState ⟨[d], none, [], none, false, false⟩ 0 []) == (true, true) && dOp d == k.val + 1) = true := by decide +kernel

theorem witness_WaysideEngines_ecc :
    let d := desc 1 0 0 0 1 []
    let s : State := { weState ⟨[d], none, [], none, false, false⟩ 0 [] with flips := [(0, 3)] }
    weRuns d s = (true, false) ∧ dOp d = 1 := by decide +kernel

/-- The state with a descriptor in the registers of `WE_POST` of engine 0. -/
def posted (d : List Nat) : State :=
  weState .reset 0 (d.zipIdx.map fun (v, k) => ((⟨R.WE_POST + 8 * k, 0, 64⟩ : Fld), v))

/-- What the clauses on a post read: status, DESC_SEQ against SEQ, and the code of the later checks. -/
def postFacts (s : State) : Nat × Nat × Nat :=
  let d := (List.range 32).map fun k => (s.csrGet (R.WE_POST + mdOff 0 + 8 * k)).toNat
  (s.accessStatus (R.WE_POST_CTL + mdOff 0), (2 ^ 32 + dSeq d - s.fget (R.WE_QSTAT_SEQ.at (mdOff 0))) % 2 ^ 32, s.weLateCode 0 true d)

theorem witness_WaysideEngines_post :
    postFacts (posted (desc 5 0 0 0 0 [inStack 8 64 16, inStack 8 64 16])) = (0, 1, 0) ∧
    postFacts (posted (desc 0 0 0 0 0 [])) = (0, 1, 0x0604) ∧
    (postFacts (posted (desc 5 1 0 0 0 []))).2.1 = 2 ∧ (postFacts (posted (desc 5 0x7FFFFFFE 0 0 0 []))).2.1 = 2 ^ 31 - 1 ∧
    (postFacts (posted (desc 5 0x7FFFFFFF 0 0 0 []))).2.1 = 2 ^ 31 ∧
    (postFacts (having up [(R.WE_QSTAT_SEQ, 0)])).2.1 = 0 ∧
    (posted (desc 5 0 0 0 0 [])).weState 0 = 0 ∧ (weState .reset 4 []).weState 0 = 4 ∧ (weState .reset 5 []).weState 0 = 5 := by
  decide +kernel

theorem witness_WaysideEngines_commitPost :
    let s := { posted (desc 0x10 (2 ^ 44) 0 1 0 [inStack 8 8 1, inStack 8 8 1, inStack 8 4 1]) with job := { Job.none with active := true } }
    postFacts s = (0, 1, 0) ∧ dCommit ((List.range 32).map fun k => (s.csrGet (R.WE_POST + mdOff 0 + 8 * k)).toNat) = true := by decide +kernel

theorem witness_WaysideEngines_ends :
    (∃ s : State, (s.weng 0).run = some ⟨[], none⟩) ∧ (∃ s : State, (s.weng 0).run = some ⟨[], some (0x0610, 0)⟩) ∧
    (let d := desc 1 0 (2 ^ 43) 0 0 []
     let s := weState ⟨[d], none, [], none, false, false⟩ 2 [(R.CTR_BROKEN, 1)]
     (s.weng 0).run = none ∧ (s.weng 0).queue = [d] ∧ s.weState 0 = 2 ∧ dTrigIn d = true ∧
       s.flag (R.CTR_BROKEN.at (ctrOff 0 (nbits (dWord d 1) 63 54))) = true) :=
  ⟨⟨weState { We.reset with run := some ⟨[], none⟩ } 1 [], by rfl⟩,
    ⟨weState { We.reset with run := some ⟨[], some (0x0610, 0)⟩ } 1 [], by rfl⟩, by decide +kernel⟩

/-- A commit action of epoch 1 on operands of one element. -/
def act (op : Nat) : WeAct := ⟨desc op (2 ^ 44) 0 1 0 [inStack 8 8 1, inStack 8 8 1, inStack 8 8 1, inStack 8 4 1], false⟩

theorem witness_CommitActions :
    (let w : We := { We.reset with owed := some 1 }
     let s := weState w 0 []
     (s.weng 0).owed = some 1 ∧ w.stuck = false ∧ w.run = none ∧ s.weState 0 ≠ 5 ∧ s.weState 0 ≠ 3 ∧ s.dom.worksRst = false) ∧
    (let w : We := { We.reset with owed := some 1 }
     (weState w 3 []).weState 0 = 3 ∧ w.nextAct 1 = none) ∧
    dSub (desc 0x10 0 0 0 0 []) = 0 := by decide +kernel

theorem witness_CommitActions_run : ∀ op : Fin 2, ∀ bad : Bool, (
    let w : We := { We.reset with owed := some 1, acts := [act (op.val + 0x10)] }
    let s : State := { weState w 3 [] with flips := if bad then [(0x1000, 3)] else [] }
    s.weState 0 == 3 && w.nextAct 1 == some (0, (act (op.val + 0x10)).desc) && dOp (act (op.val + 0x10)).desc == op.val + 0x10
      && okB (s.weOpt 0 (act (op.val + 0x10)).desc 1) == !bad) = true := by decide +kernel

theorem witness_EccGuarantees : ∃ j k l : Nat, j < 13 ∧ k < 13 ∧ l < 13 ∧ j ≠ k ∧ j ≠ l ∧ k ≠ l := ⟨0, 12, 11, by decide⟩

theorem witness_ErasureMask : ∃ k die : Nat, k < 13 ∧ die < 16 := ⟨12, 15, by decide⟩

/-- Device 0's channels are up and two of its dies are marked. -/
def marked : State := having up [(R.DIE_MARK_MARKED, 3)]

theorem witness_MemoryReadAfterWrite :
    marked.Canon ∧ (0 : Nat) < rsvBase ∧ (marked.metaHeld 0).reg = false ∧ marked.chDead 0 = false ∧
    (maskPositions (marked.maskAt 0)).length ≤ 2 ∧ eccDecode (marked.word13 0) (marked.maskAt 0) = .clean 0xAA ∧
    eccDecode (marked.word13 (2 ^ 28)) (marked.maskAt (2 ^ 28)) = .clean 0 :=
  ⟨canon_of (by decide), by decide, by decide, by decide, by decide, by decide, by decide⟩

/-- A registered region of one unit at 0, its shadow at 4096. -/
def region : State := { up with regions := vput up.regions 0 (some ⟨0, 4096, 4096⟩) }

theorem witness_CommitViews : ∃ (g : Region) (m : UnitMeta) (a : Nat), region.Canon ∧ m.reg = true ∧
    vget none region.regions m.region = some g ∧ g.base % 4096 = 0 ∧ g.shadow % 4096 = 0 ∧ g.len % 4096 = 0 ∧ g.base ≤ a ∧
    a < g.base + g.len ∧ (g.base + g.len ≤ g.shadow ∨ g.shadow + g.len ≤ g.base) ∧ g.base + g.len ≤ rsvBase ∧
    g.shadow + g.len ≤ rsvBase ∧ m.tag ≤ region.epochC + 1 ∧
    (∀ x, x / 4096 = a / 4096 → region.unitMeta x = m ∧ region.metaFlipped x = false) := by
  refine ⟨⟨0, 4096, 4096⟩, ⟨true, 0, false, 0⟩, 4095, canon_of (by decide), rfl, by decide, by decide, by decide, by decide, by decide,
    by decide, by decide, by decide, by decide, Nat.zero_le _, ?_⟩
  intro x h
  have hx : x < 4096 := by omega
  have hm : region.metaHeld x = ⟨true, 0, false, 0⟩ := by
    simp [State.metaHeld, State.regionOf, region, up, State.reset, tget, metaDflt, UnitMeta.none, vput, Vector.toList_set,
      List.findIdx?_cons, hx]
  have hf : region.metaFlipped x = false := by
    have : region.flips = [] := rfl
    simp [State.metaFlipped, this, tget, flipDflt]
  exact ⟨by simp [State.unitMeta, hf, hm], hf⟩

theorem witness_MemoryDevices :
    up.dom.worksRst = false ∧ nbit (marked.fget (R.MD_STATUS_CH_UP.at (mdOff 0))) 3 = 1 ∧
    (let s : State := { marked with md := vput marked.md 0 { Md.reset with burst := .replicate 4 7 } }
     8 ≤ vget 0 (s.mdev 0).burst 3 + 1 ∧ vget 0 (s.mdev 0).burst 3 < 8) ∧
    up.fget (R.ECC_BUCKET_LEVEL.at (mdOff 0)) < up.od D.ECC_BUCKET_CAP ∧
    (having up [(⟨R.TSENSE + 8 * 56, 0, 64⟩, 2 ^ R.TSENSE_VALID.lo + 850 * 2 ^ R.TSENSE_TEMP.lo)]).hottest
      ((List.range 16).map fun k => 56 + 17 * 0 + k) = some 850 := by decide +kernel

theorem witness_MemoryDevices_buckets : ∀ full : Bool, ∀ less ∈ [0, 1, 2],
    let cap := up.od D.ECC_BUCKET_CAP
    let s : State := { having up [(R.ECC_BUCKET_LEVEL, cap - less)] with ceFull := vput up.ceFull (ceSlot 0x0200) full }
    let level := s.fget (R.ECC_BUCKET_LEVEL.at (mdOff 0))
    vget false s.ceFull (ceSlot 0x0200) = full ∧ (level < s.od D.ECC_BUCKET_CAP ↔ less ≠ 0) ∧
      (level + 1 < s.od D.ECC_BUCKET_CAP ↔ less = 2) := by decide +kernel

/-- Device 0 with a scrub. -/
def scrubbing (u : Scrub) (l : List (Fld × Nat)) : State :=
  let s := having up l
  { s with md := vput s.md 0 { Md.reset with scrub := u } }

theorem witness_Scrubbing_go :
    (scrubbing .idle []).partyUp .node = true ∧ (scrubbing .idle []).accessStatus (R.SCRUB_CTL + mdOff 0) = 0 ∧ ((scrubbing .idle []).mdev 0).scrub.running = false ∧
    (scrubbing .idle []).flag R.BOOT_STATUS_BG_RUN = false ∧ (scrubbing .idle [(R.BOOT_STATUS_BG_RUN, 1)]).flag R.BOOT_STATUS_BG_RUN = true ∧
    nbits (200 * 2 ^ 32 + 1) 39 32 = 200 ∧ nbits (200 * 2 ^ 32 + 1) 3 0 = 1 ∧
    (scrubbing .idle [(R.SCRUB_LEN_LEN, 16)]).fget (R.SCRUB_LEN_LEN.at (mdOff 0)) = 16 ∧
    (scrubbing .idle [(R.SCRUB_LEN_LEN, 8)]).fget (R.SCRUB_LEN_LEN.at (mdOff 0)) = 8 := by decide +kernel

theorem witness_Scrubbing_group :
    let u : Scrub := { Scrub.idle with running := true, len := 16 }
    let s := scrubbing u []
    ((s.mdev 0).scrub = u ∧ s.Canon ∧ s.dom.worksRst = false ∧ u.stop = false ∧ u.next < u.base + u.len ∧ u.byCmd = false) ∧
    (∀ i, i < 16 → ∃ b, eccDecode (s.word13 (scrubAddr 0 u.sram u.next + i)) (s.maskAt (scrubAddr 0 u.sram u.next + i)) = .clean b) := by
  refine ⟨⟨by decide +kernel, canon_of (by decide +kernel), by decide, by decide, by decide, by decide⟩, ?_⟩
  have h : ∀ i : Fin 16, (match eccDecode ((scrubbing { Scrub.idle with running := true, len := 16 } []).word13 (scrubAddr 0 false 0 + i))
      ((scrubbing { Scrub.idle with running := true, len := 16 } []).maskAt (scrubAddr 0 false 0 + i)) with
    | .clean _ => true
    | _ => false) = true := by decide +kernel
  intro i hi
  have g := h ⟨i, hi⟩
  split at g
  · exact ⟨_, by assumption⟩
  · simp at g

theorem witness_Scrubbing_done :
    (let u : Scrub := { Scrub.idle with running := true, len := 16, next := 16 }
     u.base + u.len ≤ u.next ∧ ((scrubbing u []).mdev 0).scrub.running = true) ∧
    (let u : Scrub := { Scrub.idle with running := true, len := 16, next := 15, stop := true }
     u.stop = true ∧ u.next < u.base + u.len ∧ ((scrubbing u []).mdev 0).scrub.byCmd = false) := by decide +kernel

/-! ## The Dwente port -/

/-- A lane in a state, with the lane's data and further registers. -/
def laneIn (l st : Nat) (x : DwLane := .reset) (r : List (Fld × Nat) := []) : State :=
  let s := having up ((R.DW_LANE_STATUS_STATE.at (laneOff l), st) :: r)
  { s with dw := { s.dw with lanes := vput s.dw.lanes l x } }

/-- A flit with a good CRC. -/
def flit (type cls len : Nat) (body : List Byte) (seq : Nat := 0) : FlitIn :=
  ⟨flitBits ⟨type, cls, true, 0, len, body, none⟩ seq 0xFFF 0 0, false⟩

/-- A lane with receive credits. -/
def credited : DwLane := { DwLane.reset with rxCred := .replicate 4 16 }

theorem witness_DwenteLanes : ∀ l : Fin 2, (
    let s := laneIn l 1
    !s.dom.lineRst && s.laneEn l && s.laneState l == 1 && (laneIn l 2).laneState l == 2 && (laneIn l 5).laneState l == 5
      && s.accessStatus R.DW_CTL == 0 && (laneIn l 4 { DwLane.reset with badRun := 8 }).laneLocked l
      && ((laneIn l 4 { DwLane.reset with badRun := 8 }).lane l).badRun == 8
      && (laneIn l 3).laneState l == 3 && (laneIn l 3).laneEn l && !((laneIn l 3).lane l).ackRx) = true := by decide +kernel

/-- Codewords under a sync pattern and counts; they carry zeros. -/
def words (sync : Nat) (l : List Nat) : List (BitVec 5440) := l.map fun k => cwOf (sync * 2 ^ 12 + k) 0

/-- A word that lies further than 15 symbols from every codeword. -/
def badWord : BitVec 5440 :=
  BitVec.ofNat 5440 (0x93e1105f916a0f97b370b6279281c7c1652520152d140fafc70040000000000000000000000 * 2 ^ 5140)

theorem witness_DwenteLanes_lock :
    (cwTags 0xB4 (words 0xB4 [0x7FF, 0])).map countsRun = some true ∧ (cwTags 0xB4 (words 0xB4 [0, 2])).map countsRun = some false ∧
    cwTags 0xB4 (words 0x96 [0]) = none := by decide +kernel

/-- One flipped bit is corrected and counted. -/
theorem test_cwTag_corrected : cwTag 0xB4 (cwOf (0xB4 * 2 ^ 12 + 5) 0 ^^^ (1#5440 <<< 500)) = some (0xB4005, true) := by decide +kernel

theorem witness_DwenteLanes_bad :
    rsDecode badWord = none ∧ rsDecode 0 = some (0, false) ∧ rsDecode (1#5440 <<< 500) = some (0, true) ∧ nbits 0 19 12 ≠ 0xB4 ∧
    (let s := laneIn 0 4 { DwLane.reset with badRun := 9 }
     let t := s.bump (R.DW_LANE_EVENTS_UNCORR_CW.at (laneOff 0)) (R.DW_LANE_FLAGS_UNCORR_OVF.at (laneOff 0)) 1
     s.laneLocked 0 = true ∧ 9 ≤ (s.lane 0).badRun ∧ t.laneState 0 = s.laneState 0) := by decide +kernel

/-- FRESH before lock, INIT with and without one in the replay buffer. -/
theorem witness_DwenteLanes_init : ∀ l : Fin 2, (
    let mine := fun (e : Nat × OutFlit) => e.2.type == 0xB && e.2.body.head? == some (BitVec.ofNat 8 1)
    let s := laneIn l 1
    let t := laneIn l 1 { DwLane.reset with replay := [(7, s.initFlit l 1)] }
    s.laneState l < 2 && s.partyUp .node && (s.lane l).replay.find? mine == none
      && (t.lane l).replay.find? mine == some (7, s.initFlit l 1)) = true := by decide +kernel

/-- A LINK flit of a subtype for lane 0. -/
def linkIn (sub ver : Nat) (rest : List Byte) : FlitIn := flit 0xB 0 28 ([BitVec.ofNat 8 sub, 0] ++ leBytes 2 ver ++ rest)

set_option maxRecDepth 100000 in
theorem witness_DwenteLinkFlits_init :
    let f := linkIn 1 1 []
    let s := laneIn 0 3
    let r := laneIn 0 3 { DwLane.reset with inits := some (0, 0), askFresh := false }
    let t := fun (s : State) => s.fset R.DW_PARTNER_NODE_ID (bodyNat f 8 8)
    (s.linkOk 0 f 1 = true ∧ s.laneState 0 ≠ 5 ∧ s.laneState 0 ≠ 4 ∧ holdCause 0 f = 0 ∧ (s.lane 0).initRx = false) ∧
    ((t r).laneState 0 = r.laneState 0 ∧ (t r).resumes 0 f = true) ∧
    ((t s).laneState 0 = s.laneState 0 ∧ (t s).resumes 0 f = false ∧ (s.lane 0).inits = none) ∧
    (s.initSeq 0 f).laneState 0 = s.laneState 0 := by decide +kernel

set_option maxRecDepth 100000 in
theorem witness_DwenteLinkFlits_again : ∀ same : Bool,
    let f := linkIn 1 1 []
    let s := laneIn 0 3 { DwLane.reset with initRx := true, partnerInc := if same then 0 else 7 }
    let u := laneIn 0 4 { DwLane.reset with inits := some (0, 0), initRx := true }
    s.linkOk 0 f 1 = true ∧ s.laneState 0 ≠ 5 ∧ holdCause 0 f = 0 ∧ (s.initSeq 0 f).laneState 0 = 3 ∧ s.laneState 0 = 3 ∧
    (s.lane 0).initRx = true ∧ ((s.lane 0).partnerInc = bodyNat f 4 4 ↔ same = true) ∧
    (u.linkOk 0 f 1 = true ∧ u.laneState 0 = 4 ∧ (u.lane 0).inits = some ((u.lane 0).ownInc, bodyNat f 4 4) ∧ nbit (bodyNat f 18 1) 0 = 0) := by
  decide +kernel

set_option maxRecDepth 100000 in
theorem witness_DwenteLinkFlits_other :
    let s := laneIn 0 3
    let u := laneIn 0 4 credited
    (s.linkOk 0 (linkIn 2 1 []) 2 = true ∧ holdCause 0 (linkIn 2 1 []) = 0) ∧
    (s.linkOk 0 (linkIn 1 2 []) 1 = true ∧ s.laneState 0 ≠ 5 ∧ holdCause 0 (linkIn 1 2 []) ≠ 0) ∧
    (u.linkOk 0 (linkIn 3 0 []) 3 = true ∧ (u.rxFlit 0 (linkIn 3 0 []) (· == 0xB)).1 = true ∧
      (u.rxFlit 0 (linkIn 3 0 []) (· == 0xB)).2.laneState 0 = 4) ∧
    (u.linkOk 0 (linkIn 4 0 []) 4 = true ∧ (u.rxFlit 0 (linkIn 4 0 []) (· == 0xB)).1 = true) ∧
    (u.laneLocked 0 = true ∧ crcGood (flit 0 0 0 []) = true ∧ fType (flit 0 0 0 []) = 0 ∧ flitBad 0 (flit 0 0 0 []) = false) := by
  decide +kernel

set_option maxRecDepth 100000 in
theorem witness_DwenteLinkFlits_retry : ∀ many : Bool, (
    let o : OutFlit := ⟨0xB, 0, true, 0, 28, [], none⟩
    let s := laneIn 0 4 { credited with replay := [(0, o)], resendQ := [(0, o)], resent := [(0, if many then 8 else 7)] }
    let f := linkIn 3 0 []
    let t := (s.rxFlit 0 f (· == 0xB)).2
    let e := bodyNat f 4 2 % 0x1000
    let y := (t.resendFrom 0 ((e + 0xFFF) % 0x1000)).lane 0
    s.linkOk 0 f 3 && (s.rxFlit 0 f (· == 0xB)).1 && t.laneState 0 == 4 && (s.lane 0).resendQ == [(0, o)] && y.resendQ == [(0, o)]
      && y.resendQ.any (fun q => 8 ≤ timesResent y.resent q.1) == many) = true := by decide +kernel

set_option maxRecDepth 100000 in
theorem witness_DwenteLinkFlits_held :
    (laneIn 0 5).linkOk 0 (linkIn 1 1 []) 1 = true ∧ (laneIn 0 5).linkOk 0 (linkIn 2 1 []) 2 = true ∧ (laneIn 0 5).laneState 0 = 5 := by
  decide +kernel

/-- Lane SL is UP, with block credits both ways. -/
def streaming : State := laneIn 1 4 credited [(R.DW_LANE_CREDIT_TX0.at (laneOff 1), 1)]

/-- A block that is being received, or waits. -/
def block (last : Bool) : SlBlock := ⟨spBase, 52, last, 7, 0, List.replicate 52 0⟩

set_option maxRecDepth 100000 in
theorem witness_StreamLane_hdr : ∀ n : Fin 2, (
    let f := flit 0xC 0 20 (leBytes 8 spBase ++ leBytes 2 (if n = 0 then 1 else 4096) ++ [0, 0] ++ leBytes 8 7)
    let t := (streaming.rxFlit 1 f (· == 0xC)).2
    (streaming.rxFlit 1 f (· == 0xC)).1 && nbit (bodyNat f 11 1) 1 == 0 && bodyNat f 8 2 == (if n = 0 then 1 else 4096)
      && t.dw.rxBlock.isNone && vget 0 (t.lane 1).rxCred 0 != 0) = true := by decide +kernel

set_option maxRecDepth 100000 in
theorem witness_StreamLane_data :
    let f := flit 0xD 0 52 (List.replicate 52 9)
    let s : State := { streaming with dw := { streaming.dw with rxBlock := some { block true with data := [] } } }
    (s.rxFlit 1 f (· == 0xD)).1 = true ∧ (s.rxFlit 1 f (· == 0xD)).2.dw.rxBlock = some { block true with data := [] } := by decide +kernel

set_option maxRecDepth 100000 in
theorem witness_StreamLane_written : ∀ last : Bool, (
    let w : SlWrite := ⟨7, 0, none⟩
    let s : State := { having streaming [(R.LMAP_VALID, 1)] with dw := { streaming.dw with writes := [w], blocks := [block last] } }
    let u : State := { s with dw := { s.dw with blocks := s.dw.blocks.filter (fun c => !(c.xfer == w.xfer && c.block == w.next)) } }
    s.dw.writes == [w] && s.dw.blocks.find? (fun b => b.xfer == w.xfer && b.block == w.next) == some (block last)
      && u.slStatus (block last).addr (block last).blen == 0) = true := by decide +kernel

set_option maxRecDepth 100000 in
theorem witness_StreamLane_rdreq : ∀ n : Fin 4, (
    let len := if n = 0 then 0 else if n = 1 then 2 ^ 30 + 1 else if n = 2 then 1 else 2 ^ 30
    let f := flit 0xE 0 24 (leBytes 8 spBase ++ leBytes 8 0 ++ leBytes 4 len ++ leBytes 4 7)
    (streaming.rxFlit 1 f (· == 0xE)).1 && bodyNat f 16 4 == len && (streaming.rxFlit 1 f (· == 0xE)).2.dw.reads.countP (·.window.isNone) == 0) = true := by
  decide +kernel

set_option maxRecDepth 100000 in
theorem witness_StreamLane_read : ∀ ok : Bool, (
    let r : SlRead := ⟨if ok then spBase else 2 ^ 51, 0, 64, 7, 0, none, []⟩
    let s : State := { having streaming [(R.LMAP_VALID, 1)] with dw := { streaming.dw with reads := [r] } }
    s.dw.reads == [r] && s.laneState 1 == 4 && s.fget (txCredit 1 0) != 0 && okB (s.slBlock r (min 4096 (r.len - r.done))) == ok) = true := by
  decide +kernel

/-! ## Registers and the control lane -/

theorem witness_RegisterWrites :
    up.partyUp .node = true ∧ (∃ r, up.regAt R.TILE_TRAP 8 = .ok r ∧ r.base = R.TILE_TRAP) ∧ (∃ r, up.regAt (R.TILE_TRAP + 4) 4 = .ok r) ∧
    up.regAt 0xFFFFFFF8 8 = .error 1 ∧ State.reset.regAt R.TILE_TRAP 8 = .error 2 := by
  refine ⟨by decide, ?_, ?_, by decide +kernel, by decide +kernel⟩
  · have h : (match up.regAt R.TILE_TRAP 8 with | .ok r => r.base == R.TILE_TRAP | _ => false) = true := by decide +kernel
    split at h
    · exact ⟨_, by assumption, by simpa using h⟩
    · simp at h
  · have h : (match up.regAt (R.TILE_TRAP + 4) 4 with | .ok _ => true | _ => false) = true := by decide +kernel
    split at h
    · exact ⟨_, by assumption⟩
    · simp at h

theorem witness_RegisterWrites_cut :
    (having up [(R.RC_STATUS_STATE_A, 5)]).partyUp .rcA = false ∧ State.reset.partyUp .rcB = false ∧
    (let s := having up [(R.RC_STATUS_STATE_A, 4), (R.RC_STATUS_STATE_B, 3)]
     s.partyUp .rcB = true ∧ (match s.regAt R.MQ_STATUS 8 with | .ok r => r.base == R.MQ_STATUS | _ => false) = true ∧
       s.mqSends 0 .rcB = false ∧ s.mqReceives 0 .rcB = false ∧ s.mqSends 0 .node = true) := by decide +kernel

theorem witness_RegisterReads : (∃ r, up.regAt R.CSR_REFUSE_EVENTS 8 = .ok r ∧ accBits r (· == .rc) ≠ 0) ∧
    (∃ r, up.regAt R.CSR_REFUSE 8 = .ok r ∧ accBits r (· == .rc) = 0) := by
  have h : (match up.regAt R.CSR_REFUSE_EVENTS 8, up.regAt R.CSR_REFUSE 8 with
    | .ok r, .ok q => accBits r (· == .rc) != 0 && accBits q (· == .rc) == 0
    | _, _ => false) = true := by decide +kernel
  split at h
  · rename_i r q hr hq
    simp only [Bool.and_eq_true, bne_iff_ne, beq_iff_eq] at h
    exact ⟨⟨r, hr, h.1⟩, ⟨q, hq, h.2⟩⟩
  · simp at h

theorem witness_RegisterReads_source : ∃ r, up.regAt (R.IL_BUCKET + 8 * 5) 8 = .ok r ∧ r.base = R.IL_BUCKET := by
  have h : (match up.regAt (R.IL_BUCKET + 8 * 5) 8 with
    | .ok r => r.base == R.IL_BUCKET
    | _ => false) = true := by decide +kernel
  split at h
  · rename_i r hr
    exact ⟨r, hr, by simpa using h⟩
  · simp at h

theorem witness_RegisterReads_bucket : (∃ r, up.regAt (R.ECC_BUCKET + mdOff 7) 8 = .ok r ∧ r.base = R.ECC_BUCKET) ∧
    (∃ r, up.regAt (R.SP_BUCKET + dieOff 3) 8 = .ok r ∧ r.base = R.SP_BUCKET) := by
  have h : (match up.regAt (R.ECC_BUCKET + mdOff 7) 8, up.regAt (R.SP_BUCKET + dieOff 3) 8 with
    | .ok r, .ok q => r.base == R.ECC_BUCKET && q.base == R.SP_BUCKET
    | _, _ => false) = true := by decide +kernel
  split at h
  · rename_i r q hr hq
    simp only [Bool.and_eq_true, beq_iff_eq] at h
    exact ⟨⟨r, hr, h.1⟩, ⟨q, hq, h.2⟩⟩
  · simp at h

/-- Does lane CL, UP and with credits, deliver a flit of its type, and to which state? -/
def arrives (s : State) (f : FlitIn) : Bool := (s.rxFlit 0 f (· == fType f)).1

/-- Does the flit complete a message of one flit? -/
def whole (s : State) (f : FlitIn) : Bool :=
  match (s.rxFlit 0 f (· == fType f)).2.gather f with
  | (some m, _) => m.flits == 1
  | (none, _) => false

/-- Lane CL is UP, with credits. -/
def control : State := laneIn 0 4 credited

set_option maxRecDepth 100000 in
/-- A flit that begins a message of several leaves the message open; one of two flits that is malformed is refused. -/
theorem witness_DwenteRequests_gather :
    (let f : FlitIn := ⟨flitBits ⟨1, 1, false, 0, 9, [], none⟩ 0 0xFFF 0 0, false⟩
     arrives control f = true ∧ ((control.rxFlit 0 f (· == 1)).2.gather f).1 = none) ∧
    (let f := flit 1 1 9 []
     let s : State := { control with dw := { control.dw with rxMsg := vput control.dw.rxMsg 1 (some ⟨1, 0, [], 1, false, none⟩) } }
     arrives s f = true ∧ ((s.rxFlit 0 f (· == 1)).2.gather f).1.map (·.flits) = some 2) := by decide +kernel

set_option maxRecDepth 100000 in
theorem witness_DwenteRequests_csr :
    (let f := flit 1 1 9 (leBytes 8 (csrBase + R.RTIME) ++ [8])
     arrives control f = true ∧ whole control f = true ∧ fType f = 1 ∧ fLen f = 9 ∧ csrSize f = 8 ∧ csrPlace f ≠ 2 ^ 64) ∧
    (let f := flit 1 1 9 (leBytes 8 (csrBase + R.RTIME) ++ [5])
     arrives control f = true ∧ whole control f = true ∧ csrSize f ≠ 4 ∧ csrSize f ≠ 8) ∧
    (let f := flit 2 1 24 (leBytes 8 (csrBase + R.DW_CTL) ++ [8])
     arrives control f = true ∧ whole control f = true ∧ csrPlace f = R.DW_CTL ∧ bodyNat f 16 8 = 0) ∧
    (let f := flit 2 1 24 (leBytes 8 (csrBase + R.DB_MASK) ++ [4])
     arrives control f = true ∧ whole control f = true ∧ fType f = 2 ∧ fLen f = 24 ∧ csrSize f = 4 ∧ csrPlace f ≠ 2 ^ 64 ∧
       csrPlace f ≠ R.DW_CTL) := by decide +kernel

set_option maxRecDepth 100000 in
theorem witness_DwenteRequests_posted :
    let down : State := { control with dom := { control.dom with worksRst := true } }
    (let f := flit 4 1 48 [7, 5]
     (arrives control f = true ∧ arrives down f = true) ∧ whole control f = true ∧ fType f = 4 ∧ bodyNat f 0 1 = 7 ∧ bodyNat f 1 1 = 5 ∧
       8 + 8 * 5 ≤ fLen f) ∧
    (let f := flit 5 1 8 [63]; arrives control f = true ∧ whole control f = true ∧ fType f = 5 ∧ bodyNat f 0 1 = 63 ∧ fLen f = 8) := by decide +kernel

set_option maxRecDepth 100000 in
theorem witness_DwenteRequests_window : ∀ n : Fin 2, (
    let f := flit 8 1 10 (leBytes 8 0 ++ leBytes 2 (if n = 0 then 1 else 4096))
    arrives control f && whole control f && fType f == 8 && fLen f == 10 && bodyNat f 8 2 == if n = 0 then 1 else 4096) = true := by decide +kernel

/-! ## Reading memory without errors -/

/-- The cells that hold a list of bytes from an address. -/
def placed (a : Nat) : List Byte → Tab Byte
  | [] => []
  | b :: t => if b = memDflt a then placed (a + 1) t else (a, b) :: placed (a + 1) t

theorem placed_get (l : List Byte) : ∀ a x, tget memDflt (placed a l) x = if a ≤ x then l.getD (x - a) (memDflt x) else memDflt x := by
  induction l with
  | nil => intro a x; simp [placed, tget]
  | cons b t ih =>
    intro a x
    by_cases hb : b = memDflt a
    · simp only [placed, hb, if_true, ih]
      by_cases h1 : a + 1 ≤ x
      · have h2 : x - a = (x - (a + 1)) + 1 := by omega
        rw [if_pos h1, if_pos (by omega), h2]; simp
      · by_cases h2 : x = a
        · subst h2; simp [hb]
        · rw [if_neg h1, if_neg (by omega)]
    · simp only [placed, hb, if_false, tget]
      by_cases h2 : x = a
      · subst h2; simp
      · rw [if_neg h2, ih]
        by_cases h1 : a + 1 ≤ x
        · have h3 : x - a = (x - (a + 1)) + 1 := by omega
          rw [if_pos h1, if_pos (by omega), h3]; simp
        · rw [if_neg h1, if_neg (by omega)]

/-- Memory of device 0 without errors, marks or regions. -/
structure Plain (s : State) : Prop where
  flips : s.flips = []
  umeta : s.umeta = []
  regions : s.regions = .replicate 64 none
  marks : s.fget (R.DIE_MARK_MARKED.at (mdOff 0)) = 0
  up : s.fget (R.MD_STATUS_CH_UP.at (mdOff 0)) = 15
  repair : (vget .reset s.md 0).repair = []

theorem eccDecode_encode : ∀ b : Byte, eccDecode (eccEncode b) 0 = .clean b := by decide +kernel

theorem eraseMask_zero : ∀ o, eraseMask 0 o = 0 := by
  intro o; simp [eraseMask, nbit]

theorem meta_plain {s : State} (h : Plain s) (x : Nat) : s.metaHeld x = .none ∧ s.metaFlipped x = false := by
  have : s.regionOf x = none := by
    unfold State.regionOf; rw [h.regions]; simp
  have hh : s.metaHeld x = .none := by simp [State.metaHeld, h.umeta, tget, metaDflt, UnitMeta.none, this]
  exact ⟨hh, by simp [State.metaFlipped, hh, UnitMeta.none]⟩

theorem readWork_plain {s : State} (h : Plain s) (rq : Rq) {x : Nat} (hx : x < mdSize) : s.readWork rq x = (some (s.cell x), s) := by
  have hl : locOf x = .md 0 x := by
    unfold locOf; unfold mdSize at hx ⊢; rw [if_pos (by omega), Nat.div_eq_of_lt hx, Nat.mod_eq_of_lt hx]
  have hw : s.workAddr x = x := by
    obtain ⟨hh, hf⟩ := meta_plain h x
    simp [State.workAddr, State.unitMeta, hf, hh, UnitMeta.none]
  have hm : s.maskAt x = 0 := by simp only [State.maskAt, hl]; rw [h.marks]; exact eraseMask_zero _
  have hd : s.chDead x = false := by
    simp only [State.chDead, hl, State.channelFor, h.up]
    have h4 : ∀ m k : Fin 4, nbit 15 ((m.val + k.val) % 4) = 1 := by decide
    have h0 : (x / 256 + 0) % 4 = (x / 256 % 4 + 0) % 4 := by omega
    have := h4 ⟨x / 256 % 4, Nat.mod_lt _ (by decide)⟩ 0
    simp only [List.range_succ_eq_map, List.map_cons, List.find?_cons, h0]
    simp_all
  have h13 : s.word13 x = eccEncode (s.cell x) := by simp [State.word13, State.flip, h.flips, tget, flipDflt]
  simp only [State.readWork, State.metaRead, (meta_plain h x).2, hw, Bool.false_eq_true, if_false, if_true]
  simp only [State.readCell, State.decodeAt, hm, hd, h13, eccDecode_encode]
  simp

theorem readUntil_plain {s : State} (h : Plain s) (rq : Rq) : ∀ n a, a + n ≤ mdSize →
    s.readUntil rq a n = (.ok ((List.range n).map fun i => s.cell (a + i)), s) := by
  intro n
  induction n with
  | zero => intro a _; rfl
  | succ n ih =>
    intro a ha
    simp only [State.readUntil]
    rw [readWork_plain h rq (by omega)]
    simp only [ih (a + 1) (by omega)]
    rw [List.range_succ_eq_map]
    simp [Nat.add_assoc, Nat.add_comm 1]

theorem memRead_placed {s : State} {l : List Byte} {a : Nat} (h : Plain s) (hm : s.mem = placed a l) (rq : Rq)
    (hs : s.memStatus a l.length = 0) (ha : a + l.length ≤ mdSize) : s.memRead rq a l.length = (.ok l, s) := by
  simp only [State.memRead, hs, readUntil_plain h rq _ _ ha]
  congr 2
  apply List.ext_getElem
  · simp
  · intro i h1 h2
    have hl : locOf (a + i) = .md 0 (a + i) := by
      unfold locOf; unfold mdSize at ha ⊢; rw [if_pos (by omega), Nat.div_eq_of_lt (by omega), Nat.mod_eq_of_lt (by omega)]
    have hsl : s.slot (a + i) = a + i := by simp [State.slot, hl, State.spareOf, h.repair]
    simp [State.cell, hsl, hm, placed_get, h2]

/-! ## Rings, jobs and epochs -/

/-- Controller RC-A serves; ring 0 is enabled and periodic, and its batch holds the one entry `w`. -/
def ringed (w : List Nat) (r : List (Fld × Nat) := []) (job : Job := .none) : State :=
  let s := having up ([(R.RC_STATUS_STATE_A, 4), (⟨R.RING_CFG, 0, 64⟩, 3), (R.DIE_MARK_MARKED, 0), (R.MD_STATUS_CH_UP, 15)] ++ r)
  { s with
    boot := { s.boot with stage := 5 }, job := job
    rings := vput s.rings 0 { Ring.reset with cur := some ⟨0, [(0, w)], 0⟩ } }

/-- Does ring 0 start its head, of operation `op`? -/
def starts (s : State) (op : Nat) (w : List Nat) : Bool :=
  s.pick == some 0 && s.ringHead 0 == some (0, some w) && s.periodic 0 && eOp w == op && s.gate 0 (some w) == .run

theorem starts_of {s : State} {op : Nat} {w : List Nat} (h : starts s op w = true) : StartsHead s (s.claim 0 0 w) 0 op w := by
  simp only [starts, Bool.and_eq_true, beq_iff_eq] at h
  obtain ⟨⟨⟨⟨h1, h2⟩, h3⟩, h4⟩, h5⟩ := h
  exact ⟨h1, ⟨0, h2, by simp [h3]⟩, h4, h5⟩

/-- An entry: the opcode, and words 1 to 4. -/
def entry (op a b c d : Nat) : List Nat := [op * 2 ^ 56, a, b, c, d, 0, 0, 0]

theorem witness_RingCommands_simple :
    (∀ op ∈ [0, 4, 0x38, 0x3F], (let w := entry op (if op = 0x38 then 2 ^ 56 else 0) 0 0 0; starts (ringed w) op w) = true) ∧
    (let w := entry 2 0 0 0 0; starts (ringed w [] oneJob) 2 w) = true ∧
    (let w := entry 3 0 16 0 0
     starts (ringed w) 3 w = true ∧ okB (((ringed w).claim 0 0 w).memRead ((ringed w).claim 0 0 w).rqRc 0 16) = true) ∧
    (let w := entry 0x30 0 0 16 0
     let t := (ringed w).claim 0 0 w
     starts (ringed w) 0x30 w = true ∧ (t.scrubStart 0 false 0 16 0 (some 0) false).1 = 0) ∧
    (let w := entry 0x30 0 0 8 0
     let t := (ringed w).claim 0 0 w
     starts (ringed w) 0x30 w = true ∧ (t.scrubStart 0 false 0 8 0 (some 0) false).1 = 0x0702) := by decide +kernel

/-- Zero bytes. -/
def zeros (n : Nat) : List Byte := List.replicate n 0

/-- A job descriptor (R220) up to its CRC: one package, one range of main memory, one region, one window; and what follows the CRC. -/
def jobFront : List Byte :=
  leBytes 4 1 ++ leBytes 2 1 ++ leBytes 2 0 ++ leBytes 8 5 ++ leBytes 4 1 ++ leBytes 2 1 ++ leBytes 2 0 ++ leBytes 2 1 ++ leBytes 2 1
def jobBack : List Byte :=
  zeros 0x20 ++ leBytes 8 0 ++ leBytes 8 0x100000 ++ zeros (0x1C0 - 0x50) ++ leBytes 2 0x10 ++ zeros (0x280 - 0x1C2)

/-- The descriptor with its group table, in which every group is empty. -/
def jobBytes : List Byte :=
  jobFront ++ leBytes 4 (crc32c (jobFront ++ zeros 4 ++ jobBack)).toNat ++ jobBack
    ++ (List.replicate 256 (zeros 28 ++ leBytes 4 (crc32c (zeros 28)).toNat)).flatten

/-- Ring 0 at a JOB_LAUNCH of the descriptor at address `a`, for tray 0. -/
def launching (a : Nat) (l : List Byte) : State := { ringed (entry 1 a 0 0 0) with mem := placed a l, dict := [(D.TRAY_NO, 0)] }

set_option maxRecDepth 100000 in
theorem witness_RingCommands_launch :
    let w := entry 1 0 0 0 0
    let s := launching 0 jobBytes
    let t := s.claim 0 0 w
    StartsHead s t 0 1 w ∧ t.job.active = false ∧ t.memRead t.rqRc 0 0x2280 = (.ok jobBytes, t) ∧ t.descBad jobBytes = false ∧
      t.shunting = false := by
  have h : Plain ((launching 0 jobBytes).claim 0 0 (entry 1 0 0 0 0)) := ⟨rfl, rfl, rfl, by decide +kernel, by decide +kernel, rfl⟩
  have hl : jobBytes.length = 0x2280 := by decide +kernel
  have hr := memRead_placed (l := jobBytes) (a := 0) h rfl (State.rqRc ((launching 0 jobBytes).claim 0 0 (entry 1 0 0 0 0)))
    (by rw [hl]; decide +kernel) (by rw [hl]; decide)
  rw [hl] at hr
  exact ⟨starts_of (by decide +kernel), rfl, hr, by decide +kernel, by decide +kernel⟩

theorem cells_empty {s : State} (h : Plain s) (hm : s.mem = []) (n : Nat) (hn : n ≤ 2 ^ 28) :
    (List.range n).map (fun i => s.cell (2 ^ 28 + i)) = zeros n := by
  refine List.ext_getElem (by simp [zeros]) fun i h1 h2 => ?_
  have hi : i < n := by simpa using h1
  have hl : locOf (2 ^ 28 + i) = .md 0 (2 ^ 28 + i) := by
    unfold locOf mdSize; rw [if_pos (by omega), Nat.div_eq_of_lt (by omega), Nat.mod_eq_of_lt (by omega)]
  have hd : inDieTest (2 ^ 28 + i) = false := by
    unfold inDieTest mdSize
    rw [Bool.and_eq_false_iff]
    right
    rw [decide_eq_false_iff_not, Nat.mod_eq_of_lt (by omega)]
    omega
  simp only [zeros, List.getElem_map, List.getElem_range, List.getElem_replicate, State.cell, State.slot, hl, State.spareOf, h.repair, hm]
  show tget memDflt [] (2 ^ 28 + i) = 0
  simp only [tget, memDflt, hd]
  rfl

set_option maxRecDepth 100000 in
theorem witness_RingCommands_launchBad :
    let w := entry 1 (2 ^ 28) 0 0 0
    let s := launching (2 ^ 28) []
    let t := s.claim 0 0 w
    StartsHead s t 0 1 w ∧ (∃ l, t.memRead t.rqRc (2 ^ 28) 0x2280 = (.ok l, t) ∧ t.descBad l = true) ∧
    StartsHead { s with job := { Job.none with active := true } } (State.claim { s with job := { Job.none with active := true } } 0 0 w) 0 1 w := by
  have h : Plain ((launching (2 ^ 28) []).claim 0 0 (entry 1 (2 ^ 28) 0 0 0)) := ⟨rfl, rfl, rfl, by decide +kernel, by decide +kernel, rfl⟩
  have hs : ((launching (2 ^ 28) []).claim 0 0 (entry 1 (2 ^ 28) 0 0 0)).memStatus (2 ^ 28) 0x2280 = 0 := by decide +kernel
  have hm : ((launching (2 ^ 28) []).claim 0 0 (entry 1 (2 ^ 28) 0 0 0)).mem = [] := rfl
  refine ⟨starts_of (by decide +kernel), ⟨zeros 0x2280, ?_, ?_⟩, starts_of (by decide +kernel)⟩
  · simp only [State.memRead, hs, readUntil_plain h _ _ _ (show 2 ^ 28 + 0x2280 ≤ mdSize by decide)]
    exact congrArg (fun l => (Except.ok l, _)) (cells_empty h hm 0x2280 (by decide))
  · have : (Job.ofBytes (zeros 0x2280)).id = 0 := by decide +kernel
    unfold State.descBad
    simp only [this, beq_self_eq_true, Bool.or_true, Bool.true_or]

/-- Ring 0 at a DISPATCH of logical tile 0, which is IDLE. -/
def dispatching (w : List Nat) : State :=
  let s := ringed w [(R.TILE_STATE_STATE.at (tileOff 0), 1), (R.LMAP_VALID, 1)]
  { s with prog := { Prog.empty with loaded := true, tiles := 1 } }

theorem witness_RingCommands_dispatch : (let w := entry 0x10 0 0 0 0; starts (dispatching w) 0x10 w) = true := by decide +kernel

/-- Ring 0 at a WE_POST of the descriptor at address 0 to engine 0. -/
def posting (d : List Nat) : State := { ringed (entry 0x11 0 0 0 0) with mem := placed 0 (d.flatMap (leBytes 8)) }

theorem claim_mem (s : State) (m : List Host.Cell) (r i : Nat) (w : List Nat) :
    ({ s with mem := m } : State).claim r i w = { s.claim r i w with mem := m } := by
  unfold State.claim
  rw [show ({ s with mem := m } : State).periodic r = s.periodic r from rfl]
  cases s.periodic r <;> rfl

theorem posting_reads (d : List Nat) (hd : d.length = 32) :
    let t := (posting d).claim 0 0 (entry 0x11 0 0 0 0)
    t.memRead t.rqRc 0 256 = (.ok (d.flatMap (leBytes 8)), t) := by
  have hl : (d.flatMap (leBytes 8)).length = 256 := by
    simp [List.length_flatMap, leBytes, hd]
  unfold posting
  rw [claim_mem]
  have hs : ((ringed (entry 0x11 0 0 0 0)).claim 0 0 (entry 0x11 0 0 0 0)).memStatus 0 256 = 0 := by decide +kernel
  have hk : ((ringed (entry 0x11 0 0 0 0)).claim 0 0 (entry 0x11 0 0 0 0)).fget (R.DIE_MARK_MARKED.at (mdOff 0)) = 0 := by decide +kernel
  have hu : ((ringed (entry 0x11 0 0 0 0)).claim 0 0 (entry 0x11 0 0 0 0)).fget (R.MD_STATUS_CH_UP.at (mdOff 0)) = 15 := by decide +kernel
  have hf : ((ringed (entry 0x11 0 0 0 0)).claim 0 0 (entry 0x11 0 0 0 0)).flips = [] := rfl
  have hm : ((ringed (entry 0x11 0 0 0 0)).claim 0 0 (entry 0x11 0 0 0 0)).umeta = [] := rfl
  have hg : ((ringed (entry 0x11 0 0 0 0)).claim 0 0 (entry 0x11 0 0 0 0)).regions = .replicate 64 none := rfl
  have hr : (vget .reset ((ringed (entry 0x11 0 0 0 0)).claim 0 0 (entry 0x11 0 0 0 0)).md 0).repair = [] := rfl
  generalize (ringed (entry 0x11 0 0 0 0)).claim 0 0 (entry 0x11 0 0 0 0) = u at hs hk hu hf hm hg hr
  intro t
  have h : Plain t := ⟨hf, hm, hg, hk, hu, hr⟩
  have := memRead_placed h rfl t.rqRc (by rw [hl]; exact hs) (by rw [hl]; decide)
  rwa [hl] at this

/-- A descriptor of 32 words. -/
def desc32 (d : List Nat) : List Nat := d ++ List.replicate (32 - d.length) 0

theorem witness_RingCommands_wePost : ∀ ok : Bool, (
    let d := desc32 (if ok then desc 5 0 0 0 0 [inStack 8 64 16, inStack 8 64 16] else desc 0 0 0 0 0 [])
    let l := d.flatMap (leBytes 8)
    let w := entry 0x11 0 0 0 0
    let t := (posting d).claim 0 0 w
    let seq := (t.fget (R.WE_QSTAT_SEQ.at (mdOff 0)) + 1) % 2 ^ 32
    let e := (ew (words64 32 l) 0 / 2 ^ 32 * 2 ^ 32 + seq) :: (words64 32 l).drop 1
    d.length == 32 && starts (posting d) 0x11 w && ((t.wePost 0 (t.rflag 0 R.RING_CFG_JOB) e).1 == if ok then 0 else 0x0604) && !dCommit e) = true := by decide +kernel

/-- A job with one region of main memory. -/
def jobRange : Job := { oneJob with mainR := [(0, 0x100000)], nRegions := 64 }

/-- A registered region of 64 KiB. -/
def withRegion (s : State) : State := { s with regions := vput s.regions 63 (some ⟨0, 0x10000, 0x10000⟩) }

theorem witness_RegionEpochWindowCommands_region :
    (let w := entry 0x20 63 0x10000 0x20000 0x10000
     starts (ringed w [] jobRange) 0x20 w = true ∧ ((ringed w [] jobRange).claim 0 0 w).regionBad 63 0x10000 0x20000 0x10000 = false) ∧
    (let w := entry 0x20 63 0x10000 0x20000 0
     starts (ringed w [] jobRange) 0x20 w = true ∧ ((ringed w [] jobRange).claim 0 0 w).regionBad 63 0x10000 0x20000 0 = true) ∧
    (let w := entry 0x20 (256 + 63) 0 0 0
     let s := withRegion (ringed w [] jobRange)
     starts s 0x20 w = true ∧ nbit (256 + 63) 8 = 1 ∧ (vget none (s.claim 0 0 w).regions 63).isSome = true) := by decide +kernel

theorem witness_RegionEpochWindowCommands_epoch :
    (∀ op ∈ [0x21, 0x22], (let w := entry op 0 0 0 0
      let s := ringed w [(⟨R.EPOCH_STATUS, 0, 64⟩, 1)] oneJob
      starts s op w && (s.claim 0 0 w).estate == 1) = true) ∧
    (∀ e : Fin 2, ∀ bit : Fin 2, (let w := entry 0x23 bit 0 0 0
      let s := ringed w [(⟨R.EPOCH_STATUS, 0, 64⟩, e.val + 1)] { oneJob with rank := 1, members := 2 }
      starts s 0x23 w && (s.claim 0 0 w).estate == e + 1 && (s.claim 0 0 w).job.rank == 1) = true) := by decide +kernel

theorem witness_RegionEpochWindowCommands_window :
    (let w := entry 0x28 (2 ^ 16) 0 0 0
     starts (ringed w [] oneJob) 0x28 w = true ∧ (2 ^ 16) % 1024 < oneJob.nWindows ∧ nbit (2 ^ 16) 16 = 1) ∧
    (let w := entry 0x28 0 63 (0xFFFF + 2 ^ 32) 7
     let s := withRegion (ringed w [] oneJob)
     starts s 0x28 w = true ∧ vget none (s.claim 0 0 w).regions 63 = some ⟨0, 0x10000, 0x10000⟩ ∧ nbits (0xFFFF + 2 ^ 32) 31 0 + 1 = 0x10000) ∧
    (let w := entry 0x29 0 0 9 0
     let s : State := { withRegion (ringed w [] oneJob) with windows := [(0, some ⟨63, 0, 16, 7⟩)] }
     starts s 0x29 w = true ∧ tget winDflt (s.claim 0 0 w).windows 0 = some ⟨63, 0, 16, 7⟩ ∧
       (vget none (s.claim 0 0 w).regions 63).isSome = true) := by decide +kernel

theorem witness_RegionEpochWindowCommands_fail : ∀ op ∈ [0x00, 0x01, 0x02, 0x03, 0x04, 0x10, 0x11, 0x20, 0x21, 0x22, 0x23, 0x28, 0x29, 0x30,
    0x38, 0x3F], (let w := entry op 0 0 0 0 ++ [1]; let v := [op * 2 ^ 56 + 2 ^ 40] ++ w.drop 1
      (ringed v).pick == some 0 && (ringed v).ringHead 0 == some (0, some v) && eOp v == op && (ringed v).gate 0 (some v) == .fail 0x0901) = true := by
  decide +kernel


/-! ## Completions, barriers, mailboxes and controllers -/

/-- One register with several fields. -/
def regAt (off : Nat) (l : List (Fld × Nat)) : Fld × Nat := (⟨off, 0, 64⟩, (l.map fun e => e.2 * 2 ^ e.1.lo).sum)

/-- Controller RC-A serves, and RC-B is its standby. -/
def serving (r : List (Fld × Nat) := []) (job : Job := .none) : State :=
  let s := having up ([regAt R.RC_STATUS [(R.RC_STATUS_STATE_A, 4), (R.RC_STATUS_STATE_B, 3)], (R.DIE_MARK_MARKED, 0), (R.MD_STATUS_CH_UP, 15)] ++ r)
  { s with boot := { s.boot with stage := 5 }, job := job }

/-- Ring 63 with a command in flight. -/
def inFlight (x : RingRun) (r : List (Fld × Nat) := []) : State :=
  let s := serving r
  { s with rings := vput s.rings 63 { Ring.reset with run := some x } }

theorem witness_RingCompletion_done :
    let u : RingRun := ⟨0, entry 0 0 0 0 0, .done 0 0 0, 0, false⟩
    let s := inFlight u
    let t := (s.memWrite s.rcSource (s.entryAddr 63 u.idx + 48) (leBytes 4 0 ++ [0, 0] ++ leBytes 2 0 ++ leBytes 8 s.rtime)).2
    let v := (t.setRing 63 { t.ring 63 with run := none }).recPut 63 none
    (s.ring 63).run = some u ∧ s.rcServes = true ∧ eOp u.words ≠ 1 ∧ nbit (ew u.words 0) 48 = 0 ∧ s.periodic 63 = false ∧
      v.periodic 63 = false ∧ (v.ring 63).cur = none ∧ s.waitOver 63 u = true ∧ u.closed = false ∧ u.epoch = 0 := by decide +kernel

theorem witness_RingCompletion_sweep :
    let s := serving [(R.EPOCH_STATUS_ESTATE, 4)]
    let t : State := { s with epoch := { Epoch.none with drained := true } }
    s.rcServes = true ∧ s.estate = 4 ∧ (∀ q, q < 64 → (s.ring q).run = none) ∧ t.rcServes = true ∧ t.estate = 4 ∧ t.epoch.drained = true := by
  decide +kernel

theorem witness_RingCompletion_release : ∀ full : Bool, (
    let s : State := { serving [regAt (R.RING_CFG + ringOff 63) [(R.RING_CFG_EN, 1), (R.RING_CFG_PERIODIC, 1)],
      (R.RING_WR_WR_IDX.at (ringOff 63), if full then 1 else 0)] with mem := if full then [(6, 2)] else [] }
    let k := (s.ring 63).nextK
    let t := s.setRing 63 { s.ring 63 with nextK := k + 1 }
    s.rcServes && s.rflag 63 R.RING_CFG_EN && s.periodic 63 && !s.ringStopped 63 && decide (s.releaseAt 63 (s.ring 63).nextK ≤ s.rtime) &&
      (t.fetchBatch 63 (t.rf 63 R.RING_IDX_RD_IDX) (min 256 (t.ringLeft 63))).1.isSome == full) = true := by decide +kernel

theorem witness_RingCompletion_registers :
    up.accessStatus (R.RING_WR + ringOff 63) = 0 ∧ up.accessStatus (R.RING_IDX + ringOff 63) = 0 ∧
    up.accessStatus (R.RING_CFG + ringOff 63) = 0 ∧ up.rflag 63 R.RING_CFG_EN = false ∧
    nbits (3 * 2 ^ 20 : BitVec 64).toNat 24 20 = 3 ∧ nbits (4 * 2 ^ 20 : BitVec 64).toNat 24 20 = 4 ∧ nbits (16 * 2 ^ 20 + 1 : BitVec 64).toNat 24 20 = 16 := by decide +kernel

/-- A barrier message, alone in the inbox: does the controller take it in its role? -/
def takesB (s : State) (type : Nat) (coord : Bool) (m : BarMsg) : Bool :=
  takeBar type s.barInbox == some (m, []) && s.rcServes && !({ s with barInbox := [] } : State).barStray m && coord == (s.job.rank == 0)

theorem takes_of {s : State} {type : Nat} {coord : Bool} {m : BarMsg} (h : takesB s type coord m = true) :
    TakesBarrier s { s with barInbox := [] } type coord m := by
  simp only [takesB, Bool.and_eq_true, beq_iff_eq, Bool.not_eq_true'] at h
  obtain ⟨⟨⟨h1, h2⟩, h3⟩, h4⟩ := h
  exact ⟨h2, ⟨[], h1, rfl⟩, h3, h4⟩

/-- A message of the job that `oneJob` names. -/
def bar (type rank e : Nat) : BarMsg := ⟨type, rank, 1, e, 0, 0x0912, 0, 0x010⟩

/-- A package of a job of two, with a message in its inbox. -/
def atBarrier (rank : Nat) (m : BarMsg) (r : List (Fld × Nat) := []) (e : Epoch := .none) : State :=
  { serving r { oneJob with members := 2, rank := rank } with barInbox := [m], epoch := e }

theorem witness_EpochBarrier_messages :
    let d : Decision := ⟨1, 0, true, 0, 0⟩
    let e := { Epoch.none with decided := [d] }
    (takesB (atBarrier 0 (bar 1 1 1) [] e) 1 true (bar 1 1 1) = true ∧ e.record (atBarrier 0 (bar 1 1 1)).openE 0 = some d ∧
      (atBarrier 0 (bar 1 1 1)).attempt = 0) ∧
    (∀ type ∈ [1, 2, 5, 6], takesB (atBarrier 0 (bar type 1 1)) type true (bar type 1 1) = true) ∧
    (∀ type ∈ [3, 4, 7], takesB (atBarrier 1 (bar type 0 1)) type false (bar type 0 1) = true) ∧
    (takesB (atBarrier 1 (bar 4 0 1) [(R.EPOCH_STATUS_ESTATE, 4)]) 4 false (bar 4 0 1) = true ∧
      (atBarrier 1 (bar 4 0 1) [(R.EPOCH_STATUS_ESTATE, 4)]).settled 1 0 = true ∧ (atBarrier 1 (bar 4 0 1)).settled 1 0 = false) ∧
    (takesB (atBarrier 0 (bar 5 1 1) [(R.EPOCH_STATUS_COMMITTED, 1)]) 5 true (bar 5 1 1) = true ∧
      (atBarrier 0 (bar 5 1 1) [(R.EPOCH_STATUS_COMMITTED, 1)]).epochC = 1) := by decide +kernel

theorem witness_EpochBarrier_stray : ∀ type ∈ [1, 2, 3, 4, 6, 7], (
    let m : BarMsg := { bar type 1 1 with jobId := 2 }
    (atBarrier 0 m).rcServes && takeBar type (atBarrier 0 m).barInbox == some (m, [])
      && ({ atBarrier 0 m with barInbox := [] } : State).barStray m) = true := by decide +kernel

theorem witness_EpochBarrier_timers :
    let s : State := { atBarrier 0 (bar 1 1 1) with epoch := { Epoch.none with anyVote := true } }
    (s.rcServes = true ∧ s.job.active = true ∧ s.job.rank = 0 ∧ s.epoch.anyVote = true ∧ s.epoch.record s.openE s.attempt = none) ∧
    (∀ rank : Fin 2, let t := atBarrier rank (bar 1 1 1) [(R.EPOCH_STATUS_ESTATE, 2)]
      t.rcServes = true ∧ t.job.active = true ∧ t.estate = 2 ∧ t.job.rank = rank) := by decide +kernel

/-- A mailbox queue with some fields of its status set. -/
def queued (n dir : Nat) (l : List (Fld × Nat)) (w : Nat := 0) : State :=
  serving [regAt (R.MQ_STATUS + mqOff n dir) l, (⟨mqWord n dir 0, 0, 64⟩, w)]

/-- Who sends into the queues of a direction, and who receives. -/
def sender (dir : Nat) : Party := if dir = 0 then .node else .rcA
def receiver (dir : Nat) : Party := if dir = 0 then .signalBox else .rcA

theorem witness_MailboxCommands_push : ∀ n : Fin 8, ∀ dir : Fin 2, (
    let ok := fun (s : State) => s.accessStatus (R.MQ_PUSH + mqOff n dir) == 0 && s.mqSends dir (sender dir)
    let a := queued n dir [(R.MQ_STATUS_WORDS, 15)]
    let b := queued n dir [(R.MQ_STATUS_WORDS, 16)]
    let c := queued n dir [(R.MQ_STATUS_WORDS, 1), (R.MQ_STATUS_PENDING, 1)]
    ok a && !a.mqPending n dir && a.mqWords n dir == 15 && ok b && b.mqWords n dir == 16 && ok c && c.mqPending n dir) = true := by
  decide +kernel

theorem witness_MailboxCommands_send : ∀ n : Fin 8, ∀ dir : Fin 2, (
    let ok := fun (s : State) => s.accessStatus (R.MQ_CTL + mqOff n dir) == 0 && s.mqSends dir (sender dir)
    let a := queued n dir [(R.MQ_STATUS_WORDS, 1)]
    let b := queued n dir []
    let c := queued n dir [(R.MQ_STATUS_WORDS, 1), (R.MQ_STATUS_PENDING, 1)]
    ok a && !a.mqPending n dir && a.mqWords n dir == 1 && !a.flag (R.MQ_STATUS_PUSH_ERR.at (mqOff n dir))
      && ok b && b.mqWords n dir == 0 && ok c && c.mqPending n dir) = true := by decide +kernel

theorem witness_MailboxCommands_ack : ∀ n : Fin 8, ∀ dir : Fin 2, (
    let s := queued n dir [(R.MQ_STATUS_WORDS, 1), (R.MQ_STATUS_PENDING, 1), (R.MQ_STATUS_MSG_SEQ, 0xFFFF)]
    s.accessStatus (R.MQ_ACK + mqOff n dir) == 0 && s.mqReceives dir (if dir = 0 then .rcA else .node) && s.mqPending n dir
      && s.fget (R.MQ_STATUS_MSG_SEQ.at (mqOff n dir)) == (0xFFFF : BitVec 16).toNat && !s.dom.worksRst
      && decide ((0xFEFF : BitVec 16).toNat < 0xFF00) && decide (0xFF00 ≤ (0xFF00 : BitVec 16).toNat)) = true := by decide +kernel

theorem witness_MailboxCommands_other : ∀ dir : Fin 2,
    serving.accessStatus R.DB_MASK = 0 ∧ serving.mqSends dir .rcB = false ∧ serving.mqReceives dir .rcB = false := by decide +kernel

theorem witness_ServicesAndTokens_services :
    (∀ svc ∈ [0, 1, 2, 5], ∀ bad : Fin 2, (
      let s := queued 7 0 [(R.MQ_STATUS_WORDS, 1), (R.MQ_STATUS_PENDING, 1)] (svc * 2 ^ 48 + bad * 2 ^ 47)
      s.rcServes && s.mqPending 7 0 && s.mqService 7 == svc && s.mqBadArgs 7 == (bad == 1)
        && (nbits (s.csrGet (mqWord 7 0 0)).toNat 47 32 == 0) == (bad == 0)) = true) := by decide +kernel

theorem witness_ServicesAndTokens_tokens : ∀ k : Fin 64,
    let s := having up [regAt (R.TOKEN + 8 * k.val) [(R.TOKEN_HELD, 1), (R.TOKEN_OWNER, partyCode .rcB)]]
    (up.accessStatus (R.TOKEN + 8 * k.val) = 0 ∧ up.Canon ∧ up.flag (R.TOKEN_HELD.at (8 * k.val)) = false) ∧
    (s.accessStatus (R.TOKEN + 8 * k.val) = 0 ∧ s.flag (R.TOKEN_HELD.at (8 * k.val)) = true ∧ s.accessStatus R.TOKEN_REL = 0 ∧
      s.fget (R.TOKEN_OWNER.at (8 * k.val)) = partyCode .rcB) := by
  have c : up.Canon := canon_of (by decide +kernel)
  have h : ∀ k : Fin 64, (
    let s := having up [regAt (R.TOKEN + 8 * k.val) [(R.TOKEN_HELD, 1), (R.TOKEN_OWNER, partyCode .rcB)]]
    (up.accessStatus (R.TOKEN + 8 * k.val) = 0 ∧ up.flag (R.TOKEN_HELD.at (8 * k.val)) = false) ∧
    (s.accessStatus (R.TOKEN + 8 * k.val) = 0 ∧ s.flag (R.TOKEN_HELD.at (8 * k.val)) = true ∧ s.accessStatus R.TOKEN_REL = 0 ∧
      s.fget (R.TOKEN_OWNER.at (8 * k.val)) = partyCode .rcB)) := by decide +kernel
  intro k
  exact ⟨⟨(h k).1.1, c, (h k).1.2⟩, (h k).2⟩

/-- The controllers in two states. -/
def controllers (a b : Nat) (ok : Nat := 0) : State :=
  having up [regAt R.RC_STATUS [(R.RC_STATUS_STATE_A, a), (R.RC_STATUS_STATE_B, b), (R.RC_STATUS_STANDBY_OK, ok)]]

theorem witness_ControllerCommands_beats :
    let s := controllers 4 3
    (s.accessStatus R.RC_BEAT = 0 ∧ ∀ x : Fin 2, s.rcState x ≠ 0 ∧ s.rcState x ≠ 5 ∧ s.rcCut x = false) ∧ s.dom.worksRst = false ∧ s.dom.signalRst = false ∧
    (∀ x : Fin 2, (controllers 1 1).rcState x = 1 ∧ (controllers 1 1).rcCut x = false) ∧ s.fw.hand = none ∧
    ((controllers 4 2).rcState 1 = 2 ∧ (controllers 4 2).rcActive = 0 ∧ (controllers 4 2).rcState 0 = 4) ∧
    (s.accessStatus R.FW_BEAT = 0 ∧ ∀ i : Fin 3, s.watched i = true ∧ s.fget (missFld i) + 1 < 10 ∧
      (having s [(missFld i, 9)]).watched i = true ∧ 10 ≤ (having s [(missFld i, 9)]).fget (missFld i) + 1) := by decide +kernel

theorem witness_ControllerCommands_services : ∀ svc ∈ [3, 4], ∀ ok : Fin 2, (
    let s := serving [regAt R.RC_STATUS [(R.RC_STATUS_STATE_A, 4), (R.RC_STATUS_STATE_B, 3), (R.RC_STATUS_STANDBY_OK, ok)],
      regAt (R.MQ_STATUS + mqOff 7 0) [(R.MQ_STATUS_WORDS, 1), (R.MQ_STATUS_PENDING, 1)], (⟨mqWord 7 0 0, 0, 64⟩, svc * 2 ^ 48)]
    s.rcServes && s.mqPending 7 0 && s.mqService 7 == svc && !s.mqBadArgs 7 && s.standbyOk == (ok == 1)) = true := by decide +kernel

theorem witness_ControllerCommands_handover :
    let s := controllers 4 3 1
    let s : State := { s with fw := { s.fw with hand := some ⟨1, 0⟩ } }
    s.fw.hand = some ⟨1, 0⟩ ∧ s.rcState 1 = 3 ∧ s.standbyOk = true ∧ s.dom.worksRst = false ∧ s.dom.signalRst = false ∧
      s.fwBlock (some 1) = 0 ∧ s.arithBusy (s.idle 1) = false ∧
      (let t : State := { s with dict := [(D.OWNER_LOCK, 1)] }
       t.rcState 1 = 3 ∧ t.standbyOk = true ∧ t.fwBlock (some 1) ≠ 0) ∧
      (let t : State := { s with prog := { s.prog with loaded := true }, dict := [(D.ARITH_VERSION, 77)] }
       t.rcState 1 = 3 ∧ t.standbyOk = true ∧ t.fwBlock (some 1) = 0 ∧ t.arithBusy (t.idle 1) = true) := by decide +kernel

/-! ## Ports, frames and packets -/

/-- A port in a state, with its data, further fields of PORT_STATUS, and other registers; the tray number is 0. -/
def portIn (p st : Nat) (x : Port := .reset) (l r : List (Fld × Nat) := []) : State :=
  let s := having up (regAt (R.PORT_STATUS + portOff p) ((R.PORT_STATUS_STATE, st) :: l) :: r)
  { s with ports := vput s.ports p x, dict := [(D.TRAY_NO, 0)] }

/-- A training marker of a lane, its receiver ready. -/
def marker (l : Nat) : BitVec 64 := BitVec.ofNat 64 (0x7E5A * 2 ^ 48 + l * 2 ^ 46 + 2 ^ 45)

/-- All four lanes ready on both sides. -/
def readyPort : Port := { Port.reset with mine := 15, theirs := 15 }

theorem witness_LinkTraining_states : ∀ p ∈ [0, 17], (
    let on := (R.PORT_CTL_EN.at (portOff p), 1)
    let s := fun st => portIn p st .reset [] [on]
    !(s 1).dom.lineRst && (s 1).portState p == 1 && (s 1).portMay p && (s 1).clock.present
      && (s 2).portState p == 2 && (s 4).portState p == 4 && (s 4).traySet && (s 7).portState p == 7 && (s 7).portMay p
      && (s 7).accessStatus (R.PORT_CTL + portOff p) == 0 && (s 7).portLicensed p) = true := by decide +kernel

theorem witness_LinkTraining_marker : ∀ l : Fin 4, ∀ all : Bool, (
    let x := if all then readyPort else { Port.reset with mine := 15 }
    let s := portIn 17 2 x
    let w := marker l
    let y := serveMarker (s.port 17) w.toNat
    let z := { y with mine := withBit y.mine l true, theirs := withBit y.theirs l (nbit w.toNat 45 == 1) }
    let t := s.setPort 17 z
    s.portState 17 == 2 && nbits w.toNat 63 48 == 0x7E5A && nbits w.toNat 27 0 == 0 && nbits w.toNat 47 46 == l &&
      (t.eligible 17 != 0 && (z.mine &&& z.theirs &&& t.eligible 17) == t.eligible 17) == all) = true := by decide +kernel

theorem witness_LinkTraining_limits :
    (∀ all : Bool, let s := portIn 17 2 (if all then readyPort else .reset)
      s.portState 17 = 2 ∧ (((s.port 17).mine &&& (s.port 17).theirs &&& s.eligible 17) = if all then 15 else 0)) ∧
    (∀ l : Fin 4, ∀ all : Bool, let s := portIn 17 (if all then 3 else 6) .reset [(R.PORT_STATUS_LANE_MASK, 2 ^ l.val)]
      let t := s.setLockMask 17 (s.lockMask 17 ||| 2 ^ l.val)
      3 ≤ s.portState 17 ∧ s.portState 17 ≤ 6 ∧
        ((t.portState 17 == 3 && (t.laneMask 17 &&& t.lockMask 17) == t.laneMask 17) = all)) ∧
    (∀ lock : Fin 2, let s := portIn 17 3 .reset [(R.PORT_STATUS_LANE_MASK, 8), (R.PORT_STATUS_LOCK_MASK, 8 * lock)]
      s.portState 17 = 3 ∧ (s.laneMask 17 &&& s.lockMask 17) = 8 * lock) ∧
    (∀ p ∈ [8, 15], up.accessStatus (R.PORT_CTL + portOff p) = 0 ∧ up.portLicensed p = false) := by decide +kernel

theorem witness_LinkTraining_lock : ∀ l : Fin 4, ∀ all : Bool, ∀ k ∈ [0, 4095],
    let s := portIn 17 3 .reset [(R.PORT_STATUS_LANE_MASK, if all then 2 ^ l.val else 15)]
    let r := s.traffic (R.PORT_FEC_CORR_CW.at (portOff 17)) 0
    let u := r.setPort 17 { r.port 17 with badRun := vput (r.port 17).badRun l 0 }
    let t := u.setLockMask 17 (u.lockMask 17 ||| 2 ^ l.val)
    3 ≤ s.portState 17 ∧ s.portState 17 ≤ 6 ∧ cwTags 0x96 (words 0x96 [k]) = some [(0x96 * 2 ^ 12 + k, false)] ∧
      cwTags 0x96 [badWord] = none ∧ ((t.portState 17 == 3 && (t.laneMask 17 &&& t.lockMask 17) == t.laneMask 17) = all) := by decide +kernel

theorem witness_LinkTraining_port : ∀ p ∈ [0, 17],
    up.partyUp .node = true ∧ up.accessStatus (R.PORT_CTL + portOff p) = 0 ∧ vget 0 (up.port p).rsp 3 < 256 := by decide +kernel

/-- A frame of a type and a number, with a good CRC or not. -/
def frame (type seq : Nat) (ok : Bool := true) : FrameIn := ⟨BitVec.ofNat 64 (type * 2 ^ 60 + seq * 2 ^ 48 + 0xFFF * 2 ^ 36), 0, ok, false, 0⟩

theorem witness_LinkFrames_header : ∀ st ∈ [4, 5, 6], (
    let s := portIn 17 st
    !s.dom.lineRst && s.portLinked 17 && frBad (frame 0 0 false) && !frBad (frame 0 0) && frType (frame 0 0) == 0
      && [1, 2].all fun type => !frBad (frame type 0) && frType (frame type 0) == type
        && frSeq (frame type 0) == ((s.frameHeader 17 (frame type 0)).port 17).rxExp) = true := by decide +kernel

theorem witness_LinkFrames_order : ∀ exp ∈ [0, 1],
    let s := portIn 17 5 { Port.reset with rxExp := exp }
    let f := frame 2 (1 - exp)
    let t := (s.goodWord 17 f).frameHeader 17 f
    frBad f = false ∧ frSeq f ≠ (t.port 17).rxExp ∧ (frLe (frSeq f) (t.port 17).rxExp = true ↔ exp = 1) := by decide +kernel

theorem witness_LinkFrames_types : ∀ type ∈ [1, 2], ∀ st ∈ [4, 5], (
    let s := portIn 17 st
    (s.rxFrame 17 (frame type 0) type).1 && (s.rxFrame 17 (frame type 0) type).2.portState 17 == st) = true := by decide +kernel

theorem witness_LinkFrames_retry : ∀ many : Bool, (
    let s := portIn 17 5 { Port.reset with replay := [(0, .ctrl 0 [])], resent := [(0, if many then 8 else 7)] }
    let t := (s.rxFrame 17 (frame 2 0) 2).2
    let x := (t.frameAcked 17 (((0 : BitVec 12).toNat + 0xFFF) % 0x1000)).port 17
    (s.rxFrame 17 (frame 2 0) 2).1 && x.replay.map (·.1) == [0] && x.replay.any (fun q => 8 ≤ timesResent x.resent q.1) == many) = true := by
  decide +kernel

theorem witness_LinkWidthAndClock_width :
    (let s := portIn 17 5
     (s.rxFrame 17 (frame 2 0) 2).1 = true ∧ (s.rxFrame 17 (frame 2 0) 2).2.portState 17 = 5) ∧
    (∀ m ∈ [0, 1, 15], let s := portIn 17 5 { Port.reset with change := some (m, 0xFFF) }
      (s.port 17).change = some (m, 0xFFF) ∧ (widthOf m = 0 ↔ m = 0)) ∧
    (∀ l : Fin 4, ∀ m ∈ [2 ^ l.val, 15], let s := portIn 17 6 .reset [(R.PORT_STATUS_LANE_MASK, m)]
      s.dom.lineRst = false ∧ s.portState 17 = 6 ∧ nbit (s.laneMask 17) l = 1 ∧ ((s.laneDrops 17 l).laneMask 17 = 0 ↔ m ≠ 15)) := by
  decide +kernel

theorem witness_LinkWidthAndClock_loss : ∀ l : Fin 4, ∀ m ∈ [2 ^ l.val, 15], ∀ lock : Bool,
    let s := portIn 17 5 .reset [(R.PORT_STATUS_LANE_MASK, m), (R.PORT_STATUS_LOCK_MASK, 15)]
    let r := if lock then s.setLockMask 17 (maskMinus (s.lockMask 17) (2 ^ l.val)) else s
    r.portLinked 17 = true ∧ nbit (r.laneMask 17) l = 1 ∧ ((r.laneDrops 17 l).laneMask 17 = 0 ↔ m ≠ 15) ∧
      (portIn 17 7).portLinked 17 = false := by decide +kernel

theorem witness_LinkWidthAndClock_retrain : ∀ l : Fin 4,
    let s : State := { portIn 17 5 .reset [(R.PORT_STATUS_LANE_MASK, 15 - 2 ^ l.val)] with dict := [(D.AUTO_WIDEN, 1)] }
    s.od D.AUTO_WIDEN = 1 ∧ s.portState 17 = 5 ∧ nbit (s.laneMask 17) l = 0 ∧ nbit (s.parked 17) l = 0 ∧
      nbit (s.port 17).barred l = 0 := by decide +kernel

theorem witness_LinkWidthAndClock_module : ∀ i : Fin 6, ∀ m : Fin 4,
    let s := having up [(R.UCIE_STATUS_MODULES.at (8 * i.val), 15)]
    s.dom.lineRst = false ∧ nbit (s.fget (R.UCIE_STATUS_MODULES.at (8 * i.val))) m = 1 := by decide +kernel

/-- Out of reset, with a load of rack time armed at 0 and RTIME as given. -/
def armedAt (now : Nat) : State :=
  { having up [(⟨R.RTIME, 0, 64⟩, now)] with clock := { up.clock with armed := some (7000000, 0) }, dom := { up.dom with signalRst := true } }

theorem witness_LinkWidthAndClock_clock :
    (up.dom.lineRst = false ∧ up.clock.armed = none ∧ up.clock.fromCopy = false ∧ up.clock.present = true) ∧
    (∀ now ∈ [9999, 10000], let s := armedAt now
      s.dom.lineRst = false ∧ s.clock.armed = some (7000000, 0) ∧ s.dom.signalRst = true ∧
        (0 + 10000 ≤ (({ s with clock := s.clock, rfrac := 0 } : State).fset R.RTIME_STATUS_TSYNC_PRESENT 1).rtime ↔ now = 10000)) ∧
    (having up [(R.RTIME_STATUS_TSYNC_PRESENT, 1)]).flag R.RTIME_STATUS_TSYNC_PRESENT = true ∧
    (let s : State := { having up [(R.RTIME_STATUS_REFCLK_LOCK, 0)] with clock := { up.clock with present := false } }
     s.dom.lineRst = false ∧ s.flag R.RTIME_STATUS_REFCLK_LOCK = false ∧ s.clock.present = false) := by decide +kernel

/-- A packet. -/
def packet (type tc dest src addr : Nat) (payload : List Byte) (stamp : Nat := 0) : Pkt :=
  ⟨BitVec.ofNat 64 (type * 2 ^ 60 + tc * 2 ^ 58 + dest * 2 ^ 44 + src * 2 ^ 32), BitVec.ofNat 64 (stamp * 2 ^ 52 + addr), 0, payload⟩

/-- Package 0x010 with a packet in receive buffer 17, or of its own. -/
def received (k : Nat) (q : Pkt) (r : List (Fld × Nat) := []) : State :=
  let s := portIn 17 5 { Port.reset with rxq := if k = 17 then [q] else [] } [] ([(R.DIE_MARK_MARKED, 0), (R.MD_STATUS_CH_UP, 15)] ++ r)
  if k = 18 then { s with router := { s.router with looped := [q] } } else s

/-- Is the packet taken, of its type, and is it one for this package? -/
def takenIn (k : Nat) (q : Pkt) : Bool :=
  match (received k q).takeRx k (pkType q) with
  | some (q', t) => q' == q && !t.aged q && (pkMc q || k == 18 || pkDest q == t.ownId % 4096)
  | none => false

theorem witness_PacketArrivals_taken : ∀ k ∈ [17, 18], ∀ type : Fin 8, takenIn k (packet type 3 0x010 0xF0F 1 []) = true := by
  decide +kernel

theorem witness_PacketArrivals_reset : ∀ m ∈ [2, 3, 4, 5],
    let q := packet 4 1 0x010 0x012 1 (leBytes 1 m ++ zeros 15)
    let s := received 17 q
    let t : State := { s with dom := { s.dom with worksRst := true } }
    (match t.takeRx 17 4 with
     | some (q', t) => q' == q && t.dom.worksRst && !t.aged q && pkDest q == t.ownId % 4096 && (barOf q.payload (pkSrc q)).type == m
     | none => false) = true := by decide +kernel

theorem witness_PacketArrivals_away :
    (let q := packet 0 1 0x011 0x012 0 []
     match (received 17 q).takeRx 17 0 with
      | some (q', t) => q' == q && !t.aged q && !pkMc q && pkDest q != t.ownId % 4096
      | none => false) = true ∧
    (let q := packet 0 1 0x010 0x012 0 [] 1
     match (received 17 q [(⟨R.RTIME, 0, 64⟩, 4000000), (R.RTIME_STATUS_RTIME_VALID, 1)]).takeRx 17 0 with
      | some (q', t) => q' == q && t.aged q
      | none => false) = true := by decide +kernel

theorem witness_PacketArrivals_read : ∀ n ∈ [0, 1, 512, 513], ∀ hole : Bool, (
    let q := packet 2 1 0x010 0x012 (if hole then 2 ^ 51 else 0) (leBytes 4 n)
    match (received 17 q).takeRx 17 2 with
    | some (q', t) => q' == q && leNat (q.payload.take 4) == n
        && (n == 0 || n == 513 || okB (t.memRead ⟨0, 3, t.pkSource 17 q⟩ (pkAddr q) n) == !hole)
    | none => false) = true := by decide +kernel

theorem witness_PacketArrivals_message : ∀ m ∈ [0, 1, 7, 8], ∀ addr ∈ [0, 1], (
    let q := packet 4 1 0x010 0x012 addr (leBytes 1 m)
    takenIn 17 q && (barOf q.payload (pkSrc q)).type == m && pkAddr q % 256 == addr && !(received 17 q).dom.worksRst) = true := by
  decide +kernel

theorem witness_PacketArrivals_fail : ∀ src ∈ [0xEFF, 0xF00, 0xF0F, 0xF10], (
    let q := packet 6 3 0x010 src 0 (leBytes 2 0x070)
    takenIn 17 q && pkSrc q == src && decide (0x06F < leNat (q.payload.take 2) % 4096)
      && ((received 17 q).reqOf (leNat ((q.payload.drop 4).take 2))).isNone) = true := by decide +kernel

theorem witness_PacketArrivals_csr :
    takenIn 17 (packet 7 3 0x010 0xF00 (0x18000000000 + 0x03000000) [8, 0, 0, 0]) = true ∧ switchMayRead 0x03000000 = true ∧
    takenIn 17 (packet 7 0 0x010 0xF00 (0x18000000000 + 0x03000000) [8, 0, 0, 0]) = true := by decide +kernel

/-- An open request of tag 0xFFFF to package 0x011. -/
def openReq : Req := ⟨0xFFFF, packet 2 1 0x011 0x010 0 [], 0, 0, 0, 2, false⟩

/-- The router with that request. -/
def requesting : State := let s := portIn 17 5; { s with router := { s.router with reqs := [openReq] } }

theorem witness_RequestsAndRouting_requests :
    (let q : Pkt := ⟨BitVec.ofNat 64 (3 * 2 ^ 60 + 0x010 * 2 ^ 44 + 0x011 * 2 ^ 32 + 0xFFFF), 0, 0, [1, 2]⟩
     requesting.reqOf (pkTag q) = some openReq ∧ pkType openReq.pkt = 2 ∧ pkDest openReq.pkt = pkSrc q) ∧
    (∀ status ∈ [0, 8], let q : Pkt := ⟨BitVec.ofNat 64 (3 * 2 ^ 60 + 0x010 * 2 ^ 44 + 0x012 * 2 ^ 32 + status * 2 ^ 16 + 0xFFFF), 0, 0, []⟩
     requesting.reqOf (pkTag q) = some openReq ∧ pkType openReq.pkt = 2 ∧ pkDest openReq.pkt ≠ pkSrc q ∧ (pkStatus q = 8 ↔ status = 8)) ∧
    requesting.reqOf (0xFFFF : BitVec 16).toNat = some openReq ∧ requesting.reqOf (pkTag (packet 3 1 0x010 0x011 0 [])) = none ∧
    pkHop (packet 0 1 0x011 0x012 0 []) = 0 := by decide +kernel

theorem witness_RequestsAndRouting_registers :
    (∀ d ∈ [(0 : BitVec 12), 0xFFF], up.accessStatus (R.POINTS + 8 * d.toNat) = 0) ∧ nbits (2 ^ 63 + 0x7FFFF : BitVec 64).toNat 62 19 = 0 ∧
    nbits (0x80000 : BitVec 64).toNat 62 19 ≠ 0 ∧ up.accessStatus R.ROUTE_CTL = 0 ∧
    (having up [(R.ROUTE_CTL_CMAP_EN, 1)]).flag R.ROUTE_CTL_CMAP_EN = true ∧
    (having up [(R.ROUTE_CTL_CMAP_EN, 0)]).flag R.ROUTE_CTL_CMAP_EN = false ∧ up.dom.lineRst = false ∧ up.partyUp .node = true ∧
    (∀ n ∈ [255, 256], let q := packet 0 0 0x011 0x010 0 []
      let s := portIn 17 5 { Port.reset with held := [q], bucket := n }
      (s.port 17).held = [q] ∧ (pkBytes q * 16 ≤ ((s.fillBucket 17).port 17).bucket ↔ n = 256)) := by decide +kernel

/-! ## Collectives -/

/-- The consist of a reduce-scatter of two elements among dies 0 and 1 of this package, at die 0. -/
def pair : Consist := ⟨77, 1, 1, 7, 7, 2, 0, 2, 4, 0, 1, 0, 0, 0, 3, 4, false⟩

/-- A launched collective. -/
def baseColl : Coll :=
  { cst := pair, tile := 0, fused := 0, snap := none, rowW := 0, src := .null, dst := .null, mem := [(0, 0x010, 0), (0, 0x010, 1)],
    epoch := 1, attempt := 0, state := .started, startAt := 0, readyAt := 0, ready := [], slowest := 100, skewed := false, x := [], inb := [],
    outb := [], formed := [], out := [], arr := [], refused := [], taken := [], left := 0, fill := 0, lastAt := 0, waitAt := 0, coast := false,
    lost := false }

/-- Package 0x010 with a job, and the engine of die 0 with collectives and messages. -/
def engine (l : List Coll) (q : List Pkt := []) (r : List (Fld × Nat) := []) : State :=
  { having up r with job := oneJob, dict := [(D.TRAY_NO, 0)], me := vput up.me 0 { Me.reset with colls := l, inbox := q } }

/-- A collective message from die 1: its KIND, COLL_SEQ, digest, CHUNK, bytes 20 to 23, and epoch. -/
def message (kind seq digest chunk b20 epoch : Nat) : Pkt :=
  packet 5 1 0x010 0x010 0 (leBytes 1 kind ++ leBytes 1 0 ++ leBytes 2 1 ++ leBytes 4 seq ++ leBytes 8 digest ++ leBytes 4 chunk
    ++ leBytes 4 b20 ++ leBytes 2 50 ++ leBytes 2 0 ++ leBytes 4 epoch ++ leBytes 8 0)

/-- Is the message taken for a live collective of the engine of die 0, in a state of which `f` says more? -/
def takesC (s : State) (kind : Nat) (p : Pkt) (f : Coll → State → Bool) : Bool :=
  match s.takeCm 0 kind with
  | some (p', u) => p' == p && !u.cmStray p &&
    match u.collOf 0 (cmGroup p) (cmNat p 4 4) with
    | some o =>
      let c := { o with slowest := min o.slowest (cmNat p 24 2), lastAt := u.rtime }
      o.state != .dead && !o.lost && f c ((u.collPut 0 c).meRegs 0)
    | none => false
  | none => false

theorem takesC_of {s : State} {kind : Nat} {p : Pkt} {f : Coll → State → Bool} (h : takesC s kind p f = true) :
    ∃ c t, TakesColl s t 0 kind p c ∧ f c t = true := by
  simp only [takesC] at h
  split at h
  · rename_i p' u hu
    split at h
    · rename_i o ho
      simp only [Bool.and_eq_true, beq_iff_eq, Bool.not_eq_true', bne_iff_ne, ne_eq] at h
      obtain ⟨⟨rfl, h2⟩, ⟨h3, hl⟩, h4⟩ := h
      exact ⟨_, _, ⟨u, o, hu, h2, ho, h3, hl, rfl, rfl⟩, h4⟩
    · simp at h
  · simp at h

/-- The engine with one collective and one message. -/
def meets (c : Coll) (p : Pkt) : State := engine [c] [p]

theorem witness_CollectiveMessages_ready :
    (let p := message 2 1 78 0 0 1
     takesC (meets baseColl p) 2 p (fun c _ => cmDigest p != c.cst.digest) = true) ∧
    (let p := message 2 1 77 0 0 1
     takesC (meets baseColl p) 2 p (fun c _ => cmDigest p == c.cst.digest && cmNat p 2 2 != c.cst.rank && c.ready.isEmpty) = true ∧
     takesC (meets { baseColl with ready := [(1, 5)] } p) 2 p (fun c _ => cmDigest p == c.cst.digest && c.ready == [(1, 5)]
       && cmNat p 2 2 == 1 && cmNat p 2 2 != c.cst.rank && c.state != .queued) = true) := by decide +kernel

theorem witness_CollectiveMessages_data :
    (let p := message 1 1 78 0 0 1
     takesC (meets baseColl p) 1 p (fun c _ => cmDigest p != c.cst.digest) = true) ∧
    (∀ chunk : Fin 2, ∀ taken : Bool, let p := message 1 1 77 chunk 0 1
     takesC (meets { baseColl with taken := if taken then [(1, 0, 3)] else [] } p) 1 p (fun c _ => cmDigest p == c.cst.digest
       && c.state != .queued && c.expects (cmNat p 2 2) (cmNat p 16 4) == (chunk == 0)
       && (c.taken.find? (fun e => e.1 == cmNat p 2 2 && e.2.1 == 0) == if taken then some (1, 0, 3) else none)) = true) := by decide +kernel

/-- A chunk for die 1 that was sent. -/
def sentChunk (fails : Nat) (busy : Bool := false) : OutChunk := ⟨1, 0, [], 0, true, 0, fails, busy⟩

theorem witness_CollectiveMessages_answers :
    (let p := message 3 1 77 0 0 1
     takesC (meets { baseColl with out := [sentChunk 0] } p) 3 p (fun c _ =>
       ((c.out.filter fun x => !(x.dest == cmNat p 2 2 && x.chunk == cmNat p 16 4 && x.sent)).find?
         (fun x => x.dest == cmNat p 2 2 && x.busy)).isNone) = true) ∧
    (∀ cause ∈ [1, 2], ∀ fails ∈ [7, 8], ∀ st ∈ [CollState.started, .done], let p := message 4 1 77 0 cause 1
     takesC (meets { baseColl with out := [sentChunk fails], state := st } p) 4 p (fun c _ => cmNat p 20 1 == cause && c.abortable == (st == .started) &&
       c.out.find? (fun x => x.dest == cmNat p 2 2 && x.chunk == cmNat p 16 4 && x.sent) == some (sentChunk fails)) = true) := by
  decide +kernel

theorem witness_CollectiveMessages_abort :
    (∀ st ∈ [CollState.queued, .started, .done], let p := message 5 1 77 0 0 1
     takesC (meets { baseColl with state := st } p) 5 p (fun c _ => c.state == st && !c.written) = true) ∧
    (let p := message 5 1 77 0 0 1
     takesC (meets { baseColl with skewed := true } p) 5 p (fun c _ => c.written) = true) ∧
    (let p := message 5 2 77 0 0 1
     match (meets baseColl p).takeCm 0 5 with
     | some (p', u) => p' == p && !u.cmStray p && (u.collOf 0 (cmGroup p) (cmNat p 4 4)).isNone
     | none => false) = true ∧
    (∀ kind ∈ [1, 2, 3, 4, 5], let p := message kind 1 77 0 0 2
     (match (meets baseColl p).takeCm 0 kind with
      | some (p', u) => p' == p && u.cmStray p
      | none => false) = true) := by decide +kernel

theorem witness_CollectiveMessages_gone : ∀ kind ∈ [1, 2, 3, 4], ∀ dead : Bool, (
    let p := message kind 1 77 0 0 1
    match (meets (if dead then { baseColl with state := .dead } else { baseColl with lost := true }) p).takeCm 0 kind with
    | some (p', u) => p' == p && !u.cmStray p && match u.collOf 0 (cmGroup p) (cmNat p 4 4) with
      | some v => (v.state == .dead) == dead && v.lost == !dead
      | none => false
    | none => false) = true := by decide +kernel

theorem witness_CollectiveProgress_start : ∀ k ∈ [0, 7, 8], ∀ trig : Fin 3, (
    let c := { baseColl with state := .queued, cst := { pair with seq := 100, trigEn := trig != 0 } }
    let s := engine (List.replicate k baseColl ++ [c]) [] [regAt (R.CTR + ctrOff 0 0) [(R.CTR_VALUE, 1), (R.CTR_BROKEN, if trig = 2 then 1 else 0)]]
    let e := s.meng 0
    e.colls.find? (fun c => c.state == .queued) == some c && !s.dom.worksRst && !s.unitFenced R.FENCE_UNITS_ME 0
      && s.flag (R.CTR_BROKEN.at (ctrOff 0 0)) == (trig == 2) && s.fget (R.CTR_VALUE.at (ctrOff 0 0)) == 1
      && (e.colls.filter (·.claims)).length == k && decide (e.claimed + 2 * c.w * c.b ≤ 2 ^ 24)) = true := by decide +kernel

/-- With an engine that holds 64 collectives there is no room for a launch. -/
theorem witness_CollectiveIssueAndLaunch_full :
    (let w := word 5 3 0 0 0 5 0
     let s := collective w (inPad 7 2) { inPad 7 2 with base := spBase + 0x2000 } .null (consist 1 1 7 7 2 3 4)
     let f : State := { s with me := vput s.me 0 { Me.reset with colls := .replicate 64 baseColl } }
     fetches f w = true ∧ (match (after f).readConsist 0 (iBc w) with | (.ok (some _), u) => u.launchRoom 0 | _ => true) = false) := by
  decide +kernel

/-- RTIME late enough for every timer of a collective. -/
def late : Fld × Nat := (⟨R.RTIME, 0, 64⟩, 10 ^ 18)

theorem witness_CollectiveProgress_resend : ∀ u ∈ [sentChunk 0 true, sentChunk 7, sentChunk 8], ∀ st ∈ [CollState.started, .done],
    let c := { baseColl with out := [u], state := st }
    let s := engine [c] [] [late]
    let due := fun (u : OutChunk) => u.sent && decide (u.sentAt + 1000 * s.od D.COLL_RESEND_US ≤ s.rtime)
    (s.meng 0).colls.find? (fun c => c.claims && c.out.any due) = some c ∧ c.out.find? due = some u ∧
      c.abortable = (st == .started) := by decide +kernel

theorem witness_CollectiveProgress_timers :
    let c := { baseColl with left := 1 }
    let s : State := { engine [c] [] [late] with dict := [(D.COAST_US, 1)] }
    (∃ l, (s.meng 0).colls = c :: l ∧ (∀ x ∈ l, x.state ≠ .started) ∧ c.state = .started ∧ c.allReady = false) ∧
    (c.readyAt + 1000 * s.od D.COLL_RESEND_US ≤ s.rtime ∧ (engine [c] []).rtime < c.readyAt + 1000 * (engine [c] []).od D.COLL_RESEND_US) ∧
    (s.meng 0).colls.find? (fun c =>
      c.state == .started && c.abortable && decide (c.lastAt + 1000000 * s.od D.COLL_STALL_MS ≤ s.rtime)) = some c ∧
    (s.meng 0).colls.find? (fun c => c.state == .started && !c.coast && c.awaits && s.od D.COAST_US != 0 &&
      decide (c.waitAt + 1000 * s.od D.COAST_US < s.rtime)) = some c :=
  ⟨⟨[], by decide +kernel⟩, by decide +kernel⟩

theorem witness_CollectiveProgress_done :
    ∀ snap ∈ [none, some (Tile.reset, 0), some (berths column column column column .reset, fword 2 1)], (
      let c := { baseColl with ready := [(0, 0), (1, 0)], skewed := true, snap := snap }
      let s : State := { engine [c] with flips := [(spBase + 0x1000, 3)] }
      (s.meng 0).colls.find? (·.written) == some c && c.snap == snap &&
        match snap with
        | none => true
        | some (t, w) => okB (s.gatherMma c.tile t w) == (w == 0)) = true := by decide +kernel

/-! ## Power and temperature -/

/-- A state with the governor's data changed. -/
def governor (f : Gov → Gov) (r : List (Fld × Nat) := []) : State := (having up r).govMod f

theorem witness_PowerCommands_unpowered : (up.domMod fun d => { d with powered := false }).dom.powered = false := rfl

/-- With the run counter of the clock as given. -/
def runFor (s : State) (n : Nat) : State := { s with clock := { s.clock with run := n } }

theorem witness_PowerCommands_inputs :
    (up.dom.powered = true ∧ up.gov.held = false ∧ up.dom.lineRst = false ∧ up.gov.lost = 0) ∧
    (∀ st ∈ [1, 3], let t := (governor id [(R.PWR_STATUS_STATE, st)]).govMod fun g => { g with alertExt := false }
      t.govState = st ∧ t.alert = false ∧ t.thermForce = false) ∧
    (∀ row : Fin 5, up.gov.alerts.contains (row.val + 1) = false ∧
      (governor fun g => { g with alerts := [row.val + 1] }).gov.alerts.contains (row.val + 1) = true) ∧
    (let s := governor id [(R.PWR_STATUS_STATE, 4)]
     s.dom.powered = true ∧ s.govState = 4 ∧ s.alert = false ∧ s.thermForce = false) ∧
    (let s := governor (fun g => { g with stagger := 5 }) [(R.PWR_STATUS_STATE, 2), (R.RTIME_NS, 5)]
     s.govState = 2 ∧ s.gov.stagger ≤ s.rtime ∧ s.gov.bsAt = 0) ∧
    (∀ b : Fin 2, (governor fun g => { g with lost := 2 ^ b.val }).gov.lost = 2 ^ b.val) := by decide +kernel

/-- Some measurements. -/
def measured : GovIn := ⟨600, 5000, 600, 600, 100, .replicate 4 125, .replicate 4 100, .replicate 4 20⟩

/-- The state a tick leads to before it judges. -/
def ticked (s : State) : State :=
  let m := s.measure measured
  (m.govMod fun g => { g with
    fresh := false, modBal := 0, offSet := 0, hints := if g.held then hintStep m.rtime g.t g.hints else g.hints }).liveFlags.pinFlags

theorem witness_PowerCommands_tick :
    (∀ st ∈ [0, 1, 2], let t := ticked (governor id [(R.PWR_STATUS_STATE, st)])
      t.alert = false ∧ t.thermForce = false ∧ t.gov.held = false ∧ t.govEntries.govState = st) ∧
    (let t := ticked (governor (fun g => { g with held := true }) [(R.PWR_STATUS_STATE, 3)])
     t.alert = false ∧ t.thermForce = false ∧ t.gov.held = true ∧ t.govState ≠ 4) ∧
    (let t := ticked (governor (fun g => { g with held := true, alertExt := true }) [(R.PWR_STATUS_STATE, 4)])
     t.alert = true ∧ t.govState ≠ 3 ∧ t.gov.held = true) ∧
    (∀ n ∈ [100000, 100001],
      let t := ticked (runFor (governor (fun g => { g with held := true, alertExt := true, bsAt := 1 }) [(R.PWR_STATUS_STATE, 3)]) n)
      t.alert = true ∧ t.govState = 3 ∧ (t.gov.bsAt + 100000 ≤ t.clock.run ↔ n = 100001)) := by decide +kernel

theorem witness_PowerCommands_line :
    (let s := up.domMod fun d => { d with lineRst := true }
     s.dom.powered = true ∧ s.gov.held = false ∧ s.dom.lineRst = true) ∧
    (let s := governor (fun g => { g with stagger := 5, bsAt := 7 }) [(R.PWR_STATUS_STATE, 2), (R.RTIME_NS, 5)]
     s.govState = 2 ∧ s.gov.stagger ≤ s.rtime ∧ s.gov.bsAt ≠ 0) := by decide +kernel

theorem fset_t (s : State) (f : Fld) (v : Nat) : (s.fset f v).gov.t = s.gov.t := rfl

theorem foldl_gov {α : Type} {f : State → α → State} (h : ∀ s a, (f s a).gov.t = s.gov.t) (l : List α) (s : State) :
    (l.foldl f s).gov.t = s.gov.t := by
  induction l generalizing s with
  | nil => rfl
  | cons a l ih => rw [List.foldl_cons, ih, h]

theorem freeSet_gov (s : State) (d : Nat) : (s.freeSet d).2.gov.t = s.gov.t := by
  unfold State.freeSet
  dsimp only
  split
  · rfl
  · split
    · rfl
    · split <;> rfl

theorem meRegs_gov (s : State) (d : Nat) : (s.meRegs d).gov.t = s.gov.t := rfl

theorem ownPace_gov (s : State) (d r : Nat) : (s.ownPace d r).gov.t = s.gov.t := by
  unfold State.ownPace
  dsimp only
  split
  · rfl
  · split
    · rfl
    · rw [meRegs_gov]; rfl

theorem setRate_gov (s : State) (d : Nat) : (s.setRate d).gov.t = s.gov.t := by
  unfold State.setRate
  dsimp only
  rw [ownPace_gov, fset_t]
  split <;> rfl

theorem tileBallast_gov (l : List Nat) : ∀ (s : State) (n : Nat), (s.tileBallast n l).gov.t = s.gov.t := by
  induction l with
  | nil => intros; rfl
  | cons d l ih => intro s n; simp only [State.tileBallast]; rw [ih]; rfl

theorem short_t (s : State) : (s.govMod fun g => { g with msShort := true }).gov.t = s.gov.t := rfl

theorem draw_t (s : State) : s.draw.2.gov.t = s.gov.t := rfl

theorem throttle_gov (s : State) (d : Nat) : ((s.throttle d).fset (R.DIE_PWR2_BALLAST_W.at (diePwr d)) 0).gov.t = s.gov.t := by
  rw [fset_t]
  unfold State.throttle
  dsimp only
  rw [fset_t, fset_t, draw_t, draw_t, freeSet_gov]

theorem trimmed_gov (s : State) (d : Nat) (lower : Bool) : (s.trimmed d lower).gov.t = s.gov.t := by
  cases lower <;> rfl

theorem freed_gov (lower : Bool) (s : State) (d : Nat) :
    (((s.freeSet d).2.trimmed d lower).fset (R.DIE_PWR_VSET.at (diePwr d)) (s.freeSet d).1).gov.t = s.gov.t := by
  rw [fset_t, trimmed_gov, freeSet_gov]

theorem allocate_gov (s : State) (t : Nat) (x : GovIn) (h : t < 100 * x.demand) : (s.allocate t x).gov.t = s.gov.t := by
  unfold State.allocate
  dsimp only
  rw [foldl_gov setRate_gov, if_pos h, foldl_gov throttle_gov, fset_t]
  exact foldl_gov (fun _ _ => fset_t _ _ _) _ _

theorem witness_GovernorSlew :
    (let s := governor (fun g => { g with t := 100000 }) [(R.PWR_CAPS_THERM_CAP, 0)]
     (s.control measured).gov.t < s.gov.t - s.fget R.PWR_SMOOTH_SLEW) ∧
    (governor id [(R.PWR_STATUS_STATE, 2)]).govState = 2 ∧ State.reset.gov.held = false ∧ State.reset.dom.cutoff = false ∧
    (governor fun g => { g with held := true }).gov.held = true := by
  refine ⟨?_, by decide +kernel⟩
  unfold State.control
  dsimp only
  rw [allocate_gov _ _ _ (by decide +kernel)]
  decide +kernel

/-- A state with thermal data changed. -/
def thermal (f : Therm → Therm) (r : List (Fld × Nat) := []) : State := (having up r).thMod f

theorem witness_ThermalCommands_cap : up.estCap = (pMax, 0) := Prod.ext (by decide +kernel) (by decide +kernel)

/-- Where the resistances are high every region limits the power, and region 4 first. -/
theorem witness_ThermalCommands_regions :
    let s := thermal fun t => { t with rth := .replicate 12 (1 / 10 : Rat) }
    (∀ x, x < 12 → (pMax : Rat) ≤ up.estOf x) ∧ s.estOf 0 < (pMax : Rat) ∧ 0 < s.rth 11 ∧ s.estCap.2 = 4 := by decide +kernel

theorem witness_ThermalCommands_updates :
    (up.dom.powered = true ∧ up.dom.lineRst = false ∧ steadyMean up.gov.means = none) ∧
    ([some (5 : Int)][0]? = some (some 5) ∧ [some (5 : Int)][1]? = none ∧ [(none : Option Int)][0]? = some none) ∧
    (∀ low : Fin 2, let s := thermal (fun t => { t with lowFor := 101, wellFor := 101 }) [(R.THERM_STATUS_FLOW_LOW, low)]
      s.flag R.THERM_STATUS_FLOW_LOW = (low == 1) ∧ 100 < s.therm.lowFor ∧ 100 < s.therm.wellFor) := by decide +kernel

/-- The supply 0 °C, the return as given, at a steady 400 W. -/
def flowing (out : Int) : State :=
  (thermal fun t => { t with temp := vput t.temp 196 out }).govMod fun g => { g with means := .replicate 1000 40000 }

theorem witness_ThermalCommands_estimator :
    steadyMean (.replicate 1000 40000) = some 400 ∧
    (∀ out ∈ [0, deg 2], (flowing out).takesPart 195 = true ∧ (flowing out).takesPart 196 = true ∧
      (flowing out).temp 196 - (flowing out).temp 195 = out) ∧
    (flowing 0).od D.COOLANT_C ≠ 0 ∧ ({ flowing 0 with dict := [(D.COOLANT_C, 0)] } : State).od D.COOLANT_C = 0 ∧
    (thermal fun t => { t with fault := .replicate 197 true }).takesPart 195 = false ∧ up.dom.powered = true ∧ up.dom.lineRst = false := by
  decide +kernel

/-- The state of the sensors after a sample, before the soft trip is judged. -/
def sampled (s : State) (l : List (Option Int)) : State :=
  let a := s.thMod fun t => { t with sampled := true, temp := Vector.ofFn fun i => (l.getD i.val none).getD (vget 0 t.temp i.val),
                                     fault := Vector.ofFn fun i => (l.getD i.val none).isNone }
  let b := ((List.range 197).foldl (fun u i => u.sensorReg i) a).markFaults
  let c := (b.fset R.THERM_TEMPS_TJ_HOT (tenths b.tjHot)).fset R.THERM_TEMPS_MEM_HOT (tenths (maxTemp ((List.range 8).map b.tm)))
  let d := (c.fset R.THERM_TEMPS_INLET (tenths c.tIn)).fset R.THERM_TEMPS_OUTLET (tenths c.outlet)
  if d.dom.worksRst then d else (List.range 8).foldl (fun u n => u.refresh2x n) d

theorem witness_ThermalCommands_sample :
    (sampled up (.replicate 197 (some (deg 110)))).softTripped = some 0 ∧
    (∀ c ∈ [95, 40], let e := sampled up (.replicate 197 (some (deg c)))
      e.softTripped = none ∧ e.softCool = (c == 40) ∧ nbit e.therm.causes 1 = 0) ∧
    (let e := sampled (thermal fun t => { t with causes := 2, coolFor := 10000 }) (.replicate 197 (some (deg 40)))
     e.softTripped = none ∧ e.softCool = true ∧ nbit e.therm.causes 1 = 1 ∧ 10000 ≤ e.therm.coolFor) := by decide +kernel

/-- Die 0 rises by 20 K in 10 ms, for `n` evaluations so far. -/
def rising (n causes : Nat) : State := thermal fun t => { t with
  temp := .replicate 197 (deg 20), meds := .replicate 10 [0, deg 20, deg 20, deg 20], runs := vput t.runs 0 n, causes := causes }

theorem witness_ThermalCommands_stop : ∀ n ∈ [19, 20], ∀ causes ∈ [0, 4],
    let s := rising n causes
    let ex := (List.range 4).map fun d => s.excess d
    let a := s.thMod fun t => { t with
      runs := Vector.ofFn fun d => if 5 < (ex.getD d.val none).getD 0 then vget 0 t.runs d.val + 1 else 0 }
    vget 0 a.therm.runs 0 = n + 1 ∧ vget 0 a.therm.runs 1 = 0 ∧ nbit a.therm.causes 2 = causes / 4 := by decide +kernel

theorem witness_ThermalCommands_rules :
    let s := thermal fun t => { t with temp := .replicate 197 (deg 40), ruleFor := vput t.ruleFor 0 [(1, 10)] }
    let new := fun (s : State) => ([1, 2, 3, 4, 5, 6, 7].filter fun r => s.guardRule 0 r).map fun r =>
      (r, if r = 5 then s.therm.crossFor else (((vget [] s.therm.ruleFor 0).find? (·.1 == r)).map (·.2)).getD 0 + 1)
    let c := s.thMod fun t => { t with temp := vput t.temp (guardSensor 0) (deg 20) }
    s.guardBad 0 = false ∧ s.tFault (guardSensor 0) = false ∧ (∀ e ∈ new s, e.2 < guardTime e.1) ∧
      (new c).find? (fun e => decide (guardTime e.1 ≤ e.2)) = some (1, 11) := by decide +kernel

theorem witness_ThermalCommands_caps :
    (up.rampCap = 0xFFFF ∧ up.fget R.THERM_CAPS_TJ_CAP = 0xFFFF ∧ up.fget R.THERM_CAPS_PLAUS_CAP = 0xFFFF) ∧
    (∀ x, x < 12 → up.tx x ≤ deg (if x < 4 then 105 else 95)) ∧ nbit up.therm.causes 4 = 0 :=
  ⟨by decide +kernel, by decide +kernel⟩

theorem witness_ThermalCommands_checks :
    (∀ d, d < 4 → up.excess d = none) ∧ (thermal fun t => { t with sampled := true }).therm.sampled = true ∧
    (∀ g : Fin 10, let s := thermal fun t => { t with fault := .replicate 197 true }
      s.guardBad g = false ∧ s.tFault (guardSensor g) = true ∧ s.takesPart (guardSensor g) = false) :=
  ⟨fun d _ => by
    have h : up.therm.meds[9]? = none := rfl
    simp only [State.excess, h]
    cases up.dieMedian d none <;> rfl, by decide +kernel, by decide +kernel⟩

/-- The state in which a comparator's trip is judged. -/
def tripped (s : State) (g : Fin 8) (reading : Int) : State :=
  let t := ((s.forceOn 5 g).thMod fun t => { t with trips := t.trips ++ [(g.val, reading)] }).report thermSource .thermTrip
    (guardSensor g) 0
  t.event thermSource 0x0D84 (leBytes 1 (guardSensor g) ++ [0] ++ leBytes 2 (tenths reading))

theorem witness_ThermalCommands_trips : ∀ g : Fin 8, ∀ before : Fin 2, (
    let s := (thermal id [regAt R.THERM_STATUS [(R.THERM_STATUS_TRIP, before), (R.THERM_STATUS_FORCE, 1)], (R.PWR_STATUS_STATE, 3)]).govMod
      fun g => { g with held := true }
    let u := tripped s g (deg 118)
    s.dom.powered && s.takesPart (guardSensor g) && s.therm.trips.isEmpty && u.flag R.THERM_STATUS_TRIP == (before == 1)
      && !(u.fset R.THERM_STATUS_TRIP 1).dom.worksRst && decide (deg 125 ≤ deg 125)) = true := by decide +kernel

/-! ## The interlock, fences, resets and bring-up -/

theorem witness_InterlockCommands_collect :
    up.dom.lineRst = false ∧ (holding [0x0E01]).heldAt (5 : BitVec 16).toNat = [msg 0x0E01] ∧
    (∀ e ∈ [(0x0E05, 0), (0x0E01, 1), (0x0E02, 2), (0x0E07, 3)], ∀ clear : Bool,
      (msg e.1 clear).known = msg e.1 clear ∧ (msg e.1 clear).clear = clear ∧
        ((up.wrap R.IL_LOG_STAT_NEXT_LSEQ).classify (msg e.1 clear)).1 = e.2) := by decide +kernel

theorem witness_InterlockCommands_bucket :
    let cap := up.od D.BUCKET_CAP
    let at_ := fun (n full : Nat) => having up [regAt (R.IL_BUCKET + 8 * 5) [(R.IL_BUCKET_LEVEL, n), (R.IL_BUCKET_FULL, full)]]
    (∀ n ∈ [0, cap - 2, cap - 1], ∀ full : Fin 2,
      (at_ n full).flag R.IL_STATUS_SAFE = false ∧ (msg 0x0E01).clear = false ∧ (msg 0x0E01).baseClass ≠ 3 ∧
        (at_ n full).flag (R.IL_BUCKET_FULL.at (8 * 5)) = (full == 1) ∧ (at_ n full).fget (R.IL_BUCKET_LEVEL.at (8 * 5)) = n ∧
        (at_ n full).il.readAt = none) ∧
    cap - 2 + 1 < cap ∧ cap ≤ cap - 1 + 1 := by decide +kernel

/-- The bucket of source 5 has just been read, at a level and FULL. -/
def bucketRead (n full : Nat) : State :=
  ((having up [regAt (R.IL_BUCKET + 8 * 5) [(R.IL_BUCKET_LEVEL, n), (R.IL_BUCKET_FULL, full)]]).csrRead 0 none (R.IL_BUCKET + 8 * 5) 8).2.2

theorem witness_InterlockCommands_read : ∀ full : Fin 2, ∀ n ∈ [0, up.od D.BUCKET_CAP - 1],
    let s := bucketRead n full
    s.flag R.IL_STATUS_SAFE = false ∧ s.il.readAt = some (5, n, full == 1, s.clock.run) ∧ s.flag (R.IL_BUCKET_FULL.at (8 * 5)) = false ∧
      s.fget (R.IL_BUCKET_LEVEL.at (8 * 5)) = 0 ∧ (msg 0x0E01).source = 5 ∧ 1 + (msg 0x0E01).rep < s.od D.BUCKET_CAP ∧
      (s.od D.BUCKET_CAP ≤ n + (1 + (msg 0x0E01).rep) ↔ n ≠ 0) := by decide +kernel

/-- R421: in the access that reads the bucket a message is judged by the level before the read, and the bucket is left at 1 + REPEAT. -/
theorem test_il_bucket_read_with_message :
    let r := (bucketRead (up.od D.BUCKET_CAP - 1) 0).ilRead 5 (up.od D.BUCKET_CAP - 1) false 1
    r.1 = true ∧ r.2.2.fget (R.IL_BUCKET_LEVEL.at (8 * 5)) = 1 := by decide +kernel

/-- The interlock in fault state, its quiet timer past, with conditions. -/
def quieted (l : List Cond) : State :=
  let s := having up [(R.IL_STATUS_FAULT_STATE, 1)]
  { s with il := { s.il with conds := l, expired := true } }

theorem witness_InterlockCommands_exit :
    (∀ hold : Fin 2, let s := having up [regAt R.IL_STATUS [(R.IL_STATUS_FAULT_N, 1), (R.IL_STATUS_FAULT_N_HOLD, hold)]]
      s.flag R.IL_STATUS_FAULT_N = true ∧ s.il.pulse = false ∧ s.flag R.IL_STATUS_FAULT_N_HOLD = (hold == 1)) ∧
    (having up [(R.IL_STATUS_QUIET_RUN, 1)]).flag R.IL_STATUS_QUIET_RUN = true ∧
    (∀ l ∈ [[], [⟨5, 0x0E20, 1⟩], [(⟨5, 0x0E53, 2⟩ : Cond)]], let s := quieted l
      s.flag R.IL_STATUS_FAULT_STATE = true ∧ s.il.expired = true ∧ s.flag R.IL_STATUS_CLEAR_REQUIRED = false ∧
        s.flag R.IL_STATUS_COND_OVF = false ∧ s.flag R.IL_STATUS_SAFE = false ∧ s.hourExits < s.od D.RECOVERY_LIMIT ∧
        ((∀ c ∈ s.il.conds, c.cls < 2) ∨ ∃ c ∈ s.il.conds, 2 ≤ c.cls)) := by decide +kernel

theorem witness_InterlockCommands_quiet :
    let s := having up [(R.IL_STATUS_QUIET_RUN, 1)]
    up.dom.lineRst = false ∧ s.flag R.IL_STATUS_QUIET_RUN = true ∧ s.clock.run < s.il.quietAt + 1000000000 * s.od D.QUIET_S ∧
      (∀ q : Fin 2, let t := runFor s (1000000000 * s.od D.QUIET_S - q)
        t.flag R.IL_STATUS_QUIET_RUN = true ∧ (t.il.quietAt + 1000000000 * t.od D.QUIET_S ≤ t.clock.run ↔ q = 0)) := by decide +kernel

theorem witness_InterlockCommands_self : ∀ raised : Bool,
    let s : State := { having up [(R.IL_STATUS_SAFE, 1)] with il := { up.il with conds := if raised then [⟨ilSource, 0x0E60, 3⟩] else [] } }
    s.flag R.IL_STATUS_SAFE = true ∧ (s.condOf ilSource 0x0E60).isSome = raised ∧ s.heldAt ilSource = [] := by decide +kernel

theorem witness_InterlockCommands_rows :
    (kindListed 0x0E01 = true ∧ kindListed 0 = false ∧ sourceListed 5 = true ∧ sourceListed 0xFFF = false) ∧
    (kindCond 0x0E20 = true ∧ kindCond 0x0E01 = false) ∧
    (({ msg 0x0E14 with high := true } : FaultMsg).baseClass = 2 ∧ ({ msg 0x0E51 with high := true } : FaultMsg).baseClass = 3) := by
  decide +kernel

theorem witness_InterlockCommands_inject :
    (∀ on ∈ [0, 1], ({ up with dict := [(D.INJECT_EN, on)] } : State).od D.INJECT_EN = on) ∧
    (∀ safe : Fin 2, (having up [(R.IL_STATUS_SAFE, safe)]).flag R.IL_STATUS_SAFE = (safe == 1)) ∧ ((3 : Fin 4).val ≠ 0) := by decide +kernel

/-- The bucket of source 0xFFF. -/
def bucketAt (n full : Nat) : State := having up [regAt (R.IL_BUCKET + 8 * 0xFFF) [(R.IL_BUCKET_LEVEL, n), (R.IL_BUCKET_FULL, full)]]

theorem witness_InterlockCommands_canon : (bucketAt 1 0).Canon ∧ (bucketAt 1 1).Canon ∧ up.Canon := by
  have h : canonB (bucketAt 1 0) = true ∧ canonB (bucketAt 1 1) = true ∧ canonB up = true := by decide +kernel
  exact ⟨canon_of h.1, canon_of h.2.1, canon_of h.2.2⟩

theorem witness_InterlockCommands_drain :
    (bucketAt 1 0).fget (R.IL_BUCKET_LEVEL.at (8 * 0xFFF)) = 1 ∧ (bucketAt 1 0).flag (R.IL_BUCKET_FULL.at (8 * 0xFFF)) = false ∧
      1 < (bucketAt 1 0).od D.BUCKET_CAP ∧ (bucketAt 1 1).flag (R.IL_BUCKET_FULL.at (8 * 0xFFF)) = true ∧
      up.fget (R.IL_BUCKET_LEVEL.at (8 * 0xFFF)) = 0 := by decide +kernel

/-- A fence of a target in a phase. -/
def fenceAt (c : Nat) (phase : FencePhase) (hold : Bool := true) : Fence := ⟨c, 1, 2, 0xFFFFFFFF, hold, phase, false, false, 0xFFFFFFFF, []⟩

/-- RC-A active, with a fence. -/
def fencedIn (l : List Fence) (r : List (Fld × Nat) := []) : State := (serving r).mgrMod fun m => { m with fences := l }

theorem witness_FenceCommands_targets :
    (∀ c ∈ [0x00C0, 0x0804, 0xFFFF], tgtOf c = none ∧ (BitVec.ofNat 16 c).toNat = c) ∧ serving.accessStatus R.FENCE_REQ = 0 ∧
    ({ up with dom := { up.dom with worksRst := true } } : State).accessStatus R.FENCE_REQ = 0 := by decide +kernel

theorem witness_FenceCommands_requests : ∀ e ∈ [(0x0103, Tgt.me 3), (0x0207, .md 7), (0x0217, .we 7), (0x0511, .rc 1)], (
    let s := fencedIn [fenceAt e.1 .stays]
    tgtOf e.1 == some e.2 && !serving.dom.worksRst && serving.inService e.2 && !serving.isFenced e.1 e.2 && !serving.hitsActive e.2
      && s.isFenced e.1 e.2 && s.mgr.held.isEmpty && s.fenceOf e.1 == some (fenceAt e.1 .stays)) = true := by decide +kernel

theorem witness_FenceCommands_active :
    (serving.inService (.rc 0) && !serving.isFenced 0x0510 (.rc 0) && serving.hitsActive (.rc 0) && !serving.standbyOk
      && tgtOf 0x0510 == some (.rc 0)) = true := by decide +kernel

/-- With acts of the escalation on record: a target and a level each. -/
def actedOn (l : List (Nat × Nat)) : State := serving.mgrMod fun m => { m with acts := l.map fun e => (e.1, e.2, 0) }

/-- The first request stays at its level, a repeated one moves to the die, and with the die and the package repeated to the power cycle. -/
theorem witness_FenceCommands_climb :
    let many := fun (c level : Nat) => List.replicate 8 (c, level)
    let at_ := fun (l : List (Nat × Nat)) => ((actedOn l).climb 0x0103 1 5).1
    let lv := fun (l : List (Nat × Nat)) => ((actedOn l).climb 0x0103 1 5).2.1
    (actedOn []).inService (.me 3) = true ∧ (actedOn []).hitsActive (.me 3) = false ∧ (at_ [] = 0x0103 ∧ lv [] = 1) ∧
    (let l := many 0x0103 1
     let u := ((actedOn l).climb 0x0103 1 5).2.2
     at_ l = 0x0803 ∧ lv l = 2 ∧ (∃ t, tgtOf 0x0803 = some t ∧ u.isFenced 0x0803 t = false ∧ u.hitsActive t = false)) ∧
    lv (many 0x0103 1 ++ many 0x0803 2) = 3 ∧ lv (many 0x0103 1 ++ many 0x0803 2 ++ many 0xFFFF 3 ++ many 0xFFFF 4) = 5 ∧
    (actedOn (many 0x0103 1)).od D.ESC_REPEAT ≤ (actedOn (many 0x0103 1)).recentActs 0x0103 1 + 1 := by
  refine ⟨by decide +kernel, by decide +kernel, by decide +kernel, ⟨by decide +kernel, by decide +kernel, ?_⟩, by decide +kernel⟩
  exact ⟨.die 3, by decide +kernel⟩

theorem witness_FenceCommands_begins : ∀ e ∈ [(0x0103, Tgt.me 3), (0x0207, .md 7), (0x0217, .we 7), (0x0511, .rc 1)], (
    let x : Fence := ⟨e.1, 1, 2, 7, false, .drain, false, false, 0xFFFFFFFF, (serving.toSample e.2).map fun p => serving.sampleOf p 2 1 7⟩
    let u := serving.mgrMod fun m => { m with
      fences := (m.fences.filter fun y => !e.2.covers y.target) ++ [x], acts := m.acts ++ [(e.1, 1, serving.rtime)] }
    !serving.hitsActive e.2 && !((u.bump R.ESC_EVENTS_FENCES R.ESC_EVENTS2_FENCES_OVF 1).csrPut R.FENCE_LAST
      (BitVec.ofNat 64 (e.1 * 2 ^ 48 + 2 * 2 ^ 40 + 1 * 2 ^ 36 + 7))).participates e.2) = true := by decide +kernel

theorem witness_FenceCommands_phases :
    (∀ phase ∈ [FencePhase.drain, .drained, .unitReset, .lifting], ∀ hold : Bool,
      let s := fencedIn [fenceAt 0x0103 phase hold]
      s.fenceOf 0x0103 = some (fenceAt 0x0103 phase hold) ∧ tgtOf 0x0103 = some (.me 3) ∧ s.drainLeft (.me 3) = [] ∧
        (∀ passed : Bool, (s.unitReset (.me 3) passed (.replicate 2 15)).1 = passed)) ∧
    (let s := fencedIn [fenceAt 0x0103 .unitReset false]
     let s : State := { s with dict := [(D.AUTO_LIFT, 1)] }
     (s.unitReset (.me 3) true (.replicate 2 15)).2.od D.AUTO_LIFT = 1) ∧
    (let s := serving [(R.EPOCH_STATUS_ESTATE, 4)]
     s.estate = 4 ∧ s.epoch.drained = false ∧ s.dom.worksRst = false) := by decide +kernel

/-- A state with its reset domains changed. -/
def domains (f : Dom → Dom) (r : List (Fld × Nat) := []) : State := (having up r).domMod f

theorem witness_ResetCommands_entries :
    (∀ k ∈ [1, 2, 4], let s := domains fun d => { d with reqKind := k }
      s.dom.reqKind = k ∧ s.dom.worksRst = false ∧ s.dom.lineRst = false) ∧
    (∀ k ∈ [1, 2, 3], let s := domains fun d => { d with sigReq := k }
      s.dom.sigReq = k ∧ s.dom.signalRst = false ∧ s.sigPending = none) ∧ up.dom.powered = true := by decide +kernel

theorem witness_ResetCommands_exits :
    (let s := (domains fun d => { d with worksRst := true }).bootMod fun b => { b with stage := 3 }
     s.dom.worksRst = true ∧ s.dom.lineRst = false ∧ s.dom.cutoff = false ∧ s.flag R.THERM_STATUS_TRIP = false ∧
       s.flag R.RESET_STATUS_CYCLE_REQ = false ∧ s.boot.stage = 3 ∧ s.boot.outcome = 0) ∧
    (∀ again : Bool, ∀ bad ∈ [(0 : BitVec 2), 3],
     let s := ((domains fun d => { d with worksRst := true, lineRst := true }).bootMod fun b => { b with stage := 2 }).fwMod fun x =>
       { x with lineAgain := again }
     s.dom.lineRst = true ∧ s.dom.powered = true ∧ s.dom.cutoff = false ∧ s.boot.stage = 2 ∧ s.boot.outcome = 0 ∧ s.fw.lineAgain = again ∧
       ((s.lineTrial.bootSlot 2 bad).1 = true ↔ bad = 0)) ∧
    (∀ line : Bool, ∀ safe : Fin 2,
      let s := domains (fun d => { d with worksRst := true, lineRst := line, exitTimer := true }) [(R.IL_STATUS_SAFE, safe)]
      s.dom.exitTimer = true ∧ (if line then s.dom.lineRst = true else s.dom.lineRst = false ∧ s.dom.worksRst = true) ∧
        s.flag R.THERM_STATUS_TRIP = false ∧ s.flag R.IL_STATUS_SAFE = (safe == 1)) ∧
    (let s := domains fun d => { d with worksRst := true, lineRst := true, signalRst := true }
     s.dom.signalRst = true ∧ s.dom.powered = true ∧ s.flag R.RESET_STATUS_SB_HELD = false ∧ s.sb.noImage = false ∧
       s.dom.lineRst = true) := by decide +kernel

/-- A run of bring-up at a stage. -/
def atStage (k : Nat) (f : Boot → Boot := id) : State := serving.bootMod fun b => f { b with stage := k }

theorem witness_BringupAndTrials_stages :
    (∀ k : Fin 8, let s := atStage k
      s.dom.powered = true ∧ s.dom.cutoff = false ∧ s.dom.signalRst = false ∧ s.boot.outcome = 0 ∧ s.boot.stage = k ∧
        s.boot.licNext = none) ∧
    (let s := atStage 5
     s.dom.worksRst = false ∧ s.rcState s.rcActive = 4 ∧ s.boot.notice = 0) ∧
    (let s := atStage 2 fun b => { b with outcome := 2, cause := 0x1004 }
     s.clock.present = true ∧ s.boot.stage = 2 ∧ s.boot.outcome = 2 ∧ s.boot.cause = 0x1004) := by decide +kernel

/-- Stage S6 with the tray number set and the digest of the fabric accepted, or not. -/
def fabricAt (outcome : Nat) (yes : Bool) : State :=
  let s : State := { atStage 6 fun b => { b with outcome := outcome } with dict := [(D.TRAY_NO, 0)] }
  s.bootMod fun b => { b with accepted := if yes then some s.topoCompute else none }

theorem witness_BringupAndTrials_fabric : ∀ outcome ∈ [0, 3], ∀ yes : Bool,
    let s := fabricAt outcome yes
    let t := s.bootMod fun b => { b with topoOn := true }
    s.boot.outcome = outcome ∧ s.boot.stage = 6 ∧ s.traySet = true ∧ s.portsSettled = true ∧ (t.s6Cause = 0 ↔ yes = true) := by
  decide +kernel

theorem witness_BringupAndTrials_background : ∀ stop : Bool,
    let s := (serving [(R.BOOT_STATUS_BG_RUN, 1)]).bootMod fun b => { b with bgStop := stop }
    s.flag R.BOOT_STATUS_BG_RUN = true ∧ (∀ n, n < 8 → s.bgBusy n = false) ∧ s.boot.bgStop = stop := by decide +kernel

/-- Target `t` in trial. -/
def inTrial (t : Nat) (ok : Nat := 0) : State :=
  let s := having up [regAt R.RC_STATUS [(R.RC_STATUS_STANDBY_OK, ok)]]
  { s with fw := { s.fw with slots := vput s.fw.slots (2 * t) { FwSlot.shipped with state := 4 }, flashed := true }
           sb := { s.sb with up := true } }

/-- The cut-over of SIGNAL with its conditions met, and abandoned. -/
theorem witness_ResetCommands_cutOver : ∀ ok : Fin 2, ∀ kind ∈ [2, 3],
    let s := (inTrial 0 ok).domMod fun d => { d with sigReq := kind }
    s.dom.sigReq = kind ∧ s.dom.signalRst = false ∧ s.sigPending = some 0 ∧ (s.fwBlock (some 0) = 0 ↔ ok = 1) := by decide +kernel

/-- The slots of a state, each in a state of its own. -/
def slotsIn (l : Vector Nat 6) : State := { up with fw := { up.fw with slots := l.map fun k => { FwSlot.shipped with state := k } } }

theorem witness_BringupAndTrials_slots : ∀ t : Fin 3, ∀ spare ∈ [1, 5],
    let s := slotsIn #v[6, spare, 6, spare, 6, spare]
    (s.fwSlot (s.inForce t)).state = 6 ∧ (s.fwSlot (s.idle t)).state = spare ∧ s.imageBad (s.idle t) false = false ∧
      (∀ bad : Bool, (slotsIn (.replicate 6 5)).bootFails ((slotsIn (.replicate 6 5)).inForce t) bad = bad) := by decide +kernel

theorem witness_BringupAndTrials_runtime : ∀ n ∈ [9999999999, 10000000000, 1000000000 * up.od D.FW_TRIAL_S],
    (runFor (inTrial 1 1) n).trial 1 = true ∧ ((runFor (inTrial 1 1) n).mayConfirm 1 = true ↔ n = 10000000000) := by decide +kernel

theorem witness_BringupAndTrials_fatal : ∀ e ∈ [(0, 0x1002), (2, 0x1005), (3, 0x1006), (4, 0x1009)], ∀ fatal : Bool,
    let s := atStage e.1 fun b => { b with fatal := if fatal then e.2 else 0 }
    s.boot.stage = e.1 ∧ s.boot.outcome = 0 ∧ s.trial 2 = false ∧ (s.boot.fatal = e.2 ↔ fatal = true) := by decide +kernel

theorem witness_BringupAndTrials_trials :
    (∀ t ∈ [0, 2], (inTrial t).mayConfirm t = true ∧ ((inTrial t).fwSlot ((inTrial t).inForce t)).raise = false) ∧
    (∀ t : Fin 3, ∀ ok : Fin 2, (inTrial t ok).trial t = true ∧ ((inTrial t ok).fallBack t 1).standbyOk = (ok == 1)) := by decide +kernel

/-! ## The object dictionary, the field port and the sideband -/

/-- A dictionary message: operation, key, grant, REQ_ID, session, value. -/
def odBytes (op key grant req session : Nat) (value : List Byte := []) : List Byte :=
  leBytes 1 op ++ [0] ++ leBytes 2 (key / 256) ++ leBytes 1 key ++ leBytes 1 grant ++ [0, 0] ++ leBytes 4 req ++ leBytes 4 session
    ++ leBytes 4 0 ++ leBytes 2 value.length ++ [0, 0] ++ value

/-- The signal box serves session 9, and the tray controller is attached. -/
def boxed (f : Sb → Sb := id) (r : List (Fld × Nat) := []) : State := (having up r).sbMod fun b => f { b with up := true, session := 9 }

/-- The request of those bytes on the field port. -/
def parsed (l : List Byte) : OdReq := odParse false 1 l

/-- Nothing unusual when a request is served. -/
def calm : OdEnv := ⟨false, false, 0⟩

/-- What the clauses on a row ask: its access, and its level's code against 3. -/
def rowIs (key : Nat) (f : OdRow → Bool) : Bool :=
  match odFind key with
  | some r => f r
  | none => false

theorem witness_DictionaryRequests_order :
    let kept := boxed fun b => { b with kept := vput b.kept 0 [(7, [1])] }
    (∀ op ∈ [1, 2, 3, 0x10, 0x11, 0x21], let l := leBytes 1 op
      (parsed l).op = op ∧ (parsed l).malformed = true ∧ l.length ≤ 1048) ∧
    (∀ op ∈ [1, 2, 3, 0x10, 0x11, 0x21], let l := odBytes op D.TRAY_NO 0 7 9
      (parsed l).op = op ∧ (parsed l).malformed = false ∧ l.length ≤ 1048 ∧
        (vget [] kept.sb.kept 0).lookup (parsed l).reqId = some [1] ∧ (vget [] boxed.sb.kept 0).lookup (parsed l).reqId = none) ∧
    boxed.dom.signalRst = false ∧ boxed.sb.up = true ∧ boxed.sb.dup = false ∧
    (BitVec.ofNat 16 (boxed.od D.OD_PORT)).toNat = boxed.od D.OD_PORT ∧ calm.busy = false := by decide +kernel

/-- A request of `REQ_ID` `req` that waits. -/
def waits (req : Nat) (mute : Bool := false) : OdWait := ⟨.port 5 0 true (odBytes 1 D.TRAY_NO 0 req 0), odBytes 1 D.TRAY_NO 0 req 0, calm, mute⟩

/-- The signal box with `n` requests that wait on a path. -/
def boxQueued (path n : Nat) (turn : Nat := 0) : State := boxed fun b =>
  { b with waiting := vput b.waiting path ((List.range n).map fun k => waits k), turn := turn }

theorem witness_DictionaryRequests_queue :
    (vget [] (boxQueued 0 7).sb.waiting 0).length < 8 ∧ 8 ≤ (vget [] (boxQueued 0 8).sb.waiting 0).length ∧
    (∀ p : Fin 2, ∀ both : Bool,
      let s := (boxQueued p 1 p).sbMod fun b => if both then { b with waiting := .replicate 2 [waits 0] } else b
      vget [] s.sb.waiting p = [waits 0] ∧ s.sb.turn = p ∧ ((vget [] s.sb.waiting (1 - p)).isEmpty = !both) ∧ s.sb.up = true ∧
        s.dom.signalRst = false) ∧
    vget [] boxed.sb.waiting 0 = [] ∧ vget [] boxed.sb.waiting 1 = [] := by decide +kernel

/-- An acknowledged notice of a cut stays while its condition does, and goes with another notice or without the condition. -/
theorem witness_DictionaryRequests_notice :
    let q := parsed (odBytes 0x21 0 0 7 9)
    let n : Notice := ⟨7, 1, 0, [], false⟩
    let s : State := { boxed id [(R.THERM_STATUS_CUT_REQ, 1)] with notices := [n, { n with reqId := 8 }] }
    q.malformed = false ∧ q.op = 0x21 ∧ q.reqId = 7 ∧ n ∈ s.notices ∧ n.reqId = q.reqId ∧ s.flag R.THERM_STATUS_CUT_REQ = true := by
  decide +kernel

/-- A value never served, served and unchanged, and changed since. -/
theorem witness_DictionaryRequests_gen : ∀ old ∈ [none, some [1], some [2]],
    let s : State := (({ boxed with blob := [(D.LICENCE, some [1])] } : State).sbMod fun b =>
      { b with seen := match old with | some l => [(D.LICENCE * 2, some l)] | none => [] })
    (rowIs D.LICENCE fun r => r.type.size == 0) = true ∧ tget (fun _ => none) s.sb.seen (D.LICENCE * 2 + 0) = old := by
  decide +kernel

theorem witness_DictionaryRequests_sessions :
    (let q := parsed (odBytes 0x10 0 0 7 8)
     q.session ≠ 0 ∧ q.session ≠ boxed.sb.session ∧ boxed.sb.orphan ≠ 1) ∧
    (let q := parsed (odBytes 0x11 0 0 7 9)
     q.session ≠ 0 ∧ q.session = boxed.sb.session) ∧
    (boxed.sessionOk (parsed (odBytes 2 D.TRAY_NO 0 7 8)) = false ∧ boxed.sessionOk (parsed (odBytes 2 D.TRAY_NO 0 7 9)) = true) ∧
    (boxed.odLevel (parsed (odBytes 1 D.TRAY_NO 1 7 9)) = none ∧ boxed.odLevel (parsed (odBytes 1 D.TRAY_NO 0 7 9)) = some 3) := by decide +kernel

set_option maxRecDepth 100000 in
/-- A request over lane CL: delivered as one message or not at all. -/
theorem witness_DictionaryRequests_lane :
    let f := flit 6 1 24 (odBytes 1 D.TRAY_NO 1 7 0)
    let r := (control.rxFlit 0 f (· == 6)).2
    (control.rxFlit 0 f (· == 6)).1 = true ∧ ((laneIn 0 1 credited).rxFlit 0 f (· == 6)).1 = false ∧
    ((r.gather f).1.map fun x => (odParse true 0 x.body).op) = some 1 ∧ (r.gather f).2.sb.up = false ∧
    (let f := flit 6 1 24 (odBytes 1 D.TRAY_NO 1 7 0)
     let g : FlitIn := ⟨flitBits ⟨6, 1, false, 0, 24, odBytes 1 D.TRAY_NO 1 7 0, none⟩ 0 0xFFF 0 0, false⟩
     fType f = 6 ∧ ((control.rxFlit 0 g (· == 6)).2.gather g).1 = none) := by decide +kernel

theorem witness_DictionaryRequests_sessions2 :
    (let s := boxed fun b => { b with orphan := 1 }
     (7 ≠ 0 ∧ 7 ≠ s.sb.session ∧ s.sb.orphan = 1)) ∧ calm.flashFails = false ∧ ({ calm with flashFails := true } : OdEnv).flashFails = true := by
  decide +kernel

theorem witness_DictionaryRequests_write :
    let q := fun (offset fl : Nat) => ({ parsed (odBytes 2 D.LICENCE 0 7 9 [1, 2]) with offset := offset, flags := fl } : OdReq)
    let s := boxed fun b => { b with staged := vput b.staged 0 (some (D.LICENCE, [5])) }
    (rowIs D.LICENCE fun r => r.type.size == 0 && decide (2 ≤ r.largest) && decide (r.largest = 192) && r.persist) = true ∧
    (vget none s.sb.staged (q 1 1).path = some (D.LICENCE, [5]) ∧ (q 1 1).key = D.LICENCE ∧ (q 1 1).offset = 1) ∧
    vget none boxed.sb.staged (q 1 1).path = none ∧ (q 0 0).flags % 2 = 0 ∧ (q 0 1).flags % 2 = 1 ∧
    (rowIs D.TRAY_NO fun r => match r.range with | some g => !(g.also.contains 0xFFFE) && decide (g.hi < 0xFFFE) | none => false) = true ∧
    govKeys.contains D.BGTEST_EN = false ∧ govKeys ≠ [] := by decide +kernel

theorem witness_DictionaryRequests_rows :
    odFind 0x000101 = none ∧ rowIs D.VENDOR (fun r => r.acc == .ro && decide (3 ≤ r.level.code)) = true ∧
    rowIs D.ORPHAN_RELEASE (fun r => r.acc == .wo && decide (3 ≤ r.level.code)) = true ∧
    rowIs D.PLCA_TO (fun r => r.acc == .rw && decide (r.level.code < 3) && !boxed.odOpen D.PLCA_TO) = true ∧
    rowIs D.TRAY_NO (fun r => r.acc == .rwIdle && decide (3 ≤ r.level.code) && decide (r.type.size ≠ 0)) = true ∧
    rowIs D.TRAY_INLET (fun r => r.acc == .rw && decide (3 ≤ r.level.code)) = true ∧
    (let s : State := { boxed with prog := { Prog.empty with loaded := true } }
     s.odIdle = false ∧ boxed.odIdle = true) := by decide +kernel

/-- Is a write of the key with a value served with an empty answer? -/
def serves (key : Nat) (value : List Byte) : Bool :=
  let l := odBytes 2 key 0 7 8 value
  let q := parsed l
  decide (l.length ≤ 1048) && q.op == 2 && !q.malformed && q.key == key
    && ((boxed.sbMod fun b => { b with waiting := .replicate 2 [], turn := 1 }).odServe q calm).2.1.isEmpty

theorem witness_DictionaryActions_served :
    (∀ key ∈ [D.RTIME_NEXT, D.GUARD_CLEAR, D.FAULT_ACK, D.FAULT_CLEAR, D.RECOVERIES_RESET, D.ACCEPT_REDUCED, D.TOPO_ACCEPT,
      D.GEOMETRY_EXPECT, D.TRAY_NO, D.BGTEST_EN, D.LICENCE, D.DIE_MARKS, D.DIE_MARKS + 7, D.FW_HEADER, D.FW_ABORT, D.ATTEST_NONCE, D.OWNER_KEY,
      D.GRANT, D.GRANT + 14, D.GRANT_MIN_SEQ, D.LICENCE_KEY_CERT, D.ORPHAN_RELEASE, 0x604001, 0x604340], serves key [] = true) ∧
    (chunkOf 0x604001).isSome = true ∧ (chunkOf 0x604340).isSome = true ∧
    (∀ v ∈ [1, 2], serves D.THERM_CLEAR (leBytes 2 v) = true) ∧ (∀ v ∈ [1, 2, 3], serves D.FW_ACTIVATE (leBytes 1 v) = true) := by
  decide +kernel

/-- A row of four bytes without a range. -/
def plainRow : OdRow := ⟨"", D.GEOMETRY_EXPECT, 1, .u32, .rw, .driver, 0, true, none⟩

theorem witness_DictionaryActions_scalar :
    let q := parsed (odBytes 2 D.GEOMETRY_EXPECT 0 7 9 (leBytes 4 5))
    plainRow.type.size ≠ 0 ∧ q.value.length = plainRow.type.size ∧ q.offset = 0 ∧ plainRow.type ≠ .bool ∧ plainRow.range = none ∧
      plainRow.key ≠ D.DIE_MARKS ∧ plainRow.key ≠ D.GRANT := by decide +kernel

/-- A package that may activate LINE firmware: the standby is checked, and the idle slot is STAGED. -/
def mayActivate : State :=
  let s := boxed id [regAt R.RC_STATUS [(R.RC_STATUS_STATE_A, 4), (R.RC_STATUS_STATE_B, 3), (R.RC_STATUS_STANDBY_OK, 1)]]
  { s with fw := { s.fw with slots := vput s.fw.slots 5 { FwSlot.shipped with state := 2 } } }

theorem witness_DictionaryActions_applied :
    boxed.dom.lineRst = false ∧ (∀ safe : Fin 2, (boxed id [(R.IL_STATUS_SAFE, safe)]).flag R.IL_STATUS_SAFE = (safe == 1)) ∧
    (let s := boxed.bootMod fun b => { b with topoOn := true }
     s.boot.topoOn = true ∧ s.topoDigest + 1 ≠ s.topoDigest) ∧
    (7 ≠ 0 ∧ 7 ≠ boxed.fget R.BOOT_GEOM_IN_SERVICE) ∧ (thermal fun t => { t with calmFor := 1000 }).therm.calmFor ≤ 1000 ∧
    (boxed.sb.orphan = 0 ∧ (boxed fun b => { b with orphan := 2 }).sb.orphan = 2) ∧ mayActivate.activateCode 2 = 0 ∧
    boxed.activateCode 0 ≠ 0 := by decide +kernel

theorem witness_DictionaryActions_blobs :
    boxed.staging = none ∧ (∀ k ∈ [0x604001, 0x604340], chunkOf k ≠ none ∧ k ≠ D.FW_HEADER ∧ k ≠ D.OWNER_KEY ∧ k ≠ D.ATTEST_NONCE ∧
      k ≠ D.LICENCE_KEY_CERT ∧ k ≠ D.LICENCE) ∧ (boxed.fwHeaderCode []).1 ≠ 0 ∧
    (({ boxed with blob := [(D.OWNER_KEY, some [1])] } : State).blobOf D.OWNER_KEY).isEmpty = false ∧
    (List.replicate 31 (0 : Byte)).length ≠ 32 := by decide +kernel

theorem witness_PortAndSideband_port :
    up.dom.powered = true ∧ boxed.sbRuns = true ∧ boxed.dom.signalRst = false ∧ boxed.sb.up = true ∧ boxed.sb.session ≠ 0 ∧
    boxed.sb.orphan ≠ 1 ∧ ({ boxed with dict := [(D.ORPHAN_CAP_W, 300)] } : State).od D.ORPHAN_CAP_W ≠ 0 ∧ (BitVec.ofNat 128 boxed.linkLocal).toNat = boxed.linkLocal ∧
    boxed.sb.dup = false ∧ (boxed fun b => { b with dup := true }).sb.dup = true ∧
    (∀ n ∈ [999999999, 1000000000], let s := runFor (boxed fun b => { b with dad := some 0 }) n
      s.sbRuns = true ∧ s.sb.dad = some 0 ∧ (s.clock.run < 0 + 1000000000 ↔ n = 999999999)) ∧
    (BitVec.ofNat 128 (boxed.linkLocal + 1)).toNat ≠ boxed.linkLocal := by decide +kernel

/-- A state with the I3C target's data changed. -/
def sideband (f : I3c → I3c) : State := { up with i3c := f up.i3c }

theorem witness_PortAndSideband_i3c :
    (let s := sideband fun x => { x with ibiEn := true }
     let t : State := { s with i3c := { s.i3c with refresh := (s.i3c.refresh + 1) % 2 ^ 32 } }
     let u : State := { t with csr := (having t [(R.IL_STATUS_FAULT_STATE, 1)]).csr }
     t.i3c.ibiEn = true ∧ ((t.mirrorFlags &&& ibiMask) ||| t.i3c.wasFlags) = t.i3c.wasFlags ∧
       ((u.mirrorFlags &&& ibiMask) ||| u.i3c.wasFlags) ≠ u.i3c.wasFlags) ∧
    (let s := sideband fun x => { x with ibiEn := true, ibi := some 1 }
     s.i3c.ibiEn = true ∧ s.i3c.ibi.isSome = true) ∧
    (let s := sideband fun x => { x with dyn := some 0x7F }
     s.i3cHit 0x7F = true ∧ s.i3c.dyn = some (0x7F : BitVec 7).toNat ∧ s.cccHit (some 0x7F) = true ∧ s.cccHit none = true ∧
       (1 : BitVec 8).getLsbD 0 = true) ∧
    (up.i3cHit 0x30 = true ∧ (0x30 : BitVec 7).toNat = up.staticAddr ∧ up.i3c.dyn = none ∧ up.i3c.dyn ≠ some (0x30 : BitVec 7).toNat) := by
  decide +kernel

/-! ## Worked examples of the manual -/

/-- "A marked die and one more error": the codeword of 0xA5, and its read with die 11 marked and a flipped c11. -/
theorem test_ecc_marked_die :
    eccEncode 0xA5 = 0x144E ∧ eraseMask 0x0800 0x1235 = 0x0040 ∧ eccDecode 0x1C0E 0x0040 = .corrected 0xA5 11 ∧ bitDie 0x1235 11 = 0 := by
  decide

/-- "The same bits under a K-split": the sum of the two shares. -/
theorem test_xp160_shares :
    let s := xpAdd [⟨0x12C * 2 ^ 128, -131, false, false, false, false, false⟩, ⟨-0xD0 * 2 ^ 128, -131, false, false, false, false, false⟩]
    s.v = 0x5C * 2 ^ 128 ∧ s.bytes[16]? = some 0x5C ∧ s.bytes[20]? = some 0x7D ∧ s.bytes[21]? = some 0xFF := by decide

/-- "The bits of an MXFP4 dot product": 11.5 in three formats, and halfway between two E4M3 values. -/
theorem test_round_dot_product :
    let v := (⟨0x5C * 2 ^ 128, -131, false, false, false, false, false⟩ : Xp).value
    (fmtFP32.round rmNearest v).1 = 0x41380000 ∧ (fmtBF16.round rmNearest v).1 = 0x4138 ∧ (fmtE4M3.round rmNearest v).1 = 0x54 ∧
      (fmtE4M3.round ⟨1, false, 0⟩ v).1 = 0x53 := by decide +kernel

/-- "Encoding and checking one MMA". -/
theorem test_mma_word :
    let w := 0x20028418070040000000000010001003
    let a := mmaArgs .reset w
    iCls w = 2 ∧ iOp w = 0 ∧ iBd w = 10 ∧ iBa w = 4 ∧ iBb w = 6 ∧ iBc w = 0 ∧ a.acc = 1 ∧ a.init = true ∧ a.write = true ∧ a.sat = true ∧
      a.kbeg = 0 ∧ a.klen = 64 ∧ a.mblk = 2 ∧ a.nblk = 3 := by decide

/-- "A CSR read on the control lane": the header of the request. -/
theorem test_flit_header :
    let f : FlitIn := ⟨0x162A013300172400, false⟩
    fType f = 1 ∧ fClass f = 1 ∧ fLast f = true ∧ fSeq f = 0x2A0 ∧ fAck f = 0x133 ∧ fTag f = 0x17 ∧ fLen f = 9 := by decide +kernel

/-- The example after R42: tray 3, position 1, an offset in MD5. -/
theorem test_global_address :
    let s : State := { up with dict := [(D.POSITION, 1), (D.TRAY_NO, 3)] }
    s.ownId = 0x01D ∧ s.globalAddr (5 * 0x1800000000 + 0x1000) = 0x01D0007800001000 := by decide

/-- "A reduce-scatter across eight packages": the chain of element 12 in BF16. -/
theorem test_reduce_chain : wireOp 1 7 0x4380 0x3F80 = 0x4380 ∧ wireOp 1 7 0x4380 0 = 0x4380 ∧ wireOp 1 7 0x4380 0xC380 = 0 := by
  decide +kernel

/-- "Swapped cables at start-up": three lanes run at x2, and FP6's partner is not the one its map names. -/
theorem test_swapped_cables :
    let s : State := { up with dict := [(D.TRAY_NO, 3), (D.MAP_FP + 6, 0x0F06000D)] }
    widthOf 0b1011 = 2 ∧ s.judge 6 0xF07 13 0 5 = 1 ∧ s.judge 6 0xF06 13 0 5 = 0 := by decide

/-- R136's example: 5.0, 0.3, −2.6 and 6.5 in FP4. -/
theorem test_fp4_codes :
    (fmtE2M1.round ⟨0, true, 0⟩ (f32 0x40A00000)).1 = 0x6 ∧ (fmtE2M1.round ⟨0, true, 0⟩ (f32 0x3E99999A)).1 = 0x1 ∧
      (fmtE2M1.round ⟨0, true, 0⟩ (f32 0xC0266666)).1 = 0xD ∧ (fmtE2M1.round ⟨0, true, 0⟩ (f32 0x40D00000)).1 = 0x7 := by decide +kernel

/-- A REFCLK period is 6.4 ns: RTIME reads 6 after one edge and 12 after two (R296). -/
theorem test_rtime_edges : up.tick.rtime = 6 ∧ up.tick.tick.rtime = 12 := by decide +kernel

/-- `NOP` moves the PC by one instruction (R98). -/
theorem test_nop : (nextOf (exec (.nop 0) (running 0))).map (fun s => (s.tile 0).pc) = some 1 := by decide +kernel

/-- The first command of the queue runs and leaves it (the model's queue). -/
theorem test_step_takes_front :
    (nextOf (step { up with pending := [.haltDone 0, .flowLow] })).map (·.pending) = some [.flowLow] := by decide +kernel

end Sys2Proof.Tests
end

section
/-! PROOFS. Tile programs: the scalar registers of a tile, the issue of a word for its own row, and what an accepted dispatch sets
(R94, R118). -/

namespace Sys2Proof.Machine

/-! ## Scalar registers (R94) -/

theorem vget_replicate {α : Type} (n : Nat) (d : α) (i : Nat) : vget d (Vector.replicate n d) i = d := by
  simp [vget]

namespace Tile

variable (t : Tile)

@[simp] theorem scalar_zero : t.scalar 0 = 0 := rfl
@[simp] theorem berth_zero : t.berth 0 = .null := rfl
theorem scalar_of_ne_zero {i : Nat} (h : i ≠ 0) : t.scalar i = vget 0 t.g i := if_neg h
theorem berth_of_ne_zero {i : Nat} (h : i ≠ 0) : t.berth i = vget .null t.b i := if_neg h
@[simp] theorem scalar_with_pc (n i : Nat) : ({ t with pc := n } : Tile).scalar i = t.scalar i := rfl

/-- G0 ignores writes. -/
@[simp] theorem setScalar_zero (v : BitVec 64) : t.setScalar 0 v = t := rfl

@[simp] theorem setScalar_pc (i : Nat) (v : BitVec 64) : (t.setScalar i v).pc = t.pc := by
  unfold setScalar
  split <;> rfl

theorem scalar_setScalar_self {i : Nat} (h0 : i ≠ 0) (h : i < 16) (v : BitVec 64) : (t.setScalar i v).scalar i = v := by
  rw [scalar_of_ne_zero _ h0, setScalar, if_neg h0]
  exact vget_vput_self _ _ h _

end Tile

/-- A scalar register written, and on to the next instruction. -/
theorem State.advance_setScalar (s : State) {p : Nat} (h : p < 192) (i : Nat) (v : BitVec 64) :
    (s.setTile p ((s.tile p).setScalar i v)).advance p = s.setTile p { (s.tile p).setScalar i v with pc := s.nextPc p } := by
  rw [State.advance_setTile _ h, Tile.setScalar_pc]
  rfl

/-! ## Issue of a word for its own row (R83) -/

theorem Issues.issue_eq {s t : State} {p : Fin 192} {cls op w : Nat} (h : Issues s t p cls op w) (body : State → Nat → State) :
    s.issue p.val (isOp cls op) body = body t w := by
  have mine : isOp cls op w = true := by simp [isOp, h.cls_eq, h.op_eq]
  unfold State.issue
  rw [if_neg (not_not_intro h.run), h.word]
  exact if_pos mine

theorem exec_gset {s t : State} {p : Fin 192} {w : Nat} (h : Issues s t p 0 0x05 w) :
    exec (.gset p) s = .next (t.setTile p.val
      { (t.tile p.val).setScalar (nbits w 91 88) (BitVec.ofNat 64 (iImm w)) with pc := t.nextPc p.val }) := by
  show Host.Outcome.next (s.issue p.val (isOp 0 5) _) = _
  rw [h.issue_eq, State.advance_setScalar _ p.isLt]

theorem exec_gadd {s t : State} {p : Fin 192} {w : Nat} (h : Issues s t p 0 0x06 w) :
    exec (.gadd p) s = .next (t.setTile p.val
      { (t.tile p.val).setScalar (nbits w 91 88) ((t.tile p.val).scalar (nbits w 87 84) + BitVec.ofNat 64 (iImm w)) with
        pc := t.nextPc p.val }) := by
  show Host.Outcome.next (s.issue p.val (isOp 0 6) _) = _
  rw [h.issue_eq, State.advance_setScalar _ p.isLt]

theorem exec_gset_zero {s t : State} {p : Fin 192} {w : Nat} (hg : nbits w 91 88 = 0) (h : Issues s t p 0 0x05 w) :
    exec (.gset p) s = .next (t.atPc p.val (t.nextPc p.val)) := by
  rw [exec_gset h, hg, Tile.setScalar_zero]
  rfl

theorem exec_gadd_zero {s t : State} {p : Fin 192} {w : Nat} (hg : nbits w 91 88 = 0) (h : Issues s t p 0 0x06 w) :
    exec (.gadd p) s = .next (t.atPc p.val (t.nextPc p.val)) := by
  rw [exec_gadd h, hg, Tile.setScalar_zero]
  rfl

/-- The sum that GADD writes wraps at 64 bits. -/
theorem exec_gadd_wraps {s t : State} {p : Fin 192} {w : Nat} (hg : nbits w 91 88 ≠ 0) (h : Issues s t p 0 0x06 w) :
    ∃ y, exec (.gadd p) s = .next y ∧
      ((y.tile p.val).scalar (nbits w 91 88)).toNat = (((t.tile p.val).scalar (nbits w 87 84)).toNat + nbits w 63 0) % 2 ^ 64 := by
  have hlt : nbits w 91 88 < 16 := Nat.mod_lt _ (by decide)
  refine ⟨_, exec_gadd h, ?_⟩
  rw [State.tile_setTile_self _ p.isLt, Tile.scalar_with_pc, Tile.scalar_setScalar_self _ hg hlt, BitVec.toNat_add,
    BitVec.toNat_ofNat, Nat.add_mod_mod]
  rfl

/-! ## An accepted dispatch (R94, R118) -/

/-- The tile as an accepted dispatch sets it. -/
def State.dispatched (s : State) (p : Nat) (d : Dispatch) : Tile :=
  { s.tile p with
    pc := d.entry
    g := vput (vput (vput (.replicate 16 0) 1 d.a1) 2 d.a2) 3 d.a3
    b := Vector.ofFn fun i : Fin 64 => if i.val < 3 then (s.tile p).berth i.val else s.prog.root (s.logicalOf p) i.val
    acc := .replicate 4 .empty
    wait := .none
    collAbt := false
    dma := (s.tile p).dma.map fun e => { e with halted := false } }

namespace State

variable (s : State) (p : Nat) (d : Dispatch)

theorem acceptDispatch_eq : s.acceptDispatch p d =
    ((s.setTile p (s.dispatched p d)).fset (R.TILE_SEQ_SEQ.at (tileOff p)) d.seq).setTileState p 2 := rfl

theorem acceptDispatch_tile_self (h : p < 192) : (s.acceptDispatch p d).tile p = s.dispatched p d := by
  rw [acceptDispatch_eq, setTileState_tile, fset_tile, tile_setTile_self s h]

theorem acceptDispatch_tile_ne {q : Nat} (h : q ≠ p) : (s.acceptDispatch p d).tile q = s.tile q := by
  rw [acceptDispatch_eq, setTileState_tile, fset_tile, tile_setTile_ne s h]

theorem acceptDispatch_cell (a : Nat) : (s.acceptDispatch p d).cell a = s.cell a := by
  rw [acceptDispatch_eq, setTileState_cell, fset_cell, setTile_cell]

/-- Registers and tiles apart, an accepted dispatch changes nothing. -/
theorem acceptDispatch_frame : { s.acceptDispatch p d with csr := s.csr, tiles := s.tiles } = s := rfl

variable {s} in
theorem acceptDispatch_tileState (h : twf csrDflt s.csr = true) : (s.acceptDispatch p d).tileState p = 2 :=
  fget_fset_at (State.csr_fset (s := s.setTile p _) h _ _) (by decide) 2 (by decide)

variable {s d} in
theorem acceptDispatch_seq (h : twf csrDflt s.csr = true) (hd : d.seq < 2 ^ 32) :
    (s.acceptDispatch p d).fget (R.TILE_SEQ_SEQ.at (tileOff p)) = d.seq := by
  rw [acceptDispatch_eq, setTileState, fget_fset_at_ne (by decide)]
  exact fget_fset_at (s := s.setTile p _) h (by decide) _ hd

theorem dispatched_scalar_one : (s.dispatched p d).scalar 1 = d.a1 := by
  simp [dispatched, Tile.scalar_of_ne_zero, vget_vput_ne, vget_vput_self]

theorem dispatched_scalar_two : (s.dispatched p d).scalar 2 = d.a2 := by
  simp [dispatched, Tile.scalar_of_ne_zero, vget_vput_ne, vget_vput_self]

theorem dispatched_scalar_three : (s.dispatched p d).scalar 3 = d.a3 := by
  simp [dispatched, Tile.scalar_of_ne_zero, vget_vput_self]

theorem dispatched_scalar_of_four_le {i : Nat} (h : 4 ≤ i) : (s.dispatched p d).scalar i = 0 := by
  rw [Tile.scalar_of_ne_zero _ (by omega), dispatched, vget_vput_ne _ _ (by omega), vget_vput_ne _ _ (by omega),
    vget_vput_ne _ _ (by omega), vget_replicate]

theorem dispatched_berth_of_lt_three {i : Nat} (h : i < 3) : (s.dispatched p d).berth i = (s.tile p).berth i := by
  by_cases h0 : i = 0
  · rw [h0, Tile.berth_zero, Tile.berth_zero]
  · rw [Tile.berth_of_ne_zero _ h0, dispatched, vget_ofFn _ _ (by omega), if_pos h]

theorem dispatched_berth_of_three_le {i : Nat} (h : 3 ≤ i) (hi : i < 64) :
    (s.dispatched p d).berth i = s.prog.root (s.logicalOf p) i := by
  rw [Tile.berth_of_ne_zero _ (by omega), dispatched, vget_ofFn _ _ hi, if_neg (Nat.not_lt.mpr h)]

theorem dispatched_acc (i : Fin 4) : (s.dispatched p d).acc[i] = .empty := by
  simp [dispatched]

theorem dispatched_dma_halted (e : Fin 2) : (s.dispatched p d).dma[e].halted = false := by
  simp [dispatched]

end State

/-- Settles O12: the tile is `State.dispatched`, read register by register; the rest of the state is the frame; and `GSET` and `GADD`
write their register or, for G0, the PC alone. -/
theorem dispatchSets : Obligations.DispatchSets := by
  intro p d s hs hd t x
  have hx : x = s.dispatched p.val d := s.acceptDispatch_tile_self p.val d p.isLt
  rw [hx]
  refine ⟨rfl, Tile.scalar_zero _, s.dispatched_scalar_one _ d, s.dispatched_scalar_two _ d, s.dispatched_scalar_three _ d,
    fun _ => s.dispatched_scalar_of_four_le _ d, Tile.berth_zero _, fun _ => s.dispatched_berth_of_lt_three _ d,
    fun _ => s.dispatched_berth_of_three_le _ d, s.dispatched_acc _ d, s.dispatched_dma_halted _ d,
    State.acceptDispatch_tileState _ d hs.csr, State.acceptDispatch_seq _ hs.csr hd,
    fun _ => s.acceptDispatch_tile_ne _ d, s.acceptDispatch_cell _ d, s.acceptDispatch_frame _ d, ?_⟩
  exact fun _ _ _ => ⟨fun hg => ⟨exec_gset_zero hg, exec_gadd_zero hg⟩, exec_gadd_wraps⟩

end Sys2Proof.Machine
end

section
/-! PROOFS. The dies of a byte: the bits an erasure mask holds, and how the bits of a group of 16 bytes spread over the dies
(R161, R162). -/

namespace Sys2Proof.Machine

theorem nbit_eq_one_iff {n k : Nat} : nbit n k = 1 ↔ n.testBit k = true := by
  rw [Nat.testBit_eq_decide_div_mod_eq, decide_eq_true_iff, nbit]

theorem bit13_getLsbD {j k : Nat} (hk : k < 13) : (bit13 j).getLsbD k = decide (j = k) := by
  rw [bit13, BitVec.getLsbD_ofNat, Nat.testBit_two_pow, decide_eq_true hk, Bool.true_and]

/-- A word built by setting the bits of a list that pass a test holds those bits, and the bits it began with. -/
theorem foldl_or_bit13_getLsbD (p : Nat → Prop) [DecidablePred p] {k : Nat} (hk : k < 13) (l : List Nat) (m : BitVec 13) :
    (l.foldl (fun m j => if p j then m ||| bit13 j else m) m).getLsbD k = true ↔ m.getLsbD k = true ∨ (k ∈ l ∧ p k) := by
  induction l generalizing m with
  | nil => simp
  | cons j t ih =>
    have hhead : (if p j then m ||| bit13 j else m).getLsbD k = true ↔ m.getLsbD k = true ∨ (k = j ∧ p k) := by
      by_cases hj : p j
      · rw [if_pos hj, BitVec.getLsbD_or, Bool.or_eq_true, bit13_getLsbD hk, decide_eq_true_iff]
        exact or_congr_right ⟨fun h => ⟨h.symm, h ▸ hj⟩, fun ⟨h, _⟩ => h.symm⟩
      · rw [if_neg hj]
        exact (or_iff_left fun ⟨h, hk⟩ => hj (h ▸ hk)).symm
    rw [List.foldl_cons, ih, hhead, List.mem_cons, or_and_right, or_assoc]

/-- The mask of R162 holds a bit exactly where the die of the bit is marked. -/
theorem eraseMask_getLsbD {k : Nat} (hk : k < 13) (marks a : Nat) :
    (eraseMask marks a).getLsbD k = true ↔ marks.testBit (bitDie a k) = true := by
  have hmask := foldl_or_bit13_getLsbD (fun j => nbit marks (bitDie a j) = 1) hk (List.range 13) 0
  have hzero : (0 : BitVec 13).getLsbD k ≠ true := by simp
  rw [or_iff_right hzero, and_iff_right (List.mem_range.mpr hk), nbit_eq_one_iff] at hmask
  exact hmask

/-- Bit `c` of a byte is on a given die for one byte of the group: the rotation of R161 by the byte's place is undone. -/
theorem bitDie_eq_iff {j c die : Nat} (hj : j < 16) (hc : c < 13) (hd : die < 16) :
    bitDie j c = die ↔ j = (die + 16 - c) % 16 := by
  unfold bitDie
  omega

/-- The bytes of a group that have bit `c` on a given die: one. -/
theorem card_bytes_with_bitDie {c die : Nat} (hc : c < 13) (hd : die < 16) :
    ((Finset.range 16).filter fun j => bitDie j c = die).card = 1 := by
  refine Finset.card_eq_one.mpr ⟨(die + 16 - c) % 16, Finset.ext fun j => ?_⟩
  rw [Finset.mem_filter, Finset.mem_range, Finset.mem_singleton]
  constructor
  · exact fun ⟨hj, h⟩ => (bitDie_eq_iff hj hc hd).mp h
  · intro h
    have hj : j < 16 := h ▸ Nat.mod_lt _ (by decide)
    exact ⟨hj, (bitDie_eq_iff hj hc hd).mpr h⟩

/-- The bits of a group of 16 bytes on one die, counted byte by byte and again bit by bit: one for each of the 13 bits. -/
theorem sum_bits_on_die {die : Nat} (hd : die < 16) :
    ∑ j ∈ Finset.range 16, ((Finset.range 13).filter fun c => bitDie j c = die).card = 13 := by
  calc ∑ j ∈ Finset.range 16, ((Finset.range 13).filter fun c => bitDie j c = die).card
      = ∑ c ∈ Finset.range 13, ((Finset.range 16).filter fun j => bitDie j c = die).card :=
        Finset.sum_card_bipartiteAbove_eq_sum_card_bipartiteBelow fun j c => bitDie j c = die
    _ = ∑ _c ∈ Finset.range 13, 1 :=
        Finset.sum_congr rfl fun _ hc => card_bytes_with_bitDie (Finset.mem_range.mp hc) hd
    _ = 13 := by rw [Finset.sum_const, Finset.card_range, smul_eq_mul]

/-- The count over lists, as the statement writes it. -/
theorem sum_length_bits_on_die (die : Nat) :
    ((List.range 16).map fun j => ((List.range 13).filter fun c => bitDie j c == die).length).sum =
      ∑ j ∈ Finset.range 16, ((Finset.range 13).filter fun c => bitDie j c = die).card := rfl

/-- Settles O25: the die is the definition's, the mask is read bit by bit, and the bits of a group on one die are counted by bit. -/
theorem erasureMask : Obligations.ErasureMask := by
  intro marks a k hk
  refine ⟨rfl, eraseMask_getLsbD hk marks a, fun die hd => ?_⟩
  rw [sum_length_bits_on_die, sum_bits_on_die hd]

end Sys2Proof.Machine
end

section
/-! PROOFS. Fault messages at their source: what a source holds after a new message, and what the report leaves as it is (R416). -/

namespace Sys2Proof.Machine

/-! ## The list that a source holds -/

/-- A held message takes up a new one: of its kind, with its CLEAR value (R416). -/
def FaultMsg.Takes (h m : FaultMsg) : Prop := h.kind = m.kind ∧ h.clear = m.clear

/-- The held message after it has taken up a new one. -/
def FaultMsg.absorb (h m : FaultMsg) : FaultMsg := { h with rep := min (h.rep + 1) 255, high := h.high || m.high }

theorem mergeMsg_cons_of_takes {h m : FaultMsg} (hm : h.Takes m) (l : List FaultMsg) :
    mergeMsg m (h :: l) = some (h.absorb m :: l) := if_pos hm

theorem mergeMsg_cons_of_not_takes {h m : FaultMsg} (hm : ¬ h.Takes m) (l : List FaultMsg) :
    mergeMsg m (h :: l) = (mergeMsg m l).map (h :: ·) := if_neg hm

theorem mergeMsg_eq_none {m : FaultMsg} {l : List FaultMsg} (hl : ∀ h ∈ l, ¬ h.Takes m) : mergeMsg m l = none := by
  induction l with
  | nil => rfl
  | cons x l ih =>
    obtain ⟨hx, hl⟩ := List.forall_mem_cons.mp hl
    rw [mergeMsg_cons_of_not_takes hx, ih hl, Option.map_none]

/-- The first held message that can take up the new one does. -/
theorem mergeMsg_eq_set {m h : FaultMsg} {l : List FaultMsg} {i : Nat} (hi : l[i]? = some h) (hm : h.Takes m)
    (hfirst : ∀ j x, j < i → l[j]? = some x → ¬ x.Takes m) : mergeMsg m l = some (l.set i (h.absorb m)) := by
  induction l generalizing i with
  | nil => cases hi
  | cons x l ih =>
    cases i with
    | zero =>
      cases hi
      exact mergeMsg_cons_of_takes hm l
    | succ i =>
      have hx : ¬ x.Takes m := hfirst 0 x i.succ_pos rfl
      have htail := ih hi fun j y hj => hfirst (j + 1) y (Nat.succ_lt_succ hj)
      rw [mergeMsg_cons_of_not_takes hx, htail, Option.map_some, List.set_cons_succ]

theorem holdMsg_merge {m h : FaultMsg} {l : List FaultMsg} {i : Nat} (hi : l[i]? = some h) (hm : h.Takes m)
    (hfirst : ∀ j x, j < i → l[j]? = some x → ¬ x.Takes m) : holdMsg l m = (l.set i (h.absorb m), true) := by
  rw [holdMsg, mergeMsg_eq_set hi hm hfirst]

theorem holdMsg_room {m : FaultMsg} {l : List FaultMsg} (hl : ∀ h ∈ l, ¬ h.Takes m) (hlen : l.length < 4) :
    holdMsg l m = (l ++ [m], false) := by
  rw [holdMsg, mergeMsg_eq_none hl]
  exact if_pos hlen

theorem holdMsg_full {m : FaultMsg} {l : List FaultMsg} (hl : ∀ h ∈ l, ¬ h.Takes m) (hlen : l.length = 4) :
    holdMsg l m = (l.eraseIdx (lowestMsg l) ++ [{ m with lost := true }], true) := by
  rw [holdMsg, mergeMsg_eq_none hl]
  exact if_neg (Nat.not_lt.mpr hlen.ge)

/-- The lowest default class among the messages of a list, from which `lowestMsg` finds its place. -/
def lowestClass (l : List FaultMsg) : Nat := (l.map fun h => kindClass h.kind).foldl min 3

theorem lowestClass_le {l : List FaultMsg} {h : FaultMsg} (hm : h ∈ l) : lowestClass l ≤ kindClass h.kind :=
  foldl_min_le_mem _ 3 _ (List.mem_map_of_mem hm)

/-- The message at the place found is of the lowest class. -/
theorem kindClass_lowestMsg {l : List FaultMsg} (hlt : lowestMsg l < l.length) :
    kindClass (l[lowestMsg l]).kind = lowestClass l :=
  beq_iff_eq.mp (List.findIdx_getElem (w := hlt))

/-- Those before it, the older ones, are of a higher class: among equals the oldest gives way. -/
theorem lowestClass_lt_of_lt_lowestMsg {l : List FaultMsg} {j : Nat} {y : FaultMsg} (hj : j < lowestMsg l) (hy : l[j]? = some y) :
    lowestClass l < kindClass y.kind := by
  obtain ⟨hlt, rfl⟩ := List.getElem?_eq_some_iff.mp hy
  have hne : kindClass (l[j]).kind ≠ lowestClass l := beq_eq_false_iff_ne.mp (List.not_of_lt_findIdx hj)
  exact Nat.lt_of_le_of_ne (lowestClass_le (List.getElem_mem hlt)) hne.symm

/-! ## The report -/

namespace State

variable (s : State)

/-- The counter of merges and drops does not look at the held messages. -/
theorem bump_with_msgs (x : Tab (List FaultMsg)) (f o : Fld) (n : Nat) :
    { ({ s with msgs := x } : State).bump f o n with msgs := s.msgs } = s.bump f o n := by
  have hget : ({ s with msgs := x } : State).fget f = s.fget f := rfl
  rw [bump, bump, hget]
  dsimp only
  split <;> rfl

theorem reportMsg_eq (m : FaultMsg) : s.reportMsg m =
    let r := holdMsg (s.heldAt m.source) m
    let u := { s with msgs := tset (fun _ => []) s.msgs m.source r.1 }
    if r.2 && !s.dom.lineRst then u.bump R.IL_EVENTS2_MERGED R.IL_FLAGS_MERGED_OVF else u := rfl

theorem reportMsg_msgs (m : FaultMsg) :
    (s.reportMsg m).msgs = tset (fun _ => []) s.msgs m.source (holdMsg (s.heldAt m.source) m).1 := by
  rw [reportMsg_eq]
  dsimp only
  split
  · exact bump_msgs _ _ _ _
  · rfl

variable {s} in
theorem reportMsg_heldAt_self (hs : s.Canon) (m : FaultMsg) :
    (s.reportMsg m).heldAt m.source = (holdMsg (s.heldAt m.source) m).1 := by
  rw [heldAt, reportMsg_msgs, tget_tset_self hs.msgs]

theorem reportMsg_heldAt_ne (m : FaultMsg) {source : Nat} (h : source ≠ m.source) :
    (s.reportMsg m).heldAt source = s.heldAt source := by
  rw [heldAt, reportMsg_msgs, tget_tset_ne _ _ _ h, heldAt]

/-- The state with a merge or a drop counted in MERGED, unless LINE is in reset (R416, R428). -/
def countMerge : State := if s.dom.lineRst then s else s.bump R.IL_EVENTS2_MERGED R.IL_FLAGS_MERGED_OVF

/-- Held messages apart, a report changes the count of merges and drops alone, and only where it merges or drops. -/
theorem reportMsg_frame (m : FaultMsg) : { s.reportMsg m with msgs := s.msgs } =
    if (holdMsg (s.heldAt m.source) m).2 then s.countMerge else s := by
  rw [reportMsg_eq, countMerge]
  rcases holdMsg (s.heldAt m.source) m with ⟨l, _ | _⟩
  case false => rfl
  case true =>
    cases s.dom.lineRst with
    | false => exact s.bump_with_msgs _ _ _ _
    | true => rfl

end State

/-- Settles O6: the report puts what `holdMsg` answers in the place of the source's messages, and each case of R416 is one of `holdMsg`. -/
theorem holdMessage : Obligations.HoldMessage := by
  intro s m hs hlen l t counted same
  have hheld : t.heldAt m.source = (holdMsg l m).1 := State.reportMsg_heldAt_self hs m
  have hframe : { t with msgs := s.msgs } = if (holdMsg l m).2 then counted else s := s.reportMsg_frame m
  refine ⟨fun i h hi hm hfirst => ?_, fun hl hroom => ?_, fun hl hfull => ?_, ?_, fun _ => s.reportMsg_heldAt_ne m⟩
  · rw [hheld, hframe, holdMsg_merge hi hm hfirst]
    exact ⟨⟨_, rfl⟩, rfl⟩
  · rw [hheld, hframe, holdMsg_room hl hroom]
    exact ⟨rfl, rfl⟩
  · have hlt : lowestMsg l < l.length := lowestMsg_lt (List.ne_nil_of_length_pos (by omega))
    have hclass := kindClass_lowestMsg hlt
    rw [hheld, hframe, holdMsg_full hl hfull]
    refine ⟨lowestMsg l, l[lowestMsg l], List.getElem?_eq_getElem hlt, fun h hh => ?_, fun j y hj hy => ?_, rfl, rfl⟩
    · rw [hclass]; exact lowestClass_le hh
    · rw [hclass]; exact lowestClass_lt_of_lt_lowestMsg hj hy
  · rw [hheld]
    exact (holdMsg_length l m).trans_eq (max_eq_left hlen)

end Sys2Proof.Machine
end

section
/-! PROOFS. What holds of every step: it answers a next state, the queue behind a command stays, the sparse tables stay canonical, and
no source comes to hold more than four fault messages (R416). -/

namespace Sys2Proof.Machine

/-! ## Every command and every step keeps a closed predicate -/

/-- Each command keeps every closed predicate: the lemma of its own row says so. -/
theorem exec_keeps {P : State → Prop} (hP : Closed P) {s : State} (h : P s) (i : Instr) : ∀ t, exec i s = .next t → P t := by
  cases i with
  | dispatchArrive => exact execDispatchArrive_keeps hP h
  | nop => exact execNop_keeps hP h
  | halt => exact execHalt_keeps hP h
  | haltDone => exact execHaltDone_keeps hP h
  | jmp => exact execJmp_keeps hP h
  | bnz => exact execBnz_keeps hP h
  | bz => exact execBz_keeps hP h
  | gset => exact execGset_keeps hP h
  | gadd => exact execGadd_keeps hP h
  | fence => exact execFence_keeps hP h
  | fenceWaitEnd => exact execFenceWaitEnd_keeps hP h
  | berthSub => exact execBerthSub_keeps hP h
  | berthCpy => exact execBerthCpy_keeps hP h
  | berthClr => exact execBerthClr_keeps hP h
  | mma => exact execMma_keeps hP h
  | mmaCfg => exact execMmaCfg_keeps hP h
  | vadd => exact execVadd_keeps hP h
  | vsub => exact execVsub_keeps hP h
  | vmul => exact execVmul_keeps hP h
  | vfma => exact execVfma_keeps hP h
  | vmax => exact execVmax_keeps hP h
  | vmin => exact execVmin_keeps hP h
  | vcvt => exact execVcvt_keeps hP h
  | vrcp => exact execVrcp_keeps hP h
  | vsqrt => exact execVsqrt_keeps hP h
  | vrsq => exact execVrsq_keeps hP h
  | vexp2 => exact execVexp2_keeps hP h
  | vlog2 => exact execVlog2_keeps hP h
  | vred => exact execVred_keeps hP h
  | xadd => exact execXadd_keeps hP h
  | vsel => exact execVsel_keeps hP h
  | vmov => exact execVmov_keeps hP h
  | dmaCopy => exact execDmaCopy_keeps hP h
  | dmaCopy2 => exact execDmaCopy2_keeps hP h
  | dmaTransferStart => exact execDmaTransferStart_keeps hP h
  | dmaTransferDone => exact execDmaTransferDone_keeps hP h
  | dmaHalt => exact execDmaHalt_keeps hP h
  | ctrAdd => exact execCtrAdd_keeps hP h
  | ctrWait => exact execCtrWait_keeps hP h
  | ctrWaitRelease => exact execCtrWaitRelease_keeps hP h
  | ctrSet => exact execCtrSet_keeps hP h
  | collStart => exact execCollStart_keeps hP h
  | mmaRs => exact execMmaRs_keeps hP h
  | mmaAg => exact execMmaAg_keeps hP h
  | mmaA2a => exact execMmaA2a_keeps hP h
  | wePostGo => exact execWePostGo_keeps hP h
  | weClear => exact execWeClear_keeps hP h
  | gather => exact execGather_keeps hP h
  | embedBag => exact execEmbedBag_keeps hP h
  | scatterAdd => exact execScatterAdd_keeps hP h
  | elemwise => exact execElemwise_keeps hP h
  | reduce => exact execReduce_keeps hP h
  | attnDecode => exact execAttnDecode_keeps hP h
  | quantMx => exact execQuantMx_keeps hP h
  | dequantMx => exact execDequantMx_keeps hP h
  | topk => exact execTopk_keeps hP h
  | compact => exact execCompact_keeps hP h
  | weDescDone => exact execWeDescDone_keeps hP h
  | weError => exact execWeError_keeps hP h
  | epochApply => exact execEpochApply_keeps hP h
  | optSgdm => exact execOptSgdm_keeps hP h
  | optAdamw => exact execOptAdamw_keeps hP h
  | applied => exact execApplied_keeps hP h
  | burstCrcFail => exact execBurstCrcFail_keeps hP h
  | eccBucketDrain => exact execEccBucketDrain_keeps hP h
  | scrubGo => exact execScrubGo_keeps hP h
  | scrubStop => exact execScrubStop_keeps hP h
  | scrubGroup => exact execScrubGroup_keeps hP h
  | scrubDone => exact execScrubDone_keeps hP h
  | refresh => exact execRefresh_keeps hP h
  | dwLock => exact execDwLock_keeps hP h
  | dwLockLost => exact execDwLockLost_keeps hP h
  | idle => exact execIdle_keeps hP h
  | csrRd => exact execCsrRd_keeps hP h
  | csrWr => exact execCsrWr_keeps hP h
  | mbx => exact execMbx_keeps hP h
  | doorbell => exact execDoorbell_keeps hP h
  | rwRead => exact execRwRead_keeps hP h
  | linkInit => exact execLinkInit_keeps hP h
  | linkInitAck => exact execLinkInitAck_keeps hP h
  | initRepeat => exact execInitRepeat_keeps hP h
  | linkRetry => exact execLinkRetry_keeps hP h
  | linkDown => exact execLinkDown_keeps hP h
  | ackseqReport => exact execAckseqReport_keeps hP h
  | slHdr => exact execSlHdr_keeps hP h
  | slData => exact execSlData_keeps hP h
  | slBlockWritten => exact execSlBlockWritten_keeps hP h
  | slRdreq => exact execSlRdreq_keeps hP h
  | slReadBlock => exact execSlReadBlock_keeps hP h
  | freshCl => exact execFreshCl_keeps hP h
  | freshSl => exact execFreshSl_keeps hP h
  | enCl => exact execEnCl_keeps hP h
  | enSl => exact execEnSl_keeps hP h
  | ringEn => exact execRingEn_keeps hP h
  | rdIdx => exact execRdIdx_keeps hP h
  | wrIdx => exact execWrIdx_keeps hP h
  | ringNop => exact execRingNop_keeps hP h
  | jobLaunch => exact execJobLaunch_keeps hP h
  | jobEnd => exact execJobEnd_keeps hP h
  | load => exact execLoad_keeps hP h
  | unload => exact execUnload_keeps hP h
  | dispatch => exact execDispatch_keeps hP h
  | wePost => exact execWePost_keeps hP h
  | region => exact execRegion_keeps hP h
  | epochEnd => exact execEpochEnd_keeps hP h
  | epochAbort => exact execEpochAbort_keeps hP h
  | epochResolve => exact execEpochResolve_keeps hP h
  | window => exact execWindow_keeps hP h
  | windowExport => exact execWindowExport_keeps hP h
  | scrub => exact execScrub_keeps hP h
  | powerHint => exact execPowerHint_keeps hP h
  | waitRing => exact execWaitRing_keeps hP h
  | commandComplete => exact execCommandComplete_keeps hP h
  | periodRelease => exact execPeriodRelease_keeps hP h
  | voteDone => exact execVoteDone_keeps hP h
  | voteAbort => exact execVoteAbort_keeps hP h
  | decideCommit => exact execDecideCommit_keeps hP h
  | decideAbort => exact execDecideAbort_keeps hP h
  | abortDrain => exact execAbortDrain_keeps hP h
  | abortSweepDone => exact execAbortSweepDone_keeps hP h
  | query => exact execQuery_keeps hP h
  | barrierAck => exact execBarrierAck_keeps hP h
  | unknown => exact execUnknown_keeps hP h
  | epochTimeout => exact execEpochTimeout_keeps hP h
  | decideResend => exact execDecideResend_keeps hP h
  | queryRepeat => exact execQueryRepeat_keeps hP h
  | mqPush => exact execMqPush_keeps hP h
  | send => exact execSend_keeps hP h
  | discard => exact execDiscard_keeps hP h
  | mqAck => exact execMqAck_keeps hP h
  | ackTimeout => exact execAckTimeout_keeps hP h
  | dbMask => exact execDbMask_keeps hP h
  | ping => exact execPing_keeps hP h
  | echo => exact execEcho_keeps hP h
  | standbyCheck => exact execStandbyCheck_keeps hP h
  | switchover => exact execSwitchover_keeps hP h
  | standbyCheckTimer => exact execStandbyCheckTimer_keeps hP h
  | tokenTake => exact execTokenTake_keeps hP h
  | tokenRel => exact execTokenRel_keeps hP h
  | rcBeat => exact execRcBeat_keeps hP h
  | hbPathSilent => exact execHbPathSilent_keeps hP h
  | rcSelftestDone => exact execRcSelftestDone_keeps hP h
  | rcStandbyReady => exact execRcStandbyReady_keeps hP h
  | signalDetect => exact execSignalDetect_keeps hP h
  | trainingMarker => exact execTrainingMarker_keeps hP h
  | trainLimit => exact execTrainLimit_keeps hP h
  | laneLock => exact execLaneLock_keeps hP h
  | lockLimit => exact execLockLimit_keeps hP h
  | ident => exact execIdent_keeps hP h
  | identAck p f m => exact execIdentAck_keeps (a2 := m) hP h
  | identLimit => exact execIdentLimit_keeps hP h
  | downRetry => exact execDownRetry_keeps hP h
  | dataFrame => exact execDataFrame_keeps hP h
  | idleFrame => exact execIdleFrame_keeps hP h
  | retry => exact execRetry_keeps hP h
  | down => exact execDown_keeps hP h
  | width => exact execWidth_keeps hP h
  | laneLoss => exact execLaneLoss_keeps hP h
  | widthChange => exact execWidthChange_keeps hP h
  | laneRetrain => exact execLaneRetrain_keeps hP h
  | frameAckReport => exact execFrameAckReport_keeps hP h
  | retrain => exact execRetrain_keeps hP h
  | portEn => exact execPortEn_keeps hP h
  | d2dDegraded => exact execD2dDegraded_keeps hP h
  | tsyncEdge => exact execTsyncEdge_keeps hP h
  | tsyncLoss => exact execTsyncLoss_keeps hP h
  | refclkLoss => exact execRefclkLoss_keeps hP h
  | refclkLock => exact execRefclkLock_keeps hP h
  | rtimeNext => exact execRtimeNext_keeps hP h
  | write => exact execWrite_keeps hP h
  | writeAck => exact execWriteAck_keeps hP h
  | read => exact execRead_keeps hP h
  | readRsp => exact execReadRsp_keeps hP h
  | msg => exact execMsg_keeps hP h
  | coll => exact execColl_keeps hP h
  | routeFail => exact execRouteFail_keeps hP h
  | tc3CsrRd => exact execTc3CsrRd_keeps hP h
  | requestTimeout => exact execRequestTimeout_keeps hP h
  | tc0BucketRelease => exact execTc0BucketRelease_keeps hP h
  | cmapPeriod => exact execCmapPeriod_keeps hP h
  | clearExclude => exact execClearExclude_keeps hP h
  | points => exact execPoints_keeps hP h
  | collectiveStart => exact execCollectiveStart_keeps hP h
  | ready => exact execReady_keeps hP h
  | data => exact execData_keeps hP h
  | chunkAck => exact execChunkAck_keeps hP h
  | nack => exact execNack_keeps hP h
  | abort => exact execAbort_keeps hP h
  | readyRepeat => exact execReadyRepeat_keeps hP h
  | chunkResend => exact execChunkResend_keeps hP h
  | stall => exact execStall_keeps hP h
  | coastWait => exact execCoastWait_keeps hP h
  | collectiveDone => exact execCollectiveDone_keeps hP h
  | pwrAlertAssert => exact execPwrAlertAssert_keeps hP h
  | pwrAlertRelease => exact execPwrAlertRelease_keeps hP h
  | bsHoldEnd => exact execBsHoldEnd_keeps hP h
  | staggerEnd => exact execStaggerEnd_keeps hP h
  | governorTick => exact execGovernorTick_keeps hP h
  | inputCondition => exact execInputCondition_keeps hP h
  | powerLoss => exact execPowerLoss_keeps hP h
  | bladeLoss => exact execBladeLoss_keeps hP h
  | bladeReturn => exact execBladeReturn_keeps hP h
  | sensorSample => exact execSensorSample_keeps hP h
  | estimatorUpdate => exact execEstimatorUpdate_keeps hP h
  | thermCapUpdate => exact execThermCapUpdate_keeps hP h
  | flowStopEval => exact execFlowStopEval_keeps hP h
  | flowLow => exact execFlowLow_keeps hP h
  | plausibilityCheck => exact execPlausibilityCheck_keeps hP h
  | hardwareTrip => exact execHardwareTrip_keeps hP h
  | railCutoff => exact execRailCutoff_keeps hP h
  | flowStopClear => exact execFlowStopClear_keeps hP h
  | tripClear => exact execTripClear_keeps hP h
  | guardClear => exact execGuardClear_keeps hP h
  | faultMessage => exact execFaultMessage_keeps hP h
  | ilBucketDrain => exact execIlBucketDrain_keeps hP h
  | faultNPulseEnd => exact execFaultNPulseEnd_keeps hP h
  | quietTimer => exact execQuietTimer_keeps hP h
  | faultAck => exact execFaultAck_keeps hP h
  | faultClear => exact execFaultClear_keeps hP h
  | recoveriesReset => exact execRecoveriesReset_keeps hP h
  | ilInject => exact execIlInject_keeps hP h
  | ilSelfCheck => exact execIlSelfCheck_keeps hP h
  | fenceReq => exact execFenceReq_keeps hP h
  | fenceDrainEnd => exact execFenceDrainEnd_keeps hP h
  | fenceComplete => exact execFenceComplete_keeps hP h
  | unitResetDone => exact execUnitResetDone_keeps hP h
  | lift => exact execLift_keeps hP h
  | fwBeat => exact execFwBeat_keeps hP h
  | fwBeatMiss => exact execFwBeatMiss_keeps hP h
  | worksReset => exact execWorksReset_keeps hP h
  | worksResetExit => exact execWorksResetExit_keeps hP h
  | packageReset => exact execPackageReset_keeps hP h
  | lineResetExit => exact execLineResetExit_keeps hP h
  | signalReset => exact execSignalReset_keeps hP h
  | powerOnReset => exact execPowerOnReset_keeps hP h
  | powerCycle => exact execPowerCycle_keeps hP h
  | resetExitTimeout => exact execResetExitTimeout_keeps hP h
  | stageDone => exact execStageDone_keeps hP h
  | clockRetry => exact execClockRetry_keeps hP h
  | acceptReduced => exact execAcceptReduced_keeps hP h
  | topoAccept => exact execTopoAccept_keeps hP h
  | geometryExpect => exact execGeometryExpect_keeps hP h
  | trayNo => exact execTrayNo_keeps hP h
  | bgtestDone => exact execBgtestDone_keeps hP h
  | bgtestEn => exact execBgtestEn_keeps hP h
  | licence => exact execLicence_keeps hP h
  | dieMarks => exact execDieMarks_keeps hP h
  | odRead => exact execOdRead_keeps hP h
  | odWrite => exact execOdWrite_keeps hP h
  | odInfo => exact execOdInfo_keeps hP h
  | hello => exact execHello_keeps hP h
  | heartbeat => exact execHeartbeat_keeps hP h
  | noticeAck => exact execNoticeAck_keeps hP h
  | noticeResend => exact execNoticeResend_keeps hP h
  | segmentTimeout => exact execSegmentTimeout_keeps hP h
  | orphanTimeout => exact execOrphanTimeout_keeps hP h
  | orphanRelease => exact execOrphanRelease_keeps hP h
  | icmpv6Echo => exact execIcmpv6Echo_keeps hP h
  | neighborSolicitation => exact execNeighborSolicitation_keeps hP h
  | mirrorRefresh => exact execMirrorRefresh_keeps hP h
  | ibiRetry => exact execIbiRetry_keeps hP h
  | i3cPrivateWrite => exact execI3cPrivateWrite_keeps hP h
  | i3cPrivateRead => exact execI3cPrivateRead_keeps hP h
  | setdasa => exact execSetdasa_keeps hP h
  | entdaa => exact execEntdaa_keeps hP h
  | rstdaa => exact execRstdaa_keeps hP h
  | setnewda => exact execSetnewda_keeps hP h
  | enec => exact execEnec_keeps hP h
  | disec => exact execDisec_keeps hP h
  | getpid => exact execGetpid_keeps hP h
  | getbcr => exact execGetbcr_keeps hP h
  | getdcr => exact execGetdcr_keeps hP h
  | getstatus => exact execGetstatus_keeps hP h
  | getmwl => exact execGetmwl_keeps hP h
  | getmrl => exact execGetmrl_keeps hP h
  | fwHeader => exact execFwHeader_keeps hP h
  | fwChunk => exact execFwChunk_keeps hP h
  | fwAbort => exact execFwAbort_keeps hP h
  | activateSignal => exact execActivateSignal_keeps hP h
  | activateLine => exact execActivateLine_keeps hP h
  | activateRuntime => exact execActivateRuntime_keeps hP h
  | handoverSwitchover => exact execHandoverSwitchover_keeps hP h
  | trialConfirm => exact execTrialConfirm_keeps hP h
  | trialLapse => exact execTrialLapse_keeps hP h
  | attestNonce => exact execAttestNonce_keeps hP h
  | ownerKey => exact execOwnerKey_keeps hP h
  | grant => exact execGrant_keeps hP h
  | grantMinSeq => exact execGrantMinSeq_keeps hP h
  | licenceKeyCert => exact execLicenceKeyCert_keeps hP h
  | csrWrite => exact execCsrWrite_keeps hP h
  | illegalOp => exact execIllegalOp_keeps hP h
  | unknownService => exact execUnknownService_keeps hP h
  | wireHeartbeat => exact execWireHeartbeat_keeps hP h
  | signalResetExit => exact execSignalResetExit_keeps hP h
  | undecodableCodeword => exact execUndecodableCodeword_keeps hP h

/-- A step keeps every closed predicate that does not look at the queue. -/
theorem step_keeps {P : State → Prop} (hP : Closed P) (hq : ∀ {s : State} (q : List Instr), P s → P { s with pending := q })
    {s t : State} (h : P s) (hs : step s = .next t) : P t := by
  unfold step at hs
  cases hpend : s.pending with
  | nil =>
    rw [hpend] at hs
    cases hs
    exact State.odDrain_keeps hP (State.tick_keeps hP h)
  | cons c rest =>
    rw [hpend] at hs
    exact exec_keeps hP (hq rest h) c t hs

/-! ## No command refuses or faults -/

/-- The arm of every command is a next state (statement O3). -/
theorem exec_next (i : Instr) (s : State) : ∃ t, exec i s = .next t := by
  cases i <;> exact ⟨_, rfl⟩

theorem step_safe (s : State) : SafeStep s := by
  unfold SafeStep step
  cases s.pending with
  | nil => exact ⟨_, rfl⟩
  | cons c rest => exact exec_next c _

/-! ## The queue -/

theorem pending_closed (q : List Instr) : Closed (fun s => s.pending = q) where
  frame h hp _ _ _ _ _ _ _ _ _ _ := hp.trans h
  csr h _ _ := h
  csrFilter h _ := h
  csrReset h _ _ := h
  dict h _ _ := h
  dictFilter h _ := h
  gens h _ _ := h
  cell h _ _ _ := h
  memFilter h _ _ := h
  units h _ _ := h
  unitsFilter h _ := h
  sweep h _ := h
  msgs h _ _ _ := h
  msgsNil h := h
  windowsNil h := h
  msgsFilter h _ := h
  evid h _ _ _ _ := h
  blob h _ _ := h
  window h _ _ := h
  windowFilter h _ := h
  job h := h
  power h _ _ := h

/-- Settles O3: every arm of `exec` is a next state, and the queue is one of the things that every command keeps. -/
theorem stepsCompleteAndKeepTheQueue : Obligations.StepsCompleteAndKeepTheQueue :=
  ⟨step_safe, fun c s t h => exec_keeps (pending_closed s.pending) rfl c t h⟩

/-! ## Canonical tables -/

theorem State.canon_reset : State.reset.Canon := by constructor <;> rfl

/-- Every way in which a table is written keeps its canonical form. -/
theorem canon_closed : Closed State.Canon where
  frame h _ h1 h2 h3 h4 h5 h6 h7 h8 h9 h10 := by
    constructor <;> simp only [*, h.csr, h.dict, h.gens, h.mem, h.flips, h.umeta, h.msgs, h.evid, h.blob, h.windows]
  csr h k v := { h with csr := twf_tset h.csr k v }
  csrFilter h p := { h with csr := twf_filter p h.csr }
  csrReset h p f := { h with csr := twfFrom_remap p f h.csr }
  dict h k v := { h with dict := twf_tset h.dict k v }
  dictFilter h p := { h with dict := twf_filter p h.dict }
  gens h k v := { h with gens := twf_tset h.gens k v }
  cell h a b c := { h with mem := twf_tset h.mem a b, flips := twf_tset h.flips a c }
  memFilter h p q := { h with mem := twf_filter p h.mem, flips := twf_filter q h.flips }
  units h k v := { h with umeta := twf_tset h.umeta k v }
  unitsFilter h p := { h with umeta := twf_filter p h.umeta }
  sweep h e := { h with umeta := twfFrom_sweep e h.umeta }
  msgs h k l _ := { h with msgs := twf_tset h.msgs k l }
  msgsNil h := { h with msgs := rfl }
  windowsNil h := { h with windows := rfl }
  msgsFilter h p := { h with msgs := twfFrom_held p h.msgs }
  evid h k v a c := { h with evid := twf_tset h.evid k v, flips := twf_tset h.flips a c }
  blob h k v := { h with blob := twf_tset h.blob k v }
  window h k v := { h with windows := twf_tset h.windows k v }
  windowFilter h p := { h with windows := twf_filter p h.windows }
  job h := { h with umeta := rfl, windows := rfl }
  power h p q := { State.canon_reset with dict := twf_filter p h.dict, gens := h.gens, blob := twf_filter q h.blob }

theorem State.Canon.with_pending {s : State} (q : List Instr) (h : s.Canon) : { s with pending := q }.Canon := { h with }

/-- Settles O4: the canonical form is a closed predicate, and the queue is no part of it. -/
theorem stepKeepsCanonical : Obligations.StepKeepsCanonical :=
  fun _ _ h hs => step_keeps canon_closed State.Canon.with_pending h hs

/-! ## Held fault messages (R416) -/

/-- Dropping held messages leaves no source with more of them. -/
theorem tget_held_length {t : Tab (List FaultMsg)} {lo : Nat} (p : FaultMsg → Bool) (k : Nat)
    (h : twfFrom (fun _ => []) lo t = true) :
    (tget (fun _ => []) ((t.map fun e => (e.1, e.2.filter p)).filter fun e => !e.2.isEmpty) k).length ≤
      (tget (fun _ => []) t k).length := by
  induction t generalizing lo with
  | nil => exact le_rfl
  | cons e t ih =>
    obtain ⟨j, l⟩ := e
    simp only [twfFrom, Bool.and_eq_true, decide_eq_true_eq] at h
    have hrest := ih h.2
    rw [List.map_cons, List.filter_cons]
    by_cases hk : k = j
    · subst hk
      have hnone : tget (fun _ => []) t k = [] := tget_of_lt h.2 (by omega)
      by_cases hl : (l.filter p).isEmpty
      · simp only [hl, Bool.not_true, Bool.false_eq_true, if_false]
        rw [hnone] at hrest
        exact hrest.trans (Nat.zero_le _)
      · simp only [hl, Bool.not_false, if_true, tget]
        exact List.length_filter_le p l
    · by_cases hl : (l.filter p).isEmpty
      · simpa only [hl, Bool.not_true, Bool.false_eq_true, if_false, tget, hk] using hrest
      · simpa only [hl, Bool.not_false, if_true, if_false, tget, hk] using hrest

/-- The bound of R416 and the canonical form, together: a read after a write of the held messages rests on the latter. -/
def State.CanonFourHeld (s : State) : Prop := s.Canon ∧ s.FourHeld

theorem State.fourHeld_of_msgs_nil {s : State} (h : s.msgs = []) : s.FourHeld := fun source => by
  rw [State.heldAt, h]
  exact Nat.zero_le 4

theorem State.FourHeld.of_msgs {s t : State} (h : s.FourHeld) (ht : t.msgs = s.msgs) : t.FourHeld := fun source => by
  rw [State.heldAt, ht]
  exact h source

/-- Messages written at one source, no more than it held or than four, leave the bound. -/
theorem State.FourHeld.tset {s : State} (hc : s.Canon) (h : s.FourHeld) {k : Nat} {l : List FaultMsg}
    (hl : l.length ≤ max 4 (s.heldAt k).length) : { s with msgs := Machine.tset (fun _ => []) s.msgs k l }.FourHeld := by
  intro source
  rw [State.heldAt]
  by_cases hk : source = k
  · subst hk
    rw [tget_tset_self hc.msgs]
    exact hl.trans (max_le le_rfl (h source))
  · rw [tget_tset_ne _ _ _ hk]
    exact h source

theorem canonFourHeld_closed : Closed State.CanonFourHeld where
  frame h hp h1 h2 h3 h4 h5 h6 h7 h8 h9 h10 := ⟨canon_closed.frame h.1 hp h1 h2 h3 h4 h5 h6 h7 h8 h9 h10, h.2.of_msgs h7⟩
  csr h k v := ⟨canon_closed.csr h.1 k v, h.2⟩
  csrFilter h p := ⟨canon_closed.csrFilter h.1 p, h.2⟩
  csrReset h p f := ⟨canon_closed.csrReset h.1 p f, h.2⟩
  dict h k v := ⟨canon_closed.dict h.1 k v, h.2⟩
  dictFilter h p := ⟨canon_closed.dictFilter h.1 p, h.2⟩
  gens h k v := ⟨canon_closed.gens h.1 k v, h.2⟩
  cell h a b c := ⟨canon_closed.cell h.1 a b c, h.2⟩
  memFilter h p q := ⟨canon_closed.memFilter h.1 p q, h.2⟩
  units h k v := ⟨canon_closed.units h.1 k v, h.2⟩
  unitsFilter h p := ⟨canon_closed.unitsFilter h.1 p, h.2⟩
  sweep h e := ⟨canon_closed.sweep h.1 e, h.2⟩
  msgs h k l hl := ⟨canon_closed.msgs h.1 k l hl, h.2.tset h.1 hl⟩
  msgsNil h := ⟨canon_closed.msgsNil h.1, State.fourHeld_of_msgs_nil rfl⟩
  windowsNil h := ⟨canon_closed.windowsNil h.1, h.2⟩
  msgsFilter h p := ⟨canon_closed.msgsFilter h.1 p, fun source => (tget_held_length p source h.1.msgs).trans (h.2 source)⟩
  evid h k v a c := ⟨canon_closed.evid h.1 k v a c, h.2⟩
  blob h k v := ⟨canon_closed.blob h.1 k v, h.2⟩
  window h k v := ⟨canon_closed.window h.1 k v, h.2⟩
  windowFilter h p := ⟨canon_closed.windowFilter h.1 p, h.2⟩
  job h := ⟨canon_closed.job h.1, h.2⟩
  power h p q := ⟨canon_closed.power h.1 p q, State.fourHeld_of_msgs_nil rfl⟩

/-- Settles O5: the bound is closed together with the canonical form, and the queue is no part of either. -/
theorem stepKeepsFourHeld : Obligations.StepKeepsFourHeld :=
  fun _ _ hc h hs => (step_keeps canonFourHeld_closed (fun q h => ⟨h.1.with_pending q, h.2⟩) ⟨hc, h⟩ hs).2

end Sys2Proof.Machine
end

section
/-! PROOFS. The queue, time, power-on, and what the shared operations on registers, events and fault messages leave unchanged (R43, R201,
R296, R416, R431). -/

namespace Sys2Proof.Machine

/-! ## The front of the queue -/

/-- Settles O1: the queue's front is the command that `step` carries out, by definition. -/
theorem stepRunsFront : Obligations.StepRunsFront := fun _ _ _ => rfl

/-- With nothing waiting on either path the signal box has nothing to serve. -/
theorem State.odDrain_of_none_waits {s : State} (h0 : vget [] s.sb.waiting 0 = []) (h1 : vget [] s.sb.waiting 1 = []) :
    s.odDrain = s := by
  unfold State.odDrain State.odWaits
  rw [h0, h1]
  exact ite_self s

/-- Whole nanoseconds that an edge of REFCLK adds to those counted, from the tenths held before it (R296). -/
def State.edgeNs (s : State) : Nat := (s.rfrac + 64) / 10

/-- An edge changes the held fraction, the clocks of the signal box, and outside LINE reset RTIME. -/
theorem State.tick_eq (s : State) : ∃ c, s.tick =
    if s.dom.lineRst then { s with rfrac := (s.rfrac + 64) % 10, clock := c }
    else { s with rfrac := (s.rfrac + 64) % 10, clock := c }.fset R.RTIME_NS (s.rtime + s.edgeNs) := by
  refine ⟨s.tick.clock, ?_⟩
  cases h : s.dom.signalRst && !s.clock.fromCopy <;> cases hl : s.dom.lineRst <;>
    simp only [State.tick, h, hl, Bool.false_eq_true, if_true, if_false] <;> rfl

@[simp] theorem State.tick_sb (s : State) : s.tick.sb = s.sb := by
  obtain ⟨c, h⟩ := s.tick_eq
  rw [h]
  split <;> rfl

/-- Settles O2: an empty queue ticks, and the drain behind the edge serves what waits, which an edge does not change. -/
theorem idleStepTicks : Obligations.IdleStepTicks := by
  intro s hs
  have hstep : step s = .next s.tick.odDrain := by
    unfold step
    rw [hs]
    rfl
  refine ⟨hstep, fun h0 h1 => ?_⟩
  rw [hstep, State.odDrain_of_none_waits] <;> rwa [State.tick_sb]

/-! ## Power-on (R43, R456) -/

/-- Settles O60: the tables of the reset state are literals, and what its registers read is computed, of tiles and ports one by one. -/
theorem resetState : Obligations.ResetState := by
  refine ⟨rfl, rfl, rfl, rfl, rfl, rfl, rfl, rfl, rfl, rfl, rfl, rfl, rfl, State.canon_reset, State.fourHeld_of_msgs_nil rfl, ?_, ?_,
    ?_, ?_, ?_, ?_, ?_, ?_, ?_, ?_, ?_, ?_⟩ <;> decide +kernel

/-! ## Registers apart -/

namespace State

variable (s : State)

theorem fset_with_csr (f : Fld) (v : Nat) : { s.fset f v with csr := s.csr } = s := rfl

theorem csrGet_bump_ne {f ovf : Fld} {off : Nat} (h : off ≠ f.off) (h' : off ≠ ovf.off) (n : Nat) :
    (s.bump f ovf n).csrGet off = s.csrGet off := by
  unfold bump
  dsimp only
  split
  · rw [csrGet_fset_ne h', csrGet_fset_ne h]
  · rw [csrGet_fset_ne h]

theorem bump_with_csr (f ovf : Fld) (n : Nat) : { s.bump f ovf n with csr := s.csr } = s := by
  unfold bump
  dsimp only
  split <;> rfl

end State

/-- Settles O8: the laws of a field of a word, at the register that holds it. -/
theorem fieldWrite : Obligations.FieldWrite := fun s f v hs hf =>
  ⟨State.fget_fset_self hs.csr hf v, fun _ hg => State.fget_fset_ne hs.csr hf v hg, fun _ h => State.csrGet_fset_ne h v,
    s.fset_with_csr f v⟩

/-! ## Event counters (R431) -/

namespace State

variable {s : State} {f ovf : Fld}

theorem bump_of_le {n : Nat} (h : s.fget f + n ≤ 0xFFFFFFFF) : s.bump f ovf n = s.fset f (s.fget f + n) :=
  if_neg (Nat.not_lt.mpr h)

theorem bump_of_lt {n : Nat} (h : 0xFFFFFFFF < s.fget f + n) : s.bump f ovf n = (s.fset f 0xFFFFFFFF).fset ovf 1 := if_pos h

end State

/-- Settles O10: below the limit the counter is written alone, and beyond it both fields are. -/
theorem eventCounterSaturates : Obligations.EventCounterSaturates := by
  intro s f ovf n hs hw hf hw1 hovf hapart
  have hcounter : ∀ g : Fld, g.off ≠ f.off ∨ (g.lo + g.w ≤ 64 ∧ (g.lo + g.w ≤ f.lo ∨ f.lo + f.w ≤ g.lo)) → ∀ v,
      (s.fset f v).fget g = s.fget g := fun g hg v => State.fget_fset_ne hs.csr hf v hg
  refine ⟨?_, ?_, s.bump_with_csr f ovf n⟩
  · by_cases h : s.fget f + n ≤ 0xFFFFFFFF
    · rw [State.bump_of_le h, State.fget_fset_self hs.csr hf, hw, min_eq_left h]
      exact Nat.mod_eq_of_lt (by omega)
    · rw [State.bump_of_lt (Nat.not_le.mp h), min_eq_right (Nat.le_of_not_le h),
        State.fget_fset_ne (State.csr_fset hs.csr f _) hovf 1 (by omega), State.fget_fset_self hs.csr hf, hw]
      rfl
  · unfold State.flag
    by_cases h : s.fget f + n ≤ 0xFFFFFFFF
    · rw [State.bump_of_le h, hcounter ovf (by omega), decide_eq_false (Nat.not_lt.mpr h), Bool.or_false]
    · rw [State.bump_of_lt (Nat.not_le.mp h), State.fget_fset_self (State.csr_fset hs.csr f _) hovf, hw1,
        decide_eq_true (Nat.not_le.mp h), Bool.or_true]
      rfl

/-! ## Events and fault reports (R201, R416) -/

namespace State

variable (s : State)

theorem event_csrGet_ne (source code : Nat) (l : List Byte) {off : Nat} (h : off ≠ R.DW_EVQ) :
    (s.event source code l).csrGet off = s.csrGet off := by
  unfold event
  dsimp only
  split
  · exact csrGet_bump_ne _ h h 1
  · rfl

theorem event_with_csr_dw (source code : Nat) (l : List Byte) : { s.event source code l with csr := s.csr, dw := s.dw } = s := by
  unfold event
  dsimp only
  split
  · exact congrArg (fun t : State => { t with dw := s.dw }) (bump_with_csr _ _ _ _)
  · rfl

theorem event_evSeq (source code : Nat) (l : List Byte) : (s.event source code l).dw.evSeq = (s.dw.evSeq + 1) % 2 ^ 32 := by
  unfold event
  dsimp only
  split
  · rw [bump_dw]
  · rfl

theorem reportMsg_csrGet_ne (m : FaultMsg) {off : Nat} (h : off ≠ R.IL_EVENTS2) (h' : off ≠ R.IL_FLAGS) :
    (s.reportMsg m).csrGet off = s.csrGet off := by
  rw [reportMsg_eq]
  dsimp only
  split
  · exact csrGet_bump_ne _ h h' 1
  · rfl

theorem reportMsg_with_csr_msgs (m : FaultMsg) : { s.reportMsg m with csr := s.csr, msgs := s.msgs } = s := by
  rw [reportMsg_eq]
  dsimp only
  split
  · exact congrArg (fun t : State => { t with msgs := s.msgs }) (bump_with_csr _ _ _ _)
  · rfl

end State

/-- Settles O9: an event writes its queue and counts its loss, a report writes its source's messages and counts its merge. -/
theorem reportFrames : Obligations.ReportFrames := fun s source code _ _ _ l _ =>
  ⟨fun _ h => s.event_csrGet_ne source code l h, s.event_with_csr_dw source code l, s.event_evSeq source code l,
    fun _ h h' => s.reportMsg_csrGet_ne _ h h', fun _ h => s.reportMsg_heldAt_ne _ h, s.reportMsg_with_csr_msgs _⟩

/-! ## Time (R296) -/

namespace State

variable {s : State}

@[simp] theorem tick_dom : s.tick.dom = s.dom := by
  obtain ⟨c, h⟩ := s.tick_eq
  rw [h]
  split <;> rfl

@[simp] theorem tick_rfrac : s.tick.rfrac = (s.rfrac + 64) % 10 := by
  obtain ⟨c, h⟩ := s.tick_eq
  rw [h]
  split <;> rfl

/-- Outside LINE reset an edge writes RTIME, and no other register. -/
theorem tick_csr (h : s.dom.lineRst = false) : s.tick.csr = (s.fset R.RTIME_NS (s.rtime + s.edgeNs)).csr := by
  obtain ⟨c, he⟩ := s.tick_eq
  rw [he, h]
  rfl

theorem tick_csrGet (h : s.dom.lineRst = false) (off : Nat) :
    s.tick.csrGet off = (s.fset R.RTIME_NS (s.rtime + s.edgeNs)).csrGet off := by
  unfold csrGet
  rw [tick_csr h]

theorem tick_csrGet_ne (h : s.dom.lineRst = false) {off : Nat} (ho : off ≠ R.RTIME) : s.tick.csrGet off = s.csrGet off :=
  (tick_csrGet h off).trans (csrGet_fset_ne ho _)

theorem tick_rtime (hs : twf csrDflt s.csr = true) (h : s.dom.lineRst = false) :
    s.tick.rtime = (s.rtime + s.edgeNs) % 2 ^ 64 := by
  unfold rtime fget
  rw [tick_csrGet h]
  exact fget_fset_self hs (by decide) _

end State

/-- Settles O7: an edge adds 64 tenths of a nanosecond, of which the whole nanoseconds go to RTIME; five edges add 320. -/
theorem rtimeRate : Obligations.RtimeRate := by
  intro s hs hline hfrac
  have canon : ∀ u : State, u.Canon → u.tick.Canon := fun u => State.tick_keeps canon_closed
  refine ⟨?_, ?_, fun off ho => ?_⟩
  · have c1 := canon s hs
    have c2 := canon _ c1
    have c3 := canon _ c2
    have c4 := canon _ c3
    rw [State.tick_rtime c4.csr (by simpa using hline), State.tick_rtime c3.csr (by simpa using hline),
      State.tick_rtime c2.csr (by simpa using hline), State.tick_rtime c1.csr (by simpa using hline),
      State.tick_rtime hs.csr hline]
    simp only [State.edgeNs, State.tick_rfrac]
    omega
  · simp only [State.tick_rfrac]
    omega
  · rw [State.tick_csrGet_ne (by simpa using hline) ho, State.tick_csrGet_ne (by simpa using hline) ho,
      State.tick_csrGet_ne (by simpa using hline) ho, State.tick_csrGet_ne (by simpa using hline) ho,
      State.tick_csrGet_ne hline ho]

end Sys2Proof.Machine
end

section
/-! PROOFS. The sequencer of a tile: dispatches that arrive, CTRL operations, the ends of waits, traps, berth operations and trigger
counters (R83 to R98, R108, R115 to R118). -/

namespace Sys2Proof.Machine

/-! ## Dispatches that arrive (R93) -/

namespace State

variable {s : State} {p : Nat}

theorem arrive_of_ready (d : Dispatch) (h : s.tileState p = 1 ∨ s.tileState p = 4) : s.arrive p d = s.evalDispatch p d := by
  unfold arrive
  rcases h with h | h <;> rw [h] <;> rfl

theorem arrive_of_running (d : Dispatch) (h : s.tileState p = 2 ∨ s.tileState p = 3) : s.arrive p d =
    match (s.tile p).held with
    | none => s.setTile p { s.tile p with held := some d }
    | some h => if h.seq = d.seq then s.dupDispatch p else s.gapDispatch p d := by
  unfold arrive
  rcases h with h | h <;> rw [h] <;> rfl

theorem arrive_of_out (d : Dispatch) (h : s.tileState p = 0 ∨ 5 ≤ s.tileState p) : s.arrive p d = s := by
  unfold arrive
  split
  iterate 4 · next h' => rw [h'] at h; omega
  · rfl

end State

/-- Settles O11: a ready tile judges the number by its distance from SEQ, a running one by the number it holds. -/
theorem dispatchArrives : Obligations.DispatchArrives := by
  intro p seq entry a1 a2 a3 s d c delta
  have hexec : exec c s = .next (s.arrive p.val d) := rfl
  rw [hexec]
  refine ⟨fun h => ?_, fun h => ?_, fun h => ?_⟩
  · rw [State.arrive_of_ready d h]
    refine ⟨fun h1 => ?_, fun hdup => ?_, fun h2 hlt => ?_⟩
    · exact congrArg _ (if_pos h1)
    · exact congrArg _ ((if_neg (show ¬ delta = 1 by omega)).trans (if_pos hdup))
    · exact congrArg _ ((if_neg (show ¬ delta = 1 by omega)).trans (if_neg (show ¬ (delta = 0 ∨ 2 ^ 31 ≤ delta) by omega)))
  · rw [State.arrive_of_running d h]
    constructor
    · intro hn
      rw [hn]
    · intro x hx
      rw [hx]
      rfl
  · rw [State.arrive_of_out d h]

/-! ## CTRL operations (R98) -/

/-- A tile's berth registers and scalar registers as a write of them leaves them, its PC set too. -/
theorem Tile.setScalar_with_pc (t : Tile) (i : Nat) (v : BitVec 64) (n : Nat) :
    { t.setScalar i v with pc := n } = { t with pc := n, g := if i = 0 then t.g else vput t.g i v } := by
  unfold setScalar
  split <;> rfl

theorem Tile.setBerth_with_pc (t : Tile) (i : Nat) (v : Berth) (n : Nat) :
    { t.setBerth i v with pc := n } = { t with pc := n, b := if i = 0 then t.b else vput t.b i v } := by
  unfold setBerth
  split <;> rfl

@[simp] theorem Tile.setBerth_pc (t : Tile) (i : Nat) (v : Berth) : (t.setBerth i v).pc = t.pc := by
  unfold setBerth
  split <;> rfl

/-- The low half of the immediate is the branch offset. -/
theorem branchTo_iImm (pc w : Nat) : branchTo pc (iImm w) = (pc + nbits w 31 0) % 2 ^ 32 := by
  unfold branchTo iImm nbits
  rw [Nat.mod_mod_of_dvd _ (pow_dvd_pow 2 (by decide))]

theorem State.branch_eq (s : State) (p w : Nat) : s.branch p w = s.atPc p (((s.tile p).pc + nbits w 31 0) % 2 ^ 32) := by
  unfold State.branch State.atPc
  rw [branchTo_iImm]

/-- Settles O13: a word issues to its own row, whose body is the next state as the statement writes it. -/
theorem controlOperations : Obligations.ControlOperations := by
  intro p s t w x off g jump onward waits
  have issued : ∀ op body, Issues s t p 0 op w →
      (Host.Outcome.next (s.issue p.val (isOp 0 op) body) : Res) = .next (body t w) :=
    fun op body h => congrArg _ (h.issue_eq body)
  have hjump : t.branch p.val w = jump := t.branch_eq p.val w
  refine ⟨issued 0 _, issued 1 _, fun h => ?_, fun h => ?_, fun h => ?_, fun h => ?_, fun h => ?_, issued 7 _⟩
  · rw [← hjump]
    exact issued 2 _ h
  · rw [← hjump]
    exact issued 3 _ h
  · rw [← hjump]
    exact issued 4 _ h
  · rw [exec_gset h, Tile.setScalar_with_pc]
    rfl
  · rw [exec_gadd h, Tile.setScalar_with_pc]
    rfl

/-! ## Ends of waits (R96, R98, R108, R114, R172) -/

/-- A tile that leaves WAIT for the next instruction: the wait ends, then STATE, then the PC. -/
theorem State.resume_eq (s : State) (p : Nat) : s.resume p =
    ((s.setTile p { s.tile p with wait := .none }).fset (R.TILE_STATE_STATE.at (tileOff p)) 2).advance p := rfl

/-- Settles O14: each row acts on its own wait, in the order of the tests of R96 and R114. -/
theorem waitsEnd : Obligations.WaitsEnd := by
  intro p s hwait x free state halted ended
  refine ⟨fun h => ?_, fun h => ?_, fun k v h => ?_⟩
  · exact congrArg _ (if_pos ⟨h, hwait⟩)
  · exact congrArg _ (if_pos ⟨h, hwait⟩)
  · have hrow : exec (.ctrWaitRelease p) s = execCtrWaitRelease p s := rfl
    rw [hrow, execCtrWaitRelease, show (s.tile p.val).wait = .ctr k v from h]
    exact congrArg _ (if_neg (not_not_intro hwait))

/-! ## Traps (R115 to R118) -/

/-- What a source holds after a message includes one of its kind and CLEAR value (R416). -/
theorem holdMsg_holds (l : List FaultMsg) (m : FaultMsg) : ∃ h ∈ (holdMsg l m).1, h.kind = m.kind ∧ h.clear = m.clear := by
  have hmerge : ∀ l l', mergeMsg m l = some l' → ∃ h ∈ l', h.kind = m.kind ∧ h.clear = m.clear := by
    intro l
    induction l with
    | nil => intro l' h; cases h
    | cons x l ih =>
      intro l' h
      by_cases hx : x.kind = m.kind ∧ x.clear = m.clear
      · rw [mergeMsg, if_pos hx] at h
        cases h
        exact ⟨_, List.mem_cons_self, hx⟩
      · rw [mergeMsg, if_neg hx] at h
        obtain ⟨r, hr, rfl⟩ := Option.map_eq_some_iff.mp h
        obtain ⟨y, hy, hk⟩ := ih r hr
        exact ⟨y, List.mem_cons_of_mem _ hy, hk⟩
  unfold holdMsg
  split
  · next l' h => exact hmerge l l' h
  · split
    · exact ⟨m, by simp, rfl, rfl⟩
    · exact ⟨{ m with lost := true }, by simp, rfl, rfl⟩

namespace State

variable (s : State)

theorem report_csrGet_ne (source : Nat) (k : Kind) (detail addr : Nat) (clear : Bool) {off : Nat} (h : off ≠ R.IL_EVENTS2)
    (h' : off ≠ R.IL_FLAGS) : (s.report source k detail addr clear).csrGet off = s.csrGet off := s.reportMsg_csrGet_ne _ h h'

theorem report_fget_ne (source : Nat) (k : Kind) (detail addr : Nat) (clear : Bool) {f : Fld} (h : f.off ≠ R.IL_EVENTS2)
    (h' : f.off ≠ R.IL_FLAGS) : (s.report source k detail addr clear).fget f = s.fget f := by
  unfold fget
  rw [report_csrGet_ne _ _ _ _ _ _ h h']

theorem evalHeld_of_none {p : Nat} (h : (s.tile p).held = none) : s.evalHeld p = s := by
  unfold evalHeld
  rw [h]

/-- The word that a trap loads: code, berth, VALID and the index of the trapping instruction (R118). -/
def trapWord (s : State) (p : Nat) (ti : TrapInfo) : Word :=
  BitVec.ofNat 64 (ti.code * 2 ^ 48 + ti.berth * 2 ^ 42 + 2 ^ 32 + (s.tile p).pc % 2 ^ 32)

/-- The trap registers of a tile loaded, where VALID was 0. -/
def trapCaptured (s : State) (p : Nat) (ti : TrapInfo) : State :=
  s.capture (R.TILE_TRAP_VALID.at (tileOff p)) (R.TILE_TRAP + tileOff p) (s.trapWord p ti) (R.TILE_TRAP_ADDR + tileOff p) ti.addr

/-- A tile stopped in TRAPPED, its wait over. -/
def trapStopped (s : State) (p : Nat) : State :=
  (s.setTile p { s.tile p with wait := .none, collAbt := false }).setTileState p 4

theorem trapCaptured_tile (p : Nat) (ti : TrapInfo) (q : Nat) : (s.trapCaptured p ti).tile q = s.tile q := capture_tile _ _ _ _ _ _ _

theorem trapStopped_tile {p : Nat} (hp : p < 192) :
    (s.trapStopped p).tile p = { s.tile p with wait := .none, collAbt := false } := tile_setTile_self _ hp _

theorem trapStopped_canon {s : State} (h : s.Canon) (p : Nat) : (s.trapStopped p).Canon :=
  fset_keeps canon_closed (s := s.setTile p _) { h with }

variable {s} {p : Nat} {ti : TrapInfo}

/-- Without a held dispatch a trap captures, stops the tile and reports. -/
theorem trap_of_held_none (hp : p < 192) (h : (s.tile p).held = none) :
    s.trap p ti = ((s.trapCaptured p ti).trapStopped p).report p .tileTrap ti.code ti.addr := by
  have hstill : ((((s.trapCaptured p ti).trapStopped p).report p .tileTrap ti.code ti.addr).tile p).held = none := by
    rw [report_tile, trapStopped_tile _ hp, trapCaptured_tile]
    exact h
  exact evalHeld_of_none _ hstill

theorem trapCaptured_of_valid (h : s.flag (R.TILE_TRAP_VALID.at (tileOff p)) = true) : s.trapCaptured p ti = s := if_pos h

theorem trapCaptured_of_not_valid (h : s.flag (R.TILE_TRAP_VALID.at (tileOff p)) = false) : s.trapCaptured p ti =
    (s.csrPut (R.TILE_TRAP + tileOff p) (s.trapWord p ti)).csrPut (R.TILE_TRAP_ADDR + tileOff p) (BitVec.ofNat 64 ti.addr) :=
  if_neg (by simp [h])

theorem trapStopped_csrGet_ne {off : Nat} (h : off ≠ R.TILE_STATE + tileOff p) : (s.trapStopped p).csrGet off = s.csrGet off :=
  csrGet_fset_ne (s := s.setTile p _) h 4

end State

/-- The registers of the tiles lie below every block of the interlock. -/
theorem tile_reg_ne_interlock (p : Nat) {off : Nat} (h : R.TILE_STATE ≤ off) :
    off + tileOff p ≠ R.IL_EVENTS2 ∧ off + tileOff p ≠ R.IL_FLAGS := by
  unfold R.TILE_STATE at h
  unfold R.IL_EVENTS2 R.IL_FLAGS
  omega

/-- A register of a tile's block other than TILE_STATE and the trap pair is read after a trap as after the capture. -/
theorem State.trap_csrGet {s : State} {p : Nat} {ti : TrapInfo} (hp : p < 192) (h : (s.tile p).held = none) {off : Nat}
    (hoff : R.TILE_STATE < off) : (s.trap p ti).csrGet (off + tileOff p) = (s.trapCaptured p ti).csrGet (off + tileOff p) := by
  obtain ⟨h1, h2⟩ := tile_reg_ne_interlock p hoff.le
  rw [State.trap_of_held_none hp h, State.report_csrGet_ne _ _ _ _ _ _ h1 h2, State.trapStopped_csrGet_ne (by omega)]

theorem State.trap_fget {s : State} {p : Nat} {ti : TrapInfo} (hp : p < 192) (h : (s.tile p).held = none) {f : Fld}
    (hoff : R.TILE_STATE < f.off) : (s.trap p ti).fget (f.at (tileOff p)) = (s.trapCaptured p ti).fget (f.at (tileOff p)) :=
  congrArg (getBits · f.lo f.w) (State.trap_csrGet hp h hoff)

/-- The fields of the word of a trap (R118). -/
theorem getBits_trapWord (s : State) {p : Nat} {ti : TrapInfo} (hc : ti.code < 2 ^ 16) (hb : ti.berth < 64) :
    getBits (s.trapWord p ti) 48 16 = ti.code ∧ getBits (s.trapWord p ti) 42 6 = ti.berth ∧
      getBits (s.trapWord p ti) 32 1 = 1 ∧ getBits (s.trapWord p ti) 0 32 = (s.tile p).pc % 2 ^ 32 := by
  unfold getBits State.trapWord
  rw [BitVec.toNat_ofNat]
  have hpc : (s.tile p).pc % 2 ^ 32 < 2 ^ 32 := Nat.mod_lt _ (by decide)
  generalize (s.tile p).pc % 2 ^ 32 = n at *
  omega

/-- Settles O15: a trap captures, stops and reports; and a word that is not listed, or does not come, traps for whichever row asks. -/
theorem trapsAndIllegalWords : Obligations.TrapsAndIllegalWords := by
  constructor
  · intro p s ti hs hheld hcode hberth t
    have heq : t = ((s.trapCaptured p ti).trapStopped p).report p .tileTrap ti.code ti.addr := State.trap_of_held_none p.isLt hheld
    have hcap : (s.trapCaptured p ti).Canon := State.capture_keeps canon_closed hs
    have hstate : t.tileState p.val = 4 := by
      rw [heq]
      refine (State.report_fget_ne _ _ _ _ _ _ ?_ ?_).trans
        (State.fget_fset_at (s := (s.trapCaptured p ti).setTile p _) hcap.csr (by decide) 4 (by decide))
      · exact (tile_reg_ne_interlock p le_rfl).1
      · exact (tile_reg_ne_interlock p le_rfl).2
    refine ⟨hstate, ?_, fun hv => ?_, fun hv => ?_, ?_, ?_, fun q hq => ?_⟩
    · rw [heq, State.report_tile, State.trapStopped_tile _ p.isLt, State.trapCaptured_tile]
    · have hread : ∀ off, R.TILE_STATE < off → t.csrGet (off + tileOff p) = s.csrGet (off + tileOff p) := fun off h =>
        (State.trap_csrGet p.isLt hheld h).trans (by rw [State.trapCaptured_of_valid hv])
      exact ⟨hread _ (by decide), hread _ (by decide)⟩
    · have hword : (s.trapCaptured p ti).csrGet (R.TILE_TRAP + tileOff p) = s.trapWord p ti := by
        rw [State.trapCaptured_of_not_valid hv, State.csrGet_csrPut_ne (by unfold R.TILE_TRAP R.TILE_TRAP_ADDR; omega),
          State.csrGet_csrPut_self hs.csr]
      have haddr : (s.trapCaptured p ti).csrGet (R.TILE_TRAP_ADDR + tileOff p) = BitVec.ofNat 64 ti.addr := by
        rw [State.trapCaptured_of_not_valid hv]
        exact State.csrGet_csrPut_self (twf_tset hs.csr _ _) _ _
      have hfield : ∀ f : Fld, f.off = R.TILE_TRAP → t.fget (f.at (tileOff p)) = getBits (s.trapWord p ti) f.lo f.w := by
        intro f hf
        rw [State.trap_fget p.isLt hheld (by rw [hf]; decide), ← hword, ← hf]
        rfl
      obtain ⟨gcode, gberth, gvalid, gpc⟩ := getBits_trapWord s hcode hberth (p := p)
      refine ⟨(hfield _ rfl).trans gcode, (hfield _ rfl).trans gberth, ?_, (hfield _ rfl).trans gpc,
        (State.trap_csrGet p.isLt hheld (by decide)).trans haddr⟩
      unfold State.flag
      rw [hfield _ rfl]
      exact beq_iff_eq.mpr gvalid
    · rw [heq]
      unfold State.report
      rw [State.reportMsg_heldAt_self (State.trapStopped_canon hcap p)]
      exact holdMsg_holds _ _
    · intro a
      rw [heq, State.report_cell]
      exact State.capture_cell _ _ _ _ _ _ _
    · rw [heq, State.report_tile]
      exact (State.tile_setTile_ne _ hq _).trans (State.trapCaptured_tile _ _ _ _)
  · intro p s t hrun
    refine ⟨fun w hw hl => ?_, fun ti hti c hc => ?_⟩
    · have hmine : (!opListed (iCls w) (iOp w)) = true := by rw [hl]; rfl
      have hissue : s.issue p.val (fun w => !opListed (iCls w) (iOp w)) (fun s _ => s.trap p.val ⟨0x0001, 0, 0⟩) =
          t.trap p.val ⟨0x0001, 0, 0⟩ := by
        unfold State.issue
        rw [if_neg (not_not_intro hrun), hw]
        exact if_pos hmine
      exact congrArg _ hissue
    · have hissue : ∀ mine body, s.issue p.val mine body = t.trap p.val ti := by
        intro mine body
        unfold State.issue
        rw [if_neg (not_not_intro hrun), hti]
      fin_cases hc <;> exact congrArg _ (hissue _ _)

/-! ## BERTH and SYNC operations (R91, R92, R108) -/

/-- A berth register written, and on to the next instruction. -/
theorem State.advance_setBerth (s : State) {p : Nat} (h : p < 192) (i : Nat) (v : Berth) :
    (s.setTile p ((s.tile p).setBerth i v)).advance p = s.setTile p
      { s.tile p with pc := s.nextPc p, b := if i = 0 then (s.tile p).b else vput (s.tile p).b i v } := by
  rw [State.advance_setTile _ h, Tile.setBerth_pc, Tile.setBerth_with_pc]
  rfl

theorem State.withCtr_of_lt {s : State} {w : Nat} (h : nbits w 9 0 < s.prog.trigCtrs) (p : Nat) (body : State → State) :
    s.withCtr p w body = body s := if_neg (Nat.not_le.mpr h)

theorem State.withCtr_of_le {s : State} {w : Nat} (h : s.prog.trigCtrs ≤ nbits w 9 0) (p : Nat) (body : State → State) :
    s.withCtr p w body = s.trap p ⟨0x0040, 0, 0⟩ := if_pos h

theorem Berth.subGroups_eq_true {b : Berth} {c cols : Nat} :
    b.subGroups c cols = true ↔ c % groupElems b.fmt = 0 ∧ cols % groupElems b.fmt = 0 := by
  simp [Berth.subGroups]

/-- A narrowing whose berth is usable, not empty and within bounds, into a register that may be written, is left with the group rule. -/
theorem State.berthSub_of_within {s : State} {p w : Nat} (hd : ¬ (iBd w = 1 ∨ iBd w = 2))
    (husable : ((s.tile p).berth (iBa w)).usable = true) (hrows : nbits w 83 72 ≠ 0) (hcols : nbits w 23 0 ≠ 0)
    (hin : s.chkRows ((s.tile p).berth (iBa w)) (iBa w) (nbits w 43 24 + ((s.tile p).scalar (nbits w 87 84)).toNat) (nbits w 23 0)
      (nbits w 63 44 + ((s.tile p).scalar (nbits w 91 88)).toNat) (nbits w 83 72) = none) :
    s.berthSub p w =
      if ((s.tile p).berth (iBa w)).subGroups (nbits w 43 24 + ((s.tile p).scalar (nbits w 87 84)).toNat) (nbits w 23 0) then
        (s.setTile p ((s.tile p).setBerth (iBd w) (((s.tile p).berth (iBa w)).sub
          (nbits w 63 44 + ((s.tile p).scalar (nbits w 91 88)).toNat) (nbits w 43 24 + ((s.tile p).scalar (nbits w 87 84)).toNat)
          (nbits w 83 72) (nbits w 23 0) (nbits w 66 64)))).advance p
      else s.trap p ⟨0x0015, iBa w, 0⟩ := by
  unfold State.berthSub
  have hempty : ¬ (nbits w 83 72 = 0 ∨ nbits w 23 0 = 0) := by simp [hrows, hcols]
  simp only [husable, if_true, if_neg hd, if_neg hempty, hin]
  cases ((s.tile p).berth (iBa w)).subGroups (nbits w 43 24 + ((s.tile p).scalar (nbits w 87 84)).toNat) (nbits w 23 0) <;> rfl

/-- Settles O16: each word issues to its own row, which writes the register, or traps with the first check that fails. -/
theorem berthAndCounterOperations : Obligations.BerthAndCounterOperations := by
  constructor
  · intro p s t w x b r c rows cols o set
    have issued : ∀ op body, Issues s t p 1 op w →
        (Host.Outcome.next (s.issue p.val (isOp 1 op) body) : Res) = .next (body t w) :=
      fun op body h => congrArg _ (h.issue_eq body)
    have hset : ∀ v, (t.setTile p ((t.tile p).setBerth (iBd w) v)).advance p = set v := fun v => t.advance_setBerth p.isLt _ v
    refine ⟨fun h1 h2 => ?_, fun h12 => ?_⟩
    · have hd : ¬ (iBd w = 1 ∨ iBd w = 2) := by simp [h1, h2]
      have hto : ∀ v, t.berthTo p w v = set v := fun v => (if_neg hd).trans (hset v)
      refine ⟨fun h => ?_, fun h => ?_, fun h husable hrows hcols hin => ?_⟩
      · rw [← hto]
        exact issued 1 _ h
      · rw [← hto]
        exact issued 2 _ h
      · have hsub : exec (.berthSub p) s = .next (t.berthSub p w) := issued 0 _ h
        rw [hsub, State.berthSub_of_within hd husable hrows hcols hin]
        refine ⟨fun hg => ?_, fun hg => ?_⟩
        · rw [if_pos (Berth.subGroups_eq_true.mpr hg), hset]
          rfl
        · rw [if_neg]
          rw [Berth.subGroups_eq_true, not_and_or]
          exact hg
    · have hto : ∀ v, t.berthTo p w v = t.trap p ⟨0x0011, iBd w, 0⟩ := fun v => if_pos h12
      refine ⟨fun h => ?_, fun h => ?_⟩
      · rw [← hto]
        exact issued 1 _ h
      · rw [← hto]
        exact issued 2 _ h
  · intro p s t w k o v
    have issued : ∀ op body, Issues s t p 5 op w →
        (Host.Outcome.next (s.issue p.val (isOp 5 op) body) : Res) = .next (body t w) :=
      fun op body h => congrArg _ (h.issue_eq body)
    refine ⟨fun hk => ⟨fun h => ?_, fun h => ?_, fun h => ?_⟩, fun hk op c hc h => ?_⟩
    · exact (issued 0 _ h).trans (congrArg _ (State.withCtr_of_lt hk _ _))
    · exact (issued 1 _ h).trans (congrArg _ (State.withCtr_of_lt hk _ _))
    · exact (issued 2 _ h).trans (congrArg _ (State.withCtr_of_lt hk _ _))
    · simp only [List.mem_cons, Prod.mk.injEq, List.not_mem_nil, or_false] at hc
      rcases hc with ⟨rfl, rfl⟩ | ⟨rfl, rfl⟩ | ⟨rfl, rfl⟩
      · exact (issued 0 _ h).trans (congrArg _ (State.withCtr_of_le hk _ _))
      · exact (issued 1 _ h).trans (congrArg _ (State.withCtr_of_le hk _ _))
      · exact (issued 2 _ h).trans (congrArg _ (State.withCtr_of_le hk _ _))

end Sys2Proof.Machine
end

section
/-! PROOFS. The vector unit: every operation reads its operands in order, computes, and writes (R67, R105). -/

namespace Sys2Proof.Machine

namespace State

variable {s t : State} {p : Fin 192} {w op : Nat}

/-- A vector word that fails a check traps with it, whatever its operation. -/
theorem vec_of_failing (h : Issues s t p 3 op w) {ti : TrapInfo} (hc : t.vecCheck p w = some ti) :
    s.vec p op = t.trap p ti := by
  unfold vec
  rw [h.issue_eq, hc]

theorem vec_of_passing (h : Issues s t p 3 op w) (hc : t.vecCheck p w = none) : s.vec p op = t.vecRun p w := by
  unfold vec
  rw [h.issue_eq, hc]

/-- Only a conversion reads scales. -/
theorem vecScaled_of_op_ne {t : Tile} (h : iOp w ≠ 0x06) : vecScaled t w = false := by
  simp [vecScaled, h]

/-- The operands of a vector word that are read without an error: the elements of each source, of the scales where the word has them,
and the state that the last read leaves. -/
structure VecReads (t : State) (p w : Nat) (as scs bs cs : List Nat) (u : State) : Prop where
  reads : ∃ t1 t1' t2,
    t.readElems (rqOperand p) ((t.tile p).berth (iBa w)) (((t.tile p).berth (iBa w)).coords (nbits w 31 0)) = (.ok as, t1) ∧
    (if vecScaled (t.tile p) w then
      t1.readElems (rqOperand p) ((t.tile p).berth ((t.tile p).berth (iBa w)).scaleBerth)
        ((((t.tile p).berth (iBa w)).coords (nbits w 31 0)).map fun (r, c) => (r, scaleCol ((t.tile p).berth (iBa w)) c))
      else (.ok [], t1)) = (.ok scs, t1') ∧
    t1'.vecRead p ((t.tile p).berth (iBb w)) ((vecSrcs w).length ≥ 2) (nbits w 31 0) = (.ok bs, t2) ∧
    t2.vecRead p ((t.tile p).berth (iBc w)) ((vecSrcs w).length ≥ 3) (nbits w 31 0) = (.ok cs, u)

/-- What a vector word writes, once its operands are read. -/
def vecOut (t u : State) (p w : Nat) (as scs bs cs : List Nat) : List Nat × OutFlags :=
  u.vecCompute w ((t.tile p).berth (iBa w)) ((t.tile p).berth (iBb w)) ((t.tile p).berth (iBc w)) ((t.tile p).berth (iBd w)) as bs cs scs

/-- With operands that read, and a destination whose own bytes do, a vector word writes what it computes and goes on. -/
theorem vecRun_of_reads {p : Nat} {as scs bs cs : List Nat} {u t4 : State} (h : VecReads t p w as scs bs cs u)
    (hpre : u.runsPre (rqOperand p) ((t.tile p).berth (iBd w))
      (((t.tile p).berth (iBd w)).runs (vecOut t u p w as scs bs cs).1) = (none, t4)) :
    t.vecRun p w = ((t4.runsWrite ((t.tile p).berth (iBd w)) (((t.tile p).berth (iBd w)).runs (vecOut t u p w as scs bs cs).1)).arithStatus
      p (t.tile p).pc (vecOut t u p w as scs bs cs).2).advance p := by
  obtain ⟨t1, t1', t2, ha, hs, hb, hc⟩ := h.reads
  have ha' : t.vecRead p ((t.tile p).berth (iBa w)) true (nbits w 31 0) = (.ok as, t1) := ha
  unfold vecRun
  simp only [ha', hs, hb, hc]
  unfold vecOut at hpre ⊢
  rw [hpre]

/-- Operands of a word without scales. -/
theorem VecReads.of_unscaled {p : Nat} {as bs cs : List Nat} {t1 t2 t3 : State} (hs : vecScaled (t.tile p) w = false)
    (ha : t.readElems (rqOperand p) ((t.tile p).berth (iBa w)) (((t.tile p).berth (iBa w)).coords (nbits w 31 0)) = (.ok as, t1))
    (hb : t1.vecRead p ((t.tile p).berth (iBb w)) ((vecSrcs w).length ≥ 2) (nbits w 31 0) = (.ok bs, t2))
    (hc : t2.vecRead p ((t.tile p).berth (iBc w)) ((vecSrcs w).length ≥ 3) (nbits w 31 0) = (.ok cs, t3)) :
    VecReads t p w as [] bs cs t3 := ⟨t1, t1, t2, ha, by rw [hs]; rfl, hb, hc⟩

/-- An operand that the operation has is read, and one that it has not is not. -/
theorem vecRead_of_le {p : Nat} {b : Berth} {i k n : Nat} (u : State) (hk : (vecSrcs w).length = k) :
    u.vecRead p b ((vecSrcs w).length ≥ i) n =
      if i ≤ k then u.readElems (rqOperand p) b (b.coords n) else (.ok [], u) := by
  unfold vecRead
  by_cases h : i ≤ k <;> simp [hk, h]

/-! ## What each operation computes -/

variable {u : State} {ba bb bc bd : Berth} {as bs cs scs : List Nat} {f : EFmt}

theorem vecRound_of_fmt (hf : fmtElem bd.fmt = some f) (vs : List Xv) :
    u.vecRound w bd vs = vs.zipIdx.map fun (v, i) => f.round (u.vecMode w bd i) v := by
  unfold vecRound
  rw [hf]

/-- The codes and flags of results rounded one by one. -/
def vecRounded (u : State) (w : Nat) (bd : Berth) (f : EFmt) (vs : List Xv) : List Nat × OutFlags :=
  let r := vs.zipIdx.map fun (v, i) => f.round (u.vecMode w bd i) v
  (r.map (·.1), orFlags (r.map fun e => .ofRnd e.2))

theorem vecRounded_eq (hf : fmtElem bd.fmt = some f) (vs : List Xv) :
    (let r := u.vecRound w bd vs; (r.map (·.1), orFlags (r.map fun e => .ofRnd e.2))) = u.vecRounded w bd f vs := by
  rw [vecRound_of_fmt hf]
  rfl

/-- The arithmetic operations: `vecArith` of the operands' values, element by element, rounded once. -/
theorem vecCompute_arith (hf : fmtElem bd.fmt = some f) (h : iOp w ∉ [0x06, 0x0C, 0x0D, 0x0E, 0x0F]) :
    u.vecCompute w ba bb bc bd as bs cs scs = u.vecRounded w bd f (as.zipIdx.map fun (a, i) =>
      vecArith (iOp w) (elemValue ba.fmt a) (elemValue bb.fmt (bs.getD i 0)) (elemValue bc.fmt (cs.getD i 0))) := by
  unfold vecCompute
  split
  iterate 5 · next h' => simp [h'] at h
  · exact vecRounded_eq hf _

theorem vecCompute_vcvt_plain (hop : iOp w = 0x06) (hf : fmtElem bd.fmt = some f) (hs : ba.scaleEn = false) :
    u.vecCompute w ba bb bc bd as bs cs scs = u.vecRounded w bd f (as.map (elemValue ba.fmt)) := by
  unfold vecCompute
  rw [hop]
  refine (vecRounded_eq hf _).trans (congrArg _ ?_)
  simp only [hs, Bool.false_eq_true, if_false, List.zip_eq_zipWith, List.zipWith_self, List.map_map]
  rfl

theorem vecCompute_vcvt_scaled (hop : iOp w = 0x06) (hf : fmtElem bd.fmt = some f) (hs : ba.scaleEn = true) :
    u.vecCompute w ba bb bc bd as bs cs scs = u.vecRounded w bd f ((as.zip scs).map fun (v, k) => mxValue ba.fmt v k) := by
  unfold vecCompute
  rw [hop]
  refine (vecRounded_eq hf _).trans (congrArg _ ?_)
  simp only [hs, if_true]

theorem vecCompute_vred (hop : iOp w = 0x0C) (hf : fmtElem bd.fmt = some f) :
    u.vecCompute w ba bb bc bd as bs cs scs =
      u.vecRounded w bd f [f32 (vecReduce (nbits w 87 86) (as.map fun a => rne32 (elemValue ba.fmt a)))] := by
  unfold vecCompute
  rw [hop]
  exact vecRounded_eq hf _

theorem vecCompute_vsel (hop : iOp w = 0x0E) : u.vecCompute w ba bb bc bd as bs cs scs =
    (as.zipIdx.map fun (a, i) => if cs.getD i 0 ≠ 0 then a else bs.getD i 0, {}) := by
  unfold vecCompute
  rw [hop]
  rfl

theorem vecCompute_vmov (hop : iOp w = 0x0F) : u.vecCompute w ba bb bc bd as bs cs scs = (as, {}) := by
  unfold vecCompute
  rw [hop]
  rfl

/-- The operands of an XADD, element by element (R105). -/
def xaddTerms (w : Nat) (as bs cs : List Nat) : List (List Xp) :=
  as.zipIdx.map fun (a, i) => [Xp.ofBytes (leBytes 24 a), Xp.ofBytes (leBytes 24 (bs.getD i 0))]
    ++ if iBc w = 0 then [] else [Xp.ofBytes (leBytes 24 (cs.getD i 0))]

theorem vecCompute_xadd (hop : iOp w = 0x0D) : u.vecCompute w ba bb bc bd as bs cs scs =
    ((xaddTerms w as bs cs).map (fun l => leNat (xpAdd l).bytes),
      orFlags ((xaddTerms w as bs cs).map fun l => { OutFlags.ofXp (xpAdd l) with ovf := xpAddOvf l })) := by
  unfold vecCompute xaddTerms
  rw [hop]
  simp only [List.map_map]
  rfl

end State

/-- The sources of the operations that the statements name, by number. -/
theorem vecSrcs_length (w : Nat) : (vecSrcs w).length =
    if iOp w ∈ [0x00, 0x01, 0x02, 0x04, 0x05] then 2 else if iOp w ∈ [0x03, 0x0E] then 3
    else if iOp w = 0x0D then (if iBc w = 0 then 2 else 3) else 1 := by
  unfold vecSrcs
  split <;> simp_all
  split <;> rfl

/-- Settles O17: the operands are read in order, `vecArith` is the operation's function, and each result is rounded at its place. -/
theorem vectorArithmetic : Obligations.VectorArithmetic := by
  intro p s t t1 t2 t3 t4 w as bs cs f x a b c d rq n mode hcheck hf ha op i k g hmem hissue hb hc exact r hpre
  have hop : iOp w = op := hissue.op_eq
  have hrow : exec i s = .next (s.vec p op) ∧ (vecSrcs w).length = k ∧ op ∉ [0x06, 0x0C, 0x0D, 0x0E, 0x0F] ∧
      ∀ u v y, vecArith op u v y = g u v y := by
    rw [vecSrcs_length, hop]
    simp only [List.mem_cons, Prod.mk.injEq, List.not_mem_nil, or_false] at hmem
    rcases hmem with ⟨rfl, rfl, rfl, rfl⟩ | ⟨rfl, rfl, rfl, rfl⟩ | ⟨rfl, rfl, rfl, rfl⟩ | ⟨rfl, rfl, rfl, rfl⟩ |
      ⟨rfl, rfl, rfl, rfl⟩ | ⟨rfl, rfl, rfl, rfl⟩ | ⟨rfl, rfl, rfl, rfl⟩ | ⟨rfl, rfl, rfl, rfl⟩ | ⟨rfl, rfl, rfl, rfl⟩ |
      ⟨rfl, rfl, rfl, rfl⟩ | ⟨rfl, rfl, rfl, rfl⟩ <;> exact ⟨rfl, rfl, by decide, fun _ _ _ => rfl⟩
  obtain ⟨hexec, hk, hplain, hg⟩ := hrow
  have hscaled : vecScaled (t.tile p) w = false :=
    State.vecScaled_of_op_ne fun h => hplain (by rw [← hop, h]; decide)
  have hreads : State.VecReads t p w as [] bs cs t3 :=
    .of_unscaled hscaled ha ((State.vecRead_of_le _ hk).trans hb) ((State.vecRead_of_le _ hk).trans hc)
  have hout : State.vecOut t t3 p w as [] bs cs = (r.map (·.1), orFlags (r.map fun e => .ofRnd e.2)) := by
    unfold State.vecOut
    rw [State.vecCompute_arith hf (by rwa [hop]), hop]
    simp only [hg]
    rfl
  rw [hexec, State.vec_of_passing hissue hcheck, State.vecRun_of_reads hreads (by rw [hout]; exact hpre), hout]

/-- Settles O18: of each operation its operands and what it computes of them; and a check that fails traps before any. -/
theorem vectorMovesAndReductions : Obligations.VectorMovesAndReductions := by
  intro p s t t1 t2 t3 t4 w as bs cs out x a b c d rq n xp done mode
  have run : ∀ op i scs bs cs u fl, Issues s t p 3 op w → exec i s = .next (s.vec p op) → t.vecCheck p w = none →
      State.VecReads t p w as scs bs cs u → State.vecOut t u p w as scs bs cs = (out, fl) →
      u.runsPre rq d (d.runs out) = (none, t4) → exec i s = done t4 fl := by
    intro op i scs bs cs u fl hissue hexec hcheck hreads hout hpre
    rw [hexec, State.vec_of_passing hissue hcheck, State.vecRun_of_reads hreads (by rw [hout]; exact hpre), hout]
  refine ⟨fun hcheck ha => ?_, fun ti op hti hissue i hmem => ?_⟩
  · have one : ∀ {op}, Issues s t p 3 op w → (op = 0x06 → a.scaleEn = false) → op ∈ [0x06, 0x0C, 0x0F] →
        State.VecReads t p w as [] [] [] t1 := by
      intro op hissue hs hop
      have hk : (vecSrcs w).length = 1 := by
        rw [vecSrcs_length, hissue.op_eq]
        fin_cases hop <;> rfl
      have hscaled : vecScaled (t.tile p) w = false := by
        unfold vecScaled
        rw [hissue.op_eq]
        by_cases h6 : op = 0x06
        · exact (congrArg _ (hs h6)).trans (Bool.and_false _)
        · simp [h6]
      exact .of_unscaled hscaled ha (State.vecRead_of_le _ hk) (State.vecRead_of_le _ hk)
    refine ⟨?_, ?_, ?_, ?_, fun hb hc => ⟨?_, ?_⟩⟩
    · intro hissue hout hpre
      refine run _ _ _ _ _ _ _ hissue rfl hcheck (one hissue (fun h => absurd h (by decide)) (by decide)) ?_ hpre
      rw [hout]
      exact State.vecCompute_vmov hissue.op_eq
    · intro f v hissue hf l hv hout hpre
      refine run _ _ _ _ _ _ _ hissue rfl hcheck (one hissue (fun h => absurd h (by decide)) (by decide)) ?_ hpre
      have hv' : v = vecReduce (nbits w 87 86) l := hv
      rw [hout, hv']
      exact State.vecCompute_vred hissue.op_eq hf
    · intro f hissue hf hs r hout hpre
      refine run _ _ _ _ _ _ _ hissue rfl hcheck (one hissue (fun _ => hs) (by decide)) ?_ hpre
      rw [hout]
      exact State.vecCompute_vcvt_plain hissue.op_eq hf hs
    · intro f hissue hf hs sb hb r hout hpre
      have hk : (vecSrcs w).length = 1 := by
        rw [vecSrcs_length, hissue.op_eq]
        rfl
      have hscaled : vecScaled (t.tile p) w = true := by
        unfold vecScaled
        rw [hissue.op_eq]
        exact hs
      have hreads : State.VecReads t p w as bs [] [] t2 :=
        ⟨t1, t2, t2, ha, by rw [hscaled]; exact hb, State.vecRead_of_le _ hk, State.vecRead_of_le _ hk⟩
      refine run _ _ _ _ _ _ _ hissue rfl hcheck hreads ?_ hpre
      rw [hout]
      exact State.vecCompute_vcvt_scaled hissue.op_eq hf hs
    · intro hissue hout hpre
      have hk : (vecSrcs w).length = 3 := by
        rw [vecSrcs_length, hissue.op_eq]
        rfl
      have hreads : State.VecReads t p w as [] bs cs t3 :=
        .of_unscaled (State.vecScaled_of_op_ne (by rw [hissue.op_eq]; decide)) ha ((State.vecRead_of_le _ hk).trans hb)
          ((State.vecRead_of_le _ hk).trans (hc (.inr (by rw [hissue.op_eq]; decide))))
      refine run _ _ _ _ _ _ _ hissue rfl hcheck hreads ?_ hpre
      rw [hout]
      exact State.vecCompute_vsel hissue.op_eq
    · intro hissue r hout h32 hpre
      have hk : (vecSrcs w).length = if iBc w = 0 then 2 else 3 := by
        rw [vecSrcs_length, hissue.op_eq]
        rfl
      have hscaled := State.vecScaled_of_op_ne (t := t.tile p) (w := w) (by rw [hissue.op_eq]; decide)
      by_cases h0 : iBc w = 0
      · rw [if_pos h0] at hk
        have hreads : State.VecReads t p w as [] bs [] t3 := by
          rw [h32 h0]
          exact .of_unscaled hscaled ha ((State.vecRead_of_le _ hk).trans hb) (State.vecRead_of_le _ hk)
        refine run _ _ _ _ _ _ _ hissue rfl hcheck hreads ?_ hpre
        have hr : r = State.xaddTerms w as bs [] := by
          simp only [r, State.xaddTerms, h0, if_true]
          rfl
        rw [hout, hr]
        exact State.vecCompute_xadd hissue.op_eq
      · rw [if_neg h0] at hk
        have hreads : State.VecReads t p w as [] bs cs t3 :=
          .of_unscaled hscaled ha ((State.vecRead_of_le _ hk).trans hb) ((State.vecRead_of_le _ hk).trans (hc (.inl h0)))
        refine run _ _ _ _ _ _ _ hissue rfl hcheck hreads ?_ hpre
        rw [hout]
        exact State.vecCompute_xadd hissue.op_eq
  · have hexec : exec i s = .next (s.vec p op) := by
      simp only [List.mem_cons, Prod.mk.injEq, List.not_mem_nil, or_false] at hmem
      rcases hmem with ⟨rfl, rfl⟩ | ⟨rfl, rfl⟩ | ⟨rfl, rfl⟩ | ⟨rfl, rfl⟩ | ⟨rfl, rfl⟩ | ⟨rfl, rfl⟩ | ⟨rfl, rfl⟩ | ⟨rfl, rfl⟩ |
        ⟨rfl, rfl⟩ | ⟨rfl, rfl⟩ | ⟨rfl, rfl⟩ | ⟨rfl, rfl⟩ | ⟨rfl, rfl⟩ | ⟨rfl, rfl⟩ | ⟨rfl, rfl⟩ | ⟨rfl, rfl⟩ <;> rfl
    rw [hexec, State.vec_of_failing hissue hti]

end Sys2Proof.Machine
end

section
/-! PROOFS. The matrix engine: the configuration of a set, and a block of products with and without WRITE (R62 to R65, R101 to R104). -/

namespace Sys2Proof.Machine

namespace State

variable {s t u v : State} {p : Nat} {a : MmaArgs} {o : MmaOps}

/-- The accumulation that the instruction takes part in, and its elements after the block (R102). -/
def mmaAcc (s : State) (p : Nat) (a : MmaArgs) : AccSet := (vget .empty (s.tile p).acc a.acc).begin (s.tile p) a

def mmaEnts (s : State) (p : Nat) (a : MmaArgs) (o : MmaOps) : List AccEnt :=
  (List.range 256).map (mmaEnt (s.tile p) a (s.mmaAcc p a) o)

/-- Without WRITE the set stays open with the new values, and a term that saturates is noted. -/
theorem mmaBlock_open (hread : s.mmaRead p a = (.ok o, u)) (hanchor : mmaAnchorBad (s.tile p) a (s.mmaAcc p a) o = false)
    (hw : a.write = false) : s.mmaBlock p a =
      (.ok { ovf := newOvf (s.mmaAcc p a).ents (s.mmaEnts p a o) },
        u.setTile p { u.tile p with acc := vput (u.tile p).acc a.acc { s.mmaAcc p a with
          kEnd := mmaK0 (s.tile p) a + a.klen, kSum := (s.mmaAcc p a).kSum + a.klen, ents := s.mmaEnts p a o } }) := by
  unfold mmaAcc at hanchor
  unfold mmaBlock
  simp only [hread, hanchor, hw, Bool.false_eq_true, if_false]
  rfl

/-- With WRITE the outputs are rounded and written, and the set closes with its configuration. -/
theorem mmaBlock_write (hread : s.mmaRead p a = (.ok o, u)) (hanchor : mmaAnchorBad (s.tile p) a (s.mmaAcc p a) o = false)
    (hw : a.write = true) {r : List (Nat × OutFlags)}
    (hr : (s.mmaEnts p a o).zipIdx.map (fun (e, i) => u.mmaOut (s.tile p) a (s.mmaAcc p a) e i) = r)
    (hpre : u.runsPre (rqOperand p) ((s.tile p).berth a.bd) (blockRuns a (r.map (·.1))) = (none, v)) : s.mmaBlock p a =
      (.ok (orFlags (r.map (·.2))),
        let y := v.runsWrite ((s.tile p).berth a.bd) (blockRuns a (r.map (·.1)))
        y.setTile p { y.tile p with acc := vput (y.tile p).acc a.acc { AccSet.empty with
          cfgFixed := (s.mmaAcc p a).cfgFixed, cfgAnchor := (s.mmaAcc p a).cfgAnchor, cfgAlpha := (s.mmaAcc p a).cfgAlpha,
          cfgStream := (s.mmaAcc p a).cfgStream } }) := by
  subst hr
  unfold mmaEnts mmaAcc at hpre
  unfold mmaAcc at hanchor
  unfold mmaBlock
  simp only [hread, hanchor, hw, Bool.false_eq_true, if_false, if_true, hpre]
  rfl

end State

/-- An `MMA` that passes its checks runs one block, notes what its outputs raised, and goes on. -/
theorem exec_mma {s t u : State} {p : Fin 192} {w : Nat} {fl : OutFlags} (h : Issues s t p 2 0 w) (hcheck : t.mmaCheck p w = none)
    (hblock : t.mmaBlock p (mmaArgs (t.tile p) w) = (.ok fl, u)) :
    exec (.mma p) s = .next ((u.arithStatus p (t.tile p).pc fl).advance p) := by
  refine congrArg Host.Outcome.next ((h.issue_eq _).trans ?_)
  simp only [hcheck, hblock]

/-- Settles O19: the configuration is one write of the set, and a block is one of two: the set stays open, or it is written and closes. -/
theorem matrixOperations : Obligations.MatrixOperations := by
  intro p s t w x m rq
  refine ⟨?_, ?_, ?_, ?_⟩
  · intro h h1 h2
    have hres : ¬ (nbits w 115 92 ≠ 0 ∨ nbits w 72 64 ≠ 0) := by simp [h1, h2]
    refine congrArg Host.Outcome.next ((h.issue_eq _).trans ((if_neg hres).trans ?_))
    exact State.advance_setTile t p.isLt _
  · intro h hres
    exact congrArg Host.Outcome.next ((h.issue_eq _).trans (if_pos hres))
  · intro ti h hti
    refine congrArg Host.Outcome.next ((h.issue_eq _).trans ?_)
    simp only [hti]
  · intro u o h hcheck hread acc ents hanchor
    constructor
    · intro hw
      exact exec_mma h hcheck (State.mmaBlock_open hread hanchor hw)
    · intro v hw r rows d hpre y
      exact exec_mma h hcheck (State.mmaBlock_write hread hanchor hw rfl hpre)

end Sys2Proof.Machine
end

section
/-! PROOFS. DMA engines: issue, start, the sending of pieces, completion and halt (R106, R107, R171, R172, R309). -/

namespace Sys2Proof.Machine

namespace State

variable {s t u : State} {p e w : Nat}

/-- The transfer that a DMA word queues, with the berths as they read now (R106). -/
def dmaXfer (s : State) (p w : Nat) : DmaXfer :=
  { src := (s.tile p).berth (iBa w), dst := (s.tile p).berth (iBd w), copy2 := iOp w == 1, n := nbits w 31 0, tc := nbits w 90 89,
    vc := nbit w 88, done := if nbit w 87 = 1 then some (nbits w 86 77) else none }

theorem dmaIssue_of_room (hp : p < 192) (hc : s.dmaCheck p w = none)
    (hroom : (vget .idle (s.tile p).dma (nbit w 91)).queue.length < 16) : s.dmaIssue p w =
      s.setTile p { s.tile p with
        pc := s.nextPc p
        dma := vput (s.tile p).dma (nbit w 91) { vget .idle (s.tile p).dma (nbit w 91) with
          queue := (vget .idle (s.tile p).dma (nbit w 91)).queue ++ [s.dmaXfer p w] } } := by
  unfold dmaIssue
  rw [hc]
  refine (if_neg (Nat.not_le.mpr hroom)).trans ?_
  rw [advance_setTile _ hp, vmod_eq .idle _ (nbit_lt w 91)]
  rfl

theorem dmaIssue_of_full (hc : s.dmaCheck p w = none) (hfull : 16 ≤ (vget .idle (s.tile p).dma (nbit w 91)).queue.length) :
    s.dmaIssue p w = s := by
  unfold dmaIssue
  rw [hc]
  exact if_pos hfull

theorem dmaIssue_of_failing {ti : TrapInfo} (hc : s.dmaCheck p w = some ti) : s.dmaIssue p w = s.trap p ti := by
  unfold dmaIssue
  rw [hc]

/-- The engine with its next transfer running, before any byte has moved. -/
def dmaBegun (s : State) (p e : Nat) (x : DmaXfer) (rest : List DmaXfer) : State :=
  s.setDma p e { s.dmaEng p e with queue := rest, run := some ⟨x, List.replicate x.bytes none, 0, [], none, 0⟩ }

variable {x : DmaXfer} {rest : List DmaXfer}

theorem dmaStart_of_remote (h : x.src.kind = 4) : s.dmaStart p e x rest = (s.dmaBegun p e x rest).dmaSend p e x [] x.pieces :=
  if_pos h

theorem dmaStart_of_read (h : x.src.kind ≠ 4) {l : List Byte} (hr : (s.dmaBegun p e x rest).dmaRead p x.segs = (.ok l, u)) :
    s.dmaStart p e x rest =
      let v := u.dmaMod p e fun r => { r with data := l.map some }
      if x.dst.kind = 4 then v.dmaSend p e x l x.pieces else v := by
  unfold dmaBegun at hr
  unfold dmaStart
  dsimp only at hr ⊢
  rw [hr]
  exact if_neg h

theorem dmaStart_of_failed (h : x.src.kind ≠ 4) {c a : Nat} (hr : (s.dmaBegun p e x rest).dmaRead p x.segs = (.error (c, a), u)) :
    s.dmaStart p e x rest = u.dmaMod p e fun r => { r with fail := some c, failAddr := u.globalAddr a } := by
  unfold dmaBegun at hr
  unfold dmaStart
  dsimp only at hr ⊢
  rw [hr]
  exact if_neg h

/-- A transfer ends: the engine is free, and its done counter rises (R107). -/
def dmaEnded (s : State) (p e : Nat) (x : DmaXfer) : State :=
  let v := s.setDma p e { s.dmaEng p e with run := none }
  match x.done with
  | some k => v.ctrAdd (p / 48) k 1
  | none => v

end State

/-- An engine that is free starts the oldest of its queue. -/
theorem exec_dmaTransferStart {s : State} {p : Fin 192} {e : Fin 2} {x : DmaXfer} {rest : List DmaXfer}
    (hw : s.dom.worksRst = false) (hh : (s.dmaEng p e).halted = false) (hr : (s.dmaEng p e).run = none) (hs : s.tileState p ≠ 5)
    (hq : (s.dmaEng p e).queue = x :: rest) : exec (.dmaTransferStart p e) s = .next (s.dmaStart p e x rest) := by
  have hfree : ¬ (s.dom.worksRst = true ∨ (s.dmaEng p e).halted = true ∨ (s.dmaEng p e).run.isSome = true ∨ s.tileState p = 5) := by
    simp [hw, hh, hr, hs]
  refine congrArg Host.Outcome.next ((if_neg hfree).trans ?_)
  rw [hq]

/-- A transfer all of whose bytes are here writes a local destination, and ends unless the write is refused. -/
theorem exec_dmaTransferDone {s : State} {p : Fin 192} {e : Fin 2} {r : DmaRun} {l : List Byte} (hrun : (s.dmaEng p e).run = some r)
    (htags : r.tags = []) (hsent : r.allSent = true) (hfail : r.fail = none) (hw : s.dom.worksRst = false) (hs : s.tileState p ≠ 5)
    (hl : allSome r.data = some l) : exec (.dmaTransferDone p e) s = .next (
      match if r.xfer.dst.kind = 4 then (none, s) else s.dmaWrite p l r.xfer.segs with
      | (some (c, a), u) => u.dmaMod p e fun r => { r with fail := some c, failAddr := u.globalAddr a }
      | (none, u) => u.dmaEnded p e r.xfer) := by
  have hdone : ¬ (r.tags ≠ [] ∨ r.allSent = false ∨ r.fail.isSome = true ∨ s.dom.worksRst = true ∨ s.tileState p = 5) := by
    simp [htags, hsent, hfail, hw, hs]
  have hrow : exec (.dmaTransferDone p e) s = execDmaTransferDone p e s := rfl
  rw [hrow, execDmaTransferDone]
  dsimp only
  rw [hrun]
  refine congrArg Host.Outcome.next ((if_neg hdone).trans ?_)
  rw [hl]
  by_cases hk : r.xfer.dst.kind = 4
  · simp only [hk, if_true]
    rfl
  · simp only [hk, if_false]
    obtain ⟨_ | ⟨c, a⟩, u⟩ := s.dmaWrite p l r.xfer.segs <;> rfl

/-- Settles O20: issue is judged by `dmaCheck` and room; start and completion by the engine's run; the halt owes each transfer. -/
theorem dmaOperations : Obligations.DmaOperations := by
  constructor
  · intro p s t w x e eng xfer op c hmem h
    have hexec : exec c s = .next (t.dmaIssue p w) := by
      simp only [List.mem_cons, Prod.mk.injEq, List.not_mem_nil, or_false] at hmem
      rcases hmem with ⟨rfl, rfl⟩ | ⟨rfl, rfl⟩ <;> exact congrArg Host.Outcome.next (h.issue_eq _)
    rw [hexec]
    exact ⟨fun ti hti => congrArg _ (State.dmaIssue_of_failing hti), fun hc hroom => congrArg _ (State.dmaIssue_of_room p.isLt hc hroom),
      fun hc hfull => congrArg _ (State.dmaIssue_of_full hc hfull)⟩
  · intro p e s d
    refine ⟨?_, fun x l => ⟨rfl, fun g rest => rfl⟩, ?_, ?_, fun die k => rfl⟩
    · intro x rest hw hh hr hs hq t
      rw [exec_dmaTransferStart hw hh hr hs hq]
      exact ⟨fun h => congrArg _ (State.dmaStart_of_remote h), fun l u h hread => congrArg _ (State.dmaStart_of_read h hread),
        fun c a u h hread => congrArg _ (State.dmaStart_of_failed h hread)⟩
    · intro r l hrun htags hsent hfail hw hs hl ended
      rw [exec_dmaTransferDone hrun htags hsent hfail hw hs hl]
      refine ⟨fun h => ?_, fun u h hwrite => ?_, fun c a u h hwrite => ?_⟩
      · rw [if_pos h]
        rfl
      · rw [if_neg h, hwrite]
        rfl
      · rw [if_neg h, hwrite]
    · intro r code hrun hfail hs owed t
      have hrow : exec (.dmaHalt p e) s = execDmaHalt p e s := rfl
      rw [hrow, execDmaHalt, hrun]
      dsimp only
      rw [hfail]
      refine congrArg Host.Outcome.next ((if_neg hs).trans ?_)
      unfold State.dmaHalt
      dsimp only
      rw [show (s.dmaEng p e).run = some r from hrun]
      rfl

end Sys2Proof.Machine
end

section
/-! PROOFS. Collectives at issue and at launch: COLL.START, the fused instructions, and what a launch keeps (R109 to R113, R339, R340). -/

namespace Sys2Proof.Machine

namespace State

variable {s t u v : State} {p w : Nat}

/-! ## COLL.START -/

/-- The checks of COLL.START on a consist that was read, in order (R108, R110, R339). -/
def startTraps (u : State) (p w : Nat) (x : Tile) (ws : List Nat) : Option TrapInfo :=
  let c := Consist.ofList ws
  let n := c.extents.1
  let m := c.extents.2
  firstTrap (u.consistTraps x (iBc w) ws ++
    [u.chkColl x ((if n = 0 then [] else [(c.srcB, n, false)]) ++ if m = 0 ∧ c.dstB = 0 then [] else [(c.dstB, m, true)]),
     trapIf (u.collBad p c || (n != 0 && (x.berth c.srcB).fmt != c.elem) || (c.dstB != 0 && (x.berth c.dstB).fmt != c.elem)) 0x0042])

theorem collStart_of_berth {ti : TrapInfo}
    (hb : chkBerth (s.tile p) (iBc w) false (fun b => b.kind != 4) (fun _ => true) = some ti) : s.collStart p w = s.trap p ti := by
  unfold collStart
  dsimp only
  rw [hb]

/-- With the consist read, COLL.START is judged, and launches where the engine has room. -/
theorem collStart_of_read {ws : List Nat}
    (hb : chkBerth (s.tile p) (iBc w) false (fun b => b.kind != 4) (fun _ => true) = none)
    (hr : s.readConsist p (iBc w) = (.ok (some ws), u)) : s.collStart p w =
      match u.startTraps p w (s.tile p) ws with
      | some ti => u.trap p ti
      | none =>
        let c := Consist.ofList ws
        let src := (s.tile p).berth c.srcB
        if u.launchRoom p then (u.launch p c 0 src.rowElems none src ((s.tile p).berth c.dstB)).advance p else u := by
  unfold collStart startTraps
  dsimp only
  rw [hb, hr] <;> rfl

/-! ## Fused instructions -/

/-- The first checks of a fused instruction: its encoding, its places, and the conditions of R104 (R551). -/
def fusedNamed (s : State) (p op w : Nat) : Option TrapInfo :=
  let a := fusedArgs (s.tile p) w
  let places := s.mmaPlaces p a [⟨iBc w, false, s.ownScratch p, fun _ => true⟩] (op == 2) (op != 2)
  firstTrap ([trapIf (s.mmaEncBad w) 0x0001, chkPlaces (s.tile p) places places []] ++ mmaCond (s.tile p) a)

theorem fused_of_named {op : Nat} {ti : TrapInfo} (h : s.fusedNamed p op w = some ti) : s.fused p op w = s.trap p ti := by
  unfold fusedNamed at h
  unfold fused
  dsimp only at h ⊢
  rw [h]

theorem fused_of_read {op : Nat} {ws : List Nat} (hn : s.fusedNamed p op w = none)
    (hr : s.readConsist p (iBc w) = (.ok (some ws), u)) : s.fused p op w =
      let x := s.tile p
      let a := fusedArgs x w
      let c := Consist.ofList ws
      match u.fusedCheck p op w (some ws) with
      | some ti => u.trap p ti
      | none =>
        if !u.launchRoom p then u
        else if op = 2 then
          (u.launch p c 2 (x.berth c.srcB).rowElems (some (x, w)) (x.berth c.srcB) (x.berth a.bb)).advance p
        else
          match u.fusedRun p a with
          | (.error ti, v) => v.trap p ti
          | (.ok _, v) => (v.launch p c op (16 * a.nb) none (x.berth a.bd) (x.berth c.dstB)).advance p := by
  unfold fusedNamed at hn
  unfold fused
  dsimp only at hn ⊢
  rw [hn, hr]
  rfl

/-! ## Launch (R340) -/

theorem meng_setMe_self {d : Nat} (h : d < 4) (s : State) (e : Me) : (s.setMe d e).meng d = e := vget_vput_self _ _ h _

/-! The registers that follow an engine are registers alone. -/

theorem meRegs_meng (s : State) (d q : Nat) : (s.meRegs d).meng q = s.meng q := by
  unfold meRegs meng
  simp only [fset_me]

theorem meRegs_tile (s : State) (d q : Nat) : (s.meRegs d).tile q = s.tile q := by
  unfold meRegs
  simp only [fset_tile]

theorem meRegs_cell (s : State) (d a : Nat) : (s.meRegs d).cell a = s.cell a := by
  unfold meRegs
  simp only [fset_cell]

theorem meRegs_msgs (s : State) (d : Nat) : (s.meRegs d).msgs = s.msgs := by
  unfold meRegs
  simp only [fset_msgs]

/-- The collective that a launch queues. -/
def launched (s : State) (p : Nat) (c : Consist) (fused rowW : Nat) (snap : Option (Tile × Nat)) (src dst : Berth) : Coll :=
  { cst := c, tile := p, fused := fused, snap := snap, rowW := rowW, src := src, dst := dst, mem := s.members c.group,
    epoch := s.openAttempt.1, attempt := s.openAttempt.2, state := .queued, startAt := 0, readyAt := 0, ready := [],
    slowest := 0xFFFF, skewed := false, x := [], inb := [], outb := [], formed := [], out := [], arr := [], refused := [], taken := [],
    left := c.extents.2, fill := c.extents.2, lastAt := s.rtime, waitAt := s.rtime, coast := false, lost := false }

/-- Where no ABORT is recorded a launch queues its collective last, notes its number, and shows both in the engine's registers. -/
theorem launch_of_no_aborts (c : Consist) (fused rowW : Nat) (snap : Option (Tile × Nat)) (src dst : Berth)
    (h : (s.meng (p / 48)).aborts = []) : s.launch p c fused rowW snap src dst =
      (s.setMe (p / 48) { s.meng (p / 48) with
        colls := (s.meng (p / 48)).colls ++ [s.launched p c fused rowW snap src dst], lastSeq := some c.seq }).meRegs (p / 48) := by
  unfold launch launched
  dsimp only
  rw [h]
  rfl

end State

theorem exec_fused {s t : State} {p : Fin 192} {w op : Nat} {i : Instr}
    (hmem : (op, i) ∈ [(1, Instr.mmaRs p), (2, .mmaAg p), (3, .mmaA2a p)]) (h : Issues s t p 6 op w) :
    exec i s = .next (t.fused p op w) := by
  simp only [List.mem_cons, Prod.mk.injEq, List.not_mem_nil, or_false] at hmem
  rcases hmem with ⟨rfl, rfl⟩ | ⟨rfl, rfl⟩ | ⟨rfl, rfl⟩ <;> exact congrArg Host.Outcome.next (h.issue_eq _)

/-- Settles O21: each word issues to its own row, whose checks come in order; and a launch is one write of the engine. -/
theorem collectiveIssueAndLaunch : Obligations.CollectiveIssueAndLaunch := by
  constructor
  · intro p s t u w ws x a c src dst n m named holds
    have hstart : Issues s t p 5 3 w → exec (.collStart p) s = .next (t.collStart p w) :=
      fun h => congrArg Host.Outcome.next (h.issue_eq _)
    refine ⟨fun ti h hb => ?_, fun op i ti hmem h hn => ?_, fun hr => ⟨?_, fun op i hmem h hn => ?_⟩⟩
    · rw [hstart h, State.collStart_of_berth hb]
    · rw [exec_fused hmem h, State.fused_of_named hn]
    · intro h hb checks
      have hchecks : checks = u.startTraps p w (t.tile p) ws := rfl
      rw [hstart h, State.collStart_of_read hb hr, ← hchecks]
      constructor
      · intro ti hti
        rw [hti]
      · intro hnone
        rw [hnone]
    · rw [exec_fused hmem h, State.fused_of_read hn hr]
      constructor
      · intro ti hti
        dsimp only
        rw [hti]
      · intro hnone
        dsimp only
        rw [hnone]
        refine ⟨fun hroom => ?_, fun hroom => ⟨fun hop => ?_, fun v hop hrun => ?_, fun ti v hop hrun => ?_⟩⟩
        · rw [hroom]
          rfl
        · rw [hroom, hop]
          rfl
        · rw [hroom, show u.fusedRun p (fusedArgs (t.tile p) w) = (.ok (), v) from hrun]
          exact congrArg Host.Outcome.next (if_neg hop)
        · rw [hroom, show u.fusedRun p (fusedArgs (t.tile p) w) = (.error ti, v) from hrun]
          exact congrArg Host.Outcome.next (if_neg hop)
  · intro p s c fused rowW snap src dst h t
    have hd : p.val / 48 < 4 := by omega
    have ht : t = _ := State.launch_of_no_aborts c fused rowW snap src dst h
    have hme : t.meng (p.val / 48) = { s.meng (p.val / 48) with
        colls := (s.meng (p.val / 48)).colls ++ [s.launched p c fused rowW snap src dst], lastSeq := some c.seq } := by
      rw [ht, State.meRegs_meng, State.meng_setMe_self hd]
    rw [hme, ht]
    exact ⟨rfl, ⟨_, rfl, rfl, rfl, rfl, rfl, rfl⟩, fun q => State.meRegs_tile _ _ q, fun a => State.meRegs_cell _ _ a,
      State.meRegs_msgs _ _⟩

end Sys2Proof.Machine
end

section
/-! PROOFS. Wayside engines: posts, runs, ends, errors and CLEAR, and the commit actions of an apply (R128 to R151, R171). -/

namespace Sys2Proof.Machine

/-- A register command of a party that reaches the register is carried out (R33, R39, R262). -/
theorem State.Reaches.byParty_regCmd {s : State} {src : Party} {off : Nat} (h : s.Reaches src off) (body : State → State) :
    (s.byParty src fun s => s.regCmd off body) = body s := (if_pos h.1).trans (if_pos h.2)

namespace State

variable {s t u : State} {n : Nat} {d : List Nat}

/-- An error captures, halts, reports, and tells the ring command that waits (R150). -/
theorem weFail_eq (s : State) (n : Nat) (d : List Nat) (code addr : Nat) : s.weFail n d code addr =
    (((s.weCapture n code (dSeq d) addr).weHalt n).report (0x0210 + n) .weError code addr).weTell n (dSeq d) code := rfl

/-! ## Starts (R130, R139, R171) -/

/-- An engine in RUN with its oldest descriptor. -/
def weStarted (s : State) (n : Nat) (d : List Nat) (q : List (List Nat)) : State :=
  (s.putWeng n { s.weng n with queue := q, run := some ⟨d, none⟩ }).setWeState n 1

/-- A descriptor that may start does its work; an error is kept with the engine. -/
theorem weStart_of_ready {q : List (List Nat)} (hq : (s.weng n).queue = d :: q) (hr : s.weReady n d = true) :
    s.weStart n (dOp d) =
      match (s.weStarted n d q).weWork n d with
      | (.ok _, u) => u
      | (.error a, u) => u.setWeng n { u.weng n with run := some ⟨d, some (0x0610, u.globalAddr a)⟩ } := by
  unfold weStart
  rw [hq]
  exact if_pos ⟨rfl, hr⟩

/-! ## Posts (R137) -/

/-- How far a descriptor's number lies past SEQ (R137). -/
def wePostDelta (s : State) (n : Nat) (d : List Nat) : Nat := (2 ^ 32 + dSeq d - s.fget (R.WE_QSTAT_SEQ.at (mdOff n))) % 2 ^ 32

/-- An engine takes no post while it is halted, fenced or in reset (R137). -/
def WeClosed (s : State) (n : Nat) : Prop :=
  (s.weng n).halted = true ∨ s.weState n = 4 ∨ s.weState n = 5 ∨ s.dom.worksRst = true

/-- A result of a post in WE_POST_CTL. -/
def wePostResult (s : State) (n code : Nat) : State := s.fset (R.WE_POST_CTL_RESULT.at (mdOff n)) code

theorem wePost_of_closed {own : Bool} (h : s.WeClosed n) : (s.wePost n own d).2 = s.wePostResult n 0x060B :=
  congrArg Prod.snd (if_pos h)

theorem wePost_of_dup {own : Bool} (h : ¬ s.WeClosed n) (hd : s.wePostDelta n d = 0 ∨ 2 ^ 31 ≤ s.wePostDelta n d) :
    (s.wePost n own d).2 =
      (s.bump (R.WE_EVENTS2_DUP_COUNT.at (mdOff n)) (R.WE_FLAGS_DUP_OVF.at (mdOff n))).wePostResult n 0x0602 :=
  congrArg Prod.snd ((if_neg h).trans (if_pos hd))

theorem wePost_of_gap {own : Bool} (h : ¬ s.WeClosed n) (hd : 2 ≤ s.wePostDelta n d) (hd' : s.wePostDelta n d < 2 ^ 31) :
    (s.wePost n own d).2 = (s.report (0x0210 + n) .weError 0x0603 0).wePostResult n 0x0603 := by
  have h0 : ¬ (s.wePostDelta n d = 0 ∨ 2 ^ 31 ≤ s.wePostDelta n d) := by omega
  have h1 : s.wePostDelta n d ≠ 1 := by omega
  exact congrArg Prod.snd ((if_neg h).trans ((if_neg h0).trans (if_pos h1)))

/-- A descriptor with the next number is judged by the later checks, and joins the queue or the list where none fails. -/
theorem wePost_of_next {own : Bool} (h : ¬ s.WeClosed n) (hd : s.wePostDelta n d = 1) :
    (s.wePost n own d).2 =
      if s.weLateCode n own d ≠ 0 then s.wePostResult n (s.weLateCode n own d)
      else
        let t := s.fset (R.WE_QSTAT_SEQ.at (mdOff n)) (dSeq d)
        wePostResult (if dCommit d then t.putWeng n { s.weng n with acts := (s.weng n).acts ++ [⟨d, false⟩] }
          else
            let u := t.putWeng n { s.weng n with queue := (s.weng n).queue ++ [d] }
            if u.weState n = 0 then u.weRest n else u) n 0 := by
  have h0 : ¬ (s.wePostDelta n d = 0 ∨ 2 ^ 31 ≤ s.wePostDelta n d) := by omega
  refine (congrArg Prod.snd ((if_neg h).trans ((if_neg h0).trans (if_neg (not_not_intro hd))))).trans ?_
  dsimp only
  split <;> rfl

end State

/-- A post of the registers of an engine, by a party that reaches them. -/
theorem exec_wePostGo {s : State} {n : Fin 8} {src : Party} (h : s.Reaches src (R.WE_POST_CTL + mdOff n)) :
    exec (.wePostGo n src) s = .next (s.wePost n true (s.wePostRegs n)).2 := congrArg Host.Outcome.next (h.byParty_regCmd _)

/-- Settles O22: the work is the arm of the descriptor's operation; a post is judged in the order of R137; and CLEAR, the end and the
errors are the rows' own bodies. -/
theorem waysideEngines : Obligations.WaysideEngines := by
  constructor
  · intro n s d q o p e hq hr op i work hmem hop t
    have hrow : exec i s = .next (s.weStart e op) ∧ ∀ u : State, u.weWork e d = work u := by
      simp only [List.mem_cons, Prod.mk.injEq, List.not_mem_nil, or_false] at hmem
      rcases hmem with ⟨rfl, rfl, rfl⟩ | ⟨rfl, rfl, rfl⟩ | ⟨rfl, rfl, rfl⟩ | ⟨rfl, rfl, rfl⟩ | ⟨rfl, rfl, rfl⟩ | ⟨rfl, rfl, rfl⟩ |
        ⟨rfl, rfl, rfl⟩ | ⟨rfl, rfl, rfl⟩ | ⟨rfl, rfl, rfl⟩ | ⟨rfl, rfl, rfl⟩ <;>
        exact ⟨rfl, fun u => by unfold State.weWork; rw [hop]; rfl⟩
    obtain ⟨hexec, hwork⟩ := hrow
    have hstart : exec i s = .next (match work t with
        | (.ok _, u) => u
        | (.error a, u) => u.setWeng e { u.weng e with run := some ⟨d, some (0x0610, u.globalAddr a)⟩ }) := by
      rw [hexec, ← hop, State.weStart_of_ready hq hr, hwork]
      rfl
    refine ⟨fun u hu => ?_, fun a u hu => ?_⟩
    · rw [hstart, hu]
    · rw [hstart, hu]
  · intro n src s w at_ result d delta alive
    have closed : ¬ alive ↔ s.WeClosed n := by
      unfold State.WeClosed
      simp only [alive, w, ne_eq]
      grind
    have posted : s.Reaches src (R.WE_POST_CTL + mdOff n) → exec (.wePostGo n src) s = .next (s.wePost n true d).2 := exec_wePostGo
    refine ⟨fun h => ⟨fun ha => ?_, fun ha hd => ?_, fun ha h2 hlt => ?_, fun ha h1 hc => ?_, ?_, ?_⟩, ?_, ?_, ?_⟩
    · exact (posted h).trans (congrArg _ (State.wePost_of_closed (closed.mp ha)))
    · exact (posted h).trans (congrArg _ (State.wePost_of_dup (fun hn => closed.mpr hn ha) hd))
    · exact (posted h).trans (congrArg _ (State.wePost_of_gap (fun hn => closed.mpr hn ha) h2 hlt))
    · exact (posted h).trans (congrArg _ ((State.wePost_of_next (fun hn => closed.mpr hn ha) h1).trans (if_pos hc)))
    · intro ha h1 hc t
      have hpost := (posted h).trans (congrArg Host.Outcome.next
        ((State.wePost_of_next (fun hn => closed.mpr hn ha) h1).trans (if_neg (not_not_intro hc))))
      rw [hpost]
      refine ⟨fun hcommit => ?_, fun hcommit => ?_⟩ <;> rw [hcommit] <;> rfl
    · exact congrArg Host.Outcome.next (h.byParty_regCmd _)
    · intro d hrun t
      have hrow : exec (.weDescDone n) s = execWeDescDone n s := rfl
      rw [hrow, execWeDescDone, show (s.weng n).run = some ⟨d, none⟩ from hrun]
    · intro d code a hrun t
      have hrow : exec (.weError n) s = execWeError n s := rfl
      rw [hrow, execWeError]
      dsimp only
      rw [show (s.weng n).run = some ⟨d, some (code, a)⟩ from hrun]
      rfl
    · intro d q hrun hqueue hstate htrig hbroken t
      have hrow : exec (.weError n) s = execWeError n s := rfl
      rw [hrow, execWeError]
      dsimp only
      rw [show (s.weng n).run = none from hrun, show (s.weng n).queue = d :: q from hqueue]
      have hwaits : s.weState n = 2 ∧ dTrigIn d = true ∧
          s.flag (R.CTR_BROKEN.at (ctrOff (n.val / 2) (nbits (dWord d 1) 63 54))) = true := ⟨hstate, htrig, hbroken⟩
      dsimp only
      have ht : t = s.putWeng n { w with queue := q, run := none } := by simp only [t, hrun]
      rw [if_pos hwaits, State.weFail_eq, ht]

/-! ## Commit actions (R145, R146, R149) -/

namespace State

variable {s u : State} {n e : Nat} {d : List Nat}

/-- The next action of the apply in progress runs, and is marked done or stops the engine. -/
theorem weAction_of_next {i : Nat} (ho : (s.weng n).owed = some e) (hs : s.weState n = 3)
    (hn : (s.weng n).nextAct e = some (i, d)) : s.weAction n (dOp d) =
      match s.weOpt n d e with
      | (.ok _, u) =>
        let t := u.putWeng n { u.weng n with acts := (u.weng n).acts.modify i fun a => { a with done := true } }
        if dTrigOut d then t.ctrAdd (n / 2) (nbits (dWord d 1) 53 44) 1 else t
      | (.error a, u) =>
        let t := (u.weCapture n 0x0613 (dSeq d) (u.globalAddr a)).weHalt n
        (t.setWeng n { t.weng n with stuck := true }).report (0x0210 + n) .applyLost e (t.globalAddr a) := by
  have hgo : ¬ (s.weState n ≠ 3 ∨ dOp d ≠ dOp d) := by simp [hs]
  unfold weAction
  dsimp only
  rw [ho]
  dsimp only
  rw [hn]
  exact if_neg hgo

end State

/-- Settles O23: the apply starts under its conditions, and ends when no action is left; an action is one arm of `weAction`; and the
element of OPT_SGDM without Nesterov is its arm of `optElem`. -/
theorem commitActions : Obligations.CommitActions := by
  intro n s e w ho
  have hhas : w.owed.isSome = true := by
    rw [ho]
    rfl
  refine ⟨fun hstuck hrun h5 h3 hw => ?_, fun h3 hnone => ?_, fun i d op c hmem h3 hnext hop => ?_, ?_⟩
  · have hfree : w.owed.isSome = true ∧ (!w.stuck) = true ∧ w.run.isNone = true ∧ s.weState n ≠ 5 ∧ s.weState n ≠ 3 ∧
        s.dom.worksRst = false := by simp [hhas, hstuck, hrun, h5, h3, hw]
    exact congrArg Host.Outcome.next (if_pos hfree)
  · have hrow : exec (.applied n) s = execApplied n s := rfl
    have hlast : s.weState n = 3 ∧ (w.nextAct e).isNone = true := ⟨h3, by rw [hnone]; rfl⟩
    rw [hrow, execApplied]
    dsimp only
    rw [show (s.weng n).owed = some e from ho]
    exact congrArg Host.Outcome.next (if_pos hlast)
  · have hexec : exec c s = .next (s.weAction n op) := by
      simp only [List.mem_cons, Prod.mk.injEq, List.not_mem_nil, or_false] at hmem
      rcases hmem with ⟨rfl, rfl⟩ | ⟨rfl, rfl⟩ <;> rfl
    rw [hexec, ← hop, State.weAction_of_next ho h3 hnext]
    refine ⟨fun u hu => ?_, fun a u hu => ?_⟩
    · rw [hu]
    · rw [hu]
  · intro d r g w m v hop hsub g' m'
    unfold optElem
    dsimp only
    rw [if_pos hop, hsub]
    rfl

end Sys2Proof.Machine
end

section
/-! PROOFS. The per-byte code (R160, R162). Syndrome and parity of an exclusive-or are the exclusive-ors of both, and are 0 for a
codeword: so the decoder sees the errors alone, and the flips it answers are those errors. -/

namespace Sys2Proof.Machine

/-! ## Syndrome and parity are linear -/

theorem nbit_xor (w v : BitVec 13) (k : Nat) : nbit (w ^^^ v).toNat k = (nbit w.toNat k + nbit v.toNat k) % 2 := by
  have bit : ∀ n : Nat, nbit n k = if n.testBit k then 1 else 0 := by
    intro n
    rcases Nat.mod_two_eq_zero_or_one (n / 2 ^ k) with h | h
    · rw [if_neg (by rw [← nbit_eq_one_iff, nbit]; omega)]
      exact h
    · rw [if_pos (nbit_eq_one_iff.mp h)]
      exact h
  rw [bit, bit, bit, BitVec.toNat_xor, Nat.testBit_xor]
  cases w.toNat.testBit k <;> cases v.toNat.testBit k <;> rfl

theorem eccSyndrome_xor (w v : BitVec 13) : eccSyndrome (w ^^^ v) = eccSyndrome w ^^^ eccSyndrome v := by
  have fold : ∀ (l : List Nat) (a b : Nat),
      l.foldl (fun s k => if nbit (w ^^^ v).toNat k = 1 then s ^^^ k else s) (a ^^^ b) =
        l.foldl (fun s k => if nbit w.toNat k = 1 then s ^^^ k else s) a ^^^
          l.foldl (fun s k => if nbit v.toNat k = 1 then s ^^^ k else s) b := by
    intro l
    induction l with
    | nil => exact fun _ _ => rfl
    | cons k l ih =>
      intro a b
      have step : (if nbit (w ^^^ v).toNat k = 1 then a ^^^ b ^^^ k else a ^^^ b) =
          (if nbit w.toNat k = 1 then a ^^^ k else a) ^^^ (if nbit v.toNat k = 1 then b ^^^ k else b) := by
        rw [nbit_xor]
        rcases Nat.mod_two_eq_zero_or_one (w.toNat / 2 ^ k) with hw | hw <;>
          rcases Nat.mod_two_eq_zero_or_one (v.toNat / 2 ^ k) with hv | hv <;> simp only [nbit, hw, hv]
        · rfl
        · exact Nat.xor_assoc a b k
        · exact (Nat.xor_assoc a b k).trans (by rw [Nat.xor_comm b k, ← Nat.xor_assoc]; rfl)
        · exact (show a ^^^ b = a ^^^ k ^^^ (b ^^^ k) by
            rw [Nat.xor_comm b k, Nat.xor_assoc a k, ← Nat.xor_assoc k k, Nat.xor_self, Nat.zero_xor])
      rw [List.foldl_cons, List.foldl_cons, List.foldl_cons, step]
      exact ih _ _
  exact fold _ 0 0

theorem eccParity_xor (w v : BitVec 13) : eccParity (w ^^^ v) = (eccParity w + eccParity v) % 2 := by
  have fold : ∀ (l : List Nat) (a b : Nat),
      l.foldl (fun q k => (q + nbit (w ^^^ v).toNat k) % 2) ((a + b) % 2) =
        (l.foldl (fun q k => (q + nbit w.toNat k) % 2) a + l.foldl (fun q k => (q + nbit v.toNat k) % 2) b) % 2 := by
    intro l
    induction l with
    | nil => exact fun _ _ => rfl
    | cons k l ih =>
      intro a b
      have step : ((a + b) % 2 + nbit (w ^^^ v).toNat k) % 2 = ((a + nbit w.toNat k) % 2 + (b + nbit v.toNat k) % 2) % 2 := by
        rw [nbit_xor]
        omega
      rw [List.foldl_cons, List.foldl_cons, List.foldl_cons, step]
      exact ih _ _
  exact fold _ 0 0

/-- A codeword carries its byte, with syndrome and parity 0. -/
theorem eccEncode_spec (b : Byte) : eccData (eccEncode b) = b ∧ eccSyndrome (eccEncode b) = 0 ∧ eccParity (eccEncode b) = 0 := by
  have h := List.all_eq_true.mp encoderOk_eq b.toNat (List.mem_range.mpr b.isLt)
  simpa only [BitVec.ofNat_toNat, BitVec.setWidth_eq, Bool.and_eq_true, beq_iff_eq, and_assoc] using h

/-- A codeword with errors has the syndrome and parity of the errors. -/
theorem eccSyndrome_encode_xor (b : Byte) (e : BitVec 13) : eccSyndrome (eccEncode b ^^^ e) = eccSyndrome e := by
  rw [eccSyndrome_xor, (eccEncode_spec b).2.1, Nat.zero_xor]

theorem eccParity_encode_xor (b : Byte) (e : BitVec 13) : eccParity (eccEncode b ^^^ e) = eccParity e := by
  have hlt : eccParity e < 2 := by
    have h := eccParity_xor e 0#13
    rw [BitVec.xor_zero] at h
    omega
  rw [eccParity_xor, (eccEncode_spec b).2.2]
  omega

/-! ## Single bits -/

theorem bit13_spec : ∀ k < 13, eccSyndrome (bit13 k) = k ∧ eccParity (bit13 k) = 1 ∧ maskPositions (bit13 k) = [k] := by
  decide +kernel

theorem maskPositions_pair : ∀ j < 13, ∀ k < 13, j ≠ k → maskPositions (bit13 j ||| bit13 k) = [min j k, max j k] := by
  decide +kernel

theorem maskPositions_beside : ∀ j < 13, ∀ k < 13, j ≠ k →
    maskPositions (bit13 k &&& ~~~bit13 j) = [k] ∧ maskPositions ((bit13 j ||| bit13 k) &&& ~~~bit13 j) = [k] := by
  decide +kernel

theorem bit13_or : ∀ j < 13, ∀ k < 13, j ≠ k → bit13 j ||| bit13 k = bit13 j ^^^ bit13 k := by
  decide +kernel

theorem bit13_and_bit13 : ∀ j < 13, ∀ k < 13, j ≠ k → bit13 k &&& bit13 j = 0 := by
  decide +kernel

theorem bit13_and_pair : ∀ j < 13, ∀ k < 13, ∀ l < 13, j ≠ l → k ≠ l → bit13 l &&& (bit13 j ||| bit13 k) = 0 := by
  decide +kernel

/-- The bits of a word under a mark: none or that one. -/
theorem and_bit13 (j : Nat) (w : BitVec 13) : w &&& bit13 j = 0#13 ∨ w &&& bit13 j = bit13 j := by
  cases h : w.getLsbD j with
  | false =>
    left
    apply BitVec.eq_of_getLsbD_eq
    intro i hi
    rw [BitVec.getLsbD_and, bit13_getLsbD hi]
    by_cases hij : j = i
    · subst hij
      simp [h]
    · simp [hij]
  | true =>
    right
    apply BitVec.eq_of_getLsbD_eq
    intro i hi
    rw [BitVec.getLsbD_and, bit13_getLsbD hi]
    by_cases hij : j = i
    · subst hij
      simp [h]
    · simp [hij]

/-- What the decoder looks at under a mask: the codeword with its marked bits taken as 0, as errors in those bits would leave it. -/
theorem masked_eq (w x m v : BitVec 13) (h : v &&& m = 0) : (w ^^^ (x &&& m) ^^^ v) &&& ~~~m = w ^^^ ((w &&& m) ^^^ v) := by
  apply BitVec.eq_of_getLsbD_eq
  intro i hi
  have hv : (v.getLsbD i && m.getLsbD i) = false := by
    rw [← BitVec.getLsbD_and, h]
    exact BitVec.getLsbD_zero
  simp only [BitVec.getLsbD_and, BitVec.getLsbD_xor, BitVec.getLsbD_not, hi, decide_true, Bool.true_and]
  revert hv
  cases w.getLsbD i <;> cases x.getLsbD i <;> cases m.getLsbD i <;> cases v.getLsbD i <;> decide

theorem masked_eq_of_clean (w x m : BitVec 13) : (w ^^^ (x &&& m)) &&& ~~~m = w ^^^ (w &&& m) := by
  have h := masked_eq w x m 0#13 BitVec.zero_and
  rwa [BitVec.xor_zero, BitVec.xor_zero] at h

/-! ## The flips of R162, by the errors that the decoder sees -/

section
variable {b : Byte} {w m e f : BitVec 13}

theorem eccFlips_unmarked (he : w &&& ~~~(0 : BitVec 13) = eccEncode b ^^^ e) : eccFlips w 0 =
    if eccParity e = 0 then (if eccSyndrome e = 0 then some 0 else none)
    else if eccSyndrome e ≤ 12 then some (bit13 (eccSyndrome e)) else none := by
  unfold eccFlips
  dsimp only
  rw [he, eccSyndrome_encode_xor, eccParity_encode_xor]
  rfl

theorem eccFlips_one {j : Nat} (hj : j < 13) (he : w &&& ~~~bit13 j = eccEncode b ^^^ e) : eccFlips w (bit13 j) =
    if eccParity e = 1 then
      (if eccSyndrome e = j then some (bit13 j) else if eccSyndrome e ≤ 12 then some (bit13 (eccSyndrome e)) else none)
    else if eccSyndrome e = 0 then some 0
    else if eccSyndrome e ^^^ j ≤ 12 then some (bit13 j ||| bit13 (eccSyndrome e ^^^ j)) else none := by
  unfold eccFlips
  dsimp only
  rw [he, eccSyndrome_encode_xor, eccParity_encode_xor, (bit13_spec j hj).2.2]

theorem eccFlips_two {j k : Nat} (hj : j < 13) (hk : k < 13) (hjk : j ≠ k)
    (he : w &&& ~~~(bit13 j ||| bit13 k) = eccEncode b ^^^ e) : eccFlips w (bit13 j ||| bit13 k) =
    if eccParity e = 0 then
      (if eccSyndrome e = 0 then some 0 else if eccSyndrome e = j ^^^ k then some (bit13 j ||| bit13 k) else none)
    else if eccSyndrome e = j ∨ eccSyndrome e = k then some (bit13 (eccSyndrome e)) else none := by
  have hminmax : min j k ^^^ max j k = j ^^^ k := by
    rcases Nat.le_total j k with h | h
    · rw [min_eq_left h, max_eq_right h]
    · rw [min_eq_right h, max_eq_left h, Nat.xor_comm]
  unfold eccFlips
  dsimp only
  rw [he, eccSyndrome_encode_xor, eccParity_encode_xor, maskPositions_pair j hj k hk hjk]
  simp only [List.getLastD_cons, List.getLastD_nil, hminmax]
  rcases Nat.le_total j k with h | h
  · rw [min_eq_left h, max_eq_right h]
    split_ifs <;> simp_all
  · rw [min_eq_right h, max_eq_left h]
    split_ifs <;> simp_all

/-- Where the flips are the errors seen, the byte is delivered: CLEAN, unless a flip lies outside the mask. -/
theorem eccDecode_of_flips (he : w &&& ~~~m = eccEncode b ^^^ e) (hf : eccFlips w m = some e) :
    eccDecode w m = match maskPositions (e &&& ~~~m) with
      | [] => .clean b
      | k :: _ => .corrected b k := by
  unfold eccDecode
  rw [hf]
  dsimp only
  rw [he, BitVec.xor_assoc, BitVec.xor_self, BitVec.xor_zero, (eccEncode_spec b).1] <;> rfl

theorem eccDecode_of_no_flips (hf : eccFlips w m = none) : eccDecode w m = .uncorrectable := by
  unfold eccDecode
  rw [hf]

end

/-! ## The guarantees -/

/-- With no bit marked. -/
theorem eccDecode_unmarked (b : Byte) {j k : Nat} (hj : j < 13) (hk : k < 13) (hjk : j ≠ k) :
    eccDecode (eccEncode b) 0 = .clean b ∧ eccDecode (eccEncode b ^^^ bit13 k) 0 = .corrected b k ∧
      eccDecode (eccEncode b ^^^ bit13 j ^^^ bit13 k) 0 = .uncorrectable := by
  obtain ⟨sj, qj, -⟩ := bit13_spec j hj
  obtain ⟨sk, qk, pk⟩ := bit13_spec k hk
  have hmask : ∀ v : BitVec 13, v &&& ~~~(0 : BitVec 13) = v := fun v => BitVec.and_allOnes
  have h0 : eccEncode b &&& ~~~(0 : BitVec 13) = eccEncode b ^^^ 0#13 := by rw [hmask, BitVec.xor_zero]
  have h1 := hmask (eccEncode b ^^^ bit13 k)
  have h2 : (eccEncode b ^^^ bit13 j ^^^ bit13 k) &&& ~~~(0 : BitVec 13) = eccEncode b ^^^ (bit13 j ^^^ bit13 k) := by
    rw [hmask, BitVec.xor_assoc]
  refine ⟨?_, ?_, ?_⟩
  · exact eccDecode_of_flips h0 (eccFlips_unmarked h0)
  · have hf := eccFlips_unmarked h1
    rw [sk, qk, if_neg one_ne_zero, if_pos (by omega)] at hf
    rw [eccDecode_of_flips h1 hf, hmask, pk]
  · have hf := eccFlips_unmarked h2
    rw [eccSyndrome_xor, eccParity_xor, sj, sk, qj, qk, if_pos rfl, if_neg (Nat.xor_ne_zero_iff.mpr hjk)] at hf
    exact eccDecode_of_no_flips hf

/-- With one bit marked, whatever it reads. -/
theorem eccDecode_one (b : Byte) (x : BitVec 13) {j k : Nat} (hj : j < 13) (hk : k < 13) (hjk : j ≠ k) :
    eccDecode (eccEncode b ^^^ (x &&& bit13 j)) (bit13 j) = .clean b ∧
      eccDecode (eccEncode b ^^^ (x &&& bit13 j) ^^^ bit13 k) (bit13 j) = .corrected b k := by
  obtain ⟨sj, qj, -⟩ := bit13_spec j hj
  obtain ⟨sk, qk, -⟩ := bit13_spec k hk
  obtain ⟨hbeside, hboth⟩ := maskPositions_beside j hj k hk hjk
  have hapart : bit13 k &&& bit13 j = 0 := bit13_and_bit13 j hj k hk hjk
  have h0 := masked_eq_of_clean (eccEncode b) x (bit13 j)
  have h1 := masked_eq (eccEncode b) x (bit13 j) (bit13 k) hapart
  rcases and_bit13 j (eccEncode b) with hw | hw <;> rw [hw] at h0 h1
  · rw [BitVec.zero_xor] at h1
    constructor
    · rw [eccDecode_of_flips h0 (eccFlips_one hj h0), BitVec.zero_and]
      rfl
    · have hf := eccFlips_one hj h1
      rw [sk, qk, if_pos rfl, if_neg hjk.symm, if_pos (by omega)] at hf
      rw [eccDecode_of_flips h1 hf, hbeside]
  · constructor
    · have hf := eccFlips_one hj h0
      rw [sj, qj, if_pos rfl, if_pos rfl] at hf
      rw [eccDecode_of_flips h0 hf, BitVec.and_not_self]
      rfl
    · have hf := eccFlips_one hj h1
      have hback : j ^^^ k ^^^ j = k := by rw [Nat.xor_comm j k, Nat.xor_assoc, Nat.xor_self, Nat.xor_zero]
      rw [eccSyndrome_xor, eccParity_xor, sj, sk, qj, qk, if_neg (by decide), if_neg (Nat.xor_ne_zero_iff.mpr hjk), hback,
        if_pos (by omega), bit13_or j hj k hk hjk] at hf
      rw [eccDecode_of_flips h1 hf, ← bit13_or j hj k hk hjk, hboth]

/-- The bits of a word under two marks, by those under each. -/
theorem and_pair (j k : Nat) (w : BitVec 13) : w &&& (bit13 j ||| bit13 k) ∈ [0#13, bit13 j, bit13 k, bit13 j ||| bit13 k] := by
  have hor : w &&& (bit13 j ||| bit13 k) = (w &&& bit13 j) ||| (w &&& bit13 k) := BitVec.and_or_distrib_left
  rw [hor]
  rcases and_bit13 j w with hj | hj <;> rcases and_bit13 k w with hk | hk <;> rw [hj, hk] <;> simp

theorem and_and_not_self (w m : BitVec 13) : w &&& m &&& ~~~m = 0#13 := by
  rw [BitVec.and_assoc, BitVec.and_not_self]
  exact BitVec.and_zero

/-- With two bits marked, whatever they read. -/
theorem eccDecode_two (b : Byte) (x : BitVec 13) {j k l : Nat} (hj : j < 13) (hk : k < 13) (hl : l < 13) (hjk : j ≠ k) (hjl : j ≠ l)
    (hkl : k ≠ l) :
    eccDecode (eccEncode b ^^^ (x &&& (bit13 j ||| bit13 k))) (bit13 j ||| bit13 k) = .clean b ∧
      eccDecode (eccEncode b ^^^ (x &&& (bit13 j ||| bit13 k)) ^^^ bit13 l) (bit13 j ||| bit13 k) = .uncorrectable := by
  obtain ⟨sj, qj, -⟩ := bit13_spec j hj
  obtain ⟨sk, qk, -⟩ := bit13_spec k hk
  obtain ⟨sl, ql, -⟩ := bit13_spec l hl
  have hthree : ¬ (j ^^^ k ^^^ l = j ∨ j ^^^ k ^^^ l = k) := by
    rintro (h | h)
    · rw [Nat.xor_assoc] at h
      exact hkl (by simpa using h)
    · rw [Nat.xor_comm j k, Nat.xor_assoc] at h
      exact hjl (by simpa using h)
  have hxjk : j ^^^ k ≠ 0 := Nat.xor_ne_zero_iff.mpr hjk
  have hor := bit13_or j hj k hk hjk
  have h0 := masked_eq_of_clean (eccEncode b) x (bit13 j ||| bit13 k)
  have h1 := masked_eq (eccEncode b) x (bit13 j ||| bit13 k) (bit13 l) (bit13_and_pair j hj k hk l hl hjl hkl)
  have f0 := eccFlips_two hj hk hjk h0
  have f1 := eccFlips_two hj hk hjk h1
  have hcases := and_pair j k (eccEncode b)
  have hinside := and_and_not_self (eccEncode b) (bit13 j ||| bit13 k)
  generalize eccEncode b &&& (bit13 j ||| bit13 k) = e at *
  have seen : eccFlips (eccEncode b ^^^ (x &&& (bit13 j ||| bit13 k))) (bit13 j ||| bit13 k) = some e ∧
      eccFlips (eccEncode b ^^^ (x &&& (bit13 j ||| bit13 k)) ^^^ bit13 l) (bit13 j ||| bit13 k) = none := by
    rw [f0, f1, eccSyndrome_xor, eccParity_xor, sl, ql]
    simp only [List.mem_cons, List.not_mem_nil, or_false] at hcases
    rcases hcases with rfl | rfl | rfl | rfl
    · refine ⟨rfl, ?_⟩
      rw [show eccParity 0#13 = 0 from rfl, show eccSyndrome 0#13 = 0 from rfl, Nat.zero_xor, if_neg (by decide), if_neg (by omega)]
    · rw [sj, qj, if_neg one_ne_zero, if_pos (Or.inl rfl), if_pos rfl, if_neg (Nat.xor_ne_zero_iff.mpr hjl),
        if_neg (by simpa using hkl.symm)]
      exact ⟨rfl, rfl⟩
    · rw [sk, qk, if_neg one_ne_zero, if_pos (Or.inr rfl), if_pos rfl, if_neg (Nat.xor_ne_zero_iff.mpr hkl),
        if_neg (by rw [Nat.xor_comm j k]; simpa using hjl.symm)]
      exact ⟨rfl, rfl⟩
    · rw [hor, eccSyndrome_xor, eccParity_xor, sj, sk, qj, qk, if_pos rfl, if_neg hxjk, if_pos rfl, if_neg (by decide),
        if_neg hthree]
      exact ⟨rfl, rfl⟩
  constructor
  · rw [eccDecode_of_flips h0 seen.1, hinside]
    rfl
  · exact eccDecode_of_no_flips seen.2

/-- Settles O24: the decoder sees the errors alone, by the linearity of syndrome and parity, and each case is one of the three tables of
flips. -/
theorem eccGuarantees : Obligations.EccGuarantees := by
  unfold Obligations.EccGuarantees
  intro b j k l hj hk hl hjk hjl hkl
  obtain ⟨hclean, hcorr, hunc⟩ := eccDecode_unmarked b hj hk hjk
  exact ⟨hclean, hcorr, hunc, fun x => eccDecode_one b x hj hk hjk, fun x => eccDecode_two b x hj hk hl hjk hjl hkl⟩

end Sys2Proof.Machine
end

section
/-! PROOFS. Memory (R156 to R168, R227, R228): a byte reads as written, and the two views of a registered region. -/

namespace Sys2Proof.Machine

/-! ## A byte with at most two marked bits decodes CLEAN as it was encoded -/

theorem mem_maskPositions {m : BitVec 13} {i : Nat} (hi : i < 13) : i ∈ maskPositions m ↔ m.getLsbD i = true := by
  rw [maskPositions, List.mem_filter, List.mem_range, beq_iff_eq, nbit_eq_one_iff]
  exact and_iff_right hi

theorem lt_of_mem_maskPositions {m : BitVec 13} {i : Nat} (h : i ∈ maskPositions m) : i < 13 :=
  List.mem_range.mp (List.mem_filter.mp h).1

/-- A mask is determined by its positions. -/
theorem mask_eq_of_mem_iff {m v : BitVec 13} (h : ∀ i < 13, i ∈ maskPositions m ↔ v.getLsbD i = true) : m = v :=
  BitVec.eq_of_getLsbD_eq fun i hi => Bool.eq_iff_iff.mpr ((mem_maskPositions hi).symm.trans (h i hi))

theorem mask_of_positions {m : BitVec 13} (h : (maskPositions m).length ≤ 2) :
    m = 0 ∨ (∃ j < 13, m = bit13 j) ∨ ∃ j < 13, ∃ k < 13, j ≠ k ∧ m = bit13 j ||| bit13 k := by
  have hnodup : (maskPositions m).Nodup := List.nodup_range.filter _
  have hlt := fun i => lt_of_mem_maskPositions (m := m) (i := i)
  match hl : maskPositions m with
  | [] =>
    exact .inl (mask_eq_of_mem_iff fun i _ => by simp [hl])
  | [j] =>
    refine .inr (.inl ⟨j, hlt j (by simp [hl]), mask_eq_of_mem_iff fun i hi => ?_⟩)
    rw [hl, bit13_getLsbD hi, List.mem_singleton, decide_eq_true_eq, eq_comm]
  | [j, k] =>
    rw [hl] at hnodup
    refine .inr (.inr ⟨j, hlt j (by simp [hl]), k, hlt k (by simp [hl]), by simpa using hnodup, mask_eq_of_mem_iff fun i hi => ?_⟩)
    rw [hl, BitVec.getLsbD_or, bit13_getLsbD hi, bit13_getLsbD hi, List.mem_pair, Bool.or_eq_true, decide_eq_true_eq,
      decide_eq_true_eq, eq_comm, eq_comm (a := i)]
  | _ :: _ :: _ :: _ =>
    rw [hl] at h
    simp at h

/-- A codeword without an error decodes CLEAN under every mask of at most two bits. -/
theorem eccDecode_encode (b : Byte) {m : BitVec 13} (h : (maskPositions m).length ≤ 2) : eccDecode (eccEncode b) m = .clean b := by
  rcases mask_of_positions h with rfl | ⟨j, hj, rfl⟩ | ⟨j, hj, k, hk, hjk, rfl⟩
  · exact (eccDecode_unmarked b (j := 0) (k := 1) (by decide) (by decide) (by decide)).1
  · obtain ⟨k, hk, hjk⟩ : ∃ k < 13, j ≠ k := by
      by_cases h0 : j = 0
      · exact ⟨1, by decide, by omega⟩
      · exact ⟨0, by decide, h0⟩
    have h := (eccDecode_one b 0#13 hj hk hjk).1
    rwa [BitVec.zero_and, BitVec.xor_zero] at h
  · obtain ⟨l, hl, hjl, hkl⟩ : ∃ l < 13, j ≠ l ∧ k ≠ l := by
      by_cases h0 : j = 0 ∨ k = 0
      · by_cases h1 : j = 1 ∨ k = 1
        · exact ⟨2, by decide, by omega, by omega⟩
        · exact ⟨1, by decide, by omega, by omega⟩
      · exact ⟨0, by decide, by omega, by omega⟩
    have h := (eccDecode_two b 0#13 hj hk hl hjk hjl hkl).1
    rwa [BitVec.zero_and, BitVec.xor_zero] at h

/-! ## Units outside registered regions -/

section
variable {s : State} {a : Nat}

theorem metaFlipped_of_unregistered (h : (s.metaHeld a).reg = false) : s.metaFlipped a = false := by
  unfold State.metaFlipped
  rw [h, Bool.false_and]

theorem unitMeta_of_not_flipped (h : s.metaFlipped a = false) : s.unitMeta a = s.metaHeld a := by
  unfold State.unitMeta
  rw [h]
  rfl

theorem metaRead_of_not_flipped (h : s.metaFlipped a = false) : s.metaRead a = (true, s) := by
  unfold State.metaRead
  rw [h]
  rfl

theorem firstWrite_of_unregistered (h : (s.unitMeta a).reg = false) : s.firstWrite a = s := by
  unfold State.firstWrite
  dsimp only
  rw [h]
  rfl

theorem workAddr_of_unregistered (h : (s.unitMeta a).reg = false) : s.workAddr a = a := by
  unfold State.workAddr
  dsimp only
  rw [h]
  rfl

theorem writeByte_of_not_flipped (h : s.metaFlipped a = false) (b : Byte) :
    s.writeByte a b = (s.firstWrite a).store ((s.firstWrite a).workAddr a) b := by
  unfold State.writeByte
  dsimp only
  rw [metaRead_of_not_flipped h]
  rfl

/-- Outside registered regions a write of a byte stores it in its place. -/
theorem writeByte_of_unregistered (h : (s.metaHeld a).reg = false) (b : Byte) : s.writeByte a b = s.store a b := by
  have hflip := metaFlipped_of_unregistered h
  have hunit : (s.unitMeta a).reg = false := (congrArg UnitMeta.reg (unitMeta_of_not_flipped hflip)).trans h
  rw [writeByte_of_not_flipped hflip, firstWrite_of_unregistered hunit, workAddr_of_unregistered hunit]

theorem readCell_of_clean {b : Byte} (rq : Rq) (hch : s.chDead a = false) (h : eccDecode (s.word13 a) (s.maskAt a) = .clean b) :
    s.readCell rq a = (some b, s) := by
  unfold State.readCell State.decodeAt
  dsimp only
  rw [hch, Bool.and_false, h]
  rfl

end

/-- Settles O26: outside registered regions the write is a store, the place of a byte is its own, and a codeword without an error decodes
CLEAN under two marks. -/
theorem memoryReadAfterWrite : Obligations.MemoryReadAfterWrite := by
  unfold Obligations.MemoryReadAfterWrite
  intro s rq a b hcanon ha hreg
  dsimp only
  rw [writeByte_of_unregistered hreg]
  refine ⟨fun hch hmarks => ?_, cell_store hcanon.mem a b, fun x hx hne h => hne (slot_inj s hx ha h),
    fun x hx => ⟨cell_store_ne a b hx, word13_store_ne a b hx⟩, rfl, fun x v hch hx => readCell_of_clean rq hch hx⟩
  have hdecode : eccDecode ((s.store a b).word13 a) (s.maskAt a) = .clean b := by
    rw [word13_store hcanon.mem hcanon.flips]
    exact eccDecode_encode b hmarks
  exact readCell_of_clean rq (show (s.store a b).chDead a = false from hch) hdecode

end Sys2Proof.Machine
end

section
/-! PROOFS. The two views of a registered region (R226 to R228). Both copies of a unit lie in places of their own, apart from every metadata
entry; a first write copies the committed copy into the other, which then holds the working view. -/

namespace Sys2Proof.Machine

/-! ## Places of bytes and of metadata entries -/

/-- A byte of the map of R35 lies at its own address or in a spare unit. -/
theorem slot_cases (s : State) (x : Nat) : s.slot x = x ∨ rsvBase + 8 * spareOffset ≤ s.slot x := by
  unfold State.slot rsvAddr
  split
  · split
    · right; omega
    · exact .inl rfl
  · exact .inl rfl

/-- No byte of the map of R35 lies in a metadata entry. -/
theorem slot_ne_metaAddr (s : State) {x y k : Nat} (hx : x < rsvBase) (hy : y < rsvBase) (hk : k < 8) : s.slot x ≠ metaAddr y k := by
  have hle : rsvBase ≤ metaAddr y k := (Nat.le_add_right _ _).trans (Nat.le_add_right _ _)
  have hlt : metaAddr y k < rsvBase + 8 * spareOffset := by
    have hunit : y % mdSize / 4096 < 0x1800000 := by unfold mdSize; omega
    have hdev : y / mdSize < 0x10000 := by unfold rsvBase at hy; unfold mdSize; omega
    unfold metaAddr rsvAddr metaOffset spareOffset
    omega
  rcases slot_cases s x with h | h <;> omega

theorem tget_filter_key {α : Type} (d : Nat → α) (p : Nat → Bool) {t : Tab α} [DecidableEq α] (ht : twf d t = true) (k : Nat) :
    tget d (t.filter fun e => p e.1) k = if p k then tget d t k else d k := by
  have from_ : ∀ (lo : Nat) (t : Tab α), twfFrom d lo t = true →
      tget d (t.filter fun e => p e.1) k = if p k then tget d t k else d k := by
    intro lo t
    induction t generalizing lo with
    | nil => intro _; simp [tget]
    | cons e t ih =>
      obtain ⟨j, v⟩ := e
      intro h
      simp only [twfFrom, Bool.and_eq_true, decide_eq_true_eq] at h
      have ih := ih (j + 1) h.2
      rw [List.filter_cons]
      by_cases hk : k = j
      · subst hk
        split
        · simp [tget, *]
        · rw [ih]; simp [*]
      · split <;> simp [tget, hk, ih]
  exact from_ 0 t ht

/-! ## The base die's copy of a unit -/

section
variable {s : State}

theorem flips_store_ne {a k : Nat} (b : Byte) (h : k ≠ s.slot a) :
    tget flipDflt (s.store a b).flips k = tget flipDflt s.flips k :=
  show tget flipDflt (tset flipDflt s.flips (s.slot a) 0) k = _ from tget_tset_ne _ _ _ h

theorem copyCells_csr (src dst n : Nat) : (s.copyCells src dst n).csr = s.csr := by
  induction n with
  | zero => rfl
  | succ n ih => exact ih

theorem copyCells_md (src dst n : Nat) : (s.copyCells src dst n).md = s.md := by
  induction n with
  | zero => rfl
  | succ n ih => exact ih

theorem copyCells_regions (src dst n : Nat) : (s.copyCells src dst n).regions = s.regions := by
  induction n with
  | zero => rfl
  | succ n ih => exact ih

theorem copyCells_umeta (src dst n : Nat) : (s.copyCells src dst n).umeta = s.umeta := by
  induction n with
  | zero => rfl
  | succ n ih => exact ih

theorem copyCells_slot (src dst n x : Nat) : (s.copyCells src dst n).slot x = s.slot x := State.slot_of_md (copyCells_md src dst n) x

/-- The flips stored at a place that the copy does not reach stay. -/
theorem copyCells_flips {k : Nat} (src dst n : Nat) (h : ∀ i < n, k ≠ s.slot (dst + i)) :
    tget flipDflt (s.copyCells src dst n).flips k = tget flipDflt s.flips k := by
  induction n with
  | zero => rfl
  | succ n ih =>
    refine Eq.trans (tget_tset_ne _ _ _ ?_) (ih fun i hi => h i (by omega))
    rw [copyCells_slot]
    exact h n (by omega)

/-- A byte outside the destination stays. -/
theorem cell_copyCells_ne {x : Nat} (src dst n : Nat) (hx : x < rsvBase) (hdst : dst + n ≤ rsvBase) (hout : ∀ i < n, x ≠ dst + i) :
    (s.copyCells src dst n).cell x = s.cell x := by
  induction n with
  | zero => rfl
  | succ n ih =>
    refine Eq.trans (tget_tset_ne _ _ _ ?_) (ih (by omega) fun i hi => hout i (by omega))
    exact fun h => hout n (by omega) (slot_inj _ hx (by omega) h)

/-- A byte of the destination is the source's, where source and destination lie apart. -/
theorem cell_copyCells {src dst n : Nat} (hmem : Memory.wf s.mem = true) (hsrc : src + n ≤ rsvBase) (hdst : dst + n ≤ rsvBase)
    (hapart : ∀ i < n, ∀ j < n, src + i ≠ dst + j) {i : Nat} (hi : i < n) :
    (s.copyCells src dst n).cell (dst + i) = s.cell (src + i) := by
  induction n with
  | zero => omega
  | succ n ih =>
    have hsource := cell_copyCells_ne (s := s) (x := src + n) src dst n (by omega) (by omega) fun j hj => hapart n (by omega) j (by omega)
    by_cases h : i = n
    · subst h
      exact (tget_tset_self (memory_wf_copyCells hmem src dst i) _ _).trans hsource
    · refine Eq.trans (tget_tset_ne _ _ _ fun hs => h ?_)
        (ih (by omega) (by omega) (fun i hi j hj => hapart i (by omega) j (by omega)) (by omega))
      have := slot_inj _ (show dst + i < rsvBase by omega) (show dst + n < rsvBase by omega) hs
      omega

end

/-! ## A unit of a registered region -/

/-- Where a byte of a region lies in its base copy (false) or its shadow copy (true). -/
def copyOf (g : Region) (sel : Bool) (x : Nat) : Nat := if sel then g.shadow + (x - g.base) else x

/-- An address in a region of whole units, both copies of which lie within the map of R35 and apart. -/
structure InRegion (g : Region) (a : Nat) : Prop where
  lo : g.base ≤ a
  hi : a < g.base + g.len
  base : g.base % 4096 = 0
  shadow : g.shadow % 4096 = 0
  len : g.len % 4096 = 0
  apart : g.base + g.len ≤ g.shadow ∨ g.shadow + g.len ≤ g.base
  baseFits : g.base + g.len ≤ rsvBase
  shadowFits : g.shadow + g.len ≤ rsvBase

/-- The unit of an address lies in the region, with its metadata `m` without an error. -/
structure HoldsUnit (s : State) (g : Region) (m : UnitMeta) (a : Nat) : Prop where
  reg : m.reg = true
  region : vget none s.regions m.region = some g
  held : ∀ x, x / 4096 = a / 4096 → s.metaHeld x = m
  clean : ∀ x, x / 4096 = a / 4096 → ∀ k < 8, tget flipDflt s.flips (metaAddr x k) = 0

section
variable {s : State} {g : Region} {m : UnitMeta} {a x y : Nat}

theorem HoldsUnit.metaFlipped (h : HoldsUnit s g m a) (hx : x / 4096 = a / 4096) : s.metaFlipped x = false := by
  unfold State.metaFlipped
  rw [h.held x hx, h.reg, Bool.true_and, List.any_eq_false]
  intro k hk
  rw [h.clean x hx k (List.mem_range.mp hk)]
  decide

theorem HoldsUnit.unitMeta (h : HoldsUnit s g m a) (hx : x / 4096 = a / 4096) : s.unitMeta x = m :=
  (unitMeta_of_not_flipped (h.metaFlipped hx)).trans (h.held x hx)

theorem HoldsUnit.copyAddr (h : HoldsUnit s g m a) (sel : Bool) (x : Nat) : s.copyAddr m sel x = copyOf g sel x := by
  unfold State.copyAddr
  rw [h.region]
  rfl

theorem HoldsUnit.workAddr (h : HoldsUnit s g m a) (hx : x / 4096 = a / 4096) : s.workAddr x = copyOf g m.sel x := by
  unfold State.workAddr
  dsimp only
  rw [h.unitMeta hx, if_pos h.reg, h.copyAddr]

theorem HoldsUnit.commitAddr (h : HoldsUnit s g m a) (hx : x / 4096 = a / 4096) :
    s.commitAddr x = copyOf g (if m.tag ≤ s.epochC then m.sel else !m.sel) x := by
  unfold State.commitAddr State.commitSel
  dsimp only
  rw [h.unitMeta hx, if_pos h.reg, h.copyAddr]

/-- An operation that keeps metadata and regions, and no flip of a metadata entry, keeps the unit as it is. -/
theorem HoldsUnit.of_eq {t : State} (h : HoldsUnit s g m a) (hu : t.umeta = s.umeta) (hr : t.regions = s.regions)
    (hf : ∀ x, x / 4096 = a / 4096 → ∀ k < 8, tget flipDflt t.flips (metaAddr x k) = tget flipDflt s.flips (metaAddr x k)) :
    HoldsUnit t g m a where
  reg := h.reg
  region := hr ▸ h.region
  held x hx := by
    have := h.held x hx
    unfold State.metaHeld State.regionOf at this ⊢
    rwa [hu, hr]
  clean x hx k hk := (hf x hx k hk).trans (h.clean x hx k hk)

/-- The bytes of the unit lie in the region, and so do both their copies in the map of R35. -/
theorem InRegion.copyOf_lt (hg : InRegion g a) (sel : Bool) (hx : x / 4096 = a / 4096) : copyOf g sel x < rsvBase := by
  obtain ⟨hlo, hhi, hb, hs, hl, hap, hbf, hsf⟩ := hg
  unfold copyOf
  cases sel
  · rw [if_neg (by decide)]; omega
  · rw [if_pos rfl]; omega

theorem InRegion.copyOf_inj (hg : InRegion g a) (sel : Bool) (hx : x / 4096 = a / 4096) (hy : y / 4096 = a / 4096) (hxy : x ≠ y) :
    copyOf g sel x ≠ copyOf g sel y := by
  obtain ⟨hlo, hhi, hb, hs, hl, hap, hbf, hsf⟩ := hg
  unfold copyOf
  cases sel
  · exact hxy
  · rw [if_pos rfl, if_pos rfl]; omega

theorem InRegion.copyOf_ne (hg : InRegion g a) (sel : Bool) (hx : x / 4096 = a / 4096) (hy : y / 4096 = a / 4096) : copyOf g sel x ≠ copyOf g (!sel) y := by
  obtain ⟨hlo, hhi, hb, hs, hl, hap, hbf, hsf⟩ := hg
  unfold copyOf
  cases sel <;> simp only [Bool.not_false, Bool.not_true, if_true, if_false, Bool.false_eq_true] <;> omega

theorem InRegion.copyOf_start (hg : InRegion g a) (sel : Bool) (hx : x / 4096 = a / 4096) :
    copyOf g sel x = copyOf g sel (a / 4096 * 4096) + x % 4096 := by
  obtain ⟨hlo, hhi, hb, hs, hl, hap, hbf, hsf⟩ := hg
  unfold copyOf
  cases sel
  · rw [if_neg (by decide), if_neg (by decide)]; omega
  · rw [if_pos rfl, if_pos rfl]; omega

/-- The first write of an epoch: the unit's copies change places, with the bytes of the committed one in both. -/
theorem HoldsUnit.firstWrite_spec (h : HoldsUnit s g m a) (hg : InRegion g a) (hcanon : s.Canon) (htag : m.tag ≤ s.epochC) :
    let t := s.firstWrite a
    t.csr = s.csr ∧ Memory.wf t.mem = true ∧ HoldsUnit t g { m with sel := !m.sel, tag := s.epochC + 1 } a ∧
      ∀ x sel, x / 4096 = a / 4096 → t.cell (copyOf g sel x) = s.cell (copyOf g m.sel x) := by
  obtain ⟨u, hu⟩ : ∃ u, u = a / 4096 * 4096 := ⟨_, rfl⟩
  have huu : u / 4096 = a / 4096 := by omega
  obtain ⟨v, hv⟩ : ∃ v, v = s.copyCells (copyOf g m.sel u) (copyOf g (!m.sel) u) 4096 := ⟨_, rfl⟩
  have heq : s.firstWrite a =
      { v with umeta := tset metaDflt v.umeta (a / 4096) { m with sel := !m.sel, tag := s.epochC + 1 } }.metaClean (· == a / 4096) := by
    unfold State.firstWrite
    dsimp only
    rw [h.unitMeta rfl, if_pos ⟨h.reg, htag⟩, h.copyAddr, h.copyAddr, ← hu, ← hv]
  have hat : ∀ sel, ∀ i < 4096, copyOf g sel (u + i) = copyOf g sel u + i := by
    intro sel i hi
    rw [hg.copyOf_start sel (x := u + i) (by omega), ← hu]
    congr 1
    omega
  have hfits : ∀ sel, copyOf g sel u + 4096 ≤ rsvBase := by
    intro sel
    have := hg.copyOf_lt sel (x := u + 4095) (by omega)
    rw [hat sel 4095 (by decide)] at this
    omega
  have hcsr : v.csr = s.csr := hv ▸ copyCells_csr _ _ _
  have hmem : Memory.wf v.mem = true := hv ▸ memory_wf_copyCells hcanon.mem _ _ _
  have hregions : v.regions = s.regions := by
    rw [hv]
    exact copyCells_regions _ _ _
  have humeta : twf metaDflt v.umeta = true := hv ▸ (copyCells_umeta (s := s) _ _ _).symm ▸ hcanon.umeta
  have hcopied : ∀ x sel, x / 4096 = a / 4096 → v.cell (copyOf g sel x) = s.cell (copyOf g m.sel x) := by
    intro x sel hx
    obtain ⟨i, hi, rfl⟩ : ∃ i < 4096, x = u + i := ⟨x % 4096, Nat.mod_lt _ (by decide), by omega⟩
    have hapart : ∀ j < 4096, ∀ k < 4096, copyOf g m.sel u + j ≠ copyOf g (!m.sel) u + k := by
      intro j hj k hk
      rw [← hat _ j hj, ← hat _ k hk]
      exact hg.copyOf_ne m.sel (by omega) (by omega)
    rw [hat _ i hi, hat _ i hi, hv]
    by_cases hsel : sel = m.sel
    · subst hsel
      exact cell_copyCells_ne _ _ _ (by have := hfits m.sel; omega) (hfits _) fun k hk => hapart i hi k hk
    · rw [Bool.eq_not.mpr hsel]
      exact cell_copyCells hcanon.mem (hfits _) (hfits _) hapart hi
  have hclean : ∀ x, x / 4096 = a / 4096 → ∀ k < 8, tget flipDflt v.flips (metaAddr x k) = 0 := by
    intro x hx k hk
    have hxlt : x < rsvBase := hg.copyOf_lt false hx
    rw [hv, copyCells_flips _ _ _ fun i hi h => slot_ne_metaAddr s (by have := hfits (!m.sel); omega) hxlt hk h.symm]
    exact h.clean x hx k hk
  rw [heq]
  refine ⟨hcsr, hmem, ⟨h.reg, ?_, fun x hx => ?_, fun x hx k hk => ?_⟩, hcopied⟩
  · exact (congrArg (vget none · m.region) hregions).trans h.region
  · have hread := tget_tset_self humeta (a / 4096) { m with sel := !m.sel, tag := s.epochC + 1 }
    unfold State.metaHeld
    dsimp only [State.metaClean]
    rw [hx, hread]
    exact if_pos h.reg
  · have hflips : twf flipDflt v.flips = true := by
      rw [hv]
      exact (State.copyCells_keeps canon_closed hcanon).flips
    have hfilter := tget_filter_key flipDflt (fun k => !(inMeta k && metaUnit k == a / 4096)) hflips (metaAddr x k)
    refine hfilter.trans ?_
    rw [hclean x hx k hk]
    exact ite_self _

/-- What a write finds, first of its epoch or not: the unit with its working copy in the open epoch, and both views as before. -/
theorem HoldsUnit.opened (h : HoldsUnit s g m a) (hg : InRegion g a) (hcanon : s.Canon) (htag : m.tag ≤ s.epochC + 1) :
    let t := s.firstWrite a
    ∃ sel, t.csr = s.csr ∧ Memory.wf t.mem = true ∧ HoldsUnit t g { m with sel := sel, tag := s.epochC + 1 } a ∧
      ∀ x, x / 4096 = a / 4096 →
        t.cell (copyOf g sel x) = s.cell (s.workAddr x) ∧ t.cell (copyOf g (!sel) x) = s.cell (s.commitAddr x) := by
  by_cases hle : m.tag ≤ s.epochC
  · obtain ⟨hcsr, hmem, hunit, hcell⟩ := h.firstWrite_spec hg hcanon hle
    refine ⟨!m.sel, hcsr, hmem, hunit, fun x hx => ?_⟩
    rw [h.workAddr hx, h.commitAddr hx, if_pos hle]
    exact ⟨hcell x _ hx, hcell x _ hx⟩
  · have hfirst : s.firstWrite a = s := by
      unfold State.firstWrite
      dsimp only
      rw [h.unitMeta rfl, if_neg fun h => hle h.2]
    have hm : { m with sel := m.sel, tag := s.epochC + 1 } = m := by
      rw [show s.epochC + 1 = m.tag by omega]
    refine ⟨m.sel, by rw [hfirst], by rw [hfirst]; exact hcanon.mem, by rw [hfirst, hm]; exact h, fun x hx => ?_⟩
    rw [hfirst, h.workAddr hx, h.commitAddr hx, if_neg hle]
    exact ⟨rfl, rfl⟩

end

/-- Settles O27: a write opens the unit where it is the first of its epoch, which leaves both views as they are, and then stores one byte
of the working copy. -/
theorem commitViews : Obligations.CommitViews := by
  unfold Obligations.CommitViews
  intro s g m a b hcanon hreg hregion hbase hshadow hlen hlo hhi hapart hbaseFits hshadowFits htag hunits t
  have hg : InRegion g a := ⟨hlo, hhi, hbase, hshadow, hlen, hapart, hbaseFits, hshadowFits⟩
  have hheld : ∀ x, x / 4096 = a / 4096 → s.metaHeld x = m := fun x hx =>
    (unitMeta_of_not_flipped (hunits x hx).2).symm.trans (hunits x hx).1
  have h : HoldsUnit s g m a := by
    refine ⟨hreg, hregion, hheld, fun x hx k hk => ?_⟩
    have hflip := (hunits x hx).2
    unfold State.metaFlipped at hflip
    rw [hheld x hx, hreg, Bool.true_and, List.any_eq_false] at hflip
    simpa using hflip k (List.mem_range.mpr hk)
  obtain ⟨sel, hcsr, hmem, hunit, hcell⟩ := h.opened hg hcanon htag
  have hepoch : (s.firstWrite a).epochC = s.epochC := congrArg (getBits · _ _) (congrArg (tget csrDflt · _) hcsr)
  have ht : t = (s.firstWrite a).store (copyOf g sel a) b :=
    (writeByte_of_not_flipped (hunits a rfl).2 b).trans (by rw [hunit.workAddr rfl])
  have hunit' : HoldsUnit t g { m with sel := sel, tag := s.epochC + 1 } a := by
    rw [ht]
    refine hunit.of_eq rfl rfl fun x hx k hk => flips_store_ne b ?_
    exact (slot_ne_metaAddr _ (hg.copyOf_lt sel rfl) (hg.copyOf_lt false hx) hk).symm
  have hepoch' : t.epochC = s.epochC := by
    rw [ht]
    exact hepoch
  have hcommit : ∀ x, x / 4096 = a / 4096 → t.commitAddr x = copyOf g (!sel) x := by
    intro x hx
    rw [hunit'.commitAddr hx, hepoch', if_neg (by simp)]
  have hother : ∀ y, y < rsvBase → y ≠ copyOf g sel a → t.cell y = (s.firstWrite a).cell y := by
    intro y hy hne
    rw [ht]
    exact cell_store_ne _ _ fun hs => hne (slot_inj _ hy (hg.copyOf_lt sel rfl) hs)
  refine ⟨?_, by rw [hunit'.unitMeta rfl], fun x hx => ⟨fun hne => ?_, ?_⟩⟩
  · rw [hunit'.workAddr rfl, ht]
    exact cell_store hmem _ b
  · rw [hunit'.workAddr hx, hother _ (hg.copyOf_lt sel hx) (hg.copyOf_inj sel hx rfl hne)]
    exact (hcell x hx).1
  · rw [hcommit x hx, hother _ (hg.copyOf_lt _ hx) (hg.copyOf_ne sel rfl hx).symm]
    exact (hcell x hx).2

end Sys2Proof.Machine
end

section
/-! PROOFS. Memory devices (R159, R170, R175 to R184): channel retries, buckets, refresh and the scrubber. -/

namespace Sys2Proof.Machine

section
variable {s : State}

theorem drainDies_eq_foldl (l : List Nat) :
    s.drainDies l = l.foldl (fun s d => s.ceDrain (R.SP_BUCKET_LEVEL.at (dieOff d)) (0x0800 + d)) s := by
  induction l generalizing s with
  | nil => rfl
  | cons d l ih => exact ih

theorem drainMds_eq_foldl (l : List Nat) :
    s.drainMds l = l.foldl (fun s n => s.ceDrain (R.ECC_BUCKET_LEVEL.at (mdOff n)) (0x0200 + n)) s := by
  induction l generalizing s with
  | nil => rfl
  | cons n l ih => exact ih

/-- A channel in service retires. -/
theorem retire_of_up {n ch : Nat} (h : nbit (s.fget (R.MD_STATUS_CH_UP.at (mdOff n))) ch = 1) :
    s.retire n ch = ((s.fset (R.MD_STATUS_CH_UP.at (mdOff n)) (s.fget (R.MD_STATUS_CH_UP.at (mdOff n)) - 2 ^ ch)).fset
      (R.ECC_FLAGS_CH_RETIRED.at (mdOff n)) 1).report (0x0200 + n) .chRetired ch 0 :=
  if_neg (by rw [h]; decide)

end

/-- Settles O28: each command is one branch of its definition, and a full bucket is left alone by drain and correction alike. -/
theorem memoryDevices : Obligations.MemoryDevices := by
  unfold Obligations.MemoryDevices
  intro n s hw
  refine ⟨?_, ?_, ?_, ?_⟩
  · intro ch first hup d k up
    have hon : ¬ (s.dom.worksRst = true ∨ nbit (s.fget (R.MD_STATUS_CH_UP.at (mdOff n))) ch = 0) := by
      rw [hw, hup]
      decide
    refine ⟨fun hk => ?_, fun hk => ?_⟩
    · exact congrArg Host.Outcome.next ((if_neg hon).trans (if_neg (Nat.not_le.mpr hk)))
    · exact congrArg Host.Outcome.next ((if_neg hon).trans ((if_pos hk).trans (retire_of_up (s := s.setMdev n _) hup)))
  · refine congrArg Host.Outcome.next ((if_neg (by rw [hw]; decide)).trans ?_)
    rw [drainDies_eq_foldl, drainMds_eq_foldl]
  · intro f source full cap fills
    refine ⟨fun h => ⟨if_pos h, if_pos h⟩, fun h => ?_⟩
    have hfull : ¬ vget false s.ceFull (ceSlot source) = true := by
      rw [show vget false s.ceFull (ceSlot source) = false from h]
      decide
    exact ⟨fun hlt => (if_neg hfull).trans (if_pos hlt), fun hle => (if_neg hfull).trans (if_neg (Nat.not_lt.mpr hle)),
      fun hlt => (if_neg hfull).trans (if_neg (Nat.not_le.mpr hlt)), fun hle => (if_neg hfull).trans (if_pos hle)⟩
  · intro t ht
    refine congrArg Host.Outcome.next ((if_neg (by rw [hw]; decide)).trans ?_)
    dsimp only
    rw [ht]

/-! ## The scrubber -/

section
variable {s : State} {n : Nat}

theorem mdev_setMdev_self (hn : n < 8) (d : Md) : (s.setMdev n d).mdev n = d := vget_vput_self _ _ hn d

/-- The bits of a write of `SCRUB_CTL` with GO set and STOP and MODE clear. -/
theorem writeScrubCtl_of_go (src : Party) {v : Word} (hrate : nbits v.toNat 39 32 ≤ 200) (hgo : nbits v.toNat 3 0 = 1) :
    (s.writeScrubCtl src n (v ||| 1) (BitVec.ofNat 64 (2 ^ 64 - 1))).2 =
      let t := (s.fset (R.SCRUB_CTL_RATE.at (mdOff n)) (nbits v.toNat 39 32)).fset (R.SCRUB_CTL_MODE.at (mdOff n)) 0
      (t.scrubStart n (t.flag (R.SCRUB_BASE_TARGET.at (mdOff n))) (t.fget (R.SCRUB_BASE_OFFSET.at (mdOff n)))
        (t.fget (R.SCRUB_LEN_LEN.at (mdOff n))) (t.fget (R.SCRUB_CTL_MODE.at (mdOff n))) none false).2 := by
  have hv : v ||| 1 = v := by
    apply BitVec.eq_of_getLsbD_eq
    intro i hi
    have hone : v.getLsbD 0 = true := nbit_eq_one_iff.mp (by unfold nbit; unfold nbits at hgo; omega)
    rw [BitVec.getLsbD_or, show (1 : Word) = 1#64 from rfl, BitVec.getLsbD_one]
    by_cases h0 : i = 0
    · rw [h0, hone]
      rfl
    · simp [h0]
  have hmode : nbit v.toNat 3 = 0 := by unfold nbit; unfold nbits at hgo; omega
  have hstop : nbit v.toNat 1 = 0 := by unfold nbit; unfold nbits at hgo; omega
  have hbit : nbit v.toNat 0 = 1 := by unfold nbit; unfold nbits at hgo; omega
  unfold State.writeScrubCtl
  dsimp only
  rw [hv, hmode, hstop, hbit, decide_eq_false (Nat.not_lt.mpr hrate)]
  rfl

/-- The start of a scrub by the register. -/
theorem scrubStart_eq (sram : Bool) (base len mode : Nat) :
    (s.scrubStart n sram base len mode none false).2 =
      if (s.mdev n).scrub.running = true ∨ s.flag R.BOOT_STATUS_BG_RUN = true then s.fset (R.SCRUB_CTL_RESULT.at (mdOff n)) 0x0701
      else if base % 16 ≠ 0 ∨ len % 16 ≠ 0 ∨ len = 0 ∨ scrubRoom sram < base + len then s.fset (R.SCRUB_CTL_RESULT.at (mdOff n)) 0x0702
      else ((s.scrubClear n sram base).setMdev n { s.mdev n with
        scrub := ⟨true, false, sram, base, len, base, mode, false, 0, false, (s.scrubClear n sram base).rtime⟩ }).fset
          (R.SCRUB_CTL_RESULT.at (mdOff n)) 0 := by
  unfold State.scrubStart
  dsimp only
  by_cases hrun : (s.mdev n).scrub.running = true ∨ s.flag R.BOOT_STATUS_BG_RUN = true
  · rw [if_pos hrun, if_pos (hrun.imp id fun h => ⟨rfl, h⟩)]
  · rw [if_neg hrun, if_neg fun h => hrun (h.imp id And.right)]
    by_cases hbad : base % 16 ≠ 0 ∨ len % 16 ≠ 0 ∨ len = 0 ∨ scrubRoom sram < base + len
    · rw [if_pos hbad, if_pos hbad]
    · rw [if_neg hbad, if_neg hbad]
      rfl

theorem scrubEnd_of_no_command (status : Nat) (h : (s.mdev n).scrub.byCmd = false) :
    s.scrubEnd n status = (s.fset (scrubStatus n) status).setMdev n
      { s.mdev n with scrub := { (s.mdev n).scrub with running := false, stop := false } } := by
  unfold State.scrubEnd
  dsimp only
  rw [h]
  rfl

/-- A group of which every byte decodes CLEAN is read without an effect. -/
theorem scrubRead_of_clean (sram : Bool) (k : Nat) : ∀ a, (∀ i, i < k → ∃ b, eccDecode (s.word13 (a + i)) (s.maskAt (a + i)) = .clean b) →
    ∃ l, s.scrubRead n sram a k = (l, s) ∧ ∀ r ∈ l, r.ce = false ∧ r.data.isNone = false := by
  induction k with
  | zero => exact fun _ _ => ⟨[], rfl, by simp⟩
  | succ k ih =>
    intro a h
    obtain ⟨b, hb⟩ : ∃ b, eccDecode (s.word13 a) (s.maskAt a) = .clean b := h 0 (Nat.succ_pos k)
    obtain ⟨l, hl, hall⟩ := ih (a + 1) fun i hi => by
      rw [Nat.add_assoc, Nat.add_comm 1 i]
      exact h (i + 1) (Nat.succ_lt_succ hi)
    have hread : s.readCell ⟨2, 3, 0x0200 + n⟩ a = (some b, s) := by
      unfold State.readCell State.decodeAt
      dsimp only
      rw [hb]
      rfl
    refine ⟨⟨some b, false, 0⟩ :: l, ?_, ?_⟩
    · unfold State.scrubRead
      dsimp only
      rw [hread, hb, hl]
    · intro r hr
      rcases List.mem_cons.mp hr with rfl | hr
      · exact ⟨rfl, rfl⟩
      · exact hall r hr

end

theorem fget_csrPut_ne {s : State} {off : Nat} {g : Fld} {v : Word} (h : g.off ≠ off) : (s.csrPut off v).fget g = s.fget g := by
  unfold State.fget
  rw [State.csrGet_csrPut_ne h]

/-- A group that reads CLEAN: the traffic of 16 bytes joins the summary, and memory and the fault messages stay. -/
theorem exec_scrubGroup_of_clean {n : Fin 8} {s t : State} (hcanon : s.Canon) (hw : s.dom.worksRst = false)
    (hrun : (s.mdev n).scrub.running = true) (hstop : (s.mdev n).scrub.stop = false)
    (hnext : (s.mdev n).scrub.next < (s.mdev n).scrub.base + (s.mdev n).scrub.len)
    (hclean : ∀ i, i < 16 → ∃ b, eccDecode (s.word13 (scrubAddr n (s.mdev n).scrub.sram (s.mdev n).scrub.next + i))
      (s.maskAt (scrubAddr n (s.mdev n).scrub.sram (s.mdev n).scrub.next + i)) = .clean b)
    (ht : exec (.scrubGroup n) s = .next t) :
    t.mem = s.mem ∧ t.flips = s.flips ∧ t.msgs = s.msgs ∧
      t.fget ⟨scrubSum n 2, 0, 64⟩ = (s.fget ⟨scrubSum n 2, 0, 64⟩ + 16) % 2 ^ 64 := by
  obtain ⟨l, hl, hall⟩ := scrubRead_of_clean (n := n.val) (s.mdev n).scrub.sram 16 _ hclean
  have hce : l.filter (·.ce) = [] := List.filter_eq_nil_iff.mpr fun r hr => by simp [(hall r hr).1]
  have hbad : l.zipIdx.filter (fun e => e.1.data.isNone) = [] := List.filter_eq_nil_iff.mpr fun e he => by
    simp [(hall e.1 (List.fst_mem_of_mem_zipIdx he)).2]
  have hon : ¬ ((!(s.mdev n).scrub.running) = true ∨ (s.mdev n).scrub.stop = true ∨
      (s.mdev n).scrub.next ≥ (s.mdev n).scrub.base + (s.mdev n).scrub.len ∨ s.dom.worksRst = true) := by
    rw [hrun, hstop, hw]
    simpa using hnext
  have h := (congrArg Host.Outcome.next (if_neg hon)).symm.trans ht
  injection h with h
  extract_lets a at h
  rw [show s.scrubRead n (s.mdev n).scrub.sram a 16 = (l, s) from hl] at h
  dsimp -zeta only at h
  extract_lets ce bad write read counted ceAdded badAdded firstLast diesSeen written timed at h
  have hnone : bad = [] := congrArg (List.map (·.2)) hbad
  have hkeep : ¬ write := fun hwrite => absurd (congrArg List.length hce) (Nat.ne_of_gt hwrite.2.1)
  have hread : read = s := if_neg hkeep
  have hfirstLast : firstLast = badAdded := by
    simp only [firstLast, hnone]
  have hwritten : written = diesSeen := if_neg hkeep
  have hapart : ∀ k, k ≠ 2 → scrubSum n k ≠ scrubSum n 2 := fun k hk h => hk (by unfold scrubSum at h; omega)
  have hcounted : counted = s.fset ⟨scrubSum n 2, 0, 64⟩ (s.fget ⟨scrubSum n 2, 0, 64⟩ + 16) := by
    rw [← hread]
    rfl
  have frame : ∀ {β : Type} (g : State → β), (∀ u off v, off ≠ scrubSum n 2 → g (State.csrPut u off v) = g u) →
      (∀ u, g (u.setMdev n { timed.mdev n with scrub := { (s.mdev n).scrub with next := (s.mdev n).scrub.next + 16 } }) = g u) →
      g t = g counted := by
    intro β g hput hset
    rw [← h, hset]
    refine (hput _ _ _ (hapart 7 (by decide))).trans ?_
    rw [hwritten]
    refine (hput _ _ _ (hapart 6 (by decide))).trans ?_
    rw [hfirstLast]
    exact (hput _ _ _ (hapart 3 (by decide))).trans (hput _ _ _ (hapart 3 (by decide)))
  rw [frame State.mem (fun _ _ _ _ => rfl) fun _ => rfl, frame State.flips (fun _ _ _ _ => rfl) fun _ => rfl,
    frame State.msgs (fun _ _ _ _ => rfl) fun _ => rfl,
    frame (State.fget · ⟨scrubSum n 2, 0, 64⟩) (fun _ _ _ hoff => fget_csrPut_ne hoff.symm) fun _ => rfl, hcounted]
  exact ⟨rfl, rfl, rfl, State.fget_fset_self (f := ⟨scrubSum n 2, 0, 64⟩) hcanon.csr (Nat.le_refl 64) _⟩

/-- Settles O29: GO and STOP reach the register, and each outcome is one branch of the scrubber's definitions. -/
theorem scrubbing : Obligations.Scrubbing := by
  unfold Obligations.Scrubbing
  intro n src s d u at_ a
  refine ⟨fun hreach => ⟨?_, fun v hrate hgo => ?_⟩, fun hrun hw => ⟨fun hstop hnext hcanon => ?_, fun status hstatus hcmd => ?_⟩⟩
  · exact congrArg Host.Outcome.next (hreach.byParty_regCmd _)
  · refine congrArg Host.Outcome.next ((hreach.byParty_regCmd _).trans ?_)
    rw [writeScrubCtl_of_go src hrate hgo]
    exact scrubStart_eq ..
  · have hon : ¬ ((!u.running) = true ∨ u.stop = true ∨ u.next ≥ u.base + u.len ∨ s.dom.worksRst = true) := by
      rw [hrun, hstop, hw]
      simpa using hnext
    have hexec : ∃ t, exec (.scrubGroup n) s = .next t ∧ (t.mdev n).scrub = { u with next := u.next + 16 } :=
      ⟨_, congrArg Host.Outcome.next (if_neg hon), congrArg Md.scrub (mdev_setMdev_self n.isLt _)⟩
    obtain ⟨t, ht, hscrub⟩ := hexec
    exact ⟨t, ht, hscrub, fun hclean => exec_scrubGroup_of_clean hcanon hw hrun hstop hnext hclean ht⟩
  · have hon : ¬ ((!u.running) = true ∨ s.dom.worksRst = true) := by
      rw [hrun, hw]
      decide
    refine congrArg Host.Outcome.next ((if_neg hon).trans ?_)
    rcases hstatus with ⟨rfl, hend⟩ | ⟨rfl, hstop, hnext⟩
    · exact (if_pos hend).trans (scrubEnd_of_no_command 3 hcmd)
    · exact (if_neg (Nat.not_le.mpr hnext)).trans ((if_pos hstop).trans (scrubEnd_of_no_command 2 hcmd))

end Sys2Proof.Machine
end

section
/-! PROOFS. The Dwente port (R186 to R212): lanes, LINK and IDLE flits, and the stream lane. -/

namespace Sys2Proof.Machine

/-! ## Lanes -/

section
variable {s : State} {l : Nat}

/-- Whatever the table of registers lists, a write of a value that is not the register's reset value reads back. -/
theorem csrGet_csrPut_of_ne {off : Nat} {v : Word} (h : v ≠ csrDflt off) : (s.csrPut off v).csrGet off = v := by
  unfold State.csrGet State.csrPut tset
  rw [if_neg h, tget_tinsert, if_pos rfl]

theorem laneStatus_reset : ∀ l < 2, getBits (csrDflt (R.DW_LANE_STATUS_LOS.at (laneOff l)).off) 0 4 < 2 := by
  decide +kernel

/-- LOS set leaves STATE of a lane with lock as it is. -/
theorem laneState_fset_los (hl : l < 2) (h : 2 ≤ s.laneState l) :
    (s.fset (R.DW_LANE_STATUS_LOS.at (laneOff l)) 1).laneState l = s.laneState l := by
  have hstate : getBits (setBits (s.csrGet (R.DW_LANE_STATUS_LOS.at (laneOff l)).off) 4 1 1) 0 4 = s.laneState l :=
    getBits_setBits_ne _ _ (by decide) (by decide) (by decide)
  have hne : setBits (s.csrGet (R.DW_LANE_STATUS_LOS.at (laneOff l)).off) 4 1 1 ≠ csrDflt (R.DW_LANE_STATUS_LOS.at (laneOff l)).off := by
    intro heq
    have := laneStatus_reset l hl
    rw [← heq, hstate] at this
    omega
  exact (congrArg (getBits · 0 4) (csrGet_csrPut_of_ne hne)).trans hstate

/-- A lane with lock goes down. -/
theorem laneDown_of_locked {cause : Nat} {locked : Bool} (h : 2 ≤ s.laneState l) (hheld : ¬ (s.laneState l = 5 ∧ locked = true)) :
    s.laneDown l cause locked =
      let v := (s.bump (R.DW_LANE_STATUS_LANE_DOWNS.at (laneOff l)) (R.DW_LANE_FLAGS_DOWNS_OVF.at (laneOff l)) 1).fset
        (R.DW_LANE_STATUS_STATE.at (laneOff l)) (if locked then 2 else 1)
      (v.setLane l { v.lane l with
        downAt := v.rtime, downCause := cause, initRx := false, ackRx := false, awaitSeq := false, badRun := 0,
        askFresh := (v.lane l).askFresh || cause == 4, reported := true, resendQ := [] }).report (0x0400 + l) .laneDown l 0 :=
  if_neg (not_or.mpr ⟨Nat.not_lt.mpr h, hheld⟩)

/-- A lane that is held, or has no lock, only notes that FRESH was asked for. -/
theorem laneDown_of_down {locked : Bool} (h : s.laneState l < 2 ∨ (s.laneState l = 5 ∧ locked = true)) :
    s.laneDown l 4 locked = s.setLane l { s.lane l with askFresh := true } := by
  refine (if_pos h).trans ?_
  rw [show (4 == 4) = true from rfl, Bool.or_true]

theorem laneLocked_iff : s.laneLocked l = true ↔ 2 ≤ s.laneState l ∧ s.laneEn l = true ∧ s.dom.lineRst = false := by
  unfold State.laneLocked
  rw [Bool.and_eq_true, Bool.and_eq_true, decide_eq_true_eq, Bool.not_eq_true', and_assoc]

end

section
variable {s : State} {l : Fin 2} {src : Party}

theorem exec_fresh : exec (if l = 0 then Instr.freshCl src else .freshSl src) s = .next (s.byParty src fun s => s.fresh l) := by
  fin_cases l <;> rfl

theorem exec_en (on : Bool) :
    exec (if l = 0 then Instr.enCl src on else .enSl src on) s = .next (s.byParty src fun s => s.laneEnable l on) := by
  fin_cases l <;> rfl

theorem exec_fresh_of_reaches (h : s.Reaches src R.DW_CTL) :
    exec (if l = 0 then Instr.freshCl src else .freshSl src) s = .next (s.laneDown l 4 true) :=
  exec_fresh.trans (congrArg Host.Outcome.next (h.byParty_regCmd _))

theorem laneCtlField : (if l.val = 0 then R.DW_CTL_EN_CL else R.DW_CTL_EN_SL) = if l = 0 then R.DW_CTL_EN_CL else R.DW_CTL_EN_SL := by
  fin_cases l <;> rfl

/-- A codeword that does not decode or carries no sync pattern is noted for what it is, and the tenth in a row loses lock. -/
theorem dwBadWord_eq {cw : BitVec 5440} {t : State} (hlock : s.laneLocked l = true)
    (h : rsDecode cw = none ∧
        t = s.bump (R.DW_LANE_EVENTS_UNCORR_CW.at (laneOff l)) (R.DW_LANE_FLAGS_UNCORR_OVF.at (laneOff l)) 1 ∨
      (∃ m c, rsDecode cw = some (m, c) ∧ nbits m 19 12 ≠ 0xB4 ∧
        t = if c then s.traffic (R.DW_LANE_FEC_CORR_CW.at (laneOff l)) 1 else s)) :
    s.dwBadWord l cw = if (t.lane l).badRun + 1 ≥ 10 then t.laneDown l 1 false
      else t.setLane l { t.lane l with badRun := (t.lane l).badRun + 1, awaitSeq := false } := by
  have hcw : cwTag 0xB4 cw = none := by
    unfold cwTag
    rcases h with ⟨hdec, -⟩ | ⟨m, c, hdec, hsync, -⟩ <;> rw [hdec]
    exact if_neg hsync
  have hnoted : (if (rsDecode cw).isNone then
        s.bump (R.DW_LANE_EVENTS_UNCORR_CW.at (laneOff l)) (R.DW_LANE_FLAGS_UNCORR_OVF.at (laneOff l))
      else if (rsDecode cw).any (·.2) then s.traffic (R.DW_LANE_FEC_CORR_CW.at (laneOff l)) 1 else s) = t := by
    rcases h with ⟨hdec, rfl⟩ | ⟨m, c, hdec, -, rfl⟩ <;> rw [hdec]
    · exact if_pos rfl
    · exact if_neg Bool.false_ne_true
  unfold State.dwBadWord
  dsimp only
  rw [hlock, hcw, hnoted]
  exact if_neg (by simp)

end

/-- Settles O30: each command is one branch of its definition, and a lane goes down in one way. -/
theorem dwenteLanes : Obligations.DwenteLanes := by
  unfold Obligations.DwenteLanes
  intro l src s x st down
  refine ⟨fun cws hline hen hstate => ?_, fun hline hstate => ⟨?_, ?_, fun hreach hheld => ?_, fun hreach hheld => ?_, fun hreach => ?_⟩,
    fun hreach hstate => ?_, ?_, fun cw t hlock ht => ?_, fun hen hline hack => ?_, ?_⟩
  · have hon : ¬ (s.dom.lineRst = true ∨ (!s.laneEn l) = true ∨ s.laneState l ≥ 2) := by
      rw [hline, hen]
      simpa using hstate
    have hexec : exec (.dwLock l cws) s = _ := congrArg Host.Outcome.next (if_neg hon)
    refine ⟨fun ts hts hrun => ?_, fun ts hts hrun => ?_, fun hts => ?_⟩ <;> rw [hexec] <;> dsimp only <;> rw [hts]
    · exact congrArg Host.Outcome.next (if_pos hrun)
    · exact congrArg Host.Outcome.next (if_neg (by rw [hrun]; decide))
  · exact congrArg Host.Outcome.next ((if_neg (by rw [hline]; decide)).trans (laneDown_of_locked hstate fun h => absurd h.2 (by decide)))
  · have hkeep := laneState_fset_los l.isLt hstate
    exact congrArg Host.Outcome.next ((if_neg (by rw [hline]; decide)).trans
      (laneDown_of_locked (hkeep ▸ hstate) fun h => absurd h.2 (by decide)))
  · exact (exec_fresh_of_reaches hreach).trans (congrArg Host.Outcome.next (laneDown_of_locked hstate fun h => hheld h.1))
  · exact (exec_fresh_of_reaches hreach).trans (congrArg Host.Outcome.next (laneDown_of_down (.inr ⟨hheld, rfl⟩)))
  · refine (exec_en false).trans (congrArg Host.Outcome.next ((hreach.byParty_regCmd _).trans ?_))
    rw [laneCtlField, laneDown_of_locked hstate fun h => absurd h.2 (by decide)]
    rfl
  · exact (exec_fresh_of_reaches hreach).trans (congrArg Host.Outcome.next (laneDown_of_down (.inl hstate)))
  · intro hreach t
    refine (exec_en true).trans (congrArg Host.Outcome.next ((hreach.byParty_regCmd _).trans ?_))
    rw [laneCtlField]
    rfl
  · have hlane : t.lane l = x := by
      rcases ht with ⟨-, rfl⟩ | ⟨m, c, -, -, rfl⟩
      · exact congrArg (vget DwLane.reset · l) (congrArg Dw.lanes (State.bump_dw ..))
      · cases c <;> rfl
    have hexec : exec (.undecodableCodeword ⟨.inl l, cw⟩) s = .next (s.dwBadWord l cw).pump := rfl
    rw [hexec, dwBadWord_eq hlock ht, hlane]
    refine ⟨fun hrun => ?_, fun hrun hstate => ?_⟩
    · rw [if_neg (Nat.not_le.mpr (Nat.succ_lt_succ hrun))]
    · rw [if_pos (Nat.succ_le_succ hrun), laneDown_of_locked (hstate ▸ (laneLocked_iff.mp hlock).1) fun h => absurd h.2 (by decide)]
      rfl
  · refine ⟨fun hstate => ?_, fun hstate => ?_⟩
    · exact congrArg Host.Outcome.next ((if_pos ⟨.inl hstate, hen, hline, hack⟩).trans (if_pos hstate))
    · exact congrArg Host.Outcome.next ((if_pos ⟨.inr hstate, hen, hline, hack⟩).trans (if_neg (by omega)))
  · intro sub mine o
    refine ⟨fun hnone => ?_, fun q old hsome => ?_⟩
    · unfold State.sendInit
      dsimp only
      rw [show (s.lane l).replay.find? (fun e => e.2.type == 0xB && e.2.body.head? == some (BitVec.ofNat 8 sub)) = none from hnone]
    · unfold State.sendInit
      dsimp only
      rw [show (s.lane l).replay.find? (fun e => e.2.type == 0xB && e.2.body.head? == some (BitVec.ofNat 8 sub)) = some (q, old) from hsome]

end Sys2Proof.Machine
end

section
/-! PROOFS. LINK and IDLE flits (R190, R193, R208, R209). -/

namespace Sys2Proof.Machine

section
variable {s t : State} {l : Nat} {f : FlitIn}

theorem lane_setLane_self (hl : l < 2) (x : DwLane) : (s.setLane l x).lane l = x := vget_vput_self _ _ hl x

theorem lane_fecNote (hl : l < 2) : (s.fecNote l f).lane l = { s.lane l with badRun := 0 } := by
  unfold State.fecNote
  split <;> exact lane_setLane_self hl _

/-- Taking the FSEQ of an INIT leaves what the lane knows of both sides' incarnations as it is. -/
theorem lane_initSeq (hl : l < 2) : ∃ next any wait,
    (s.initSeq l f).lane l = { s.lane l with badRun := 0, rxExp := next, rxAny := any, awaitSeq := wait } := by
  unfold State.initSeq
  dsimp only
  split
  · refine ⟨((s.lane l).rxExp + 1) % 0x1000, true, false, ?_⟩
    unfold State.takeSeq
    rw [lane_setLane_self hl, lane_fecNote hl]
  · exact ⟨_, _, _, lane_fecNote hl⟩

/-- Acknowledgement and resend from an FSEQ: what the partner has not got goes out again. -/
theorem resendFrom_of_ne (hl : l < 2) {a : Nat} (ha : a < 0x1000) :
    ((s.resendFrom l a).lane l).resendQ = ((s.acked l a).lane l).replay := by
  unfold State.resendFrom
  rw [if_neg (by omega), Nat.mod_eq_of_lt ha]
  exact congrArg DwLane.resendQ (lane_setLane_self hl _)

end

section
variable {s t : State} {l : Fin 2} {f : FlitIn}

/-- What a LINK INIT does once it is taken: `h` has its FSEQ, and `t` the partner's name. -/
theorem exec_linkInit (hok : s.linkOk l f 1 = true) (hstate : s.laneState l ≠ 5) (hhold : holdCause l f = 0)
    (ht : t = if l = 0 then (s.initSeq l f).fset R.DW_PARTNER_NODE_ID (bodyNat f 8 8) else s.initSeq l f) :
    exec (.linkInit l f) s = .next (
      let x := s.lane l
      let inc := bodyNat f 4 4
      if t.laneState l = 4 ∧ (x.inits == some (x.ownInc, inc) && nbit (bodyNat f 18 1) 0 == 0) = true then t.sendInit l 2
      else
        let u :=
          if t.laneState l = 4 then
            ((t.setLane l { (s.initSeq l f).lane l with ackRx := false, initRx := false }).setLaneState l 3).freshStart l 5 f
          else if x.initRx then (if x.partnerInc = inc then t else t.freshStart l 5 f)
          else if t.resumes l f then (t.resendFrom l (bodyNat f 16 2)).fset (R.DW_LANE_STATUS_RESUMED.at (laneOff l)) 1
          else t.freshStart l (match x.inits with
            | some (_, p) => if p = inc then x.downCause else 5
            | none => x.downCause) f
        let v := u.setLane l { u.lane l with inits := some (x.ownInc, inc), partnerInc := inc, initRx := true }
        ((v.sendInit l 2).tryUp l).pump) := by
  have hname : (if l.val = 0 then (s.initSeq l f).fset R.DW_PARTNER_NODE_ID (bodyNat f 8 8) else s.initSeq l f) = t := by
    rw [ht]
    fin_cases l <;> rfl
  have hexec : exec (.linkInit l f) s = _ := congrArg Host.Outcome.next
    ((if_neg (by rw [hok]; decide)).trans ((if_neg hstate).trans (if_neg (not_not.mpr hhold))))
  rw [hexec]
  obtain ⟨next, any, wait, hlane⟩ := lane_initSeq (s := s) (f := f) l.isLt
  dsimp only
  rw [hname, hlane] <;> rfl

theorem rxFlit_idle (hlock : s.laneLocked l = true) (hcrc : crcGood f = true) (htype : fType f = 0) (hbad : flitBad l f = false) :
    s.rxFlit l f (· == 0) = (true, (s.fecNote l f).takeHeader l f) := by
  unfold State.rxFlit
  rw [hlock, hcrc, htype, hbad]
  rfl

end

/-- Settles O31: each flit takes one branch of its row, and an INIT resumes or starts afresh by what the lane knew before. -/
theorem dwenteLinkFlits : Obligations.DwenteLinkFlits := by
  unfold Obligations.DwenteLinkFlits
  intro l f s x inc h
  refine ⟨fun hok hheld hhold _ => ?_, fun hok hheld hhold => ?_, fun sub c hrow hok hheld hhold => ?_, fun t hok hrx hup => ?_,
    fun q o rest hq => ?_, fun sub c hrow hok hheld => ?_, fun t hok hrx => ?_, fun hlock hcrc htype hbad => ?_, fun hup => ?_⟩
  · intro t ends hstate
    rw [exec_linkInit hok hheld hhold (t := t) rfl]
    have hbranch : s.laneState l ≠ 4 → t.laneState l ≠ 4 := fun h4 h => h4 (hstate.symm.trans h)
    refine ⟨fun h4 hinit hres => ?_, fun h4 hinit hres hinits => ?_, fun h4 hinit hinc => ?_, fun h4 hinit hinc => ?_,
      fun h4 hinits hfresh => ?_⟩
    · dsimp only
      rw [if_neg fun h => hbranch h4 h.1, if_neg (hbranch h4), if_neg (by rw [show (s.lane l).initRx = false from hinit]; decide),
        if_pos hres]
    · dsimp only
      rw [if_neg fun h => hbranch h4 h.1, if_neg (hbranch h4), if_neg (by rw [show (s.lane l).initRx = false from hinit]; decide),
        if_neg (by rw [hres]; decide), show (s.lane l).inits = none from hinits]
    · dsimp only
      rw [if_neg fun h => hbranch h4 h.1, if_neg (hbranch h4), if_pos (show (s.lane l).initRx = true from hinit),
        if_pos (show (s.lane l).partnerInc = _ from hinc)]
    · dsimp only
      rw [if_neg fun h => hbranch h4 h.1, if_neg (hbranch h4), if_pos (show (s.lane l).initRx = true from hinit),
        if_neg (show (s.lane l).partnerInc ≠ _ from hinc)]
    · refine congrArg Host.Outcome.next (if_pos ⟨hstate.trans h4, ?_⟩)
      rw [show (s.lane l).inits = _ from hinits, hfresh]
      simp [inc, x]
  · exact congrArg Host.Outcome.next
      ((if_neg (by rw [hok]; decide)).trans ((if_neg hheld).trans (if_neg (not_not.mpr hhold))))
  · simp only [List.mem_cons, Prod.mk.injEq, List.not_mem_nil, or_false] at hrow
    rcases hrow with ⟨rfl, rfl⟩ | ⟨rfl, rfl⟩
    · exact congrArg Host.Outcome.next ((if_neg (by rw [hok]; decide)).trans ((if_neg hheld).trans (if_pos hhold)))
    · exact congrArg Host.Outcome.next ((if_neg (by rw [hok]; decide)).trans ((if_neg hheld).trans (if_pos hhold)))
  · intro e u y
    have hexec : exec (.linkRetry l f) s = _ := congrArg Host.Outcome.next (if_neg (by rw [hok]; decide))
    rw [hexec, hrx]
    dsimp only
    rw [if_neg (not_not.mpr hup)]
    refine ⟨resendFrom_of_ne l.isLt (Nat.mod_lt _ (by decide)), fun hmany => ?_, fun hfew => ?_⟩
    · refine congrArg Host.Outcome.next (if_pos (List.any_eq_true.mpr ?_))
      obtain ⟨q, hq, hle⟩ := hmany
      exact ⟨q, hq, decide_eq_true hle⟩
    · refine congrArg Host.Outcome.next (if_neg fun hany => ?_)
      obtain ⟨q, hq, hle⟩ := List.any_eq_true.mp hany
      exact absurd (hfew q hq) (Nat.not_lt.mpr (of_decide_eq_true hle))
  · unfold State.resendOne
    dsimp only
    rw [show (s.lane l).resendQ = (q, o) :: rest from hq]
  · simp only [List.mem_cons, Prod.mk.injEq, List.not_mem_nil, or_false] at hrow
    rcases hrow with ⟨rfl, rfl⟩ | ⟨rfl, rfl⟩
    · exact congrArg Host.Outcome.next ((if_neg (by rw [hok]; decide)).trans (if_pos hheld))
    · exact congrArg Host.Outcome.next ((if_neg (by rw [hok]; decide)).trans (if_pos hheld))
  · have hexec : exec (.linkDown l f) s = _ := congrArg Host.Outcome.next (if_neg (by rw [hok]; decide))
    rw [hexec, hrx]
  · have hexec : exec (.idle l f) s = .next ((s.rxFlit l f (· == 0)).2).pump := rfl
    rw [hexec, rxFlit_idle hlock hcrc htype hbad]
  · exact congrArg Host.Outcome.next (if_pos hup)

end Sys2Proof.Machine
end

section
/-! PROOFS. The stream lane (R203 to R206). -/

namespace Sys2Proof.Machine

section
variable {s t : State} {f : FlitIn}

theorem slCredit_of_some (h : vget 0 (s.lane 1).rxCred 0 ≠ 0) :
    s.slCredit = some (s.setLane 1 { s.lane 1 with rxCred := vmod (s.lane 1).rxCred 0 (· - 1) }) := if_neg h

/-- A block header within the limits, with no block open and a credit left, opens its block. -/
theorem exec_slHdr (hrx : s.rxFlit 1 f (· == 0xC) = (true, t)) (hflag : nbit (bodyNat f 11 1) 1 = 0) (hlo : 1 ≤ bodyNat f 8 2)
    (hhi : bodyNat f 8 2 ≤ 4096) (hfree : t.dw.rxBlock = none) (hcred : vget 0 (t.lane 1).rxCred 0 ≠ 0) :
    exec (.slHdr f) s = .next (
      let u := t.setLane 1 { t.lane 1 with rxCred := vmod (t.lane 1).rxCred 0 (· - 1) }
      let b : SlBlock := ⟨bodyNat f 0 8, bodyNat f 8 2, nbit (bodyNat f 11 1) 0 == 1, bodyNat f 12 4, bodyNat f 16 4, []⟩
      { u with dw := { u.dw with
        rxBlock := some b
        writes := if u.dw.writes.any (fun w => w.xfer == b.xfer) then u.dw.writes else u.dw.writes ++ [⟨b.xfer, 0, none⟩] } }) := by
  have hfits : ¬ (bodyNat f 8 2 = 0 ∨ bodyNat f 8 2 > 4096 ∨ t.dw.rxBlock.isSome = true) := by
    rw [hfree]
    simp only [Option.isSome_none, Bool.false_eq_true, or_false]
    omega
  have hexec : exec (.slHdr f) s = execSlHdr f s := rfl
  rw [hexec, execSlHdr, hrx]
  dsimp only
  rw [if_neg (by rw [hflag]; decide), if_neg hfits, slCredit_of_some hcred]

theorem exec_slData {b : SlBlock} (hrx : s.rxFlit 1 f (· == 0xD) = (true, t)) (hopen : t.dw.rxBlock = some b) :
    exec (.slData f) s = .next (
      let data := (b.data ++ ((flitBytes f).drop 8).take (fLen f)).take b.blen
      if data.length < b.blen then { t with dw := { t.dw with rxBlock := some { b with data := data } } }
      else { t with dw := { t.dw with rxBlock := none, blocks := t.dw.blocks ++ [{ b with data := data }] } }) := by
  have hexec : exec (.slData f) s = execSlData f s := rfl
  rw [hexec, execSlData, hrx]
  dsimp only
  rw [hopen]

theorem exec_slBlockWritten {w : SlWrite} {rest : List SlWrite} {b : SlBlock} {u : State} (hw : s.dw.writes = w :: rest)
    (hb : s.dw.blocks.find? (fun b => b.xfer == w.xfer && b.block == w.next) = some b)
    (hu : u = { s with dw := { s.dw with blocks := s.dw.blocks.filter (fun c => !(c.xfer == w.xfer && c.block == w.next)) } })
    (hfail : w.failed = none) (hok : u.slStatus b.addr b.blen = 0) :
    exec .slBlockWritten s = .next (
      let v := (u.writeBytes b.addr b.data).slReturn
      if b.last then ({ v with dw := { v.dw with writes := rest } }.slComplete w.xfer 0 0).pump
      else { v with dw := { v.dw with writes := { w with next := w.next + 1 } :: rest } }.pump) := by
  have hexec : exec .slBlockWritten s = execSlBlockWritten s := rfl
  rw [hexec, execSlBlockWritten, hw]
  dsimp only
  rw [hb]
  dsimp only
  rw [← hu, hfail, hok]
  cases b.last <;> rfl

end

/-- Settles O32: each flit and each block takes one branch of its row. -/
theorem streamLane : Obligations.StreamLane := by
  unfold Obligations.StreamLane
  intro f s t
  refine ⟨exec_slHdr, fun b => exec_slData, ?_, fun hrx => ?_, ?_, ?_⟩
  · intro w rest b hw hb u hfail hok v
    exact exec_slBlockWritten hw hb rfl hfail hok
  · intro len xfer
    have hexec : exec (.slRdreq f) s = execSlRdreq f s := rfl
    rw [hexec, execSlRdreq, hrx]
    dsimp only
    refine ⟨fun hbad => ?_, fun hlo hhi hfull => ?_, fun hlo hhi hroom => ?_⟩
    · rw [if_pos hbad]
    · rw [if_neg (show ¬ (len = 0 ∨ len > 2 ^ 30) by omega), if_pos hfull]
    · rw [if_neg (show ¬ (len = 0 ∨ len > 2 ^ 30) by omega), if_neg (Nat.not_le.mpr hroom)]
  · intro r rest l u hreads hup hcred n hblock last v
    have hexec : exec .slReadBlock s = execSlReadBlock s := rfl
    rw [hexec, execSlReadBlock, hreads]
    dsimp only
    rw [if_neg (not_or.mpr ⟨not_not.mpr hup, hcred⟩), show s.slBlock r (min 4096 (r.len - r.done)) = (.ok l, u) from hblock]
    by_cases hlast : last
    · simp only [v, if_pos (show last from hlast), if_pos (show r.done + min 4096 (r.len - r.done) ≥ r.len from hlast)]
      rfl
    · simp only [v, if_neg (show ¬ last from hlast), if_neg (show ¬ r.done + min 4096 (r.len - r.done) ≥ r.len from hlast)]
      rfl
  · intro r rest status u hreads hup hcred hblock n v
    have hexec : exec .slReadBlock s = execSlReadBlock s := rfl
    rw [hexec, execSlReadBlock, hreads]
    dsimp only
    rw [if_neg (not_or.mpr ⟨not_not.mpr hup, hcred⟩), hblock]

end Sys2Proof.Machine
end

section
/-! PROOFS. Reads and writes of registers as their tables describe them (R14 to R18, R33, R36 to R40). -/

namespace Sys2Proof.Machine

/-! ## The bits that an access covers -/

theorem ofNat_mul_getLsbD (n k : Nat) {i : Nat} (hi : i < 64) :
    (BitVec.ofNat 64 (n * 2 ^ k)).getLsbD i = (decide (k ≤ i) && n.testBit (i - k)) := by
  rw [BitVec.getLsbD_ofNat, decide_eq_true hi, Bool.true_and, Nat.testBit_mul_two_pow]

theorem allOnes_getLsbD {i : Nat} (hi : i < 64) : (BitVec.ofNat 64 (2 ^ 64 - 1)).getLsbD i = true := by
  rw [BitVec.getLsbD_ofNat, Nat.testBit_two_pow_sub_one, decide_eq_true hi]
  rfl

section
variable {off : Nat} {wide : Bool} {i : Nat}

theorem laneBits_getLsbD (hoff : off % (if wide then 8 else 4) = 0) (hi : i < 64) :
    (laneBits off (if wide then 8 else 4)).getLsbD i = (wide || i / 32 == off % 8 / 4) := by
  unfold laneBits
  cases wide with
  | true => exact allOnes_getLsbD hi
  | false =>
    have hfour : off % 4 = 0 := hoff
    rw [if_neg (by decide), Bool.false_or]
    split
    · rw [BitVec.getLsbD_ofNat, decide_eq_true hi, Bool.true_and, Nat.testBit_two_pow_sub_one, Bool.eq_iff_iff, decide_eq_true_eq,
        beq_iff_eq]
      omega
    · rw [ofNat_mul_getLsbD _ _ hi, Nat.testBit_two_pow_sub_one, Bool.eq_iff_iff, Bool.and_eq_true, decide_eq_true_eq, decide_eq_true_eq,
        beq_iff_eq]
      omega

/-- Where an access covers a bit, its data there is the bit of the value that it carries. -/
theorem placed_getLsbD (v : Word) (hoff : off % (if wide then 8 else 4) = 0) (hi : i < 64)
    (hcov : (wide || i / 32 == off % 8 / 4) = true) :
    (placed off (if wide then 8 else 4) v).getLsbD i = v.getLsbD (if wide then i else i % 32) := by
  unfold placed
  cases wide with
  | true => rfl
  | false =>
    have hfour : off % 4 = 0 := hoff
    rw [Bool.false_or, beq_iff_eq] at hcov
    rw [if_neg (by decide)]
    have hlow : ∀ j, j < 32 → (v.toNat % 2 ^ 32).testBit j = v.getLsbD j := by
      intro j hj
      rw [Nat.testBit_mod_two_pow, decide_eq_true hj]
      rfl
    split
    · rw [BitVec.getLsbD_ofNat, decide_eq_true hi, Bool.true_and, hlow i (by omega), if_neg (by decide)]
      congr 1
      omega
    · rw [ofNat_mul_getLsbD _ _ hi, decide_eq_true (by omega), Bool.true_and, hlow _ (by omega), if_neg (by decide)]
      congr 1
      omega

end

/-! ## The bits of the fields of a register -/

theorem regMap_fields : (regMap.all fun r => r.fields.all fun f => decide (f.lo ≤ f.hi ∧ f.hi < 64)) = true := by
  decide +kernel

theorem fieldBits_getLsbD {f : FieldRow} {i : Nat} (hf : f.lo ≤ f.hi) (hi : i < 64) :
    (fieldBits f).getLsbD i = decide (f.lo ≤ i ∧ i ≤ f.hi) := by
  unfold fieldBits
  rw [ofNat_mul_getLsbD _ _ hi, Nat.testBit_two_pow_sub_one, Bool.eq_iff_iff, Bool.and_eq_true, decide_eq_true_eq, decide_eq_true_eq,
    decide_eq_true_eq]
  omega

theorem accBits_getLsbD {r : RegRow} (hr : r ∈ regMap) (p : Acc → Bool) {i : Nat} (hi : i < 64) :
    (accBits r p).getLsbD i = r.fields.any fun f => p f.acc && decide (f.lo ≤ i ∧ i ≤ f.hi) := by
  have hlo : ∀ f ∈ r.fields, f.lo ≤ f.hi := fun f hf =>
    (of_decide_eq_true (List.all_eq_true.mp (List.all_eq_true.mp regMap_fields r hr) f hf)).1
  have fold : ∀ (l : List FieldRow) (w : Word), (∀ f ∈ l, f.lo ≤ f.hi) →
      (l.foldl (fun w f => if p f.acc then w ||| fieldBits f else w) w).getLsbD i =
        (w.getLsbD i || l.any fun f => p f.acc && decide (f.lo ≤ i ∧ i ≤ f.hi)) := by
    intro l
    induction l with
    | nil => exact fun w _ => (Bool.or_false _).symm
    | cons f l ih =>
      intro w hl
      rw [List.foldl_cons, ih _ fun g hg => hl g (List.mem_cons_of_mem _ hg), List.any_cons]
      cases p f.acc
      · rw [if_neg (by decide), Bool.false_and, Bool.false_or]
      · rw [if_pos rfl, BitVec.getLsbD_or, fieldBits_getLsbD (hl f List.mem_cons_self) hi, Bool.true_and, Bool.or_assoc]
  exact (fold r.fields 0 hlo).trans (by rw [show (0 : Word).getLsbD i = false from BitVec.getLsbD_zero, Bool.false_or])

/-- Every bit of a register after a plain write (R14, R16). -/
theorem plainWrite_getLsbD {r : RegRow} (hr : r ∈ regMap) (old v m : Word) {i : Nat} (hi : i < 64) :
    (plainWrite r old v m).getLsbD i =
      ((if m.getLsbD i && r.fields.any fun f => (f.acc == .rw || f.acc == .wo) && decide (f.lo ≤ i ∧ i ≤ f.hi) then v.getLsbD i
          else old.getLsbD i) &&
        !(m.getLsbD i && (r.fields.any fun f => f.acc == .w1c && decide (f.lo ≤ i ∧ i ≤ f.hi)) && v.getLsbD i)) := by
  unfold plainWrite
  simp only [BitVec.getLsbD_and, BitVec.getLsbD_or, BitVec.getLsbD_not, hi, decide_true, Bool.true_and, accBits_getLsbD hr _ hi]
  generalize (r.fields.any fun f => (f.acc == .rw || f.acc == .wo) && decide (f.lo ≤ i ∧ i ≤ f.hi)) = set
  generalize (r.fields.any fun f => f.acc == .w1c && decide (f.lo ≤ i ∧ i ≤ f.hi)) = clear
  cases m.getLsbD i <;> cases v.getLsbD i <;> cases old.getLsbD i <;> cases set <;> cases clear <;> rfl

/-! ## Writes -/

/-- The registers whose writes act (R14). -/
def actingRegs : List Nat :=
  [R.IL_CTL, R.IL_INJECT, R.IL_FIRST, R.IL_FIRST_CRIT, R.FENCE_REQ, R.RESET_REQ, R.FW_BEAT, R.POINTS, R.REACH, R.MCG,
    R.ROUTE_CTL, R.PORT_CTL, R.DW_CTL, R.MQ_PUSH, R.MQ_CTL, R.MQ_ACK, R.DB_MASK, R.TOKEN_REL, R.RC_BEAT, R.RING_BASE,
    R.RING_PERIOD, R.RING_CFG, R.RING_IDX, R.RING_WR, R.DOORBELL, R.CTR, R.SCRUB_CTL, R.WE_POST_CTL]

section
variable {s : State} {off size : Nat} {r : RegRow}

theorem regAt_ok (h : s.regAt off size = .ok r) : (size = 4 ∨ size = 8) ∧ off % size = 0 ∧ r ∈ regMap := by
  unfold State.regAt at h
  split at h
  · cases h
  · split at h
    · cases h
    · next hbad _ hreg =>
      split at h
      · cases h
      · cases h
        exact ⟨by omega, by omega, List.mem_of_find?_eq_some hreg⟩

/-- A register without behaviour of its own takes a write by its fields alone. -/
theorem writeReg_plain {w : RegWrite} (hact : w.row.base ∉ actingRegs)
    (hmail : w.row.base = R.MQ_STATUS →
      s.mqSends (w.d % 0x1000 / 0x800) w.src = true ∨ s.mqReceives (w.d % 0x1000 / 0x800) w.src = true) :
    s.writeReg w = (0, s.plain w) := by
  have hclosed : ¬ (w.row.base = R.MQ_STATUS ∧ (!s.mqSends (w.d % 0x1000 / 0x800) w.src) = true ∧
      (!s.mqReceives (w.d % 0x1000 / 0x800) w.src) = true) := by
    rintro ⟨hb, hs, hr⟩
    rcases hmail hb with h | h
    · rw [h] at hs; cases hs
    · rw [h] at hr; cases hr
  simp only [actingRegs, List.mem_cons, List.not_mem_nil, or_false, not_or] at hact
  simp only [State.writeReg, State.writeFault, State.writeFabric, State.writeMail, State.writeRing, State.writeDie, hact, hclosed,
    or_self, if_false]

/-- The status of a mailbox is closed to a party that neither sends nor receives there (R246). -/
theorem writeReg_mail_closed {w : RegWrite} (hbase : w.row.base = R.MQ_STATUS)
    (hs : s.mqSends (w.d % 0x1000 / 0x800) w.src = false) (hr : s.mqReceives (w.d % 0x1000 / 0x800) w.src = false) :
    s.writeReg w = (7, s) := by
  have hother : w.row.base ∉ actingRegs := by
    rw [hbase]
    decide
  simp only [actingRegs, List.mem_cons, List.not_mem_nil, or_false, not_or] at hother
  have hclosed : w.row.base = R.MQ_STATUS ∧ (!s.mqSends (w.d % 0x1000 / 0x800) w.src) = true ∧
      (!s.mqReceives (w.d % 0x1000 / 0x800) w.src) = true := ⟨hbase, by rw [hs]; rfl, by rw [hr]; rfl⟩
  simp only [State.writeReg, State.writeFault, State.writeFabric, State.writeMail, hother, if_pos hclosed, or_self, if_false]

theorem exec_csrWrite {src : Party} {o : BitVec 32} {wide : Bool} {v : Word} {k : Fin 4} (hup : s.partyUp src = true) :
    exec (.csrWrite src o wide v k) s = .next (s.csrWrite src o.toNat (if wide then 8 else 4) v k).2 :=
  congrArg Host.Outcome.next (if_pos hup)

theorem csrWrite_of_ok {src : Party} {v : Word} {k : Nat} (h : s.regAt off size = .ok r) :
    s.csrWrite src off size v k = s.writeReg ⟨src, r, off - off % 8, placed off size v, laneBits off size, k⟩ := by
  unfold State.csrWrite
  rw [h]

theorem csrWrite_of_error {src : Party} {v : Word} {k c : Nat} (h : s.regAt off size = .error c) :
    s.csrWrite src off size v k = (c, s.csrFault (partySource src) off c) := by
  unfold State.csrWrite
  rw [h]

end

/-- Settles O33: a party that may send accesses reaches the row of its offset, and where no rule acts on the row its fields take the
write bit by bit. -/
theorem registerWrites : Obligations.RegisterWrites := by
  unfold Obligations.RegisterWrites
  intro s src off wide v recheck c o size dir
  have mailDir : ∀ {r : RegRow} {a : Nat} {x m : Word} {k : Nat}, r.base = R.MQ_STATUS →
      (⟨src, r, a, x, m, k⟩ : RegWrite).d = a - R.MQ_STATUS := fun hb => congrArg (_ - ·) hb
  refine ⟨fun hdown n j r k p d w x a b on i hi => ?_, fun hup => ⟨fun r hr hmail hact => ?_, fun hhole => ?_, fun r hr hbase hs hrx => ?_,
    fun hrst => ?_⟩⟩
  · have hno : ¬ s.partyUp src = true := by
      rw [hdown]
      decide
    fin_cases hi <;> exact congrArg Host.Outcome.next (if_neg hno)
  · obtain ⟨-, hoff, hrow⟩ := regAt_ok hr
    have hwrite : s.csrWrite src o size v recheck = (0, s.plain ⟨src, r, o - o % 8, placed o size v, laneBits o size, recheck⟩) :=
      (csrWrite_of_ok hr).trans (writeReg_plain hact fun hb => by
        rw [mailDir hb]
        exact hmail hb)
    refine ⟨plainWrite r (s.csrGet (o - o % 8)) (placed o size v) (laneBits o size), ?_, fun i hi => ?_⟩
    · exact (exec_csrWrite hup).trans (congrArg (fun x : Nat × State => Host.Outcome.next x.2) hwrite)
    · intro covered bit inField
      rw [plainWrite_getLsbD hrow _ _ _ hi, laneBits_getLsbD hoff hi]
      by_cases hcov : covered = true
      · rw [placed_getLsbD v hoff hi hcov]
      · rw [show (wide || i / 32 == o % 8 / 4) = false from Bool.eq_false_iff.mpr hcov,
          show covered = false from Bool.eq_false_iff.mpr hcov]
        rfl
  · refine (exec_csrWrite hup).trans ?_
    rw [csrWrite_of_error hhole]
    rfl
  · have hwrite : s.csrWrite src o size v recheck = (7, s) :=
      (csrWrite_of_ok hr).trans (writeReg_mail_closed hbase (by rw [mailDir hbase]; exact hs) (by rw [mailDir hbase]; exact hrx))
    exact (exec_csrWrite hup).trans (congrArg (fun x : Nat × State => Host.Outcome.next x.2) hwrite)
  · refine (exec_csrWrite hup).trans ?_
    rw [csrWrite_of_error hrst]
    rfl

/-! ## Reads -/

theorem bucket_rows : (regMap.all fun r =>
    !([R.ECC_BUCKET, R.SP_BUCKET, R.IL_BUCKET].contains r.base) || accBits r (· == .rc) != 0) = true := by
  decide +kernel

section
variable {s : State} {off : Nat} {r : RegRow}

theorem and_laneBits_wide (x : Word) : x &&& laneBits off 8 = x := BitVec.and_allOnes

/-- A read of 8 bytes of a register that has no reader of its own. -/
theorem csrRead_of_ok (source : Nat) (src : Option Party) (h : s.regAt off 8 = .ok r) (hev : r.base ≠ R.EV_DATA) (htok : r.base ≠ R.TOKEN) :
    s.csrRead source src off 8 = (0, s.readReg r off (laneBits off 8)) := by
  obtain ⟨-, hoff, -⟩ := regAt_ok h
  have hshut : s.evShut r = false := by
    unfold State.evShut
    rw [beq_eq_false_iff_ne.mpr hev, Bool.false_and]
  have hbase : off - off % 8 = off := by rw [hoff, Nat.sub_zero]
  have hgive : (if off % 8 = 0 then (s.readReg r off (laneBits off 8)).1 &&& laneBits off 8
      else BitVec.ofNat 64 ((s.readReg r off (laneBits off 8)).1.toNat / 2 ^ 32)) = (s.readReg r off (laneBits off 8)).1 :=
    (if_pos hoff).trans (and_laneBits_wide _)
  unfold State.csrRead
  rw [h]
  dsimp only
  rw [hshut, if_neg Bool.false_ne_true, if_neg hev, hbase, hgive]
  cases src with
  | none => rfl
  | some p =>
    exact if_neg fun h => htok h.1

/-- The word of a register that shows itself. -/
theorem shown_eq (h : r.base ∉ [R.SB_STATUS, R.BOOT_BG, R.IL_RECOVERY, R.FENCE_TILES, R.TSENSE, R.PORT_CTL, R.DW_EVQ, R.RING_STATUS,
    R.TILE_DMA]) : s.shown r off = s.csrGet off := by
  simp only [List.mem_cons, List.not_mem_nil, or_false, not_or] at h
  simp only [State.shown, h, if_false]

theorem measured_eq (h : r.base ∉ [R.LN_STATUS, R.UCIE_STATUS]) (w : Word) : s.measured r off w = (w, s) := by
  simp only [List.mem_cons, List.not_mem_nil, or_false, not_or] at h
  simp only [State.measured, h, false_and, if_false]

/-- A read of 8 bytes of a register that shows its own word, up to what it leaves behind. -/
theorem csrRead_of_own (source : Nat) (src : Option Party) (h : s.regAt off 8 = .ok r)
    (hown : r.base ∉ [R.SB_STATUS, R.BOOT_BG, R.IL_RECOVERY, R.FENCE_TILES, R.EV_DATA, R.TSENSE, R.PORT_CTL, R.DW_EVQ, R.RING_STATUS,
      R.TILE_DMA, R.LN_STATUS, R.UCIE_STATUS, R.TOKEN]) :
    s.csrRead source src off 8 = (0, s.csrGet off &&& accBits r (· != .wo), s.afterRead r off (laneBits off 8)) := by
  have hshown : s.shown r off = s.csrGet off := shown_eq fun h => hown (List.subset_def.mp (by decide) h)
  have hmeasured := measured_eq (s := s) (off := off) (r := r) (fun h => hown (List.subset_def.mp (by decide) h)) (s.csrGet off)
  rw [csrRead_of_ok source src h (fun h => hown (by rw [h]; decide)) fun h => hown (by rw [h]; decide)]
  unfold State.readReg
  rw [hshown, hmeasured]

/-- What a read leaves in a register that holds no bucket. -/
theorem afterRead_plain (h : r.base ∉ [R.IL_BUCKET, R.ECC_BUCKET, R.SP_BUCKET]) :
    s.afterRead r off (laneBits off 8) =
      if accBits r (· == .rc) = 0 then s else s.csrPut off (s.csrGet off &&& ~~~accBits r (· == .rc)) := by
  simp only [List.mem_cons, List.not_mem_nil, or_false, not_or] at h
  simp only [State.afterRead, and_laneBits_wide, h, if_false]

theorem afterRead_of_rc (h : accBits r (· == .rc) ≠ 0) :
    s.afterRead r off (laneBits off 8) =
      let k := if r.base = R.IL_BUCKET then accBits r (· == .rc) ||| BitVec.ofNat 64 (2 ^ 32) else accBits r (· == .rc)
      let t := if r.base = R.ECC_BUCKET then { s with ceFull := vput s.ceFull ((off - r.base) / 0x1000000) false }
        else if r.base = R.SP_BUCKET then { s with ceFull := vput s.ceFull (8 + (off - r.base) / 0x10000000) false }
        else if r.base = R.IL_BUCKET then s.noteRead ((off - r.base) / 8) else s
      t.csrPut off (t.csrGet off &&& ~~~k) := by
  unfold State.afterRead
  rw [and_laneBits_wide]
  exact if_neg h

theorem bucket_rc (h : s.regAt off 8 = .ok r) (hb : r.base ∈ [R.ECC_BUCKET, R.SP_BUCKET, R.IL_BUCKET]) : accBits r (· == .rc) ≠ 0 := by
  obtain ⟨-, -, hrow⟩ := regAt_ok h
  have hall := List.all_eq_true.mp bucket_rows r hrow
  rw [List.contains_iff_mem.mpr hb, Bool.not_true, Bool.false_or] at hall
  exact bne_iff_ne.mp hall

end

/-- Settles O34: a read gives the register's own word, and what it leaves behind depends on the row: nothing, RC fields at 0, or a bucket
that starts anew. -/
theorem registerReads : Obligations.RegisterReads := by
  unfold Obligations.RegisterReads
  intro s source off src r hr
  refine ⟨fun hown => ?_, fun hbase => ?_, fun hbase => ?_⟩
  · intro held rc
    rw [csrRead_of_own source src hr fun h => hown (List.subset_def.mp (by decide) h),
      afterRead_plain fun h => hown (List.subset_def.mp (by decide) h)]
    exact ⟨rfl, rfl, fun h => if_pos h, fun h => if_neg h⟩
  · intro slot
    have hrc := bucket_rc hr (by rcases hbase with h | h <;> rw [h] <;> decide)
    rw [csrRead_of_own source src hr (by rcases hbase with h | h <;> rw [h] <;> decide)]
    refine ⟨rfl, rfl, ?_⟩
    rw [afterRead_of_rc hrc]
    rcases hbase with h | h
    · simp only [slot]
      rw [if_pos h, if_pos h, if_neg (by rw [h]; decide)]
      rfl
    · simp only [slot]
      rw [if_neg (by rw [h]; decide), if_pos h, if_neg (by rw [h]; decide), if_neg (by rw [h]; decide)]
      rfl
  · have hrc := bucket_rc hr (by rw [hbase]; decide)
    rw [csrRead_of_own source src hr (by rw [hbase]; decide)]
    refine ⟨rfl, rfl, ?_⟩
    rw [afterRead_of_rc hrc, if_pos hbase, if_neg (by rw [hbase]; decide), if_neg (by rw [hbase]; decide), if_pos hbase]
    rfl

end Sys2Proof.Machine
end

section
/-! PROOFS. Requests on the control lane (R191, R192, R196 to R200, R211, R212). -/

namespace Sys2Proof.Machine

section
variable {s r t : State} {f : FlitIn} {k : Nat} {body : State → RxMsg → State}

theorem clRow_of_none (hrx : s.rxFlit 0 f (· == k) = (true, r)) (hg : r.gather f = (none, t)) : s.clRow f k body = t.pump := by
  unfold State.clRow
  rw [hrx]
  dsimp only
  rw [hg]

theorem clRow_of_some {m : RxMsg} (hrx : s.rxFlit 0 f (· == k) = (true, r)) (hg : r.gather f = (some m, t)) :
    s.clRow f k body = (body t m).pump := by
  unfold State.clRow
  rw [hrx]
  dsimp only
  rw [hg]

theorem darkens_eq_true {off : Nat} {v : Word} (hoff : off = R.DW_CTL) (hv : v.getLsbD 0 = false) : darkens off v = true := by
  unfold darkens
  rw [hv, beq_iff_eq.mpr hoff]
  rfl

theorem darkens_eq_false {off : Nat} {v : Word} (h : off ≠ R.DW_CTL ∨ v.getLsbD 0 = true) : darkens off v = false := by
  unfold darkens
  rcases h with h | h
  · rw [beq_eq_false_iff_ne.mpr h, Bool.false_and]
  · rw [h, Bool.not_true, Bool.and_false]

end

/-- Settles O35: a message that goes on only waits, and a whole one takes one branch of its row. -/
theorem dwenteRequests : Obligations.DwenteRequests := by
  unfold Obligations.DwenteRequests
  intro f s r t m answer v
  refine ⟨fun k c hrow hrx hg => ?_, fun hg => ⟨fun hrx => ⟨?_, fun hbad => ?_⟩, fun hrx => ⟨?_, fun hbad => ?_⟩, fun hrx => ?_,
    fun hrx hone hring hlen => ?_, fun hrx => ⟨?_, fun hbad => ?_⟩⟩⟩
  · simp only [List.mem_cons, Prod.mk.injEq, List.not_mem_nil, or_false] at hrow
    rcases hrow with ⟨rfl, rfl⟩ | ⟨rfl, rfl⟩ | ⟨rfl, rfl⟩ | ⟨rfl, rfl⟩ | ⟨rfl, rfl⟩ <;>
      exact congrArg Host.Outcome.next (clRow_of_none hrx hg)
  · intro hone hlen hsize hplace c w u hread
    refine congrArg Host.Outcome.next ((clRow_of_some hrx hg).trans (congrArg State.pump ?_))
    rw [if_neg (by omega), if_neg hplace, hread]
    rfl
  · exact congrArg Host.Outcome.next ((clRow_of_some hrx hg).trans (congrArg State.pump (if_pos hbad)))
  · intro hone hlen hsize hplace c u hwrite
    have hshape : ¬ (m.flits ≠ 1 ∨ fLen f ≠ 24 ∨ (csrSize f ≠ 4 ∧ csrSize f ≠ 8)) := by omega
    refine ⟨fun hlight => ?_, fun hoff hv => ?_⟩
    · refine congrArg Host.Outcome.next ((clRow_of_some hrx hg).trans (congrArg State.pump ?_))
      rw [if_neg hshape, if_neg hplace]
      dsimp only
      rw [hwrite, if_neg (by rw [darkens_eq_false hlight]; decide)]
      rfl
    · refine congrArg Host.Outcome.next ((clRow_of_some hrx hg).trans (congrArg State.pump ?_))
      rw [if_neg hshape, if_neg hplace]
      dsimp only
      rw [hwrite, if_pos (darkens_eq_true hoff hv)]
      rfl
  · exact congrArg Host.Outcome.next ((clRow_of_some hrx hg).trans (congrArg State.pump (if_pos hbad)))
  · intro n k hone hn hlo hhi hlen
    have hshape : ¬ (m.flits ≠ 1 ∨ 7 < n ∨ k = 0 ∨ 5 < k ∨ fLen f < 8 + 8 * k) := by omega
    refine ⟨fun hw => ?_, fun hw => ?_⟩
    · exact congrArg Host.Outcome.next ((clRow_of_some hrx hg).trans
        (congrArg State.pump ((if_neg hshape).trans (if_neg (by rw [hw]; decide)))))
    · exact congrArg Host.Outcome.next ((clRow_of_some hrx hg).trans (congrArg State.pump ((if_neg hshape).trans (if_pos hw))))
  · have hshape : ¬ (m.flits ≠ 1 ∨ 63 < bodyNat f 0 1 ∨ fLen f < 8) := by omega
    refine congrArg Host.Outcome.next ((clRow_of_some hrx hg).trans ?_)
    dsimp only
    rw [if_neg hshape, apply_ite State.pump]
    rfl
  · intro hone hlen hlo hhi c y e l u hread
    have hshape : ¬ (m.flits ≠ 1 ∨ fLen f ≠ 10 ∨ bodyNat f 8 2 = 0 ∨ 4096 < bodyNat f 8 2) := by omega
    refine congrArg Host.Outcome.next ((clRow_of_some hrx hg).trans (congrArg State.pump ?_))
    dsimp only
    rw [if_neg hshape, hread]
  · exact congrArg Host.Outcome.next ((clRow_of_some hrx hg).trans (congrArg State.pump (if_pos hbad)))

end Sys2Proof.Machine
end

section
/-! PROOFS. The ring commands (R216, R220 to R226, R230, R237 to R239). -/

namespace Sys2Proof.Machine

/-! ## What a row does with the head of its ring -/

section
variable {s t u : State} {r : Fin 64} {op : Nat} {w : List Nat} {mine : Nat → Bool} {body : State → List Nat → CmdWait × State}

/-- A head that the gate lets run: its row's body says what the ring then waits for. -/
theorem startRow_of_head {x : CmdWait} (h : StartsHead s t r op w) (hmine : mine op = true) (hbody : body t w = (x, u)) :
    s.startRow r mine body = u.noteWait r x := by
  obtain ⟨idx, hhead, ht⟩ := h.head
  unfold State.startRow
  rw [if_neg (not_not.mpr h.pick), hhead]
  dsimp only
  rw [Option.getD_some, Option.isSome_some, if_pos rfl, h.op_eq, if_neg (by rw [hmine]; decide), h.gate, ← ht]
  dsimp only
  rw [hbody]

/-- A head that the gate fails completes with the gate's status, once claimed. -/
theorem startRow_of_fail {idx code : Nat} (hpick : s.pick = some r.val) (hhead : s.ringHead r = some (idx, some w)) (hop : eOp w = op)
    (hgate : s.gate r (some w) = .fail code) (hmine : mine op = true) :
    s.startRow r mine body =
      ((if s.periodic r then s else (s.readEntry r idx).2).claim r idx w).noteWait r (.done code 0 0) := by
  unfold State.startRow
  rw [if_neg (not_not.mpr hpick), hhead]
  dsimp only
  rw [Option.getD_some, Option.isSome_some, if_pos rfl, hop, if_neg (by rw [hmine]; decide), hgate]

end

/-! ## Parts of the commands -/

theorem foldl_job (f : State → Nat → State) (hf : ∀ u i, (f u i).job = u.job) (l : List Nat) (s : State) :
    (l.foldl f s).job = s.job := by
  induction l generalizing s with
  | nil => rfl
  | cons i l ih => exact (ih _).trans (hf s i)

/-- A job that is set up is the descriptor's, with its groups (R220). -/
theorem launchJob_job (s : State) (l : List Byte) : (s.launchJob l).job =
    { Job.ofBytes l with groups := (slices 32 256 (l.drop 0x280)).map fun b => (leAt b 0 16, leAt b 16 1) } := by
  have hestate : ∀ (u : State) v, (u.setEstate v).job = u.job := fun _ _ => rfl
  unfold State.launchJob
  dsimp only
  rw [hestate, State.setFlag_job, State.fset_job, State.fset_job]
  refine (foldl_job _ ?_ _ _).trans rfl
  exact fun u i => rfl

theorem wePostWrite_csrGet {s : State} {n k : Nat} {d : List Nat} (hs : twf csrDflt s.csr = true) (hk : k < 32) :
    (s.wePostWrite n d).csrGet (R.WE_POST + mdOff n + 8 * k) = BitVec.ofNat 64 (dWord d k) := by
  have fold : ∀ m, let t := (List.range m).foldl (fun s k => s.csrPut (R.WE_POST + mdOff n + 8 * k) (BitVec.ofNat 64 (dWord d k))) s
      twf csrDflt t.csr = true ∧ ∀ j < m, t.csrGet (R.WE_POST + mdOff n + 8 * j) = BitVec.ofNat 64 (dWord d j) := by
    intro m
    induction m with
    | zero => exact ⟨hs, fun j hj => absurd hj (Nat.not_lt_zero j)⟩
    | succ m ih =>
      obtain ⟨hwf, hget⟩ := ih
      rw [List.range_succ, List.foldl_append]
      refine ⟨twf_tset hwf _ _, fun j hj => ?_⟩
      by_cases hjm : j = m
      · subst hjm
        exact State.csrGet_csrPut_self hwf _ _
      · exact (State.csrGet_csrPut_ne (by omega) _).trans (hget j (by omega))
  exact (fold 32).2 k hk

/-- Settles O36: with the head claimed, each row's body takes one branch. -/
theorem ringCommands : Obligations.RingCommands := by
  unfold Obligations.RingCommands
  intro r s t w ends
  refine ⟨fun h => ?_, fun l u h hfree halign hmain hread => ⟨fun hbad => ?_, fun hbad hshunt hmany => ?_, fun hbad hok => ⟨?_, ?_⟩⟩,
    fun h hactive => ?_, fun h => ?_, fun l u code v h hread hload => ?_, fun h => ?_, fun l u h hsend => ?_, ?_,
    fun code v h hstart => ⟨fun hcode => ?_, fun hcode => ?_⟩, fun h => ?_, fun h => ?_⟩
  · exact congrArg Host.Outcome.next (startRow_of_head h rfl rfl)
  · refine congrArg Host.Outcome.next (startRow_of_head h rfl ?_)
    rw [if_neg (by rw [hfree]; decide), if_neg (by rw [halign, hmain]; decide), hread]
    exact if_pos hbad
  · refine congrArg Host.Outcome.next (startRow_of_head h rfl ?_)
    rw [if_neg (by rw [hfree]; decide), if_neg (by rw [halign, hmain]; decide), hread]
    exact (if_neg (by rw [hbad]; decide)).trans (if_pos ⟨hmany, hshunt⟩)
  · refine congrArg Host.Outcome.next (startRow_of_head h rfl ?_)
    rw [if_neg (by rw [hfree]; decide), if_neg (by rw [halign, hmain]; decide), hread]
    refine (if_neg (by rw [hbad]; decide)).trans (if_neg ?_)
    rintro ⟨hmany, hshunt⟩
    rcases hok with hno | hone
    · rw [hno] at hshunt
      cases hshunt
    · omega
  · rw [launchJob_job]
    exact ⟨rfl, rfl, rfl, rfl, rfl⟩
  · exact congrArg Host.Outcome.next (startRow_of_head h rfl (if_pos hactive))
  · exact congrArg Host.Outcome.next (startRow_of_head h rfl rfl)
  · refine congrArg Host.Outcome.next (startRow_of_head h rfl ?_)
    rw [hread]
    dsimp only
    rw [hload]
    rfl
  · exact congrArg Host.Outcome.next (startRow_of_head h rfl rfl)
  · refine congrArg Host.Outcome.next (startRow_of_head h rfl ?_)
    rw [hsend]
  · intro l u code v h hread n seq d hpost
    refine ⟨fun k hk hu => wePostWrite_csrGet hu.csr hk, fun hcode => ?_, fun hcode => ?_⟩
    · refine congrArg Host.Outcome.next (startRow_of_head h rfl ?_)
      rw [hread]
      dsimp only
      rw [show (u.wePostWrite (ew w 2) d).wePost (ew w 2) (u.rflag r R.RING_CFG_JOB) d = (code, v) from hpost]
      exact if_pos hcode
    · refine congrArg Host.Outcome.next (startRow_of_head h rfl ?_)
      rw [hread]
      dsimp only
      rw [show (u.wePostWrite (ew w 2) d).wePost (ew w 2) (u.rflag r R.RING_CFG_JOB) d = (code, v) from hpost]
      exact if_neg (not_not.mpr hcode)
  · refine congrArg Host.Outcome.next (startRow_of_head h rfl ?_)
    dsimp only
    rw [hstart]
    exact if_pos hcode
  · refine congrArg Host.Outcome.next (startRow_of_head h rfl ?_)
    dsimp only
    rw [hstart]
    exact if_neg (not_not.mpr hcode)
  · exact congrArg Host.Outcome.next (startRow_of_head h rfl rfl)
  · exact congrArg Host.Outcome.next (startRow_of_head h rfl rfl)

end Sys2Proof.Machine
end

section
/-! PROOFS. The ring commands on regions, epochs and windows (R226, R230, R237 to R239). -/

namespace Sys2Proof.Machine

/-- Settles O37: with the head claimed, each row's body takes one branch; a head that the gate fails completes with its status. -/
theorem regionEpochWindowCommands : Obligations.RegionEpochWindowCommands := by
  unfold Obligations.RegionEpochWindowCommands
  intro r s t w ends i k
  have hbit : ∀ {x : Nat}, x = 0 → ¬ x = 1 := fun h => by rw [h]; decide
  refine ⟨fun h => ⟨fun hset hok => ?_, fun hset hbad => ?_, fun hclear hheld => ?_⟩, fun h hopen => ?_, fun h hopen => ?_,
    fun h => ⟨fun hvoted => ?_, fun hvoted hrank hcommit => ?_, fun hvoted hrank habort => ?_⟩,
    fun h hk => ⟨fun hclear => ?_, ?_⟩, fun v g l u h hwin hreg hread => ?_, fun op c idx code hpick hhead hop hgate hrow => ?_⟩
  · refine congrArg Host.Outcome.next (startRow_of_head h rfl ?_)
    exact (if_neg (hbit hset)).trans (if_neg (by rw [hok]; decide))
  · exact congrArg Host.Outcome.next (startRow_of_head h rfl ((if_neg (hbit hset)).trans (if_pos hbad)))
  · refine congrArg Host.Outcome.next (startRow_of_head h rfl ((if_pos hclear).trans (if_pos ?_)))
    exact Option.isSome_iff_ne_none.mpr hheld
  · exact congrArg Host.Outcome.next (startRow_of_head h rfl (if_neg (not_not.mpr hopen)))
  · exact congrArg Host.Outcome.next (startRow_of_head h rfl (if_neg (not_not.mpr hopen)))
  · exact congrArg Host.Outcome.next (startRow_of_head h rfl (if_pos hvoted))
  · refine congrArg Host.Outcome.next (startRow_of_head h rfl ?_)
    exact (if_neg (not_not.mpr hvoted)).trans ((if_neg hrank).trans (if_pos (beq_iff_eq.mpr hcommit)))
  · refine congrArg Host.Outcome.next (startRow_of_head h rfl ?_)
    exact (if_neg (not_not.mpr hvoted)).trans ((if_neg hrank).trans (if_neg fun h => hbit habort (beq_iff_eq.mp h)))
  · exact congrArg Host.Outcome.next (startRow_of_head h rfl ((if_neg (Nat.not_le.mpr hk)).trans (if_pos hclear)))
  · intro g hset hreg off len hlo hhi hfits
    refine congrArg Host.Outcome.next (startRow_of_head h rfl ((if_neg (Nat.not_le.mpr hk)).trans ((if_neg (hbit hset)).trans ?_)))
    rw [hreg]
    exact if_neg (by omega)
  · refine congrArg Host.Outcome.next (startRow_of_head h rfl ?_)
    dsimp only
    rw [show tget winDflt t.windows (ew w 1 % 1024) = some v from hwin]
    dsimp only
    rw [hreg]
    dsimp only
    rw [hread]
  · simp only [List.mem_cons, Prod.mk.injEq, List.not_mem_nil, or_false] at hrow
    rcases hrow with ⟨rfl, rfl⟩ | ⟨rfl, rfl⟩ | ⟨rfl, rfl⟩ | ⟨rfl, rfl⟩ | ⟨rfl, rfl⟩ | ⟨rfl, rfl⟩ | ⟨rfl, rfl⟩ | ⟨rfl, rfl⟩ |
      ⟨rfl, rfl⟩ | ⟨rfl, rfl⟩ | ⟨rfl, rfl⟩ | ⟨rfl, rfl⟩ | ⟨rfl, rfl⟩ | ⟨rfl, rfl⟩ | ⟨rfl, rfl⟩ | ⟨rfl, rfl⟩ <;>
      exact congrArg Host.Outcome.next (startRow_of_fail hpick hhead hop hgate rfl)

end Sys2Proof.Machine
end

section
/-! PROOFS. Completions, releases and the ring registers (R213, R214, R217, R222, R223, R235, R243). -/

namespace Sys2Proof.Machine

section
variable {s : State} {r : Nat}

/-- A command of no epoch that ends on a ring that is not periodic writes words 6 and 7 and advances DONE_IDX. -/
theorem finish_plain {u : RingRun} {code detail event : Nat} {t v : State} (hclosed : u.closed = false) (hepoch : u.epoch = 0)
    (hquiet : nbit (ew u.words 0) 48 = 0) (hcode : code ≠ 0x0901)
    (ht : t = (s.memWrite s.rcSource (s.entryAddr r u.idx + 48) (leBytes 4 detail ++ [0, 0] ++ leBytes 2 code ++ leBytes 8 s.rtime)).2)
    (hv : v = (t.setRing r { t.ring r with run := none }).recPut r none) (hper : v.periodic r = false) (hcur : (v.ring r).cur = none) :
    s.finish r u code detail event = v.fset (R.RING_IDX_DONE_IDX.at (ringOff r)) (u.idx + 1) := by
  have hcode' : (if u.closed = true then 0x0909 else code) = code := if_neg (by rw [hclosed]; decide)
  have hcur' : ((v.fset (R.RING_IDX_DONE_IDX.at (ringOff r)) (u.idx + 1)).ring r).cur = none := hcur
  unfold State.finish
  dsimp only
  rw [hcode', ← ht, ← hv, hper, if_neg Bool.false_ne_true, if_neg hcode, if_neg (by rw [hquiet]; decide),
    if_neg fun h => h.1 hepoch, hcur']

/-- A write of `RING_CFG` of a ring that is not enabled. -/
theorem writeRingCfg_of_off {v : Nat} (hoff : s.rflag r R.RING_CFG_EN = false) :
    s.writeRingCfg r v =
      let reg := (s.csrGet (R.RING_CFG + ringOff r)).toNat
      let size := nbits v 24 20
      let reserved := size < 4 ∨ 16 < size
      let x := if reserved then v - size * 2 ^ 20 + nbits reg 24 20 * 2 ^ 20 else v
      let u := if reserved then s.cfgErr r else s
      let t := u.csrPut (R.RING_CFG + ringOff r) (BitVec.ofNat 64 ((x &&& 0x1FF0002) + reg % 2))
      if nbit x 0 = 0 then (t.fset (R.RING_CFG_EN.at (ringOff r)) 0).setRing r { t.ring r with cur := none, queued := [] }
      else if t.ringOk r then (t.fset (R.RING_CFG_EN.at (ringOff r)) 1).ringStart r
      else t.cfgErr r := by
  unfold State.writeRingCfg
  dsimp only
  rw [hoff, if_neg fun h => Bool.false_ne_true h.1, if_neg Bool.false_ne_true]
  by_cases hres : nbits v 24 20 < 4 ∨ 16 < nbits v 24 20
  · rw [decide_eq_true hres, if_pos hres, if_pos hres]
    rfl
  · rw [decide_eq_false hres, if_neg hres, if_neg hres]
    rfl

end

/-- Settles O38: each row takes one branch of its definition. -/
theorem ringCompletion : Obligations.RingCompletion := by
  unfold Obligations.RingCompletion
  intro r src s at_
  refine ⟨?_, fun u hrun hserves hover => ?_, fun hserves hstate hdone => ?_, ?_, fun v hreach => ?_, fun v hreach hidle => ?_,
    fun v hreach hoff => ?_⟩
  · intro u code detail event hrun hwait hserves hop hclosed hepoch hquiet hcode _ t v hper hcur
    have hexec : exec (.commandComplete r) s = execCommandComplete r s := rfl
    have hover : s.waitOver r u = true := by
      unfold State.waitOver
      rw [hwait]
    have hcomplete : s.complete r u = s.finish r u code detail event := by
      unfold State.complete
      rw [hwait]
      exact if_neg fun h => hop h.1
    rw [hexec, execCommandComplete, hrun]
    dsimp only
    rw [if_pos ⟨hserves, hover⟩, hcomplete, finish_plain hclosed hepoch hquiet hcode rfl rfl hper hcur]
  · have hexec : exec (.commandComplete r) s = execCommandComplete r s := rfl
    rw [hexec, execCommandComplete, hrun]
    exact congrArg Host.Outcome.next (if_pos ⟨hserves, hover⟩)
  · refine congrArg Host.Outcome.next (if_pos ⟨hserves, hstate, ?_⟩)
    rcases hdone with hidle | hdrained
    · refine .inr (List.all_eq_true.mpr fun q hq => ?_)
      rw [hidle q (List.mem_range.mp hq)]
    · exact .inl hdrained
  · intro hserves hen hper hstop hdue k t e
    have hon : ¬ ((!s.rcServes) = true ∨ (!s.rflag r R.RING_CFG_EN) = true ∨ (!s.periodic r) = true ∨ s.ringStopped r = true ∨
        s.rtime < s.releaseAt r (s.ring r).nextK) := by
      rw [hserves, hen, hper, hstop]
      simpa using hdue
    have hexec : exec (.periodRelease r) s = .next (e.2.batchIn r k e.1) := congrArg Host.Outcome.next (if_neg hon)
    refine ⟨fun l hl => ?_, fun hl => ?_⟩ <;> rw [hexec, hl]
    · rfl
    · rfl
  · exact congrArg Host.Outcome.next (hreach.byParty_regCmd _)
  · refine congrArg Host.Outcome.next ((hreach.byParty_regCmd _).trans (if_neg ?_))
    rintro ⟨hen, hrun⟩
    rcases hidle with h | h
    · rw [h] at hen
      cases hen
    · rw [h] at hrun
      cases hrun
  · exact congrArg Host.Outcome.next ((hreach.byParty_regCmd _).trans (writeRingCfg_of_off hoff))

end Sys2Proof.Machine
end

section
/-! PROOFS. The epoch barrier (R230 to R237). -/

namespace Sys2Proof.Machine

section
variable {s t : State} {type : Nat} {coord : Bool} {m : BarMsg} {body : State → BarMsg → State}

theorem barRow_of_takes (h : TakesBarrier s t type coord m) : s.barRow type coord body = body t m := by
  obtain ⟨l, hfirst, rfl⟩ := h.first
  have hmine : ¬ (({ s with barInbox := l } : State).barStray m = true ∨ coord ≠ (({ s with barInbox := l } : State).job.rank == 0)) := by
    rintro (hstray | hrole)
    · exact Bool.false_ne_true (h.mine.symm.trans hstray)
    · exact hrole h.role
  unfold State.barRow
  rw [if_neg (by rw [h.serves]; decide), hfirst]
  exact if_neg hmine

theorem barRow_of_stray {l : List BarMsg} (hserves : s.rcServes = true) (hfirst : takeBar type s.barInbox = some (m, l))
    (hstray : ({ s with barInbox := l } : State).barStray m = true ∨ coord ≠ (s.job.rank == 0)) :
    s.barRow type coord body = ({ s with barInbox := l } : State).bump R.EPOCH_STRAY_STRAY R.EPOCH_STRAY_STRAY_OVF 1 := by
  unfold State.barRow
  rw [if_neg (by rw [hserves]; decide), hfirst]
  exact if_pos hstray

end

section
variable {t : State}

/-- A vote on a decided attempt is answered with the decision. -/
theorem onVote_of_decided {d : Decision} {abort : Bool} {rank cause : Nat} (hd : t.epoch.record t.openE t.attempt = some d)
    (hrank : rank ≠ t.job.rank) : t.onVote abort rank cause = t.tell rank d := by
  unfold State.onVote
  rw [hd]
  exact if_neg hrank

theorem onVote_done {rank : Nat} (hopen : t.epoch.record t.openE t.attempt = none) (hkept : t.epoch.votesLost = false) :
    t.onVote false rank 0 =
      let u := t.epMod fun x => { x with
        doneMask := if x.doneMask.contains rank then x.doneMask else x.doneMask ++ [rank], anyVote := true }
      if u.job.members ≤ u.epoch.doneMask.length then u.decide_ true 0 0 else u := by
  unfold State.onVote
  rw [hopen, hkept]
  rfl

theorem onVote_abort {rank cause : Nat} (hopen : t.epoch.record t.openE t.attempt = none) :
    t.onVote true rank cause = t.decide_ false cause rank := by
  unfold State.onVote
  rw [hopen]
  rfl

theorem onQuery_of_committed {e a rank : Nat} (he : e ≤ t.epochC) (hrank : rank ≠ t.job.rank) :
    t.onQuery e a rank = t.tell rank ⟨e, a, true, 0, 0⟩ := (if_pos he).trans (if_neg hrank)

/-- A query on an attempt of which no vote is held decides the presumed abort (R236). -/
theorem onQuery_of_unvoted {e a rank : Nat} (he : t.epochC < e) (hopen : t.epoch.record e a = none) (hvotes : t.epoch.doneMask = []) :
    t.onQuery e a rank = t.decide_ false 0x0910 rank := by
  unfold State.onQuery
  dsimp only
  rw [if_neg (Nat.not_le.mpr he), hopen, hvotes]
  rfl

end

/-- Settles O39: a message taken runs its row's body, and each body and each timer takes one branch. -/
theorem epochBarrier : Obligations.EpochBarrier := by
  unfold Obligations.EpochBarrier
  refine ⟨fun s t m => ⟨fun h => ⟨fun d hd hrank => ?_, fun hopen hkept => ?_⟩, fun h hopen => ?_, fun h => ?_,
    fun h => ⟨fun hset => ?_, fun hset => ?_⟩, fun h hjob => ⟨fun he hrank => ?_, fun he hopen hvotes => ?_⟩, fun h => ?_, fun h => ?_,
    fun type coord c hrow l hserves hfirst hstray => ?_⟩, fun s hserves => ⟨fun hjob hrank hvote hopen => ?_, ?_,
    fun hjob hstate => ⟨fun hrank => ?_, fun hrank => ?_⟩, fun commit cause rank => ?_⟩⟩
  · exact congrArg Host.Outcome.next ((barRow_of_takes h).trans (onVote_of_decided hd hrank))
  · exact congrArg Host.Outcome.next ((barRow_of_takes h).trans (onVote_done hopen hkept))
  · exact congrArg Host.Outcome.next ((barRow_of_takes h).trans (onVote_abort hopen))
  · exact congrArg Host.Outcome.next (barRow_of_takes h)
  · refine congrArg Host.Outcome.next ((barRow_of_takes h).trans ?_)
    rw [if_pos hset]
  · refine ⟨t.draw.1.toNat % 65536, t.draw.2, rfl, congrArg Host.Outcome.next ((barRow_of_takes h).trans ?_)⟩
    rw [if_neg (by rw [hset]; decide)]
  · exact congrArg Host.Outcome.next ((if_pos hjob).trans ((barRow_of_takes h).trans (onQuery_of_committed he hrank)))
  · exact congrArg Host.Outcome.next ((if_pos hjob).trans ((barRow_of_takes h).trans (onQuery_of_unvoted he hopen hvotes)))
  · exact congrArg Host.Outcome.next (barRow_of_takes h)
  · exact congrArg Host.Outcome.next (barRow_of_takes h)
  · simp only [List.mem_cons, Prod.mk.injEq, List.not_mem_nil, or_false] at hrow
    rcases hrow with ⟨rfl, rfl, rfl⟩ | ⟨rfl, rfl, rfl⟩ | ⟨rfl, rfl, rfl⟩ | ⟨rfl, rfl, rfl⟩ | ⟨rfl, rfl, rfl⟩ | ⟨rfl, rfl, rfl⟩ <;>
      exact congrArg Host.Outcome.next (barRow_of_stray hserves hfirst hstray)
  · refine congrArg Host.Outcome.next (if_pos ⟨hserves, hjob, hrank, hvote, ?_⟩)
    rw [hopen]
    rfl
  · exact congrArg Host.Outcome.next (if_neg (by rw [hserves]; decide))
  · exact congrArg Host.Outcome.next ((if_pos ⟨hserves, hjob, hstate⟩).trans (if_neg hrank))
  · exact congrArg Host.Outcome.next ((if_pos ⟨hserves, hjob, hstate⟩).trans (if_pos hrank))
  · rfl

end Sys2Proof.Machine
end

section
/-! PROOFS. Mailboxes, doorbells, services and tokens (R246 to R263). -/

namespace Sys2Proof.Machine

section
variable {s : State} {src : Party} {off : Nat} {body : State → Nat × State}

theorem State.Reaches.byParty_regCmdSt (h : s.Reaches src off) :
    (s.byParty src fun s => (s.regCmdSt off body).2) = (body s).2 := by
  refine (if_pos h.1).trans ?_
  dsimp only [State.regCmdSt]
  rw [h.2]
  rfl

/-- An access whose register refuses it changes nothing, whether it reaches the register or not. -/
theorem byParty_regCmdSt_refused (h : (body s).2 = s) : (s.byParty src fun s => (s.regCmdSt off body).2) = s := by
  unfold State.byParty
  split
  · dsimp only [State.regCmdSt]
    split
    · exact h
    · rfl
  · rfl

end

/-! ## Messages -/

section
variable {s : State} {n dir : Nat} {src : Party}

theorem mqPush_of_sends (h : s.mqSends dir src = true) (w : Word) : (s.mqPush n dir src w).2 = s.mqPushWord n dir w :=
  congrArg Prod.snd (if_pos h)

theorem mqSend_of_sends (h : s.mqSends dir src = true) : (s.mqSend n dir src).2 =
    if s.mqWords n dir = 0 ∨ s.mqPending n dir = true ∨ s.flag (R.MQ_STATUS_PUSH_ERR.at (mqOff n dir)) = true
    then s.fset (R.MQ_STATUS_SEND_ERR.at (mqOff n dir)) 1 else s.mqSendOk n dir := by
  unfold State.mqSend
  dsimp only
  rw [if_neg (by rw [h]; decide), apply_ite Prod.snd]

theorem mqDiscard_of_sends (h : s.mqSends dir src = true) : (s.mqDiscard n dir src).2 = s.mqDrop n dir := congrArg Prod.snd (if_pos h)

theorem mqAck_of_receives {seq code : Nat} (h : s.mqReceives dir src = true) : (s.mqAck n dir src seq code).2 =
    if s.mqPending n dir = true ∧ seq = s.fget (R.MQ_STATUS_MSG_SEQ.at (mqOff n dir)) ∧ code < 0xFF00 then s.mqAcked n dir code
    else s.bump (R.MQ_EVENTS2_STALE_ACK.at (mqOff n dir)) (R.MQ_STATUS_STALE_OVF.at (mqOff n dir)) 1 := by
  unfold State.mqAck
  dsimp only
  rw [if_neg (by rw [h]; decide), apply_ite Prod.snd]

theorem mqPush_refused (h : s.mqSends dir src = false) (w : Word) : (s.mqPush n dir src w).2 = s :=
  congrArg Prod.snd (if_neg (by rw [h]; decide))

theorem mqSend_refused (h : s.mqSends dir src = false) : (s.mqSend n dir src).2 = s := congrArg Prod.snd (if_pos (by rw [h]; rfl))

theorem mqDiscard_refused (h : s.mqSends dir src = false) : (s.mqDiscard n dir src).2 = s :=
  congrArg Prod.snd (if_neg (by rw [h]; decide))

theorem mqAck_refused {seq code : Nat} (h : s.mqReceives dir src = false) : (s.mqAck n dir src seq code).2 = s :=
  congrArg Prod.snd (if_pos (by rw [h]; rfl))

/-- What an accepted acknowledge does, by direction (R249). -/
theorem mqAcked_eq (dir : Fin 2) (code : Nat) : s.mqAcked n dir code =
    let o := mqOff n dir
    let v := ((((s.mqEmpty n dir).fset (R.MQ_STATUS_PENDING.at o) 0).fset (R.MQ_STATUS_LAST_SEQ.at o)
      (((s.mqEmpty n dir).fset (R.MQ_STATUS_PENDING.at o) 0).fget (R.MQ_STATUS_MSG_SEQ.at o))).fset
      (R.MQ_STATUS_LAST_CODE.at o) code).fset (R.MQ_STATUS_ACKED.at o) 1
    if dir.val = 0 then v.ringDb (24 + n) else (v.ringDb (8 + n)).mqReply n := by
  fin_cases dir <;> rfl

end

/-- Settles O40: each register of a mailbox acts for its party alone, and each effect is one branch. -/
theorem mailboxCommands : Obligations.MailboxCommands := by
  unfold Obligations.MailboxCommands
  intro n dir src s o k ended
  refine ⟨fun w hreach hsend => ⟨fun hfree hroom => ?_, fun hfull => ?_⟩,
    fun hreach hsend => ⟨fun hwords hfree herr => ?_, fun hbad => ?_, fun hfree => ?_, fun hpend => ?_⟩,
    fun seq code hreach hrecv => ⟨fun hpend hseq hcode => ?_, fun hstale => ?_⟩, ?_, fun v hreach => ?_,
    fun hsend hrecv c w seq code hc => ?_⟩
  · refine congrArg Host.Outcome.next (hreach.byParty_regCmdSt.trans ((mqPush_of_sends hsend w).trans (if_neg ?_)))
    rintro (h | h)
    · exact Bool.false_ne_true (hfree.symm.trans h)
    · exact absurd hroom (Nat.not_lt.mpr h)
  · exact congrArg Host.Outcome.next (hreach.byParty_regCmdSt.trans ((mqPush_of_sends hsend w).trans (if_pos hfull)))
  · refine congrArg Host.Outcome.next (hreach.byParty_regCmdSt.trans ((mqSend_of_sends hsend).trans (if_neg ?_)))
    rintro (h | h | h)
    · exact absurd h (Nat.ne_of_gt hwords)
    · exact Bool.false_ne_true (hfree.symm.trans h)
    · exact Bool.false_ne_true (herr.symm.trans h)
  · exact congrArg Host.Outcome.next (hreach.byParty_regCmdSt.trans ((mqSend_of_sends hsend).trans (if_pos hbad)))
  · refine congrArg Host.Outcome.next (hreach.byParty_regCmdSt.trans ((mqDiscard_of_sends hsend).trans ?_))
    unfold State.mqDrop
    rw [hfree]
    rfl
  · refine congrArg Host.Outcome.next (hreach.byParty_regCmdSt.trans ((mqDiscard_of_sends hsend).trans ?_))
    unfold State.mqDrop
    rw [hpend]
    rfl
  · refine congrArg Host.Outcome.next (hreach.byParty_regCmdSt.trans ((mqAck_of_receives hrecv).trans ((if_pos ?_).trans ?_)))
    · exact ⟨hpend, hseq, hcode⟩
    · exact mqAcked_eq dir _
  · refine congrArg Host.Outcome.next (hreach.byParty_regCmdSt.trans ((mqAck_of_receives hrecv).trans (if_neg ?_)))
    rintro ⟨hpend, hseq, hcode⟩
    rcases hstale with h | h | h
    · exact Bool.false_ne_true (h.symm.trans hpend)
    · exact h hseq
    · exact absurd hcode (Nat.not_lt.mpr h)
  · intro hpend hw t
    exact congrArg Host.Outcome.next ((if_pos ⟨hpend, hw⟩).trans (mqAcked_eq dir _))
  · exact congrArg Host.Outcome.next (hreach.byParty_regCmd _)
  · simp only [List.mem_cons, List.not_mem_nil, or_false] at hc
    rcases hc with rfl | rfl | rfl | rfl
    · exact congrArg Host.Outcome.next (byParty_regCmdSt_refused (mqPush_refused hsend w))
    · exact congrArg Host.Outcome.next (byParty_regCmdSt_refused (mqSend_refused hsend))
    · exact congrArg Host.Outcome.next (byParty_regCmdSt_refused (mqDiscard_refused hsend))
    · exact congrArg Host.Outcome.next (byParty_regCmdSt_refused (mqAck_refused hrecv))

/-! ## Services and tokens -/

section
variable {s : State} {n : Nat}

theorem serve_of_mine {mine : Nat → Bool} {body : State → State} (hserves : s.rcServes = true) (hpend : s.mqPending n 0 = true)
    (hmine : mine (s.mqService n) = true) : s.serve n mine body = body s := if_pos ⟨hserves, hpend, hmine⟩

theorem serveListed_of_service {svc : Nat} {body : State → State} (hserves : s.rcServes = true) (hpend : s.mqPending n 0 = true)
    (hsvc : s.mqService n = svc) :
    s.serveListed n svc body = if s.mqBadArgs n = true then s.mqAcked n 0 0x0802 else body s :=
  serve_of_mine hserves hpend (beq_iff_eq.mpr hsvc)

/-- A held token shows its owner from the word that its taker leaves in it. -/
theorem token_word (src : Party) :
    getBits (BitVec.ofNat 64 (32 + partyCode src)) R.TOKEN_HELD.lo R.TOKEN_HELD.w = 1 ∧
      getBits (BitVec.ofNat 64 (32 + partyCode src)) R.TOKEN_OWNER.lo R.TOKEN_OWNER.w = partyCode src := by
  cases src <;> decide

end

/-- Settles O41: a service runs for its pending message, and a token goes to its reader and back from its owner. -/
theorem servicesAndTokens : Obligations.ServicesAndTokens := by
  unfold Obligations.ServicesAndTokens
  intro s
  refine ⟨fun n hserves hpend => ⟨fun hsvc hargs => ?_, fun hsvc hargs => ?_, fun hsvc hargs => ?_, fun hsvc => ⟨fun hres => ?_, fun hres => ?_⟩⟩,
    fun k src hreach => ?_, fun k src hreach => ?_⟩
  · refine congrArg Host.Outcome.next ((serveListed_of_service hserves hpend hsvc).trans (if_neg ?_))
    rw [hargs]
    decide
  · exact congrArg Host.Outcome.next ((serveListed_of_service hserves hpend hsvc).trans (if_pos hargs))
  · refine congrArg Host.Outcome.next ((serveListed_of_service hserves hpend hsvc).trans (if_neg ?_))
    rw [hargs]
    decide
  · have hmine : (s.mqService n == 0 || decide (4 < s.mqService n)) = true := by simpa using hsvc
    exact congrArg Host.Outcome.next ((serve_of_mine hserves hpend hmine).trans (if_pos hres))
  · have hmine : (s.mqService n == 0 || decide (4 < s.mqService n)) = true := by simpa using hsvc
    refine ⟨if s.draw.1.getLsbD 0 then 0x0801 else 0x0802, s.draw.2, rfl, ?_,
      congrArg Host.Outcome.next ((serve_of_mine hserves hpend hmine).trans (if_neg hres))⟩
    split
    · exact .inl rfl
    · exact .inr rfl
  · intro held owner
    have hexec : exec (.tokenTake k src) s =
        .next { (s.tokenTake src k).2 with rdata := vput (s.tokenTake src k).2.rdata (partyCode src - 1) (s.tokenTake src k).1 } :=
      congrArg Host.Outcome.next (hreach.byParty_regCmd _)
    have htake : ∀ b, held s = b → s.tokenTake src k = if b then (BitVec.ofNat 64 (32 + owner s), s) else
        (BitVec.ofNat 64 (128 + 64 * s.fget (R.TOKEN_BROKEN.at (8 * k.val)) + 32 + partyCode src),
          s.csrPut (R.TOKEN + 8 * k.val) (BitVec.ofNat 64 (32 + partyCode src))) := by
      rintro b rfl
      rfl
    refine ⟨fun hfree => ?_, fun hheld => ?_, fun t hcanon hfree ht => ?_⟩
    · rw [hexec, htake _ hfree]
      rfl
    · rw [hexec, htake _ hheld]
      rfl
    · rw [hexec, htake _ hfree] at ht
      injection ht with ht
      have hword : t.csrGet (R.TOKEN + 8 * k.val) = BitVec.ofNat 64 (32 + partyCode src) := by
        rw [← ht]
        exact State.csrGet_csrPut_self hcanon.csr _ _
      obtain ⟨hheld, howner⟩ := token_word src
      refine ⟨beq_iff_eq.mpr ?_, ?_⟩
      · exact (congrArg (getBits · R.TOKEN_HELD.lo R.TOKEN_HELD.w) hword).trans hheld
      · exact (congrArg (getBits · R.TOKEN_OWNER.lo R.TOKEN_OWNER.w) hword).trans howner
  · intro mine
    refine ⟨fun hmine => ?_, fun hother => ?_⟩
    · exact congrArg Host.Outcome.next (hreach.byParty_regCmdSt.trans (congrArg Prod.snd (if_pos hmine)))
    · exact congrArg Host.Outcome.next (hreach.byParty_regCmdSt.trans (congrArg Prod.snd (if_neg hother)))

end Sys2Proof.Machine
end

section
/-! PROOFS. The controller pair. -/

namespace Sys2Proof.Machine

section
variable {s : State}

/-- A controller whose accesses pass runs and is not cut off. -/
theorem State.Reaches.not_cut {src : Party} {x off : Nat} (h : s.Reaches src off) (hx : (src, x) ∈ [(Party.rcA, 0), (.rcB, 1)]) :
    s.rcCut x = false := by
  have hup := h.1
  simp only [List.mem_cons, Prod.mk.injEq, List.not_mem_nil, or_false] at hx
  rcases hx with ⟨rfl, rfl⟩ | ⟨rfl, rfl⟩ <;>
  · simp only [State.partyUp, Bool.and_eq_true, Bool.not_eq_true'] at hup
    exact hup.2

theorem beat_of_up {x : Nat} (hon : s.rcState x ≠ 0) (hcut : s.rcCut x = false) :
    s.beat x = ((s.wrap (if x = 0 then R.RC_STATUS_HB_A else R.RC_STATUS_HB_B)).pathBack x 0).judgePaths x :=
  if_neg (by simp [hon, hcut])

/-- What a check of the standby finds, by the state of the standby and what is reported of it. -/
theorem standbyCheck_eq (differ selfErr : Bool) : s.standbyCheck differ selfErr =
    (if s.rcState (1 - s.rcActive) ≠ 3 then 0x0803 else if selfErr then 0x0804 else if differ then 0x0804 else 0,
      if s.rcState (1 - s.rcActive) ≠ 3 then s else if selfErr then s.standbyFail (1 - s.rcActive) 3
      else if differ then s.standbyFail (1 - s.rcActive) 2 else s.standbyPass) := by
  unfold State.standbyCheck
  dsimp only
  split
  · rfl
  · cases selfErr <;> cases differ <;> rfl

/-- The self-test of a controller that no handover holds ends. -/
theorem exec_rcSelftestDone_of_free {rc : Fin 2} (passed : Bool) (hworks : s.dom.worksRst = false) (hst : s.rcState rc = 1)
    (hcut : s.rcCut rc = false) (hhand : s.fw.hand = none) : exec (.rcSelftestDone rc passed) s =
      .next (if passed then ((s.setRc rc 2).pickActive).judgePaths rc else (s.setRc rc 6).pickActive) := by
  have hexec : exec (.rcSelftestDone rc passed) s = _ := congrArg Host.Outcome.next (if_neg (by simp [hworks, hst, hcut]))
  rw [hexec, hhand]
  cases passed <;> rfl

/-- What a party's beat does to the count of its misses. -/
theorem fwBeat_of_watched {src : Party} {i : Nat} (h : (src, i) ∈ [(Party.rcA, 0), (.rcB, 1), (.signalBox, 2)]) :
    (s.fwBeat src).2 = s.fset (missFld i) 0 := by
  simp only [List.mem_cons, Prod.mk.injEq, List.not_mem_nil, or_false] at h
  rcases h with ⟨rfl, rfl⟩ | ⟨rfl, rfl⟩ | ⟨rfl, rfl⟩ <;> rfl

/-- A missed firmware beat of a party that is watched. -/
theorem exec_fwBeatMiss_of_watched {i : Fin 3} (h : s.watched i = true) : exec (.fwBeatMiss i) s =
    .next (if s.fget (missFld i) + 1 < 10 then s.fset (missFld i) (s.fget (missFld i) + 1)
      else
        let t := (s.fset (missFld i) 0).report (if i.val = 2 then sbSource else rcSrc i) .fwHang 10 0
        if i.val = 2 then (t.spoil 0).sbHang else if i.val = t.rcActive then t.spoil 1 else t) :=
  congrArg Host.Outcome.next (if_neg (by simp [h]))

end

/-- The cut-over of a handover that waits for its standby. -/
theorem exec_handoverSwitchover_of_ready {s : State} {h : Handover} (hhand : s.fw.hand = some h) (hst : s.rcState h.rc = 3)
    (hok : s.standbyOk = true) (hworks : s.dom.worksRst = false) (hsig : s.dom.signalRst = false) :
    exec .handoverSwitchover s = .next (
      if s.fwBlock (some 1) ≠ 0 then (s.odPut D.FW_RESULT (s.fwBlock (some 1))).dropHand (s.fwBlock (some 1))
      else if s.arithBusy (s.idle 1) then s.dropHandover
      else
        let k := s.idle 1
        let t := ((s.switchTo none).slotSt k 4).fwMod fun x => { x with hand := none, run := vput x.run 1 (k % 2) }
        (((t.syncArith.imageMeasured 1).trialStart 1).fwActivated 1 k)) := by
  show execHandoverSwitchover s = _
  unfold execHandoverSwitchover
  rw [hhand]
  exact congrArg Host.Outcome.next (if_neg (by simp [hst, hok, hworks, hsig]))

/-- Settles O42: each command of the controller pair, in the state that lets it act. -/
theorem controllerCommands : Obligations.ControllerCommands := by
  unfold Obligations.ControllerCommands
  intro s
  refine ⟨fun src x hreach hx hon _ => ?_, fun rc hworks => ⟨fun hsig hon hcut => ?_, fun path hon => ?_, fun hst hcut hhand => ?_,
      fun hst hother hact => ?_⟩,
    fun n differ selfErr hserves => ⟨?_, fun hpend hsvc hargs => ?_⟩, fun n hserves hpend hsvc hargs => ⟨fun hok => ?_, fun hok => ?_⟩,
    fun h hhand hst hok hworks hsig => ⟨fun hblock hbusy => ?_, fun hblock => ?_, fun hblock hbusy => ?_⟩, fun src i hreach hi => ?_,
    fun i hw => ⟨fun hk => ?_, fun hk hi => ?_, fun hk hi => ?_⟩⟩
  · have hbeat : (s.rcBeat src).2 = s.beat x := by
      simp only [List.mem_cons, Prod.mk.injEq, List.not_mem_nil, or_false] at hx
      rcases hx with ⟨rfl, rfl⟩ | ⟨rfl, rfl⟩ <;> rfl
    exact congrArg Host.Outcome.next ((hreach.byParty_regCmdSt.trans hbeat).trans (beat_of_up hon (hreach.not_cut hx)))
  · exact congrArg Host.Outcome.next (if_neg (by simp [hworks, hsig, hon, hcut]))
  · exact congrArg Host.Outcome.next (if_neg (by simp [hworks, hon]))
  · exact ⟨exec_rcSelftestDone_of_free true hworks hst hcut hhand, exec_rcSelftestDone_of_free false hworks hst hcut hhand⟩
  · exact congrArg Host.Outcome.next (if_neg (by simp [hworks, hst, hother, hact]))
  · exact congrArg Host.Outcome.next ((if_pos hserves).trans (congrArg Prod.snd (standbyCheck_eq differ selfErr)))
  · refine congrArg Host.Outcome.next ((serveListed_of_service hserves hpend hsvc).trans ((if_neg (by simp [hargs])).trans ?_))
    rw [standbyCheck_eq]
  · refine congrArg Host.Outcome.next ((serveListed_of_service hserves hpend hsvc).trans ((if_neg (by simp [hargs])).trans ?_))
    exact if_pos hok
  · refine congrArg Host.Outcome.next ((serveListed_of_service hserves hpend hsvc).trans ((if_neg (by simp [hargs])).trans ?_))
    exact if_neg (by simp [hok])
  · rw [exec_handoverSwitchover_of_ready hhand hst hok hworks hsig, if_neg (not_not.mpr hblock), if_neg (by simp [hbusy])]
  · rw [exec_handoverSwitchover_of_ready hhand hst hok hworks hsig, if_pos hblock]
  · rw [exec_handoverSwitchover_of_ready hhand hst hok hworks hsig, if_neg (not_not.mpr hblock), if_pos hbusy]
  · exact congrArg Host.Outcome.next (hreach.byParty_regCmdSt.trans (fwBeat_of_watched hi))
  · exact (exec_fwBeatMiss_of_watched hw).trans (congrArg Host.Outcome.next (if_pos hk))
  · exact (exec_fwBeatMiss_of_watched hw).trans (congrArg Host.Outcome.next ((if_neg (Nat.not_lt.mpr hk)).trans (if_pos hi)))
  · exact (exec_fwBeatMiss_of_watched hw).trans
      (congrArg Host.Outcome.next ((if_neg (Nat.not_lt.mpr hk)).trans (if_neg (Nat.ne_of_lt hi))))

end Sys2Proof.Machine
end

section
/-! PROOFS. Ports and their links: training, frames, width steps and the clocks. -/

namespace Sys2Proof.Machine

/-! ## Ports and their fields -/

section
variable {s : State} {p : Nat}

theorem State.port_setPort_self (hp : p < 18) (s : State) (x : Port) : (s.setPort p x).port p = x := vget_vput_self _ _ hp _

/-- The marker of a lane changes only the markers of its port, and takes a free value. -/
theorem sendMarker_port (hp : p < 18) (l : Nat) : ∃ m, (s.sendMarker p l).port p = { s.port p with markers := m } :=
  ⟨_, State.port_setPort_self hp s.draw.2 _⟩

/-- The requests of a marker, three values a tap, fill 8 bits. -/
theorem markerRequests_lt (n : Nat) : [0, 1, 2, 3].foldl (fun a k => a * 4 + n / 4 ^ k % 4 % 3) 0 < 256 := by
  simp only [List.foldl_cons, List.foldl_nil]
  omega

/-- The fields of a marker put together from parts that fit. -/
theorem marker_fields {l b c q r : Nat} (hl : l < 4) (hb : b < 2) (hc : c < 2) (hq : q < 256) (hr : r < 256) :
    let m := (BitVec.ofNat 64 (0x7E5A * 2 ^ 48 + l * 2 ^ 46 + b * 2 ^ 45 + c * 2 ^ 44 + q * 2 ^ 36 + r * 2 ^ 28)).toNat
    nbits m 63 48 = 0x7E5A ∧ nbits m 47 46 = l ∧ nbit m 45 = b ∧ nbits m 35 28 = r ∧ nbits m 27 0 = 0 := by
  simp only [BitVec.toNat_ofNat, nbits, nbit]
  omega

/-- What a marker says: its lane, whether this side is ready on it, and the answers that wait there. -/
theorem sendMarker_eq (l : Fin 4) (hr : vget 0 (s.port p).rsp l < 256) : ∃ (m : BitVec 64) (u : State), u = { s with freeCtr := u.freeCtr } ∧
    s.sendMarker p l = u.setPort p { s.port p with markers := vput (s.port p).markers l m } ∧ nbits m.toNat 63 48 = 0x7E5A ∧
    nbits m.toNat 47 46 = l.val ∧ nbit m.toNat 45 = nbit (s.port p).mine l ∧ nbits m.toNat 35 28 = vget 0 (s.port p).rsp l ∧
    nbits m.toNat 27 0 = 0 := by
  refine ⟨_, s.draw.2, rfl, rfl, ?_⟩
  exact marker_fields l.isLt (nbit_lt _ _) (Nat.mod_lt _ (by decide)) (markerRequests_lt _) hr

/-- TRAIN ends in LOCK once every lane that may run is ready on both sides. -/
theorem toLock_of_all (hm : (s.port p).mine &&& (s.port p).theirs &&& s.eligible p = s.eligible p) (h : s.eligible p ≠ 0) :
    s.toLock p = ((s.serveLanes p (s.eligible p)).setLockMask p 0).setPortState p 3 := by
  unfold State.toLock
  dsimp only
  rw [hm, if_neg h]

theorem portState_fset_en (v : Nat) : (s.fset (R.PORT_CTL_EN.at (portOff p)) v).portState p = s.portState p :=
  State.fget_fset_at_ne (by decide) v

/-- EN set on a port that is DOWN starts it at DETECT. -/
theorem portEn_of_down (hlic : s.portLicensed p = true) (hst : s.portState p = 7) :
    s.portEn p true = (s.fset (R.PORT_CTL_EN.at (portOff p)) 1).setPortState p 1 := by
  unfold State.portEn
  dsimp only
  rw [hlic, portState_fset_en, hst]
  rfl

end

/-- A marker that is read: its requests are served, its answers kept, the next marker goes out, and TRAIN ends with the last lane. -/
theorem exec_trainingMarker_of_read {s : State} {p : Fin 18} {w : BitVec 64} (ready : Bool) (hline : s.dom.lineRst = false)
    (hst : s.portState p = 2 ∨ s.portState p = 5 ∨ s.portState p = 6) (hsync : nbits w.toNat 63 48 = 0x7E5A) (hres : nbits w.toNat 27 0 = 0) :
    exec (.trainingMarker p w ready) s = .next (
      let l := nbits w.toNat 47 46
      let y := serveMarker (s.port p) w.toNat
      let z := { y with mine := withBit y.mine l ready, theirs := withBit y.theirs l (nbit w.toNat 45 == 1)
                        answers := vput y.answers l (nbits w.toNat 35 28) }
      let t := (s.setPort p z).sendMarker p l
      if t.portState p = 2 ∧ t.eligible p ≠ 0 ∧ z.mine &&& z.theirs &&& t.eligible p = t.eligible p then t.toLock p else t) := by
  refine congrArg Host.Outcome.next (if_neg ?_)
  simp [hline, hsync, hres, hst]

/-- Settles O43: each step of training, in the state that lets it happen. -/
theorem linkTraining : Obligations.LinkTraining := by
  unfold Obligations.LinkTraining
  intro p s hline o x failed
  refine ⟨fun hst hmay hclk => congrArg Host.Outcome.next (if_pos ⟨hst, hmay, hclk⟩), rfl, fun m => rfl, fun l hr => ?_,
    fun w ready hst hsync hres => ?_, fun hst => ⟨fun hm => ?_, fun hm => ?_⟩, fun l cws hlo hhi => ⟨fun hcw => ?_, fun ts hcw => ?_⟩,
    fun hst => ⟨fun hm => ?_, fun hm => ?_⟩, fun hst htray => congrArg Host.Outcome.next (if_pos ⟨hst, htray⟩),
    fun hst hmay => congrArg Host.Outcome.next (if_pos ⟨hst, hmay⟩),
    fun src hreach => ⟨fun hlic hst => ?_, fun hlic => ?_, fun hlic on => ?_, ?_⟩⟩
  · exact sendMarker_eq l hr
  · intro l y z t all
    rw [exec_trainingMarker_of_read ready hline hst hsync hres]
    refine ⟨fun h => congrArg Host.Outcome.next (if_neg h), fun h => congrArg Host.Outcome.next ((if_pos h).trans ?_)⟩
    obtain ⟨-, hne, hm⟩ := h
    obtain ⟨m, hport⟩ := sendMarker_port (s := s.setPort p z) p.isLt l
    rw [State.port_setPort_self p.isLt] at hport
    refine toLock_of_all ?_ hne
    rw [hport]
    exact hm
  · exact congrArg Host.Outcome.next ((if_pos hst).trans (if_pos hm))
  · exact congrArg Host.Outcome.next ((if_pos hst).trans (if_neg hm))
  · exact congrArg Host.Outcome.next (if_pos (by simp [hcw]))
  · intro r u t all
    have hexec : exec (.laneLock p ⟨l, cws⟩) s = .next (if all then t.toIdent p else t) := by
      refine congrArg Host.Outcome.next ((if_neg ?_).trans ?_)
      · simp only [hline, hcw, Option.isNone_some, Bool.false_eq_true, or_false, not_or, Nat.not_lt]
        exact ⟨hlo, hhi⟩
      · simp only [hcw, Option.getD_some]
        rfl
    rw [hexec]
    exact ⟨fun h => congrArg Host.Outcome.next (if_pos h), fun h => congrArg Host.Outcome.next (if_neg h)⟩
  · exact congrArg Host.Outcome.next ((if_neg (not_not.mpr hst)).trans (if_pos hm))
  · exact congrArg Host.Outcome.next ((if_neg (not_not.mpr hst)).trans (if_neg hm))
  · exact congrArg Host.Outcome.next ((hreach.byParty_regCmd _).trans (portEn_of_down hlic hst))
  · exact congrArg Host.Outcome.next ((hreach.byParty_regCmd _).trans (if_neg (by simp [hlic])))
  · exact congrArg Host.Outcome.next ((hreach.byParty_regCmd _).trans (if_pos (by simp [hlic])))
  · exact congrArg Host.Outcome.next (hreach.byParty_regCmd _)

end Sys2Proof.Machine
end

section
/-! PROOFS. Frames of a link (R279 to R281, R286 to R289). -/

namespace Sys2Proof.Machine

/-! ## Receiving a frame -/

section
variable {s : State} {p : Nat} {f : FrameIn}

theorem portLinked_goodWord : (s.goodWord p f).portLinked p = s.portLinked p := by
  have hstate : (s.goodWord p f).portState p = s.portState p := by
    unfold State.goodWord
    dsimp only
    split
    · exact State.fget_fset_at_ne (f := R.PORT_FEC_CORR_CW) (by decide) _
    · rfl
  unfold State.portLinked
  rw [hstate]

/-- A frame that is discarded counts, and is asked for. -/
theorem rxFrame_of_bad (type : Nat) (hline : s.dom.lineRst = false) (hlink : s.portLinked p = true) (hbad : frBad f = true) :
    s.rxFrame p f type = (false, ((s.goodWord p f).bump (R.PORT_EVENTS_CRC_ERR.at (portOff p)) (R.PORT_FLAGS_CRC_OVF.at (portOff p)) 1).wantFrame p) := by
  have hkeep : ((s.goodWord p f).bump (R.PORT_EVENTS_CRC_ERR.at (portOff p)) (R.PORT_FLAGS_CRC_OVF.at (portOff p)) 1).portLinked p = true := by
    have hstate : ((s.goodWord p f).bump (R.PORT_EVENTS_CRC_ERR.at (portOff p)) (R.PORT_FLAGS_CRC_OVF.at (portOff p)) 1).portState p =
        (s.goodWord p f).portState p :=
      congrArg (getBits · R.PORT_STATUS_STATE.lo R.PORT_STATUS_STATE.w)
        (State.csrGet_bump_ne _ (Fld.at_off_ne (f := R.PORT_STATUS_STATE) (g := R.PORT_EVENTS_CRC_ERR) (by decide) _)
          (Fld.at_off_ne (f := R.PORT_STATUS_STATE) (g := R.PORT_FLAGS_CRC_OVF) (by decide) _) 1)
    rw [← portLinked_goodWord (f := f)] at hlink
    unfold State.portLinked at hlink ⊢
    rwa [hstate]
  unfold State.rxFrame
  rw [if_neg (by simp [hline, hlink]), if_pos hbad]
  dsimp only
  rw [if_pos hkeep]

/-- A good frame of the type that is asked for carries its header; one with a number is delivered in order. -/
theorem rxFrame_of_good {type : Nat} (hline : s.dom.lineRst = false) (hlink : s.portLinked p = true) (hbad : frBad f = false)
    (htype : frType f = type) : s.rxFrame p f type =
      let t := (s.goodWord p f).frameHeader p f
      if type = 0 then (true, t)
      else
        let x := t.port p
        if frSeq f = x.rxExp then (true, t.setPort p { x with rxExp := (x.rxExp + 1) % 0x1000, rxAny := true, awaitSeq := false })
        else if frLe (frSeq f) x.rxExp then (false, t)
        else (false, t.askFrame p) := by
  unfold State.rxFrame
  rw [if_neg (by simp [hline, hlink]), if_neg (by simp [hbad]), if_neg (not_not.mpr htype)]
  dsimp only
  rw [if_neg (by simp [portLinked_goodWord, hlink])]

/-! ## Sending a frame -/

/-- Credits that a frame returns leave everything of its port but what it owes. -/
theorem takeRet_eq (x : Port) : x.takeRet.2.2 = { x with ret := x.takeRet.2.2.ret } := by
  unfold Port.takeRet
  split <;> rfl

/-- A frame that leaves a port: its codeword, the count after it, its lane, and what the port still owes. -/
theorem putFrame_port (hp : p < 18) {fr : OutFrame} {seq vc n : Nat} {y : Port} (h : (s.port p).takeRet = (vc, n, y)) :
    let x := s.port p
    (s.putFrame p fr seq).port p = { x with
      ret := y.ret
      lastCw := cwOf (0x96 * 2 ^ 12 + x.cwCount) (leNat (frameBytes fr seq x.ackSeq vc n))
      lastLane := (s.txLanes p).getD (x.cwCount % max 1 (s.txLanes p).length) 0
      spread := x.spreadNow
      cwCount := (x.cwCount + 1) % 4096 } := by
  have hy : y = { s.port p with ret := y.ret } := by
    have heq := takeRet_eq (s.port p)
    rwa [h] at heq
  unfold State.putFrame
  rw [h]
  dsimp only
  rw [State.port_setPort_self hp, hy]
  rfl

end

/-- A RETRY that is delivered: its frames go out again, or the port goes DOWN. -/
theorem exec_retry_of_delivered {s t : State} {p : Fin 18} {f : FrameIn} (e : BitVec 12) (h : s.rxFrame p f 2 = (true, t)) :
    exec (.retry p f e) s = .next (
      let u := t.frameAcked p ((e.toNat + 0xFFF) % 0x1000)
      let x := u.port p
      if x.replay.any fun q => decide (8 ≤ timesResent x.resent q.1) then u.portDown p 2 0
      else (u.setPort p { x with resendQ := x.replay }).pumpPort p 1024) := by
  show execRetry p f e s = _
  unfold execRetry
  rw [h]
  rfl

theorem exec_ident_of_delivered {s t : State} {p : Fin 18} {f : FrameIn} {m : IdentMsg} (h : s.rxFrame p f 2 = (true, t))
    (hst : t.portState p = 4) : exec (.ident p f m) s = .next (
      let o := portOff p
      let v := t.sharedVersion m.vmin.toNat m.vmax.toNat
      let u := ((((t.fset (R.PORT_PARTNER_VERSION.at o) v).fset (R.PORT_PARTNER_PORT.at o) m.port.toNat).fset
        (R.PORT_PARTNER_ROLE.at o) m.role.toNat).fset (R.PORT_PARTNER_DEST.at o) m.dest.toNat).fset
        (R.PORT_PARTNER_SN_SERIAL.at o) m.serial.toNat
      ((u.setPort p { u.port p with judged := some (u.judge p m.dest.toNat m.port.toNat m.serial.toNat v) }).sendIdent p 2 v).finishIdent p) := by
  show execIdent p f m s = _
  unfold execIdent
  rw [h]
  exact congrArg Host.Outcome.next (if_neg (by simp [hst]))

theorem exec_identAck_of_delivered {s t : State} {p : Fin 18} {f : FrameIn} {m : IdentMsg} (h : s.rxFrame p f 2 = (true, t))
    (hst : t.portState p = 4) :
    exec (.identAck p f m) s = .next ((t.setPort p { t.port p with ackRx := true }).finishIdent p) := by
  show execIdentAck p f m s = _
  unfold execIdentAck
  rw [h]
  exact congrArg Host.Outcome.next (if_neg (by simp [hst]))

theorem exec_down_of_delivered {s t : State} {p : Fin 18} {f : FrameIn} (cause : BitVec 8) (h : s.rxFrame p f 2 = (true, t)) :
    exec (.down p (.message f cause)) s = .next (t.portDown p 3 cause.toNat) := by
  show execDown p (.message f cause) s = _
  unfold execDown
  dsimp only
  rw [h]
  rfl

theorem exec_idleFrame (s : State) (p : Fin 18) (f : FrameIn) :
    exec (.idleFrame p f) s = .next ((s.rxFrame p f 0).2.pumpPort p 512) := rfl

theorem exec_dataFrame_of_delivered {s t : State} {p : Fin 18} {f : FrameIn} (pkts : List Pkt) (h : s.rxFrame p f 1 = (true, t)) :
    exec (.dataFrame p f pkts) s =
      .next ((if t.portState p ≠ 4 then pkts.foldl (fun u k => u.takePacket p k) t else t).pumpPort p 512) := by
  show execDataFrame p f pkts s = _
  unfold execDataFrame
  rw [h]
  simp only [true_and]

/-- Settles O44: what a frame does as it arrives, by what it is and where the numbering stands, and what one carries as it leaves. -/
theorem linkFrames : Obligations.LinkFrames := by
  unfold Obligations.LinkFrames
  intro p f s o
  refine ⟨fun hline hlink => ⟨fun type hbad => rxFrame_of_bad type hline hlink hbad, ?_, fun hbad => ?_,
      congrArg Host.Outcome.next (if_pos hlink)⟩,
    fun fr seq vc n y hret => ?_, fun t pkts hrx => ?_, fun t hrx => ⟨fun m hst => ?_, fun e => ?_, fun cause => ?_⟩,
    fun hline hst => congrArg Host.Outcome.next (if_neg (by simp [hline, hst])), fun dest port serial version => rfl⟩
  · intro t x
    refine ⟨fun hbad htype => ?_, fun type hpos hbad htype => ⟨fun hseq => ?_, fun hseq hle => ?_, fun hseq hle => ?_⟩⟩
    · have hrx : s.rxFrame p f 0 = (true, t) := rxFrame_of_good hline hlink hbad htype
      rw [exec_idleFrame, hrx]
    all_goals rw [rxFrame_of_good hline hlink hbad htype]; dsimp only; rw [if_neg (Nat.ne_of_gt hpos)]
    · rw [if_pos hseq]
    · rw [if_neg hseq, if_pos hle]
    · rw [if_neg hseq, if_neg (ne_true_of_eq_false hle)]
  · rw [exec_idleFrame, rxFrame_of_bad 0 hline hlink hbad]
  · intro k u
    have hu := putFrame_port p.isLt (fr := fr) (seq := seq) hret
    dsimp only at hu
    simp only [u, k, hu, and_self]
  · rw [exec_dataFrame_of_delivered pkts hrx]
    exact ⟨fun hst => by rw [if_pos hst], fun hst => by rw [if_neg (not_not.mpr hst)]⟩
  · exact ⟨exec_ident_of_delivered hrx hst, exec_identAck_of_delivered hrx hst⟩
  · intro u x
    rw [exec_retry_of_delivered e hrx]
    refine ⟨fun hmany => congrArg Host.Outcome.next (if_pos ?_), fun hfew => congrArg Host.Outcome.next (if_neg ?_)⟩
    · exact List.any_eq_true.mpr (hmany.imp fun q hq => ⟨hq.1, decide_eq_true hq.2⟩)
    · intro hany
      obtain ⟨q, hq, h8⟩ := List.any_eq_true.mp hany
      exact absurd (hfew q hq) (Nat.not_lt.mpr (of_decide_eq_true h8))
  · exact exec_down_of_delivered cause hrx

end Sys2Proof.Machine
end

section
/-! PROOFS. Width steps of a link and the clocks (R290, R291, R295 to R299). -/

namespace Sys2Proof.Machine

/-! ## Width steps -/

theorem exec_width_answer {s t : State} {p : Fin 18} {f : FrameIn} (mask : BitVec 4) (count : BitVec 12) (h : s.rxFrame p f 2 = (true, t)) :
    exec (.width p f true mask count) s = .next (if mask.toNat &&& t.ableLanes p = mask.toNat
      then t.setPort p { t.port p with change := some (mask.toNat, count.toNat) } else t) := by
  show execWidth p f true mask count s = _
  unfold execWidth
  rw [h]
  rfl

theorem exec_width_proposal {s t : State} {p : Fin 18} {f : FrameIn} (mask : BitVec 4) (count : BitVec 12) (h : s.rxFrame p f 2 = (true, t)) :
    exec (.width p f false mask count) s = .next (
      let u := t.draw.2
      let c := ((t.port p).cwCount + 64 + t.draw.1.toNat % 960) % 4096
      let m := mask.toNat &&& u.ableLanes p
      (u.setPort p { u.port p with change := some (m, c) }).sendCtrl p 5 ([1] ++ leBytes 1 m ++ [0] ++ leBytes 2 c)) := by
  show execWidth p f false mask count s = _
  unfold execWidth
  rw [h]
  rfl

/-- The count of a width step arrives. -/
theorem exec_widthChange_of_step {s : State} {p : Fin 18} {m c : Nat} (h : (s.port p).change = some (m, c)) :
    exec (.widthChange p) s = .next (
      let x := s.port p
      let t := (s.setPort p { x with
        change := none, cwCount := if (4096 + x.cwCount - c) % 4096 < 2048 then x.cwCount else c }).bump
          (R.PORT_EVENTS2_WIDTH_STEPS.at (portOff p)) (R.PORT_FLAGS_STEPS_OVF.at (portOff p)) 1
      if widthOf m = 0 then t.portDown p 1 0
      else
        let u := t.fillBucket p
        let v := (lanesOf (maskMinus (u.laneMask p) m)).foldl (fun v l => v.laneDrops p l) u
        ((v.serveLanes p m).event (portSource p) 0x0A82
          (leBytes 1 (portNum p) ++ leBytes 1 (t.portWidth p) ++ leBytes 1 (widthOf m) ++ leBytes 1 m)).pumpPort p 512) := by
  show execWidthChange p s = _
  unfold execWidthChange
  rw [h]

theorem txLanes_of_step {s : State} {p m c : Nat} (h : (s.port p).change = some (m, c)) :
    let spread := if c = (s.port p).cwCount then m else (s.port p).spread
    s.txLanes p = (lanesOf spread).take (widthOf spread) := by
  unfold State.txLanes Port.spreadNow
  rw [h]

theorem laneMask_setPort (s : State) (p : Nat) (x : Port) : (s.setPort p x).laneMask p = s.laneMask p := rfl

theorem propose_eq (s : State) (p m : Nat) : s.propose p m = s.sendCtrl p 5 (0 :: leBytes 1 m) := rfl

/-! ## Rack time -/

section
variable {s : State}

theorem State.loadRtime_dom (v : Nat) : (s.loadRtime v).dom = s.dom := by
  unfold State.loadRtime
  dsimp only
  split <;> rfl

/-- The value that an edge of TSYNC loads, if one is due. -/
def State.dueAtEdge (s : State) (c : Clock) : Option Nat :=
  match c.armed with
  | some (v, t) => if t + 10000 ≤ s.rtime then some v else none
  | none => if c.fromCopy then some c.copy else none

/-- The clock as an edge of TSYNC leaves it: the signal box's copy is at a whole millisecond, where it runs. -/
def State.clockAtEdge (s : State) : Clock :=
  { s.clock with copy := if s.dom.signalRst && !s.clock.fromCopy then s.clock.copy else nearestMs s.clock.copy }

/-- The state at an edge of TSYNC, before RTIME is loaded or snaps. -/
def State.atEdge (s : State) : State := ({ s with clock := s.clockAtEdge, rfrac := 0 } : State).fset R.RTIME_STATUS_TSYNC_PRESENT 1

/-- An edge of TSYNC loads the value that is due, or snaps RTIME. -/
theorem exec_tsyncEdge_of_line (h : s.dom.lineRst = false) : exec .tsyncEdge s = .next (
    (s.atEdge.dueAtEdge s.clockAtEdge).elim s.atEdge.snapRtime fun v =>
      let u := s.atEdge.loadRtime v
      if s.dom.signalRst then u
      else { u with clock := { u.clock with copy := v, copyValid := u.flag R.RTIME_STATUS_RTIME_VALID } }) := by
  refine congrArg Host.Outcome.next ((if_neg (ne_true_of_eq_false h)).trans ?_)
  show (match s.atEdge.dueAtEdge s.clockAtEdge with | some v => _ | none => _) = _
  cases s.atEdge.dueAtEdge s.clockAtEdge with
  | none => rfl
  | some v =>
    show (if (s.atEdge.loadRtime v).dom.signalRst = true then _ else _) = _
    rw [State.loadRtime_dom]
    rfl

/-- A value is due once it has been armed for 10 µs, or comes from the signal box's copy. -/
theorem dueAtEdge_eq_some {c : Clock} {v : Nat}
    (h : (∃ at_, c.armed = some (v, at_) ∧ at_ + 10000 ≤ s.rtime) ∨ (c.armed = none ∧ c.fromCopy = true ∧ v = c.copy)) :
    s.dueAtEdge c = some v := by
  unfold State.dueAtEdge
  rcases h with ⟨at_, harm, hdue⟩ | ⟨harm, hcopy, rfl⟩
  · rw [harm]
    exact if_pos hdue
  · rw [harm]
    exact if_pos hcopy

theorem dueAtEdge_eq_none {c : Clock}
    (h : (∃ v at_, c.armed = some (v, at_) ∧ s.rtime < at_ + 10000) ∨ (c.armed = none ∧ c.fromCopy = false)) : s.dueAtEdge c = none := by
  unfold State.dueAtEdge
  rcases h with ⟨v, at_, harm, hlt⟩ | ⟨harm, hcopy⟩
  · rw [harm]
    exact if_neg (Nat.not_le.mpr hlt)
  · rw [harm]
    exact if_neg (ne_true_of_eq_false hcopy)

end

/-- Settles O45: each step of a link's width and of the clocks, in the state that lets it happen. -/
theorem linkWidthAndClock : Obligations.LinkWidthAndClock := by
  unfold Obligations.LinkWidthAndClock
  intro s
  refine ⟨fun p f mask count t hrx => ⟨exec_width_answer mask count hrx, ?_⟩, fun p m c hstep => ?_,
    fun p l lock r hline hr => ⟨fun hlink hin => ?_, fun hout => ?_⟩, fun p l hauto hst hmask hpark hbar => ?_, fun i m hline => ?_,
    fun hline => ?_, fun hline hpres => ?_, fun hline hpres => ?_, fun hline hlock hpres => ?_⟩
  · exact ⟨t.draw.1.toNat % 960, t.draw.2, Nat.mod_lt _ (by decide), rfl, exec_width_proposal mask count hrx⟩
  · refine ⟨txLanes_of_step hstep, fun hw => ?_, fun hw => ?_⟩
    · exact (exec_widthChange_of_step hstep).trans (congrArg Host.Outcome.next (if_pos hw))
    · exact (exec_widthChange_of_step hstep).trans (congrArg Host.Outcome.next (if_neg hw))
  · have hexec : exec (.laneLoss p l lock) s = .next (r.laneOut p l) := by
      rw [hr]
      exact congrArg Host.Outcome.next (if_neg (ne_true_of_eq_false hline))
    have hdrop : r.laneOut p l = _ := if_neg (by simp [hlink, hin])
    rw [hexec, hdrop]
    exact ⟨fun h0 => congrArg Host.Outcome.next (if_pos h0), fun h0 => congrArg Host.Outcome.next (if_neg h0)⟩
  · have hexec : exec (.laneLoss p l lock) s = .next (r.laneOut p l) := by
      rw [hr]
      exact congrArg Host.Outcome.next (if_neg (ne_true_of_eq_false hline))
    rw [hexec]
    exact congrArg Host.Outcome.next (if_pos (hout.symm.imp_right (by simp +contextual)))
  · intro t x u
    have hexec : exec (.laneRetrain p l true) s = .next (u.propose p (t.laneMask p ||| 2 ^ l.val)) :=
      congrArg Host.Outcome.next (if_pos ⟨hauto, hst, hmask, hpark, hbar, rfl⟩)
    rw [hexec, propose_eq, laneMask_setPort]
  · intro f hbit
    exact congrArg Host.Outcome.next (if_neg (not_or.mpr ⟨ne_true_of_eq_false hline, by rw [hbit]; decide⟩))
  · intro c t
    rw [exec_tsyncEdge_of_line hline]
    refine ⟨fun harm hcopy => ?_, fun v hsig hdue => ?_, fun v hsig hdue => ?_, fun v at_ harm hlt => ?_⟩
    · have hnone : s.atEdge.dueAtEdge s.clockAtEdge = none := dueAtEdge_eq_none (.inr ⟨harm, hcopy⟩)
      rw [hnone]
      rfl
    · have hsome : s.atEdge.dueAtEdge s.clockAtEdge = some v := dueAtEdge_eq_some hdue
      rw [hsome]
      exact congrArg Host.Outcome.next (if_pos hsig)
    · have hsome : s.atEdge.dueAtEdge s.clockAtEdge = some v := dueAtEdge_eq_some hdue
      rw [hsome]
      exact congrArg Host.Outcome.next (if_neg (ne_true_of_eq_false hsig))
    · have hnone : s.atEdge.dueAtEdge s.clockAtEdge = none := dueAtEdge_eq_none (.inl ⟨v, at_, harm, hlt⟩)
      rw [hnone]
      rfl
  · exact congrArg Host.Outcome.next (if_neg (not_or.mpr ⟨ne_true_of_eq_false hline, by rw [hpres]; decide⟩))
  · exact congrArg Host.Outcome.next ((if_neg (by rw [hpres]; decide)).trans (if_neg (ne_true_of_eq_false hline)))
  · exact congrArg Host.Outcome.next
      ((if_neg (not_or.mpr ⟨ne_true_of_eq_false hline, ne_true_of_eq_false hlock⟩)).trans (if_neg (ne_true_of_eq_false hpres)))

end Sys2Proof.Machine
end

section
/-! PROOFS. Packets that arrive, and requests, routes and the congestion map (R307 to R328). -/

namespace Sys2Proof.Machine

/-! ## The row of a packet -/

section
variable {s t : State} {k type : Nat} {q : Pkt} {serve : State → Pkt → State}

theorem packetRow_of_aged (h : s.takeRx k type = some (q, t)) (hk : k < 18) (hold : t.aged q = true) :
    s.packetRow k type serve = t.bump R.ROUTE_EVENTS2_AGED R.ROUTE_FLAGS_AGED_OVF 1 := by
  unfold State.packetRow
  rw [h]
  exact if_pos ⟨hk, hold⟩

theorem not_aged (h : k = 18 ∨ t.aged q = false) : ¬ (k < 18 ∧ t.aged q = true) := by
  rintro ⟨hk, hold⟩
  rcases h with rfl | h
  · omega
  · rw [h] at hold
    exact Bool.false_ne_true hold

theorem packetRow_of_passing (h : s.takeRx k type = some (q, t)) (hnew : k = 18 ∨ t.aged q = false)
    (hother : ¬ (pkMc q = true ∨ k = 18 ∨ pkDest q = t.ownId % 4096)) : s.packetRow k type serve = t.forward q (decide (k < 16)) := by
  unfold State.packetRow
  rw [h]
  exact (if_neg (not_aged hnew)).trans (if_neg hother)

theorem packetRow_of_arrived (h : s.takeRx k type = some (q, t)) (hnew : k = 18 ∨ t.aged q = false)
    (harr : pkMc q = true ∨ k = 18 ∨ pkDest q = t.ownId % 4096) : s.packetRow k type serve = serve t q := by
  unfold State.packetRow
  rw [h]
  exact (if_neg (not_aged hnew)).trans (if_pos harr)

end

/-- Each command of a packet is the row of its type. -/
theorem exec_packet {k : Fin 19} {type : Nat} {i : Instr}
    (h : (type, i) ∈ [(0, Instr.write k), (1, .writeAck k), (2, .read k), (3, .readRsp k), (4, .msg k), (5, .coll k), (6, .routeFail k),
      (7, .tc3CsrRd k)]) : ∃ serve, ∀ s, exec i s = .next (s.packetRow k type serve) := by
  simp only [List.mem_cons, Prod.mk.injEq, List.not_mem_nil, or_false] at h
  rcases h with ⟨rfl, rfl⟩ | ⟨rfl, rfl⟩ | ⟨rfl, rfl⟩ | ⟨rfl, rfl⟩ | ⟨rfl, rfl⟩ | ⟨rfl, rfl⟩ | ⟨rfl, rfl⟩ | ⟨rfl, rfl⟩ <;>
    exact ⟨_, fun s => rfl⟩

/-! ## Packets served here -/

section
variable {s t : State} {k : Fin 19} {q : Pkt}

/-- A write packet is carried out and answered with its status. -/
theorem exec_write_of_arrived {c : Nat} {u : State} (h : ∀ serve, s.packetRow k 0 serve = serve t q)
    (hw : t.memWrite (t.pkSource k q) (pkAddr q) q.payload = (c, u)) : exec (.write k) s = .next (u.answer q 1 c []) := by
  refine congrArg Host.Outcome.next ((h _).trans ?_)
  dsimp only
  rw [hw]

/-- The answer to a read packet: its bytes, or the code of the read. -/
def State.answerRead (u : State) (q : Pkt) : Except (Nat × Nat) (List Byte) → State
  | .ok l => u.answer q 3 0 l
  | .error (c, _) => u.answer q 3 c []

/-- A read packet of 1 to 512 bytes is answered with them, or with the code of the read. -/
theorem exec_read_of_arrived {r : Except (Nat × Nat) (List Byte)} {u : State} (h : ∀ serve, s.packetRow k 2 serve = serve t q)
    (hpos : 1 ≤ leNat (q.payload.take 4)) (hle : leNat (q.payload.take 4) ≤ 512)
    (hr : t.memRead ⟨0, 3, t.pkSource k q⟩ (pkAddr q) (leNat (q.payload.take 4)) = (r, u)) :
    exec (.read k) s = .next (u.answerRead q r) := by
  refine congrArg Host.Outcome.next ((h _).trans ((if_neg (by omega)).trans ?_))
  rw [hr]
  cases r <;> rfl

theorem exec_msg_of_arrived (h : ∀ serve, s.packetRow k 4 serve = serve t q) : exec (.msg k) s = .next (
    if pkAddr q % 256 = 1 then
      let m := barOf q.payload (pkSrc q)
      if t.dom.worksRst ∧ m.type ≠ 3 ∧ m.type ≠ 4 then t.ruleDrop
      else if m.type = 0 ∨ 7 < m.type then t.bump R.EPOCH_STRAY_STRAY R.EPOCH_STRAY_STRAY_OVF
      else { t with barInbox := t.barInbox ++ [m] }
    else t.toEngines q) := congrArg Host.Outcome.next (h _)

/-- A ROUTE_FAIL of a junction switch that names a package outside the reach registers, and no open request. -/
theorem exec_routeFail_of_free (h : ∀ serve, s.packetRow k 6 serve = serve t q) (hlo : 0xF00 ≤ pkSrc q) (hhi : pkSrc q ≤ 0xF0F)
    (hd : 0x06F < leNat (q.payload.take 2) % 4096) (hreq : t.reqOf (leNat ((q.payload.drop 4).take 2)) = none) :
    let d := leNat (q.payload.take 2) % 4096
    let u := t.bump R.ROUTE_EVENTS3_FAIL_RX R.ROUTE_FLAGS_FAIL_OVF 1
    let v : State := { u with router := { u.router with failRx := u.router.failRx + 1 } }
    exec (.routeFail k) s = .next (v.fset (exclude d) (v.fget (exclude d) ||| 2 ^ (pkSrc q - 0xF00))) := by
  intro d u v
  refine congrArg Host.Outcome.next ((h _).trans ((if_neg (by omega)).trans ?_))
  have hv : (v.fset (exclude d) (v.fget (exclude d) ||| 2 ^ (pkSrc q - 0xF00))).reqOf (leNat ((q.payload.drop 4).take 2)) = none := by
    rw [← hreq]
    show u.router.reqs.find? _ = _
    rw [State.bump_router]
    rfl
  dsimp only
  rw [if_neg (by omega)]
  show (match (v.fset (exclude d) (v.fget (exclude d) ||| 2 ^ (pkSrc q - 0xF00))).reqOf (leNat ((q.payload.drop 4).take 2)) with
    | some r => _ | none => _) = _
  rw [hv]

/-- A register read of a junction switch, of a register that it may read. -/
theorem exec_tc3CsrRd_of_switch {c : Nat} {w : Word} {u : State} (h : ∀ serve, s.packetRow k 7 serve = serve t q) (htc : pkTc q = 3)
    (hlo : 0xF00 ≤ pkSrc q) (hhi : pkSrc q ≤ 0xF0F) (ha : 0x18000000000 ≤ pkAddr q)
    (hmay : switchMayRead (pkAddr q - 0x18000000000) = true)
    (hr : t.csrRead (t.pkSource k q) none (pkAddr q - 0x18000000000) (leNat (q.payload.take 4)) = (c, w, u)) :
    exec (.tc3CsrRd k) s = .next (u.answer q 8 c (leBytes 8 w.toNat)) := by
  refine congrArg Host.Outcome.next ((h _).trans ((if_pos ⟨htc, hlo, hhi, ha, hmay⟩).trans ?_))
  rw [hr]

end

/-- Settles O46: each type of packet, by the row that serves it, and what any packet meets before it is served. -/
theorem packetArrivals : Obligations.PacketArrivals := by
  unfold Obligations.PacketArrivals
  intro k type i s t q hi hq arrived body source
  obtain ⟨serve, hexec⟩ := exec_packet hi
  refine ⟨fun hk hold => ?_, fun hnew => ⟨fun hother => ?_, fun harr => ?_⟩⟩
  · rw [hexec, packetRow_of_aged hq hk hold]
  · rw [hexec, packetRow_of_passing hq hnew hother]
  have hrow : ∀ serve, s.packetRow k type serve = serve t q := fun serve => packetRow_of_arrived hq hnew harr
  refine ⟨?_, ?_, ?_, ?_, ?_, ?_, ?_, ?_, ?_, ?_, ?_, ?_, ?_, ?_⟩
  · rintro c u rfl hw
    exact exec_write_of_arrived hrow hw
  · rintro rfl
    exact congrArg Host.Outcome.next (hrow _)
  · rintro l u rfl hpos hle hr
    exact exec_read_of_arrived hrow hpos hle hr
  · rintro c d u rfl hpos hle hr
    exact exec_read_of_arrived hrow hpos hle hr
  · rintro rfl hlen
    exact congrArg Host.Outcome.next ((hrow _).trans (if_pos hlen))
  · rintro rfl
    exact congrArg Host.Outcome.next (hrow _)
  · rintro rfl haddr hworks
    rw [exec_msg_of_arrived hrow, if_pos haddr]
    dsimp only
    rw [if_neg (by simp [hworks])]
    exact ⟨fun hlo hhi => congrArg Host.Outcome.next (if_neg (by omega)), fun hbad => congrArg Host.Outcome.next (if_pos hbad)⟩
  · rintro rfl haddr hworks
    rw [exec_msg_of_arrived hrow, if_pos haddr]
    exact ⟨fun hdec => congrArg Host.Outcome.next ((if_neg (by tauto)).trans (if_neg (by omega))),
      fun h3 h4 => congrArg Host.Outcome.next (if_pos ⟨hworks, h3, h4⟩)⟩
  · rintro rfl haddr
    rw [exec_msg_of_arrived hrow, if_neg haddr]
  · rintro rfl
    exact congrArg Host.Outcome.next (hrow _)
  · rintro rfl hsrc
    exact congrArg Host.Outcome.next ((hrow _).trans (if_pos hsrc))
  · rintro rfl hlo hhi d hd hreq
    exact exec_routeFail_of_free hrow hlo hhi hd hreq
  · rintro c w u rfl htc hlo hhi ha hmay hr
    exact exec_tc3CsrRd_of_switch hrow htc hlo hhi ha hmay hr
  · rintro rfl htc
    exact congrArg Host.Outcome.next ((hrow _).trans (if_neg fun h => htc h.1))

end Sys2Proof.Machine
end

section
/-! PROOFS. Requests and routing (R311 to R328). -/

namespace Sys2Proof.Machine

/-! ## Reset values of a range of registers -/

/-- Offsets from a row's base behind which it has no copy. -/
def RegRow.extent (r : RegRow) : Nat :=
  match r.dims with
  | [] => 1
  | (stride, count) :: _ => stride * count

/-- The copies of a row lie within its extent, where its stride is not 0. -/
theorem lt_extent_of_copyAt {r : RegRow} {d : Nat} (hstride : ∀ e ∈ r.dims, 0 < e.1) (h : copyAt r.dims d = true) : d < RegRow.extent r := by
  unfold RegRow.extent
  cases hdims : r.dims with
  | nil =>
    rw [hdims] at h
    have hd : d = 0 := beq_iff_eq.mp h
    exact hd ▸ Nat.one_pos
  | cons e l =>
    rw [hdims] at h hstride
    obtain ⟨hlt, -⟩ := Bool.and_eq_true_iff.mp h
    show d < e.1 * e.2
    rw [Nat.mul_comm]
    exact (Nat.div_lt_iff_lt_mul (hstride e List.mem_cons_self)).mp (of_decide_eq_true hlt)

/-- A register of a range in which no row has another reset value resets to 0. -/
theorem csrDflt_eq_zero {lo hi off : Nat} (hrows : ∀ r ∈ regMap, (∀ e ∈ r.dims, 0 < e.1) ∧
    (resetWord r = 0 ∨ r.base + RegRow.extent r ≤ lo ∨ hi ≤ r.base)) (hlo : lo ≤ off) (hhi : off < hi) : csrDflt off = 0 := by
  unfold csrDflt
  cases hfind : findReg off with
  | none => rfl
  | some r =>
    have hcover := List.find?_some hfind
    obtain ⟨hbase, hcopy⟩ := Bool.and_eq_true_iff.mp hcover
    obtain ⟨hstride, hzero | hbelow | habove⟩ := hrows r (List.mem_of_find?_eq_some hfind)
    · exact hzero
    · have := of_decide_eq_true hbase
      have := lt_extent_of_copyAt hstride hcopy
      omega
    · have := of_decide_eq_true hbase
      omega

theorem exclude_rows : ∀ r ∈ regMap, (∀ e ∈ r.dims, 0 < e.1) ∧
    (resetWord r = 0 ∨ r.base + RegRow.extent r ≤ R.EXCLUDE ∨ R.EXCLUDE + 8 * 4096 ≤ r.base) := by
  decide +kernel

theorem csrDflt_exclude {off : Nat} (hlo : R.EXCLUDE ≤ off) (hhi : off < R.EXCLUDE + 8 * 4096) : csrDflt off = 0 :=
  csrDflt_eq_zero exclude_rows hlo hhi

/-! ## A table without the keys of a predicate -/

section
variable {α : Type} {d : Nat → α} {p : Nat → Bool}

theorem tget_filter_of_true {k : Nat} (t : Tab α) (h : p k = true) : tget d (t.filter fun e => p e.1) k = tget d t k := by
  induction t with
  | nil => rfl
  | cons e t ih =>
    obtain ⟨j, v⟩ := e
    by_cases hj : p j = true
    · rw [List.filter_cons_of_pos (p := fun e : Nat × α => p e.1) (a := (j, v)) hj]
      simp only [tget, ih]
    · rw [List.filter_cons_of_neg (p := fun e : Nat × α => p e.1) (a := (j, v)) hj, ih]
      have hne : k ≠ j := fun heq => hj (heq ▸ h)
      simp only [tget, if_neg hne]

theorem tget_filter_of_false {k : Nat} (t : Tab α) (h : p k = false) : tget d (t.filter fun e => p e.1) k = d k := by
  induction t with
  | nil => rfl
  | cons e t ih =>
    obtain ⟨j, v⟩ := e
    by_cases hj : p j = true
    · have hne : k ≠ j := by
        rintro rfl
        rw [h] at hj
        exact Bool.false_ne_true hj
      rw [List.filter_cons_of_pos (p := fun e : Nat × α => p e.1) (a := (j, v)) hj]
      simp only [tget, if_neg hne, ih]
    · rw [List.filter_cons_of_neg (p := fun e : Nat × α => p e.1) (a := (j, v)) hj, ih]

end

section
variable {s : State}

/-- Every exclusion is over. -/
theorem clearExclude_fget {d : Nat} (hd : d < 4096) : s.clearExclude.fget (exclude d) = 0 := by
  have hoff : (exclude d).off = R.EXCLUDE + 8 * d := rfl
  have hlo : R.EXCLUDE ≤ (exclude d).off := by omega
  have hhi : (exclude d).off < R.EXCLUDE + 8 * 4096 := by omega
  have hword : s.clearExclude.csrGet (exclude d).off = 0 := by
    refine (tget_filter_of_false (p := fun k => !(decide (R.EXCLUDE ≤ k) && decide (k < R.EXCLUDE + 8 * 4096))) s.csr ?_).trans
      (csrDflt_exclude hlo hhi)
    simp [hlo, hhi]
  unfold State.fget
  rw [hword]
  exact (congrArg (· % 2 ^ 16) (Nat.zero_div _)).trans (Nat.zero_mod _)

theorem clearExclude_csrGet {off : Nat} (h : off < R.EXCLUDE ∨ R.EXCLUDE + 8 * 4096 ≤ off) : s.clearExclude.csrGet off = s.csrGet off := by
  refine tget_filter_of_true (p := fun k => !(decide (R.EXCLUDE ≤ k) && decide (k < R.EXCLUDE + 8 * 4096))) s.csr ?_
  simp only [Bool.not_eq_true', Bool.and_eq_false_iff, decide_eq_false_iff_not]
  omega

end

/-! ## Responses, the bucket and the congestion map -/

theorem response_of_open {s : State} {q : Pkt} {r : Req} (req : Nat) (h : s.reqOf (pkTag q) = some r) : s.response q req =
    if pkType r.pkt = req ∧ (pkDest r.pkt = pkSrc q ∨ pkStatus q = 8) then
      (s.endReq r (pkStatus q) (q.payload.take r.len)).dmaGoOn r.tile r.eng
    else s.bump R.ROUTE_EVENTS3_STALE_RSP R.ROUTE_FLAGS_STALE_OVF := by
  unfold State.response
  rw [h]

theorem response_of_none {s : State} {q : Pkt} (req : Nat) (h : s.reqOf (pkTag q) = none) :
    s.response q req = s.bump R.ROUTE_EVENTS3_STALE_RSP R.ROUTE_FLAGS_STALE_OVF := by
  unfold State.response
  rw [h]

theorem exec_requestTimeout_of_open {s : State} {tag : BitVec 16} {r : Req} (h : s.reqOf tag.toNat = some r) :
    exec (.requestTimeout tag) s = .next (((s.bump R.ROUTE_EVENTS4_E2E_TIMEOUTS R.ROUTE_FLAGS_TIMEOUT_OVF 1).endReq r
      (2 ^ 16 + Config.timeoutStatus.toNat) []).dmaGoOn r.tile r.eng) := by
  show execRequestTimeout tag s = _
  unfold execRequestTimeout
  rw [h]

/-- The bucket filled up to now keeps the packets that wait for it. -/
theorem fillBucket_held {s : State} {p : Nat} (hp : p < 18) : ((s.fillBucket p).port p).held = (s.port p).held :=
  (congrArg Port.held (State.port_setPort_self hp s _)).trans rfl

theorem exec_tc0BucketRelease_of_held {s : State} {p : Fin 18} {q : Pkt} {l : List Pkt} (h : (s.port p).held = q :: l) :
    exec (.tc0BucketRelease p) s = .next (
      let t := s.fillBucket p
      if pkBytes q * 16 ≤ (t.port p).bucket then
        (t.setPort p { t.port p with held := l, bucket := (t.port p).bucket - pkBytes q * 16 }).pushOut p ⟨q, false, false⟩
      else t) := by
  rw [← fillBucket_held p.isLt] at h
  show execTc0BucketRelease p s = _
  unfold execTc0BucketRelease
  dsimp only
  rw [h]

/-- Settles O47: each request and route, in the state that lets it act. -/
theorem requestsAndRouting : Obligations.RequestsAndRouting := by
  unfold Obligations.RequestsAndRouting
  intro s
  refine ⟨fun q req => ⟨fun r hr htype hsrc => ?_, fun r hr hother => ?_, fun hr => response_of_none req hr⟩, fun tag r hr => ?_,
    fun q fab hhop => if_pos hhop, fun d src v hreach => ⟨fun hres => ?_, fun hres => ?_⟩, fun src hreach => ?_, fun p q l hheld => ?_,
    fun q d => ?_, fun hline hen => ?_, fun hline hen => ?_⟩
  · exact (response_of_open req hr).trans (if_pos ⟨htype, hsrc⟩)
  · exact (response_of_open req hr).trans (if_neg (by tauto))
  · exact ⟨2 ^ 16 + Config.timeoutStatus.toNat, Nat.le_add_right _ _, exec_requestTimeout_of_open hr⟩
  · exact congrArg Host.Outcome.next ((hreach.byParty_regCmd _).trans (if_neg (not_not.mpr hres)))
  · exact congrArg Host.Outcome.next ((hreach.byParty_regCmd _).trans (if_pos hres))
  · exact ⟨s.clearExclude, congrArg Host.Outcome.next (hreach.byParty_regCmd _), fun d => clearExclude_fget, fun off => clearExclude_csrGet⟩
  · rw [exec_tc0BucketRelease_of_held hheld]
    exact ⟨fun hroom => congrArg Host.Outcome.next (if_pos hroom), fun hfull => congrArg Host.Outcome.next (if_neg (Nat.not_le.mpr hfull))⟩
  · exact if_pos (by simp)
  · exact congrArg Host.Outcome.next ((if_neg (ne_true_of_eq_false hline)).trans (if_neg (by simp [hen])))
  · exact congrArg Host.Outcome.next ((if_neg (ne_true_of_eq_false hline)).trans (if_pos (by simp [hen])))

end Sys2Proof.Machine
end

section
/-! PROOFS. Collectives: their messages, and their way from launch to end (R340 to R355). -/

namespace Sys2Proof.Machine

/-! ## Messages -/

section
variable {s t u : State} {d : Fin 4} {kind : Nat} {p : Pkt} {c : Coll} {body : State → Pkt → Coll → State}

/-- A message that a live collective takes is handed to the body of its row. -/
theorem TakesColl.cmRow (h : TakesColl s t d kind p c) : s.cmRow d kind body = body t p c := by
  obtain ⟨u, o, htake, hmine, hof, hlive, hsends, rfl, rfl⟩ := h.first
  unfold State.cmRow
  rw [htake]
  dsimp only
  rw [if_neg (ne_true_of_eq_false hmine), hof]
  dsimp only
  rw [if_neg (by simp [hlive, hsends])]

theorem cmRow_of_stray (htake : s.takeCm d kind = some (p, u)) (h : u.cmStray p = true) : s.cmRow d kind body = u.stray d := by
  unfold State.cmRow
  rw [htake]
  exact if_pos h

theorem cmRow_of_dead {v : Coll} (htake : s.takeCm d kind = some (p, u)) (h : u.cmStray p = false)
    (hof : u.collOf d (cmGroup p) (cmNat p 4 4) = some v) (hdead : v.state = .dead ∨ v.lost = true) :
    s.cmRow d kind body = u.stray d := by
  unfold State.cmRow
  rw [htake]
  dsimp only
  rw [if_neg (ne_true_of_eq_false h), hof]
  exact if_pos hdead

/-- What READY does at the collective that it names. -/
theorem exec_ready_of_takes (h : TakesColl s t d 2 p c) : exec (.ready d) s = .next (
    let r := cmNat p 2 2
    if cmDigest p ≠ c.cst.digest then t.collFail d c 0x0B01 r
    else if r = c.cst.rank then t
    else if c.ready.any (fun e => e.1 == r) then
      (if c.state = .queued then t else t.cmSend c r 5 0 0 0 (t.readyBody d c))
    else
      let v := { c with ready := c.ready ++ [(r, cmNat p 32 8)] }
      (t.collPut d v).collGo d v) := congrArg Host.Outcome.next h.cmRow

/-- What a data packet does at the collective that it names. -/
theorem exec_data_of_takes (h : TakesColl s t d 1 p c) : exec (.data d) s = .next (
    let r := cmNat p 2 2
    let chunk := cmNat p 16 4
    if cmDigest p ≠ c.cst.digest then t.collFail d c 0x0B01 r
    else if c.state = .queued ∨ !c.expects r chunk then t.stray d
    else
      let u := t.traffic (R.ME_RX_BYTES_BYTES.at (meOff d)) (c.partLen r chunk p)
      match c.taken.find? (fun e => e.1 == r && e.2.1 == chunk) with
      | some (_, _, when_) => u.dupChunk d c r chunk when_
      | none => u.takePart d c r chunk p) := congrArg Host.Outcome.next h.cmRow

/-- An acknowledge at a receiver that refused no chunk of this member. -/
theorem exec_chunkAck_of_takes (h : TakesColl s t d 3 p c) :
    let v := { c with out := c.out.filter fun x => !(x.dest == cmNat p 2 2 && x.chunk == cmNat p 16 4 && x.sent) }
    v.out.find? (fun x => x.dest == cmNat p 2 2 && x.busy) = none → exec (.chunkAck d) s = .next ((t.collPut d v).collGo d v) := by
  intro v hfree
  refine congrArg Host.Outcome.next (h.cmRow.trans ?_)
  dsimp only
  rw [hfree]

/-- A NACK of a chunk that was sent. -/
theorem exec_nack_of_takes {x : OutChunk} (h : TakesColl s t d 4 p c)
    (hsent : c.out.find? (fun x => x.dest == cmNat p 2 2 && x.chunk == cmNat p 16 4 && x.sent) = some x) : exec (.nack d) s = .next (
    if cmNat p 20 1 = 2 then
      t.collPut d { c with out := c.out.map fun x => if x.dest = cmNat p 2 2 ∧ x.chunk = cmNat p 16 4 then { x with busy := true } else x }
    else t.chunkFail d c x) := by
  refine congrArg Host.Outcome.next (h.cmRow.trans ?_)
  dsimp only
  rw [hsent]

end

/-! ## Chunks that fail -/

section
variable {s : State} {d : Nat} {c : Coll} {u : OutChunk}

theorem chunkFail_of_few (h : u.fails < 8) : s.chunkFail d c u = (s.resendChunk d c u true).1.collPut d (s.resendChunk d c u true).2 :=
  if_neg (Nat.not_le.mpr h)

theorem chunkFail_of_abortable (h : 8 ≤ u.fails) (hab : c.abortable = true) : s.chunkFail d c u = s.collFail d c 0x0B04 u.dest :=
  (if_pos h).trans (if_pos hab)

theorem chunkFail_of_written (h : 8 ≤ u.fails) (hab : c.abortable = false) : s.chunkFail d c u = s.collLost d c u.dest :=
  (if_pos h).trans (if_neg (ne_true_of_eq_false hab))

end

/-! ## ABORT -/

section
variable {s u : State} {d : Fin 4} {p : Pkt}

theorem exec_abort_of_found {v : Coll} (htake : s.takeCm d 5 = some (p, u)) (h : u.cmStray p = false)
    (hof : u.collOf d (cmGroup p) (cmNat p 4 4) = some v) : exec (.abort d) s = .next (
    if v.abortable then u.collAbort d v (cmNat p 20 2) (cmNat p 22 2) false
    else if v.state = .dead then u
    else u.meBump d R.ME_EVENTS2_LATE_ABORT 7) := by
  show execAbort d s = _
  unfold execAbort
  rw [htake]
  dsimp only
  rw [if_neg (ne_true_of_eq_false h), hof]

theorem exec_abort_of_none (htake : s.takeCm d 5 = some (p, u)) (h : u.cmStray p = false)
    (hof : u.collOf d (cmGroup p) (cmNat p 4 4) = none) : exec (.abort d) s =
    .next (u.recordAbort d ⟨cmGroup p, cmNat p 4 4, cmNat p 28 4, cmNat p 26 2, cmNat p 20 2, cmNat p 22 2⟩) := by
  show execAbort d s = _
  unfold execAbort
  rw [htake]
  dsimp only
  rw [if_neg (ne_true_of_eq_false h), hof]

theorem exec_abort_of_stray (htake : s.takeCm d 5 = some (p, u)) (h : u.cmStray p = true) : exec (.abort d) s = .next (u.stray d) := by
  show execAbort d s = _
  unfold execAbort
  rw [htake]
  exact congrArg Host.Outcome.next (if_pos h)

theorem abortable_of_live {v : Coll} (hlive : v.state = .queued ∨ v.state = .started) (hw : v.written = false) : v.abortable = true := by
  unfold Coll.abortable Coll.live
  rw [hw]
  rcases hlive with h | h <;> rw [h] <;> rfl

/-- A collective whose result is written, or that is over, aborts no more. -/
theorem not_abortable_of_done {v : Coll} (h : v.state = .done ∨ v.written = true) : v.abortable = false ∧ v.state ≠ .dead := by
  unfold Coll.abortable Coll.live
  rcases h with hdone | hw
  · rw [hdone]
    exact ⟨rfl, by decide⟩
  · have hst : v.state = .started := by
      unfold Coll.written at hw
      simp only [Bool.and_eq_true, beq_iff_eq] at hw
      exact hw.1.1
    rw [hw, hst]
    exact ⟨rfl, by decide⟩

theorem recordAbort_of_new {e : Nat} {a : AbortRec}
    (h : ∀ x ∈ (s.meng e).aborts, x.group ≠ a.group ∨ x.seq ≠ a.seq ∨ x.epoch ≠ a.epoch ∨ x.attempt ≠ a.attempt) :
    s.recordAbort e a = s.setMe e { s.meng e with
      aborts := ((s.meng e).aborts ++ [a]).drop (((s.meng e).aborts ++ [a]).length - 64) } := by
  refine if_neg fun hany => ?_
  obtain ⟨x, hx, heq⟩ := List.any_eq_true.mp hany
  simp only [Bool.and_eq_true, beq_iff_eq] at heq
  have := h x hx
  tauto

end

/-- Settles O48: each message, by the collective that it names and by what that collective holds. -/
theorem collectiveMessages : Obligations.CollectiveMessages := by
  unfold Obligations.CollectiveMessages
  intro d s t p c r chunk
  refine ⟨fun h => ?_, fun h => ?_, exec_chunkAck_of_takes, fun x h hx => ?_, fun u htake hmine => ⟨fun v hof hlive hw => ?_,
      fun v hof hdone => ?_, fun v hof hdead => ?_, fun hof => ?_⟩, fun kind i u hi htake hstray => ?_,
    fun kind i u v hi htake hmine hof hdead => ?_, fun rank => rfl⟩
  · rw [exec_ready_of_takes h]
    refine ⟨fun hdig => congrArg Host.Outcome.next (if_pos hdig), fun hdig hr hnew => ?_, fun at_ hdig hr hold hst => ?_⟩
    · refine congrArg Host.Outcome.next ((if_neg (not_not.mpr hdig)).trans ((if_neg hr).trans (if_neg fun hany => ?_)))
      obtain ⟨e, he, heq⟩ := List.any_eq_true.mp hany
      exact hnew e he (beq_iff_eq.mp heq)
    · refine congrArg Host.Outcome.next ((if_neg (not_not.mpr hdig)).trans ((if_neg hr).trans ((if_pos ?_).trans (if_neg hst))))
      exact List.any_eq_true.mpr ⟨_, hold, beq_self_eq_true r⟩
  · rw [exec_data_of_takes h]
    refine ⟨fun hdig => congrArg Host.Outcome.next (if_pos hdig), fun hdig hbad => ?_, fun hdig hst hexp => ?_⟩
    · exact congrArg Host.Outcome.next ((if_neg (not_not.mpr hdig)).trans (if_pos (hbad.imp_right fun h => by rw [h]; rfl)))
    · intro u
      dsimp only
      rw [if_neg (not_not.mpr hdig), if_neg (not_or.mpr ⟨hst, by rw [hexp]; decide⟩)]
      exact ⟨fun x y when_ hfind => by rw [hfind], fun hfind => by rw [hfind]⟩
  · rw [exec_nack_of_takes h hx]
    refine ⟨fun hbusy => congrArg Host.Outcome.next (if_pos hbusy), fun hcrc hfew => ?_, fun hcrc hmany hab => ?_,
      fun hcrc hmany hab => ?_⟩
    · exact congrArg Host.Outcome.next ((if_neg hcrc).trans (chunkFail_of_few hfew))
    · exact congrArg Host.Outcome.next ((if_neg hcrc).trans (chunkFail_of_abortable hmany hab))
    · exact congrArg Host.Outcome.next ((if_neg hcrc).trans (chunkFail_of_written hmany hab))
  · exact (exec_abort_of_found htake hmine hof).trans (congrArg Host.Outcome.next (if_pos (abortable_of_live hlive hw)))
  · obtain ⟨hab, hst⟩ := not_abortable_of_done hdone
    exact (exec_abort_of_found htake hmine hof).trans
      (congrArg Host.Outcome.next ((if_neg (ne_true_of_eq_false hab)).trans (if_neg hst)))
  · have hab : v.abortable = false := by
      unfold Coll.abortable Coll.live
      rw [hdead]
      rfl
    exact (exec_abort_of_found htake hmine hof).trans
      (congrArg Host.Outcome.next ((if_neg (ne_true_of_eq_false hab)).trans (if_pos hdead)))
  · intro e hnew l
    rw [exec_abort_of_none htake hmine hof, recordAbort_of_new hnew]
  · simp only [List.mem_cons, Prod.mk.injEq, List.not_mem_nil, or_false] at hi
    rcases hi with ⟨rfl, rfl⟩ | ⟨rfl, rfl⟩ | ⟨rfl, rfl⟩ | ⟨rfl, rfl⟩ | ⟨rfl, rfl⟩
    case inr.inr.inr.inr => exact exec_abort_of_stray htake hstray
    all_goals exact congrArg Host.Outcome.next (cmRow_of_stray htake hstray)
  · simp only [List.mem_cons, Prod.mk.injEq, List.not_mem_nil, or_false] at hi
    rcases hi with ⟨rfl, rfl⟩ | ⟨rfl, rfl⟩ | ⟨rfl, rfl⟩ | ⟨rfl, rfl⟩ <;>
      exact congrArg Host.Outcome.next (cmRow_of_dead htake hmine hof hdead)

end Sys2Proof.Machine
end

section
/-! PROOFS. A collective from its launch to its end (R340 to R355). -/

namespace Sys2Proof.Machine

section
variable {s : State} {d : Fin 4} {c : Coll}

/-- The next collective in launch order, at an engine that runs. -/
theorem exec_collectiveStart_of_next (h : (s.meng d).colls.find? (fun c => c.state == .queued) = some c) (hworks : s.dom.worksRst = false)
    (hfence : s.unitFenced R.FENCE_UNITS_ME d = false) : exec (.collectiveStart d) s = .next (
    let e := s.meng d
    let o := ctrOff d c.cst.trigIn
    if c.cst.trigEn ∧ s.flag (R.CTR_BROKEN.at o) = true then s.collAbort d c 0x0B08 c.cst.rank false
    else if (e.colls.filter (·.claims)).length ≥ 8 ∨ 2 ^ 24 < e.claimed + 2 * c.w * c.b
        ∨ (c.cst.trigEn ∧ s.fget (R.CTR_VALUE.at o) = 0) then s
    else s.startColl d c) := by
  show execCollectiveStart d s = _
  unfold execCollectiveStart
  dsimp only
  rw [h]
  exact congrArg Host.Outcome.next (if_neg (by rw [hworks, hfence]; decide))

/-- Is a chunk due to go out again (R347)? -/
def State.chunkDue (s : State) (u : OutChunk) : Bool := u.sent && decide (u.sentAt + 1000 * s.od D.COLL_RESEND_US ≤ s.rtime)

theorem exec_chunkResend_of_due {u : OutChunk} (hc : (s.meng d).colls.find? (fun c => c.claims && c.out.any s.chunkDue) = some c)
    (hu : c.out.find? s.chunkDue = some u) : exec (.chunkResend d) s = .next (
    if u.busy then (s.resendChunk d c u false).1.collPut d (s.resendChunk d c u false).2 else s.chunkFail d c u) := by
  show execChunkResend d s = _
  unfold execChunkResend
  show Host.Outcome.next (match (s.meng d).colls.find? (fun c => c.claims && c.out.any s.chunkDue) with | none => _ | some c => _) = _
  rw [hc]
  show Host.Outcome.next (match c.out.find? s.chunkDue with | none => _ | some u => _) = _
  rw [hu]

/-- A fold whose step changes nothing for any element of the list. -/
theorem foldl_eq_self {α β : Type} {f : β → α → β} (l : List α) (h : ∀ x ∈ l, ∀ b, f b x = b) (b : β) : l.foldl f b = b := by
  induction l generalizing b with
  | nil => rfl
  | cons x l ih => rw [List.foldl_cons, h x List.mem_cons_self, ih fun y hy => h y (List.mem_cons_of_mem _ hy)]

/-- READY goes out again for the first collective of an engine, where no other is started. -/
theorem exec_readyRepeat_of_first {l : List Coll} (h : (s.meng d).colls = c :: l) (hrest : ∀ x ∈ l, x.state ≠ .started) :
    exec (.readyRepeat d) s = .next (
      if c.state = .started ∧ !c.allReady ∧ c.readyAt + 1000 * s.od D.COLL_RESEND_US ≤ s.rtime then
        (s.collPut d { c with readyAt := s.rtime, lastAt := s.rtime }).cmCast c (s.readyBody d c)
      else s) := by
  show execReadyRepeat d s = _
  unfold execReadyRepeat
  rw [h, List.foldl_cons, foldl_eq_self]
  exact fun x hx t => if_neg fun hst => hrest x hx hst.1

theorem exec_stall_of_stalled (h : (s.meng d).colls.find? (fun c =>
      c.state == .started && c.abortable && decide (c.lastAt + 1000000 * s.od D.COLL_STALL_MS ≤ s.rtime)) = some c) :
    exec (.stall d) s = .next (s.draw.2.collFail d c 0x0B05 (s.draw.1.toNat % c.g)) := by
  show execStall d s = _
  unfold execStall
  rw [h]

theorem exec_coastWait_of_waiting (h : (s.meng d).colls.find? (fun c => c.state == .started && !c.coast && c.awaits &&
      s.od D.COAST_US != 0 && decide (c.waitAt + 1000 * s.od D.COAST_US < s.rtime)) = some c) :
    exec (.coastWait d) s = .next (((s.collPut d { c with coast := true }).meBump d R.ME_EVENTS3_COASTS 9).meRegs d) := by
  show execCoastWait d s = _
  unfold execCoastWait
  dsimp only
  rw [h]

theorem exec_collectiveDone_of_written (h : (s.meng d).colls.find? (·.written) = some c) :
    exec (.collectiveDone d) s = .next (s.collComplete d c) := by
  show execCollectiveDone d s = _
  unfold execCollectiveDone
  rw [h]

theorem collComplete_of_plain (h : c.snap = none) : s.collComplete d c = s.collDone d c 1 := by
  unfold State.collComplete
  rw [h]

/-- The matrix part of a gather runs as the gather is complete. -/
theorem collComplete_of_gather {t : Tile} {w : Nat} {u : State} (h : c.snap = some (t, w)) :
    (s.gatherMma c.tile t w = (.ok (), u) → s.collComplete d c = u.collDone d c 1) ∧
      ∀ x, s.gatherMma c.tile t w = (.error x, u) → s.collComplete d c = (u.collDone d c 0).lateTrap c.tile t.pc x := by
  unfold State.collComplete
  rw [h]
  exact ⟨fun hrun => by dsimp only; rw [hrun], fun x hrun => by dsimp only; rw [hrun]⟩

end

/-- Settles O49: each step of a collective's way, for the collective of its engine that takes it. -/
theorem collectiveProgress : Obligations.CollectiveProgress := by
  unfold Obligations.CollectiveProgress
  intro d s e
  refine ⟨fun c hc hworks hfence => ?_, ?_, fun c l hl hrest hst hready => ?_, fun c hc => ?_, fun c hc => exec_coastWait_of_waiting hc,
    fun c hc hsnap => ?_, fun c t w u hc hsnap => ?_⟩
  · intro o
    rw [exec_collectiveStart_of_next hc hworks hfence]
    refine ⟨fun hen hbroken => congrArg Host.Outcome.next (if_pos ⟨hen, hbroken⟩), fun htrig hroom hfit => ?_, fun hoff hfull => ?_⟩
    · refine congrArg Host.Outcome.next ((if_neg ?_).trans (if_neg ?_))
      · rintro ⟨hen, hbroken⟩
        rcases htrig with hoff | ⟨hwhole, -⟩
        · exact ne_true_of_eq_false hoff hen
        · exact ne_true_of_eq_false hwhole hbroken
      · rintro (hmany | hbig | ⟨hen, hzero⟩)
        · exact absurd hroom (Nat.not_lt.mpr hmany)
        · exact absurd hfit (Nat.not_le.mpr hbig)
        · rcases htrig with hoff | ⟨-, hpos⟩
          · exact ne_true_of_eq_false hoff hen
          · exact hpos hzero
    · exact congrArg Host.Outcome.next ((if_neg fun h => ne_true_of_eq_false hoff h.1).trans (if_pos (Or.inl hfull)))
  · intro due c u hc hu
    rw [exec_chunkResend_of_due hc hu]
    refine ⟨fun hbusy => congrArg Host.Outcome.next (if_pos hbusy), fun hcrc hfew => ?_, fun hcrc hmany hab => ?_, fun hcrc hmany hab => ?_⟩
    · exact congrArg Host.Outcome.next ((if_neg (ne_true_of_eq_false hcrc)).trans (chunkFail_of_few hfew))
    · exact congrArg Host.Outcome.next ((if_neg (ne_true_of_eq_false hcrc)).trans (chunkFail_of_abortable hmany hab))
    · exact congrArg Host.Outcome.next ((if_neg (ne_true_of_eq_false hcrc)).trans (chunkFail_of_written hmany hab))
  · rw [exec_readyRepeat_of_first hl hrest]
    exact ⟨fun hdue => congrArg Host.Outcome.next (if_pos ⟨hst, by rw [hready]; rfl, hdue⟩),
      fun hearly => congrArg Host.Outcome.next (if_neg fun h => absurd h.2.2 (Nat.not_le.mpr hearly))⟩
  · refine ⟨s.draw.1.toNat % c.g, s.draw.2, rfl, ?_, exec_stall_of_stalled hc⟩
    rcases Nat.eq_zero_or_pos c.g with h0 | hpos
    · exact .inl h0
    · exact .inr (Nat.mod_lt _ hpos)
  · exact (exec_collectiveDone_of_written hc).trans (congrArg Host.Outcome.next (collComplete_of_plain hsnap))
  · obtain ⟨hok, herr⟩ := collComplete_of_gather (s := s) (d := d) (u := u) hsnap
    rw [exec_collectiveDone_of_written hc]
    exact ⟨fun hrun => congrArg Host.Outcome.next (hok hrun), fun x hrun => congrArg Host.Outcome.next (herr x hrun)⟩

end Sys2Proof.Machine
end

section
/-! PROOFS. The governor: power alerts, buffer stop, blades and ticks (R366 to R386). -/

namespace Sys2Proof.Machine

/-! ## Buffer stop -/

section
variable {s : State}

/-- Entry to buffer stop while LINE is out of reset. -/
theorem enterBs_of_line (hheld : s.gov.held = false) (hline : s.dom.lineRst = false) (cause : Nat) :
    let t := s.govMod fun g => { g with held := true, fresh := true, bsAt := max 1 s.clock.run, msBs := true, cause := cause }
    let u := (((t.fset R.PWR_STATUS_BS_CAUSE cause).fset R.PWR_STATUS_STATE 3).bsActuators fun _ => 16).bump
      R.PWR_EVENTS_ALERTS R.PWR_FLAGS_ALERTS_OVF 1
    s.enterBs cause = (u.report govSource .bufferStop cause 0).bsEvent 1 := by
  intro t u
  have hcause : (s.govMod fun g => { g with held := true, fresh := true, bsAt := max 1 s.clock.run, msBs := true }).bsCause cause =
      t.fset R.PWR_STATUS_BS_CAUSE cause := if_neg (ne_true_of_eq_false hline)
  unfold State.enterBs
  rw [if_neg (by rw [hheld]; exact fun h => Bool.false_ne_true h.1)]
  dsimp only
  rw [hcause]
  have hdom : (t.fset R.PWR_STATUS_BS_CAUSE cause).dom.lineRst = false := hline
  rw [hdom, if_neg Bool.false_ne_true]

/-- Entry to buffer stop while LINE is in reset: the power module acts. -/
theorem enterBs_of_dark (hheld : s.gov.held = false) (hline : s.dom.lineRst = true) (cause : Nat) :
    let t := s.govMod fun g => { g with held := true, fresh := true, bsAt := max 1 s.clock.run, msBs := true, cause := cause,
                                        offSet := 450, modBal := 0 }
    s.enterBs cause = (t.report govSource .bufferStop cause 0).bsEvent 1 := by
  intro t
  have hcause : (s.govMod fun g => { g with held := true, fresh := true, bsAt := max 1 s.clock.run, msBs := true }).bsCause cause =
      s.govMod fun g => { g with held := true, fresh := true, bsAt := max 1 s.clock.run, msBs := true, cause := cause } := if_pos hline
  unfold State.enterBs
  rw [if_neg (by rw [hheld]; exact fun h => Bool.false_ne_true h.1)]
  dsimp only
  rw [hcause]
  have hdom : (s.govMod fun g => { g with held := true, fresh := true, bsAt := max 1 s.clock.run, msBs := true, cause := cause }).dom.lineRst =
      true := hline
  rw [if_pos hdom]
  rfl

theorem releaseBs_of_free (hst : s.govState = 3) (halert : s.alert = false) (hforce : s.thermForce = false) :
    s.releaseBs = s.fset R.PWR_STATUS_STATE 4 := if_pos ⟨hst, halert, hforce⟩

theorem releaseBs_of_forced (h : s.govState ≠ 3 ∨ s.alert = true ∨ s.thermForce = true) : s.releaseBs = s := by
  refine if_neg ?_
  rintro ⟨hst, halert, hforce⟩
  rw [halert, hforce] at h
  rcases h with h | h | h
  · exact h hst
  · exact Bool.false_ne_true h
  · exact Bool.false_ne_true h

/-- The detail of phase 3 of a buffer stop. -/
theorem bsEvent_three : s.bsEvent 3 = s.event govSource 0x0C80 (leBytes 1 s.gov.cause ++ [3, 0, 0] ++ leBytes 2 (s.fget R.PWR_INPUT_VIN)
    ++ leBytes 2 (s.fget R.PWR_NOW_TICK_W)) := rfl

end

/-! ## The tick -/

section
variable {s : State} {x : GovIn}

/-- The state of a tick once it has measured. -/
def State.tickMeasured (s : State) (x : GovIn) : State :=
  ((s.measure x).govMod fun g => { g with
    fresh := false, modBal := 0, offSet := 0, hints := if g.held then hintStep (s.measure x).rtime g.t g.hints else g.hints }).liveFlags.pinFlags

/-- The cause that a tick finds for buffer stop. -/
def State.tickCause (s : State) : Nat :=
  if s.gov.held then s.gov.cause else if s.gov.alerts.isEmpty then (if s.gov.alertExt then 2 else 3) else 1

theorem tickCause_eq (s : State) : s.tickCause =
    if s.gov.held then s.gov.cause else if !s.gov.alerts.isEmpty then 1 else if s.gov.alertExt then 2 else 3 := by
  unfold State.tickCause
  cases s.gov.alerts.isEmpty <;> rfl

/-- A tick measures, and then enters buffer stop, stays in it, or runs the control law. -/
theorem exec_governorTick_of_line (hpow : s.dom.powered = true) (hline : s.dom.lineRst = false) : exec (.governorTick x) s = .next (
    let t := s.tickMeasured x
    if t.alert ∨ t.thermForce then
      if t.govState ≠ 3 then
        let v := if t.gov.held then t else t.enterBs t.tickCause
        ((v.fset R.PWR_STATUS_STATE 3).bsCause t.tickCause).bsActuators fun _ => 16
      else t.bsTick
    else if t.gov.held then
      (if t.govState = 4 then t else ((t.fset R.PWR_STATUS_STATE 4).bsCause t.gov.cause).bsActuators fun _ => 16).bsTick
    else (if t.govEntries.govState = 0 then t.govEntries.govFirst x.tickW.toNat else t.govEntries).govLoad.control x) := by
  simp only [tickCause_eq]
  exact congrArg Host.Outcome.next ((if_neg (by rw [hpow]; decide)).trans (if_neg (ne_true_of_eq_false hline)))

end

/-- Settles O50: each command of the governor, in the state that lets it act. -/
theorem powerCommands : Obligations.PowerCommands := by
  unfold Obligations.PowerCommands
  refine ⟨fun s hpow => congrArg Host.Outcome.next (if_pos (congrArg (! ·) hpow)), fun s hpow => ?_⟩
  intro asserted
  refine ⟨?_, fun hheld hline cause => ?_,
    fun hheld hline cause => ?_, ?_, fun row => ?_, fun hst halert hforce => ?_, fun t => rfl, fun hst hdue => ?_, fun b => ⟨fun hlost => ?_,
      fun hlost => ?_⟩, fun x hline => ?_, fun hearly => if_pos hearly, fun hdue => ?_, fun x hline => ?_⟩
  · exact congrArg Host.Outcome.next (if_neg (by rw [show asserted.dom.powered = true from hpow]; decide))
  · exact enterBs_of_line hheld hline cause
  · exact enterBs_of_dark hheld hline cause
  · intro t
    have hexec : exec .pwrAlertRelease s = .next t.releaseBs.pinFlags := rfl
    rw [hexec]
    exact ⟨fun hst halert hforce => by rw [releaseBs_of_free hst halert hforce], fun h => by rw [releaseBs_of_forced h]⟩
  · intro r k
    refine ⟨fun hnew => congrArg Host.Outcome.next ((if_neg ?_).trans (if_pos rfl)),
      fun hold => congrArg Host.Outcome.next ((if_neg ?_).trans (if_neg Bool.false_ne_true))⟩
    · rw [hpow, hnew]
      decide
    · rw [hpow, hold]
      decide
  · exact congrArg Host.Outcome.next (if_pos ⟨hst, halert, hforce⟩)
  · intro t
    have hexec : exec .staggerEnd s = .next _ := congrArg Host.Outcome.next (if_pos ⟨hst, hdue⟩)
    rw [hexec, bsEvent_three]
    exact ⟨fun h0 => congrArg Host.Outcome.next (if_pos h0), fun h0 => congrArg Host.Outcome.next (if_neg h0)⟩
  · exact congrArg Host.Outcome.next (if_neg (by rw [hpow, hlost]; decide))
  · exact congrArg Host.Outcome.next (if_neg (not_not.mpr hlost))
  · intro t r cause
    rw [exec_governorTick_of_line hpow hline]
    have hcalm : t.alert = false → t.thermForce = false → ¬ (t.alert = true ∨ t.thermForce = true) := by
      intro halert hforce
      rw [halert, hforce]
      decide
    refine ⟨fun halert hforce hheld hst => ?_, fun halert hforce hheld hst => ?_, fun halert hforce hheld hst => ?_,
      fun halert hforce hheld hst => ?_, fun hforced hst => ?_, fun hforced hst => ?_⟩
    · refine congrArg Host.Outcome.next ((if_neg (hcalm halert hforce)).trans ((if_neg (ne_true_of_eq_false hheld)).trans ?_))
      exact congrArg (fun u : State => u.govLoad.control x) (if_neg hst)
    · refine congrArg Host.Outcome.next ((if_neg (hcalm halert hforce)).trans ((if_neg (ne_true_of_eq_false hheld)).trans ?_))
      exact congrArg (fun u : State => u.govLoad.control x) (if_pos hst)
    · refine congrArg Host.Outcome.next ((if_neg (hcalm halert hforce)).trans ((if_pos hheld).trans ?_))
      exact congrArg State.bsTick (if_pos hst)
    · refine congrArg Host.Outcome.next ((if_neg (hcalm halert hforce)).trans ((if_pos hheld).trans ?_))
      exact congrArg State.bsTick (if_neg hst)
    · exact congrArg Host.Outcome.next ((if_pos hforced).trans (if_pos hst))
    · exact congrArg Host.Outcome.next ((if_pos hforced).trans (if_neg (not_not.mpr hst)))
  · refine ⟨s.draw.2, fun d => 16 + s.draw.1.toNat / 65536 ^ d % 65536 % 241, rfl, fun d => ?_, if_neg (Nat.not_lt.mpr hdue)⟩
    dsimp only
    omega
  · exact congrArg Host.Outcome.next ((if_neg (by rw [hpow]; decide)).trans (if_pos hline))

end Sys2Proof.Machine
end

section
/-! PROOFS. The governor's target, its bounds and slew (R376, R383, R386). -/

namespace Sys2Proof.Machine

/-! ## What leaves the governor's own data as they are -/

section
variable (s : State)

theorem State.foldl_gov {α : Type} {f : State → α → State} (hf : ∀ u a, (f u a).gov = u.gov) (l : List α) : (l.foldl f s).gov = s.gov :=
  Keeps.foldl (P := fun u => u.gov = s.gov) rfl fun u a hu => (hf u a).trans hu

@[simp] theorem State.freeSet_gov (d : Nat) : (s.freeSet d).2.gov = s.gov := by
  unfold State.freeSet
  dsimp only
  split
  · rfl
  · split
    · rfl
    · split <;> rfl

@[simp] theorem State.meRegs_gov (d : Nat) : (s.meRegs d).gov = s.gov := by
  unfold State.meRegs
  simp only [State.fset_gov]

@[simp] theorem State.ownPace_gov (d r : Nat) : (s.ownPace d r).gov = s.gov := by
  unfold State.ownPace
  dsimp only
  split
  · rfl
  · split
    · rfl
    · rw [State.meRegs_gov, State.setMe_gov, State.fset_gov]

@[simp] theorem State.setRate_gov (d : Nat) : (s.setRate d).gov = s.gov := by
  unfold State.setRate
  dsimp only
  rw [State.ownPace_gov, State.fset_gov]
  split <;> rfl

@[simp] theorem State.throttle_gov (d : Nat) : (s.throttle d).gov = s.gov := by
  unfold State.throttle
  simp only [State.fset_gov]
  exact s.freeSet_gov d

@[simp] theorem State.trimmed_gov (d : Nat) (lower : Bool) : (s.trimmed d lower).gov = s.gov := by
  cases lower <;> rfl

@[simp] theorem State.tileBallast_gov (l : List Nat) (n : Nat) : (s.tileBallast n l).gov = s.gov := by
  induction l generalizing s n with
  | nil => rfl
  | cons d l ih => exact ih _ _

@[simp] theorem State.hintRegs_gov : s.hintRegs.gov = s.gov := by
  unfold State.hintRegs
  simp only [State.setFlag_gov, State.fset_gov]

@[simp] theorem State.liveFlags_gov : s.liveFlags.gov = s.gov := by
  unfold State.liveFlags
  split <;> rfl

@[simp] theorem State.effRegs_gov : s.effRegs.gov = s.gov := by
  unfold State.effRegs
  simp only [State.fset_gov]

end

/-! ## The target through a tick -/

section
variable (s : State)

theorem oncePerS_target (code : Nat) {body : State → State} (hbody : ∀ u, (body u).gov = u.gov) :
    (s.oncePerS code body).gov.t = s.gov.t := by
  unfold State.oncePerS
  split
  · rfl
  · rw [hbody]
    rfl

theorem setBind_target (b : Nat) : (s.setBind b).gov.t = s.gov.t := by
  unfold State.setBind
  dsimp only
  split
  · rw [oncePerS_target _ _ fun u => State.event_gov _ _ _ _, State.bump_gov, State.fset_gov]
  · rfl

theorem govMod_target {f : Gov → Gov} (hf : ∀ g, (f g).t = g.t) : (s.govMod f).gov.t = s.gov.t := hf _

theorem allocate_target (t : Nat) (x : GovIn) : (s.allocate t x).gov.t = s.gov.t := by
  unfold State.allocate
  extract_lets demand targets before aim free ballast caps tile shared shown allotted
  have htargets : targets.gov = s.gov := State.foldl_gov s (fun u d => u.fset_gov _ _) _
  have hbefore : before.gov.t = targets.gov.t := govMod_target targets fun g => rfl
  have hfree : free.gov = before.gov := by
    refine State.foldl_gov _ (fun u d => ?_) _
    have hset := u.freeSet_gov d
    generalize u.freeSet d = r at hset ⊢
    exact (State.fset_gov _ _ _).trans ((State.trimmed_gov _ d _).trans hset)
  have hshown : shown.gov = before.gov := by
    rw [State.fset_gov, State.tileBallast_gov, hfree]
  have hheld : ∀ l, (List.foldl (fun s d => (s.throttle d).fset (R.DIE_PWR2_BALLAST_W.at (diePwr d)) 0)
      (before.fset R.PWR_NOW_BALLAST_W 0) l).gov = before.gov := fun l =>
    (State.foldl_gov _ (fun u d => (State.fset_gov _ _ _).trans (u.throttle_gov d)) l).trans (State.fset_gov _ _ _)
  have hallotted : allotted.gov.t = before.gov.t := by
    clear_value shown before
    refine Keeps.ite (P := fun u => u.gov.t = before.gov.t) (congrArg Gov.t (hheld _)) (Keeps.ite (P := fun u => u.gov.t = before.gov.t) ?_ ?_)
    · exact (govMod_target shown fun g => rfl).trans (congrArg Gov.t hshown)
    · exact congrArg Gov.t hshown
  rw [State.foldl_gov _ fun u d => u.setRate_gov d, hallotted, hbefore, htargets]

end

/-! ## The state of the governor in its register -/

section
variable {s : State}

/-- A field that does not read as its reset value reads the same after a write of another field of its register, whatever the table of
registers lists. -/
theorem fget_fset_ne_of_set {f g : Fld} (v : Nat) (hf : f.lo + f.w ≤ 64) (hg : g.lo + g.w ≤ 64) (hd : g.lo + g.w ≤ f.lo ∨ f.lo + f.w ≤ g.lo)
    (hoff : g.off = f.off) (hset : getBits (csrDflt g.off) g.lo g.w ≠ s.fget g) : (s.fset f v).fget g = s.fget g := by
  have hkept : getBits (setBits (s.csrGet f.off) f.lo f.w v) g.lo g.w = s.fget g :=
    (getBits_setBits_ne _ _ hf hg hd).trans (congrArg (fun o => getBits (s.csrGet o) g.lo g.w) hoff.symm)
  have hne : setBits (s.csrGet f.off) f.lo f.w v ≠ csrDflt f.off := by
    intro heq
    rw [← hkept, heq, hoff] at hset
    exact hset rfl
  have hread : (s.fset f v).csrGet f.off = setBits (s.csrGet f.off) f.lo f.w v := csrGet_csrPut_of_ne hne
  calc (s.fset f v).fget g = getBits ((s.fset f v).csrGet f.off) g.lo g.w := congrArg (fun o => getBits ((s.fset f v).csrGet o) g.lo g.w) hoff
    _ = s.fget g := by rw [hread, hkept]

theorem govState_fset_ne {f : Fld} (v : Nat) (h : R.PWR_STATUS ≠ f.off) : (s.fset f v).govState = s.govState :=
  congrArg (getBits · 0 4) (State.csrGet_fset_ne h v)

theorem govState_reset : getBits (csrDflt R.PWR_STATUS) 0 4 = 0 := by decide +kernel

/-- STAGGER stands while the hint registers are written. -/
theorem govState_hintRegs (h : s.govState = 2) : s.hintRegs.govState = 2 := by
  have hflag : ∀ (u : State) b, u.govState = 2 → (u.setFlag R.PWR_STATUS_HINT_ON b).govState = 2 := by
    intro u b hu
    refine (fget_fset_ne_of_set (f := R.PWR_STATUS_HINT_ON) (g := R.PWR_STATUS_STATE) _ (by decide) (by decide) (by decide) rfl ?_).trans hu
    intro heq
    exact absurd (govState_reset.symm.trans (heq.trans hu)) (by decide)
  unfold State.hintRegs
  dsimp only
  refine hflag _ _ ?_
  rw [govState_fset_ne _ (by decide), govState_fset_ne _ (by decide), govState_fset_ne _ (by decide)]
  exact h

end

/-- The target after a tick: within SLEW of the last one, upward only where no start is staggered, and never above a bound. -/
theorem control_target (s : State) (x : GovIn) : ∃ goal up,
    (s.control x).gov.t = min (min (max goal (s.gov.t - s.fget R.PWR_SMOOTH_SLEW)) up) ((s.bounds.map (·.1)).foldl min (100 * pMax)) ∧
      s.gov.t ≤ up ∧ up ≤ s.gov.t + s.fget R.PWR_SMOOTH_SLEW ∧ (s.govState = 2 → up = s.gov.t) := by
  unfold State.control
  extract_lets demand slew t hard hi hinted u floors lo want goal stag up dn t1 t2 bind floor v
  refine ⟨goal, up, ?_, ?_, ?_, fun hst => ?_⟩
  · rw [allocate_target, setBind_target, State.fset_gov]
    rfl
  · show t ≤ if stag = true then t else t + slew
    split
    · exact Nat.le_refl _
    · exact Nat.le_add_right _ _
  · show (if stag = true then t else t + slew) ≤ t + slew
    split
    · exact Nat.le_add_right _ _
    · exact Nat.le_refl _
  · have hstag : stag = true := beq_iff_eq.mpr (govState_hintRegs (s := hinted) hst)
    exact if_pos hstag

/-! ## Ticks with LINE in reset -/

section
variable (s : State)

@[simp] theorem State.liveFlags_dom : s.liveFlags.dom = s.dom := by
  unfold State.liveFlags
  split <;> rfl

@[simp] theorem State.effRegs_dom : s.effRegs.dom = s.dom := by
  unfold State.effRegs
  simp only [State.fset_dom]

@[simp] theorem State.govEntries_dom : s.govEntries.dom = s.dom := by
  unfold State.govEntries
  split
  · rfl
  · dsimp only
    simp only [State.liveFlags_dom, State.effRegs_dom, State.govMod_dom, State.fset_dom]

@[simp] theorem State.govEase_dom : s.govEase.dom = s.dom := by
  unfold State.govEase
  split
  · rfl
  · dsimp only
    rw [State.effRegs_dom, State.govMod_dom]

/-- The entries set effective values only. -/
theorem govEntries_kept {β : Type} (f : Gov → β) (hf : ∀ g a b c, f { g with ePeak := a, eAvg := b, eOper := c } = f g) :
    f s.govEntries.gov = f s.gov := by
  unfold State.govEntries
  split
  · rfl
  · dsimp only
    rw [State.liveFlags_gov, State.effRegs_gov]
    refine (hf _ _ _ _).trans ?_
    simp only [State.fset_gov]

theorem govEase_kept {β : Type} (f : Gov → β)
    (hf : ∀ g a b c d e, f { g with ePeak := a, eAvg := b, eOper := c, eOrphan := d, eFloor := e } = f g) : f s.govEase.gov = f s.gov := by
  unfold State.govEase
  split
  · rfl
  · dsimp only
    rw [State.effRegs_gov]
    exact hf _ _ _ _ _ _

/-- What a tick with LINE in reset leaves in the power module, at the pace in force. -/
theorem offTick_gov (x : GovIn) : let u := (s.govMod fun g => { g with energyJ := g.energyJ + x.tickW.toNat }).govEntries.govEase
    ∃ need, (s.offTick x).gov.energyJ = s.gov.energyJ + x.tickW.toNat ∧
      (s.offTick x).gov.modBal = if s.gov.held || s.dom.cutoff then 0
        else max (s.gov.modBal - u.fget R.PWR_SMOOTH_SLEW) (min need (s.gov.modBal + u.fget R.PWR_SMOOTH_SLEW)) := by
  intro u
  have henergy : u.gov.energyJ = s.gov.energyJ + x.tickW.toNat :=
    (govEase_kept _ Gov.energyJ fun _ _ _ _ _ _ => rfl).trans (govEntries_kept _ Gov.energyJ fun _ _ _ _ => rfl)
  have hbal : u.gov.modBal = s.gov.modBal :=
    (govEase_kept _ Gov.modBal fun _ _ _ _ _ _ => rfl).trans (govEntries_kept _ Gov.modBal fun _ _ _ _ => rfl)
  have hheld : u.gov.held = s.gov.held :=
    (govEase_kept _ Gov.held fun _ _ _ _ _ _ => rfl).trans (govEntries_kept _ Gov.held fun _ _ _ _ => rfl)
  have hdom : u.dom = s.dom := (State.govEase_dom _).trans (State.govEntries_dom _)
  refine ⟨if s.gov.held || s.dom.cutoff then 0 else min 80000 (100 * u.offFloor - (100 * x.tickW.toNat - s.gov.modBal)), henergy, ?_⟩
  rw [← hbal, ← hheld, ← hdom]
  rfl

end

/-- Settles O51: the target by the control law, and the power module's load by the tick with LINE in reset. -/
theorem governorSlew : Obligations.GovernorSlew := by
  unfold Obligations.GovernorSlew
  intro s x t hi slew
  obtain ⟨goal, up, ht, hlo, hup, hstag⟩ := control_target s x
  have htarget : t = min (min (max goal (s.gov.t - slew)) up) hi := ht
  refine ⟨by omega, by omega, fun hfall => by omega, fun hst => ?_, ?_⟩
  · have := hstag hst
    omega
  · intro now pace
    obtain ⟨need, henergy, hbal⟩ := offTick_gov s x
    have hnow : now = if s.gov.held || s.dom.cutoff then 0 else max (s.gov.modBal - pace) (min need (s.gov.modBal + pace)) := hbal
    refine ⟨henergy, ?_, fun hheld hcut => ?_, fun hheld => ?_⟩
    · rw [hnow]
      split
      · exact Nat.zero_le _
      · omega
    · rw [hnow, hheld, hcut]
      exact Nat.le_max_left _ _
    · rw [hnow, hheld]
      rfl

end Sys2Proof.Machine
end

section
/-! PROOFS. Thermal control: the sample, the estimator and the caps (R391 to R405). -/

namespace Sys2Proof.Machine

/-! ## The soft trip -/

section
variable {s : State}

theorem softStep_of_tripped {i : Nat} (h : s.softTripped = some i) : s.softStep =
    let t := s.thMod fun t => { t with coolFor := 0 }
    if nbit t.therm.causes 1 = 1 then t
    else ((t.thMod fun t => { t with soft := i }).forceOn 1 (sensorPlace i)).report thermSource .thermSoft i 0 := by
  unfold State.softStep
  rw [h]

theorem softStep_of_none (h : s.softTripped = none) : s.softStep =
    let t := s.thMod fun t => { t with coolFor := if s.softCool then t.coolFor + 1 else 0 }
    if nbit t.therm.causes 1 = 1 ∧ 10000 < t.therm.coolFor then (t.forceOff 1).report thermSource .thermSoft t.therm.soft 0 true else t := by
  unfold State.softStep
  rw [h]

theorem nbit_ne_one {n k : Nat} (h : nbit n k = 0) : ¬ nbit n k = 1 := by omega

/-- A sample that trips nothing, with every sensor below its release. -/
theorem softStep_of_cool (h : s.softTripped = none) (hcool : s.softCool = true) : s.softStep =
    let t := s.thMod fun t => { t with coolFor := s.therm.coolFor + 1 }
    if nbit s.therm.causes 1 = 1 ∧ 10000 < s.therm.coolFor + 1 then
      (t.forceOff 1).report thermSource .thermSoft s.therm.soft 0 true else t := by
  rw [softStep_of_none h, hcool]
  rfl

/-- A sample that trips nothing, with a sensor above its release. -/
theorem softStep_of_warm (h : s.softTripped = none) (hcool : s.softCool = false) :
    s.softStep = s.thMod fun t => { t with coolFor := 0 } := by
  rw [softStep_of_none h, hcool]
  exact if_neg fun hlong => absurd hlong.2 (Nat.not_lt_zero _)

/-- What a sample files of a sensor. -/
theorem sample_reading {l : List (Option Int)} {i : Nat} (hi : i < 197) :
    let a := s.thMod fun t => { t with sampled := true, temp := Vector.ofFn fun i => (l.getD i.val none).getD (vget 0 t.temp i.val),
                                       fault := Vector.ofFn fun i => (l.getD i.val none).isNone }
    a.temp i = (l.getD i none).getD (s.temp i) ∧ a.tFault i = (l.getD i none).isNone :=
  ⟨vget_ofFn _ _ hi, vget_ofFn _ _ hi⟩

end

/-! ## The estimator -/

/-- The mean of a second whose 1 ms means all lie within 5 % of it and at 300 W or more. -/
theorem steadyMean_eq_some (l : List Nat) (p : Rat) : steadyMean l = some p ↔
    1000 ≤ l.length ∧ p = (natSum (l.take 1000) : Rat) / 100000 ∧
      ∀ x ∈ l.take 1000, 30000 ≤ x ∧ (x : Rat) - 100 * p ≤ 5 * p ∧ 100 * p - (x : Rat) ≤ 5 * p := by
  have hlen : (l.take 1000).length = 1000 ↔ 1000 ≤ l.length := by
    rw [List.length_take]
    omega
  have hband : ∀ (q : Rat) (x : Nat), q = (natSum (l.take 1000) : Rat) / 100000 →
      ((100 * ((x : Rat) - (natSum (l.take 1000) : Rat) / 1000) ≤ 5 * ((natSum (l.take 1000) : Rat) / 1000) ∧
        100 * ((natSum (l.take 1000) : Rat) / 1000 - x) ≤ 5 * ((natSum (l.take 1000) : Rat) / 1000)) ↔
      ((x : Rat) - 100 * q ≤ 5 * q ∧ 100 * q - (x : Rat) ≤ 5 * q)) := by
    rintro q x rfl
    constructor
    · rintro ⟨h1, h2⟩
      constructor <;> linarith
    · rintro ⟨h1, h2⟩
      constructor <;> linarith
  have hmean : (natSum (l.take 1000) : Rat) / 1000 / 100 = (natSum (l.take 1000) : Rat) / 100000 := by
    rw [div_div]
    norm_num
  unfold steadyMean
  dsimp only
  rw [Option.ite_none_right_eq_some, hmean, hlen, List.all_eq_true]
  simp only [Option.some.injEq, Bool.and_eq_true, decide_eq_true_eq]
  constructor
  · rintro ⟨⟨hl, hall⟩, rfl⟩
    exact ⟨hl, rfl, fun x hx => ⟨(hall x hx).1, (hband _ x rfl).mp (hall x hx).2⟩⟩
  · rintro ⟨hl, hp, hall⟩
    exact ⟨⟨hl, fun x hx => ⟨(hall x hx).1, (hband p x hp).mpr (hall x hx).2⟩⟩, hp.symm⟩

/-- The counts of an estimator update, by the thresholds of R397. -/
def State.flowCounts (u : State) (warn need : Rat) : State :=
  (u.thMod fun t => { t with
    lowFor := if warn ≤ u.rthDie then t.lowFor + 1 else 0, flowFor := if u.therm.flow < need then t.flowFor + 1 else 0,
    wellFor := if 10 * u.rthDie ≤ 9 * warn ∧ 11 * need ≤ 10 * u.therm.flow then t.wellFor + 1 else 0 }).rthRegs

section
variable {s : State}

/-- The estimates after an update at a steady mean of `p` W. -/
def State.estMoved (s : State) (p : Rat) : State :=
  s.thMod fun t => { t with
    rth := Vector.ofFn fun x => vget 0 t.rth x.val + (kelvin (s.tx x.val - s.tIn) / p - vget 0 t.rth x.val) / 64 }

/-- What an update makes of the estimates, before it counts. -/
def State.estimated (s : State) : State :=
  match steadyMean s.gov.means with
  | none => s
  | some p =>
    if !s.takesPart 195 then s
    else if (s.estMoved p).takesPart 196 ∧ deg 2 ≤ (s.estMoved p).temp 196 - (s.estMoved p).temp 195 then
      (s.estMoved p).thMod fun t => { t with flow := if (s.estMoved p).od D.COOLANT_C = 0 then (Config.thermFree 24 : Rat)
        else p / ((((s.estMoved p).od D.COOLANT_C : Nat) : Rat) / 10 * kelvin ((s.estMoved p).temp 196 - (s.estMoved p).temp 195)) }
    else s.estMoved p

theorem estimated_od (k : Nat) : s.estimated.od k = s.od k := by
  unfold State.estimated
  split
  · rfl
  · split
    · rfl
    · split
      · exact (State.thMod_od _ _ _).trans (State.thMod_od s _ k)
      · exact State.thMod_od s _ k

theorem exec_estimatorUpdate_of_line (hline : s.dom.lineRst = false) (hpow : s.dom.powered = true) :
    exec .estimatorUpdate s = .next (s.estimated.flowCounts ((s.od D.RTH_WARN : Rat) / 100000) ((s.od D.FLOW_WARN : Rat) / 100)) := by
  rw [← estimated_od D.RTH_WARN, ← estimated_od D.FLOW_WARN]
  refine congrArg Host.Outcome.next ((if_neg ?_).trans ?_)
  · rw [hline, hpow]
    decide
  · unfold State.flowCounts
    simp only [← Bool.decide_and, decide_eq_true_eq]
    rfl

theorem estimated_of_unsteady (h : steadyMean s.gov.means = none ∨ s.takesPart 195 = false) : s.estimated = s := by
  unfold State.estimated
  rcases h with h | h
  · rw [h]
  · split
    · rfl
    · rw [h]
      rfl

theorem estimated_of_steady {p : Rat} (h : steadyMean s.gov.means = some p) (hin : s.takesPart 195 = true) : s.estimated =
    if s.takesPart 196 ∧ deg 2 ≤ s.temp 196 - s.temp 195 then
      (s.estMoved p).thMod fun t => { t with flow := if s.od D.COOLANT_C = 0 then (Config.thermFree 24 : Rat)
        else p / (((s.od D.COOLANT_C : Nat) : Rat) / 10 * kelvin (s.temp 196 - s.temp 195)) }
    else s.estMoved p := by
  unfold State.estimated
  rw [h]
  dsimp only
  rw [hin]
  rfl

end

/-! ## The estimated cap -/

/-- A fold that keeps the least value seen, with the index where it was first seen. -/
theorem foldl_least (f : Nat → Rat) (l : List Nat) (b : Rat × Nat) :
    let r := l.foldl (fun b x => if f x < b.1 then (f x, x) else b) b
    r.1 ≤ b.1 ∧ (∀ x ∈ l, r.1 ≤ f x) ∧ (r = b ∨ r.2 ∈ l ∧ r.1 = f r.2 ∧ r.1 < b.1) := by
  induction l generalizing b with
  | nil => exact ⟨le_refl _, fun x hx => absurd hx (List.not_mem_nil), .inl rfl⟩
  | cons y l ih =>
    rw [List.foldl_cons]
    by_cases hlt : f y < b.1
    · rw [if_pos hlt]
      obtain ⟨hle, hmem, hfrom⟩ := ih (f y, y)
      refine ⟨hle.trans hlt.le, ?_, .inr ?_⟩
      · rintro x (_ | ⟨_, hx⟩)
        · exact hle
        · exact hmem x hx
      · rcases hfrom with heq | ⟨hin, hval, hless⟩
        · rw [heq]
          exact ⟨List.mem_cons_self, rfl, hlt⟩
        · exact ⟨List.mem_cons_of_mem _ hin, hval, hless.trans hlt⟩
    · rw [if_neg hlt]
      obtain ⟨hle, hmem, hfrom⟩ := ih b
      refine ⟨hle, ?_, hfrom.imp_right fun ⟨hin, hval⟩ => ⟨List.mem_cons_of_mem _ hin, hval⟩⟩
      rintro x (_ | ⟨_, hx⟩)
      · exact hle.trans (not_lt.mp hlt)
      · exact hmem x hx

theorem capW_le (r : Rat) (top : Nat) : capW r top ≤ top := Nat.min_le_right _ _

theorem capW_mono {q r : Rat} (h : q ≤ r) (top : Nat) : capW q top ≤ capW r top := by
  have hfloor : q.floor.toNat ≤ r.floor.toNat := Int.toNat_le_toNat (Rat.floor_monotone h)
  unfold capW
  omega

theorem capW_top (n : Nat) : capW (n : Rat) n = n := by
  have hfloor : (n : Rat).floor = n := Int.floor_natCast (R := Rat) n
  unfold capW
  rw [hfloor, Int.toNat_natCast, Nat.min_self]

/-- The region that limits the power most, and the cap that it allows (R394). -/
theorem estCap_least {s : State} {est reg : Nat} (h : s.estCap = (est, reg)) : est ≤ pMax ∧
    (∀ x, x < 12 → 0 < s.rth x → est ≤ capW (kelvin (s.limitX x - s.tIn) / s.rth x) pMax) ∧
    ((∀ x, x < 12 → (pMax : Rat) ≤ s.estOf x) → est = pMax ∧ reg = 0) ∧
    (∀ x, x < 12 → s.estOf x < (pMax : Rat) → reg < 12 ∧ est = capW (s.estOf reg) pMax ∧ s.estOf reg ≤ s.estOf x) := by
  obtain ⟨hle, hmem, hfrom⟩ := foldl_least s.estOf (List.range 12) ((pMax : Rat), 0)
  unfold State.estCap at h
  dsimp only at h
  obtain ⟨hest, hreg⟩ := Prod.mk.inj h
  generalize (List.range 12).foldl (fun b x => if s.estOf x < b.1 then (s.estOf x, x) else b) ((pMax : Rat), 0) = best at *
  subst hest
  subst hreg
  refine ⟨capW_le _ _, fun x hx hpos => ?_, fun hall => ?_, fun x hx hlow => ?_⟩
  · have hof : s.estOf x = kelvin (s.limitX x - s.tIn) / s.rth x := if_neg (not_le.mpr hpos)
    rw [← hof]
    exact capW_mono (hmem x (List.mem_range.mpr hx)) _
  · rcases hfrom with heq | ⟨hin, hval, hless⟩
    · rw [heq]
      exact ⟨capW_top pMax, rfl⟩
    · exact absurd (hval ▸ hless) (not_lt.mpr (hall _ (List.mem_range.mp hin)))
  · rcases hfrom with heq | ⟨hin, hval, -⟩
    · rw [heq] at hmem
      exact absurd hlow (not_lt.mpr (hmem x (List.mem_range.mpr hx)))
    · rw [hval]
      exact ⟨List.mem_range.mp hin, rfl, hval ▸ hmem x (List.mem_range.mpr hx)⟩

end Sys2Proof.Machine
end

section
/-! PROOFS. Thermal control: the caps in force, loss of flow, guards and trips (R394 to R408). -/

namespace Sys2Proof.Machine

/-! ## The caps in force -/

section
variable {s : State}

/-- The highest temperature of a region in force, before its cap falls. -/
def regionLimit (x : Nat) : Int := deg (if x < 4 then 105 else 95)

/-- The regions past their limits. -/
def State.hotRegions (s : State) : List Nat := (List.range 12).filter fun x => decide (regionLimit x < s.tx x)

/-- The state of a cap update once it has counted the regions past their limits. -/
def State.hotCounted (s : State) : State :=
  ((s.hotRegions.filter fun x => nbit s.therm.hot x == 0).foldl (fun u _ => u.bump R.THERM_EVENTS_OVER_LIMIT R.THERM_FLAGS_OVER_OVF 1) s).thMod
    fun t => { t with hot := natSum (s.hotRegions.map (2 ^ ·)) }

/-- The cap of a region past its limit, as an update moves it (R395). -/
def State.nextTjCap (s : State) : Nat :=
  let old := s.hotCounted.fget R.THERM_CAPS_TJ_CAP
  if old = 0xFFFF then (if s.hotRegions.isEmpty then old else min s.hotCounted.powerW 0xFFFE)
  else if (List.range 12).all fun x => decide (s.tx x ≤ regionLimit x - deg 1) then (if pMax < old + 10 then 0xFFFF else old + 10)
  else old - 10

/-- The state of a cap update with its caps written. -/
def State.capsWritten (s : State) (est reg tjc : Nat) : State :=
  let a := s.hotCounted
  let plaus := a.fget R.THERM_CAPS_PLAUS_CAP
  let ramp := a.rampCap
  let cap := min (min est tjc) (min (min ramp plaus) pMax)
  let bind := if cap = pMax then 0 else if cap = est then 1 else if cap = tjc then 2 else if cap = ramp then 3 else 4
  let b := ((((a.fset R.THERM_CAPS_EST_CAP est).fset R.THERM_RTH_EST_REGION reg).fset R.THERM_CAPS_TJ_CAP tjc).fset
    R.THERM_CAPS_RAMP_CAP ramp).setFlag R.THERM_STATUS_RAMP_ON (ramp != 0xFFFF)
  ((b.fset R.THERM_STATUS_BIND_CAP bind).fset R.PWR_CAPS_THERM_CAP cap).thMod fun t => { t with
    capOk := if 350 ≤ cap then t.capOk + 1 else 0 }

/-- The least of the caps of an update. -/
def State.leastCap (s : State) (est tjc : Nat) : Nat :=
  min (min est tjc) (min (min s.hotCounted.rampCap (s.hotCounted.fget R.THERM_CAPS_PLAUS_CAP)) pMax)

theorem exec_thermCapUpdate_of_line (hline : s.dom.lineRst = false) (hpow : s.dom.powered = true) {est reg : Nat}
    (hest : s.estCap = (est, reg)) : exec .thermCapUpdate s = .next (
      let c := s.capsWritten est reg s.nextTjCap
      if s.leastCap est s.nextTjCap < 300 then c.forceOn 4 reg
      else if nbit c.therm.causes 4 = 1 ∧ 1000 < c.therm.capOk then c.forceOff 4
      else c) := by
  refine congrArg Host.Outcome.next ((if_neg ?_).trans ?_)
  · rw [hline, hpow]
    decide
  · rw [hest]
    rfl

/-- The cap of R395 by what the last one was and what the regions read. -/
theorem nextTjCap_eq {tjc : Nat}
    (hfirst : s.hotCounted.fget R.THERM_CAPS_TJ_CAP = 0xFFFF → s.hotRegions = [] → tjc = 0xFFFF)
    (hhot : s.hotCounted.fget R.THERM_CAPS_TJ_CAP = 0xFFFF → s.hotRegions ≠ [] → tjc = min s.hotCounted.powerW 0xFFFE)
    (hback : s.hotCounted.fget R.THERM_CAPS_TJ_CAP ≠ 0xFFFF → (∀ x, x < 12 → s.tx x ≤ regionLimit x - deg 1) →
      tjc = if pMax < s.hotCounted.fget R.THERM_CAPS_TJ_CAP + 10 then 0xFFFF else s.hotCounted.fget R.THERM_CAPS_TJ_CAP + 10)
    (hover : s.hotCounted.fget R.THERM_CAPS_TJ_CAP ≠ 0xFFFF → (∃ x, x < 12 ∧ regionLimit x - deg 1 < s.tx x) →
      tjc = s.hotCounted.fget R.THERM_CAPS_TJ_CAP - 10) : s.nextTjCap = tjc := by
  unfold State.nextTjCap
  dsimp only
  split
  · rename_i hold
    split
    · rename_i hnone
      rw [hold, hfirst hold (List.isEmpty_iff.mp hnone)]
    · rename_i hsome
      exact (hhot hold fun h => hsome (List.isEmpty_iff.mpr h)).symm
  · rename_i hold
    split
    · rename_i hall
      refine (hback hold fun x hx => ?_).symm
      exact of_decide_eq_true (List.all_eq_true.mp hall x (List.mem_range.mpr hx))
    · rename_i hnot
      refine (hover hold ?_).symm
      obtain ⟨x, hx, hlt⟩ := List.all_eq_false.mp (Bool.eq_false_iff.mpr hnot)
      exact ⟨x, List.mem_range.mp hx, by simpa using hlt⟩

end

/-! ## Loss of flow -/

section
variable {s : State}

/-- The state of an evaluation of the slopes, with its registers written (R398). -/
def State.slopesFiled (s : State) : State :=
  let ex := (List.range 4).map fun d => s.excess d
  let a := s.thMod fun t => { t with
    meds := ((List.range 4).map fun d => (s.dieMedian d none).getD (s.tj d)) :: t.meds.take 9,
    runs := Vector.ofFn fun d => if 5 < (ex.getD d.val none).getD 0 then vget 0 t.runs d.val + 1 else 0,
    calmFor := if ex.all fun e => decide (e.getD 0 ≤ 5) then t.calmFor + 1 else 0 }
  let worst := (List.range 4).foldl (fun b d => if (ex.getD b none).getD 0 < (ex.getD d none).getD 0 then d else b) 0
  let e := ((ex.getD worst none).getD 0 * 100).floor
  let b := (a.fset R.THERM_SLOPE_EXCESS (unsint 16 (max (-32768) (min 32767 e)))).fset R.THERM_SLOPE_DIE worst
  b.fset R.THERM_SLOPE_RUN_MS (min (vget 0 b.therm.runs worst - 1) 255)

/-- The stop of flow that die `d` shows. -/
def State.flowStopped (c : State) (d : Nat) : State :=
  let u := ((c.thMod fun t => { t with stopDie := d }).setFlag R.THERM_STATUS_CUT_REQ true).report thermSource .thermStop d 0
  (u.forceOn 2 d).notice 1 (leBytes 1 d ++ [0] ++ leBytes 2 (u.fget R.THERM_SLOPE_EXCESS))

/-- A run counts on by the excess of its die, 0 where ten evaluations are not yet there. -/
theorem run_eq (e : Option Rat) (n : Nat) :
    (match e with | some e => if 5 < e then n + 1 else 0 | none => 0) = if 5 < e.getD 0 then n + 1 else 0 := by
  cases e with
  | none => exact (if_neg (by norm_num)).symm
  | some e => rfl

theorem exec_flowStopEval_of_line (hline : s.dom.lineRst = false) (hpow : s.dom.powered = true) : exec .flowStopEval s = .next (
    match (List.range 4).find? fun d => decide (20 < vget 0 s.slopesFiled.therm.runs d) with
    | some d => if nbit s.slopesFiled.therm.causes 2 = 1 then s.slopesFiled else s.slopesFiled.flowStopped d
    | none => s.slopesFiled) := by
  refine congrArg Host.Outcome.next ((if_neg ?_).trans ?_)
  · rw [hline, hpow]
    decide
  · unfold State.slopesFiled
    simp only [← run_eq] <;> rfl

/-- The first die whose run is too long. -/
theorem find_run_eq_some {runs : Vector Nat 4} {d : Nat} (hd : d < 4) (hrun : 20 < vget 0 runs d) (hfirst : ∀ k, k < d → vget 0 runs k ≤ 20) :
    ((List.range 4).find? fun d => decide (20 < vget 0 runs d)) = some d := by
  rw [List.find?_range_eq_some]
  exact ⟨decide_eq_true hrun, List.mem_range.mpr hd, fun k hk => by simpa using hfirst k hk⟩

theorem find_run_eq_none {runs : Vector Nat 4} (h : ∀ d, d < 4 → vget 0 runs d ≤ 20) :
    ((List.range 4).find? fun d => decide (20 < vget 0 runs d)) = none :=
  List.find?_eq_none.mpr fun d hd => by simpa using h d (List.mem_range.mp hd)

end

/-! ## Guards -/

section
variable {s : State}

theorem checkGuard_of_good {g : Nat} (hgood : s.guardBad g = false) :
    let rows := fun (l : List (Nat × Nat)) => s.thMod fun t => { t with ruleFor := vput t.ruleFor g l }
    let old := vget [] s.therm.ruleFor g
    let new := ([1, 2, 3, 4, 5, 6, 7].filter fun r => s.guardRule g r).map fun r =>
      (r, if r = 5 then s.therm.crossFor else ((old.find? (·.1 == r)).map (·.2)).getD 0 + 1)
    (s.tFault (guardSensor g) = true → s.checkGuard g = (rows []).markGuard g 0) ∧
    (s.tFault (guardSensor g) = false → (∀ e ∈ new, e.2 < guardTime e.1) → s.checkGuard g = rows new) ∧
    (∀ e, s.tFault (guardSensor g) = false → (new.find? fun e => decide (guardTime e.1 ≤ e.2)) = some e →
      s.checkGuard g = (rows new).markGuard g e.1) := by
  intro rows old new
  have hcheck : ∀ l, (rows l).guardBad g = false := fun l => hgood
  have hfined : s.tFault (guardSensor g) = false → s.checkGuard g =
      match new.find? fun e => decide (guardTime e.1 ≤ e.2) with
      | some e => (rows new).markGuard g e.1
      | none => rows new := by
    intro hfine
    unfold State.checkGuard
    simp only [hfine, Bool.not_false, Bool.true_and, Bool.false_eq_true, if_false]
    exact if_neg (ne_true_of_eq_false (hcheck _))
  refine ⟨fun hfault => ?_, fun hfine hshort => ?_, fun e hfine hlong => ?_⟩
  · unfold State.checkGuard
    dsimp only
    rw [hfault, if_neg (ne_true_of_eq_false (hcheck _)), if_pos rfl]
    rfl
  · have hnone : new.find? (fun e => decide (guardTime e.1 ≤ e.2)) = none :=
      List.find?_eq_none.mpr fun e he => by simpa using hshort e he
    rw [hfined hfine, hnone]
  · rw [hfined hfine, hlong]

theorem markGuard_of_die {g row : Nat} (hg : g < 8) :
    let a := s.fset R.THERM_STATUS_GUARD_BAD (s.fget R.THERM_STATUS_GUARD_BAD + 2 ^ g)
    s.markGuard g row = ((a.event thermSource 0x0D82 (leBytes 1 g ++ leBytes 1 row ++ leBytes 2 (tenths (a.temp (guardSensor g)))
      ++ leBytes 2 (tenths (a.guardModel g)) ++ leBytes 2 (tenths (a.guardPeer g)))).report thermSource .thermGuard g 0).plaus g := by
  unfold State.markGuard
  dsimp only
  rw [if_pos hg]

end

/-! ## Forces -/

section
variable {s : State} {cause place : Nat}

theorem le_of_nbit_eq_one {n k : Nat} (h : nbit n k = 1) : 2 ^ k ≤ n := by
  by_contra hlt
  have hzero : nbit n k = 0 := by
    unfold nbit
    rw [Nat.div_eq_of_lt (not_le.mp hlt)]
  omega

/-- The first cause of force. -/
theorem forceOn_of_first (hcause : cause ≤ 4) (hnew : nbit s.therm.causes cause = 0) :
    let t := s.thMod fun t => { t with causes := t.causes + 2 ^ cause }
    t.flag R.THERM_STATUS_FORCE = false → s.forceOn cause place =
      (((t.fset R.THERM_STATUS_FORCE_CAUSE cause).setFlag R.THERM_STATUS_FORCE true).enterBs 3).forceEvent cause place := by
  intro t hfree
  unfold State.forceOn
  rw [if_neg (nbit_ne_one hnew)]
  dsimp only
  rw [if_neg (ne_true_of_eq_false hfree)]
  simp only [if_pos hcause]
  rfl

/-- A further cause of force. -/
theorem forceOn_of_later (hcause : cause ≤ 4) (hnew : nbit s.therm.causes cause = 0) :
    let t := s.thMod fun t => { t with causes := t.causes + 2 ^ cause }
    t.flag R.THERM_STATUS_FORCE = true → s.forceOn cause place = (t.enterBs 3).forceEvent cause place := by
  intro t hforced
  unfold State.forceOn
  rw [if_neg (nbit_ne_one hnew)]
  dsimp only
  rw [if_pos hforced, if_pos hcause]

theorem forceOff_of_other (hon : nbit s.therm.causes cause = 1) (hother : s.therm.causes ≠ 2 ^ cause) :
    s.forceOff cause = s.thMod fun t => { t with causes := t.causes - 2 ^ cause } := by
  have hle := le_of_nbit_eq_one hon
  have hleft : s.therm.causes - 2 ^ cause ≠ 0 := by omega
  exact (if_neg (by rw [hon]; decide)).trans (if_pos hleft)

theorem forceOff_of_last (hon : nbit s.therm.causes cause = 1) (hlast : s.therm.causes = 2 ^ cause) : s.forceOff cause =
    (((s.thMod fun t => { t with causes := t.causes - 2 ^ cause }).fset R.THERM_STATUS_FORCE_CAUSE 0).setFlag
      R.THERM_STATUS_FORCE false).releaseBs := by
  have hleft : ¬ s.therm.causes - 2 ^ cause ≠ 0 := by omega
  exact (if_neg (by rw [hon]; decide)).trans (if_neg hleft)

end

/-! ## Trips -/

section
variable {s : State} {g : Fin 8} {reading : Int}

/-- A comparator that trips. -/
theorem exec_hardwareTrip_of_trip (hpow : s.dom.powered = true) (hpart : s.takesPart (guardSensor g) = true) (hhot : deg 118 ≤ reading)
    (hnew : ∀ r, (g.val, r) ∉ s.therm.trips) : exec (.hardwareTrip g reading) s = .next (
      let t := ((s.forceOn 5 g).thMod fun t => { t with trips := t.trips ++ [(g.val, reading)] }).report thermSource .thermTrip
        (guardSensor g) 0
      let u := t.event thermSource 0x0D84 (leBytes 1 (guardSensor g) ++ [0] ++ leBytes 2 (tenths reading))
      if u.flag R.THERM_STATUS_TRIP then u
      else
        let w := u.fset R.THERM_STATUS_TRIP 1
        if w.dom.worksRst then w
        else
          let v := (w.fset R.RESET_STATUS_LAST_KIND 1).fset R.RESET_STATUS_LAST_CAUSE 3
          let x := v.domMod fun d => { d with reqKind := if v.dom.reqKind = 1 then 0 else v.dom.reqKind,
                                              reqCause := if v.dom.reqKind ≤ 1 then 3 else v.dom.reqCause }
          ((x.worksEnter 1 3).resetNotice 1 1).restartRun 2) := by
  refine congrArg Host.Outcome.next (if_neg ?_)
  rw [hpow, hpart]
  rintro (h | h | h | h)
  · exact absurd h (by decide)
  · exact absurd h (by decide)
  · exact absurd h (not_lt.mpr hhot)
  · obtain ⟨⟨k, r⟩, hmem, heq⟩ := List.any_eq_true.mp h
    obtain rfl : k = g.val := beq_iff_eq.mp heq
    exact hnew r hmem

theorem exec_hardwareTrip_of_quiet (h : s.takesPart (guardSensor g) = false ∨ reading < deg 118 ∨ ∃ r, (g.val, r) ∈ s.therm.trips) :
    exec (.hardwareTrip g reading) s = .next s := by
  refine congrArg Host.Outcome.next (if_pos (.inr ?_))
  rcases h with h | h | ⟨r, hr⟩
  · exact .inl (by rw [h]; rfl)
  · exact .inr (.inl h)
  · exact .inr (.inr (List.any_eq_true.mpr ⟨_, hr, beq_self_eq_true g.val⟩))

end

/-- The readings of a sample, filed (R391). -/
def State.readingsFiled (s : State) (l : List (Option Int)) : State :=
  s.thMod fun t => { t with sampled := true, temp := Vector.ofFn fun i => (l.getD i.val none).getD (vget 0 t.temp i.val),
                            fault := Vector.ofFn fun i => (l.getD i.val none).isNone }

/-- The temperatures of R392 in their registers. -/
def State.tempsShown (b : State) : State :=
  let c := (b.fset R.THERM_TEMPS_TJ_HOT (tenths b.tjHot)).fset R.THERM_TEMPS_MEM_HOT (tenths (maxTemp ((List.range 8).map b.tm)))
  (c.fset R.THERM_TEMPS_INLET (tenths c.tIn)).fset R.THERM_TEMPS_OUTLET (tenths c.outlet)

/-- The refresh rates that follow the temperatures, unless WORKS is in reset (R182). -/
def State.refreshed (d : State) : State := if d.dom.worksRst then d else (List.range 8).foldl (fun u n => u.refresh2x n) d

theorem exec_sensorSample_of_line {s : State} (l : List (Option Int)) (hline : s.dom.lineRst = false) (hpow : s.dom.powered = true) :
    exec (.sensorSample l) s =
      .next (((List.range 197).foldl (fun u i => u.sensorReg i) (s.readingsFiled l)).markFaults.tempsShown.refreshed).softStep := by
  show execSensorSample l s = _
  unfold execSensorSample
  rw [if_neg (by rw [hline, hpow]; decide)]
  extract_lets rd filed marked temps shown refreshed
  have hrefreshed : refreshed = shown.refreshed := rfl
  have hshown : shown = marked.tempsShown := rfl
  have hmarked : marked = ((List.range 197).foldl (fun u i => u.sensorReg i) filed).markFaults := rfl
  have hfiled : filed = s.readingsFiled l := rfl
  rw [hrefreshed, hshown, hmarked, hfiled]

/-- Settles O52: each command of thermal control, by what the model's functions for it find. -/
theorem thermalCommands : Obligations.ThermalCommands := by
  unfold Obligations.ThermalCommands
  intro s hpow
  refine ⟨fun hline l c hc => ?_, fun l hline => ?_, fun hline => ?_, steadyMean_eq_some, fun hline => ?_, fun hline => ?_,
    fun est reg hest => estCap_least hest, fun hline => ?_, fun hline hsampled => ?_, fun hline hsampled => ?_,
    fun g hg hgood => checkGuard_of_good hgood, fun g row hg => markGuard_of_die hg, fun cause place hlo hhi => ?_, fun g reading => ?_⟩
  · simp only [List.mem_cons, List.not_mem_nil, or_false] at hc
    rcases hc with rfl | rfl | rfl | rfl | rfl | rfl
    case inr.inr.inr.inr.inl => exact congrArg Host.Outcome.next (if_pos hline)
    all_goals exact congrArg Host.Outcome.next (if_pos (.inl hline))
  · intro a b c d e cool
    have hexec : exec (.sensorSample l) s = .next e.softStep := by
      have he : e = d.refreshed := rfl
      have hd : d = b.tempsShown := rfl
      have hb : b = ((List.range 197).foldl (fun u i => u.sensorReg i) a).markFaults := rfl
      have ha : a = s.readingsFiled l := rfl
      rw [exec_sensorSample_of_line l hline hpow, he, hd, hb, ha]
    rw [hexec]
    clear_value e
    refine ⟨fun i hi v hv => ?_, fun i hi hv => ?_, fun i htrip hnew => ?_, fun i htrip hold => ?_, fun hnone hwarm => ?_,
      fun hnone hcool hshort => ?_, fun hnone hcool hon hlong => ?_⟩
    · obtain ⟨htemp, hfault⟩ := sample_reading (s := s) (l := l) hi
      have hget : l.getD i none = some v := by rw [List.getD_eq_getElem?_getD, hv]; rfl
      rw [hget] at htemp hfault
      exact ⟨htemp, hfault⟩
    · obtain ⟨htemp, hfault⟩ := sample_reading (s := s) (l := l) hi
      have hget : l.getD i none = none := by
        rw [List.getD_eq_getElem?_getD]
        rcases hv with hv | hv <;> rw [hv] <;> rfl
      rw [hget] at htemp hfault
      exact ⟨hfault, htemp⟩
    · exact congrArg Host.Outcome.next ((softStep_of_tripped htrip).trans (if_neg (nbit_ne_one hnew)))
    · exact congrArg Host.Outcome.next ((softStep_of_tripped htrip).trans (if_pos hold))
    · exact congrArg Host.Outcome.next (softStep_of_warm hnone hwarm)
    · refine congrArg Host.Outcome.next ((softStep_of_cool hnone hcool).trans (if_neg ?_))
      rintro ⟨hon, hlong⟩
      omega
    · exact congrArg Host.Outcome.next ((softStep_of_cool hnone hcool).trans (if_pos ⟨hon, by omega⟩))
  · intro warn need counted moved gain
    have hexec := exec_estimatorUpdate_of_line hline hpow
    refine ⟨fun hun => ?_, fun p hp hin => ⟨fun hsmall => ?_, fun hout hbig hc => ?_, fun hout hbig hc => ?_⟩⟩
    · rw [hexec, estimated_of_unsteady hun]
      rfl
    · have hest : s.estimated = moved p := (estimated_of_steady hp hin).trans (if_neg (by
        rintro ⟨hout, hbig⟩
        rcases hsmall with h | h
        · exact ne_true_of_eq_false h hout
        · exact absurd hbig (not_le.mpr h)))
      rw [hexec, hest]
      rfl
    · have hest : s.estimated = _ := (estimated_of_steady hp hin).trans (if_pos ⟨hout, hbig⟩)
      rw [hexec, hest, if_neg hc]
      rfl
    · have hest : s.estimated = _ := (estimated_of_steady hp hin).trans (if_pos ⟨hout, hbig⟩)
      rw [hexec, hest, if_pos hc]
      rfl
  · intro tell
    have hexec : exec .flowLow s = .next (if s.flag R.THERM_STATUS_FLOW_LOW then
        if 100 < s.therm.wellFor then tell (s.setFlag R.THERM_STATUS_FLOW_LOW false) 0 else s
      else if 100 < s.therm.lowFor ∨ 100 < s.therm.flowFor then tell (s.setFlag R.THERM_STATUS_FLOW_LOW true) 1 else s) :=
      congrArg Host.Outcome.next (if_neg (ne_true_of_eq_false hline))
    rw [hexec]
    refine ⟨fun hoff hlong => ?_, fun hon hlong => ?_, fun hoff hlow hflow => ?_, fun hon hshort => ?_⟩
    · exact congrArg Host.Outcome.next ((if_neg (ne_true_of_eq_false hoff)).trans (if_pos hlong))
    · exact congrArg Host.Outcome.next ((if_pos hon).trans (if_pos hlong))
    · exact congrArg Host.Outcome.next ((if_neg (ne_true_of_eq_false hoff)).trans (if_neg (by omega)))
    · exact congrArg Host.Outcome.next ((if_pos hon).trans (if_neg (by omega)))
  · intro lim hot a old plaus tjc est reg hest hfirst hhot hback hover ramp cap bind b c
    have htjc : s.nextTjCap = tjc := nextTjCap_eq hfirst hhot hback hover
    have hexec := exec_thermCapUpdate_of_line hline hpow hest
    rw [htjc] at hexec
    rw [hexec]
    refine ⟨fun hlow => congrArg Host.Outcome.next (if_pos hlow), fun hhigh hon hlong => ?_, fun hhigh hshort => ?_⟩
    · exact congrArg Host.Outcome.next ((if_neg (Nat.not_lt.mpr hhigh)).trans (if_pos ⟨hon, hlong⟩))
    · refine congrArg Host.Outcome.next ((if_neg (Nat.not_lt.mpr hhigh)).trans (if_neg ?_))
      rintro ⟨hon, hlong⟩
      rcases hshort with h | h
      · exact nbit_ne_one h hon
      · exact absurd hlong (Nat.not_lt.mpr h)
  · intro ex a worst e b c
    have hexec := exec_flowStopEval_of_line hline hpow
    refine ⟨fun hshort => ?_, fun d hd hlong hfirst => ?_⟩
    · rw [hexec, find_run_eq_none (runs := s.slopesFiled.therm.runs) hshort]
      rfl
    · rw [hexec, find_run_eq_some (runs := s.slopesFiled.therm.runs) hd hlong hfirst]
      exact ⟨fun hon => congrArg Host.Outcome.next (if_pos hon), fun hoff => congrArg Host.Outcome.next (if_neg (nbit_ne_one hoff))⟩
  · exact congrArg Host.Outcome.next (if_pos (.inr (.inr (by rw [hsampled]; rfl))))
  · exact congrArg Host.Outcome.next (if_neg (by rw [hline, hpow, hsampled]; decide))
  · intro t rest
    exact ⟨fun hon => if_pos hon, forceOn_of_first hhi, forceOn_of_later hhi, fun hoff => if_pos hoff, forceOff_of_other, forceOff_of_last⟩
  · refine ⟨exec_hardwareTrip_of_quiet, fun hpart hhot hnew => ?_, fun hquiet => ?_, fun hpart hhot => ?_⟩
    · intro t u
      rw [exec_hardwareTrip_of_trip hpow hpart hhot hnew]
      refine ⟨fun htrip => congrArg Host.Outcome.next (if_pos htrip), fun htrip => ?_⟩
      intro w
      refine ⟨fun hworks => ?_, fun hworks => ?_⟩
      · exact congrArg Host.Outcome.next ((if_neg (ne_true_of_eq_false htrip)).trans (if_pos hworks))
      · exact congrArg Host.Outcome.next ((if_neg (ne_true_of_eq_false htrip)).trans (if_neg (ne_true_of_eq_false hworks)))
    · refine congrArg Host.Outcome.next (if_pos (.inr (hquiet.imp_left fun h => ?_)))
      rw [h]
      rfl
    · refine congrArg Host.Outcome.next (if_neg ?_)
      rw [hpow, hpart]
      rintro (h | h | h)
      · exact absurd h (by decide)
      · exact absurd h (by decide)
      · exact absurd h (not_lt.mpr hhot)

end Sys2Proof.Machine
end

section
/-! PROOFS. The interlock (R415 to R430): the collector, buckets, log, condition table, fault state and the safe state. -/

namespace Sys2Proof.Machine

/-! ## Class and bucket of a message (R418 to R421) -/

section
variable {s : State} {m : FaultMsg}

theorem classify_of_safe (h : s.flag R.IL_STATUS_SAFE = true) : s.classify m = (3, false, s) := by
  unfold State.classify
  cases m.clear
  · exact if_pos h
  · exact congrArg (fun c => (c, false, s)) (if_pos h)

theorem classify_of_clear (h : s.flag R.IL_STATUS_SAFE = false) (hc : m.clear = true) :
    s.classify m = ((s.condOf m.source m.kind).elim m.baseClass Cond.cls, false, s) := by
  unfold State.classify
  refine (if_pos hc).trans (congrArg (fun c => (c, false, s)) ((if_neg (by rw [h]; decide)).trans ?_))
  cases s.condOf m.source m.kind <;> rfl

theorem classify_of_raise (h : s.flag R.IL_STATUS_SAFE = false) (hc : m.clear = false) :
    s.classify m = if m.baseClass = 3 then (3, false, s) else m.judged (s.ilBucket m.source (1 + m.rep)) := by
  unfold State.classify
  exact (if_neg (by rw [hc]; decide)).trans (if_neg (by rw [h]; decide))

/-- A bucket that was not read in this access takes the message as it stands. -/
theorem ilBucket_of_apart {c n : Nat} (h : ∀ l f, s.il.readAt ≠ some (c, l, f, s.clock.run)) : s.ilBucket c n = s.ilFill c n := by
  unfold State.ilBucket
  cases hr : s.il.readAt with
  | none => rfl
  | some x =>
    obtain ⟨c', l, f, t⟩ := x
    refine if_neg fun ⟨hc, ht⟩ => h l f ?_
    rw [hr, hc, ht]

theorem ilFill_of_full {c n : Nat} (h : s.flag (R.IL_BUCKET_FULL.at (8 * c)) = true) : s.ilFill c n = (true, false, s) := if_pos h

theorem ilFill_of_below {c n : Nat} (h : s.flag (R.IL_BUCKET_FULL.at (8 * c)) = false)
    (hn : s.fget (R.IL_BUCKET_LEVEL.at (8 * c)) + n < s.od D.BUCKET_CAP) :
    s.ilFill c n = (false, false, s.fset (R.IL_BUCKET_LEVEL.at (8 * c)) (s.fget (R.IL_BUCKET_LEVEL.at (8 * c)) + n)) :=
  (if_neg (by rw [h]; decide)).trans (if_neg (Nat.not_le.mpr hn))

theorem ilFill_of_cap {c n : Nat} (h : s.flag (R.IL_BUCKET_FULL.at (8 * c)) = false)
    (hn : s.od D.BUCKET_CAP ≤ s.fget (R.IL_BUCKET_LEVEL.at (8 * c)) + n) :
    s.ilFill c n = (true, true, (s.fset (R.IL_BUCKET_LEVEL.at (8 * c)) (s.od D.BUCKET_CAP)).fset (R.IL_BUCKET_FULL.at (8 * c)) 1) :=
  (if_neg (by rw [h]; decide)).trans (if_pos hn)

/-- The state once it is drawn whether the message falls in the access that read its bucket. -/
def State.readJudged (s : State) : State := { s with freeCtr := s.freeCtr + 1, il := { s.il with readAt := none } }

/-- The drawn value: does the message fall in that access? -/
def State.sameAccess (s : State) : Bool := (Config.freeValue s.freeCtr).getLsbD 0

theorem ilBucket_of_read {c l n : Nat} {f : Bool} (h : s.il.readAt = some (c, l, f, s.clock.run)) :
    s.ilBucket c n = if s.sameAccess = true then s.readJudged.ilRead c l f n else s.readJudged.ilFill c n := by
  unfold State.ilBucket
  rw [h]
  exact if_pos ⟨rfl, rfl⟩

theorem readJudged_apart : s.readJudged.ilBucket m.source (1 + m.rep) = s.readJudged.ilFill m.source (1 + m.rep) :=
  ilBucket_of_apart fun _ _ => Option.some_ne_none _ ∘ Eq.symm

/-- A message in the access that reads its bucket is judged by the level and FULL before the read, and stands alone in the bucket after it. -/
theorem ilRead_of_cleared {c l n : Nat} {f : Bool} (hfull : s.flag (R.IL_BUCKET_FULL.at (8 * c)) = false)
    (hl : s.fget (R.IL_BUCKET_LEVEL.at (8 * c)) = 0) (hn : n < s.od D.BUCKET_CAP) :
    s.ilRead c l f n = (f || decide (s.od D.BUCKET_CAP ≤ l + n), !f && decide (s.od D.BUCKET_CAP ≤ l + n),
      s.fset (R.IL_BUCKET_LEVEL.at (8 * c)) n) := by
  unfold State.ilRead
  dsimp only
  have h0 : s.fget (R.IL_BUCKET_LEVEL.at (8 * c)) + n = n := by rw [hl, Nat.zero_add]
  rw [ilFill_of_below hfull (by rw [h0]; exact hn), h0, decide_eq_false (Nat.not_le.mpr hn), Bool.or_false]

end

/-! ## The condition table, the log and the captures (R422, R426, R427) -/

section
variable {s : State} {m : FaultMsg}

/-- Has an event of this source and kind been sent within 10 ms? -/
theorem recent_iff : (s.il.sent.any fun (a, k, t) => a == m.source && k == m.kind && decide (s.clock.run < t + 10000000)) = true ↔
    ∃ t, (m.source, m.kind, t) ∈ s.il.sent ∧ s.clock.run < t + 10000000 := by
  rw [List.any_eq_true]
  constructor
  · rintro ⟨⟨a, k, t⟩, hmem, h⟩
    simp only [Bool.and_eq_true, beq_iff_eq, decide_eq_true_eq] at h
    obtain ⟨⟨rfl, rfl⟩, ht⟩ := h
    exact ⟨t, hmem, ht⟩
  · rintro ⟨t, hmem, ht⟩
    refine ⟨_, hmem, ?_⟩
    simp only [BEq.rfl, Bool.true_and, decide_eq_true_eq]
    exact ht

/-- An active condition of class ERROR or above. -/
theorem heavy_iff : (s.il.conds.any fun c => decide (2 ≤ c.cls)) = true ↔ ∃ c ∈ s.il.conds, 2 ≤ c.cls := by
  simp only [List.any_eq_true, decide_eq_true_eq]

/-- IL_SELF is raised in the condition table or in a message its source holds. -/
theorem selfRaised_iff : s.selfRaised = true ↔
    (s.condOf ilSource 0x0E60).isSome = true ∨ ∃ m ∈ s.heldAt ilSource, m.kind = 0x0E60 ∧ m.clear = false := by
  unfold State.selfRaised State.heldAt
  rw [Bool.or_eq_true, List.any_eq_true]
  simp only [Bool.and_eq_true, beq_iff_eq, Bool.not_eq_true']
  exact Iff.rfl

end

/-! ## The drain of the buckets (R419, R431) -/

section
variable {s u : State}

/-- The drain of one bucket. -/
def State.drainBucket (s : State) (c : Nat) : State :=
  let level := R.IL_BUCKET_LEVEL.at (8 * c)
  let l := s.fget level
  if l = 0 ∨ s.flag (R.IL_BUCKET_FULL.at (8 * c)) = true then s
  else if l < s.od D.BUCKET_CAP then s.fset level (l - s.od D.BUCKET_LEAK)
  else (s.fset level (s.od D.BUCKET_CAP)).fset (R.IL_BUCKET_FULL.at (8 * c)) 1

theorem drainBucket_cases (P : State → Prop) (c : Nat) (h0 : P s)
    (h1 : ∀ v, P (s.fset (R.IL_BUCKET_LEVEL.at (8 * c)) v))
    (h2 : ∀ v, P ((s.fset (R.IL_BUCKET_LEVEL.at (8 * c)) v).fset (R.IL_BUCKET_FULL.at (8 * c)) 1)) : P (s.drainBucket c) := by
  unfold State.drainBucket
  dsimp only
  split
  · exact h0
  split
  · exact h1 _
  · exact h2 _

theorem drainBucket_frame (c : Nat) (w : Tab Word) : { s.drainBucket c with csr := w } = { s with csr := w } :=
  drainBucket_cases (fun u => { u with csr := w } = { s with csr := w }) c rfl (fun _ => rfl) fun _ => rfl

theorem twf_drainBucket (h : twf csrDflt s.csr = true) (c : Nat) : twf csrDflt (s.drainBucket c).csr = true :=
  drainBucket_cases (fun u => twf csrDflt u.csr = true) c h (fun _ => State.csr_fset h _ _)
    fun _ => State.csr_fset (State.csr_fset h _ _) _ _

theorem csrGet_drainBucket_ne {c off : Nat} (h : off ≠ R.IL_BUCKET + 8 * c) : (s.drainBucket c).csrGet off = s.csrGet off :=
  drainBucket_cases (fun u => u.csrGet off = s.csrGet off) c rfl (fun _ => State.csrGet_fset_ne h _)
    fun _ => (State.csrGet_fset_ne h _).trans (State.csrGet_fset_ne h _)

/-- What a drain leaves of a bucket follows from the bucket and the dictionary alone. -/
theorem csrGet_drainBucket_congr (hs : twf csrDflt s.csr = true) (hu : twf csrDflt u.csr = true) {c : Nat}
    (hc : u.csrGet (R.IL_BUCKET + 8 * c) = s.csrGet (R.IL_BUCKET + 8 * c)) (hd : u.dict = s.dict) :
    (u.drainBucket c).csrGet (R.IL_BUCKET + 8 * c) = (s.drainBucket c).csrGet (R.IL_BUCKET + 8 * c) := by
  have hget : ∀ f : Fld, f.off = R.IL_BUCKET + 8 * c → u.fget f = s.fget f := fun f hf => by
    unfold State.fget
    rw [hf, hc]
  have hset : ∀ (a b : State) (f : Fld) v, f.off = R.IL_BUCKET + 8 * c → twf csrDflt a.csr = true → twf csrDflt b.csr = true →
      a.csrGet (R.IL_BUCKET + 8 * c) = b.csrGet (R.IL_BUCKET + 8 * c) →
      (a.fset f v).csrGet (R.IL_BUCKET + 8 * c) = (b.fset f v).csrGet (R.IL_BUCKET + 8 * c) := fun a b f v hf ha hb h => by
    unfold State.fset
    rw [hf, State.csrGet_csrPut_self ha, State.csrGet_csrPut_self hb, h]
  have hod : ∀ k, u.od k = s.od k := fun k => by
    unfold State.od
    rw [hd]
  unfold State.drainBucket State.flag
  dsimp only
  rw [hget _ rfl, hget (R.IL_BUCKET_FULL.at (8 * c)) rfl, hod, hod]
  split
  · exact hc
  split
  · exact hset _ _ _ _ rfl hu hs hc
  · exact hset _ _ _ _ rfl (State.csr_fset hu _ _) (State.csr_fset hs _ _) (hset _ _ _ _ rfl hu hs hc)

/-- The drain of the first `n` buckets. -/
def State.drainBuckets (s : State) (n : Nat) : State := (List.range n).foldl State.drainBucket s

theorem drainBuckets_succ (n : Nat) : s.drainBuckets (n + 1) = (s.drainBuckets n).drainBucket n := by
  unfold State.drainBuckets
  rw [List.range_succ, List.foldl_append]
  rfl

theorem drainBuckets_frame (w : Tab Word) (n : Nat) : { s.drainBuckets n with csr := w } = { s with csr := w } := by
  induction n with
  | zero => rfl
  | succ n ih => rw [drainBuckets_succ, drainBucket_frame, ih]

theorem dict_drainBuckets (n : Nat) : (s.drainBuckets n).dict = s.dict := by
  have h := congrArg State.dict (drainBuckets_frame (s := s) s.csr n)
  exact h

theorem twf_drainBuckets (h : twf csrDflt s.csr = true) (n : Nat) : twf csrDflt (s.drainBuckets n).csr = true := by
  induction n with
  | zero => exact h
  | succ n ih =>
    rw [drainBuckets_succ]
    exact twf_drainBucket ih n

theorem csrGet_drainBuckets_ne {off : Nat} {n : Nat} (h : ∀ c, c < n → off ≠ R.IL_BUCKET + 8 * c) :
    (s.drainBuckets n).csrGet off = s.csrGet off := by
  induction n with
  | zero => rfl
  | succ n ih =>
    rw [drainBuckets_succ, csrGet_drainBucket_ne (h n (Nat.lt_succ_self n))]
    exact ih fun c hc => h c (Nat.lt_succ_of_lt hc)

/-- After the drain of all, a bucket is as its own drain leaves it. -/
theorem csrGet_drainBuckets_bucket (h : twf csrDflt s.csr = true) {c n : Nat} (hc : c < n) :
    (s.drainBuckets n).csrGet (R.IL_BUCKET + 8 * c) = (s.drainBucket c).csrGet (R.IL_BUCKET + 8 * c) := by
  induction n with
  | zero => exact absurd hc (Nat.not_lt_zero c)
  | succ n ih =>
    rw [drainBuckets_succ]
    by_cases hn : c = n
    · subst hn
      exact csrGet_drainBucket_congr h (twf_drainBuckets h c) (csrGet_drainBuckets_ne fun d hd => by omega)
        (dict_drainBuckets c)
    · rw [csrGet_drainBucket_ne (by omega)]
      exact ih (by omega)

theorem fget_drainBuckets (h : twf csrDflt s.csr = true) {c n : Nat} (hc : c < n) {f : Fld} (hf : f.off = R.IL_BUCKET + 8 * c) :
    (s.drainBuckets n).fget f = (s.drainBucket c).fget f := by
  unfold State.fget
  rw [hf, csrGet_drainBuckets_bucket h hc]

theorem fget_fset_level {c v : Nat} (h : twf csrDflt s.csr = true) (hv : v < 2 ^ 32) :
    (s.fset (R.IL_BUCKET_LEVEL.at (8 * c)) v).fget (R.IL_BUCKET_LEVEL.at (8 * c)) = v :=
  State.fget_fset_at h (by decide) v hv

theorem fget_full_fset_level {c : Nat} (h : twf csrDflt s.csr = true) (v : Nat) :
    (s.fset (R.IL_BUCKET_LEVEL.at (8 * c)) v).fget (R.IL_BUCKET_FULL.at (8 * c)) = s.fget (R.IL_BUCKET_FULL.at (8 * c)) :=
  State.fget_fset_ne (f := R.IL_BUCKET_LEVEL.at (8 * c)) h (by decide : 0 + 32 ≤ 64) v (.inr ⟨(by decide : 32 + 1 ≤ 64), .inr (by decide : 0 + 32 ≤ 32)⟩)

theorem fget_level_fset_full {c : Nat} (h : twf csrDflt s.csr = true) (v : Nat) :
    (s.fset (R.IL_BUCKET_FULL.at (8 * c)) v).fget (R.IL_BUCKET_LEVEL.at (8 * c)) = s.fget (R.IL_BUCKET_LEVEL.at (8 * c)) :=
  State.fget_fset_ne (f := R.IL_BUCKET_FULL.at (8 * c)) h (by decide : 32 + 1 ≤ 64) v (.inr ⟨(by decide : 0 + 32 ≤ 64), .inl (by decide : 0 + 32 ≤ 32)⟩)

theorem fget_level_lt {c : Nat} : s.fget (R.IL_BUCKET_LEVEL.at (8 * c)) < 2 ^ 32 := Nat.mod_lt _ (show 0 < 2 ^ 32 by decide)

/-- What the drain leaves of a bucket, by its level and FULL before. -/
theorem bucket_after_drain (h : twf csrDflt s.csr = true) (c : Nat) :
    let level := R.IL_BUCKET_LEVEL.at (8 * c)
    let full := R.IL_BUCKET_FULL.at (8 * c)
    let n := s.fget level
    let t := s.drainBucket c
    (n = 0 ∨ s.flag full = true → t.fget level = n ∧ t.flag full = s.flag full) ∧
    (n ≠ 0 → s.flag full = false → n < s.od D.BUCKET_CAP → t.fget level = n - s.od D.BUCKET_LEAK ∧ t.flag full = false) ∧
    (n ≠ 0 → s.flag full = false → s.od D.BUCKET_CAP ≤ n → t.fget level = s.od D.BUCKET_CAP ∧ t.flag full = true) := by
  intro level full n t
  have hn : n < 2 ^ 32 := fget_level_lt
  refine ⟨fun h0 => ?_, fun h0 hf hlt => ?_, fun h0 hf hle => ?_⟩
  · have ht : t = s := if_pos h0
    rw [ht]
    exact ⟨rfl, rfl⟩
  · have ht : t = s.fset level (n - s.od D.BUCKET_LEAK) :=
      (if_neg (not_or.mpr ⟨h0, ne_true_of_eq_false hf⟩)).trans (if_pos hlt)
    rw [ht]
    exact ⟨fget_fset_level h (by omega), (congrArg (· == 1) (fget_full_fset_level h _)).trans hf⟩
  · have ht : t = (s.fset level (s.od D.BUCKET_CAP)).fset full 1 :=
      (if_neg (not_or.mpr ⟨h0, ne_true_of_eq_false hf⟩)).trans (if_neg (Nat.not_lt.mpr hle))
    have hw : twf csrDflt (s.fset level (s.od D.BUCKET_CAP)).csr = true := State.csr_fset h _ _
    rw [ht]
    exact ⟨(fget_level_fset_full hw 1).trans (fget_fset_level h (by omega)),
      congrArg (· == 1) (State.fget_fset_at hw (by decide) 1 (by decide))⟩

/-- The drain of one bucket against a capacity read before. -/
def State.drainBucketTo (s : State) (cap c : Nat) : State :=
  let level := R.IL_BUCKET_LEVEL.at (8 * c)
  let l := s.fget level
  if l = 0 ∨ s.flag (R.IL_BUCKET_FULL.at (8 * c)) = true then s
  else if l < cap then s.fset level (l - s.od D.BUCKET_LEAK)
  else (s.fset level cap).fset (R.IL_BUCKET_FULL.at (8 * c)) 1

theorem drainBuckets_eq_foldl (n : Nat) :
    (List.range n).foldl (fun u c => u.drainBucketTo (s.od D.BUCKET_CAP) c) s = s.drainBuckets n := by
  induction n with
  | zero => rfl
  | succ n ih =>
    have hcap : s.od D.BUCKET_CAP = (s.drainBuckets n).od D.BUCKET_CAP :=
      (congrArg (fun d => tget dictDflt d D.BUCKET_CAP) (dict_drainBuckets n)).symm
    rw [List.range_succ, List.foldl_append, ih, drainBuckets_succ]
    show (s.drainBuckets n).drainBucketTo (s.od D.BUCKET_CAP) n = _
    rw [hcap]
    rfl

theorem exec_ilBucketDrain_of_line (hline : s.dom.lineRst = false) : exec .ilBucketDrain s = .next (s.drainBuckets 0x1000) :=
  congrArg Host.Outcome.next ((if_neg (ne_true_of_eq_false hline)).trans (drainBuckets_eq_foldl 0x1000))

end

/-! ## The commands -/

section
variable {s : State}

theorem interlock_unchanged_of_line (hline : s.dom.lineRst = true) (source : BitVec 16) (src : Party) (v : BitVec 64) (cause : Fin 4)
    (c : Instr) (hc : c ∈ [Instr.faultMessage source, .ilBucketDrain, .quietTimer, .ilInject src v, .ilSelfCheck cause]) :
    exec c s = .next s := by
  simp only [List.mem_cons, List.not_mem_nil, or_false] at hc
  rcases hc with rfl | rfl | rfl | rfl | rfl
  · exact congrArg Host.Outcome.next (if_pos hline)
  · exact congrArg Host.Outcome.next (if_pos hline)
  · exact congrArg Host.Outcome.next (if_pos (Or.inl hline))
  · refine congrArg Host.Outcome.next (ite_eq_right_iff.mpr fun _ => if_pos hline)
  · exact congrArg Host.Outcome.next (if_pos (Or.inl hline))

theorem exec_faultMessage_of_line (hline : s.dom.lineRst = false) (source : BitVec 16) :
    (s.heldAt source.toNat = [] → exec (.faultMessage source) s = .next s) ∧
    (∀ m l, s.heldAt source.toNat = m :: l →
      exec (.faultMessage source) s = .next (({ s with msgs := tset (fun _ => []) s.msgs source.toNat l } : State).collect m)) := by
  unfold State.heldAt
  constructor
  · intro h
    refine congrArg Host.Outcome.next ((if_neg (ne_true_of_eq_false hline)).trans ?_)
    rw [h]
  · intro m l h
    refine congrArg Host.Outcome.next ((if_neg (ne_true_of_eq_false hline)).trans ?_)
    rw [h]

end

section
variable {s : State} {m : FaultMsg}

theorem classify_of_counted (hsafe : s.flag R.IL_STATUS_SAFE = false) (hc : m.clear = false) (hcls : m.baseClass ≠ 3) {u : State}
    (h : s.ilBucket m.source (1 + m.rep) = (false, false, u)) : s.classify m = (m.baseClass, false, u) := by
  rw [classify_of_raise hsafe hc, if_neg hcls, h]
  rfl

theorem classify_of_promoted (hsafe : s.flag R.IL_STATUS_SAFE = false) (hc : m.clear = false) (hcls : m.baseClass ≠ 3) {u : State}
    (h : s.ilBucket m.source (1 + m.rep) = (true, false, u)) :
    s.classify m = (m.baseClass + 1, true, u.bump R.IL_EVENTS2_PROMOTED R.IL_FLAGS_PROMOTED_OVF 1) := by
  rw [classify_of_raise hsafe hc, if_neg hcls, h]
  rfl

/-- The message that fills its bucket is told in an event before its promotion counts (R420, R431). -/
theorem classify_of_filling (hsafe : s.flag R.IL_STATUS_SAFE = false) (hc : m.clear = false) (hcls : m.baseClass ≠ 3) {u : State}
    (h : s.ilBucket m.source (1 + m.rep) = (true, true, u)) :
    s.classify m = (m.baseClass + 1, true, (u.event ilSource 0x0E82 (leBytes 2 m.source ++ leBytes 2 m.kind)).bump
      R.IL_EVENTS2_PROMOTED R.IL_FLAGS_PROMOTED_OVF 1) := by
  rw [classify_of_raise hsafe hc, if_neg hcls, h]
  rfl

theorem collect_of_classify {cls : Nat} {promoted : Bool} {u : State}
    (h : (s.wrap R.IL_LOG_STAT_NEXT_LSEQ).classify m.known = (cls, promoted, u)) :
    s.collect m =
      let k := m.known
      let lseq := s.fget R.IL_LOG_STAT_NEXT_LSEQ
      let v := ((u.logEntry k cls lseq promoted).ilFault k cls lseq promoted).condMsg k cls
      if k.clear = true then v.tryExit
      else if cls = 3 then v.faultEnter lseq
      else if cls = 2 then (if v.flag R.IL_STATUS_FAULT_STATE = true then v.quietStart else v).handOver k promoted lseq
      else v := by
  unfold State.collect
  dsimp only
  rw [h]

/-- A message that does not fall in the access that read its bucket is counted as after that access. -/
theorem classify_of_apart_access {l : Nat} {f : Bool} (hsafe : s.flag R.IL_STATUS_SAFE = false) (hc : m.clear = false)
    (hcls : m.baseClass ≠ 3) (hr : s.il.readAt = some (m.source, l, f, s.clock.run)) (hs : s.sameAccess = false) :
    s.classify m = s.readJudged.classify m := by
  have hsafe' : s.readJudged.flag R.IL_STATUS_SAFE = false := hsafe
  rw [classify_of_raise hsafe hc, classify_of_raise hsafe' hc, ilBucket_of_read hr, if_neg (ne_true_of_eq_false hs),
    readJudged_apart, if_neg hcls, if_neg hcls]

/-- The judgement of a message in the access that reads its bucket (R421). -/
theorem ilBucket_of_same_access {l : Nat} {f : Bool} (hr : s.il.readAt = some (m.source, l, f, s.clock.run)) (hs : s.sameAccess = true)
    (hf : s.flag (R.IL_BUCKET_FULL.at (8 * m.source)) = false) (hl : s.fget (R.IL_BUCKET_LEVEL.at (8 * m.source)) = 0)
    (hcap : 1 + m.rep < s.od D.BUCKET_CAP) :
    s.ilBucket m.source (1 + m.rep) =
      (f || decide (s.od D.BUCKET_CAP ≤ l + (1 + m.rep)), !f && decide (s.od D.BUCKET_CAP ≤ l + (1 + m.rep)),
        s.readJudged.fset (R.IL_BUCKET_LEVEL.at (8 * m.source)) (1 + m.rep)) :=
  (ilBucket_of_read hr).trans ((if_pos hs).trans (ilRead_of_cleared (s := s.readJudged) hf hl hcap))

/-- A raise in an access that did not read its bucket (R419, R420). -/
theorem classify_of_unread (s : State) (m : FaultMsg) :
    let safe := s.flag R.IL_STATUS_SAFE
    let level := R.IL_BUCKET_LEVEL.at (8 * m.source)
    let full := R.IL_BUCKET_FULL.at (8 * m.source)
    let n := s.fget level + (1 + m.rep)
    let apart := ∀ l f, s.il.readAt ≠ some (m.source, l, f, s.clock.run)
    let up := fun (u : State) => u.bump R.IL_EVENTS2_PROMOTED R.IL_FLAGS_PROMOTED_OVF 1
    safe = false → m.clear = false → m.baseClass ≠ 3 →
      (apart → s.flag full = true → s.classify m = (m.baseClass + 1, true, up s)) ∧
      (apart → s.flag full = false → n < s.od D.BUCKET_CAP → s.classify m = (m.baseClass, false, s.fset level n)) ∧
      (apart → s.flag full = false → s.od D.BUCKET_CAP ≤ n → s.classify m = (m.baseClass + 1, true, up
        (((s.fset level (s.od D.BUCKET_CAP)).fset full 1).event ilSource 0x0E82 (leBytes 2 m.source ++ leBytes 2 m.kind)))) := by
  intro safe level full n apart up h hc h3
  refine ⟨fun ha hf => ?_, fun ha hf hn => ?_, fun ha hf hn => ?_⟩
  · exact classify_of_promoted h hc h3 ((ilBucket_of_apart ha).trans (ilFill_of_full hf))
  · exact classify_of_counted h hc h3 ((ilBucket_of_apart ha).trans (ilFill_of_below hf hn))
  · exact classify_of_filling h hc h3 ((ilBucket_of_apart ha).trans (ilFill_of_cap hf hn))

/-- The captures and the flash log of a message, by its class, once its entry is written (R427). -/
theorem logEntry_of_put {cls lseq : Nat} {promoted : Bool} {u : State}
    (h : (let l := m.words cls lseq promoted
      let off := R.IL_LOG + 32 * (lseq % 256)
      let put := fun (u : State) => (u.csrWords off l).bump R.IL_EVENTS_MSGS R.IL_FLAGS_MSGS_OVF 1
      put (if (s.csrGet off != 0 && !logPassed (s.fget R.IL_LOG_STAT_READ) (2 ^ 32 + lseq - 256)) = true then
        s.bump R.IL_EVENTS_LOG_LOST R.IL_FLAGS_LOST_OVF 1 else s)) = u) :
    let l := m.words cls lseq promoted
    (cls = 0 → s.logEntry m cls lseq promoted = u) ∧
    (cls = 1 ∨ cls = 2 → s.logEntry m cls lseq promoted = u.ilCapture R.IL_FIRST l) ∧
    (cls = 3 → s.logEntry m cls lseq promoted =
      ((u.ilCapture R.IL_FIRST l).ilCapture R.IL_FIRST_CRIT l).keepCritical (l.flatMap (leBytes 8))) := by
  intro l
  have hput : s.logEntry m cls lseq promoted =
      let a := if 1 ≤ cls then u.ilCapture R.IL_FIRST l else u
      let b := if cls = 3 then a.ilCapture R.IL_FIRST_CRIT l else a
      if cls = 3 then b.keepCritical (l.flatMap (leBytes 8)) else b := by
    rw [← h]
    rfl
  refine ⟨fun hc => ?_, fun hc => ?_, fun hc => ?_⟩
  · have h3 : cls ≠ 3 := by omega
    have h1 : ¬ 1 ≤ cls := by omega
    rw [hput, if_neg h3, if_neg h3, if_neg h1]
  · have h3 : cls ≠ 3 := by omega
    have h1 : 1 ≤ cls := by omega
    rw [hput, if_neg h3, if_neg h3, if_pos h1]
  · have h1 : 1 ≤ cls := by omega
    rw [hput, if_pos hc, if_pos hc, if_pos h1]

theorem condMsg_of_cond {cls : Nat} (h : kindCond m.kind = true) :
    s.condMsg m cls =
      let hit := fun (c : Cond) => c.source == m.source && c.kind == m.kind
      let shown := fun (u : State) => u.fset R.IL_STATUS_COND u.il.conds.length
      shown (if m.clear = true then s.ilMod fun x => { x with conds := x.conds.filter fun c => !hit c }
        else if s.il.conds.any hit = true then
          s.ilMod fun x => { x with conds := x.conds.map fun c => if hit c then { c with cls := max c.cls cls } else c }
        else if s.il.conds.length < 64 then s.ilMod fun x => { x with conds := x.conds ++ [Cond.mk m.source m.kind cls] }
        else s.fset R.IL_STATUS_COND_OVF 1) :=
  if_neg (by rw [h]; decide)

end

section
variable (s : State)

/-- The hand-over of an ERROR message to the ladder, by the range of its source (R446). -/
theorem handOver_cases : ∀ (m : FaultMsg) promoted lseq,
    let act := s.actUnit m.source 1 1 lseq
    let fenced := (0x210 ≤ m.source ∧ m.source ≤ 0x217) ∨ (0x100 ≤ m.source ∧ m.source ≤ 0x103)
    let lost := m.kind = 0x0E32 ∨ m.kind = 0x0E34 ∨ promoted = true
    (m.source ≤ 0xBF → m.kind = 0x0E02 ∨ promoted = true → s.handOver m promoted lseq = act) ∧
    (m.source ≤ 0xBF → m.kind ≠ 0x0E02 → promoted = false → s.handOver m promoted lseq = s) ∧
    (fenced → promoted = true → s.handOver m promoted lseq = act) ∧ (fenced → promoted = false → s.handOver m promoted lseq = s) ∧
    (m.source = 0x510 ∨ m.source = 0x511 → lost → s.dom.worksRst = false →
      (m.source - 0x510 = s.rcActive → s.handOver m promoted lseq = act) ∧
      (m.source - 0x510 ≠ s.rcActive → s.rcState (m.source - 0x510) = 3 →
        s.handOver m promoted lseq = s.standbyFail (m.source - 0x510) 1) ∧
      (m.source - 0x510 ≠ s.rcActive → s.rcState (m.source - 0x510) ≠ 3 → s.handOver m promoted lseq = s)) ∧
    (m.source = 0x510 ∨ m.source = 0x511 → ¬ lost ∨ s.dom.worksRst = true → s.handOver m promoted lseq = s) ∧
    (m.source = 0x700 → m.kind = 0x0E34 → m.injected = true → s.handOver m promoted lseq = s.sbHang) ∧
    (0xBF < m.source → ¬ fenced → m.source ≠ 0x510 → m.source ≠ 0x511 → ¬ (m.source = 0x700 ∧ m.kind = 0x0E34 ∧ m.injected = true) →
      s.handOver m promoted lseq = s) := by
  intro m promoted lseq act fenced lost
  have htile (h : m.source ≤ 0xBF) : s.handOver m promoted lseq = if m.kind = 0x0E02 ∨ promoted = true then act else s := if_pos h
  have hunit (h : fenced) : s.handOver m promoted lseq = if promoted = true then act else s :=
    (if_neg (by omega)).trans (if_pos h)
  have hrc (h : m.source = 0x510 ∨ m.source = 0x511) : s.handOver m promoted lseq =
      if lost then
        if s.dom.worksRst = true then s
        else if m.source - 0x510 = s.rcActive then act
        else if s.rcState (m.source - 0x510) = 3 then s.standbyFail (m.source - 0x510) 1 else s
      else s :=
    (if_neg (by omega)).trans ((if_neg (by omega)).trans (if_pos h))
  have hrest (h : 0xBF < m.source) (hf : ¬ fenced) (ha : ¬ (m.source = 0x510 ∨ m.source = 0x511)) : s.handOver m promoted lseq =
      if m.source = 0x700 ∧ m.kind = 0x0E34 ∧ m.injected = true then s.sbHang else s :=
    (if_neg (Nat.not_le.mpr h)).trans ((if_neg hf).trans (if_neg ha))
  refine ⟨fun h hk => ?_, fun h hk hp => ?_, fun h hp => ?_, fun h hp => ?_, fun h hl hw => ?_, fun h hl => ?_, fun h hk hi => ?_,
    fun h hf ha hb hn => ?_⟩
  · rw [htile h, if_pos hk]
  · rw [htile h, if_neg (not_or.mpr ⟨hk, ne_true_of_eq_false hp⟩)]
  · rw [hunit h, if_pos hp]
  · rw [hunit h, if_neg (ne_true_of_eq_false hp)]
  · rw [hrc h, if_pos hl, if_neg (ne_true_of_eq_false hw)]
    exact ⟨fun hx => if_pos hx, fun hx h3 => (if_neg hx).trans (if_pos h3), fun hx h3 => (if_neg hx).trans (if_neg h3)⟩
  · rw [hrc h]
    rcases hl with hl | hw
    · exact if_neg hl
    · exact ite_eq_right_iff.mpr fun _ => if_pos hw
  · rw [hrest (by omega) (by omega) (by omega), if_pos ⟨h, hk, hi⟩]
  · rw [hrest h hf (not_or.mpr ⟨ha, hb⟩), if_neg hn]

end

section
variable {s : State}

theorem exec_ilInject_of_line (hline : s.dom.lineRst = false) (src : Party) (v : BitVec 64) :
    (s.partyUp src = false ∨ s.od D.INJECT_EN = 0 → exec (.ilInject src v) s = .next s) ∧
    (s.partyUp src = true → s.od D.INJECT_EN ≠ 0 →
      let source := nbits v.toNat 63 48
      let kind := nbits v.toNat 47 32
      exec (.ilInject src v) s = .next (s.reportMsg ⟨source, kind, nbits v.toNat 31 24, v.getLsbD 23, v.getLsbD 22, true, 0, 0, s.rtime,
        s.highClass source kind 0⟩)) := by
  have hexec : exec (.ilInject src v) s = .next (if s.partyUp src = true then (s.ilInject v).2 else s) := by
    refine congrArg Host.Outcome.next ?_
    unfold State.byParty
    dsimp only
    rw [if_neg (ne_true_of_eq_false hline)]
  rw [hexec]
  unfold State.ilInject
  refine ⟨fun h => congrArg Host.Outcome.next ?_, fun hp hi => congrArg Host.Outcome.next ?_⟩
  · rcases h with h | h
    · exact if_neg (ne_true_of_eq_false h)
    · rw [if_pos h]
      exact ite_self s
  · rw [if_pos hp, if_neg hi]

end

/-- Settles O53: each command is one branch of its definition; the drain treats each bucket by its own register. -/
theorem interlockCommands : Obligations.InterlockCommands := by
  unfold Obligations.InterlockCommands
  intro s
  refine ⟨interlock_unchanged_of_line, exec_faultMessage_of_line, ?_, ?_, ?_, ?_, ?_, ?_, ?_, ?_, ?_, ?_, ?_, ?_, ?_, ?_, ?_, ?_⟩
  · intro m
    refine ⟨fun hk hs => ?_, fun h => ?_, fun h => ?_, fun h => ?_, fun x l hk hc => ?_⟩
    · exact if_pos (by rw [hk, hs]; rfl)
    · refine if_neg ?_
      rw [Bool.and_eq_true]
      rintro ⟨hk, hs⟩
      rcases h with h | h
      · exact Bool.noConfusion (h.symm.trans hk)
      · exact Bool.noConfusion (h.symm.trans hs)
    · exact if_neg (ne_true_of_eq_false h)
    · exact if_pos h
    · exact if_pos ⟨hk, hc⟩
  · intro m cls promoted u h k lseq v
    have hcol := collect_of_classify h
    refine ⟨fun hc => hcol.trans (if_pos hc), fun hc h3 => ?_, fun hc h2 hf => ?_, fun hc h2 hf => ?_, fun hc h2 => ?_⟩
    · exact hcol.trans ((if_neg (ne_true_of_eq_false hc)).trans (if_pos h3))
    · refine hcol.trans ((if_neg (ne_true_of_eq_false hc)).trans ((if_neg (by omega)).trans ((if_pos h2).trans ?_)))
      exact congrArg (fun w => State.handOver w k promoted lseq) (if_pos hf)
    · refine hcol.trans ((if_neg (ne_true_of_eq_false hc)).trans ((if_neg (by omega)).trans ((if_pos h2).trans ?_)))
      exact congrArg (fun w => State.handOver w k promoted lseq) (if_neg (ne_true_of_eq_false hf))
    · exact hcol.trans ((if_neg (ne_true_of_eq_false hc)).trans ((if_neg (by omega)).trans (if_neg (by omega))))
  · intro m safe level full n apart up
    refine ⟨fun h => classify_of_safe h, fun x h hc hx => ?_, fun h hc hx => ?_, fun h hc h3 => ?_, fun h hc h3 => ?_⟩
    · rw [classify_of_clear h hc, hx]
      rfl
    · rw [classify_of_clear h hc, hx]
      rfl
    · rw [classify_of_raise h hc, if_pos h3]
    · obtain ⟨h0, h1, h2⟩ := classify_of_unread s m h hc h3
      refine ⟨h0, h1, h2, fun l f hr => ⟨s.sameAccess, ?_⟩⟩
      intro t
      refine ⟨classify_of_apart_access h hc h3 hr, fun hs hf hl hcap => ?_⟩
      have hj := ilBucket_of_same_access hr hs hf hl hcap
      intro u
      refine ⟨fun hff => ?_, fun hff hlt => ?_, fun hff hle => ?_⟩
      · subst hff
        exact classify_of_promoted h hc h3 hj
      · subst hff
        rw [decide_eq_false (Nat.not_le.mpr hlt)] at hj
        exact classify_of_counted h hc h3 hj
      · subst hff
        rw [decide_eq_true hle] at hj
        exact classify_of_filling h hc h3 hj
  · intro m cls lseq promoted l off lost put a kept
    have hlog : ∀ u, put (if lost = true then a else s) = u → kept u := fun u h => logEntry_of_put h
    exact ⟨fun h => hlog _ (congrArg put (if_pos h)), fun h => hlog _ (congrArg put (if_neg (ne_true_of_eq_false h)))⟩
  · exact fun off l => ⟨fun h => if_pos h, fun h => if_neg (ne_true_of_eq_false h)⟩
  · intro m cls lseq promoted recent
    refine ⟨fun h => if_pos (h.imp_right recent_iff.mpr), fun hc hr => if_neg ?_⟩
    exact not_or.mpr ⟨hc, fun h => hr (recent_iff.mp h)⟩
  · intro m cls hit shown
    refine ⟨fun h => if_pos (by rw [h]; rfl), fun h hc => ?_, fun h hc ha => ?_, fun h hc ha hl => ?_, fun h hc ha hl => ?_⟩
    · exact (condMsg_of_cond h).trans (congrArg shown (if_pos hc))
    · exact (condMsg_of_cond h).trans (congrArg shown ((if_neg (ne_true_of_eq_false hc)).trans (if_pos ha)))
    · exact (condMsg_of_cond h).trans (congrArg shown ((if_neg (ne_true_of_eq_false hc)).trans
        ((if_neg (ne_true_of_eq_false ha)).trans (if_pos hl))))
    · exact (condMsg_of_cond h).trans (congrArg shown ((if_neg (ne_true_of_eq_false hc)).trans
        ((if_neg (ne_true_of_eq_false ha)).trans (if_neg (Nat.not_lt.mpr hl)))))
  · intro lseq t u
    refine ⟨fun h => if_neg (by rw [h]; decide), fun h => if_pos (by rw [h]; rfl)⟩
  · exact handOver_cases s
  · refine ⟨rfl, fun hn hp hh => if_pos ⟨hn, by rw [hp]; rfl, hh⟩, fun h => if_neg ?_⟩
    rintro ⟨hn, hp, hh⟩
    rcases h with h | h | h
    · exact Bool.noConfusion (h.symm.trans hn)
    · rw [h] at hp
      exact Bool.noConfusion hp
    · exact Bool.noConfusion (h.symm.trans hh)
  · intro hline due
    refine ⟨fun hq hd => congrArg Host.Outcome.next (if_neg ?_), fun h => congrArg Host.Outcome.next (if_pos (.inr h))⟩
    exact not_or.mpr ⟨ne_true_of_eq_false hline, not_or.mpr ⟨by rw [hq]; decide, Nat.not_lt.mpr hd⟩⟩
  · intro h
    refine if_pos ?_
    rcases h with h | h | h
    · exact Or.inl (by rw [h]; rfl)
    · exact Or.inr (Or.inl (by rw [h]; rfl))
    · exact Or.inr (Or.inr h)
  · intro hf he hc
    have hon : ¬ ((!s.flag R.IL_STATUS_FAULT_STATE) = true ∨ (!s.il.expired) = true ∨ s.flag R.IL_STATUS_CLEAR_REQUIRED = true) := by
      rw [hf, he, hc]
      decide
    refine ⟨fun h => (if_neg hon).trans (if_pos (h.imp_left heavy_iff.mpr)), fun hl ho hs => ?_⟩
    have hfree : ¬ ((s.il.conds.any fun c => decide (2 ≤ c.cls)) = true ∨ s.flag R.IL_STATUS_COND_OVF = true ∨
        s.flag R.IL_STATUS_SAFE = true) := by
      refine not_or.mpr ⟨fun h => ?_, not_or.mpr ⟨ne_true_of_eq_false ho, ne_true_of_eq_false hs⟩⟩
      obtain ⟨c, hmem, hle⟩ := heavy_iff.mp h
      exact absurd (hl c hmem) (Nat.not_lt.mpr hle)
    refine ⟨fun h => (if_neg hon).trans ((if_neg hfree).trans (if_pos h)), fun h => ?_⟩
    exact (if_neg hon).trans ((if_neg hfree).trans (if_neg (Nat.not_le.mpr h)))
  · exact fun hline src v => exec_ilInject_of_line hline src v
  · intro hline
    refine ⟨congrArg Host.Outcome.next (if_pos (Or.inr rfl)), fun cause hc => ?_⟩
    intro t raised
    have hraised : t.selfRaised = true ↔ raised := selfRaised_iff
    have hexec : exec (.ilSelfCheck cause) s = .next (if (!s.flag R.IL_STATUS_SAFE) = true then
        (t.ilState 5 none).report ilSource .ilSelf cause.val 0
        else if t.selfRaised = true then t else t.report ilSource .ilSelf cause.val 0) :=
      congrArg Host.Outcome.next (if_neg (not_or.mpr ⟨ne_true_of_eq_false hline, hc⟩))
    rw [hexec]
    refine ⟨fun hs hr => ?_, fun hs hr => ?_, fun hs => congrArg Host.Outcome.next (if_pos (by rw [hs]; rfl))⟩
    · exact congrArg Host.Outcome.next ((if_neg (by rw [hs]; decide)).trans (if_pos (hraised.mpr hr)))
    · exact congrArg Host.Outcome.next ((if_neg (by rw [hs]; decide)).trans (if_neg (hr ∘ hraised.mp)))
  · intro hline hcanon
    refine ⟨s.drainBuckets 0x1000, exec_ilBucketDrain_of_line hline, drainBuckets_frame s.csr _,
      fun off h => csrGet_drainBuckets_ne h, fun c hc => ?_⟩
    intro level full n
    have hd := bucket_after_drain hcanon.csr c
    dsimp only at hd
    unfold State.flag at hd ⊢
    rw [fget_drainBuckets hcanon.csr hc rfl, fget_drainBuckets hcanon.csr hc rfl]
    exact hd

end Sys2Proof.Machine
end

section
/-! PROOFS. Fences and the ladder (R437 to R442, R447, R453). -/

namespace Sys2Proof.Machine

/-! ## Repeated actions move up (R447) -/

section
variable {s : State} {c level k : Nat}

theorem climb_of_few (h : 5 ≤ level ∨ s.recentActs (actKey c level) level + 1 < s.od D.ESC_REPEAT) :
    s.climb c level (k + 1) = (c, level, s) :=
  if_neg (by omega)

theorem climb_of_unit {t : Tgt} (hl : level = 1) (ht : tgtOf c = some t) (h : s.od D.ESC_REPEAT ≤ s.recentActs c 1 + 1) :
    s.climb c level (k + 1) = (s.escalation c 1 2 false).climb (0x0800 + t.dieOf) 2 k := by
  subst hl
  refine (if_pos ⟨by decide, h⟩).trans ?_
  dsimp only
  rw [if_pos rfl, ht]

theorem climb_of_die (hl : 1 < level) (h5 : level < 5) (h : s.od D.ESC_REPEAT ≤ s.recentActs (actKey c level) level + 1) :
    s.climb c level (k + 1) = (s.escalation c level (level + 1) false).climb c (level + 1) k := by
  refine (if_pos ⟨h5, h⟩).trans ?_
  dsimp only
  rw [if_neg (by omega : ¬ level = 1)]

end

/-! ## Requests for a fence and for a lift (R441, R453) -/

section
variable {s : State} {c : Nat} {t : Tgt}

theorem fenceRequest_of_none (h : tgtOf c = none) (hold : Bool) : s.fenceRequest c hold = (0x0F01, s) := by
  unfold State.fenceRequest
  rw [h]

theorem liftRequest_of_none (h : tgtOf c = none) : s.liftRequest c = (0x0F01, s) := by
  unfold State.liftRequest
  rw [h]

theorem fenceRequest_of_works (h : tgtOf c = some t) (hw : s.dom.worksRst = true) (hold : Bool) :
    s.fenceRequest c hold = (0x0F02, s) := by
  unfold State.fenceRequest
  rw [h]
  exact if_pos hw

theorem liftRequest_of_works (h : tgtOf c = some t) (hw : s.dom.worksRst = true) : s.liftRequest c = (0x0F02, s) := by
  unfold State.liftRequest
  rw [h]
  exact if_pos hw

/-- A request for a fence of a unit in service, by what forbids it. -/
theorem fenceRequest_of_service (h : tgtOf c = some t) (hw : s.dom.worksRst = false) (hs : s.inService t = true) (hold : Bool) :
    s.fenceRequest c hold =
      if s.isFenced c t = true then (0, s)
      else if s.hitsActive t = true ∧ s.standbyOk = false then (0x0F03, s)
      else
        let r := s.climb c t.level 5
        if 3 ≤ r.2.1 then (0, r.2.2.askReset (levelKind r.2.1) 2 r.2.1 r.1 0xFFFFFFFF)
        else
          match tgtOf r.1 with
          | none => (0, r.2.2)
          | some t' =>
            if r.2.2.isFenced r.1 t' = true then (0, r.2.2)
            else if r.2.2.hitsActive t' = true ∧ r.2.2.standbyOk = false then (0x0F03, s)
            else (0, r.2.2.fence r.1 t' r.2.1 2 0xFFFFFFFF hold) := by
  unfold State.fenceRequest
  rw [h]
  exact (if_neg (ne_true_of_eq_false hw)).trans (if_neg (by rw [hs]; decide))

theorem not_active_of (h : s.hitsActive t = false ∨ s.standbyOk = true) : ¬ (s.hitsActive t = true ∧ s.standbyOk = false) := by
  rintro ⟨ha, hb⟩
  rcases h with h | h
  · exact Bool.noConfusion (h.symm.trans ha)
  · exact Bool.noConfusion (hb.symm.trans h)

theorem liftRequest_of_stays {x : Fence} (h : tgtOf c = some t) (hw : s.dom.worksRst = false) (hs : s.inService t = true)
    (hheld : s.mgr.held = []) (hx : s.fenceOf c = some x) (hp : x.phase = .stays) :
    s.liftRequest c = (0, (s.rcSelfTests t).fenceMod c fun y => { y with phase := .lifting }) := by
  unfold State.liftRequest
  rw [h]
  dsimp only
  rw [if_neg (ne_true_of_eq_false hw), if_neg (by rw [hheld]; rintro ⟨-, h⟩; exact Bool.noConfusion h),
    if_neg (by rw [hs]; rintro ⟨h, -⟩; exact Bool.noConfusion h), hx]
  exact congrArg (Prod.mk 0) (if_pos hp)

theorem exec_fenceReq_of_reaches {src : Party} (h : s.Reaches src R.FENCE_REQ) (target : BitVec 16) (hold : Bool) :
    exec (.fenceReq src target hold) s = .next (fenceAnswer target.toNat (s.fenceRequest target.toNat hold)) :=
  congrArg Host.Outcome.next (h.byParty_regCmd _)

theorem exec_lift_of_reaches {src : Party} (h : s.Reaches src R.FENCE_REQ) (target : BitVec 16) :
    exec (.lift src target) s = .next (fenceAnswer target.toNat (s.liftRequest target.toNat)) :=
  congrArg Host.Outcome.next (h.byParty_regCmd _)

end

/-! ## A fence, from its cut to its end (R437 to R442) -/

section
variable {s : State} {target : BitVec 16} {x : Fence} {t : Tgt}

theorem exec_fenceDrainEnd_of_answered (hx : s.fenceOf target.toNat = some x) (ht : tgtOf target.toNat = some t)
    (hp : x.phase = .drain) (hl : s.drainLeft t = []) :
    exec (.fenceDrainEnd target) s = .next ((t.tiles.foldl (fun u p =>
      if u.tileState p = 5 then u.setTile p { u.tile p with dma := (u.tile p).dma.map fun e => { e with run := none } } else u)
      ({ s with router := { s.router with reqs := s.router.reqs.filter fun q => !t.tiles.contains q.tile } } : State)).fenceMod
        x.target fun y => { y with phase := .drained, drainTo := false }) := by
  show execFenceDrainEnd target s = _
  unfold execFenceDrainEnd
  rw [hx, ht]
  dsimp only
  rw [if_neg (by rw [hp]; decide), hl]
  exact congrArg Host.Outcome.next ((if_neg (by decide)).trans (if_neg fun h => Bool.noConfusion h.1))

theorem exec_fenceComplete_of_drained (hx : s.fenceOf target.toNat = some x) (ht : tgtOf target.toNat = some t)
    (hp : x.phase = .drained) :
    let w := s.writeSamples x.samples
    let u := t.rcs.foldl (fun u r => u.tokensForced (2 + r)) w.2
    let v := if t.rcs.any (· != u.rcActive) then u.failoverEnd else u
    exec (.fenceComplete target) s =
      .next ((v.rcSelfTests t).fenceMod x.target fun y => { y with phase := .unitReset, recSeq := w.1, samples := [] }) := by
  intro w u v
  show execFenceComplete target s = _
  unfold execFenceComplete
  rw [hx, ht]
  exact congrArg Host.Outcome.next (if_neg (by rw [hp]; decide))

/-- The end of a unit reset: the target lifts or stays, and one whose reset failed moves up. -/
theorem exec_unitResetDone_of_phase {passed : Bool} {chUp : Vector (BitVec 4) 2} {ok : Bool} {u : State}
    (hx : s.fenceOf target.toNat = some x) (ht : tgtOf target.toNat = some t)
    (hp : x.phase = .unitReset ∨ x.phase = .lifting) (hr : s.unitReset t passed chUp = (ok, u)) :
    exec (.unitResetDone target passed chUp) s = .next (
      let up := ok && (x.phase == .lifting || (!x.hold && u.od D.AUTO_LIFT == 1))
      let v := if up = true then (u.lift t).mgrMod fun m => { m with fences := m.fences.filter (·.target != x.target) }
        else (u.rcFenced t).fenceMod x.target fun y => { y with phase := .stays, urFail := !ok }
      if ok = true ∨ x.phase = .lifting then v.fenceDone x up (!ok) else (v.fenceDone x up (!ok)).unitFailed x t) := by
  show execUnitResetDone target passed chUp s = _
  unfold execUnitResetDone
  rw [hx, ht]
  dsimp only
  rw [if_neg (by rcases hp with h | h <;> rw [h] <;> decide), hr]

theorem lifts_iff {ok : Bool} {u : State} : (ok && (x.phase == .lifting || (!x.hold && u.od D.AUTO_LIFT == 1))) = true ↔
    ok = true ∧ (x.phase = .lifting ∨ x.hold = false ∧ u.od D.AUTO_LIFT = 1) := by
  simp only [Bool.and_eq_true, Bool.or_eq_true, Bool.not_eq_true', beq_iff_eq]

end

/-- Settles O54: each request and each phase is one branch of its command. -/
theorem fenceCommands : Obligations.FenceCommands := by
  unfold Obligations.FenceCommands
  intro target s c
  refine ⟨fun src hold hreach => ?_, ?_, ?_, fun x t hx ht => ⟨?_, ?_, ?_⟩, ?_⟩
  · intro answer
    rw [exec_fenceReq_of_reaches hreach, exec_lift_of_reaches hreach]
    have hans : ∀ {r : Nat × State} {code : Nat} {u : State}, r = (code, u) → Host.Outcome.next (fenceAnswer c r) = answer code u :=
      fun h => by rw [h]; rfl
    refine ⟨fun h => ⟨hans (fenceRequest_of_none h hold), hans (liftRequest_of_none h)⟩, fun t ht => ⟨fun hw => ?_, fun hw hs => ?_⟩⟩
    · exact ⟨hans (fenceRequest_of_works ht hw hold), hans (liftRequest_of_works ht hw)⟩
    · have hreq := fenceRequest_of_service ht hw hs hold
      refine ⟨fun hf => hans (hreq.trans (if_pos hf)), fun hf ha hb => ?_, fun c' level u hf ha hc => ?_, fun x hheld hx hp => ?_⟩
      · exact hans (hreq.trans ((if_neg (ne_true_of_eq_false hf)).trans (if_pos ⟨ha, hb⟩)))
      · rw [if_neg (ne_true_of_eq_false hf), if_neg (not_active_of ha), hc] at hreq
        dsimp only at hreq
        refine ⟨fun h3 => hans (hreq.trans (if_pos h3)), fun t' h3 ht' => ?_⟩
        rw [if_neg (Nat.not_le.mpr h3), ht'] at hreq
        refine ⟨fun hf' => hans (hreq.trans (if_pos hf')), fun hf' ha' => hans (hreq.trans ?_)⟩
        exact (if_neg (ne_true_of_eq_false hf')).trans (if_neg (not_active_of ha'))
      · exact hans (liftRequest_of_stays ht hw hs hheld hx hp)
  · exact fun level k => ⟨climb_of_few, fun t => climb_of_unit, climb_of_die⟩
  · intro t level cause lseq hold ha x u v hv
    unfold State.fence
    dsimp only
    rw [if_neg (ne_true_of_eq_false ha)]
    exact if_neg (ne_true_of_eq_false hv)
  · exact fun hp hl => ⟨_, exec_fenceDrainEnd_of_answered hx ht hp hl, rfl⟩
  · exact fun hp => exec_fenceComplete_of_drained hx ht hp
  · intro passed chUp ok u hr hp lifts
    have hexec := exec_unitResetDone_of_phase hx ht hp hr
    refine ⟨fun hl => ?_, fun hl hok => ?_, fun hok hphase => ?_⟩
    · rw [lifts_iff.mpr hl, hl.1] at hexec
      exact hexec
    · rw [eq_false_of_ne_true (fun h => hl (lifts_iff.mp h)), hok] at hexec
      exact hexec
    · rw [hok, hphase] at hexec
      exact hexec
  · intro he hd hw
    exact congrArg Host.Outcome.next (if_pos ⟨he, by rw [hd]; rfl, hw⟩)

end Sys2Proof.Machine
end

section
/-! PROOFS. Resets of the domains, their exits, loss and return of power (R30 to R34, R367, R447 to R451, R456, R480). -/

namespace Sys2Proof.Machine

/-! ## What the entry into reset wipes and keeps (R450, R451) -/

section
variable {s : State}

theorem State.tilesDark_job : s.tilesDark.job = s.job := by
  unfold State.tilesDark
  refine Keeps.ite (P := fun u => u.job = s.job) rfl ?_
  refine (State.fset_job _ _ _).trans (Keeps.foldl (P := fun u => u.job = s.job) rfl fun t d h => ?_)
  rw [State.fset_job, State.fset_job]
  exact h

theorem State.tilesDark_regions : s.tilesDark.regions = s.regions := by
  unfold State.tilesDark
  refine Keeps.ite (P := fun u => u.regions = s.regions) rfl ?_
  refine (State.fset_regions _ _ _).trans (Keeps.foldl (P := fun u => u.regions = s.regions) rfl fun t d h => ?_)
  rw [State.fset_regions, State.fset_regions]
  exact h

theorem worksWipe_wiped : s.worksWipe.dom.worksRst = true ∧ s.worksWipe.tiles = .replicate 192 .reset ∧ s.worksWipe.job = s.job ∧
    s.worksWipe.regions = s.regions ∧ s.worksWipe.prog = .empty := by
  have hjob : (((s.resetBlocks inWorks).tilesDark).imageGone 1).job = s.job :=
    (State.fwMod_job _ _).trans State.tilesDark_job
  have hregions : (((s.resetBlocks inWorks).tilesDark).imageGone 1).regions = s.regions :=
    (State.fwMod_regions _ _).trans State.tilesDark_regions
  unfold State.worksWipe
  generalize ((s.resetBlocks inWorks).tilesDark).imageGone 1 = u at hjob hregions
  exact ⟨rfl, rfl, hjob, hregions, rfl⟩

/-- What stood last on a port's lanes stays on record when LINE enters reset. -/
theorem State.lineWipe_port {p : Nat} (hp : p < 18) :
    s.lineWipe.port p = { Port.reset with lastCw := (s.port p).lastCw, lastLane := (s.port p).lastLane } := by
  show vget Port.reset (s.ports.map fun x => { Port.reset with lastCw := x.lastCw, lastLane := x.lastLane }) p = _
  unfold State.port vget
  rw [dif_pos hp, dif_pos hp, Vector.getElem_map]

theorem keepNotices_getElem (l : List DwEvent) {i : Nat} {e : DwEvent} (h : l[i]? = some e) :
    (s.keepNotices l).dw.evq[i]? = some { e with seq := i } := by
  show (l.mapIdx fun i e => { e with seq := i })[i]? = _
  rw [List.getElem?_mapIdx, h]
  rfl

end

/-! ## Resets entered and left -/

section
variable {s : State}

theorem exec_worksReset_of_request (hk : s.dom.reqKind = 1) (hw : s.dom.worksRst = false) :
    exec .worksReset s = .next ((((s.worksEnter 1 s.dom.reqCause).resetNotice 1 1).reqDone).restartRun 2) := by
  show execWorksReset s = _
  unfold execWorksReset
  rw [if_neg (not_or.mpr ⟨not_not.mpr hk, ne_true_of_eq_false hw⟩)]

/-- The state of a package reset once its notice is out. -/
def State.packageEntered (s : State) : State := (if s.dom.worksRst then s else s.worksEnter 2 s.dom.reqCause).resetNotice 2 1

/-- A package reset notes whether an ARMED image boots with it (R519). -/
def State.packageNoted (t : State) : State :=
  let passed := if t.boot.stage = 7 ∧ t.boot.full = false then 6 else t.boot.stage
  t.fwMod fun x => { x with lineAgain := true, lineStage := if (t.fwSlot (t.idle 2)).state = 3 then passed else x.lineStage }

theorem exec_packageReset_of_request (hk : s.dom.reqKind = 2) (hl : s.dom.lineRst = false) :
    exec .packageReset s = .next (
      let t := s.packageEntered
      let notes := (t.dw.evSent ++ t.dw.evq).filter fun e => e.code == 0x0F82
      ((t.packageNoted.sayReset.lineWipe.keepNotices notes).reqDone).restartRun 1) := by
  show execPackageReset s = _
  unfold execPackageReset State.packageNoted
  rw [if_neg (not_or.mpr ⟨not_not.mpr hk, ne_true_of_eq_false hl⟩)]
  simp only [beq_iff_eq]
  rfl

theorem exec_powerCycle_of_request (hk : s.dom.reqKind = 4) :
    exec .powerCycle s = .next (
      let t := (if s.dom.worksRst then s else (s.worksEnter 4 s.dom.reqCause).resetNotice 4 1).fset R.RESET_STATUS_CYCLE_REQ 1
      let u : State := { t with dom := { t.dom with reqKind := 0, again := false }, mgr := { t.mgr with cycTarget := s.dom.reqTarget } }
      u.notice 2 (leBytes 2 s.dom.reqTarget ++ leBytes 1 5)) := by
  show execPowerCycle s = _
  unfold execPowerCycle
  rw [if_neg (not_not.mpr hk)]

theorem exec_worksResetExit_of_due {chUp : Vector (BitVec 4) 8} {bad : BitVec 2} (hw : s.dom.worksRst = true)
    (hl : s.dom.lineRst = false) (hc : s.dom.cutoff = false) (ht : s.flag R.THERM_STATUS_TRIP = false)
    (hq : s.flag R.RESET_STATUS_CYCLE_REQ = false) (h3 : s.boot.stage = 3) (h0 : s.boot.outcome = 0) :
    let t : State := { s with dom := { s.dom with worksRst := false, exitTimer := false, again := false } }
    let u := (List.range 8).foldl (fun u n =>
      (((u.logRead n).fset (R.MD_STATUS_CH_UP.at (mdOff n)) (chUp[n]!).toNat).fset (R.SCRUB_CTL_RATE.at (mdOff n)) (u.od D.SCRUB_RATE)).reloadMark n) t
    let v := (List.range 8).foldl (fun u n => u.weSync n) ((List.range 192).foldl (fun u p => u.tileExit p) u)
    let b := (if v.job.active then v.jobRead.syncMirror else v).bootSlot 1 bad
    let w := ((b.2.syncArith).fwMod fun x => { x with rcImg := .replicate 2 (vget 0 x.run 1) })
    let x := (List.range 4).foldl (fun u d => u.ownPace d (u.fget (R.DIE_PWR_RATE.at (diePwr d))))
      (w.fset R.RC_STATUS_ACTIVE (w.od D.RC_PREFERRED)).heldDecisions
    exec (.worksResetExit chUp bad) s = .next (if b.1 then (x.selfTest 0).selfTest 1 else (x.setRc 0 6).setRc 1 6) := by
  intro t u v b w x
  show execWorksResetExit chUp bad s = _
  unfold execWorksResetExit
  rw [if_neg (by rw [hw, hl, hc, ht, hq, h3, h0]; decide)]

theorem noImage_of_signal (h : s.dom.signalRst = true) : s.noImage = s.stopRun 0 0x1001 := by
  unfold State.noImage
  rw [if_pos h]

theorem noImage_of_running (h : s.dom.signalRst = false) : ∃ (us : Nat) (q : State), q = { s with freeCtr := q.freeCtr } ∧
    s.noImage = (q.bootMod fun b => { b with stage := 0 }).stageStop 0 2 0x1001 us [] q.s0Detail := by
  refine ⟨s.draw.1.toNat % 2 ^ 32, s.draw.2, rfl, ?_⟩
  unfold State.noImage
  rw [if_neg (ne_true_of_eq_false h)]

theorem lineImage_eq (bad : BitVec 2) : s.lineImage bad =
    if s.fw.lineAgain then
      ((s.lineTrial.bootSlot 2 bad).1, (s.lineTrial.bootSlot 2 bad).2.fwMod fun x => { x with lineAgain := false })
    else (true, s) := by
  unfold State.lineImage
  generalize s.lineTrial.bootSlot 2 bad = b
  rfl

/-- LINE leaves reset with the image that its check leaves, or the run stops at S0. -/
theorem exec_lineResetExit_of_due {bad : BitVec 2} {ok : Bool} {r : State} (hl : s.dom.lineRst = true) (hp : s.dom.powered = true)
    (hc : s.dom.cutoff = false) (h2 : s.boot.stage = 2) (h0 : s.boot.outcome = 0) (hr : s.lineImage bad = (ok, r)) :
    let t : State := { r with
      dom := { r.dom with lineRst := false, exitTimer := true, again := false }, clock := { r.clock with fromCopy := r.clock.copyValid } }
    let u := t.odPut D.LINK_VERSION (t.fwSlot (t.inForce 2)).link
    let v := if u.clock.present then u.fset R.RTIME_STATUS_REFCLK_LOCK 1 else u
    let w := ((List.range 18).foldl (fun u p => if u.portMay p then u.setPortState p 1 else u) v).dwStart
    let x := w.pinFlags.fset R.IL_STATUS_INJECT_EN (w.od D.INJECT_EN)
    let y : State := if x.flag R.IL_STATUS_FAULT_STATE then
      { x.fset R.IL_STATUS_QUIET_RUN 1 with il := { x.il with quietAt := x.clock.run } } else x
    (ok = true → exec (.lineResetExit bad) s = .next (y.condsDrop.raiseAgain).bootRegs) ∧
    (ok = false → r.dom.signalRst = true → exec (.lineResetExit bad) s = .next (r.stopRun 0 0x1001)) ∧
    (ok = false → r.dom.signalRst = false → ∃ (us : Nat) (q : State), q = { r with freeCtr := q.freeCtr } ∧
      exec (.lineResetExit bad) s = .next ((q.bootMod fun b => { b with stage := 0 }).stageStop 0 2 0x1001 us [] q.s0Detail)) := by
  intro t u v w x y
  have hfail : ok = false → exec (.lineResetExit bad) s = .next r.noImage := by
    intro hok
    subst hok
    show execLineResetExit bad s = _
    unfold execLineResetExit
    rw [if_neg (by rw [hl, hp, hc, h2, h0]; decide), hr]
    dsimp only
    rw [if_pos (by decide)]
  refine ⟨fun hok => ?_, fun hok hs => ?_, fun hok hs => ?_⟩
  · subst hok
    show execLineResetExit bad s = _
    unfold execLineResetExit
    rw [if_neg (by rw [hl, hp, hc, h2, h0]; decide), hr]
    dsimp only
    rw [if_neg (by decide)]
  · rw [hfail hok, noImage_of_signal hs]
  · obtain ⟨us, q, hq, hn⟩ := noImage_of_running hs
    exact ⟨us, q, hq, by rw [hfail hok, hn]⟩

/-- A reset of LINE, or of WORKS alone, that has not ended at its limit (R447). -/
theorem exec_resetExitTimeout_of_due {line : Bool} (he : s.dom.exitTimer = true)
    (hd : if line = true then s.dom.lineRst = true else s.dom.lineRst = false ∧ s.dom.worksRst = true)
    (ht : s.flag R.THERM_STATUS_TRIP = false) :
    let t : State := { s with dom := { s.dom with exitTimer := false } }
    let l := if line then 4 else 3
    exec (.resetExitTimeout line) s = .next (if s.flag R.IL_STATUS_SAFE = true then t else
      (t.escalation s.dom.reqTarget l (l + 1) false).autoReset s.dom.reqTarget (l + 1) s.dom.reqCause s.dom.reqLseq) := by
  intro t l
  have hin : (if line = true then !s.dom.lineRst else s.dom.lineRst || !s.dom.worksRst) = false := by
    cases line with
    | false => rw [if_neg (by decide), hd.1, hd.2]; rfl
    | true => rw [if_pos rfl, show s.dom.lineRst = true from hd]; rfl
  show execResetExitTimeout line s = _
  unfold execResetExitTimeout
  rw [if_neg (by rw [he, hin, ht]; decide)]
  rfl

/-- SIGNAL enters reset: tokens, a handover and requests that wait are given up, the copy of RTIME lapses, the ROM chooses its slot. -/
theorem signalEnter_eq (bad : BitVec 2) (cause : Nat) : s.signalEnter bad cause =
    let t := ((s.tokensForced 4).dropHandover).odTurnAway
    let u := if t.dom.lineRst then t else t.bump R.SB_EVENTS2_SB_RESTARTS R.SB_FLAGS_RESTARTS_OVF 1
    let v : State := { u with
      clock := { u.clock with copyValid := false }, dom := { u.dom with signalRst := true, sigReq := 0 } }
    let hung := cause = 1 ∧ 3 ≤ s.mgr.hangs.length ∧ s.trial 0 = false
    ((if hung then v.fset R.RESET_STATUS_SB_HELD 1 else v).romBoot bad cause s.uptime).pathsJudged := by
  unfold State.signalEnter State.signalDown
  rfl

theorem exec_signalReset_of_request {bad : BitVec 2} (hq : s.dom.sigReq ≠ 0) (hs : s.dom.signalRst = false) {code : Nat} {u : State}
    (hc : s.sigCutOver = (code, u)) :
    exec (.signalReset bad) s = .next (
      if code ≠ 0 ∧ s.dom.sigReq = 3 then u.domMod fun d => { d with sigReq := 0 } else u.signalEnter bad s.dom.sigReq) := by
  show execSignalReset bad s = _
  unfold execSignalReset
  rw [if_neg (not_or.mpr ⟨hq, ne_true_of_eq_false hs⟩), hc]

theorem sigCutOver_of_none (h : s.sigPending = none) : s.sigCutOver = (0, s) := by
  unfold State.sigCutOver
  rw [h]

theorem sigCutOver_of_pending {k : Nat} (h : s.sigPending = some k) : s.sigCutOver =
    if s.fwBlock (some 0) = 0 then (0, (s.trialStart 0).fwActivated 0 k)
    else (s.fwBlock (some 0), ((s.slotSt k 2).odPut D.FW_RESULT (s.fwBlock (some 0))).activateFail 0 (s.fwBlock (some 0))) := by
  unfold State.sigCutOver
  rw [h]

theorem State.notice_dom (kind : Nat) (detail : List Byte) : (s.notice kind detail).dom = s.dom := by
  unfold State.notice State.noticeSend
  split
  · rfl
  dsimp only
  split
  · rfl
  split
  · rfl
  · rw [State.fieldSend_dom]

theorem State.noticesDue_dom : s.noticesDue.dom = s.dom := by
  unfold State.noticesDue
  have h : ∀ (c : Bool) (u : State) k l, u.dom = s.dom → (if c = true then u.notice k l else u).dom = s.dom := fun c u k l h => by
    cases c
    · exact h
    · exact (State.notice_dom k l).trans h
  exact h _ _ _ _ (h _ _ _ _ rfl)

theorem State.licAgain_dom : s.licAgain.dom = s.dom := by
  unfold State.licAgain
  split
  · rfl
  · exact Keeps.ite (P := fun u => u.dom = s.dom) rfl (Keeps.ite (P := fun u => u.dom = s.dom) rfl rfl)

theorem State.licAgain_clock : s.licAgain.clock = s.clock := by
  unfold State.licAgain
  split
  · rfl
  · exact Keeps.ite (P := fun u => u.clock = s.clock) rfl (Keeps.ite (P := fun u => u.clock = s.clock) rfl rfl)

theorem State.odDefaults_dom : s.odDefaults.dom = s.dom :=
  Keeps.ite (P := fun u => u.dom = s.dom) rfl rfl

theorem State.odDefaults_clock : s.odDefaults.clock = s.clock :=
  Keeps.ite (P := fun u => u.clock = s.clock) rfl rfl

/-- The signal box is up: its licence, its dictionary and its notices; the hang status starts anew where LINE runs. -/
def State.signalUp (u : State) : State :=
  let w := ((u.licAgain.odDefaults).sbMod fun b => { b with up := true, upAt := u.clock.run }).noticesDue
  if w.dom.lineRst = true then w else w.csrPut R.HANG_STATUS 0

theorem signalUp_of_line (hl : s.dom.lineRst = true) : s.signalUp =
    let v := s.licAgain.odDefaults
    (v.sbMod fun b => { b with up := true, upAt := v.clock.run }).noticesDue := by
  unfold State.signalUp
  dsimp only
  rw [State.odDefaults_clock, State.licAgain_clock]
  refine if_pos ?_
  rw [State.noticesDue_dom, State.sbMod_dom, State.odDefaults_dom, State.licAgain_dom]
  exact hl

/-- What the signal box does last in its start. -/
def State.signalStarted (w : State) : State :=
  let x := w.event sbSource 0x1181 (leBytes 1 w.sb.cause ++ [0] ++ leBytes 1 w.notices.length ++ [0] ++ leBytes 4 w.sb.before)
  let y := x.ilMod fun z => { z with flash := (z.flash ++ z.waiting).drop ((z.flash ++ z.waiting).length - 64), waiting := [] }
  y.pathsJudged

theorem exec_signalResetExit_of_line (hs : s.dom.signalRst = true) (hp : s.dom.powered = true)
    (hh : s.flag R.RESET_STATUS_SB_HELD = false) (hi : s.sb.noImage = false) (hl : s.dom.lineRst = true) :
    let t := (s.domMod fun d => { d with signalRst := false }).imageMeasured 0
    let u : State := { t with clock := { t.clock with copyValid := false } }
    let v := u.licAgain.odDefaults
    exec .signalResetExit s = .next (v.sbMod fun b => { b with up := true, upAt := v.clock.run }).noticesDue.signalStarted := by
  intro t u v
  have ht : t.dom.lineRst = true := hl
  show execSignalResetExit s = _
  unfold execSignalResetExit
  rw [if_neg (by rw [hs, hp, hh, hi]; decide)]
  exact (congrArg (fun u : State => Host.Outcome.next u.signalUp.signalStarted) (if_pos ht)).trans
    (congrArg (fun w => Host.Outcome.next (State.signalStarted w)) (signalUp_of_line (s := u) ht))

theorem exec_powerLoss_of_power (hp : s.dom.powered = true) : exec .powerLoss s = .next { s.dark with dom := { s.dark.dom with
    powered := false, signalRst := true, reqKind := 0, sigReq := 0, exitTimer := false } } := by
  show execPowerLoss s = _
  unfold execPowerLoss
  rw [if_neg (by rw [hp]; decide)]

end

/-! ## Power-on (R456) -/

/-- Two states agree in the queue, the domains and what flash holds of the dictionary. -/
structure SameBase (s t : State) : Prop where
  pending : t.pending = s.pending
  blob : t.blob = s.blob
  gens : t.gens = s.gens
  dom : t.dom = s.dom

namespace SameBase

variable {s t u : State}

theorem refl (s : State) : SameBase s s := ⟨rfl, rfl, rfl, rfl⟩

theorem trans (h : SameBase s t) (h' : SameBase t u) : SameBase s u :=
  ⟨h'.pending.trans h.pending, h'.blob.trans h.blob, h'.gens.trans h.gens, h'.dom.trans h.dom⟩

theorem fset (h : SameBase s t) (f : Fld) (v : Nat) : SameBase s (t.fset f v) := ⟨h.pending, h.blob, h.gens, h.dom⟩

theorem odPut (h : SameBase s t) (k v : Nat) : SameBase s (t.odPut k v) := ⟨h.pending, h.blob, h.gens, h.dom⟩

theorem fwMod (h : SameBase s t) (f : Fw → Fw) : SameBase s (t.fwMod f) := ⟨h.pending, h.blob, h.gens, h.dom⟩

theorem govMod (h : SameBase s t) (f : Gov → Gov) : SameBase s (t.govMod f) := ⟨h.pending, h.blob, h.gens, h.dom⟩

theorem thMod (h : SameBase s t) (f : Therm → Therm) : SameBase s (t.thMod f) := ⟨h.pending, h.blob, h.gens, h.dom⟩

theorem bootMod (h : SameBase s t) (f : Boot → Boot) : SameBase s (t.bootMod f) := ⟨h.pending, h.blob, h.gens, h.dom⟩

theorem event (h : SameBase s t) (source code : Nat) (l : List Byte) : SameBase s (t.event source code l) :=
  h.trans ⟨State.event_pending .., State.event_blob .., State.event_gens .., State.event_dom ..⟩

theorem report (h : SameBase s t) (source : Nat) (k : Kind) (detail addr : Nat) : SameBase s (t.report source k detail addr) :=
  h.trans ⟨State.report_pending .., State.report_blob .., State.report_gens .., State.report_dom ..⟩

theorem ite {c : Prop} [Decidable c] (h : SameBase s t) (h' : SameBase s u) : SameBase s (if c then t else u) :=
  Keeps.ite (P := SameBase s) h h'

theorem liveFlags (h : SameBase s t) : SameBase s t.liveFlags :=
  ite h ((h.fset _ _).fset _ _)

theorem effRegs (h : SameBase s t) : SameBase s t.effRegs :=
  (((h.fset _ _).fset _ _).fset _ _).fset _ _

theorem govEntries (h : SameBase s t) : SameBase s t.govEntries := by
  unfold State.govEntries
  refine ite h (liveFlags (effRegs (govMod ?_ _)))
  exact ((((((((h.fset _ _).fset _ _).fset _ _).fset _ _).fset _ _).fset _ _).fset _ _).fset _ _).fset _ _

theorem govEase (h : SameBase s t) : SameBase s t.govEase :=
  ite h (effRegs (govMod h _))

theorem rthRegs (h : SameBase s t) : SameBase s t.rthRegs := ((h.fset _ _).fset _ _).fset _ _

theorem romSelect (h : SameBase s t) (bad : BitVec 2) : SameBase s (t.romSelect bad).2 := by
  unfold State.romSelect
  extract_lets fails good best fell pick
  have hfell : ∀ u k cause, SameBase s u → SameBase s (fell u k cause) := fun u k cause h => h.event _ _ _
  have hpick : ∀ u cause, SameBase s u → SameBase s (pick u cause).2 := by
    intro u cause h
    have hv : SameBase s (if cause = 0 ∧ fails u (u.inForce 0) = true ∧ (u.fwSlot (u.inForce 0)).state = 5 then
        u.slotSt (u.inForce 0) 6 else u) := ite (h.fwMod _) h
    dsimp only [pick]
    split
    next k hk => exact ite (hfell _ _ _ (hv.fwMod _)) (hv.fwMod _)
    next hk => exact h
  split
  · exact hpick _ _ h
  · refine Keeps.iteC (P := SameBase s) (hpick _ _ (h.fwMod _)) (Keeps.iteC (P := SameBase s) (hpick _ _ (h.fwMod _)) ?_)
    exact ⟨h.pending, h.blob, h.gens, h.dom⟩

end SameBase

/-- What a power-on keeps of the queue and of flash, and the domains it leaves. -/
structure PowerOn (s t : State) : Prop where
  pending : t.pending = s.pending
  blob : t.blob = s.blob.filter fun e => odKept e.1
  gens : t.gens = s.gens
  powered : t.dom.powered = true
  line : t.dom.lineRst = true
  works : t.dom.worksRst = true

section
variable {s t : State}

theorem powerOn_of_sameBase (h : SameBase s.fromFlash t) : PowerOn s t := by
  obtain ⟨hpending, hblob, hgens, hdom⟩ := h
  refine ⟨hpending, hblob, hgens, ?_, ?_, ?_⟩ <;> rw [hdom] <;> rfl

/-- A run that stops while LINE is in reset writes no register. -/
theorem stopRun_sameBase {u : State} (h : SameBase s u) (hl : u.dom.lineRst = true) (stage cause : Nat) :
    SameBase s (u.stopRun stage cause) := by
  have hrun : u.stopRun stage cause = u.bootMod fun b => { b with stage := stage, outcome := 2, cause := cause } := if_pos hl
  rw [hrun]
  exact h.bootMod _

theorem exec_powerOnReset_powerOn (pos : Fin 4) (bad : BitVec 2) : ∃ t, exec (.powerOnReset pos bad) s = .next t ∧ PowerOn s t := by
  refine ⟨_, rfl, ?_⟩
  have hlost : SameBase s.fromFlash ((List.range 8).foldl (fun z n =>
      match (s.weng n).owed with
      | some e => z.report (0x0210 + n) .applyLost e 0
      | none => z) s.fromFlash) := by
    refine Keeps.foldl (P := SameBase s.fromFlash) (.refl _) fun t n h => ?_
    cases (s.weng n).owed with
    | none => exact h
    | some e => exact h.report _ _ _ _
  unfold State.syncArith State.govLoad
  extract_lets z0 z1 z2 z3 z4 z5 z6 z7 z8
  have h4 : SameBase s.fromFlash z4 := (((((hlost.odPut _ _).odPut _ _).fset _ _).fset _ _).fset _ _).fset _ _
  have h6 : SameBase s.fromFlash z6 := ((h4.odPut _ _).fwMod _).govMod _
  have h8 : SameBase s.fromFlash z8 := ((((((h6.govMod _).govEntries).govEase).liveFlags).thMod _).rthRegs)
  have hz := h8.romSelect bad
  generalize z8.romSelect bad = r at hz ⊢
  obtain ⟨ok, z⟩ := r
  have hrun := powerOn_of_sameBase (SameBase.bootMod hz fun b => { b with gen := z.od D.RESET_GEN })
  have hline : z.dom.lineRst = true := congrArg Dom.lineRst hz.dom
  obtain ⟨hpending, hblob, hgens, hpowered, hlr, hworks⟩ := powerOn_of_sameBase (stopRun_sameBase hz hline 0 0x1001)
  cases ok with
  | true => exact hrun
  | false => exact ⟨hpending, hblob, hgens, (powerOn_of_sameBase hz).powered, hline, (powerOn_of_sameBase hz).works⟩

end

/-- Settles O55: each command is carried out as its one branch; what the entries into reset wipe is read off their updates. -/
theorem resetCommands : Obligations.ResetCommands := by
  unfold Obligations.ResetCommands
  intro s done
  have hdone : done = State.reqDone := rfl
  clear_value done
  subst hdone
  refine ⟨exec_worksReset_of_request, fun hk hl => ?_, exec_powerCycle_of_request, fun t => ?_, ?_, ?_, ?_, ?_, ?_, exec_powerLoss_of_power, ?_⟩
  · intro t passed u v notes
    refine ⟨?_, ?_, ?_⟩
    · exact exec_packageReset_of_request hk hl
    · exact rfl
    · exact fun i e h => keepNotices_getElem notes h
  · obtain ⟨h0, h1, h2, h3, h4⟩ := worksWipe_wiped (s := t)
    exact ⟨h0, h1, h2, h3, h4, rfl, rfl, rfl, rfl, fun p hp => State.lineWipe_port hp⟩
  · exact fun chUp bad => exec_worksResetExit_of_due
  · intro bad ok r hl hp hc h2 h0 hr
    rw [← lineImage_eq] at hr
    exact exec_lineResetExit_of_due hl hp hc h2 h0 hr
  · intro line he hd ht t l
    have hexec := exec_resetExitTimeout_of_due he hd ht
    exact ⟨fun h => hexec.trans (congrArg Host.Outcome.next (if_pos h)),
      fun h => hexec.trans (congrArg Host.Outcome.next (if_neg (ne_true_of_eq_false h)))⟩
  · intro bad hq hs enters
    have henters : ∀ r : State, r.signalEnter bad s.dom.sigReq = enters r := fun r => signalEnter_eq bad s.dom.sigReq
    refine ⟨fun h => ?_, fun k h => ?_⟩
    · rw [exec_signalReset_of_request hq hs (sigCutOver_of_none h), if_neg (fun h => h.1 rfl), henters]
    · intro code back
      refine ⟨fun hc => ?_, fun hc h3 => ?_, fun hc h3 => ?_⟩
      · rw [exec_signalReset_of_request hq hs ((sigCutOver_of_pending h).trans (if_pos hc)), if_neg (fun h => h.1 rfl), henters]
      · rw [exec_signalReset_of_request hq hs ((sigCutOver_of_pending h).trans (if_neg hc)), if_neg (fun h => h3 h.2), henters]
      · rw [exec_signalReset_of_request hq hs ((sigCutOver_of_pending h).trans (if_neg hc)), if_pos ⟨hc, h3⟩]
  · exact exec_signalResetExit_of_line
  · intro pos bad
    obtain ⟨t, hexec, hpending, hblob, hgens, hpowered, hline, hworks⟩ := exec_powerOnReset_powerOn pos bad
    exact ⟨t, hexec, hpending, hblob, hgens, hpowered, hline, hworks⟩

end Sys2Proof.Machine
end

section
/-! PROOFS. Bring-up, stage by stage, and the images that a boot takes (R456 to R475, R507, R512). -/

namespace Sys2Proof.Machine

/-! ## The image that a boot takes (R507, R512) -/

section
variable {s : State}

theorem imageBad_iff {k : Nat} {bad : Bool} : s.imageBad k bad = true ↔ bad = true ∨ ((s.fwSlot k).header ≠ [] ∧
    (s.fwHeadCode (s.fwSlot k).header ≠ (0, k / 2) ∨ (k / 2 = 1 ∧ (s.fwSlot k).recV < (s.fwSlot k).recMin) ∨
      sha512 (s.fwSlot k).body ≠ bytesAt (s.fwSlot k).header 0x30 64)) := by
  unfold State.imageBad
  simp only [Bool.or_eq_true, Bool.and_eq_true, Bool.not_eq_true', List.isEmpty_eq_false_iff, bne_iff_ne, beq_iff_eq,
    decide_eq_true_eq, or_assoc]

theorem bootFails_iff {k : Nat} {bad : Bool} : s.bootFails k bad = true ↔ (s.fwSlot k).state = 6 ∨ s.imageBad k bad = true := by
  unfold State.bootFails
  rw [Bool.or_eq_true, beq_iff_eq]

theorem bootSlot_of_sound {t : Nat} {bad : BitVec 2} (h : ¬ s.bootFails (s.inForce t) (bad.getLsbD (s.inForce t % 2)) = true) :
    s.bootSlot t bad = (true, s.imageStart t) := by
  unfold State.bootSlot
  dsimp only
  rw [if_pos (by rw [eq_false_of_ne_true h]; rfl)]

theorem bootSlot_of_spare {t : Nat} {bad : BitVec 2} (h : s.bootFails (s.inForce t) (bad.getLsbD (s.inForce t % 2)) = true)
    (h5 : (s.fwSlot (s.idle t)).state = 5) (hb : ¬ s.imageBad (s.idle t) (bad.getLsbD (s.idle t % 2)) = true) :
    s.bootSlot t bad =
      (true, (((s.slotSt (s.inForce t) 6).fwMod fun x => { x with run := vput x.run t (s.idle t % 2) }).imageStart t).event sbSource 0x1383
        (leBytes 1 (fwCode t) ++ [3] ++ leBytes 1 (s.idle t % 2) ++ [0] ++ leBytes 4 (s.fwSlot (s.idle t)).version)) := by
  unfold State.bootSlot
  dsimp only
  rw [if_neg (by rw [h]; decide), if_pos ⟨h5, by rw [eq_false_of_ne_true hb]; rfl⟩]

theorem bootSlot_of_gone {t : Nat} {bad : BitVec 2} (h : s.bootFails (s.inForce t) (bad.getLsbD (s.inForce t % 2)) = true)
    (hn : ¬ ((s.fwSlot (s.idle t)).state = 5 ∧ ¬ s.imageBad (s.idle t) (bad.getLsbD (s.idle t % 2)) = true)) :
    s.bootSlot t bad = (false, s.slotSt (s.inForce t) 6) := by
  unfold State.bootSlot
  dsimp only
  rw [if_neg (by rw [h]; decide), if_neg]
  rintro ⟨h5, hb⟩
  exact hn ⟨h5, fun h => by rw [h] at hb; exact Bool.noConfusion hb⟩

end

/-! ## When a stage ends its work -/

section
variable {s : State} {us : BitVec 32}

/-- Does stage `k` run, or wait held at S6? -/
def State.stageDue (s : State) (k : Nat) : Bool :=
  s.dom.powered && !s.dom.cutoff && !s.dom.signalRst && s.boot.stage == k && (s.boot.outcome == 0 || (k == 6 && s.boot.outcome == 3))

/-- The package has power and its signal box runs. -/
def State.bootRuns (s : State) : Prop := s.dom.powered = true ∧ s.dom.cutoff = false ∧ s.dom.signalRst = false

theorem stageDue_iff {k : Nat} (hk : k ≠ 6) : s.stageDue k = true ↔ s.bootRuns ∧ s.boot.stage = k ∧ s.boot.outcome = 0 := by
  unfold State.stageDue State.bootRuns
  simp only [Bool.and_eq_true, Bool.or_eq_true, Bool.not_eq_true', beq_iff_eq, hk, false_and, or_false, and_assoc]

theorem stageDue_six_iff : s.stageDue 6 = true ↔
    (s.bootRuns ∧ s.boot.stage = 6 ∧ s.boot.outcome = 0) ∨ (s.bootRuns ∧ s.boot.stage = 6 ∧ s.boot.outcome = 3) := by
  unfold State.stageDue State.bootRuns
  simp only [Bool.and_eq_true, Bool.or_eq_true, Bool.not_eq_true', beq_iff_eq, true_and, and_assoc]
  constructor
  · rintro ⟨hp, hc, hs, hk, h | h⟩
    · exact .inl ⟨hp, hc, hs, hk, h⟩
    · exact .inr ⟨hp, hc, hs, hk, h⟩
  · rintro (⟨hp, hc, hs, hk, h⟩ | ⟨hp, hc, hs, hk, h⟩)
    · exact ⟨hp, hc, hs, hk, .inl h⟩
    · exact ⟨hp, hc, hs, hk, .inr h⟩

/-- The number of a stage and what it does when its work ends. -/
def State.stageWork (s : State) (us : Nat) : StageIn → Nat × State
  | .s0 ok f bad => (0, s.stage0 us ok f bad)
  | .s1 => (1, s.stage1 us)
  | .s2 up => (2, s.stage2 us up)
  | .s3 ok fail => (3, s.stage3 us ok fail)
  | .s4 fail ok => (4, s.stage4 us fail ok)
  | .s5 => (5, s.stage5 us)
  | .s6 => (6, s.stage6 us)
  | .s7 ms => (7, s.stage7 us ms.toNat)

theorem exec_stageDone_eq (i : StageIn) : exec (.stageDone us i) s =
    .next (if s.stageDue (s.stageWork us.toNat i).1 = true then (s.stageWork us.toNat i).2 else s) := by
  cases i <;> rfl

theorem exec_stageDone_of_due {i : StageIn} (h : s.stageDue (s.stageWork us.toNat i).1 = true) :
    exec (.stageDone us i) s = .next (s.stageWork us.toNat i).2 :=
  (exec_stageDone_eq i).trans (congrArg Host.Outcome.next (if_pos h))

theorem exec_stageDone_of_not_due {i : StageIn} (h : ¬ s.stageDue (s.stageWork us.toNat i).1 = true) :
    exec (.stageDone us i) s = .next s :=
  (exec_stageDone_eq i).trans (congrArg Host.Outcome.next (if_neg h))

end

/-! ## Passing and stopping (R457, R459, R523) -/

section
variable {s : State} {stage outcome cause us : Nat} {n d : List Byte}

/-- The state of a stop once its report is out. -/
def State.stopReported (s : State) (stage outcome cause us : Nat) (n d : List Byte) : State :=
  let s' := if cause ∈ [0x1002, 0x1005, 0x1006, 0x1009] ∧ s.trial 2 = false then s.bootMod fun b => { b with fatal := cause } else s
  ((s'.bootMod fun b => { b with outcome := outcome, cause := cause }).stageReport stage outcome cause us n d).bootRegs

theorem stageStop_eq : s.stageStop stage outcome cause us n d = (s.stopReported stage outcome cause us n d).lineStopped := by
  unfold State.stageStop State.stopReported State.keepFatal fatalStop
  simp only [List.contains_iff_mem]

theorem lineStopped_of_trial (h2 : s.boot.outcome = 2) (ht : s.trial 2 = true) :
    s.lineStopped = (s.fallBack 2 2).askReset 2 2 4 0xFFFF 0xFFFFFFFF := by
  unfold State.lineStopped
  rw [if_pos ⟨h2, ht⟩]

theorem lineStopped_of_other (h : s.boot.outcome ≠ 2 ∨ s.trial 2 = false) : s.lineStopped = s := by
  unfold State.lineStopped
  refine if_neg ?_
  rintro ⟨h2, ht⟩
  rcases h with h | h
  · exact h h2
  · exact Bool.noConfusion (h.symm.trans ht)

end

/-! ## The stages -/

section
variable {s : State} {us : Nat}

theorem stage0_of_runs {ok : Bool} {f : Fuses} {bad : BitVec 2} (hs : s.dom.signalRst = false) :
    let t := s.sbMod fun b => { b with up := true }
    (ok = false ∨ s.boot.fatal = 0x1002 → s.stage0 us ok f bad = t.stageStop 0 2 0x1002 us [] []) ∧
    (ok = true → s.boot.fatal ≠ 0x1002 → ∀ good u, ((t.loadFuses f).addressUp.imageMeasured 0).bootSlot 2 bad = (good, u) →
      s.stage0 us ok f bad = if good = true then u.stagePass 0 us [] u.s0Detail 1 else u.stageStop 0 2 0x1001 us [] u.s0Detail) := by
  intro t
  unfold State.stage0
  rw [if_neg (ne_true_of_eq_false hs)]
  refine ⟨fun h => ?_, fun hok hf good u h => ?_⟩
  · exact if_pos (h.imp_left fun h => by rw [h]; rfl)
  · refine (if_neg ?_).trans ?_
    · rw [hok]
      exact not_or.mpr ⟨by decide, hf⟩
    · exact congrArg (fun r : Bool × State => if r.1 = true then r.2.stagePass 0 us [] r.2.s0Detail 1
        else r.2.stageStop 0 2 0x1001 us [] r.2.s0Detail) h

theorem stage1_of_licence {l : List Byte} {t : State}
    (h : (s.boot.licNext = some l ∧ t = (s.blobPut D.LICENCE l).bootMod fun b => { b with licNext := none }) ∨
      (s.boot.licNext = none ∧ l = s.blobOf D.LICENCE ∧ t = s)) :
    s.stage1 us = if t.licCode l none ≠ 0 then
        (((t.odPut D.LIC_STATE 0).odPut D.LIC_SEQ 0).odPut D.LIC_PRODUCT 0).stageStop 1 2 0x1003 us (leBytes 4 (t.licCode l none)) []
      else (((t.odPut D.LIC_STATE 1).odPut D.LIC_SEQ (numAt l 4 4)).odPut D.LIC_PRODUCT (numAt l 0x50 2)).stagePass 1 us []
        (bytesAt l 4 4 ++ bytesAt l 0x50 8) 2 := by
  unfold State.stage1
  rcases h with ⟨hl, ht⟩ | ⟨hl, hb, ht⟩
  · rw [hl, ht]
    rfl
  · rw [hl, hb, ht]
    rfl

/-- Has a die none of its links left? -/
theorem dieCut_iff : ((List.range 4).any (fun d =>
      ((List.range 6).filter fun i => (pairDies i).contains d).all fun i => s.modules i == 0)) = true ↔
    ∃ die, die < 4 ∧ ∀ i, i < 6 → (pairDies i).contains die = true → s.modules i = 0 := by
  simp only [List.any_eq_true, List.all_eq_true, List.mem_filter, List.mem_range, beq_iff_eq, and_imp]

/-- The links trained, once in a run. -/
def State.linksTrained (s : State) (up : Vector (BitVec 4) 6) : State :=
  if s.boot.trained then s else (s.d2dTrain up).bootMod fun b => { b with trained := true }

theorem stage2_of_line {up : Vector (BitVec 4) 6} (hl : s.dom.lineRst = false) :
    let t := s.linksTrained up
    let bit := fun (b : Bool) (n : Nat) => if b then n else 0
    let packed := (List.range 6).foldl (fun v i => v + t.modules i * 16 ^ i) 0
    let d := leBytes 3 packed ++ leBytes 1 (bit t.clock.present 1 + bit (t.laneState 0 == 4) 2 + bit (t.laneState 1 == 4) 4)
    let n := leBytes 4 ((((List.range 6).map t.modules).map popcount16).foldl (· + ·) 0)
    let cut := ∃ die, die < 4 ∧ ∀ i, i < 6 → (pairDies i).contains die = true → t.modules i = 0
    (t.clock.present = false → s.stage2 us up = t.stageStop 2 2 0x1004 us n d) ∧
    (t.clock.present = true → cut ∨ t.boot.fatal = 0x1005 → s.stage2 us up = t.stageStop 2 2 0x1005 us n d) ∧
    (t.clock.present = true → ¬ cut → t.boot.fatal ≠ 0x1005 → s.stage2 us up = t.stagePass 2 us n d 3) := by
  intro t bit packed d n cut
  have hcut : _ ↔ cut := dieCut_iff (s := t)
  have hs : s.stage2 us up = if (!t.clock.present) = true then t.stageStop 2 2 0x1004 us n d
      else if t.boot.fatal = 0x1005 ∨ (List.range 4).any (fun d =>
        ((List.range 6).filter fun i => (pairDies i).contains d).all fun i => t.modules i == 0) = true then
        t.stageStop 2 2 0x1005 us n d
      else t.stagePass 2 us n d 3 := by
    unfold State.stage2
    rw [if_neg (ne_true_of_eq_false hl)]
    rfl
  rw [hs]
  refine ⟨fun hp => if_pos (by rw [hp]; rfl), fun hp h => ?_, fun hp hc hf => ?_⟩
  · exact (if_neg (by rw [hp]; decide)).trans (if_pos (h.symm.imp_right hcut.mpr))
  · exact (if_neg (by rw [hp]; decide)).trans (if_neg (not_or.mpr ⟨hf, hc ∘ hcut.mp⟩))

/-- The memory as S3 leaves it: marks loaded, and in a full run the dies tested and units moved to spares (R461). -/
def State.memoryTested (s : State) (fail : Vector (BitVec 16) 8) : State :=
  let full := s.boot.kind == 0
  let fails := fun (n : Nat) => if full then (vget 0 fail n).toNat else 0
  let a := (List.range 8).foldl (fun u n => (((u.logRead n).mapRead n).loadMarks n full).dieTest n (fails n)) s
  let found := (List.range 8).any fun n => s.diesFound n (fails n) != 0
  let c := (List.range 8).foldl (fun u n => u.repairUnits n) a.testPattern
  if full then c.setFlag R.BOOT_STATUS_DRIFT (a.testPattern.flag R.BOOT_STATUS_DRIFT || found) else a

theorem stage3_of_works {ok : Bool} {fail : Vector (BitVec 16) 8} (hw : s.dom.worksRst = false) :
    let full := s.boot.kind == 0
    let fails := fun (n : Nat) => if full then (vget 0 fail n).toNat else 0
    let t := s.memoryTested fail
    let marks := (List.range 8).map fun n => t.fget (R.DIE_MARK_MARKED.at (mdOff n))
    let ups := (List.range 8).map fun n => t.fget (R.MD_STATUS_CH_UP.at (mdOff n))
    let d := marks.flatMap (leBytes 2) ++ ups.flatMap (leBytes 1)
    let n := leBytes 4 ((marks.map popcount16).foldl (· + ·) 0)
    s.stage3 us ok fail =
      if t.boot.fatal = 0x1006 ∨ ups.any (· == 0) = true ∨ (!ok) = true ∨ (!checkerVectorsOk) = true ∨
        (full && (List.range 8).any fun n => decide (3 ≤ s.marksCalled n (fails n))) = true then t.stageStop 3 2 0x1006 us n d
      else t.stagePass 3 us n d 4 := by
  intro full fails t marks ups d n
  unfold State.stage3
  rw [if_neg (ne_true_of_eq_false hw)]
  extract_lets over3 found a b c
  have hc : c = t := by
    have ht : t = if full = true then ((List.range 8).foldl (fun u n => u.repairUnits n) a.testPattern).setFlag R.BOOT_STATUS_DRIFT
        (a.testPattern.flag R.BOOT_STATUS_DRIFT || (List.range 8).any fun n => s.diesFound n (fails n) != 0) else a := rfl
    rw [ht]
    dsimp only [c, b, found]
    clear_value a fails full
    cases full with
    | true => simp only [↓reduceIte, Bool.true_and]
    | false => simp only [Bool.false_eq_true, ↓reduceIte]
  clear_value c
  subst hc
  rfl

theorem stage3_stops_iff {full ok : Bool} {ups : List Nat} {fails : Nat → Nat} {t : State} :
    (t.boot.fatal = 0x1006 ∨ ups.any (· == 0) = true ∨ (!ok) = true ∨ (!checkerVectorsOk) = true ∨
      (full && (List.range 8).any fun n => decide (3 ≤ s.marksCalled n (fails n))) = true) ↔
    (t.boot.fatal = 0x1006 ∨ 0 ∈ ups ∨ ok = false ∨ checkerVectorsOk = false ∨
      (full = true ∧ ∃ n, n < 8 ∧ 3 ≤ s.marksCalled n (fails n))) := by
  simp only [List.any_eq_true, List.mem_range, beq_iff_eq, exists_eq_right, Bool.not_eq_true', Bool.and_eq_true, decide_eq_true_eq]

/-- The tiles as the test of S4 leaves them (R462, R463). -/
def State.computeTested (s : State) (fail : BitVec 192) (ok : Bool) : State :=
  let bad := if checkerVectorsOk then fail else BitVec.allOnes 192
  if s.boot.tested then s else if s.boot.kind == 0 then s.tilesTested bad ok
  else (s.quickFail bad).bootMod fun b => { b with tested := true, unitsOk := ok }

theorem stage4_of_works {fail : BitVec 192} {ok : Bool} (hw : s.dom.worksRst = false) (h0 : s.rcState 0 ≠ 1) (h1 : s.rcState 1 ≠ 1) :
    let full := s.boot.kind == 0
    let t := s.computeTested fail ok
    let short := full = true ∧ ∃ die, die < 4 ∧ (t.geomOf die).length ≠ t.licTiles / 4
    let tiles := fun (u : State) => (List.range 3).flatMap fun i => leBytes 8 (u.csrGet (R.BOOT_TILES + 8 * i)).toNat
    (short → t.od D.ACCEPT_REDUCED ≠ 1 → s.stage4 us fail ok = t.stageStop 4 2 0x1007 us
      (leBytes 2 (((List.range 4).map fun die => (t.geomOf die).length).foldl (· + ·) 0) ++ leBytes 2 t.boot.drift) (tiles t)) ∧
    (¬ short ∨ t.od D.ACCEPT_REDUCED = 1 →
      let u := if full then t.geomFix else t
      let n := leBytes 2 (u.fget R.BOOT_GEOM_IN_SERVICE) ++ leBytes 2 (u.tileMap R.BOOT_DRIFT).length
      s.stage4 us fail ok = if u.rcState 0 = 6 ∧ u.rcState 1 = 6 then u.stageStop 4 2 0x1008 us n (tiles u)
        else if (!u.boot.unitsOk) = true ∨ u.boot.fatal = 0x1009 then u.stageStop 4 2 0x1009 us n (tiles u)
        else u.stagePass 4 us n (tiles u) 5) := by
  intro full t short tiles
  have hshort : ((full && (List.range 4).any fun d => (t.geomOf d).length != t.licTiles / 4) = true) ↔ short := by
    simp only [Bool.and_eq_true, List.any_eq_true, List.mem_range, bne_iff_ne, short]
  have hs : s.stage4 us fail ok =
      if (full && (List.range 4).any fun d => (t.geomOf d).length != t.licTiles / 4) = true ∧ t.od D.ACCEPT_REDUCED ≠ 1 then
        t.stageStop 4 2 0x1007 us
          (leBytes 2 (((List.range 4).map fun die => (t.geomOf die).length).foldl (· + ·) 0) ++ leBytes 2 t.boot.drift) (tiles t)
      else
        let u := if full then t.geomFix else t
        let n := leBytes 2 (u.fget R.BOOT_GEOM_IN_SERVICE) ++ leBytes 2 (u.tileMap R.BOOT_DRIFT).length
        if u.rcState 0 = 6 ∧ u.rcState 1 = 6 then u.stageStop 4 2 0x1008 us n (tiles u)
        else if (!u.boot.unitsOk) = true ∨ u.boot.fatal = 0x1009 then u.stageStop 4 2 0x1009 us n (tiles u)
        else u.stagePass 4 us n (tiles u) 5 := by
    unfold State.stage4
    rw [if_neg (not_or.mpr ⟨ne_true_of_eq_false hw, not_or.mpr ⟨h0, h1⟩⟩)]
    rfl
  rw [hs]
  refine ⟨fun h ha => if_pos ⟨hshort.mpr h, ha⟩, fun h => if_neg ?_⟩
  rintro ⟨hb, ha⟩
  rcases h with h | h
  · exact h (hshort.mp hb)
  · exact ha h

theorem stage5_of_active (hw : s.dom.worksRst = false) (h4 : s.rcState s.rcActive = 4) :
    let t := s.stagePass 5 us [] (leBytes 1 s.rcActive ++ leBytes 1 (s.rcState 0) ++ leBytes 1 (s.rcState 1))
      (if s.boot.kind = 2 ∧ s.boot.s6 = true then 7 else 6)
    let u := (t.wrap R.RESET_STATUS_RESET_GEN).odPut D.RESET_GEN ((t.wrap R.RESET_STATUS_RESET_GEN).fget R.RESET_STATUS_RESET_GEN)
    s.stage5 us = if t.boot.notice = 0 then t else (u.resetNotice u.boot.notice 2).bootMod fun b => { b with notice := 0 } := by
  intro t u
  unfold State.stage5
  rw [if_neg (not_or.mpr ⟨ne_true_of_eq_false hw, not_not.mpr h4⟩)]

theorem stage6_of_settled (h : s.traySet = false ∨ s.portsSettled = true) :
    let t := s.bootMod fun b => { b with topoOn := b.topoOn || s.traySet }
    let n := leBytes 4 t.portsMissing
    let d := leBytes 4 t.fabricState ++ leBytes 2 t.ownId ++ [0, 0] ++ leBytes 8 t.topoDigest
    s.stage6 us = if t.s6Cause = 0 then t.stagePass 6 us n d 7
      else if t.boot.outcome = 3 ∧ t.boot.cause = t.s6Cause then t else t.stageStop 6 3 t.s6Cause us n d := by
  intro t n d
  unfold State.stage6
  rw [if_neg]
  rintro ⟨ht, hp⟩
  rcases h with h | h
  · exact Bool.noConfusion (h.symm.trans ht)
  · rw [h] at hp
    exact Bool.noConfusion hp

theorem stage6_held {c : Nat} {t : State} {n d : List Byte} (hc : c ≠ 0)
    (hs : s.stage6 us = if t.s6Cause = 0 then t.stagePass 6 us n d 7
      else if t.boot.outcome = 3 ∧ t.boot.cause = t.s6Cause then t else t.stageStop 6 3 t.s6Cause us n d) (hcause : t.s6Cause = c) :
    (t.boot.outcome = 3 → t.boot.cause = c → s.stage6 us = t) ∧
    (t.boot.outcome = 0 ∨ t.boot.cause ≠ c → s.stage6 us = t.stageStop 6 3 c us n d) := by
  rw [hcause, if_neg hc] at hs
  refine ⟨fun h3 h => hs.trans (if_pos ⟨h3, h⟩), fun h => hs.trans (if_neg ?_)⟩
  rintro ⟨h3, hcc⟩
  rcases h with h | h
  · omega
  · exact h hcc

theorem s6Cause_cases :
    let want := s.od D.GEOMETRY_EXPECT
    let wrong := want ≠ 0 ∧ want ≠ s.fget R.BOOT_GEOM_IN_SERVICE
    let missing := 2 < s.portsMissing ∧ s.boot.accepted ≠ some s.topoDigest
    (s.traySet = false → s.s6Cause = 0x100A) ∧ (s.traySet = true → wrong → s.s6Cause = 0x100C) ∧
    (s.traySet = true → ¬ wrong → missing → s.s6Cause = 0x100B) ∧ (s.traySet = true → ¬ wrong → ¬ missing → s.s6Cause = 0) := by
  intro want wrong missing
  have hset (h : s.traySet = true) : s.s6Cause = if wrong then 0x100C else if missing then 0x100B else 0 := if_neg (by rw [h]; decide)
  refine ⟨fun h => if_pos (by rw [h]; rfl), fun h hw => ?_, fun h hw hm => ?_, fun h hw hm => ?_⟩
  · rw [hset h, if_pos hw]
  · rw [hset h, if_neg hw, if_pos hm]
  · rw [hset h, if_neg hw, if_neg hm]

end

end Sys2Proof.Machine
end

section
/-! PROOFS. Clock retry, the end of the background test, firmware trials (R475, R521 to R523), and the obligation on bring-up. -/

namespace Sys2Proof.Machine

section
variable {s : State}

theorem exec_clockRetry_eq : exec .clockRetry s = .next (if s.clock.present = true then s.stageResume 2 0x1004 else s) := rfl

theorem clockRetry_cases :
    (s.clock.present = true → s.boot.stage = 2 → 2 ≤ s.boot.outcome → s.boot.cause = 0x1004 →
      exec .clockRetry s = .next (s.bootMod fun b => { b with outcome := 0, cause := 0 }).bootRegs) ∧
    (s.clock.present = false ∨ s.boot.stage ≠ 2 ∨ s.boot.outcome < 2 ∨ s.boot.cause ≠ 0x1004 → exec .clockRetry s = .next s) := by
  rw [exec_clockRetry_eq]
  refine ⟨fun hp h2 ho hc => congrArg Host.Outcome.next ((if_pos hp).trans (if_pos ⟨h2, ho, hc⟩)), fun h => congrArg Host.Outcome.next ?_⟩
  by_cases hp : s.clock.present = true
  · refine (if_pos hp).trans (if_neg ?_)
    rintro ⟨h2, ho, hc⟩
    rcases h with h | h | h | h
    · exact Bool.noConfusion (h.symm.trans hp)
    · exact h h2
    · omega
    · exact h hc
  · exact if_neg hp

/-- A device whose part of the background test is still to end. -/
theorem bgBusy_any_iff : (List.range 8).any s.bgBusy = true ↔ ∃ n, n < 8 ∧ s.bgBusy n = true := by
  simp only [List.any_eq_true, List.mem_range]

theorem bgtestDone_cases (spares : Vector (BitVec 8) 8) :
    (s.flag R.BOOT_STATUS_BG_RUN = false ∨ (∃ n, n < 8 ∧ s.bgBusy n = true) → exec (.bgtestDone spares) s = .next s) ∧
    (s.flag R.BOOT_STATUS_BG_RUN = true → (∀ n, n < 8 → s.bgBusy n = false) →
      (s.boot.bgStop = true → exec (.bgtestDone spares) s = .next (s.bgEnd 3 [])) ∧
      (s.boot.bgStop = false → exec (.bgtestDone spares) s = .next (((List.range 8).foldl (fun u n =>
        u.setMdev n { u.mdev n with spareBad := (u.mdev n).spareBad + (vget 0 spares n).toNat }) s).bgEnd 2
          ((List.range 8).map fun n => (vget 0 spares n).toNat)))) := by
  have hexec : exec (.bgtestDone spares) s = .next (
      if (!s.flag R.BOOT_STATUS_BG_RUN) = true ∨ (List.range 8).any s.bgBusy = true then s
      else if s.boot.bgStop = true then s.bgEnd 3 []
      else ((List.range 8).foldl (fun u n =>
        u.setMdev n { u.mdev n with spareBad := (u.mdev n).spareBad + (vget 0 spares n).toNat }) s).bgEnd 2
          ((List.range 8).map fun n => (vget 0 spares n).toNat)) := rfl
  rw [hexec]
  refine ⟨fun h => congrArg Host.Outcome.next (if_pos (h.imp (fun h => by rw [h]; rfl) bgBusy_any_iff.mpr)), fun hr hb => ?_⟩
  have hoff : ¬ ((!s.flag R.BOOT_STATUS_BG_RUN) = true ∨ (List.range 8).any s.bgBusy = true) := by
    rw [hr]
    rintro (h | h)
    · exact Bool.noConfusion h
    · obtain ⟨n, hn, h⟩ := bgBusy_any_iff.mp h
      exact Bool.noConfusion ((hb n hn).symm.trans h)
  exact ⟨fun h => congrArg Host.Outcome.next ((if_neg hoff).trans (if_pos h)),
    fun h => congrArg Host.Outcome.next ((if_neg hoff).trans (if_neg (ne_true_of_eq_false h)))⟩

/-! ## Trials -/

theorem mayConfirm_eq (t : Nat) : s.mayConfirm t =
    (s.trial t && nbit s.fw.spoilt t == 0 && decide (s.clock.run - vget 0 s.fw.cut t < 1000000000 * s.od D.FW_TRIAL_S) &&
      (if t = 0 then s.sb.up && s.fw.flashed
        else if t = 1 then decide (10000000000 ≤ s.clock.run - vget 0 s.fw.cut 1) && s.standbyOk
        else s.boot.full || decide (s.fw.lineStage < 7 ∧ s.fw.lineStage ≤ s.boot.stage))) := rfl

theorem mayConfirm_iff :
    let age := fun (t : Nat) => s.clock.run - vget 0 s.fw.cut t
    let sound := fun (t : Nat) => s.trial t = true ∧ nbit s.fw.spoilt t = 0 ∧ age t < 1000000000 * s.od D.FW_TRIAL_S
    (s.mayConfirm 0 = true ↔ sound 0 ∧ s.sb.up = true ∧ s.fw.flashed = true) ∧
    (s.mayConfirm 1 = true ↔ sound 1 ∧ 10000000000 ≤ age 1 ∧ s.standbyOk = true) ∧
    (s.mayConfirm 2 = true ↔ sound 2 ∧ (s.boot.full = true ∨ (s.fw.lineStage < 7 ∧ s.fw.lineStage ≤ s.boot.stage))) := by
  intro age sound
  have hsound (t : Nat) (b : Bool) : (s.trial t && nbit s.fw.spoilt t == 0 &&
      decide (s.clock.run - vget 0 s.fw.cut t < 1000000000 * s.od D.FW_TRIAL_S) && b) = true ↔ sound t ∧ b = true := by
    simp only [Bool.and_eq_true, beq_iff_eq, decide_eq_true_eq, sound, age, and_assoc]
  rw [mayConfirm_eq, mayConfirm_eq, mayConfirm_eq, hsound, hsound, hsound, if_pos rfl, if_neg (by decide), if_pos rfl, if_neg (by decide),
    if_neg (by decide), Bool.and_eq_true, Bool.and_eq_true, Bool.or_eq_true, decide_eq_true_eq, decide_eq_true_eq]
  exact ⟨Iff.rfl, Iff.rfl, Iff.rfl⟩

theorem trialLapse_cases (t : Fin 3) :
    let u := s.fallBack t 1
    (s.trial t = false → exec (.trialLapse t) s = .next s) ∧
    (s.trial t = true →
      (t.val = 0 → exec (.trialLapse t) s = .next (u.askSignal 3)) ∧
      (t.val = 2 → exec (.trialLapse t) s = .next (u.askReset 2 2 4 0xFFFF 0xFFFFFFFF)) ∧
      (t.val = 1 → u.standbyOk = true → exec (.trialLapse t) s = .next ((u.switchTo none).selfTest u.rcActive)) ∧
      (t.val = 1 → u.standbyOk = false → exec (.trialLapse t) s = .next (u.askReset 1 2 3 0xFFFF 0xFFFFFFFF))) := by
  intro u
  have hexec : exec (.trialLapse t) s = .next (if (!s.trial t) = true then s
      else if t.val = 0 then u.askSignal 3
      else if t.val = 2 then u.askReset 2 2 4 0xFFFF 0xFFFFFFFF
      else if u.standbyOk = true then (u.switchTo none).selfTest u.rcActive
      else u.askReset 1 2 3 0xFFFF 0xFFFFFFFF) := rfl
  rw [hexec]
  refine ⟨fun h => congrArg Host.Outcome.next (if_pos (by rw [h]; rfl)), fun h => ?_⟩
  rw [if_neg (by rw [h]; decide)]
  refine ⟨fun h0 => ?_, fun h2 => ?_, fun h1 hs => ?_, fun h1 hs => ?_⟩
  · rw [if_pos h0]
  · rw [if_neg (by omega), if_pos h2]
  · rw [if_neg (by omega), if_neg (by omega), if_pos hs]
  · rw [if_neg (by omega), if_neg (by omega), if_neg (ne_true_of_eq_false hs)]

theorem exec_trialConfirm_of_may {t : Fin 3} (hs : s.dom.signalRst = false) (hm : s.mayConfirm t = true) :
    let a := s.inForce t
    let b := s.idle t
    let x := s.fwSlot a
    let u := s.slotSt a 5
    let r := u.fwMod fun f => { f with minSvn := vput f.minSvn t (max (vget 0 f.minSvn t) x.svn) }
    let raised := if (r.fwSlot b).svn < x.svn then r.slotSt b 6 else r
    let v := if x.raise then raised else u
    let other := 1 - v.rcActive
    let w := if t.val = 1 then (((v.fwMod fun f => { f with rcImg := vput f.rcImg other (a % 2) }).recordFormat).setStandbyOk false).selfTest other else v
    exec (.trialConfirm t) s =
      .next (w.event sbSource 0x1382 (leBytes 1 (fwCode t) ++ [0] ++ leBytes 1 (a % 2) ++ [0] ++ leBytes 4 x.version
        ++ leBytes 4 (vget 0 w.fw.minSvn t))) := by
  intro a b x u r raised v other w
  show execTrialConfirm t s = _
  unfold execTrialConfirm
  rw [if_neg (not_or.mpr ⟨ne_true_of_eq_false hs, by rw [hm]; decide⟩)]

theorem exec_trialConfirm_of_not {t : Fin 3} (h : s.dom.signalRst = true ∨ s.mayConfirm t = false) : exec (.trialConfirm t) s = .next s := by
  show execTrialConfirm t s = _
  unfold execTrialConfirm
  rw [if_pos h]

theorem stageWork_number {us n : Nat} {i : StageIn}
    (h : (n, i) ∈ [(1, StageIn.s1), (5, .s5)] ∨ (∃ ok f bad, (n, i) = (0, .s0 ok f bad)) ∨ (∃ up, (n, i) = (2, .s2 up)) ∨
      (∃ ok f, (n, i) = (3, .s3 ok f)) ∨ (∃ f ok, (n, i) = (4, .s4 f ok)) ∨ (∃ ms, (n, i) = (7, .s7 ms))) :
    (s.stageWork us i).1 = n ∧ n ≠ 6 := by
  simp only [List.mem_cons, Prod.mk.injEq, List.not_mem_nil, or_false] at h
  rcases h with (⟨rfl, rfl⟩ | ⟨rfl, rfl⟩) | ⟨ok, f, bad, rfl, rfl⟩ | ⟨up, rfl, rfl⟩ | ⟨ok, f, rfl, rfl⟩ | ⟨f, ok, rfl, rfl⟩ | ⟨ms, rfl, rfl⟩
  all_goals exact ⟨rfl, by decide⟩

end

/-- Settles O56: each stage is one branch of `stageDone`, taken when the stage is in force; the other commands by their branches. -/
theorem bringupAndTrials : Obligations.BringupAndTrials := by
  unfold Obligations.BringupAndTrials
  intro us s k runs at_
  have hdue : ∀ (n : Nat) {i : StageIn} {u : State}, n ≠ 6 → s.stageWork k i = (n, u) → at_ n → exec (.stageDone us i) s = .next u := by
    intro n i u hn hi h
    have hexec := exec_stageDone_of_due (s := s) (us := us) (i := i) (by rw [hi]; exact (stageDue_iff hn).mpr h)
    rw [hi] at hexec
    exact hexec
  refine ⟨?_, ?_, ?_, ?_, ?_, ?_, ?_, ?_, ?_, ?_, ?_, ?_, clockRetry_cases, bgtestDone_cases, ?_, mayConfirm_iff, trialLapse_cases⟩
  · intro n i hi hn
    obtain ⟨hwork, h6⟩ : (s.stageWork k i).1 = n ∧ n ≠ 6 := stageWork_number hi
    refine exec_stageDone_of_not_due fun h => hn ?_
    rw [hwork] at h
    exact (stageDue_iff h6).mp h
  · intro ok f bad hat t
    have hexec := hdue 0 (i := .s0 ok f bad) (by decide) rfl hat
    obtain ⟨hstop, hgo⟩ := stage0_of_runs (us := k) (ok := ok) (f := f) (bad := bad) hat.1.2.2
    refine ⟨fun h => hexec.trans (congrArg Host.Outcome.next (hstop h)), fun hok hf good u h => ?_⟩
    intro d
    have hs := hgo hok hf good u h
    exact ⟨fun hg => hexec.trans (congrArg Host.Outcome.next (hs.trans (if_pos hg))),
      fun hg => hexec.trans (congrArg Host.Outcome.next (hs.trans (if_neg (ne_true_of_eq_false hg))))⟩
  · intro t bad a b fails gone spare
    have hgone : s.bootFails a (bad.getLsbD (a % 2)) = true ↔ gone := bootFails_iff.trans (or_congr Iff.rfl imageBad_iff)
    have hspare : ((s.fwSlot b).state = 5 ∧ ¬ s.imageBad b (bad.getLsbD (b % 2)) = true) ↔ spare :=
      and_congr Iff.rfl (not_congr imageBad_iff)
    refine ⟨fun h => bootSlot_of_sound (h ∘ hgone.mp), fun h hs => ?_, fun h hs => bootSlot_of_gone (hgone.mpr h) (hs ∘ hspare.mp)⟩
    obtain ⟨h5, hb⟩ := hspare.mpr hs
    exact bootSlot_of_spare (hgone.mpr h) h5 hb
  · intro hat l t hl c
    have hexec := (hdue 1 (i := .s1) (by decide) rfl hat).trans (congrArg Host.Outcome.next (stage1_of_licence hl))
    exact ⟨fun hc => hexec.trans (congrArg Host.Outcome.next (if_neg (not_not.mpr hc))), fun hc => hexec.trans (congrArg Host.Outcome.next (if_pos hc))⟩
  · intro up hat
    have hexec := hdue 2 (i := .s2 up) (by decide) rfl hat
    refine ⟨fun hl => hexec.trans (congrArg Host.Outcome.next (if_pos hl)), fun hl => ?_⟩
    obtain ⟨h0, h1, h2⟩ := stage2_of_line (us := k) (up := up) hl
    exact ⟨fun hp => hexec.trans (congrArg Host.Outcome.next (h0 hp)), fun hp h => hexec.trans (congrArg Host.Outcome.next (h1 hp h)),
      fun hp hc hf => hexec.trans (congrArg Host.Outcome.next (h2 hp hc hf))⟩
  · intro ok fail hat
    have hexec := hdue 3 (i := .s3 ok fail) (by decide) rfl hat
    refine ⟨fun hw => hexec.trans (congrArg Host.Outcome.next (if_pos hw)), fun hw => ?_⟩
    have hs := hexec.trans (congrArg Host.Outcome.next (stage3_of_works (us := k) (ok := ok) (fail := fail) hw))
    exact ⟨fun h => hs.trans (congrArg Host.Outcome.next (if_pos (stage3_stops_iff.mpr h))),
      fun h => hs.trans (congrArg Host.Outcome.next (if_neg (h ∘ stage3_stops_iff.mp)))⟩
  · intro fail ok hat
    have hexec := hdue 4 (i := .s4 fail ok) (by decide) rfl hat
    refine ⟨fun hw => hexec.trans (congrArg Host.Outcome.next (if_pos hw)), fun hw hr0 hr1 => ?_⟩
    obtain ⟨hshort, hgo⟩ := stage4_of_works (us := k) (fail := fail) (ok := ok) hw hr0 hr1
    refine ⟨fun h ha => hexec.trans (congrArg Host.Outcome.next (hshort h ha)), fun h => ?_⟩
    have hs := hexec.trans (congrArg Host.Outcome.next (hgo h))
    refine ⟨fun h0 h1 => hs.trans (congrArg Host.Outcome.next (if_pos ⟨h0, h1⟩)), fun h6 => ?_⟩
    have hactive := hs.trans (congrArg Host.Outcome.next (if_neg (not_and_or.mpr h6)))
    refine ⟨fun h => hactive.trans (congrArg Host.Outcome.next (if_pos (h.imp_left (congrArg not)))), fun hu hf => ?_⟩
    exact hactive.trans (congrArg Host.Outcome.next (if_neg (not_or.mpr ⟨ne_true_of_eq_false (congrArg not hu), hf⟩)))
  · intro hat
    have hexec := hdue 5 (i := .s5) (by decide) rfl hat
    refine ⟨fun h => hexec.trans (congrArg Host.Outcome.next (if_pos h)), fun hw h4 => ?_⟩
    have hs := hexec.trans (congrArg Host.Outcome.next (stage5_of_active (us := k) hw h4))
    exact ⟨fun h => hs.trans (congrArg Host.Outcome.next (if_pos h)), fun h => hs.trans (congrArg Host.Outcome.next (if_neg h))⟩
  · exact fun h => exec_stageDone_of_not_due fun hd => h (stageDue_six_iff.mp hd)
  · intro hat
    have hexec : exec (.stageDone us .s6) s = .next (s.stage6 k) := exec_stageDone_of_due (i := .s6) (stageDue_six_iff.mpr hat)
    refine ⟨fun ht hp => hexec.trans (congrArg Host.Outcome.next (if_pos ⟨ht, by rw [hp]; rfl⟩)), fun hset => ?_⟩
    have hs := stage6_of_settled (us := k) hset
    intro t n d want wrong missing held
    obtain ⟨ha, hc, hb, h0⟩ := s6Cause_cases (s := t)
    have hheld : ∀ c, c ≠ 0 → t.s6Cause = c → held c := fun c hc0 hcause => by
      obtain ⟨hsame, hstop⟩ := stage6_held hc0 hs hcause
      exact ⟨fun h3 h => hexec.trans (congrArg Host.Outcome.next (hsame h3 h)), fun h => hexec.trans (congrArg Host.Outcome.next (hstop h))⟩
    refine ⟨fun h => hheld _ (by decide) (ha h), fun h hw => hheld _ (by decide) (hc h hw),
      fun h hw hm => hheld _ (by decide) (hb h hw hm), fun h hw hm => ?_⟩
    exact hexec.trans (congrArg Host.Outcome.next (hs.trans (if_pos (h0 h hw hm))))
  · intro ms hat t
    have hexec := hdue 7 (i := .s7 ms) (by decide) rfl hat
    exact ⟨fun h => hexec.trans (congrArg Host.Outcome.next (if_pos h)), fun h => hexec.trans (congrArg Host.Outcome.next (if_neg h))⟩
  · intro stage outcome cause n d next s' a
    have hstop : s.stageStop stage outcome cause k n d = a.lineStopped := stageStop_eq
    refine ⟨fun h2 ht => hstop.trans (lineStopped_of_trial h2 ht), fun h => hstop.trans (lineStopped_of_other h), rfl⟩
  · exact fun t => ⟨exec_trialConfirm_of_not, exec_trialConfirm_of_may⟩

end Sys2Proof.Machine
end

section
/-! PROOFS. Requests to the object dictionary: how they arrive, wait and are served (R484 to R494). -/

namespace Sys2Proof.Machine

/-! ## The rows of the messages -/

section
variable {m : OdMsg} {e : OdEnv} {i : Instr}

/-- The row of a message whose OP is one of a list. -/
def OpRow (m : OdMsg) (e : OdEnv) (i : Instr) (ops : List Nat) : Prop :=
  (i, ops) ∈ [(.odWrite m e, [2]), (.odInfo m e, [3]), (.hello m e, [0x10]), (.heartbeat m e, [0x11]), (.noticeAck m e, [0x21])]

/-- Is a message with this OP the row's own? -/
def OpMine (m : OdMsg) (e : OdEnv) (i : Instr) (op : Nat) : Prop :=
  (∃ l, OpRow m e i l ∧ op ∈ l) ∨ (i = .odRead m e ∧ op ≠ 2 ∧ op ≠ 3 ∧ op ≠ 0x10 ∧ op ≠ 0x11 ∧ op ≠ 0x21)

/-- Each of the six rows takes the messages whose OP is its own. -/
theorem exec_row (hrow : (∃ l, OpRow m e i l) ∨ i = .odRead m e) :
    ∃ p : OdReq → Bool, (∀ s, exec i s = .next (s.odRow m e p)) ∧ ∀ q, p q = true ↔ OpMine m e i q.op := by
  unfold OpMine OpRow at *
  simp only [List.mem_cons, Prod.mk.injEq, List.not_mem_nil, or_false] at hrow ⊢
  rcases hrow with ⟨l, ⟨rfl, rfl⟩ | ⟨rfl, rfl⟩ | ⟨rfl, rfl⟩ | ⟨rfl, rfl⟩ | ⟨rfl, rfl⟩⟩ | rfl
  · exact ⟨fun q => q.op == 2, fun s => rfl, fun q => by simp⟩
  · exact ⟨fun q => q.op == 3, fun s => rfl, fun q => by simp⟩
  · exact ⟨fun q => q.op == 0x10, fun s => rfl, fun q => by simp⟩
  · exact ⟨fun q => q.op == 0x11, fun s => rfl, fun q => by simp⟩
  · exact ⟨fun q => q.op == 0x21, fun s => rfl, fun q => by simp⟩
  · exact ⟨fun q => !([2, 3, 0x10, 0x11, 0x21].contains q.op), fun s => rfl, fun q => by simp⟩

end

section
variable {s : State} {e : OdEnv} {p : OdReq → Bool}

theorem odRow_port {src : BitVec 128} {dport : BitVec 16} {sumOk : Bool} {l : List Byte} {q : OdReq} (hq : q = odParse false src.toNat l) :
    let hears := s.dom.signalRst = false ∧ s.sb.up = true ∧ s.sb.dup = false ∧ dport.toNat = s.od D.OD_PORT ∧ sumOk = true ∧ l.length ≤ 1048
    (hears → p q = true → s.odRow (.port src dport sumOk l) e p = s.odHandle (.port src dport sumOk l) l q e) ∧
    (¬ hears ∨ ¬ p q = true → s.odRow (.port src dport sumOk l) e p = s) := by
  intro hears
  subst hq
  constructor
  · rintro ⟨h1, h2, h3, h4, h5, h6⟩ hp
    refine if_neg ?_
    rw [h1, h2, h3, h5, hp]
    simp only [Bool.false_eq_true, Bool.true_eq_false, false_or, or_false, not_or, ne_eq, not_not, not_lt]
    exact ⟨h4, h6⟩
  · intro h
    refine if_pos ?_
    by_contra hn
    simp only [not_or, ne_eq, not_not, not_lt, Bool.not_eq_true, Bool.not_eq_false] at hn
    obtain ⟨h1, h2, h3, h4, h5, h6, h7⟩ := hn
    rcases h with h | h
    · exact h ⟨h1, h2, h3, h4, h5, h6⟩
    · exact h h7

theorem odRow_lane_unread {f : FlitIn} {t : State} (h : s.rxFlit 0 f (· == 6) = (false, t)) : s.odRow (.lane f) e p = t.pump := by
  unfold State.odRow
  dsimp only
  rw [h]

theorem odRow_lane_open {f : FlitIn} {t u : State} (h : s.rxFlit 0 f (· == 6) = (true, t)) (hg : t.gather f = (none, u)) :
    s.odRow (.lane f) e p = u.pump := by
  unfold State.odRow
  dsimp only
  rw [h]
  dsimp only
  rw [hg]

theorem odRow_lane_whole {f : FlitIn} {t u : State} {x : RxMsg} (h : s.rxFlit 0 f (· == 6) = (true, t)) (hg : t.gather f = (some x, u))
    {q : OdReq} (hq : q = odParse true 0 x.body) :
    s.odRow (.lane f) e p = if p q = false then s
      else if u.dom.signalRst = true ∨ u.sb.up = false then u.odSend (.lane f) (q.response 5 0 []) else u.odHandle (.lane f) x.body q e := by
  subst hq
  unfold State.odRow
  dsimp only
  rw [h]
  dsimp only
  rw [hg]

end

/-! ## A request that arrives (R484 to R486, R494) -/

theorem malformed_iff (q : OdReq) : q.malformed = true ↔ q.size < 24 ∨ q.op ∉ [1, 2, 3, 0x10, 0x11, 0x21] ∨ 2 ≤ q.flags ∨
    (q.op = 2 ∧ q.length ≠ q.value.length) ∨ (q.op ≠ 2 ∧ q.value ≠ []) ∨ (q.op ≠ 2 ∧ q.op ≠ 1 ∧ q.length ≠ 0) ∨
    (q.lane = true ∧ (0x10 ≤ q.op ∨ 4096 < q.size)) := by
  have hflags : q.flags / 2 ≠ 0 ↔ 2 ≤ q.flags := by omega
  have hlen : (if q.op = 2 then q.length != q.value.length else !q.value.isEmpty || (q.op != 1 && q.length != 0)) = true ↔
      (q.op = 2 ∧ q.length ≠ q.value.length) ∨ (q.op ≠ 2 ∧ q.value ≠ []) ∨ (q.op ≠ 2 ∧ q.op ≠ 1 ∧ q.length ≠ 0) := by
    by_cases h : q.op = 2
    · simp [h]
    · simp [h]
  unfold OdReq.malformed
  simp only [Bool.or_eq_true, decide_eq_true_eq, hflags, hlen, Bool.not_eq_true', Bool.and_eq_true, List.contains_eq_mem,
    decide_eq_false_iff_not, or_assoc]

section
variable {s : State} {m : OdMsg} {e : OdEnv} {q : OdReq} {body : List Byte}

theorem odHandle_of_malformed (h : q.malformed = true) : s.odHandle m body q e = s.odSend m (q.response 4 0 []) := if_pos h

theorem noticeHeld_iff {n : Notice} : s.noticeHeld n = true ↔
    (n.kind = 1 ∧ s.flag R.THERM_STATUS_CUT_REQ = true) ∨ (n.kind = 2 ∧ s.flag R.RESET_STATUS_CYCLE_REQ = true) := by
  unfold State.noticeHeld
  simp only [Bool.or_eq_true, Bool.and_eq_true, beq_iff_eq]

/-- What an acknowledge leaves of the notices: the others, and the acknowledged ones that hold their entry (R494). -/
theorem mem_noticeAck_iff {id : Nat} {n : Notice} : n ∈ (s.noticeAck id).notices ↔
    (n ∈ s.notices ∧ n.reqId ≠ id) ∨ ∃ o, o ∈ s.notices ∧ o.reqId = id ∧ s.noticeHeld o = true ∧ n = { o with acked := true } := by
  unfold State.noticeAck
  simp only [List.mem_map, List.mem_filter, Bool.or_eq_true, bne_iff_ne]
  constructor
  · rintro ⟨o, ⟨hmem, hkeep⟩, rfl⟩
    by_cases hid : o.reqId = id
    · rw [if_pos hid]
      exact .inr ⟨o, hmem, hid, hkeep.resolve_left (not_not.mpr hid), rfl⟩
    · rw [if_neg hid]
      exact .inl ⟨hmem, hid⟩
  · rintro (⟨hmem, hid⟩ | ⟨o, hmem, hid, hheld, rfl⟩)
    · exact ⟨n, ⟨hmem, .inl hid⟩, if_neg hid⟩
    · exact ⟨o, ⟨hmem, .inr hheld⟩, if_pos hid⟩

theorem odHandle_of_ack (hm : q.malformed = false) (h : q.op = 0x21) : s.odHandle m body q e = s.noticeAck q.reqId :=
  (if_neg (ne_true_of_eq_false hm)).trans (if_pos h)

theorem odHandle_of_request (hm : q.malformed = false) (hop : q.op ≠ 0x21) :
    (∀ old, (vget [] s.sb.kept q.path).lookup q.reqId = some old → s.odHandle m body q e = s.odSend m old) ∧
    ((vget [] s.sb.kept q.path).lookup q.reqId = none →
      let t := s.sbMod fun b => { b with waiting := vmod b.waiting q.path fun l => l ++ [⟨m, body, e, false⟩] }
      (8 ≤ (vget [] s.sb.waiting q.path).length →
        s.odHandle m body q e = (s.sbBump R.SB_EVENTS2_OD_BUSY R.SB_FLAGS_BUSY_OVF).odSend m (q.response 0x1209 0 [])) ∧
      ((vget [] s.sb.waiting q.path).length < 8 →
        (e.busy = true → s.odHandle m body q e = t) ∧ (e.busy = false → s.odHandle m body q e = t.odDrain))) := by
  unfold State.odHandle
  rw [if_neg (ne_true_of_eq_false hm), if_neg hop]
  refine ⟨fun old h => by rw [h], fun h => ?_⟩
  intro t
  rw [h]
  refine ⟨fun h8 => if_pos h8, fun h8 => ?_⟩
  exact ⟨fun hb => (if_neg (Nat.not_le.mpr h8)).trans (if_pos hb),
    fun hb => (if_neg (Nat.not_le.mpr h8)).trans (if_neg (ne_true_of_eq_false hb))⟩

end

/-! ## The signal box at work (R485) -/

section
variable {s : State}

theorem odDrain_of_running (hu : s.sb.up = true) (hs : s.dom.signalRst = false) :
    s.odDrain = State.odServeN ((vget [] s.sb.waiting 0).length + (vget [] s.sb.waiting 1).length) s :=
  if_pos (by rw [hu, hs]; rfl)

theorem odDrain_of_down (h : s.sb.up = false ∨ s.dom.signalRst = true) : s.odDrain = s := by
  refine if_neg ?_
  rcases h with h | h <;> rw [h]
  · exact Bool.noConfusion
  · cases s.sb.up <;> exact Bool.noConfusion

/-- The path with requests is next where the other holds none or it is its turn. -/
theorem nextPath_of_waiting {b : Sb} {p : Nat} {w : OdWait} {l : List OdWait} (hp : p < 2) (hw : vget [] b.waiting p = w :: l)
    (ho : vget [] b.waiting (1 - p) = [] ∨ b.turn = p) : b.nextPath = some p := by
  unfold Sb.nextPath
  obtain rfl | rfl : p = 0 ∨ p = 1 := by omega
  · rw [hw]
    cases h1 : vget [] b.waiting 1 with
    | nil => rfl
    | cons x y => exact congrArg some (ho.resolve_left (by rw [h1]; exact List.cons_ne_nil x y))
  · rw [hw]
    cases h0 : vget [] b.waiting 0 with
    | nil => rfl
    | cons x y => exact congrArg some (ho.resolve_left (by rw [h0]; exact List.cons_ne_nil x y))

theorem odNext_of_waiting {p : Nat} {w : OdWait} {l : List OdWait} (hp : p < 2) (hw : vget [] s.sb.waiting p = w :: l)
    (ho : vget [] s.sb.waiting (1 - p) = [] ∨ s.sb.turn = p) :
    s.odNext = (s.sbMod fun b => { b with waiting := vput b.waiting p l, turn := 1 - p }).odTake w (w.req p) := by
  unfold State.odNext
  rw [nextPath_of_waiting hp hw ho]
  dsimp only
  rw [hw]

theorem odNext_of_none (h0 : vget [] s.sb.waiting 0 = []) (h1 : vget [] s.sb.waiting 1 = []) : s.odNext = s := by
  have hn : s.sb.nextPath = none := by
    unfold Sb.nextPath
    rw [h0, h1]
  unfold State.odNext
  rw [hn]

end

/-! ## A request is served (R486, R491) -/

section
variable {s : State} {m : OdMsg} {e : OdEnv} {q : OdReq} {body : List Byte} {mute : Bool}

theorem odTake_of_kept {old : List Byte} (h : (vget [] s.sb.kept q.path).lookup q.reqId = some old) :
    s.odTake ⟨m, body, e, mute⟩ q = if mute = true then s else s.odSend m old := by
  unfold State.odTake
  rw [h]

/-- A request that was not answered before is served, its answer kept and sent. -/
theorem odTake_of_new (h : (vget [] s.sb.kept q.path).lookup q.reqId = none) {c : Nat} {v : List Byte} {u : State}
    (hs : (if q.op = 0x10 then s.hello q else if q.op = 0x11 then s.heartbeat q else s.odServe q e) = (c, v, u)) :
    s.odTake ⟨m, body, e, mute⟩ q =
      let send := fun (t : State) (l : List Byte) => if mute = true then t else t.odSend m l
      let x := q.response c (if q.op < 0x10 then tget (fun _ => 0) u.gens q.key else 0) v
      if q.op = 0x10 ∧ c = 0 then (send (u.odKeep q x) x).noticesSend else send (u.odKeep q x) x := by
  unfold State.odTake
  rw [h]
  dsimp only
  rw [hs]

/-- What a HELLO that opens a session changes of the signal box. -/
def helloSb (q : OdReq) (b : Sb) : Sb :=
  { b with session := q.session, tray := q.src, hello := true, kept := vput b.kept 0 [], orphan := if b.orphan = 1 then 2 else b.orphan }

theorem hello_of_stale (h : q.session = 0 ∨ q.session = s.sb.session) : s.hello q = (0x1205, [], s) := if_pos h

theorem hello_of_fresh (h0 : q.session ≠ 0) (hn : q.session ≠ s.sb.session) :
    let u := s.sbMod fun b => { b with session := q.session, tray := q.src, hello := true, kept := vput b.kept 0 [] }
    let back := (u.sbMod fun b => { b with orphan := 2 }).orphanEvent 2 q.session
    (s.sb.orphan ≠ 1 → s.hello q = (0, u.snapshot, u)) ∧ (s.sb.orphan = 1 → s.hello q = (0, back.snapshot, back)) := by
  intro u back
  have hhello : s.hello q = (let t := s.sbMod (helloSb q)
      let u := if s.sb.orphan = 1 then t.orphanEvent 2 q.session else t
      (0, u.snapshot, u)) := if_neg (not_or.mpr ⟨h0, hn⟩)
  rw [hhello]
  refine ⟨fun h => ?_, fun h => ?_⟩
  · have hu : s.sbMod (helloSb q) = u := by
      unfold State.sbMod helloSb
      rw [if_neg h]
      rfl
    dsimp only
    rw [hu, if_neg h]
  · have hu : s.sbMod (helloSb q) = u.sbMod fun b => { b with orphan := 2 } := by
      unfold State.sbMod helloSb
      rw [if_pos h]
      rfl
    dsimp only
    rw [hu, if_pos h]

theorem heartbeat_of_session (h0 : q.session ≠ 0) (h : q.session = s.sb.session) : s.heartbeat q = (0, s.snapshot, s) := if_pos ⟨h0, h⟩

theorem heartbeat_of_other (h : q.session = 0 ∨ q.session ≠ s.sb.session) : s.heartbeat q = (0x1208, [], s) := by
  refine if_neg ?_
  rintro ⟨h0, hs⟩
  rcases h with h | h
  · exact h0 h
  · exact h hs

end

end Sys2Proof.Machine
end

section
/-! PROOFS. READ, WRITE and INFO of the object dictionary (R483 to R490, R498, R499), and the obligation on its requests. -/

namespace Sys2Proof.Machine

/-! ## READ, WRITE and INFO (R487 to R489, R498) -/

section
variable {s : State} {e : OdEnv} {q : OdReq} {lv : Nat} {r : OdRow}

theorem odServe_of_stale (hop : q.op = 2) (hl : q.lane = false) (hs : s.sessionOk q = false) :
    s.odServe q e = (0x1208, [], s.sbBump R.SB_EVENTS_STALE_WRITES R.SB_FLAGS_STALE_OVF) :=
  if_pos ⟨hop, by rw [hl]; rfl, hs⟩

/-- A request whose session, where it needs one, holds is judged by its level. -/
theorem odServe_of_session (h : q.op ≠ 2 ∨ q.lane = true ∨ s.sessionOk q = true) :
    ¬ (q.op = 2 ∧ (!q.lane) = true ∧ s.sessionOk q = false) := by
  rintro ⟨hop, hl, hs⟩
  rcases h with h | h | h
  · exact h hop
  · rw [h] at hl
    exact Bool.noConfusion hl
  · exact Bool.noConfusion (hs.symm.trans h)

theorem odServe_of_no_level (h : q.op ≠ 2 ∨ q.lane = true ∨ s.sessionOk q = true) (hlv : s.odLevel q = none) :
    s.odServe q e = (0x120A, [], s) := by
  unfold State.odServe
  dsimp only
  rw [if_neg (odServe_of_session h), hlv]

theorem odServe_of_no_entry (h : q.op ≠ 2 ∨ q.lane = true ∨ s.sessionOk q = true) (hlv : s.odLevel q = some lv)
    (hr : odFind q.key = none) : s.odServe q e = (0x1201, [], s) := by
  unfold State.odServe
  dsimp only
  rw [if_neg (odServe_of_session h), hlv]
  dsimp only
  rw [hr]

/-- The refusals of an entry that is listed, in their order, and what is served where none applies. -/
theorem odServe_of_entry (h : q.op ≠ 2 ∨ q.lane = true ∨ s.sessionOk q = true) (hlv : s.odLevel q = some lv)
    (hr : odFind q.key = some r) : s.odServe q e =
      if (q.op = 2 ∧ r.acc = .ro) ∨ (q.op = 1 ∧ r.acc = .wo) then (0x1202, [], s)
      else if r.level.code < lv ∧ (!(decide (q.op = 2) && s.odOpen q.key)) = true then (0x1203, [], s)
      else if q.op = 2 then
        (if r.acc = .rwIdle ∧ s.odIdle = false then (0x1204, [], s)
          else ((s.odWrite q e lv r).1, [], (s.odWrite q e lv r).2))
      else if q.op = 3 then (0, s.odInfo r q.path q.key, s)
      else if r.type.size ≠ 0 ∧ q.offset ≠ 0 then (0x1206, [], s)
      else (0, ((s.odBytes r q.path q.key).drop q.offset).take (min q.length (if q.lane then 4072 else 1024)),
        if r.type.size = 0 then s.genFollow q.path q.key (s.odBytes r q.path q.key) else s) := by
  unfold State.odServe
  dsimp only
  rw [if_neg (odServe_of_session h), hlv]
  dsimp only
  rw [hr]

theorem odServe_write (h : q.op ≠ 2 ∨ q.lane = true ∨ s.sessionOk q = true) (hlv : s.odLevel q = some lv)
    (hr : odFind q.key = some r) (hop : q.op = 2) :
    let reach := lv ≤ r.level.code
    (r.acc = .ro → s.odServe q e = (0x1202, [], s)) ∧
    (r.acc ≠ .ro → ¬ reach → s.odOpen q.key = false → s.odServe q e = (0x1203, [], s)) ∧
    (r.acc = .rwIdle → reach ∨ s.odOpen q.key = true → s.odIdle = false → s.odServe q e = (0x1204, [], s)) ∧
    (∀ c u, r.acc ≠ .ro → reach ∨ s.odOpen q.key = true → r.acc ≠ .rwIdle ∨ s.odIdle = true → s.odWrite q e lv r = (c, u) →
      s.odServe q e = (c, [], u)) := by
  intro reach
  have hserve := odServe_of_entry (e := e) h hlv hr
  have hacc (ha : r.acc ≠ .ro) : ¬ ((q.op = 2 ∧ r.acc = .ro) ∨ (q.op = 1 ∧ r.acc = .wo)) := by
    rintro (⟨-, h⟩ | ⟨h, -⟩)
    · exact ha h
    · omega
  have hlevel (hl : reach ∨ s.odOpen q.key = true) : ¬ (r.level.code < lv ∧ (!(decide (q.op = 2) && s.odOpen q.key)) = true) := by
    rintro ⟨hlt, ho⟩
    rcases hl with hl | hl
    · exact absurd hl (Nat.not_le.mpr hlt)
    · rw [hl, decide_eq_true hop] at ho
      exact Bool.noConfusion ho
  refine ⟨fun ha => ?_, fun ha hn ho => ?_, fun ha hl hi => ?_, fun c u ha hl hi hw => ?_⟩
  · exact hserve.trans (if_pos (.inl ⟨hop, ha⟩))
  · exact hserve.trans ((if_neg (hacc ha)).trans (if_pos ⟨Nat.not_le.mp hn, by rw [ho, Bool.and_false]; rfl⟩))
  · have ha' : r.acc ≠ .ro := by
      rw [ha]
      exact OdAcc.noConfusion
    exact hserve.trans ((if_neg (hacc ha')).trans ((if_neg (hlevel hl)).trans ((if_pos hop).trans (if_pos ⟨ha, hi⟩))))
  · refine hserve.trans ((if_neg (hacc ha)).trans ((if_neg (hlevel hl)).trans ((if_pos hop).trans ((if_neg ?_).trans ?_))))
    · rintro ⟨hidle, hbusy⟩
      rcases hi with hi | hi
      · exact hi hidle
      · exact Bool.noConfusion (hbusy.symm.trans hi)
    · rw [hw]

theorem odServe_info (h : q.op ≠ 2 ∨ q.lane = true ∨ s.sessionOk q = true) (hlv : s.odLevel q = some lv)
    (hr : odFind q.key = some r) (hop : q.op = 3) :
    (lv ≤ r.level.code → s.odServe q e = (0, s.odInfo r q.path q.key, s)) ∧
    (¬ lv ≤ r.level.code → s.odServe q e = (0x1203, [], s)) := by
  have hserve := odServe_of_entry (e := e) h hlv hr
  rw [if_neg (by omega)] at hserve
  refine ⟨fun hl => ?_, fun hl => ?_⟩
  · exact hserve.trans ((if_neg fun h => absurd hl (Nat.not_le.mpr h.1)).trans ((if_neg (by omega)).trans (if_pos hop)))
  · exact hserve.trans (if_pos ⟨Nat.not_le.mp hl, by rw [decide_eq_false (by omega)]; rfl⟩)

/-- How GEN follows a value that the signal box has changed by itself (R489). -/
theorem genFollow_cases (path key : Nat) (now : List Byte) :
    let mark := fun (t : State) => t.sbMod fun b => { b with seen := tset (fun _ => none) b.seen (key * 2 + path) (some now) }
    let new : State := { s with gens := tset (fun _ => 0) s.gens key ((tget (fun _ => 0) s.gens key + 1) % 65536) }
    let seen := tget (fun _ => none) s.sb.seen (key * 2 + path)
    (seen = none → s.genFollow path key now = mark s) ∧ (seen = some now → s.genFollow path key now = s) ∧
    (∀ old, seen = some old → old ≠ now → s.genFollow path key now = mark new) := by
  intro mark new seen
  unfold State.genFollow State.seen
  refine ⟨fun h => ?_, fun h => ?_, fun old h hne => ?_⟩
  · rw [show tget (fun _ => none) s.sb.seen (key * 2 + path) = none from h]
    rfl
  · rw [show tget (fun _ => none) s.sb.seen (key * 2 + path) = some now from h]
    exact if_pos rfl
  · rw [show tget (fun _ => none) s.sb.seen (key * 2 + path) = some old from h]
    exact if_neg hne

theorem odServe_read (h : q.op ≠ 2 ∨ q.lane = true ∨ s.sessionOk q = true) (hlv : s.odLevel q = some lv)
    (hr : odFind q.key = some r) (hop : q.op = 1) :
    let reach := lv ≤ r.level.code
    (r.acc = .wo → s.odServe q e = (0x1202, [], s)) ∧
    (r.acc ≠ .wo → ¬ reach → s.odServe q e = (0x1203, [], s)) ∧
    (r.acc ≠ .wo → reach → r.type.size ≠ 0 → q.offset ≠ 0 → s.odServe q e = (0x1206, [], s)) ∧
    (r.acc ≠ .wo → reach → r.type.size = 0 ∨ q.offset = 0 →
      let now := s.odBytes r q.path q.key
      let seen := tget (fun _ => none) s.sb.seen (q.key * 2 + q.path)
      let mark := fun (t : State) => t.sbMod fun b => { b with seen := tset (fun _ => none) b.seen (q.key * 2 + q.path) (some now) }
      let new : State := { s with gens := tset (fun _ => 0) s.gens q.key ((tget (fun _ => 0) s.gens q.key + 1) % 65536) }
      let value := (now.drop q.offset).take (min q.length (if q.lane then 4072 else 1024))
      (r.type.size ≠ 0 ∨ seen = some now → s.odServe q e = (0, value, s)) ∧
      (r.type.size = 0 → seen = none → s.odServe q e = (0, value, mark s)) ∧
      (∀ old, r.type.size = 0 → seen = some old → old ≠ now → s.odServe q e = (0, value, mark new))) := by
  intro reach
  have hserve := odServe_of_entry (e := e) h hlv hr
  have hacc (ha : r.acc ≠ .wo) : ¬ ((q.op = 2 ∧ r.acc = .ro) ∨ (q.op = 1 ∧ r.acc = .wo)) := by
    rintro (⟨h, -⟩ | ⟨-, h⟩)
    · omega
    · exact ha h
  have hread (ha : r.acc ≠ .wo) (hl : reach) : s.odServe q e =
      if r.type.size ≠ 0 ∧ q.offset ≠ 0 then (0x1206, [], s)
      else (0, ((s.odBytes r q.path q.key).drop q.offset).take (min q.length (if q.lane then 4072 else 1024)),
        if r.type.size = 0 then s.genFollow q.path q.key (s.odBytes r q.path q.key) else s) :=
    hserve.trans ((if_neg (hacc ha)).trans ((if_neg fun h => absurd hl (Nat.not_le.mpr h.1)).trans
      ((if_neg (by omega)).trans (if_neg (by omega)))))
  refine ⟨fun ha => ?_, fun ha hn => ?_, fun ha hl h0 ho => ?_, fun ha hl h0 => ?_⟩
  · exact hserve.trans (if_pos (.inr ⟨hop, ha⟩))
  · exact hserve.trans ((if_neg (hacc ha)).trans (if_pos ⟨Nat.not_le.mp hn, by rw [decide_eq_false (by omega)]; rfl⟩))
  · exact (hread ha hl).trans (if_pos ⟨h0, ho⟩)
  · have hval := (hread ha hl).trans (if_neg (fun h => h0.elim h.1 h.2))
    intro now seen mark new value
    obtain ⟨hnone, hsame, hnew⟩ := genFollow_cases (s := s) q.path q.key now
    refine ⟨fun hs => ?_, fun hz hs => ?_, fun old hz hs hne => ?_⟩
    · refine hval.trans (congrArg (fun t => (0, value, t)) ?_)
      rcases hs with hs | hs
      · exact if_neg hs
      · exact ite_eq_right_iff.mpr fun _ => hsame hs
    · exact hval.trans (congrArg (fun t => (0, value, t)) ((if_pos hz).trans (hnone hs)))
    · exact hval.trans (congrArg (fun t => (0, value, t)) ((if_pos hz).trans (hnew old hs hne)))

end

/-! ## A write that is allowed (R488, R490, R499) -/

section
variable {s : State} {e : OdEnv} {q : OdReq} {lv : Nat} {r : OdRow}

theorem range_holds_iff {g : OdRange} {v : Nat} : g.holds v = true ↔ v ∈ g.also ∨ (g.lo ≤ v ∧ v ≤ g.hi ∧ (v - g.lo) % g.step = 0) := by
  unfold OdRange.holds
  simp only [Bool.or_eq_true, List.contains_iff_mem, Bool.and_eq_true, decide_eq_true_eq, beq_iff_eq, and_assoc]

theorem odWrite_scalar (hz : r.type.size ≠ 0) :
    let v := leNat q.value
    let inRange := ∀ g, r.range = some g → v ∈ g.also ∨ (g.lo ≤ v ∧ v ≤ g.hi ∧ (v - g.lo) % g.step = 0)
    let badSize := q.value.length ≠ r.type.size ∨ q.offset ≠ 0 ∨ (r.type = .bool ∧ 1 < v)
    (badSize → s.odWrite q e lv r = (0x1206, s)) ∧
    (¬ badSize → ¬ inRange → s.odWrite q e lv r = (0x1205, s)) ∧
    (¬ badSize → inRange → s.odWrite q e lv r = s.odCommit e r q.key (odGoverns q.key (s.odApply q e r q.key v))) := by
  intro v inRange badSize
  unfold State.odWrite
  dsimp only
  rw [if_pos hz]
  refine ⟨fun h => if_pos h, fun h hn => (if_neg h).trans ?_, fun h hn => (if_neg h).trans ?_⟩
  · cases hr : r.range with
    | none => exact absurd (fun g hg => absurd (hr.symm.trans hg) (Option.some_ne_none g).symm) hn
    | some g =>
      have hg : g.holds v = false := eq_false_of_ne_true fun hg => hn fun g' hg' => by
        obtain rfl : g = g' := Option.some.inj (hr.symm.trans hg')
        exact range_holds_iff.mp hg
      exact if_pos (congrArg not hg)
  · cases hr : r.range with
    | none => exact if_neg Bool.noConfusion
    | some g => exact if_neg (ne_true_of_eq_false (congrArg not (range_holds_iff.mpr (hn g hr))))

/-- The largest size of an entry, by its own rule or its type. -/
theorem largest_eq : r.largest = (odSizes.lookup r.key).getD
    (if r.type = .domain then 65536 else if r.type = .str then 256 else r.type.size) := by
  unfold OdRow.largest OdType.largest
  cases r.type <;> rfl

/-- A value joined so far is staged, or applied where its last segment has come. -/
theorem odWrite_joined (hz : r.type.size = 0) {b : List Byte}
    (hs : s.odSegment q r.largest = if r.largest < b.length then .error 0x1205 else .ok b) :
    let drop := s.stage q.path none
    (r.largest < b.length → s.odWrite q e lv r = (0x1205, drop)) ∧
    (b.length ≤ r.largest → q.flags % 2 = 0 → s.odWrite q e lv r = (0, s.stage q.path (some (q.key, b)))) ∧
    (b.length ≤ r.largest → q.flags % 2 = 1 → s.odWrite q e lv r = drop.odCommit e r q.key (drop.odApplyBlob q lv r q.key b)) := by
  intro drop
  unfold State.odWrite
  dsimp only
  rw [if_neg (not_not.mpr hz), hs]
  refine ⟨fun h => ?_, fun h hf => ?_, fun h hf => ?_⟩
  · rw [if_pos h]
  · rw [if_neg (Nat.not_lt.mpr h)]
    exact if_pos hf
  · rw [if_neg (Nat.not_lt.mpr h)]
    exact if_neg (by omega)

theorem odWrite_broken (hz : r.type.size = 0) (hs : s.odSegment q r.largest = .error 0x1207) :
    s.odWrite q e lv r = (0x1207, s.stage q.path none) := by
  unfold State.odWrite
  dsimp only
  rw [if_neg (not_not.mpr hz), hs]

theorem odSegment_first (h : q.offset = 0) (n : Nat) :
    s.odSegment q n = if n < q.value.length then .error 0x1205 else .ok q.value := by
  unfold State.odSegment
  rw [if_pos h]

theorem odSegment_next {k n : Nat} {b : List Byte} (h : q.offset ≠ 0) (hs : vget none s.sb.staged q.path = some (k, b)) (hk : k = q.key)
    (hb : b.length = q.offset) : s.odSegment q n = if n < (b ++ q.value).length then .error 0x1205 else .ok (b ++ q.value) := by
  unfold State.odSegment
  rw [if_neg h, hs]
  dsimp only
  rw [if_pos ⟨hk, hb⟩]

theorem odSegment_astray {k n : Nat} {b : List Byte} (h : q.offset ≠ 0) (hs : vget none s.sb.staged q.path = some (k, b))
    (hn : k ≠ q.key ∨ b.length ≠ q.offset) : s.odSegment q n = .error 0x1207 := by
  unfold State.odSegment
  rw [if_neg h, hs]
  dsimp only
  rw [if_neg (fun h => hn.elim (absurd h.1) (absurd h.2))]

theorem odSegment_unstaged {n : Nat} (h : q.offset ≠ 0) (hs : vget none s.sb.staged q.path = none) : s.odSegment q n = .error 0x1207 := by
  unfold State.odSegment
  rw [if_neg h, hs]

theorem odCommit_refused {k c : Nat} {t : State} (h : c ≠ 0) : s.odCommit e r k (c, t) = (c, t) := if_pos h

theorem odCommit_failed {k : Nat} {t : State} (hp : r.persist = true) (hf : e.flashFails = true) :
    s.odCommit e r k (0, t) = (0x120C, s) := (if_neg (not_not.mpr rfl)).trans (if_pos ⟨hp, hf⟩)

/-- The state with a write committed: GEN advances, and what the paths were served is forgotten. -/
def State.odCommitted (t : State) (k : Nat) : State :=
  let forget := fun (x : Tab (Option (List Byte))) => tset (fun _ => none) (tset (fun _ => none) x (k * 2) none) (k * 2 + 1) none
  ({ t with gens := tset (fun _ => 0) t.gens k ((tget (fun _ => 0) t.gens k + 1) % 65536) } : State).sbMod fun b =>
    { b with seen := forget b.seen }

theorem odCommit_done {k : Nat} {t : State} (h : ¬ (r.persist = true ∧ e.flashFails = true)) : s.odCommit e r k (0, t) =
    (0, if r.persist then (t.odCommitted k).fwMod fun f => { f with flashed := true } else t.odCommitted k) :=
  (if_neg (not_not.mpr rfl)).trans (if_neg h)

end

/-- Settles O57: messages by their rows, requests by the order of their refusals, writes by their segments and their commit. -/
theorem dictionaryRequests : Obligations.DictionaryRequests := by
  unfold Obligations.DictionaryRequests
  intro m e s q body rows mine row
  refine ⟨?_, ?_, ?_, malformed_iff q, odHandle_of_malformed, ?_, odHandle_of_request, ⟨fun hu hs => odDrain_of_running hu hs, odDrain_of_down,
    fun n => ⟨rfl, rfl⟩, fun p w l hp hw ho => ?_, odNext_of_none⟩, ?_, ?_, odServe_of_stale, fun hsess => ⟨odServe_of_no_level hsess,
    fun lv hlv => ⟨odServe_of_no_entry hsess hlv, fun r hr => ⟨odServe_write hsess hlv hr, odServe_info hsess hlv hr,
      odServe_read hsess hlv hr⟩⟩⟩, ?_, ?_⟩
  · intro i src dport sumOk l hm hq hrow
    subst hm
    obtain ⟨p, hexec, hp⟩ := exec_row hrow
    have hpm : p q = true ↔ mine i q.op := hp q
    intro hears
    obtain ⟨ht, hf⟩ := odRow_port (s := s) (e := e) (p := p) (dport := dport) (sumOk := sumOk) hq
    exact ⟨fun hh hm => (hexec s).trans (congrArg Host.Outcome.next (ht hh (hpm.mpr hm))),
      fun h => (hexec s).trans (congrArg Host.Outcome.next (hf (h.imp_right (· ∘ hpm.mp))))⟩
  · intro i f hm hrow
    subst hm
    obtain ⟨p, hexec, hp⟩ := exec_row hrow
    have hpm : p q = true ↔ mine i q.op := hp q
    refine ⟨fun t h => (hexec s).trans (congrArg Host.Outcome.next (odRow_lane_unread h)),
      fun t u h hg => (hexec s).trans (congrArg Host.Outcome.next (odRow_lane_open h hg)), fun t u x h hg hq => ?_⟩
    have hwhole := (hexec s).trans (congrArg Host.Outcome.next (odRow_lane_whole (p := p) (e := e) h hg hq))
    have hon (hm : mine i q.op) : ¬ p q = false := fun h => Bool.noConfusion (h.symm.trans (hpm.mpr hm))
    refine ⟨fun hn => ?_, fun hm hd => ?_, fun hm h1 h2 => ?_⟩
    · exact hwhole.trans (congrArg Host.Outcome.next (if_pos (eq_false_of_ne_true (hn ∘ hpm.mp))))
    · exact hwhole.trans (congrArg Host.Outcome.next ((if_neg (hon hm)).trans (if_pos hd)))
    · exact hwhole.trans (congrArg Host.Outcome.next ((if_neg (hon hm)).trans
        (if_neg (not_or.mpr ⟨ne_true_of_eq_false h1, fun h => Bool.noConfusion (h.symm.trans h2)⟩))))
  · refine fun l => ⟨fun src dport sumOk b hm => ?_, fun f hm => ?_⟩
    · subst hm
      rfl
    · subst hm
      rfl
  · intro held hm hop
    refine ⟨(s.noticeAck q.reqId).notices, odHandle_of_ack hm hop, fun n => ?_⟩
    simp only [mem_noticeAck_iff, noticeHeld_iff]
    exact Iff.rfl
  · exact odNext_of_waiting hp hw ho
  · intro mute w send
    refine ⟨fun old h => odTake_of_kept h, fun h => ⟨fun c v u hop hs => ?_, fun c v u hop hs => ?_, fun c v u hop hs => ?_⟩⟩
    · have htake := odTake_of_new (m := m) (e := e) (body := body) (mute := mute) h
        ((if_neg (show q.op ≠ 0x10 by omega)).trans ((if_neg (show q.op ≠ 0x11 by omega)).trans hs))
      dsimp only at htake
      rw [if_pos hop, if_neg (fun h => absurd h.1 (by omega))] at htake
      exact htake
    · have htake := odTake_of_new (m := m) (e := e) (body := body) (mute := mute) h ((if_pos hop).trans hs)
      dsimp only at htake
      rw [if_neg (show ¬ q.op < 0x10 by omega)] at htake
      exact ⟨fun hc => htake.trans (if_pos ⟨hop, hc⟩), fun hc => htake.trans (if_neg fun h => hc h.2)⟩
    · have htake := odTake_of_new (m := m) (e := e) (body := body) (mute := mute) h
        ((if_neg (show q.op ≠ 0x10 by omega)).trans ((if_pos hop).trans hs))
      dsimp only at htake
      rw [if_neg (show ¬ q.op < 0x10 by omega), if_neg (fun h => absurd h.1 (by omega))] at htake
      exact htake
  · exact ⟨hello_of_stale, hello_of_fresh, heartbeat_of_session, heartbeat_of_other⟩
  · intro lv r v inRange badSize largest drop last
    refine ⟨odWrite_scalar, fun hz => ?_⟩
    have hlast : ∀ b, s.odSegment q r.largest = (if r.largest < b.length then .error 0x1205 else .ok b) → last b := by
      intro b hb
      have hj := odWrite_joined (e := e) (lv := lv) hz hb
      rw [largest_eq] at hj
      exact hj
    exact ⟨fun h => hlast _ (odSegment_first h _), fun k b h hs hk hb => hlast _ (odSegment_next h hs hk hb),
      fun k b h hs hn => odWrite_broken hz (odSegment_astray h hs hn), fun h hs => odWrite_broken hz (odSegment_unstaged h hs)⟩
  · intro r k c t forget new
    refine ⟨odCommit_refused, odCommit_failed, fun hp hf => ?_, fun hp => ?_⟩
    · exact (odCommit_done (fun h => Bool.noConfusion (hf.symm.trans h.2))).trans (congrArg (Prod.mk 0) (if_pos hp))
    · exact (odCommit_done (fun h => Bool.noConfusion (hp.symm.trans h.1))).trans (congrArg (Prod.mk 0) (if_neg (ne_true_of_eq_false hp)))

end Sys2Proof.Machine
end

section
/-! PROOFS. Writes of the dictionary that act: their rows, and the effects of their entries. -/

namespace Sys2Proof.Machine

/-! ## A request that finds the signal box at rest -/

/-- A bank of two that holds nothing at either place is the empty bank. -/
theorem vector_eq_replicate_of_vget {α : Type} {d : α} {v : Vector α 2} (h0 : vget d v 0 = d) (h1 : vget d v 1 = d) :
    v = .replicate 2 d := by
  refine Vector.ext fun i hi => ?_
  rw [Vector.getElem_replicate]
  obtain rfl | rfl : i = 0 ∨ i = 1 := by omega
  · exact h0
  · exact h1

section
variable {s : State} {e : OdEnv} {src : BitVec 128} {dport : BitVec 16} {l : List Byte}

/-- A request that alone waits, on the field port, leaves its queue and is served. -/
theorem odDrain_of_single {w : OdWait} (hs : s.dom.signalRst = false) (hu : s.sb.up = true) (h0 : vget [] s.sb.waiting 0 = [w])
    (h1 : vget [] s.sb.waiting 1 = []) :
    s.odDrain = (s.sbMod fun b => { b with waiting := .replicate 2 [], turn := 1 }).odTake w (w.req 0) := by
  have hempty : vput s.sb.waiting 0 [] = .replicate 2 [] :=
    vector_eq_replicate_of_vget (vget_vput_self _ _ (by decide) _) ((vget_vput_ne _ _ (by decide) _).trans h1)
  rw [odDrain_of_running hu hs, h0, h1]
  refine (odNext_of_waiting (by decide) h0 (.inl h1)).trans ?_
  exact congrArg (fun v => (s.sbMod fun b => { b with waiting := v, turn := 1 }).odTake w (w.req 0)) hempty

/-- A request that finds both queues empty joins the field port's and is served at once. -/
theorem odDrain_joined (w : OdWait) (hs : s.dom.signalRst = false) (hu : s.sb.up = true) (h0 : vget [] s.sb.waiting 0 = [])
    (h1 : vget [] s.sb.waiting 1 = []) :
    (s.sbMod fun b => { b with waiting := vmod b.waiting 0 fun x => x ++ [w] }).odDrain =
      (s.sbMod fun b => { b with waiting := .replicate 2 [], turn := 1 }).odTake w (w.req 0) := by
  have hone : vmod s.sb.waiting 0 (fun x => x ++ [w]) = vput s.sb.waiting 0 [w] := by
    rw [vmod_eq [] _ (by decide), h0, List.nil_append]
  have hw0 : vget [] (vmod s.sb.waiting 0 (fun x => x ++ [w])) 0 = [w] := by rw [hone, vget_vput_self _ _ (by decide)]
  have hw1 : vget [] (vmod s.sb.waiting 0 (fun x => x ++ [w])) 1 = [] := by rw [hone, vget_vput_ne _ _ (by decide), h1]
  exact odDrain_of_single (s := s.sbMod fun b => { b with waiting := vmod b.waiting 0 fun x => x ++ [w] }) hs hu hw0 hw1

/-- A write on the field port that its row takes, at a signal box at rest, is served and answered. -/
theorem odRow_write_served {p : OdReq → Bool} {c : Nat} {u : State} (hs : s.dom.signalRst = false) (hu : s.sb.up = true)
    (hd : s.sb.dup = false) (hport : dport.toNat = s.od D.OD_PORT) (hlen : l.length ≤ 1048) (hop : (odParse false src.toNat l).op = 2)
    (hm : (odParse false src.toNat l).malformed = false) (hb : e.busy = false) (h0 : vget [] s.sb.waiting 0 = [])
    (h1 : vget [] s.sb.waiting 1 = []) (hk : (vget [] s.sb.kept 0).lookup (odParse false src.toNat l).reqId = none)
    (hp : p (odParse false src.toNat l) = true)
    (hserve : (s.sbMod fun b => { b with waiting := .replicate 2 [], turn := 1 }).odServe (odParse false src.toNat l) e = (c, [], u)) :
    let q := odParse false src.toNat l
    let x := q.response c (tget (fun _ => 0) u.gens q.key) []
    s.odRow (.port src dport true l) e p = (u.odKeep q x).fieldSend (.udp src.toNat x) := by
  intro q x
  have hreq : OdWait.req ⟨.port src dport true l, l, e, false⟩ 0 = q := rfl
  rw [(odRow_port rfl).1 ⟨hs, hu, hd, hport, rfl, hlen⟩ hp,
    ((((odHandle_of_request hm (by rw [hop]; decide)).2 hk).2 (by rw [show OdReq.path (odParse false src.toNat l) = 0 from rfl, h0]; decide)).2 hb),
    show OdReq.path (odParse false src.toNat l) = 0 from rfl, odDrain_joined _ hs hu h0 h1, hreq]
  have hkq : (vget [] (s.sbMod fun b => { b with waiting := .replicate 2 [], turn := 1 }).sb.kept q.path).lookup q.reqId = none := hk
  have hserved : (if q.op = 0x10 then (s.sbMod fun b => { b with waiting := .replicate 2 [], turn := 1 }).hello q
      else if q.op = 0x11 then (s.sbMod fun b => { b with waiting := .replicate 2 [], turn := 1 }).heartbeat q
      else (s.sbMod fun b => { b with waiting := .replicate 2 [], turn := 1 }).odServe q e) = (c, [], u) := by
    rw [if_neg (by rw [hop]; decide), if_neg (by rw [hop]; decide)]
    exact hserve
  refine (odTake_of_new hkq hserved).trans ?_
  dsimp only
  rw [if_neg (fun h => absurd (hop.symm.trans h.1) (by decide)), if_neg Bool.false_ne_true, if_pos (by rw [hop]; decide)]
  rfl

end

/-! ## The rows of the entries that act -/

section
variable {m : OdMsg} {e : OdEnv} {i : Instr} {k n : Nat}

/-- The entries whose every write belongs to a row of its own. -/
def KeyRow (m : OdMsg) (e : OdEnv) (k n : Nat) (i : Instr) : Prop :=
  (k, n, i) ∈ [(D.RTIME_NEXT, 1, Instr.rtimeNext m e), (D.GUARD_CLEAR, 1, .guardClear m e), (D.FAULT_ACK, 1, .faultAck m e),
    (D.FAULT_CLEAR, 1, .faultClear m e), (D.RECOVERIES_RESET, 1, .recoveriesReset m e), (D.ACCEPT_REDUCED, 1, .acceptReduced m e),
    (D.TOPO_ACCEPT, 1, .topoAccept m e), (D.GEOMETRY_EXPECT, 1, .geometryExpect m e), (D.TRAY_NO, 1, .trayNo m e),
    (D.BGTEST_EN, 1, .bgtestEn m e), (D.LICENCE, 1, .licence m e), (D.DIE_MARKS, 8, .dieMarks m e), (D.FW_HEADER, 1, .fwHeader m e),
    (D.FW_ABORT, 1, .fwAbort m e), (D.ATTEST_NONCE, 1, .attestNonce m e), (D.OWNER_KEY, 1, .ownerKey m e), (D.GRANT, 15, .grant m e),
    (D.GRANT_MIN_SEQ, 1, .grantMinSeq m e), (D.LICENCE_KEY_CERT, 1, .licenceKeyCert m e), (D.ORPHAN_RELEASE, 1, .orphanRelease m e)]

/-- A row of an entry takes the writes of its subindices. -/
theorem exec_keyRow (h : KeyRow m e k n i) (s : State) : exec i s = .next (s.odRow m e (odWrites k n)) := by
  unfold KeyRow at h
  simp only [List.mem_cons, Prod.mk.injEq, List.not_mem_nil, or_false] at h
  rcases h with ⟨rfl, rfl, rfl⟩ | ⟨rfl, rfl, rfl⟩ | ⟨rfl, rfl, rfl⟩ | ⟨rfl, rfl, rfl⟩ | ⟨rfl, rfl, rfl⟩ | ⟨rfl, rfl, rfl⟩ |
    ⟨rfl, rfl, rfl⟩ | ⟨rfl, rfl, rfl⟩ | ⟨rfl, rfl, rfl⟩ | ⟨rfl, rfl, rfl⟩ | ⟨rfl, rfl, rfl⟩ | ⟨rfl, rfl, rfl⟩ | ⟨rfl, rfl, rfl⟩ |
    ⟨rfl, rfl, rfl⟩ | ⟨rfl, rfl, rfl⟩ | ⟨rfl, rfl, rfl⟩ | ⟨rfl, rfl, rfl⟩ | ⟨rfl, rfl, rfl⟩ | ⟨rfl, rfl, rfl⟩ | ⟨rfl, rfl, rfl⟩ <;> rfl

/-- The rows of the entries whose writes are told apart by their value. -/
def ValueRow (m : OdMsg) (e : OdEnv) (k n v : Nat) (i : Instr) : Prop :=
  (k, n, i) = (D.THERM_CLEAR, 1, .flowStopClear m e) ∧ v % 2 = 1 ∨ (k, n, i) = (D.THERM_CLEAR, 1, .tripClear m e) ∧ v / 2 % 2 = 1 ∨
  (k, n, i) = (D.FW_ACTIVATE, 1, .activateSignal m e) ∧ v = 1 ∨ (k, n, i) = (D.FW_ACTIVATE, 1, .activateLine m e) ∧ v = 3 ∨
  (k, n, i) = (D.FW_ACTIVATE, 1, .activateRuntime m e) ∧ v = 2

theorem odWrites_of_key {q : OdReq} (hop : q.op = 2) (hlo : k ≤ q.key) (hhi : q.key < k + n) : odWrites k n q = true := by
  unfold odWrites
  rw [hop, decide_eq_true ⟨hlo, hhi⟩]
  rfl

theorem odWritesVal_of_value {q : OdReq} {p : Nat → Bool} (hop : q.op = 2) (hlo : k ≤ q.key) (hhi : q.key < k + 1)
    (hp : p (leNat q.value) = true) : odWritesVal k p q = true := by
  unfold odWritesVal
  rw [odWrites_of_key hop hlo hhi, hp]
  rfl

/-- A row of a value takes the writes of its entry with such a value. -/
theorem exec_valueRow {q : OdReq} (hop : q.op = 2) (hlo : k ≤ q.key) (hhi : q.key < k + n) (h : ValueRow m e k n (leNat q.value) i) :
    ∃ p : OdReq → Bool, (∀ s, exec i s = .next (s.odRow m e p)) ∧ p q = true := by
  unfold ValueRow at h
  simp only [Prod.mk.injEq] at h
  rcases h with ⟨⟨rfl, rfl, rfl⟩, hv⟩ | ⟨⟨rfl, rfl, rfl⟩, hv⟩ | ⟨⟨rfl, rfl, rfl⟩, hv⟩ | ⟨⟨rfl, rfl, rfl⟩, hv⟩ | ⟨⟨rfl, rfl, rfl⟩, hv⟩
  · exact ⟨_, fun s => rfl, odWritesVal_of_value hop hlo hhi (beq_iff_eq.mpr hv)⟩
  · exact ⟨_, fun s => rfl, odWritesVal_of_value hop hlo hhi (beq_iff_eq.mpr hv)⟩
  · exact ⟨_, fun s => rfl, odWritesVal_of_value hop hlo hhi (beq_iff_eq.mpr hv)⟩
  · exact ⟨_, fun s => rfl, odWritesVal_of_value hop hlo hhi (beq_iff_eq.mpr hv)⟩
  · exact ⟨_, fun s => rfl, odWritesVal_of_value hop hlo hhi (beq_iff_eq.mpr hv)⟩

/-- The row of the image chunks takes every write of a chunk. -/
theorem exec_chunkRow {q : OdReq} (hop : q.op = 2) (hc : (chunkOf q.key).isSome = true) :
    ∃ p : OdReq → Bool, (∀ s, exec (.fwChunk m e) s = .next (s.odRow m e p)) ∧ p q = true :=
  ⟨_, fun s => rfl, by rw [hop, hc]; rfl⟩

end

/-! ## The effects of the entries -/

section
variable {s : State} {q : OdReq} {e : OdEnv} {r : OdRow} {x : Nat}

theorem odApply_faultAck (hr : r.key ≠ D.DIE_MARKS) (h : s.dom.lineRst = false) :
    s.odApply q e r D.FAULT_ACK 1 = odRefusable s.faultAck := by
  simp +decide only [State.odApply, h, hr, if_true, if_false]

theorem odApply_recoveriesReset (hr : r.key ≠ D.DIE_MARKS) : s.odApply q e r D.RECOVERIES_RESET 1 = (0, s.recoveriesReset) := by
  simp +decide only [State.odApply, hr, false_and, if_true, if_false]

theorem odApply_rtimeNext (h : s.dom.lineRst = false) : s.odApply q e r D.RTIME_NEXT x =
    if x % 1000000 = 0 then (0, { s.fset R.RTIME_STATUS_ARMED 1 with clock := { s.clock with armed := some (x, s.rtime) } })
    else (0x1205, s) := by
  by_cases hx : x % 1000000 = 0
  · simp +decide only [State.odApply, State.armRtime, h, hx, ne_eq, if_true, if_false]
  · simp +decide only [State.odApply, State.armRtime, h, hx, ne_eq, not_false_eq_true, if_true, if_false]

theorem odApply_acceptReduced : s.odApply q e r D.ACCEPT_REDUCED x = (0, s.acceptReduced x) := by
  simp +decide only [State.odApply, false_and, if_true, if_false]

theorem odApply_topoAccept : s.odApply q e r D.TOPO_ACCEPT x = odRefusable (s.topoAccept x) := by
  simp +decide only [State.odApply, false_and, if_true, if_false]

theorem odApply_geometryExpect : s.odApply q e r D.GEOMETRY_EXPECT x = (0, s.geometryExpect x) := by
  simp +decide only [State.odApply, false_and, if_true, if_false]

theorem odApply_thermClear (h : s.dom.lineRst = false) : s.odApply q e r D.THERM_CLEAR x = s.thermClear x := by
  simp +decide only [State.odApply, h, if_true, if_false]

theorem odApply_orphanRelease : s.odApply q e r D.ORPHAN_RELEASE x = s.odRelease q x := by
  simp +decide only [State.odApply, false_and, if_true, if_false]

theorem odApply_grantMin (hr : r.key ≠ D.DIE_MARKS) : s.odApply q e r D.GRANT_MIN_SEQ x = (0, s.grantMin x) := by
  simp +decide only [State.odApply, hr, false_and, if_true, if_false]

theorem odApply_fwActivate (hr : r.key ≠ D.DIE_MARKS) : s.odApply q e r D.FW_ACTIVATE x = s.fwActivate x := by
  simp +decide only [State.odApply, hr, false_and, if_true, if_false]

theorem thermClear_of_moving (h : s.therm.calmFor ≤ 1000) : s.thermClear 1 = (0x120B, s) := by
  have hrefused : s.flowStopClear = (false, s) := if_pos h
  simp +decide only [State.thermClear, hrefused, if_true, if_false]

theorem odRelease_of_attached (h : s.sb.orphan = 0) : s.odRelease q x = (0, s) := if_pos (.inr h)

theorem odRelease_of_reattached (h : s.sb.orphan = 2) (hx : x ≠ 0) (hq : q.lane = false) : s.odRelease q x = (0, s.orphanRelease) :=
  (if_neg (not_or.mpr ⟨hx, by rw [h]; decide⟩)).trans
    (if_neg (not_or.mpr ⟨ne_true_of_eq_false hq, not_not.mpr h⟩))

theorem topoAccept_of_digest (ht : s.boot.topoOn = true) (hx : x = s.topoDigest) :
    s.topoAccept x = (true, (s.bootMod fun b => { b with accepted := some x }).stageResume 6 0x100B) := if_pos ⟨ht, hx⟩

theorem topoAccept_of_other (hx : x ≠ s.topoDigest) : s.topoAccept x = (false, s) := if_neg fun h => hx h.2

theorem activateLine_of_passed (h : s.activateCode 2 = 0) : s.activateLine = (0, (s.slotSt (s.idle 2) 3).odPut D.FW_RESULT 0) :=
  if_neg (not_not.mpr h)

theorem activateSignal_of_refused {c : Nat} (hc : c ≠ 0) (h : s.activateCode 0 = c) :
    s.activateSignal = (0x120B, s.odPut D.FW_RESULT c) := by
  subst h
  exact if_pos hc

end

/-! ## The effects of the entries with a whole value -/

section
variable {s : State} {q : OdReq} {r : OdRow} {lv key : Nat} {b : List Byte}

theorem odApplyBlob_chunk {c : Nat} (hr : r.key ≠ D.GRANT) (hc : chunkOf key = some c) (h1 : key ≠ D.FW_HEADER) (h2 : key ≠ D.OWNER_KEY)
    (h3 : key ≠ D.ATTEST_NONCE) (h4 : key ≠ D.LICENCE_KEY_CERT) (h5 : key ≠ D.LICENCE) :
    s.odApplyBlob q lv r key b = s.fwChunk c b := by
  simp only [State.odApplyBlob, h1, h2, hr, h3, h4, h5, hc, if_false]

theorem fwChunk_of_no_upload {c : Nat} (h : s.staging = none) : s.fwChunk c b = (0x120B, s.odPut D.FW_RESULT 0x1311) := by
  unfold State.fwChunk
  rw [h]
  rfl

theorem odApplyBlob_fwHeader : s.odApplyBlob q lv r D.FW_HEADER b = s.fwHeader b := if_pos rfl

theorem fwHeader_of_refused (h : (s.fwHeaderCode b).1 ≠ 0) : s.fwHeader b = (0x120B, s.odPut D.FW_RESULT (s.fwHeaderCode b).1) :=
  if_pos h

theorem odApplyBlob_ownerKey : s.odApplyBlob q lv r D.OWNER_KEY b = s.ownerKey (lv == 0) b := by
  simp +decide only [State.odApplyBlob, if_true, if_false]

theorem ownerKey_of_other (h : (s.blobOf D.OWNER_KEY).isEmpty = false) (hlv : lv ≠ 0) : s.ownerKey (lv == 0) b = (0x1203, s) :=
  if_pos ⟨h, by rw [beq_eq_false_iff_ne.mpr hlv]; rfl⟩

theorem odApplyBlob_attestNonce (hr : r.key ≠ D.GRANT) : s.odApplyBlob q lv r D.ATTEST_NONCE b = s.attest q.path b := by
  simp +decide only [State.odApplyBlob, hr, if_true, if_false]

theorem attest_of_length {path : Nat} (h : b.length ≠ 32) : s.attest path b = (0x1205, s) := if_pos h

end

/-- Settles O58: each row hands its write to a signal box at rest, and each entry's effect is one branch of the ladder of
`State.odApply` or `State.odApplyBlob`. -/
theorem dictionaryActions : Obligations.DictionaryActions := by
  intro src dport l e s m q v odd
  refine ⟨?_, ?_, ?_, ?_⟩
  · intro i c u k n hs hu hd hport hlen hop hm hb h0 h1 hk hlo hhi hrow hserve
    obtain ⟨p, hexec, hp⟩ : ∃ p : OdReq → Bool, (∀ s, exec i s = .next (s.odRow m e p)) ∧ p q = true := by
      rcases hrow with h | h | h | h | h | h | ⟨rfl, hc⟩
      · exact ⟨_, exec_keyRow h, odWrites_of_key hop hlo hhi⟩
      · exact exec_valueRow hop hlo hhi (.inl h)
      · exact exec_valueRow hop hlo hhi (.inr (.inl h))
      · exact exec_valueRow hop hlo hhi (.inr (.inr (.inl h)))
      · exact exec_valueRow hop hlo hhi (.inr (.inr (.inr (.inl h))))
      · exact exec_valueRow hop hlo hhi (.inr (.inr (.inr (.inr h))))
      · exact exec_chunkRow hop hc
    intro x
    rw [hexec s, odRow_write_served hs hu hd hport hlen hop hm hb h0 h1 hk hp hserve]
  · intro lv r hz hlen hoff hbool hrange
    have hsize : ¬ (q.value.length ≠ r.type.size ∨ q.offset ≠ 0 ∨ (r.type = .bool ∧ 1 < v)) :=
      not_or.mpr ⟨not_not.mpr hlen, not_or.mpr ⟨not_not.mpr hoff, fun h => hbool h.1⟩⟩
    have hwrite : s.odWrite q e lv r = s.odCommit e r q.key (odGoverns q.key (s.odApply q e r q.key v)) :=
      (odWrite_scalar hz).2.2 hsize fun g hg => absurd (hrange.symm.trans hg) (Option.some_ne_none g).symm
    refine ⟨hwrite, fun hg => ?_⟩
    rw [hwrite, show ∀ y, odGoverns q.key y = y from fun y => if_neg fun h => absurd (hg.symm.trans h.2) Bool.false_ne_true]
  · intro r x hr hline apply
    refine ⟨fun h => ?_, fun h => ?_, ?_, fun h => ?_, fun h => ?_, ?_, fun ht hx => ?_, fun hx => ?_, fun h0 hx => ?_, fun h => ?_,
      fun h => ?_, fun h hx => ?_, ?_, fun h => ?_, fun c hc h => ?_⟩
    · exact (odApply_faultAck hr hline).trans (congrArg odRefusable (if_neg (ne_true_of_eq_false h)))
    · exact (odApply_faultAck hr hline).trans (congrArg odRefusable (if_pos h))
    · exact odApply_recoveriesReset hr
    · exact (odApply_rtimeNext hline).trans (if_pos h)
    · exact (odApply_rtimeNext hline).trans (if_neg h)
    · refine odApply_acceptReduced.trans (congrArg (Prod.mk 0) ?_)
      by_cases hx : x = 1
      · subst hx
        rfl
      · exact (if_neg hx).trans (if_neg hx).symm
    · exact odApply_topoAccept.trans (congrArg odRefusable (topoAccept_of_digest ht hx))
    · exact odApply_topoAccept.trans (congrArg odRefusable (topoAccept_of_other hx))
    · exact odApply_geometryExpect.trans (congrArg (Prod.mk 0) (if_neg (not_or.mpr ⟨h0, hx⟩)))
    · exact (odApply_thermClear hline).trans (thermClear_of_moving h)
    · exact odApply_orphanRelease.trans (odRelease_of_attached h)
    · exact odApply_orphanRelease.trans (odRelease_of_reattached h hx rfl)
    · exact odApply_grantMin hr
    · exact (odApply_fwActivate hr).trans (activateLine_of_passed h)
    · exact (odApply_fwActivate hr).trans (activateSignal_of_refused hc h)
  · intro lv r k whole
    refine ⟨fun b hr hst hc h1 h2 h3 h4 h5 => ?_, fun b h => ?_, fun b h hlv => ?_, fun b hr h => ?_⟩
    · obtain ⟨c, hc⟩ := Option.ne_none_iff_exists'.mp hc
      exact (odApplyBlob_chunk hr hc h1 h2 h3 h4 h5).trans (fwChunk_of_no_upload hst)
    · exact odApplyBlob_fwHeader.trans (fwHeader_of_refused h)
    · exact odApplyBlob_ownerKey.trans (ownerKey_of_other h hlv)
    · exact (odApplyBlob_attestNonce hr).trans (attest_of_length h)

end Sys2Proof.Machine
end

section
/-! PROOFS. The field port's own answers, the signal box's timers and the I3C sideband (R482, R488, R492 to R497). -/

namespace Sys2Proof.Machine

section
variable {s : State}

/-! ## The field port's other answers -/

theorem noticeSend_of_session {n : Notice} (hr : s.dom.signalRst = false) (hu : s.sb.up = true) (hs : s.sb.session ≠ 0)
    (ho : s.sb.orphan ≠ 1) :
    s.noticeSend n = s.fieldSend (.udp s.sb.tray (odHeader 0x20 0 0 n.reqId s.sb.session 0 44 0 ++ leBytes 1 n.kind ++ [0, 0, 0]
      ++ leBytes 8 n.rtime ++ (n.detail ++ List.replicate 32 0).take 32)) :=
  if_neg (not_or.mpr ⟨ne_true_of_eq_false hr, not_or.mpr ⟨ne_false_of_eq_true hu, not_or.mpr ⟨hs, ho⟩⟩⟩)

theorem tentative_iff : s.tentative = true ↔ ∃ t, s.sb.dad = some t ∧ s.clock.run < t + 1000000000 := by
  unfold State.tentative
  cases s.sb.dad with
  | none => exact ⟨Bool.noConfusion, fun ⟨t, ht, _⟩ => absurd ht.symm (Option.some_ne_none t)⟩
  | some t => exact ⟨fun h => ⟨t, rfl, of_decide_eq_true h⟩, fun ⟨u, hu, h⟩ => decide_eq_true (Option.some.inj hu ▸ h)⟩

theorem portAnswers_of_running (hr : s.sbRuns = true) : s.portAnswers = !s.sb.dup := by
  unfold State.portAnswers
  rw [hr, Bool.true_and]

theorem segmentTimeout_of_running (hr : s.sbRuns = true) (path : Fin 2) :
    exec (.segmentTimeout path) s = .next (s.stage path none) := congrArg Host.Outcome.next (if_pos hr)

theorem icmpv6Echo_of_running (hr : s.sbRuns = true) (src : BitVec 128) (ident seq : BitVec 16) (data : List (BitVec 8)) :
    exec (.icmpv6Echo src ident seq data) s =
      .next (if s.sb.dup = true then s else s.fieldSend (.echoReply src.toNat ident.toNat seq.toNat data)) := by
  show Host.Outcome.next (if s.portAnswers = true then _ else s) = _
  rw [portAnswers_of_running hr]
  cases s.sb.dup <;> rfl

/-- A question for another address, or at an address given up, is not answered. -/
theorem neighborSolicitation_of_deaf (hr : s.sbRuns = true) {src target : BitVec 128} (h : s.sb.dup = true ∨ target.toNat ≠ s.linkLocal) :
    exec (.neighborSolicitation src target) s = .next s := by
  refine congrArg Host.Outcome.next (if_pos (h.imp_left fun hd => ?_))
  rw [portAnswers_of_running hr, hd]
  rfl

theorem neighborSolicitation_of_own (hr : s.sbRuns = true) {src target : BitVec 128} (hd : s.sb.dup = false)
    (ht : target.toNat = s.linkLocal) :
    exec (.neighborSolicitation src target) s = .next
      (if src.toNat ≠ 0 then s.fieldSend (.advertisement src.toNat s.linkLocal)
      else if s.tentative = true then s.sbMod fun b => { b with dup := true }
      else s.fieldSend (.advertisement (0xFF02 * 2 ^ 112 + 1) s.linkLocal)) := by
  refine congrArg Host.Outcome.next (if_neg (not_or.mpr ⟨?_, not_not.mpr ht⟩))
  rw [portAnswers_of_running hr, hd]
  decide

/-! ## The orphan timer -/

/-- With an orphan cap set, the cap's estimate comes down to the package's maximum and the session ends (R492). -/
theorem orphanTimeout_of_cap (hr : s.sbRuns = true) (ho : s.sb.orphan ≠ 1) (hc : s.od D.ORPHAN_CAP_W ≠ 0) :
    let t := s.govMod fun g => { g with orphan := s.od D.ORPHAN_CAP_W, eOrphan := min g.eOrphan (100 * pMax) }
    let u := (t.fset R.PWR_CAPS_ORPHAN_CAP (wattsUp t.gov.eOrphan)).sbMod fun b =>
      { b with session := 0, kept := vput b.kept 0 [], orphan := 1 }
    exec .orphanTimeout s =
      .next ((u.sbBump R.SB_EVENTS_ORPHANS R.SB_FLAGS_ORPHANS_OVF).orphanEvent 1 s.sb.session) := by
  intro t u
  show execOrphanTimeout s = _
  unfold execOrphanTimeout
  rw [if_neg (not_or.mpr ⟨ne_true_of_eq_false (congrArg not hr), ho⟩)]
  dsimp only
  rw [if_neg hc]

end

/-! ## The I3C target -/

section
variable {s : State} (hp : s.dom.powered = true)
include hp

theorem i3cMod_of_powered (f : I3c → I3c) : s.i3cMod f = { s with i3c := f s.i3c } := if_pos hp

theorem cccAnswer_of_own {a : BitVec 7} (h : s.i3c.dyn = some a.toNat) (l : List Byte) :
    s.cccAnswer a l = { s with i3c := { s.i3c with out := l } } :=
  (if_pos (beq_iff_eq.mpr h)).trans (i3cMod_of_powered hp _)

/-- The mirror is formed whole, and a watched flag that has risen raises an IBI where they are enabled (R495, R496). -/
theorem mirrorRefresh_eq :
    let t : State := { s with i3c := { s.i3c with refresh := (s.i3c.refresh + 1) % 2 ^ 32 } }
    let now := t.mirrorFlags
    let x := { t.i3c with mirror := t.snapshot, wasFlags := now &&& ibiMask }
    exec .mirrorRefresh s = .next { t with i3c :=
      if t.i3c.ibiEn = true ∧ (now &&& ibiMask) ||| t.i3c.wasFlags ≠ t.i3c.wasFlags then
        { x with ibi := some (now % 256), raised := x.raised + 1 }
      else x } := by
  intro t now x
  show execMirrorRefresh s = _
  unfold execMirrorRefresh
  rw [i3cMod_of_powered hp]
  exact congrArg Host.Outcome.next (i3cMod_of_powered (s := t) hp _)

end

section
variable {s : State} {a : BitVec 7}

theorem cccHit_of_other (h : s.i3c.dyn ≠ some a.toNat) : s.cccHit (some a) = false := beq_eq_false_iff_ne.mpr h

theorem cccAnswer_of_other (h : s.i3c.dyn ≠ some a.toNat) (l : List Byte) : s.cccAnswer a l = s :=
  if_neg (ne_true_of_eq_false (cccHit_of_other h))

/-- A direct CCC to another address leaves the target as it is. -/
theorem directCcc_of_other (h : s.i3c.dyn ≠ some a.toNat) {c : Instr}
    (hc : c ∈ [Instr.getpid a, .getbcr a, .getdcr a, .getmwl a, .getmrl a, .getstatus a, .enec (some a) 1, .disec (some a) 1]) :
    exec c s = .next s := by
  have hhit := ne_true_of_eq_false (cccHit_of_other h)
  simp only [List.mem_cons, List.not_mem_nil, or_false] at hc
  rcases hc with rfl | rfl | rfl | rfl | rfl | rfl | rfl | rfl
  · exact congrArg Host.Outcome.next (cccAnswer_of_other h _)
  · exact congrArg Host.Outcome.next (cccAnswer_of_other h _)
  · exact congrArg Host.Outcome.next (cccAnswer_of_other h _)
  · exact congrArg Host.Outcome.next (cccAnswer_of_other h _)
  · exact congrArg Host.Outcome.next (cccAnswer_of_other h _)
  · exact congrArg Host.Outcome.next (if_neg hhit)
  · exact congrArg Host.Outcome.next (if_neg fun hand => hhit hand.1)
  · exact congrArg Host.Outcome.next (if_neg fun hand => hhit hand.1)

/-- GETSTATUS answers two free bytes: one value is drawn. -/
theorem getstatus_of_own (hp : s.dom.powered = true) (h : s.i3c.dyn = some a.toNat) :
    exec (.getstatus a) s =
      .next { s with freeCtr := s.freeCtr + 1, i3c := { s.i3c with out := leBytes 2 (Config.freeValue s.freeCtr).toNat } } := by
  refine congrArg Host.Outcome.next ((if_pos (beq_iff_eq.mpr h)).trans ?_)
  exact cccAnswer_of_own (s := { s with freeCtr := s.freeCtr + 1 }) hp h _

end

/-- Settles O59: each answer is one branch of its command, with the target powered and the signal box running where the statement
says so. -/
theorem portAndSideband : Obligations.PortAndSideband := by
  intro s hp taking
  refine ⟨rfl, fun x => ⟨fun h => if_pos h, fun h => if_neg (ne_true_of_eq_false h)⟩, rfl,
    fun n hr hu hs ho => noticeSend_of_session hr hu hs ho, fun hr => ⟨?_, ?_, ?_, ?_, ?_⟩, ⟨?_, ?_⟩, ?_, ?_, ?_, ?_, ?_⟩
  · exact fun path => segmentTimeout_of_running hr path
  · intro src ident seq data hd
    rw [icmpv6Echo_of_running hr, if_neg (ne_true_of_eq_false hd)]
  · intro src ident seq data hd
    rw [icmpv6Echo_of_running hr, if_pos hd]
  · intro src target awaited
    refine ⟨fun hd ht => ?_, neighborSolicitation_of_deaf hr⟩
    rw [neighborSolicitation_of_own hr hd ht]
    refine ⟨fun h => ?_, fun h ha => ?_, fun h ha => ?_⟩
    · rw [if_pos h]
    · rw [if_neg (not_not.mpr h), if_pos (tentative_iff.mpr ha)]
    · rw [if_neg (not_not.mpr h), if_neg fun ht => ha (tentative_iff.mp ht)]
  · exact fun ho hc => orphanTimeout_of_cap hr ho hc
  · intro hen hrose
    exact (mirrorRefresh_eq hp).trans (congrArg (fun y => Host.Outcome.next { s with i3c := y }) (if_pos ⟨hen, hrose⟩))
  · intro hno
    refine (mirrorRefresh_eq hp).trans (congrArg (fun y => Host.Outcome.next { s with i3c := y }) (if_neg ?_))
    rintro ⟨hen, hrose⟩
    rcases hno with h | h
    · exact absurd (h.symm.trans hen) Bool.false_ne_true
    · exact h hrose
  · exact fun hen hibi => congrArg Host.Outcome.next ((if_pos ⟨hen, hibi⟩).trans (i3cMod_of_powered hp _))
  · intro a ha
    exact ⟨fun b l => congrArg Host.Outcome.next ((if_pos ha).trans (i3cMod_of_powered hp _)),
      fun n => congrArg Host.Outcome.next ((if_pos ha).trans (i3cMod_of_powered hp _))⟩
  · intro a dyn
    refine ⟨fun ha hd => ?_, fun hd => ?_, ?_, fun hd => ?_⟩
    · exact congrArg Host.Outcome.next ((if_pos ⟨ha, hd⟩).trans (i3cMod_of_powered hp _))
    · exact congrArg Host.Outcome.next ((if_pos hd).trans (i3cMod_of_powered hp _))
    · exact congrArg Host.Outcome.next (i3cMod_of_powered hp _)
    · refine ⟨?_, ?_, ?_, ?_, ?_, ?_, ?_⟩
      · exact congrArg Host.Outcome.next ((if_pos (beq_iff_eq.mpr hd)).trans (i3cMod_of_powered hp _))
      · exact congrArg Host.Outcome.next (cccAnswer_of_own hp hd _)
      · exact congrArg Host.Outcome.next (cccAnswer_of_own hp hd _)
      · exact congrArg Host.Outcome.next (cccAnswer_of_own hp hd _)
      · exact congrArg Host.Outcome.next (cccAnswer_of_own hp hd _)
      · exact congrArg Host.Outcome.next (cccAnswer_of_own hp hd _)
      · exact ⟨_, _, { s with freeCtr := s.freeCtr + 1 }, rfl, getstatus_of_own hp hd⟩
  · intro a v ha hv
    exact ⟨congrArg Host.Outcome.next ((if_pos ⟨ha, hv⟩).trans (i3cMod_of_powered hp _)),
      congrArg Host.Outcome.next ((if_pos ⟨ha, hv⟩).trans (i3cMod_of_powered hp _))⟩
  · exact fun a c hd hc => directCcc_of_other hd hc

end Sys2Proof.Machine
end
